-- ==== Sys2Proof/Word.lean ====
section
/-! DEFINITION. Words and bytes, and the sparse tables that hold numbered things. -/

namespace Sys2Proof

/-- A register of the device: 64 bits (R8). -/
abbrev Word := BitVec 64

/-- One byte of memory, of a frame or of a descriptor. -/
abbrev Byte := BitVec 8

/-- A finite table of numbered entries, numbers rising. An unlisted number has no entry. -/
abbrev Tab (α : Type) := List (Nat × α)

end Sys2Proof
end

