-- ==== Sys2Proof/Syntax.lean ====
section
/-! DEFINITION. The commands of the block: one constructor for each row of spec/opcode_table.json, with the operands that
the row's event brings from outside the device. -/

namespace Sys2Proof

/-- What a read of host memory brings: the bytes, a timeout, or a refusal after some bytes (R373, R374). -/
inductive HostRead where
  | data (b : List Byte)
  | timeout
  | denied (before : List Byte)
deriving DecidableEq, Repr

/-- What another node says of its copy of a region when epochs are exchanged (R322, R341): address node, base granule, role, epoch and
failure-domain tag. -/
structure PeerEntry where
  addrNode : Nat
  base : Nat
  role : Nat
  epoch : Nat
  fdTag : Nat
deriving DecidableEq, Repr

/-- A message of a Rhumb flit (R346, R347): whether it is a request, its opcode, its status where it is a response, its flags, source and
destination nodes, engine, tag, hops so far, epoch, key, fabric address, and what follows its header. -/
structure FabMsg where
  request : Bool
  opcode : Nat
  status : Nat
  flags : Nat
  src : Nat
  dst : Nat
  engine : Nat
  tag : Nat
  hops : Nat
  epoch : Nat
  key : Nat
  faddr : Nat
  data : List Byte
deriving DecidableEq, Repr

/-- A U-plane section as received (R226, R234, R239): its first PRB, its PRB count, udCompMeth and udIqWidth where it carries a udCompHdr, the
exponents of its PRBs, and its mantissas or samples, I then Q for each resource element. -/
structure FhSection where
  prb : Nat
  nprb : Nat
  comp : Option (Nat × Nat)
  exps : List Nat
  vals : List Int
deriving DecidableEq, Repr

/-- The content of a fronthaul frame (R225 to R227): whether it is RoE; for eCPRI the revision, C, message type, whether the payload length
agrees with the frame, the eAxC ID, the sequence number, dataDirection, frame, subframe, slot and symbol IDs, and the sections; for RoE
whether the subtype is the native time-domain mapper, the flow ID, orderingInfo and the samples. -/
structure FhFrame where
  roe : Bool
  rev : Nat
  concat : Bool
  msg : Nat
  lenOk : Bool
  native : Bool
  id : Nat
  seq : Nat
  dir : Nat
  frame : Nat
  subframe : Nat
  slot : Nat
  sym : Nat
  sections : List FhSection
  orderNs : Nat
  samples : List Int
deriving DecidableEq, Repr

/-- Where an uncorrectable SRAM error lies (R300): a scratchpad bank or the staging with a domain's byte offset, or a symbol of a cell slot's
stream in the radio buffers with its unit. With `correctedOnly` there is none, only words that were corrected. -/
inductive SramPlace where
  | scratch (bank dom off : Nat)
  | staging (dom off : Nat)
  | radio (cell n sym stream : Nat) (prach : Bool) (unit : Nat)
  | correctedOnly
deriving DecidableEq, Repr

/-- The SecTAG of a received frame (R386): SCI, AN, packet number, the bytes of tag and ICV, and whether the ICV verifies. -/
structure EthSec where
  sci : Nat
  an : Nat
  pn : Nat
  overhead : Nat
  icvOk : Bool
deriving DecidableEq, Repr

/-- A received Ethernet frame: its bytes from the destination address to the end of the payload, with the SecTAG removed and the payload in
clear, whether the FCS is right, its SecTAG, its fronthaul content where it has some, and whether it found the receive FIFO full. -/
structure EthFrame where
  data : List Byte
  fcsOk : Bool
  sec : Option EthSec
  fh : Option FhFrame
  full : Bool
deriving DecidableEq, Repr

/-- The content of a PTP message or an ESMC PDU that the Meridian claims (R466, R467, R470), times in 2^−16 ns: a Sync with its origin
timestamp, correction and two-step flag, its Follow_Up, a Delay_Req with its sequence number, a Delay_Resp, an Announce with its
data set, utcOffset and clock class, unicast negotiation, and an ESMC PDU with its QL. -/
inductive PtpMsg where
  | sync (origin : Nat) (corr : Int) (twoStep : Bool)
  | followUp (origin : Nat) (corr : Int)
  | delayReq (seq : Nat) (corr : Int)
  | delayResp (receive : Nat) (corr : Int)
  | announce (dataset : List Nat) (utcOffset clockClass : Nat)
  | signaling (data : List Byte)
  | esmc (ql : Nat)
deriving DecidableEq, Repr

/-- An event-log entry (R507): what its 64 bytes hold but the CRC, and the device time at which it was made. -/
structure LogEntry where
  seq : Nat
  sec : Nat
  ns : Nat
  timeValid : Bool
  fault : Bool
  sev : Nat
  uptimeMs : Nat
  cause : Nat
  body : List Byte
  madeAt : Nat
deriving DecidableEq, Repr

/-- A section of an image (R481): its table entry, whether its bytes hash to DIGEST, and what it gives: register address, index and value. -/
structure ImgSection where
  cls : Nat
  idx : Nat
  offset : Nat
  length : Nat
  digest : Nat
  digestOk : Bool
  vals : List (Nat × Nat × Nat)
deriving DecidableEq, Repr

/-- An image (R480): the fields of its header, whether its RSV fields and padding are zero, its sections, the digest of the public key that it
embeds, and whether its signature verifies under that key. -/
structure Image where
  magic : Nat
  kind : Nat
  format : Nat
  nsect : Nat
  version : Nat
  floorSet : Nat
  peerMin : Nat
  size : Nat
  pkOffset : Nat
  part : Nat
  stepping : Nat
  rack : Nat
  rsvZero : Bool
  sections : List ImgSection
  keyDigest : Nat
  sigOk : Bool
deriving DecidableEq, Repr

/-- A boot header (R488) whose MAGIC and CRC are right; 7 stands for no slot. -/
structure BootHdr where
  seq : Nat
  cur : Nat
  prev : Nat
  staged : Nat
  factory : Nat
  trial : Bool
  stagedValid : Bool
  rejected : Bool
  tries : Nat
  tryLimit : Nat
deriving DecidableEq, Repr

/-- A part and the flash on its card as they are when power first rises: vendor and serial number, the floor rows and key rows of the fuses
(a key row with its digest and whether it is revoked), the fuse repair records of tiles, the fuse layer of the map; whether the flash
offers what R477 asks, its two boot headers, its slots, its wrapped keys as domain, key and owner digest, and its log mirror. -/
structure DevParts where
  vendor : Nat
  serial : Nat
  fwFloors : List Nat
  cfgFloors : List Nat
  wenov : List (Nat × Bool)
  owners : List (Nat × Bool)
  tiles : List (Nat × Nat)
  mapFuse : List Nat
  flashOk : Bool
  hdrA : Option BootHdr
  hdrB : Option BootHdr
  slots : List (Option Image × Option Image)
  wrapped : List (Nat × Nat × Nat)
  log : List LogEntry
deriving DecidableEq, Repr

/-- A window through which the host reaches registers (R355): BAR 0 of PF 0, BAR 0 of PF 1, or the instance pages of BAR 2 over a link. -/
inductive Bar where
  | bar0
  | pf1
  | pages (link : Nat)
deriving DecidableEq, Repr

/-- What the read of a command buffer that holds images brings (R495). -/
inductive ImageRead where
  | images (l : List Image)
  | failed
deriving DecidableEq, Repr

/-- A CANCEL: its command identifier, and for a target that is not fetched how many published entries of the submission queue stand before it
(R136). -/
structure CancelOf where
  cid : Nat
  pos : Option Nat
deriving DecidableEq, Repr

/-- The end of a retrain: the port, and its lanes that hold lock then (R349). -/
structure RetrainEnd where
  port : Nat
  lanes : Nat
deriving DecidableEq, Repr

/-- What comes from outside when a register write starts an action (R10): what the node of a MIRROR entry answers to a region commit, what
the read of a command buffer brings as bytes and as images, whether the flash takes the writes, the digest of an owner key and whether
the newest row's signature follows it, whether a unit passes its self-test, and how bus port 1 recovers. -/
structure WriteBrings where
  peer : Option Nat
  block : HostRead
  images : ImageRead
  flashOk : Bool
  owner : Option Nat
  sigOk : Bool
  passed : Bool
  pulses : Option Nat
  afterStop : Bool
deriving DecidableEq, Repr

/-- The commands that the block takes (spec/opcode_table.json). -/
inductive Instr where
  /-- REGISTER_WRITE (R10). -/
  | registerWrite (bar : Bar) (off value size : Nat) (brings : WriteBrings)
  /-- BAD_ACCESS (R9). -/
  | badAccess (bar : Bar) (off size : Nat) (write : Bool)
  /-- RC_READ (R12). -/
  | rcRead (bar : Bar) (off size : Nat)
  /-- POWER_ON (R597). -/
  | powerOn (parts : DevParts)
  /-- DEVICE_BOOT (R491). -/
  | deviceBoot (trained speed0 width0 speed1 width1 : Nat)
  /-- RAIL_SAMPLE (R597). -/
  | railSample (ok : Bool)
  /-- PLANNED_REMOVAL (R599). -/
  | plannedRemoval
  /-- SUPPLY_LOSS (R599). -/
  | supplyLoss
  /-- CLOCK_LOSS (R591). -/
  | clockLoss (kind idx : Nat) (rx : List (Nat × EthFrame × Nat))
  /-- D2D_FAULT (R28). -/
  | d2dFault
  /-- ARRAY_GRANT (R174). -/
  | arrayGrant
  /-- ARRAY_BOUNDARY (R86). -/
  | arrayBoundary
  /-- ARRAY_CMD_COMPLETE (R130). -/
  | arrayCmdComplete
  /-- ARRAY_FAULT (R133). -/
  | arrayFault (kind unit : Nat)
  /-- FUSE_DATA_READ (R104). -/
  | fuseDataRead (size : Nat)
  /-- VECTOR_GRANT (R174). -/
  | vectorGrant
  /-- VECOP_COMPLETE (R153). -/
  | vecopComplete
  /-- ATTN_SEGMENT_COMPLETE (R165). -/
  | attnSegmentComplete
  /-- KV_PAGE_FETCH (R162). -/
  | kvPageFetch (run idx : Nat)
  /-- KV_PAGE_COMPLETE (R162). -/
  | kvPageComplete (run idx page : Nat) (ce ue : List Nat)
  /-- RING_FETCH (R367). -/
  | ringFetch (ring : Nat) (entry : HostRead)
  /-- RING_SERVICE_PASS (R559). -/
  | ringServicePass (ring : Nat)
  /-- NOP (R369). -/
  | nop (ring cid : Nat)
  /-- HCOPY (R369). -/
  | hcopy (ring cid : Nat)
  /-- RUN_CHART (R111). -/
  | runChart (ring cid : Nat)
  /-- RUN_START (R123). -/
  | runStart
  /-- LOAD_CHART (R603). -/
  | loadChart (ring cid : Nat)
  /-- LOAD_CHART_CHECKS (R603). -/
  | loadChartChecks (chart : Nat)
  /-- UNLOAD_CHART (R108). -/
  | unloadChart (ring cid : Nat)
  /-- CANCEL (R136). -/
  | cancel (ring : Nat) (of_ : CancelOf)
  /-- COMMAND_DISPATCH (R115). -/
  | commandDispatch (run : Nat)
  /-- TRANSFER_START (R129). -/
  | transferStart (run idx : Nat)
  /-- TRANSFER_COMPLETE (R128). -/
  | transferComplete (run idx : Nat) (ce ue : List Nat)
  /-- RUN_COMPLETE (R132). -/
  | runComplete (run : Nat)
  /-- WAYPOINT_POST (R448). -/
  | waypointPost (run : Nat)
  /-- HALT_CAPTURE (R455). -/
  | haltCapture (run : Nat) (ok : Bool)
  /-- QUANTUM_WRITE (R178). -/
  | quantumWrite (value : Nat)
  /-- ADMIT_CTRL_WRITE (R199). -/
  | admitCtrlWrite (value : Nat)
  /-- CAL_COMMIT (R193). -/
  | calCommit
  /-- CAL_DISABLE (R199). -/
  | calDisable
  /-- CAL_PERIOD_BOUNDARY (R191). -/
  | calPeriodBoundary
  /-- STRICT_ENTRY_START (R192). -/
  | strictEntryStart
  /-- RES_SWITCH_START (R195). -/
  | resSwitchStart
  /-- RES_SWITCH_COMPLETE (R195). -/
  | resSwitchComplete
  /-- CELL_ASSIGN_WRITE (R204). -/
  | cellAssignWrite (value : Nat)
  /-- CELL_CONFIG (R204). -/
  | cellConfig (ring cid : Nat) (block : HostRead)
  /-- CELL_START (R204). -/
  | cellStart (ring cid : Nat)
  /-- CELL_STOP (R204). -/
  | cellStop (ring cid : Nat)
  /-- SLOT (R211). -/
  | slot (ring cid : Nat) (list : HostRead)
  /-- FH_STATS (R252). -/
  | fhStats (ring cid : Nat)
  /-- HARQ_FLUSH (R274). -/
  | harqFlush (ring cid : Nat)
  /-- SLOT_BOUNDARY (R204). -/
  | slotBoundary (cell : Nat)
  /-- PHASE_RELEASE (R208). -/
  | phaseRelease (cell n phase : Nat)
  /-- ETH_FRAME_RECEIVE (R390). -/
  | ethFrameReceive (subport : Nat) (frame : EthFrame)
  /-- RX_MEM_WAIT_EXPIRE (R395). -/
  | rxMemWaitExpire (subport : Nat) (frame : EthFrame) (written : Nat)
  /-- SYMBOL_HANDOFF (R237). -/
  | symbolHandoff (cell n sym : Nat)
  /-- AGC_BLOCK_END (R244). -/
  | agcBlockEnd (cell stream : Nat)
  /-- PRACH_PERIOD_END (R249). -/
  | prachPeriodEnd (cell n item stream period : Nat)
  /-- PRACH_DETECT (R250). -/
  | prachDetect (cell n item : Nat)
  /-- CPLANE_EMIT (R238). -/
  | cplaneEmit (cell n sym : Nat) (up : Bool)
  /-- UPLANE_EMIT (R238). -/
  | uplaneEmit (cell n sym : Nat)
  /-- GRANT_WRITE (R230). -/
  | grantWrite (value : Nat)
  /-- CHANNEL_ESTIMATE (R261). -/
  | channelEstimate (cell n item : Nat)
  /-- EQUALIZE (R265). -/
  | equalize (cell n sym : Nat)
  /-- CODE_BLOCK_DECODE (R278). -/
  | codeBlockDecode
  /-- CODE_BLOCK_DECODED (R277). -/
  | codeBlockDecoded (cell n item cb : Nat)
  /-- POLAR_JOB (R280). -/
  | polarJob
  /-- PUCCH_DETECT (R281). -/
  | pucchDetect (cell n item : Nat)
  /-- ENCODE_CB (R282). -/
  | encodeCb (cell n item cb : Nat) (block : HostRead)
  /-- PRECODE (R285). -/
  | precode (cell n item : Nat)
  /-- RADIO_ENGINE_PARITY (R286). -/
  | radioEngineParity (cls unit cell n item : Nat)
  /-- DECOMP_PARITY (R253). -/
  | decompParity (cell n sym : Nat)
  /-- FFT_PARITY (R253). -/
  | fftParity (cell n sym : Nat)
  /-- PRACH_PARITY (R253). -/
  | prachParity (cell n item : Nat)
  /-- SCRUB_READ (R298). -/
  | scrubRead (result : Nat)
  /-- CORRECTED_REWRITE (R299). -/
  | correctedRewrite (dom off : Nat)
  /-- SRAM_UE (R300). -/
  | sramUe (place : SramPlace) (corrected : Nat)
  /-- STACK_LOSS (R311). -/
  | stackLoss (stack : Nat)
  /-- FLOAD (R327). -/
  | fload (ring cid : Nat)
  /-- FSTORE (R327). -/
  | fstore (ring cid : Nat)
  /-- FATOMIC (R332). -/
  | fatomic (ring cid : Nat)
  /-- FINVAL (R334). -/
  | finval (ring cid : Nat)
  /-- FFENCE (R331). -/
  | ffence (ring cid : Nat)
  /-- FOWN (R343). -/
  | fown (ring cid : Nat)
  /-- FKEY (R323). -/
  | fkey (ring cid : Nat)
  /-- FABRIC_REQUEST_RECEIVE (R324). -/
  | fabricRequestReceive (node engine tag kind op addr len key epoch : Nat) (fill : Bool) (data : List Byte)
  /-- MIRROR_FORWARD (R340). -/
  | mirrorForward (node engine tag addr key epoch : Nat) (data : List Byte)
  /-- INVALIDATION_RECEIVE (R334). -/
  | invalidationReceive (node engine tag addr len : Nat)
  /-- FABRIC_RESPONSE (R328). -/
  | fabricResponse (op node status flags : Nat) (data : List Byte) (peers : List PeerEntry)
  /-- FABRIC_OP_TIMEOUT (R345). -/
  | fabricOpTimeout (op : Nat)
  /-- QUARANTINE_EXPIRE (R345). -/
  | quarantineExpire (fabric : Bool) (id : Nat)
  /-- PROBE_TIMER (R320). -/
  | probeTimer (node : Nat)
  /-- LEASE_EXPIRE (R335). -/
  | leaseExpire (node : Nat)
  /-- SHARER_DROP (R335). -/
  | sharerDrop (home node : Nat)
  /-- REGION_FETCH (R352). -/
  | regionFetch (value : Nat)
  /-- REGION_COMMIT (R322). -/
  | regionCommit (value : Nat) (fd : Option Nat)
  /-- BEARING_FETCH (R352). -/
  | bearingFetch (value : Nat)
  /-- BEARING_COMMIT (R318). -/
  | bearingCommit (value : Nat)
  /-- FAB_CTRL_WRITE (R335). -/
  | fabCtrlWrite (value : Nat)
  /-- WIDEN (R349). -/
  | widen (port : Nat)
  /-- FLIT_RECEIVE (R348). -/
  | flitReceive (port seq ack kind : Nat) (crcOk tagOk : Bool) (msgs : List FabMsg)
  /-- RHUMB_LANE_LOSS (R349). -/
  | rhumbLaneLoss (port lanes : Nat)
  /-- RHUMB_RETRAIN_DONE (R349). -/
  | rhumbRetrainDone (ends : RetrainEnd)
  /-- LINK_TRAIN (R431). -/
  | linkTrain (port peer lock : Nat) (auth : Bool)
  /-- LINK_KEY_UPDATE (R431). -/
  | linkKeyUpdate (port : Nat)
  /-- CREATE_INSTANCE (R358). -/
  | createInstance (block : HostRead)
  /-- DESTROY_INSTANCE (R360). -/
  | destroyInstance (block : HostRead)
  /-- ALLOC_RING (R361). -/
  | allocRing (block : HostRead)
  /-- FREE_RING (R361). -/
  | freeRing (block : HostRead)
  /-- RESET_INSTANCE (R358). -/
  | resetInstance (block : HostRead)
  /-- DOORBELL (R366). -/
  | doorbell (inst loc value link : Nat)
  /-- RING_ENABLE (R363). -/
  | ringEnable (inst loc value link : Nat)
  /-- RING_DISABLE (R363). -/
  | ringDisable (inst loc value link : Nat)
  /-- IRQ_COAL_TIMER (R371). -/
  | irqCoalTimer (ring : Nat)
  /-- DMA_COMPLETION (R373). -/
  | dmaCompletion (job : Nat) (result : HostRead)
  /-- DMA_TIMEOUT (R374). -/
  | dmaTimeout (job : Nat)
  /-- ATS_INVALIDATION (R373). -/
  | atsInvalidation (link pasid addr len : Nat)
  /-- INST_CTRL_RESET (R375). -/
  | instCtrlReset (inst link : Nat)
  /-- CONTEXT_RESET (R375). -/
  | contextReset (inst : Nat)
  /-- CONTEXT_RESET_DONE (R375). -/
  | contextResetDone (inst : Nat) (slow : Bool)
  /-- FLR (R378). -/
  | flr (function : Nat)
  /-- PCIE_LINK_RESET (R557). -/
  | pcieLinkReset (link speed width : Nat)
  /-- QUEUE_STATE_UE (R549). -/
  | queueStateUe (ring : Nat)
  /-- HELM_CORE (R169). -/
  | helmCore (core pc : Nat)
  /-- ENGINE_PARITY (R550). -/
  | engineParity (fabric : Bool) (engine : Nat)
  /-- CONTROL_UE (R549). -/
  | controlUe
  /-- TX_POLL (R404). -/
  | txPoll (queue : Nat)
  /-- EGRESS_SELECT (R399). -/
  | egressSelect (subport : Nat)
  /-- WHEEL_RELEASE (R402). -/
  | wheelRelease (queue : Nat)
  /-- Q_COMMIT (R403). -/
  | qCommit (value : Nat)
  /-- TELEMETRY_SAMPLE (R407). -/
  | telemetrySample
  /-- ETH_LANE_LOSS (R383). -/
  | ethLaneLoss (port lane : Nat) (rx : Option (EthFrame × Nat))
  /-- SUBPORT_UP (R383). -/
  | subportUp (subport : Nat)
  /-- REFORM (R383). -/
  | reform (port : Nat)
  /-- STEER_WRITE (R391). -/
  | steerWrite (value : Nat)
  /-- POLICER_WRITE (R398). -/
  | policerWrite (value : Nat)
  /-- PRING_WRITE (R393). -/
  | pringWrite (value : Nat)
  /-- FIFO_PARITY (R408). -/
  | fifoParity (subport : Nat) (frame : EthFrame) (written : Nat)
  /-- GET_VERSION (R419). -/
  | getVersion
  /-- GET_CAPABILITIES (R419). -/
  | getCapabilities
  /-- NEGOTIATE_ALGORITHMS (R419). -/
  | negotiateAlgorithms (offered : Bool)
  /-- GET_DIGESTS (R419). -/
  | getDigests
  /-- GET_CERTIFICATE (R420). -/
  | getCertificate (slot len : Nat)
  /-- CHALLENGE (R419). -/
  | challenge (slot : Nat)
  /-- GET_MEASUREMENTS (R432). -/
  | getMeasurements (session : Option Nat) (aeadOk : Bool) (index : Nat)
  /-- KEY_EXCHANGE (R419). -/
  | keyExchange (ok : Bool)
  /-- FINISH (R422). -/
  | finish (session : Nat) (authOk : Bool) (keyDigest : Nat)
  /-- HEARTBEAT (R419). -/
  | heartbeat (session : Nat) (aeadOk : Bool)
  /-- KEY_UPDATE (R419). -/
  | keyUpdate (session : Nat) (aeadOk : Bool)
  /-- END_SESSION (R423). -/
  | endSession (session : Nat) (aeadOk : Bool)
  /-- SESSION_IDLE_TIMEOUT (R419). -/
  | sessionIdleTimeout (session : Nat)
  /-- DOM_KEY_SET (R424). -/
  | domKeySet (session : Nat) (aeadOk : Bool) (req : List Byte)
  /-- DOM_KEY_GEN (R424). -/
  | domKeyGen (session : Nat) (aeadOk : Bool) (req : List Byte)
  /-- DOM_KEY_CLEAR (R424). -/
  | domKeyClear (session : Nat) (aeadOk : Bool) (req : List Byte)
  /-- SAK_SET (R424). -/
  | sakSet (session : Nat) (aeadOk : Bool) (req : List Byte)
  /-- SAK_CLEAR (R424). -/
  | sakClear (session : Nat) (aeadOk : Bool) (req : List Byte)
  /-- SA_STATUS (R424). -/
  | saStatus (session : Nat) (aeadOk : Bool) (req : List Byte)
  /-- SET_NOTICE_RING (R430). -/
  | setNoticeRing (session : Nat) (aeadOk : Bool) (req : List Byte)
  /-- SC_ASSIGN_WRITE (R428). -/
  | scAssignWrite (value : Nat)
  /-- RECKON_WRITE (R453). -/
  | reckonWrite (inst loc value link : Nat)
  /-- SEED_WRITE (R453). -/
  | seedWrite (inst loc value link : Nat)
  /-- PTP_FRAME_RECEIVE (R462). -/
  | ptpFrameReceive (subport : Nat) (msg : PtpMsg)
  /-- PTP_TX_TIMER (R466). -/
  | ptpTxTimer (subport kind : Nat)
  /-- ESMC_TX_TIMER (R470). -/
  | esmcTxTimer
  /-- QL_TIMEOUT (R470). -/
  | qlTimeout (subport : Nat)
  /-- SOURCE_LOST (R465). -/
  | sourceLost (noAnnounce : Bool)
  /-- HOLD_EXPIRED (R465). -/
  | holdExpired
  /-- PPS_EDGE (R471). -/
  | ppsEdge (withStep : Bool)
  /-- PPS_OUT_EDGE (R471). -/
  | ppsOutEdge
  /-- LATCH (R475). -/
  | latch (value : Nat)
  /-- SET (R463). -/
  | set (value : Nat)
  /-- STEP (R463). -/
  | step (value : Nat)
  /-- STAGE (R495). -/
  | stage (images : ImageRead) (flashOk : Bool)
  /-- ACTIVATE_RESET (R495). -/
  | activateReset
  /-- ACTIVATE_LIVE (R497). -/
  | activateLive
  /-- CONFIRM (R487). -/
  | confirm
  /-- ROLLBACK_RESET (R495). -/
  | rollbackReset
  /-- ROLLBACK_LIVE (R495). -/
  | rollbackLive
  /-- ABORT (R498). -/
  | abort
  /-- WRITE_FACTORY (R495). -/
  | writeFactory (images : ImageRead) (flashOk : Bool)
  /-- OWNER_KEY (R495). -/
  | ownerKey (digest : Option Nat) (sigOk : Bool)
  /-- LIVE_UPDATE_UNIT (R498). -/
  | liveUpdateUnit (outcome : Nat)
  /-- LOCKSTEP_DISAGREE (R502). -/
  | lockstepDisagree (pc : Nat)
  /-- SENSOR_SAMPLE (R504). -/
  | sensorSample (readings : List Nat)
  /-- HELD_RESET_START (R506). -/
  | heldResetStart
  /-- LOG_MIRROR_WRITE (R508). -/
  | logMirrorWrite (flashOk : Bool)
  /-- MIRROR_NOW (R528). -/
  | mirrorNow (flashOk : Bool)
  /-- LOG_FAILED (R510). -/
  | logFailed
  /-- LOG_SEL_WRITE (R509). -/
  | logSelWrite (value : Nat)
  /-- LOG_FETCH_DONE (R509). -/
  | logFetchDone (crcOk : Bool)
  /-- REQUEST_UPDATE (R513). -/
  | requestUpdate
  /-- PLDM_TRANSFER (R513). -/
  | pldmTransfer (component : Nat) (image : Option Image) (flashOk : Bool)
  /-- VERIFY_COMPLETE (R513). -/
  | verifyComplete
  /-- ACTIVATE_FIRMWARE (R513). -/
  | activateFirmware (selfContained : Bool)
  /-- CANCEL_UPDATE (R513). -/
  | cancelUpdate
  /-- PLDM_TIMEOUT (R513). -/
  | pldmTimeout
  /-- BUS_POLL (R515). -/
  | busPoll (statuses : List Nat)
  /-- BUS_RECOVERY (R516). -/
  | busRecovery (pulses : Option Nat) (afterStop : Bool)
  /-- RECOVER (R516). -/
  | recover (pulses : Option Nat) (afterStop : Bool)
  /-- SCL_LOW_TIMEOUT (R517). -/
  | sclLowTimeout
  /-- BYPASS (R518). -/
  | bypass
  /-- IDCODE (R518). -/
  | idcode
  /-- SAMPLE_PRELOAD (R518). -/
  | samplePreload
  /-- EXTEST (R518). -/
  | extest
  /-- CLAMP (R518). -/
  | clamp
  /-- HIGHZ (R518). -/
  | highz
  /-- TILE_TEST (R521). -/
  | tileTest (ring cid : Nat)
  /-- ENGINE_TEST (R521). -/
  | engineTest (ring cid : Nat)
  /-- HBM_CAL (R521). -/
  | hbmCal (ring cid : Nat)
  /-- SERDES_CAL (R521). -/
  | serdesCal (ring cid : Nat)
  /-- SCRUB_SWEEP (R521). -/
  | scrubSweep (ring cid : Nat)
  /-- MAINT_ABORT (R521). -/
  | maintAbort (ring cid : Nat)
  /-- MAINT_COMPLETE (R522). -/
  | maintComplete (ring cid : Nat) (passed : Bool) (errors : Nat) (ce ue : List Nat)
  /-- EVC_PROGRAM (R525). -/
  | evcProgram (value : Nat)
  /-- FREEZE (R525). -/
  | freeze (value : Nat)
  /-- EVC_ALLOC (R526). -/
  | evcAlloc (session : Nat) (aeadOk : Bool) (req : List Byte)
  /-- EVC_FREE (R526). -/
  | evcFree (session : Nat) (aeadOk : Bool) (req : List Byte)
  /-- EVC_READ (R526). -/
  | evcRead (session : Nat) (aeadOk : Bool) (req : List Byte)
  /-- EVC_SNAPSHOT (R526). -/
  | evcSnapshot (session : Nat) (aeadOk : Bool) (req : List Byte)
  /-- SNAPSHOT_RECORD (R527). -/
  | snapshotRecord (dom : Nat)
  /-- PLL_LOCK_LOSS (R531). -/
  | pllLockLoss (pll : Nat) (relock : Bool)
  /-- POWER_SAMPLE (R534). -/
  | powerSample (mw : Nat)
  /-- CRIT_HOLD_EXPIRE (R536). -/
  | critHoldExpire
  /-- ALLOWANCE_REFILL (R535). -/
  | allowanceRefill
  /-- PKG_LIMIT_WRITE (R538). -/
  | pkgLimitWrite (value : Nat)
  /-- IDLE_EXPIRE (R540). -/
  | idleExpire (kind idx : Nat)
  /-- PREPARE_ELAPSED (R540). -/
  | prepareElapsed (kind idx : Nat)
  /-- DWELL_ELAPSED (R540). -/
  | dwellElapsed (kind idx : Nat)
  /-- WAKE_REQUEST (R540). -/
  | wakeRequest (kind idx : Nat)
  /-- WAKE_READY (R540). -/
  | wakeReady (kind idx : Nat)
  /-- WAKE_LATE (R104). -/
  | wakeLate (group : Nat)
  /-- WAKE_TIMEOUT (R542). -/
  | wakeTimeout (kind idx : Nat)
  /-- ARR_PLL_OFF (R542). -/
  | arrPllOff
  /-- COMPUTE_RESET (R552). -/
  | computeReset
  /-- DEVICE_RESET (R554). -/
  | deviceReset
  /-- UNIT_RESTART (R555). -/
  | unitRestart (value : Nat) (passed : Bool)
  /-- HEALTH_WINDOW (R563). -/
  | healthWindow (extra : List (Nat × Nat))
  /-- HEALTH_CLEAR (R566). -/
  | healthClear
  /-- DISABLE (R580). -/
  | disable (force : Bool)
  /-- ENABLE (R580). -/
  | enable (force passed : Bool)
  /-- PWROK_MAIN_FALL (R598). -/
  | pwrokMainFall
  /-- CLOCK_RETURN (R591). -/
  | clockReturn (kind idx speed width : Nat)
  /-- LANE_LOCK_REGAIN (R383). -/
  | laneLockRegain (rhumb : Bool) (port lane : Nat)
  /-- PERST_DEASSERT (R600). -/
  | perstDeassert (link speed width : Nat)
  /-- CORE_CLOCK_STOP (R501). -/
  | coreClockStop
  /-- PPS_OUT_FALL (R471). -/
  | ppsOutFall
deriving DecidableEq, Repr

end Sys2Proof
end

