-- ==== Sys2Proof/Config.lean ====
section
/-! DEFINITION. The values that the manual leaves open: constants with no body, so that nothing can be proved of a
value of theirs. Each is named in a log entry under notes/assumptions/. -/

namespace Sys2Proof.Config

/-- A fresh open value, for a result the manual does not state; applied to the counter `State.freeCtr` (log entry 2). -/
opaque freeValue : Nat → Nat

/-- A fresh open byte string, applied to the counter and to the byte's place in it (log entry 2). -/
opaque freeByte : Nat → Nat → Byte

/-- The Max_Read_Request_Size that the host has configured, as a power of two times 128 bytes (R353, log entry 17). -/
opaque readRequest : Nat

/-- The Max_Payload_Size that the host has configured, as a power of two times 128 bytes (R353, log entry 17). -/
opaque maxPayload : Nat

/-- What the 3GPP standards that the manual cites give, and the manual does not repeat: a table, a sequence or a transform, named by its
first argument (log entry 22). -/
opaque standard : Nat → List Int → List Int

/-- The power that a summed PRACH profile has at full scale, for an item's content and a number of streams (log entry 85). -/
opaque prachFull : List Int → Nat → Nat

/-- What a radio engine measures of FP32 values and the manual does not define: named by its first argument (log entry 23). -/
opaque radioMeasure : Nat → List Nat → Nat

/-- The SHA-384 of the manual's measured contents, as 48 bytes in one number: of a content given as numbers (log entry 33). -/
opaque digest384 : List Nat → Nat

end Sys2Proof.Config
end

