-- ==== Sys2Proof/Machine/Num.lean ====
section
/-! DEFINITION. The pseudocode helpers of the manual (R20 to R23), bit fields, little-endian fields (R16), and the
operations on numbered tables. -/

namespace Sys2Proof.Machine

/-- `sat(x, bits)` of R20. -/
def sat (x : Int) (bits : Nat) : Int :=
  let hi : Int := 2 ^ (bits - 1) - 1
  let lo : Int := -(2 ^ (bits - 1))
  if x > hi then hi else if x < lo then lo else x

/-- `rne_shift(x, s)` of R21. -/
def rneShift (x : Int) (s : Nat) : Int :=
  if s = 0 then x
  else
    let q := x.shiftRight s
    let r := x - q * 2 ^ s
    let half : Int := 2 ^ (s - 1)
    if r > half then q + 1
    else if r = half ∧ q % 2 = 1 then q + 1
    else q

/-- `wrap(x, bits)` of R22, for a natural number. -/
def wrap (x bits : Nat) : Nat := x % 2 ^ bits

/-- `wrap(x, bits)` of R22, for an integer. -/
def wrapInt (x : Int) (bits : Nat) : Nat := (x % (2 ^ bits : Int)).toNat

/-- An unsigned count of `bits` bits that stays at its largest value once it is reached. -/
def satAdd (x d bits : Nat) : Nat := min (x + d) (2 ^ bits - 1)

/-- The value of `x` read as a two's-complement number of `bits` bits. -/
def signed (x bits : Nat) : Int :=
  let y := x % 2 ^ bits
  if y < 2 ^ (bits - 1) then (y : Int) else (y : Int) - 2 ^ bits

/-- `bitlen(x)` of R54, for a natural number. -/
def bitlen (x : Nat) : Nat := if x = 0 then 0 else Nat.log2 x + 1

/-- The smallest number of parts of size `b` that hold `a`. -/
def ceilDiv (a b : Nat) : Nat := (a + b - 1) / b

/-- Bits [hi:lo] of a number (R8). -/
def bits (x hi lo : Nat) : Nat := (x >>> lo) % 2 ^ (hi + 1 - lo)

/-- Bit n of a number. -/
def bit (x n : Nat) : Bool := (x >>> n) % 2 == 1

/-- A one-bit number. -/
def b2n (b : Bool) : Nat := if b then 1 else 0

/-- A list sorted by an order, elements that the order does not part in their own order: each element goes before the first that it may stand
before. -/
def insertBy {α : Type} (le : α → α → Bool) (a : α) : List α → List α
  | [] => [a]
  | b :: t => if le a b then a :: b :: t else b :: insertBy le a t
def sortBy {α : Type} (le : α → α → Bool) (l : List α) : List α := l.foldr (insertBy le) []

/-- The bytes of a list that start at byte `off`, at most `n` of them. -/
def slice (l : List Byte) (off n : Nat) : List Byte := (l.drop off).take n

/-- A little-endian number (R16). -/
def leNat : List Byte → Nat
  | [] => 0
  | b :: t => b.toNat + 256 * leNat t

/-- The `n` bytes of a number, little-endian (R16). -/
def toLe : Nat → Nat → List Byte
  | 0, _ => []
  | n + 1, x => BitVec.ofNat 8 x :: toLe n (x / 256)

/-- The little-endian field of `n` bytes at byte `off`; a byte past the end of the list reads 0. -/
def fieldAt (l : List Byte) (off n : Nat) : Nat := leNat (slice l off n)

/-- A big-endian number, as Ethernet and PTP fields are sent. -/
def beNat (l : List Byte) : Nat := l.foldl (fun a b => a * 256 + b.toNat) 0

/-- Every byte of a list is zero. -/
def allZero (l : List Byte) : Bool := l.all (· == 0)

/-- The numbers `a`, `a + 1`, …, `n` of them. -/
def rangeFrom : Nat → Nat → List Nat
  | _, 0 => []
  | a, n + 1 => a :: rangeFrom (a + 1) n

/-- The number of bits of value 1 among the lowest `n` bits. -/
def popCount : Nat → Nat → Nat
  | 0, _ => 0
  | n + 1, x => x % 2 + popCount n (x / 2)

/-- The largest element of a list, 0 for an empty one. -/
def maxList (l : List Nat) : Nat := l.foldl max 0

/-- The sum of a list. -/
def sumList (l : List Nat) : Nat := l.foldl (· + ·) 0

/-- The first element of least key. -/
def minBy {α : Type} (key : α → List Nat) : List α → Option α
  | [] => none
  | a :: t =>
    match minBy key t with
    | none => some a
    | some b => if decide (key b < key a) then some b else some a

/-- Two ranges overlap. -/
def rangesMeet (a n b m : Nat) : Bool := decide (a < b + m) && decide (b < a + n) && decide (0 < n) && decide (0 < m)

end Sys2Proof.Machine

namespace Sys2Proof

/-- The entry numbered `k`. -/
def Tab.get? {α : Type} (t : Tab α) (k : Nat) : Option α :=
  match t with
  | [] => none
  | (k', v) :: r => if k' = k then some v else Tab.get? r k

/-- The entry numbered `k`, or `d` when there is none. -/
def Tab.getD {α : Type} (t : Tab α) (k : Nat) (d : α) : α := (Tab.get? t k).getD d

/-- The table with entry `k` set to `v`, numbers rising. -/
def Tab.set {α : Type} (t : Tab α) (k : Nat) (v : α) : Tab α :=
  match t with
  | [] => [(k, v)]
  | (k', v') :: r =>
    if k' = k then (k, v) :: r
    else if k < k' then (k, v) :: (k', v') :: r
    else (k', v') :: Tab.set r k v

/-- The table without entry `k`. -/
def Tab.del {α : Type} (t : Tab α) (k : Nat) : Tab α :=
  match t with
  | [] => []
  | (k', v') :: r => if k' = k then r else (k', v') :: Tab.del r k

/-- The table with entry `k`, where there is one, changed by `f`. -/
def Tab.modify {α : Type} (t : Tab α) (k : Nat) (f : α → α) : Tab α :=
  match Tab.get? t k with
  | none => t
  | some v => Tab.set t k (f v)

/-- The table with every entry changed by `f`. -/
def Tab.mapV {α β : Type} (t : Tab α) (f : Nat → α → β) : Tab β := t.map fun p => (p.1, f p.1 p.2)

/-- An entry numbered `k` is present. -/
def Tab.has {α : Type} (t : Tab α) (k : Nat) : Bool := (Tab.get? t k).isSome

/-- The lowest number, from `k` on, at most `n` tries, that no entry has. -/
def Tab.lowestFree {α : Type} (t : Tab α) : Nat → Nat → Option Nat
  | _, 0 => none
  | k, n + 1 => if Tab.has t k then Tab.lowestFree t (k + 1) n else some k

end Sys2Proof
end

