-- ==== Sys2Proof/Machine/Digest.lean ====
section
/-! DEFINITION. The cryptographic functions whose values the device's own records and memories carry: SHA3-256 (R107, R444, R446), AES-128
(R449), AES-256-XTS (R294) and AES-256-GCM (R385), as their standards define them (log entry 7). -/

namespace Sys2Proof.Machine

/-! ### SHA3-256 -/

/-- The places that the walk (x, y) ↦ (y, 2x + 3y) visits from (1, 0), with the rotation of the lane at each: step t turns it by
(t + 1)(t + 2)/2. -/
def rhoWalk : Nat → Nat → Nat × Nat → Tab Nat
  | 0, _, _ => []
  | n + 1, t, p => (p.1 + 5 * p.2, (t + 1) * (t + 2) / 2 % 64) :: rhoWalk n (t + 1) (p.2, (2 * p.1 + 3 * p.2) % 5)

/-- The rotations by lane; lane 0 is not turned. -/
def rhoOf : Tab Nat := rhoWalk 24 0 (1, 0)

/-- The bits of the shift register that gives the round constants. -/
def iotaBits : Nat → Nat → List Bool
  | 0, _ => []
  | n + 1, r => bit r 0 :: iotaBits n (if r < 128 then 2 * r else (2 * r) ^^^ 0x171)

/-- The round constants: bit 2^j − 1 of constant i is bit 7i + j of the register. -/
def iotaWords : List Nat :=
  let b := iotaBits 168 1
  (rangeFrom 0 24).map fun i => sumList ((rangeFrom 0 7).map fun j => b2n (b.getD (7 * i + j) false) * 2 ^ (2 ^ j - 1))

/-- A left rotation within a width. -/
def rotl (w x n : Nat) : Nat := x * 2 ^ n % 2 ^ w + x / 2 ^ (w - n)

/-- One round of the permutation on 25 lanes: the parities of the neighbouring columns added, the lanes turned and moved, each row combined, and
the round's constant added. -/
def keccakRound (a : List Nat) (rc : Nat) : List Nat :=
  let lane := fun (l : List Nat) x y => l.getD (x % 5 + 5 * (y % 5)) 0
  let col := fun x => (rangeFrom 0 5).foldl (fun v y => v ^^^ lane a x y) 0
  let m := (rangeFrom 0 25).map fun i => lane a i (i / 5) ^^^ col (i + 4) ^^^ rotl 64 (col (i + 1)) 1
  let b := (rangeFrom 0 25).map fun i =>
    let src := (i % 5 + 3 * (i / 5)) % 5 + 5 * (i % 5)
    rotl 64 (m.getD src 0) (Tab.getD rhoOf src 0)
  (rangeFrom 0 25).map fun i =>
    let off := lane b (i + 1) (i / 5)
    let v := lane b i (i / 5) ^^^ (lane b (i + 2) (i / 5) - (off &&& lane b (i + 2) (i / 5)))
    if i = 0 then v ^^^ rc else v

/-- The permutation. -/
def keccakF (a : List Nat) : List Nat := iotaWords.foldl keccakRound a

/-- One block of 136 bytes absorbed. -/
def sha3Absorb (a : List Nat) (blk : List Byte) : List Nat :=
  keccakF ((rangeFrom 0 25).map fun i => (a.getD i 0) ^^^ (if i < 17 then fieldAt blk (8 * i) 8 else 0))

/-- The padded message, in whole blocks. -/
def sha3Pad (m : List Byte) : List Byte :=
  let r := m.length % 136
  let z := 135 - r
  if z = 0 then m ++ [0x86] else m ++ [0x06] ++ List.replicate (z - 1) 0 ++ [0x80]

/-- The blocks absorbed in order. -/
def sha3Blocks : Nat → List Nat → List Byte → List Nat
  | 0, a, _ => a
  | n + 1, a, m => sha3Blocks n (sha3Absorb a (m.take 136)) (m.drop 136)

/-- SHA3-256 of a byte string. -/
def sha3_256 (m : List Byte) : List Byte :=
  let p := sha3Pad m
  let a := sha3Blocks (p.length / 136) (List.replicate 25 0) p
  (rangeFrom 0 4).flatMap fun i => toLe 8 (a.getD i 0)

/-! ### AES-128 -/

/-- Doubling in the field of AES. -/
def gfDouble (x : Nat) : Nat := if x < 128 then 2 * x else (2 * x) ^^^ 0x11B

/-- The product in the field of AES. -/
def gfMul : Nat → Nat → Nat → Nat
  | 0, _, _ => 0
  | n + 1, x, y => (if y % 2 = 1 then x else 0) ^^^ gfMul n (gfDouble x) (y / 2)

/-- The power x^254, the inverse of a nonzero x. -/
def gfInv (x : Nat) : Nat :=
  let sq := fun a => gfMul 8 a a
  let x2 := sq x
  let x4 := sq x2
  let x8 := sq x4
  let x16 := sq x8
  let x32 := sq x16
  let x64 := sq x32
  let x128 := sq x64
  gfMul 8 x128 (gfMul 8 x64 (gfMul 8 x32 (gfMul 8 x16 (gfMul 8 x8 (gfMul 8 x4 x2)))))

/-- The AES substitution of a byte. -/
def aesSub (x : Nat) : Nat :=
  let b := gfInv x
  b ^^^ rotl 8 b 1 ^^^ rotl 8 b 2 ^^^ rotl 8 b 3 ^^^ rotl 8 b 4 ^^^ 0x63

/-- Two byte lists combined bit by bit. -/
def xorBytes (a b : List Nat) : List Nat := List.zipWith (· ^^^ ·) a b

/-- The next round key. -/
def aesNextKey (k : List Nat) (rc : Nat) : List Nat :=
  let t := (rangeFrom 0 4).map fun i => aesSub (k.getD (12 + (i + 1) % 4) 0) ^^^ (if i = 0 then rc else 0)
  let w0 := xorBytes (k.take 4) t
  let w1 := xorBytes ((k.drop 4).take 4) w0
  let w2 := xorBytes ((k.drop 8).take 4) w1
  let w3 := xorBytes ((k.drop 12).take 4) w2
  w0 ++ w1 ++ w2 ++ w3

/-- The substituted bytes with their rows shifted. -/
def aesSubShift (s : List Nat) : List Nat :=
  (rangeFrom 0 16).map fun i => aesSub (s.getD ((i + 4 * (i % 4)) % 16) 0)

/-- The columns mixed. -/
def aesMix (s : List Nat) : List Nat :=
  (rangeFrom 0 16).map fun i =>
    let c := i / 4 * 4
    let g := fun j => s.getD (c + (i + j) % 4) 0
    gfDouble (g 0) ^^^ (gfDouble (g 1) ^^^ g 1) ^^^ g 2 ^^^ g 3

/-- The rounds with the keys that are left. -/
def aesRounds : List Nat → List Nat → List Nat → List Nat
  | s, k, [] => xorBytes (aesSubShift s) (aesNextKey k 0x36)
  | s, k, rc :: t =>
    let k' := aesNextKey k rc
    aesRounds (xorBytes (aesMix (aesSubShift s)) k') k' t

/-- AES-128 encryption of one block (R449). -/
def aes128 (key blk : List Nat) : List Nat :=
  aesRounds (xorBytes blk key) key [1, 2, 4, 8, 16, 32, 64, 128, 0x1B]

/-! ### AES-256 and XTS (R294) -/

/-- The byte that a substitution took to x. -/
def aesUnsub (x : Nat) : Nat := gfInv (rotl 8 x 1 ^^^ rotl 8 x 3 ^^^ rotl 8 x 6 ^^^ 0x05)

/-- The 60 words of the round keys of a key of 32 bytes. -/
def aes256Words (key : List Nat) : List (List Nat) :=
  (rangeFrom 8 52).foldl (fun w i =>
    let t := w.getD (i - 1) []
    let t := if i % 8 = 0 then
        xorBytes ((t.drop 1 ++ t.take 1).map aesSub) [2 ^ (i / 8 - 1), 0, 0, 0]
      else if i % 8 = 4 then t.map aesSub else t
    w ++ [xorBytes (w.getD (i - 8) []) t]) ((rangeFrom 0 8).map fun i => (key.drop (4 * i)).take 4)

/-- Round key r. -/
def aesKeyAt (w : List (List Nat)) (r : Nat) : List Nat := ((w.drop (4 * r)).take 4).flatten

/-- AES-256 encryption of one block. -/
def aes256 (key blk : List Nat) : List Nat :=
  let w := aes256Words key
  let s := (rangeFrom 1 13).foldl (fun s r => xorBytes (aesMix (aesSubShift s)) (aesKeyAt w r)) (xorBytes blk (aesKeyAt w 0))
  xorBytes (aesSubShift s) (aesKeyAt w 14)

/-- The rows shifted back and the bytes substituted back, and the columns unmixed. -/
def aesUnsubShift (s : List Nat) : List Nat := (rangeFrom 0 16).map fun i => aesUnsub (s.getD ((i + 12 * (i % 4)) % 16) 0)
def aesUnmix (s : List Nat) : List Nat :=
  (rangeFrom 0 16).map fun i =>
    let g := fun j c => gfMul 8 (s.getD (i / 4 * 4 + (i + j) % 4) 0) c
    g 0 14 ^^^ g 1 11 ^^^ g 2 13 ^^^ g 3 9

/-- AES-256 decryption of one block. -/
def aes256Back (key blk : List Nat) : List Nat :=
  let w := aes256Words key
  let s := (rangeFrom 1 13).foldl (fun s r => aesUnmix (xorBytes (aesUnsubShift s) (aesKeyAt w (14 - r)))) (xorBytes blk (aesKeyAt w 14))
  xorBytes (aesUnsubShift s) (aesKeyAt w 0)

/-- The mask of the next AES block of a data unit. -/
def xtsNext (t : Nat) : Nat := if t < 2 ^ 127 then 2 * t else (2 * t - 2 ^ 128) ^^^ 0x87

/-- AES-256-XTS of a data unit of four AES blocks, forwards or back, under a key of two halves: data first, then tweak (R294). -/
def xts (back : Bool) (key tweak : Nat) (data : List Nat) : List Nat :=
  let bytes := fun n v => (toLe n v).map (·.toNat)
  let k1 := bytes 32 key
  let k2 := bytes 32 (key / 2 ^ 256)
  let t0 := leNat ((aes256 k2 (bytes 16 tweak)).map (BitVec.ofNat 8))
  (rangeFrom 0 4).flatMap fun j =>
    let m := bytes 16 ((rangeFrom 0 j).foldl (fun t _ => xtsNext t) t0)
    let p := xorBytes ((data.drop (16 * j)).take 16) m
    xorBytes (if back then aes256Back k1 p else aes256 k1 p) m

/-- The tweak of a domain's block (R294). -/
def xtsTweak (d o : Nat) : Nat := o / 64 % 2 ^ 34 + d % 128 * 2 ^ 64

/-! ### AES-256-GCM (R385) -/

/-- The product of the field of GCM: x from its bit n down, and v the multiple of the other factor that goes with it. -/
def ghashMul : Nat → Nat → Nat → Nat
  | 0, _, _ => 0
  | n + 1, x, v => (if bit x n then v else 0) ^^^ ghashMul n x (if v % 2 = 0 then v / 2 else v / 2 ^^^ 225 * 2 ^ 120)

/-- A block of octets as a number with the first octet on top, short blocks followed by zeros. -/
def gcmBlock (b : List Nat) : Nat := (b ++ List.replicate (16 - b.length) 0).foldl (fun a x => a * 256 + x) 0

/-- The blocks of a string taken into a digest under h. -/
def ghash (h y : Nat) (b : List Nat) : Nat :=
  (rangeFrom 0 (ceilDiv b.length 16)).foldl (fun y i => ghashMul 128 (y ^^^ gcmBlock ((b.drop (16 * i)).take 16)) h) y

/-- A string under the key stream of a counter block's first 12 octets, from a count on. -/
def gcmStream (key iv b : List Nat) (from_ : Nat) : List Nat :=
  (rangeFrom 0 (ceilDiv b.length 16)).flatMap fun i =>
    let c := from_ + i
    xorBytes ((b.drop (16 * i)).take 16) (aes256 key (iv ++ [c / 2 ^ 24 % 256, c / 2 ^ 16 % 256, c / 256 % 256, c % 256]))

/-- AES-256-GCM: the text encrypted, followed by the tag over it and over what stays clear. -/
def gcm256 (key iv clear text : List Nat) : List Nat :=
  let zero := List.replicate 16 0
  let h := gcmBlock (aes256 key zero)
  let c := gcmStream key iv text 2
  let lens := clear.length * 8 * 2 ^ 64 + c.length * 8
  let t := ghashMul 128 (ghash h (ghash h 0 clear) c ^^^ lens) h
  let tb := ((toLe 16 t).map (·.toNat)).reverse
  c ++ xorBytes tb (gcmStream key iv zero 1)

/-! ### The generator -/

/-- The generator of R449. -/
def gen (seed step stream i : Nat) : Nat :=
  let ctr := step + stream * 2 ^ 48 + (i / 2) * 2 ^ 64
  let bytesOf := fun n => (toLe 16 n).map (·.toNat)
  let blk := leNat ((aes128 (bytesOf seed) (bytesOf ctr)).map (BitVec.ofNat 8))
  (blk >>> (64 * (i % 2))) % 2 ^ 64

end Sys2Proof.Machine
end

