-- ==== Sys2Proof/Machine/RegTypes.lean ====
section
/-! DEFINITION. Register fields as the manual lays them out (R8), the access codes (R10) and the sources of a reset
value (R14). -/

namespace Sys2Proof.Machine

/-- An access code of R10. RSV fields are the bits that no listed field covers. -/
inductive Access where
  | rw | ro | wo | w1c | w1s | rc
deriving DecidableEq, Repr

/-- Where a field's reset value comes from (R14). -/
inductive ResetSrc where
  | val (n : Nat)
  | fuse
  | almanac
deriving DecidableEq, Repr

/-- A register field: its register's address, its lowest bit and its width. Instance-page offsets, which have no register
address (R575), stand above 2^32. -/
structure Fld where
  reg : Nat
  lo : Nat
  w : Nat
deriving DecidableEq, Repr

/-- A field with its access code and reset source. -/
structure FieldDesc where
  fld : Fld
  acc : Access
  rst : ResetSrc
deriving DecidableEq, Repr

/-- A register with its fields, lowest bit first; bits of no field are RSV. -/
structure RegDesc where
  addr : Nat
  fields : List FieldDesc
deriving DecidableEq, Repr

/-- The number that a field holds in a register value. -/
def Fld.get (f : Fld) (v : Word) : Nat := bits v.toNat (f.lo + f.w - 1) f.lo

/-- The register value with a field set to `n`, cut to the field's width. -/
def Fld.put (f : Fld) (v : Word) (n : Nat) : Word :=
  let old := v.toNat
  BitVec.ofNat 64 (old - f.get v * 2 ^ f.lo + (n % 2 ^ f.w) * 2 ^ f.lo)

end Sys2Proof.Machine
end

