-- ==== Sys2Proof/Machine/RegFields.lean ====
section
/-! DEFINITION. One constant for each register field of the manual, under the name <register>_<field>, at the register
address, lowest bit and width that the register tables of the chapters give it. -/

namespace Sys2Proof.Machine.F

abbrev TRK_CAP_TILE_ROWS : Fld := ⟨0x2000000, 0, 6⟩
abbrev TRK_CAP_TILE_COLS : Fld := ⟨0x2000000, 6, 7⟩
abbrev TRK_CAP_TILE_SIZE : Fld := ⟨0x2000000, 13, 7⟩
abbrev TRK_CAP_SPARE_ROWS : Fld := ⟨0x2000000, 20, 2⟩
abbrev TRK_CAP_SPARE_COLS : Fld := ⟨0x2000000, 22, 2⟩
abbrev TRK_CAP_WAKE_GROUPS : Fld := ⟨0x2000000, 24, 8⟩
abbrev TRK_CAP_CLOCK_MHZ : Fld := ⟨0x2000000, 32, 16⟩
abbrev TRK_STATUS_E_GRANTED : Fld := ⟨0x2000008, 0, 6⟩
abbrev TRK_STATUS_C_GRANTED : Fld := ⟨0x2000008, 6, 7⟩
abbrev TRK_STATUS_BUSY : Fld := ⟨0x2000008, 13, 1⟩
abbrev TRK_STATUS_AWAKE : Fld := ⟨0x2000008, 14, 1⟩
abbrev TRK_STATUS_OFFLINE : Fld := ⟨0x2000008, 15, 1⟩
abbrev TRK_ROW_ENABLE_ROW_MASK : Fld := ⟨0x2000010, 0, 32⟩
abbrev TRK_COL_ENABLE_COL_MASK : Fld := ⟨0x2000018, 0, 64⟩
abbrev TRK_FUSE_SUMMARY_TILES_REPAIRED : Fld := ⟨0x2000020, 0, 12⟩
abbrev TRK_FUSE_SUMMARY_ROWS_REPLACED : Fld := ⟨0x2000020, 12, 13⟩
abbrev TRK_FUSE_SUMMARY_COLS_REPLACED : Fld := ⟨0x2000020, 25, 13⟩
abbrev TRK_FUSE_SUMMARY_TILES_FAILED : Fld := ⟨0x2000020, 38, 12⟩
abbrev TRK_FUSE_SUMMARY_SOFT_REPAIR_PRESENT : Fld := ⟨0x2000020, 50, 1⟩
abbrev TRK_FUSE_INDEX_TILE : Fld := ⟨0x2000028, 0, 11⟩
abbrev TRK_FUSE_INDEX_AUTO_INC : Fld := ⟨0x2000028, 16, 1⟩
abbrev TRK_FUSE_DATA_FUSED_RECORD : Fld := ⟨0x2000030, 0, 32⟩
abbrev TRK_FUSE_DATA_EFFECTIVE_RECORD : Fld := ⟨0x2000030, 32, 32⟩
abbrev TRK_WAKE_CTRL_IDLE_US : Fld := ⟨0x2000038, 0, 16⟩
abbrev TRK_WAKE_CTRL_HOST_HOLD : Fld := ⟨0x2000038, 16, 1⟩
abbrev TRK_WAKE_CTRL_HELM_HOLD : Fld := ⟨0x2000038, 17, 1⟩
abbrev TRK_WAKE_STATUS_GROUP_READY : Fld := ⟨0x2000040, 0, 64⟩
abbrev TRK_BUSY_CYCLES_BUSY_CYCLES : Fld := ⟨0x2000048, 0, 64⟩
abbrev TRK_ERR_STATUS_FUSE_RECORD_INVALID : Fld := ⟨0x2000050, 0, 1⟩
abbrev TRK_ERR_STATUS_WAKE_LATE : Fld := ⟨0x2000050, 1, 1⟩
abbrev TRK_ERR_STATUS_WEIGHT_PARITY : Fld := ⟨0x2000050, 2, 1⟩
abbrev TRK_CHART_CAP_CHART_ENTRIES : Fld := ⟨0x2001000, 0, 17⟩
abbrev TRK_CHART_CAP_TAGS_PER_RUN : Fld := ⟨0x2001000, 17, 9⟩
abbrev TRK_CHART_CAP_RUN_CONTEXTS : Fld := ⟨0x2001000, 26, 11⟩
abbrev TRK_CHART_CAP_MAX_PRODUCTS : Fld := ⟨0x2001000, 37, 7⟩
abbrev TRK_CHART_CAP_MAX_LOOKAHEAD : Fld := ⟨0x2001000, 44, 7⟩
abbrev TRK_CHART_QUOTA_SEL_DOMAIN : Fld := ⟨0x2001008, 0, 7⟩
abbrev TRK_CHART_QUOTA_LIMIT : Fld := ⟨0x2001010, 0, 17⟩
abbrev TRK_CHART_USED_CHARTS : Fld := ⟨0x2001018, 0, 17⟩
abbrev TRK_CHART_USED_RUNS : Fld := ⟨0x2001018, 17, 11⟩
abbrev TRK_CMD_GRANTED_GRANTED : Fld := ⟨0x2001020, 0, 64⟩
abbrev TRK_PACK_COUNT_PASSES : Fld := ⟨0x2001028, 0, 32⟩
abbrev TRK_PACK_COUNT_PRODUCTS : Fld := ⟨0x2001028, 32, 32⟩
abbrev TRK_GUARD_BLOCKS_RECOMPUTED : Fld := ⟨0x2001030, 0, 64⟩
abbrev TRK_REJECT_COUNT_LOAD_REJECTS : Fld := ⟨0x2001038, 0, 32⟩
abbrev TRK_REJECT_COUNT_RUN_FAILURES : Fld := ⟨0x2001038, 32, 32⟩
abbrev TRK_PACK_CTRL_SLATE_COALESCE : Fld := ⟨0x2001040, 0, 1⟩
abbrev TRK_PACK_CTRL_VERMILION_COALESCE : Fld := ⟨0x2001040, 1, 1⟩
abbrev DVU_CAP_LANES : Fld := ⟨0x2800000, 0, 13⟩
abbrev DVU_CAP_CLOCK_MHZ : Fld := ⟨0x2800000, 13, 16⟩
abbrev DVU_CAP_MAX_RING_SLOTS : Fld := ⟨0x2800000, 29, 8⟩
abbrev DVU_CAP_MAX_POSITIONS : Fld := ⟨0x2800000, 37, 23⟩
abbrev DVU_STATUS_LANES_ENABLED : Fld := ⟨0x2800008, 0, 13⟩
abbrev DVU_STATUS_BUSY : Fld := ⟨0x2800008, 13, 1⟩
abbrev DVU_STATUS_ATTN_ACTIVE : Fld := ⟨0x2800008, 14, 1⟩
abbrev DVU_STATUS_STATE_SAVED : Fld := ⟨0x2800008, 15, 1⟩
abbrev DVU_VEC_CYCLES_CYCLES : Fld := ⟨0x2800010, 0, 64⟩
abbrev DVU_KV_WAIT_WAIT_CYCLES : Fld := ⟨0x2800018, 0, 64⟩
abbrev DVU_KV_BYTES_BYTES : Fld := ⟨0x2800020, 0, 64⟩
abbrev DVU_SEG_SWITCH_SAVES : Fld := ⟨0x2800028, 0, 32⟩
abbrev DVU_SEG_SWITCH_RESTORES : Fld := ⟨0x2800028, 32, 32⟩
abbrev DVU_ERR_STATUS_LANE_PARITY : Fld := ⟨0x2800030, 0, 1⟩
abbrev DVU_ERR_STATUS_PAGE_BOUNDS : Fld := ⟨0x2800030, 1, 1⟩
abbrev DVU_ERR_STATUS_DRAIN_PARITY : Fld := ⟨0x2800030, 2, 1⟩
abbrev HLM_CAP_CORES : Fld := ⟨0x1000000, 0, 6⟩
abbrev HLM_CAP_ARRAY_CORES : Fld := ⟨0x1000000, 6, 4⟩
abbrev HLM_CAP_RADIO_CORES : Fld := ⟨0x1000000, 10, 5⟩
abbrev HLM_CAP_QUEUE_CORES : Fld := ⟨0x1000000, 15, 4⟩
abbrev HLM_CAP_WINDOW : Fld := ⟨0x1000000, 19, 9⟩
abbrev HLM_CAP_CLOCK_MHZ : Fld := ⟨0x1000000, 28, 16⟩
abbrev HLM_CAP_CAL_ENTRIES : Fld := ⟨0x1000000, 44, 7⟩
abbrev HLM_CAP_CELLS_PER_CORE : Fld := ⟨0x1000000, 51, 7⟩
abbrev HLM_STATUS_WINDOW_USED : Fld := ⟨0x1000008, 0, 9⟩
abbrev HLM_STATUS_WINDOW_VERM : Fld := ⟨0x1000008, 9, 9⟩
abbrev HLM_STATUS_CORES_ENABLED : Fld := ⟨0x1000008, 18, 6⟩
abbrev HLM_STATUS_ARRAY_CLASS : Fld := ⟨0x1000008, 24, 2⟩
abbrev HLM_STATUS_VECTOR_CLASS : Fld := ⟨0x1000008, 26, 2⟩
abbrev HLM_STATUS_CAL_ACTIVE : Fld := ⟨0x1000008, 28, 1⟩
abbrev HLM_STATUS_RES_SWITCH_ACTIVE : Fld := ⟨0x1000008, 29, 1⟩
abbrev HLM_STATUS_SHED_PENDING : Fld := ⟨0x1000008, 30, 1⟩
abbrev HLM_STATUS_OCHRE_WINDOW : Fld := ⟨0x1000008, 31, 1⟩
abbrev HLM_QUANTUM_QUANTUM_US : Fld := ⟨0x1000010, 0, 7⟩
abbrev HLM_QUANTUM_QUANTUM_CYCLES : Fld := ⟨0x1000010, 7, 18⟩
abbrev HLM_WINDOW_CTRL_VERM_RSV : Fld := ⟨0x1000018, 0, 9⟩
abbrev HLM_ADMIT_CTRL_VERM_CAP_PCT : Fld := ⟨0x1000020, 0, 7⟩
abbrev HLM_ADMIT_CTRL_RES_GAP_US : Fld := ⟨0x1000020, 7, 10⟩
abbrev HLM_ADMIT_CTRL_MARGIN : Fld := ⟨0x1000020, 17, 1⟩
abbrev HLM_ADMIT_CTRL_OCHRE_PERMILLE : Fld := ⟨0x1000020, 18, 7⟩
abbrev HLM_ADMIT_STATUS_CELLS_ADMITTED : Fld := ⟨0x1000028, 0, 10⟩
abbrev HLM_ADMIT_STATUS_LOAD_PERMILLE : Fld := ⟨0x1000028, 10, 10⟩
abbrev HLM_ADMIT_STATUS_MARGIN_PERMILLE : Fld := ⟨0x1000028, 20, 10⟩
abbrev HLM_ADMIT_STATUS_LAST_RESULT : Fld := ⟨0x1000028, 30, 2⟩
abbrev HLM_ADMIT_STATUS_LAST_SLOT : Fld := ⟨0x1000028, 32, 9⟩
abbrev HLM_ADMIT_STATUS_MARGIN_E_PASS : Fld := ⟨0x1000028, 41, 1⟩
abbrev HLM_ADMIT_STATUS_MARGIN_C_PASS : Fld := ⟨0x1000028, 42, 1⟩
abbrev HLM_SHARE_SEL_KIND : Fld := ⟨0x1000030, 0, 2⟩
abbrev HLM_SHARE_SEL_ID : Fld := ⟨0x1000030, 2, 13⟩
abbrev HLM_SHARE_SHARE : Fld := ⟨0x1000038, 0, 16⟩
abbrev HLM_SHARE_ACTIVE : Fld := ⟨0x1000038, 16, 1⟩
abbrev HLM_VTIME_VTIME : Fld := ⟨0x1000040, 0, 64⟩
abbrev HLM_METER_SEL_DOMAIN : Fld := ⟨0x1000048, 0, 7⟩
abbrev HLM_METER_ARRAY_NS : Fld := ⟨0x1000050, 0, 64⟩
abbrev HLM_METER_VECTOR_NS : Fld := ⟨0x1000058, 0, 64⟩
abbrev HLM_METER_RADIO_NS : Fld := ⟨0x1000060, 0, 64⟩
abbrev HLM_CAL_CTRL_ENABLE : Fld := ⟨0x1000068, 0, 1⟩
abbrev HLM_CAL_CTRL_COMMIT : Fld := ⟨0x1000068, 1, 1⟩
abbrev HLM_CAL_CTRL_DISABLE : Fld := ⟨0x1000068, 2, 1⟩
abbrev HLM_CAL_CTRL_COMMIT_BUSY : Fld := ⟨0x1000068, 3, 1⟩
abbrev HLM_CAL_CTRL_COMMIT_RESULT : Fld := ⟨0x1000068, 4, 2⟩
abbrev HLM_CAL_SEL_ENTRY : Fld := ⟨0x1000070, 0, 6⟩
abbrev HLM_CAL_ENTRY_START : Fld := ⟨0x1000078, 0, 20⟩
abbrev HLM_CAL_ENTRY_LENGTH : Fld := ⟨0x1000078, 20, 20⟩
abbrev HLM_CAL_ENTRY_DOMAIN : Fld := ⟨0x1000078, 40, 7⟩
abbrev HLM_CAL_ENTRY_VALID : Fld := ⟨0x1000078, 47, 1⟩
abbrev HLM_RES_SWITCH_SWITCHES : Fld := ⟨0x1000080, 0, 32⟩
abbrev HLM_RES_SWITCH_DEFERRED : Fld := ⟨0x1000080, 32, 32⟩
abbrev HLM_VERM_WAIT_MAX_WAIT : Fld := ⟨0x1000088, 0, 32⟩
abbrev HLM_VERM_WAIT_LATE : Fld := ⟨0x1000088, 32, 32⟩
abbrev HLM_ERR_STATUS_QUANTUM_REFUSED : Fld := ⟨0x1000090, 0, 1⟩
abbrev HLM_ERR_STATUS_ADMIT_REFUSED : Fld := ⟨0x1000090, 1, 1⟩
abbrev HLM_ERR_STATUS_QUANTUM_EXCEEDED : Fld := ⟨0x1000090, 2, 1⟩
abbrev HLM_ERR_STATUS_CAPACITY_LOSS : Fld := ⟨0x1000090, 3, 1⟩
abbrev HLM_ERR_STATUS_SHED : Fld := ⟨0x1000090, 4, 1⟩
abbrev HLM_ERR_STATUS_CORE_DISABLED : Fld := ⟨0x1000090, 5, 1⟩
abbrev RAD_CAP_CELL_SLOTS : Fld := ⟨0x3000000, 0, 10⟩
abbrev RAD_CAP_STREAM_QUARTERS : Fld := ⟨0x3000000, 10, 13⟩
abbrev RAD_CAP_TD_STREAMS : Fld := ⟨0x3000000, 23, 9⟩
abbrev RAD_CAP_LDPC_DEC : Fld := ⟨0x3000000, 32, 4⟩
abbrev RAD_CAP_LDPC_ENC : Fld := ⟨0x3000000, 36, 3⟩
abbrev RAD_CAP_POLAR : Fld := ⟨0x3000000, 39, 3⟩
abbrev RAD_CAP_MAX_LAYERS : Fld := ⟨0x3000000, 42, 5⟩
abbrev RAD_CAP_MAX_RX : Fld := ⟨0x3000000, 47, 7⟩
abbrev RAD_CAP1_CLOCK_MHZ : Fld := ⟨0x3000008, 0, 16⟩
abbrev RAD_CAP1_DEC_GBPS : Fld := ⟨0x3000008, 16, 16⟩
abbrev RAD_CAP1_ENC_GBPS : Fld := ⟨0x3000008, 32, 16⟩
abbrev RAD_CAP1_PRACH_ROOTS : Fld := ⟨0x3000008, 48, 10⟩
abbrev RAD_STATUS_CELLS_ACTIVE : Fld := ⟨0x3000010, 0, 10⟩
abbrev RAD_STATUS_UL_QUARTERS : Fld := ⟨0x3000010, 10, 13⟩
abbrev RAD_STATUS_DL_QUARTERS : Fld := ⟨0x3000010, 23, 13⟩
abbrev RAD_STATUS_TD_USED : Fld := ⟨0x3000010, 36, 9⟩
abbrev RAD_STATUS_SHED_PENDING : Fld := ⟨0x3000010, 45, 1⟩
abbrev RAD_CELL_SEL_CELL : Fld := ⟨0x3000018, 0, 9⟩
abbrev RAD_CELL_ASSIGN_DOMAIN : Fld := ⟨0x3000020, 0, 7⟩
abbrev RAD_CELL_ASSIGN_ASSIGNED : Fld := ⟨0x3000020, 7, 1⟩
abbrev RAD_CELL_ASSIGN_SHED_RANK : Fld := ⟨0x3000020, 8, 9⟩
abbrev RAD_CELL_STATUS_STATE : Fld := ⟨0x3000028, 0, 3⟩
abbrev RAD_CELL_STATUS_ORCH : Fld := ⟨0x3000028, 3, 5⟩
abbrev RAD_CELL_STATUS_UL_QUARTERS : Fld := ⟨0x3000028, 8, 11⟩
abbrev RAD_CELL_STATUS_DL_QUARTERS : Fld := ⟨0x3000028, 19, 11⟩
abbrev RAD_CELL_STATUS_GROUP_MEMBER : Fld := ⟨0x3000028, 30, 1⟩
abbrev RAD_CELL_STATUS_GROUP_LEAD : Fld := ⟨0x3000028, 31, 9⟩
abbrev RAD_SLOT_COUNT_SLOTS : Fld := ⟨0x3000030, 0, 64⟩
abbrev RAD_LATE_COUNT_POST_LATE : Fld := ⟨0x3000038, 0, 32⟩
abbrev RAD_LATE_COUNT_AIR_MISSED : Fld := ⟨0x3000038, 32, 32⟩
abbrev RAD_SHED_COUNT_CELLS_SHED : Fld := ⟨0x3000040, 0, 32⟩
abbrev RAD_SHED_COUNT_UNCOVERED : Fld := ⟨0x3000040, 32, 32⟩
abbrev RAD_ERR_STATUS_ASSIGN_REFUSED : Fld := ⟨0x3000048, 0, 1⟩
abbrev RAD_ERR_STATUS_SHED : Fld := ⟨0x3000048, 1, 1⟩
abbrev RAD_ERR_STATUS_MODEL_FAULT : Fld := ⟨0x3000048, 2, 1⟩
abbrev RAD_ERR_STATUS_UNCOVERED : Fld := ⟨0x3000048, 3, 1⟩
abbrev RAD_ERR_STATUS_ENGINE_LOST : Fld := ⟨0x3000048, 4, 1⟩
abbrev FH_CAP_CLS_ENTRIES : Fld := ⟨0x3800000, 0, 15⟩
abbrev FH_CAP_GRANT_ENTRIES : Fld := ⟨0x3800000, 15, 11⟩
abbrev FH_CAP_TD_STREAMS : Fld := ⟨0x3800000, 26, 9⟩
abbrev FH_CAP_BFP_MIN_WIDTH : Fld := ⟨0x3800000, 35, 5⟩
abbrev FH_CAP_BFP_MAX_WIDTH : Fld := ⟨0x3800000, 40, 5⟩
abbrev FH_CAP_FFT_MAX : Fld := ⟨0x3800000, 45, 13⟩
abbrev FH_STATUS_CLS_USED : Fld := ⟨0x3800008, 0, 15⟩
abbrev FH_STATUS_GRANTS_VALID : Fld := ⟨0x3800008, 15, 11⟩
abbrev FH_GRANT_SEL_ENTRY : Fld := ⟨0x3800010, 0, 10⟩
abbrev FH_GRANT_SUBPORT : Fld := ⟨0x3800018, 0, 5⟩
abbrev FH_GRANT_TAGGED : Fld := ⟨0x3800018, 5, 1⟩
abbrev FH_GRANT_VID : Fld := ⟨0x3800018, 6, 12⟩
abbrev FH_GRANT_DOMAIN : Fld := ⟨0x3800018, 18, 7⟩
abbrev FH_GRANT_VALID : Fld := ⟨0x3800018, 25, 1⟩
abbrev FH_RX_FRAMES_FRAMES : Fld := ⟨0x3800020, 0, 64⟩
abbrev FH_DROP_CLASS_NOMATCH : Fld := ⟨0x3800028, 0, 32⟩
abbrev FH_DROP_CLASS_SA_MISMATCH : Fld := ⟨0x3800028, 32, 32⟩
abbrev FH_DROP_TIME_EARLY : Fld := ⟨0x3800030, 0, 32⟩
abbrev FH_DROP_TIME_LATE : Fld := ⟨0x3800030, 32, 32⟩
abbrev FH_DROP_FORMAT_FORMAT : Fld := ⟨0x3800038, 0, 32⟩
abbrev FH_DROP_FORMAT_NOSLOT : Fld := ⟨0x3800038, 32, 32⟩
abbrev FH_DROP_DUP_DUP : Fld := ⟨0x3800040, 0, 32⟩
abbrev FH_DROP_DUP_MISSING_PRB : Fld := ⟨0x3800040, 32, 32⟩
abbrev FH_TX_FRAMES_FRAMES : Fld := ⟨0x3800048, 0, 64⟩
abbrev FH_ERR_STATUS_GRANT_CONFLICT : Fld := ⟨0x3800050, 0, 1⟩
abbrev FH_ERR_STATUS_DECOMP_PARITY : Fld := ⟨0x3800050, 1, 1⟩
abbrev FH_ERR_STATUS_FFT_PARITY : Fld := ⟨0x3800050, 2, 1⟩
abbrev FH_ERR_STATUS_PRACH_PARITY : Fld := ⟨0x3800050, 3, 1⟩
abbrev RAD_ENG_STATUS_DEC_ENABLED : Fld := ⟨0x3001000, 0, 8⟩
abbrev RAD_ENG_STATUS_ENC_ENABLED : Fld := ⟨0x3001000, 8, 4⟩
abbrev RAD_ENG_STATUS_POLAR_ENABLED : Fld := ⟨0x3001000, 12, 4⟩
abbrev RAD_ENG_STATUS_EQ_ENABLED : Fld := ⟨0x3001000, 16, 1⟩
abbrev RAD_ENG_STATUS_DEMAP_ENABLED : Fld := ⟨0x3001000, 17, 1⟩
abbrev RAD_ENG_STATUS_HARQ_ENABLED : Fld := ⟨0x3001000, 18, 1⟩
abbrev RAD_DEC_CBS_CBS : Fld := ⟨0x3001008, 0, 64⟩
abbrev RAD_DEC_ITERS_ITERS : Fld := ⟨0x3001010, 0, 64⟩
abbrev RAD_DEC_FAIL_CB_FAIL : Fld := ⟨0x3001018, 0, 32⟩
abbrev RAD_DEC_FAIL_ITER_CUT : Fld := ⟨0x3001018, 32, 32⟩
abbrev RAD_HARQ_EVENTS_NOBUF : Fld := ⟨0x3001020, 0, 32⟩
abbrev RAD_HARQ_EVENTS_MISMATCH : Fld := ⟨0x3001020, 32, 32⟩
abbrev RAD_ENC_CBS_CBS : Fld := ⟨0x3001028, 0, 64⟩
abbrev RAD_POLAR_JOBS_ENCODES : Fld := ⟨0x3001030, 0, 32⟩
abbrev RAD_POLAR_JOBS_DECODES : Fld := ⟨0x3001030, 32, 32⟩
abbrev RAD_EQ_RE_RE : Fld := ⟨0x3001038, 0, 64⟩
abbrev RAD_SPILL_BYTES_BYTES : Fld := ⟨0x3001040, 0, 64⟩
abbrev RAD_DEC_BACKLOG_MAX_BACKLOG : Fld := ⟨0x3001048, 0, 32⟩
abbrev RAD_ENG_ERR_DEC_PARITY : Fld := ⟨0x3001050, 0, 1⟩
abbrev RAD_ENG_ERR_ENC_PARITY : Fld := ⟨0x3001050, 1, 1⟩
abbrev RAD_ENG_ERR_POLAR_PARITY : Fld := ⟨0x3001050, 2, 1⟩
abbrev RAD_ENG_ERR_EQ_PARITY : Fld := ⟨0x3001050, 3, 1⟩
abbrev RAD_ENG_ERR_HARQ_BOUNDS : Fld := ⟨0x3001050, 4, 1⟩
abbrev MEM_CAP_STACKS : Fld := ⟨0x8000000, 0, 4⟩
abbrev MEM_CAP_GIB_PER_STACK : Fld := ⟨0x8000000, 4, 8⟩
abbrev MEM_CAP_PC_PER_STACK : Fld := ⟨0x8000000, 12, 7⟩
abbrev MEM_CAP_EXTENTS : Fld := ⟨0x8000000, 19, 10⟩
abbrev MEM_CAP_KEY_SLOTS : Fld := ⟨0x8000000, 29, 8⟩
abbrev MEM_CAP_STACK_GBPS : Fld := ⟨0x8000000, 37, 12⟩
abbrev MEM_STATUS_STACK_ENABLED : Fld := ⟨0x8000008, 0, 8⟩
abbrev MEM_STATUS_GUAR_GBPS_X10 : Fld := ⟨0x8000008, 8, 24⟩
abbrev MEM_STATUS_SCALE_FACTOR : Fld := ⟨0x8000008, 32, 17⟩
abbrev MEM_STATUS_COMMIT_SCALED : Fld := ⟨0x8000008, 49, 1⟩
abbrev MEM_EXT_SEL_EXTENT : Fld := ⟨0x8000010, 0, 10⟩
abbrev MEM_EXT_OWNER : Fld := ⟨0x8000018, 0, 8⟩
abbrev MEM_EXT_DOM_INDEX : Fld := ⟨0x8000018, 8, 10⟩
abbrev MEM_EXT_STATE : Fld := ⟨0x8000018, 18, 2⟩
abbrev MEM_EXT_REPLACEMENT : Fld := ⟨0x8000018, 20, 1⟩
abbrev MEM_DOM_SEL_DOMAIN : Fld := ⟨0x8000020, 0, 7⟩
abbrev MEM_COMMIT_VERM_MBPS : Fld := ⟨0x8000028, 0, 32⟩
abbrev MEM_COMMIT_SLATE_MBPS : Fld := ⟨0x8000028, 32, 32⟩
abbrev MEM_COMMIT_EFF_SLATE_EFF_MBPS : Fld := ⟨0x8000030, 0, 32⟩
abbrev MEM_COMMIT_EFF_N_EXT : Fld := ⟨0x8000030, 32, 10⟩
abbrev MEM_PART_SP_BASE_MIB : Fld := ⟨0x8000038, 0, 8⟩
abbrev MEM_PART_SP_MIB : Fld := ⟨0x8000038, 8, 9⟩
abbrev MEM_PART_ST_BASE_MIB : Fld := ⟨0x8000038, 17, 6⟩
abbrev MEM_PART_ST_MIB : Fld := ⟨0x8000038, 23, 7⟩
abbrev MEM_PART_SWAPPABLE : Fld := ⟨0x8000038, 30, 1⟩
abbrev MEM_PART_RESIDENT : Fld := ⟨0x8000038, 31, 1⟩
abbrev MEM_POOL_SWAP_SP_MIB : Fld := ⟨0x8000040, 0, 9⟩
abbrev MEM_POOL_SWAP_ST_MIB : Fld := ⟨0x8000040, 9, 7⟩
abbrev MEM_POOL_FC_MIB : Fld := ⟨0x8000040, 16, 7⟩
abbrev MEM_POOL_RES_MBPS : Fld := ⟨0x8000040, 23, 32⟩
abbrev MEM_STACK_SEL_STACK : Fld := ⟨0x8000048, 0, 3⟩
abbrev MEM_STACK_LOAD_VLOAD_MBPS : Fld := ⟨0x8000050, 0, 32⟩
abbrev MEM_STACK_LOAD_SLOAD_MBPS : Fld := ⟨0x8000050, 32, 32⟩
abbrev MEM_STACK_ECC_CORRECTED : Fld := ⟨0x8000058, 0, 32⟩
abbrev MEM_STACK_ECC_UNCORRECTED : Fld := ⟨0x8000058, 32, 16⟩
abbrev MEM_STACK_ECC_RETRAINS : Fld := ⟨0x8000058, 48, 16⟩
abbrev MEM_SRAM_ECC_CORRECTED : Fld := ⟨0x8000060, 0, 48⟩
abbrev MEM_SRAM_ECC_UNCORRECTED : Fld := ⟨0x8000060, 48, 16⟩
abbrev MEM_SCRUB_CTRL_PERIOD_H : Fld := ⟨0x8000068, 0, 8⟩
abbrev MEM_SCRUB_CTRL_UE_LIMIT : Fld := ⟨0x8000068, 8, 8⟩
abbrev MEM_SCRUB_CTRL_PASSES : Fld := ⟨0x8000068, 16, 32⟩
abbrev MEM_KEY_STATUS0_ACTIVE : Fld := ⟨0x8000070, 0, 64⟩
abbrev MEM_KEY_STATUS1_ACTIVE : Fld := ⟨0x8000078, 0, 64⟩
abbrev MEM_ERR_STATUS_COMMIT_SCALED : Fld := ⟨0x8000080, 0, 1⟩
abbrev MEM_ERR_STATUS_STACK_LOST : Fld := ⟨0x8000080, 1, 1⟩
abbrev MEM_ERR_STATUS_SPARE_EXHAUSTED : Fld := ⟨0x8000080, 2, 1⟩
abbrev MEM_ERR_STATUS_UE : Fld := ⟨0x8000080, 3, 1⟩
abbrev MEM_ERR_STATUS_SRAM_UE : Fld := ⟨0x8000080, 4, 1⟩
abbrev MEM_ERR_STATUS_KEY_EMPTY_ACCESS : Fld := ⟨0x8000080, 5, 1⟩
abbrev FAB_CAP_NODES : Fld := ⟨0x5000000, 0, 11⟩
abbrev FAB_CAP_PORTS : Fld := ⟨0x5000000, 11, 3⟩
abbrev FAB_CAP_LANES : Fld := ⟨0x5000000, 14, 4⟩
abbrev FAB_CAP_ENGINES : Fld := ⟨0x5000000, 18, 5⟩
abbrev FAB_CAP_TAGS : Fld := ⟨0x5000000, 23, 9⟩
abbrev FAB_CAP_REGIONS : Fld := ⟨0x5000000, 32, 17⟩
abbrev FAB_CAP_BEARINGS : Fld := ⟨0x5000000, 49, 15⟩
abbrev FAB_CTRL_NODE_ID : Fld := ⟨0x5000008, 0, 10⟩
abbrev FAB_CTRL_TIMEOUT_US : Fld := ⟨0x5000008, 10, 17⟩
abbrev FAB_CTRL_LEASE_US : Fld := ⟨0x5000008, 27, 10⟩
abbrev FAB_CTRL_PROBE_US : Fld := ⟨0x5000008, 37, 7⟩
abbrev FAB_CTRL_DOWN_AFTER : Fld := ⟨0x5000008, 44, 4⟩
abbrev FAB_STATUS_PORTS_UP : Fld := ⟨0x5000010, 0, 4⟩
abbrev FAB_STATUS_NODES_DOWN : Fld := ⟨0x5000010, 4, 11⟩
abbrev FAB_STATUS_TAGS_BUSY : Fld := ⟨0x5000010, 15, 13⟩
abbrev FAB_STATUS_TAGS_QUARANTINED : Fld := ⟨0x5000010, 28, 13⟩
abbrev FAB_STATUS_REGIONS_VALID : Fld := ⟨0x5000010, 41, 17⟩
abbrev FAB_PORT_SEL_PORT : Fld := ⟨0x5000018, 0, 2⟩
abbrev FAB_PORT_STATUS_UP : Fld := ⟨0x5000020, 0, 1⟩
abbrev FAB_PORT_STATUS_LANES_ACTIVE : Fld := ⟨0x5000020, 1, 4⟩
abbrev FAB_PORT_STATUS_LANE_LOCK : Fld := ⟨0x5000020, 5, 8⟩
abbrev FAB_PORT_STATUS_RETRAINING : Fld := ⟨0x5000020, 13, 1⟩
abbrev FAB_PORT_STATUS_TX_SEQ : Fld := ⟨0x5000020, 14, 12⟩
abbrev FAB_PORT_STATUS_RX_EXPECTED : Fld := ⟨0x5000020, 26, 12⟩
abbrev FAB_PORT_STATUS_REPLAY_USED : Fld := ⟨0x5000020, 38, 11⟩
abbrev FAB_PORT_STATUS_PEER_NODE : Fld := ⟨0x5000020, 49, 10⟩
abbrev FAB_PORT_CTRL_ENABLE : Fld := ⟨0x5000028, 0, 1⟩
abbrev FAB_PORT_CTRL_WIDEN : Fld := ⟨0x5000028, 1, 1⟩
abbrev FAB_PORT_ERR_FEC_CORRECTED : Fld := ⟨0x5000030, 0, 32⟩
abbrev FAB_PORT_ERR_REPLAYS : Fld := ⟨0x5000030, 32, 16⟩
abbrev FAB_PORT_ERR_RETRAINS : Fld := ⟨0x5000030, 48, 8⟩
abbrev FAB_PORT_ERR_LANE_SHEDS : Fld := ⟨0x5000030, 56, 8⟩
abbrev FAB_ROUTE_SEL_NODE : Fld := ⟨0x5000038, 0, 10⟩
abbrev FAB_ROUTE_PRIMARY_PORT : Fld := ⟨0x5000040, 0, 2⟩
abbrev FAB_ROUTE_PRIMARY_VALID : Fld := ⟨0x5000040, 2, 1⟩
abbrev FAB_ROUTE_ALT_PORT : Fld := ⟨0x5000040, 3, 2⟩
abbrev FAB_ROUTE_ALT_VALID : Fld := ⟨0x5000040, 5, 1⟩
abbrev FAB_ROUTE_DOWN : Fld := ⟨0x5000040, 6, 1⟩
abbrev FAB_ROUTE_LOCAL : Fld := ⟨0x5000040, 7, 1⟩
abbrev FAB_ROUTE_HOP_LIMIT : Fld := ⟨0x5000040, 8, 4⟩
abbrev FAB_REGION_SEL_REGION : Fld := ⟨0x5000048, 0, 16⟩
abbrev FAB_REGION_SEL_WORD : Fld := ⟨0x5000048, 16, 2⟩
abbrev FAB_REGION_SEL_FETCH : Fld := ⟨0x5000048, 18, 1⟩
abbrev FAB_REGION_SEL_COMMIT : Fld := ⟨0x5000048, 19, 1⟩
abbrev FAB_REGION_DATA_DATA : Fld := ⟨0x5000050, 0, 64⟩
abbrev FAB_BEARING_SEL_BEARING : Fld := ⟨0x5000058, 0, 14⟩
abbrev FAB_BEARING_SEL_WORD : Fld := ⟨0x5000058, 14, 2⟩
abbrev FAB_BEARING_SEL_FETCH : Fld := ⟨0x5000058, 16, 1⟩
abbrev FAB_BEARING_SEL_COMMIT : Fld := ⟨0x5000058, 17, 1⟩
abbrev FAB_BEARING_DATA_DATA : Fld := ⟨0x5000060, 0, 64⟩
abbrev FAB_OPS_OPS : Fld := ⟨0x5000068, 0, 64⟩
abbrev FAB_FAIL_UNREACHABLE : Fld := ⟨0x5000070, 0, 32⟩
abbrev FAB_FAIL_TIMEOUTS : Fld := ⟨0x5000070, 32, 32⟩
abbrev FAB_LATE_LATE : Fld := ⟨0x5000078, 0, 32⟩
abbrev FAB_LATE_RETRIED : Fld := ⟨0x5000078, 32, 32⟩
abbrev FAB_CACHE_INVALIDATIONS : Fld := ⟨0x5000080, 0, 32⟩
abbrev FAB_CACHE_LINES_DROPPED : Fld := ⟨0x5000080, 32, 32⟩
abbrev FAB_ERR_STATUS_REGION_CONFLICT : Fld := ⟨0x5000088, 0, 1⟩
abbrev FAB_ERR_STATUS_BEARING_CONFLICT : Fld := ⟨0x5000088, 1, 1⟩
abbrev FAB_ERR_STATUS_STALE_HOME : Fld := ⟨0x5000088, 2, 1⟩
abbrev FAB_ERR_STATUS_NODE_DOWN : Fld := ⟨0x5000088, 3, 1⟩
abbrev FAB_ERR_STATUS_LANE_SHED : Fld := ⟨0x5000088, 4, 1⟩
abbrev FAB_ERR_STATUS_LINK_DOWN : Fld := ⟨0x5000088, 5, 1⟩
abbrev FAB_ERR_STATUS_HOP_LIMIT : Fld := ⟨0x5000088, 6, 1⟩
abbrev FAB_ERR_STATUS_LEASE_CONFIG : Fld := ⟨0x5000088, 7, 1⟩
abbrev INST_ID_INSTANCE : Fld := ⟨0x100000000, 0, 10⟩
abbrev INST_ID_DOMAIN : Fld := ⟨0x100000000, 10, 7⟩
abbrev INST_ID_PASID : Fld := ⟨0x100000000, 17, 20⟩
abbrev INST_ID_OPERATOR : Fld := ⟨0x100000000, 37, 1⟩
abbrev INST_ID_LINK : Fld := ⟨0x100000000, 38, 1⟩
abbrev INST_ID_MAX_RINGS : Fld := ⟨0x100000000, 39, 7⟩
abbrev INST_STATUS_STATE : Fld := ⟨0x100000008, 0, 2⟩
abbrev INST_STATUS_RESET_COUNT : Fld := ⟨0x100000008, 2, 16⟩
abbrev INST_STATUS_DB_DROPPED : Fld := ⟨0x100000008, 18, 16⟩
abbrev INST_STATUS_EVENTS_DROPPED : Fld := ⟨0x100000008, 34, 16⟩
abbrev INST_CTRL_RESET : Fld := ⟨0x100000010, 0, 1⟩
abbrev INST_RESET_INFO_SQUASHED : Fld := ⟨0x100000018, 0, 16⟩
abbrev INST_RESET_INFO_UNPOSTED : Fld := ⟨0x100000018, 16, 16⟩
abbrev INST_RESET_INFO_READS_SQUASHED : Fld := ⟨0x100000018, 32, 16⟩
abbrev INST_RESET_INFO_DESC_DROPPED : Fld := ⟨0x100000018, 48, 16⟩
abbrev INST_METER_ARRAY_NS : Fld := ⟨0x100000020, 0, 64⟩
abbrev INST_METER_VECTOR_NS : Fld := ⟨0x100000028, 0, 64⟩
abbrev INST_METER_RADIO_NS : Fld := ⟨0x100000030, 0, 64⟩
abbrev DOORBELL_SQ_TAIL : Fld := ⟨0x100001000, 0, 16⟩
abbrev DOORBELL_SQ_VALID : Fld := ⟨0x100001000, 16, 1⟩
abbrev DOORBELL_CQ_HEAD : Fld := ⟨0x100001000, 32, 16⟩
abbrev DOORBELL_CQ_VALID : Fld := ⟨0x100001000, 48, 1⟩
abbrev RING_CFG_CLASS : Fld := ⟨0x100002000, 0, 2⟩
abbrev RING_CFG_RING : Fld := ⟨0x100002000, 2, 13⟩
abbrev RING_CFG_PRIVILEGED : Fld := ⟨0x100002000, 15, 1⟩
abbrev RING_CFG_SQ_LOG2 : Fld := ⟨0x100002000, 16, 5⟩
abbrev RING_CFG_CQ_LOG2 : Fld := ⟨0x100002000, 21, 5⟩
abbrev RING_CFG_MAX_LOG2 : Fld := ⟨0x100002000, 26, 5⟩
abbrev RING_CFG_SHARE : Fld := ⟨0x100002000, 31, 16⟩
abbrev RING_CFG_ENABLE : Fld := ⟨0x100002000, 47, 1⟩
abbrev RING_SQ_BASE_ADDR : Fld := ⟨0x100002008, 12, 52⟩
abbrev RING_CQ_BASE_ADDR : Fld := ⟨0x100002010, 12, 52⟩
abbrev RING_IRQ_VECTOR : Fld := ⟨0x100002018, 0, 11⟩
abbrev RING_IRQ_IRQ_EN : Fld := ⟨0x100002018, 11, 1⟩
abbrev RING_IRQ_COAL_COUNT : Fld := ⟨0x100002018, 12, 16⟩
abbrev RING_IRQ_COAL_US : Fld := ⟨0x100002018, 28, 16⟩
abbrev RING_STATUS_STATE : Fld := ⟨0x100002020, 0, 2⟩
abbrev RING_STATUS_SQ_HEAD : Fld := ⟨0x100002020, 2, 16⟩
abbrev RING_STATUS_CQ_TAIL : Fld := ⟨0x100002020, 18, 16⟩
abbrev RING_STATUS_PHASE : Fld := ⟨0x100002020, 34, 1⟩
abbrev RING_STATUS_CQ_WAIT : Fld := ⟨0x100002020, 35, 1⟩
abbrev RING_STATUS_ERR_CAUSE : Fld := ⟨0x100002020, 36, 4⟩
abbrev RING_HEARTBEAT_HEARTBEAT : Fld := ⟨0x100002028, 0, 64⟩
abbrev PCI_CAP_MAX_GEN : Fld := ⟨0xb000000, 0, 4⟩
abbrev PCI_CAP_MAX_WIDTH : Fld := ⟨0xb000000, 4, 5⟩
abbrev PCI_CAP_BIFURCATE : Fld := ⟨0xb000000, 9, 1⟩
abbrev PCI_CAP_INSTANCES : Fld := ⟨0xb000000, 10, 11⟩
abbrev PCI_CAP_RINGS : Fld := ⟨0xb000000, 21, 14⟩
abbrev PCI_CAP_DMA_ENGINES : Fld := ⟨0xb000000, 35, 5⟩
abbrev PCI_CAP_DMA_DESC : Fld := ⟨0xb000000, 40, 11⟩
abbrev PCI_CAP_PRIV_RINGS : Fld := ⟨0xb000000, 51, 5⟩
abbrev PCI_LINK_STATUS0_UP : Fld := ⟨0xb000008, 0, 1⟩
abbrev PCI_LINK_STATUS0_SPEED : Fld := ⟨0xb000008, 1, 3⟩
abbrev PCI_LINK_STATUS0_WIDTH : Fld := ⟨0xb000008, 4, 5⟩
abbrev PCI_LINK_STATUS0_FLIT_MODE : Fld := ⟨0xb000008, 9, 1⟩
abbrev PCI_LINK_STATUS0_RETRAINS : Fld := ⟨0xb000008, 10, 16⟩
abbrev PCI_LINK_STATUS1_UP : Fld := ⟨0xb000010, 0, 1⟩
abbrev PCI_LINK_STATUS1_SPEED : Fld := ⟨0xb000010, 1, 3⟩
abbrev PCI_LINK_STATUS1_WIDTH : Fld := ⟨0xb000010, 4, 5⟩
abbrev PCI_LINK_STATUS1_FLIT_MODE : Fld := ⟨0xb000010, 9, 1⟩
abbrev PCI_LINK_STATUS1_RETRAINS : Fld := ⟨0xb000010, 10, 16⟩
abbrev PCI_DMA_CTRL_CPL_TIMEOUT_US : Fld := ⟨0xb000018, 0, 16⟩
abbrev PCI_DMA_STATUS_DESC_USED : Fld := ⟨0xb000020, 0, 15⟩
abbrev PCI_DMA_STATUS_READS_OUT : Fld := ⟨0xb000020, 15, 13⟩
abbrev PCI_DMA_STATUS_TAGS_QUARANTINED : Fld := ⟨0xb000020, 28, 13⟩
abbrev PCI_DMA_BYTES_BYTES : Fld := ⟨0xb000028, 0, 64⟩
abbrev PCI_LATE_LATE_CPL : Fld := ⟨0xb000030, 0, 32⟩
abbrev PCI_LATE_TIMEOUTS : Fld := ⟨0xb000030, 32, 32⟩
abbrev PCI_ACCESS_ERR_BAD_ACCESS : Fld := ⟨0xb000038, 0, 32⟩
abbrev PCI_ACCESS_ERR_DB_DROPPED : Fld := ⟨0xb000038, 32, 32⟩
abbrev PCI_MBX_ADDR_ADDR : Fld := ⟨0xb000040, 6, 58⟩
abbrev PCI_MBX_CTRL_GO : Fld := ⟨0xb000048, 0, 1⟩
abbrev PCI_MBX_CTRL_BUSY : Fld := ⟨0xb000048, 1, 1⟩
abbrev PCI_MBX_CTRL_LAST_STATUS : Fld := ⟨0xb000048, 2, 8⟩
abbrev PCI_MBX_CTRL_SEQ : Fld := ⟨0xb000048, 10, 16⟩
abbrev PCI_INST_SEL_INSTANCE : Fld := ⟨0xb000050, 0, 10⟩
abbrev PCI_INST_SEL_LOCAL : Fld := ⟨0xb000050, 10, 6⟩
abbrev PCI_INST_INFO_STATE : Fld := ⟨0xb000058, 0, 2⟩
abbrev PCI_INST_INFO_DOMAIN : Fld := ⟨0xb000058, 2, 7⟩
abbrev PCI_INST_INFO_PASID : Fld := ⟨0xb000058, 9, 20⟩
abbrev PCI_INST_INFO_OPERATOR : Fld := ⟨0xb000058, 29, 1⟩
abbrev PCI_INST_INFO_LINK : Fld := ⟨0xb000058, 30, 1⟩
abbrev PCI_INST_INFO_RINGS : Fld := ⟨0xb000058, 31, 7⟩
abbrev PCI_INST_INFO_RESET_COUNT : Fld := ⟨0xb000058, 38, 16⟩
abbrev PCI_RING_INFO_CLASS : Fld := ⟨0xb000060, 0, 2⟩
abbrev PCI_RING_INFO_RING : Fld := ⟨0xb000060, 2, 13⟩
abbrev PCI_RING_INFO_STATE : Fld := ⟨0xb000060, 15, 2⟩
abbrev PCI_RING_INFO_PRIVILEGED : Fld := ⟨0xb000060, 17, 1⟩
abbrev PCI_RING_INFO_VECTOR : Fld := ⟨0xb000060, 18, 11⟩
abbrev PCI_RING_HEARTBEAT_HEARTBEAT : Fld := ⟨0xb000068, 0, 64⟩
abbrev PCI_ERR_STATUS_CPL_TIMEOUT : Fld := ⟨0xb000070, 0, 1⟩
abbrev PCI_ERR_STATUS_LATE_CPL : Fld := ⟨0xb000070, 1, 1⟩
abbrev PCI_ERR_STATUS_DMA_FAULT : Fld := ⟨0xb000070, 2, 1⟩
abbrev PCI_ERR_STATUS_RING_ERROR : Fld := ⟨0xb000070, 3, 1⟩
abbrev PCI_ERR_STATUS_RESET_SLOW : Fld := ⟨0xb000070, 4, 1⟩
abbrev PCI_ERR_STATUS_BAD_ACCESS : Fld := ⟨0xb000070, 5, 1⟩
abbrev ETH_CAP_PORTS : Fld := ⟨0x4000000, 0, 4⟩
abbrev ETH_CAP_LANES : Fld := ⟨0x4000000, 4, 3⟩
abbrev ETH_CAP_STEER : Fld := ⟨0x4000000, 7, 13⟩
abbrev ETH_CAP_POLICERS : Fld := ⟨0x4000000, 20, 13⟩
abbrev ETH_CAP_QUEUES : Fld := ⟨0x4000000, 33, 13⟩
abbrev ETH_CAP_RX_RINGS : Fld := ⟨0x4000000, 46, 13⟩
abbrev ETH_SEL_SUBPORT : Fld := ⟨0x4000008, 0, 5⟩
abbrev ETH_SEL_STEER : Fld := ⟨0x4000008, 5, 12⟩
abbrev ETH_SEL_POLICER : Fld := ⟨0x4000008, 17, 12⟩
abbrev ETH_SEL_PRING : Fld := ⟨0x4000008, 29, 13⟩
abbrev ETH_SEL_QUEUE : Fld := ⟨0x4000008, 42, 12⟩
abbrev ETH_SEL_DOMAIN : Fld := ⟨0x4000008, 54, 7⟩
abbrev ETH_PORT_CTRL_MODE : Fld := ⟨0x4000010, 0, 2⟩
abbrev ETH_PORT_CTRL_ENABLE : Fld := ⟨0x4000010, 2, 1⟩
abbrev ETH_PORT_CTRL_LANE_SHED_EN : Fld := ⟨0x4000010, 3, 1⟩
abbrev ETH_PORT_CTRL_SHED_MODE : Fld := ⟨0x4000010, 4, 1⟩
abbrev ETH_PORT_CTRL_REFORM : Fld := ⟨0x4000010, 5, 1⟩
abbrev ETH_SUB_CTRL_MAX_FRAME : Fld := ⟨0x4000018, 0, 14⟩
abbrev ETH_SUB_CTRL_CUT_THRESH : Fld := ⟨0x4000018, 14, 8⟩
abbrev ETH_SUB_CTRL_RX_HOL_NS : Fld := ⟨0x4000018, 22, 8⟩
abbrev ETH_SUB_CTRL_MACSEC_EN : Fld := ⟨0x4000018, 30, 1⟩
abbrev ETH_SUB_STATUS_UP : Fld := ⟨0x4000020, 0, 1⟩
abbrev ETH_SUB_STATUS_SHED_ALIAS : Fld := ⟨0x4000020, 1, 1⟩
abbrev ETH_SUB_STATUS_ALIAS_OF : Fld := ⟨0x4000020, 2, 5⟩
abbrev ETH_SUB_STATUS_LANE_LOCK : Fld := ⟨0x4000020, 7, 4⟩
abbrev ETH_SUB_STATUS_CROSSING : Fld := ⟨0x4000020, 11, 1⟩
abbrev ETH_FIFO_COUNT_RX_COUNT : Fld := ⟨0x4000028, 0, 10⟩
abbrev ETH_FIFO_COUNT_TX_COUNT : Fld := ⟨0x4000028, 16, 10⟩
abbrev ETH_SUB_FRAMES_RX_FRAMES : Fld := ⟨0x4000030, 0, 32⟩
abbrev ETH_SUB_FRAMES_TX_FRAMES : Fld := ⟨0x4000030, 32, 32⟩
abbrev ETH_RX_DROP0_RUNT : Fld := ⟨0x4000038, 0, 16⟩
abbrev ETH_RX_DROP0_OVERSIZE : Fld := ⟨0x4000038, 16, 16⟩
abbrev ETH_RX_DROP0_FCS : Fld := ⟨0x4000038, 32, 16⟩
abbrev ETH_RX_DROP0_MACSEC : Fld := ⟨0x4000038, 48, 16⟩
abbrev ETH_RX_DROP1_NOMATCH : Fld := ⟨0x4000040, 0, 16⟩
abbrev ETH_RX_DROP1_POLICED : Fld := ⟨0x4000040, 16, 16⟩
abbrev ETH_RX_DROP1_FIFO_FULL : Fld := ⟨0x4000040, 32, 16⟩
abbrev ETH_RX_DROP1_PAUSE : Fld := ⟨0x4000040, 48, 16⟩
abbrev ETH_STEER_SUBPORT : Fld := ⟨0x4000048, 0, 5⟩
abbrev ETH_STEER_TAGGED : Fld := ⟨0x4000048, 5, 1⟩
abbrev ETH_STEER_VID : Fld := ⟨0x4000048, 6, 12⟩
abbrev ETH_STEER_DOMAIN : Fld := ⟨0x4000048, 18, 7⟩
abbrev ETH_STEER_FH_EN : Fld := ⟨0x4000048, 25, 1⟩
abbrev ETH_STEER_RING_EN : Fld := ⟨0x4000048, 26, 1⟩
abbrev ETH_STEER_MACSEC_REQ : Fld := ⟨0x4000048, 27, 1⟩
abbrev ETH_STEER_POLICER : Fld := ⟨0x4000048, 28, 12⟩
abbrev ETH_STEER_POL_EN : Fld := ⟨0x4000048, 40, 1⟩
abbrev ETH_STEER_RING_BASE : Fld := ⟨0x4000048, 41, 12⟩
abbrev ETH_STEER_RING_LOG2 : Fld := ⟨0x4000048, 53, 3⟩
abbrev ETH_STEER_VALID : Fld := ⟨0x4000048, 56, 1⟩
abbrev ETH_POL_RATE_CIR_KBPS : Fld := ⟨0x4000050, 0, 30⟩
abbrev ETH_POL_RATE_PIR_KBPS : Fld := ⟨0x4000050, 30, 30⟩
abbrev ETH_POL_RATE_COLOUR_AWARE : Fld := ⟨0x4000050, 60, 1⟩
abbrev ETH_POL_RATE_DROP_YELLOW : Fld := ⟨0x4000050, 61, 1⟩
abbrev ETH_POL_RATE_VALID : Fld := ⟨0x4000050, 62, 1⟩
abbrev ETH_POL_BURST_CBS : Fld := ⟨0x4000058, 0, 24⟩
abbrev ETH_POL_BURST_PBS : Fld := ⟨0x4000058, 24, 24⟩
abbrev ETH_POL_BURST_PCP_MAP : Fld := ⟨0x4000058, 48, 16⟩
abbrev ETH_PRING_DOMAIN : Fld := ⟨0x4000060, 0, 7⟩
abbrev ETH_PRING_LOG2 : Fld := ⟨0x4000060, 7, 5⟩
abbrev ETH_PRING_CTRL_GRAN : Fld := ⟨0x4000060, 12, 34⟩
abbrev ETH_PRING_POLL : Fld := ⟨0x4000060, 46, 10⟩
abbrev ETH_PRING_ENABLE : Fld := ⟨0x4000060, 56, 1⟩
abbrev ETH_Q_CFG_SUBPORT : Fld := ⟨0x4000068, 0, 5⟩
abbrev ETH_Q_CFG_DOMAIN : Fld := ⟨0x4000068, 5, 7⟩
abbrev ETH_Q_CFG_WHEEL : Fld := ⟨0x4000068, 12, 1⟩
abbrev ETH_Q_CFG_OVERHEAD : Fld := ⟨0x4000068, 13, 5⟩
abbrev ETH_Q_CFG_ENABLE : Fld := ⟨0x4000068, 18, 1⟩
abbrev ETH_Q_CFG_COMMIT : Fld := ⟨0x4000068, 19, 1⟩
abbrev ETH_Q_CFG_IN_WHEEL : Fld := ⟨0x4000068, 20, 1⟩
abbrev ETH_Q_CFG_MOVING : Fld := ⟨0x4000068, 21, 1⟩
abbrev ETH_Q_RATE_CIR_KBPS : Fld := ⟨0x4000070, 0, 30⟩
abbrev ETH_Q_RATE_PIR_KBPS : Fld := ⟨0x4000070, 30, 30⟩
abbrev ETH_Q_BURST_CBS : Fld := ⟨0x4000078, 0, 24⟩
abbrev ETH_Q_BURST_PBS : Fld := ⟨0x4000078, 24, 24⟩
abbrev ETH_DOM_SHARE_SHARE : Fld := ⟨0x4000080, 0, 16⟩
abbrev ETH_TM_CTRL_SAMPLE_US : Fld := ⟨0x4000088, 0, 16⟩
abbrev ETH_TX_BACKLOG_MAX_BYTES : Fld := ⟨0x4000090, 0, 32⟩
abbrev ETH_TX_BACKLOG_MAX_DELAY_NS : Fld := ⟨0x4000090, 32, 32⟩
abbrev ETH_ERR_STATUS_STEER_CONFLICT : Fld := ⟨0x4000098, 0, 1⟩
abbrev ETH_ERR_STATUS_STRICT_CONFLICT : Fld := ⟨0x4000098, 1, 1⟩
abbrev ETH_ERR_STATUS_QCFG_INVALID : Fld := ⟨0x4000098, 2, 1⟩
abbrev ETH_ERR_STATUS_LANE_SHED : Fld := ⟨0x4000098, 3, 1⟩
abbrev ETH_ERR_STATUS_LINK_DOWN : Fld := ⟨0x4000098, 4, 1⟩
abbrev ETH_ERR_STATUS_PN_EXHAUSTED : Fld := ⟨0x4000098, 5, 1⟩
abbrev ETH_ERR_STATUS_FIFO_PARITY : Fld := ⟨0x4000098, 6, 1⟩
abbrev ISO_CAP_DOMAINS : Fld := ⟨0x7000000, 0, 8⟩
abbrev ISO_CAP_REQ_SESSIONS : Fld := ⟨0x7000000, 8, 5⟩
abbrev ISO_CAP_SC_PER_DIR : Fld := ⟨0x7000000, 13, 11⟩
abbrev ISO_CAP_AN_PER_SC : Fld := ⟨0x7000000, 24, 4⟩
abbrev ISO_CAP_EVENT_SOURCES : Fld := ⟨0x7000000, 28, 12⟩
abbrev ISO_DOM_SEL_DOMAIN : Fld := ⟨0x7000008, 0, 7⟩
abbrev ISO_DOM_STATUS_STATE : Fld := ⟨0x7000010, 0, 2⟩
abbrev ISO_DOM_STATUS_STRICT : Fld := ⟨0x7000010, 2, 1⟩
abbrev ISO_DOM_STATUS_KEY_ACTIVE : Fld := ⟨0x7000010, 3, 1⟩
abbrev ISO_DOM_STATUS_KEY_PERSISTED : Fld := ⟨0x7000010, 4, 1⟩
abbrev ISO_DOM_STATUS_SESSIONS : Fld := ⟨0x7000010, 5, 5⟩
abbrev ISO_DOM_STATUS_INSTANCES : Fld := ⟨0x7000010, 10, 10⟩
abbrev ISO_DOM_STATUS_SC_ASSIGNED : Fld := ⟨0x7000010, 20, 12⟩
abbrev ISO_DOM_GEN_CONFIG_GEN : Fld := ⟨0x7000018, 0, 32⟩
abbrev ISO_DOM_GEN_KEY_GEN : Fld := ⟨0x7000018, 32, 32⟩
abbrev ISO_OWNER0_DIGEST : Fld := ⟨0x7000020, 0, 64⟩
abbrev ISO_OWNER1_DIGEST : Fld := ⟨0x7000028, 0, 64⟩
abbrev ISO_OWNER2_DIGEST : Fld := ⟨0x7000030, 0, 64⟩
abbrev ISO_OWNER3_DIGEST : Fld := ⟨0x7000038, 0, 64⟩
abbrev ISO_OWNER4_DIGEST : Fld := ⟨0x7000040, 0, 64⟩
abbrev ISO_OWNER5_DIGEST : Fld := ⟨0x7000048, 0, 64⟩
abbrev ISO_SC_SEL_SUBPORT : Fld := ⟨0x7000050, 0, 5⟩
abbrev ISO_SC_SEL_DIR : Fld := ⟨0x7000050, 5, 1⟩
abbrev ISO_SC_SEL_CHANNEL : Fld := ⟨0x7000050, 6, 10⟩
abbrev ISO_SC_ASSIGN_DOMAIN : Fld := ⟨0x7000058, 0, 7⟩
abbrev ISO_SC_ASSIGN_VALID : Fld := ⟨0x7000058, 7, 1⟩
abbrev ISO_SC_ASSIGN_AN_INSTALLED : Fld := ⟨0x7000058, 8, 4⟩
abbrev ISO_SC_ASSIGN_AN_IN_USE : Fld := ⟨0x7000058, 12, 2⟩
abbrev ISO_MEAS_GEN_DEVICE_GEN : Fld := ⟨0x7000060, 0, 32⟩
abbrev ISO_SESSION_COUNT_ESTABLISHED : Fld := ⟨0x7000068, 0, 32⟩
abbrev ISO_SESSION_COUNT_AUTH_FAIL : Fld := ⟨0x7000068, 32, 32⟩
abbrev ISO_ERR_STATUS_AEAD_FAIL : Fld := ⟨0x7000070, 0, 1⟩
abbrev ISO_ERR_STATUS_SC_CONFLICT : Fld := ⟨0x7000070, 1, 1⟩
abbrev ISO_ERR_STATUS_STRICT_REFUSED : Fld := ⟨0x7000070, 2, 1⟩
abbrev ISO_ERR_STATUS_LINK_AUTH : Fld := ⟨0x7000070, 3, 1⟩
abbrev ISO_ERR_STATUS_PERSIST_DISCARDED : Fld := ⟨0x7000070, 4, 1⟩
abbrev ISO_ERR_STATUS_SESSION_LIMIT : Fld := ⟨0x7000070, 5, 1⟩
abbrev RING_RECKON_STEP : Fld := ⟨0x100002030, 0, 48⟩
abbrev RING_RECKON_HALT_INDEX : Fld := ⟨0x100002030, 48, 16⟩
abbrev RING_SEED_SEED_HALF : Fld := ⟨0x100002038, 0, 64⟩
abbrev MER_STATUS_STATE : Fld := ⟨0x6000000, 0, 2⟩
abbrev MER_STATUS_TIME_VALID : Fld := ⟨0x6000000, 2, 1⟩
abbrev MER_STATUS_HOLD_EXPIRED : Fld := ⟨0x6000000, 3, 1⟩
abbrev MER_STATUS_SLAVE_PORT : Fld := ⟨0x6000000, 4, 5⟩
abbrev MER_STATUS_SLAVE_VALID : Fld := ⟨0x6000000, 9, 1⟩
abbrev MER_STATUS_UTC_OFFSET : Fld := ⟨0x6000000, 10, 8⟩
abbrev MER_STATUS_CLOCK_CLASS : Fld := ⟨0x6000000, 18, 8⟩
abbrev MER_STATUS_STEPS : Fld := ⟨0x6000000, 26, 16⟩
abbrev MER_STATUS_HOLD_MS : Fld := ⟨0x6000000, 42, 22⟩
abbrev MER_TIME_CTRL_LATCH : Fld := ⟨0x6000008, 0, 1⟩
abbrev MER_TIME_CTRL_SET : Fld := ⟨0x6000008, 1, 1⟩
abbrev MER_TIME_CTRL_STEP : Fld := ⟨0x6000008, 2, 1⟩
abbrev MER_TIME_CTRL_TIME_REFUSED : Fld := ⟨0x6000008, 3, 1⟩
abbrev MER_TIME_SEC_SEC : Fld := ⟨0x6000010, 0, 48⟩
abbrev MER_TIME_NS_NS : Fld := ⟨0x6000018, 0, 32⟩
abbrev MER_TIME_NS_SUBNS : Fld := ⟨0x6000018, 32, 16⟩
abbrev MER_TIME_ADJ_ADJ : Fld := ⟨0x6000020, 0, 64⟩
abbrev MER_SERVO_RATE_ADJ : Fld := ⟨0x6000028, 0, 32⟩
abbrev MER_SERVO_LOCK_NS : Fld := ⟨0x6000028, 32, 16⟩
abbrev MER_SERVO_SLEW_PPB : Fld := ⟨0x6000028, 48, 14⟩
abbrev MER_SRC_CTRL_PHASE_SRC : Fld := ⟨0x6000030, 0, 2⟩
abbrev MER_SRC_CTRL_FREQ_SRC : Fld := ⟨0x6000030, 2, 2⟩
abbrev MER_SRC_CTRL_SYNCE_PORT : Fld := ⟨0x6000030, 4, 5⟩
abbrev MER_SRC_CTRL_SRC_AUTO : Fld := ⟨0x6000030, 9, 1⟩
abbrev MER_SRC_CTRL_OUT_FREQ : Fld := ⟨0x6000030, 10, 1⟩
abbrev MER_SRC_CTRL_STEP_NS : Fld := ⟨0x6000030, 11, 16⟩
abbrev MER_SRC_CTRL_HOLD_LIMIT_S : Fld := ⟨0x6000030, 27, 16⟩
abbrev MER_SRC_CTRL_PTP_DOMAIN : Fld := ⟨0x6000030, 43, 7⟩
abbrev MER_SRC_CTRL_PROFILE : Fld := ⟨0x6000030, 50, 1⟩
abbrev MER_AIR_AIR_OFFSET_NS : Fld := ⟨0x6000038, 0, 24⟩
abbrev MER_AIR_SFN : Fld := ⟨0x6000038, 24, 10⟩
abbrev MER_AIR_SLOT_MU1 : Fld := ⟨0x6000038, 34, 9⟩
abbrev MER_PORT_SEL_SUBPORT : Fld := ⟨0x6000040, 0, 5⟩
abbrev MER_PORT_CFG_PTP_EN : Fld := ⟨0x6000048, 0, 1⟩
abbrev MER_PORT_CFG_MASTER_ONLY : Fld := ⟨0x6000048, 1, 1⟩
abbrev MER_PORT_CFG_LOCAL_PRIO : Fld := ⟨0x6000048, 2, 8⟩
abbrev MER_PORT_CFG_SYNC_LOG : Fld := ⟨0x6000048, 10, 3⟩
abbrev MER_PORT_CFG_ANN_LOG : Fld := ⟨0x6000048, 13, 3⟩
abbrev MER_PORT_CFG_SYNCE_RX : Fld := ⟨0x6000048, 16, 1⟩
abbrev MER_PORT_CFG_SYNCE_TX : Fld := ⟨0x6000048, 17, 1⟩
abbrev MER_PORT_CFG_PORT_STATE : Fld := ⟨0x6000048, 18, 2⟩
abbrev MER_PORT_CFG_RX_QL : Fld := ⟨0x6000048, 20, 4⟩
abbrev MER_PORT_DELAY_TX_DELAY : Fld := ⟨0x6000050, 0, 32⟩
abbrev MER_PORT_DELAY_RX_DELAY : Fld := ⟨0x6000050, 32, 32⟩
abbrev MER_TOD_SEC : Fld := ⟨0x6000058, 0, 48⟩
abbrev MER_PPS_CTRL_PPS_OFFSET_NS : Fld := ⟨0x6000060, 0, 32⟩
abbrev MER_PPS_CTRL_PPS_WIDTH_US : Fld := ⟨0x6000060, 32, 19⟩
abbrev MER_PPS_CTRL_PPS_FORCE : Fld := ⟨0x6000060, 51, 1⟩
abbrev MER_PPS_CTRL_PPS_IN_DELAY : Fld := ⟨0x6000060, 52, 12⟩
abbrev MER_PPS_CAPTURE_NS : Fld := ⟨0x6000068, 0, 32⟩
abbrev MER_PPS_CAPTURE_SUBNS : Fld := ⟨0x6000068, 32, 16⟩
abbrev MER_PPS_CAPTURE_EDGES : Fld := ⟨0x6000068, 48, 16⟩
abbrev MER_ERR_STATUS_SOURCE_LOST : Fld := ⟨0x6000070, 0, 1⟩
abbrev MER_ERR_STATUS_HOLD_EXPIRED : Fld := ⟨0x6000070, 1, 1⟩
abbrev MER_ERR_STATUS_STEPPED : Fld := ⟨0x6000070, 2, 1⟩
abbrev MER_ERR_STATUS_TIME_REFUSED : Fld := ⟨0x6000070, 3, 1⟩
abbrev MER_ERR_STATUS_PPS_GLITCH : Fld := ⟨0x6000070, 4, 1⟩
abbrev MER_ERR_STATUS_PPS_STEPPED : Fld := ⟨0x6000070, 5, 1⟩
abbrev MER_ERR_STATUS_QL_DNU : Fld := ⟨0x6000070, 6, 1⟩
abbrev ALM_CAP_FLASH_MIB : Fld := ⟨0x180000, 0, 8⟩
abbrev ALM_CAP_SLOTS : Fld := ⟨0x180000, 8, 3⟩
abbrev ALM_CAP_FLOOR_ROWS : Fld := ⟨0x180000, 11, 6⟩
abbrev ALM_CAP_KEY_ROWS : Fld := ⟨0x180000, 17, 3⟩
abbrev ALM_STATUS_BOOT_STATE : Fld := ⟨0x180008, 0, 3⟩
abbrev ALM_STATUS_BOOTED_ROLE : Fld := ⟨0x180008, 3, 2⟩
abbrev ALM_STATUS_TRIAL : Fld := ⟨0x180008, 5, 1⟩
abbrev ALM_STATUS_TRIES : Fld := ⟨0x180008, 6, 3⟩
abbrev ALM_STATUS_CUR_SLOT : Fld := ⟨0x180008, 9, 3⟩
abbrev ALM_STATUS_PREV_SLOT : Fld := ⟨0x180008, 12, 3⟩
abbrev ALM_STATUS_STAGED_SLOT : Fld := ⟨0x180008, 15, 3⟩
abbrev ALM_STATUS_FACTORY_SLOT : Fld := ⟨0x180008, 18, 3⟩
abbrev ALM_STATUS_HDR_SEQ : Fld := ⟨0x180008, 21, 32⟩
abbrev ALM_STATUS_UPDATE_ACTIVE : Fld := ⟨0x180008, 53, 1⟩
abbrev ALM_STATUS_STAGED_VALID : Fld := ⟨0x180008, 54, 1⟩
abbrev ALM_VERSION_FW_VERSION : Fld := ⟨0x180010, 0, 32⟩
abbrev ALM_VERSION_CFG_VERSION : Fld := ⟨0x180010, 32, 32⟩
abbrev ALM_FLOOR_FW_FLOOR : Fld := ⟨0x180018, 0, 32⟩
abbrev ALM_FLOOR_CFG_FLOOR : Fld := ⟨0x180018, 32, 32⟩
abbrev ALM_FUSE_ROWS_FW_ROWS_USED : Fld := ⟨0x180020, 0, 6⟩
abbrev ALM_FUSE_ROWS_CFG_ROWS_USED : Fld := ⟨0x180020, 6, 6⟩
abbrev ALM_FUSE_ROWS_WENOV_ROWS : Fld := ⟨0x180020, 12, 4⟩
abbrev ALM_FUSE_ROWS_OWNER_ROWS : Fld := ⟨0x180020, 16, 4⟩
abbrev ALM_SLOT_SEL_SLOT : Fld := ⟨0x180028, 0, 2⟩
abbrev ALM_SLOT_SEL_KIND : Fld := ⟨0x180028, 2, 1⟩
abbrev ALM_SLOT_INFO_VERSION : Fld := ⟨0x180030, 0, 32⟩
abbrev ALM_SLOT_INFO_VALID : Fld := ⟨0x180030, 32, 1⟩
abbrev ALM_SLOT_INFO_KEY_ROW : Fld := ⟨0x180030, 33, 2⟩
abbrev ALM_SLOT_INFO_SIZE_KIB : Fld := ⟨0x180030, 35, 15⟩
abbrev ALM_CMD_ADDR_ADDR : Fld := ⟨0x180038, 6, 58⟩
abbrev ALM_CMD_LEN_LEN : Fld := ⟨0x180040, 0, 32⟩
abbrev ALM_CMD_OP : Fld := ⟨0x180048, 0, 8⟩
abbrev ALM_CMD_GO : Fld := ⟨0x180048, 8, 1⟩
abbrev ALM_CMD_BUSY : Fld := ⟨0x180048, 9, 1⟩
abbrev ALM_CMD_STATUS : Fld := ⟨0x180048, 16, 8⟩
abbrev ALM_CMD_RULE : Fld := ⟨0x180048, 24, 16⟩
abbrev ALM_UPDATE_UNITS_TOTAL : Fld := ⟨0x180050, 0, 12⟩
abbrev ALM_UPDATE_UNITS_DONE : Fld := ⟨0x180050, 12, 12⟩
abbrev ALM_UPDATE_CUR_CLASS : Fld := ⟨0x180050, 24, 8⟩
abbrev ALM_UPDATE_CUR_INDEX : Fld := ⟨0x180050, 32, 16⟩
abbrev ALM_UPDATE_PHASE : Fld := ⟨0x180050, 48, 2⟩
abbrev ALM_UPDATE_REVERTING : Fld := ⟨0x180050, 50, 1⟩
abbrev ALM_ERR_STATUS_HDR_INVALID : Fld := ⟨0x180058, 0, 1⟩
abbrev ALM_ERR_STATUS_SLOT_FALLBACK : Fld := ⟨0x180058, 1, 1⟩
abbrev ALM_ERR_STATUS_TRIAL_EXHAUSTED : Fld := ⟨0x180058, 2, 1⟩
abbrev ALM_ERR_STATUS_FLOOR_EXHAUSTED : Fld := ⟨0x180058, 3, 1⟩
abbrev ALM_ERR_STATUS_PREV_BELOW_FLOOR : Fld := ⟨0x180058, 4, 1⟩
abbrev ALM_ERR_STATUS_FLASH_ERROR : Fld := ⟨0x180058, 5, 1⟩
abbrev ALM_ERR_STATUS_UPDATE_ABORTED : Fld := ⟨0x180058, 6, 1⟩
abbrev SXT_CAP_THERMAL : Fld := ⟨0x100000, 0, 7⟩
abbrev SXT_CAP_VOLTAGE : Fld := ⟨0x100000, 7, 6⟩
abbrev SXT_CAP_CURRENT : Fld := ⟨0x100000, 13, 5⟩
abbrev SXT_CAP_LOG_ENTRIES : Fld := ⟨0x100000, 18, 16⟩
abbrev SXT_CAP_MIRROR_ENTRIES : Fld := ⟨0x100000, 34, 18⟩
abbrev SXT_STATUS_CORE_STATE : Fld := ⟨0x100008, 0, 2⟩
abbrev SXT_STATUS_LOG_DEGRADED : Fld := ⟨0x100008, 2, 1⟩
abbrev SXT_STATUS_NVM_LOST : Fld := ⟨0x100008, 3, 1⟩
abbrev SXT_STATUS_LOCK_HELD : Fld := ⟨0x100008, 4, 7⟩
abbrev SXT_STATUS_LEVEL : Fld := ⟨0x100008, 11, 2⟩
abbrev SXT_STATUS_PLDM_ACTIVE : Fld := ⟨0x100008, 13, 1⟩
abbrev SXT_STATUS_LOG_DROPPED : Fld := ⟨0x100008, 14, 16⟩
abbrev SXT_ALERT_SENSOR_WARN : Fld := ⟨0x100010, 0, 1⟩
abbrev SXT_ALERT_SENSOR_CRIT : Fld := ⟨0x100010, 1, 1⟩
abbrev SXT_ALERT_SENSOR_FATAL : Fld := ⟨0x100010, 2, 1⟩
abbrev SXT_ALERT_LOG_DEGRADED : Fld := ⟨0x100010, 3, 1⟩
abbrev SXT_ALERT_BUS_STUCK : Fld := ⟨0x100010, 4, 1⟩
abbrev SXT_ALERT_LOCKSTEP : Fld := ⟨0x100010, 5, 1⟩
abbrev SXT_ALERT_HOLD_EXPIRED : Fld := ⟨0x100010, 6, 1⟩
abbrev SXT_ALERT_MASK_SENSOR_WARN : Fld := ⟨0x100018, 0, 1⟩
abbrev SXT_ALERT_MASK_SENSOR_CRIT : Fld := ⟨0x100018, 1, 1⟩
abbrev SXT_ALERT_MASK_SENSOR_FATAL : Fld := ⟨0x100018, 2, 1⟩
abbrev SXT_ALERT_MASK_LOG_DEGRADED : Fld := ⟨0x100018, 3, 1⟩
abbrev SXT_ALERT_MASK_BUS_STUCK : Fld := ⟨0x100018, 4, 1⟩
abbrev SXT_ALERT_MASK_LOCKSTEP : Fld := ⟨0x100018, 5, 1⟩
abbrev SXT_ALERT_MASK_HOLD_EXPIRED : Fld := ⟨0x100018, 6, 1⟩
abbrev SXT_SENS_SEL_KIND : Fld := ⟨0x100020, 0, 2⟩
abbrev SXT_SENS_SEL_INDEX : Fld := ⟨0x100020, 2, 7⟩
abbrev SXT_SENS_DATA_READING : Fld := ⟨0x100028, 0, 16⟩
abbrev SXT_SENS_DATA_MIN : Fld := ⟨0x100028, 16, 16⟩
abbrev SXT_SENS_DATA_MAX : Fld := ⟨0x100028, 32, 16⟩
abbrev SXT_SENS_DATA_LEVEL : Fld := ⟨0x100028, 48, 2⟩
abbrev SXT_SENS_THR_WARN : Fld := ⟨0x100030, 0, 16⟩
abbrev SXT_SENS_THR_CRIT : Fld := ⟨0x100030, 16, 16⟩
abbrev SXT_SENS_THR_FATAL : Fld := ⟨0x100030, 32, 16⟩
abbrev SXT_SENS_THR_HYST : Fld := ⟨0x100030, 48, 8⟩
abbrev SXT_LOG_HEAD_NEXT_SEQ : Fld := ⟨0x100038, 0, 64⟩
abbrev SXT_LOG_MIRRORED_SEQ : Fld := ⟨0x100040, 0, 64⟩
abbrev SXT_LOG_SEL_SEQ : Fld := ⟨0x100048, 0, 64⟩
abbrev SXT_LOG_STAT_BUSY : Fld := ⟨0x100050, 0, 1⟩
abbrev SXT_LOG_STAT_PRESENT : Fld := ⟨0x100050, 1, 1⟩
abbrev SXT_LOG_STAT_FROM_NVM : Fld := ⟨0x100050, 2, 1⟩
abbrev SXT_LOG_DATA0_DATA : Fld := ⟨0x100058, 0, 64⟩
abbrev SXT_LOG_DATA1_DATA : Fld := ⟨0x100060, 0, 64⟩
abbrev SXT_LOG_DATA2_DATA : Fld := ⟨0x100068, 0, 64⟩
abbrev SXT_LOG_DATA3_DATA : Fld := ⟨0x100070, 0, 64⟩
abbrev SXT_LOG_DATA4_DATA : Fld := ⟨0x100078, 0, 64⟩
abbrev SXT_LOG_DATA5_DATA : Fld := ⟨0x100080, 0, 64⟩
abbrev SXT_LOG_DATA6_DATA : Fld := ⟨0x100088, 0, 64⟩
abbrev SXT_LOG_DATA7_DATA : Fld := ⟨0x100090, 0, 64⟩
abbrev SXT_LOG_CTRL_UART_MIN_SEV : Fld := ⟨0x100098, 0, 2⟩
abbrev SXT_LOG_CTRL_MIRROR_NOW : Fld := ⟨0x100098, 2, 1⟩
abbrev SXT_BUS_SEL_PORT : Fld := ⟨0x1000a0, 0, 1⟩
abbrev SXT_BUS_CTRL_I3C : Fld := ⟨0x1000a8, 0, 1⟩
abbrev SXT_BUS_CTRL_SPEED : Fld := ⟨0x1000a8, 1, 2⟩
abbrev SXT_BUS_CTRL_ADDR : Fld := ⟨0x1000a8, 3, 7⟩
abbrev SXT_BUS_CTRL_RECOVER : Fld := ⟨0x1000a8, 10, 1⟩
abbrev SXT_BUS_CTRL_ISOLATED : Fld := ⟨0x1000a8, 11, 1⟩
abbrev SXT_BUS_CTRL_STUCK_COUNT : Fld := ⟨0x1000a8, 12, 16⟩
abbrev EVC_CAP_COUNTERS : Fld := ⟨0x9000000, 0, 10⟩
abbrev EVC_CAP_SOURCES : Fld := ⟨0x9000000, 10, 12⟩
abbrev EVC_CTRL_DOMAIN_LIMIT : Fld := ⟨0x9000008, 0, 10⟩
abbrev EVC_CTRL_FREEZE : Fld := ⟨0x9000008, 10, 1⟩
abbrev EVC_STATUS_OPERATOR_USED : Fld := ⟨0x9000010, 0, 10⟩
abbrev EVC_STATUS_DOMAIN_USED : Fld := ⟨0x9000010, 10, 10⟩
abbrev EVC_SEL_COUNTER : Fld := ⟨0x9000018, 0, 9⟩
abbrev EVC_CFG_SOURCE : Fld := ⟨0x9000020, 0, 12⟩
abbrev EVC_CFG_ENABLE : Fld := ⟨0x9000020, 12, 1⟩
abbrev EVC_CFG_OWNER : Fld := ⟨0x9000020, 13, 2⟩
abbrev EVC_CFG_GO : Fld := ⟨0x9000020, 15, 1⟩
abbrev EVC_CFG_BUSY : Fld := ⟨0x9000020, 16, 1⟩
abbrev EVC_CFG_STATUS : Fld := ⟨0x9000020, 17, 8⟩
abbrev EVC_VALUE_VALUE : Fld := ⟨0x9000028, 0, 64⟩
abbrev PMC_CAP_MAX_LIMIT_W : Fld := ⟨0xa000000, 0, 11⟩
abbrev PMC_CAP_RESERVE_W : Fld := ⟨0xa000000, 11, 10⟩
abbrev PMC_CAP_ARRAY_SRAM_W : Fld := ⟨0xa000000, 21, 9⟩
abbrev PMC_CAP_LOCK_US : Fld := ⟨0xa000000, 30, 5⟩
abbrev PMC_LIMIT_PKG_LIMIT_W : Fld := ⟨0xa000008, 0, 11⟩
abbrev PMC_LIMIT_GUARD_W : Fld := ⟨0xa000008, 11, 7⟩
abbrev PMC_LIMIT_CRIT_HOLD_MS : Fld := ⟨0xa000008, 18, 16⟩
abbrev PMC_STATUS_DUTY : Fld := ⟨0xa000010, 0, 9⟩
abbrev PMC_STATUS_PKG_W : Fld := ⟨0xa000010, 9, 11⟩
abbrev PMC_STATUS_PEAK_W : Fld := ⟨0xa000010, 20, 11⟩
abbrev PMC_STATUS_CRIT_ACTIVE : Fld := ⟨0xa000010, 31, 1⟩
abbrev PMC_STATUS_STRICT_REDUCED : Fld := ⟨0xa000010, 32, 1⟩
abbrev PMC_STATUS_PLL_RUN : Fld := ⟨0xa000010, 33, 6⟩
abbrev PMC_ALLOW_ARRAY_ALLOW : Fld := ⟨0xa000018, 0, 32⟩
abbrev PMC_ALLOW_VECTOR_ALLOW : Fld := ⟨0xa000018, 32, 32⟩
abbrev PMC_SLEEP_CTRL_ARR_PLL_OFF_US : Fld := ⟨0xa000020, 0, 16⟩
abbrev PMC_SLEEP_CTRL_RADIO_IDLE_US : Fld := ⟨0xa000020, 16, 16⟩
abbrev PMC_SLEEP_CTRL_CORE_IDLE_US : Fld := ⟨0xa000020, 32, 16⟩
abbrev PMC_SLEEP_CTRL_ENG_IDLE_US : Fld := ⟨0xa000020, 48, 16⟩
abbrev PMC_UNIT_SEL_KIND : Fld := ⟨0xa000028, 0, 2⟩
abbrev PMC_UNIT_SEL_INDEX : Fld := ⟨0xa000028, 2, 6⟩
abbrev PMC_UNIT_STATUS_STATE : Fld := ⟨0xa000030, 0, 3⟩
abbrev PMC_UNIT_STATUS_WAKE_LATCHED : Fld := ⟨0xa000030, 3, 1⟩
abbrev PMC_UNIT_STATUS_HELD : Fld := ⟨0xa000030, 4, 1⟩
abbrev PMC_STRICT_SEL_DOMAIN : Fld := ⟨0xa000038, 0, 7⟩
abbrev PMC_STRICT_SHARE_SHARE_W : Fld := ⟨0xa000040, 0, 9⟩
abbrev PMC_STRICT_SHARE_EFF_W : Fld := ⟨0xa000040, 9, 9⟩
abbrev PMC_STRICT_SHARE_DUTY : Fld := ⟨0xa000040, 18, 9⟩
abbrev PMC_COUNT_GATED : Fld := ⟨0xa000048, 0, 32⟩
abbrev PMC_COUNT_SLEEP_ABORTS : Fld := ⟨0xa000048, 32, 16⟩
abbrev PMC_COUNT_LATCHED_WAKES : Fld := ⟨0xa000048, 48, 16⟩
abbrev PMC_ERR_STATUS_PLL_RELOCK : Fld := ⟨0xa000050, 0, 1⟩
abbrev PMC_ERR_STATUS_PLL_FAIL : Fld := ⟨0xa000050, 1, 1⟩
abbrev PMC_ERR_STATUS_STRICT_SCALED : Fld := ⟨0xa000050, 2, 1⟩
abbrev PMC_ERR_STATUS_WAKE_TIMEOUT : Fld := ⟨0xa000050, 3, 1⟩
abbrev PMC_ERR_STATUS_THROTTLED : Fld := ⟨0xa000050, 4, 1⟩
abbrev SXT_RESET_CTRL_ACTION : Fld := ⟨0x101000, 0, 3⟩
abbrev SXT_RESET_CTRL_UNIT_CLASS : Fld := ⟨0x101000, 3, 8⟩
abbrev SXT_RESET_CTRL_UNIT_INDEX : Fld := ⟨0x101000, 11, 16⟩
abbrev SXT_RESET_CTRL_FORCE : Fld := ⟨0x101000, 27, 1⟩
abbrev SXT_RESET_CTRL_GO : Fld := ⟨0x101000, 28, 1⟩
abbrev SXT_RESET_CTRL_BUSY : Fld := ⟨0x101000, 29, 1⟩
abbrev SXT_RESET_CTRL_STATUS : Fld := ⟨0x101000, 30, 8⟩
abbrev SXT_RESET_STATUS_COMPUTE_RESETS : Fld := ⟨0x101008, 0, 16⟩
abbrev SXT_RESET_STATUS_DEVICE_RESETS : Fld := ⟨0x101008, 16, 16⟩
abbrev SXT_RESET_STATUS_LAST_ACTION : Fld := ⟨0x101008, 32, 3⟩
abbrev SXT_RESET_STATUS_LAST_CAUSE : Fld := ⟨0x101008, 35, 16⟩
abbrev SXT_RESET_STATUS_LAST_MS : Fld := ⟨0x101008, 51, 12⟩
abbrev SXT_RESET_STATUS_HELD : Fld := ⟨0x101008, 63, 1⟩
abbrev SXT_HEALTH_SEL_PART : Fld := ⟨0x101010, 0, 5⟩
abbrev SXT_HEALTH_SCORE : Fld := ⟨0x101018, 0, 32⟩
abbrev SXT_HEALTH_LEVEL : Fld := ⟨0x101018, 32, 2⟩
abbrev SXT_HEALTH_THR_WARN : Fld := ⟨0x101020, 0, 32⟩
abbrev SXT_HEALTH_THR_FAIL : Fld := ⟨0x101020, 32, 32⟩
abbrev SXT_HEALTH_CTRL_WINDOW_S : Fld := ⟨0x101028, 0, 12⟩
abbrev SXT_HEALTH_CTRL_CLEAR : Fld := ⟨0x101028, 12, 1⟩
abbrev SXT_FAULT_COUNT_RECORDS : Fld := ⟨0x101030, 0, 32⟩
abbrev SXT_FAULT_COUNT_UNDELIVERED : Fld := ⟨0x101030, 32, 32⟩
abbrev RAD_CELL_HEARTBEAT_HEARTBEAT : Fld := ⟨0x3000050, 0, 64⟩
abbrev GLB_ID_VENDOR : Fld := ⟨0x0, 0, 16⟩
abbrev GLB_ID_PART : Fld := ⟨0x0, 16, 16⟩
abbrev GLB_ID_STEPPING : Fld := ⟨0x0, 32, 8⟩
abbrev GLB_SERIAL_SERIAL : Fld := ⟨0x8, 0, 64⟩
abbrev GLB_VERSION_FW_VERSION : Fld := ⟨0x10, 0, 32⟩
abbrev GLB_VERSION_CFG_VERSION : Fld := ⟨0x10, 32, 32⟩
abbrev GLB_CAP_BLOCKS : Fld := ⟨0x18, 0, 16⟩
abbrev GLB_CAP_MAP_REGS : Fld := ⟨0x18, 16, 8⟩
abbrev GLB_CAP_BAR0_MIB : Fld := ⟨0x18, 24, 8⟩
abbrev GLB_CAP_PAGE_KIB : Fld := ⟨0x18, 32, 8⟩
abbrev GLB_STATUS_BOOT_STATE : Fld := ⟨0x20, 0, 3⟩
abbrev GLB_STATUS_ARRAY_OFFLINE : Fld := ⟨0x20, 3, 1⟩
abbrev GLB_MAP_TROW_TILE_ROWS : Fld := ⟨0x100, 0, 32⟩
abbrev GLB_MAP_TCOL_TILE_COLS : Fld := ⟨0x108, 0, 64⟩
abbrev GLB_MAP_HELM_CORES : Fld := ⟨0x110, 0, 32⟩
abbrev GLB_MAP_MEM_STACKS : Fld := ⟨0x118, 0, 8⟩
abbrev GLB_MAP_RADIO_DEC : Fld := ⟨0x120, 0, 8⟩
abbrev GLB_MAP_RADIO_ENC : Fld := ⟨0x120, 8, 4⟩
abbrev GLB_MAP_RADIO_POLAR : Fld := ⟨0x120, 12, 4⟩
abbrev GLB_MAP_RADIO_EQ : Fld := ⟨0x120, 16, 1⟩
abbrev GLB_MAP_RADIO_DEMAP : Fld := ⟨0x120, 17, 1⟩
abbrev GLB_MAP_RADIO_HARQ : Fld := ⟨0x120, 18, 1⟩
abbrev GLB_MAP_RADIO_TDFE : Fld := ⟨0x120, 19, 1⟩
abbrev GLB_MAP_RADIO_PRACH : Fld := ⟨0x120, 20, 1⟩
abbrev GLB_MAP_RADIO_DECOMP : Fld := ⟨0x120, 21, 1⟩
abbrev GLB_MAP_IO_DMA : Fld := ⟨0x128, 0, 16⟩
abbrev GLB_MAP_IO_FABRIC : Fld := ⟨0x128, 16, 24⟩
abbrev GLB_MAP_IO_ETH : Fld := ⟨0x128, 40, 8⟩
abbrev GLB_MAP_IO_RHUMB : Fld := ⟨0x128, 48, 4⟩
abbrev GLB_MAP_POLICY_REPAIR_AXIS : Fld := ⟨0x140, 0, 1⟩
abbrev GLB_MAP_UNIT_UNIT_CLASS : Fld := ⟨0x148, 0, 8⟩
abbrev GLB_MAP_UNIT_UNIT_INDEX : Fld := ⟨0x148, 8, 16⟩
abbrev GLB_MAP_UNIT_FUSE : Fld := ⟨0x148, 24, 1⟩
abbrev GLB_MAP_UNIT_ALMANAC : Fld := ⟨0x148, 25, 1⟩
abbrev GLB_MAP_UNIT_RUNTIME : Fld := ⟨0x148, 26, 1⟩
abbrev GLB_MAP_UNIT_VALID : Fld := ⟨0x148, 27, 1⟩
abbrev GLB_MAP_UNIT_LAST_CAUSE : Fld := ⟨0x148, 28, 16⟩
abbrev GLB_MAP_CTRL_OP : Fld := ⟨0x150, 0, 2⟩
abbrev GLB_MAP_CTRL_FORCE : Fld := ⟨0x150, 2, 1⟩
abbrev GLB_MAP_CTRL_GO : Fld := ⟨0x150, 3, 1⟩
abbrev GLB_MAP_CTRL_BUSY : Fld := ⟨0x150, 4, 1⟩
abbrev GLB_MAP_CTRL_STATUS : Fld := ⟨0x150, 5, 8⟩
abbrev GLB_MAP_DIGEST0_DIGEST : Fld := ⟨0x160, 0, 64⟩
abbrev GLB_MAP_DIGEST1_DIGEST : Fld := ⟨0x168, 0, 64⟩
abbrev GLB_MAP_DIGEST2_DIGEST : Fld := ⟨0x170, 0, 64⟩
abbrev GLB_MAP_DIGEST3_DIGEST : Fld := ⟨0x178, 0, 64⟩
abbrev GLB_MAP_GEN_CHANGES : Fld := ⟨0x180, 0, 32⟩

end Sys2Proof.Machine.F
end

