-- ==== Sys2Proof/Machine/RegTable.lean ====
section
/-! DEFINITION. The register tables of the manual, block by block (R573): each register with its fields, access codes and
reset sources; and the reset values that are not zero. -/

namespace Sys2Proof.Machine

/-- The TRK_ registers. -/
def regsTrk : List RegDesc := [
  -- TRK_CAP
  ⟨0x2000000, [⟨F.TRK_CAP_TILE_ROWS, .ro, (.val 0x20)⟩, ⟨F.TRK_CAP_TILE_COLS, .ro, (.val 0x40)⟩, ⟨F.TRK_CAP_TILE_SIZE, .ro, (.val 0x40)⟩, ⟨F.TRK_CAP_SPARE_ROWS, .ro, (.val 0x2)⟩, ⟨F.TRK_CAP_SPARE_COLS, .ro, (.val 0x2)⟩, ⟨F.TRK_CAP_WAKE_GROUPS, .ro, (.val 0x40)⟩, ⟨F.TRK_CAP_CLOCK_MHZ, .ro, (.val 0x5dc)⟩]⟩,
  -- TRK_STATUS
  ⟨0x2000008, [⟨F.TRK_STATUS_E_GRANTED, .ro, (.val 0)⟩, ⟨F.TRK_STATUS_C_GRANTED, .ro, (.val 0)⟩, ⟨F.TRK_STATUS_BUSY, .ro, (.val 0)⟩, ⟨F.TRK_STATUS_AWAKE, .ro, (.val 0)⟩, ⟨F.TRK_STATUS_OFFLINE, .ro, (.val 0)⟩]⟩,
  -- TRK_ROW_ENABLE
  ⟨0x2000010, [⟨F.TRK_ROW_ENABLE_ROW_MASK, .ro, .almanac⟩]⟩,
  -- TRK_COL_ENABLE
  ⟨0x2000018, [⟨F.TRK_COL_ENABLE_COL_MASK, .ro, .almanac⟩]⟩,
  -- TRK_FUSE_SUMMARY
  ⟨0x2000020, [⟨F.TRK_FUSE_SUMMARY_TILES_REPAIRED, .ro, .fuse⟩, ⟨F.TRK_FUSE_SUMMARY_ROWS_REPLACED, .ro, .fuse⟩, ⟨F.TRK_FUSE_SUMMARY_COLS_REPLACED, .ro, .fuse⟩, ⟨F.TRK_FUSE_SUMMARY_TILES_FAILED, .ro, .fuse⟩, ⟨F.TRK_FUSE_SUMMARY_SOFT_REPAIR_PRESENT, .ro, .almanac⟩]⟩,
  -- TRK_FUSE_INDEX
  ⟨0x2000028, [⟨F.TRK_FUSE_INDEX_TILE, .rw, (.val 0)⟩, ⟨F.TRK_FUSE_INDEX_AUTO_INC, .rw, (.val 0)⟩]⟩,
  -- TRK_FUSE_DATA
  ⟨0x2000030, [⟨F.TRK_FUSE_DATA_FUSED_RECORD, .ro, .fuse⟩, ⟨F.TRK_FUSE_DATA_EFFECTIVE_RECORD, .ro, .fuse⟩]⟩,
  -- TRK_WAKE_CTRL
  ⟨0x2000038, [⟨F.TRK_WAKE_CTRL_IDLE_US, .rw, .almanac⟩, ⟨F.TRK_WAKE_CTRL_HOST_HOLD, .rw, (.val 0)⟩, ⟨F.TRK_WAKE_CTRL_HELM_HOLD, .ro, (.val 0)⟩]⟩,
  -- TRK_WAKE_STATUS
  ⟨0x2000040, [⟨F.TRK_WAKE_STATUS_GROUP_READY, .ro, (.val 0)⟩]⟩,
  -- TRK_BUSY_CYCLES
  ⟨0x2000048, [⟨F.TRK_BUSY_CYCLES_BUSY_CYCLES, .ro, (.val 0)⟩]⟩,
  -- TRK_ERR_STATUS
  ⟨0x2000050, [⟨F.TRK_ERR_STATUS_FUSE_RECORD_INVALID, .w1c, (.val 0)⟩, ⟨F.TRK_ERR_STATUS_WAKE_LATE, .w1c, (.val 0)⟩, ⟨F.TRK_ERR_STATUS_WEIGHT_PARITY, .w1c, (.val 0)⟩]⟩,
  -- TRK_CHART_CAP
  ⟨0x2001000, [⟨F.TRK_CHART_CAP_CHART_ENTRIES, .ro, (.val 0x10000)⟩, ⟨F.TRK_CHART_CAP_TAGS_PER_RUN, .ro, (.val 0x100)⟩, ⟨F.TRK_CHART_CAP_RUN_CONTEXTS, .ro, (.val 0x400)⟩, ⟨F.TRK_CHART_CAP_MAX_PRODUCTS, .ro, (.val 0x40)⟩, ⟨F.TRK_CHART_CAP_MAX_LOOKAHEAD, .ro, (.val 0x40)⟩]⟩,
  -- TRK_CHART_QUOTA_SEL
  ⟨0x2001008, [⟨F.TRK_CHART_QUOTA_SEL_DOMAIN, .rw, (.val 0)⟩]⟩,
  -- TRK_CHART_QUOTA
  ⟨0x2001010, [⟨F.TRK_CHART_QUOTA_LIMIT, .rw, .almanac⟩]⟩,
  -- TRK_CHART_USED
  ⟨0x2001018, [⟨F.TRK_CHART_USED_CHARTS, .ro, (.val 0)⟩, ⟨F.TRK_CHART_USED_RUNS, .ro, (.val 0)⟩]⟩,
  -- TRK_CMD_GRANTED
  ⟨0x2001020, [⟨F.TRK_CMD_GRANTED_GRANTED, .ro, (.val 0)⟩]⟩,
  -- TRK_PACK_COUNT
  ⟨0x2001028, [⟨F.TRK_PACK_COUNT_PASSES, .ro, (.val 0)⟩, ⟨F.TRK_PACK_COUNT_PRODUCTS, .ro, (.val 0)⟩]⟩,
  -- TRK_GUARD_BLOCKS
  ⟨0x2001030, [⟨F.TRK_GUARD_BLOCKS_RECOMPUTED, .ro, (.val 0)⟩]⟩,
  -- TRK_REJECT_COUNT
  ⟨0x2001038, [⟨F.TRK_REJECT_COUNT_LOAD_REJECTS, .ro, (.val 0)⟩, ⟨F.TRK_REJECT_COUNT_RUN_FAILURES, .ro, (.val 0)⟩]⟩,
  -- TRK_PACK_CTRL
  ⟨0x2001040, [⟨F.TRK_PACK_CTRL_SLATE_COALESCE, .rw, .almanac⟩, ⟨F.TRK_PACK_CTRL_VERMILION_COALESCE, .rw, .almanac⟩]⟩]

/-- The DVU_ registers. -/
def regsDvu : List RegDesc := [
  -- DVU_CAP
  ⟨0x2800000, [⟨F.DVU_CAP_LANES, .ro, (.val 0x1000)⟩, ⟨F.DVU_CAP_CLOCK_MHZ, .ro, (.val 0x5dc)⟩, ⟨F.DVU_CAP_MAX_RING_SLOTS, .ro, (.val 0x10)⟩, ⟨F.DVU_CAP_MAX_POSITIONS, .ro, (.val 0x400000)⟩]⟩,
  -- DVU_STATUS
  ⟨0x2800008, [⟨F.DVU_STATUS_LANES_ENABLED, .ro, (.val 0)⟩, ⟨F.DVU_STATUS_BUSY, .ro, (.val 0)⟩, ⟨F.DVU_STATUS_ATTN_ACTIVE, .ro, (.val 0)⟩, ⟨F.DVU_STATUS_STATE_SAVED, .ro, (.val 0)⟩]⟩,
  -- DVU_VEC_CYCLES
  ⟨0x2800010, [⟨F.DVU_VEC_CYCLES_CYCLES, .ro, (.val 0)⟩]⟩,
  -- DVU_KV_WAIT
  ⟨0x2800018, [⟨F.DVU_KV_WAIT_WAIT_CYCLES, .ro, (.val 0)⟩]⟩,
  -- DVU_KV_BYTES
  ⟨0x2800020, [⟨F.DVU_KV_BYTES_BYTES, .ro, (.val 0)⟩]⟩,
  -- DVU_SEG_SWITCH
  ⟨0x2800028, [⟨F.DVU_SEG_SWITCH_SAVES, .ro, (.val 0)⟩, ⟨F.DVU_SEG_SWITCH_RESTORES, .ro, (.val 0)⟩]⟩,
  -- DVU_ERR_STATUS
  ⟨0x2800030, [⟨F.DVU_ERR_STATUS_LANE_PARITY, .w1c, (.val 0)⟩, ⟨F.DVU_ERR_STATUS_PAGE_BOUNDS, .w1c, (.val 0)⟩, ⟨F.DVU_ERR_STATUS_DRAIN_PARITY, .w1c, (.val 0)⟩]⟩]

/-- The HLM_ registers. -/
def regsHlm : List RegDesc := [
  -- HLM_CAP
  ⟨0x1000000, [⟨F.HLM_CAP_CORES, .ro, (.val 0x20)⟩, ⟨F.HLM_CAP_ARRAY_CORES, .ro, (.val 0x8)⟩, ⟨F.HLM_CAP_RADIO_CORES, .ro, (.val 0x10)⟩, ⟨F.HLM_CAP_QUEUE_CORES, .ro, (.val 0x8)⟩, ⟨F.HLM_CAP_WINDOW, .ro, (.val 0x100)⟩, ⟨F.HLM_CAP_CLOCK_MHZ, .ro, (.val 0x7d0)⟩, ⟨F.HLM_CAP_CAL_ENTRIES, .ro, (.val 0x40)⟩, ⟨F.HLM_CAP_CELLS_PER_CORE, .ro, (.val 0x28)⟩]⟩,
  -- HLM_STATUS
  ⟨0x1000008, [⟨F.HLM_STATUS_WINDOW_USED, .ro, (.val 0)⟩, ⟨F.HLM_STATUS_WINDOW_VERM, .ro, (.val 0)⟩, ⟨F.HLM_STATUS_CORES_ENABLED, .ro, .fuse⟩, ⟨F.HLM_STATUS_ARRAY_CLASS, .ro, (.val 0)⟩, ⟨F.HLM_STATUS_VECTOR_CLASS, .ro, (.val 0)⟩, ⟨F.HLM_STATUS_CAL_ACTIVE, .ro, (.val 0)⟩, ⟨F.HLM_STATUS_RES_SWITCH_ACTIVE, .ro, (.val 0)⟩, ⟨F.HLM_STATUS_SHED_PENDING, .ro, (.val 0)⟩, ⟨F.HLM_STATUS_OCHRE_WINDOW, .ro, (.val 0)⟩]⟩,
  -- HLM_QUANTUM
  ⟨0x1000010, [⟨F.HLM_QUANTUM_QUANTUM_US, .rw, .almanac⟩, ⟨F.HLM_QUANTUM_QUANTUM_CYCLES, .ro, .almanac⟩]⟩,
  -- HLM_WINDOW_CTRL
  ⟨0x1000018, [⟨F.HLM_WINDOW_CTRL_VERM_RSV, .rw, .almanac⟩]⟩,
  -- HLM_ADMIT_CTRL
  ⟨0x1000020, [⟨F.HLM_ADMIT_CTRL_VERM_CAP_PCT, .rw, .almanac⟩, ⟨F.HLM_ADMIT_CTRL_RES_GAP_US, .rw, .almanac⟩, ⟨F.HLM_ADMIT_CTRL_MARGIN, .rw, (.val 0x1)⟩, ⟨F.HLM_ADMIT_CTRL_OCHRE_PERMILLE, .rw, .almanac⟩]⟩,
  -- HLM_ADMIT_STATUS
  ⟨0x1000028, [⟨F.HLM_ADMIT_STATUS_CELLS_ADMITTED, .ro, (.val 0)⟩, ⟨F.HLM_ADMIT_STATUS_LOAD_PERMILLE, .ro, (.val 0)⟩, ⟨F.HLM_ADMIT_STATUS_MARGIN_PERMILLE, .ro, (.val 0)⟩, ⟨F.HLM_ADMIT_STATUS_LAST_RESULT, .ro, (.val 0)⟩, ⟨F.HLM_ADMIT_STATUS_LAST_SLOT, .ro, (.val 0)⟩, ⟨F.HLM_ADMIT_STATUS_MARGIN_E_PASS, .ro, (.val 0)⟩, ⟨F.HLM_ADMIT_STATUS_MARGIN_C_PASS, .ro, (.val 0)⟩]⟩,
  -- HLM_SHARE_SEL
  ⟨0x1000030, [⟨F.HLM_SHARE_SEL_KIND, .rw, (.val 0)⟩, ⟨F.HLM_SHARE_SEL_ID, .rw, (.val 0)⟩]⟩,
  -- HLM_SHARE
  ⟨0x1000038, [⟨F.HLM_SHARE_SHARE, .rw, (.val 0x1)⟩, ⟨F.HLM_SHARE_ACTIVE, .ro, (.val 0)⟩]⟩,
  -- HLM_VTIME
  ⟨0x1000040, [⟨F.HLM_VTIME_VTIME, .ro, (.val 0)⟩]⟩,
  -- HLM_METER_SEL
  ⟨0x1000048, [⟨F.HLM_METER_SEL_DOMAIN, .rw, (.val 0)⟩]⟩,
  -- HLM_METER_ARRAY
  ⟨0x1000050, [⟨F.HLM_METER_ARRAY_NS, .ro, (.val 0)⟩]⟩,
  -- HLM_METER_VECTOR
  ⟨0x1000058, [⟨F.HLM_METER_VECTOR_NS, .ro, (.val 0)⟩]⟩,
  -- HLM_METER_RADIO
  ⟨0x1000060, [⟨F.HLM_METER_RADIO_NS, .ro, (.val 0)⟩]⟩,
  -- HLM_CAL_CTRL
  ⟨0x1000068, [⟨F.HLM_CAL_CTRL_ENABLE, .ro, (.val 0)⟩, ⟨F.HLM_CAL_CTRL_COMMIT, .wo, (.val 0)⟩, ⟨F.HLM_CAL_CTRL_DISABLE, .wo, (.val 0)⟩, ⟨F.HLM_CAL_CTRL_COMMIT_BUSY, .ro, (.val 0)⟩, ⟨F.HLM_CAL_CTRL_COMMIT_RESULT, .ro, (.val 0)⟩]⟩,
  -- HLM_CAL_SEL
  ⟨0x1000070, [⟨F.HLM_CAL_SEL_ENTRY, .rw, (.val 0)⟩]⟩,
  -- HLM_CAL_ENTRY
  ⟨0x1000078, [⟨F.HLM_CAL_ENTRY_START, .rw, (.val 0)⟩, ⟨F.HLM_CAL_ENTRY_LENGTH, .rw, (.val 0)⟩, ⟨F.HLM_CAL_ENTRY_DOMAIN, .rw, (.val 0)⟩, ⟨F.HLM_CAL_ENTRY_VALID, .rw, (.val 0)⟩]⟩,
  -- HLM_RES_SWITCH
  ⟨0x1000080, [⟨F.HLM_RES_SWITCH_SWITCHES, .ro, (.val 0)⟩, ⟨F.HLM_RES_SWITCH_DEFERRED, .ro, (.val 0)⟩]⟩,
  -- HLM_VERM_WAIT
  ⟨0x1000088, [⟨F.HLM_VERM_WAIT_MAX_WAIT, .rc, (.val 0)⟩, ⟨F.HLM_VERM_WAIT_LATE, .rc, (.val 0)⟩]⟩,
  -- HLM_ERR_STATUS
  ⟨0x1000090, [⟨F.HLM_ERR_STATUS_QUANTUM_REFUSED, .w1c, (.val 0)⟩, ⟨F.HLM_ERR_STATUS_ADMIT_REFUSED, .w1c, (.val 0)⟩, ⟨F.HLM_ERR_STATUS_QUANTUM_EXCEEDED, .w1c, (.val 0)⟩, ⟨F.HLM_ERR_STATUS_CAPACITY_LOSS, .w1c, (.val 0)⟩, ⟨F.HLM_ERR_STATUS_SHED, .w1c, (.val 0)⟩, ⟨F.HLM_ERR_STATUS_CORE_DISABLED, .w1c, (.val 0)⟩]⟩]

/-- The RAD_ registers. -/
def regsRad : List RegDesc := [
  -- RAD_CAP
  ⟨0x3000000, [⟨F.RAD_CAP_CELL_SLOTS, .ro, (.val 0x200)⟩, ⟨F.RAD_CAP_STREAM_QUARTERS, .ro, (.val 0x1800)⟩, ⟨F.RAD_CAP_TD_STREAMS, .ro, (.val 0x100)⟩, ⟨F.RAD_CAP_LDPC_DEC, .ro, (.val 0x8)⟩, ⟨F.RAD_CAP_LDPC_ENC, .ro, (.val 0x4)⟩, ⟨F.RAD_CAP_POLAR, .ro, (.val 0x4)⟩, ⟨F.RAD_CAP_MAX_LAYERS, .ro, (.val 0x10)⟩, ⟨F.RAD_CAP_MAX_RX, .ro, (.val 0x40)⟩]⟩,
  -- RAD_CAP1
  ⟨0x3000008, [⟨F.RAD_CAP1_CLOCK_MHZ, .ro, (.val 0x4b0)⟩, ⟨F.RAD_CAP1_DEC_GBPS, .ro, (.val 0x60)⟩, ⟨F.RAD_CAP1_ENC_GBPS, .ro, (.val 0x200)⟩, ⟨F.RAD_CAP1_PRACH_ROOTS, .ro, (.val 0x200)⟩]⟩,
  -- RAD_STATUS
  ⟨0x3000010, [⟨F.RAD_STATUS_CELLS_ACTIVE, .ro, (.val 0)⟩, ⟨F.RAD_STATUS_UL_QUARTERS, .ro, (.val 0)⟩, ⟨F.RAD_STATUS_DL_QUARTERS, .ro, (.val 0)⟩, ⟨F.RAD_STATUS_TD_USED, .ro, (.val 0)⟩, ⟨F.RAD_STATUS_SHED_PENDING, .ro, (.val 0)⟩]⟩,
  -- RAD_CELL_SEL
  ⟨0x3000018, [⟨F.RAD_CELL_SEL_CELL, .rw, (.val 0)⟩]⟩,
  -- RAD_CELL_ASSIGN
  ⟨0x3000020, [⟨F.RAD_CELL_ASSIGN_DOMAIN, .rw, .almanac⟩, ⟨F.RAD_CELL_ASSIGN_ASSIGNED, .rw, .almanac⟩, ⟨F.RAD_CELL_ASSIGN_SHED_RANK, .rw, .almanac⟩]⟩,
  -- RAD_CELL_STATUS
  ⟨0x3000028, [⟨F.RAD_CELL_STATUS_STATE, .ro, (.val 0)⟩, ⟨F.RAD_CELL_STATUS_ORCH, .ro, (.val 0)⟩, ⟨F.RAD_CELL_STATUS_UL_QUARTERS, .ro, (.val 0)⟩, ⟨F.RAD_CELL_STATUS_DL_QUARTERS, .ro, (.val 0)⟩, ⟨F.RAD_CELL_STATUS_GROUP_MEMBER, .ro, (.val 0)⟩, ⟨F.RAD_CELL_STATUS_GROUP_LEAD, .ro, (.val 0)⟩]⟩,
  -- RAD_SLOT_COUNT
  ⟨0x3000030, [⟨F.RAD_SLOT_COUNT_SLOTS, .ro, (.val 0)⟩]⟩,
  -- RAD_LATE_COUNT
  ⟨0x3000038, [⟨F.RAD_LATE_COUNT_POST_LATE, .ro, (.val 0)⟩, ⟨F.RAD_LATE_COUNT_AIR_MISSED, .ro, (.val 0)⟩]⟩,
  -- RAD_SHED_COUNT
  ⟨0x3000040, [⟨F.RAD_SHED_COUNT_CELLS_SHED, .ro, (.val 0)⟩, ⟨F.RAD_SHED_COUNT_UNCOVERED, .ro, (.val 0)⟩]⟩,
  -- RAD_ERR_STATUS
  ⟨0x3000048, [⟨F.RAD_ERR_STATUS_ASSIGN_REFUSED, .w1c, (.val 0)⟩, ⟨F.RAD_ERR_STATUS_SHED, .w1c, (.val 0)⟩, ⟨F.RAD_ERR_STATUS_MODEL_FAULT, .w1c, (.val 0)⟩, ⟨F.RAD_ERR_STATUS_UNCOVERED, .w1c, (.val 0)⟩, ⟨F.RAD_ERR_STATUS_ENGINE_LOST, .w1c, (.val 0)⟩]⟩,
  -- RAD_CELL_HEARTBEAT
  ⟨0x3000050, [⟨F.RAD_CELL_HEARTBEAT_HEARTBEAT, .ro, (.val 0)⟩]⟩]

/-- The FH_ registers. -/
def regsFh : List RegDesc := [
  -- FH_CAP
  ⟨0x3800000, [⟨F.FH_CAP_CLS_ENTRIES, .ro, (.val 0x4000)⟩, ⟨F.FH_CAP_GRANT_ENTRIES, .ro, (.val 0x400)⟩, ⟨F.FH_CAP_TD_STREAMS, .ro, (.val 0x100)⟩, ⟨F.FH_CAP_BFP_MIN_WIDTH, .ro, (.val 0x8)⟩, ⟨F.FH_CAP_BFP_MAX_WIDTH, .ro, (.val 0x10)⟩, ⟨F.FH_CAP_FFT_MAX, .ro, (.val 0x1000)⟩]⟩,
  -- FH_STATUS
  ⟨0x3800008, [⟨F.FH_STATUS_CLS_USED, .ro, (.val 0)⟩, ⟨F.FH_STATUS_GRANTS_VALID, .ro, .almanac⟩]⟩,
  -- FH_GRANT_SEL
  ⟨0x3800010, [⟨F.FH_GRANT_SEL_ENTRY, .rw, (.val 0)⟩]⟩,
  -- FH_GRANT
  ⟨0x3800018, [⟨F.FH_GRANT_SUBPORT, .rw, .almanac⟩, ⟨F.FH_GRANT_TAGGED, .rw, .almanac⟩, ⟨F.FH_GRANT_VID, .rw, .almanac⟩, ⟨F.FH_GRANT_DOMAIN, .rw, .almanac⟩, ⟨F.FH_GRANT_VALID, .rw, .almanac⟩]⟩,
  -- FH_RX_FRAMES
  ⟨0x3800020, [⟨F.FH_RX_FRAMES_FRAMES, .ro, (.val 0)⟩]⟩,
  -- FH_DROP_CLASS
  ⟨0x3800028, [⟨F.FH_DROP_CLASS_NOMATCH, .ro, (.val 0)⟩, ⟨F.FH_DROP_CLASS_SA_MISMATCH, .ro, (.val 0)⟩]⟩,
  -- FH_DROP_TIME
  ⟨0x3800030, [⟨F.FH_DROP_TIME_EARLY, .ro, (.val 0)⟩, ⟨F.FH_DROP_TIME_LATE, .ro, (.val 0)⟩]⟩,
  -- FH_DROP_FORMAT
  ⟨0x3800038, [⟨F.FH_DROP_FORMAT_FORMAT, .ro, (.val 0)⟩, ⟨F.FH_DROP_FORMAT_NOSLOT, .ro, (.val 0)⟩]⟩,
  -- FH_DROP_DUP
  ⟨0x3800040, [⟨F.FH_DROP_DUP_DUP, .ro, (.val 0)⟩, ⟨F.FH_DROP_DUP_MISSING_PRB, .ro, (.val 0)⟩]⟩,
  -- FH_TX_FRAMES
  ⟨0x3800048, [⟨F.FH_TX_FRAMES_FRAMES, .ro, (.val 0)⟩]⟩,
  -- FH_ERR_STATUS
  ⟨0x3800050, [⟨F.FH_ERR_STATUS_GRANT_CONFLICT, .w1c, (.val 0)⟩, ⟨F.FH_ERR_STATUS_DECOMP_PARITY, .w1c, (.val 0)⟩, ⟨F.FH_ERR_STATUS_FFT_PARITY, .w1c, (.val 0)⟩, ⟨F.FH_ERR_STATUS_PRACH_PARITY, .w1c, (.val 0)⟩]⟩]

/-- The radio-engine registers of the RAD_ block (R287). -/
def regsRade : List RegDesc := [
  -- RAD_ENG_STATUS
  ⟨0x3001000, [⟨F.RAD_ENG_STATUS_DEC_ENABLED, .ro, .fuse⟩, ⟨F.RAD_ENG_STATUS_ENC_ENABLED, .ro, .fuse⟩, ⟨F.RAD_ENG_STATUS_POLAR_ENABLED, .ro, .fuse⟩, ⟨F.RAD_ENG_STATUS_EQ_ENABLED, .ro, .fuse⟩, ⟨F.RAD_ENG_STATUS_DEMAP_ENABLED, .ro, .fuse⟩, ⟨F.RAD_ENG_STATUS_HARQ_ENABLED, .ro, .fuse⟩]⟩,
  -- RAD_DEC_CBS
  ⟨0x3001008, [⟨F.RAD_DEC_CBS_CBS, .ro, (.val 0)⟩]⟩,
  -- RAD_DEC_ITERS
  ⟨0x3001010, [⟨F.RAD_DEC_ITERS_ITERS, .ro, (.val 0)⟩]⟩,
  -- RAD_DEC_FAIL
  ⟨0x3001018, [⟨F.RAD_DEC_FAIL_CB_FAIL, .ro, (.val 0)⟩, ⟨F.RAD_DEC_FAIL_ITER_CUT, .ro, (.val 0)⟩]⟩,
  -- RAD_HARQ_EVENTS
  ⟨0x3001020, [⟨F.RAD_HARQ_EVENTS_NOBUF, .ro, (.val 0)⟩, ⟨F.RAD_HARQ_EVENTS_MISMATCH, .ro, (.val 0)⟩]⟩,
  -- RAD_ENC_CBS
  ⟨0x3001028, [⟨F.RAD_ENC_CBS_CBS, .ro, (.val 0)⟩]⟩,
  -- RAD_POLAR_JOBS
  ⟨0x3001030, [⟨F.RAD_POLAR_JOBS_ENCODES, .ro, (.val 0)⟩, ⟨F.RAD_POLAR_JOBS_DECODES, .ro, (.val 0)⟩]⟩,
  -- RAD_EQ_RE
  ⟨0x3001038, [⟨F.RAD_EQ_RE_RE, .ro, (.val 0)⟩]⟩,
  -- RAD_SPILL_BYTES
  ⟨0x3001040, [⟨F.RAD_SPILL_BYTES_BYTES, .ro, (.val 0)⟩]⟩,
  -- RAD_DEC_BACKLOG
  ⟨0x3001048, [⟨F.RAD_DEC_BACKLOG_MAX_BACKLOG, .rc, (.val 0)⟩]⟩,
  -- RAD_ENG_ERR
  ⟨0x3001050, [⟨F.RAD_ENG_ERR_DEC_PARITY, .w1c, (.val 0)⟩, ⟨F.RAD_ENG_ERR_ENC_PARITY, .w1c, (.val 0)⟩, ⟨F.RAD_ENG_ERR_POLAR_PARITY, .w1c, (.val 0)⟩, ⟨F.RAD_ENG_ERR_EQ_PARITY, .w1c, (.val 0)⟩, ⟨F.RAD_ENG_ERR_HARQ_BOUNDS, .w1c, (.val 0)⟩]⟩]

/-- The MEM_ registers. -/
def regsMem : List RegDesc := [
  -- MEM_CAP
  ⟨0x8000000, [⟨F.MEM_CAP_STACKS, .ro, (.val 0x8)⟩, ⟨F.MEM_CAP_GIB_PER_STACK, .ro, (.val 0x60)⟩, ⟨F.MEM_CAP_PC_PER_STACK, .ro, (.val 0x40)⟩, ⟨F.MEM_CAP_EXTENTS, .ro, (.val 0x300)⟩, ⟨F.MEM_CAP_KEY_SLOTS, .ro, (.val 0x80)⟩, ⟨F.MEM_CAP_STACK_GBPS, .ro, (.val 0x800)⟩]⟩,
  -- MEM_STATUS
  ⟨0x8000008, [⟨F.MEM_STATUS_STACK_ENABLED, .ro, .fuse⟩, ⟨F.MEM_STATUS_GUAR_GBPS_X10, .ro, .fuse⟩, ⟨F.MEM_STATUS_SCALE_FACTOR, .ro, (.val 0x10000)⟩, ⟨F.MEM_STATUS_COMMIT_SCALED, .ro, (.val 0)⟩]⟩,
  -- MEM_EXT_SEL
  ⟨0x8000010, [⟨F.MEM_EXT_SEL_EXTENT, .rw, (.val 0)⟩]⟩,
  -- MEM_EXT
  ⟨0x8000018, [⟨F.MEM_EXT_OWNER, .ro, .almanac⟩, ⟨F.MEM_EXT_DOM_INDEX, .ro, .almanac⟩, ⟨F.MEM_EXT_STATE, .ro, .almanac⟩, ⟨F.MEM_EXT_REPLACEMENT, .ro, (.val 0)⟩]⟩,
  -- MEM_DOM_SEL
  ⟨0x8000020, [⟨F.MEM_DOM_SEL_DOMAIN, .rw, (.val 0)⟩]⟩,
  -- MEM_COMMIT
  ⟨0x8000028, [⟨F.MEM_COMMIT_VERM_MBPS, .ro, .almanac⟩, ⟨F.MEM_COMMIT_SLATE_MBPS, .ro, .almanac⟩]⟩,
  -- MEM_COMMIT_EFF
  ⟨0x8000030, [⟨F.MEM_COMMIT_EFF_SLATE_EFF_MBPS, .ro, .almanac⟩, ⟨F.MEM_COMMIT_EFF_N_EXT, .ro, .almanac⟩]⟩,
  -- MEM_PART
  ⟨0x8000038, [⟨F.MEM_PART_SP_BASE_MIB, .ro, .almanac⟩, ⟨F.MEM_PART_SP_MIB, .ro, .almanac⟩, ⟨F.MEM_PART_ST_BASE_MIB, .ro, .almanac⟩, ⟨F.MEM_PART_ST_MIB, .ro, .almanac⟩, ⟨F.MEM_PART_SWAPPABLE, .ro, .almanac⟩, ⟨F.MEM_PART_RESIDENT, .ro, .almanac⟩]⟩,
  -- MEM_POOL
  ⟨0x8000040, [⟨F.MEM_POOL_SWAP_SP_MIB, .ro, .almanac⟩, ⟨F.MEM_POOL_SWAP_ST_MIB, .ro, .almanac⟩, ⟨F.MEM_POOL_FC_MIB, .ro, .almanac⟩, ⟨F.MEM_POOL_RES_MBPS, .ro, .almanac⟩]⟩,
  -- MEM_STACK_SEL
  ⟨0x8000048, [⟨F.MEM_STACK_SEL_STACK, .rw, (.val 0)⟩]⟩,
  -- MEM_STACK_LOAD
  ⟨0x8000050, [⟨F.MEM_STACK_LOAD_VLOAD_MBPS, .ro, .almanac⟩, ⟨F.MEM_STACK_LOAD_SLOAD_MBPS, .ro, .almanac⟩]⟩,
  -- MEM_STACK_ECC
  ⟨0x8000058, [⟨F.MEM_STACK_ECC_CORRECTED, .ro, (.val 0)⟩, ⟨F.MEM_STACK_ECC_UNCORRECTED, .ro, (.val 0)⟩, ⟨F.MEM_STACK_ECC_RETRAINS, .ro, (.val 0)⟩]⟩,
  -- MEM_SRAM_ECC
  ⟨0x8000060, [⟨F.MEM_SRAM_ECC_CORRECTED, .ro, (.val 0)⟩, ⟨F.MEM_SRAM_ECC_UNCORRECTED, .ro, (.val 0)⟩]⟩,
  -- MEM_SCRUB_CTRL
  ⟨0x8000068, [⟨F.MEM_SCRUB_CTRL_PERIOD_H, .rw, .almanac⟩, ⟨F.MEM_SCRUB_CTRL_UE_LIMIT, .rw, .almanac⟩, ⟨F.MEM_SCRUB_CTRL_PASSES, .ro, (.val 0)⟩]⟩,
  -- MEM_KEY_STATUS0
  ⟨0x8000070, [⟨F.MEM_KEY_STATUS0_ACTIVE, .ro, (.val 0)⟩]⟩,
  -- MEM_KEY_STATUS1
  ⟨0x8000078, [⟨F.MEM_KEY_STATUS1_ACTIVE, .ro, (.val 0)⟩]⟩,
  -- MEM_ERR_STATUS
  ⟨0x8000080, [⟨F.MEM_ERR_STATUS_COMMIT_SCALED, .w1c, (.val 0)⟩, ⟨F.MEM_ERR_STATUS_STACK_LOST, .w1c, (.val 0)⟩, ⟨F.MEM_ERR_STATUS_SPARE_EXHAUSTED, .w1c, (.val 0)⟩, ⟨F.MEM_ERR_STATUS_UE, .w1c, (.val 0)⟩, ⟨F.MEM_ERR_STATUS_SRAM_UE, .w1c, (.val 0)⟩, ⟨F.MEM_ERR_STATUS_KEY_EMPTY_ACCESS, .w1c, (.val 0)⟩]⟩]

/-- The FAB_ registers. -/
def regsFab : List RegDesc := [
  -- FAB_CAP
  ⟨0x5000000, [⟨F.FAB_CAP_NODES, .ro, (.val 0x400)⟩, ⟨F.FAB_CAP_PORTS, .ro, (.val 0x4)⟩, ⟨F.FAB_CAP_LANES, .ro, (.val 0x8)⟩, ⟨F.FAB_CAP_ENGINES, .ro, (.val 0x18)⟩, ⟨F.FAB_CAP_TAGS, .ro, (.val 0x100)⟩, ⟨F.FAB_CAP_REGIONS, .ro, (.val 0x10000)⟩, ⟨F.FAB_CAP_BEARINGS, .ro, (.val 0x4000)⟩]⟩,
  -- FAB_CTRL
  ⟨0x5000008, [⟨F.FAB_CTRL_NODE_ID, .ro, .almanac⟩, ⟨F.FAB_CTRL_TIMEOUT_US, .rw, .almanac⟩, ⟨F.FAB_CTRL_LEASE_US, .rw, .almanac⟩, ⟨F.FAB_CTRL_PROBE_US, .rw, .almanac⟩, ⟨F.FAB_CTRL_DOWN_AFTER, .rw, (.val 0x3)⟩]⟩,
  -- FAB_STATUS
  ⟨0x5000010, [⟨F.FAB_STATUS_PORTS_UP, .ro, (.val 0)⟩, ⟨F.FAB_STATUS_NODES_DOWN, .ro, (.val 0)⟩, ⟨F.FAB_STATUS_TAGS_BUSY, .ro, (.val 0)⟩, ⟨F.FAB_STATUS_TAGS_QUARANTINED, .ro, (.val 0)⟩, ⟨F.FAB_STATUS_REGIONS_VALID, .ro, .almanac⟩]⟩,
  -- FAB_PORT_SEL
  ⟨0x5000018, [⟨F.FAB_PORT_SEL_PORT, .rw, (.val 0)⟩]⟩,
  -- FAB_PORT_STATUS
  ⟨0x5000020, [⟨F.FAB_PORT_STATUS_UP, .ro, (.val 0)⟩, ⟨F.FAB_PORT_STATUS_LANES_ACTIVE, .ro, (.val 0)⟩, ⟨F.FAB_PORT_STATUS_LANE_LOCK, .ro, (.val 0)⟩, ⟨F.FAB_PORT_STATUS_RETRAINING, .ro, (.val 0)⟩, ⟨F.FAB_PORT_STATUS_TX_SEQ, .ro, (.val 0)⟩, ⟨F.FAB_PORT_STATUS_RX_EXPECTED, .ro, (.val 0)⟩, ⟨F.FAB_PORT_STATUS_REPLAY_USED, .ro, (.val 0)⟩, ⟨F.FAB_PORT_STATUS_PEER_NODE, .ro, (.val 0)⟩]⟩,
  -- FAB_PORT_CTRL
  ⟨0x5000028, [⟨F.FAB_PORT_CTRL_ENABLE, .rw, .almanac⟩, ⟨F.FAB_PORT_CTRL_WIDEN, .wo, (.val 0)⟩]⟩,
  -- FAB_PORT_ERR
  ⟨0x5000030, [⟨F.FAB_PORT_ERR_FEC_CORRECTED, .ro, (.val 0)⟩, ⟨F.FAB_PORT_ERR_REPLAYS, .ro, (.val 0)⟩, ⟨F.FAB_PORT_ERR_RETRAINS, .ro, (.val 0)⟩, ⟨F.FAB_PORT_ERR_LANE_SHEDS, .ro, (.val 0)⟩]⟩,
  -- FAB_ROUTE_SEL
  ⟨0x5000038, [⟨F.FAB_ROUTE_SEL_NODE, .rw, (.val 0)⟩]⟩,
  -- FAB_ROUTE
  ⟨0x5000040, [⟨F.FAB_ROUTE_PRIMARY_PORT, .rw, .almanac⟩, ⟨F.FAB_ROUTE_PRIMARY_VALID, .rw, .almanac⟩, ⟨F.FAB_ROUTE_ALT_PORT, .rw, .almanac⟩, ⟨F.FAB_ROUTE_ALT_VALID, .rw, .almanac⟩, ⟨F.FAB_ROUTE_DOWN, .ro, (.val 0)⟩, ⟨F.FAB_ROUTE_LOCAL, .ro, (.val 0)⟩, ⟨F.FAB_ROUTE_HOP_LIMIT, .rw, (.val 0x8)⟩]⟩,
  -- FAB_REGION_SEL
  ⟨0x5000048, [⟨F.FAB_REGION_SEL_REGION, .rw, (.val 0)⟩, ⟨F.FAB_REGION_SEL_WORD, .rw, (.val 0)⟩, ⟨F.FAB_REGION_SEL_FETCH, .wo, (.val 0)⟩, ⟨F.FAB_REGION_SEL_COMMIT, .wo, (.val 0)⟩]⟩,
  -- FAB_REGION_DATA
  ⟨0x5000050, [⟨F.FAB_REGION_DATA_DATA, .rw, (.val 0)⟩]⟩,
  -- FAB_BEARING_SEL
  ⟨0x5000058, [⟨F.FAB_BEARING_SEL_BEARING, .rw, (.val 0)⟩, ⟨F.FAB_BEARING_SEL_WORD, .rw, (.val 0)⟩, ⟨F.FAB_BEARING_SEL_FETCH, .wo, (.val 0)⟩, ⟨F.FAB_BEARING_SEL_COMMIT, .wo, (.val 0)⟩]⟩,
  -- FAB_BEARING_DATA
  ⟨0x5000060, [⟨F.FAB_BEARING_DATA_DATA, .rw, (.val 0)⟩]⟩,
  -- FAB_OPS
  ⟨0x5000068, [⟨F.FAB_OPS_OPS, .ro, (.val 0)⟩]⟩,
  -- FAB_FAIL
  ⟨0x5000070, [⟨F.FAB_FAIL_UNREACHABLE, .ro, (.val 0)⟩, ⟨F.FAB_FAIL_TIMEOUTS, .ro, (.val 0)⟩]⟩,
  -- FAB_LATE
  ⟨0x5000078, [⟨F.FAB_LATE_LATE, .ro, (.val 0)⟩, ⟨F.FAB_LATE_RETRIED, .ro, (.val 0)⟩]⟩,
  -- FAB_CACHE
  ⟨0x5000080, [⟨F.FAB_CACHE_INVALIDATIONS, .ro, (.val 0)⟩, ⟨F.FAB_CACHE_LINES_DROPPED, .ro, (.val 0)⟩]⟩,
  -- FAB_ERR_STATUS
  ⟨0x5000088, [⟨F.FAB_ERR_STATUS_REGION_CONFLICT, .w1c, (.val 0)⟩, ⟨F.FAB_ERR_STATUS_BEARING_CONFLICT, .w1c, (.val 0)⟩, ⟨F.FAB_ERR_STATUS_STALE_HOME, .w1c, (.val 0)⟩, ⟨F.FAB_ERR_STATUS_NODE_DOWN, .w1c, (.val 0)⟩, ⟨F.FAB_ERR_STATUS_LANE_SHED, .w1c, (.val 0)⟩, ⟨F.FAB_ERR_STATUS_LINK_DOWN, .w1c, (.val 0)⟩, ⟨F.FAB_ERR_STATUS_HOP_LIMIT, .w1c, (.val 0)⟩, ⟨F.FAB_ERR_STATUS_LEASE_CONFIG, .w1c, (.val 0)⟩]⟩]

/-- The registers of an instance page (R379, R457). -/
def regsInst : List RegDesc := [
  -- INST_ID
  ⟨0x100000000, [⟨F.INST_ID_INSTANCE, .ro, (.val 0)⟩, ⟨F.INST_ID_DOMAIN, .ro, (.val 0)⟩, ⟨F.INST_ID_PASID, .ro, (.val 0)⟩, ⟨F.INST_ID_OPERATOR, .ro, (.val 0)⟩, ⟨F.INST_ID_LINK, .ro, (.val 0)⟩, ⟨F.INST_ID_MAX_RINGS, .ro, (.val 0)⟩]⟩,
  -- INST_STATUS
  ⟨0x100000008, [⟨F.INST_STATUS_STATE, .ro, (.val 0)⟩, ⟨F.INST_STATUS_RESET_COUNT, .ro, (.val 0)⟩, ⟨F.INST_STATUS_DB_DROPPED, .ro, (.val 0)⟩, ⟨F.INST_STATUS_EVENTS_DROPPED, .ro, (.val 0)⟩]⟩,
  -- INST_CTRL
  ⟨0x100000010, [⟨F.INST_CTRL_RESET, .wo, (.val 0)⟩]⟩,
  -- INST_RESET_INFO
  ⟨0x100000018, [⟨F.INST_RESET_INFO_SQUASHED, .ro, (.val 0)⟩, ⟨F.INST_RESET_INFO_UNPOSTED, .ro, (.val 0)⟩, ⟨F.INST_RESET_INFO_READS_SQUASHED, .ro, (.val 0)⟩, ⟨F.INST_RESET_INFO_DESC_DROPPED, .ro, (.val 0)⟩]⟩,
  -- INST_METER_ARRAY
  ⟨0x100000020, [⟨F.INST_METER_ARRAY_NS, .ro, (.val 0)⟩]⟩,
  -- INST_METER_VECTOR
  ⟨0x100000028, [⟨F.INST_METER_VECTOR_NS, .ro, (.val 0)⟩]⟩,
  -- INST_METER_RADIO
  ⟨0x100000030, [⟨F.INST_METER_RADIO_NS, .ro, (.val 0)⟩]⟩,
  -- DOORBELL
  ⟨0x100001000, [⟨F.DOORBELL_SQ_TAIL, .wo, (.val 0)⟩, ⟨F.DOORBELL_SQ_VALID, .wo, (.val 0)⟩, ⟨F.DOORBELL_CQ_HEAD, .wo, (.val 0)⟩, ⟨F.DOORBELL_CQ_VALID, .wo, (.val 0)⟩]⟩,
  -- RING_CFG
  ⟨0x100002000, [⟨F.RING_CFG_CLASS, .ro, (.val 0)⟩, ⟨F.RING_CFG_RING, .ro, (.val 0)⟩, ⟨F.RING_CFG_PRIVILEGED, .ro, (.val 0)⟩, ⟨F.RING_CFG_SQ_LOG2, .rw, (.val 0x4)⟩, ⟨F.RING_CFG_CQ_LOG2, .rw, (.val 0x4)⟩, ⟨F.RING_CFG_MAX_LOG2, .ro, (.val 0)⟩, ⟨F.RING_CFG_SHARE, .rw, (.val 0x1)⟩, ⟨F.RING_CFG_ENABLE, .rw, (.val 0)⟩]⟩,
  -- RING_SQ_BASE
  ⟨0x100002008, [⟨F.RING_SQ_BASE_ADDR, .rw, (.val 0)⟩]⟩,
  -- RING_CQ_BASE
  ⟨0x100002010, [⟨F.RING_CQ_BASE_ADDR, .rw, (.val 0)⟩]⟩,
  -- RING_IRQ
  ⟨0x100002018, [⟨F.RING_IRQ_VECTOR, .ro, (.val 0)⟩, ⟨F.RING_IRQ_IRQ_EN, .rw, (.val 0)⟩, ⟨F.RING_IRQ_COAL_COUNT, .rw, (.val 0x1)⟩, ⟨F.RING_IRQ_COAL_US, .rw, (.val 0)⟩]⟩,
  -- RING_STATUS
  ⟨0x100002020, [⟨F.RING_STATUS_STATE, .ro, (.val 0)⟩, ⟨F.RING_STATUS_SQ_HEAD, .ro, (.val 0)⟩, ⟨F.RING_STATUS_CQ_TAIL, .ro, (.val 0)⟩, ⟨F.RING_STATUS_PHASE, .ro, (.val 0x1)⟩, ⟨F.RING_STATUS_CQ_WAIT, .ro, (.val 0)⟩, ⟨F.RING_STATUS_ERR_CAUSE, .ro, (.val 0)⟩]⟩,
  -- RING_HEARTBEAT
  ⟨0x100002028, [⟨F.RING_HEARTBEAT_HEARTBEAT, .ro, (.val 0)⟩]⟩,
  -- RING_RECKON
  ⟨0x100002030, [⟨F.RING_RECKON_STEP, .rw, (.val 0)⟩, ⟨F.RING_RECKON_HALT_INDEX, .rw, (.val 0xffff)⟩]⟩,
  -- RING_SEED
  ⟨0x100002038, [⟨F.RING_SEED_SEED_HALF, .wo, (.val 0)⟩]⟩]

/-- The PCI_ registers. -/
def regsPci : List RegDesc := [
  -- PCI_CAP
  ⟨0xb000000, [⟨F.PCI_CAP_MAX_GEN, .ro, (.val 0x6)⟩, ⟨F.PCI_CAP_MAX_WIDTH, .ro, (.val 0x10)⟩, ⟨F.PCI_CAP_BIFURCATE, .ro, .almanac⟩, ⟨F.PCI_CAP_INSTANCES, .ro, (.val 0x400)⟩, ⟨F.PCI_CAP_RINGS, .ro, (.val 0x2000)⟩, ⟨F.PCI_CAP_DMA_ENGINES, .ro, (.val 0x10)⟩, ⟨F.PCI_CAP_DMA_DESC, .ro, (.val 0x400)⟩, ⟨F.PCI_CAP_PRIV_RINGS, .ro, (.val 0x10)⟩]⟩,
  -- PCI_LINK_STATUS0
  ⟨0xb000008, [⟨F.PCI_LINK_STATUS0_UP, .ro, (.val 0)⟩, ⟨F.PCI_LINK_STATUS0_SPEED, .ro, (.val 0)⟩, ⟨F.PCI_LINK_STATUS0_WIDTH, .ro, (.val 0)⟩, ⟨F.PCI_LINK_STATUS0_FLIT_MODE, .ro, (.val 0)⟩, ⟨F.PCI_LINK_STATUS0_RETRAINS, .ro, (.val 0)⟩]⟩,
  -- PCI_LINK_STATUS1
  ⟨0xb000010, [⟨F.PCI_LINK_STATUS1_UP, .ro, (.val 0)⟩, ⟨F.PCI_LINK_STATUS1_SPEED, .ro, (.val 0)⟩, ⟨F.PCI_LINK_STATUS1_WIDTH, .ro, (.val 0)⟩, ⟨F.PCI_LINK_STATUS1_FLIT_MODE, .ro, (.val 0)⟩, ⟨F.PCI_LINK_STATUS1_RETRAINS, .ro, (.val 0)⟩]⟩,
  -- PCI_DMA_CTRL
  ⟨0xb000018, [⟨F.PCI_DMA_CTRL_CPL_TIMEOUT_US, .rw, .almanac⟩]⟩,
  -- PCI_DMA_STATUS
  ⟨0xb000020, [⟨F.PCI_DMA_STATUS_DESC_USED, .ro, (.val 0)⟩, ⟨F.PCI_DMA_STATUS_READS_OUT, .ro, (.val 0)⟩, ⟨F.PCI_DMA_STATUS_TAGS_QUARANTINED, .ro, (.val 0)⟩]⟩,
  -- PCI_DMA_BYTES
  ⟨0xb000028, [⟨F.PCI_DMA_BYTES_BYTES, .ro, (.val 0)⟩]⟩,
  -- PCI_LATE
  ⟨0xb000030, [⟨F.PCI_LATE_LATE_CPL, .ro, (.val 0)⟩, ⟨F.PCI_LATE_TIMEOUTS, .ro, (.val 0)⟩]⟩,
  -- PCI_ACCESS_ERR
  ⟨0xb000038, [⟨F.PCI_ACCESS_ERR_BAD_ACCESS, .ro, (.val 0)⟩, ⟨F.PCI_ACCESS_ERR_DB_DROPPED, .ro, (.val 0)⟩]⟩,
  -- PCI_MBX_ADDR
  ⟨0xb000040, [⟨F.PCI_MBX_ADDR_ADDR, .rw, (.val 0)⟩]⟩,
  -- PCI_MBX_CTRL
  ⟨0xb000048, [⟨F.PCI_MBX_CTRL_GO, .wo, (.val 0)⟩, ⟨F.PCI_MBX_CTRL_BUSY, .ro, (.val 0)⟩, ⟨F.PCI_MBX_CTRL_LAST_STATUS, .ro, (.val 0)⟩, ⟨F.PCI_MBX_CTRL_SEQ, .ro, (.val 0)⟩]⟩,
  -- PCI_INST_SEL
  ⟨0xb000050, [⟨F.PCI_INST_SEL_INSTANCE, .rw, (.val 0)⟩, ⟨F.PCI_INST_SEL_LOCAL, .rw, (.val 0)⟩]⟩,
  -- PCI_INST_INFO
  ⟨0xb000058, [⟨F.PCI_INST_INFO_STATE, .ro, (.val 0)⟩, ⟨F.PCI_INST_INFO_DOMAIN, .ro, (.val 0)⟩, ⟨F.PCI_INST_INFO_PASID, .ro, (.val 0)⟩, ⟨F.PCI_INST_INFO_OPERATOR, .ro, (.val 0)⟩, ⟨F.PCI_INST_INFO_LINK, .ro, (.val 0)⟩, ⟨F.PCI_INST_INFO_RINGS, .ro, (.val 0)⟩, ⟨F.PCI_INST_INFO_RESET_COUNT, .ro, (.val 0)⟩]⟩,
  -- PCI_RING_INFO
  ⟨0xb000060, [⟨F.PCI_RING_INFO_CLASS, .ro, (.val 0)⟩, ⟨F.PCI_RING_INFO_RING, .ro, (.val 0)⟩, ⟨F.PCI_RING_INFO_STATE, .ro, (.val 0)⟩, ⟨F.PCI_RING_INFO_PRIVILEGED, .ro, (.val 0)⟩, ⟨F.PCI_RING_INFO_VECTOR, .ro, (.val 0)⟩]⟩,
  -- PCI_RING_HEARTBEAT
  ⟨0xb000068, [⟨F.PCI_RING_HEARTBEAT_HEARTBEAT, .ro, (.val 0)⟩]⟩,
  -- PCI_ERR_STATUS
  ⟨0xb000070, [⟨F.PCI_ERR_STATUS_CPL_TIMEOUT, .w1c, (.val 0)⟩, ⟨F.PCI_ERR_STATUS_LATE_CPL, .w1c, (.val 0)⟩, ⟨F.PCI_ERR_STATUS_DMA_FAULT, .w1c, (.val 0)⟩, ⟨F.PCI_ERR_STATUS_RING_ERROR, .w1c, (.val 0)⟩, ⟨F.PCI_ERR_STATUS_RESET_SLOW, .w1c, (.val 0)⟩, ⟨F.PCI_ERR_STATUS_BAD_ACCESS, .w1c, (.val 0)⟩]⟩]

/-- The ETH_ registers. -/
def regsEth : List RegDesc := [
  -- ETH_CAP
  ⟨0x4000000, [⟨F.ETH_CAP_PORTS, .ro, (.val 0x8)⟩, ⟨F.ETH_CAP_LANES, .ro, (.val 0x4)⟩, ⟨F.ETH_CAP_STEER, .ro, (.val 0x1000)⟩, ⟨F.ETH_CAP_POLICERS, .ro, (.val 0x1000)⟩, ⟨F.ETH_CAP_QUEUES, .ro, (.val 0x1000)⟩, ⟨F.ETH_CAP_RX_RINGS, .ro, (.val 0x1000)⟩]⟩,
  -- ETH_SEL
  ⟨0x4000008, [⟨F.ETH_SEL_SUBPORT, .rw, (.val 0)⟩, ⟨F.ETH_SEL_STEER, .rw, (.val 0)⟩, ⟨F.ETH_SEL_POLICER, .rw, (.val 0)⟩, ⟨F.ETH_SEL_PRING, .rw, (.val 0)⟩, ⟨F.ETH_SEL_QUEUE, .rw, (.val 0)⟩, ⟨F.ETH_SEL_DOMAIN, .rw, (.val 0)⟩]⟩,
  -- ETH_PORT_CTRL
  ⟨0x4000010, [⟨F.ETH_PORT_CTRL_MODE, .rw, .almanac⟩, ⟨F.ETH_PORT_CTRL_ENABLE, .rw, .almanac⟩, ⟨F.ETH_PORT_CTRL_LANE_SHED_EN, .rw, .almanac⟩, ⟨F.ETH_PORT_CTRL_SHED_MODE, .rw, .almanac⟩, ⟨F.ETH_PORT_CTRL_REFORM, .wo, (.val 0)⟩]⟩,
  -- ETH_SUB_CTRL
  ⟨0x4000018, [⟨F.ETH_SUB_CTRL_MAX_FRAME, .rw, .almanac⟩, ⟨F.ETH_SUB_CTRL_CUT_THRESH, .rw, .almanac⟩, ⟨F.ETH_SUB_CTRL_RX_HOL_NS, .rw, .almanac⟩, ⟨F.ETH_SUB_CTRL_MACSEC_EN, .rw, .almanac⟩]⟩,
  -- ETH_SUB_STATUS
  ⟨0x4000020, [⟨F.ETH_SUB_STATUS_UP, .ro, (.val 0)⟩, ⟨F.ETH_SUB_STATUS_SHED_ALIAS, .ro, (.val 0)⟩, ⟨F.ETH_SUB_STATUS_ALIAS_OF, .ro, (.val 0)⟩, ⟨F.ETH_SUB_STATUS_LANE_LOCK, .ro, (.val 0)⟩, ⟨F.ETH_SUB_STATUS_CROSSING, .ro, (.val 0)⟩]⟩,
  -- ETH_FIFO_COUNT
  ⟨0x4000028, [⟨F.ETH_FIFO_COUNT_RX_COUNT, .ro, (.val 0)⟩, ⟨F.ETH_FIFO_COUNT_TX_COUNT, .ro, (.val 0)⟩]⟩,
  -- ETH_SUB_FRAMES
  ⟨0x4000030, [⟨F.ETH_SUB_FRAMES_RX_FRAMES, .ro, (.val 0)⟩, ⟨F.ETH_SUB_FRAMES_TX_FRAMES, .ro, (.val 0)⟩]⟩,
  -- ETH_RX_DROP0
  ⟨0x4000038, [⟨F.ETH_RX_DROP0_RUNT, .rc, (.val 0)⟩, ⟨F.ETH_RX_DROP0_OVERSIZE, .rc, (.val 0)⟩, ⟨F.ETH_RX_DROP0_FCS, .rc, (.val 0)⟩, ⟨F.ETH_RX_DROP0_MACSEC, .rc, (.val 0)⟩]⟩,
  -- ETH_RX_DROP1
  ⟨0x4000040, [⟨F.ETH_RX_DROP1_NOMATCH, .rc, (.val 0)⟩, ⟨F.ETH_RX_DROP1_POLICED, .rc, (.val 0)⟩, ⟨F.ETH_RX_DROP1_FIFO_FULL, .rc, (.val 0)⟩, ⟨F.ETH_RX_DROP1_PAUSE, .rc, (.val 0)⟩]⟩,
  -- ETH_STEER
  ⟨0x4000048, [⟨F.ETH_STEER_SUBPORT, .rw, .almanac⟩, ⟨F.ETH_STEER_TAGGED, .rw, .almanac⟩, ⟨F.ETH_STEER_VID, .rw, .almanac⟩, ⟨F.ETH_STEER_DOMAIN, .rw, .almanac⟩, ⟨F.ETH_STEER_FH_EN, .rw, .almanac⟩, ⟨F.ETH_STEER_RING_EN, .rw, .almanac⟩, ⟨F.ETH_STEER_MACSEC_REQ, .rw, .almanac⟩, ⟨F.ETH_STEER_POLICER, .rw, .almanac⟩, ⟨F.ETH_STEER_POL_EN, .rw, .almanac⟩, ⟨F.ETH_STEER_RING_BASE, .rw, .almanac⟩, ⟨F.ETH_STEER_RING_LOG2, .rw, .almanac⟩, ⟨F.ETH_STEER_VALID, .rw, .almanac⟩]⟩,
  -- ETH_POL_RATE
  ⟨0x4000050, [⟨F.ETH_POL_RATE_CIR_KBPS, .rw, .almanac⟩, ⟨F.ETH_POL_RATE_PIR_KBPS, .rw, .almanac⟩, ⟨F.ETH_POL_RATE_COLOUR_AWARE, .rw, .almanac⟩, ⟨F.ETH_POL_RATE_DROP_YELLOW, .rw, .almanac⟩, ⟨F.ETH_POL_RATE_VALID, .rw, .almanac⟩]⟩,
  -- ETH_POL_BURST
  ⟨0x4000058, [⟨F.ETH_POL_BURST_CBS, .rw, .almanac⟩, ⟨F.ETH_POL_BURST_PBS, .rw, .almanac⟩, ⟨F.ETH_POL_BURST_PCP_MAP, .rw, .almanac⟩]⟩,
  -- ETH_PRING
  ⟨0x4000060, [⟨F.ETH_PRING_DOMAIN, .rw, (.val 0)⟩, ⟨F.ETH_PRING_LOG2, .rw, (.val 0x4)⟩, ⟨F.ETH_PRING_CTRL_GRAN, .rw, (.val 0)⟩, ⟨F.ETH_PRING_POLL, .rw, (.val 0x1)⟩, ⟨F.ETH_PRING_ENABLE, .rw, (.val 0)⟩]⟩,
  -- ETH_Q_CFG
  ⟨0x4000068, [⟨F.ETH_Q_CFG_SUBPORT, .rw, (.val 0)⟩, ⟨F.ETH_Q_CFG_DOMAIN, .rw, (.val 0)⟩, ⟨F.ETH_Q_CFG_WHEEL, .rw, (.val 0)⟩, ⟨F.ETH_Q_CFG_OVERHEAD, .rw, (.val 0x14)⟩, ⟨F.ETH_Q_CFG_ENABLE, .rw, (.val 0)⟩, ⟨F.ETH_Q_CFG_COMMIT, .wo, (.val 0)⟩, ⟨F.ETH_Q_CFG_IN_WHEEL, .ro, (.val 0)⟩, ⟨F.ETH_Q_CFG_MOVING, .ro, (.val 0)⟩]⟩,
  -- ETH_Q_RATE
  ⟨0x4000070, [⟨F.ETH_Q_RATE_CIR_KBPS, .rw, (.val 0)⟩, ⟨F.ETH_Q_RATE_PIR_KBPS, .rw, (.val 0)⟩]⟩,
  -- ETH_Q_BURST
  ⟨0x4000078, [⟨F.ETH_Q_BURST_CBS, .rw, (.val 0)⟩, ⟨F.ETH_Q_BURST_PBS, .rw, (.val 0)⟩]⟩,
  -- ETH_DOM_SHARE
  ⟨0x4000080, [⟨F.ETH_DOM_SHARE_SHARE, .rw, (.val 0x1)⟩]⟩,
  -- ETH_TM_CTRL
  ⟨0x4000088, [⟨F.ETH_TM_CTRL_SAMPLE_US, .rw, .almanac⟩]⟩,
  -- ETH_TX_BACKLOG
  ⟨0x4000090, [⟨F.ETH_TX_BACKLOG_MAX_BYTES, .rc, (.val 0)⟩, ⟨F.ETH_TX_BACKLOG_MAX_DELAY_NS, .rc, (.val 0)⟩]⟩,
  -- ETH_ERR_STATUS
  ⟨0x4000098, [⟨F.ETH_ERR_STATUS_STEER_CONFLICT, .w1c, (.val 0)⟩, ⟨F.ETH_ERR_STATUS_STRICT_CONFLICT, .w1c, (.val 0)⟩, ⟨F.ETH_ERR_STATUS_QCFG_INVALID, .w1c, (.val 0)⟩, ⟨F.ETH_ERR_STATUS_LANE_SHED, .w1c, (.val 0)⟩, ⟨F.ETH_ERR_STATUS_LINK_DOWN, .w1c, (.val 0)⟩, ⟨F.ETH_ERR_STATUS_PN_EXHAUSTED, .w1c, (.val 0)⟩, ⟨F.ETH_ERR_STATUS_FIFO_PARITY, .w1c, (.val 0)⟩]⟩]

/-- The ISO_ registers. -/
def regsIso : List RegDesc := [
  -- ISO_CAP
  ⟨0x7000000, [⟨F.ISO_CAP_DOMAINS, .ro, (.val 0x80)⟩, ⟨F.ISO_CAP_REQ_SESSIONS, .ro, (.val 0x10)⟩, ⟨F.ISO_CAP_SC_PER_DIR, .ro, (.val 0x400)⟩, ⟨F.ISO_CAP_AN_PER_SC, .ro, (.val 0x4)⟩, ⟨F.ISO_CAP_EVENT_SOURCES, .ro, (.val 0xfa0)⟩]⟩,
  -- ISO_DOM_SEL
  ⟨0x7000008, [⟨F.ISO_DOM_SEL_DOMAIN, .rw, (.val 0)⟩]⟩,
  -- ISO_DOM_STATUS
  ⟨0x7000010, [⟨F.ISO_DOM_STATUS_STATE, .ro, .almanac⟩, ⟨F.ISO_DOM_STATUS_STRICT, .ro, .almanac⟩, ⟨F.ISO_DOM_STATUS_KEY_ACTIVE, .ro, (.val 0)⟩, ⟨F.ISO_DOM_STATUS_KEY_PERSISTED, .ro, (.val 0)⟩, ⟨F.ISO_DOM_STATUS_SESSIONS, .ro, (.val 0)⟩, ⟨F.ISO_DOM_STATUS_INSTANCES, .ro, (.val 0)⟩, ⟨F.ISO_DOM_STATUS_SC_ASSIGNED, .ro, (.val 0)⟩]⟩,
  -- ISO_DOM_GEN
  ⟨0x7000018, [⟨F.ISO_DOM_GEN_CONFIG_GEN, .ro, (.val 0)⟩, ⟨F.ISO_DOM_GEN_KEY_GEN, .ro, (.val 0)⟩]⟩,
  -- ISO_OWNER0
  ⟨0x7000020, [⟨F.ISO_OWNER0_DIGEST, .ro, .almanac⟩]⟩,
  -- ISO_OWNER1
  ⟨0x7000028, [⟨F.ISO_OWNER1_DIGEST, .ro, .almanac⟩]⟩,
  -- ISO_OWNER2
  ⟨0x7000030, [⟨F.ISO_OWNER2_DIGEST, .ro, .almanac⟩]⟩,
  -- ISO_OWNER3
  ⟨0x7000038, [⟨F.ISO_OWNER3_DIGEST, .ro, .almanac⟩]⟩,
  -- ISO_OWNER4
  ⟨0x7000040, [⟨F.ISO_OWNER4_DIGEST, .ro, .almanac⟩]⟩,
  -- ISO_OWNER5
  ⟨0x7000048, [⟨F.ISO_OWNER5_DIGEST, .ro, .almanac⟩]⟩,
  -- ISO_SC_SEL
  ⟨0x7000050, [⟨F.ISO_SC_SEL_SUBPORT, .rw, (.val 0)⟩, ⟨F.ISO_SC_SEL_DIR, .rw, (.val 0)⟩, ⟨F.ISO_SC_SEL_CHANNEL, .rw, (.val 0)⟩]⟩,
  -- ISO_SC_ASSIGN
  ⟨0x7000058, [⟨F.ISO_SC_ASSIGN_DOMAIN, .rw, .almanac⟩, ⟨F.ISO_SC_ASSIGN_VALID, .rw, .almanac⟩, ⟨F.ISO_SC_ASSIGN_AN_INSTALLED, .ro, (.val 0)⟩, ⟨F.ISO_SC_ASSIGN_AN_IN_USE, .ro, (.val 0)⟩]⟩,
  -- ISO_MEAS_GEN
  ⟨0x7000060, [⟨F.ISO_MEAS_GEN_DEVICE_GEN, .ro, (.val 0)⟩]⟩,
  -- ISO_SESSION_COUNT
  ⟨0x7000068, [⟨F.ISO_SESSION_COUNT_ESTABLISHED, .ro, (.val 0)⟩, ⟨F.ISO_SESSION_COUNT_AUTH_FAIL, .ro, (.val 0)⟩]⟩,
  -- ISO_ERR_STATUS
  ⟨0x7000070, [⟨F.ISO_ERR_STATUS_AEAD_FAIL, .w1c, (.val 0)⟩, ⟨F.ISO_ERR_STATUS_SC_CONFLICT, .w1c, (.val 0)⟩, ⟨F.ISO_ERR_STATUS_STRICT_REFUSED, .w1c, (.val 0)⟩, ⟨F.ISO_ERR_STATUS_LINK_AUTH, .w1c, (.val 0)⟩, ⟨F.ISO_ERR_STATUS_PERSIST_DISCARDED, .w1c, (.val 0)⟩, ⟨F.ISO_ERR_STATUS_SESSION_LIMIT, .w1c, (.val 0)⟩]⟩]

/-- The MER_ registers. -/
def regsMer : List RegDesc := [
  -- MER_STATUS
  ⟨0x6000000, [⟨F.MER_STATUS_STATE, .ro, (.val 0)⟩, ⟨F.MER_STATUS_TIME_VALID, .ro, (.val 0)⟩, ⟨F.MER_STATUS_HOLD_EXPIRED, .ro, (.val 0)⟩, ⟨F.MER_STATUS_SLAVE_PORT, .ro, (.val 0)⟩, ⟨F.MER_STATUS_SLAVE_VALID, .ro, (.val 0)⟩, ⟨F.MER_STATUS_UTC_OFFSET, .ro, (.val 0)⟩, ⟨F.MER_STATUS_CLOCK_CLASS, .ro, (.val 0xf8)⟩, ⟨F.MER_STATUS_STEPS, .ro, (.val 0)⟩, ⟨F.MER_STATUS_HOLD_MS, .ro, (.val 0)⟩]⟩,
  -- MER_TIME_CTRL
  ⟨0x6000008, [⟨F.MER_TIME_CTRL_LATCH, .wo, (.val 0)⟩, ⟨F.MER_TIME_CTRL_SET, .wo, (.val 0)⟩, ⟨F.MER_TIME_CTRL_STEP, .wo, (.val 0)⟩, ⟨F.MER_TIME_CTRL_TIME_REFUSED, .ro, (.val 0)⟩]⟩,
  -- MER_TIME_SEC
  ⟨0x6000010, [⟨F.MER_TIME_SEC_SEC, .rw, (.val 0)⟩]⟩,
  -- MER_TIME_NS
  ⟨0x6000018, [⟨F.MER_TIME_NS_NS, .rw, (.val 0)⟩, ⟨F.MER_TIME_NS_SUBNS, .rw, (.val 0)⟩]⟩,
  -- MER_TIME_ADJ
  ⟨0x6000020, [⟨F.MER_TIME_ADJ_ADJ, .rw, (.val 0)⟩]⟩,
  -- MER_SERVO
  ⟨0x6000028, [⟨F.MER_SERVO_RATE_ADJ, .ro, (.val 0)⟩, ⟨F.MER_SERVO_LOCK_NS, .rw, .almanac⟩, ⟨F.MER_SERVO_SLEW_PPB, .rw, .almanac⟩]⟩,
  -- MER_SRC_CTRL
  ⟨0x6000030, [⟨F.MER_SRC_CTRL_PHASE_SRC, .rw, .almanac⟩, ⟨F.MER_SRC_CTRL_FREQ_SRC, .rw, .almanac⟩, ⟨F.MER_SRC_CTRL_SYNCE_PORT, .rw, .almanac⟩, ⟨F.MER_SRC_CTRL_SRC_AUTO, .rw, .almanac⟩, ⟨F.MER_SRC_CTRL_OUT_FREQ, .rw, .almanac⟩, ⟨F.MER_SRC_CTRL_STEP_NS, .rw, .almanac⟩, ⟨F.MER_SRC_CTRL_HOLD_LIMIT_S, .rw, .almanac⟩, ⟨F.MER_SRC_CTRL_PTP_DOMAIN, .rw, .almanac⟩, ⟨F.MER_SRC_CTRL_PROFILE, .rw, .almanac⟩]⟩,
  -- MER_AIR
  ⟨0x6000038, [⟨F.MER_AIR_AIR_OFFSET_NS, .ro, .almanac⟩, ⟨F.MER_AIR_SFN, .ro, (.val 0)⟩, ⟨F.MER_AIR_SLOT_MU1, .ro, (.val 0)⟩]⟩,
  -- MER_PORT_SEL
  ⟨0x6000040, [⟨F.MER_PORT_SEL_SUBPORT, .rw, (.val 0)⟩]⟩,
  -- MER_PORT_CFG
  ⟨0x6000048, [⟨F.MER_PORT_CFG_PTP_EN, .rw, .almanac⟩, ⟨F.MER_PORT_CFG_MASTER_ONLY, .rw, .almanac⟩, ⟨F.MER_PORT_CFG_LOCAL_PRIO, .rw, .almanac⟩, ⟨F.MER_PORT_CFG_SYNC_LOG, .rw, .almanac⟩, ⟨F.MER_PORT_CFG_ANN_LOG, .rw, .almanac⟩, ⟨F.MER_PORT_CFG_SYNCE_RX, .rw, .almanac⟩, ⟨F.MER_PORT_CFG_SYNCE_TX, .rw, .almanac⟩, ⟨F.MER_PORT_CFG_PORT_STATE, .ro, (.val 0)⟩, ⟨F.MER_PORT_CFG_RX_QL, .ro, (.val 0)⟩]⟩,
  -- MER_PORT_DELAY
  ⟨0x6000050, [⟨F.MER_PORT_DELAY_TX_DELAY, .rw, .almanac⟩, ⟨F.MER_PORT_DELAY_RX_DELAY, .rw, .almanac⟩]⟩,
  -- MER_TOD
  ⟨0x6000058, [⟨F.MER_TOD_SEC, .rw, (.val 0)⟩]⟩,
  -- MER_PPS_CTRL
  ⟨0x6000060, [⟨F.MER_PPS_CTRL_PPS_OFFSET_NS, .rw, .almanac⟩, ⟨F.MER_PPS_CTRL_PPS_WIDTH_US, .rw, .almanac⟩, ⟨F.MER_PPS_CTRL_PPS_FORCE, .rw, (.val 0)⟩, ⟨F.MER_PPS_CTRL_PPS_IN_DELAY, .rw, .almanac⟩]⟩,
  -- MER_PPS_CAPTURE
  ⟨0x6000068, [⟨F.MER_PPS_CAPTURE_NS, .ro, (.val 0)⟩, ⟨F.MER_PPS_CAPTURE_SUBNS, .ro, (.val 0)⟩, ⟨F.MER_PPS_CAPTURE_EDGES, .ro, (.val 0)⟩]⟩,
  -- MER_ERR_STATUS
  ⟨0x6000070, [⟨F.MER_ERR_STATUS_SOURCE_LOST, .w1c, (.val 0)⟩, ⟨F.MER_ERR_STATUS_HOLD_EXPIRED, .w1c, (.val 0)⟩, ⟨F.MER_ERR_STATUS_STEPPED, .w1c, (.val 0)⟩, ⟨F.MER_ERR_STATUS_TIME_REFUSED, .w1c, (.val 0)⟩, ⟨F.MER_ERR_STATUS_PPS_GLITCH, .w1c, (.val 0)⟩, ⟨F.MER_ERR_STATUS_PPS_STEPPED, .w1c, (.val 0)⟩, ⟨F.MER_ERR_STATUS_QL_DNU, .w1c, (.val 0)⟩]⟩]

/-- The ALM_ registers. -/
def regsAlm : List RegDesc := [
  -- ALM_CAP
  ⟨0x180000, [⟨F.ALM_CAP_FLASH_MIB, .ro, (.val 0x80)⟩, ⟨F.ALM_CAP_SLOTS, .ro, (.val 0x4)⟩, ⟨F.ALM_CAP_FLOOR_ROWS, .ro, (.val 0x20)⟩, ⟨F.ALM_CAP_KEY_ROWS, .ro, (.val 0x4)⟩]⟩,
  -- ALM_STATUS
  ⟨0x180008, [⟨F.ALM_STATUS_BOOT_STATE, .ro, (.val 0)⟩, ⟨F.ALM_STATUS_BOOTED_ROLE, .ro, (.val 0)⟩, ⟨F.ALM_STATUS_TRIAL, .ro, (.val 0)⟩, ⟨F.ALM_STATUS_TRIES, .ro, (.val 0)⟩, ⟨F.ALM_STATUS_CUR_SLOT, .ro, (.val 0)⟩, ⟨F.ALM_STATUS_PREV_SLOT, .ro, (.val 0x7)⟩, ⟨F.ALM_STATUS_STAGED_SLOT, .ro, (.val 0x7)⟩, ⟨F.ALM_STATUS_FACTORY_SLOT, .ro, (.val 0x3)⟩, ⟨F.ALM_STATUS_HDR_SEQ, .ro, (.val 0)⟩, ⟨F.ALM_STATUS_UPDATE_ACTIVE, .ro, (.val 0)⟩, ⟨F.ALM_STATUS_STAGED_VALID, .ro, (.val 0)⟩]⟩,
  -- ALM_VERSION
  ⟨0x180010, [⟨F.ALM_VERSION_FW_VERSION, .ro, (.val 0)⟩, ⟨F.ALM_VERSION_CFG_VERSION, .ro, (.val 0)⟩]⟩,
  -- ALM_FLOOR
  ⟨0x180018, [⟨F.ALM_FLOOR_FW_FLOOR, .ro, .fuse⟩, ⟨F.ALM_FLOOR_CFG_FLOOR, .ro, .fuse⟩]⟩,
  -- ALM_FUSE_ROWS
  ⟨0x180020, [⟨F.ALM_FUSE_ROWS_FW_ROWS_USED, .ro, .fuse⟩, ⟨F.ALM_FUSE_ROWS_CFG_ROWS_USED, .ro, .fuse⟩, ⟨F.ALM_FUSE_ROWS_WENOV_ROWS, .ro, .fuse⟩, ⟨F.ALM_FUSE_ROWS_OWNER_ROWS, .ro, .fuse⟩]⟩,
  -- ALM_SLOT_SEL
  ⟨0x180028, [⟨F.ALM_SLOT_SEL_SLOT, .rw, (.val 0)⟩, ⟨F.ALM_SLOT_SEL_KIND, .rw, (.val 0)⟩]⟩,
  -- ALM_SLOT_INFO
  ⟨0x180030, [⟨F.ALM_SLOT_INFO_VERSION, .ro, (.val 0)⟩, ⟨F.ALM_SLOT_INFO_VALID, .ro, (.val 0)⟩, ⟨F.ALM_SLOT_INFO_KEY_ROW, .ro, (.val 0)⟩, ⟨F.ALM_SLOT_INFO_SIZE_KIB, .ro, (.val 0)⟩]⟩,
  -- ALM_CMD_ADDR
  ⟨0x180038, [⟨F.ALM_CMD_ADDR_ADDR, .rw, (.val 0)⟩]⟩,
  -- ALM_CMD_LEN
  ⟨0x180040, [⟨F.ALM_CMD_LEN_LEN, .rw, (.val 0)⟩]⟩,
  -- ALM_CMD
  ⟨0x180048, [⟨F.ALM_CMD_OP, .rw, (.val 0)⟩, ⟨F.ALM_CMD_GO, .wo, (.val 0)⟩, ⟨F.ALM_CMD_BUSY, .ro, (.val 0)⟩, ⟨F.ALM_CMD_STATUS, .ro, (.val 0)⟩, ⟨F.ALM_CMD_RULE, .ro, (.val 0)⟩]⟩,
  -- ALM_UPDATE
  ⟨0x180050, [⟨F.ALM_UPDATE_UNITS_TOTAL, .ro, (.val 0)⟩, ⟨F.ALM_UPDATE_UNITS_DONE, .ro, (.val 0)⟩, ⟨F.ALM_UPDATE_CUR_CLASS, .ro, (.val 0)⟩, ⟨F.ALM_UPDATE_CUR_INDEX, .ro, (.val 0)⟩, ⟨F.ALM_UPDATE_PHASE, .ro, (.val 0)⟩, ⟨F.ALM_UPDATE_REVERTING, .ro, (.val 0)⟩]⟩,
  -- ALM_ERR_STATUS
  ⟨0x180058, [⟨F.ALM_ERR_STATUS_HDR_INVALID, .w1c, (.val 0)⟩, ⟨F.ALM_ERR_STATUS_SLOT_FALLBACK, .w1c, (.val 0)⟩, ⟨F.ALM_ERR_STATUS_TRIAL_EXHAUSTED, .w1c, (.val 0)⟩, ⟨F.ALM_ERR_STATUS_FLOOR_EXHAUSTED, .w1c, (.val 0)⟩, ⟨F.ALM_ERR_STATUS_PREV_BELOW_FLOOR, .w1c, (.val 0)⟩, ⟨F.ALM_ERR_STATUS_FLASH_ERROR, .w1c, (.val 0)⟩, ⟨F.ALM_ERR_STATUS_UPDATE_ABORTED, .w1c, (.val 0)⟩]⟩]

/-- The SXT_ registers. -/
def regsSxt : List RegDesc := [
  -- SXT_CAP
  ⟨0x100000, [⟨F.SXT_CAP_THERMAL, .ro, (.val 0x60)⟩, ⟨F.SXT_CAP_VOLTAGE, .ro, (.val 0x30)⟩, ⟨F.SXT_CAP_CURRENT, .ro, (.val 0x18)⟩, ⟨F.SXT_CAP_LOG_ENTRIES, .ro, (.val 0x8000)⟩, ⟨F.SXT_CAP_MIRROR_ENTRIES, .ro, (.val 0x3c000)⟩]⟩,
  -- SXT_STATUS
  ⟨0x100008, [⟨F.SXT_STATUS_CORE_STATE, .ro, (.val 0)⟩, ⟨F.SXT_STATUS_LOG_DEGRADED, .ro, (.val 0)⟩, ⟨F.SXT_STATUS_NVM_LOST, .ro, (.val 0)⟩, ⟨F.SXT_STATUS_LOCK_HELD, .ro, (.val 0)⟩, ⟨F.SXT_STATUS_LEVEL, .ro, (.val 0)⟩, ⟨F.SXT_STATUS_PLDM_ACTIVE, .ro, (.val 0)⟩, ⟨F.SXT_STATUS_LOG_DROPPED, .ro, (.val 0)⟩]⟩,
  -- SXT_ALERT
  ⟨0x100010, [⟨F.SXT_ALERT_SENSOR_WARN, .w1c, (.val 0)⟩, ⟨F.SXT_ALERT_SENSOR_CRIT, .w1c, (.val 0)⟩, ⟨F.SXT_ALERT_SENSOR_FATAL, .w1c, (.val 0)⟩, ⟨F.SXT_ALERT_LOG_DEGRADED, .w1c, (.val 0)⟩, ⟨F.SXT_ALERT_BUS_STUCK, .w1c, (.val 0)⟩, ⟨F.SXT_ALERT_LOCKSTEP, .w1c, (.val 0)⟩, ⟨F.SXT_ALERT_HOLD_EXPIRED, .w1c, (.val 0)⟩]⟩,
  -- SXT_ALERT_MASK
  ⟨0x100018, [⟨F.SXT_ALERT_MASK_SENSOR_WARN, .rw, .almanac⟩, ⟨F.SXT_ALERT_MASK_SENSOR_CRIT, .rw, .almanac⟩, ⟨F.SXT_ALERT_MASK_SENSOR_FATAL, .rw, .almanac⟩, ⟨F.SXT_ALERT_MASK_LOG_DEGRADED, .rw, .almanac⟩, ⟨F.SXT_ALERT_MASK_BUS_STUCK, .rw, .almanac⟩, ⟨F.SXT_ALERT_MASK_LOCKSTEP, .rw, .almanac⟩, ⟨F.SXT_ALERT_MASK_HOLD_EXPIRED, .rw, .almanac⟩]⟩,
  -- SXT_SENS_SEL
  ⟨0x100020, [⟨F.SXT_SENS_SEL_KIND, .rw, (.val 0)⟩, ⟨F.SXT_SENS_SEL_INDEX, .rw, (.val 0)⟩]⟩,
  -- SXT_SENS_DATA
  ⟨0x100028, [⟨F.SXT_SENS_DATA_READING, .ro, (.val 0)⟩, ⟨F.SXT_SENS_DATA_MIN, .rc, (.val 0)⟩, ⟨F.SXT_SENS_DATA_MAX, .rc, (.val 0)⟩, ⟨F.SXT_SENS_DATA_LEVEL, .ro, (.val 0)⟩]⟩,
  -- SXT_SENS_THR
  ⟨0x100030, [⟨F.SXT_SENS_THR_WARN, .rw, .almanac⟩, ⟨F.SXT_SENS_THR_CRIT, .rw, .almanac⟩, ⟨F.SXT_SENS_THR_FATAL, .rw, .almanac⟩, ⟨F.SXT_SENS_THR_HYST, .rw, .almanac⟩]⟩,
  -- SXT_LOG_HEAD
  ⟨0x100038, [⟨F.SXT_LOG_HEAD_NEXT_SEQ, .ro, (.val 0)⟩]⟩,
  -- SXT_LOG_MIRRORED
  ⟨0x100040, [⟨F.SXT_LOG_MIRRORED_SEQ, .ro, (.val 0)⟩]⟩,
  -- SXT_LOG_SEL
  ⟨0x100048, [⟨F.SXT_LOG_SEL_SEQ, .rw, (.val 0)⟩]⟩,
  -- SXT_LOG_STAT
  ⟨0x100050, [⟨F.SXT_LOG_STAT_BUSY, .ro, (.val 0)⟩, ⟨F.SXT_LOG_STAT_PRESENT, .ro, (.val 0)⟩, ⟨F.SXT_LOG_STAT_FROM_NVM, .ro, (.val 0)⟩]⟩,
  -- SXT_LOG_DATA0
  ⟨0x100058, [⟨F.SXT_LOG_DATA0_DATA, .ro, (.val 0)⟩]⟩,
  -- SXT_LOG_DATA1
  ⟨0x100060, [⟨F.SXT_LOG_DATA1_DATA, .ro, (.val 0)⟩]⟩,
  -- SXT_LOG_DATA2
  ⟨0x100068, [⟨F.SXT_LOG_DATA2_DATA, .ro, (.val 0)⟩]⟩,
  -- SXT_LOG_DATA3
  ⟨0x100070, [⟨F.SXT_LOG_DATA3_DATA, .ro, (.val 0)⟩]⟩,
  -- SXT_LOG_DATA4
  ⟨0x100078, [⟨F.SXT_LOG_DATA4_DATA, .ro, (.val 0)⟩]⟩,
  -- SXT_LOG_DATA5
  ⟨0x100080, [⟨F.SXT_LOG_DATA5_DATA, .ro, (.val 0)⟩]⟩,
  -- SXT_LOG_DATA6
  ⟨0x100088, [⟨F.SXT_LOG_DATA6_DATA, .ro, (.val 0)⟩]⟩,
  -- SXT_LOG_DATA7
  ⟨0x100090, [⟨F.SXT_LOG_DATA7_DATA, .ro, (.val 0)⟩]⟩,
  -- SXT_LOG_CTRL
  ⟨0x100098, [⟨F.SXT_LOG_CTRL_UART_MIN_SEV, .rw, .almanac⟩, ⟨F.SXT_LOG_CTRL_MIRROR_NOW, .wo, (.val 0)⟩]⟩,
  -- SXT_BUS_SEL
  ⟨0x1000a0, [⟨F.SXT_BUS_SEL_PORT, .rw, (.val 0)⟩]⟩,
  -- SXT_BUS_CTRL
  ⟨0x1000a8, [⟨F.SXT_BUS_CTRL_I3C, .rw, .almanac⟩, ⟨F.SXT_BUS_CTRL_SPEED, .rw, .almanac⟩, ⟨F.SXT_BUS_CTRL_ADDR, .rw, .almanac⟩, ⟨F.SXT_BUS_CTRL_RECOVER, .wo, (.val 0)⟩, ⟨F.SXT_BUS_CTRL_ISOLATED, .ro, (.val 0)⟩, ⟨F.SXT_BUS_CTRL_STUCK_COUNT, .ro, (.val 0)⟩]⟩,
  -- SXT_RESET_CTRL
  ⟨0x101000, [⟨F.SXT_RESET_CTRL_ACTION, .rw, (.val 0)⟩, ⟨F.SXT_RESET_CTRL_UNIT_CLASS, .rw, (.val 0)⟩, ⟨F.SXT_RESET_CTRL_UNIT_INDEX, .rw, (.val 0)⟩, ⟨F.SXT_RESET_CTRL_FORCE, .rw, (.val 0)⟩, ⟨F.SXT_RESET_CTRL_GO, .wo, (.val 0)⟩, ⟨F.SXT_RESET_CTRL_BUSY, .ro, (.val 0)⟩, ⟨F.SXT_RESET_CTRL_STATUS, .ro, (.val 0)⟩]⟩,
  -- SXT_RESET_STATUS
  ⟨0x101008, [⟨F.SXT_RESET_STATUS_COMPUTE_RESETS, .ro, (.val 0)⟩, ⟨F.SXT_RESET_STATUS_DEVICE_RESETS, .ro, (.val 0)⟩, ⟨F.SXT_RESET_STATUS_LAST_ACTION, .ro, (.val 0)⟩, ⟨F.SXT_RESET_STATUS_LAST_CAUSE, .ro, (.val 0)⟩, ⟨F.SXT_RESET_STATUS_LAST_MS, .ro, (.val 0)⟩, ⟨F.SXT_RESET_STATUS_HELD, .ro, (.val 0)⟩]⟩,
  -- SXT_HEALTH_SEL
  ⟨0x101010, [⟨F.SXT_HEALTH_SEL_PART, .rw, (.val 0)⟩]⟩,
  -- SXT_HEALTH
  ⟨0x101018, [⟨F.SXT_HEALTH_SCORE, .ro, (.val 0)⟩, ⟨F.SXT_HEALTH_LEVEL, .ro, (.val 0)⟩]⟩,
  -- SXT_HEALTH_THR
  ⟨0x101020, [⟨F.SXT_HEALTH_THR_WARN, .rw, .almanac⟩, ⟨F.SXT_HEALTH_THR_FAIL, .rw, .almanac⟩]⟩,
  -- SXT_HEALTH_CTRL
  ⟨0x101028, [⟨F.SXT_HEALTH_CTRL_WINDOW_S, .rw, .almanac⟩, ⟨F.SXT_HEALTH_CTRL_CLEAR, .wo, (.val 0)⟩]⟩,
  -- SXT_FAULT_COUNT
  ⟨0x101030, [⟨F.SXT_FAULT_COUNT_RECORDS, .ro, (.val 0)⟩, ⟨F.SXT_FAULT_COUNT_UNDELIVERED, .ro, (.val 0)⟩]⟩]

/-- The EVC_ registers. -/
def regsEvc : List RegDesc := [
  -- EVC_CAP
  ⟨0x9000000, [⟨F.EVC_CAP_COUNTERS, .ro, (.val 0x200)⟩, ⟨F.EVC_CAP_SOURCES, .ro, (.val 0xfa0)⟩]⟩,
  -- EVC_CTRL
  ⟨0x9000008, [⟨F.EVC_CTRL_DOMAIN_LIMIT, .rw, .almanac⟩, ⟨F.EVC_CTRL_FREEZE, .rw, (.val 0)⟩]⟩,
  -- EVC_STATUS
  ⟨0x9000010, [⟨F.EVC_STATUS_OPERATOR_USED, .ro, (.val 0)⟩, ⟨F.EVC_STATUS_DOMAIN_USED, .ro, (.val 0)⟩]⟩,
  -- EVC_SEL
  ⟨0x9000018, [⟨F.EVC_SEL_COUNTER, .rw, (.val 0)⟩]⟩,
  -- EVC_CFG
  ⟨0x9000020, [⟨F.EVC_CFG_SOURCE, .rw, (.val 0)⟩, ⟨F.EVC_CFG_ENABLE, .rw, (.val 0)⟩, ⟨F.EVC_CFG_OWNER, .ro, (.val 0)⟩, ⟨F.EVC_CFG_GO, .wo, (.val 0)⟩, ⟨F.EVC_CFG_BUSY, .ro, (.val 0)⟩, ⟨F.EVC_CFG_STATUS, .ro, (.val 0)⟩]⟩,
  -- EVC_VALUE
  ⟨0x9000028, [⟨F.EVC_VALUE_VALUE, .ro, (.val 0)⟩]⟩]

/-- The PMC_ registers. -/
def regsPmc : List RegDesc := [
  -- PMC_CAP
  ⟨0xa000000, [⟨F.PMC_CAP_MAX_LIMIT_W, .ro, (.val 0x44c)⟩, ⟨F.PMC_CAP_RESERVE_W, .ro, (.val 0x276)⟩, ⟨F.PMC_CAP_ARRAY_SRAM_W, .ro, (.val 0x1d6)⟩, ⟨F.PMC_CAP_LOCK_US, .ro, (.val 0x19)⟩]⟩,
  -- PMC_LIMIT
  ⟨0xa000008, [⟨F.PMC_LIMIT_PKG_LIMIT_W, .rw, .almanac⟩, ⟨F.PMC_LIMIT_GUARD_W, .rw, .almanac⟩, ⟨F.PMC_LIMIT_CRIT_HOLD_MS, .rw, .almanac⟩]⟩,
  -- PMC_STATUS
  ⟨0xa000010, [⟨F.PMC_STATUS_DUTY, .ro, (.val 0x100)⟩, ⟨F.PMC_STATUS_PKG_W, .ro, (.val 0)⟩, ⟨F.PMC_STATUS_PEAK_W, .rc, (.val 0)⟩, ⟨F.PMC_STATUS_CRIT_ACTIVE, .ro, (.val 0)⟩, ⟨F.PMC_STATUS_STRICT_REDUCED, .ro, (.val 0)⟩, ⟨F.PMC_STATUS_PLL_RUN, .ro, (.val 0)⟩]⟩,
  -- PMC_ALLOW
  ⟨0xa000018, [⟨F.PMC_ALLOW_ARRAY_ALLOW, .ro, (.val 0)⟩, ⟨F.PMC_ALLOW_VECTOR_ALLOW, .ro, (.val 0)⟩]⟩,
  -- PMC_SLEEP_CTRL
  ⟨0xa000020, [⟨F.PMC_SLEEP_CTRL_ARR_PLL_OFF_US, .rw, .almanac⟩, ⟨F.PMC_SLEEP_CTRL_RADIO_IDLE_US, .rw, .almanac⟩, ⟨F.PMC_SLEEP_CTRL_CORE_IDLE_US, .rw, .almanac⟩, ⟨F.PMC_SLEEP_CTRL_ENG_IDLE_US, .rw, .almanac⟩]⟩,
  -- PMC_UNIT_SEL
  ⟨0xa000028, [⟨F.PMC_UNIT_SEL_KIND, .rw, (.val 0)⟩, ⟨F.PMC_UNIT_SEL_INDEX, .rw, (.val 0)⟩]⟩,
  -- PMC_UNIT_STATUS
  ⟨0xa000030, [⟨F.PMC_UNIT_STATUS_STATE, .ro, (.val 0)⟩, ⟨F.PMC_UNIT_STATUS_WAKE_LATCHED, .ro, (.val 0)⟩, ⟨F.PMC_UNIT_STATUS_HELD, .ro, (.val 0)⟩]⟩,
  -- PMC_STRICT_SEL
  ⟨0xa000038, [⟨F.PMC_STRICT_SEL_DOMAIN, .rw, (.val 0)⟩]⟩,
  -- PMC_STRICT_SHARE
  ⟨0xa000040, [⟨F.PMC_STRICT_SHARE_SHARE_W, .ro, .almanac⟩, ⟨F.PMC_STRICT_SHARE_EFF_W, .ro, .almanac⟩, ⟨F.PMC_STRICT_SHARE_DUTY, .ro, .almanac⟩]⟩,
  -- PMC_COUNT
  ⟨0xa000048, [⟨F.PMC_COUNT_GATED, .ro, (.val 0)⟩, ⟨F.PMC_COUNT_SLEEP_ABORTS, .ro, (.val 0)⟩, ⟨F.PMC_COUNT_LATCHED_WAKES, .ro, (.val 0)⟩]⟩,
  -- PMC_ERR_STATUS
  ⟨0xa000050, [⟨F.PMC_ERR_STATUS_PLL_RELOCK, .w1c, (.val 0)⟩, ⟨F.PMC_ERR_STATUS_PLL_FAIL, .w1c, (.val 0)⟩, ⟨F.PMC_ERR_STATUS_STRICT_SCALED, .w1c, (.val 0)⟩, ⟨F.PMC_ERR_STATUS_WAKE_TIMEOUT, .w1c, (.val 0)⟩, ⟨F.PMC_ERR_STATUS_THROTTLED, .w1c, (.val 0)⟩]⟩]

/-- The GLB_ registers. -/
def regsGlb : List RegDesc := [
  -- GLB_ID
  ⟨0x0, [⟨F.GLB_ID_VENDOR, .ro, .fuse⟩, ⟨F.GLB_ID_PART, .ro, (.val 0x7720)⟩, ⟨F.GLB_ID_STEPPING, .ro, (.val 0xb1)⟩]⟩,
  -- GLB_SERIAL
  ⟨0x8, [⟨F.GLB_SERIAL_SERIAL, .ro, .fuse⟩]⟩,
  -- GLB_VERSION
  ⟨0x10, [⟨F.GLB_VERSION_FW_VERSION, .ro, (.val 0)⟩, ⟨F.GLB_VERSION_CFG_VERSION, .ro, (.val 0)⟩]⟩,
  -- GLB_CAP
  ⟨0x18, [⟨F.GLB_CAP_BLOCKS, .ro, (.val 0xffff)⟩, ⟨F.GLB_CAP_MAP_REGS, .ro, (.val 0x6)⟩, ⟨F.GLB_CAP_BAR0_MIB, .ro, (.val 0x40)⟩, ⟨F.GLB_CAP_PAGE_KIB, .ro, (.val 0x40)⟩]⟩,
  -- GLB_STATUS
  ⟨0x20, [⟨F.GLB_STATUS_BOOT_STATE, .ro, (.val 0)⟩, ⟨F.GLB_STATUS_ARRAY_OFFLINE, .ro, (.val 0)⟩]⟩,
  -- GLB_MAP_TROW
  ⟨0x100, [⟨F.GLB_MAP_TROW_TILE_ROWS, .ro, .almanac⟩]⟩,
  -- GLB_MAP_TCOL
  ⟨0x108, [⟨F.GLB_MAP_TCOL_TILE_COLS, .ro, .almanac⟩]⟩,
  -- GLB_MAP_HELM
  ⟨0x110, [⟨F.GLB_MAP_HELM_CORES, .ro, .almanac⟩]⟩,
  -- GLB_MAP_MEM
  ⟨0x118, [⟨F.GLB_MAP_MEM_STACKS, .ro, .almanac⟩]⟩,
  -- GLB_MAP_RADIO
  ⟨0x120, [⟨F.GLB_MAP_RADIO_DEC, .ro, .almanac⟩, ⟨F.GLB_MAP_RADIO_ENC, .ro, .almanac⟩, ⟨F.GLB_MAP_RADIO_POLAR, .ro, .almanac⟩, ⟨F.GLB_MAP_RADIO_EQ, .ro, .almanac⟩, ⟨F.GLB_MAP_RADIO_DEMAP, .ro, .almanac⟩, ⟨F.GLB_MAP_RADIO_HARQ, .ro, .almanac⟩, ⟨F.GLB_MAP_RADIO_TDFE, .ro, .almanac⟩, ⟨F.GLB_MAP_RADIO_PRACH, .ro, .almanac⟩, ⟨F.GLB_MAP_RADIO_DECOMP, .ro, .almanac⟩]⟩,
  -- GLB_MAP_IO
  ⟨0x128, [⟨F.GLB_MAP_IO_DMA, .ro, .almanac⟩, ⟨F.GLB_MAP_IO_FABRIC, .ro, .almanac⟩, ⟨F.GLB_MAP_IO_ETH, .ro, .almanac⟩, ⟨F.GLB_MAP_IO_RHUMB, .ro, .almanac⟩]⟩,
  -- GLB_MAP_POLICY
  ⟨0x140, [⟨F.GLB_MAP_POLICY_REPAIR_AXIS, .ro, .almanac⟩]⟩,
  -- GLB_MAP_UNIT
  ⟨0x148, [⟨F.GLB_MAP_UNIT_UNIT_CLASS, .rw, (.val 0)⟩, ⟨F.GLB_MAP_UNIT_UNIT_INDEX, .rw, (.val 0)⟩, ⟨F.GLB_MAP_UNIT_FUSE, .ro, (.val 0)⟩, ⟨F.GLB_MAP_UNIT_ALMANAC, .ro, (.val 0)⟩, ⟨F.GLB_MAP_UNIT_RUNTIME, .ro, (.val 0)⟩, ⟨F.GLB_MAP_UNIT_VALID, .ro, (.val 0)⟩, ⟨F.GLB_MAP_UNIT_LAST_CAUSE, .ro, (.val 0)⟩]⟩,
  -- GLB_MAP_CTRL
  ⟨0x150, [⟨F.GLB_MAP_CTRL_OP, .rw, (.val 0)⟩, ⟨F.GLB_MAP_CTRL_FORCE, .rw, (.val 0)⟩, ⟨F.GLB_MAP_CTRL_GO, .wo, (.val 0)⟩, ⟨F.GLB_MAP_CTRL_BUSY, .ro, (.val 0)⟩, ⟨F.GLB_MAP_CTRL_STATUS, .ro, (.val 0)⟩]⟩,
  -- GLB_MAP_DIGEST0
  ⟨0x160, [⟨F.GLB_MAP_DIGEST0_DIGEST, .ro, .almanac⟩]⟩,
  -- GLB_MAP_DIGEST1
  ⟨0x168, [⟨F.GLB_MAP_DIGEST1_DIGEST, .ro, .almanac⟩]⟩,
  -- GLB_MAP_DIGEST2
  ⟨0x170, [⟨F.GLB_MAP_DIGEST2_DIGEST, .ro, .almanac⟩]⟩,
  -- GLB_MAP_DIGEST3
  ⟨0x178, [⟨F.GLB_MAP_DIGEST3_DIGEST, .ro, .almanac⟩]⟩,
  -- GLB_MAP_GEN
  ⟨0x180, [⟨F.GLB_MAP_GEN_CHANGES, .ro, (.val 0)⟩]⟩]

/-- The block registers that share the top bits of an address, so that a lookup reads one block. -/
def regBlock (a : Nat) : List RegDesc :=
  if a ≥ 0x100000000 then regsInst
  else if a >>> 21 = 0x10 then regsTrk
  else if a >>> 21 = 0x14 then regsDvu
  else if a >>> 21 = 0x8 then regsHlm
  else if a >>> 12 = 0x3000 then regsRad
  else if a >>> 21 = 0x1c then regsFh
  else if a >>> 12 = 0x3001 then regsRade
  else if a >>> 21 = 0x40 then regsMem
  else if a >>> 21 = 0x28 then regsFab
  else if a >>> 21 = 0x58 then regsPci
  else if a >>> 21 = 0x20 then regsEth
  else if a >>> 21 = 0x38 then regsIso
  else if a >>> 21 = 0x30 then regsMer
  else if a >>> 21 = 0x48 then regsEvc
  else if a >>> 21 = 0x50 then regsPmc
  else if a < 0x100000 then regsGlb
  else if a < 0x180000 then regsSxt
  else if a < 0x200000 then regsAlm
  else []

/-- The reset values of the registers whose fields do not all reset to 0, where the tables give a number (R14). -/
def resetTable : Tab Nat := [
  (0x0, 0xb177200000),  -- GLB_ID
  (0x18, 0x404006ffff),  -- GLB_CAP
  (0x100000, 0xf000200031860),  -- SXT_CAP
  (0x180000, 0x90480),  -- ALM_CAP
  (0x180008, 0xff000),  -- ALM_STATUS
  (0x1000000, 0x144007d08044220),  -- HLM_CAP
  (0x1000020, 0x20000),  -- HLM_ADMIT_CTRL
  (0x1000038, 0x1),  -- HLM_SHARE
  (0x2000000, 0x5dc40a81020),  -- TRK_CAP
  (0x2001000, 0x4081002010000),  -- TRK_CHART_CAP
  (0x2800000, 0x800000200bb9000),  -- DVU_CAP
  (0x3000000, 0x20424880600200),  -- RAD_CAP
  (0x3000008, 0x2000200006004b0),  -- RAD_CAP1
  (0x3800000, 0x200104402004000),  -- FH_CAP
  (0x4000000, 0x400200100080048),  -- ETH_CAP
  (0x4000060, 0x400000000200),  -- ETH_PRING
  (0x4000068, 0x28000),  -- ETH_Q_CFG
  (0x4000080, 0x1),  -- ETH_DOM_SHARE
  (0x5000000, 0x8001000080622400),  -- FAB_CAP
  (0x5000008, 0x300000000000),  -- FAB_CTRL
  (0x5000040, 0x800),  -- FAB_ROUTE
  (0x6000000, 0x3e00000),  -- MER_STATUS
  (0x7000000, 0xfa04801080),  -- ISO_CAP
  (0x8000000, 0x1001018040608),  -- MEM_CAP
  (0x8000008, 0x1000000000000),  -- MEM_STATUS
  (0x9000000, 0x3e8200),  -- EVC_CAP
  (0xa000000, 0x67ad3b44c),  -- PMC_CAP
  (0xa000010, 0x100),  -- PMC_STATUS
  (0xb000000, 0x84008400100106),  -- PCI_CAP
  (0x100002000, 0x80840000),  -- RING_CFG
  (0x100002018, 0x1000),  -- RING_IRQ
  (0x100002020, 0x400000000),  -- RING_STATUS
  (0x100002030, 0xffff000000000000)]  -- RING_RECKON

end Sys2Proof.Machine
end

