-- ==== Sys2Proof/Machine/TypesCore.lean ====
section
/-! DEFINITION. Types of the state that several blocks share: messages that the device sends, rings, instances, charts,
runs, and the array and vector pipes. -/

namespace Sys2Proof.Machine

/-- A named unit: its class of R546 and its index within the class. -/
structure DevUnit where
  cls : Nat
  idx : Nat
deriving DecidableEq, Repr

/-- A section extension that the device emits (R226). -/
inductive SecExt where
  /-- Extension 1: one bfwCompMeth and one set of weights, 16-bit I and Q, for every PRB of the section (R284). -/
  | weights (method : Nat) (w : List Int)
  /-- Extensions 4 and 5: the parameters of modulation compression, a constellation shift and a modCompScaler for each set of resource
  elements; one set is extension 4 (R241). -/
  | modComp (sets : List (Int × Int))
  /-- Extension 6: the groups of 6 PRBs from the section's first PRB that it takes (CORESET_FREQ of R216). -/
  | nonContig (groups : Nat)
  /-- Extension 10: the further ports that share the section's beam. -/
  | ports (more : Nat)
  /-- Extension 11: the PRBs of a bundle, bfwCompMeth, and the weights of each bundle, 16-bit I and Q (R284). -/
  | flexWeights (perBundle method : Nat) (w : List Int)
deriving DecidableEq, Repr

/-- A C-plane section (R226, R284): its type, the item's ID, PRBs and beam, the UE, the further fields of a section of type 3, and its
extensions. -/
structure CSection where
  kind : Nat
  item : Nat
  prb : Nat
  nprb : Nat
  beam : Nat
  ue : Nat
  extra : List Int
  exts : List SecExt
deriving DecidableEq, Repr

/-- A U-plane section as sent (R226, R241): its PRBs, its udCompHdr where it carries one, and its content. -/
structure USection where
  prb : Nat
  nprb : Nat
  comp : Option (Nat × Nat)
  data : List Byte
deriving DecidableEq, Repr

/-- What carries an egress fronthaul frame (R228, R238): its sub-port, the PCP and VID of its VLAN tag, the channel, AN and packet number that
protect it, the eAxC ID or RoE flowID, and ecpriSeqId. -/
structure FhHead where
  subport : Nat
  vlan : Option (Nat × Nat)
  sec : Option (Nat × Nat × Nat)
  id : Nat
  seq : Nat
deriving DecidableEq, Repr

/-- The radio application header of a C-plane or U-plane message, with payloadVersion 1 (R226): dataDirection, filterIndex, frameId, subframeId,
slotId and symbolId. -/
structure FhRadio where
  dir : Nat
  filter : Nat
  frame : Nat
  subframe : Nat
  slot : Nat
  sym : Nat
deriving DecidableEq, Repr

/-- A message that the device sends to a party outside it. The list of them is the model's record of its outputs (log entry 4). -/
inductive Out where
  /-- A posted write to host memory, with the link and PASID it carries. -/
  | hostWrite (link pasid addr : Nat) (data : List Byte)
  /-- An MSI-X message (R371). -/
  | msix (link vector : Nat)
  /-- An Ethernet frame that leaves a sub-port: for MACsec the channel, AN and packet number that protect it, and its bytes on the wire up to
  the FCS. -/
  | frame (subport : Nat) (sec : Option (Nat × Nat × Nat)) (data : List Byte)
  /-- A PTP message or ESMC PDU that leaves a sub-port (R466, R470): its kind (0 Sync, 1 Delay_Req, 2 Delay_Resp, 3 Announce, 4 signaling,
  5 ESMC information, 6 ESMC event) and its fields. -/
  | ptp (subport kind : Nat) (fields : List Nat)
  /-- A fabric request that leaves for a node on a port: kind, address, length, key, epoch, flags, engine, tag and data (R347). -/
  | fabricReq (port node kind addr len key epoch flags engine tag : Nat) (data : List Byte)
  /-- A fabric response that leaves for a node: status, flags, engine, tag and data (R347). -/
  | fabricRsp (port node status flags engine tag : Nat) (data : List Byte)
  /-- A message for another node, forwarded on a port with one more hop (R319). -/
  | forward (port : Nat) (msg : FabMsg)
  /-- A Rhumb control flit: port, kind, value (R346). -/
  | flit (port kind value : Nat)
  /-- An SPDM response: session, response code, payload (R419). -/
  | spdm (session code : Nat) (data : List Byte)
  /-- A PLDM response (R513). -/
  | pldm (code : Nat) (data : List Byte)
  /-- A line of the log on the UART (R518). -/
  | uart (seq : Nat)
  /-- Bits shifted out of TDO (R518). -/
  | tdo (width value : Nat)
  /-- A U-plane frame (R226, R238). -/
  | uplane (head : FhHead) (radio : FhRadio) (sections : List USection)
  /-- A C-plane frame (R226, R238). -/
  | cplane (head : FhHead) (radio : FhRadio) (sections : List CSection)
  /-- A RoE frame: orderingInfo and the samples, I then Q (R242). -/
  | roe (head : FhHead) (order : Nat) (samples : List Int)
deriving DecidableEq, Repr

/-- The stages of a fetched command: waiting for a fence, waiting for a run context, or started (R113, R364). -/
inductive CmdStage where
  | waiting
  | waitCtx
  | started
deriving DecidableEq, Repr

/-- A submission entry that a queue core has fetched and not yet completed (R364, R367), with the step that a RUN_CHART took (R452)
and the Meridian time at which its doorbell arrived (R211). -/
structure Fetched where
  cid : Nat
  opcode : Nat
  flags : Nat
  user : Nat
  body : List Byte
  stage : CmdStage
  startAt : Nat
  step : Nat
  arrive : Nat
deriving DecidableEq, Repr

/-- A host ring, by its global number (R361). Its indices, state and configuration are its registers' (R379). -/
structure Ring where
  inst : Nat
  loc : Nat
  cls : Nat
  priv : Bool
  vector : Nat
  fetched : List Fetched
  held : List (List Byte × Bool)
  sqTail : Nat
  arrivals : List Nat
  cqHead : Nat
  uncounted : Nat
  firstAt : Nat
  seedHalf : Option Nat
  seed : Option Nat
  cancels : List Nat
deriving DecidableEq, Repr

/-- An instance that is not FREE (R360). -/
structure Inst where
  dom : Nat
  pasid : Nat
  oper : Bool
  link : Nat
  ats : Bool
  maxRings : Nat
  locals : Tab Nat
  resetStep : Nat
  destroy : Bool
  info : List Nat
  dbAt : Nat
  dbs : Nat
deriving DecidableEq, Repr

/-- A mailbox command that waits for a context reset (R357, R360): its operation, instance and local ring, and the address of its
buffer in units of 64 bytes. -/
structure MbxWait where
  op : Nat
  inst : Nat
  loc : Nat
  addr : Nat
deriving DecidableEq, Repr

/-- The states of a chart table entry (R108); an unlisted entry is FREE. -/
inductive ChartState where
  | loading
  | ready
  | unloading
deriving DecidableEq, Repr

/-- A chart table entry (R108), with the header fields that later checks read (R105). -/
structure Chart where
  st : ChartState
  dom : Nat
  ring : Nat
  cid : Nat
  hbmOff : Nat
  size : Nat
  classMask : Nat
  count : Nat
  wdescs : Nat
  weightOff : Nat
  designE : Nat
  designC : Nat
  lookahead : Nat
  nargs : Nat
  spBytes : Nat
  stBytes : Nat
  maxDecl : Nat
  digest : Nat
  weightDigest : Nat
  runs : Nat
  unloads : List Nat
  tables : Tab (List Byte)
  lost : Bool
  written : Bool
deriving DecidableEq, Repr

/-- The states of a residency tag (R128). -/
inductive TagState where
  | invalid
  | pending
  | resident
  | faulted
  | saved
deriving DecidableEq, Repr

/-- A residency tag: its state and its reader count (R128). -/
structure Tag where
  st : TagState
  readers : Nat
deriving DecidableEq, Repr

/-- The stages of a program command: dispatched, or started by its engine (R115, R129). -/
inductive PStage where
  | dispatched
  | started
deriving DecidableEq, Repr

/-- A program command that is dispatched and not completed. -/
structure PCmd where
  stage : PStage
  startAt : Nat
  reissued : Bool
deriving DecidableEq, Repr

/-- What a completed array command reported (R134). -/
structure CmdReport where
  e : Nat
  c : Nat
  rsv : Nat
  trig : Nat
  recomp : Nat
  warn : Nat
  ns : Nat
  posted : Bool
deriving DecidableEq, Repr

/-- Who started a run: a ring's RUN_CHART, or a phase instance of a radio cell (R111, R208). -/
inductive RunOwner where
  | ring (ring cid : Nat)
  | phase (cell slot phase k : Nat)
deriving DecidableEq, Repr

/-- An external read of a command, as the input digest takes it (R447): the command's index, the kind, the length and the digest of the
bytes. -/
structure ExtRead where
  idx : Nat
  kind : Nat
  len : Nat
  hash : Nat
deriving DecidableEq, Repr

/-- A completed command whose waypoint record is owed: its index, E, C and the map digest of its grant (R445, R448). -/
structure Waypoint where
  idx : Nat
  e : Nat
  c : Nat
  map : Nat
deriving DecidableEq, Repr

/-- A run context in use (R113). -/
structure Run where
  owner : RunOwner
  chart : Nat
  dom : Nat
  cls : Nat
  spWin : Nat
  stWin : Nat
  args : List Nat
  deadline : Option Nat
  step : Nat
  seed : Option Nat
  halt : Option Nat
  next : Nat
  cmds : Tab PCmd
  tags : Tab Tag
  grantedAny : Bool
  status : Nat
  failIndex : Nat
  failValid : Bool
  cancelled : Bool
  resetting : Bool
  warn : Nat
  rsvCount : Nat
  trig : Nat
  recomp : Nat
  lastE : Nat
  lastC : Nat
  varied : Bool
  reports : Tab CmdReport
  arrCycles : Nat
  vecCycles : Nat
  waypoints : List Waypoint
  hashes : List ExtRead
  endPassed : Bool
  captured : Bool
  grants : Nat
  overlap : Bool
  ended : Bool
deriving DecidableEq, Repr

/-- A run or a fetch that waits for a run context (R113). -/
structure CtxWaiter where
  owner : RunOwner
  chart : Nat
  dom : Nat
  cls : Nat
  deadline : Option Nat
  body : List Byte
  step : Nat
deriving DecidableEq, Repr

/-- An array command on the array: its run and index, the E, C and map digest that it latched (R57, R444), the row of R174 that
granted it, its times in array cycles from the front start (R86), the guard cycles of its pass, and its share of the occupancy. -/
structure ArrCmd where
  run : Nat
  idx : Nat
  e : Nat
  c : Nat
  map : Nat
  row : Nat
  front : Nat
  tData : Nat
  tLat : Nat
  tNext : Nat
  g : Nat
  charge : Nat
  repacked : Bool
  suppressed : Bool
  fault : Nat
deriving DecidableEq, Repr

/-- The array: the commands joined in the pass now on it (R127), those that have passed their boundary, the earliest next front start
(R84), and since when it has been busy. -/
structure ArrUnit where
  cur : List ArrCmd
  drain : List ArrCmd
  freeAt : Nat
  busySince : Nat
  lastIdle : Nat
  ring : Option Nat
deriving DecidableEq, Repr

/-- The running state of a query row of an ATTN (R160). -/
structure AttnRow where
  m : Nat
  l : Nat
  o : List Nat
deriving DecidableEq, Repr

/-- A VECOP, or a segment of an ATTN, in service, or an ATTN suspended between segments (R153, R165): the time of its start, its cycles, and for an
ATTN the blocks done before and in the segment, whether the segment is the last, the blocks that the lanes have finished and when, the KV wait cycles,
the cycles of the segments before, the running state, whether it is saved, and the domain and run of the command granted in between. -/
structure VecCmd where
  run : Nat
  idx : Nat
  e : Nat
  c : Nat
  map : Nat
  row : Nat
  start : Nat
  cyc : Nat
  attn : Bool
  last : Bool
  before : Nat
  seg : Nat
  done : Nat
  lanesAt : Nat
  wait : Nat
  charged : Nat
  rows : List AttnRow
  saved : Bool
  between : Option (Nat × Nat)
  suppressed : Bool
deriving DecidableEq, Repr

/-- The KV stream of an ATTN (R162): the next page to fetch, two to a block with K first, the pages in flight, those landed by number with
the time they landed, the time the lanes finish each block, and whether a page was written meanwhile (R163). -/
structure KvStream where
  run : Nat
  idx : Nat
  nextPage : Nat
  inFlight : List Nat
  landed : Tab Nat
  ends : Tab Nat
  spoiled : Bool
deriving DecidableEq, Repr

/-- The vector pipe (R165): the command in service, the ATTN suspended, and their KV streams. -/
structure VecUnit where
  cur : Option VecCmd
  suspended : List VecCmd
  kv : List KvStream
deriving DecidableEq, Repr

/-- What a DMA read serves: a transfer of a run, an HCOPY, a chart load, or a fabric command's host buffer (R372). -/
inductive DmaUse where
  | xfer (run idx : Nat)
  | hcopy (ring cid : Nat)
  | chart (id : Nat)
  | fabric (ring cid : Nat)
deriving DecidableEq, Repr

/-- A host transfer on a DMA engine (R372 to R374): its PASID and link, the engine and descriptors that it holds, its host address and
length, its read requests, and the bytes landed so far. -/
structure DmaJob where
  use : DmaUse
  inst : Nat
  engine : Nat
  desc : Nat
  addr : Nat
  len : Nat
  reads : Nat
  data : List Byte
  startAt : Nat
  landed : Bool
  failed : Option Nat
deriving DecidableEq, Repr

/-- Tags held in quarantine (R345, R374): DMA read tags of a link or a fabric operation's on an engine, with the time at which they are freed. -/
structure Quarantine where
  id : Nat
  engine : Nat
  link : Nat
  tags : Nat
  fabric : Bool
  freeAt : Nat
deriving DecidableEq, Repr

end Sys2Proof.Machine
end

