-- ==== Sys2Proof/Machine/TypesSys.lean ====
section
/-! DEFINITION. Types of the event log, of fault records and of the deliveries to domains. -/

namespace Sys2Proof.Machine

/-- The event log (R508 to R510): the entries in SRAM oldest first, the flash mirror by position, the entries lost, and the
register ring of the degraded log with a mark on those already appended to flash. -/
structure LogUnit where
  sram : List LogEntry
  mirror : Tab LogEntry
  waiting : Nat
  degraded : Bool
  regRing : List (LogEntry × Bool)
  flashDead : Bool
  fetch : Option Nat
deriving DecidableEq, Repr

/-- A fault record (R544), with a field that is not valid left out. -/
structure FaultRec where
  cause : Nat
  action : Nat
  dom : Option Nat
  inst : Option Nat
  ring : Option Nat
  cmd : Option Nat
  chart : Option Nat
  cell : Option Nat
  cont : Bool
  index : Nat
  ucls : Nat
  uidx : Nat
  detail : Nat
deriving DecidableEq, Repr

/-- The merging of a domain's copies of fault records with one key (R548): when the last one was delivered, and how many
occurrences wait for the next. -/
structure FaultMerge where
  dom : Nat
  cause : Nat
  ucls : Nat
  uidx : Nat
  lastAt : Nat
  repeats : Nat
deriving DecidableEq, Repr

/-- An event counter in use (R523, R525): its source, its owning domain or none for the operator's, its value, the value that it had before
the last cycle in which it counted, that cycle, and the cycle that programmed it. -/
structure Evc where
  src : Nat
  dom : Option Nat
  value : Nat
  was : Nat
  last : Nat
  prog : Nat
deriving DecidableEq, Repr

/-- Patrol scrub and the errors that count toward the loss of a stack (R297, R298, R311): the next physical block of 64 bytes, the blocks newly
poisoned with the stack and the time of each, and the corrected reads of each pseudo-channel by 64 × stack + pseudo-channel. -/
structure ScrubUnit where
  next : Nat
  ues : List (Nat × Nat)
  corrected : Tab Nat
deriving DecidableEq, Repr

/-- The owners of a physical extent by code (R290): a domain's number, or one of these. -/
def extDevice : Nat := 0xFE
def extSpare : Nat := 0xFD
def extFree : Nat := 0xFF

/-- An entry of the extent table (R290, R315): an unlisted extent is FREE. -/
structure Extent where
  owner : Nat
  idx : Nat
  lost : Bool
  repl : Bool
deriving DecidableEq, Repr

end Sys2Proof.Machine
end

