-- ==== Sys2Proof/Machine/TypesHelm.lean ====
section
/-! DEFINITION. Types of the Helm's state (R186 to R197) and of the radio section's cells, slots and items (R204 to R223). -/

namespace Sys2Proof.Machine

/-- A ring's tags in one virtual time: start tag, finish tag and the weight latched at its last grant (R186), and whether it has a ready
head. -/
structure VTag where
  s : Nat
  f : Nat
  w32 : Nat
  head : Bool
deriving DecidableEq, Repr

/-- A virtual time: v, the tags by global ring, and the Ochre pseudo-ring (R186, R189). -/
structure VTime where
  v : Nat
  tags : Tab VTag
  ochre : VTag
deriving DecidableEq, Repr

/-- An entry of a committed calendar (R191), times in array cycles within the period. -/
structure CalEntry where
  start : Nat
  len : Nat
  dom : Nat
deriving DecidableEq, Repr

/-- A residency switch in progress (R195): the domains it saves, the domain it loads and when it ends. -/
structure Switch where
  saves : List Nat
  load : Nat
  doneAt : Nat
deriving DecidableEq, Repr

/-- A dispatched array or vector command in the command window (R173), with the time at which it became ready. -/
structure WinEntry where
  run : Nat
  idx : Nat
  cls : Nat
  vector : Bool
  readyAt : Option Nat
deriving DecidableEq, Repr

/-- The map in force as it stood before the changes of an array cycle (R57, R175): the cycle, E, C, the digest, and whether the array section
was disabled. -/
structure MapWas where
  cyc : Nat
  e : Nat
  c : Nat
  digest : Nat
  offline : Bool
deriving DecidableEq, Repr

/-- The Helm's hidden state: the virtual times of the two engines, and of each engine for a strict domain (by domain and engine); the window,
the calendars and a switch in progress; the cycles charged; the margin points; a strict entry's allowances; `spoilt`, the cell slots whose
engine areas another writer has met (R258); and what changes of this array cycle replaced: the map, and registers that a decision reads
(R175). -/
structure HelmUnit where
  arr : VTime
  vec : VTime
  window : List WinEntry
  cal : List CalEntry
  calNext : Option (List CalEntry)
  calOffNext : Bool
  switch_ : Option Switch
  lastGrant : Tab Nat
  arrCycles : Tab Nat
  vecCycles : Tab Nat
  radioCycles : Tab Nat
  marginE : Bool
  marginC : Bool
  uncovered : Bool
  strictA : Int
  strictV : Int
  spoilt : List Nat
  strictVt : Tab VTime
  mapWas : Option MapWas
  regsWas : Option (Nat × Tab Word)
deriving DecidableEq, Repr

/-- The states of a cell slot (R204), in the order of RAD_CELL_STATUS.STATE. -/
inductive CellState where
  | unassigned
  | assigned
  | configured
  | active
  | stopping
  | shedding
  | shed
deriving DecidableEq, Repr

/-- A cell configuration block as accepted: its header of 256 bytes and its phase entries of 128 bytes (R206, R207), and the instance that
sent it. -/
structure CellCfg where
  hdr : List Byte
  phases : List (List Byte)
  inst : Nat
deriving DecidableEq, Repr

/-- What has become of a work item. -/
inductive ItemState where
  | waiting
  | prepared
  | done
  | failed (status : Nat)
deriving DecidableEq, Repr

/-- A work item of an accepted slot: its 64 bytes and its progress; the code blocks of its transport block decoded or encoded, those failed, the
largest iteration count, HARQ_FLAGS, whether its context has been taken, the symbols equalized, the soft bits so far, the bytes of its transport
block, the precoded samples, the pool pages of its buffer and the extent written; the jobs that a parity error has made run once more (R286), the time
at which its last encoding job ends (R285), the SINRs of its elements, the UCI found so far: the part, its bits and whether its CRC passed (R269,
R280), and whether data that it has yet to read was lost with a stack (R313). -/
structure Item where
  b : List Byte
  st : ItemState
  cbDone : List Nat
  cbFail : Nat
  maxIter : Nat
  harq : Nat
  queued : Bool
  syms : List Nat
  soft : List Int
  data : List Byte
  out : List Int
  pages : List Nat
  extent : Nat
  retried : List Nat
  ready : Nat
  sinrs : List Nat
  uci : List (Nat × List Bool × Bool)
  lost : Bool
deriving DecidableEq, Repr

/-- A code block in the decoder queue or on a decoder (R276 to R278): the combined buffer, its decoder, and what the decoder finds: the hard
bits, the iterations, why it stopped, whether its CRC passed and when it is done; whether it has been run once more, and EXTENT as the decoder
took it. -/
structure CodeBlock where
  item : Nat
  cb : Nat
  llr : List Int
  unit : Option Nat
  bits : List Bool
  iters : Nat
  stop : Nat
  ok : Bool
  doneAt : Nat
  retried : Bool
  extent : Nat
deriving DecidableEq, Repr

/-- An accepted SLOT that is not complete (R210, R213): its ring and command, its number in units of 125 µs from air time 0, its direction and
items, its flags, E and C, the symbols handed off, those whose sections and whose C-plane have left, and its code blocks in the decoders. -/
structure SlotJob where
  ring : Nat
  cid : Nat
  n : Nat
  up : Bool
  items : List Item
  verLate : Bool
  uncovered : Bool
  e : Nat
  c : Nat
  handed : List Nat
  sent : List Nat
  csent : List Nat
  cblocks : List CodeBlock
deriving DecidableEq, Repr

/-- A released phase instance (R208): its slot and number, the runs not yet ended, whether all that ended were OK, and whether a command of it
was granted after its deadline (R221). -/
structure PhaseRun where
  n : Nat
  p : Nat
  left : Nat
  ok : Bool
  late : Bool
deriving DecidableEq, Repr

/-- A stream's symbol in the radio buffers: the ranges of PRBs, or of samples, that have been written (R236). -/
structure SymFill where
  n : Nat
  sym : Nat
  stream : Nat
  prach : Bool
  ranges : List (Nat × Nat)
deriving DecidableEq, Repr

/-- A stream of the time-domain front end (R243 to R246): its gain code, the symbol and sample that the loop has reached, the symbol up to
which a detector's firing freezes it, and whether the code has changed inside the symbol. -/
structure Agc where
  g : Nat
  at_ : Nat
  idx : Nat
  frozen : Nat
  varied : Bool
deriving DecidableEq, Repr

/-- A HARQ_FLUSH that waits for contexts in use (R273): its ring and command, UE handle, mask and ALL_UES. -/
structure Flush where
  ring : Nat
  cid : Nat
  ue : Nat
  mask : Nat
  all : Bool
deriving DecidableEq, Repr

/-- What a cell slot's classifier entries rest on, as they stood before the changes of an array cycle (R30): the configurations, and whether they
were held. -/
structure CellWas where
  cyc : Nat
  cfg : Option CellCfg
  next : List (CellCfg × Nat)
  prev : List (CellCfg × Nat)
  held : Bool
deriving DecidableEq, Repr

/-- A cell slot: its state, configurations with the slots from which they hold (`prev`: the slots before which earlier ones held), since when it
has been configured (R209), boundaries as slot numbers, accepted slots, the uplink and downlink slots that have been accepted, the uplink
symbols handed off (R237), the symbols that uplink items of a slot freeze (R245), the phases released, counters of R252, front-end state
and HARQ pages in use. -/
structure Cell where
  st : CellState
  cfg : Option CellCfg
  next : List (CellCfg × Nat)
  prev : List (CellCfg × Nat)
  since : Nat
  was : Option CellWas
  orch : Nat
  act : Nat
  stop : Option Nat
  stopCmd : Option (Nat × Nat)
  shedAt : Option Nat
  cause : Nat
  clear : Bool
  cur : Nat
  slots : List SlotJob
  seen : List (Nat × Bool)
  handedOff : List (Nat × Nat)
  freezes : Tab Nat
  phases : List PhaseRun
  stats : Tab Nat
  agc : Tab Agc
  gains : Tab Nat
  fills : List SymFill
  seqs : Tab Nat
  txSeq : Tab Nat
  harqUsed : List Nat
  harqClear : Bool
  flushes : List Flush
deriving DecidableEq, Repr

/-- A job on an encoder or a polar unit (R280, R282, R286): the cell slot, slot, item and code block that it serves, and when it ends. -/
structure EngJob where
  c : Nat
  n : Nat
  k : Nat
  cb : Nat
  at_ : Nat
deriving DecidableEq, Repr

/-- The radio section's shared units: the last job of each encoder and polar unit, and the radio-buffer units of each cell slot's uplink streams,
stream by stream (R304). -/
structure RadUnit where
  enc : Tab EngJob
  polar : Tab EngJob
  units : Tab (List Nat)
deriving DecidableEq, Repr

end Sys2Proof.Machine
end

