-- ==== Sys2Proof/Machine/TypesFab.lean ====
section
/-! DEFINITION. Types of the memory fabric's state (R316 to R352): operations, jobs, tables, the cache, leases and the Rhumb ports. -/

namespace Sys2Proof.Machine

/-- The kinds of fabric operation (R327, R334, R340). -/
inductive FKind where
  | load
  | store
  | atomic (op operand compare : Nat)
  | inval
  | own (newOwner : Nat)
  | mirror
  | drop
  | probe
deriving DecidableEq, Repr

/-- Who waits for an operation that this node serves: one of its own operations, or another node's engine and tag. -/
inductive FSrc where
  | loc (op : Nat)
  | rem (node engine tag : Nat)
deriving DecidableEq, Repr

/-- What an operation in flight serves: a block of a job, another requester's load that a replica forwards, a write forwarded to a mirror, an
invalidation, or a probe. -/
inductive FOwner where
  | job (j off : Nat)
  | fill (region : Nat) (src : FSrc) (off n : Nat)
  | write (h : Nat)
  | inval (h : Nat)
  | probe
deriving DecidableEq, Repr

/-- An operation in flight from this node (R344, R345): its nodes still to try (R338), the port that it left on, whether it was
retried (R350), and whether an invalidation has met its fill (R336). -/
structure FOp where
  owner : FOwner
  kind : FKind
  node : Nat
  addr : Nat
  len : Nat
  key : Nat
  epoch : Nat
  data : List Byte
  engine : Nat
  port : Nat
  sentAt : Nat
  retried : Bool
  fillCache : Bool
  hit : Bool
  rest : List Nat
deriving DecidableEq, Repr

/-- Whose command or transfer a job is (R327, R328, R107). -/
inductive FUse where
  | ring (g cid : Nat)
  | xfer (run idx : Nat)
  | chart (id wdesc : Nat)
deriving DecidableEq, Repr

/-- A ranged command carried out as a series of operations (R328): the bytes issued so far, the parts returned, the failures by offset,
what its completion reports (R329), and when it started. -/
structure FJob where
  use : FUse
  kind : FKind
  addr : Nat
  len : Nat
  key : Nat
  dom : Nat
  engine : Nat
  cache : Bool
  data : List Byte
  next : Nat
  parts : Tab (List Byte)
  fails : Tab Nat
  out : Nat
  stale : Bool
  retried : Bool
  dropped : Nat
  old : Nat
  startAt : Nat
deriving DecidableEq, Repr

/-- A write or an invalidation that this node, as home, has sent on to other nodes (R334, R340): whom it answers, its region entry
as it stood when the request was checked (R326), and the nodes that have not answered, with the time of a first failed delivery. -/
structure HomeOp where
  src : FSrc
  region : Nat
  ent : List Nat
  kind : FKind
  addr : Nat
  len : Nat
  data : List Byte
  reply : Nat
  waiting : List Nat
  dropped : Nat
  failedAt : Tab Nat
deriving DecidableEq, Repr

/-- A request that waits at this home for an earlier write to its block (R331). -/
structure HomeReq where
  src : FSrc
  node : Nat
  kind : FKind
  addr : Nat
  len : Nat
  key : Nat
  epoch : Nat
  fill : Bool
  data : List Byte
deriving DecidableEq, Repr

/-- A line of the fabric cache, or the part of one that a load has filled, with its five tags (R333), the node that served it and the region's
home. -/
structure CacheLine where
  addr : Nat
  epoch : Nat
  dom : Nat
  key : Nat
  server : Nat
  home : Nat
  data : List Byte
deriving DecidableEq, Repr

/-- The fabric's state: region and bearing entries as four words, their staging buffers, region keys, jobs, operations, home operations,
the cache, sharers by region, valid lines and detachment of replicas, consecutive timeouts and last messages by node, commits
held for a mirror, requests that wait for a block, and loads that go on to the next node of their list. -/
structure FabUnit where
  regions : Tab (List Nat)
  bearings : Tab (List Nat)
  stageR : List Nat
  stageB : List Nat
  keys : Tab Nat
  jobs : Tab FJob
  ops : Tab FOp
  homes : Tab HomeOp
  next : Nat
  cache : List CacheLine
  sharers : Tab (List Nat)
  lines : Tab (List Nat)
  detached : List Nat
  timeouts : Tab Nat
  heard : Tab Nat
  heldCommits : Tab (List Nat)
  queue : List HomeReq
  again : List FOp
deriving DecidableEq, Repr

/-- A Rhumb port's hidden state (R346 to R349, R431): the lanes in use, as a mask, those its retrain may use, the message flits sent under
the link key, how often the key has changed, whether a NAK is out, the flit whose tag has failed once, and the messages that wait for the port
to send again, each with its flits. -/
structure RhumbPort where
  used : Nat
  lanes : Nat
  msgs : Nat
  keyGen : Nat
  nak : Bool
  tagBad : Option Nat
  held : List (Nat × Out)
deriving DecidableEq, Repr

end Sys2Proof.Machine
end

