-- ==== Sys2Proof/Machine/TypesEth.lean ====
section
/-! DEFINITION. Types of the Ethernet ports (R383 to R407), the MACsec channels and sessions (R385, R419) and the Meridian (R459 to R471). -/

namespace Sys2Proof.Machine

/-- A policer's buckets, in tokens, and the Meridian ns of its last frame (R398). -/
structure Policer where
  tc : Int
  tp : Int
  last : Nat
deriving DecidableEq, Repr

/-- A receive ring (R393 to R395): the next descriptor to read, USED, the descriptors held as buffer and length, and the counts of granule 1. -/
structure RxRing where
  next : Nat
  used : Nat
  held : List (Nat × Nat)
  nobuf : Nat
  trunc : Nat
  policed : Nat
  disc : Nat
deriving DecidableEq, Repr

/-- A fetched frame of a transmit ring (R404): its first descriptor and their number, its buffers, flags and TCI, the times of the poll that
first saw it in ns and in device time, whether it is on the wire, its status once it is over and its transmit timestamp. -/
structure TxFrame where
  first : Nat
  n : Nat
  bufs : List (Nat × Nat)
  flags : Nat
  tci : Nat
  seen : Nat
  wire : Bool
  status : Option Nat
  tstamp : Option Nat
deriving DecidableEq, Repr

/-- An egress queue and its transmit ring (R399 to R407): the next descriptor to fetch, HEAD, the frames fetched, the time of the last poll,
the fields that the last COMMIT applied, buckets in tokens with their time, the tick at which the wheel releases it, the tick and
occupancy of its last frame, and the figures of the telemetry window. -/
structure TxQueue where
  next : Nat
  head : Nat
  frames : List TxFrame
  lastPoll : Nat
  wheel : Bool
  overhead : Nat
  cir : Nat
  pir : Nat
  cbs : Nat
  pbs : Nat
  tc : Int
  tp : Int
  last : Nat
  release : Option Nat
  lastTick : Nat
  lastOcc : Nat
  depths : Option (Nat × Nat)
  delays : Option (Nat × Nat)
  samples : Nat
deriving DecidableEq, Repr

/-- A sub-port's egress (R399, R400): its virtual time, when the last frame on the wire ends, its queue, and the queue whose frame is on the wire
and not yet completed. -/
structure EthSub where
  vt : VTime
  busy : Nat
  lastQ : Nat
  wire : Option Nat
deriving DecidableEq, Repr

/-- A MACsec secure association (R385, R424): keyed by channel and AN. -/
structure MacSa where
  xpn : Bool
  sci : Nat
  sak : Nat
  ssci : Nat
  salt : Nat
  pn : Nat
  window : Nat
  low : Bool
deriving DecidableEq, Repr

/-- What the writes of one cycle replaced in what frames and samples meet (R391, R398, R426, R505): the cycle, registers by address and entry,
policers, and receive associations. -/
structure EthTie where
  at_ : Nat
  regs : List (Nat × Nat × Word)
  pols : Tab (Option Policer)
  sas : Tab (Option MacSa)
deriving DecidableEq, Repr

/-- The Ethernet ports: policers, rings and queues by number, sub-ports, the form of a port that has shed lanes (R383), the lanes that
hold lock, the time of the last telemetry sample, and the writes of the last cycle that had any. -/
structure EthUnit where
  pols : Tab Policer
  rx : Tab RxRing
  tx : Tab TxQueue
  subs : Tab EthSub
  shed : Tab Nat
  locks : Nat
  sampleAt : Nat
  tie : EthTie
deriving DecidableEq, Repr

/-- A requester session (R419 to R423): whether FINISH has completed it, the domain that it is bound to, and the time of its last message. -/
structure Session where
  open_ : Bool
  dom : Option Nat
  lastAt : Nat
deriving DecidableEq, Repr

/-- What the Meridian keeps of a sub-port (R465, R466): the last Announce's class of clock, UTC offset and data set, whose first number
identifies the master; the correction and receive time of a two-step Sync that awaits its Follow_Up; the last Sync's origin and receive time;
the time of the last Delay_Req; the mean path delay once one is measured; and when a QL was last received. Times are in 2^−16 ns. -/
structure PtpPort where
  best : List Nat
  sync : Option (Int × Int)
  lastPair : Option (Int × Int)
  reqAt : Option Int
  delay : Option Int
  qlAt : Nat
deriving DecidableEq, Repr

/-- The Meridian's hidden state (R461 to R471): consecutive measurements below LOCK_NS, the frequency estimate in units of RATE_ADJ, the
frequency source (0 to 31 SyncE, 32 the 10 MHz input, 33 the 25 MHz reference) and the QL last sent for it, the ports, the device time of
the last PPS edge captured, of the last rising edge of PPS OUT, whether PPS OUT is high, the device time of holdover entry and of the last
ESMC information PDUs, whether the 10 MHz input is present, and the counter before the last step. -/
structure MerUnit where
  good : Nat
  freq : Int
  freqSrc : Nat
  ql : Nat
  ports : Tab PtpPort
  ppsAt : Option Nat
  riseAt : Nat
  ppsOut : Bool
  holdAt : Nat
  esmcAt : Nat
  ref10 : Bool
  before : Option Nat
deriving DecidableEq, Repr

end Sys2Proof.Machine
end

