-- ==== Sys2Proof/Machine/TypesSxt.lean ====
section
/-! DEFINITION. Types of the Sextant's state (R501 to R527). -/

namespace Sys2Proof.Machine

/-- A maintenance command that is not complete (R521): its ring and command ID, opcode, unit, what it has removed, and its start. -/
structure MaintCmd where
  ring : Nat
  cid : Nat
  op : Nat
  kind : Nat
  idx : Nat
  removed : Bool
  startAt : Nat
deriving DecidableEq, Repr

/-- A domain's periodic snapshot of its counters (R526, R527). -/
structure Snap where
  off : Nat
  period : Nat
  seq : Nat
  lastAt : Nat
  stopped : Bool
deriving DecidableEq, Repr

/-- The Sextant's hidden state: when its cores last had work, the time of the last lockstep disagreement, the tokens of R519 that are held,
whether a FATAL trip waits for a device reset, whether a device reset is held, since when every sensor is below CRIT, maintenance
commands, snapshots, when a degraded log last wrote the flash, the JTAG instruction in force, when the sensors were last sampled, the
stacks at the doubled refresh rate (R602), the sensors sampled since their MIN and MAX were last read, when bus port 1 last read the
card's devices, and when the last health window ended. -/
structure SxtUnit where
  workAt : Nat
  disagreeAt : Option Nat
  tokens : List Nat
  fatal : Bool
  heldReset : Bool
  belowAt : Option Nat
  maint : List MaintCmd
  snaps : Tab Snap
  mirrorAt : Nat
  tap : Nat
  sampleAt : Nat
  fast : Nat
  seen : List Nat
  pollAt : Nat
  healthAt : Nat
deriving DecidableEq, Repr

end Sys2Proof.Machine
end

