-- ==== Sys2Proof/Machine/TypesPow.lean ====
section
/-! DEFINITION. Types of the Almanac's state (R477 to R499) and of power, clocks and sleep (R530 to R542, R591, R597 to R600). -/

namespace Sys2Proof.Machine

/-- A slot of the flash (R478): its firmware and configuration image, and for each whether it passed its last load checks and the key row that
signed it (R500). -/
structure FlashSlot where
  fw : Option Image
  cfg : Option Image
  ok : Bool
  fwRow : Nat
  cfgRow : Nat
deriving DecidableEq, Repr

/-- A unit of a live update (R498): its class and index, a core or engine of a firmware class by its number, and its sections in the target
and the current slot. -/
structure UpdUnit where
  cls : Nat
  idx : Nat
  sub : Nat
  new : Option ImgSection
  old : Option ImgSection
deriving DecidableEq, Repr

/-- A live update in progress (R497, R498): its target slot, whether it is a rollback, whether PLDM started it, the units still to do and
those done, latest first, and the runtime entries of the map when it was planned. -/
structure LiveUpdate where
  target : Nat
  back : Bool
  pldm : Bool
  todo : List UpdUnit
  done : List UpdUnit
  runs : List Nat
deriving DecidableEq, Repr

/-- A PLDM firmware update (R513): the images transferred so far and the time of the agent's last request. -/
structure PldmUpdate where
  images : List Image
  lastAt : Nat
deriving DecidableEq, Repr

/-- The Almanac: whether the part has been fitted; the fuses' floor rows, key rows (digest and revoked) and tile repair records; the flash's two
boot headers, which of them is in use, its slots and wrapped keys (key and owner digest by domain); the header in use, the slot that
booted, the slot of a previous fallback, the live update and the PLDM update. -/
structure AlmUnit where
  fitted : Bool
  flashOk : Bool
  fwFloors : List Nat
  cfgFloors : List Nat
  wenov : List (Nat × Bool)
  owners : List (Nat × Bool)
  tiles : Tab Nat
  hdrA : Option BootHdr
  hdrB : Option BootHdr
  useB : Bool
  hdr : BootHdr
  slots : Tab FlashSlot
  wrapped : Tab (Nat × Nat)
  booted : Option Nat
  fallback : Option Nat
  upd : Option LiveUpdate
  pldm : Option PldmUpdate
deriving DecidableEq, Repr

/-- How far the device has come up: without power; out of power-on reset with a boot due; with enable 0, 1 or 2 raised and its sample due;
with every rail up and its sections powered; RUNNING; in recovery; or with its service ended, waiting for a device reset. -/
inductive Life where
  | off
  | boot
  | rail (k : Nat)
  | powered
  | running
  | recovery
  | ended
deriving DecidableEq, Repr

/-- A unit that can sleep (R540): its state, when it entered the state, and whether a wake is latched. -/
structure SleepUnit where
  st : Nat
  since : Nat
  latched : Bool
deriving DecidableEq, Repr

/-- Power: how far the device has come up, t0, the enables that are high and when the last one rose, whether FATAL# is driven low, the units
that can sleep by PMC_UNIT_SEL, since when D has been 0 with crit_active 1, the times of the last sample and refill, the clock
inputs that are lost, whether the registers of the always-on domain have taken an image's values since power-on (R14), the wake groups of
the array that have power, with the time at which each is ready (R101), and PMC_LIMIT before the writes since the last sample, where there was
one (R538). -/
structure PowUnit where
  life : Life
  t0 : Nat
  enables : Nat
  railAt : Nat
  fatalPin : Bool
  sleeps : Tab SleepUnit
  zeroAt : Option Nat
  sampleAt : Nat
  refillAt : Nat
  lost : List Nat
  aonLoaded : Bool
  groups : Tab Nat
  limitWas : Option Word
deriving DecidableEq, Repr

end Sys2Proof.Machine
end

