-- ==== Sys2Proof/Machine/State.lean ====
section
/-! DEFINITION. The state of the block, the reasons a command can stop, and the state right after reset. -/

namespace Sys2Proof.Machine

/-- The faults of the model. The block answers every command with a next state, so no meaning raises one. -/
inductive Fault where
  /-- Raised by no meaning, there so that the type has a name to show; safe. -/
  | unused
deriving DecidableEq, Repr

/-- The refusals of the model. -/
inductive Refusal where
  /-- A command that has no meaning yet, raised by `exec`; safe. -/
  | notModelled (mnemonic : String)
deriving DecidableEq, Repr

/-- The state of the block: plain data. -/
structure State where
  pending : List Instr
  now : Nat
  tai : Nat
  freeCtr : Nat
  regs : Tab Word
  cfg : Tab Word
  mem : List Host.Cell
  poison : List Nat
  latent : List (Nat × Bool)
  rewrites : List Nat
  wrote : List Nat
  extents : Tab Extent
  outs : List Out
  readData : Word
  insts : Tab Inst
  rings : Tab Ring
  charts : Tab Chart
  runs : Tab Run
  ctxWait : List CtxWaiter
  arr : ArrUnit
  vec : VecUnit
  log : LogUnit
  merges : List FaultMerge
  noticeRings : Tab Nat
  mapFuse : Tab Nat
  mapAlm : Tab Nat
  mapRun : Tab Nat
  helm : HelmUnit
  cells : Tab Cell
  rad : RadUnit
  dma : Tab DmaJob
  dmaNext : Nat
  quar : List Quarantine
  ats : List (Nat × Nat)
  evcs : Tab Evc
  fab : FabUnit
  rhumb : Tab RhumbPort
  scrub : ScrubUnit
  hcounts : Tab Nat
  mbx : Option MbxWait
  computeCause : Option Nat
  eth : EthUnit
  sas : Tab MacSa
  sessions : Tab Session
  hbmKeys : Tab Nat
  hbmUnder : Tab Nat
  mer : MerUnit
  sxt : SxtUnit
  alm : AlmUnit
  pow : PowUnit
deriving DecidableEq, Repr

/-- Tags and a virtual time that nothing has advanced (R186). -/
def VTag.reset : VTag := ⟨0, 0, 1, false⟩
def VTime.reset : VTime := ⟨0, [], VTag.reset⟩

/-- The Helm with nothing dispatched, no calendar and no charge (R186, R191, R197). -/
def HelmUnit.reset : HelmUnit :=
  ⟨VTime.reset, VTime.reset, [], [], none, false, none, [], [], [], [], false, false, false, 0, 0, [], [], none, none⟩

/-- The fabric with empty tables (R352). -/
def FabUnit.reset : FabUnit :=
  ⟨[], [], [0, 0, 0, 0], [0, 0, 0, 0], [], [], [], [], 0, [], [], [], [], [], [], [], [], []⟩

/-- A part whose fuses and flash nothing has read: no row, no header and no image (log entry 3). -/
def AlmUnit.reset : AlmUnit :=
  ⟨false, false, [], [], [], [], [], none, none, false, ⟨0, 0, 7, 7, 3, false, false, false, 0, 1⟩, [], [], none, none, none, none⟩

/-- The state right after power-on reset (R14, R597): registers at the reset values of the tables, no instance, no chart. -/
def State.reset : State where
  pending := []
  now := 0
  tai := 0
  freeCtr := 0
  regs := []
  cfg := []
  mem := []
  poison := []
  latent := []
  rewrites := []
  wrote := []
  extents := []
  outs := []
  readData := 0
  insts := []
  rings := []
  charts := []
  runs := []
  ctxWait := []
  arr := ⟨[], [], 0, 0, 0, none⟩
  vec := ⟨none, [], []⟩
  log := ⟨[], [], 0, false, [], false, none⟩
  merges := []
  noticeRings := []
  mapFuse := []
  mapAlm := []
  mapRun := []
  helm := HelmUnit.reset
  cells := []
  rad := ⟨[], [], []⟩
  dma := []
  dmaNext := 0
  quar := []
  ats := []
  evcs := []
  fab := FabUnit.reset
  rhumb := []
  scrub := ⟨0, [], []⟩
  hcounts := []
  mbx := none
  computeCause := none
  eth := ⟨[], [], [], [], [], 0, 0, ⟨0, [], [], []⟩⟩
  sas := []
  sessions := []
  hbmKeys := []
  hbmUnder := []
  mer := ⟨0, 0, 33, 0, [], none, 0, false, 0, 0, true, none⟩
  sxt := ⟨0, none, [], false, false, none, [], [], 0, 0, 0, 0, [], 0, 0⟩
  alm := AlmUnit.reset
  pow := ⟨.off, 0, 0, 0, false, [], none, 0, 0, [], false, [], none⟩

end Sys2Proof.Machine
end

