-- ==== Sys2Proof/Machine/Ops.lean ====
section
/-! DEFINITION. The operations that the meanings share: time, registers, memory, the event log, fault records,
completions and notices. -/

namespace Sys2Proof.Machine

/-! ### Time -/

/-- One nanosecond, in the model's unit of time: a sixth of a nanosecond, which one array, radio-engine, Helm or timing
cycle is a whole number of (log entry 5). -/
def nsec : Nat := 6

/-- One array cycle (1.50 GHz) in sixths of a nanosecond. -/
def arrCyc : Nat := 4

/-- One microsecond and one millisecond, in sixths of a nanosecond. -/
def usec : Nat := 6000
def msec : Nat := 6000000

/-- One second of the counter, in 2^−32 ns (R459, R460). -/
def taiSec : Nat := 1000000000 * 2 ^ 32

/-- A register's key in the register file: its address, and the entry that its selection register names. -/
def regKey (a idx : Nat) : Nat := 2 ^ 40 * idx + a

/-- The registers of the always-on domain: GLB_, SXT_ and ALM_ (R573). -/
def isAon (a : Nat) : Bool := decide (a < 0x200000)

/-- A register's value before anything has changed it: the configuration image's value once one is loaded, otherwise the
reset value of the tables (R14, log entry 3). An always-on register takes a value of the first image since power-on and of no later one
(log entry 63). -/
def State.resetWord (s : State) (a idx : Nat) : Word :=
  match (if isAon a && s.pow.aonLoaded then none else Tab.get? s.cfg (regKey a idx)) with
  | some v => v
  | none => BitVec.ofNat 64 (Tab.getD resetTable a 0)

/-- The value that a register holds. -/
def State.reg (s : State) (a : Nat) (idx : Nat := 0) : Word :=
  match Tab.get? s.regs (regKey a idx) with
  | some v => v
  | none => s.resetWord a idx

/-- The state with a register set. -/
def State.setReg (s : State) (a idx : Nat) (v : Word) : State :=
  { s with regs := Tab.set s.regs (regKey a idx) v }

/-- The number that a register field holds. -/
def State.fld (s : State) (f : Fld) (idx : Nat := 0) : Nat := f.get (s.reg f.reg idx)

/-- A one-bit register field is 1. -/
def State.flag (s : State) (f : Fld) (idx : Nat := 0) : Bool := s.fld f idx == 1

/-- The state with a register field set, cut to the field's width. -/
def State.setFld (s : State) (f : Fld) (n : Nat) (idx : Nat := 0) : State :=
  s.setReg f.reg idx (f.put (s.reg f.reg idx) n)

/-- The state with a register field advanced by `d`, wrapping at its width. -/
def State.addFld (s : State) (f : Fld) (d : Nat) (idx : Nat := 0) : State :=
  s.setFld f (s.fld f idx + d) idx

/-- The state with a register field advanced by `d`, staying at its largest value. -/
def State.satFld (s : State) (f : Fld) (d : Nat) (idx : Nat := 0) : State :=
  s.setFld f (satAdd (s.fld f idx) d f.w) idx

/-- The state with a status bit set. -/
def State.raise (s : State) (f : Fld) (idx : Nat := 0) : State := s.setFld f 1 idx

/-- The state without the register-file entries whose address the test names: those registers read their reset values. -/
def State.dropRegs (s : State) (p : Nat → Bool) : State :=
  { s with regs := s.regs.filter fun e => !p (e.1 % 2 ^ 40) }

/-- RATE_ADJ as a signed number (R460). -/
def State.rateAdj (s : State) : Int := signed (s.fld F.MER_SERVO_RATE_ADJ) 32

/-- The counter's advance over `n` timing cycles, in 2^−32 ns (R460). -/
def State.taiAdvance (s : State) (n : Nat) : Nat := ((n : Int) * (2 ^ 32 + s.rateAdj)).toNat

/-- The state at device time `t`, or unchanged if that time has passed: the counter has advanced with the timing clock
(R460). -/
def State.advanceTo (s : State) (t : Nat) : State :=
  { s with
    now := max s.now t
    tai := if t ≤ s.now then s.tai else (s.tai + s.taiAdvance (t / nsec - s.now / nsec)) % (2 ^ 48 * taiSec) }

/-- The state `d` sixths of a nanosecond later. -/
def State.wait (s : State) (d : Nat) : State := s.advanceTo (s.now + d)

/-- The counter's fields (R459). -/
def State.sec (s : State) : Nat := s.tai / taiSec
def State.ns (s : State) : Nat := s.tai % taiSec / 2 ^ 32
def State.subns (s : State) : Nat := s.tai % 2 ^ 32 / 2 ^ 16

/-- A 32-bit timestamp (R472). -/
def State.ts32 (s : State) : Nat := wrap (s.sec * 1000000000 + s.ns) 32

/-- The counter as a sub-port stamps a frame on receive and on transmit, in 2^−16 ns (R468). -/
def State.rxStamp (s : State) (sp : Nat) : Int := (s.tai / 65536 : Nat) - (s.fld F.MER_PORT_DELAY_RX_DELAY sp : Int)
def State.txStamp (s : State) (sp : Nat) : Nat := s.tai / 65536 + s.fld F.MER_PORT_DELAY_TX_DELAY sp

/-- A stamp as a 32-bit timestamp (R472). -/
def stamp32 (t : Int) : Nat := wrapInt (Int.fdiv t 65536) 32

/-- TIME_VALID of R462. -/
def State.timeValid (s : State) : Bool := s.flag F.MER_STATUS_TIME_VALID

/-- A reference clock input shows no edge (R591): 1 an Ethernet pair's, 2 a Rhumb pair's, 3 a PCIe link's. -/
def State.clockLost (s : State) (kind idx : Nat) : Bool := s.pow.lost.contains (kind * 16 + idx)

/-! ### Open values -/

/-- A fresh open value below 2^bits, and the state that has used it (log entry 2). -/
def State.fresh (s : State) (bits : Nat) : Nat × State :=
  (Config.freeValue s.freeCtr % 2 ^ bits, { s with freeCtr := s.freeCtr + 1 })

/-- Fresh open bytes, and the state that has used them (log entry 2). -/
def State.freshBytes (s : State) (n : Nat) : List Byte × State :=
  ((rangeFrom 0 n).map (Config.freeByte s.freeCtr), { s with freeCtr := s.freeCtr + 1 })

/-! ### Memory -/

/-- The address spaces of the device's memories. -/
inductive Space where
  | hbm | scratch | staging | radio | capture
deriving DecidableEq, Repr

/-- A space's place in the memory list's keys. -/
def Space.code : Space → Nat
  | .hbm => 0
  | .scratch => 1
  | .staging => 2
  | .radio => 3
  | .capture => 4

/-- The key of a byte: its space, its domain and its offset there (R289, R301). -/
def memKey (spc : Space) (dom off : Nat) : Nat := 2 ^ 64 * (128 * spc.code + dom % 128) + off % 2 ^ 64

/-- What a byte that nothing has written reads as (R303; for HBM log entry 6). -/
def Memory.unlisted : Byte := 0

/-- The byte at a key. -/
def Memory.read (m : List Host.Cell) (k : Nat) : Byte := Tab.getD m k Memory.unlisted

/-- The memory with one byte written, in canonical form. -/
def Memory.write (m : List Host.Cell) (k : Nat) (b : Byte) : List Host.Cell :=
  if b = Memory.unlisted then Tab.del m k else Tab.set m k b

/-- The keys rise and no entry holds the value of an unlisted byte. -/
def Memory.wf : List Host.Cell → Bool
  | [] => true
  | [(_, b)] => b != Memory.unlisted
  | (k, b) :: (k', b') :: t => b != Memory.unlisted && decide (k < k') && Memory.wf ((k', b') :: t)

/-- The memory with bytes written from a key on. -/
def Memory.writeBytes (m : List Host.Cell) (k : Nat) : List Byte → List Host.Cell
  | [] => m
  | b :: t => Memory.writeBytes (Memory.write m k b) (k + 1) t

/-- The memory without the keys of a test. -/
def Memory.drop (m : List Host.Cell) (p : Nat → Bool) : List Host.Cell := m.filter fun c => !p c.1

/-- The byte of a domain's space at an offset. -/
def State.byte (s : State) (spc : Space) (dom off : Nat) : Byte := Memory.read s.mem (memKey spc dom off)

/-- Bytes of a domain's space. -/
def State.bytes (s : State) (spc : Space) (dom off n : Nat) : List Byte :=
  (rangeFrom off n).map (s.byte spc dom)

/-- A chart that is loaded and whose copy a write of its domain's HBM meets: its runs have no defined value (R107). -/
def Chart.touched (c : Chart) (dom off n : Nat) : Chart :=
  if c.st ≠ .loading ∧ c.dom = dom ∧ off < c.hbmOff + c.size ∧ c.hbmOff < off + n then { c with written := true } else c

/-- A domain's extents: how many, by any state (R290). -/
def State.nExt (s : State) (d : Nat) : Nat := s.extents.countP fun p => p.2.owner == d

/-- The blocks of an extent and of a stack. -/
def extBlocks : Nat := 2 ^ 24
def stackBlocks : Nat := 96 * extBlocks

/-- The domain and domain offset of a physical block, where a domain owns its extent (R290). -/
def State.blockOwner (s : State) (b : Nat) : Option (Nat × Nat) :=
  match Tab.get? s.extents (b / extBlocks) with
  | none => none
  | some e =>
    if e.owner < 128 then
      some (e.owner, ((b % extBlocks / 1024) * s.nExt e.owner + e.idx) * 65536 + b % 1024 * 64)
    else none

/-- A physical block lies wholly in a range of a domain's space, and meets it. -/
def State.blockWithin (s : State) (d off n b : Nat) : Bool :=
  (s.blockOwner b).any fun p => p.1 == d && decide (off ≤ p.2) && decide (p.2 + 64 ≤ off + n)
def State.blockMeets (s : State) (d off n b : Nat) : Bool :=
  (s.blockOwner b).any fun p => p.1 == d && decide (off < p.2 + 64) && decide (p.2 < off + n)

/-- The 64-byte blocks of a range, by number. -/
def blocksOf (k n : Nat) : List Nat := rangeFrom (k / 64) ((k + n + 63) / 64 - k / 64)

/-- The state with bytes written into a domain's space. A correcting rewrite of a block that the write touches is cancelled (R299). In HBM a block
written in full is no longer poisoned and has no error left (R297), the blocks are noted as written under the domain's key (R296), and a loaded
chart's copy as written (R107). -/
def State.store (s : State) (spc : Space) (dom off : Nat) (data : List Byte) : State :=
  let k := memKey spc dom off
  let s' := { s with
    mem := Memory.writeBytes s.mem k data
    rewrites := s.rewrites.filter fun b => decide (64 * b + 64 ≤ k) || decide (k + data.length ≤ 64 * b) }
  if spc = .hbm then
    { s' with
      charts := s.charts.map fun p => (p.1, p.2.touched dom off data.length)
      poison := s.poison.filter fun b => !s.blockWithin dom off data.length b
      latent := s.latent.filter fun e => !s.blockWithin dom off data.length e.1
      wrote := ((blocksOf k data.length).filter fun b => !s.wrote.contains b) ++ s.wrote }
  else s'

/-- A little-endian number in a domain's space (R16). -/
def State.le (s : State) (spc : Space) (dom off n : Nat) : Nat := leNat (s.bytes spc dom off n)

/-! ### Outputs -/

/-- The state with a message sent. -/
def State.send (s : State) (o : Out) : State := { s with outs := o :: s.outs }

/-! ### Event counters (R435, R436, R523) -/

/-- A counter programmed at a time: it stands at 0 and counts from the cycle after (R523). -/
def Evc.start (src : Nat) (dom : Option Nat) (now : Nat) : Evc := ⟨src, dom, 0, 0, now, now⟩

/-- A counter takes n events of a source tagged with a domain, or with none. -/
def Evc.take (e : Evc) (now : Nat) (frozen : Bool) (src : Nat) (dom : Option Nat) (n : Nat) : Evc :=
  if e.src = src ∧ e.dom = dom ∧ (dom.isSome ∨ frozen = false) ∧ e.prog < now then
    { e with value := (e.value + n) % 2 ^ 64, was := if e.last = now then e.was else e.value, last := now }
  else e

/-- What a read of a counter returns: its value without the events of the read's own cycle (R523). -/
def Evc.read (e : Evc) (now : Nat) : Nat := if e.last = now then e.was else e.value

/-- The state with n events of a source counted: for a domain a class D source, for none any other (R436). -/
def State.count (s : State) (src : Nat) (dom : Option Nat) (n : Nat) : State :=
  { s with evcs := s.evcs.map fun p => (p.1, p.2.take s.now (s.flag F.EVC_CTRL_FREEZE) src dom n) }

/-- A frame sent by a sub-port at a level of R399 (R408, R524). -/
def State.frameSent (s : State) (sp level bytes : Nat) : State :=
  let s := s.addFld F.ETH_SUB_FRAMES_TX_FRAMES 1 sp
  let s := (s.count (0xA02 + 16 * sp) none 1).count (0xA03 + 16 * sp) none (ceilDiv bytes 64)
  s.count (0xA03 + 16 * sp + level) none 1

/-- The sub-port on which traffic number q of a sub-port leaves (R383): itself, or one of the live sub-ports formed from it by shedding;
none while nothing carries it. -/
def State.egressPort (s : State) (sp q : Nat) : Option Nat :=
  let p := sp / 4 * 4
  let live := (rangeFrom p 4).filter fun k =>
    s.flag F.ETH_SUB_STATUS_UP k && s.flag F.ETH_SUB_STATUS_SHED_ALIAS k && s.fld F.ETH_SUB_STATUS_ALIAS_OF k == sp
  if live.isEmpty then (if s.flag F.ETH_SUB_STATUS_UP sp && !s.flag F.ETH_SUB_STATUS_SHED_ALIAS sp then some sp else none)
  else some (live.getD (q % live.length) sp)

/-- The indices at which a windowed register holds a value of its own, from the image or a write. -/
def State.indices (s : State) (a : Nat) : List Nat :=
  (((s.cfg ++ s.regs).filter fun e => e.1 % 2 ^ 40 == a).map fun e => e.1 / 2 ^ 40).eraseDups

/-- A class D count of array or vector work, with its kind in the family of R524. -/
def State.countWork (s : State) (dom cls kind n : Nat) : State := s.count (kind + if cls = 1 then 16 else 0) (some dom) n

/-- The Sextant's own copies of the counters that health scoring weighs, by part and input (R562). -/
def State.health (s : State) (part input n : Nat) : State :=
  { s with hcounts := Tab.set s.hcounts (part * 8 + input) (Tab.getD s.hcounts (part * 8 + input) 0 + n) }

/-! ### The event log (R507, R508) -/

/-- The entries held in the SRAM ring (R508). -/
def logRing : Nat := 32768

/-- The log with an entry appended: to the SRAM ring, whose oldest entry makes room, or to the degraded log's register ring,
where a new entry replaces the oldest unappended entry of the lowest severity present (R508, R510). -/
def LogUnit.append (l : LogUnit) (e : LogEntry) : LogUnit × Bool :=
  if l.degraded then
    if l.flashDead then
      ({ l with regRing := (l.regRing ++ [(e, false)]).drop ((l.regRing.length + 1) - 256) }, false)
    else if l.regRing.length < 256 then ({ l with regRing := l.regRing ++ [(e, false)] }, false)
    else if l.regRing.any (·.2) then
      let old := l.regRing.find? (·.2)
      ({ l with regRing := (match old with | some o => l.regRing.erase o | none => l.regRing) ++ [(e, false)] }, false)
    else
      match minBy (fun x : LogEntry × Bool => [x.1.sev, x.1.seq]) l.regRing with
      | none => (l, true)
      | some o =>
        if e.sev < o.1.sev then (l, true)
        else ({ l with regRing := l.regRing.erase o ++ [(e, false)] }, true)
  else
    ({ l with
        sram := (l.sram ++ [e]).drop ((l.sram.length + 1) - logRing)
        waiting := l.waiting + 1 }, false)

/-- The log entry that the device makes now (R507). -/
def State.mkEntry (s : State) (cause sev : Nat) (fault : Bool) (body : List Byte) : LogEntry where
  seq := s.fld F.SXT_LOG_HEAD_NEXT_SEQ
  sec := s.sec
  ns := s.ns
  timeValid := s.timeValid
  fault := fault
  sev := sev
  uptimeMs := wrap (s.now / msec) 32
  cause := cause
  body := body
  madeAt := s.now

/-- The state with a log entry made: SEQ advances, a degraded log counts a drop, and an entry of at least UART_MIN_SEV is sent on the
UART (R508, R510, R518). -/
def State.logEvent (s : State) (cause sev : Nat) (body : List Byte) (fault : Bool := false) : State :=
  let e := s.mkEntry cause sev fault body
  let r := s.log.append e
  let s := { s with log := r.1 }.count 0xF87 none 1
  let s := s.addFld F.SXT_LOG_HEAD_NEXT_SEQ 1
  let s := if r.2 then (s.satFld F.SXT_STATUS_LOG_DROPPED 1).count 0xF88 none 1 else s
  if sev ≥ s.fld F.SXT_LOG_CTRL_UART_MIN_SEV then (s.send (.uart e.seq)).count 0xF98 none 1 else s

/-- The state with a log entry made whose cause code and severity the manual does not give: both are open (log entry 20). -/
def State.logOpen (s : State) (body : List Byte) : State :=
  let f := s.fresh 18
  f.2.logEvent (f.1 % 65536) (f.1 / 65536 % 4) body

/-! ### Completions (R364 to R371) -/

/-- The key of a ring's registers: its instance and local number. -/
def Ring.key (r : Ring) : Nat := r.inst * 64 + r.loc

/-- Ring states of RING_STATUS (R363). -/
def ringDisabled : Nat := 0
def ringEnabled : Nat := 1
def ringQuiescing : Nat := 2
def ringError : Nat := 3

/-- A ring's state. -/
def State.ringState (s : State) (r : Ring) : Nat := s.fld F.RING_STATUS_STATE r.key

/-- The link and the PASID of an instance. -/
def State.route (s : State) (inst : Nat) : Nat × Nat :=
  match Tab.get? s.insts inst with
  | some i => (i.link, i.pasid)
  | none => (0, 0)

/-- An entry with its PHASE and SQ_HEAD as they stand when it is written (R365). -/
def patchEntry (e : List Byte) (phase sqHead : Nat) : List Byte :=
  e.take 1 ++ [BitVec.ofNat 8 ((e.getD 1 0).toNat / 2 * 2 + phase)] ++ slice e 2 2 ++ toLe 2 sqHead ++ e.drop 6

/-- The completion queue of a ring has room for an entry (R366). -/
def State.cqRoom (s : State) (r : Ring) : Bool :=
  let n := 2 ^ s.fld F.RING_CFG_CQ_LOG2 r.key
  (s.fld F.RING_STATUS_CQ_TAIL r.key + 1) % n != r.cqHead % n

/-- An MSI-X message sent on a link (R371, R524). -/
def State.sendMsix (s : State) (link vector : Nat) : State := (s.send (.msix link vector)).count (0xE8E + 16 * link) none 1

/-- The state with an entry written at CQ_TAIL, its PHASE set, and the interrupt rules applied (R365, R370, R371). -/
def State.writeEntry (s : State) (g : Nat) (e : List Byte) (noIrq : Bool) : State :=
  match Tab.get? s.rings g with
  | none => s
  | some r =>
    let k := r.key
    let n := 2 ^ s.fld F.RING_CFG_CQ_LOG2 k
    let t := s.fld F.RING_STATUS_CQ_TAIL k
    let ph := s.fld F.RING_STATUS_PHASE k
    let rt := s.route r.inst
    let s := match Tab.get? s.insts r.inst with
      | some i => if i.oper then s else s.count 0x17B (some i.dom) 1
      | none => s
    let base := s.fld F.RING_CQ_BASE_ADDR k * 4096
    let s := s.send (.hostWrite rt.1 rt.2 (base + 64 * t) (patchEntry e ph (s.fld F.RING_STATUS_SQ_HEAD k)))
    let t' := (t + 1) % n
    let s := s.setFld F.RING_STATUS_CQ_TAIL t' k
    let s := if t' = 0 then s.setFld F.RING_STATUS_PHASE (1 - ph) k else s
    if noIrq then s
    else
      let cnt := r.uncounted + 1
      let r := { r with firstAt := if r.uncounted = 0 then s.now else r.firstAt }
      if s.flag F.RING_IRQ_IRQ_EN k && decide (cnt ≥ max 1 (s.fld F.RING_IRQ_COAL_COUNT k)) then
        { s with rings := Tab.set s.rings g { r with uncounted := 0 } }.sendMsix rt.1 r.vector
      else { s with rings := Tab.set s.rings g { r with uncounted := cnt } }

/-- The state with an entry posted, or held in order with CQ_WAIT set while the completion queue is full (R370). -/
def State.postEntry (s : State) (g : Nat) (e : List Byte) (noIrq : Bool) : State :=
  match Tab.get? s.rings g with
  | none => s
  | some r =>
    if r.held.isEmpty && s.cqRoom r then s.writeEntry g e noIrq
    else { s with rings := Tab.set s.rings g { r with held := r.held ++ [(e, noIrq)] } }.setFld F.RING_STATUS_CQ_WAIT 1 r.key

/-- A completion entry: the header of R365 over a payload of 48 bytes. -/
def mkCompletion (opcode flags cid user : Nat) (payload : List Byte) : List Byte :=
  toLe 1 opcode ++ toLe 1 flags ++ toLe 2 cid ++ toLe 2 0 ++ toLe 2 0 ++ toLe 8 user ++ (payload ++ List.replicate 48 0).take 48

/-- The state after a ring's last fetched command has posted: a QUIESCING ring becomes DISABLED (R363). -/
def State.quiesceDone (s : State) (g : Nat) : State :=
  match Tab.get? s.rings g with
  | none => s
  | some r =>
    if s.ringState r = ringQuiescing ∧ r.fetched = [] ∧ r.held = [] then
      s.setFld F.RING_STATUS_STATE ringDisabled r.key
    else s

/-- A fetched command of a ring, the earlier fetched of two with one ID (R367). -/
def State.fetched? (s : State) (g cid : Nat) : Option Fetched :=
  match Tab.get? s.rings g with
  | none => none
  | some r => r.fetched.find? (·.cid == cid)

/-- The state with a fetched command completed: its entry posted and the command no longer in flight (R365, R370). -/
def State.complete (s : State) (g cid : Nat) (payload : List Byte) : State :=
  match Tab.get? s.rings g with
  | none => s
  | some r =>
    match r.fetched.find? (·.cid == cid) with
    | none => s
    | some f =>
      let s := { s with rings := Tab.set s.rings g { r with fetched := r.fetched.erase f } }
      let s := s.postEntry g (mkCompletion f.opcode 0 f.cid f.user payload) (bit f.flags 1)
      s.quiesceDone g

/-- The state with a command completed by a status alone, in byte 16 (R365). -/
def State.completeStatus (s : State) (g cid status : Nat) : State := s.complete g cid (toLe 1 status)

/-- The state with one more entry of a command that stays in flight (R135). -/
def State.postExtra (s : State) (g cid : Nat) (payload : List Byte) : State :=
  match s.fetched? g cid with
  | none => s
  | some f => s.postEntry g (mkCompletion f.opcode 0 f.cid f.user payload) (bit f.flags 1)

/-- An instance is RESETTING or being destroyed: the states of INST_STATUS that take no work (R360, R370). -/
def State.instQuiet (s : State) (inst : Nat) : Bool := s.fld F.INST_STATUS_STATE inst != 1

/-- The state with an unsolicited entry posted on a ring that is ENABLED, and otherwise dropped and counted; the answer says
which (R365, R370). -/
def State.postUnsolicited (s : State) (g opcode : Nat) (payload : List Byte) : State × Bool :=
  match Tab.get? s.rings g with
  | none => (s, false)
  | some r =>
    if s.ringState r = ringEnabled ∧ s.instQuiet r.inst = false then
      (s.postEntry g (mkCompletion opcode 2 0 0 payload) false, true)
    else (s.satFld F.INST_STATUS_EVENTS_DROPPED 1 r.inst, false)

/-- Completion entries held for space are written while there is room; CQ_WAIT falls when none is left (R370). -/
def State.drainHeld (s : State) (g : Nat) : Nat → State
  | 0 => s
  | n + 1 =>
    match Tab.get? s.rings g with
    | none => s
    | some r =>
      match r.held with
      | [] => (s.setFld F.RING_STATUS_CQ_WAIT 0 r.key).quiesceDone g
      | (e, q) :: t =>
        if s.cqRoom r then
          ({ s with rings := Tab.set s.rings g { r with held := t } }.writeEntry g e q).drainHeld g n
        else s

/-! ### Notices and generations (R430, R433) -/

/-- The state with a notice posted to a domain that has a notice ring (R430). -/
def State.notice (s : State) (dom cause chan an : Nat) : State :=
  match Tab.get? s.noticeRings dom with
  | none => s
  | some g =>
    (s.postUnsolicited g 0x58
      (toLe 1 0 ++ toLe 1 cause ++ toLe 2 chan ++ toLe 1 an ++ toLe 3 0 ++ toLe 4 (s.fld F.ISO_DOM_GEN_CONFIG_GEN dom))).1

/-- The state after a change to a domain's record: CONFIG_GEN advances (R433). -/
def State.configChanged (s : State) (dom : Nat) : State := s.addFld F.ISO_DOM_GEN_CONFIG_GEN 1 dom

/-- The domains. -/
def allDomains : List Nat := rangeFrom 0 128

/-- The state after a change to measurement index 7 or 8: ISO_MEAS_GEN and the CONFIG_GEN of every domain advance, and CONFIG_CHANGED is
posted to each domain that has a notice ring (R433). -/
def State.measChanged (s : State) : State :=
  let s := s.addFld F.ISO_MEAS_GEN_DEVICE_GEN 1
  let s := allDomains.foldl (fun s d => s.configChanged d) s
  allDomains.foldl (fun s d => s.notice d 3 0 0) s

/-! ### Fault records (R544 to R548) -/

/-- A record of a cause and an action with nothing else named. -/
def FaultRec.of (cause action : Nat) : FaultRec :=
  ⟨cause, action, none, none, none, none, none, none, false, 0, 0, 0, 0⟩

/-- The bytes of a fault record (R544, R545). -/
def FaultRec.bytes (r : FaultRec) (rep : Nat) : List Byte :=
  toLe 2 r.cause ++
  toLe 1 (b2n r.dom.isSome + 2 * b2n r.inst.isSome + 4 * b2n r.ring.isSome + 8 * b2n r.cmd.isSome + 16 * b2n r.chart.isSome
    + 32 * b2n r.cell.isSome + 64 * b2n r.cont) ++
  toLe 1 r.action ++ toLe 1 (r.dom.getD 0) ++ toLe 1 0 ++ toLe 2 (r.inst.getD 0) ++ toLe 2 (r.ring.getD 0) ++
  toLe 2 (r.cmd.getD 0) ++ toLe 2 (r.chart.getD 0) ++ toLe 2 r.index ++ toLe 1 r.ucls ++ toLe 1 0 ++ toLe 2 r.uidx ++
  toLe 2 (r.cell.getD 0) ++ toLe 2 (min rep 65535) ++ toLe 8 r.detail

/-- A ring belongs to a domain and is ENABLED. -/
def State.ringServes (s : State) (g dom : Nat) : Bool :=
  match Tab.get? s.rings g with
  | none => false
  | some r =>
    s.ringState r == ringEnabled &&
      (match Tab.get? s.insts r.inst with
       | some i => i.dom == dom && !i.oper
       | none => false)

/-- A domain's copy of a record, posted on its own ring, else on the notice ring, else counted in UNDELIVERED (R548). -/
def State.deliverFault (s : State) (d : Nat) (r : FaultRec) (rep : Nat) : State :=
  let pay := toLe 1 0 ++ toLe 7 0 ++ r.bytes rep
  let own := match r.ring with
    | some g => if s.ringServes g d then some g else Tab.get? s.noticeRings d
    | none => Tab.get? s.noticeRings d
  match own with
  | none => s.addFld F.SXT_FAULT_COUNT_UNDELIVERED 1
  | some g =>
    let p := s.postUnsolicited g 0x59 pay
    if p.2 then p.1 else p.1.addFld F.SXT_FAULT_COUNT_UNDELIVERED 1

/-- A domain's copies with one DOMAIN, CAUSE, UNIT_CLASS and UNIT_INDEX are delivered at most once in 1 ms; those between are added to
REPEAT of the next (R548). -/
def State.domainFault (s : State) (d : Nat) (r : FaultRec) : State :=
  let same := fun m : FaultMerge => m.dom == d && m.cause == r.cause && m.ucls == r.ucls && m.uidx == r.uidx
  match s.merges.find? same with
  | none => { s with merges := ⟨d, r.cause, r.ucls, r.uidx, s.now, 0⟩ :: s.merges }.deliverFault d r 0
  | some m =>
    if s.now < m.lastAt + msec then
      { s with merges := s.merges.map fun x => if same x then { x with repeats := x.repeats + 1 } else x }
    else
      { s with merges := s.merges.map fun x => if same x then { x with lastAt := s.now, repeats := 0 } else x }.deliverFault d r m.repeats

/-- The state with a fault record issued: a log entry for the operator, and the copy of the domain that it names (R548). -/
def State.faultRecord (s : State) (r : FaultRec) : State :=
  let s := s.logEvent r.cause (if r.action = 5 then 2 else 1) (r.bytes 0) true
  let s := s.addFld F.SXT_FAULT_COUNT_RECORDS 1
  match r.dom with
  | none => s
  | some d => s.domainFault d r

end Sys2Proof.Machine
end

