-- ==== Sys2Proof/Machine/Hbm.lean ====
section
/-! DEFINITION. The domains' memories: HBM extents, key slots and access checks (R289 to R297), SRAM partitions and residency
(R301 to R303), and the bandwidth commitments (R306 to R309). -/

namespace Sys2Proof.Machine

/-- A domain's HBM space in bytes (R290). -/
def State.hbmSize (s : State) (d : Nat) : Nat := 2 ^ 30 * s.nExt d

/-- A domain's key slot is ACTIVE (R295). -/
def State.keyActive (s : State) (d : Nat) : Bool :=
  bit (if d < 64 then s.reg 0x8000070 else s.reg 0x8000078).toNat (d % 64)

/-- The extent of a domain that a byte offset lies in (R290). -/
def extentOf (n off : Nat) : Nat := (off / 65536) % n

/-- A domain's extent is LOST (R312). -/
def State.extLost (s : State) (d j : Nat) : Bool :=
  s.extents.any fun p => p.2.owner == d && p.2.idx == j && p.2.lost

/-- The causes of R547 that end a memory access. -/
def causePageBounds : Nat := 0x0101
def causeKeyEmpty : Nat := 0x0102
def causeMemUe : Nat := 0x0103
def causeMemLost : Nat := 0x0104

/-- The cause that ends an access of a domain to its HBM space, in the order of R295: beyond the space, an EMPTY key slot, an extent left
LOST, and, for a read, a poisoned block (R291, R295, R297, R312). -/
def State.hbmFault (s : State) (d off n : Nat) (rd : Bool) : Option Nat :=
  if off + n > s.hbmSize d then some causePageBounds
  else if !s.keyActive d then some causeKeyEmpty
  else if (rangeFrom (off / 65536) ((off + n + 65535) / 65536 - off / 65536)).any fun p =>
      s.extLost d (p % s.nExt d) then some causeMemLost
  else if rd && s.poison.any (s.blockMeets d off n) then some causeMemUe
  else none

/-- The state with the status bit of an access's cause set (R295). A read of a block already poisoned sets none (R297). -/
def State.hbmNote (s : State) (c : Nat) : State := if c = causeKeyEmpty then s.raise F.MEM_ERR_STATUS_KEY_EMPTY_ACCESS else s

/-! ### Errors of blocks (R289, R297) -/

/-- The pseudo-channel within its stack of a physical block: `place_line` of R289 for the line that holds it. -/
def pseudoChannel (b : Nat) : Nat := let l := b % extBlocks / 4; (l ^^^ (l / 2 ^ 6) ^^^ (l / 2 ^ 12)) % 64

/-- The physical block of a domain's offset, none where its extent is LOST (R290). -/
def State.physBlock (s : State) (d o : Nat) : Option Nat :=
  let n := s.nExt d
  (s.extents.find? fun e => e.2.owner == d && e.2.idx == extentOf n o && !e.2.lost).map fun e =>
    e.1 * extBlocks + o / 65536 / n * 1024 + o % 65536 / 64

/-- An access of a domain's HBM counted: its 64-byte blocks as reads or writes, with their bytes, by stack and by pseudo-channel, and the
poisoned blocks that a read meets (R524; log entry 100). -/
def State.hbmUsed (s : State) (d off n : Nat) (rd : Bool) : State :=
  if (s.hbmFault d off n false).isSome then s
  else
    (blocksOf off n).foldl (fun (s : State) k =>
      match s.physBlock d (64 * k) with
      | none => s
      | some b =>
        let w := b2n !rd
        let src := 0x020 + 8 * (b / stackBlocks)
        let s := ((s.count (src + w) (some d) 1).count (src + 2 + w) (some d) 1).count
          (0x200 + 256 * (b / stackBlocks) + 4 * pseudoChannel b + w) none 1
        if rd && s.poison.contains b then s.count (src + 7) (some d) 1 else s) s

/-- The number of a domain's block in the lists of written blocks and of pending rewrites. -/
def domBlock (d off : Nat) : Nat := memKey .hbm d off / 64

/-- A corrected read of a block: counted by stack and pseudo-channel, with its rewrite owed (R297, R299). -/
def State.blockCorrected (s : State) (b : Nat) : State :=
  let k := b / stackBlocks
  let pc := 64 * k + pseudoChannel b
  let s := ((s.addFld F.MEM_STACK_ECC_CORRECTED 1 k).count (0xEA0 + 12 * k + 2) none 1).health k 0 1
  let s := { s with scrub := { s.scrub with corrected := Tab.set s.scrub.corrected pc (Tab.getD s.scrub.corrected pc 0 + 1) } }
  match s.blockOwner b with
  | none => s
  | some (d, o) =>
    let s := s.count (0x020 + 8 * k + 6) (some d) 1
    { s with rewrites := if s.rewrites.contains (domBlock d o) then s.rewrites else s.rewrites ++ [domBlock d o] }

/-- A block found uncorrectable: one not poisoned before is poisoned, counted and remembered for an hour (R297, R311). -/
def State.blockPoisoned (s : State) (b : Nat) : State :=
  if s.poison.contains b then s
  else
    let k := b / stackBlocks
    let s := ((s.satFld F.MEM_STACK_ECC_UNCORRECTED 1 k).count (0xEA0 + 12 * k + 3) none 1).health k 1 1
    let s := s.raise F.MEM_ERR_STATUS_UE
    let own := s.blockOwner b
    { s with
      scrub := { s.scrub with ues := (k, s.now) :: s.scrub.ues }
      poison := b :: s.poison
      rewrites := s.rewrites.filter fun r => own.all fun p => r != domBlock p.1 p.2 }

/-- Errors that have come about in blocks of a domain's HBM, corrected ones and uncorrectable ones: they stay in the cells until a read, or a
write of the whole block (R297; log entry 92). -/
def State.errorsIn (s : State) (d : Nat) (ce ue : List Nat) : State :=
  let at_ := fun (u : Bool) (l : List Nat) => (l.filterMap (s.physBlock d)).map fun b => (b, u)
  { s with latent := s.latent ++ at_ false ce ++ at_ true ue }

/-- The errors in blocks of a test are met by a read (R297). -/
def State.meetBlocks (s : State) (p : Nat → Bool) : State :=
  let hit := s.latent.filter fun e => p e.1
  if hit.isEmpty then s
  else
    hit.foldl (fun s e => if e.2 then s.blockPoisoned e.1 else s.blockCorrected e.1)
      { s with latent := s.latent.filter fun e => !p e.1 }

/-- The errors in a range of a domain's HBM are met by a read of it (R297). -/
def State.meetErrors (s : State) (d off n : Nat) : State := s.meetBlocks (s.blockMeets d off n)

/-- A read of a range of a domain's HBM: its errors are met, and it is counted (R297, R524). -/
def State.readHbm (s : State) (d off n : Nat) : State := (s.meetErrors d off n).hbmUsed d off n true

/-- The sizes of a domain's partitions in bytes (R301). -/
def State.spSize (s : State) (d : Nat) : Nat := 2 ^ 20 * s.fld F.MEM_PART_SP_MIB d
def State.stSize (s : State) (d : Nat) : Nat := 2 ^ 20 * s.fld F.MEM_PART_ST_MIB d

/-- The stacks in service: those of no map layer (R307). -/
def State.stackOn (s : State) (k : Nat) : Bool := decide (k < 8) && !bit (s.fld F.GLB_MAP_MEM_STACKS) k
def State.stacksOn (s : State) : List Nat := (rangeFrom 0 8).filter s.stackOn

/-- A domain's extents on a stack (R307). -/
def State.extOn (s : State) (d k : Nat) : Nat :=
  s.extents.countP fun p => p.2.owner == d && p.1 / 96 == k && !p.2.lost

/-- The sum of R307 over the domains that own extents, of commitment × n / N on stack k, as a fraction over a common denominator
is avoided by scaling: each term is multiplied by `den`, the product of the domains' extent counts. -/
def State.commitDoms (s : State) : List Nat := allDomains.filter fun d => decide (s.nExt d ≠ 0)

/-- The common denominator of the load sums. -/
def State.loadDen (s : State) : Nat :=
  (s.commitDoms.map s.nExt).foldl Nat.lcm 1 * max 1 s.stacksOn.length

/-- The Vermilion load of a stack, times the common denominator (R307, R309), with `extra` MB/s more for a domain. -/
def State.vload (s : State) (k : Nat) (extra : Nat → Nat) : Nat :=
  sumList (s.commitDoms.map fun d =>
    (s.fld F.MEM_COMMIT_VERM_MBPS d + extra d) * s.extOn d k * (s.loadDen / s.nExt d))

/-- The Slate-plus-residency load of a stack, times the common denominator (R307, R309). -/
def State.sload (s : State) (k : Nat) : Nat :=
  sumList (s.commitDoms.map fun d => s.fld F.MEM_COMMIT_SLATE_MBPS d * s.extOn d k * (s.loadDen / s.nExt d))
    + s.fld F.MEM_POOL_RES_MBPS * (s.loadDen / max 1 s.stacksOn.length)

/-- The guaranteed figure of one stack, in MB/s (R307). -/
def stackMbps : Nat := 1740800

/-- The memory commitment test of R307, with `extra` MB/s more of Vermilion commitment for each domain. -/
def State.loadTest (s : State) (extra : Nat → Nat) : Bool :=
  s.stacksOn.all fun k => decide (s.vload k extra + s.sload k ≤ stackMbps * s.loadDen)

/-- The Vermilion bandwidth test of R309. -/
def State.vermTest (s : State) : Bool := s.stacksOn.all fun k => decide (s.vload k (fun _ => 0) ≤ stackMbps * s.loadDen)

/-- SCALE_FACTOR as R309 computes it: floor(f × 65,536), f capped at 1. -/
def State.scaleFactor (s : State) : Nat :=
  (s.stacksOn.map fun k =>
    let room := stackMbps * s.loadDen - s.vload k (fun _ => 0)
    if s.sload k = 0 then 65536 else min 65536 (room * 65536 / s.sload k)).foldl min 65536

/-- The state after R309 at a loss, a restoration or a shed (R310): the factor stored, and MEM_COMMIT_SCALED raised with its records, or cleared
at 65,536. While the Vermilion test fails, cells are shed first, and the factor is computed over the remaining set (R309). -/
def State.applyScale (s : State) : State :=
  if !s.vermTest then s
  else
  let f := s.scaleFactor
  let s := s.setFld F.MEM_STATUS_SCALE_FACTOR f
  if f < 65536 then
    let s := s.setFld F.MEM_STATUS_COMMIT_SCALED 1
    let s := s.raise F.MEM_ERR_STATUS_COMMIT_SCALED
    let s := s.faultRecord { FaultRec.of 0x0105 0 with detail := f }
    allDomains.foldl (fun s d =>
      if s.fld F.MEM_COMMIT_SLATE_MBPS d = 0 then s
      else s.faultRecord { FaultRec.of 0x0105 0 with dom := some d, detail := f }) s
  else s.setFld F.MEM_STATUS_COMMIT_SCALED 0

/-- A Slate commitment as the factor in force scales it (R309). -/
def State.slateEff (s : State) (d : Nat) : Nat := s.fld F.MEM_COMMIT_SLATE_MBPS d * s.fld F.MEM_STATUS_SCALE_FACTOR / 65536

/-- Open bytes in blocks of HBM, by number. -/
def State.openBlocks (s : State) (l : List Nat) : State :=
  { s with
    mem := l.zipIdx.foldl (fun m p => Memory.writeBytes m (64 * p.1) ((rangeFrom (64 * p.2) 64).map (Config.freeByte s.freeCtr))) s.mem
    freeCtr := s.freeCtr + 1 }

/-- The key ranges of a domain's space. -/
def inSpace (spc : Space) (dom : Nat) (k : Nat) : Bool := k / 2 ^ 64 == spc.code * 128 + dom % 128

/-- The state with a space of a domain zeroed (R303). -/
def State.zeroSpace (s : State) (spc : Space) (dom : Nat) : State :=
  { s with mem := Memory.drop s.mem (inSpace spc dom) }

/-- A range of a space zeroed. -/
def State.zeroRange (s : State) (spc : Space) (dom off n : Nat) : State :=
  let k0 := memKey spc dom off
  { s with mem := Memory.drop s.mem fun k => decide (k0 ≤ k) && decide (k < k0 + n) }

/-- The state with every byte of a memory kind zeroed, for all domains. -/
def State.zeroAll (s : State) (spc : Space) : State :=
  { s with mem := Memory.drop s.mem fun k => k / 2 ^ 64 / 128 == spc.code }

end Sys2Proof.Machine
end

