-- ==== Sys2Proof/Machine/Maps.lean ====
section
/-! DEFINITION. The disabled-unit map (R577 to R581): unit classes (R546), the three layers of R578, the six map registers,
their image and digest, and E and C. -/

namespace Sys2Proof.Machine

/-- The classes of R546. -/
def ucTile : Nat := 0x10
def ucRow : Nat := 0x11
def ucCol : Nat := 0x12
def ucLane : Nat := 0x18
def ucCore : Nat := 0x20
def ucStack : Nat := 0x28
def ucSram : Nat := 0x29
def ucDec : Nat := 0x30
def ucEnc : Nat := 0x31
def ucPolar : Nat := 0x32
def ucEq : Nat := 0x33
def ucDemap : Nat := 0x34
def ucHarq : Nat := 0x35
def ucTdfe : Nat := 0x36
def ucPrach : Nat := 0x37
def ucDecomp : Nat := 0x38
def ucDma : Nat := 0x40
def ucFab : Nat := 0x41
def ucEth : Nat := 0x48
def ucRhumb : Nat := 0x49
def ucPcie : Nat := 0x4A
def ucMeridian : Nat := 0x50
def ucD2d : Nat := 0x58
def ucPll : Nat := 0x60

/-- Where a unit stands in the map: its register, its lowest bit, and the units of its class (R577). -/
def mapPlace (cls : Nat) : Option (Nat × Nat × Nat) :=
  match cls with
  | 0x11 => some (0x100, 0, 32)
  | 0x12 => some (0x108, 0, 64)
  | 0x20 => some (0x110, 0, 32)
  | 0x28 => some (0x118, 0, 8)
  | 0x30 => some (0x120, 0, 8)
  | 0x31 => some (0x120, 8, 4)
  | 0x32 => some (0x120, 12, 4)
  | 0x33 => some (0x120, 16, 1)
  | 0x34 => some (0x120, 17, 1)
  | 0x35 => some (0x120, 18, 1)
  | 0x36 => some (0x120, 19, 1)
  | 0x37 => some (0x120, 20, 1)
  | 0x38 => some (0x120, 21, 1)
  | 0x40 => some (0x128, 0, 16)
  | 0x41 => some (0x128, 16, 24)
  | 0x48 => some (0x128, 40, 8)
  | 0x49 => some (0x128, 48, 4)
  | _ => none

/-- A unit's bit in its map register, where the map holds the unit. -/
def unitBit (u : DevUnit) : Option (Nat × Nat) :=
  match mapPlace u.cls with
  | none => none
  | some (a, lo, n) => if u.idx < n then some (a, lo + u.idx) else none

/-- The number of a unit in the tables of runtime entries. -/
def DevUnit.key (u : DevUnit) : Nat := u.cls * 65536 + u.idx

/-- A map bit is set in a layer given by map-register address. -/
def layerHas (t : Tab Nat) (u : DevUnit) : Bool :=
  match unitBit u with
  | none => false
  | some (a, b) => bit (Tab.getD t a 0) b

/-- The map registers, in address order. -/
def mapRegs : List Nat := [0x100, 0x108, 0x110, 0x118, 0x120, 0x128]

/-- The runtime layer's bits of a map register (R578). -/
def State.runtimeMask (s : State) (a : Nat) : Nat :=
  s.mapRun.foldl (fun m e =>
    match unitBit ⟨e.1 / 65536, e.1 % 65536⟩ with
    | some (a', b) => if a' = a then m ||| 2 ^ b else m
    | none => m) 0

/-- The union of the three layers for a map register (R578). -/
def State.mapUnion (s : State) (a : Nat) : Nat :=
  Tab.getD s.mapFuse a 0 ||| Tab.getD s.mapAlm a 0 ||| s.runtimeMask a

/-- The map image: six registers, 48 bytes (R577). -/
def State.mapImage (s : State) : List Byte := mapRegs.flatMap fun a => toLe 8 (s.reg a).toNat

/-- A unit is disabled in the map in force. -/
def State.unitOff (s : State) (u : DevUnit) : Bool :=
  match unitBit u with
  | none => false
  | some (a, b) => bit (s.reg a).toNat b

/-- The unit that a TILE_TEST or an ENGINE_TEST has removed (R521): a tile-column, or a decoder, an encoder or a polar unit. -/
def MaintCmd.unit (m : MaintCmd) : DevUnit := if m.op = 0x60 then ⟨ucCol, m.idx⟩ else ⟨ucDec + m.kind, m.idx⟩
def State.inTest (s : State) (u : DevUnit) : Bool := s.sxt.maint.any fun m => m.removed && m.unit == u

/-- The unit that a live update now has out of service: a tile's column, a Helm core, or a decoder, encoder or polar unit (R96, R498). -/
def UpdUnit.unit (u : UpdUnit) : Option DevUnit :=
  if u.cls = 0x10 then some ⟨ucCol, u.idx % 64⟩
  else if u.cls = 0x83 then some ⟨ucCore, u.sub⟩
  else if u.cls = 0x86 then
    some (if u.sub < 8 then ⟨ucDec, u.sub⟩ else if u.sub < 12 then ⟨ucEnc, u.sub - 8⟩ else ⟨ucPolar, u.sub - 12⟩)
  else none
def State.inUpdate (s : State) : Option DevUnit := (s.alm.upd.bind fun u => u.todo.head?).bind UpdUnit.unit

/-- A value that a section gives. -/
def secVal (x : Option ImgSection) (a idx : Nat) : Option Nat :=
  match x with
  | none => none
  | some x => (x.vals.find? fun v => v.1 == a && v.2.1 == idx).map (·.2.2)

/-- The registers that two sections of a unit give. -/
def UpdUnit.keys (u : UpdUnit) : List (Nat × Nat) :=
  ((u.new.toList ++ u.old.toList).flatMap fun x => x.vals.map fun v => (v.1, v.2.1)).eraseDups

/-- The owners that a unit's sections give an extent, where they differ. -/
def UpdUnit.extOwners (u : UpdUnit) (e : Nat) : List Nat :=
  let a := secVal u.old 0x8000018 e
  let b := secVal u.new 0x8000018 e
  if a = b then [] else ((a.toList ++ b.toList).map fun v => F.MEM_EXT_OWNER.get (BitVec.ofNat 64 v)).filter (decide <| · < 128)

/-- The domains that units touch: those of class 0x02, and those whose extents change. -/
def touched (l : List UpdUnit) : List Nat :=
  (l.flatMap fun u => (if u.cls = 0x02 then [u.idx] else [])
    ++ (u.keys.filter fun p => p.1 == 0x8000018).flatMap fun p => u.extOwners p.2).eraseDups

/-- The domains whose runs a live update now drains: those that the unit in progress touches (R305, R498). -/
def State.draining (s : State) : List Nat := touched (s.alm.upd.bind fun u => u.todo.head?).toList

/-- The units of a class that are in service, in increasing number: the map does not disable them, and no test and no live update has them
out. -/
def State.unitsOn (s : State) (cls : Nat) : List Nat :=
  match mapPlace cls with
  | none => []
  | some (_, _, n) => (rangeFrom 0 n).filter fun i => !s.unitOff ⟨cls, i⟩ && !s.inTest ⟨cls, i⟩ && s.inUpdate != some ⟨cls, i⟩

/-- E and C of the map in force, 0 when the array section is disabled as a whole (R57, R98). -/
def State.mapE (s : State) : Nat := (s.unitsOn ucRow).length
def State.mapC (s : State) : Nat := (s.unitsOn ucCol).length
def State.offline (s : State) : Bool := s.flag F.TRK_STATUS_OFFLINE

/-- The enabled cores of the three groups of R168. -/
def State.coresOn (s : State) (lo n : Nat) : List Nat := (rangeFrom lo n).filter fun i => !s.unitOff ⟨ucCore, i⟩
def State.seqCores (s : State) : List Nat := s.coresOn 0 8
def State.radioCores (s : State) : List Nat := s.coresOn 8 16
def State.queueCores (s : State) : List Nat := s.coresOn 24 8

/-- The digest of the map in force, as the digest registers hold it (R444, R581). -/
def State.mapDigestReg (s : State) : Nat :=
  (s.reg 0x160).toNat + (s.reg 0x168).toNat * 2 ^ 64 + (s.reg 0x170).toNat * 2 ^ 128 + (s.reg 0x178).toNat * 2 ^ 192

/-! ### What a decision of this array cycle sees (R57, R175) -/

/-- The array cycle of a time: a change after one cycle's decision falls in the next (log entry 79). -/
def State.arrCycle (s : State) : Nat := ceilDiv s.now arrCyc

/-- The map in force now. -/
def State.mapNow (s : State) : MapWas := ⟨s.arrCycle, s.mapE, s.mapC, s.mapDigestReg, s.offline⟩

/-- The map that a decision of this cycle latches: as it stood before the changes of the cycle. -/
def State.mapIn (s : State) : MapWas :=
  match s.helm.mapWas with
  | some m => if m.cyc = s.arrCycle then m else s.mapNow
  | none => s.mapNow

/-- The map noted before its first change of a cycle. -/
def State.noteMap (s : State) : State := { s with helm := { s.helm with mapWas := some s.mapIn } }

/-- The registers replaced in this cycle. -/
def State.regsIn (s : State) : Tab Word :=
  match s.helm.regsWas with
  | some (c, t) => if c = s.arrCycle then t else []
  | none => []

/-- A field as a decision of this cycle reads it. -/
def State.fldIn (s : State) (f : Fld) (idx : Nat) : Nat :=
  match Tab.get? s.regsIn (regKey f.reg idx) with
  | some w => f.get w
  | none => s.fld f idx

/-- A register noted before its first write of a cycle. -/
def State.noteReg (s : State) (a idx : Nat) : State :=
  let t := s.regsIn
  { s with helm := { s.helm with
      regsWas := some (s.arrCycle, if Tab.has t (regKey a idx) then t else Tab.set t (regKey a idx) (s.reg a idx)) } }

/-! ### Power of the wake groups (R97, R100, R101) -/

/-- A wake group holds an enabled tile (R100). -/
def State.groupOn (s : State) (g : Nat) : Bool :=
  !s.unitOff ⟨ucRow, g / 2⟩ && (rangeFrom (g % 2 * 32) 32).any fun j => !s.unitOff ⟨ucCol, j⟩

/-- Groups started in increasing number from a time, one every 20 ns, each ready 100 ns after its start (R101). -/
def groupTimes (start : Nat) (l : List Nat) : Tab Nat := l.zipIdx.map fun p => (p.1, start + (20 * p.2 + 100) * nsec)

/-- The wake groups that hold enabled tiles. -/
def State.groupsOn (s : State) : List Nat := (rangeFrom 0 64).filter s.groupOn

/-- The groups with power after a change of the map: a group whose tiles are all disabled is power-gated, and one that has enabled tiles again
starts while the array has power (R97, R100). -/
def State.regroup (s : State) : State :=
  if s.pow.groups.isEmpty then s
  else
    let keep := s.pow.groups.filter fun e => s.groupOn e.1
    let new := s.groupsOn.filter fun g => !Tab.has keep g
    { s with pow := { s.pow with groups := keep ++ groupTimes s.now new } }

/-- A unit that sleeps, by PMC_UNIT_SEL (R543). -/
def sleepKey (kind idx : Nat) : Nat := kind * 64 + idx

/-- The unit of the map that PMC_UNIT_SEL names: radio engines in the order of RAD_ENG_STATUS. The array is none. -/
def sleepDev (kind idx : Nat) : Option DevUnit :=
  if kind = 1 then
    if idx < 8 then some ⟨ucDec, idx⟩ else if idx < 12 then some ⟨ucEnc, idx - 8⟩ else if idx < 16 then some ⟨ucPolar, idx - 12⟩
    else if idx < 19 then some ⟨ucEq + (idx - 16), 0⟩ else none
  else if kind = 2 then (if idx < 32 then some ⟨ucCore, idx⟩ else none)
  else if kind = 3 then (if idx < 16 then some ⟨ucDma, idx⟩ else if idx < 40 then some ⟨ucFab, idx - 16⟩ else none)
  else none

/-- A unit that the map disables goes to OFF, whatever its state, and its latched wake is dropped (R541). -/
def State.sleepsOff (s : State) : State :=
  { s with pow := { s.pow with sleeps := s.pow.sleeps.filter fun e => match sleepDev (e.1 / 64) (e.1 % 64) with
      | some u => !s.unitOff u
      | none => true } }

/-- The digest of the map image (R444, R581). -/
def State.mapDigest (s : State) : Nat := leNat (sha3_256 s.mapImage)

/-- The digest registers written with the digest of the map in force (R581). -/
def State.writeDigest (s : State) : State :=
  let d := toLe 32 s.mapDigest
  (rangeFrom 0 4).foldl (fun s k => s.setReg (0x160 + 8 * k) 0 (BitVec.ofNat 64 (fieldAt d (8 * k) 8))) s

/-- The union of the layers leaves E or C at 0 (R98). -/
def State.arrayGone (s : State) : Bool :=
  s.mapUnion 0x100 % 2 ^ 32 == 2 ^ 32 - 1 || s.mapUnion 0x108 % 2 ^ 64 == 2 ^ 64 - 1

/-- What a map register is to hold: the union of the layers, or its last value where that would leave E or C at 0 (R577). -/
def State.mapTarget (s : State) (a : Nat) : Nat :=
  if s.arrayGone && decide (a ≤ 0x108) then (s.reg a).toNat else s.mapUnion a

/-- The map registers take the union of the layers; the digest is written, the generation advances, and the change reaches
measurement index 7 (R577, R581). Nothing happens where the image is as before. -/
def State.mapRefresh (s : State) : State :=
  if mapRegs.all fun a => (s.reg a).toNat == s.mapTarget a then s
  else
    let t := mapRegs.foldl (fun t a => t.setReg a 0 (BitVec.ofNat 64 (s.mapTarget a))) s
    (t.writeDigest.addFld F.GLB_MAP_GEN_CHANGES 1).measChanged.regroup.sleepsOff

/-- The array section disabled as a whole: OFFLINE set, the map registers kept and its tiles without power (R97, R98, R577). -/
def State.goOffline (s : State) : State :=
  let s := (s.setFld F.TRK_STATUS_OFFLINE 1).faultRecord (FaultRec.of 0x0306 7)
  { s with pow := { s.pow with groups := [], sleeps := Tab.set s.pow.sleeps 0 ⟨3, s.now, false⟩ } }

/-- The layers changed: the array section is disabled where they leave E or C at 0, and returns where they do not; the map registers follow
(R98, R577, R578). A decision of this cycle still sees the map as it stood (R57). -/
def State.mapApply (s : State) : State :=
  let s := s.noteMap
  (if s.arrayGone then (if s.offline then s else s.goOffline) else s.setFld F.TRK_STATUS_OFFLINE 0).mapRefresh

/-- The state with a unit entered in the runtime layer (R578), or the array section disabled when that leaves E or C at 0 (R98). A unit
that already has an entry keeps its cause (R582). -/
def State.mapDisable (s : State) (u : DevUnit) (cause : Nat) : State :=
  if Tab.has s.mapRun u.key then s
  else { s.noteMap with mapRun := Tab.set s.mapRun u.key cause }.mapApply

/-- The state with a unit's runtime entry cleared (R578); the array section returns when E and C are both at least 1. -/
def State.mapEnable (s : State) (u : DevUnit) : State := { s.noteMap with mapRun := Tab.del s.mapRun u.key }.mapApply

/-- The engine of a kind that serves a number: engine n mod `total`, or the next enabled one in increasing number, wrapping to 0
(R372, R344, R550). None when every engine of the kind is disabled. -/
def State.engineFor (s : State) (cls total n : Nat) : Option Nat :=
  ((rangeFrom (n % total) total).map (· % total)).find? fun i => !s.unitOff ⟨cls, i⟩

end Sys2Proof.Machine
end

