-- ==== Sys2Proof/Machine/AirTime.lean ====
section
/-! DEFINITION. Cell configurations (R206, R207, R228, R254) and air-interface timing (R474, R211). Meridian times here are whole
numbers of 2^−16 ns, the precision at which R474 holds a symbol's air time. -/

namespace Sys2Proof.Machine

/-! ### The configuration header (R206) -/

def CellCfg.mu (c : CellCfg) : Nat := fieldAt c.hdr 4 1
def CellCfg.ext (c : CellCfg) : Bool := fieldAt c.hdr 5 1 == 1
def CellCfg.nprb (c : CellCfg) : Nat := fieldAt c.hdr 6 2
def CellCfg.split (c : CellCfg) : Nat := fieldAt c.hdr 8 1
def CellCfg.ulStreams (c : CellCfg) : Nat := fieldAt c.hdr 9 1
def CellCfg.dlStreams (c : CellCfg) : Nat := fieldAt c.hdr 10 1
def CellCfg.ulLayers (c : CellCfg) : Nat := fieldAt c.hdr 11 1
def CellCfg.dlLayers (c : CellCfg) : Nat := fieldAt c.hdr 12 1
def CellCfg.nphase (c : CellCfg) : Nat := fieldAt c.hdr 13 1
def CellCfg.pci (c : CellCfg) : Nat := fieldAt c.hdr 14 2
def CellCfg.dlLead (c : CellCfg) : Nat := fieldAt c.hdr 16 2
def CellCfg.ulLead (c : CellCfg) : Nat := fieldAt c.hdr 18 2
def CellCfg.ulDecode (c : CellCfg) : Nat := fieldAt c.hdr 20 2
def CellCfg.noticeRing (c : CellCfg) : Nat := fieldAt c.hdr 22 2
def CellCfg.ulBits (c : CellCfg) : Nat := fieldAt c.hdr 24 4
def CellCfg.dlBits (c : CellCfg) : Nat := fieldAt c.hdr 28 4
def CellCfg.roots (c : CellCfg) : Nat := fieldAt c.hdr 32 2
def CellCfg.maxLead (c : CellCfg) : Nat := max c.dlLead c.ulLead

/-- Symbols per slot and slots per frame and per ms. -/
def CellCfg.nsym (c : CellCfg) : Nat := if c.ext then 12 else 14
def CellCfg.perFrame (c : CellCfg) : Nat := 10 * 2 ^ c.mu
def CellCfg.perMs (c : CellCfg) : Nat := 2 ^ c.mu

/-- The slot period in µs, as a number of nanoseconds. -/
def CellCfg.periodNs (c : CellCfg) : Nat := 1000000 / 2 ^ c.mu

/-! ### Engine parameters (R228, R254): fields at their byte numbers in the header -/

def CellCfg.b (c : CellCfg) (off n : Nat) : Nat := fieldAt c.hdr off n
def CellCfg.subport (c : CellCfg) : Nat := c.b 64 1
def CellCfg.tagged (c : CellCfg) : Bool := bit (c.b 65 1) 0
def CellCfg.macsec (c : CellCfg) : Bool := bit (c.b 65 1) 1
def CellCfg.staticComp (c : CellCfg) : Bool := bit (c.b 65 1) 2
def CellCfg.weightsExt (c : CellCfg) : Bool := bit (c.b 65 1) 3
def CellCfg.vid (c : CellCfg) : Nat := c.b 66 2 % 4096
def CellCfg.pcp (c : CellCfg) : Nat := c.b 66 2 / 4096 % 8
def CellCfg.eaxcUl (c : CellCfg) : Nat := c.b 68 2
def CellCfg.eaxcDl (c : CellCfg) : Nat := c.b 70 2
def CellCfg.eaxcPrach (c : CellCfg) : Nat := c.b 72 2
def CellCfg.eaxcStep (c : CellCfg) : Nat := c.b 74 1
def CellCfg.ta4Min (c : CellCfg) : Nat := c.b 78 2 * 100
def CellCfg.ta4Max (c : CellCfg) : Nat := c.b 80 2 * 100
def CellCfg.t1aUpMin (c : CellCfg) : Nat := c.b 82 2 * 100
def CellCfg.t1aUpMax (c : CellCfg) : Nat := c.b 84 2 * 100
def CellCfg.t1aCpDl (c : CellCfg) : Nat := c.b 86 2 * 100
def CellCfg.t1aCpUl (c : CellCfg) : Nat := c.b 88 2 * 100
def CellCfg.tdRate (c : CellCfg) : Nat := c.b 90 1
def CellCfg.backoff (c : CellCfg) : Nat := c.b 91 1
def CellCfg.agcTarget (c : CellCfg) : Int := signed (c.b 92 2) 16
def CellCfg.agcOn (c : CellCfg) : Bool := bit (c.b 94 1) 0
def CellCfg.agcInit (c : CellCfg) : Nat := c.b 96 2
def CellCfg.freezeMask (c : CellCfg) : Nat := c.b 98 2
def CellCfg.xchPage (c : CellCfg) : Nat := c.b 128 4
def CellCfg.xchPages (c : CellCfg) : Nat := c.b 132 4
def CellCfg.harqPage (c : CellCfg) : Nat := c.b 136 4
def CellCfg.harqPages (c : CellCfg) : Nat := c.b 140 4
def CellCfg.harqUes (c : CellCfg) : Nat := c.b 144 2
def CellCfg.modelPath (c : CellCfg) : Bool := bit (c.b 146 1) 0
def CellCfg.fdSmooth (c : CellCfg) : Bool := bit (c.b 146 1) 1
def CellCfg.refCp16 (c : CellCfg) : Bool := bit (c.b 146 1) 2
def CellCfg.cePorts (c : CellCfg) : Nat := c.b 147 1
def CellCfg.ndmrs (c : CellCfg) : Nat := c.b 148 1
def CellCfg.ceShift (c : CellCfg) : Nat := c.b 149 1
def CellCfg.eqGroup (c : CellCfg) : Nat := c.b 150 1
def CellCfg.sicOn (c : CellCfg) : Bool := bit (c.b 151 1) 0
def CellCfg.sicThr (c : CellCfg) : Int := signed (c.b 152 2) 16
def CellCfg.llrShift (c : CellCfg) : Nat := c.b 154 1
def CellCfg.ldpcMaxIter (c : CellCfg) : Nat := c.b 155 1
def CellCfg.ldpcEt (c : CellCfg) : Nat := c.b 156 1
def CellCfg.wgtCp16 (c : CellCfg) : Bool := bit (c.b 157 1) 0
def CellCfg.wgtShift (c : CellCfg) : Nat := c.b 157 1 / 2 % 16
def CellCfg.bfTrx (c : CellCfg) : Nat := c.b 158 1
def CellCfg.dtxThr (c : CellCfg) : Nat := if c.b 160 2 = 0 then 96 else c.b 160 2
def CellCfg.decGuard (c : CellCfg) : Nat := c.b 162 2

/-- Stream IDs of R228: data uplink, downlink and PRACH stream i. -/
def CellCfg.idBits (c : CellCfg) : Nat := if c.split = 2 then 8 else 16
def CellCfg.ulId (c : CellCfg) (i : Nat) : Nat := wrap (c.eaxcUl + i * c.eaxcStep) c.idBits
def CellCfg.dlId (c : CellCfg) (i : Nat) : Nat := wrap (c.eaxcDl + i * c.eaxcStep) c.idBits
def CellCfg.prachId (c : CellCfg) (i : Nat) : Nat := wrap (c.eaxcPrach + i * c.eaxcStep) 16

/-- Quarters of one stream (R202). -/
def CellCfg.quarters (c : CellCfg) : Nat := ceilDiv (c.nprb * 12 * c.nsym * 2 ^ c.mu) 22932

/-! ### The exchange area (R256) -/

def CellCfg.nAnt (c : CellCfg) : Nat := if c.split = 1 then (if c.weightsExt then c.bfTrx else 0) else c.dlStreams
def CellCfg.wDec (c : CellCfg) : Nat := if c.ulDecode = 0 then c.periodNs / 1000 else c.ulDecode
def CellCfg.dx (c : CellCfg) : Nat := ceilDiv (c.maxLead + c.periodNs / 1000 + c.wDec) (c.periodNs / 1000) + 1
def CellCfg.gCe (c : CellCfg) : Nat := ceilDiv (c.ndmrs * c.cePorts * c.ulStreams * 2) 64
def CellCfg.sLs (c : CellCfg) : Nat := 12 * c.nprb * c.gCe * 64
def CellCfg.sRef (c : CellCfg) : Nat := c.sLs * (1 + b2n c.refCp16)
def CellCfg.gW (c : CellCfg) : Nat := ceilDiv (c.dlLayers * c.nAnt * 2) 64
def CellCfg.sW (c : CellCfg) : Nat := c.nprb * c.gW * 64 * (1 + b2n c.wgtCp16)
def CellCfg.sSp (c : CellCfg) : Nat := ceilDiv (c.nsym * c.ulStreams * 12 * c.nprb * 4) 64 * 64
def CellCfg.areaBytes (c : CellCfg) : Nat := 65536 * ceilDiv (c.sLs + c.sRef + c.sW + c.sSp) 65536

/-- The 125 µs units of a slot. A slot is numbered by the unit from air time 0 at which it starts, in every numerology, so that one number
names one time before and after a change of MU (R204; log entry 80). -/
def CellCfg.ticks (c : CellCfg) : Nat := 2 ^ (3 - c.mu)

/-- The domain offset of the slot area of slot n (R256: its index counts slots of the cell's numerology). -/
def CellCfg.slotArea (c : CellCfg) (n : Nat) : Nat := 65536 * c.xchPage + n / c.ticks % c.dx * c.areaBytes

/-- The pages of the HARQ table and map (R270). -/
def CellCfg.harqTable (c : CellCfg) : Nat := ceilDiv (512 * c.harqUes + 4 * c.harqPages) 65536

/-- The cell's bandwidth demand in MB/s (R306). -/
def CellCfg.demandMbps (c : CellCfg) : Nat :=
  (2 * c.sSp + 3 * c.sLs + 2 * c.sRef + 2 * c.sW + 6 * c.ulBits) * 1000000 / (c.periodNs / 1000) / 1000000

/-! ### Phase entries (R207) -/

def phRelease (p : List Byte) : Int := signed (fieldAt p 0 4) 32
def phDeadline (p : List Byte) : Int := signed (fieldAt p 4 4) 32
def phValid (p : List Byte) : Bool := bit (fieldAt p 8 1) 0
def phGroup (p : List Byte) : Bool := bit (fieldAt p 8 1) 1
def phTrigger (p : List Byte) : Nat := fieldAt p 8 1 / 4 % 4
def phMembers (p : List Byte) : List Nat := (rangeFrom 0 (fieldAt p 9 1)).map fun i => fieldAt p (48 + 2 * i) 2 % 512

/-- RUN k of a phase entry: chart and windows; none when it is unused. -/
def phRun (p : List Byte) (k : Nat) : Option (Nat × Nat × Nat) :=
  let w := fieldAt p (16 + 8 * k) 8
  if w % 65536 = 0xFFFF then none else some (w % 65536, bits w 37 16, bits w 57 38)

/-- The charts that a phase entry names, with k. -/
def phRuns (p : List Byte) : List (Nat × Nat × Nat × Nat) := (rangeFrom 0 4).filterMap fun k => (phRun p k).map fun r => (k, r)

/-! ### Air time (R474) -/

/-- The counter at 2^−16 ns, and the air-time origin in that unit. -/
def State.tai16 (s : State) : Nat := s.tai / 65536
def State.airOrigin (s : State) : Nat := 65536 * (315964819 * 1000000000 + s.fld F.MER_AIR_AIR_OFFSET_NS)

/-- `start` of R474. -/
def symStart (j mu : Nat) (ext : Bool) : Nat := if ext then j * 2560 else j * 2192 + (if j > 0 then 16 * 2 ^ mu else 0)

/-- `air_time` of R474 for symbol q of a frame, in 2^−16 ns from air time 0, rounded down. -/
def airTime (frame q mu : Nat) (ext : Bool) : Nat :=
  let hs := (if ext then 6 else 7) * 2 ^ mu
  let hf := q / hs
  65536 * (10000000 * frame + 500000 * hf) + 100000 * 65536 * symStart (q - hf * hs) mu ext / (3072 * 2 ^ mu)

/-- The air time of symbol `sym` of slot n of a cell, in the counter's timescale. -/
def State.symTime (s : State) (c : CellCfg) (n sym : Nat) : Nat :=
  s.airOrigin + airTime (n / 80) (n % 80 / c.ticks * c.nsym + sym) c.mu c.ext

/-- T0 of slot n (R474), and T0_ns of R208. -/
def State.slotT0 (s : State) (c : CellCfg) (n : Nat) : Nat := s.symTime c n 0
def State.slotT0ns (s : State) (c : CellCfg) (n : Nat) : Nat := s.slotT0 c n / 65536

/-- The symbol in progress at a counter value, as a slot and a symbol of it (`air_position` of R474); 0 before air time 0. -/
def State.airPosition (s : State) (c : CellCfg) (t : Nat) : Nat × Nat :=
  let g := t - s.airOrigin
  let frame := g / (10000000 * 65536)
  let r := g - frame * 10000000 * 65536
  let hf := r / (500000 * 65536)
  let u := (r - hf * 500000 * 65536) * 3072 * 2 ^ c.mu
  let hs := c.nsym / 2 * 2 ^ c.mu
  let k := ((rangeFrom 0 hs).filter fun j => decide (symStart j c.mu c.ext * 100000 * 65536 ≤ u)).length - 1
  let q := hf * hs + k
  (frame * 80 + q / c.nsym * c.ticks, q % c.nsym)

/-- The unit of 125 µs in which the counter stands, from air time 0. -/
def State.tick (s : State) : Nat := (s.tai16 - s.airOrigin) / (125000 * 65536)

/-- The slot number of (SFN, slot) whose T0 is nearest an arrival, the later of two equally near (R211). -/
def State.resolveSlot (s : State) (c : CellCfg) (sfn slot t : Nat) : Nat :=
  let f := (t - s.airOrigin) / (10000000 * 65536)
  let base := f / 1024 * 1024 + sfn
  let cand := ([base, base + 1024] ++ (if base ≥ 1024 then [base - 1024] else [])).map fun fr => fr * 80 + slot * c.ticks
  let dist := fun n => let a := s.slotT0 c n; if a ≥ t then 2 * (a - t) else 2 * (t - a) + 1
  (minBy (fun n => [dist n]) cand).getD (base * 80 + slot * c.ticks)

/-- SFN and slot number of a slot. -/
def CellCfg.sfn (_c : CellCfg) (n : Nat) : Nat := n / 80 % 1024
def CellCfg.slotOf (c : CellCfg) (n : Nat) : Nat := n % 80 / c.ticks

/-- The state once the counter has reached a value of 2^−16 ns; unchanged when it has passed (R460). -/
def State.untilTai (s : State) (t : Nat) : State :=
  s.wait (if t ≤ s.tai16 then 0 else nsec * ceilDiv (65536 * t - s.tai) (2 ^ 32 + s.rateAdj).toNat)

/-- The decode deadline of slot n (R212), in 2^−16 ns. -/
def State.decodeDeadline (s : State) (c : CellCfg) (n : Nat) : Nat :=
  s.slotT0 c n + 65536 * (c.periodNs + 1000 * c.wDec)

end Sys2Proof.Machine
end

