-- ==== Sys2Proof/Machine/Operands.lean ====
section
/-! DEFINITION. The operand forms of program commands (R41 to R51, R114 to R121): the fields of a command's eight words,
the tensors it names, and how their elements are read. -/

namespace Sys2Proof.Machine

/-- A program command: eight 64-bit words (R114). -/
abbrev CmdWords := List Nat

/-- Bits [hi:lo] of word n of a command. -/
def CmdWords.f (c : CmdWords) (n hi lo : Nat) : Nat := bits (List.getD c n 0) hi lo

/-- Opcode and INDEX, common to every command (R114). -/
def CmdWords.op (c : CmdWords) : Nat := c.f 0 7 0
def CmdWords.index (c : CmdWords) : Nat := c.f 0 31 16

/-- The words of 64 bytes. -/
def wordsOf (l : List Byte) : CmdWords := (rangeFrom 0 8).map fun i => fieldAt l (8 * i) 8

/-! ### Operand formats (R41 to R51) -/

/-- Activation formats by code (R118): 0 INT4, 1 U4, 2 INT8, 3 CP16. The number of activation digits (R51). -/
def paOf (fa : Nat) : Nat := if fa = 3 then 4 else if fa = 2 then 2 else 1

/-- Weight formats by code (R118): 0 INT4, 1 INT8, 2 N4G, 3 N2T. The number of weight digits (R51). -/
def pwOf (fw : Nat) : Nat := if fw = 1 then 2 else 1

/-- The chunk length (R51, R54). -/
def kcOf (fw e : Nat) : Nat := if fw = 3 then 128 * e else 64 * e

/-- The value of an N2T code (R43). -/
def n2tDecode (c : Nat) : Int := if c = 1 then 1 else if c = 3 then -1 else 0

/-- The four-bit element with index i of a packed row (R42). -/
def nibbleAt (rd : Nat → Byte) (row i : Nat) : Nat := bits (rd (row + i / 2)).toNat (4 * (i % 2) + 3) (4 * (i % 2))

/-- The two-bit element with index i of a packed row (R42). -/
def crumbAt (rd : Nat → Byte) (row i : Nat) : Nat := bits (rd (row + i / 4)).toNat (2 * (i % 4) + 1) (2 * (i % 4))

/-! ### MATMUL (R118 to R121) -/

/-- The fields of a MATMUL, or of a product of a PACKED command. -/
structure Mat where
  fmtA : Nat
  fmtW : Nat
  accSrc : Nat
  outForm : Nat
  stoch : Bool
  flagPlane : Bool
  statPlane : Bool
  guard : Bool
  nearT : Nat
  satReport : Nat
  packable : Bool
  complete : Bool
  waypoint : Bool
  k : Nat
  n : Nat
  npos : Nat
  budget : Nat
  aBase : Nat
  aTag : Nat
  aStride : Nat
  aPlane : Nat
  wBase : Nat
  wTag : Nat
  wStride : Nat
  wShift : Nat
  oBase : Nat
  oTag : Nat
  oStride : Nat
  oPlane : Nat
  accBase : Nat
  accTag : Nat
  qpBase : Nat
  qpTag : Nat
  stream : Nat
  decl : Nat
  row0 : Nat
  col0 : Nat
deriving DecidableEq, Repr

/-- The fields of R118, with the formats given apart for a product of a PACKED command (R125). -/
def matOf (c : CmdWords) (fmtA fmtW : Nat) : Mat where
  fmtA := fmtA
  fmtW := fmtW
  accSrc := c.f 0 33 32
  outForm := c.f 0 35 34
  stoch := c.f 0 36 36 = 1
  flagPlane := c.f 0 37 37 = 1
  statPlane := c.f 0 38 38 = 1
  guard := c.f 0 39 39 = 1
  nearT := c.f 0 42 40
  satReport := c.f 0 44 43
  packable := c.f 0 45 45 = 1
  complete := c.f 0 46 46 = 1
  waypoint := c.f 0 47 47 = 1
  k := c.f 1 19 0 + 1
  n := c.f 1 35 20 + 1
  npos := c.f 1 51 36 + 1
  budget := c.f 1 59 52
  aBase := c.f 2 21 0
  aTag := c.f 2 29 22
  aStride := c.f 2 45 30
  aPlane := c.f 2 63 46
  wBase := c.f 3 21 0
  wTag := c.f 3 29 22
  wStride := c.f 3 45 30
  wShift := c.f 3 63 46
  oBase := c.f 4 21 0
  oTag := c.f 4 29 22
  oStride := c.f 4 45 30
  oPlane := c.f 4 63 46
  accBase := c.f 5 21 0
  accTag := c.f 5 29 22
  qpBase := c.f 5 51 30
  qpTag := c.f 5 59 52
  stream := c.f 6 15 0
  decl := c.f 7 31 0
  row0 := c.f 7 10 0
  col0 := c.f 7 22 11

/-- A MATMUL command's fields. -/
def Mat.ofCmd (c : CmdWords) : Mat := matOf c (c.f 0 11 8) (c.f 0 15 12)

/-- The parameter table is needed (R119). -/
def Mat.needsQp (m : Mat) : Bool := m.outForm != 0 || m.accSrc == 1

/-- P of R51. -/
def Mat.passes (m : Mat) : Nat := paOf m.fmtA * pwOf m.fmtW

/-- Row bytes of R119. -/
def Mat.aRow (m : Mat) : Nat := if m.fmtA ≥ 2 then m.k else ceilDiv m.k 2
def Mat.wRow (m : Mat) : Nat := if m.fmtW = 1 then m.n else if m.fmtW = 3 then ceilDiv m.n 4 else ceilDiv m.n 2
def Mat.oRow (m : Mat) : Nat := if m.outForm = 0 then 4 * m.n else if m.outForm = 2 then ceilDiv m.n 2 else m.n

/-- The flag plane is written (R121). -/
def Mat.hasFlags (m : Mat) : Bool := m.flagPlane || m.outForm == 0

/-- The first granules of the flag and statistics planes (R120). -/
def Mat.planes (m : Mat) : Nat := m.oBase + (if m.outForm = 3 then m.oPlane else 0) + m.npos * m.oStride
def Mat.flagBytes (m : Mat) : Nat := ceilDiv (m.npos * m.n) 4
def Mat.statBase (m : Mat) : Nat := if m.hasFlags then m.planes + ceilDiv m.flagBytes 64 else m.planes

/-- The stride of a saved accumulator plane (R121), and the granule of its flag plane. -/
def Mat.accStride (m : Mat) : Nat := ceilDiv (4 * m.n) 64
def Mat.accFlags (m : Mat) : Nat := m.accBase + m.npos * m.accStride

/-- How a command's operands are read: bytes of the run's scratchpad and staging windows. -/
structure Rd where
  sp : Nat → Byte
  st : Nat → Byte

/-- `act_value(p, k)` of R53. -/
def Mat.act (m : Mat) (r : Rd) (p k : Nat) : Int :=
  let row := (m.aBase + p * m.aStride) * 64
  if m.fmtA = 3 then
    signed (r.sp (row + k)).toNat 8 * 256 + signed (r.sp (row + m.aPlane * 64 + k)).toNat 8
  else if m.fmtA = 2 then signed (r.sp (row + k)).toNat 8
  else if m.fmtA = 1 then nibbleAt r.sp row k
  else signed (nibbleAt r.sp row k) 4

/-- The shift nibble of N4G group g of channel n (R44, R119). -/
def Mat.shiftNibble (m : Mat) (r : Rd) (g n : Nat) : Nat :=
  nibbleAt r.st ((m.wBase + m.wShift + g * m.wStride) * 64) n

/-- `weight_value(k, n)` of R53. -/
def Mat.weight (m : Mat) (r : Rd) (k n : Nat) : Int :=
  let row := (m.wBase + k * m.wStride) * 64
  if m.fmtW = 3 then n2tDecode (crumbAt r.st row n)
  else if m.fmtW = 2 then signed (nibbleAt r.st row n) 4 * 2 ^ (m.shiftNibble r (k / 32) n % 8)
  else if m.fmtW = 1 then signed (r.st (row + n)).toNat 8
  else signed (nibbleAt r.st row n) 4

/-- The reserved codes of a command's weight tensor, each counted once (R45). -/
def Mat.rsvCodes (m : Mat) (r : Rd) : Nat :=
  if m.fmtW = 3 then
    sumList ((rangeFrom 0 m.k).map fun k =>
      sumList ((rangeFrom 0 m.n).map fun n => b2n (crumbAt r.st ((m.wBase + k * m.wStride) * 64) n == 2)))
  else if m.fmtW = 2 then
    sumList ((rangeFrom 0 (ceilDiv m.k 32)).map fun g =>
      sumList ((rangeFrom 0 m.n).map fun n => m.shiftNibble r g n / 8))
  else 0

/-- A channel's requantization parameters (R60, R119). -/
structure QParam where
  m : Int
  bias : Int
  s : Nat
  zp : Int
deriving DecidableEq, Repr

/-- The parameters of channel n (R119). -/
def Mat.qparam (m : Mat) (r : Rd) (n : Nat) : QParam :=
  let e := (rangeFrom (m.qpBase * 64 + 16 * n) 16).map r.sp
  { m := signed (fieldAt e 0 4) 32, bias := signed (fieldAt e 4 4) 32, s := fieldAt e 8 1 % 64, zp := signed (fieldAt e 9 1) 8 }

/-- The start value of an element and its start flag (R56, R121). -/
def Mat.start (m : Mat) (r : Rd) (p n : Nat) : Int × Bool :=
  if m.accSrc = 1 then ((m.qparam r n).bias, false)
  else if m.accSrc = 2 then
    let a := (rangeFrom ((m.accBase + p * m.accStride) * 64 + 4 * n) 4).map r.sp
    let i := p * m.n + n
    (signed (leNat a) 32, bit (r.sp (m.accFlags * 64 + i / 4)).toNat (2 * (i % 4)))
  else (0, false)

/-! ### PACKED (R125) -/

/-- A PACKED command's own fields. -/
structure Packed where
  fmtA : Nat
  fmtW : Nat
  complete : Bool
  waypoint : Bool
  nprod : Nat
  ptBase : Nat
  ptTag : Nat
  decl : Nat
deriving DecidableEq, Repr

/-- The fields of R125. -/
def Packed.ofCmd (c : CmdWords) : Packed :=
  ⟨c.f 0 11 8, c.f 0 15 12, c.f 0 46 46 = 1, c.f 0 47 47 = 1, c.f 1 6 0, c.f 1 28 7, c.f 1 36 29, c.f 7 31 0⟩

/-- The products of a PACKED command, from its product table's bytes (R125). -/
def Packed.products (p : Packed) (table : List Byte) : List Mat :=
  (rangeFrom 0 p.nprod).map fun i => matOf (wordsOf (slice table (64 * i) 64)) p.fmtA p.fmtW

/-- The rows and columns that a product needs (R89). -/
def Mat.rows (m : Mat) : Nat := if m.fmtW = 3 then ceilDiv m.k 2 else m.k
def Mat.cols (m : Mat) : Nat := pwOf m.fmtW * m.n

/-! ### Transfers (R116, R117) -/

/-- A transfer's fields (R116). -/
structure Xfer where
  op : Nat
  ext : Nat
  arg : Nat
  staging : Bool
  wdesc : Nat
  addr : Nat
  base : Nat
  tag : Nat
  len : Nat
  key : Nat
deriving DecidableEq, Repr

/-- The fields of R116. -/
def Xfer.ofCmd (c : CmdWords) : Xfer :=
  ⟨c.op, c.f 0 33 32, c.f 0 36 34, c.f 0 37 37 = 1, c.f 0 49 38, List.getD c 1 0, c.f 2 21 0, c.f 2 29 22, c.f 3 31 0, c.f 3 63 32⟩

/-- The tag of a RELEASE (R117). -/
def releaseTag (c : CmdWords) : Nat := c.f 0 39 32

/-- A weight descriptor (R106). -/
structure WDesc where
  source : Nat
  len : Nat
  fabric : Bool
  key : Nat
deriving DecidableEq, Repr

/-- A weight descriptor from its 32 bytes. -/
def WDesc.of (l : List Byte) : WDesc := ⟨fieldAt l 0 8, fieldAt l 8 4, bit (fieldAt l 12 1) 0, fieldAt l 16 4⟩

end Sys2Proof.Machine
end

