-- ==== Sys2Proof/Machine/Flags.lean ====
section
/-! DEFINITION. The exact dot product (R54), requantization (R62 to R64), saturation flags and range monitors (R67 to R70),
guard recompute (R72 to R75), and the times of the array (R84 to R86, R124, R126). -/

namespace Sys2Proof.Machine

/-! ### Requantization -/

/-- `requant` of R62: the stored value and SAT_OUT. `u` is the random term of STOCHASTIC, none for RNE. -/
def requant (acc m : Int) (s : Nat) (zp : Int) (outBits : Nat) (u : Option Nat) : Int × Bool :=
  let prod := acc * m
  let v := match u with
    | none => rneShift prod s
    | some x => (prod + x).shiftRight s
  let y := v + zp
  let o := sat y outBits
  (o, o != y)

/-- `comp_pair` of R64: main, residual and SAT_OUT. -/
def compPair (acc m : Int) (s : Nat) (zp : Int) : Int × Int × Bool :=
  let prod := acc * m
  let q := rneShift prod s
  let y := q + zp
  let main := sat y 8
  if main ≠ y then (main, 0, true)
  else (main, sat (rneShift ((prod - q * 2 ^ s) * 256) s) 8, false)

/-! ### The dot product -/

/-- What the array computes of one element (R54): the accumulator, the SAT_ACC flag, the peak; and its start (R56). -/
structure Elem where
  acc : Int
  satAcc : Bool
  peak : Nat
  acc0 : Int
  flag0 : Bool
deriving DecidableEq, Repr

/-- The exact sum of products over K indices (R54, R74). -/
def dotSum (act : Nat → Int) (w : Nat → Int) (k0 n : Nat) : Int :=
  (rangeFrom k0 n).foldl (fun a k => a + act k * w k) 0

/-- The chunks of R54, in increasing K: `n` of them at most, from index `k0`. -/
def dotChunks (act w : Nat → Int) (k kc : Nat) : Nat → Nat → Elem → Elem
  | 0, _, e => e
  | n + 1, k0, e =>
    if k0 ≥ k then e
    else
      let k1 := min (k0 + kc) k
      let chunk := dotSum act w k0 (k1 - k0)
      let cs := sat chunk 32
      let t := e.acc + cs
      let a := sat t 32
      dotChunks act w k kc n k1
        { e with acc := a, satAcc := e.satAcc || cs != chunk || a != t, peak := max e.peak (bitlen a.natAbs) }

/-- `array_dot` of R54. -/
def arrayDot (act w : Nat → Int) (k kc : Nat) (acc0 : Int) (flag0 : Bool) : Elem :=
  dotChunks act w k kc (ceilDiv k kc) 0 ⟨acc0, flag0, bitlen acc0.natAbs, acc0, flag0⟩

/-- `guard_dot` of R74. -/
def guardDot (act w : Nat → Int) (k : Nat) (acc0 : Int) : Int := acc0 + dotSum act w 0 k

/-- What the drain writes of one element: the form's value, the residual of a pair, and the two flags (R61, R67). -/
structure OutEl where
  v : Int
  res : Int
  satAcc : Bool
  satOut : Bool
  peak : Nat
deriving DecidableEq, Repr

/-- The random term of an element under STOCHASTIC (R63, R450). -/
def stochTerm (seed step stream i s : Nat) : Nat := wrap (gen seed step stream i) s

/-- The output form applied to an accumulator (R61). -/
def formOf (outForm : Nat) (acc : Int) (q : QParam) (u : Option Nat) : Int × Int × Bool :=
  if outForm = 0 then (sat acc 32, 0, false)
  else if outForm = 1 then let r := requant acc q.m q.s q.zp 8 u; (r.1, 0, r.2)
  else if outForm = 2 then let r := requant acc q.m q.s q.zp 4 u; (r.1, 0, r.2)
  else let r := compPair acc q.m q.s q.zp; (r.1, r.2.1, r.2.2)

/-- The element (p, n) as the array passes compute it (R54). -/
def Mat.elem (m : Mat) (r : Rd) (e p n : Nat) : Elem :=
  let st := m.start r p n
  arrayDot (m.act r p) (fun k => m.weight r k n) m.k (kcOf m.fmtW e) st.1 st.2

/-- An element triggers its block: SAT_ACC was reached in this command (R72). -/
def Elem.triggers (x : Elem) : Bool := x.satAcc && !x.flag0

/-- The triggered blocks, in increasing i and then j (R72, R73), from the elements by position and channel. -/
def trigBlocks (els : List (List Elem)) (npos n : Nat) : List (Nat × Nat) :=
  (rangeFrom 0 (ceilDiv npos 64)).flatMap fun i =>
    ((rangeFrom 0 (ceilDiv n 64)).filter fun j =>
      ((els.drop (64 * i)).take 64).any fun row => ((row.drop (64 * j)).take 64).any Elem.triggers).map fun j => (i, j)

/-- `guard_block_cycles` of R75. -/
def guardBlockCycles (k fmtA fmtW e : Nat) : Nat :=
  ceilDiv k (kcOf fmtW e) * pwOf fmtW * (64 * e + 64 * paOf fmtA) + 64 * e

/-- The result of an array command or product: its output elements by position, the counts of R45 and R73, and the
statistics records (R70). -/
structure MatResult where
  outs : List (List OutEl)
  rsv : Nat
  trig : Nat
  recomp : Nat
  stats : List Nat
  satPresent : Bool
deriving DecidableEq, Repr

/-- The statistics record of one channel (R70). -/
def statRecord (near satAccs satOuts peak : Nat) (guarded : Bool) : Nat :=
  min near 65535 + min satAccs 65535 * 2 ^ 16 + min satOuts 65535 * 2 ^ 32 + peak * 2 ^ 48 + b2n guarded * 2 ^ 54

/-- The values of an array command at E enabled tile-rows (R54 to R77). `seed` is the run's seed and step (R450). -/
def Mat.run (m : Mat) (r : Rd) (e : Nat) (seed : Option (Nat × Nat)) : MatResult :=
  let els := (rangeFrom 0 m.npos).map fun p => (rangeFrom 0 m.n).map fun n => m.elem r e p n
  let trig := if m.guard then trigBlocks els m.npos m.n else []
  let done := trig.take m.budget
  let outs := (rangeFrom 0 m.npos).map fun p => (rangeFrom 0 m.n).map fun n =>
    let x := (els.getD p []).getD n ⟨0, false, 0, 0, false⟩
    let q := m.qparam r n
    let u := match m.stoch, seed with
      | true, some (sd, stp) => some (stochTerm sd stp m.stream (p * m.n + n) q.s)
      | _, _ => none
    if done.contains (p / 64, n / 64) then
      let a := guardDot (m.act r p) (fun k => m.weight r k n) m.k x.acc0
      let f := formOf m.outForm a q u
      (⟨f.1, f.2.1, x.flag0 || decide (sat a 32 ≠ a), f.2.2, x.peak⟩ : OutEl)
    else
      let f := formOf m.outForm x.acc q u
      ⟨f.1, f.2.1, x.satAcc, f.2.2, x.peak⟩
  let stats := (rangeFrom 0 m.n).map fun n =>
    let col := outs.map fun row => row.getD n ⟨0, 0, false, false, 0⟩
    statRecord (col.countP fun o => decide (o.peak ≥ 24 + m.nearT + 1)) (col.countP (·.satAcc)) (col.countP (·.satOut))
      (maxList (col.map (·.peak))) (done.any fun b => b.2 == n / 64)
  { outs := outs
    rsv := m.rsvCodes r
    trig := trig.length
    recomp := done.length
    stats := stats
    satPresent := outs.any fun row => row.any fun o => o.satAcc || o.satOut }

/-- Bytes packed two nibbles each, the even index low (R42). -/
def packNibbles : List Nat → List Byte
  | [] => []
  | [a] => [BitVec.ofNat 8 (a % 16)]
  | a :: b :: t => BitVec.ofNat 8 (a % 16 + 16 * (b % 16)) :: packNibbles t

/-- Bytes packed four two-bit values each (R68). -/
def packCrumbs : List Nat → List Byte
  | a :: b :: c :: d :: t => BitVec.ofNat 8 (a + 4 * b + 16 * c + 64 * d) :: packCrumbs t
  | [] => []
  | [a] => [BitVec.ofNat 8 a]
  | [a, b] => [BitVec.ofNat 8 (a + 4 * b)]
  | [a, b, c] => [BitVec.ofNat 8 (a + 4 * b + 16 * c)]

/-- The bytes of one output row in the command's form (R119), and of a pair's residual row. -/
def rowBytes (outForm : Nat) (row : List OutEl) : List Byte :=
  if outForm = 0 then row.flatMap fun o => toLe 4 (wrapInt o.v 32)
  else if outForm = 2 then packNibbles (row.map fun o => wrapInt o.v 4)
  else row.map fun o => BitVec.ofNat 8 (wrapInt o.v 8)

/-- What a command writes into the scratchpad window: byte offsets and bytes (R119 to R121). -/
def Mat.writes (m : Mat) (x : MatResult) : List (Nat × List Byte) :=
  let out := (rangeFrom 0 m.npos).map fun p => ((m.oBase + p * m.oStride) * 64, rowBytes m.outForm (x.outs.getD p []))
  let res := if m.outForm = 3 then
      (rangeFrom 0 m.npos).map fun p =>
        ((m.oBase + m.oPlane + p * m.oStride) * 64, (x.outs.getD p []).map fun o => BitVec.ofNat 8 (wrapInt o.res 8))
    else []
  let fl := if m.hasFlags then
      [(m.planes * 64, packCrumbs (x.outs.flatMap fun row => row.map fun o => b2n o.satAcc + 2 * b2n o.satOut))]
    else []
  let st := if m.statPlane then [(m.statBase * 64, x.stats.flatMap (toLe 8))] else []
  out ++ res ++ fl ++ st

/-! ### Times (R84 to R86, R124, R126) -/

/-- A load's rows and beats (R83). -/
structure Load where
  rows : Nat
  d : Nat
deriving DecidableEq, Repr

/-- The loads of a command run alone, in the order of R85. -/
def Mat.loads (m : Mat) (e c : Nat) : List Load :=
  let kc := kcOf m.fmtW e
  let ng := ceilDiv m.n (64 * c / pwOf m.fmtW)
  (rangeFrom 0 ng).flatMap fun _ =>
    (rangeFrom 0 (ceilDiv m.k kc)).map fun q =>
      let kq := min kc (m.k - q * kc)
      { rows := if m.fmtW = 3 then ceilDiv kq 2 else kq, d := paOf m.fmtA * m.npos }

/-- `t_data` of R86 over a sequence of loads. -/
def tDataOf : List Load → Nat
  | [] => 0
  | [l] => l.d
  | l :: t => max l.rows l.d + tDataOf t

/-- `t_next − t_data` of R86. -/
def tailOf : List Load → Nat
  | [] => 0
  | [l] => l.rows - l.d
  | _ :: t => tailOf t

/-- The one load of a stored packed layout (R90, R91). -/
def packedLoad (ps : List Mat) : Load :=
  { rows := maxList (ps.map fun m => m.row0 + m.rows)
    d := maxList (ps.map fun m => paOf m.fmtA * m.npos) }

/-- A layout fits at E and C (R89). -/
def packedFits (ps : List Mat) (e c : Nat) : Bool :=
  ps.all fun m => decide (m.row0 + m.rows ≤ 64 * e) && decide (m.col0 + m.cols ≤ 64 * c) && decide (m.k ≤ kcOf m.fmtW e)

/-- The state of R126's placement: the loads formed so far, the passes they make, and the open pass's rows, columns and beats. -/
structure Repack where
  done : List Load
  passes : Nat
  row : Nat
  col : Nat
  d : Nat
deriving DecidableEq, Repr

/-- The open pass closed. -/
def Repack.close (x : Repack) : Repack :=
  if x.d = 0 then x else ⟨x.done ++ [⟨x.row, x.d⟩], x.passes + 1, 0, 0, 0⟩

/-- One product placed (R126). -/
def Repack.place (e c : Nat) (x : Repack) (m : Mat) : Repack :=
  let d := paOf m.fmtA * m.npos
  if m.k > kcOf m.fmtW e || m.cols > 64 * c then ⟨x.close.done ++ m.loads e c, x.close.passes + 1, 0, 0, 0⟩
  else if x.row + m.rows ≤ 64 * e && x.col + m.cols ≤ 64 * c then
    { x with row := x.row + m.rows, col := x.col + m.cols, d := max x.d d }
  else { x.close with row := m.rows, col := m.cols, d := d }

/-- The loads of a repacked command (R126). -/
def repack (ps : List Mat) (e c : Nat) : Repack := (ps.foldl (Repack.place e c) ⟨[], 0, 0, 0, 0⟩).close
def repackLoads (ps : List Mat) (e c : Nat) : List Load := (repack ps e c).done

/-- The loads of a PACKED command at E and C: its own layout, or the repacked one (R125, R126). -/
def packedLoads (ps : List Mat) (e c : Nat) : List Load :=
  if packedFits ps e c then [packedLoad ps] else repackLoads ps e c

/-- The guard term of a command's length (R124). -/
def guardTerm (ps : List Mat) (e : Nat) : Nat :=
  sumList (ps.map fun m => if m.guard then m.budget * guardBlockCycles m.k m.fmtA m.fmtW e else 0)

/-- The guard cycles that a command runs (R130): each product's recomputed blocks at its own shape. -/
def guardRun (ps : List Mat) (recomp : List Nat) (e : Nat) : Nat :=
  sumList (List.zipWith (fun m n => n * guardBlockCycles m.k m.fmtA m.fmtW e) ps recomp)

/-- The length of an array command (R124). -/
def lengthOf (loads : List Load) (ps : List Mat) (e : Nat) : Nat := tDataOf loads + guardTerm ps e

end Sys2Proof.Machine
end

