-- ==== Sys2Proof/Machine/Float.lean ====
section
/-! DEFINITION. The floating-point primitives of the drain vector unit (R142 to R147), on bit patterns: each returns the exact
result rounded to nearest, ties to even. -/

namespace Sys2Proof.Machine

/-- A binary format: exponent bits and fraction bits (R48). -/
structure FFmt where
  eb : Nat
  mb : Nat
deriving DecidableEq, Repr

def fp32 : FFmt := ⟨8, 23⟩
def fp16 : FFmt := ⟨5, 10⟩
def bf16 : FFmt := ⟨8, 7⟩

/-- What a bit pattern stands for: a NaN, an infinity, or the number ±m × 2^e. -/
inductive FVal where
  | nan
  | inf (neg : Bool)
  | fin (neg : Bool) (m : Nat) (e : Int)
deriving DecidableEq, Repr

def FFmt.bias (f : FFmt) : Int := 2 ^ (f.eb - 1) - 1
def FFmt.width (f : FFmt) : Nat := 1 + f.eb + f.mb
def FFmt.signBit (f : FFmt) : Nat := 2 ^ (f.eb + f.mb)
def FFmt.infBits (f : FFmt) : Nat := (2 ^ f.eb - 1) * 2 ^ f.mb
/-- The canonical quiet NaN (R143). -/
def FFmt.nanBits (f : FFmt) : Nat := f.infBits + 2 ^ (f.mb - 1)

/-- A bit pattern's meaning (R48). -/
def FFmt.decode (f : FFmt) (x : Nat) : FVal :=
  let neg := bit x (f.eb + f.mb)
  let ex := bits x (f.eb + f.mb - 1) f.mb
  let fr := x % 2 ^ f.mb
  if ex = 2 ^ f.eb - 1 then (if fr = 0 then .inf neg else .nan)
  else if ex = 0 then .fin neg fr (1 - f.bias - f.mb)
  else .fin neg (2 ^ f.mb + fr) (ex - f.bias - f.mb)

/-- `⌊n / d⌋` rounded to nearest, ties to even. -/
def divRne (n d : Nat) : Nat :=
  let q := n / d
  let r := n % d
  if 2 * r > d then q + 1 else if 2 * r = d ∧ q % 2 = 1 then q + 1 else q

/-- The pattern nearest to ±n / d, d above 0, n 0 giving a signed zero: subnormals kept, an overflow to infinity (R142, R144). -/
def FFmt.round (f : FFmt) (neg : Bool) (n d : Nat) : Nat :=
  let sg := if neg then f.signBit else 0
  if n = 0 then sg
  else
    let k0 : Int := (Nat.log2 n : Int) - Nat.log2 d
    -- k is the exponent with 2^k ≤ n/d < 2^(k+1)
    let below := if k0 ≥ 0 then decide (n < d * 2 ^ k0.toNat) else decide (n * 2 ^ (-k0).toNat < d)
    let k : Int := if below then k0 - 1 else k0
    let kmin : Int := 1 - f.bias
    let u : Int := (if k < kmin then kmin else k) - f.mb
    let q := if u ≥ 0 then divRne n (d * 2 ^ u.toNat) else divRne (n * 2 ^ (-u).toNat) d
    -- q × 2^u, with q up to 2^(mb+1)
    let body : Int := if k < kmin then (q : Int) else (k + f.bias) * 2 ^ f.mb + ((q : Int) - 2 ^ f.mb)
    if body.toNat ≥ f.infBits then sg + f.infBits else sg + body.toNat

/-- The pattern nearest to ±m × 2^e. -/
def FFmt.roundDyadic (f : FFmt) (neg : Bool) (m : Nat) (e : Int) : Nat :=
  if e ≥ 0 then f.round neg (m * 2 ^ e.toNat) 1 else f.round neg m (2 ^ (-e).toNat)

/-- The exact integer i × 2^e rounded; an exact zero is `zneg`'s zero. -/
def FFmt.roundInt (f : FFmt) (i : Int) (e : Int) (zneg : Bool) : Nat :=
  if i = 0 then (if zneg then f.signBit else 0) else f.roundDyadic (decide (i < 0)) i.natAbs e

/-- A signed mantissa. -/
def sgn (neg : Bool) (m : Nat) : Int := if neg then -(m : Int) else m

/-- The exact sum of two dyadic numbers: mantissa and exponent. -/
def dyAdd (i : Int) (e : Int) (j : Int) (g : Int) : Int × Int :=
  let m := min e g
  (i * 2 ^ (e - m).toNat + j * 2 ^ (g - m).toNat, m)

def nan32 : Nat := 0x7FC00000
def inf32 (neg : Bool) : Nat := if neg then 0xFF800000 else 0x7F800000

/-- `ffma(a, b, c)` of R142. -/
def ffma (a b c : Nat) : Nat :=
  match fp32.decode a, fp32.decode b, fp32.decode c with
  | .nan, _, _ => nan32
  | _, .nan, _ => nan32
  | _, _, .nan => nan32
  | .inf s, .inf t, .inf u => if xor s t = u then inf32 u else nan32
  | .inf s, .inf t, .fin _ _ _ => inf32 (xor s t)
  | .inf s, .fin t m _, z => if m = 0 then nan32 else
      match z with
      | .inf u => if xor s t = u then inf32 u else nan32
      | _ => inf32 (xor s t)
  | .fin s m _, .inf t, z => if m = 0 then nan32 else
      match z with
      | .inf u => if xor s t = u then inf32 u else nan32
      | _ => inf32 (xor s t)
  | .fin _ _ _, .fin _ _ _, .inf u => inf32 u
  | .fin s m e, .fin t n g, .fin u o h =>
    let ps := xor s t
    let r := dyAdd (sgn ps (m * n)) (e + g) (sgn u o) h
    fp32.roundInt r.1 r.2 (m * n = 0 && o = 0 && ps && u)

/-- `fadd`, `fsub` and `fmul` of R142. -/
def fadd (a b : Nat) : Nat :=
  match fp32.decode a, fp32.decode b with
  | .nan, _ => nan32
  | _, .nan => nan32
  | .inf s, .inf t => if s = t then inf32 s else nan32
  | .inf s, _ => inf32 s
  | _, .inf t => inf32 t
  | .fin s m e, .fin t n g =>
    let r := dyAdd (sgn s m) e (sgn t n) g
    fp32.roundInt r.1 r.2 (m = 0 && n = 0 && s && t)

/-- The pattern with its sign changed. -/
def fneg (a : Nat) : Nat := if bit a 31 then a - 2 ^ 31 else a + 2 ^ 31

def fsub (a b : Nat) : Nat := fadd a (fneg b)

def fmul (a b : Nat) : Nat :=
  match fp32.decode a, fp32.decode b with
  | .nan, _ => nan32
  | _, .nan => nan32
  | .inf s, .inf t => inf32 (xor s t)
  | .inf s, .fin t m _ => if m = 0 then nan32 else inf32 (xor s t)
  | .fin s m _, .inf t => if m = 0 then nan32 else inf32 (xor s t)
  | .fin s m e, .fin t n g => fp32.roundDyadic (xor s t) (m * n) (e + g)

/-- `fdiv` of R142. -/
def fdiv (a b : Nat) : Nat :=
  match fp32.decode a, fp32.decode b with
  | .nan, _ => nan32
  | _, .nan => nan32
  | .inf _, .inf _ => nan32
  | .inf s, .fin t _ _ => inf32 (xor s t)
  | .fin s _ _, .inf t => if xor s t then 2 ^ 31 else 0
  | .fin s m e, .fin t n g =>
    if n = 0 then (if m = 0 then nan32 else inf32 (xor s t))
    else
      let x := e - g
      if x ≥ 0 then fp32.round (xor s t) (m * 2 ^ x.toNat) n else fp32.round (xor s t) m (n * 2 ^ (-x).toNat)

def one32 : Nat := 0x3F800000
def half32 : Nat := 0x3F000000
def negInf32 : Nat := 0xFF800000

/-- `frecip` of R142. -/
def frecip (a : Nat) : Nat := fdiv one32 a

/-- The square root of n rounded down, by Newton's steps; `fuel` bounds their number. -/
def isqrtLoop (n : Nat) : Nat → Nat → Nat
  | 0, x => x
  | k + 1, x => let y := (x + n / x) / 2; if y < x then isqrtLoop n k y else x

def isqrt (n : Nat) : Nat := if n = 0 then 0 else isqrtLoop n 400 (2 ^ (Nat.log2 n / 2 + 1))

/-- `frsqrt` of R142: the root is found to 200 bits below the point, with a last bit that marks an inexact one. -/
def frsqrt (a : Nat) : Nat :=
  match fp32.decode a with
  | .nan => nan32
  | .inf true => nan32
  | .inf false => 0
  | .fin s m e =>
    if m = 0 then inf32 s
    else if s then nan32
    else
      let num := if e ≥ 0 then 2 ^ 400 else 2 ^ 400 * 2 ^ (-e).toNat
      let den := if e ≥ 0 then m * 2 ^ e.toNat else m
      let q := num / den
      let r := isqrt q
      let exact := r * r = q ∧ q * den = num
      fp32.round false (if exact then 2 * r else 2 * r + 1) (2 ^ 201)

/-- The fraction bits of the fixed-point evaluation of the two transcendental primitives (log entry 8). -/
def fxBits : Nat := 512

/-- The sum of x^k / k! from k on, in fixed point, `n` terms. -/
def expTerms (x : Nat) : Nat → Nat → Nat → Nat
  | 0, _, _ => 0
  | n + 1, k, t => t + expTerms x n (k + 1) (t * x / 2 ^ fxBits / (k + 1))

/-- Squared `n` times in fixed point. -/
def fxSquare : Nat → Nat → Nat
  | 0, y => y
  | n + 1, y => fxSquare n (y * y / 2 ^ fxBits)

/-- e^x for a fixed-point x from 0 to below 2^9, in fixed point: the series of x / 2^10, squared ten times. -/
def fxExp (x : Nat) : Nat := fxSquare 10 (expTerms (x / 2 ^ 10) 80 0 (2 ^ fxBits))

/-- |x| in fixed point. -/
def fxOf (m : Nat) (e : Int) : Nat :=
  let s := e + fxBits
  if s ≥ 0 then m * 2 ^ s.toNat else m / 2 ^ (-s).toNat

/-- `fexp` of R142. Beyond ±128 in magnitude the result is infinite or rounds to zero. -/
def fexp (a : Nat) : Nat :=
  match fp32.decode a with
  | .nan => nan32
  | .inf true => 0
  | .inf false => inf32 false
  | .fin s m e =>
    if m = 0 then one32
    else
      let x := fxOf m e
      if x ≥ 128 * 2 ^ fxBits then (if s then 0 else inf32 false)
      else
        let y := fxExp x
        if s then fp32.round false (2 ^ fxBits) y else fp32.round false y (2 ^ fxBits)

/-- `ftanh` of R142. At 16 and beyond the result rounds to ±1. -/
def ftanh (a : Nat) : Nat :=
  match fp32.decode a with
  | .nan => nan32
  | .inf s => if s then one32 + 2 ^ 31 else one32
  | .fin s m e =>
    if m = 0 then a
    else
      let x := fxOf m e
      if x ≥ 16 * 2 ^ fxBits then (if s then one32 + 2 ^ 31 else one32)
      else
        let y := fxExp (2 * x)
        fp32.round s (y - 2 ^ fxBits) (y + 2 ^ fxBits)

/-- a is the larger of two numbers, +0 above −0. -/
def fgt (a b : Nat) : Bool :=
  let k := fun x : Nat => if bit x 31 then -((x - 2 ^ 31 : Nat) : Int) - 1 else (x : Int)
  decide (k a > k b)

def isNan32 (a : Nat) : Bool := fp32.decode a == .nan

def fmax (a b : Nat) : Nat := if isNan32 a || isNan32 b then nan32 else if fgt a b then a else b
def fmin (a b : Nat) : Nat := if isNan32 a || isNan32 b then nan32 else if fgt a b then b else a

/-- A value of one format in another: exact when widened, rounded under R144 when narrowed. -/
def fconv (src dst : FFmt) (x : Nat) : Nat :=
  match src.decode x with
  | .nan => dst.nanBits
  | .inf s => (if s then dst.signBit else 0) + dst.infBits
  | .fin s m e => dst.roundDyadic s m e

/-- `fint(x, b)` of R145. -/
def fint (x b : Nat) : Int :=
  match fp32.decode x with
  | .nan => 0
  | .inf s => if s then -(2 ^ (b - 1)) else 2 ^ (b - 1) - 1
  | .fin s m e =>
    let q := if e ≥ 0 then m * 2 ^ e.toNat else divRne m (2 ^ (-e).toNat)
    sat (sgn s q) b

/-- `fint` has clamped, or has converted a NaN (R152). -/
def fintClamps (x b : Nat) : Bool :=
  match fp32.decode x with
  | .nan => true
  | .inf _ => true
  | .fin s m e =>
    let q := if e ≥ 0 then m * 2 ^ e.toNat else divRne m (2 ^ (-e).toNat)
    sat (sgn s q) b != sgn s q

/-- `fcvt(v)` of R145. -/
def fcvt (v : Int) : Nat := fp32.roundInt v 0 false

/-! ### The fixed reduction tree (R147) -/

/-- Neighbouring pairs combined. -/
def pairUp (op : Nat → Nat → Nat) : List Nat → List Nat
  | a :: b :: t => op a b :: pairUp op t
  | l => l

def treeLoop (op : Nat → Nat → Nat) : Nat → List Nat → List Nat
  | 0, l => l
  | n + 1, l => treeLoop op n (pairUp op l)

/-- The least power of two that is at least n, as an exponent. -/
def pow2Above (n : Nat) : Nat := if n ≤ 1 then 0 else Nat.log2 (n - 1) + 1

/-- `tree(v, n, op, ident)` of R147. -/
def treeRed (op : Nat → Nat → Nat) (ident : Nat) (v : List Nat) : Nat :=
  let k := pow2Above v.length
  (treeLoop op k (v ++ List.replicate (2 ^ k - v.length) ident)).headD ident

def treeSum (v : List Nat) : Nat := treeRed fadd 0 v
def treeMax (v : List Nat) : Nat := treeRed fmax negInf32 v
def fdot (a b : List Nat) : Nat := treeSum (List.zipWith fmul a b)

/-! ### Composite functions (R150) -/

def sigmoid (x : Nat) : Nat := frecip (fadd one32 (fexp (fsub (2 ^ 31) x)))

/-- The FP32 constants of R150, each nearest to its decimal (R146). -/
def geluC1 : Nat := fp32.round false 44715 1000000
def geluC2 : Nat := fp32.round false 7978845608 10000000000

def gelu (x : Nat) : Nat :=
  let x3 := fmul (fmul x x) x
  let u := ffma geluC1 x3 x
  let t := ftanh (fmul geluC2 u)
  fmul (fmul half32 x) (fadd one32 t)

/-- `softmax`, and whether the row counts as empty. -/
def softmax (x : List Nat) : List Nat × Bool :=
  let m := treeMax x
  if m = negInf32 then (x.map fun _ => 0, true)
  else
    let e := x.map fun v => fexp (fsub v m)
    let s := treeSum e
    (e.map fun v => fdiv v s, false)

def layernorm (x g b : List Nat) (eps : Nat) : List Nat :=
  let nf := fcvt x.length
  let mean := fdiv (treeSum x) nf
  let d := x.map fun v => fsub v mean
  let var := fdiv (treeSum (d.map fun v => fmul v v)) nf
  let r := frsqrt (fadd var eps)
  List.zipWith (fun p bi => ffma (fmul p.1 r) p.2 bi) (d.zip g) b

def rmsnorm (x g : List Nat) (eps : Nat) : List Nat :=
  let nf := fcvt x.length
  let r := frsqrt (fadd (fdiv (treeSum (x.map fun v => fmul v v)) nf) eps)
  List.zipWith (fun v gi => fmul (fmul v r) gi) x g

end Sys2Proof.Machine
end

