-- ==== Sys2Proof/Machine/VecOps.lean ====
section
/-! DEFINITION. VECOP and ATTN: their fields (R148, R158), the values they compute (R149 to R152, R159, R160) and their cycles
(R153, R164, R165). -/

namespace Sys2Proof.Machine

/-- The fields of R148. -/
structure Vop where
  func : Nat
  inFmt : Nat
  outFmt : Nat
  exc : Bool
  complete : Bool
  waypoint : Bool
  rows : Nat
  len : Nat
  xBase : Nat
  xTag : Nat
  xStride : Nat
  xPlane : Nat
  yBase : Nat
  yTag : Nat
  yStride : Nat
  zBase : Nat
  zTag : Nat
  zStride : Nat
  oBase : Nat
  oTag : Nat
  oStride : Nat
  imm : Nat
  decl : Nat
deriving DecidableEq, Repr

def Vop.ofCmd (c : CmdWords) : Vop where
  func := c.f 0 15 8
  inFmt := c.f 0 35 32
  outFmt := c.f 0 39 36
  exc := c.f 0 45 45 = 1
  complete := c.f 0 46 46 = 1
  waypoint := c.f 0 47 47 = 1
  rows := c.f 1 15 0 + 1
  len := c.f 1 31 16 + 1
  xBase := c.f 2 21 0
  xTag := c.f 2 29 22
  xStride := c.f 2 45 30
  xPlane := c.f 2 63 46
  yBase := c.f 3 21 0
  yTag := c.f 3 29 22
  yStride := c.f 3 45 30
  zBase := c.f 4 21 0
  zTag := c.f 4 29 22
  zStride := c.f 4 45 30
  oBase := c.f 5 21 0
  oTag := c.f 5 29 22
  oStride := c.f 5 45 30
  imm := c.f 6 31 0
  decl := c.f 7 31 0

/-- How a function takes an operand: none, one per element, or one row for all (R149). -/
inductive OpKind where
  | none | full | row
deriving DecidableEq, Repr

/-- A function's row of R149: Y, Z, the cost c and the phases r; none for a reserved code. -/
def Vop.spec (v : Vop) : Option (OpKind × OpKind × Nat × Nat) :=
  match v.func with
  | 0x00 => some (.none, .none, 1, 0)
  | 0x01 | 0x02 | 0x03 => some (.full, .none, 1, 0)
  | 0x04 => some (.full, .full, 1, 0)
  | 0x05 | 0x06 => some (.full, .none, 1, 0)
  | 0x07 => some (.row, .row, 1, 0)
  | 0x10 => some (.none, .none, 1, 0)
  | 0x11 => some (.none, .none, 9, 0)
  | 0x12 => some (.none, .none, 6, 0)
  | 0x13 => some (.none, .none, 5, 0)
  | 0x14 | 0x15 | 0x16 | 0x17 => some (.none, .none, 2, 0)
  | 0x20 => some (.none, .none, 8, 2)
  | 0x21 => some (.row, .row, 6, 2)
  | 0x22 => some (.row, .none, 4, 1)
  | 0x23 | 0x24 => some (.none, .none, 1, 1)
  | 0x30 | 0x31 | 0x32 => some (.row, .none, 2, 0)
  | _ => none

def isFloatFmt (f : Nat) : Bool := f ≤ 2

/-- The pairing of function and formats of R149. -/
def Vop.fmtOk (v : Vop) : Bool :=
  if v.func = 0x30 then isFloatFmt v.inFmt && v.outFmt == 3
  else if v.func = 0x31 then (v.inFmt == 3 || v.inFmt == 4 || v.inFmt == 5) && isFloatFmt v.outFmt
  else if v.func = 0x32 then v.inFmt == 4 && (v.outFmt == 3 || v.outFmt == 6)
  else v.spec.isSome && isFloatFmt v.inFmt && isFloatFmt v.outFmt

/-- The element's row bytes of a format (R151). -/
def fmtRow (fmt len : Nat) : Nat :=
  if fmt = 0 ∨ fmt = 4 then 4 * len else if fmt = 1 ∨ fmt = 2 then 2 * len else if fmt = 6 then ceilDiv len 2 else len

/-- REDUCE_SUM and REDUCE_MAX write one element a row (R151). -/
def Vop.outLen (v : Vop) : Nat := if v.func = 0x23 ∨ v.func = 0x24 then 1 else v.len

/-- The bytes of the Y row or element row: a parameter table for QUANTIZE, DEQUANT and REQUANT (R149). -/
def Vop.yRow (v : Vop) : Nat :=
  if v.func = 0x30 ∨ v.func = 0x31 then 8 * v.len else if v.func = 0x32 then 16 * v.len else fmtRow v.inFmt v.len

/-- `vec_cycles` of R153 at C enabled tile-columns. -/
def Vop.cycles (v : Vop) (c : Nat) : Nat :=
  match v.spec with
  | none => 64
  | some (_, _, k, r) => 64 + ceilDiv (v.rows * v.len) (64 * c) * k + 16 * r

/-- The float element i of a row in a format, as FP32 (R142). -/
def floatAt (rd : Nat → Byte) (fmt row i : Nat) : Nat :=
  if fmt = 1 then fconv fp16 fp32 (leNat [rd (row + 2 * i), rd (row + 2 * i + 1)])
  else if fmt = 2 then fconv bf16 fp32 (leNat [rd (row + 2 * i), rd (row + 2 * i + 1)])
  else leNat ((rangeFrom (row + 4 * i) 4).map rd)

/-- An integer element of an input row (R149). -/
def Vop.intAt (v : Vop) (rd : Nat → Byte) (r i : Nat) : Int :=
  let row := (v.xBase + r * v.xStride) * 64
  if v.inFmt = 4 then signed (leNat ((rangeFrom (row + 4 * i) 4).map rd)) 32
  else if v.inFmt = 5 then signed (rd (row + i)).toNat 8 * 256 + signed (rd (row + v.xPlane * 64 + i)).toNat 8
  else signed (rd (row + i)).toNat 8

/-- A float result as an output writes it: the pattern, and what the exception record counts of it: NaN, infinity, overflow
(R143, R144, R152). -/
def outFloat (fmt x : Nat) : Nat × Bool × Bool × Bool :=
  let f := if fmt = 1 then fp16 else if fmt = 2 then bf16 else fp32
  let y := if fmt = 0 then (if isNan32 x then nan32 else x) else fconv fp32 f x
  let isInf := y % f.signBit == f.infBits
  (y, f.decode y == .nan, isInf, isInf && x % 2 ^ 31 != 0x7F800000)

/-- The exception record's counts (R152). -/
structure Exc where
  nan : Nat
  inf : Nat
  clamp : Nat
  empty : Nat
deriving DecidableEq, Repr

def Exc.add (a b : Exc) : Exc := ⟨a.nan + b.nan, a.inf + b.inf, a.clamp + b.clamp, a.empty + b.empty⟩

/-- The 8 bytes of the record, each count saturating (R152). -/
def Exc.bytes (x : Exc) : List Byte :=
  toLe 2 (min x.nan 65535) ++ toLe 2 (min x.inf 65535) ++ toLe 2 (min x.clamp 65535) ++ toLe 2 (min x.empty 65535)

/-- A row of float results as bytes, with its counts. -/
def floatRow (fmt : Nat) (l : List Nat) : List Byte × Exc :=
  let o := l.map (outFloat fmt)
  (o.flatMap fun p => toLe (if fmt = 0 then 4 else 2) p.1,
   ⟨o.countP (·.2.1), o.countP (·.2.2.1), o.countP (·.2.2.2), 0⟩)

/-- The element-wise results of one row (R149), for functions whose output is float. -/
def Vop.floatOuts (v : Vop) (rd : Nat → Byte) (r : Nat) : List Nat × Bool :=
  let xr := (v.xBase + r * v.xStride) * 64
  let x := (rangeFrom 0 v.len).map fun i => floatAt rd v.inFmt xr i
  let full := fun (base stride : Nat) => (rangeFrom 0 v.len).map fun i => floatAt rd v.inFmt ((base + r * stride) * 64) i
  let y := full v.yBase v.yStride
  let z := full v.zBase v.zStride
  match v.func with
  | 0x00 => (x, false)
  | 0x01 => (List.zipWith fadd x y, false)
  | 0x02 => (List.zipWith fsub x y, false)
  | 0x03 => (List.zipWith fmul x y, false)
  | 0x04 => (List.zipWith (fun p c => ffma p.1 p.2 c) (x.zip y) z, false)
  | 0x05 => (List.zipWith fmax x y, false)
  | 0x06 => (List.zipWith fmin x y, false)
  | 0x07 => (List.zipWith (fun p c => ffma p.1 p.2 c) (x.zip y) z, false)
  | 0x10 => (x.map fun a => fmax a 0, false)
  | 0x11 => (x.map gelu, false)
  | 0x12 => (x.map fun a => fmul a (sigmoid a), false)
  | 0x13 => (x.map sigmoid, false)
  | 0x14 => (x.map ftanh, false)
  | 0x15 => (x.map fexp, false)
  | 0x16 => (x.map frsqrt, false)
  | 0x17 => (x.map frecip, false)
  | 0x20 => softmax x
  | 0x21 => (layernorm x y z v.imm, false)
  | 0x22 => (rmsnorm x y v.imm, false)
  | 0x23 => ([treeSum x], false)
  | 0x24 => ([treeMax x], false)
  | 0x31 =>
    ((rangeFrom 0 v.len).map fun i =>
      let e := (rangeFrom (v.yBase * 64 + 8 * i) 8).map rd
      let zp := signed (fieldAt e 4 1) 8
      fmul (fcvt (v.intAt rd r i - (if v.inFmt = 5 then 256 * zp else zp))) (fieldAt e 0 4), false)
  | _ => (x, false)

/-- The integer results of one row: QUANTIZE and REQUANT, with their clamps (R149). -/
def Vop.intOuts (v : Vop) (rd : Nat → Byte) (r : Nat) : List (Int × Bool) :=
  (rangeFrom 0 v.len).map fun i =>
    if v.func = 0x30 then
      let e := (rangeFrom (v.yBase * 64 + 8 * i) 8).map rd
      let t := fmul (floatAt rd v.inFmt ((v.xBase + r * v.xStride) * 64) i) (fieldAt e 0 4)
      let y := fint t 32 + signed (fieldAt e 4 1) 8
      (sat y 8, fintClamps t 32 || sat y 8 != y)
    else
      let e := (rangeFrom (v.yBase * 64 + 16 * i) 16).map rd
      requant (v.intAt rd r i) (signed (fieldAt e 0 4) 32) (fieldAt e 8 1 % 64) (signed (fieldAt e 9 1) 8)
        (if v.outFmt = 6 then 4 else 8) none

/-- The fields that R148 gives as 0: an operand that the function does not read, and IMM but for the normalizations (log entry 11). -/
def Vop.zeroOk (v : Vop) : Bool :=
  (v.func == 0x21 || v.func == 0x22 || v.imm == 0) &&
  match v.spec with
  | none => true
  | some (y, z, _, _) =>
    (y != .none || (v.yBase == 0 && v.yTag == 0 && v.yStride == 0)) && (z != .none || (v.zBase == 0 && v.zTag == 0 && v.zStride == 0))

/-- The byte ranges of a tensor's rows in the window. -/
def rowRanges (base stride n bytes : Nat) : List (Nat × Nat) := (rangeFrom 0 n).map fun i => ((base + i * stride) * 64, bytes)

/-- The ranges that a VECOP reads, X apart when the output stands in its place (R154). -/
def Vop.inRanges (v : Vop) : List (Nat × Nat) :=
  let row := fmtRow v.inFmt v.len
  let op := fun (o : OpKind) (base stride bytes : Nat) =>
    match o with
    | .none => []
    | .full => rowRanges base stride v.rows bytes
    | .row => [(base * 64, bytes)]
  (if v.oTag = v.xTag ∧ v.oBase = v.xBase ∧ v.oStride = v.xStride then [] else rowRanges v.xBase v.xStride v.rows row)
  ++ (if v.inFmt = 5 then rowRanges (v.xBase + v.xPlane) v.xStride v.rows v.len else [])
  ++ (match v.spec with
    | none => []
    | some (y, z, _, _) => op y v.yBase v.yStride v.yRow ++ op z v.zBase v.zStride row)

/-- The output overlaps an input in a way other than R154's: it has no defined value. -/
def Vop.clashes (v : Vop) : Bool :=
  let o := rowRanges v.oBase v.oStride v.rows (fmtRow v.outFmt v.outLen)
  v.inRanges.any fun p => o.any fun q => decide (p.1 < q.1 + q.2) && decide (q.1 < p.1 + p.2)

/-- One row's output bytes and counts. -/
def Vop.rowOut (v : Vop) (rd : Nat → Byte) (r : Nat) : List Byte × Exc :=
  if v.func = 0x30 ∨ v.func = 0x32 then
    let o := v.intOuts rd r
    let b := if v.outFmt = 6 then packNibbles (o.map fun p => wrapInt p.1 4)
      else o.map fun p => BitVec.ofNat 8 (wrapInt p.1 8)
    (b, ⟨0, 0, o.countP (·.2), 0⟩)
  else
    let o := v.floatOuts rd r
    let f := floatRow v.outFmt o.1
    (f.1, f.2.add ⟨0, 0, 0, b2n o.2⟩)

/-- What a VECOP writes into the window: byte offsets and bytes, each row read in full before it is written (R151, R152, R154), and the counts
of its exceptions. -/
def Vop.result (v : Vop) (rd : Nat → Byte) : List (Nat × List Byte) × Exc :=
  let rows := (rangeFrom 0 v.rows).map fun r => v.rowOut rd r
  let out := (rangeFrom 0 v.rows).map fun r => ((v.oBase + r * v.oStride) * 64, (rows.getD r ([], ⟨0, 0, 0, 0⟩)).1)
  let exc := rows.foldl (fun (a : Exc) (r : List Byte × Exc) => a.add r.2) ⟨0, 0, 0, 0⟩
  (out ++ (if v.exc then [((v.oBase + v.rows * v.oStride) * 64, exc.bytes)] else []), exc)

/-! ### ATTN -/

/-- The fields of R158. -/
structure Attn where
  kvFmt : Nat
  qFmt : Nat
  outFmt : Nat
  dSel : Nat
  causal : Bool
  init : Bool
  final : Bool
  exc : Bool
  complete : Bool
  waypoint : Bool
  posStart : Nat
  posLast : Nat
  nq : Nat
  qBase : Nat
  qTag : Nat
  qStride : Nat
  ptBase : Nat
  ptTag : Nat
  oBase : Nat
  oTag : Nat
  oStride : Nat
  sBase : Nat
  sTag : Nat
  ringBase : Nat
  ringTag : Nat
  depth : Nat
  scale : Nat
  qPos0 : Nat
  qGroup : Nat
  decl : Nat
deriving DecidableEq, Repr

def Attn.ofCmd (c : CmdWords) : Attn where
  kvFmt := c.f 0 9 8
  qFmt := c.f 0 11 10
  outFmt := c.f 0 13 12
  dSel := c.f 0 15 14
  causal := c.f 0 32 32 = 1
  init := c.f 0 33 33 = 1
  final := c.f 0 34 34 = 1
  exc := c.f 0 45 45 = 1
  complete := c.f 0 46 46 = 1
  waypoint := c.f 0 47 47 = 1
  posStart := c.f 1 21 0
  posLast := c.f 1 43 22
  nq := c.f 1 59 44 + 1
  qBase := c.f 2 21 0
  qTag := c.f 2 29 22
  qStride := c.f 2 45 30
  ptBase := c.f 3 21 0
  ptTag := c.f 3 29 22
  oBase := c.f 4 21 0
  oTag := c.f 4 29 22
  oStride := c.f 4 45 30
  sBase := c.f 5 21 0
  sTag := c.f 5 29 22
  ringBase := c.f 5 51 30
  ringTag := c.f 5 59 52
  depth := c.f 5 63 60 + 1
  scale := c.f 6 31 0
  qPos0 := c.f 6 53 32
  qGroup := c.f 6 60 54 + 1
  decl := c.f 7 31 0

/-- d, and the positions in a page (R155). -/
def Attn.d (a : Attn) : Nat := 64 * 2 ^ a.dSel
def Attn.npp (a : Attn) : Nat := 65536 / (2 * a.d)

/-- The blocks of R160, first and last. -/
def Attn.b0 (a : Attn) : Nat := a.posStart / a.npp
def Attn.b1 (a : Attn) : Nat := a.posLast / a.npp
def Attn.nblocks (a : Attn) : Nat := a.b1 + 1 - a.b0

/-- The state tensor's stride (R158). -/
def Attn.sStride (a : Attn) : Nat := ceilDiv ((a.d + 2) * 4) 64

/-- `blk` and `attn_cycles` of R164 at C enabled tile-columns. -/
def Attn.blk (a : Attn) (c : Nat) : Nat :=
  let l := 64 * c
  2 * ceilDiv (a.nq * a.npp * a.d) l + 3 * ceilDiv (a.nq * a.npp) l + 2 * ceilDiv (a.nq * a.d) l + 24

def Attn.finalCycles (a : Attn) (c : Nat) : Nat := 64 + (if a.final then 4 * ceilDiv (a.nq * a.d) (64 * c) else 0)

def Attn.cycles (a : Attn) (c : Nat) : Nat := a.nblocks * a.blk c + a.finalCycles c

/-- The cycles of a save or a restore (R165). -/
def Attn.saveCycles (a : Attn) (c : Nat) : Nat := ceilDiv (a.nq * (a.d + 2)) (64 * c) + 16

/-- The blocks of the next segment when `left` blocks remain, for a quantum of `q` array cycles (R165). -/
def Attn.segment (a : Attn) (c q left : Nat) : Nat := min left (max 1 (q / a.blk c))

/-- The cycles of a segment of n blocks, and whether it is the last (R165). -/
def Attn.segCycles (a : Attn) (c q left n : Nat) : Nat × Bool :=
  let t := n * a.blk c
  if left = n ∧ (n = 0 ∨ t + a.finalCycles c ≤ q) then (t + a.finalCycles c, true) else (t, false)

/-- Position j is valid for query row r (R159). -/
def Attn.valid (a : Attn) (r j : Nat) : Bool :=
  decide (a.posStart ≤ j) && decide (j ≤ a.posLast) && (!a.causal || decide (j ≤ a.qPos0 + r / a.qGroup))


def Attn.float (fmt : Nat) (rd : Nat → Byte) (at_ : Nat) : Nat :=
  fconv (if fmt = 1 then fp16 else bf16) fp32 (leNat [rd at_, rd (at_ + 1)])

/-- The page of a block in the page table: 0 for K, 1 for V (R156). -/
def Attn.page (a : Attn) (rd : Nat → Byte) (b kv : Nat) : Nat :=
  leNat ((rangeFrom (a.ptBase * 64 + 8 * b + 4 * kv) 4).map rd)

/-- Where a block's K or V page stands in the ring: slot b mod depth, the K page before the V page (R162; log entry 16). -/
def Attn.slotAt (a : Attn) (b kv : Nat) : Nat := a.ringBase * 64 + b % a.depth * 131072 + kv * 65536

/-- The bytes of a block's K or V page that ATTN reads: positions up to POS_LAST (R160). -/
def Attn.pageLen (a : Attn) (b : Nat) : Nat := min a.npp (a.posLast + 1 - b * a.npp) * (2 * a.d)

/-- Element i of the key or value of position j, in the ring (R155). -/
def Attn.kvEl (a : Attn) (rd : Nat → Byte) (kv j i : Nat) : Nat :=
  Attn.float a.kvFmt rd (a.slotAt (j / a.npp) kv + 2 * a.d * (j % a.npp) + 2 * i)

/-- One block of R160 for a query row. -/
def Attn.block (a : Attn) (rd : Nat → Byte) (q : List Nat) (r b : Nat) (st : AttnRow) : AttnRow :=
  let ts := rangeFrom 0 a.npp
  let s := ts.map fun t =>
    let j := b * a.npp + t
    if a.valid r j then fmul (fdot q ((rangeFrom 0 a.d).map fun i => a.kvEl rd 0 j i)) a.scale else negInf32
  let mNew := fmax st.m (treeMax s)
  if mNew = negInf32 then st
  else
    let alpha := if st.m = negInf32 then 0 else fexp (fsub st.m mNew)
    let p := s.map fun x => if x = negInf32 then 0 else fexp (fsub x mNew)
    { m := mNew
      l := ffma st.l alpha (treeSum p)
      o := (rangeFrom 0 a.d).map fun i =>
        let pv := ts.map fun t =>
          let j := b * a.npp + t
          if a.valid r j then fmul (p.getD t 0) (a.kvEl rd 1 j i) else 0
        ffma (st.o.getD i 0) alpha (treeSum pv) }

/-- A query row's elements in FP32. -/
def Attn.query (a : Attn) (rd : Nat → Byte) (r : Nat) : List Nat :=
  (rangeFrom 0 a.d).map fun i =>
    let row := (a.qBase + r * a.qStride) * 64
    if a.qFmt = 0 then leNat ((rangeFrom (row + 4 * i) 4).map rd)
    else fconv (if a.qFmt = 1 then bf16 else fp16) fp32 (leNat [rd (row + 2 * i), rd (row + 2 * i + 1)])

/-- A query row's state before its first block (R160). -/
def Attn.row0 (a : Attn) (rd : Nat → Byte) (r : Nat) : AttnRow :=
  if a.init then ⟨negInf32, 0, List.replicate a.d 0⟩
  else
    let base := (a.sBase + r * a.sStride) * 64
    let w := fun k => leNat ((rangeFrom (base + 4 * k) 4).map rd)
    ⟨w 0, w 1, (rangeFrom 2 a.d).map w⟩

def Attn.rows0 (a : Attn) (rd : Nat → Byte) : List AttnRow := (rangeFrom 0 a.nq).map (a.row0 rd)

/-- Every row's state after one more block (R160). -/
def Attn.rowsBlock (a : Attn) (rd : Nat → Byte) (b : Nat) (rows : List AttnRow) : List AttnRow :=
  rows.zipIdx.map fun p => a.block rd (a.query rd p.2) p.2 b p.1

/-- A state row's bytes: a NaN in it as the canonical one (R143, R158). -/
def AttnRow.bytes (x : AttnRow) : List Byte := (x.m :: x.l :: x.o).flatMap fun v => toLe 4 (outFloat 0 v).1

/-- The state tensor's bytes (R158). -/
def Attn.stateWrites (a : Attn) (rows : List AttnRow) : List (Nat × List Byte) :=
  rows.zipIdx.map fun p => ((a.sBase + p.2 * a.sStride) * 64, p.1.bytes)

/-- What an ATTN writes when it completes: the state tensor, the output when FINAL is 1, and the exception record (R152, R158,
R160), with its counts. -/
def Attn.result (a : Attn) (rows : List AttnRow) : List (Nat × List Byte) × Exc :=
  let fmt := if a.outFmt = 1 then 2 else if a.outFmt = 2 then 1 else 0
  let outs := rows.map fun x =>
    floatRow fmt (x.o.map fun v => if x.l % 2 ^ 31 = 0 then 0 else fdiv v x.l)
  let outW := if a.final then outs.zipIdx.map fun p => ((a.oBase + p.2 * a.oStride) * 64, p.1.1) else []
  let empty := rows.countP fun x => x.l % 2 ^ 31 == 0
  let cnt := if a.final then outs.foldl (fun (x : Exc) (p : List Byte × Exc) => x.add p.2) ⟨0, 0, 0, empty⟩ else (⟨0, 0, 0, empty⟩ : Exc)
  let excAt := if a.final then a.oBase + a.nq * a.oStride else a.sBase + a.nq * a.sStride
  (a.stateWrites rows ++ outW ++ (if a.exc then [(excAt * 64, cnt.bytes)] else []), cnt)

end Sys2Proof.Machine
end

