-- ==== Sys2Proof/Machine/Program.lean ====
section
/-! DEFINITION. Chart images and programs: the header (R105), the weight descriptors (R106), the commands with the tags they read and
write, and the checks of R122 in the order of R603. -/

namespace Sys2Proof.Machine

/-- The run and load statuses of R131. -/
def stOk : Nat := 0x00
def stCancelled : Nat := 0x01
def stCancelledPartial : Nat := 0x02
def stTooLate : Nat := 0x03
def stNotFound : Nat := 0x04
def stHalted : Nat := 0x05
def stChartInvalid : Nat := 0x10
def stCmdInvalid : Nat := 0x11
def stFormatInvalid : Nat := 0x12
def stShapeInvalid : Nat := 0x13
def stLayoutInvalid : Nat := 0x14
def stTagUndefined : Nat := 0x15
def stBounds : Nat := 0x16
def stDigestMismatch : Nat := 0x17
def stTableFull : Nat := 0x18
def stQuota : Nat := 0x19
def stNoClass : Nat := 0x1A
def stTransferError : Nat := 0x20
def stSaturated : Nat := 0x21
def stTagFault : Nat := 0x22
def stArrayFault : Nat := 0x23
def stArrayOffline : Nat := 0x24
def stReset : Nat := 0x25

/-! ### The header (R105) -/

/-- The chart table's copy of a header, for a chart of a domain at an HBM offset. -/
def headerOf (h : List Byte) (dom ring cid off : Nat) : Chart where
  st := .loading
  dom := dom
  ring := ring
  cid := cid
  hbmOff := off
  size := fieldAt h 16 8
  classMask := fieldAt h 6 1
  count := fieldAt h 8 4
  wdescs := fieldAt h 12 4
  weightOff := fieldAt h 24 8
  designE := fieldAt h 32 1
  designC := fieldAt h 33 1
  lookahead := fieldAt h 34 1
  nargs := fieldAt h 35 1
  spBytes := fieldAt h 36 4
  stBytes := fieldAt h 40 4
  maxDecl := fieldAt h 44 4
  digest := fieldAt h 64 32
  weightDigest := fieldAt h 96 32
  runs := 0
  unloads := []
  tables := []
  lost := false
  written := false

/-- An argument table entry: length and direction (R105). -/
def argLen (h : List Byte) (a : Nat) : Nat := fieldAt h (128 + 16 * a) 4
def argIsOut (h : List Byte) (a : Nat) : Bool := bit (fieldAt h (132 + 16 * a) 1) 0

/-- Order 6 of R603: every header field within R105. The areas follow one another in the order that R105 opens with (log entry 10). -/
def headerOk (h : List Byte) (imageSize : Nat) : Bool :=
  let c := headerOf h 0 0 0 0
  fieldAt h 0 4 == 0x5448434E && fieldAt h 4 2 == 3 && decide (c.classMask < 4) && fieldAt h 7 1 == 0
  && decide (2 ≤ c.count) && decide (c.count ≤ 65536) && decide (c.wdescs ≤ 4096) && c.size == imageSize
  && c.weightOff % 64 == 0 && decide (256 + 64 * c.count + 32 * c.wdescs ≤ c.weightOff) && decide (c.weightOff ≤ c.size)
  && decide (1 ≤ c.designE) && decide (c.designE ≤ 32) && decide (1 ≤ c.designC) && decide (c.designC ≤ 64)
  && decide (1 ≤ c.lookahead) && decide (c.lookahead ≤ 64) && decide (c.nargs ≤ 5)
  && c.spBytes % 64 == 0 && c.stBytes % 64 == 0
  && allZero (slice h 48 16) && allZero (slice h 208 48)
  && (rangeFrom 0 5).all fun a =>
    if a < c.nargs then argLen h a % 64 == 0 && decide (fieldAt h (132 + 16 * a) 1 < 2) && allZero (slice h (133 + 16 * a) 11)
    else allZero (slice h (128 + 16 * a) 16)

/-- Order 7 of R603: a weight descriptor's fault, if any (R106). -/
def wdescFault (c : Chart) (l : List Byte) : Option Nat :=
  let w := WDesc.of l
  if w.len < 64 ∨ w.len > 4294967232 ∨ w.len % 64 ≠ 0 ∨ fieldAt l 12 1 ≥ 2 ∨ allZero (slice l 13 3) = false
      ∨ allZero (slice l 20 12) = false then some stCmdInvalid
  else if !w.fabric && !(decide (c.weightOff ≤ w.source) && decide (w.source + w.len ≤ c.size)) then some stBounds
  else none

/-! ### Commands -/

/-- A decoded program command (R114). -/
inductive PKind where
  | mat (m : Mat)
  | packed (p : Packed) (ps : List Mat)
  | vop (v : Vop)
  | attn (a : Attn)
  | xfer (x : Xfer)
  | release (tag : Nat)
  | barrier
  | done
deriving DecidableEq, Repr

/-- A command's meaning; `table` is the product table of a PACKED command. None for a reserved opcode (R114). -/
def decodeCmd (c : CmdWords) (table : List Byte) : Option PKind :=
  match c.op with
  | 0x01 => some (.mat (Mat.ofCmd c))
  | 0x02 => some (.packed (Packed.ofCmd c) ((Packed.ofCmd c).products table))
  | 0x10 => some (.vop (Vop.ofCmd c))
  | 0x11 => some (.attn (Attn.ofCmd c))
  | 0x20 | 0x21 | 0x22 => some (.xfer (Xfer.ofCmd c))
  | 0x23 => some (.release (releaseTag c))
  | 0x30 => some .barrier
  | 0x3F => some .done
  | _ => none

/-- The tags that a MATMUL or product reads (R118, R119). -/
def Mat.reads (m : Mat) : List Nat :=
  [m.aTag, m.wTag] ++ (if m.accSrc = 2 then [m.accTag] else []) ++ (if m.needsQp then [m.qpTag] else [])

/-- The tags that a command reads. -/
def PKind.reads : PKind → List Nat
  | .mat m => m.reads
  | .packed p ps => p.ptTag :: ps.flatMap Mat.reads
  | .vop v =>
    match v.spec with
    | none => [v.xTag]
    | some (y, z, _, _) => [v.xTag] ++ (if y = .none then [] else [v.yTag]) ++ (if z = .none then [] else [v.zTag])
  | .attn a => [a.qTag, a.ptTag] ++ (if a.init then [] else [a.sTag])
  | .xfer x => if x.op = 0x21 then [x.tag] else []
  | .release _ => []
  | .barrier => []
  | .done => []

/-- The tags that a command writes. -/
def PKind.writes : PKind → List Nat
  | .mat m => [m.oTag]
  | .packed _ ps => ps.map (·.oTag)
  | .vop v => [v.oTag]
  | .attn a => [a.sTag, a.ringTag] ++ (if a.final then [a.oTag] else [])
  | .xfer x => if x.op = 0x21 then [] else [x.tag]
  | .release _ => []
  | .barrier => []
  | .done => []

def PKind.isArray : PKind → Bool
  | .mat _ => true
  | .packed _ _ => true
  | _ => false

def PKind.isVector : PKind → Bool
  | .vop _ => true
  | .attn _ => true
  | _ => false

def PKind.isXfer : PKind → Bool
  | .xfer _ => true
  | _ => false

/-- COMPLETE and WAYPOINT of a command (R135, R445). -/
def PKind.wantsComplete : PKind → Bool
  | .mat m => m.complete
  | .packed p _ => p.complete
  | .vop v => v.complete
  | .attn a => a.complete
  | _ => false

def PKind.wantsWaypoint : PKind → Bool
  | .mat m => m.waypoint
  | .packed p _ => p.waypoint
  | .vop v => v.waypoint
  | .attn a => a.waypoint
  | _ => false

/-- The products of an array command. -/
def PKind.mats : PKind → List Mat
  | .mat m => [m]
  | .packed _ ps => ps
  | _ => []

/-- The loads of an array command at E and C (R85, R125, R126). -/
def PKind.loads (k : PKind) (e c : Nat) : List Load :=
  match k with
  | .mat m => m.loads e c
  | .packed _ ps => packedLoads ps e c
  | _ => []

/-- The length of an array command (R124). -/
def PKind.length (k : PKind) (e c : Nat) : Nat := lengthOf (k.loads e c) k.mats e

/-! ### The checks of R122, row by row -/

/-- The bits of each word that a command's fields use; every other bit is RSV (R116 to R118, R125, R148, R158). -/
def usedBits (op : Nat) : List Nat :=
  match op with
  | 0x01 => [0xFFFFFFFFFFFF, 0xFFFFFFFFFFFFFFF, 0xFFFFFFFFFFFFFFFF, 0xFFFFFFFFFFFFFFFF, 0xFFFFFFFFFFFFFFFF,
      0xFFFFFFFFFFFFFFF, 0xFFFF, 0xFFFFFFFF]
  | 0x02 => [0xC000FFFFFFFF, 0x1FFFFFFFFF, 0, 0, 0, 0, 0, 0xFFFFFFFF]
  | 0x10 => [0xE0FFFFFFFFFF, 0xFFFFFFFF, 0xFFFFFFFFFFFFFFFF, 0x3FFFFFFFFFFF, 0x3FFFFFFFFFFF, 0x3FFFFFFFFFFF, 0xFFFFFFFF,
      0xFFFFFFFF]
  | 0x11 => [0xE007FFFFFFFF, 0xFFFFFFFFFFFFFFF, 0x3FFFFFFFFFFF, 0x3FFFFFFF, 0x3FFFFFFFFFFF, 0xFFFFFFFFFFFFFFFF,
      0x1FFFFFFFFFFFFFFF, 0xFFFFFFFF]
  | 0x20 => [0x3FFFFF00FF, 0xFFFFFFFFFFFFFFFF, 0x3FFFFFFF, 0xFFFFFFFFFFFFFFFF, 0, 0, 0, 0]
  | 0x21 => [0x3FFFFF00FF, 0xFFFFFFFFFFFFFFFF, 0x3FFFFFFF, 0xFFFFFFFFFFFFFFFF, 0, 0, 0, 0]
  | 0x22 => [0x3FFE0FFFF00FF, 0, 0x3FFFFFFF, 0, 0, 0, 0, 0]
  | 0x23 => [0xFFFFFF00FF, 0, 0, 0, 0, 0, 0, 0]
  | _ => [0xFFFF00FF, 0, 0, 0, 0, 0, 0, 0]

/-- Every RSV bit of a command is 0. -/
def rsvOk (c : CmdWords) : Bool :=
  (List.zipWith (fun w m => w &&& m == w) c (usedBits c.op)).all id

/-- A MATMUL's or product's reserved code values and fields that must be 0 (log entry 11). -/
def Mat.codesOk (m : Mat) : Bool :=
  m.accSrc != 3 && m.satReport != 3 && (m.accSrc == 2 || (m.accBase == 0 && m.accTag == 0))

/-- The bits that an entry of a product table uses: those of a MATMUL, with OPCODE, FMT_A, FMT_W and INDEX 0, and word 7 of its own
(R125). -/
def productBits : List Nat := [0xFFFF00000000] ++ ((usedBits 1).drop 1).take 6 ++ [0x7FFFFF]

/-- Every entry of a product table has its RSV bits 0 (R125). -/
def productsRsvOk (table : List Byte) (n : Nat) : Bool :=
  (rangeFrom 0 n).all fun i => (List.zipWith (fun w m => w &&& m == w) (wordsOf (slice table (64 * i) 64)) productBits).all id

/-- Row 1 of R122 for one command at index i of `count`; a PACKED command's product table is checked with it (R125, R603). -/
def cmdOk (c : CmdWords) (k : PKind) (table : List Byte) (i count : Nat) : Bool :=
  rsvOk c && c.index == i && ((k == .done) == (i + 1 == count)) &&
  match k with
  | .mat m => m.codesOk
  | .packed p ps => productsRsvOk table p.nprod && ps.all Mat.codesOk
  | .vop v => v.zeroOk
  | .attn a => a.final || (a.oBase == 0 && a.oTag == 0 && a.oStride == 0)
  | .xfer x =>
    if x.op = 0x22 then true
    else x.ext != 3 && decide (64 ≤ x.len) && x.len % 64 == 0 && !(x.op == 0x21 && x.staging)
  | _ => true

/-- Row 2 of R122 for a MATMUL or product: formats and options. -/
def Mat.formatOk (m : Mat) : Bool :=
  decide (m.fmtA < 4) && decide (m.fmtW < 4) && (!m.guard || decide (m.passes ≥ 2)) && (m.guard == decide (m.budget ≠ 0))
  && !(m.stoch && m.outForm == 3) && (m.fmtA == 3 || m.aPlane == 0) && (m.outForm == 3 || m.oPlane == 0)
  && (m.fmtW == 2 || m.wShift == 0)

/-- Row 2 of R122. -/
def formatOk (k : PKind) : Bool :=
  match k with
  | .mat m => m.formatOk
  | .packed p ps => decide (p.fmtA < 4) && decide (p.fmtW < 4) && ps.all Mat.formatOk
  | .vop v => v.fmtOk && (v.inFmt == 5 || v.xPlane == 0)
  | .attn a => decide (a.kvFmt < 2) && decide (a.qFmt < 3) && decide (a.outFmt < 3) && decide (a.dSel < 3)
  | _ => true

def gran (n : Nat) : Nat := ceilDiv n 64

/-- Strides and plane offsets of R119. -/
def Mat.stridesOk (m : Mat) : Bool :=
  decide (1 ≤ m.aStride) && decide (gran m.aRow ≤ m.aStride) && decide (gran m.wRow ≤ m.wStride) && decide (gran m.oRow ≤ m.oStride)
  && (m.fmtA != 3 || decide (m.npos * m.aStride ≤ m.aPlane)) && (m.outForm != 3 || decide (m.npos * m.oStride ≤ m.oPlane))
  && (m.fmtW != 2 || decide (m.k * m.wStride ≤ m.wShift))

/-- Row 3 of R122, at DESIGN_E and DESIGN_C. -/
def shapeOk (k : PKind) (e c : Nat) : Bool :=
  match k with
  | .mat m => m.stridesOk && m.decl == k.length e c && decide (k.length e c ≤ 4294967295)
  | .packed p ps => ps.all Mat.stridesOk && p.decl == k.length e c && decide (k.length e c ≤ 4294967295)
  | .vop v =>
    match v.spec with
    | none => false
    | some (y, z, _, _) =>
      let opOk := fun (o : OpKind) (stride row : Nat) =>
        match o with
        | .none => true
        | .full => decide (gran row ≤ stride)
        | .row => stride == 0
      decide (gran (fmtRow v.inFmt v.len) ≤ v.xStride)
      && (v.inFmt != 5 || decide (v.rows * v.xStride ≤ v.xPlane))
      && opOk y v.yStride v.yRow && opOk z v.zStride (fmtRow v.inFmt v.len)
      && decide (gran (fmtRow v.outFmt v.outLen) ≤ v.oStride)
      && v.decl == v.cycles c && decide (v.cycles c ≤ 4294967295)
  | .attn a =>
    let ob := if a.outFmt = 0 then 4 * a.d else 2 * a.d
    let qb := if a.qFmt = 0 then 4 * a.d else 2 * a.d
    a.posStart % a.npp == 0 && decide (a.posStart ≤ a.posLast) && decide (2 ≤ a.depth)
    && decide (gran qb ≤ a.qStride) && (!a.final || decide (gran ob ≤ a.oStride))
    && a.decl == a.cycles c && decide (a.cycles c ≤ 4294967295)
  | _ => true

/-- Ranges that never overlap. -/
def disjoint : List (Nat × Nat) → Bool
  | [] => true
  | (a, n) :: t => t.all (fun p => decide (a + n ≤ p.1) || decide (p.1 + p.2 ≤ a)) && disjoint t

/-- A PACKED command names a product table: NPROD in range, and its PT_TAG written by a WLOAD of NPROD × 64 bytes (R125). Without one its
length is not defined, and row 3 of R122 is not evaluated (log entry 11). -/
def tableOk (p : Packed) (writerLen : Option Nat) : Bool :=
  decide (2 ≤ p.nprod) && decide (p.nprod ≤ 64) && writerLen == some (p.nprod * 64)

/-- Row 4 of R122: the layout rules of R89 other than Fit, NPROD, and the product table's writer (R125). -/
def layoutOk (k : PKind) (writerLen : Option Nat) : Bool :=
  match k with
  | .packed p ps =>
    tableOk p writerLen
    && disjoint (ps.map fun m => (m.row0, m.rows)) && disjoint (ps.map fun m => (m.col0, m.cols))
    && ps.all fun m => pwOf m.fmtW != 2 || m.col0 % 2 == 0
  | _ => true

/-- The end of a tensor of rows, in bytes of its window (R119). -/
def lastByte (base stride rows bytes : Nat) : Nat := (base + (rows - 1) * stride) * 64 + bytes

/-- The byte ranges of the scratchpad window and of the staging window that a MATMUL touches: their ends (R119 to R121). -/
def Mat.ends (m : Mat) : List Nat × List Nat :=
  ([lastByte m.aBase m.aStride m.npos m.aRow] ++ (if m.fmtA = 3 then [lastByte (m.aBase + m.aPlane) m.aStride m.npos m.aRow] else [])
   ++ [lastByte m.oBase m.oStride m.npos m.oRow] ++ (if m.outForm = 3 then [lastByte (m.oBase + m.oPlane) m.oStride m.npos m.oRow] else [])
   ++ (if m.hasFlags then [m.planes * 64 + m.flagBytes] else [])
   ++ (if m.statPlane then [m.statBase * 64 + 8 * m.n] else [])
   ++ (if m.accSrc = 2 then [lastByte m.accBase m.accStride m.npos (4 * m.n), m.accFlags * 64 + m.flagBytes] else [])
   ++ (if m.needsQp then [m.qpBase * 64 + 16 * m.n] else []),
   [lastByte m.wBase m.wStride m.k m.wRow]
   ++ (if m.fmtW = 2 then [lastByte (m.wBase + m.wShift) m.wStride (ceilDiv m.k 32) (ceilDiv m.n 2)] else []))

/-- The ends of every tensor, plane or table of a command in the two windows (R122 row 6); `wlen` is a WLOAD's length. -/
def PKind.ends (k : PKind) (wlen : Nat) : List Nat × List Nat :=
  match k with
  | .mat m => m.ends
  | .packed p ps => ([p.ptBase * 64 + 64 * p.nprod] ++ ps.flatMap (·.ends.1), ps.flatMap (·.ends.2))
  | .vop v =>
    match v.spec with
    | none => ([], [])
    | some (y, z, _, _) =>
      let rowsOf := fun o => if o = OpKind.row then 1 else v.rows
      ([lastByte v.xBase v.xStride v.rows (fmtRow v.inFmt v.len)]
       ++ (if v.inFmt = 5 then [lastByte (v.xBase + v.xPlane) v.xStride v.rows v.len] else [])
       ++ (if y = .none then [] else [lastByte v.yBase v.yStride (rowsOf y) v.yRow])
       ++ (if z = .none then [] else [lastByte v.zBase v.zStride (rowsOf z) (fmtRow v.inFmt v.len)])
       ++ [lastByte v.oBase v.oStride v.rows (fmtRow v.outFmt v.outLen)]
       ++ (if v.exc then [(v.oBase + v.rows * v.oStride) * 64 + 8] else []), [])
  | .attn a =>
    ([lastByte a.qBase a.qStride a.nq (if a.qFmt = 0 then 4 * a.d else 2 * a.d),
      a.ptBase * 64 + 8 * (a.b1 + 1),
      (a.sBase + a.nq * a.sStride) * 64,
      a.ringBase * 64 + a.depth * 131072]
     ++ (if a.final then [lastByte a.oBase a.oStride a.nq (if a.outFmt = 0 then 4 * a.d else 2 * a.d)] else [])
     ++ (if a.exc then [((if a.final then a.oBase + a.nq * a.oStride else a.sBase + a.nq * a.sStride)) * 64 + 8] else []), [])
  | .xfer x =>
    let e := x.base * 64 + (if x.op = 0x22 then wlen else x.len)
    if x.staging then ([], [e]) else ([e], [])
  | _ => ([], [])

/-- Row 6 of R122. -/
def boundsOk (h : List Byte) (c : Chart) (k : PKind) (wlen : Nat) : Bool :=
  let e := k.ends wlen
  e.1.all (fun x => decide (x ≤ c.spBytes)) && e.2.all (fun x => decide (x ≤ c.stBytes)) &&
  match k with
  | .xfer x =>
    if x.op = 0x22 then decide (x.wdesc < c.wdescs)
    else if x.ext = 2 then
      decide (x.arg < c.nargs) && (argIsOut h x.arg == (x.op == 0x21)) && decide (x.addr + x.len ≤ argLen h x.arg)
    else true
  | _ => true

/-- What the checks know of a tag: the descriptor of the WLOAD that wrote it last, or that another command did. -/
structure TagWriter where
  tag : Nat
  wdesc : Option Nat
deriving DecidableEq, Repr

/-- The scan of a program at load: the tags written since their last RELEASE, and the largest DECL_CYCLES so far. -/
structure Scan where
  tags : List TagWriter
  maxDecl : Nat
deriving DecidableEq, Repr

/-- The declared length that MAX_DECL covers (R105). -/
def PKind.decl : PKind → Nat
  | .mat m => m.decl
  | .packed p _ => p.decl
  | _ => 0

/-- One command checked: the first row of R122 that it fails, or the scan after it. `wbytes` gives a descriptor's bytes. -/
def checkCmd (h : List Byte) (ch : Chart) (wbytes : Nat → List Byte) (i : Nat) (c : CmdWords) (sc : Scan) : Except Nat Scan :=
  let p := Packed.ofCmd c
  let writer := (sc.tags.find? fun t => t.tag == p.ptTag).bind (·.wdesc)
  let table := match writer with
    | some d => if tableOk p (some (wbytes d).length) then wbytes d else []
    | none => []
  match decodeCmd c table with
  | none => .error stCmdInvalid
  | some k =>
    let wlen := match k with
      | .xfer x => if x.op = 0x22 then (wbytes x.wdesc).length else 0
      | _ => 0
    if !cmdOk c k table i ch.count then .error stCmdInvalid
    else if !formatOk k then .error stFormatInvalid
    else if !(c.op == 0x02 && !tableOk p (writer.map fun d => (wbytes d).length)) && !shapeOk k ch.designE ch.designC then .error stShapeInvalid
    else if !layoutOk k (writer.map fun d => (wbytes d).length) then .error stLayoutInvalid
    else if !(k.reads.all fun t => sc.tags.any fun w => w.tag == t) then .error stTagUndefined
    else if !boundsOk h ch k wlen then .error stBounds
    else
      let add := fun (l : List TagWriter) (t : Nat) (d : Option Nat) => ⟨t, d⟩ :: l.filter fun w => w.tag != t
      let tags := match k with
        | .xfer x => if x.op = 0x22 then add sc.tags x.tag (some x.wdesc)
            else if x.op = 0x20 then add sc.tags x.tag none else sc.tags
        | .release t => sc.tags.filter fun w => w.tag != t
        | k => k.writes.foldl (fun l t => add l t none) sc.tags
      .ok ⟨tags, max sc.maxDecl k.decl⟩

/-- The commands checked in increasing INDEX: the first failure with its index, or the final scan (R603 order 10). -/
def checkProgram (h : List Byte) (ch : Chart) (wbytes : Nat → List Byte) : Nat → List CmdWords → Scan → Except (Nat × Nat) Scan
  | _, [], sc => .ok sc
  | i, c :: t, sc =>
    match checkCmd h ch wbytes i c sc with
    | .error st => .error (st, i)
    | .ok sc' => checkProgram h ch wbytes (i + 1) t sc'

/-! ### A loaded chart's commands -/

/-- A chart's bytes in its domain's HBM. -/
def State.chartBytes (s : State) (ch : Chart) (off n : Nat) : List Byte := s.bytes .hbm ch.dom (ch.hbmOff + off) n

/-- Command i of a chart's program (R105). -/
def State.chartCmd (s : State) (ch : Chart) (i : Nat) : CmdWords := wordsOf (s.chartBytes ch (256 + 64 * i) 64)

/-- Weight descriptor j of a chart (R106). -/
def State.chartWdesc (s : State) (ch : Chart) (j : Nat) : WDesc := WDesc.of (s.chartBytes ch (256 + 64 * ch.count + 32 * j) 32)

/-- A byte of a run's scratchpad window, and of its staging window (R111, R302). -/
def State.runRd (s : State) (r : Run) : Rd where
  sp o := s.byte .scratch r.dom (r.spWin * 64 + o)
  st o := s.byte .staging r.dom (r.stWin * 64 + o)

/-- Command i of a chart, decoded; a PACKED command's product table is the one that the load checks read (R125, log entry 12). -/
def State.chartKind (s : State) (ch : Chart) (i : Nat) : Option PKind := decodeCmd (s.chartCmd ch i) (Tab.getD ch.tables i [])

/-- Every command of a chart, in program order, with its index. -/
def State.chartKinds (s : State) (ch : Chart) : List (Nat × PKind) :=
  (rangeFrom 0 ch.count).filterMap fun i => (s.chartKind ch i).map fun k => (i, k)

/-- Command i of a run, decoded. -/
def State.runCmd (s : State) (r : Run) (i : Nat) : Option PKind := (Tab.get? s.charts r.chart).bind fun ch => s.chartKind ch i

end Sys2Proof.Machine
end

