-- ==== Sys2Proof/Machine/Standards.lean ====
section
/-! DEFINITION. Powers of ten as the device's fixed tables hold them (R243, R244, R260, R265, R283), the parts of TS 38.212 that the manual's
worked example fixes (segmentation and rate matching), and the names of what the standards give (R200). -/

namespace Sys2Proof.Machine

/-! ### Powers of ten -/

/-- The bits of the largest r below 2^n with r^k at most x. -/
def rootBits (k x : Nat) : Nat → Nat → Nat
  | 0, r => r
  | n + 1, r => rootBits k x n (if (r + 2 ^ n) ^ k ≤ x then r + 2 ^ n else r)

/-- floor(2^sh × 10^(m/320)), for 10^(m/320) from 10^−8 to 10^8. -/
def pow10 (m : Int) (sh : Nat) : Nat :=
  if m ≥ 0 then rootBits 320 (2 ^ (320 * sh) * 10 ^ m.toNat) (sh + 32) 0
  else rootBits 320 (2 ^ (320 * sh) / 10 ^ (-m).toNat) (sh + 32) 0

/-- round(2^14 × 10^(m/320)) (R243, R283). -/
def pow10Round14 (m : Int) : Nat := (pow10 m 15 + 1) / 2

/-- The FP32 value nearest 10^(m/320) (R260, R265). -/
def pow10F (m : Int) : Nat :=
  if m % 320 = 0 ∧ m ≥ 0 then fcvt (10 ^ (m / 320).toNat) else fp32.round false (2 * pow10 m 200 + 1) (2 ^ 201)

/-- 2^k as FP32, for an exponent of a normal number. -/
def pow2F (k : Int) : Nat := (127 + k).toNat * 2 ^ 23

/-- round(160 × log10(n/d)) for positive n and d, from −2,048 on (R244): the largest l with 10^(2l−1) ≤ (n/d)^320. -/
def log160 (n d : Nat) : Int :=
  let le := fun (l : Int) => if 2 * l - 1 ≥ 0 then decide (10 ^ (2 * l - 1).toNat * d ^ 320 ≤ n ^ 320)
    else decide (d ^ 320 ≤ n ^ 320 * 10 ^ (1 - 2 * l).toNat)
  (List.range 12).foldl (fun (a : Int) i => let b : Int := a + 2 ^ (11 - i); if le b then b else a) (-2048)

/-! ### Named contents of the standards (log entry 22) -/

/-- The DM-RS elements that are despread for one element: of a port, DM-RS type, group count without data, identity, nSCID, slot, symbols and
subcarrier; for each the symbol, subcarrier, value and cover sign. Empty where the subcarrier carries no DM-RS of the port. -/
def stdDmrs : Nat := 1
/-- The subcarriers of a symbol that carry an item's data. -/
def stdDataRes : Nat := 2
/-- The constellation point of an index and order: real and imaginary part as FP32. -/
def stdPoint : Nat := 3
/-- The scrambling bits of a length for an initial value. -/
def stdScramble : Nat := 4
/-- The base graph's checks: for a base graph, lifting size and lifted check of a row, its columns. -/
def stdCheck : Nat := 5
/-- The largest length of a limited buffer, for a number of code blocks, PRBs, layers, order and base graph. -/
def stdNref : Nat := 6
/-- What a downlink item's resource elements carry: for a symbol, layer and element of the item 0 and two zeros for nothing, 1 and the number of a
modulation symbol of the layer, or 2 and the value of a reference or synchronization signal as FP32. -/
def stdResMap : Nat := 7
/-- The parity bits of a code block, for a base graph, lifting size and its information bits. -/
def stdParity : Nat := 8
/-- The coded bits of a PDCCH or SSB item. -/
def stdControlBits : Nat := 9
/-- The physical root of a logical root index, for a sequence length. -/
def stdZcRoot : Nat := 10
/-- The search window of a preamble: the place of its root in the item's list, the start lag and the length. -/
def stdWindow : Nat := 11
/-- N_CS, and the preambles of a root in the restricted sets. -/
def stdNcs : Nat := 12
def stdRestricted : Nat := 13
/-- Where the repetitions of a PRACH occasion lie: for each, its symbol and first element, or its first sample at the detector's rate. -/
def stdPrachPlaces : Nat := 14
/-- The PRACH band shifted to 0 Hz and decimated: the samples of a stretch at the detector's rate. -/
def stdDecimate : Nat := 15
/-- The SRS elements of a port at a subcarrier, in the form of `stdDmrs`, and the subcarriers of an SRS item. -/
def stdSrs : Nat := 16
def stdSrsRes : Nat := 17
/-- The positions of a PUSCH's soft bits that carry a part of its UCI, and those of its data bits, −1 for one that UCI replaces. -/
def stdUciPlaces : Nat := 18
def stdDataPlaces : Nat := 34
/-- What the standards allow or fix of an item's content. -/
def stdAllowed : Nat := 19
/-- The bit pattern of modulation compression, and its constellation shifts and scalers. -/
def stdModComp : Nat := 20
def stdModScale : Nat := 25
/-- filterIndex of an item, and the further fields of its section of type 3. -/
def stdFilter : Nat := 26
def stdSection3 : Nat := 27
/-- The soft bits of a PUCCH, from its samples. -/
def stdUciSoft : Nat := 28
/-- The code of a UCI: for polar codes the length N and the places of the information bits in the order of their input, for each of its code
blocks; for small blocks the coded bits of a value. -/
def stdPolarBlocks : Nat := 29
def stdPolarInfo : Nat := 30
def stdPolarRate : Nat := 31
def stdSmallCode : Nat := 32
/-- The sequence that a PUCCH of format 0 or 1 sends for a value. -/
def stdPucchSeq : Nat := 33

/-- The roles of the alternate BMCA: the slave port plus one, or zero, then for each sub-port 1 where it is passive. -/
def stdBmca : Nat := 21
/-- The length of a PTP message or ESMC PDU on the wire. -/
def stdPtpLen : Nat := 22
/-- The answer to a unicast negotiation message. -/
def stdSignaling : Nat := 23
/-- The QL that a clock source without SyncE offers. -/
def stdOwnQl : Nat := 24

/-- A standard's answer to whole-number arguments. -/
def std (what : Nat) (a : List Nat) : List Int := Config.standard what (a.map Int.ofNat)

/-! ### Segmentation and rate matching (TS 38.212 clauses 5.2.2 and 5.4.2, log entry 24) -/

/-- The lifting sizes. -/
def liftSizes : List Nat :=
  ([2, 3, 5, 7, 9, 11, 13, 15].flatMap fun a => (List.range 8).map fun j => a * 2 ^ j).filter fun z => decide (z ≤ 384)

/-- The segmentation of a transport block. -/
structure Seg where
  bg : Nat
  tbCrc : Nat
  c : Nat
  kPrime : Nat
  zc : Nat
  k : Nat
deriving DecidableEq, Repr

/-- The segmentation of a transport block of `a` bits for a base graph, 0 for BG1. -/
def segment (a bg : Nat) : Seg :=
  let l := if a > 3824 then 24 else 16
  let b := a + l
  let kcb := if bg = 0 then 8448 else 3840
  let c := if b ≤ kcb then 1 else ceilDiv b (kcb - 24)
  let kp := (b + if c = 1 then 0 else 24 * c) / c
  let kb := if bg = 0 then 22 else if b > 640 then 10 else if b > 560 then 9 else if b > 192 then 8 else 6
  let zc := (minBy (fun z => [z]) (liftSizes.filter fun z => decide (kp ≤ kb * z))).getD 384
  ⟨bg, l, c, kp, zc, (if bg = 0 then 22 else 10) * zc⟩

/-- The columns of the base graph without the two punctured ones, and the circular buffer's full length. -/
def Seg.n (g : Seg) : Nat := (if g.bg = 0 then 66 else 50) * g.zc

/-- N_cb (R270): for limited-buffer rate matching from the numbers on which N_ref rests. -/
def Seg.ncb (g : Seg) (lim : Option (List Nat)) : Nat :=
  match lim with
  | some a => min g.n ((std stdNref (g.c :: g.bg :: a)).headD 0).toNat
  | none => g.n

/-- The soft bits of code block r out of `tot` bits of a transport block. -/
def Seg.e (g : Seg) (tot nl qm r : Nat) : Nat :=
  let u := tot / (nl * qm)
  if r + 1 ≤ g.c - u % g.c then nl * qm * (u / g.c) else nl * qm * ceilDiv u g.c

/-- k0 of a redundancy version. -/
def Seg.k0 (g : Seg) (ncb rv : Nat) : Nat :=
  let f := if g.bg = 0 then [0, 17, 33, 56].getD rv 0 else [0, 13, 25, 43].getD rv 0
  f * ncb / g.n * g.zc

/-- A position of the circular buffer that holds filler. -/
def Seg.filler (g : Seg) (i : Nat) : Bool := decide (g.kPrime - 2 * g.zc ≤ i) && decide (i < g.k - 2 * g.zc)

/-- The remainder of bits by a polynomial of degree w without its leading term (TS 38.212 clause 5.1). -/
def crcRem (poly w : Nat) (l : List Bool) : Nat :=
  l.foldl (fun r b => let t := b2n b ^^^ (r / 2 ^ (w - 1)); let r := r * 2 % 2 ^ w; if t % 2 = 1 then r ^^^ poly else r) 0
def crc24A (l : List Bool) : Nat := crcRem 0x864CFB 24 l
def crc24B (l : List Bool) : Nat := crcRem 0x800063 24 l
def crc16 (l : List Bool) : Nat := crcRem 0x1021 16 l

/-- Bit deinterleaving of a code block's soft bits (R271). -/
def deinterleave (l : List Int) (qm : Nat) : List Int :=
  let w := l.length / qm
  (rangeFrom 0 l.length).map fun i => l.getD (i % w * qm + i / w) 0

/-- Bytes and bits in the order of R279: bit i is bit i mod 8 of byte i / 8. -/
def bitsOf (l : List Byte) : List Bool := l.flatMap fun b => (rangeFrom 0 8).map fun i => bit b.toNat i
def byteOf (l : List Bool) : Byte := BitVec.ofNat 8 (l.foldr (fun b a => b2n b + 2 * a) 0)
def bytesOf : Nat → List Bool → List Byte
  | 0, _ => []
  | n + 1, l => byteOf (l.take 8) :: bytesOf n (l.drop 8)

end Sys2Proof.Machine
end

