-- ==== Sys2Proof/Machine/Admission.lean ====
section
/-! DEFINITION. Admission: the Helm's demand test and its margin points (R180 to R184), the radio section's sums (R202, R203), the
residency gap (R196) and the bandwidth commitment of cells (R306, R307). -/

namespace Sys2Proof.Machine

/-- The states that hold reservations (R203). -/
def CellState.held (x : CellState) : Bool := x == .configured || x == .active || x == .stopping || x == .shedding

/-- The states in which a cell has slots (R462, R560). -/
def CellState.running (x : CellState) : Bool := x == .active || x == .stopping || x == .shedding

/-- The code of RAD_CELL_STATUS.STATE. -/
def CellState.code : CellState → Nat
  | .unassigned => 0
  | .assigned => 1
  | .configured => 2
  | .active => 3
  | .stopping => 4
  | .shedding => 5
  | .shed => 6

/-- A cell slot that nothing has configured. -/
def Cell.blank (st : CellState) : Cell where
  st := st
  cfg := none
  next := []
  prev := []
  since := 0
  was := none
  orch := 0
  act := 0
  stop := none
  stopCmd := none
  shedAt := none
  cause := 0
  clear := false
  cur := 0
  slots := []
  seen := []
  handedOff := []
  freezes := []
  phases := []
  stats := []
  agc := []
  gains := []
  fills := []
  seqs := []
  txSeq := []
  harqUsed := []
  harqClear := false
  flushes := []

/-- The configuration in force at a slot (R204, R233): a new one from its activation slot on, the one before it until then. -/
def Cell.cfgAt (x : Cell) (n : Nat) : Option CellCfg :=
  match (x.next.filter fun p => decide (p.2 ≤ n)).getLast? with
  | some p => some p.1
  | none =>
    match x.prev.find? fun p => decide (n < p.2) with
    | some p => some p.1
    | none => x.cfg

/-- The slots of a cell that start in a stretch of 125 µs units, each with its configuration. -/
def Cell.slotsIn (x : Cell) (n k : Nat) : List (Nat × CellCfg) :=
  (rangeFrom n k).filterMap fun m => (x.cfgAt m).bind fun f => if m % f.ticks = 0 then some (m, f) else none

/-- The first slot of a cell from a unit on. -/
def Cell.slotFrom (x : Cell) (n : Nat) : Option (Nat × CellCfg) := (x.slotsIn n 17).head?

/-- The configuration last accepted: the one whose reservations a slot holds (R204). -/
def Cell.latest (x : Cell) : Option CellCfg :=
  match x.next.getLast? with
  | some p => some p.1
  | none => x.cfg

/-- A cell slot: an unlisted one is UNASSIGNED or ASSIGNED as RAD_CELL_ASSIGN says (R204). -/
def State.cell (s : State) (c : Nat) : Cell :=
  match Tab.get? s.cells c with
  | some x => x
  | none => Cell.blank (if s.flag F.RAD_CELL_ASSIGN_ASSIGNED c then .assigned else .unassigned)

/-- The domain that a cell slot is assigned to. -/
def State.cellDom (s : State) (c : Nat) : Nat := s.fld F.RAD_CELL_ASSIGN_DOMAIN c

/-- The ranges that only the engines write: LS and SPILL of every slot area, and the HARQ area (R258). -/
def CellCfg.engineRanges (f : CellCfg) : List (Nat × Nat) :=
  [(65536 * f.harqPage, 65536 * f.harqPages)] ++
    (rangeFrom 0 f.dx).flatMap fun k => [(f.slotArea k, f.sLs), (f.slotArea k + f.sLs + f.sRef + f.sW, f.sSp)]

/-- The configurations that a cell slot holds. -/
def Cell.cfgs (x : Cell) : List CellCfg := x.cfg.toList ++ x.next.map (·.1) ++ x.prev.map (·.1)

/-- The slot that an (SFN, slot) names for a cell slot at a time, with the configuration in force at it: under each configuration the occurrence
nearest the time, where that configuration holds there (R204, R211). -/
def State.nameSlot (s : State) (x : Cell) (sfn slot t : Nat) : Option (CellCfg × Nat) :=
  let l := ((x.cfgs.eraseDups.filter fun f => decide (slot < f.perFrame)).map fun f => (f, s.resolveSlot f sfn slot t)).filter fun p =>
    x.cfgAt p.2 == some p.1
  minBy (fun p => let a := s.slotT0 p.1 p.2; [if a ≥ t then 2 * (a - t) else 2 * (t - a) + 1]) l

/-- Bytes that a tenant, the fabric or a packet writes into a domain's HBM: a cell slot whose engine areas they meet is left without defined
radio results (R258). -/
def State.storeData (s : State) (dom off : Nat) (b : List Byte) : State :=
  let hit := s.cells.filter fun (e : Nat × Cell) =>
    s.cellDom e.1 == dom && e.2.cfgs.any fun f => f.engineRanges.any fun (r : Nat × Nat) => rangesMeet r.1 r.2 off b.length
  let s : State := { s with helm := { s.helm with spoilt := (s.helm.spoilt ++ hit.map (·.1)).eraseDups } }
  (s.store .hbm dom off b).hbmUsed dom off b.length false

/-- A domain has a cell slot assigned (R301, R362). -/
def State.hasCell (s : State) (d : Nat) : Bool :=
  (rangeFrom 0 512).any fun c => s.flag F.RAD_CELL_ASSIGN_ASSIGNED c && s.cellDom c == d

/-- The admitted cell slots with their configurations (R203). -/
def State.admitted (s : State) : List (Nat × CellCfg) :=
  s.cells.filterMap fun e => if e.2.st.held then e.2.latest.map fun c => (e.1, c) else none

/-- A cell is running somewhere (R463). -/
def State.cellRunning (s : State) : Bool := s.cells.any fun e => e.2.st.running

/-! ### Demand (R180) -/

/-- The array and vector demand of a chart at E and C (R180). -/
def State.chartDemand (s : State) (chart e c : Nat) : Nat × Nat :=
  match Tab.get? s.charts chart with
  | none => (0, 0)
  | some ch =>
    (s.chartKinds ch).foldl (fun a x =>
      match x.2 with
      | .vop v => (a.1, a.2 + v.cycles c)
      | .attn t => (a.1, a.2 + t.cycles c)
      | k => if k.isArray then (a.1 + (k.length e c + 64 * e), a.2) else a) (0, 0)

/-- The demand of a phase entry. -/
def State.phaseDemand (s : State) (p : List Byte) (e c : Nat) : Nat × Nat :=
  (phRuns p).foldl (fun a r => let d := s.chartDemand r.2.1 e c; (a.1 + d.1, a.2 + d.2)) (0, 0)

/-- A phase instance: release and deadline in ns, array and vector demand. -/
structure PhaseInst where
  rel : Nat
  dl : Nat
  a : Nat
  v : Nat
deriving DecidableEq, Repr

/-- The phase instances of a phase whose releases fall in the 4 ms from Meridian time 0 mod 1 ms: phases repeat each ms, as the slots of
every numerology do. -/
def State.phaseInsts (s : State) (cfg : CellCfg) (p : List Byte) (e c : Nat) : List PhaseInst :=
  let d := s.phaseDemand p e c
  (rangeFrom 0 cfg.perMs).flatMap fun j =>
    let t0 : Int := ((s.fld F.MER_AIR_AIR_OFFSET_NS + airTime 0 (j * cfg.nsym) cfg.mu cfg.ext / 65536 : Nat) : Int)
    let r := ((t0 + phRelease p) % 1000000).toNat
    (rangeFrom 0 4).map fun k =>
      ⟨r + k * 1000000, (((r + k * 1000000 : Nat) : Int) + phDeadline p - phRelease p).toNat, d.1, d.2⟩

/-- Every phase instance of the admitted cells; a group phase stands on its lead and counts once (R209). -/
def State.allInsts (s : State) (e c : Nat) : List PhaseInst :=
  s.admitted.flatMap fun x => (x.2.phases.filter phValid).flatMap fun p => s.phaseInsts x.2 p e c

/-! ### Supply (R181) -/

/-- The largest vector state save, in array cycles (R179). -/
def bVec (q c : Nat) : Nat := q + ceilDiv 16908288 (64 * c) + 16

/-- The calendar's period in ns and array cycles (R191). -/
def calPeriodNs : Nat := 500000
def calPeriodCyc : Nat := 750000

/-- The shared intervals of a calendar within one period, in array cycles: start, end, and hold (R181). -/
def sharedOf : List CalEntry → Nat → Bool → List (Nat × Nat × Nat)
  | [], u, h => if u < calPeriodCyc then [(u, calPeriodCyc, if h then 2048 else 0)] else []
  | e :: t, u, h =>
    (if u < e.start then [(u, e.start, if h then 2048 else 0)] else []) ++ sharedOf t (e.start + e.len) true

/-- Calendar entries in increasing start. -/
def sortCal (l : List CalEntry) : List CalEntry := sortBy (fun a b => decide (a.start ≤ b.start)) l

/-- The shared intervals of a calendar from 0 to 8 ms, in ns × 3: times in array cycles are 2/3 ns, so ns × 3 = cycles × 2. The first interval
of a period follows the period's last entry where that ends the period before (R181). -/
def sharedIntervals (cal : List CalEntry) : List (Nat × Nat × Nat) :=
  let l := sortCal cal
  let wrapHold := l.any fun e => e.start + e.len == calPeriodCyc
  (rangeFrom 0 16).flatMap fun k =>
    (sharedOf l 0 wrapHold).map fun x => ((k * calPeriodCyc + x.1) * 2, (k * calPeriodCyc + x.2.1) * 2, x.2.2)

/-- `supply` of R181, in array cycles, for times in ns. -/
def supply (cal : Option (List (Nat × Nat × Nat))) (cap t1 t2 : Nat) : Nat :=
  match cal with
  | none => (t2 - t1) * 3 * cap / 200
  | some l =>
    let sum := l.foldl (fun (a : Int) (x : Nat × Nat × Nat) =>
      let u1 := max x.1 (3 * t1)
      let u2 := min x.2.1 (3 * t2)
      if u1 < u2 then a + ((u2 - u1) / 2 : Nat) - (if x.1 ≥ 3 * t1 then (x.2.2 : Int) else 0) else a) 0
    (sum * cap / 100).toNat

/-! ### The test (R181, R182) -/

/-- (demand + blocking) and supply of an interval for both engines, as parts per thousand of the worse, capped (R199). -/
def permille (need sup : Nat) : Nat := if need = 0 then 0 else if sup = 0 then 1000 else min 1000 (need * 1000 / sup)

/-- The deadlines of every instance within 5 ms, those of instances released before ms 0 among them: phases repeat each ms. -/
def admitDeadlines (l : List PhaseInst) : List Nat :=
  (l.filter (decide <| ·.rel < 1000000)).flatMap fun x => (rangeFrom 0 5).map fun j => x.dl % 1000000 + j * 1000000

/-- `admit` of R181 over a list of phase instances: whether every interval passes, and the largest load in parts per thousand. -/
def admitInsts (l : List PhaseInst) (cal : Option (List (Nat × Nat × Nat))) (cap e c q : Nat) : Bool × Nat :=
  let rels := (l.map (·.rel)).filter (decide <| · < 1000000)
  rels.eraseDups.foldl (fun acc r1 =>
    let dls := (admitDeadlines l).filter fun d => decide (r1 < d) && decide (d ≤ r1 + 3000000)
    dls.eraseDups.foldl (fun (acc : Bool × Nat) d2 =>
      let inside := l.filter fun x => decide (r1 ≤ x.rel) && decide (x.dl ≤ d2)
      let na := sumList (inside.map (·.a)) + q + 64 * e
      let nv := sumList (inside.map (·.v)) + bVec q c
      let sup := supply cal cap r1 d2
      (acc.1 && decide (na ≤ sup) && decide (nv ≤ sup), max acc.2 (max (permille na sup) (permille nv sup)))) acc) (true, 0)

/-- The calendar that admission counts: the one in force, or the one that takes effect next. -/
def calFor (cal : List CalEntry) : Option (List (Nat × Nat × Nat)) :=
  if cal.isEmpty then none else some (sharedIntervals cal)

/-- The quantum in array cycles (R176), and as a decision of this cycle uses it (R175). -/
def State.quantum (s : State) : Nat := s.fld F.HLM_QUANTUM_QUANTUM_US * 1500
def State.quantumIn (s : State) : Nat := s.fldIn F.HLM_QUANTUM_QUANTUM_US 0 * 1500

/-- R181 at one point, for a calendar and a quantum. -/
def State.admitAt (s : State) (cal : List CalEntry) (q e c : Nat) : Bool × Nat :=
  admitInsts (s.allInsts e c) (calFor cal) (s.fld F.HLM_ADMIT_CTRL_VERM_CAP_PCT) e c q

/-- The spans of the admitted Vermilion windows within 1 ms, cut at its end and carried to its start (R196). -/
def State.windows (s : State) : List (Nat × Nat) :=
  ((s.allInsts 1 1).filter fun x => decide (x.rel < 1000000)).flatMap fun x =>
    if x.dl ≤ 1000000 then [(x.rel, x.dl)]
    else (x.rel, 1000000) :: (rangeFrom 1 3).map fun k => (0, min 1000000 (x.dl - k * 1000000))

/-- The longest time free of windows in the repeating 1 ms, in ns: from each window's end to the next window's start, across the end of
the ms (R196). -/
def longestGap (w : List (Nat × Nat)) : Nat :=
  if w.isEmpty then 1000000
  else maxList (w.map fun x =>
    if w.any fun y => decide (y.1 ≤ x.2 % 1000000) && decide (x.2 % 1000000 < y.2) then 0
    else
      let after := (w.map fun y => (y.1 + 1000000 - x.2 % 1000000) % 1000000)
      after.foldl min 1000000)

/-- The gap rule of R196. -/
def State.gapOk (s : State) : Bool := decide (s.fld F.HLM_ADMIT_CTRL_RES_GAP_US * 1000 ≤ longestGap s.windows)

/-- The points of R182 for E and C: the map's own, then the margin points. -/
def marginPoints (e c : Nat) : List (Nat × Nat) :=
  (if e ≥ 2 then [(e - 1, c)] else []) ++ (if c ≥ 2 then [(e, c - 1)] else [])

/-- The orchestrator limit of R168 and R203 for k enabled orchestrators. -/
def State.orchOk (s : State) : Bool :=
  decide (s.admitted.length ≤ 40 * ((s.unitsOn ucCore).filter fun c => decide (8 ≤ c) && decide (c < 24)).length)

/-- Admission of the set that the state holds at E and C, for a calendar and a quantum (R181, R182): the result at the point and over the
margin points, with the loads. -/
structure AdmitResult where
  fit : Bool
  load : Nat
  margin : Nat
  mE : Bool
  mC : Bool
  marginOk : Bool
deriving DecidableEq, Repr

def State.admitFull (s : State) (cal : List CalEntry) (q e c : Nat) : AdmitResult :=
  let p := s.admitAt cal q e c
  let pe := s.admitAt cal q (e - 1) c
  let pc := s.admitAt cal q e (c - 1)
  let mE := decide (e ≥ 2) && pe.1
  let mC := decide (c ≥ 2) && pc.1
  { fit := !s.offline && p.1 && s.orchOk && s.gapOk
    load := p.2
    margin := max (if e ≥ 2 then pe.2 else 0) (if c ≥ 2 then pc.2 else 0)
    mE := mE
    mC := mC
    marginOk := !s.flag F.HLM_ADMIT_CTRL_MARGIN || ((mE || decide (e < 2)) && (mC || decide (c < 2))) }

/-- A request's outcome (R182): the point, and the margin points when MARGIN is 1. -/
def AdmitResult.pass (r : AdmitResult) : Bool := r.fit && r.marginOk

/-- A request tested with the map, the calendar and the quantum in force. -/
def State.admitNow (s : State) : AdmitResult := s.admitFull s.helm.cal s.quantum s.mapE s.mapC

/-- HLM_ADMIT_STATUS after an accepted admission (R199), with the margin points that cover a later loss (R184). -/
def State.noteAdmit (s : State) (r : AdmitResult) : State :=
  let s := s.setFld F.HLM_ADMIT_STATUS_CELLS_ADMITTED s.admitted.length
  let s := s.setFld F.HLM_ADMIT_STATUS_LOAD_PERMILLE r.load
  let s := s.setFld F.HLM_ADMIT_STATUS_MARGIN_PERMILLE r.margin
  let s := s.setFld F.HLM_ADMIT_STATUS_MARGIN_E_PASS (b2n r.mE)
  let s := s.setFld F.HLM_ADMIT_STATUS_MARGIN_C_PASS (b2n r.mC)
  { s with helm := { s.helm with marginE := r.mE, marginC := r.mC } }

/-- LAST_RESULT of a request, and ADMIT_REFUSED for a refused one (R183, R199; log entry 78). -/
def State.noteOutcome (s : State) (fit : Bool) : State :=
  let s := s.setFld F.HLM_ADMIT_STATUS_LAST_RESULT (if fit then 1 else 2)
  if fit then s else s.raise F.HLM_ERR_STATUS_ADMIT_REFUSED

/-- The outcome of a cell slot's request, with LAST_SLOT (R183, R199). A request of no cell slot leaves LAST_SLOT as it was. -/
def State.noteRequest (s : State) (fit : Bool) (slot : Nat) : State := (s.setFld F.HLM_ADMIT_STATUS_LAST_SLOT slot).noteOutcome fit

/-! ### The radio section's sums (R203) -/

def State.ulQuarters (s : State) : Nat := sumList (s.admitted.map fun x => x.2.ulStreams * x.2.quarters)
def State.dlQuarters (s : State) : Nat := sumList (s.admitted.map fun x => x.2.dlStreams * x.2.quarters)
def State.tdStreams (s : State) : Nat :=
  sumList (s.admitted.map fun x => if x.2.split = 2 then x.2.ulStreams + x.2.dlStreams else 0)

/-- R203 for the set that the state holds. -/
def State.radioSums (s : State) : Bool :=
  decide (s.ulQuarters ≤ 6144) && decide (s.dlQuarters ≤ 6144) && decide (s.tdStreams ≤ 256)
  && decide (sumList (s.admitted.map fun x => x.2.roots) ≤ 512)
  && decide (sumList (s.admitted.map fun x => x.2.ulBits * x.2.perMs) ≤ (s.unitsOn ucDec).length * 96000000)
  && decide (sumList (s.admitted.map fun x => x.2.dlBits * x.2.perMs) ≤ (s.unitsOn ucEnc).length * 512000000)
  && s.orchOk

/-- A domain's Vermilion commitment: its Almanac base and its cells' demands (R306). -/
def State.vermOf (s : State) (d : Nat) : Nat :=
  F.MEM_COMMIT_VERM_MBPS.get (s.resetWord 0x8000028 d)
    + sumList ((s.admitted.filter fun x => s.cellDom x.1 == d).map fun x => x.2.demandMbps)

/-- The registers that follow the set of admitted cells: commitments (R306), quarters and counts (R224). -/
def State.refreshRadio (s : State) : State :=
  let s := allDomains.foldl (fun s d =>
    let v := s.vermOf d
    if s.fld F.MEM_COMMIT_VERM_MBPS d = v then s else (s.setFld F.MEM_COMMIT_VERM_MBPS v d).configChanged d) s
  let s := s.setFld F.RAD_STATUS_UL_QUARTERS s.ulQuarters
  let s := s.setFld F.RAD_STATUS_DL_QUARTERS s.dlQuarters
  let s := s.setFld F.RAD_STATUS_TD_USED s.tdStreams
  s.setFld F.RAD_STATUS_CELLS_ACTIVE (s.cells.countP fun e => e.2.st.running)

/-- The state with a cell slot changed, and what follows the set of admitted cells (R203, R306). -/
def State.setCell (s : State) (c : Nat) (x : Cell) : State := { s with cells := Tab.set s.cells c x }

/-- The radio admission test of R203 on the set that the state holds. -/
def State.radioTest (s : State) : Bool × AdmitResult :=
  let s := s.refreshRadio
  let r := s.admitNow
  (r.pass && s.radioSums && s.loadTest (fun _ => 0), r)

/-- The tests of R222 after a loss of capacity: Helm admission at E and C without the margin (R184), the Vermilion bandwidth (R309) and
the sums of R203. -/
def State.lossTest (s : State) : Bool × AdmitResult :=
  let s := s.refreshRadio
  let r := s.admitNow
  (r.fit && s.radioSums && s.vermTest, r)

end Sys2Proof.Machine
end

