-- ==== Sys2Proof/Machine/RunOps.lean ====
section
/-! DEFINITION. Runs: the residency scoreboard (R128, R129), outcomes (R131 to R135), the readiness of window entries (R173, R175), and
virtual time (R186 to R189). -/

namespace Sys2Proof.Machine

/-! ### The run table -/

def State.setRun (s : State) (r : Nat) (x : Run) : State := { s with runs := Tab.set s.runs r x }

def State.modRun (s : State) (r : Nat) (f : Run → Run) : State := { s with runs := Tab.modify s.runs r f }

/-- A run's ring, none for a run that a phase started. -/
def Run.ring? (x : Run) : Option Nat :=
  match x.owner with
  | .ring g _ => some g
  | .phase _ _ _ _ => none

/-- The cell slot of a run that a phase started, and 0 for any other (R174). -/
def Run.cellKey (x : Run) : Nat :=
  match x.owner with
  | .ring _ _ => 0
  | .phase c _ _ _ => c

/-- The instance of a run: its ring's, or its cell's. -/
def State.runInst (s : State) (x : Run) : Nat :=
  match x.owner with
  | .ring g _ => match Tab.get? s.rings g with
    | some r => r.inst
    | none => 0
  | .phase c _ _ _ => match (s.cell c).cfg with
    | some f => f.inst
    | none => 0

/-! ### Tags (R128) -/

def Run.tag (x : Run) (t : Nat) : Tag := Tab.getD x.tags t ⟨.invalid, 0⟩

def Run.setTag (x : Run) (t : Nat) (st : TagState) : Run :=
  { x with tags := Tab.set x.tags t { x.tag t with st := st } }

def Run.addReader (x : Run) (t : Nat) : Run :=
  { x with tags := Tab.set x.tags t { x.tag t with readers := (x.tag t).readers + 1 } }

def Run.dropReader (x : Run) (t : Nat) : Run :=
  { x with tags := Tab.set x.tags t { x.tag t with readers := (x.tag t).readers - 1 } }

/-- Some tag of the run is SAVED, or PENDING. -/
def Run.anySaved (x : Run) : Bool := x.tags.any fun e => e.2.st == .saved
def Run.anyPending (x : Run) : Bool := x.tags.any fun e => e.2.st == .pending
def Run.anyResident (x : Run) : Bool := x.tags.any fun e => e.2.st == .resident

/-- The tags that a command reads, each counted once, and those it writes. -/
def PKind.readTags (k : PKind) : List Nat := k.reads.eraseDups
def PKind.writeTags (k : PKind) : List Nat := k.writes.eraseDups

/-- The condition of R128 for the tags that a command writes: INVALID or RESIDENT with no reader. -/
def Run.writeOk (x : Run) (t : Nat) : Bool :=
  ((x.tag t).st == .invalid || (x.tag t).st == .resident) && (x.tag t).readers == 0

/-- Every tag that a dispatched command reads is RESIDENT, its own written tags counted so (R128, R129). -/
def Run.tagsReady (x : Run) (k : PKind) : Bool :=
  !x.anySaved && k.readTags.all fun t =>
    (x.tag t).st == .resident || ((x.tag t).st == .pending && k.writeTags.contains t)

/-- A command reads a FAULTED tag (R129). -/
def Run.readsFaulted (x : Run) (k : PKind) : Bool := k.readTags.any fun t => (x.tag t).st == .faulted

/-- The run takes no more work: a status other than OK, a cancel, a reset, or a halt passed. -/
def Run.stopped (x : Run) : Bool := x.status != stOk || x.cancelled || x.resetting

/-- A dispatched command of a run has started. -/
def Run.started (x : Run) (i : Nat) : Bool :=
  match Tab.get? x.cmds i with
  | some c => c.stage == .started
  | none => false

/-- The commands of a run that are dispatched and not started. -/
def Run.unstarted (x : Run) : List Nat := (x.cmds.filter fun e => e.2.stage == .dispatched).map (·.1)

/-! ### Records and failures -/

/-- The fault record of a run's command (R544). -/
def State.runRecord (s : State) (x : Run) (cause action idx : Nat) : FaultRec :=
  match x.owner with
  | .ring g cid => { FaultRec.of cause action with
      dom := some x.dom, inst := some (s.runInst x), ring := some g, cmd := some cid, chart := some x.chart, index := idx }
  | .phase c _ _ _ => { FaultRec.of cause action with
      dom := some x.dom, inst := some (s.runInst x), chart := some x.chart, cell := some c, index := idx }

/-- Window entries of a run's commands that are dispatched and not started leave the window (R132). -/
def dropEntries (w : List WinEntry) (r : Nat) (x : Run) : List WinEntry :=
  w.filter fun e => !(e.run == r && !x.started e.idx)

/-- The state with a run's unstarted commands dropped. -/
def State.dropUnstarted (s : State) (r : Nat) : State :=
  match Tab.get? s.runs r with
  | none => s
  | some x =>
    { s with
      helm := { s.helm with window := dropEntries s.helm.window r x }
      runs := Tab.set s.runs r { x with cmds := x.cmds.filter fun e => e.2.stage == .started } }

/-- A run stops with a status (R132): the first one stands, dispatch ends and unstarted commands are dropped. -/
def State.failRun (s : State) (r st : Nat) (idx : Option Nat) : State :=
  match Tab.get? s.runs r with
  | none => s
  | some x =>
    if x.status ≠ stOk then s
    else (s.setRun r { x with status := st, failIndex := idx.getD 0, failValid := idx.isSome }).dropUnstarted r

/-- A transfer failure of a run: its status and its fault record with the failure's cause (R131, R548, R549). -/
def State.failTransfer (s : State) (r idx cause detail : Nat) : State :=
  match Tab.get? s.runs r with
  | none => s
  | some x => (s.faultRecord { s.runRecord x cause 1 idx with detail := detail }).failRun r stTransferError (some idx)

/-! ### Virtual time (R186) -/

/-- The later of two 64-bit values, compared as `wrap(x − y, 64)` read as signed. -/
def vlt (a b : Nat) : Bool := decide (2 ^ 63 ≤ wrap (a + 2 ^ 64 - b) 64)
def vmax (a b : Nat) : Nat := if vlt a b then b else a

/-- `inc` of R186. -/
def vinc (len w32 : Nat) : Nat := ceilDiv (len * 2 ^ 32) w32

/-- The engine's virtual time, and the state with it changed. -/
def HelmUnit.vt (h : HelmUnit) (vector : Bool) : VTime := if vector then h.vec else h.arr
def HelmUnit.setVt (h : HelmUnit) (vector : Bool) (v : VTime) : HelmUnit := if vector then { h with vec := v } else { h with arr := v }
def State.setVt (s : State) (vector : Bool) (v : VTime) : State := { s with helm := s.helm.setVt vector v }
def VTime.tag (v : VTime) (g : Nat) : VTag := Tab.getD v.tags g ⟨0, 0, 1, false⟩

/-- A domain runs under the strict profile. -/
def State.strictDom (s : State) (d : Nat) : Bool := s.flag F.ISO_DOM_STATUS_STRICT d

/-- A swappable domain: of the shared profile, with no cell slot and SWAP 1 (R301). -/
def State.swapDom (s : State) (d : Nat) : Bool := s.flag F.MEM_PART_SWAPPABLE d && !s.strictDom d && !s.hasCell d

/-- A domain's partitions are static as the configuration image has it, at a fixed base (R301). -/
def State.fixedPart (s : State) (d : Nat) : Bool :=
  !s.flag F.MEM_PART_SWAPPABLE d || s.strictDom d || (rangeFrom 0 512).any fun c =>
    let w := s.resetWord F.RAD_CELL_ASSIGN_ASSIGNED.reg c
    F.RAD_CELL_ASSIGN_ASSIGNED.get w == 1 && F.RAD_CELL_ASSIGN_DOMAIN.get w == d

/-- The virtual time in which an entry competes: Slate commands and Vermilion commands without a deadline do (R172), those of a strict domain
in a time of its own, so that they never influence a grant outside its entries (R192). 0 is the shared time, d + 1 that of domain d. -/
def State.vtKey (s : State) (e : WinEntry) : Option Nat :=
  match Tab.get? s.runs e.run with
  | none => none
  | some x => if e.cls = 2 ∨ (e.cls = 1 ∧ x.deadline = none) then some (if s.strictDom x.dom then x.dom + 1 else 0) else none

/-- Entries that compete in the shared virtual time. -/
def State.shared (s : State) (e : WinEntry) : Bool := s.vtKey e == some 0

/-- The virtual time of an engine with a key, and the state with it changed. -/
def State.vtAt (s : State) (vector : Bool) (k : Nat) : VTime :=
  if k = 0 then s.helm.vt vector else Tab.getD s.helm.strictVt (2 * k + b2n vector) VTime.reset
def State.setVtAt (s : State) (vector : Bool) (k : Nat) (v : VTime) : State :=
  if k = 0 then s.setVt vector v else { s with helm := { s.helm with strictVt := Tab.set s.helm.strictVt (2 * k + b2n vector) v } }

/-- The ring of a window entry. -/
def State.entryRing (s : State) (e : WinEntry) : Nat :=
  match Tab.get? s.runs e.run with
  | none => 0
  | some x => x.ring?.getD 0

/-- An entry has started. -/
def State.entryStarted (s : State) (e : WinEntry) : Bool :=
  match Tab.get? s.runs e.run with
  | none => false
  | some x => x.started e.idx

/-- The active rings of an engine in a virtual time: those with a dispatched command of it that has not completed (R186). -/
def State.activeRings (s : State) (vector : Bool) (k : Nat) : List Nat :=
  ((s.helm.window.filter fun e => e.vector == vector && s.vtKey e == some k).map s.entryRing).eraseDups

/-- The shares of R186, as a decision of this cycle reads them (R175). -/
def shareIdx (kind id : Nat) : Nat := kind * 8192 + id
def State.domShare (s : State) (d : Nat) : Nat := max 1 (s.fldIn F.HLM_SHARE_SHARE (shareIdx 0 d))
def State.instShare (s : State) (i : Nat) : Nat := max 1 (s.fldIn F.HLM_SHARE_SHARE (shareIdx 1 i))
def State.ringShare (s : State) (g : Nat) : Nat :=
  match Tab.get? s.rings g with
  | none => 1
  | some r => max 1 (s.fldIn F.RING_CFG_SHARE r.key)
def State.ringInst (s : State) (g : Nat) : Nat :=
  match Tab.get? s.rings g with
  | none => 0
  | some r => r.inst
def State.ringDom (s : State) (g : Nat) : Nat :=
  match Tab.get? s.insts (s.ringInst g) with
  | none => 0
  | some i => i.dom

/-- An Ochre command of the engine is ready (R189). -/
def State.ochreHead (s : State) (vector : Bool) : Bool :=
  s.helm.window.any fun e => e.cls == 3 && e.vector == vector && e.readyAt.isSome && !s.entryStarted e

/-- `weight32` of R186, with the factor of the Ochre floor (R189). -/
def State.weight32 (s : State) (vector : Bool) (k g : Nat) : Nat :=
  let act := (g :: s.activeRings vector k).eraseDups
  let d := s.ringDom g
  let i := s.ringInst g
  let sumD := sumList ((act.map s.ringDom).eraseDups.map s.domShare)
  let sumI := sumList (((act.filter fun x => s.ringDom x == d).map s.ringInst).eraseDups.map s.instShare)
  let sumR := sumList ((act.filter fun x => s.ringInst x == i).map s.ringShare)
  let w := max 1 (2 ^ 32 * s.domShare d * s.instShare i * s.ringShare g / (sumD * sumI * sumR))
  let o := s.fld F.HLM_ADMIT_CTRL_OCHRE_PERMILLE
  if o ≠ 0 ∧ k = 0 ∧ s.ochreHead vector = true then max 1 (w * (1000 - o) / 1000) else w

/-- `on_head_ready`: a ring that had no ready head starts no earlier than v (R186). -/
def VTime.headReady (v : VTime) (g : Nat) : VTime :=
  let t := v.tag g
  if t.head then v else { v with tags := Tab.set v.tags g { t with s := vmax t.f v.v, head := true } }

/-- The Ochre pseudo-ring as `on_head_ready`, `on_grant` and `on_boundary` take a ring (R189), with weight o / 1,000. -/
def VTime.ochreReady (v : VTime) : VTime :=
  if v.ochre.head then v else { v with ochre := { v.ochre with s := vmax v.ochre.f v.v, head := true } }
def VTime.ochreGrant (v : VTime) (o : Nat) : VTime :=
  { v with v := v.ochre.s, ochre := { v.ochre with w32 := max 1 (2 ^ 32 * o / 1000) } }
def VTime.ochreBoundary (v : VTime) (len : Nat) (more : Bool) : VTime :=
  let f := wrap (v.ochre.s + vinc len v.ochre.w32) 64
  { v with ochre := { v.ochre with s := f, f := f, head := more } }

/-- `on_grant`: the weight is latched and v takes the start tag. -/
def VTime.grant (v : VTime) (g w32 : Nat) : VTime :=
  let t := v.tag g
  { v with v := t.s, tags := Tab.set v.tags g { t with w32 := w32 } }

/-- `on_boundary`: the finish tag, and the next start; `more` says that the ring still has a ready command. -/
def VTime.boundary (v : VTime) (g len : Nat) (more : Bool) : VTime :=
  let t := v.tag g
  let f := wrap (t.s + vinc len t.w32) 64
  { v with tags := Tab.set v.tags g { t with s := f, f := f, head := more } }

/-- `on_no_slate_ready`: v becomes the latest finish tag. -/
def VTime.idle (v : VTime) : VTime :=
  match v.tags with
  | [] => v
  | (_, t) :: rest => { v with v := rest.foldl (fun a e => vmax a e.2.f) t.f }

/-! ### Readiness (R129, R175) -/

/-- A window entry's command is ready: dispatched, not started, its tags RESIDENT. -/
def State.entryReady (s : State) (e : WinEntry) : Bool :=
  match Tab.get? s.runs e.run with
  | none => false
  | some x =>
    !x.stopped && (match Tab.get? x.cmds e.idx with
      | some c => c.stage == .dispatched
      | none => false) &&
    (match s.runCmd x e.idx with
      | some k => x.tagsReady k
      | none => false)

/-- One entry noted ready now, with its ring's start tag set when the ring had no ready head (R175, R186). -/
def State.noteEntry (s : State) (e : WinEntry) : State × WinEntry :=
  if s.entryReady e then
    if e.readyAt.isSome then (s, e)
    else
      (match s.vtKey e with
        | some k => s.setVtAt e.vector k ((s.vtAt e.vector k).headReady (s.entryRing e))
        | none => if e.cls == 3 then s.setVt e.vector (s.helm.vt e.vector).ochreReady else s, { e with readyAt := some s.now })
  else if s.entryStarted e then (s, e)
  else (s, { e with readyAt := none })

/-- A window entry is on its engine, before its boundary, or is an ATTN between two segments (R165). -/
def State.inService (s : State) (e : WinEntry) : Bool :=
  s.arr.cur.any (fun a => a.run == e.run && a.idx == e.idx) || (match s.vec.cur with
    | some v => v.run == e.run && v.idx == e.idx
    | none => false) || s.vec.suspended.any fun v => v.run == e.run && v.idx == e.idx

/-- The rings of a virtual time that have a ready head, or a command in service. -/
def State.headRings (s : State) (vector : Bool) (k : Nat) : List Nat :=
  (s.helm.window.filter fun e => e.vector == vector && s.vtKey e == some k
    && ((e.readyAt.isSome && s.entryReady e) || s.inService e)).map s.entryRing

/-- The tags of a virtual time without the heads that are no longer there: a later one starts no earlier than v (R175, R186). -/
def VTime.keepHeads (v : VTime) (rings : List Nat) (ochre : Bool) : VTime :=
  { v with
    tags := v.tags.map fun t => (t.1, { t.2 with head := t.2.head && rings.contains t.1 })
    ochre := { v.ochre with head := v.ochre.head && ochre } }

/-- The virtual times after commands have left the window, or are no longer ready. -/
def State.clearHeads (s : State) : State :=
  let o := fun (vector : Bool) => s.helm.window.any fun e => e.cls == 3 && e.vector == vector
    && ((e.readyAt.isSome && s.entryReady e) || s.inService e)
  { s with helm := { s.helm with
      arr := s.helm.arr.keepHeads (s.headRings false 0) (o false)
      vec := s.helm.vec.keepHeads (s.headRings true 0) (o true)
      strictVt := s.helm.strictVt.map fun e => (e.1, e.2.keepHeads (s.headRings (e.1 % 2 == 1) (e.1 / 2)) false) } }

/-- Every window entry's readiness brought up to date. -/
def State.noteReady (s : State) : State :=
  let s := s.clearHeads
  let p := s.helm.window.foldl (fun (a : State × List WinEntry) e => let q := a.1.noteEntry e; (q.1, a.2 ++ [q.2])) (s, [])
  { p.1 with helm := { p.1.helm with window := p.2 } }

/-- A run whose dispatched command would read a FAULTED tag stops with TAG_FAULT, naming the first such command (R129). -/
def State.tagFaults (s : State) (r : Nat) : State :=
  match Tab.get? s.runs r with
  | none => s
  | some x =>
    match x.unstarted.find? (fun i => match s.runCmd x i with
        | some k => x.readsFaulted k
        | none => false) with
    | none => s
    | some i => s.failRun r stTagFault (some i)

/-- A started command ends: its written tags become RESIDENT or FAULTED, its reader counts fall, and it leaves the window (R128,
R130, R173). -/
def State.endCmd (s : State) (r i : Nat) (ok : Bool) : State :=
  match Tab.get? s.runs r with
  | none => s
  | some x =>
    match s.runCmd x i with
    | none => s
    | some k =>
      let x := k.readTags.foldl Run.dropReader x
      let x := k.writeTags.foldl (fun x t => x.setTag t (if ok then .resident else .faulted)) x
      let s := s.setRun r { x with cmds := Tab.del x.cmds i }
      let s := { s with helm := { s.helm with window := s.helm.window.filter fun e => !(e.run == r && e.idx == i) } }
      (s.tagFaults r).noteReady

/-- What a run stores has no defined value: its windows overlap another's (R112), or its chart's copy has been written (R107). -/
def State.runOpen (s : State) (x : Run) : Bool :=
  x.overlap || (match Tab.get? s.charts x.chart with
    | some c => c.written
    | none => false)

/-- A run stores bytes into its scratchpad window. -/
def State.runStore (s : State) (x : Run) (off : Nat) (data : List Byte) : State :=
  if s.runOpen x then
    let f := s.freshBytes data.length
    f.2.store .scratch x.dom (x.spWin * 64 + off) f.1
  else s.store .scratch x.dom (x.spWin * 64 + off) data

def State.runWrites (s : State) (x : Run) (ws : List (Nat × List Byte)) : State :=
  ws.foldl (fun s w => s.runStore x w.1 w.2) s

/-- A chart whose last run has ended while UNLOADING becomes FREE, and its unloads complete (R108). An unload is held as its ring and
command ID in one number. -/
def State.chartReap (s : State) (ch : Nat) : State :=
  match Tab.get? s.charts ch with
  | none => s
  | some c =>
    if c.st = .unloading ∧ c.runs = 0 then
      c.unloads.foldl (fun s u => s.completeStatus (u / 65536) (u % 65536) stOk) { s with charts := Tab.del s.charts ch }
    else s

/-- A run context released: its tags are INVALID, and its chart counts one run fewer (R108, R113, R128). -/
def State.releaseRun (s : State) (r : Nat) : State :=
  match Tab.get? s.runs r with
  | none => s
  | some x =>
    let s := { s with
      runs := Tab.del s.runs r
      charts := Tab.modify s.charts x.chart fun c => { c with runs := c.runs - 1 }
      helm := { s.helm with window := s.helm.window.filter fun e => e.run != r }
      vec := { s.vec with suspended := s.vec.suspended.map fun (v : VecCmd) => match v.between with
        | some (d, b) => if b = r then { v with between := some (d, 1024) } else v
        | none => v } }
    s.chartReap x.chart

/-- A granted array command of a run is in the array: one that a fault has ended still runs to its end (R86, R133). -/
def State.arrHolds (s : State) (r : Nat) : Bool := s.arr.cur.any (·.run == r) || s.arr.drain.any (·.run == r)

/-- A run that a reset squashed releases its context once no granted command holds it (R375 step 4). -/
def State.reapRun (s : State) (r : Nat) : State :=
  match Tab.get? s.runs r with
  | none => s
  | some x => if x.resetting ∧ x.cmds = [] ∧ s.arrHolds r = false then s.releaseRun r else s

/-- The completion of a ring's run is held until the completion queue has room (R370). -/
def State.completionHeld (s : State) (x : Run) : Bool :=
  match x.owner with
  | .phase _ _ _ _ => false
  | .ring g cid => match Tab.get? s.rings g with
    | none => false
    | some r => r.held.any fun e => fieldAt e.1 0 1 == 0x01 && fieldAt e.1 2 2 == cid

/-- A run at its end releases its context when its completion is posted, and keeps it until then (R113). -/
def State.leaveRun (s : State) (r : Nat) : State :=
  match Tab.get? s.runs r with
  | none => s
  | some x => if s.completionHeld x then s.setRun r { x with ended := true } else s.releaseRun r

/-- The runs whose held completions have been posted release their contexts (R113). -/
def State.leavePosted (s : State) : State :=
  ((s.runs.filter fun p => p.2.ended && !s.completionHeld p.2).map (·.1)).foldl State.releaseRun s

/-! ### Payloads (R134, R135) -/

/-- Warning bits of R134. -/
def warnRsv : Nat := 1
def warnBudget : Nat := 2
def warnSat : Nat := 4
def warnRepacked : Nat := 8

/-- Bytes 16 to 39 of a run's completion, or of a per-command record. -/
def runPayload (status idx : Nat) (valid perCmd : Bool) (e c : Nat) (varied : Bool) (warn rsv trig rec ns : Nat) : List Byte :=
  toLe 8 (status + idx * 2 ^ 8 + b2n valid * 2 ^ 24 + b2n perCmd * 2 ^ 25 + e * 2 ^ 26 + c * 2 ^ 32 + b2n varied * 2 ^ 39 + warn * 2 ^ 48)
  ++ toLe 8 (min rsv (2 ^ 32 - 1) + min trig 65535 * 2 ^ 32 + min rec 65535 * 2 ^ 48) ++ toLe 8 ns

/-- ENGINE_NS of R198. -/
def Run.engineNs (x : Run) : Nat := x.arrCycles * 2 / 3 + x.vecCycles * 2 / 3

/-- A per-command record posted on the run's ring (R135). Its STATUS is OK, also of the command that ends its run with SATURATED (DESIGN CHOICE,
log entry 68). -/
def State.postCmdRecord (s : State) (x : Run) (i : Nat) (p : CmdReport) : State :=
  match x.owner with
  | .ring g cid => s.postExtra g cid (runPayload stOk i true true p.e p.c x.varied p.warn p.rsv p.trig p.recomp p.ns)
  | .phase _ _ _ _ => s

/-- The per-command records that a run owes: those asked for, and all of them once MAP_VARIED is 1 (R135). -/
def State.postVaried (s : State) (r : Nat) : State :=
  match Tab.get? s.runs r with
  | none => s
  | some x =>
    if x.varied then
      let owed := x.reports.filter fun e => !e.2.posted
      let s := owed.foldl (fun s e => s.postCmdRecord x e.1 e.2) s
      s.setRun r { x with reports := x.reports.map fun e => (e.1, { e.2 with posted := true }) }
    else s

/-- A completed command's waypoint record owed (R445). -/
def Run.oweWaypoint (x : Run) (i e c map : Nat) : Run := { x with waypoints := x.waypoints ++ [⟨i, e, c, map⟩] }

/-! ### Meters (R197) -/

def chargeTab (t : Tab Nat) (d n : Nat) : Tab Nat := Tab.set t d (Tab.getD t d 0 + n)
def State.chargeArr (s : State) (d n : Nat) : State := { s with helm := { s.helm with arrCycles := chargeTab s.helm.arrCycles d n } }
def State.chargeVec (s : State) (d n : Nat) : State := { s with helm := { s.helm with vecCycles := chargeTab s.helm.vecCycles d n } }
def State.chargeRadio (s : State) (d n : Nat) : State := { s with helm := { s.helm with radioCycles := chargeTab s.helm.radioCycles d n } }

/-! ### Numbers that the manual leaves to the device -/

/-- A number of a pool of `total` that no entry has: which of the free ones is open (log entry 13). None when all are in use. -/
def State.pickFree {α : Type} (s : State) (t : Tab α) (total : Nat) : Option Nat × State :=
  let f := s.fresh 32
  let k := f.1 % total
  match Tab.lowestFree t k (total - k) with
  | some n => (some n, f.2)
  | none => (Tab.lowestFree t 0 k, f.2)

/-! ### The fences of a ring's commands (R364, R367) -/

/-- The commands fetched before the first one with an ID that waits, and that command. -/
def splitAt? (l : List Fetched) (cid opcode : Nat) : Option (List Fetched × Fetched) :=
  match l with
  | [] => none
  | f :: t =>
    if f.cid = cid ∧ f.opcode = opcode ∧ f.stage = .waiting then some ([], f)
    else (splitAt? t cid opcode).map fun p => (f :: p.1, p.2)

/-- A fetched command that may start: every earlier one of the ring has started, and a FENCE finds none left (R364, R367). A RUN_CHART that waits
for a run context holds its ring (R113). -/
def State.startable (s : State) (g cid opcode : Nat) : Option Fetched :=
  match Tab.get? s.rings g with
  | none => none
  | some r =>
    if s.instQuiet r.inst then none
    else match splitAt? r.fetched cid opcode with
      | none => none
      | some (before, f) =>
        if before.any (fun x => x.stage == .waiting || x.stage == .waitCtx) || (bit f.flags 0 && !before.isEmpty) then none else some f

/-- A fetched command marked with a stage. -/
def State.stageCmd (s : State) (g : Nat) (f : Fetched) (st : CmdStage) : State :=
  match Tab.get? s.rings g with
  | none => s
  | some r =>
    { s with rings := Tab.set s.rings g { r with fetched := r.fetched.map fun x => if x = f then { x with stage := st, startAt := s.now } else x } }

/-- The domain of a ring's instance, and whether it is an operator's. -/
def State.instDom (s : State) (i : Nat) : Nat :=
  match Tab.get? s.insts i with
  | none => 0
  | some x => x.dom

end Sys2Proof.Machine
end

