-- ==== Sys2Proof/Machine/Arbiter.lean ====
section
/-! DEFINITION. The grant decision of the two arbiters (R172 to R177, R184 to R193, R535, R537). -/

namespace Sys2Proof.Machine

/-- The next array cycle at or after a time. -/
def cycUp (t : Nat) : Nat := ceilDiv t arrCyc * arrCyc

/-- The array cycle after a time, in which a change is visible to readiness (R129). -/
def cycAfter (t : Nat) : Nat := (t / arrCyc + 1) * arrCyc

/-! ### The calendar in force (R191, R192) -/

/-- The position in the calendar's period, in array cycles. -/
def State.calPos (s : State) : Nat := s.tai % (calPeriodNs * 2 ^ 32) * 3 / 2 / 2 ^ 32

/-- The strict entry in force, if any. -/
def State.strictEntry (s : State) : Option CalEntry :=
  s.helm.cal.find? fun e => decide (e.start ≤ s.calPos) && decide (s.calPos < e.start + e.len)

/-- The cycles left before the entry in force ends: a strict entry's own end, or the next strict entry's start. None when no calendar is in
force. -/
def State.calLeft (s : State) : Option Nat :=
  match s.helm.cal, s.strictEntry with
  | [], _ => none
  | _, some e => some (e.start + e.len - s.calPos)
  | l, none => some ((l.map fun e => (e.start + calPeriodCyc - s.calPos) % calPeriodCyc).foldl min calPeriodCyc)

/-- The cycles for which a strict entry's hold still keeps fronts out (R192). -/
def State.holdLeft (s : State) : Nat :=
  match s.strictEntry with
  | some e => e.start + 2048 - s.calPos
  | none => 0

/-! ### Candidates -/

/-- The entries of an engine that a decision at time t sees: ready since an earlier cycle (R129, R175). -/
def State.candidates (s : State) (vector : Bool) (t : Nat) : List WinEntry :=
  s.helm.window.filter fun e => e.vector == vector && (match e.readyAt with
    | some a => decide (a < t)
    | none => false) && s.entryReady e

/-- The place of an entry's run among its ring's fetched commands. -/
def State.fetchPos (s : State) (e : WinEntry) : Nat :=
  match Tab.get? s.runs e.run with
  | none => 0
  | some x =>
    match x.owner with
    | .ring g cid =>
      match Tab.get? s.rings g with
      | some r => r.fetched.findIdx fun f => f.cid == cid
      | none => 0
    | .phase _ _ _ _ => 0

/-- An entry's deadline. -/
def State.entryDeadline (s : State) (e : WinEntry) : Option Nat := (Tab.get? s.runs e.run).bind (·.deadline)

/-- Deadline a is the earlier (R172). -/
def dlBefore (a b : Nat) : Bool := decide (2 ^ 31 ≤ wrap (a + 2 ^ 32 - b) 32)

/-- The first element under a strict order, keeping the earlier listed of equals. -/
def firstBy {α : Type} (lt : α → α → Bool) : List α → Option α
  | [] => none
  | a :: t => some (t.foldl (fun x y => if lt y x then y else x) a)

/-- Order of row 1 of R174: deadline, then cell slot, ring, program index. -/
def State.vermBefore (s : State) (a b : WinEntry) : Bool :=
  let da := (s.entryDeadline a).getD 0
  let db := (s.entryDeadline b).getD 0
  if da ≠ db then dlBefore da db
  else
    let key : WinEntry → List Nat := fun e => match Tab.get? s.runs e.run with
      | some x => [x.cellKey, s.entryRing e, e.idx]
      | none => [0, 0, e.idx]
    decide (key a < key b)

/-- Order of rows 2 and 3: start tag, then ring number, then the ring's own order (log entry 14). -/
def State.slateBefore (s : State) (a b : WinEntry) : Bool :=
  let tag := fun (e : WinEntry) => ((s.vtAt e.vector ((s.vtKey e).getD 0)).tag (s.entryRing e)).s
  let ta := tag a
  let tb := tag b
  if ta ≠ tb then vlt ta tb
  else decide ([s.entryRing a, s.fetchPos a, a.idx] < [s.entryRing b, s.fetchPos b, b.idx])

/-- The winner among candidates with its row of R174. Between a Slate ring and the Ochre pseudo-ring of equal tags the ring wins (DESIGN CHOICE,
log entry 70). -/
def State.decide_ (s : State) (l : List WinEntry) : Option (WinEntry × Nat) :=
  match s.strictEntry with
  | some c =>
    (firstBy s.slateBefore (l.filter fun e => e.cls == 2 && (match Tab.get? s.runs e.run with
      | some x => x.dom == c.dom
      | none => false))).map fun e => (e, 2)
  | none =>
    match firstBy s.vermBefore (l.filter fun e => (s.entryDeadline e).isSome) with
    | some e => some (e, 1)
    | none =>
      let slate := firstBy s.slateBefore (l.filter s.shared)
      let ochre := firstBy s.slateBefore (l.filter fun e => e.cls == 3)
      match slate, ochre with
      | some e, some o =>
        let vt := s.helm.vt e.vector
        if s.fld F.HLM_ADMIT_CTRL_OCHRE_PERMILLE ≠ 0 ∧ vlt vt.ochre.s (vt.tag (s.entryRing e)).s then some (o, 3) else some (e, 3)
      | some e, none => some (e, 3)
      | none, some o => some (o, 4)
      | none, none => none

/-! ### Power gates -/

/-- The array, with its wake groups and the vector unit, is ON and takes work (R102, R539, R540). -/
def State.arrayAwake (s : State) : Bool :=
  match Tab.get? s.pow.sleeps 0 with
  | some u => u.st == 0
  | none => false

/-- A signed 32-bit allowance (R543). -/
def State.allowA (s : State) : Int := signed (s.fld F.PMC_ALLOW_ARRAY_ALLOW) 32
def State.allowV (s : State) : Int := signed (s.fld F.PMC_ALLOW_VECTOR_ALLOW) 32

/-- The row whose gate a winner passes: no Vermilion command is ever held back, whichever row grants it (R37, R535). -/
def gateRow (w : WinEntry) (row : Nat) : Nat := if w.cls = 1 then 1 else row

/-- A row's gate is open: rows 3 and 4 need the shared allowance (R535), row 2 the strict entry's (R537). -/
def State.gateOpen (s : State) (vector : Bool) (row : Nat) : Bool :=
  if row = 1 then true
  else if row = 2 then decide (0 < if vector then s.helm.strictV else s.helm.strictA)
  else decide (0 < if vector then s.allowV else s.allowA)

/-- The occupancy of a granted command taken from its row's allowance (R535, R537). -/
def State.payGate (s : State) (vector : Bool) (row occ : Nat) : State :=
  if row = 1 then s
  else if row = 2 then
    { s with helm := if vector then { s.helm with strictV := s.helm.strictV - occ } else { s.helm with strictA := s.helm.strictA - occ } }
  else if vector then s.setFld F.PMC_ALLOW_VECTOR_ALLOW (wrapInt (s.allowV - occ) 32)
  else s.setFld F.PMC_ALLOW_ARRAY_ALLOW (wrapInt (s.allowA - occ) 32)

/-! ### Vermilion waits (R185, R199) -/

/-- A grant now is after a deadline (R185). -/
def State.lateFor (s : State) (dl : Nat) : Bool :=
  let d := wrap (s.ts32 + 2 ^ 32 - dl) 32
  decide (1 ≤ d) && decide (d ≤ 2 ^ 31 - 1)

/-- A cell's accepted slot changed. -/
def State.modSlot (s : State) (c n : Nat) (f : SlotJob → SlotJob) : State :=
  { s with cells := Tab.modify s.cells c fun x => { x with slots := x.slots.map fun j => if j.n = n then f j else j } }

/-- The cell slots that a phase serves: its own, and the members of a group phase (R209). -/
def State.phaseCells (s : State) (c n p : Nat) : List Nat :=
  match (s.cell c).cfgAt n with
  | none => [c]
  | some f =>
    let e := f.phases.getD p []
    if phGroup e then c :: phMembers e else [c]

/-- The largest wait of a Vermilion array command kept (R199), and a late grant counted and its slot marked (R185, R221). -/
def State.noteVerm (s : State) (e : WinEntry) (front : Nat) : State :=
  match Tab.get? s.runs e.run with
  | none => s
  | some x =>
    let w := (front - cycAfter (e.readyAt.getD front)) / arrCyc
    let s := if e.vector || x.cls != 1 then s
      else s.setFld F.HLM_VERM_WAIT_MAX_WAIT (min (max w (s.fld F.HLM_VERM_WAIT_MAX_WAIT)) (2 ^ 32 - 1))
    match x.deadline with
    | none => s
    | some d =>
      if s.lateFor d then
        let s := s.satFld F.HLM_VERM_WAIT_LATE 1
        match x.owner with
        | .phase c n p _ =>
          let s := (s.phaseCells c n p).foldl (fun s c => s.modSlot c n fun j => { j with verLate := true }) s
          { s with cells := Tab.modify s.cells c fun x =>
              { x with phases := x.phases.map fun q => if q.n = n ∧ q.p = p then { q with late := true } else q } }
        | .ring _ _ => s
      else s

/-- An aggregate count of the Helm's family of R524: overall, and 16 above within a strict entry. -/
def State.countHelm (s : State) (kind n : Nat) : State :=
  let s := s.count (0x1E0 + kind) none n
  if s.strictEntry.isSome then s.count (0x1F0 + kind) none n else s

/-- R177: a command beyond the quantum ends its run with SHAPE_INVALID. -/
def State.quantumExceeded (s : State) (r i : Nat) : State :=
  ((s.failRun r stShapeInvalid (some i)).raise F.HLM_ERR_STATUS_QUANTUM_EXCEEDED).countHelm 15 1

/-- The cycles of a command that the quantum bounds, as R176 takes them: an array command's length, a VECOP's cycles, and for an ATTN the
larger of one block and the final term. -/
def quantumCycles (k : PKind) (e c : Nat) : Nat :=
  match k with
  | .vop v => v.cycles c
  | .attn a => max (a.blk c) (a.finalCycles c)
  | k => if k.isArray then k.length e c else 0

/-- The classes of HLM_STATUS. -/
def State.classOf (s : State) (e : WinEntry) : Nat := if s.shared e && e.cls == 1 then 1 else e.cls

end Sys2Proof.Machine
end

