-- ==== Sys2Proof/Machine/ArrayExec.lean ====
section
/-! DEFINITION. Array commands: grant (R174), boundary (R86), completion (R130), as steps of the one pass that the array holds. -/

namespace Sys2Proof.Machine

/-- The front start that a grant now gives (R84, R192). -/
def State.frontAt (s : State) : Nat := max (max s.now s.arr.freeAt) (s.now + s.holdLeft * arrCyc)

/-- A length from a start ends within the calendar entry in force (R174). -/
def State.calFits (s : State) (start len : Nat) : Bool :=
  match s.calLeft with
  | none => true
  | some n => decide (start + len * arrCyc ≤ s.now + n * arrCyc)

/-- The command of a window entry. -/
def State.entryCmd (s : State) (e : WinEntry) : Option PKind :=
  match Tab.get? s.runs e.run with
  | none => none
  | some x => s.runCmd x e.idx

/-- The array's candidates that the calendar lets start now (R174; log entry 15). -/
def State.arrayCandidates (s : State) : List WinEntry :=
  (s.candidates false s.now).filter fun e => match s.entryCmd e with
    | some k => s.calFits s.frontAt (k.length s.mapIn.e s.mapIn.c)
    | none => false

/-- Coalescing is enabled for a class (R127, R138). -/
def State.coalesceOn (s : State) (cls : Nat) : Bool :=
  if cls = 1 then s.flag F.TRK_PACK_CTRL_VERMILION_COALESCE
  else if cls = 2 then s.flag F.TRK_PACK_CTRL_SLATE_COALESCE else false

/-- A MATMUL that may be joined at E and C (R127). -/
def joinable (m : Mat) (e c : Nat) : Bool :=
  m.packable && decide (m.k ≤ kcOf m.fmtW e) && decide ((m.loads e c).length = 1)

/-- The domain of an entry's run. -/
def State.entryDom (s : State) (e : WinEntry) : Nat :=
  match Tab.get? s.runs e.run with
  | none => 0
  | some x => x.dom

/-- Two commands may share a pass by their classes and domains (R127). -/
def State.mayJoin (s : State) (a b : WinEntry) : Bool :=
  a.cls == b.cls && (s.entryDom a == s.entryDom b
    || (a.cls == 2 && !s.strictDom (s.entryDom a) && !s.strictDom (s.entryDom b)))

/-- A joined pass: its entries with their products placed in order, each with its first row and column (R127). -/
abbrev Joined := List (WinEntry × Mat)

/-- The next free row and column of a joined pass. -/
def Joined.rows (j : Joined) : Nat := sumList (j.map (·.2.rows))
def Joined.cols (j : Joined) : Nat := sumList (j.map (·.2.cols))

/-- A product placed at the next free row and column. -/
def Joined.put (j : Joined) (w : WinEntry) (m : Mat) : Joined := j ++ [(w, { m with row0 := j.rows, col0 := j.cols })]

/-- Commands joined to a pass in grant order until the next one does not fit, or 64 are placed (R127). -/
def State.joinMore (s : State) (e c : Nat) (before : WinEntry → WinEntry → Bool) : Nat → Joined → List WinEntry → Joined
  | 0, j, _ => j
  | n + 1, j, l =>
    match firstBy before l with
    | none => j
    | some w =>
      match s.entryCmd w with
      | some (.mat m) =>
        let j' := Joined.put j w m
        if decide (Joined.rows j' ≤ 64 * e) && decide (Joined.cols j' ≤ 64 * c)
            && s.calFits s.frontAt (lengthOf [packedLoad (j'.map (·.2))] (j'.map (·.2)) e)
        then s.joinMore e c before n j' (l.erase w)
        else j
      | _ => j

/-- The entries that a winner's pass holds, the winner first (R127). -/
def State.formPass (s : State) (w : WinEntry) (row e c : Nat) (cand : List WinEntry) : Joined :=
  match s.entryCmd w with
  | some (.mat m) =>
    if joinable m e c && s.coalesceOn w.cls then
      let rest := (cand.erase w).filter fun b => s.mayJoin w b && (match s.entryCmd b with
        | some (.mat n) => joinable n e c && n.fmtA == m.fmtA && n.fmtW == m.fmtW
            && (decide (row = 1) || decide (n.k ≤ kcOf n.fmtW e)) && (s.entryDeadline b).isSome == (s.entryDeadline w).isSome
            && ((s.entryDeadline b).isSome || decide ((PKind.mat n).length e c ≤ s.quantumIn))
        | _ => false)
      s.joinMore e c (if row = 1 then s.vermBefore else s.slateBefore) 63 (Joined.put [] w m) rest
    else [(w, m)]
  | _ => []

/-- A grant noted in the run: the command has started, and E and C are latched (R57, R134). -/
def Run.granted (x : Run) (i e c now : Nat) : Run :=
  { x with
    cmds := Tab.modify x.cmds i fun p => { p with stage := .started, startAt := now }
    varied := x.varied || (x.lastE != 0 && (x.lastE != e || x.lastC != c))
    lastE := e
    lastC := c
    grantedAny := true
    grants := x.grants + 1 }

/-- A granted entry's virtual time (R186, R189). -/
def State.grantVt (s : State) (w : WinEntry) (winner : Bool) : State :=
  match s.vtKey w with
  | some k =>
    let g := s.entryRing w
    let vt := s.vtAt w.vector k
    let v := vt.grant g (s.weight32 w.vector k g)
    s.setVtAt w.vector k (if winner then v else { v with v := vt.v })
  | none =>
    if w.cls = 3 then
      let o := s.fld F.HLM_ADMIT_CTRL_OCHRE_PERMILLE
      if o = 0 then s else s.setVt w.vector ((s.helm.vt w.vector).ochreGrant o)
    else s

/-- One entry of a pass granted (R174, R185). -/
def State.grantEntry (s : State) (w : WinEntry) (front e c : Nat) (winner : Bool) : State :=
  let s := s.noteVerm w front
  let s := s.grantVt w winner
  let s := { s with helm := { s.helm with lastGrant := Tab.set s.helm.lastGrant (s.entryDom w) s.now } }
  let s := s.countWork (s.entryDom w) w.cls 0 1
  let s := s.countHelm (w.cls - 1) 1
  (s.modRun w.run fun x => x.granted w.idx e c s.now).postVaried w.run

/-- The passes and products that TRK_PACK_COUNT counts for a grant (R126, R127). -/
def packCount (k : PKind) (j : Joined) (e c : Nat) : Option (Nat × Nat) :=
  match k with
  | .packed _ ps => some (if packedFits ps e c then 1 else (repack ps e c).passes, ps.length)
  | _ => if 2 ≤ j.length then some (1, j.length) else none

/-- When a pass's last beat or row leaves the array (R104, R130). -/
def ArrCmd.endAt (a : ArrCmd) : Nat := a.front + max a.tLat (a.tData + a.g) * arrCyc

/-- The array cycles of a busy span that is over, counted (R104, R524). -/
def State.countBusy (s : State) (endAt : Nat) : State :=
  let n := (endAt - s.arr.busySince) / arrCyc
  (s.addFld F.TRK_BUSY_CYCLES_BUSY_CYCLES n).countHelm 6 n

/-- The array busy from a front: a new span, unless the passes before it still are in the array then. -/
def State.busyFrom (s : State) (front : Nat) : State :=
  let e := maxList (s.arr.drain.map ArrCmd.endAt)
  if s.arr.drain.isEmpty then { s with arr := { s.arr with busySince := front } }
  else if e < front then { s.countBusy e with arr := { s.arr with busySince := front } }
  else s

/-- The pass on the array after a grant. -/
def State.startPass (s : State) (w : WinEntry) (k : PKind) (row e c : Nat) (j : Joined) : State :=
  let front := s.frontAt
  let loads := if 2 ≤ j.length then [packedLoad (j.map (·.2))] else k.loads e c
  let td := tDataOf loads
  let rp := match k with
    | .packed _ ps => !packedFits ps e c
    | _ => false
  let ws := if j.isEmpty then [w] else j.map (·.1)
  let map := s.mapIn.digest
  let cur := ws.map fun x =>
    ({ run := x.run, idx := x.idx, e := e, c := c, map := map, row := gateRow w row, front := front, tData := td, tLat := td + 64 * e,
       tNext := td + tailOf loads, g := 0, charge := 0, repacked := rp, suppressed := false, fault := 0 } : ArrCmd)
  let s := ws.foldl (fun s x => s.grantEntry x front e c (x == w)) s
  let s := s.busyFrom front
  let g := s.entryRing w
  let s := if s.arr.ring.any (· != g) then s.countHelm 10 1 else s
  let s := { s with arr := { s.arr with cur := cur, ring := some g } }
  let s := s.setFld F.HLM_STATUS_ARRAY_CLASS w.cls
  let s := s.addFld F.TRK_CMD_GRANTED_GRANTED 1
  match packCount k j e c with
  | none => s
  | some (p, n) =>
    let s := (s.addFld F.TRK_PACK_COUNT_PASSES p).addFld F.TRK_PACK_COUNT_PRODUCTS n
    let s := s.countHelm (if 2 ≤ j.length then 5 else 4) p
    let s := s.countWork (s.entryDom w) w.cls 2 n
    if rp then s.countWork (s.entryDom w) w.cls 3 1 else s

/-- A winner granted, or its run ended by the quantum check (R177) or the disabled array (R98). -/
def State.grantWinner (s : State) (w : WinEntry) (row : Nat) (cand : List WinEntry) : State :=
  match s.entryCmd w with
  | none => s
  | some k =>
    let e := s.mapIn.e
    let c := s.mapIn.c
    if s.mapIn.offline then s.failRun w.run stArrayOffline (some w.idx)
    else if row ≠ 1 ∧ s.quantumIn < quantumCycles k e c then s.quantumExceeded w.run w.idx
    else (s.startPass w k row e c (s.formPass w row e c cand)).noteReady

/-- The time of an engine's next decision: this cycle, or the next when only then a command is seen (R129). -/
def State.decisionTime (s : State) (vector : Bool) : Nat :=
  let t := cycUp s.now
  if (s.candidates vector t).isEmpty then t + arrCyc else t

/-- The virtual time that the calendar's entry in force serves: the shared one, or that of its strict domain. -/
def State.timeKey (s : State) : Nat :=
  match s.strictEntry with
  | some c => c.dom + 1
  | none => 0

/-- `on_no_slate_ready` of R186 at a decision that finds no command of the virtual time in force ready. -/
def State.noSlate (s : State) (vector : Bool) (ready : List WinEntry) : State :=
  let k := s.timeKey
  if ready.any (fun e => s.vtKey e == some k) then s else s.setVtAt vector k (s.vtAt vector k).idle

/-- One decision of the array arbiter (R174). -/
def State.arrayDecide (s : State) : State :=
  let s := s.noSlate false (s.candidates false s.now)
  let cand := s.arrayCandidates
  match s.decide_ cand with
  | none => s
  | some (w, row) =>
    if s.mapIn.offline then s.grantWinner w row cand
    else if !s.arrayAwake then s
    else if !s.gateOpen false (gateRow w row) then s.addFld F.PMC_COUNT_GATED 1
    else s.grantWinner w row cand

/-- ARRAY_GRANT (R174): nothing is decided while the array holds a granted command. -/
def State.arrayGrant (s : State) : State :=
  if s.arr.cur ≠ [] then s else (s.advanceTo (s.decisionTime false)).arrayDecide

def execArrayGrant (s : State) : Host.Outcome State Fault Refusal := .next s.arrayGrant

/-! ### The boundary -/

/-- The seed and step of a run (R450). -/
def Run.seedStep (x : Run) : Option (Nat × Nat) := x.seed.map fun sd => (sd, x.step)

/-- The values of an array command (R54 to R77). -/
def State.arrayResults (s : State) (a : ArrCmd) : List (Mat × MatResult) :=
  match Tab.get? s.runs a.run with
  | none => []
  | some x =>
    match s.runCmd x a.idx with
    | none => []
    | some k => k.mats.map fun m => (m, m.run (s.runRd x) a.e x.seedStep)

/-- The guard cycles that a command runs, and the blocks it recomputes (R75, R130). -/
def State.guardOf (s : State) (a : ArrCmd) : Nat × Nat :=
  let r := if a.fault ≠ 0 then [] else s.arrayResults a
  (guardRun (r.map (·.1)) (r.map (·.2.recomp)) a.e, sumList (r.map (·.2.recomp)))

/-- The length of a granted command issued alone (R124, R188). -/
def State.aloneLength (s : State) (a : ArrCmd) : Nat :=
  match Tab.get? s.runs a.run with
  | none => 0
  | some x =>
    match s.runCmd x a.idx with
    | none => 0
    | some k => k.length a.e a.c

/-- R188: a pass's occupancy divided among its commands, the remainder to the one placed first. -/
def shareOut (occ : Nat) (ls : List Nat) : List Nat :=
  let sum := sumList ls
  let parts := ls.map fun l => if sum = 0 then 0 else occ * l / sum
  match parts with
  | [] => []
  | p :: t => (p + (occ - sumList parts)) :: t

/-- The window entry of a command. -/
def State.winEntry (s : State) (r i : Nat) : Option WinEntry := s.helm.window.find? fun e => e.run == r && e.idx == i

/-- A ring has a ready command of the engine in a virtual time (R186). -/
def State.ringHead (s : State) (vector : Bool) (k g : Nat) : Bool :=
  s.helm.window.any fun e => e.vector == vector && s.vtKey e == some k && s.entryRing e == g && e.readyAt.isSome && !s.entryStarted e

/-- The tags of a command's ring moved on by its charge at the boundary (R186, R189). -/
def State.boundaryVt (s : State) (r i charge : Nat) (vector : Bool) (again : Bool) : State :=
  match s.winEntry r i with
  | none => s
  | some e =>
    match s.vtKey e with
    | some k =>
      let g := s.entryRing e
      s.setVtAt vector k ((s.vtAt vector k).boundary g charge (again || s.ringHead vector k g))
    | none =>
      if e.cls = 3 ∧ s.fld F.HLM_ADMIT_CTRL_OCHRE_PERMILLE ≠ 0 then
        s.setVt vector ((s.helm.vt vector).ochreBoundary charge (again || s.ochreHead vector))
      else s

/-- A command marked for its one reissue waits for the next grant under the new map (R133). -/
def State.reissue (s : State) (a : ArrCmd) : State :=
  if a.fault = 1 then
    let s := s.modRun a.run fun x =>
      { x with cmds := Tab.modify x.cmds a.idx fun p => { p with stage := .dispatched, reissued := true }, grants := x.grants - 1 }
    { s with helm := { s.helm with window := s.helm.window.map fun e =>
        if e.run = a.run ∧ e.idx = a.idx then { e with readyAt := none } else e } }
  else s

/-- The pass's boundary: its guard recompute is done, occupancy is divided, and tags and allowances move on (R86, R186, R188, R535). -/
def State.passBoundary (s : State) : State :=
  let cur := s.arr.cur
  match cur with
  | [] => s
  | a :: _ =>
    let gs := cur.map s.guardOf
    let g := sumList (gs.map (·.1))
    let s := s.advanceTo (a.front + (a.tData + g) * arrCyc)
    let occ := a.tNext + g
    let ch := shareOut occ (cur.map s.aloneLength)
    let s := (cur.zip ch).foldl (fun s p => s.boundaryVt p.1.run p.1.idx p.2 false false) s
    let s := s.payGate false a.row occ
    let s := s.addFld F.TRK_GUARD_BLOCKS_RECOMPUTED (sumList (gs.map (·.2)))
    let s := { s with arr := { s.arr with
      cur := []
      drain := s.arr.drain ++ (cur.zip ch).map fun p => { p.1 with g := g, charge := p.2, fault := if p.1.fault = 0 then 0 else 2 }
      freeAt := a.front + occ * arrCyc } }
    (cur.foldl State.reissue s).noteReady

/-- ARRAY_BOUNDARY (R86): nothing while the array holds no granted command. -/
def execArrayBoundary (s : State) : Host.Outcome State Fault Refusal := .next s.passBoundary

/-! ### Completion -/

/-- A granted command's charge added to its domain's meter and its run (R197, R198). -/
def State.chargeCmd (s : State) (a : ArrCmd) : State :=
  match Tab.get? s.runs a.run with
  | none => s
  | some x =>
    ((s.chargeArr x.dom a.charge).setRun a.run { x with arrCycles := x.arrCycles + a.charge }).countWork x.dom x.cls 1 a.charge

/-- What a completed array command reports (R134). -/
def arrReport (a : ArrCmd) (res : List (Mat × MatResult)) : CmdReport :=
  let rsv := sumList (res.map (·.2.rsv))
  let trig := sumList (res.map (·.2.trig))
  let rec_ := sumList (res.map (·.2.recomp))
  let satw := res.any fun p => p.1.satReport == 1 && p.2.satPresent
  { e := a.e
    c := a.c
    rsv := rsv
    trig := trig
    recomp := rec_
    warn := (if rsv = 0 then 0 else warnRsv) + (if rec_ < trig then warnBudget else 0) + (if satw then warnSat else 0)
      + (if a.repacked then warnRepacked else 0)
    ns := a.charge * 2 / 3
    posted := false }

/-- A report added to the run's own counts and warnings (R134). -/
def Run.addReport (x : Run) (i : Nat) (p : CmdReport) : Run :=
  { x with
    warn := x.warn ||| p.warn
    rsvCount := x.rsvCount + p.rsv
    trig := x.trig + p.trig
    recomp := x.recomp + p.recomp
    reports := Tab.set x.reports i p }

/-- The counts of an array command's results (R71, R524): by domain, and in aggregate. -/
def State.countResults (s : State) (x : Run) (res : List (Mat × MatResult)) : State :=
  let els := res.flatMap fun p => p.2.outs.flatMap id
  let near := sumList (res.map fun p => sumList (p.2.stats.map fun w => w % 65536))
  let trig := sumList (res.map (·.2.trig))
  let rec_ := sumList (res.map (·.2.recomp))
  let sa := els.countP (·.satAcc)
  let so := els.countP (·.satOut)
  let rsv := sumList (res.map (·.2.rsv))
  let s := [(4, trig), (5, rec_), (6, sa), (7, so), (8, near), (9, rsv)].foldl (fun s p => s.countWork x.dom x.cls p.1 p.2) s
  [(0x1C0, trig), (0x1C1, rec_), (0x1C2, sa), (0x1C3, so), (0x1C4, rsv)].foldl (fun s p => s.count p.1 none p.2) s

/-- An array command's outputs, flags and statistics written, and its report kept and posted (R120, R130, R134, R135, R445). -/
def State.finishArray (s : State) (a : ArrCmd) : State :=
  match Tab.get? s.runs a.run with
  | none => s
  | some x =>
    match s.runCmd x a.idx with
    | none => s
    | some k =>
      let res := s.arrayResults a
      let stop := res.any fun p => p.1.satReport == 2 && p.2.satPresent
      let s := (res.foldl (fun s p => s.runWrites x (p.1.writes p.2)) s).countResults x res
      let rep := arrReport a res
      let post := k.wantsComplete || x.varied
      let x := x.addReport a.idx { rep with posted := post }
      let s := s.setRun a.run x
      let s := if post then s.postCmdRecord x a.idx rep else s
      let s := if stop then s.failRun a.run stSaturated (some a.idx)
        else if k.wantsWaypoint then s.modRun a.run fun x => x.oweWaypoint a.idx a.e a.c a.map else s
      s.endCmd a.run a.idx true

/-- The array idle: nothing in it, and its busy cycles are counted (R104). -/
def State.arrayIdle (s : State) (endAt : Nat) : State :=
  if s.arr.cur = [] ∧ s.arr.drain = [] then
    let s := s.countBusy endAt
    { s with arr := { s.arr with lastIdle := endAt } }
  else s

/-- The class on the array is that of the pass it holds. -/
def State.arrayClass (s : State) : State := if s.arr.cur = [] then s.setFld F.HLM_STATUS_ARRAY_CLASS 0 else s

/-- One drained command completes, max(t_lat, t_data + G) + 64 cycles after its first front (R130). -/
def State.drainDone (s : State) : State :=
  match s.arr.drain with
  | [] => s
  | a :: t =>
    let endAt := a.endAt
    let s := s.advanceTo (endAt + 64 * arrCyc)
    let s := { s with arr := { s.arr with drain := t } }
    let s := s.chargeCmd a
    let s := if a.fault ≠ 0 then s else if a.suppressed then s.endCmd a.run a.idx true else s.finishArray a
    ((s.arrayIdle endAt).arrayClass).reapRun a.run

/-- ARRAY_CMD_COMPLETE (R130): nothing while no command drains. -/
def execArrayCmdComplete (s : State) : Host.Outcome State Fault Refusal := .next s.drainDone

end Sys2Proof.Machine
end

