-- ==== Sys2Proof/Machine/MacTx.lean ====
section
/-! DEFINITION. The secure channels and associations with which egress frames are protected, and the protection (R385, R387, R429, R430). -/

namespace Sys2Proof.Machine

/-- The index of a secure channel, as ISO_SC_SEL numbers it, and of an SA on it. -/
def scIdx (sp dir ch : Nat) : Nat := ch * 64 + dir * 32 + sp
def saKey (sc an : Nat) : Nat := sc * 4 + an
def State.scDom (s : State) (sc : Nat) : Option Nat :=
  if s.flag F.ISO_SC_ASSIGN_VALID sc then some (s.fld F.ISO_SC_ASSIGN_DOMAIN sc) else none

/-- The transmit channel of a domain on a sub-port: the lowest. -/
def State.txChannel (s : State) (sp dom : Nat) : Option Nat :=
  ((s.indices 0x7000058).filter fun i => i % 64 == sp + 32 && s.scDom i == some dom).foldl (fun (a : Option Nat) i =>
    some (match a with
      | some m => min m i
      | none => i)) none

/-- The last packet number of an SA. -/
def MacSa.lastPn (a : MacSa) : Nat := if a.xpn then 2 ^ 64 - 1 else 2 ^ 32 - 1

/-- The SA with which a channel protects the next frame: the one in use, or the next installed one when that is exhausted (R387). -/
def State.txSa (s : State) (sc : Nat) : Option Nat :=
  let cur := s.fld F.ISO_SC_ASSIGN_AN_IN_USE sc
  ((rangeFrom cur 4).map (· % 4)).find? fun an => match Tab.get? s.sas (saKey sc an) with
    | some a => decide (a.pn ≤ a.lastPn)
    | none => false

/-- A packet number taken from an SA, with PN_LOW posted once when three quarters have passed (R429, R430). -/
def State.takePn (s : State) (sc an dom : Nat) : State × Nat :=
  match Tab.get? s.sas (saKey sc an) with
  | none => (s, 0)
  | some a =>
    let pn := a.pn
    let low := decide (3 * (a.lastPn + 1) / 4 < pn + 1)
    let s := { s with sas := Tab.set s.sas (saKey sc an) { a with pn := pn + 1, low := a.low || low } }
    let s := s.setFld F.ISO_SC_ASSIGN_AN_IN_USE an sc
    let s := if a.lastPn < pn + 1 then s.raise F.ETH_ERR_STATUS_PN_EXHAUSTED else s
    (if low && !a.low then s.notice dom 1 sc an else s, pn)

/-- A number as octets with the most significant first. The identifiers and keys of an SA are octet strings in the order of their request (log
entry 109). -/
def octets (n v : Nat) : List Nat := ((toLe n v).map (·.toNat)).reverse

/-- The SecTAG of a frame, whose channel identifier it carries, and which has `len` octets of user data (R385, R387). -/
def MacSa.secTag (a : MacSa) (an pn len : Nat) : List Nat :=
  [0x88, 0xE5, 0x2C + an, if len < 48 then len else 0] ++ octets 4 (pn % 2 ^ 32) ++ (octets 8 a.sci).reverse

/-- The 96 bits from which a frame's cipher starts: identifier and packet number, or with XPN the salt over the short identifier and the number. -/
def MacSa.iv (a : MacSa) (pn : Nat) : List Nat :=
  if a.xpn then xorBytes ((octets 12 a.salt).reverse) ((octets 4 a.ssci).reverse ++ octets 8 pn) else (octets 8 a.sci).reverse ++ octets 4 pn

/-- The bytes of a frame on the wire: with an association, its SecTAG after the addresses, and the rest encrypted and followed by the ICV. -/
def State.wireBytes (s : State) (sec : Option (Nat × Nat × Nat)) (b : List Byte) : List Byte :=
  match sec with
  | none => b
  | some (sc, an, pn) => match Tab.get? s.sas (saKey sc an) with
    | none => b
    | some a =>
      let clear := (b.take 12).map (·.toNat) ++ a.secTag an pn (b.length - 12)
      let c := gcm256 (((octets 32 a.sak).reverse)) (a.iv pn) clear ((b.drop 12).map (·.toNat))
      (clear ++ c).map (BitVec.ofNat 8)

end Sys2Proof.Machine
end

