-- ==== Sys2Proof/Machine/Vector.lean ====
section
/-! DEFINITION. The vector pipe: grants (R174, R165), VECOP completion (R153), ATTN segments and their KV stream (R155 to R166). -/

namespace Sys2Proof.Machine

/-! ### The KV stream (R162) -/

/-- The ATTN of a run's command. -/
def State.attnOf (s : State) (r i : Nat) : Option (Run × Attn) :=
  match Tab.get? s.runs r with
  | none => none
  | some x =>
    match s.runCmd x i with
    | some (.attn a) => some (x, a)
    | _ => none

/-- A byte of a run's scratchpad window. -/
def State.winByte (s : State) (x : Run) (o : Nat) : Byte := s.byte .scratch x.dom (x.spWin * 64 + o)

/-- The stream of a command, fresh when it has fetched nothing. -/
def State.stream (s : State) (r i : Nat) : KvStream :=
  match s.vec.kv.find? fun k => k.run == r && k.idx == i with
  | some k => k
  | none => ⟨r, i, 0, [], [], [], false⟩

def State.setStream (s : State) (k : KvStream) : State :=
  { s with vec := { s.vec with kv := k :: s.vec.kv.filter fun x => !(x.run == k.run && x.idx == k.idx) } }

def State.dropStream (s : State) (r i : Nat) : State :=
  { s with vec := { s.vec with kv := s.vec.kv.filter fun x => !(x.run == r && x.idx == i) } }

/-- Both pages of block b have landed: the later time (R162). -/
def KvStream.ready (k : KvStream) (a : Attn) (b : Nat) : Option Nat :=
  match Tab.get? k.landed (2 * (b - a.b0)), Tab.get? k.landed (2 * (b - a.b0) + 1) with
  | some x, some y => some (max x y)
  | _, _ => none

/-- The lanes take one more block of the segment when its pages are in the ring: they start in the cycle after the later page, and the
time they waited is KV wait (R162). -/
def State.attnBlock (s : State) (v : VecCmd) (x : Run) (a : Attn) : Option (State × VecCmd) :=
  if v.seg ≤ v.done then none
  else
    let b := a.b0 + v.before + v.done
    let k := s.stream v.run v.idx
    match k.ready a b with
    | none => none
    | some t =>
      let st := max v.lanesAt (t + arrCyc)
      let en := st + a.blk v.c * arrCyc
      some (s.setStream { k with ends := Tab.set k.ends b en },
        { v with done := v.done + 1, lanesAt := en, wait := v.wait + (st - v.lanesAt) / arrCyc
                 rows := a.rowsBlock (s.winByte x) b v.rows })

/-- As many blocks as have landed. -/
def State.attnBlocks (s : State) (v : VecCmd) (x : Run) (a : Attn) : Nat → State × VecCmd
  | 0 => (s, v)
  | n + 1 =>
    match s.attnBlock v x a with
    | none => (s, v)
    | some (s', v') => s'.attnBlocks v' x a n

/-- The segment in service brought up to date. -/
def State.attnAdvance (s : State) : State :=
  match s.vec.cur with
  | none => s
  | some v =>
    match s.attnOf v.run v.idx with
    | none => s
    | some (x, a) =>
      let p := s.attnBlocks v x a (v.seg - v.done)
      { p.1 with vec := { p.1.vec with cur := some p.2 } }

/-- The pipe is released, and the class and lanes of the status registers fall (R167, R199). -/
def State.pipeFree (s : State) : State :=
  let s := { s with vec := { s.vec with cur := none } }
  let s := s.setFld F.DVU_STATUS_LANES_ENABLED 0
  let s := s.setFld F.DVU_STATUS_BUSY 0
  let s := s.setFld F.DVU_STATUS_ATTN_ACTIVE 0
  s.setFld F.HLM_STATUS_VECTOR_CLASS 0

/-- STATE_SAVED of DVU_STATUS. -/
def State.noteSaved (s : State) : State := s.setFld F.DVU_STATUS_STATE_SAVED (b2n (s.vec.suspended.any (·.saved)))

/-- Vector cycles charged to a domain and to a run of it (R197, R198). -/
def State.chargeVecRun (s : State) (dom r n : Nat) : State :=
  let s := s.chargeVec dom n
  match Tab.get? s.runs r with
  | none => s
  | some x => if x.dom = dom then s.setRun r { x with vecCycles := x.vecCycles + n } else s

/-- The array cycles that a command in service has run, and those in which its lanes have waited for pages (R162). -/
def VecCmd.ran (v : VecCmd) (now : Nat) : Nat := (now - v.start) / arrCyc
def VecCmd.waited (v : VecCmd) (now : Nat) : Nat := v.wait + if v.attn ∧ v.done < v.seg then (now - v.lanesAt) / arrCyc else 0

/-- Vector cycles and KV wait counted for a domain's command (R167, R524). -/
def State.countVec (s : State) (dom cls occ wait : Nat) : State :=
  let s := ((s.countWork dom cls 11 occ).countWork dom cls 12 wait).countHelm 7 occ
  (s.addFld F.DVU_VEC_CYCLES_CYCLES occ).addFld F.DVU_KV_WAIT_WAIT_CYCLES wait

/-- The exceptions of a command's results counted (R143, R152, R524). -/
def State.countExc (s : State) (x : Exc) : State :=
  (((s.count 0x1C5 none x.nan).count 0x1C6 none x.inf).count 0x1C7 none x.clamp).count 0x1C8 none x.empty

/-- A command in service that stops here: its cycles so far are charged and counted (R167, R197). -/
def State.vecCut (s : State) (v : VecCmd) : State :=
  match Tab.get? s.runs v.run with
  | some x => (s.chargeVecRun x.dom v.run (v.ran s.now)).countVec x.dom x.cls (v.ran s.now) (v.waited s.now)
  | none => s

/-- A vector command in service or suspended ends without its result: its tags fault and its cycles so far are charged (R163, R197). -/
def State.vecAbort (s : State) (r i : Nat) : State :=
  let s := match s.vec.cur with
    | some v => if v.run = r ∧ v.idx = i then (s.vecCut v).pipeFree else s
    | none => s
  let s := { s with vec := { s.vec with suspended := s.vec.suspended.filter fun v => !(v.run == r && v.idx == i) } }
  ((s.dropStream r i).noteSaved).endCmd r i false

/-- An ATTN stopped by a page that its domain cannot read: TRANSFER_ERROR with the access's cause and offset (R163, R547). -/
def State.kvFail (s : State) (r i cause off : Nat) : State :=
  let s := s.hbmNote cause
  let s := if cause = causePageBounds then s.raise F.DVU_ERR_STATUS_PAGE_BOUNDS else s
  (s.failTransfer r i cause off).vecAbort r i

/-- An ATTN is ready for its stream: dispatched with its reads RESIDENT, or started (R162). -/
def State.attnReady (s : State) (r i : Nat) : Bool :=
  match s.winEntry r i with
  | none => false
  | some e => s.entryReady e || s.entryStarted e

/-- The slot of block b is free: the lanes have finished the block that it held (R162). -/
def KvStream.slotFree (k : KvStream) (a : Attn) (b now : Nat) : Bool :=
  decide (b < a.b0 + a.depth) || (match Tab.get? k.ends (b - a.depth) with
    | some t => decide (t ≤ now)
    | none => false)

/-- The HBM offset of page p of a stream, and its length. -/
def State.kvRange (s : State) (x : Run) (a : Attn) (p : Nat) : Nat × Nat :=
  (a.page (s.winByte x) (a.b0 + p / 2) (p % 2) * 65536, a.pageLen (a.b0 + p / 2))

/-- The next page of an ATTN's stream starts (R162, R163). -/
def State.kvFetch (s : State) (r i : Nat) : State :=
  match s.attnOf r i with
  | none => s
  | some (x, a) =>
    let k := s.stream r i
    let b := a.b0 + k.nextPage / 2
    if s.attnReady r i && decide (b ≤ a.b1) && k.slotFree a b s.now then
      let g := s.kvRange x a k.nextPage
      match s.hbmFault x.dom g.1 g.2 false with
      | some c => s.kvFail r i c g.1
      | none => s.setStream { k with nextPage := k.nextPage + 1, inFlight := k.inFlight ++ [k.nextPage] }
    else s

/-- KV_PAGE_FETCH (R162). -/
def execKvPageFetch (run idx : Nat) (s : State) : Host.Outcome State Fault Refusal := .next (s.kvFetch run idx)

/-- A page of the stream lands in its ring slot (R162). -/
def State.kvLand (s : State) (r i p : Nat) : State :=
  match s.attnOf r i with
  | none => s
  | some (x, a) =>
    let k := s.stream r i
    if k.inFlight.contains p then
      let g := s.kvRange x a p
      match s.hbmFault x.dom g.1 g.2 true with
      | some c => s.kvFail r i c g.1
      | none =>
        let s := s.runStore x (a.slotAt (a.b0 + p / 2) (p % 2)) (s.bytes .hbm x.dom g.1 g.2)
        let s := s.addFld F.DVU_KV_BYTES_BYTES g.2
        let s := s.countWork x.dom x.cls 13 (g.2 / 64)
        (s.setStream { k with inFlight := k.inFlight.erase p, landed := Tab.set k.landed p s.now }).attnAdvance
    else s

/-! ### Grants -/

/-- The suspended ATTN of a window entry. -/
def State.suspendedOf (s : State) (w : WinEntry) : Option VecCmd := s.vec.suspended.find? fun v => v.run == w.run && v.idx == w.idx

/-- What a grant to an entry would run: blocks done before, blocks of the segment, cycles, and whether it is the last (R153, R165). -/
def State.vecPlan (s : State) (w : WinEntry) (k : PKind) (c : Nat) : Nat × Nat × Nat × Bool :=
  match k with
  | .vop v => (0, 0, v.cycles c, true)
  | .attn a =>
    let before := match s.suspendedOf w with
      | some v => v.before
      | none => 0
    let left := a.nblocks - before
    let n := a.segment c s.quantumIn left
    let q := a.segCycles c s.quantumIn left n
    (before, n, q.1, q.2)
  | _ => (0, 0, 0, true)

/-- The ready commands of the vector pipe: dispatched ones, and ATTNs suspended between segments (R165). -/
def State.vectorReady (s : State) : List WinEntry :=
  (s.candidates true s.now) ++ s.helm.window.filter fun e => e.vector && (s.suspendedOf e).isSome

/-- Those that the calendar lets start now (R174; log entry 15). -/
def State.vectorCandidates (s : State) : List WinEntry :=
  s.vectorReady.filter fun e =>
    match s.entryCmd e with
    | some k => s.calFits s.now (s.vecPlan e k s.mapIn.c).2.2.1
    | none => false

/-- A run as a vector command of it stores its results: open when a page of its stream was written meanwhile (R163). -/
def State.streamRun (s : State) (x : Run) (v : VecCmd) : Run := { x with overlap := x.overlap || (s.stream v.run v.idx).spoiled }

/-- The state tensor written with a suspended ATTN's running state, its cycles charged to the command granted next (R165, R197). -/
def State.saveAttn (s : State) (v : VecCmd) (w : WinEntry) (c : Nat) : State × Nat :=
  match s.attnOf v.run v.idx with
  | none => (s, 0)
  | some (x, a) =>
    let n := a.saveCycles c
    let s := s.runWrites x (a.stateWrites v.rows)
    let s := s.chargeVecRun (s.entryDom w) w.run n
    let s := (s.addFld F.DVU_SEG_SWITCH_SAVES 1).addFld F.DVU_VEC_CYCLES_CYCLES n
    let s := (s.countWork x.dom x.cls 14 1).countHelm 11 1
    ({ s with vec := { s.vec with suspended := s.vec.suspended.map fun u =>
        if u.run = v.run ∧ u.idx = v.idx then { u with saved := true, between := some (s.entryDom w, w.run) } else u } }, n)

/-- A saved ATTN's restore, charged to the command that was granted in between (R165, R197). -/
def State.restoreAttn (s : State) (w : WinEntry) (c : Nat) : State × Nat :=
  match s.suspendedOf w, s.attnOf w.run w.idx with
  | some v, some (_, a) =>
    if v.saved then
      let n := a.saveCycles c
      let s := match v.between with
        | some (d, r) => s.chargeVecRun d r n
        | none => s
      ((s.addFld F.DVU_SEG_SWITCH_RESTORES 1).addFld F.DVU_VEC_CYCLES_CYCLES n, n)
    else (s, 0)
  | _, _ => (s, 0)

/-- The running state that a segment starts from. -/
def State.startRows (s : State) (w : WinEntry) : List AttnRow :=
  match s.suspendedOf w with
  | some v => v.rows
  | none =>
    match s.attnOf w.run w.idx with
    | some (x, a) => a.rows0 (s.winByte x)
    | none => []

/-- A vector grant noted in the run (R136, R173). -/
def Run.vecGranted (x : Run) (i now : Nat) : Run :=
  if x.started i then x
  else { x with cmds := Tab.modify x.cmds i fun p => { p with stage := .started, startAt := now }, grantedAny := true, grants := x.grants + 1 }

/-- The winner on the pipe (R165, R174). -/
def State.vecStart (s : State) (w : WinEntry) (k : PKind) (row e c : Nat) : State :=
  let plan := s.vecPlan w k c
  let rows := s.startRows w
  let other := s.vec.suspended.find? fun v => !v.saved && !(v.run == w.run && v.idx == w.idx)
  let p := match other with
    | some v => s.saveAttn v w c
    | none => (s, 0)
  let q := p.1.restoreAttn w c
  let s := q.1
  let start := s.now + (p.2 + q.2) * arrCyc
  let isAttn := match k with
    | .attn _ => true
    | _ => false
  let map := match s.suspendedOf w with
    | some v => v.map
    | none => s.mapIn.digest
  let charged := match s.suspendedOf w with
    | some v => v.charged
    | none => 0
  let s := s.noteVerm w start
  let s := s.grantVt w true
  let s := { s with helm := { s.helm with lastGrant := Tab.set s.helm.lastGrant (s.entryDom w) s.now } }
  let s := s.modRun w.run fun x => x.vecGranted w.idx s.now
  let s := { s with vec := { s.vec with
    suspended := s.vec.suspended.filter fun v => !(v.run == w.run && v.idx == w.idx)
    cur := some { run := w.run, idx := w.idx, e := e, c := c, map := map, row := gateRow w row, start := start, cyc := plan.2.2.1,
                  attn := isAttn, last := plan.2.2.2, before := plan.1, seg := plan.2.1, done := 0, lanesAt := start, wait := 0,
                  charged := charged, rows := rows, saved := false, between := none, suppressed := false } } }
  let s := s.setFld F.DVU_STATUS_LANES_ENABLED (64 * c)
  let s := s.setFld F.DVU_STATUS_BUSY 1
  let s := s.setFld F.DVU_STATUS_ATTN_ACTIVE (b2n isAttn)
  let s := s.setFld F.HLM_STATUS_VECTOR_CLASS w.cls
  let s := if plan.1 = 0 then (s.countWork (s.entryDom w) w.cls 10 1).countHelm 3 1 else s
  ((s.noteSaved).attnAdvance).noteReady

/-- An ATTN between two segments whose run a decision has ended ends with it. -/
def State.vecDrop (s : State) (w : WinEntry) : State := if (s.suspendedOf w).isSome then s.vecAbort w.run w.idx else s

/-- One decision of the vector arbiter (R174); the quantum bounds each grant, a later segment's too (R177). -/
def State.vectorDecide (s : State) : State :=
  let s := s.noSlate true s.vectorReady
  let cand := s.vectorCandidates
  match s.decide_ cand with
  | none => s
  | some (w, row) =>
    match s.entryCmd w with
    | none => s
    | some k =>
      let e := s.mapIn.e
      let c := s.mapIn.c
      if s.mapIn.offline then (s.failRun w.run stArrayOffline (some w.idx)).vecDrop w
      else if !s.arrayAwake then s
      else if !s.gateOpen true (gateRow w row) then s.addFld F.PMC_COUNT_GATED 1
      else if row ≠ 1 ∧ s.quantumIn < quantumCycles k e c then (s.quantumExceeded w.run w.idx).vecDrop w
      else s.vecStart w k row e c

/-- The time of the pipe's next decision. -/
def State.vectorTime (s : State) : Nat :=
  if s.vec.suspended = [] then s.decisionTime true else cycUp s.now

/-- VECTOR_GRANT (R174): nothing is decided while a command holds the pipe. -/
def State.vectorGrant (s : State) : State :=
  if s.vec.cur.isSome then s else (s.advanceTo s.vectorTime).vectorDecide

def execVectorGrant (s : State) : Host.Outcome State Fault Refusal := .next s.vectorGrant

/-! ### Completion -/

/-- The occupancy of a command or segment charged, and the tags and allowances moved on (R186, R187, R197, R535). -/
def State.vecCharge (s : State) (v : VecCmd) (occ : Nat) (again : Bool) : State :=
  match Tab.get? s.runs v.run with
  | none => s
  | some x =>
    let s := s.chargeVecRun x.dom v.run occ
    let s := s.boundaryVt v.run v.idx occ true again
    let s := s.payGate true v.row occ
    s.countVec x.dom x.cls occ v.wait

/-- A vector command's per-command record and waypoint (R135, R445). -/
def State.vecReport (s : State) (v : VecCmd) (k : PKind) : State :=
  match Tab.get? s.runs v.run with
  | none => s
  | some x =>
    let s := if k.wantsComplete then s.postCmdRecord x v.idx ⟨v.e, v.c, 0, 0, 0, 0, v.charged * 2 / 3, true⟩ else s
    if k.wantsWaypoint then s.modRun v.run fun x => x.oweWaypoint v.idx v.e v.c v.map else s

/-- A VECOP completes after exactly its cycles, with its outputs and exception record written (R152, R153). -/
def State.vecopDone (s : State) : State :=
  match s.vec.cur with
  | none => s
  | some v =>
    if v.attn then s
    else
      let s := s.advanceTo (v.start + v.cyc * arrCyc)
      let s := s.vecCharge v v.cyc false
      let s := match Tab.get? s.runs v.run with
        | none => s
        | some x =>
          match s.runCmd x v.idx with
          | some (.vop o) =>
            if v.suppressed then s
            else
              let w := o.result (s.winByte x)
              ((s.runWrites { x with overlap := x.overlap || o.clashes } w.1).countExc w.2).vecReport { v with charged := v.cyc } (.vop o)
          | _ => s
      ((s.pipeFree).endCmd v.run v.idx true).reapRun v.run

def execVecopComplete (s : State) : Host.Outcome State Fault Refusal := .next s.vecopDone

/-- The external read of an ATTN (R447): K then V bytes of every block. -/
def State.attnBytes (s : State) (x : Run) (a : Attn) : List Byte :=
  (rangeFrom 0 (2 * a.nblocks)).flatMap fun p => let g := s.kvRange x a p; s.bytes .hbm x.dom g.1 g.2

/-- An external read's entry in the input digest (R447). -/
def extRead (i kind : Nat) (b : List Byte) : ExtRead := ⟨i, kind, b.length, leNat (sha3_256 b)⟩

/-- The last segment of an ATTN: the state tensor, output and exception record written (R158, R160). -/
def State.attnFinish (s : State) (v : VecCmd) (x : Run) (a : Attn) : State :=
  let s := if v.suppressed then s
    else
      let s := s.modRun v.run fun y => { y with hashes := y.hashes ++ [extRead v.idx 4 (s.attnBytes x a)] }
      let w := a.result v.rows
      ((s.runWrites (s.streamRun x v) w.1).countExc w.2).vecReport v (.attn a)
  (((s.pipeFree).dropStream v.run v.idx).endCmd v.run v.idx true).reapRun v.run

/-- A segment completes once the lanes have finished its blocks; the ATTN waits between segments, or ends with its last (R162, R164,
R165). -/
def State.segmentDone (s : State) : State :=
  match s.vec.cur with
  | none => s
  | some v =>
    if !v.attn || decide (v.done < v.seg) then s
    else
      match s.attnOf v.run v.idx with
      | none => s.pipeFree
      | some (x, a) =>
        let fin := v.cyc - v.seg * a.blk v.c
        let s := s.advanceTo (v.lanesAt + fin * arrCyc)
        let s := s.vecCharge v (v.cyc + v.wait) (!v.last)
        let v := { v with charged := v.charged + v.cyc + v.wait }
        if v.last then s.attnFinish v x a
        else if v.suppressed then (((s.pipeFree).dropStream v.run v.idx).endCmd v.run v.idx true).reapRun v.run
        else
          let s := s.pipeFree
          { s with vec := { s.vec with suspended := s.vec.suspended ++ [{ v with before := v.before + v.seg, seg := 0, done := 0 }] } }

/-- ATTN_SEGMENT_COMPLETE (R162, R165): nothing while the segment waits for pages. -/
def execAttnSegmentComplete (s : State) : Host.Outcome State Fault Refusal := .next s.segmentDone

/-! ### Writes of pages that an ATTN may read (R163) -/

/-- An ATTN of a domain may read a range of its HBM: it is ready or in service, and a page of its stream meets the range (R163). -/
def State.mayRead (s : State) (d off n r i : Nat) : Bool :=
  match s.attnOf r i with
  | none => false
  | some (x, a) =>
    x.dom == d && s.attnReady r i && (rangeFrom 0 (2 * a.nblocks)).any fun p =>
      let g := s.kvRange x a p
      decide (g.1 < off + n) && decide (off < g.1 + g.2)

/-- A STORE has written a range of a domain's HBM: the ATTNs that may read it have no defined result (R163). -/
def State.spoilPages (s : State) (d off n : Nat) : State :=
  (s.helm.window.filter fun e => s.mayRead d off n e.run e.idx).foldl
    (fun s e => s.setStream { s.stream e.run e.idx with spoiled := true }) s

end Sys2Proof.Machine
end

