-- ==== Sys2Proof/Machine/Rings.lean ====
section
/-! DEFINITION. Rings: fetch and its checks (R364 to R368), NOP and HCOPY (R369), cancels (R136), service passes (R559), and the DMA
engines that host transfers use (R372 to R374). -/

namespace Sys2Proof.Machine

/-! ### Host transfers (R372) -/

/-- The instance of a ring is an infrastructure operator's (R362). -/
def State.ringOper (s : State) (g : Nat) : Bool :=
  match Tab.get? s.insts (s.ringInst g) with
  | some i => i.oper
  | none => false

/-- A record that names a ring's command (R544). -/
def State.ringRecord (s : State) (g cid cause action : Nat) : FaultRec :=
  { FaultRec.of cause action with
    dom := if s.ringOper g then none else some (s.ringDom g), inst := some (s.ringInst g), ring := some g, cmd := some cid }

def causeDmaFault : Nat := 0x0106
def causeDmaTimeout : Nat := 0x0107

/-- The largest read request that an engine issues (R353, R372). -/
def readSize : Nat := 128 * 2 ^ (Config.readRequest % 6)

/-- The non-posted requests that a link may have outstanding (R353, R567). -/
def linkTags : Nat := 4096

/-- The read requests that a job's descriptors hold and that the host has not answered (R372). -/
def DmaJob.outstanding (j : DmaJob) : Nat :=
  if j.landed || j.failed.isSome then 0 else min j.reads (ceilDiv (j.desc * 65536) readSize)

/-- The tags of a link that are in quarantine; they count as used (R374, R567). -/
def State.tagsHeld (s : State) (link : Nat) : Nat := sumList ((s.quar.filter fun q => !q.fabric && q.link == link).map (·.tags))

/-- The tags of a link among the jobs that read over it, in the order in which they started: a request that finds none waits (R353, R567; log
entry 107). -/
def State.tagShares (s : State) (link : Nat) : Tab Nat :=
  ((s.dma.filter fun j => (s.route j.2.inst).1 == link).foldl (fun (p : Nat × Tab Nat) j =>
    let n := min p.1 j.2.outstanding
    (p.1 - n, p.2 ++ [(j.1, n)])) (linkTags - s.tagsHeld link, [])).2

/-- The read requests of a job that are on its link. -/
def State.readsOut (s : State) (k : Nat) (j : DmaJob) : Nat := Tab.getD (s.tagShares (s.route j.inst).1) k 0

/-- Descriptors in use on an engine (R372). -/
def State.descUsed (s : State) (e : Nat) : Nat := sumList ((s.dma.filter fun j => j.2.engine == e).map (·.2.desc))

/-- The translations of a DMA range of an instance created with ATS in the translation cache (R373): one for each descriptor, the oldest
making room among the 4,096 (log entry 28), and each one that was not there a miss of the engine. -/
def State.atsTouch (s : State) (e inst addr len : Nat) : State :=
  match Tab.get? s.insts inst with
  | none => s
  | some i =>
    if i.ats then
      let n := ceilDiv len 65536
      let new := (rangeFrom (addr / 65536 + (n - 4096)) (min n 4096)).map fun p => (i.link * 2 ^ 20 + i.pasid, p)
      let l := s.ats.filter (fun e => !new.contains e) ++ new
      { s with ats := l.drop (l.length - 4096) }.count (0xC07 + 8 * e) none (new.countP fun p => !s.ats.contains p)
    else s

/-- A read of host memory started for a ring or run context of number n, or nothing while its engine's descriptors are all in use or no
engine is enabled (R372, R550). -/
def State.dmaRead (s : State) (use : DmaUse) (inst n addr len : Nat) : Option State :=
  match s.engineFor ucDma 16 n with
  | none => none
  | some e =>
    let free := 1024 - s.descUsed e
    if free = 0 then none
    else
      let s := s.count (0xC00 + 8 * e) none (ceilDiv len 65536)
      let s := s.count (0xC01 + 8 * e) none (ceilDiv len readSize)
      let s := s.atsTouch e inst addr len
      some { s with
        dma := Tab.set s.dma s.dmaNext { use := use, inst := inst, engine := e, desc := min free (ceilDiv len 65536), addr := addr, len := len,
                                         reads := ceilDiv len readSize, data := [], startAt := s.now, landed := false, failed := none }
        dmaNext := s.dmaNext + 1 }

/-- A transfer for number n finds no free descriptor on its engine, or no engine: it waits (R372). -/
def State.dmaBusy (s : State) (n : Nat) : Bool :=
  match s.engineFor ucDma 16 n with
  | none => true
  | some e => decide (1024 ≤ s.descUsed e)

/-- The wait counted where an engine is there (R524). -/
def State.dmaWaits (s : State) (n : Nat) : State :=
  match s.engineFor ucDma 16 n with
  | none => s
  | some e => s.count (0xC06 + 8 * e) none 1

/-- Bytes moved by DMA (R380, R524). -/
def State.dmaBytes (s : State) (dom n : Nat) : State :=
  (s.addFld F.PCI_DMA_BYTES_BYTES n).count 0x177 (some dom) (n / 64)

/-- The largest write that an engine issues (R353, R372). -/
def writeSize : Nat := 128 * 2 ^ (Config.maxPayload % 3)

/-- A write to an instance's host memory issued for a ring or run context of number n (R372). -/
def State.dmaWrite (s : State) (inst n dom addr : Nat) (b : List Byte) : State :=
  let rt := s.route inst
  let s := (s.send (.hostWrite rt.1 rt.2 addr b)).dmaBytes dom b.length
  match s.engineFor ucDma 16 n with
  | none => s
  | some e =>
    let s := (s.count (0xC00 + 8 * e) none (ceilDiv b.length 65536)).count (0xC02 + 8 * e) none (ceilDiv b.length writeSize)
    (s.count (0xC03 + 8 * e) none (b.length / 64)).atsTouch e inst addr b.length

/-- A cause of a failed host transfer noted in the status registers (R373, R374). -/
def State.dmaNote (s : State) (cause dom : Nat) : State :=
  let s := s.count 0x178 (some dom) 1
  if cause = causeDmaFault then s.raise F.PCI_ERR_STATUS_DMA_FAULT else s.raise F.PCI_ERR_STATUS_CPL_TIMEOUT

/-- A read of host memory that the device makes within a command and that times out (R374). -/
def State.readTimeout (s : State) (dom : Nat) : State := (s.addFld F.PCI_LATE_TIMEOUTS 1).dmaNote causeDmaTimeout dom

/-! ### Fetch (R363, R364, R366 to R368) -/

/-- The classes on which an opcode is accepted; none for a reserved opcode (R368, R210, R252, R274, R521). -/
def opcodeClasses (op : Nat) : Option (List Nat) :=
  match op with
  | 0x00 => some [1, 2, 3]
  | 0x01 | 0x02 | 0x03 | 0x04 | 0x08 => some [1, 2]
  | 0x40 | 0x41 | 0x42 | 0x48 | 0x4C | 0x4D => some [1]
  | 0x50 | 0x51 | 0x52 | 0x53 | 0x54 | 0x55 | 0x56 => some [1, 2]
  | 0x60 | 0x61 | 0x62 | 0x63 | 0x64 | 0x6F => some [3]
  | _ => none

def stOpcodeInvalid : Nat := 0x70
def stClassMismatch : Nat := 0x71

/-- The status of a fetched entry that is not to start (R368). -/
def fetchCheck (b : List Byte) (cls : Nat) : Option Nat :=
  if fieldAt b 1 1 / 4 ≠ 0 ∨ fieldAt b 4 4 ≠ 0 then some stOpcodeInvalid
  else match opcodeClasses (fieldAt b 0 1) with
    | none => some stOpcodeInvalid
    | some l => if l.contains cls then none else some stClassMismatch

/-- The completion of a command that failed the fetch checks: its status alone (R368). -/
def State.fetchChecked (s : State) (g : Nat) (r : Ring) (b : List Byte) : State :=
  match fetchCheck b r.cls with
  | none => s
  | some st => s.completeStatus g (fieldAt b 2 2) st

/-- A reckoning ring: privileged, of class Slate or Vermilion (R451). -/
def Ring.reckons (r : Ring) : Bool := r.priv && (r.cls == 1 || r.cls == 2)

/-- The step of a RUN_CHART fetched from a ring, 0 without reckoning, and STEP moved on (R452). -/
def State.takeStep (s : State) (r : Ring) (b : List Byte) : Nat × State :=
  if r.reckons && fieldAt b 0 1 == 0x01 then
    (s.fld F.RING_RECKON_STEP r.key, s.addFld F.RING_RECKON_STEP 1 r.key)
  else (0, s)

/-- A RUN_CHART completed without a run: only its status (R134). -/
def State.completeNoRun (s : State) (g cid st idx : Nat) (valid : Bool) : State :=
  let s := if st ≥ 0x10 then s.addFld F.TRK_REJECT_COUNT_RUN_FAILURES 1 else s
  let s := if st = stOk then s
    else s.count (15 + match Tab.get? s.rings g with
      | some r => if r.cls = 1 then 16 else 0
      | none => 0) (some (s.ringDom g)) 1
  s.complete g cid (runPayload st idx valid false 0 0 false 0 0 0 0 0)

/-- An entry taken at SQ_HEAD (R364, R367); a RUN_CHART that a CANCEL has met before its fetch ends with CANCELLED (R136). -/
def State.takeEntry (s : State) (g : Nat) (r : Ring) (b : List Byte) : State :=
  let n := 2 ^ s.fld F.RING_CFG_SQ_LOG2 r.key
  let s := s.setFld F.RING_STATUS_SQ_HEAD ((s.fld F.RING_STATUS_SQ_HEAD r.key + 1) % n) r.key
  let s := if s.ringOper g then s else s.count 0x17C (some (s.ringDom g)) 1
  let p := s.takeStep r b
  let s := p.2
  let f : Fetched := ⟨fieldAt b 2 2, fieldAt b 0 1, fieldAt b 1 1, fieldAt b 8 8, b, .waiting, s.now, p.1, r.arrivals.headD s.tai16⟩
  let later := (r.cancels.filter (· != 0)).map (· - 1)
  let s := { s with rings := Tab.set s.rings g { r with fetched := r.fetched ++ [f], arrivals := r.arrivals.drop 1, cancels := later } }
  if r.cancels.contains 0 && f.opcode == 0x01 && (fetchCheck b r.cls).isNone then s.completeNoRun g f.cid stCancelled 0 false
  else s.fetchChecked g r b

/-- A ring whose fetch failed goes to ERROR (R363, R373). -/
def State.ringFails (s : State) (g : Nat) (r : Ring) (code : Nat) : State :=
  let cause := if code = 1 then causeDmaTimeout else causeDmaFault
  let s := s.setFld F.RING_STATUS_STATE ringError r.key
  let s := s.setFld F.RING_STATUS_ERR_CAUSE code r.key
  let s := s.raise F.PCI_ERR_STATUS_RING_ERROR
  let s := if code = 1 then s.readTimeout (s.ringDom g) else s.dmaNote cause (s.ringDom g)
  let s := s.count 0x17D (some (s.ringDom g)) 1
  s.faultRecord { s.ringRecord g 0 cause 1 with cmd := none }

/-- A ring has an entry that a queue core may fetch (R363, R366, R370), and no RUN_CHART of it waits for a run context (R113). -/
def State.mayFetch (s : State) (r : Ring) : Bool :=
  s.ringState r == ringEnabled && !s.instQuiet r.inst && s.cqRoom r && r.held.isEmpty && !s.queueCores.isEmpty
    && !(r.fetched.any fun f => f.stage == .waitCtx)
    && s.fld F.RING_STATUS_SQ_HEAD r.key != r.sqTail % 2 ^ s.fld F.RING_CFG_SQ_LOG2 r.key

/-- An entry padded to its 64 bytes. -/
def pad64 (b : List Byte) : List Byte := (b ++ List.replicate 64 0).take 64

/-- RING_FETCH (R367): one published entry fetched, with what the host read brings. -/
def State.ringFetch (s : State) (g : Nat) (e : HostRead) : State :=
  match Tab.get? s.rings g with
  | none => s
  | some r =>
    if s.mayFetch r then
      match e with
      | .data b => s.takeEntry g r (pad64 b)
      | .timeout => s.ringFails g r 1
      | .denied _ => s.ringFails g r 2
    else s

def execRingFetch (ring : Nat) (entry : HostRead) (s : State) : Host.Outcome State Fault Refusal := .next (s.ringFetch ring entry)

/-! ### Service passes (R559) -/

/-- The bound of a transfer: four timeouts of the fabric for a fabric transfer, and of the DMA engines for any other (R559, log
entry 106). -/
def State.xferBound (s : State) (fabric : Bool) : Nat :=
  4 * (if fabric then s.fld F.FAB_CTRL_TIMEOUT_US else s.fld F.PCI_DMA_CTRL_CPL_TIMEOUT_US) * usec

/-- A command of the ring that is a transfer itself, HCOPY or a fabric command, is held beyond its bound. -/
def State.jobOverdue (s : State) (g : Nat) : Bool :=
  s.dma.any (fun p => decide (p.2.startAt + s.xferBound false < s.now) && match p.2.use with
    | .hcopy r _ => r == g
    | .fabric r _ => r == g
    | _ => false)
  || s.fab.jobs.any fun p => decide (p.2.startAt + s.xferBound true < s.now) && match p.2.use with
    | .ring r _ => r == g
    | _ => false

/-- A command of the ring is held beyond its bound: an array or vector command its length + 64E + 1 ms after its grant, a transfer four
timeouts after its start. -/
def State.overdue (s : State) (g : Nat) : Bool :=
  s.jobOverdue g || s.runs.any fun p =>
    p.2.ring? == some g && p.2.cmds.any fun c =>
      c.2.stage == .started &&
        (match s.runCmd p.2 c.1 with
         | some k =>
           match k with
           | .xfer x => decide (c.2.startAt + s.xferBound (x.ext == 1) < s.now)
           | k =>
             let len := match k with
               | .vop v => v.cycles s.mapC
               | .attn a => a.cycles s.mapC
               | k => k.length s.mapE s.mapC
             decide (c.2.startAt + (len + 64 * s.mapE) * arrCyc + msec < s.now)
         | none => false)

/-- RING_SERVICE_PASS (R559): the heartbeat of an enabled or quiescing ring advances unless a command is overdue. -/
def State.servicePass (s : State) (g : Nat) : State :=
  match Tab.get? s.rings g with
  | none => s
  | some r =>
    if (s.ringState r = ringEnabled ∨ s.ringState r = ringQuiescing) ∧ s.overdue g = false then
      s.addFld F.RING_HEARTBEAT_HEARTBEAT 1 r.key
    else s

def execRingServicePass (ring : Nat) (s : State) : Host.Outcome State Fault Refusal := .next (s.servicePass ring)

/-! ### The end of a maintenance command (R521, R522) -/

def stAborted : Nat := 0xA3

/-- The payload of a maintenance command's completion. -/
def maintPayload (status errors : Nat) (disabled : Bool) : List Byte :=
  toLe 1 status ++ toLe 1 0 ++ toLe 2 (min 65535 errors) ++ toLe 1 (b2n disabled)

/-- A maintenance command over: its token is released, and a unit that it removed is back. -/
def State.maintOver (s : State) (m : MaintCmd) : State :=
  { s.noteMap with sxt := { s.sxt with maint := s.sxt.maint.erase m, tokens := s.sxt.tokens.erase (m.op - 0x5F) } }
def State.maintEnd (s : State) (m : MaintCmd) (status errors : Nat) (disabled : Bool) : State :=
  (s.maintOver m).complete m.ring m.cid (maintPayload status errors disabled)

/-- The maintenance commands of an instance aborted by its context reset (R375, R522). -/
def State.maintAborts (s : State) (inst : Nat) : State :=
  (s.sxt.maint.filter fun m => match Tab.get? s.rings m.ring with
    | some r => r.inst == inst
    | none => false).foldl (fun (s : State) m => s.maintEnd m stAborted 0 false) s

/-! ### NOP and HCOPY (R369) -/

/-- NOP completes with OK as soon as it starts (R369). -/
def State.nop (s : State) (g cid : Nat) : State :=
  match s.startable g cid 0x00 with
  | none => s
  | some _ => s.completeStatus g cid stOk

def execNop (ring cid : Nat) (s : State) : Host.Outcome State Fault Refusal := .next (s.nop ring cid)

/-- The payload rules of HCOPY (R369). -/
def hcopyOk (b : List Byte) : Bool :=
  fieldAt b 16 8 % 64 == 0 && fieldAt b 24 8 % 64 == 0 && decide (64 ≤ fieldAt b 32 4) && decide (fieldAt b 32 4 ≤ 4294967232)
    && fieldAt b 32 4 % 64 == 0 && decide (fieldAt b 36 1 < 2) && allZero (slice b 37 27)

/-- An HCOPY that fails: TRANSFER_ERROR with the cause in bytes 18 and 19, and its record (R369, R548). -/
def State.hcopyFail (s : State) (g cid cause detail : Nat) : State :=
  let s := s.hbmNote cause
  let s := s.faultRecord { s.ringRecord g cid cause 1 with detail := detail }
  s.complete g cid (toLe 1 stTransferError ++ toLe 1 0 ++ toLe 2 cause)

/-- An HCOPY's bytes reach the domain's HBM (R291, R295, R369). -/
def State.hcopyLand (s : State) (g cid off : Nat) (b : List Byte) : State :=
  let d := s.ringDom g
  match s.hbmFault d off b.length false with
  | some c => s.hcopyFail g cid c off
  | none =>
    (((s.storeData d off b).dmaBytes d b.length).count 0x176 (some d) (b.length / 64)).completeStatus g cid stOk

/-- HCOPY from HBM to the host: read, issued and complete (R369, R370). -/
def State.hcopyOut (s : State) (g cid addr off len : Nat) : State :=
  let d := s.ringDom g
  let s := s.readHbm d off len
  match s.hbmFault d off len true with
  | some c => s.hcopyFail g cid c off
  | none =>
    ((s.dmaWrite (s.ringInst g) g d addr (s.bytes .hbm d off len)).count 0x176 (some d) (len / 64)).completeStatus g cid stOk

/-- HCOPY starts (R369). -/
def State.hcopy (s : State) (g cid : Nat) : State :=
  match s.startable g cid 0x08 with
  | none => s
  | some f =>
    let b := f.body
    if !hcopyOk b then s.completeStatus g cid stOpcodeInvalid
    else if fieldAt b 36 1 = 1 ∧ s.dmaBusy g = true then s.dmaWaits g
    else if fieldAt b 36 1 = 1 then s.hcopyOut g cid (fieldAt b 16 8) (fieldAt b 24 8) (fieldAt b 32 4)
    else match s.hbmFault (s.ringDom g) (fieldAt b 24 8) (fieldAt b 32 4) false with
      | some c => s.hcopyFail g cid c (fieldAt b 24 8)
      | none =>
        match s.dmaRead (.hcopy g cid) (s.ringInst g) g (fieldAt b 16 8) (fieldAt b 32 4) with
        | none => s.dmaWaits g
        | some s => s.stageCmd g f .started

/-! ### CANCEL (R136) -/

/-- The array and vector commands of a program that a run may grant. -/
def State.grantable (s : State) (x : Run) : Nat :=
  match Tab.get? s.charts x.chart with
  | none => 0
  | some ch => (s.chartKinds ch).countP fun p => (p.2.isArray || p.2.isVector) && (match x.halt with
    | some h => decide (p.1 ≤ h)
    | none => true)

/-- The run that a ring's command started. -/
def State.runOf (s : State) (g cid : Nat) : Option (Nat × Run) := s.runs.find? fun p => p.2.owner = .ring g cid

/-- The first incomplete RUN_CHART of a ring with an ID (R136, R367). -/
def State.cancelTarget (s : State) (g target : Nat) : Option Fetched :=
  match Tab.get? s.rings g with
  | none => none
  | some r => r.fetched.find? fun f => f.cid == target && f.opcode == 0x01

/-- A target that waits for its context ends with CANCELLED (R136). -/
def State.cancelWaiting (s : State) (g : Nat) (f : Fetched) : State :=
  let mine := fun w : CtxWaiter => w.owner = .ring g f.cid
  let s := s.ctxWait.foldl (fun s w => if mine w then
    { s with charts := Tab.modify s.charts w.chart fun c => { c with runs := c.runs - 1 } }.chartReap w.chart else s) s
  { s with ctxWait := s.ctxWait.filter fun w => !decide (mine w) }.completeNoRun g f.cid stCancelled 0 false

/-- The effect of a cancel on its target, and what the CANCEL returns (R136). -/
def State.cancelRun (s : State) (g : Nat) (f : Fetched) : State × Nat :=
  match f.stage with
  | .started =>
    match s.runOf g f.cid with
    | none => (s, stNotFound)
    | some (r, x) =>
      if x.grantedAny = false then (s.failRun r stCancelled none, stOk)
      else if x.grants < s.grantable x then (s.failRun r stCancelledPartial none, stTooLate)
      else (s, stTooLate)
  | _ => (s.cancelWaiting g f, stOk)

/-- The array and vector commands of a run that have been granted. -/
def State.grantsOf (s : State) (r : Nat) : Nat :=
  match Tab.get? s.runs r with
  | some x => x.grants
  | none => 0

/-- The decisions of the cycle in which a cancel or a reset arrives, where they raise a number of grants: a grant of that cycle takes
precedence (R34, R175, R377). -/
def State.decisionTie (s : State) (grants : State → Nat) : State :=
  let a := (s.advanceTo (cycUp s.now)).arrayDecide
  let s := if s.arr.cur = [] ∧ grants s < grants a then a else s
  let v := (s.advanceTo (cycUp s.now)).vectorDecide
  if s.vec.cur = none ∧ grants s < grants v then v else s

/-- A cancel of a fetched target. -/
def State.cancelFetched (s : State) (g : Nat) (f : Fetched) : State × Nat :=
  match s.runOf g f.cid with
  | some (r, _) => (s.decisionTie fun t => t.grantsOf r).cancelRun g f
  | none => s.cancelRun g f

/-- A cancel of a published RUN_CHART that is not fetched, so many entries past SQ_HEAD; none where the ring has published no such entry. -/
def State.cancelAhead (s : State) (g : Nat) (pos : Option Nat) : Option State :=
  match pos, Tab.get? s.rings g with
  | some p, some r =>
    let n := 2 ^ s.fld F.RING_CFG_SQ_LOG2 r.key
    if p < (r.sqTail % n + n - s.fld F.RING_STATUS_SQ_HEAD r.key % n) % n then
      some { s with rings := Tab.set s.rings g { r with cancels := r.cancels ++ [p] } }
    else none
  | _, _ => none

/-- CANCEL (R136). `pos` is where the submission queue holds the target, for one that is not fetched: how many published entries stand before it
(log entry 69). Its reserved payload bits are ignored (DESIGN CHOICE, log entry 67). -/
def State.cancel (s : State) (g cid : Nat) (pos : Option Nat) : State :=
  match s.startable g cid 0x04 with
  | none => s
  | some f =>
    match s.cancelTarget g (fieldAt f.body 16 2) with
    | some t =>
      let p := s.cancelFetched g t
      p.1.completeStatus g cid p.2
    | none =>
      match s.cancelAhead g pos with
      | some s => s.completeStatus g cid stOk
      | none => s.completeStatus g cid stNotFound

def execCancel (ring : Nat) (x : CancelOf) (s : State) : Host.Outcome State Fault Refusal := .next (s.cancel ring x.cid x.pos)

end Sys2Proof.Machine
end

