-- ==== Sys2Proof/Machine/FabricOps.lean ====
section
/-! DEFINITION. The memory fabric (R316 to R345): bearings, routes and reachability, serving a request, and the operations and jobs of
this node as a requester. -/

namespace Sys2Proof.Machine

/-! ### Addresses and tables (R316, R318, R321) -/

def faOffset (a : Nat) : Nat := a % 2 ^ 40
def faNode (a : Nat) : Nat := a / 2 ^ 40 % 1024
def faGran (a : Nat) : Nat := faOffset a / 2 ^ 21
def faOk (a align : Nat) : Bool := a / 2 ^ 50 == 0 && a % align == 0

/-- A word of a table entry. -/
def entWord (e : List Nat) (w : Nat) : Nat := e.getD w 0

/-- Fields of a bearing (R318). -/
def beValid (e : List Nat) : Bool := bit (entWord e 0) 0
def beNode (e : List Nat) : Nat := bits (entWord e 0) 10 1
def beBase (e : List Nat) : Nat := bits (entWord e 0) 29 11
def beSize (e : List Nat) : Nat := bits (entWord e 0) 48 30
def beTarget (e : List Nat) : Nat := bits (entWord e 1) 9 0
def beEpoch (e : List Nat) : Nat := bits (entWord e 1) 25 10
def beReadMostly (e : List Nat) : Bool := bit (entWord e 1) 26
def beStaleTol (e : List Nat) : Bool := bit (entWord e 1) 27
def beCompat (e : List Nat) : Bool := bit (entWord e 1) 28

/-- The valid replicas of a word of four 11-bit fields. -/
def replicasOf (w : Nat) : List Nat :=
  (rangeFrom 0 4).filterMap fun k => if bit w (11 * k + 10) then some (bits w (11 * k + 9) (11 * k)) else none

/-- Fields of a region entry (R321). -/
def reValid (e : List Nat) : Bool := bit (entWord e 0) 0
def reRole (e : List Nat) : Nat := bits (entWord e 0) 2 1
def reReadMostly (e : List Nat) : Bool := bit (entWord e 0) 3
def reMirrored (e : List Nat) : Bool := bit (entWord e 0) 4
def reStaleTol (e : List Nat) : Bool := bit (entWord e 0) 5
def reCompat (e : List Nat) : Bool := bit (entWord e 0) 6
def reWritable (e : List Nat) : Bool := bit (entWord e 0) 7
def reStale (e : List Nat) : Bool := bit (entWord e 0) 8
def reKeySet (e : List Nat) : Bool := bit (entWord e 0) 9
def reEpoch (e : List Nat) : Nat := bits (entWord e 0) 31 16
def reDom (e : List Nat) : Nat := bits (entWord e 0) 38 32
def reFd (e : List Nat) : Nat := bits (entWord e 0) 46 39
def reBase (e : List Nat) : Nat := bits (entWord e 1) 18 0
def reSize (e : List Nat) : Nat := bits (entWord e 1) 37 19
def reDomGran (e : List Nat) : Nat := bits (entWord e 1) 56 38
def reAddrNode (e : List Nat) : Nat := bits (entWord e 2) 9 0
def reMirror (e : List Nat) : Nat := bits (entWord e 2) 19 10
def reOwner (e : List Nat) : Nat := bits (entWord e 2) 30 21
def reReplicas (e : List Nat) : List Nat := replicasOf (entWord e 3)

/-- A number with one bit, or a field, set. -/
def putBit (x n : Nat) (b : Bool) : Nat := x - x / 2 ^ n % 2 * 2 ^ n + b2n b * 2 ^ n
def putBits (x hi lo v : Nat) : Nat := x - bits x hi lo * 2 ^ lo + v % 2 ^ (hi + 1 - lo) * 2 ^ lo

/-- An entry with a word changed. -/
def setWord (e : List Nat) (w v : Nat) : List Nat := (rangeFrom 0 4).map fun i => if i = w then v else entWord e i

/-- Granule ranges that overlap. -/
def granOverlap (a n b m : Nat) : Bool := decide (a < b + m) && decide (b < a + n)

/-- The valid bearing that covers an address (R318). -/
def State.bearingOf (s : State) (a : Nat) : Option (List Nat) :=
  (s.fab.bearings.find? fun p => beValid p.2 && beNode p.2 == faNode a && decide (beBase p.2 ≤ faGran a)
    && decide (faGran a < beBase p.2 + beSize p.2)).map (·.2)

/-- The valid region entry that covers an address (R324 check 1), with its number. -/
def State.regionOf (s : State) (a : Nat) : Option (Nat × List Nat) :=
  s.fab.regions.find? fun p => reValid p.2 && reAddrNode p.2 == faNode a && decide (reBase p.2 ≤ faGran a)
    && decide (faGran a < reBase p.2 + reSize p.2)

/-- The domain offset of a fabric address in a region's copy (R321). -/
def reOffset (e : List Nat) (a : Nat) : Nat := 2 ^ 21 * reDomGran e + (faOffset a - 2 ^ 21 * reBase e)

/-- The region lies wholly over an operation (R324 check 6). -/
def reInside (e : List Nat) (a n : Nat) : Bool := decide (faOffset a + n ≤ 2 ^ 21 * (reBase e + reSize e))

def State.nodeId (s : State) : Nat := s.fld F.FAB_CTRL_NODE_ID

/-! ### Statuses (R330) -/

def fsDenied : Nat := 0x60
def fsUnreachable : Nat := 0x61
def fsStale : Nat := 0x62
def fsMirror : Nat := 0x63
def fsUnknown : Nat := 0x64
def fsTimeout : Nat := 0x65
def fsNoBearing : Nat := 0x66
def fsNotOwner : Nat := 0x67
def fsReadOnly : Nat := 0x68
def fsAlign : Nat := 0x69

/-! ### Routes and reachability (R319, R320) -/

/-- A port carries flits. -/
def State.portUp (s : State) (p : Nat) : Bool := s.flag F.FAB_PORT_STATUS_UP p

/-- The egress ports of a destination that are configured and up, the primary first (R319). -/
def State.livePorts (s : State) (n : Nat) : List Nat :=
  ((if s.flag F.FAB_ROUTE_PRIMARY_VALID n then [s.fld F.FAB_ROUTE_PRIMARY_PORT n] else [])
    ++ (if s.flag F.FAB_ROUTE_ALT_VALID n then [s.fld F.FAB_ROUTE_ALT_PORT n] else [])).filter s.portUp

/-- A destination is DOWN (R320). -/
def State.nodeDown (s : State) (n : Nat) : Bool := s.flag F.FAB_ROUTE_DOWN n

/-- Cache lines of a test dropped and counted (R320, R335). -/
def State.dropLines (s : State) (p : CacheLine → Bool) : State :=
  { s with fab := { s.fab with cache := s.fab.cache.filter fun l => !p l } }.addFld F.FAB_CACHE_LINES_DROPPED (s.fab.cache.countP p)

/-- A destination enters DOWN (R320). -/
def State.markDown (s : State) (n : Nat) : State :=
  if s.nodeDown n || n == s.nodeId then s
  else
    let s := s.setFld F.FAB_ROUTE_DOWN 1 n
    (s.raise F.FAB_ERR_STATUS_NODE_DOWN).dropLines fun l => l.server == n

/-- A destination whose route has no port up enters DOWN (R320). -/
def State.checkRoute (s : State) (n : Nat) : State := if s.livePorts n = [] then s.markDown n else s

/-! ### Sending -/

/-- The code of a message's kind: the ring opcode of its operation, and numbers of the model's own for the others (R347). -/
def FKind.code : FKind → Nat
  | .load => 0x50
  | .store => 0x51
  | .atomic _ _ _ => 0x52
  | .inval => 0x53
  | .own _ => 0x55
  | .mirror => 0x151
  | .drop => 0x153
  | .probe => 0x15F

/-- The slots of 16 bytes of a message and the flits that hold them (R346, R347; log entry 18). -/
def flitsOf (bytes : Nat) : Nat := ceilDiv (ceilDiv bytes 16) 15

/-- A port's hidden state. -/
def State.rhb (s : State) (p : Nat) : RhumbPort := Tab.getD s.rhumb p ⟨0, 0, 0, 0, false, none, []⟩
def State.setRhb (s : State) (p : Nat) (x : RhumbPort) : State := { s with rhumb := Tab.set s.rhumb p x }

/-- A message whose first flit leaves now: an operation's timeout counts from here (R345). -/
def State.stampOp (s : State) (m : Out) : State :=
  match m with
  | .fabricReq _ _ _ _ _ _ _ _ _ id _ => { s with fab := { s.fab with ops := Tab.modify s.fab.ops id fun o => { o with sentAt := s.now } } }
  | _ => s

/-- A message of n flits sent on a port: TX_SEQ advances and they stay in the replay buffer (R348). -/
def State.putFlits (s : State) (p n : Nat) (m : Out) : State :=
  let s := s.addFld F.FAB_PORT_STATUS_TX_SEQ n p
  let s := s.setRhb p { s.rhb p with msgs := (s.rhb p).msgs + n }
  let s := s.setFld F.FAB_PORT_STATUS_REPLAY_USED (s.fld F.FAB_PORT_STATUS_REPLAY_USED p + n) p
  ((s.count (0xD80 + 32 * p) none n).stampOp m).send m

/-- The port sends message flits: it is not retraining (R349), and n more unacknowledged flits fit its replay buffer (R348). -/
def State.maySend (s : State) (p n : Nat) : Bool :=
  !s.flag F.FAB_PORT_STATUS_RETRAINING p && decide (s.fld F.FAB_PORT_STATUS_REPLAY_USED p + n ≤ 2047)

/-- A message on a port, behind those that wait (R348, R349). -/
def State.sendMsg (s : State) (p n : Nat) (m : Out) : State :=
  let x := s.rhb p
  if x.held.isEmpty && s.maySend p n then s.putFlits p n m else s.setRhb p { x with held := x.held ++ [(n, m)] }

/-- The messages that wait for a port sent in their order, as far as it takes them. -/
def State.pumpPort (s : State) (p : Nat) : State :=
  let x := s.rhb p
  x.held.foldl (fun s e => s.sendMsg p e.1 e.2) (s.setRhb p { x with held := [] })

/-- An operation whose request waits for its port. -/
def State.opHeld (s : State) (id : Nat) : Bool :=
  s.rhumb.any fun p => p.2.held.any fun e => match e.2 with
    | .fabricReq _ _ _ _ _ _ _ _ _ i _ => i == id
    | _ => false

/-- The request message of an operation sent on a port. -/
def State.sendReq (s : State) (id : Nat) (o : FOp) (port : Nat) : State :=
  let flags := b2n o.fillCache + (if o.retried then 2 else 0) + (if o.kind = .mirror then 4 else 0) + (if o.kind = .probe then 8 else 0)
  s.sendMsg port (flitsOf (32 + o.data.length)) (.fabricReq port o.node o.kind.code o.addr o.len o.key o.epoch flags o.engine id o.data)

/-- An operation started toward a node: sent on its route's live port, or failing at once when there is none. -/
def State.sendOp (s : State) (o : FOp) : Option State :=
  match s.livePorts o.node with
  | [] => none
  | p :: _ =>
    let id := s.fab.next
    let o := { o with port := p, sentAt := s.now }
    some ({ s with fab := { s.fab with ops := Tab.set s.fab.ops id o, next := id + 1 } }.sendReq id o p)

/-- A response sent to another node. -/
def State.sendRsp (s : State) (node engine tag status flags : Nat) (data : List Byte) : State :=
  match s.livePorts node with
  | [] => s
  | p :: _ => s.sendMsg p (flitsOf (8 + data.length)) (.fabricRsp p node status flags engine tag data)

/-! ### Failure records and jobs (R328, R329) -/

/-- The domain's record of a fabric failure (R547). -/
def State.fabRecord (s : State) (use : FUse) (status addr : Nat) : State :=
  match use with
  | .ring g cid => s.faultRecord { s.ringRecord g cid (0x0200 + status) 1 with detail := addr }
  | .xfer r i =>
    match Tab.get? s.runs r with
    | some x => s.faultRecord { s.runRecord x (0x0200 + status) 1 i with detail := addr }
    | none => s
  | .chart id _ =>
    match Tab.get? s.charts id with
    | some c => s.faultRecord { s.ringRecord c.ring c.cid (0x0200 + status) 1 with chart := some id, detail := addr }
    | none => s

/-- Counters of an operation that ended (R352, R524). -/
def State.countEnd (s : State) (dom engine bytes status : Nat) : State :=
  let s := s.addFld F.FAB_OPS_OPS 1
  let s := s.count 0x170 (some dom) 1
  let s := s.count (0xC80 + 8 * engine) none 1
  if status = stOk then (s.count 0x171 (some dom) (bytes / 64)).count (0xC81 + 8 * engine) none (bytes / 64)
  else if status = fsUnreachable ∨ status = fsMirror then (s.addFld F.FAB_FAIL_UNREACHABLE 1).count 0x172 (some dom) 1
  else if status = fsTimeout then ((s.addFld F.FAB_FAIL_TIMEOUTS 1).count 0x173 (some dom) 1).count (0xC83 + 8 * engine) none 1
  else if status = fsUnknown then s.count 0x175 (some dom) 1
  else s

/-- The state with a job changed. -/
def State.modJob (s : State) (j : Nat) (f : FJob → FJob) : State := { s with fab := { s.fab with jobs := Tab.modify s.fab.jobs j f } }

/-- One block of a job ended: its data kept, or its failure. -/
def State.partDone (s : State) (j off n status : Nat) (data : List Byte) (stale retried : Bool) : State :=
  match Tab.get? s.fab.jobs j with
  | none => s
  | some x =>
    let s := s.countEnd x.dom x.engine n status
    let s := if stale then s.count 0x174 (some x.dom) 1 else s
    s.modJob j fun x =>
      { x with
        parts := if status = stOk then Tab.set x.parts off data else x.parts
        fails := if status = stOk then x.fails else Tab.set x.fails off status
        out := x.out - 1
        stale := x.stale || stale
        retried := x.retried || retried
        old := match x.kind with
          | .atomic _ _ _ => leNat (data.take 8)
          | _ => x.old
        dropped := match x.kind with
          | .inval => leNat (data.take 2)
          | _ => x.dropped }

/-- The length of the operation at an address of a range with `left` bytes to go (R328). -/
def opLen (kind : FKind) (a left : Nat) : Nat :=
  match kind with
  | .load | .store => if a % 256 = 0 ∧ 256 ≤ left then 256 else min 64 left
  | _ => left

/-- A job has ended: everything issued, nothing outstanding. -/
def FJob.over (x : FJob) : Bool := decide (x.len ≤ x.next) && x.out == 0

/-- The status of a job: that of its lowest-addressed failing operation (R328). -/
def FJob.status (x : FJob) : Nat :=
  match x.fails with
  | [] => stOk
  | (_, st) :: _ => st

/-- The bytes of a load that returned whole. -/
def FJob.bytes (x : FJob) : List Byte := x.parts.flatMap (·.2)

/-- Adjacent parts of a load, each run of them with its offset, for the host writes of an FLOAD (R328). -/
def FJob.spans (x : FJob) : List (Nat × List Byte) :=
  x.parts.foldl (fun (acc : List (Nat × List Byte)) p =>
    match acc with
    | (o, b) :: t => if o + b.length = p.1 then (o, b ++ p.2) :: t else p :: acc
    | [] => [p]) []

/-- A ring command's job completed (R329). -/
def State.ringJobDone (s : State) (g cid : Nat) (x : FJob) : State :=
  let d := s.ringDom g
  let st := x.status
  let off := match x.fails with
    | (o, _) :: _ => o
    | [] => 0
  let s := if st = stOk then s else s.fabRecord x.use st (x.addr + off)
  let s := match x.kind, s.fetched? g cid with
    | .load, some f => x.spans.reverse.foldl (fun (s : State) (p : Nat × List Byte) => s.dmaWrite (s.ringInst g) g d (fieldAt f.body 24 8 + p.1) p.2) s
    | _, _ => s
  s.complete g cid (toLe 1 st ++ toLe 1 (b2n x.stale + 2 * b2n x.retried) ++ toLe 2 (min x.dropped 65535) ++ toLe 4 off ++ toLe 8 x.old)

/-- A job that is over is completed: a ring command posts, a transfer and a chart's weights stay until they are taken (R107, R328). -/
def State.jobCheck (s : State) (j : Nat) : State :=
  match Tab.get? s.fab.jobs j with
  | none => s
  | some x =>
    if x.over then
      match x.use with
      | .ring g cid => { s with fab := { s.fab with jobs := Tab.del s.fab.jobs j } }.ringJobDone g cid x
      | _ => s
    else s

/-! ### The fabric cache and replicas (R333 to R339) -/

/-- A load hits a line, or the part of it that is there (R333; log entry 97). -/
def CacheLine.hit (l : CacheLine) (x : FJob) (e : List Nat) (a n : Nat) : Bool :=
  decide (l.addr ≤ a) && decide (a + n ≤ l.addr + l.data.length) && l.epoch == beEpoch e && l.dom == x.dom && l.key == x.key

/-- The bytes of the cache that a load hits (R333). -/
def State.cacheHit (s : State) (x : FJob) (e : List Nat) (a n : Nat) : Option (List Byte) :=
  (s.fab.cache.find? fun l => l.hit x e a n).map fun l => slice l.data (a - l.addr) n

/-- The bearing over an address lets a detached replica serve its loads (R318, log entry 95). -/
def State.staleOk (s : State) (a : Nat) : Bool := (s.bearingOf a).any beStaleTol

/-- A load of this job may fill the cache (R333). -/
def State.mayFill (s : State) (x : FJob) (e : List Nat) : Bool :=
  let wants := match x.use with
    | .ring _ _ => x.cache
    | _ => beReadMostly e
  x.kind = .load && wants && !beCompat e && !s.flag F.ISO_DOM_STATUS_STRICT x.dom && s.fld F.MEM_POOL_FC_MIB != 0

/-- The line numbers, of 256 bytes from the region's base, that a range touches. -/
def linesOf (e : List Nat) (a n : Nat) : List Nat :=
  let o := faOffset a - 2 ^ 21 * reBase e
  rangeFrom (o / 256) ((o + n + 255) / 256 - o / 256)

/-- Every line of a range is valid in a replica. -/
def State.linesValid (s : State) (r : Nat) (e : List Nat) (a n : Nat) : Bool :=
  let v := Tab.getD s.fab.lines r []
  (linesOf e a n).all v.contains

/-- A replica of this node is attached (R339). -/
def State.attached (s : State) (r : Nat) : Bool := !s.fab.detached.contains r

/-- The home of a region that this node holds a copy of: the target of the bearing over it, else its address node. -/
def State.homeOf (s : State) (e : List Nat) : Nat :=
  match s.bearingOf (reAddrNode e * 2 ^ 40 + 2 ^ 21 * reBase e) with
  | some b => beTarget b
  | none => reAddrNode e

/-- Any message from a home renews its lease; a detached replica that regains it marks every line invalid (R335, R339). -/
def State.heard (s : State) (n : Nat) : State :=
  let back := s.fab.detached.filter fun r => match Tab.get? s.fab.regions r with
    | some e => s.homeOf e == n
    | none => false
  { s with fab := { s.fab with
    heard := Tab.set s.fab.heard n s.now
    detached := s.fab.detached.filter fun r => !back.contains r
    lines := s.fab.lines.map fun p => if back.contains p.1 then (p.1, []) else p } }

/-- A lease from a home is held (R335). -/
def State.leaseHeld (s : State) (n : Nat) : Bool :=
  match Tab.get? s.fab.heard n with
  | some t => decide (s.now < t + s.fld F.FAB_CTRL_LEASE_US * usec)
  | none => false

/-! ### Serving (R324, R325, R331 to R334, R340) -/

/-- A region entry becomes STALE (R325, R341). -/
def State.markStale (s : State) (r : Nat) : State :=
  let s := { s with fab := { s.fab with regions := Tab.modify s.fab.regions r fun e => setWord e 0 (putBit (entWord e 0) 8 true) } }
  (s.raise F.FAB_ERR_STATUS_STALE_HOME).logOpen (toLe 4 r)

/-- The request's epoch is newer than the entry's (R325). -/
def epochNewer (req ent : Nat) : Bool :=
  let d := wrap (req + 65536 - ent) 16
  decide (1 ≤ d) && decide (d ≤ 32767)

/-- A write or an atomic. -/
def FKind.writes : FKind → Bool
  | .store => true
  | .atomic _ _ _ => true
  | _ => false

/-- The checks of R324 after the first, for an entry: the status that they give, and whether the entry becomes STALE. -/
def serveCheck (e : List Nat) (kind : FKind) (a n epoch src : Nat) : Option (Nat × Bool) :=
  if reStale e then some (fsStale, false)
  else if epoch ≠ reEpoch e then some (fsStale, epochNewer epoch (reEpoch e))
  else if reRole e = 1 ∨ reRole e = 3 ∨ (reRole e = 2 ∧ kind ≠ .load) then some (fsDenied, false)
  else if kind.writes && !reWritable e then some (fsReadOnly, false)
  else if kind.writes && reCompat e && reOwner e != src then some (fsNotOwner, false)
  else if !reInside e a n then some (fsDenied, false)
  else none

/-- `atomic_new` of R332. -/
def atomicNew (op old a cmp : Nat) : Nat :=
  match op with
  | 0 => wrap (old + a) 64
  | 1 => if signed a 64 < signed old 64 then a else old
  | 2 => if signed a 64 > signed old 64 then a else old
  | 3 => a
  | 4 => if old = cmp then a else old
  | _ => old

/-- The bytes that a write puts at the home: a store's own, or an atomic's new word (R332). -/
def State.writeData (s : State) (e : List Nat) (kind : FKind) (a : Nat) (data : List Byte) : List Byte :=
  match kind with
  | .atomic op v c => toLe 8 (atomicNew op (s.le .hbm (reDom e) (reOffset e a) 8) v c)
  | _ => data

/-- An access of a served request that its domain's memory ends: the status that the requester then sees is not stated (log entry 19). -/
def State.serveFault (s : State) (e : List Nat) (a cause : Nat) : State × Nat :=
  let s := s.hbmNote cause
  let s := s.faultRecord { FaultRec.of cause 1 with dom := some (reDom e), detail := reOffset e a }
  let f := s.fresh 8
  (f.2, fsDenied + f.1 % 10)

end Sys2Proof.Machine
end

