-- ==== Sys2Proof/Machine/FabricServe.lean ====
section
/-! DEFINITION. Serving fabric requests at this node and issuing its own (R324 to R345). -/

namespace Sys2Proof.Machine

/-! ### Replies -/

/-- A reply reaches whoever waits for it: another node, or this node's own operation (R328). A load that this node's own replica cannot
serve, or could serve only with stale data that its bearing does not allow, goes on to the next node of its list (R318, R339). -/
def State.replyTo (s : State) (src : FSrc) (status flags : Nat) (data : List Byte) : State :=
  match src with
  | .rem n e t => s.sendRsp n e t status flags data
  | .loc id =>
    match Tab.get? s.fab.ops id with
    | none => s
    | some o =>
      let s := { s with fab := { s.fab with ops := Tab.del s.fab.ops id } }
      match o.owner with
      | .job j off =>
        let none_ := decide (status = fsUnreachable) || (bit flags 0 && !s.staleOk o.addr)
        if none_ = true ∧ o.kind = .load ∧ o.rest ≠ [] then { s with fab := { s.fab with again := s.fab.again ++ [o] } }
        else if none_ then (s.partDone j off o.len fsUnreachable [] false false).jobCheck j
        else (s.partDone j off o.len status data (bit flags 0) false).jobCheck j
      | _ => s

/-! ### Invalidations (R332, R334) -/

/-- Lines of a range dropped from this node: its cache, and the valid lines of its replicas. A fill in flight for the range is not
installed (R334, R336). -/
def State.dropRange (s : State) (a n : Nat) : State :=
  let inR := fun l : CacheLine => decide (l.addr < a + n) && decide (a < l.addr + l.data.length)
  { s with fab := { s.fab with
    cache := s.fab.cache.filter fun l => !inR l
    lines := s.fab.lines.map fun p => match Tab.get? s.fab.regions p.1 with
      | some e => if reRole e = 2 ∧ reAddrNode e = faNode a then
          (p.1, p.2.filter fun l => !(linesOf e a n).contains l) else p
      | none => p
    ops := s.fab.ops.map fun p =>
      if p.2.kind = .load ∧ p.2.addr < a + n ∧ a < p.2.addr + p.2.len then (p.1, { p.2 with hit := true }) else p } }

/-- The recipients of an invalidation: the sharers, and for a HOME entry its replicas (R334). -/
def State.recipients (s : State) (r : Nat) (e : List Nat) : List Nat :=
  ((Tab.getD s.fab.sharers r [] ++ if reRole e = 0 then reReplicas e else []).eraseDups).filter fun n => n != s.nodeId

/-- A node that fills its cache from a region recorded as a sharer (R334). -/
def State.noteSharer (s : State) (q : HomeReq) (r : Nat) : State :=
  let l := Tab.getD s.fab.sharers r []
  if q.fill && q.node != s.nodeId && !l.contains q.node then { s with fab := { s.fab with sharers := Tab.set s.fab.sharers r (l ++ [q.node]) } }
  else s

/-- One invalidation sent, or its delivery failed now (R335). -/
def State.sendDrop (s : State) (h a n engine node : Nat) : State :=
  let o : FOp := ⟨.inval h, .drop, node, a, n, 0, 0, [], engine, 0, 0, false, false, false, []⟩
  match (if s.nodeDown node then none else s.sendOp o) with
  | some s => s
  | none => { s with fab := { s.fab with homes := Tab.modify s.fab.homes h fun x =>
      { x with failedAt := Tab.set x.failedAt node s.now } } }

/-- An invalidation begun for a requester; the reply follows when every recipient has answered or been dropped (R334). -/
def State.startDrops (s : State) (src : FSrc) (r : Nat) (e : List Nat) (kind : FKind) (a n reply : Nat) : State × Bool :=
  let l := s.recipients r e
  let s := s.dropRange a n
  if l.isEmpty then (s, true)
  else
    let h := s.fab.next
    let s := { s with fab := { s.fab with
      homes := Tab.set s.fab.homes h ⟨src, r, e, kind, a, n, [], reply, l, 0, []⟩, next := h + 1 } }
    (l.foldl (fun s node => s.sendDrop h a n 0 node) s, false)

/-- What a finished invalidation answers: the sharers dropped for an FINVAL, the old word for an atomic (R329, R332). -/
def HomeOp.answer (h : HomeOp) : List Byte :=
  match h.kind with
  | .inval => toLe 2 (min h.dropped 65535)
  | _ => toLe 8 h.reply

/-- A home operation completes once nobody is waited for. -/
def State.homeCheck (s : State) (h : Nat) : State :=
  match Tab.get? s.fab.homes h with
  | none => s
  | some x =>
    if x.waiting = [] then { s with fab := { s.fab with homes := Tab.del s.fab.homes h } }.replyTo x.src stOk 0 x.answer
    else s

/-! ### Serving (R324) -/

/-- A write applied at the home, with the invalidation that an atomic makes (R332, R340): answered now, or later. An ATTN that may read what it
writes has no defined result (R163). -/
def State.applyWrite (s : State) (src : FSrc) (r : Nat) (e : List Nat) (kind : FKind) (a : Nat) (data : List Byte) (old : Nat) : State :=
  let s := (s.storeData (reDom e) (reOffset e a) data).spoilPages (reDom e) (reOffset e a) data.length
  match kind with
  | .atomic _ _ _ =>
    let p := s.startDrops src r e kind (a / 64 * 64) 64 old
    if p.2 then p.1.replyTo src stOk 0 (toLe 8 old) else p.1
  | _ => s.replyTo src stOk 0 []

/-- A write of a MIRRORED region forwarded to its mirror first (R340). -/
def State.forwardWrite (s : State) (src : FSrc) (r : Nat) (e : List Nat) (kind : FKind) (a n : Nat) (data : List Byte) (old : Nat) : State :=
  let m := reMirror e
  if s.nodeDown m then s.replyTo src fsMirror 0 []
  else
    let h := s.fab.next
    let s := { s with fab := { s.fab with homes := Tab.set s.fab.homes h ⟨src, r, e, kind, a, n, data, old, [m], 0, []⟩, next := h + 1 } }
    let o : FOp := ⟨.write h, .mirror, m, a, n, Tab.getD s.fab.keys r 0, reEpoch e, data, 0, 0, 0, false, false, false, []⟩
    match s.sendOp o with
    | some s => s
    | none => ({ s with fab := { s.fab with homes := Tab.del s.fab.homes h } }.markDown m).replyTo src fsMirror 0 []

/-- A load served from this node's copy (R333, R334, R338, R339). A replica records the nodes that fill from it, as a home does, so that it can
pass an invalidation on to them (log entry 98). -/
def State.serveLoad (s : State) (q : HomeReq) (r : Nat) (e : List Nat) : State :=
  let off := reOffset e q.addr
  let s := s.readHbm (reDom e) off q.len
  if reRole e = 2 then
    let s := s.noteSharer q r
    let valid := s.linesValid r e q.addr q.len
    if valid && (s.attached r || reStaleTol e) then
      match s.hbmFault (reDom e) off q.len true with
      | some c => let f := s.serveFault e q.addr c; f.1.replyTo q.src f.2 0 []
      | none => s.replyTo q.src stOk (b2n (!s.attached r)) (s.bytes .hbm (reDom e) off q.len)
    else if s.attached r then
      let o : FOp := ⟨.fill r q.src (q.addr % 256) q.len, .load, s.homeOf e, q.addr / 256 * 256, 256, q.key, q.epoch, [],
        0, 0, 0, false, false, false, []⟩
      match (if s.nodeDown o.node then none else s.sendOp o) with
      | some s => s
      | none => (s.markDown o.node).replyTo q.src fsUnreachable 0 []
    else s.replyTo q.src fsUnreachable 0 []
  else
    match s.hbmFault (reDom e) off q.len true with
    | some c => let f := s.serveFault e q.addr c; f.1.replyTo q.src f.2 0 []
    | none =>
      let s := s.noteSharer q r
      s.replyTo q.src stOk 0 (s.bytes .hbm (reDom e) off q.len)

/-- A store or an atomic at the home (R331, R332, R340). -/
def State.serveWrite (s : State) (q : HomeReq) (r : Nat) (e : List Nat) : State :=
  let off := reOffset e q.addr
  let s := if q.kind = .store then s else s.readHbm (reDom e) off q.len
  match s.hbmFault (reDom e) off q.len (q.kind != .store) with
  | some c => let f := s.serveFault e q.addr c; f.1.replyTo q.src f.2 0 []
  | none =>
    let old := s.le .hbm (reDom e) off 8
    let data := s.writeData e q.kind q.addr q.data
    if reMirrored e then s.forwardWrite q.src r e q.kind q.addr q.len data old
    else s.applyWrite q.src r e q.kind q.addr data old

/-- An earlier write to the block has not been applied yet (R331). -/
def State.blockHeld (s : State) (a n : Nat) : Bool :=
  s.fab.homes.any fun p => p.2.kind.writes && !p.2.data.isEmpty && decide (p.2.addr / 64 * 64 < a + n)
    && decide (a < p.2.addr / 64 * 64 + max 64 p.2.len)

/-- A request that has passed R324 carried out. -/
def State.serveOk (s : State) (q : HomeReq) (r : Nat) (e : List Nat) : State :=
  match q.kind with
  | .load => s.serveLoad q r e
  | .store => s.serveWrite q r e
  | .atomic _ _ _ => s.serveWrite q r e
  | .inval =>
    if reCompat e then s.replyTo q.src stOk 0 (toLe 2 0)
    else
      let p := s.startDrops q.src r e .inval q.addr q.len 0
      if p.2 then p.1.replyTo q.src stOk 0 (toLe 2 0) else p.1
  | .own n =>
    if reOwner e = q.node then
      { s with fab := { s.fab with regions := Tab.set s.fab.regions r (setWord e 2 (putBits (entWord e 2) 30 21 n)) } }.replyTo q.src stOk 0 []
    else s.replyTo q.src fsNotOwner 0 []
  | _ => s.replyTo q.src stOk 0 []

/-- A request checked in the order of R324 and served, or answered with its failure. -/
def State.serve (s : State) (q : HomeReq) : State :=
  match s.regionOf q.addr with
  | none => s.replyTo q.src fsDenied 0 []
  | some (r, e) =>
    if !reKeySet e || Tab.getD s.fab.keys r 0 != q.key then s.replyTo q.src fsDenied 0 []
    else match serveCheck e q.kind q.addr q.len q.epoch q.node with
      | some (st, stale) => (if stale then s.markStale r else s).replyTo q.src st 0 []
      | none => s.serveOk q r e

/-- A request served, or held behind an earlier write to its block (R331). -/
def State.serveOrWait (s : State) (q : HomeReq) : State :=
  if q.kind.writes && s.blockHeld q.addr q.len then { s with fab := { s.fab with queue := s.fab.queue ++ [q] } } else s.serve q

/-- Requests that waited for a block, served in order as far as they can be. -/
def State.drainQueue (s : State) : State :=
  let l := s.fab.queue
  l.foldl (fun s q => s.serveOrWait q) { s with fab := { s.fab with queue := [] } }

/-! ### Issuing (R328, R338, R344) -/

/-- Operations in flight on an engine: its tags in use (R344). -/
def State.tagsUsed (s : State) (e : Nat) : Nat :=
  s.fab.ops.countP (fun p => p.2.engine == e) + (s.quar.countP fun q => q.fabric && decide (q.engine = e))

/-- The nodes that may serve an operation, in the order of R338: this node first where its replica is attached, or is detached and can serve
(R339). -/
def State.serverList (s : State) (e : List Nat) (kind : FKind) (a n : Nat) : List Nat :=
  if kind = .load ∧ beReadMostly e then
    let own := match s.regionOf a with
      | some (r, re) => if reRole re = 2 ∧ (s.attached r ∨ (beStaleTol e ∧ reStaleTol re ∧ s.linesValid r re a n)) then [s.nodeId] else []
      | none => []
    (own ++ replicasOf (entWord e 2) ++ [beTarget e]).eraseDups
  else [beTarget e]

/-- An operation of a job tried at the nodes of its list in turn (R338, R339). -/
def State.tryNodes (s : State) (o : FOp) (dom : Nat) : List Nat → State
  | [] =>
    match o.owner with
    | .job j off => (s.partDone j off o.len fsUnreachable [] false o.retried).jobCheck j
    | _ => s
  | n :: rest =>
    if n = s.nodeId then
      let id := s.fab.next
      let s := { s with fab := { s.fab with
        ops := Tab.set s.fab.ops id { o with node := n, rest := rest, sentAt := s.now }, next := id + 1 } }
      s.serveOrWait ⟨.loc id, n, o.kind, o.addr, o.len, o.key, o.epoch, false, o.data⟩
    else if s.nodeDown n then s.tryNodes o dom rest
    else match s.sendOp { o with node := n, rest := rest } with
      | some s => s
      | none => (s.markDown n).tryNodes o dom rest

/-- One operation of a job issued at an offset (R318, R328, R333). -/
def State.issueOne (s : State) (j : Nat) (x : FJob) (off n : Nat) : State :=
  let a := x.addr + off
  let s := s.modJob j fun y => { y with next := off + n, out := y.out + 1 }
  match s.bearingOf a with
  | none => (s.partDone j off n fsNoBearing [] false false).jobCheck j
  | some e =>
    match (if s.mayFill x e then s.cacheHit x e a n else none) with
    | some b => ((s.partDone j off n stOk b false false).count (0xC86 + 8 * x.engine) none 1).jobCheck j
    | none =>
      let data := match x.kind with
        | .store => slice x.data off n
        | .atomic _ v c => toLe 8 v ++ toLe 8 c
        | _ => []
      let o : FOp := ⟨.job j off, x.kind, 0, a, n, x.key, beEpoch e, data, x.engine, 0, 0, false, s.mayFill x e, false, []⟩
      s.tryNodes o x.dom (s.serverList e x.kind a n)

/-- The loads that go on to the next node of their list. -/
def State.goOnce (s : State) : State :=
  s.fab.again.foldl (fun s o =>
    match o.owner with
    | .job j _ =>
      match Tab.get? s.fab.jobs j with
      | some x => s.tryNodes o x.dom o.rest
      | none => s
    | _ => s) { s with fab := { s.fab with again := [] } }

/-- The same until every load is with a node or over. -/
def State.goOn (s : State) : Nat → State
  | 0 => s
  | n + 1 => if s.fab.again = [] then s else s.goOnce.goOn n

/-- Operations of a job issued in increasing address while its engine has free tags (R328, R344). -/
def State.pump (s : State) (j : Nat) : Nat → State
  | 0 => s
  | k + 1 =>
    match Tab.get? s.fab.jobs j with
    | none => s
    | some x =>
      if x.next < x.len ∧ s.tagsUsed x.engine < 256 then
        ((s.issueOne j x x.next (opLen x.kind (x.addr + x.next) (x.len - x.next))).goOn 8).pump j k
      else if x.next < x.len then s.count (0xC85 + 8 * x.engine) none 1
      else s

/-- A job's operations, at most one for each 64 bytes. -/
def State.pumpJob (s : State) (j : Nat) : State :=
  match Tab.get? s.fab.jobs j with
  | none => s
  | some x => s.pump j (x.len / 64 + 1)

/-- Every job that waits for tags of an engine goes on, in the order of arrival (R344). -/
def State.pumpAll (s : State) : State :=
  let s := s.goOn 8
  (s.fab.jobs.map (·.1)).foldl (fun s j => s.pumpJob j) s

/-- A job begun, or nothing while no fabric engine is enabled (R344, R550). -/
def State.startJob (s : State) (use : FUse) (kind : FKind) (n dom addr len key : Nat) (cache : Bool) (data : List Byte) : Option State :=
  match s.engineFor ucFab 24 n with
  | none => none
  | some e =>
    let j := s.fab.next
    let x : FJob := ⟨use, kind, addr, len, key, dom, e, cache, data, 0, [], [], 0, false, false, 0, 0, s.now⟩
    some ({ s with fab := { s.fab with jobs := Tab.set s.fab.jobs j x, next := j + 1 } }.pumpJob j)

/-- The job of a use. -/
def State.jobOf (s : State) (use : FUse) : Option (Nat × FJob) := s.fab.jobs.find? fun p => p.2.use = use

/-- A job taken away. -/
def State.dropJob (s : State) (j : Nat) : State := { s with fab := { s.fab with jobs := Tab.del s.fab.jobs j } }

end Sys2Proof.Machine
end

