-- ==== Sys2Proof/Machine/Fabric.lean ====
section
/-! DEFINITION. The fabric's ring commands (R327 to R331), its messages (R324, R334, R340), its timers (R320, R335, R345) and its tables
(R318, R321 to R323, R352). -/

namespace Sys2Proof.Machine

/-! ### Ring commands (R327) -/

/-- The completion of a fabric command that ends before any operation (R329). -/
def State.fabStatus (s : State) (g cid status addr : Nat) : State :=
  let s := if status = stOk ∨ status < fsDenied ∨ fsAlign < status then s
    else s.faultRecord { s.ringRecord g cid (0x0200 + status) 1 with detail := addr }
  s.completeStatus g cid status

/-- A ring command's operations begun (R328). -/
def State.fabStart (s : State) (g : Nat) (f : Fetched) (kind : FKind) (addr len key : Nat) (cache : Bool) (data : List Byte) : State :=
  let s := s.stageCmd g f .started
  match s.startJob (.ring g f.cid) kind g (s.ringDom g) addr len key cache data with
  | some s => s
  | none => s

/-- The length of an FLOAD or FSTORE is one that R327 allows; any other fails with ALIGN (log entry 21). -/
def fabLenOk (n : Nat) : Bool := decide (64 ≤ n) && n % 64 == 0 && decide (n ≤ 4294967232)

/-- FLOAD (R327, R328). -/
def State.fload (s : State) (g cid : Nat) : State :=
  match s.startable g cid 0x50 with
  | none => s
  | some f =>
    let a := fieldAt f.body 16 8
    let n := fieldAt f.body 32 4
    if !faOk a 64 || !fabLenOk n then s.fabStatus g cid fsAlign a
    else s.fabStart g f .load a n (fieldAt f.body 36 4) (bit (fieldAt f.body 40 1) 0) []

/-- FSTORE: its host buffer is read first (R327, R372). -/
def State.fstore (s : State) (g cid : Nat) : State :=
  match s.startable g cid 0x51 with
  | none => s
  | some f =>
    let a := fieldAt f.body 16 8
    let n := fieldAt f.body 32 4
    if !faOk a 64 || !fabLenOk n then s.fabStatus g cid fsAlign a
    else match s.dmaRead (.fabric g cid) (s.ringInst g) g (fieldAt f.body 24 8) n with
      | none => s.dmaWaits g
      | some s => s.stageCmd g f .started

/-- FATOMIC (R327, R332). -/
def State.fatomic (s : State) (g cid : Nat) : State :=
  match s.startable g cid 0x52 with
  | none => s
  | some f =>
    let a := fieldAt f.body 16 8
    let op := fieldAt f.body 24 1
    if !faOk a 8 then s.fabStatus g cid fsAlign a
    else if op > 4 then s.completeStatus g cid stOpcodeInvalid
    else s.fabStart g f (.atomic op (fieldAt f.body 32 8) (fieldAt f.body 40 8)) a 8 (fieldAt f.body 28 4) false []

/-- FINVAL (R327, R334). One of length 0 invalidates nothing and completes at once (log entry 96). -/
def State.finval (s : State) (g cid : Nat) : State :=
  match s.startable g cid 0x53 with
  | none => s
  | some f =>
    let a := fieldAt f.body 16 8
    let n := fieldAt f.body 24 4
    if !faOk a 64 || n % 64 != 0 then s.fabStatus g cid fsAlign a
    else if n = 0 then s.completeStatus g cid stOk
    else s.fabStart g f .inval a n (fieldAt f.body 28 4) false []

/-- A fabric command. -/
def Fetched.isFabric (f : Fetched) : Bool := decide (0x50 ≤ f.opcode) && decide (f.opcode ≤ 0x56)

/-- FFENCE completes once no earlier fabric command of its ring is left (R331). -/
def State.ffence (s : State) (g cid : Nat) : State :=
  match s.startable g cid 0x54, Tab.get? s.rings g with
  | some f, some r =>
    if (r.fetched.takeWhile fun x => decide (x ≠ f)).any Fetched.isFabric then s else s.completeStatus g cid stOk
  | _, _ => s

/-- FOWN (R327, R343). -/
def State.fown (s : State) (g cid : Nat) : State :=
  match s.startable g cid 0x55 with
  | none => s
  | some f =>
    let a := fieldAt f.body 16 8
    if !faOk a 1 then s.fabStatus g cid fsAlign a
    else s.fabStart g f (.own (fieldAt f.body 24 2 % 1024)) a 1 (fieldAt f.body 28 4) false []

/-- A region's key set or cleared (R323). -/
def State.setRegionKey (s : State) (r : Nat) (key : Option Nat) : State :=
  { s with fab := { s.fab with
    keys := match key with
      | some k => Tab.set s.fab.keys r k
      | none => Tab.del s.fab.keys r
    regions := Tab.modify s.fab.regions r fun e => setWord e 0 (putBit (entWord e 0) 9 key.isSome) } }

/-- FKEY, on an instance of the entry's domain (R323, R327). -/
def State.fkey (s : State) (g cid : Nat) : State :=
  match s.startable g cid 0x56 with
  | none => s
  | some f =>
    let a := fieldAt f.body 16 8
    if !faOk a 1 then s.fabStatus g cid fsAlign a
    else match s.regionOf a with
      | none => s.fabStatus g cid fsDenied a
      | some (r, e) =>
        if s.ringOper g || s.ringDom g != reDom e then s.fabStatus g cid fsDenied a
        else (s.setRegionKey r (if bit (fieldAt f.body 28 1) 0 then none else some (fieldAt f.body 24 4))).completeStatus g cid stOk

def execFstore (ring cid : Nat) (s : State) : Host.Outcome State Fault Refusal := .next (s.fstore ring cid)
def execFinval (ring cid : Nat) (s : State) : Host.Outcome State Fault Refusal := .next (s.finval ring cid)
def execFfence (ring cid : Nat) (s : State) : Host.Outcome State Fault Refusal := .next (s.ffence ring cid)
def execFown (ring cid : Nat) (s : State) : Host.Outcome State Fault Refusal := .next (s.fown ring cid)
def execFkey (ring cid : Nat) (s : State) : Host.Outcome State Fault Refusal := .next (s.fkey ring cid)

/-! ### Messages from other nodes -/

/-- The kind of a request message (R347). -/
def reqKind (kind op : Nat) (data : List Byte) : Option FKind :=
  match kind with
  | 0x50 => some .load
  | 0x51 => some .store
  | 0x52 => some (.atomic op (fieldAt data 0 8) (fieldAt data 8 8))
  | 0x53 => some .inval
  | 0x55 => some (.own (op % 1024))
  | 0x15F => some .probe
  | _ => none

/-- FABRIC_REQUEST_RECEIVE (R324, R331): a request addressed to this node. A probe is answered (R320); a kind that no rule gives has no
effect. -/
def State.fabricRequest (s : State) (node engine tag kind op addr len key epoch : Nat) (fill : Bool) (data : List Byte) : State :=
  let s := s.heard node
  match reqKind kind op data with
  | none => s
  | some .probe => s.sendRsp node engine tag stOk 0 []
  | some k => s.serveOrWait ⟨.rem node engine tag, node, k, addr, len, key, epoch, fill, data⟩

/-- The mirror's answer to a forwarded write: a status, or none to apply it (R324 check 1, R325, R340). -/
def State.mirrorCheck (s : State) (r : Nat) (e : List Nat) (addr n key epoch : Nat) : State × Option Nat :=
  if !reKeySet e || Tab.getD s.fab.keys r 0 != key then (s, some fsDenied)
  else if reStale e then (s, some fsStale)
  else if epoch ≠ reEpoch e then ((if epochNewer epoch (reEpoch e) then s.markStale r else s), some fsStale)
  else if reRole e ≠ 1 ∨ reInside e addr n = false then (s, some fsDenied)
  else (s, none)

/-- MIRROR_FORWARD (R340 step 3). -/
def State.mirrorForward (s : State) (node engine tag addr key epoch : Nat) (data : List Byte) : State :=
  let s := s.heard node
  match s.regionOf addr with
  | none => s.sendRsp node engine tag fsDenied 0 []
  | some (r, e) =>
    match s.mirrorCheck r e addr data.length key epoch with
    | (s, some st) => s.sendRsp node engine tag st 0 []
    | (s, none) =>
      match s.hbmFault (reDom e) (reOffset e addr) data.length false with
      | some c => let f := s.serveFault e addr c; f.1.sendRsp node engine tag f.2 0 []
      | none => (s.storeData (reDom e) (reOffset e addr) data).sendRsp node engine tag stOk 0 []

def execMirrorForward (node engine tag addr key epoch : Nat) (data : List Byte) (s : State) : Host.Outcome State Fault Refusal :=
  .next (s.mirrorForward node engine tag addr key epoch data)

/-- The replica entry of this node over a range that other nodes have filled from. -/
def State.filledFrom (s : State) (a n : Nat) : Option (Nat × List Nat) :=
  s.fab.regions.find? fun p => reValid p.2 && reRole p.2 == 2 && reAddrNode p.2 == faNode a && !(Tab.getD s.fab.sharers p.1 []).isEmpty
    && decide (faOffset a < 2 ^ 21 * (reBase p.2 + reSize p.2)) && decide (2 ^ 21 * reBase p.2 < faOffset a + n)

/-- INVALIDATION_RECEIVE (R334): the lines of the range are dropped, and the acknowledgement follows when the nodes that have filled from this
node's replica have dropped theirs (R337; log entry 98). -/
def State.invalidation (s : State) (node engine tag addr len : Nat) : State :=
  let s := (s.heard node).addFld F.FAB_CACHE_INVALIDATIONS 1
  match s.filledFrom addr len with
  | none => (s.dropRange addr len).sendRsp node engine tag stOk 0 []
  | some (r, e) =>
    let p := s.startDrops (.rem node engine tag) r e .inval addr len 0
    if p.2 then p.1.sendRsp node engine tag stOk 0 [] else p.1

def execInvalidationReceive (node engine tag addr len : Nat) (s : State) : Host.Outcome State Fault Refusal :=
  .next (s.invalidation node engine tag addr len)

/-! ### Region and bearing tables (R318, R321 to R323) -/

/-- A staged region entry with the fields that the device sets (R323, R352). -/
def State.regionStaged (s : State) (r : Nat) (st : List Nat) (fd : Option Nat) : List Nat :=
  let keep := match Tab.get? s.fab.regions r with
    | some o => reKeySet o && reDom o == reDom st
    | none => false
  let w0 := putBit (putBit (entWord st 0) 8 false) 9 keep
  let w2 := putBit (entWord st 2) 20 (match fd with
    | some t => reMirrored st && reRole st == 0 && t != reFd st
    | none => false)
  setWord (setWord st 0 w0) 2 w2

/-- Another valid entry of the same address node overlaps (R322). -/
def State.regionOverlaps (s : State) (r : Nat) (e : List Nat) : Bool :=
  s.fab.regions.any fun p => p.1 != r && reValid p.2 && reAddrNode p.2 == reAddrNode e
    && granOverlap (reBase p.2) (reSize p.2) (reBase e) (reSize e)

/-- The entry breaks a rule of R322; `fd` is what the mirror says of its own entry. An address node of this node passes for a MIRROR or
REPLICA only when the entry was HOME before. -/
def State.regionBad (s : State) (r : Nat) (e : List Nat) (fd : Option Nat) : Bool :=
  (reCompat e && reReadMostly e) || reValid e &&
  (s.regionOverlaps r e
    || decide (s.hbmSize (reDom e) < 2 ^ 21 * (reDomGran e + reSize e))
    || ((reRole e == 1 || reRole e == 2) && reAddrNode e == s.nodeId && !(match Tab.get? s.fab.regions r with
        | some o => reValid o && reRole o == 0
        | none => false))
    || (reMirrored e && reRole e == 0 && !(match fd with
        | some t => t != reFd e
        | none => false)))

/-- Two entries describe one region: the same granules of one address node. -/
def sameRegion (a b : List Nat) : Bool :=
  reValid a && reValid b && reAddrNode a == reAddrNode b && reBase a == reBase b && reSize a == reSize b

/-- A commit applied, or refused with REGION_CONFLICT (R322, R323). A new entry's replica lines start invalid (R338); the sharer set is the
region's, and one of another region starts empty (R334). -/
def State.regionApply (s : State) (r : Nat) (st : List Nat) (fd : Option Nat) : State :=
  let e := s.regionStaged r st fd
  if s.regionBad r e fd then s.raise F.FAB_ERR_STATUS_REGION_CONFLICT
  else
    let s := if reKeySet e then s else { s with fab := { s.fab with keys := Tab.del s.fab.keys r } }
    { s with fab := { s.fab with
      regions := Tab.set s.fab.regions r e
      lines := Tab.set s.fab.lines r []
      sharers := if (Tab.get? s.fab.regions r).any (sameRegion e) then s.fab.sharers else Tab.set s.fab.sharers r []
      detached := s.fab.detached.filter (· != r) ++
        (if reValid e && reRole e == 2 && !s.leaseHeld (s.homeOf e) then [r] else []) } }

/-- A commit that makes a HOME entry MIRRORED while its mirror is DOWN is held (R322). -/
def State.regionCommit (s : State) (r : Nat) (fd : Option Nat) : State :=
  let st := s.fab.stageR
  if reValid st && reMirrored st && reRole st == 0 && s.nodeDown (reMirror st) then
    { s with fab := { s.fab with heldCommits := Tab.set s.fab.heldCommits r st } }
  else { s with fab := { s.fab with heldCommits := Tab.del s.fab.heldCommits r } }.regionApply r st fd

/-- An entry copied into the staging buffer. -/
def State.regionFetch (s : State) (r : Nat) : State :=
  { s with fab := { s.fab with stageR := Tab.getD s.fab.regions r [0, 0, 0, 0] } }

/-- A write of FAB_REGION_SEL: the selection, then FETCH, then COMMIT (R352). `fd` is what the mirror's node answers of its MIRROR entry. -/
def State.regionSel (s : State) (v : Nat) (fd : Option Nat) : State :=
  let s := (s.setFld F.FAB_REGION_SEL_REGION (bits v 15 0)).setFld F.FAB_REGION_SEL_WORD (bits v 17 16)
  let s := if bit v 18 then s.regionFetch (bits v 15 0) else s
  if bit v 19 then s.regionCommit (bits v 15 0) fd else s

/-- A staged bearing is refused (R318). -/
def State.bearingBad (s : State) (b : Nat) (e : List Nat) : Bool :=
  (beReadMostly e && beCompat e)
    || (beValid e && s.fab.bearings.any fun p => p.1 != b && beValid p.2 && beNode p.2 == beNode e
      && granOverlap (beBase p.2) (beSize p.2) (beBase e) (beSize e))

/-- A bearing put in force, or refused with BEARING_CONFLICT (R318). -/
def State.bearingPut (s : State) (b : Nat) (e : List Nat) : State :=
  if s.bearingBad b e then s.raise F.FAB_ERR_STATUS_BEARING_CONFLICT
  else { s with fab := { s.fab with bearings := Tab.set s.fab.bearings b e } }

/-- The staged bearing committed. -/
def State.bearingCommit (s : State) (b : Nat) : State := s.bearingPut b s.fab.stageB

/-- A bearing copied into the staging buffer. -/
def State.bearingFetch (s : State) (b : Nat) : State :=
  { s with fab := { s.fab with stageB := Tab.getD s.fab.bearings b [0, 0, 0, 0] } }

/-- A write of FAB_BEARING_SEL: the selection, then FETCH, then COMMIT (R352). -/
def State.bearingSel (s : State) (v : Nat) : State :=
  let s := (s.setFld F.FAB_BEARING_SEL_BEARING (bits v 13 0)).setFld F.FAB_BEARING_SEL_WORD (bits v 15 14)
  let s := if bit v 16 then s.bearingFetch (bits v 13 0) else s
  if bit v 17 then s.bearingCommit (bits v 13 0) else s

def execRegionFetch (value : Nat) (s : State) : Host.Outcome State Fault Refusal := .next (s.regionSel (value % 2 ^ 18 + 2 ^ 18) none)
def execRegionCommit (value : Nat) (fd : Option Nat) (s : State) : Host.Outcome State Fault Refusal :=
  .next (s.regionSel (value % 2 ^ 18 + 2 ^ 19) fd)
def execBearingFetch (value : Nat) (s : State) : Host.Outcome State Fault Refusal := .next (s.bearingSel (value % 2 ^ 16 + 2 ^ 16))
def execBearingCommit (value : Nat) (s : State) : Host.Outcome State Fault Refusal := .next (s.bearingSel (value % 2 ^ 16 + 2 ^ 17))

/-- The nearer limit of a value outside a range. -/
def clamp (lo hi v : Nat) : Nat := min hi (max lo v)

/-- FAB_CTRL written (R335, R352). -/
def State.fabCtrl (s : State) (v : Nat) : State :=
  if bits v 36 27 < 3 * bits v 43 37 then s.raise F.FAB_ERR_STATUS_LEASE_CONFIG
  else
    let s := s.setFld F.FAB_CTRL_TIMEOUT_US (clamp 10 100000 (bits v 26 10))
    let s := s.setFld F.FAB_CTRL_LEASE_US (bits v 36 27)
    let s := s.setFld F.FAB_CTRL_PROBE_US (bits v 43 37)
    s.setFld F.FAB_CTRL_DOWN_AFTER (max 1 (bits v 47 44))

def execFabCtrlWrite (value : Nat) (s : State) : Host.Outcome State Fault Refusal := .next (s.fabCtrl value)

/-! ### Responses (R328, R334 to R341, R345, R350) -/

/-- The fabric cache's lines (R301, R333). -/
def State.cacheCap (s : State) : Nat := s.fld F.MEM_POOL_FC_MIB * 4096

/-- A line, or the part of one that a load returned, installed in the cache while its home's lease is held, the oldest making room: the order of
eviction is open (R333, R335). -/
def State.installLine (s : State) (o : FOp) (dom : Nat) (data : List Byte) : State :=
  match s.bearingOf o.addr with
  | none => s
  | some e =>
    if s.leaseHeld (beTarget e) then
      let l : CacheLine := ⟨o.addr, o.epoch, dom, o.key, o.node, beTarget e, data⟩
      let c := (s.fab.cache.filter fun m => !(m.addr == l.addr && m.epoch == l.epoch && m.dom == dom && m.key == l.key)) ++ [l]
      { s with fab := { s.fab with cache := c.drop (c.length - s.cacheCap) } }.count (0xC87 + 8 * o.engine) none 1
    else s

/-- A job's block answered: a node that cannot be reached, a detached replica that cannot serve, or one that served stale data which the bearing
does not allow, sends a load on to the next node (R318, R320, R339). -/
def State.jobAnswer (s : State) (o : FOp) (j off node status flags : Nat) (data : List Byte) : State :=
  match Tab.get? s.fab.jobs j with
  | none => s
  | some x =>
    if status = fsUnreachable ∨ (bit flags 0 && !s.staleOk o.addr) = true then
      (if status = fsUnreachable ∧ node ≠ o.node then s.markDown o.node else s).tryNodes o x.dom o.rest
    else
      let s := if status = stOk && o.fillCache && !o.hit then s.installLine o x.dom data else s
      (s.partDone j off o.len status data (bit flags 0) o.retried).jobCheck j

/-- A replica's fetched line: installed unless an invalidation met it, and the load that waits is answered (R336, R338). -/
def State.fillAnswer (s : State) (o : FOp) (r : Nat) (src : FSrc) (off n status : Nat) (data : List Byte) : State :=
  if status ≠ stOk then s.replyTo src status 0 []
  else match Tab.get? s.fab.regions r with
    | none => s.replyTo src stOk 0 (slice data off n)
    | some e =>
      let can := !o.hit && reValid e && reRole e == 2 && s.attached r && (s.hbmFault (reDom e) (reOffset e o.addr) 256 false).isNone
      let s := if can then
          let s := s.storeData (reDom e) (reOffset e o.addr) data
          { s with fab := { s.fab with lines := Tab.modify s.fab.lines r fun l => (l ++ linesOf e o.addr 256).eraseDups } }
        else s
      s.replyTo src stOk 0 (slice data off n)

/-- The mirror's answer to a forwarded write (R340, R341). -/
def State.writeAnswer (s : State) (h status : Nat) : State :=
  match Tab.get? s.fab.homes h with
  | none => s
  | some x =>
    let s := { s with fab := { s.fab with homes := Tab.del s.fab.homes h } }
    if status = stOk then s.applyWrite x.src x.region x.ent x.kind x.addr x.data x.reply
    else if status = fsStale then (s.markStale x.region).replyTo x.src fsStale 0 []
    else s.replyTo x.src fsMirror 0 []

/-- An invalidation acknowledged, or its first failed delivery noted (R334, R335). -/
def State.invalAnswer (s : State) (o : FOp) (h status : Nat) : State :=
  if status = stOk then
    { s with fab := { s.fab with homes := Tab.modify s.fab.homes h fun x => { x with waiting := x.waiting.erase o.node } } }.homeCheck h
  else
    let note := fun x : HomeOp => if Tab.has x.failedAt o.node then x else { x with failedAt := Tab.set x.failedAt o.node s.now }
    { s with fab := { s.fab with homes := Tab.modify s.fab.homes h note } }

/-- Epochs exchanged with a mirror that is back: a HOME entry becomes STALE when the other node is HOME at a newer epoch (R341). -/
def State.exchange (s : State) (node : Nat) (peers : List PeerEntry) : State :=
  let met := fun e : List Nat => peers.any fun q =>
    q.addrNode == reAddrNode e && q.base == reBase e && q.role == 0 && epochNewer q.epoch (reEpoch e)
  (s.fab.regions.filter fun p =>
    reValid p.2 && reRole p.2 == 0 && reMirrored p.2 && reMirror p.2 == node && !reStale p.2 && met p.2).foldl (fun s p => s.markStale p.1) s

/-- The failure-domain tag of a mirror's entry for a staged region (R322). -/
def peerFd (peers : List PeerEntry) (e : List Nat) : Option Nat :=
  (peers.find? fun q => q.addrNode == reAddrNode e && q.base == reBase e && q.role == 1).map (·.fdTag)

/-- Commits held for a mirror completed (R322). -/
def State.releaseCommits (s : State) (node : Nat) (peers : List PeerEntry) : State :=
  let mine := s.fab.heldCommits.filter fun p => reMirror p.2 == node
  let s := { s with fab := { s.fab with heldCommits := s.fab.heldCommits.filter fun p => reMirror p.2 != node } }
  mine.foldl (fun s p => s.regionApply p.1 p.2 (peerFd peers p.2)) s

/-- A probe answered: the destination is UP, and its epochs are exchanged before any further write (R320, R341). -/
def State.probeAnswer (s : State) (node status : Nat) (peers : List PeerEntry) : State :=
  if status = stOk then
    ((s.setFld F.FAB_ROUTE_DOWN 0 node).exchange node peers).releaseCommits node peers
  else s

/-- What a response does for the operation that it answers. -/
def State.opAnswer (s : State) (o : FOp) (node status flags : Nat) (data : List Byte) (peers : List PeerEntry) : State :=
  let t := if status = fsUnreachable ∧ node ≠ o.node then s.markDown o.node else s
  match o.owner with
  | .job j off => s.jobAnswer o j off node status flags data
  | .fill r src off n => t.fillAnswer o r src off n status data
  | .write h => t.writeAnswer h status
  | .inval h => t.invalAnswer o h status
  | .probe => if node = o.node then s.probeAnswer node status peers else t

/-- A response that finds no operation is discarded and counted; it ends its tag's quarantine (R345, R350). -/
def State.lateResponse (s : State) (op : Nat) : State :=
  let q := s.quar.find? fun q => q.fabric && q.id == op
  let s := { s with quar := s.quar.filter fun q => !(q.fabric && q.id == op) }
  let s := match q with
    | some q => s.count (0xC84 + 8 * q.engine) none 1
    | none => s
  s.addFld F.FAB_LATE_LATE 1

/-- FABRIC_RESPONSE (R328): a response from a node to an operation of this node; `peers` is what a probe's answer brings (R341). -/
def State.fabricResponse (s : State) (op node status flags : Nat) (data : List Byte) (peers : List PeerEntry) : State :=
  let s := s.heard node
  match Tab.get? s.fab.ops op with
  | none => s.lateResponse op
  | some o =>
    let s := { s with fab := { s.fab with ops := Tab.del s.fab.ops op, timeouts := Tab.del s.fab.timeouts o.node } }
    ((s.opAnswer o node status flags data peers).drainQueue).pumpAll

def execFabricResponse (op node status flags : Nat) (data : List Byte) (peers : List PeerEntry) (s : State) :
    Host.Outcome State Fault Refusal := .next (s.fabricResponse op node status flags data peers)

/-! ### Timers (R320, R335, R345) -/

/-- What a timed-out operation leaves behind it (R335, R340, R345). -/
def State.opTimedOut (s : State) (o : FOp) : State :=
  match o.owner with
  | .job j off => (s.partDone j off o.len fsTimeout [] false o.retried).jobCheck j
  | .fill _ src _ _ => s.replyTo src fsTimeout 0 []
  | .write h => s.writeAnswer h fsTimeout
  | .inval h => s.invalAnswer o h fsTimeout
  | .probe => s

/-- One more consecutive timeout of a destination (R320). -/
def State.noteTimeout (s : State) (n : Nat) : State :=
  let k := Tab.getD s.fab.timeouts n 0 + 1
  let s := { s with fab := { s.fab with timeouts := Tab.set s.fab.timeouts n k } }
  if k ≥ max 1 (s.fld F.FAB_CTRL_DOWN_AFTER) then s.markDown n else s

/-- FABRIC_OP_TIMEOUT (R345). An operation served at this node sends no flit and has no timeout of its own. -/
def State.opTimeout (s : State) (op : Nat) : State :=
  match Tab.get? s.fab.ops op with
  | none => s
  | some o =>
    if o.node = s.nodeId ∨ s.opHeld op = true then s
    else
      let t := s.fld F.FAB_CTRL_TIMEOUT_US * usec
      let s := s.advanceTo (o.sentAt + t)
      let s := { s with
        fab := { s.fab with ops := Tab.del s.fab.ops op }
        quar := s.quar ++ [({ id := op, engine := o.engine, link := 0, tags := 1, fabric := true, freeAt := s.now + 4 * t } : Quarantine)] }
      (((s.noteTimeout o.node).opTimedOut o).drainQueue).pumpAll

def execFabricOpTimeout (op : Nat) (s : State) : Host.Outcome State Fault Refusal := .next (s.opTimeout op)

/-- QUARANTINE_EXPIRE (R345, R374): a quarantined tag freed when its time has passed. -/
def State.quarantineEnd (s : State) (fabric : Bool) (id : Nat) : State :=
  match s.quar.find? fun q => q.fabric == fabric && q.id == id with
  | none => s
  | some q =>
    let s := s.advanceTo q.freeAt
    { s with quar := s.quar.erase q }.pumpAll

def execQuarantineExpire (fabric : Bool) (id : Nat) (s : State) : Host.Outcome State Fault Refusal := .next (s.quarantineEnd fabric id)

/-- The homes whose lines or replica data this node keeps (R335). -/
def State.homesKept (s : State) : List Nat :=
  ((s.fab.cache.map (·.home)) ++ s.fab.regions.filterMap fun p =>
    if reValid p.2 && reRole p.2 == 2 then some (s.homeOf p.2) else none).eraseDups

/-- A home has been silent for PROBE_US (R335). -/
def State.silent (s : State) (n : Nat) : Bool :=
  decide (s.now ≥ Tab.getD s.fab.heard n 0 + s.fld F.FAB_CTRL_PROBE_US * usec)

/-- PROBE_TIMER: a probe of a DOWN destination, or of a home that has been silent (R320, R335). -/
def State.probe (s : State) (node : Nat) : State :=
  if node ≠ s.nodeId ∧ (s.nodeDown node ∨ (s.homesKept.contains node = true ∧ s.silent node = true)) then
    match s.livePorts node with
    | [] => s
    | p :: _ =>
      let o : FOp := ⟨.probe, .probe, node, 0, 0, 0, 0, [], 0, 0, 0, false, false, false, []⟩
      match s.sendOp o with
      | some s => s.count (0xD80 + 32 * p + 14) none 1
      | none => s
  else s

def execProbeTimer (node : Nat) (s : State) : Host.Outcome State Fault Refusal := .next (s.probe node)

/-- LEASE_EXPIRE: the lines of a home dropped and its replicas detached, LEASE_US after its last message (R335). -/
def State.leaseExpire (s : State) (node : Nat) : State :=
  match Tab.get? s.fab.heard node with
  | none => s
  | some t =>
    let s := (s.advanceTo (t + s.fld F.FAB_CTRL_LEASE_US * usec)).dropLines fun l => l.home == node
    let gone := (s.fab.regions.filter fun p => reValid p.2 && reRole p.2 == 2 && s.homeOf p.2 == node).map (·.1)
    { s with fab := { s.fab with heard := Tab.del s.fab.heard node, detached := (s.fab.detached ++ gone).eraseDups } }

def execLeaseExpire (node : Nat) (s : State) : Host.Outcome State Fault Refusal := .next (s.leaseExpire node)

/-- SHARER_DROP: LEASE_US after its first failed delivery, a recipient leaves the sharer set and is counted (R334, R335). -/
def State.sharerDrop (s : State) (h node : Nat) : State :=
  match Tab.get? s.fab.homes h with
  | none => s
  | some x =>
    match Tab.get? x.failedAt node with
    | none => s
    | some t =>
      let s := s.advanceTo (t + s.fld F.FAB_CTRL_LEASE_US * usec)
      let x := { x with waiting := x.waiting.erase node, failedAt := Tab.del x.failedAt node, dropped := x.dropped + 1 }
      (({ s with fab := { s.fab with
        homes := Tab.set s.fab.homes h x
        sharers := Tab.modify s.fab.sharers x.region fun l => l.erase node } }.homeCheck h).drainQueue).pumpAll

def execSharerDrop (home node : Nat) (s : State) : Host.Outcome State Fault Refusal := .next (s.sharerDrop home node)

end Sys2Proof.Machine
end

