-- ==== Sys2Proof/Machine/Rhumb.lean ====
section
/-! DEFINITION. The Rhumb ports: flits and replay (R346 to R348), forwarding (R319), lanes and retraining (R349), port loss (R350), training
and link keys (R317, R431). -/

namespace Sys2Proof.Machine

/-- The event counter of a kind on a port (R524). -/
def rhbSrc (p k : Nat) : Nat := 0xD80 + 32 * p + k

/-! ### Forwarding (R319) -/

/-- A node with no up port toward a request's destination answers NODE_UNREACHABLE (R320). -/
def State.transitFail (s : State) (m : FabMsg) : State :=
  if m.request then s.sendRsp m.src m.engine m.tag fsUnreachable 0 [] else s

/-- A message of an accepted flit that is for another node (R319); one for this node is a command of its own. -/
def State.forwardMsg (s : State) (port : Nat) (m : FabMsg) : State :=
  if m.dst = s.nodeId then s
  else if m.hops + 1 ≥ max 1 (s.fld F.FAB_ROUTE_HOP_LIMIT m.dst) then (s.raise F.FAB_ERR_STATUS_HOP_LIMIT).count (rhbSrc port 10) none 1
  else match s.livePorts m.dst with
    | [] => s.transitFail m
    | p :: _ => s.sendMsg p (flitsOf ((if m.request then 32 else 8) + m.data.length)) (.forward p { m with hops := m.hops + 1 })

/-! ### Port loss (R350) -/

/-- An operation whose port went down and that has no other way ends (R350). -/
def State.opLost (s : State) (o : FOp) : State :=
  match o.owner with
  | .job j off =>
    match Tab.get? s.fab.jobs j with
    | none => s
    | some x => (s.checkRoute o.node).tryNodes { o with retried := o.retried } x.dom o.rest
  | .fill _ src _ _ => (s.checkRoute o.node).replyTo src fsUnreachable 0 []
  | .write h => (s.checkRoute o.node).writeAnswer h fsMirror
  | .inval h => (s.checkRoute o.node).invalAnswer o h fsUnreachable
  | .probe => s.checkRoute o.node

/-- An atomic of this node. -/
def FKind.isAtomic : FKind → Bool
  | .atomic _ _ _ => true
  | _ => false

/-- An unanswered operation of a port that went down (R350). -/
def State.opPortDown (s : State) (id : Nat) (o : FOp) : State :=
  let gone := { s with fab := { s.fab with ops := Tab.del s.fab.ops id } }
  match o.owner, o.kind.isAtomic with
  | .job j off, true => (gone.partDone j off o.len fsUnknown [] false o.retried).jobCheck j
  | .write _, _ => gone.opLost o
  | _, _ =>
    match o.retried, s.livePorts o.node with
    | false, p :: _ =>
      let o := { o with retried := true, port := p }
      let s := { s with fab := { s.fab with ops := Tab.set s.fab.ops id o } }
      ((s.addFld F.FAB_LATE_RETRIED 1).count (0xC82 + 8 * o.engine) none 1).sendReq id o p
    | _, _ => gone.opLost o

/-- A port goes down: its operations are retried or end, and destinations left without a port are DOWN (R320, R349, R350). -/
def State.portDown (s : State) (p : Nat) : State :=
  if s.portUp p then
    let s := s.setFld F.FAB_PORT_STATUS_UP 0 p
    let s := s.setFld F.FAB_PORT_STATUS_LANES_ACTIVE 0 p
    let s := s.setFld F.FAB_PORT_STATUS_RETRAINING 0 p
    let s := (s.setRhb p { s.rhb p with held := [] }).raise F.FAB_ERR_STATUS_LINK_DOWN
    let s := (rangeFrom 0 1024).foldl (fun s n =>
      if s.flag F.FAB_ROUTE_PRIMARY_VALID n ∨ s.flag F.FAB_ROUTE_ALT_VALID n then s.checkRoute n else s) s
    let mine := s.fab.ops.filter fun o => o.2.port == p && o.2.node != s.nodeId
    ((mine.foldl (fun s o => s.opPortDown o.1 o.2) s).drainQueue).pumpAll
  else s

/-! ### Flits (R346 to R348, R431) -/

/-- A NAK sent once, naming the last good flit (R348). -/
def State.sendNak (s : State) (p : Nat) : State :=
  let x := s.rhb p
  if x.nak then s
  else ((s.setRhb p { x with nak := true }).count (rhbSrc p 5) none 1).send
    (.flit p 2 (wrap (s.fld F.FAB_PORT_STATUS_RX_EXPECTED p + 4095) 12))

/-- An acknowledgement takes flits out of the replay buffer (R346, R348). -/
def State.takeAck (s : State) (p ack : Nat) : State :=
  let left := wrap (s.fld F.FAB_PORT_STATUS_TX_SEQ p + 4096 - (ack + 1) % 4096) 12
  if left ≤ s.fld F.FAB_PORT_STATUS_REPLAY_USED p then s.setFld F.FAB_PORT_STATUS_REPLAY_USED left p else s

/-- A replay from the first unacknowledged flit (R348). -/
def State.replay (s : State) (p : Nat) : State := ((s.satFld F.FAB_PORT_ERR_REPLAYS 1 p).count (rhbSrc p 6) none 1).health (8 + p) 1 1

/-- A flit whose tag fails: as a CRC failure the first time, and the end of the port the second (R431). -/
def State.tagFailed (s : State) (p seq : Nat) : State :=
  let x := s.rhb p
  let s := s.count (rhbSrc p 9) none 1
  if x.tagBad = some seq then (s.raise F.ISO_ERR_STATUS_LINK_AUTH).portDown p
  else (s.setRhb p { x with tagBad := some seq }).sendNak p

/-- A message flit with a good CRC (R348). -/
def State.takeFlit (s : State) (p seq : Nat) (tagOk : Bool) (msgs : List FabMsg) : State :=
  if seq % 4096 ≠ s.fld F.FAB_PORT_STATUS_RX_EXPECTED p then s
  else if tagOk = false then s.tagFailed p (seq % 4096)
  else
    let s := s.setRhb p { s.rhb p with nak := false, tagBad := none }
    msgs.foldl (fun s m => s.forwardMsg p m) (s.addFld F.FAB_PORT_STATUS_RX_EXPECTED 1 p)

/-- FLIT_RECEIVE (R348): a flit on a port that is up, its CRC's outcome and its tag's, and its messages. -/
def State.flitReceive (s : State) (p seq ack kind : Nat) (crcOk tagOk : Bool) (msgs : List FabMsg) : State :=
  if s.portUp p then
    let s := s.count (rhbSrc p 1) none 1
    if crcOk = false then (s.count (rhbSrc p 4) none 1).sendNak p
    else
      let s := (s.takeAck p ack).pumpPort p
      match kind % 4 with
      | 0 => s.takeFlit p seq tagOk msgs
      | 1 => s.count (rhbSrc p 11) none 1
      | 2 => s.replay p
      | _ => s.count (rhbSrc p 12) none 1
  else s

def execFlitReceive (port seq ack kind : Nat) (crcOk tagOk : Bool) (msgs : List FabMsg) (s : State) : Host.Outcome State Fault Refusal :=
  .next (s.flitReceive (port % 4) seq ack kind crcOk tagOk msgs)

/-! ### Lanes (R349) -/

/-- A retrain begun toward a set of lanes: the port stops sending message flits. -/
def State.startRetrain (s : State) (p lanes : Nat) : State :=
  (s.setRhb p { s.rhb p with lanes := lanes }).setFld F.FAB_PORT_STATUS_RETRAINING 1 p

/-- RHUMB_LANE_LOSS: lanes of a mask lose lock. The port retrains on those that remain, or goes down with fewer than 4 (R349). -/
def State.rhumbLaneLoss (s : State) (p mask : Nat) : State :=
  let lock := s.fld F.FAB_PORT_STATUS_LANE_LOCK p
  let lost := (rangeFrom 0 8).filter fun i => bit mask i && bit lock i
  let s := lost.foldl (fun s i => s.count (rhbSrc p (16 + i)) none 1) s
  let s := s.setFld F.FAB_PORT_STATUS_LANE_LOCK (sumList ((rangeFrom 0 8).map fun i => if bit lock i && !bit mask i then 2 ^ i else 0)) p
  let x := s.rhb p
  let left := sumList ((rangeFrom 0 8).map fun i => if bit x.used i && !bit mask i then 2 ^ i else 0)
  if s.portUp p && (left != x.used) then
    if popCount 8 left < 4 then (s.setRhb p { x with used := left }).portDown p
    else (s.setRhb p { x with used := left }).startRetrain p left
  else s

def execRhumbLaneLoss (port lanes : Nat) (s : State) : Host.Outcome State Fault Refusal := .next (s.rhumbLaneLoss (port % 4) lanes)

/-- The port runs on the lanes that its retrain has left it, replays, and sends again. -/
def State.retrained (s : State) (p used : Nat) : State :=
  let n := popCount 8 used
  let shed := decide (n < s.fld F.FAB_PORT_STATUS_LANES_ACTIVE p)
  let s := s.setRhb p { s.rhb p with used := used }
  let s := s.setFld F.FAB_PORT_STATUS_RETRAINING 0 p
  let s := s.setFld F.FAB_PORT_STATUS_LANES_ACTIVE n p
  let s := ((s.satFld F.FAB_PORT_ERR_RETRAINS 1 p).count (rhbSrc p 7) none 1).health (8 + p) 2 1
  let s := if shed then (((s.satFld F.FAB_PORT_ERR_LANE_SHEDS 1 p).raise F.FAB_ERR_STATUS_LANE_SHED).count (rhbSrc p 8) none 1).health (8 + p) 3 1
    else s
  (if s.fld F.FAB_PORT_STATUS_REPLAY_USED p = 0 then s else s.replay p).pumpPort p

/-- RHUMB_RETRAIN_DONE: of the lanes that the retrain may use, the port runs on those that hold lock at its end; with fewer than 4 it goes down
(R349, log entry 108). -/
def State.retrainDone (s : State) (p lock : Nat) : State :=
  if s.portUp p && s.flag F.FAB_PORT_STATUS_RETRAINING p then
    let used := (s.rhb p).lanes &&& lock
    let s := s.setFld F.FAB_PORT_STATUS_LANE_LOCK lock p
    if popCount 8 used < 4 then (s.setRhb p { s.rhb p with used := used }).portDown p else s.retrained p used
  else s

def execRhumbRetrainDone (x : RetrainEnd) (s : State) : Host.Outcome State Fault Refusal := .next (s.retrainDone (x.port % 4) (x.lanes % 256))

/-- FAB_PORT_CTRL.WIDEN: a retrain that may use every lane of the port (R349, log entry 108). -/
def State.widen (s : State) (p : Nat) : State :=
  if s.portUp p then s.startRetrain p 255 else s

def execWiden (port : Nat) (s : State) : Host.Outcome State Fault Refusal := .next (s.widen (port % 4))

/-! ### Training and link keys (R317, R431) -/

/-- LINK_TRAIN: an enabled port that is not up trains on a set of locked lanes with a neighbour, whose alias chain, RACK_ID and firmware
version the SPDM session has found good or not. -/
def State.linkTrain (s : State) (p peer lock : Nat) (auth : Bool) : State :=
  let lock := lock % 256
  if s.flag F.FAB_PORT_CTRL_ENABLE p && !s.unitOff ⟨ucRhumb, p⟩ && !s.clockLost 2 (p / 2) && !s.portUp p
      && decide (4 ≤ popCount 8 lock) then
    let s := s.setFld F.FAB_PORT_STATUS_LANE_LOCK lock p
    let s := s.setFld F.FAB_PORT_STATUS_PEER_NODE peer p
    if peer = s.nodeId then (s.raise F.FAB_ERR_STATUS_LINK_DOWN).logOpen (toLe 1 p)
    else if auth = false then s.raise F.ISO_ERR_STATUS_LINK_AUTH
    else
      let s := s.setRhb p ⟨lock, lock, 0, (s.rhb p).keyGen + 1, false, none, []⟩
      let s := s.setFld F.FAB_PORT_STATUS_UP 1 p
      let s := s.setFld F.FAB_PORT_STATUS_LANES_ACTIVE (popCount 8 lock) p
      let s := s.setFld F.FAB_PORT_STATUS_TX_SEQ 0 p
      let s := s.setFld F.FAB_PORT_STATUS_RX_EXPECTED 0 p
      s.setFld F.FAB_PORT_STATUS_REPLAY_USED 0 p
  else s

def execLinkTrain (port peer lock : Nat) (auth : Bool) (s : State) : Host.Outcome State Fault Refusal :=
  .next (s.linkTrain (port % 4) (peer % 1024) lock auth)

/-- LINK_KEY_UPDATE: a new link key, and the message count starts again (R431). -/
def State.linkKeyUpdate (s : State) (p : Nat) : State :=
  if s.portUp p then
    let x := s.rhb p
    (s.setRhb p { x with msgs := 0, keyGen := x.keyGen + 1 }).count (rhbSrc p 15) none 1
  else s

def execLinkKeyUpdate (port : Nat) (s : State) : Host.Outcome State Fault Refusal := .next (s.linkKeyUpdate (port % 4))

end Sys2Proof.Machine
end

