-- ==== Sys2Proof/Machine/Charts.lean ====
section
/-! DEFINITION. LOAD_CHART with its checks (R105 to R110, R603) and UNLOAD_CHART (R108). -/

namespace Sys2Proof.Machine

/-! ### LOAD_CHART, orders 1 to 5 of R603 -/

/-- The payload of a LOAD_CHART completion (R134, R603). -/
def loadPayload (st idx : Nat) (valid : Bool) (id : Nat) : List Byte :=
  toLe 8 (st + idx * 2 ^ 8 + b2n valid * 2 ^ 24) ++ toLe 16 0 ++ toLe 2 id

/-- A LOAD_CHART refused: one more reject, and its completion (R603). -/
def State.loadRefused (s : State) (g cid st idx : Nat) (valid : Bool) : State :=
  (s.addFld F.TRK_REJECT_COUNT_LOAD_REJECTS 1).complete g cid (loadPayload st idx valid 0)

/-- The state without the jobs that a chart's load has left. -/
def State.dropLoadJobs (s : State) (id : Nat) : State :=
  { s with
    dma := s.dma.filter fun j => decide (j.2.use ≠ .chart id)
    fab := { s.fab with jobs := s.fab.jobs.filter fun j => match j.2.use with
      | .chart c _ => c != id
      | _ => true } }

/-- A load that fails after its entry was taken: the entry is FREE again (R108, R603). -/
def State.loadFails (s : State) (id st idx : Nat) (valid : Bool) : State :=
  match Tab.get? s.charts id with
  | none => s
  | some c => (({ s with charts := Tab.del s.charts id }.dropLoadJobs id).loadRefused c.ring c.cid st idx valid)

/-- A read that fails during load: TRANSFER_ERROR, and a record with the cause (R107, R603). -/
def State.loadReadFails (s : State) (id cause detail : Nat) : State :=
  match Tab.get? s.charts id with
  | none => s
  | some c =>
    ((s.hbmNote cause).faultRecord { s.ringRecord c.ring c.cid cause 1 with chart := some id, detail := detail }).loadFails id stTransferError 0 false

/-- Orders 1 to 4 of R603: the status of the first check that fails. -/
def State.loadCheck (s : State) (d : Nat) (b : List Byte) : Option Nat :=
  let size := fieldAt b 24 4
  let off := fieldAt b 32 8
  if fieldAt b 28 4 ≠ 0 ∨ allZero (slice b 40 24) = false ∨ off % 65536 ≠ 0 ∨ size = 0 then some stCmdInvalid
  else if s.fld F.TRK_CHART_QUOTA_LIMIT d ≤ s.charts.countP (fun c => c.2.dom == d) then some stQuota
  else if 65536 ≤ s.charts.length then some stTableFull
  else if s.hbmSize d < off + size then some stBounds
  else none

/-- LOAD_CHART (R108, R603): the entry is LOADING and the copy of the image begins. -/
def State.loadChart (s : State) (g cid : Nat) : State :=
  match s.startable g cid 0x02 with
  | none => s
  | some f =>
    let d := s.ringDom g
    match s.loadCheck d f.body with
    | some st => s.loadRefused g cid st 0 false
    | none =>
      match s.pickFree s.charts 65536 with
      | (none, s) => s
      | (some id, s) =>
        match s.dmaRead (.chart id) (s.ringInst g) g (fieldAt f.body 16 8) (fieldAt f.body 24 4) with
        | none => s.dmaWaits g
        | some s =>
          let c := { headerOf [] d g cid (fieldAt f.body 32 8) with size := fieldAt f.body 24 4 }
          { s with charts := Tab.set s.charts id c }.stageCmd g f .started

def execLoadChart (ring cid : Nat) (s : State) : Host.Outcome State Fault Refusal := .next (s.loadChart ring cid)

/-- The copy of the image written to the domain's HBM (R603 order 5). -/
def State.chartLand (s : State) (id : Nat) (b : List Byte) : State :=
  match Tab.get? s.charts id with
  | none => s
  | some c =>
    match s.hbmFault c.dom c.hbmOff b.length false with
    | some cause => s.loadReadFails id cause c.hbmOff
    | none =>
      let s := (s.storeData c.dom c.hbmOff b).dmaBytes c.dom b.length
      { s with dma := s.dma.map fun j => if j.2.use = .chart id then (j.1, { j.2 with landed := true, desc := 0, reads := 0 }) else j }

/-! ### Orders 6 to 11 of R603 -/

/-- The weight descriptors of a chart, in increasing number. -/
def State.wdescs (s : State) (c : Chart) : List WDesc := (rangeFrom 0 c.wdescs).map (s.chartWdesc c)

/-- Order 7: the fault of the first weight descriptor that has one. -/
def State.wdescsFault (s : State) (c : Chart) : Option Nat :=
  (rangeFrom 0 c.wdescs).findSome? fun j => wdescFault c (s.chartBytes c (256 + 64 * c.count + 32 * j) 32)

/-- The fabric reads of a load started, where they are not yet; a descriptor whose address is not aligned fails at once (R316), and nothing after a
failure runs (R603). -/
def State.startWeights (s : State) (id : Nat) (c : Chart) : State :=
  ((s.wdescs c).zipIdx.filter fun p => p.1.fabric).foldl (fun s p =>
    if Tab.has s.charts id = false ∨ (s.jobOf (.chart id p.2)).isSome = true then s
    else if !faOk p.1.source 64 then s.loadReadFails id (0x0200 + fsAlign) p.1.source
    else (s.startJob (.chart id p.2) .load c.ring c.dom p.1.source p.1.len p.1.key false []).getD s) s

/-- The fabric reads of a load that are not over. -/
def State.weightsLeft (s : State) (id : Nat) (c : Chart) : Bool :=
  ((s.wdescs c).zipIdx.filter fun p => p.1.fabric).any fun p => match s.jobOf (.chart id p.2) with
    | some (_, x) => !x.over
    | none => true

/-- Order 8: the first weight read that failed, with its cause and address (R107). -/
def State.weightFault (s : State) (id : Nat) (c : Chart) : Option (Nat × Nat) :=
  (s.wdescs c).zipIdx.findSome? fun p =>
    if p.1.fabric then
      match s.jobOf (.chart id p.2) with
      | some (_, x) => if x.status = stOk then none else some (0x0200 + x.status, p.1.source + (match x.fails with
          | (o, _) :: _ => o
          | [] => 0))
      | none => none
    else (s.hbmFault c.dom (c.hbmOff + p.1.source) p.1.len true).map fun k => (k, c.hbmOff + p.1.source)

/-- The weight bytes of descriptor j: from the chart's copy, or as the fabric returned them. -/
def State.weightBytes (s : State) (id : Nat) (c : Chart) (j : Nat) : List Byte :=
  let w := s.chartWdesc c j
  if w.fabric then
    match s.jobOf (.chart id j) with
    | some (_, x) => x.bytes
    | none => []
  else s.chartBytes c w.source w.len

/-- CHART_DIGEST and WEIGHT_DIGEST as the device computes them (R105, R107). -/
def State.chartDigestOf (s : State) (c : Chart) : Nat :=
  leNat (sha3_256 (s.chartBytes c 0 64 ++ s.chartBytes c 128 (128 + 64 * c.count + 32 * c.wdescs)))
def State.weightDigestOf (s : State) (id : Nat) (c : Chart) : Nat :=
  leNat (sha3_256 ((rangeFrom 0 c.wdescs).flatMap (s.weightBytes id c)))

/-- The product tables of a chart's PACKED commands, by index: the bytes of the WLOAD that wrote each PT_TAG last (R125). -/
def State.tablesOf (s : State) (id : Nat) (c : Chart) : Tab (List Byte) :=
  let scan := (rangeFrom 0 c.count).foldl (fun (a : Tab Nat × Tab (List Byte)) i =>
    let w := s.chartCmd c i
    if w.op = 0x22 then (Tab.set a.1 (Xfer.ofCmd w).tag (Xfer.ofCmd w).wdesc, a.2)
    else if w.op = 0x02 then
      (a.1, match Tab.get? a.1 (Packed.ofCmd w).ptTag with
        | some j => Tab.set a.2 i (s.weightBytes id c j)
        | none => a.2)
    else if w.op = 0x20 then (Tab.del a.1 (Xfer.ofCmd w).tag, a.2)
    else a) ([], [])
  scan.2

/-- Orders 9 to 11, once every weight byte has been read: READY, or the first check that fails. -/
def State.loadFinish (s : State) (id : Nat) (c : Chart) : State :=
  if s.chartDigestOf c ≠ c.digest ∨ s.weightDigestOf id c ≠ c.weightDigest then s.loadFails id stDigestMismatch 0 false
  else
    match checkProgram (s.chartBytes c 0 256) c (s.weightBytes id c) 0 ((rangeFrom 0 c.count).map (s.chartCmd c)) ⟨[], 0⟩ with
    | .error (st, i) => s.loadFails id st i true
    | .ok sc =>
      if sc.maxDecl ≠ c.maxDecl then s.loadFails id stCmdInvalid 0 false
      else
        let c := { c with st := .ready, tables := s.tablesOf id c }
        let s := (({ s with charts := Tab.set s.charts id c }.dropLoadJobs id).countHelm 12 1)
        s.complete c.ring c.cid (loadPayload stOk 0 false id)

/-- Orders 6 and 7, then the weight reads begun. -/
def State.loadWeights (s : State) (id : Nat) (c : Chart) : State :=
  match s.hbmFault c.dom c.hbmOff c.size true with
  | some cause => s.loadReadFails id cause c.hbmOff
  | none =>
    let h := s.chartBytes c 0 256
    if !headerOk h c.size then s.loadFails id stCmdInvalid 0 false
    else
      let c := headerOf h c.dom c.ring c.cid c.hbmOff
      match s.wdescsFault c with
      | some st => s.loadFails id st 0 false
      | none =>
        let s := { s with charts := Tab.set s.charts id c }.startWeights id c
        match Tab.get? s.charts id with
        | none => s
        | some c =>
          if s.weightsLeft id c then s
          else match s.weightFault id c with
            | some (cause, a) => s.loadReadFails id cause a
            | none => s.loadFinish id c

/-- LOAD_CHART_CHECKS (R603): the checks of a copied image, as far as the weights that have been read allow. -/
def State.loadChecks (s : State) (id : Nat) : State :=
  match Tab.get? s.charts id with
  | none => s
  | some c =>
    if c.st = .loading ∧ (s.dma.any fun j => decide (j.2.use = .chart id) && j.2.landed) = true then
      (s.readHbm c.dom c.hbmOff c.size).loadWeights id c
    else s

/-! ### UNLOAD_CHART (R108, R109) -/

/-- UNLOAD_CHART. Its reserved payload bits are ignored (DESIGN CHOICE, log entry 67). -/
def State.unloadChart (s : State) (g cid : Nat) : State :=
  match s.startable g cid 0x03 with
  | none => s
  | some f =>
    let id := fieldAt f.body 16 2
    match Tab.get? s.charts id with
    | none => s.completeStatus g cid stChartInvalid
    | some c =>
      if c.st ≠ .ready ∨ c.dom ≠ s.ringDom g then s.completeStatus g cid stChartInvalid
      else if c.runs = 0 then { s with charts := Tab.del s.charts id }.completeStatus g cid stOk
      else { s with charts := Tab.set s.charts id { c with st := .unloading, unloads := [g * 65536 + cid] } }.stageCmd g f .started

def execUnloadChart (ring cid : Nat) (s : State) : Host.Outcome State Fault Refusal := .next (s.unloadChart ring cid)

end Sys2Proof.Machine
end

