-- ==== Sys2Proof/Machine/Transfers.lean ====
section
/-! DEFINITION. A run's transfers (R116, R128, R129) and the ends of host transfers (R372 to R374). -/

namespace Sys2Proof.Machine

/-- The run and transfer of a dispatched command. -/
def State.xferOf (s : State) (r i : Nat) : Option (Run × Xfer) :=
  match Tab.get? s.runs r with
  | none => none
  | some x =>
    match s.runCmd x i with
    | some (.xfer t) => some (x, t)
    | _ => none

/-- A transfer's external length and HBM place: the command's own, or its weight descriptor's (R106, R116). -/
def State.xferWdesc (s : State) (x : Run) (t : Xfer) : WDesc :=
  match Tab.get? s.charts x.chart with
  | some ch => s.chartWdesc ch t.wdesc
  | none => ⟨0, 0, false, 0⟩

def State.xferLen (s : State) (x : Run) (t : Xfer) : Nat := if t.op = 0x22 then (s.xferWdesc x t).len else t.len

/-- Where a transfer's other end lies. -/
inductive XferEnd where
  | hbm (off : Nat)
  | fabric (addr key : Nat)
  | host (addr : Nat)
deriving DecidableEq, Repr

/-- The slot area and configuration of a run that a phase started (R257). -/
def State.phaseArea (s : State) (x : Run) : Option (CellCfg × Nat) :=
  match x.owner with
  | .ring _ _ => none
  | .phase c n _ _ => ((s.cell c).cfgAt n).map fun f => (f, f.slotArea n)

/-- Where EXT_KIND 0 places a run's LOAD or STORE: at its offset, or in the slot area of its phase instance (R257). -/
def State.extBase (s : State) (x : Run) : Nat :=
  match s.phaseArea x with
  | none => 0
  | some (_, a) => a

/-- A phase's access beyond its slot area (R257). -/
def State.areaFault (s : State) (x : Run) (t : Xfer) : Bool :=
  match s.phaseArea x with
  | none => false
  | some (f, _) => t.op != 0x22 && t.ext == 0 && decide (f.areaBytes < t.addr + t.len)

/-- A PUSCH item whose estimates are not written yet. -/
def Item.unestimated (i : Item) : Bool := fieldAt i.b 0 1 == 0x11 && i.st == .waiting

/-- A phase LOAD whose source overlaps LS is held until the estimator has written LS for every uplink item of the slot (R257). -/
def State.lsHeld (s : State) (x : Run) (t : Xfer) : Bool :=
  match x.owner with
  | .ring _ _ => false
  | .phase c n _ _ =>
    match (s.cell c).cfgAt n with
    | none => false
    | some f =>
      t.op == 0x20 && t.ext == 0 && decide (t.addr < f.sLs)
        && (s.cell c).slots.any fun j => decide (j.n = n) && j.up && j.items.any Item.unestimated

/-- The other end of a transfer (R106, R116, R257). -/
def State.xferEnd (s : State) (x : Run) (t : Xfer) : XferEnd :=
  if t.op = 0x22 then
    let w := s.xferWdesc x t
    if w.fabric then .fabric w.source w.key
    else .hbm ((match Tab.get? s.charts x.chart with
      | some ch => ch.hbmOff
      | none => 0) + w.source)
  else match t.ext with
    | 0 => .hbm (s.extBase x + t.addr)
    | 1 => .fabric t.addr t.key
    | _ => .host (x.args.getD t.arg 0 + t.addr)

/-- The local tensor's bytes. -/
def State.localBytes (s : State) (x : Run) (t : Xfer) (n : Nat) : List Byte :=
  if t.staging then s.bytes .staging x.dom (x.stWin * 64 + t.base * 64) n else s.bytes .scratch x.dom (x.spWin * 64 + t.base * 64) n

/-- The local tensor written (R107, R112 where its bytes are open). -/
def State.localStore (s : State) (x : Run) (t : Xfer) (b : List Byte) : State :=
  if t.staging then
    let off := x.stWin * 64 + t.base * 64
    if s.runOpen x then
      let f := s.freshBytes b.length
      f.2.store .staging x.dom off f.1
    else s.store .staging x.dom off b
  else s.runStore x (t.base * 64) b

/-! ### TRANSFER_START (R129, R344, R372) -/

/-- A transfer marked as started. -/
def State.xferStarted (s : State) (r i : Nat) : State :=
  s.modRun r fun x => { x with cmds := Tab.modify x.cmds i fun c => { c with stage := .started, startAt := s.now } }

/-- A transfer that its engine cannot begin: the run ends (R316, R329). -/
def State.xferFails (s : State) (r i cause detail : Nat) : State :=
  ((s.xferStarted r i).failTransfer r i cause detail).endCmd r i false

/-- A ready transfer started at its engine, or left waiting for one. -/
def State.xferBegin (s : State) (r i : Nat) (x : Run) (t : Xfer) : State :=
  match s.xferEnd x t with
  | .hbm _ => s.xferStarted r i
  | .fabric a key =>
    let n := s.xferLen x t
    if !faOk a 64 then s.xferFails r i (0x0200 + fsAlign) a
    else
      let st := t.op = 0x21
      (s.xferStarted r i).startJob (.xfer r i) (if st then .store else .load) r x.dom a n key false (if st then s.localBytes x t n else [])
        |>.getD s
  | .host a =>
    if t.op = 0x21 then (if s.dmaBusy r then s.dmaWaits r else s.xferStarted r i)
    else match s.dmaRead (.xfer r i) (s.runInst x) r a t.len with
      | some s => s.xferStarted r i
      | none => s.dmaWaits r

/-- A domain's partitions are in the scratchpad and staging: they are static in the image, or RESIDENT (R302). A SAVED domain that gains a cell
slot stays out until a switch has loaded it. -/
def State.windowsHere (s : State) (d : Nat) : Bool := s.fixedPart d || s.flag F.MEM_PART_RESIDENT d

/-- TRANSFER_START: a dispatched transfer whose tags are ready (R129). -/
def State.xferStart (s : State) (r i : Nat) : State :=
  match s.xferOf r i with
  | none => s
  | some (x, t) =>
    if !x.stopped && x.unstarted.contains i && x.tagsReady (.xfer t) && s.windowsHere x.dom && !s.lsHeld x t then s.xferBegin r i x t else s

def execTransferStart (run idx : Nat) (s : State) : Host.Outcome State Fault Refusal := .next (s.xferStart run idx)

/-! ### TRANSFER_COMPLETE (R128, R447) -/

/-- The bytes of a LOAD noted for the input digest (R447). -/
def State.noteRead (s : State) (r i kind : Nat) (b : List Byte) : State :=
  s.modRun r fun x => { x with hashes := x.hashes ++ [⟨i, kind, b.length, leNat (sha3_256 b)⟩] }

/-- A LOAD or WLOAD lands: the local tensor is written and its tag becomes RESIDENT. -/
def State.xferLand (s : State) (r i : Nat) (x : Run) (t : Xfer) (b : List Byte) : State :=
  let s := if t.op = 0x20 then s.noteRead r i (t.ext + 1) b else s
  (s.localStore x t b).endCmd r i true

/-- A transfer that ended with a failure of its own (R128, R131). -/
def State.xferFailed (s : State) (r i cause detail : Nat) : State := ((s.hbmNote cause).failTransfer r i cause detail).endCmd r i false

/-- A transfer between the window and the domain's HBM (R295). -/
def State.xferHbm (s : State) (r i : Nat) (x : Run) (t : Xfer) (off : Nat) : State :=
  let n := s.xferLen x t
  let st := decide (t.op = 0x21)
  match (if s.areaFault x t then some causePageBounds else s.hbmFault x.dom off n (!st)) with
  | some c => s.xferFailed r i c off
  | none =>
    if st then ((s.storeData x.dom off (s.localBytes x t n)).spoilPages x.dom off n).endCmd r i true
    else s.xferLand r i x t (s.bytes .hbm x.dom off n)

/-- A transfer over the fabric that is over (R328). -/
def State.xferFabric (s : State) (r i : Nat) (x : Run) (t : Xfer) : State :=
  match s.jobOf (.xfer r i) with
  | none => s
  | some (j, f) =>
    if f.over then
      let s := s.dropJob j
      if f.status = stOk then
        if t.op = 0x21 then s.endCmd r i true else s.xferLand r i x t f.bytes
      else s.xferFailed r i (0x0200 + f.status) (f.addr + match f.fails with
        | (o, _) :: _ => o
        | [] => 0)
    else s

/-- A transfer between the window and an argument buffer. -/
def State.xferHost (s : State) (r i : Nat) (x : Run) (t : Xfer) (a : Nat) : State :=
  if t.op = 0x21 then (s.dmaWrite (s.runInst x) r x.dom a (s.localBytes x t t.len)).endCmd r i true
  else match s.dma.find? fun j => decide (j.2.use = .xfer r i) with
    | none => s
    | some (k, j) =>
      let gone := { s with dma := Tab.del s.dma k }
      match j.failed with
      | some c => gone.xferFailed r i c j.addr
      | none => if j.landed then (gone.dmaBytes x.dom j.data.length).xferLand r i x t j.data else s

/-- TRANSFER_COMPLETE: a started transfer whose data is there. -/
def State.xferComplete (s : State) (r i : Nat) : State :=
  match s.xferOf r i with
  | none => s
  | some (x, t) =>
    if x.started i then
      match s.xferEnd x t with
      | .hbm off => s.xferHbm r i x t off
      | .fabric _ _ => s.xferFabric r i x t
      | .host a => s.xferHost r i x t a
    else s

/-! ### DMA completions and timeouts (R373, R374) -/

/-- A read of host memory has ended with a cause: each use fails in its own way (R131, R369, R603). -/
def State.dmaFailed (s : State) (k : Nat) (j : DmaJob) (cause : Nat) : State :=
  let gone := { s with dma := Tab.del s.dma k }
  match j.use with
  | .xfer _ _ => { s with dma := Tab.set s.dma k { j with failed := some cause, desc := 0, reads := 0 } }
  | .hcopy g cid =>
    match gone.fetched? g cid with
    | none => gone
    | some f =>
      let d := gone.ringDom g
      let s := if (gone.hbmFault d (fieldAt f.body 24 8) j.len false).isNone then
          let p := gone.freshBytes j.len
          p.2.storeData d (fieldAt f.body 24 8) p.1
        else gone
      s.hcopyFail g cid cause j.addr
  | .chart id =>
    match Tab.get? gone.charts id with
    | none => gone
    | some c =>
      let s := if (gone.hbmFault c.dom c.hbmOff j.len false).isNone then
          let p := gone.freshBytes j.len
          p.2.storeData c.dom c.hbmOff p.1
        else gone
      s.loadReadFails id cause j.addr
  | .fabric g cid =>
    (gone.faultRecord { gone.ringRecord g cid cause 1 with detail := j.addr }).completeStatus g cid stTransferError

/-- A read of host memory has returned all its bytes. -/
def State.dmaDone (s : State) (k : Nat) (j : DmaJob) (b : List Byte) : State :=
  let gone := { s with dma := Tab.del s.dma k }
  match j.use with
  | .xfer _ _ => { s with dma := Tab.set s.dma k { j with landed := true, data := b, desc := 0, reads := 0 } }
  | .hcopy g cid =>
    match gone.fetched? g cid with
    | none => gone
    | some f => gone.hcopyLand g cid (fieldAt f.body 24 8) b
  | .chart id => s.chartLand id b
  | .fabric g cid =>
    match gone.fetched? g cid with
    | none => gone
    | some f =>
      ((gone.dmaBytes (gone.ringDom g) b.length).startJob (.ring g cid) .store g (gone.ringDom g) (fieldAt f.body 16 8) j.len
        (fieldAt f.body 36 4) false b).getD s

/-- The domain of a host transfer's instance. -/
def State.jobDom (s : State) (j : DmaJob) : Nat := s.instDom j.inst

/-- A completion after its timeout was reported, or of a squashed read, is discarded and counted (R374). -/
def State.lateCpl (s : State) (job : Nat) : State :=
  let q := s.quar.find? fun q => !q.fabric && q.id == job
  let left := fun q : Quarantine => if !q.fabric && q.id == job then { q with tags := q.tags - 1 } else q
  let s := { s with quar := (s.quar.map left).filter fun q => q.tags != 0 }
  let s := match q with
    | some q => s.count (0xC05 + 8 * q.engine) none 1
    | none => s
  (s.addFld F.PCI_LATE_LATE_CPL 1).raise F.PCI_ERR_STATUS_LATE_CPL

/-- A read that timed out (R374): its tags stay quarantined for four times the timeout. -/
def State.dmaTimeout (s : State) (k : Nat) : State :=
  match Tab.get? s.dma k with
  | none => s
  | some j =>
    if s.readsOut k j = 0 then s
    else
      let t := s.fld F.PCI_DMA_CTRL_CPL_TIMEOUT_US * usec
      let out := s.readsOut k j
      let s := s.advanceTo (j.startAt + t)
      let q : Quarantine :=
        { id := k, engine := j.engine, link := (s.route j.inst).1, tags := out, fabric := false, freeAt := s.now + 4 * t }
      let s := { s with quar := s.quar ++ [q] }
      let s := (s.addFld F.PCI_LATE_TIMEOUTS 1).count (0xC04 + 8 * j.engine) none 1
      (s.dmaNote causeDmaTimeout (s.jobDom j)).dmaFailed k j causeDmaTimeout

def execDmaTimeout (job : Nat) (s : State) : Host.Outcome State Fault Refusal := .next (s.dmaTimeout job)

/-- A transfer of which the host has returned so many bytes: the requests and descriptors of the rest stay in use (R372). -/
def DmaJob.received (j : DmaJob) (b : List Byte) : DmaJob :=
  { j with data := b, reads := ceilDiv (j.len - b.length) readSize, desc := min j.desc (ceilDiv (j.len - b.length) 65536) }

/-- DMA_COMPLETION: what the host returned for a read, in increasing address (R372, R373), a late one among them (R374); a job whose requests
all wait for tags gets none. -/
def State.dmaCompletion (s : State) (k : Nat) (h : HostRead) : State :=
  match Tab.get? s.dma k with
  | none => s.lateCpl k
  | some j =>
    if j.landed || j.failed.isSome then s.lateCpl k
    else if s.readsOut k j = 0 then s
    else match h with
      | .data b =>
        let all := (j.data ++ b).take j.len
        let s := s.count (0xC03 + 8 * j.engine) none (all.length / 64 - j.data.length / 64)
        if all.length = j.len then s.dmaDone k j all else { s with dma := Tab.set s.dma k (j.received all) }
      | .timeout => s.dmaTimeout k
      | .denied _ => (s.dmaNote causeDmaFault (s.jobDom j)).dmaFailed k j causeDmaFault

def execDmaCompletion (job : Nat) (result : HostRead) (s : State) : Host.Outcome State Fault Refusal := .next (s.dmaCompletion job result)

end Sys2Proof.Machine
end

