-- ==== Sys2Proof/Machine/Runs.lean ====
section
/-! DEFINITION. Runs from their start to their end: RUN_CHART (R109, R111, R452), run start (R112, R113, R123, R177, R455), dispatch (R115,
R128, R173), completion (R132, R134), waypoint records (R445 to R448) and captures (R455). -/

namespace Sys2Proof.Machine

/-! ### RUN_CHART (R109, R111, R113) -/

/-- The status that refuses a RUN_CHART before its run (R109). -/
def State.runRefusal (s : State) (g : Nat) (r : Ring) (id : Nat) : Option Nat :=
  match Tab.get? s.charts id with
  | none => some stChartInvalid
  | some c =>
    if c.st ≠ .ready ∨ c.dom ≠ s.ringDom g ∨ c.lost = true then some stChartInvalid
    else if bit c.classMask (r.cls - 1) then none
    else some stNoClass

/-- A run of a chart waits for a run context, and counts as in progress (R108, R113). -/
def State.waitContext (s : State) (w : CtxWaiter) : State :=
  { s with
    ctxWait := s.ctxWait ++ [w]
    charts := Tab.modify s.charts w.chart fun c => { c with runs := c.runs + 1 } }

/-- RUN_CHART. Its reserved payload bits are ignored (DESIGN CHOICE, log entry 67). -/
def State.runChart (s : State) (g cid : Nat) : State :=
  match s.startable g cid 0x01, Tab.get? s.rings g with
  | some f, some r =>
    let id := fieldAt f.body 16 2
    match s.runRefusal g r id with
    | some st => s.completeNoRun g cid st 0 false
    | none =>
      (s.stageCmd g f .waitCtx).waitContext
        ⟨.ring g cid, id, s.ringDom g, r.cls, none, slice f.body 16 48, f.step⟩
  | _, _ => s

def execRunChart (ring cid : Nat) (s : State) : Host.Outcome State Fault Refusal := .next (s.runChart ring cid)

/-! ### RUN_START -/

/-- The order of R113 among waiting runs: phase runs by deadline, cell slot, phase and number, then fetches by ring. -/
def CtxWaiter.order (now : Nat) (w : CtxWaiter) : List Nat :=
  match w.owner with
  | .phase c _ p k => [0, wrap (w.deadline.getD 0 + 2 ^ 32 + 2 ^ 31 - now % 2 ^ 32) 32, c, p, k]
  | .ring g _ => [1, g]

/-- The waiter that takes the next free context. A domain that a live update drains starts no run (R305, R498). -/
def State.nextWaiter (s : State) : Option CtxWaiter :=
  minBy (CtxWaiter.order s.ts32) (s.ctxWait.filter fun w => !s.draining.contains w.dom)

/-- The seed and the halt index of a run on a reckoning ring (R451, R453, R455); none on any other and for phases. -/
def State.reckoning (s : State) (w : CtxWaiter) (count : Nat) : Option Nat × Option Nat :=
  match w.owner with
  | .phase _ _ _ _ => (none, none)
  | .ring g _ =>
    match Tab.get? s.rings g with
    | none => (none, none)
    | some r =>
      if r.reckons then
        let h := s.fld F.RING_RECKON_HALT_INDEX r.key
        (r.seed, if h < count - 1 then some h else none)
      else (none, none)

/-- A run as it takes its context (R113). -/
def State.newRun (s : State) (w : CtxWaiter) (c : Chart) : Run where
  owner := w.owner
  chart := w.chart
  dom := w.dom
  cls := w.cls
  spWin := bits (fieldAt w.body 0 8) 37 16
  stWin := bits (fieldAt w.body 0 8) 57 38
  args := (rangeFrom 0 5).map fun k => fieldAt w.body (8 + 8 * k) 8
  deadline := w.deadline
  step := w.step
  seed := (s.reckoning w c.count).1
  halt := (s.reckoning w c.count).2
  next := 0
  cmds := []
  tags := []
  grantedAny := false
  status := stOk
  failIndex := 0
  failValid := false
  cancelled := false
  resetting := false
  warn := 0
  rsvCount := 0
  trig := 0
  recomp := 0
  lastE := 0
  lastC := 0
  varied := false
  reports := []
  arrCycles := 0
  vecCycles := 0
  waypoints := []
  hashes := []
  endPassed := false
  captured := false
  grants := 0
  overlap := false
  ended := false

/-- R112: the windows lie inside the partitions and the named arguments are not zero. -/
def State.windowsOk (s : State) (x : Run) (c : Chart) : Bool :=
  decide (x.spWin * 64 + c.spBytes ≤ s.spSize x.dom) && decide (x.stWin * 64 + c.stBytes ≤ s.stSize x.dom)
    && (x.args.take c.nargs).all (· != 0)

/-- The first command that would round stochastically (R123). -/
def State.firstStochastic (s : State) (c : Chart) : Option Nat :=
  ((s.chartKinds c).find? fun p => p.2.mats.any (·.stoch)).map (·.1)

/-- A command that a halted replay may end at (R455). -/
def PKind.haltable : PKind → Bool
  | .mat _ => true
  | .vop _ => true
  | .attn _ => true
  | .xfer x => x.op != 0x21
  | _ => false

/-- The checks of a halted replay (R455). -/
def State.haltCheck (s : State) (x : Run) (c : Chart) : Option (Nat × Option Nat) :=
  match x.halt with
  | none => none
  | some h =>
    if !(match s.chartKind c h with
      | some k => k.haltable
      | none => false) then some (stCmdInvalid, some h)
    else if c.nargs > 4 ∨ x.args.getD c.nargs 0 = 0 then some (stBounds, some h)
    else none

/-- The first command beyond the quantum, for a run without a deadline (R172, R177). -/
def State.firstOver (s : State) (x : Run) (c : Chart) : Option Nat :=
  if x.deadline.isSome then none
  else ((s.chartKinds c).find? fun p => decide (s.quantum < quantumCycles p.2 s.mapE s.mapC)).map (·.1)

/-- The checks at run start: R112, R123, R455, and R177, which also sets QUANTUM_EXCEEDED. -/
def State.startCheck (s : State) (r : Nat) (x : Run) (c : Chart) : State :=
  if !s.windowsOk x c then s.failRun r stBounds none
  else
    match (if x.seed.isSome then none else s.firstStochastic c) with
    | some i => s.failRun r stFormatInvalid (some i)
    | none =>
      match s.haltCheck x c with
      | some (st, i) => s.failRun r st i
      | none =>
        match s.firstOver x c with
        | some i => s.quantumExceeded r i
        | none => s

/-- The windows of two runs of a domain overlap (R112). -/
def State.windowsMeet (s : State) (x y : Run) : Bool :=
  match Tab.get? s.charts x.chart, Tab.get? s.charts y.chart with
  | some a, some b =>
    x.dom == y.dom && (rangesMeet (x.spWin * 64) a.spBytes (y.spWin * 64) b.spBytes || rangesMeet (x.stWin * 64) a.stBytes (y.stWin * 64) b.stBytes)
  | _, _ => false

/-- A run whose windows overlap another's, and that other run, have no defined results (R112). -/
def State.noteOverlap (s : State) (r : Nat) (x : Run) : State :=
  let hit := s.runs.any fun p => p.1 != r && s.windowsMeet x p.2
  { s with runs := s.runs.map fun p =>
      if (p.1 = r ∧ hit = true) ∨ (p.1 ≠ r ∧ s.windowsMeet x p.2 = true) then (p.1, { p.2 with overlap := true }) else p }

/-- A ring's command becomes started when its run takes a context. -/
def State.ownerStarted (s : State) (o : RunOwner) : State :=
  match o with
  | .phase _ _ _ _ => s
  | .ring g cid =>
    match s.fetched? g cid with
    | some f => s.stageCmd g f .started
    | none => s

/-- RUN_START: the first waiter takes a free context (R113). -/
def State.runStart (s : State) : State :=
  match s.nextWaiter with
  | none => s
  | some w =>
    match Tab.get? s.charts w.chart, s.pickFree s.runs 1024 with
    | some c, (some r, s) =>
      let x := s.newRun w c
      let s := { s with ctxWait := s.ctxWait.erase w }.ownerStarted w.owner
      let s := (s.setRun r x).countHelm 13 1
      (s.noteOverlap r x).startCheck r x c
    | _, _ => s

def execRunStart (s : State) : Host.Outcome State Fault Refusal := .next s.runStart

/-! ### COMMAND_DISPATCH (R115, R128, R173) -/

/-- The run may dispatch: not stopped, nothing SAVED, room under LOOKAHEAD, and not past its halt (R115, R128, R455). -/
def Run.mayDispatch (x : Run) (c : Chart) : Bool :=
  !x.stopped && !x.anySaved && !x.endPassed && decide (x.next < c.count) && decide (x.cmds.length < c.lookahead)
    && (match x.halt with
      | some h => decide (x.next ≤ h)
      | none => true)

/-- The command window has an entry for a run's command: all 256 for a Vermilion command with a deadline, the unreserved ones for any
other (R172, R173). -/
def State.windowRoom (s : State) (x : Run) : Bool :=
  let dl := fun e : WinEntry => e.cls == 1 && !s.shared e
  let verm := s.helm.window.countP dl
  let other := s.helm.window.length - verm
  if x.cls = 1 ∧ x.deadline.isSome = true then decide (s.helm.window.length < 256)
  else decide (other + max verm (s.fld F.HLM_WINDOW_CTRL_VERM_RSV) < 256)

/-- The run's next command passed. -/
def Run.pass (x : Run) : Run := { x with next := x.next + 1 }

/-- A command dispatched: its written tags are PENDING and its readers counted (R128). -/
def Run.dispatch (x : Run) (i : Nat) (k : PKind) (now : Nat) : Run :=
  let x := k.writeTags.foldl (fun x t => x.setTag t .pending) x
  let x := k.readTags.foldl Run.addReader x
  { x with cmds := Tab.set x.cmds i ⟨.dispatched, now, false⟩, next := i + 1 }

/-- An array, vector or transfer command at dispatch. -/
def State.dispatchCmd (s : State) (r i : Nat) (x : Run) (k : PKind) : State :=
  let eng := k.isArray || k.isVector
  if (k.writeTags.all x.writeOk) && (!eng || s.windowRoom x) then
    let s := s.setRun r (x.dispatch i k s.now)
    let s := if eng then { s with helm := { s.helm with window := s.helm.window ++ [⟨r, i, x.cls, k.isVector, none⟩] } } else s
    (s.tagFaults r).noteReady
  else s

/-- The next command of a run by its kind; it waits where its condition is false (R115, R128). -/
def State.dispatchKind (s : State) (r : Nat) (x : Run) (k : PKind) : State :=
  match k with
  | .release t =>
    if (x.tag t).st = .invalid then s.setRun r x.pass
    else if (x.tag t).st = .resident ∧ (x.tag t).readers = 0 then s.setRun r (x.setTag t .invalid).pass
    else s
  | .barrier => if x.cmds = [] then s.setRun r x.pass else s
  | .done => if x.cmds = [] then s.setRun r { x.pass with endPassed := true } else s
  | k => s.dispatchCmd r x.next x k

/-- A command that would write or release a FAULTED tag: the run ends as R129 states, since the tag can never again become RESIDENT or
INVALID while the command waits (R128, DEDUCED in log entry 39). -/
def Run.meetsFaulted (x : Run) (k : PKind) : Bool :=
  let l : List Nat := match k with
    | .release t => [t]
    | k => k.writeTags
  l.any fun t => (x.tag t).st == .faulted

/-- COMMAND_DISPATCH: the next command of a run, or nothing while it waits. -/
def State.dispatchNext (s : State) (r : Nat) : State :=
  match Tab.get? s.runs r with
  | none => s
  | some x =>
    match Tab.get? s.charts x.chart with
    | none => s
    | some c =>
      if x.mayDispatch c then
        match s.chartKind c x.next with
        | none => s
        | some k => if x.meetsFaulted k then s.failRun r stTagFault (some x.next) else s.dispatchKind r x k
      else s

def execCommandDispatch (run : Nat) (s : State) : Host.Outcome State Fault Refusal := .next (s.dispatchNext run)

/-! ### HALT_CAPTURE (R455, R456) -/

/-- A tensor's rows: where each starts in its window and its bytes. -/
def rowsAt (base stride n bytes : Nat) : List (Nat × Nat) := (rangeFrom 0 n).map fun i => ((base + i * stride) * 64, bytes)

/-- The rows that a command writes, in the order of R455; WLOAD's length is its descriptor's. -/
def PKind.captureRows (k : PKind) (wlen : Nat) : List (Nat × Nat) :=
  match k with
  | .mat m =>
    rowsAt m.oBase m.oStride m.npos m.oRow ++ (if m.outForm = 3 then rowsAt (m.oBase + m.oPlane) m.oStride m.npos m.oRow else [])
      ++ (if m.hasFlags then [(m.planes * 64, m.flagBytes)] else []) ++ (if m.statPlane then [(m.statBase * 64, 8 * m.n)] else [])
  | .vop v =>
    rowsAt v.oBase v.oStride v.rows (fmtRow v.outFmt v.outLen) ++ (if v.exc then [((v.oBase + v.rows * v.oStride) * 64, 8)] else [])
  | .attn a =>
    if a.final then
      rowsAt a.oBase a.oStride a.nq (if a.outFmt = 0 then 4 * a.d else 2 * a.d)
        ++ (if a.exc then [((a.oBase + a.nq * a.oStride) * 64, 8)] else [])
    else rowsAt a.sBase a.sStride a.nq (4 * (a.d + 2)) ++ (if a.exc then [((a.sBase + a.nq * a.sStride) * 64, 8)] else [])
  | .xfer t => [(t.base * 64, if t.op = 0x22 then wlen else t.len)]
  | _ => []

/-- A command's local tensor lies in the staging window. -/
def PKind.inStaging : PKind → Bool
  | .xfer t => t.staging
  | _ => false

/-- The capture: each row rounded up to whole granules. -/
def State.captureBytes (s : State) (x : Run) (k : PKind) (wlen : Nat) : List Byte :=
  (k.captureRows wlen).flatMap fun p =>
    let b := if k.inStaging then s.bytes .staging x.dom (x.stWin * 64 + p.1) p.2 else s.bytes .scratch x.dom (x.spWin * 64 + p.1) p.2
    b ++ List.replicate (gran p.2 * 64 - p.2) 0

/-- The halt command of a replay has completed with OK and its capture is owed. -/
def Run.captureOwed (x : Run) : Option Nat :=
  match x.halt with
  | none => none
  | some h => if x.stopped = false ∧ x.captured = false ∧ h < x.next ∧ Tab.has x.cmds h = false then some h else none

/-- HALT_CAPTURE: the capture written to argument NARGS, or its transfer failed (R455, R456). -/
def State.haltCapture (s : State) (r : Nat) (ok : Bool) : State :=
  match Tab.get? s.runs r with
  | none => s
  | some x =>
    match x.captureOwed, Tab.get? s.charts x.chart with
    | some h, some c =>
      match s.chartKind c h with
      | none => s
      | some k =>
        let a := x.args.getD c.nargs 0
        if ok then
          let wlen := match k with
            | .xfer t => s.xferLen x t
            | _ => 0
          (s.dmaWrite (s.runInst x) r x.dom a (s.captureBytes x k wlen)).setRun r { x with captured := true }
        else s.failTransfer r h causeDmaFault a
    | _, _ => s

def execHaltCapture (run : Nat) (ok : Bool) (s : State) : Host.Outcome State Fault Refusal := .next (s.haltCapture run ok)

/-! ### WAYPOINT_POST (R445 to R448) -/

/-- The external reads that commands 0 to `i` of a program make: a LOAD one, an ATTN one (R447). -/
def PKind.readsOut : PKind → Bool
  | .xfer t => t.op == 0x20
  | .attn _ => true
  | _ => false

/-- `input_digest` of R447. -/
def Run.inputDigest (x : Run) (i : Nat) : List Byte :=
  let tag := match x.seed with
    | some sd => sha3_256 (toLe 16 sd)
    | none => toLe 32 0
  let reads := sortBy (fun a b => decide (a.idx ≤ b.idx)) (x.hashes.filter fun h => decide (h.idx ≤ i))
  sha3_256 (toLe 6 x.step ++ tag ++ reads.flatMap fun h => toLe 2 h.idx ++ toLe 1 h.kind ++ toLe 8 h.len ++ toLe 32 h.hash)

/-- "NMN7720-WAYPOINT" in ASCII. -/
def waypointText : List Byte :=
  [0x4E, 0x4D, 0x4E, 0x37, 0x37, 0x32, 0x30, 0x2D, 0x57, 0x41, 0x59, 0x50, 0x4F, 0x49, 0x4E, 0x54]

/-- `waypoint` of R446. -/
def State.waypointDigest (s : State) (x : Run) (c : Chart) (w : Waypoint) : List Byte :=
  sha3_256 (waypointText ++ toLe 2 w.idx ++ toLe 32 c.digest ++ toLe 32 c.weightDigest ++ x.inputDigest w.idx
    ++ toLe 4 (s.fld F.ALM_VERSION_FW_VERSION) ++ toLe 32 w.map)

/-- A waypoint record (R445). -/
def State.waypointEntry (s : State) (x : Run) (c : Chart) (w : Waypoint) (f : Fetched) : List Byte :=
  mkCompletion 0x09 0 f.cid f.user
    (toLe 1 stOk ++ toLe 1 0 ++ toLe 2 w.idx ++ toLe 2 x.chart ++ toLe 1 w.e ++ toLe 1 w.c ++ toLe 6 x.step ++ toLe 2 0
      ++ s.waypointDigest x c w)

/-- What holds a waypoint record back or takes it away: a lower command that still owes one, a read in flight, or a read that failed. -/
inductive WayState where
  | wait
  | lost
  | ready
deriving DecidableEq, Repr

/-- The standing of a run's next record (R448). -/
def State.wayState (s : State) (x : Run) (c : Chart) (w : Waypoint) : WayState :=
  let ks := (s.chartKinds c).filter fun p => decide (p.1 ≤ w.idx)
  if ks.any fun p => p.2.wantsWaypoint && Tab.has x.cmds p.1 then .wait
  else
    let owed := ks.filter fun p => p.2.readsOut && !(x.hashes.any fun h => h.idx == p.1)
    if owed.any fun p => Tab.has x.cmds p.1 then .wait
    else if owed.isEmpty then .ready
    else .lost

/-- WAYPOINT_POST: the lowest record owed, once its reads are hashed. A record whose reads can no longer all be hashed is never posted. -/
def State.waypointPost (s : State) (r : Nat) : State :=
  match Tab.get? s.runs r with
  | none => s
  | some x =>
    match minBy (fun w : Waypoint => [w.idx]) x.waypoints, Tab.get? s.charts x.chart with
    | some w, some c =>
      let gone := s.setRun r { x with waypoints := x.waypoints.erase w }
      match s.wayState x c w with
      | .wait => s
      | .lost => gone
      | .ready =>
        match x.owner with
        | .phase _ _ _ _ => gone
        | .ring g cid =>
          match s.fetched? g cid with
          | none => gone
          | some f => gone.postEntry g (s.waypointEntry x c w f) (bit f.flags 1)
    | _, _ => s

def execWaypointPost (run : Nat) (s : State) : Host.Outcome State Fault Refusal := .next (s.waypointPost run)

/-! ### RUN_COMPLETE (R132, R134, R208) -/

/-- Nothing of the run remains in flight and it is at its end (R115, R132, R448, R455). -/
def Run.over (x : Run) : Bool :=
  x.cmds.isEmpty && x.waypoints.isEmpty && !x.resetting && !x.ended && (x.stopped || x.endPassed || x.captured)

/-- The status, FAIL_INDEX and FAIL_VALID of a run's end. -/
def Run.final (x : Run) : Nat × Nat × Bool :=
  if x.status = stOk ∧ x.captured = true then (stHalted, x.halt.getD 0, true) else (x.status, x.failIndex, x.failValid)

/-- A phase instance after one of its runs has ended (R220). -/
def PhaseRun.endRun (q : PhaseRun) (n p : Nat) (ok : Bool) : PhaseRun :=
  if q.n = n ∧ q.p = p then { q with left := q.left - 1, ok := q.ok && ok } else q

/-- The completion of a ring's run, or the note of a phase's. -/
def State.postRun (s : State) (x : Run) : State :=
  let f := x.final
  match x.owner with
  | .ring g cid =>
    s.complete g cid (runPayload f.1 f.2.1 f.2.2 false x.lastE x.lastC x.varied x.warn x.rsvCount x.trig x.recomp x.engineNs)
  | .phase c n p _ =>
    let s := { s with cells := Tab.modify s.cells c fun y => { y with phases := y.phases.map fun q => q.endRun n p (f.1 == stOk) } }
    if x.lastE = 0 then s
    else (s.phaseCells c n p).foldl (fun s c => s.modSlot c n fun j => { j with e := x.lastE, c := x.lastC }) s

/-- RUN_COMPLETE, once no granted command of the run is in the array. -/
def State.runComplete (s : State) (r : Nat) : State :=
  match Tab.get? s.runs r with
  | none => s
  | some x =>
    if x.over && !s.arrHolds r then
      let st := x.final.1
      let s := if st ≥ 0x10 then s.addFld F.TRK_REJECT_COUNT_RUN_FAILURES 1 else s
      let s := if st = stOk then s else s.countWork x.dom x.cls 15 1
      ((s.countHelm 14 1).postRun x).leaveRun r
    else s

def execRunComplete (run : Nat) (s : State) : Host.Outcome State Fault Refusal := .next (s.runComplete run)

end Sys2Proof.Machine
end

