-- ==== Sys2Proof/Machine/Helm.lean ====
section
/-! DEFINITION. The Helm's controls: the quantum and the admission test (R178, R199), the strict calendar (R191 to R193, R537), and
residency switches (R195, R196, R302). -/

namespace Sys2Proof.Machine

/-! ### The quantum and the admission test -/

/-- QUANTUM_US stored, with QUANTUM_CYCLES (R199). -/
def State.setQuantum (s : State) (v : Nat) : State :=
  ((s.noteReg F.HLM_QUANTUM_QUANTUM_US.reg 0).setFld F.HLM_QUANTUM_QUANTUM_US v).setFld F.HLM_QUANTUM_QUANTUM_CYCLES (v * 1500)

/-- A write of HLM_QUANTUM: a raise is tested by admission first (R178). -/
def State.quantumWrite (s : State) (v : Nat) : State :=
  let q := clamp 2 100 (bits v 6 0)
  if q ≤ s.fld F.HLM_QUANTUM_QUANTUM_US then s.setQuantum q
  else
    let r := s.admitFull s.helm.cal (q * 1500) s.mapE s.mapC
    if r.pass then ((s.setQuantum q).noteAdmit r).noteOutcome true else (s.raise F.HLM_ERR_STATUS_QUANTUM_REFUSED).noteOutcome false

def execQuantumWrite (value : Nat) (s : State) : Host.Outcome State Fault Refusal := .next (s.quantumWrite value)

/-- HLM_ADMIT_CTRL as a write of it stores it (R199). RES_GAP_US is stored as written, beyond 1,000 too (DESIGN CHOICE, log entry 71). -/
def State.setAdmitCtrl (s : State) (v : Nat) : State :=
  let s := s.setFld F.HLM_ADMIT_CTRL_VERM_CAP_PCT (clamp 1 100 (bits v 6 0))
  let s := s.setFld F.HLM_ADMIT_CTRL_RES_GAP_US (bits v 16 7)
  let s := s.setFld F.HLM_ADMIT_CTRL_MARGIN (bits v 17 17)
  s.setFld F.HLM_ADMIT_CTRL_OCHRE_PERMILLE (min 100 (bits v 24 18))

/-- A write that makes the test harder to pass. -/
def State.tightens (s t : State) : Bool :=
  decide (t.fld F.HLM_ADMIT_CTRL_VERM_CAP_PCT < s.fld F.HLM_ADMIT_CTRL_VERM_CAP_PCT)
    || decide (s.fld F.HLM_ADMIT_CTRL_RES_GAP_US < t.fld F.HLM_ADMIT_CTRL_RES_GAP_US)
    || decide (s.fld F.HLM_ADMIT_CTRL_MARGIN < t.fld F.HLM_ADMIT_CTRL_MARGIN)

/-- A write of HLM_ADMIT_CTRL (R199). -/
def State.admitCtrlWrite (s : State) (v : Nat) : State :=
  let t := s.setAdmitCtrl v
  if s.tightens t then
    let r := t.admitNow
    if r.pass then (t.noteAdmit r).noteOutcome true else s.noteOutcome false
  else t

def execAdmitCtrlWrite (value : Nat) (s : State) : Host.Outcome State Fault Refusal := .next (s.admitCtrlWrite value)

/-! ### The strict calendar (R191 to R193) -/

/-- The staged entries with VALID set. -/
def State.stagedCal (s : State) : List CalEntry :=
  (rangeFrom 0 64).filterMap fun i =>
    if s.flag F.HLM_CAL_ENTRY_VALID i then
      some ⟨s.fld F.HLM_CAL_ENTRY_START i, s.fld F.HLM_CAL_ENTRY_LENGTH i, s.fld F.HLM_CAL_ENTRY_DOMAIN i⟩
    else none

/-- Entries in increasing start do not overlap. -/
def calApart : List CalEntry → Bool
  | a :: b :: t => decide (a.start + a.len ≤ b.start) && calApart (b :: t)
  | _ => true

/-- The first check of R193: bounds and overlap (R199). -/
def calBounds (l : List CalEntry) : Bool :=
  l.all (fun e => decide (2049 ≤ e.len) && decide (e.start + e.len ≤ calPeriodCyc)) && calApart (sortCal l)

/-- HLM_CAL_CTRL.COMMIT (R193). -/
def State.calCommit (s : State) : State :=
  let l := s.stagedCal
  if !calBounds l then s.setFld F.HLM_CAL_CTRL_COMMIT_RESULT 2
  else
    let r := s.admitFull l s.quantum s.mapE s.mapC
    if r.pass then
      ((({ s with helm := { s.helm with calNext := some l, calOffNext := false } }.noteAdmit r).noteOutcome true).setFld
        F.HLM_CAL_CTRL_COMMIT_RESULT 1)
    else (s.noteOutcome false).setFld F.HLM_CAL_CTRL_COMMIT_RESULT 3

def execCalCommit (s : State) : Host.Outcome State Fault Refusal := .next s.calCommit

/-- A strict domain holds an instance. -/
def State.strictInst (s : State) : Bool := s.insts.any fun i => !i.2.oper && s.strictDom i.2.dom

/-- HLM_CAL_CTRL.DISABLE (R199). -/
def State.calDisable (s : State) : State :=
  if s.strictInst then s.setFld F.HLM_CAL_CTRL_COMMIT_RESULT 3
  else { s with helm := { s.helm with calNext := none, calOffNext := true } }.setFld F.HLM_CAL_CTRL_COMMIT_RESULT 1

def execCalDisable (s : State) : Host.Outcome State Fault Refusal := .next s.calDisable

/-- The calendar's period and a position in it, at 2^−16 ns. -/
def cal16 : Nat := 65536 * calPeriodNs

/-- The state at the next period boundary of Meridian time (R191). -/
def State.toBoundary (s : State) : State := s.untilTai ((s.tai16 / cal16 + 1) * cal16)

/-- A calendar put in force, none for an empty one. -/
def State.useCal (s : State) (l : List CalEntry) : State :=
  let s := { s with helm := { s.helm with cal := l, calNext := none, calOffNext := false } }
  (s.setFld F.HLM_CAL_CTRL_ENABLE (b2n !l.isEmpty)).setFld F.HLM_STATUS_CAL_ACTIVE (b2n !l.isEmpty)

/-- A calendar put in force at a boundary: another calendar changes measurement index 8 (R433). -/
def State.nextCal (s : State) (l : List CalEntry) : State := if l = s.helm.cal then s.useCal l else (s.useCal l).measChanged

/-- A period boundary's effect on the calendar. -/
def State.boundaryCal (s : State) : State :=
  match s.helm.calNext, s.helm.calOffNext with
  | some l, _ => s.nextCal l
  | none, true => s.nextCal []
  | none, false => s

/-- The effective shares that PKG_LIMIT_W allows (R538). -/
def State.maxShare (s : State) : Nat := maxList (allDomains.map fun d => s.fld F.PMC_STRICT_SHARE_SHARE_W d)
def State.shareAt (s : State) (d : Nat) : Nat :=
  let p := s.fld F.PMC_STRICT_SHARE_SHARE_W d
  let room := s.fld F.PMC_LIMIT_PKG_LIMIT_W - 630
  if room < s.maxShare then p * room / s.maxShare else p

/-- F_d of an effective share (R537). -/
def dutyOf (eff : Nat) : Nat := min 256 (256 * eff / 470)

/-- A domain's effective share set, with its duty. -/
def State.setShare (s : State) (d eff : Nat) : State :=
  (s.setFld F.PMC_STRICT_SHARE_EFF_W eff d).setFld F.PMC_STRICT_SHARE_DUTY (dutyOf eff) d

/-- The strict domains. -/
def State.strictDoms (s : State) : List Nat := allDomains.filter s.strictDom

/-- The effective shares changed: STRICT_SCALED, the log, and every strict domain's CONFIG_GEN and notice (R538). Nothing where none
changes. -/
def State.setShares (s : State) (f : Nat → Nat) : State :=
  let ch := s.strictDoms.filter fun d => f d != s.fld F.PMC_STRICT_SHARE_EFF_W d
  if ch = [] then s
  else
    let s := ch.foldl (fun s d => s.setShare d (f d)) s
    let s := (s.raise F.PMC_ERR_STATUS_STRICT_SCALED).logOpen []
    let s := s.strictDoms.foldl (fun s d => s.configChanged d) s
    let s := s.strictDoms.foldl (fun s d => s.notice d 3 0 0) s
    s.setFld F.PMC_STATUS_STRICT_REDUCED (b2n (s.strictDoms.any fun d =>
      decide (s.fld F.PMC_STRICT_SHARE_EFF_W d < s.fld F.PMC_STRICT_SHARE_SHARE_W d)))

/-- At a period boundary the shares rise to what PKG_LIMIT_W allows, unless a sensor stands at CRIT (R538). -/
def State.raiseShares (s : State) : State :=
  if s.flag F.PMC_STATUS_CRIT_ACTIVE then s else s.setShares fun d => max (s.fld F.PMC_STRICT_SHARE_EFF_W d) (s.shareAt d)

def execCalPeriodBoundary (s : State) : Host.Outcome State Fault Refusal := .next s.toBoundary.boundaryCal.raiseShares

/-- The strict entry that starts next, with how many array cycles away. -/
def State.nextEntry (s : State) : Option (CalEntry × Nat) :=
  (minBy (fun e : CalEntry => [(e.start + calPeriodCyc - s.calPos) % calPeriodCyc]) s.helm.cal).map fun e =>
    (e, (e.start + calPeriodCyc - s.calPos) % calPeriodCyc)

/-- The counter value at which an entry starts next, at 2^−16 ns. -/
def State.entryTai (s : State) (e : CalEntry) : Nat :=
  let base := s.tai16 / cal16 * cal16
  (if e.start < s.calPos then base + cal16 else base) + ceilDiv (e.start * 2 * 65536) 3

/-- STRICT_ENTRY_START: the entry begins with its allowances (R192, R537). -/
def State.strictStart (s : State) : State :=
  match s.nextEntry with
  | none => s
  | some (e, _) =>
    let s := s.untilTai (s.entryTai e)
    let a := dutyOf (s.fld F.PMC_STRICT_SHARE_EFF_W e.dom) * (e.len - 2048) / 256
    { s with helm := { s.helm with strictA := a, strictV := a } }

def execStrictEntryStart (s : State) : Host.Outcome State Fault Refusal := .next s.strictStart

/-! ### Residency switches (R195, R196, R302) -/

/-- A domain that residency switches may save (R195, R301). -/
def State.swappable (s : State) (d : Nat) : Bool := s.swapDom d && !(s.helm.cal.any fun e => e.dom == d)

/-- A dispatched Slate command that waits only for its domain's windows: its tags RESIDENT, or SAVED. The commands of a domain that has become
static since it was saved wait in any class (R301, R302). -/
def State.waitsForWindows (s : State) (x : Run) : Bool :=
  (x.cls == 2 || !s.swapDom x.dom) && !x.stopped && !s.windowsHere x.dom && x.unstarted.any fun i => match s.runCmd x i with
    | some k => k.readTags.all fun t =>
        (x.tag t).st == .resident || (x.tag t).st == .saved || ((x.tag t).st == .pending && k.writeTags.contains t)
    | none => false

/-- The domain that a switch is to load: that of the first waiting command, the least recently granted first. -/
def State.loadDomain (s : State) : Option Nat :=
  minBy (fun d => [Tab.getD s.helm.lastGrant d 0, d])
    (((s.runs.filter fun p => s.waitsForWindows p.2).map fun p => p.2.dom).eraseDups)

/-- The runs of a domain with at least one RESIDENT tag, whose windows a switch saves, and those with SAVED tags, which it loads (R195). -/
def State.residentRuns (s : State) (d : Nat) : List (Nat × Run) := s.runs.filter fun p => p.2.dom == d && p.2.anyResident
def State.savedRuns (s : State) (d : Nat) : List (Nat × Run) := s.runs.filter fun p => p.2.dom == d && p.2.anySaved

/-- The bytes of a run's windows. -/
def State.windowBytes (s : State) (x : Run) : Nat :=
  match Tab.get? s.charts x.chart with
  | some c => c.spBytes + c.stBytes
  | none => 0

/-- The RESIDENT swappable domains that may be evicted: none of their runs has a PENDING tag; the oldest last grant first (R195). -/
def State.victims (s : State) : List Nat :=
  sortBy (fun a b => decide ([Tab.getD s.helm.lastGrant a 0, a] ≤ [Tab.getD s.helm.lastGrant b 0, b]))
    (allDomains.filter fun d => s.swappable d && s.windowsHere d && (s.runs.all fun p => p.2.dom != d || !p.2.anyPending))

/-- The lowest offset of a pool of `size` MiB with `need` contiguous MiB free of the ranges in use (R302). -/
def lowestFit (base size need : Nat) (used : List (Nat × Nat)) : Option Nat :=
  (rangeFrom base (size + 1 - need)).find? fun b =>
    decide (need ≤ size) && used.all fun u => decide (b + need ≤ u.1) || decide (u.1 + u.2 ≤ b)

/-- The swap pool's region of scratchpad or staging: it follows the static partitions (R301). -/
def State.poolBase (s : State) (base size : Fld) : Nat :=
  maxList (allDomains.map fun d => if !s.fixedPart d || s.fld size d == 0 then 0 else s.fld base d + s.fld size d)

/-- The bases at which a domain's partitions fit once some domains are out. -/
def State.placeFor (s : State) (d : Nat) (out : List Nat) : Option (Nat × Nat) :=
  let inn := allDomains.filter fun x => !s.fixedPart x && s.flag F.MEM_PART_RESIDENT x && !out.contains x && x != d
  let sp := lowestFit (s.poolBase F.MEM_PART_SP_BASE_MIB F.MEM_PART_SP_MIB) (s.fld F.MEM_POOL_SWAP_SP_MIB) (s.fld F.MEM_PART_SP_MIB d)
    (inn.map fun x => (s.fld F.MEM_PART_SP_BASE_MIB x, s.fld F.MEM_PART_SP_MIB x))
  let st := lowestFit (s.poolBase F.MEM_PART_ST_BASE_MIB F.MEM_PART_ST_MIB) (s.fld F.MEM_POOL_SWAP_ST_MIB) (s.fld F.MEM_PART_ST_MIB d)
    (inn.map fun x => (s.fld F.MEM_PART_ST_BASE_MIB x, s.fld F.MEM_PART_ST_MIB x))
  match sp, st with
  | some a, some b => some (a, b)
  | _, _ => none

/-- Domains evicted in order until the loaded one fits. -/
def State.evictFor (s : State) (d : Nat) : List Nat → List Nat → Option (List Nat × Nat × Nat)
  | out, rest =>
    match s.placeFor d out, rest with
    | some p, _ => some (out, p.1, p.2)
    | none, [] => none
    | none, v :: t => s.evictFor d (out ++ [v]) t

/-- t_switch of R195, in sixths of a nanosecond: 4 µs and the bytes at the effective residency slice (R309). -/
def State.switchTime (s : State) (bytes : Nat) : Nat :=
  4 * usec + ceilDiv (bytes * usec) (max 1 (s.fld F.MEM_POOL_RES_MBPS * s.fld F.MEM_STATUS_SCALE_FACTOR / 65536))

/-- A span of so many ns from now meets no admitted Vermilion window (R196). -/
def State.inGap (s : State) (ns : Nat) : Bool :=
  let p := s.tai / 2 ^ 32 % 1000000
  s.windows.all fun w =>
    (decide (p + ns ≤ w.1) || decide (w.2 ≤ p)) && decide (p + ns ≤ 1000000 + w.1)

/-- A domain's save area: its offset in the domain's HBM (R302), as the configuration image gives it. -/
def cfgSaveArea : Nat := 0x200000000
def State.saveArea (s : State) (d : Nat) : Nat := (s.resetWord cfgSaveArea d).toNat

/-- Where a run's windows lie in its domain's save area: offset and length of each (R302). -/
def State.savePlaces (s : State) (x : Run) (c : Chart) : (Nat × Nat) × (Nat × Nat) :=
  let a := s.saveArea x.dom
  ((a + x.spWin * 64, c.spBytes), (a + s.spSize x.dom + x.stWin * 64, c.stBytes))

/-- A run's tags in one state put into another. -/
def Run.retag (x : Run) (from_ to_ : TagState) : Run :=
  { x with tags := x.tags.map fun t => if t.2.st = from_ then (t.1, { t.2 with st := to_ }) else t }

/-- The cause, and the place, that keeps a switch from a run's save area (R291, R295, R297, R312). -/
def State.switchFault (s : State) (x : Run) (c : Chart) (rd : Bool) : Option (Nat × Nat) :=
  let p := s.savePlaces x c
  [p.1, p.2].findSome? fun q => (s.hbmFault x.dom q.1 q.2 rd).map fun k => (k, q.1)

/-- A switch that cannot reach a run's save area: the run's record and its end with TRANSFER_ERROR, its tags of a state FAULTED (DESIGN CHOICE,
log entry 93). -/
def State.switchFails (s : State) (r : Nat) (x : Run) (st : TagState) (p : Nat × Nat) : State :=
  let s := (s.hbmNote p.1).faultRecord { s.runRecord x p.1 1 0 with detail := p.2 }
  (s.setRun r (x.retag st .faulted)).failRun r stTransferError none

/-- A run's windows saved to the domain's HBM, and its RESIDENT tags SAVED (R128, R302). -/
def State.saveRun (s : State) (r : Nat) (x : Run) : State :=
  match Tab.get? s.charts x.chart with
  | none => s
  | some c =>
    match s.switchFault x c false with
    | some p => s.switchFails r x .resident p
    | none =>
      let p := s.savePlaces x c
      let s := s.store .hbm x.dom p.1.1 (s.bytes .scratch x.dom (x.spWin * 64) c.spBytes)
      let s := s.store .hbm x.dom p.2.1 (s.bytes .staging x.dom (x.stWin * 64) c.stBytes)
      let s := (s.hbmUsed x.dom p.1.1 p.1.2 false).hbmUsed x.dom p.2.1 p.2.2 false
      s.setRun r (x.retag .resident .saved)

/-- A domain evicted: its resident windows saved and its partitions given up (R302, R303). -/
def State.evict (s : State) (d : Nat) : State :=
  let s := (s.residentRuns d).foldl (fun s p => s.saveRun p.1 p.2) s
  ((s.zeroSpace .scratch d).zeroSpace .staging d).setFld F.MEM_PART_RESIDENT 0 d

/-- A switch that does not fit the current gap (R196). -/
def State.deferSwitch (s : State) (d : Nat) : State :=
  ((s.addFld F.HLM_RES_SWITCH_DEFERRED 1).countHelm 9 1).count 0x17F (some d) 1

/-- RES_SWITCH_START (R195, R196). -/
def State.switchStart (s : State) : State :=
  match s.helm.switch_, s.loadDomain with
  | none, some d =>
    match s.evictFor d [] s.victims with
    | none => s
    | some (out, sp, st) =>
      let bytes := sumList ((out.flatMap s.residentRuns ++ s.savedRuns d).map fun p => s.windowBytes p.2)
      let t := s.switchTime bytes
      if s.inGap (ceilDiv t nsec) then
        let s := out.foldl (fun s v => s.evict v) s
        let s := (s.setFld F.MEM_PART_SP_BASE_MIB sp d).setFld F.MEM_PART_ST_BASE_MIB st d
        { s with helm := { s.helm with switch_ := some ⟨out, d, s.now + t⟩ } }.setFld F.HLM_STATUS_RES_SWITCH_ACTIVE 1 |>.noteReady
      else s.deferSwitch d
  | _, _ => s

def execResSwitchStart (s : State) : Host.Outcome State Fault Refusal := .next s.switchStart

/-- A run's windows loaded back, and its SAVED tags RESIDENT (R128, R302). -/
def State.loadRun (s : State) (r : Nat) (x : Run) : State :=
  match Tab.get? s.charts x.chart with
  | none => s
  | some c =>
    let p := s.savePlaces x c
    let s := (s.readHbm x.dom p.1.1 p.1.2).readHbm x.dom p.2.1 p.2.2
    match s.switchFault x c true with
    | some q => s.switchFails r x .saved q
    | none =>
      let s := s.store .scratch x.dom (x.spWin * 64) (s.bytes .hbm x.dom p.1.1 p.1.2)
      let s := s.store .staging x.dom (x.stWin * 64) (s.bytes .hbm x.dom p.2.1 p.2.2)
      s.setRun r (x.retag .saved .resident)

/-- RES_SWITCH_COMPLETE (R195, R302). -/
def State.switchDone (s : State) : State :=
  match s.helm.switch_ with
  | none => s
  | some w =>
    let s := s.advanceTo w.doneAt
    let s := (s.savedRuns w.load).foldl (fun s p => s.loadRun p.1 p.2) s
    let s := { s with helm := { s.helm with switch_ := none } }
    let s := (s.setFld F.MEM_PART_RESIDENT 1 w.load).setFld F.HLM_STATUS_RES_SWITCH_ACTIVE 0
    (((s.addFld F.HLM_RES_SWITCH_SWITCHES 1).countHelm 8 1).count 0x17E (some w.load) 1).noteReady

end Sys2Proof.Machine
end

