-- ==== Sys2Proof/Machine/Cells.lean ====
section
/-! DEFINITION. Cell slots: their configuration and its rules (R200 to R209, R228 to R231, R241, R254, R255), the cell commands (R204, R205,
R210, R211), stops, and shedding (R222, R223). -/

namespace Sys2Proof.Machine

/-! ### Indications (R217, R218) -/

def stPostLate : Nat := 0x40
def stTooEarly : Nat := 0x41
def stCellInvalid : Nat := 0x42
def stSlotDuplicate : Nat := 0x43
def stItemInvalid : Nat := 0x44
def stAdmitRefused : Nat := 0x45
def stConfigInvalid : Nat := 0x46
def stCellStopped : Nat := 0x47
def stCellShed : Nat := 0x48
def stModelFault : Nat := 0x49
def stAirMissed : Nat := 0x4A
def stTimeInvalid : Nat := 0x4B

/-- The common fields of R217 over the bytes from 24 on. -/
def radioPayload (st kind c sfn slot : Nat) (rest : List Byte) : List Byte :=
  toLe 1 st ++ toLe 1 kind ++ toLe 2 (c % 512) ++ toLe 2 (sfn % 1024) ++ toLe 1 (slot % 128) ++ toLe 1 0 ++ rest

/-- The same with SFN and SLOT of a numbered slot, 0 without a configuration. -/
def cellPayload (st kind c : Nat) (f : Option CellCfg) (n : Nat) (rest : List Byte) : List Byte :=
  match f with
  | some f => radioPayload st kind c (f.sfn n) (f.slotOf n) rest
  | none => radioPayload st kind c 0 0 rest

/-- The events of CELL_EVENT (R217). -/
def evConfigured : Nat := 1
def evStarted : Nat := 2
def evStopped : Nat := 3
def evShedNotice : Nat := 4
def evShedDone : Nat := 5
def evUnassigned : Nat := 6
def evApplied : Nat := 7

/-- A cell command completed with KIND CELL_EVENT (R218). -/
def State.cellDone (s : State) (g cid st c ev : Nat) (f : Option CellCfg) (n : Nat) : State :=
  s.complete g cid (cellPayload st 6 c f n (toLe 1 ev ++ toLe 1 0))

/-- A cell command that is refused. -/
def State.cellRefused (s : State) (g cid st c : Nat) : State := s.cellDone g cid st c 0 none 0

/-- An unprompted CELL_EVENT on the cell's NOTICE_RING (R218, R365). -/
def State.cellNotice (s : State) (c ev cause : Nat) (n : Option Nat) : State :=
  match (s.cell c).latest with
  | none => s
  | some f =>
    (s.postUnsolicited f.noticeRing 0x40
      (cellPayload 0 6 c (if n.isSome then some f else none) (n.getD 0) (toLe 1 ev ++ toLe 1 cause))).1

/-- A changed cell slot, with its classifier entries kept as they stood before the changes of this array cycle (R30). -/
def State.noteEntries (s : State) (x y : Cell) : Cell :=
  if (x.cfg = y.cfg ∧ x.next = y.next ∧ x.prev = y.prev ∧ x.st.held = y.st.held) ∨ x.was.any (fun w => w.cyc == s.arrCycle) = true then
    { y with was := x.was }
  else { y with was := some ⟨s.arrCycle, x.cfg, x.next, x.prev, x.st.held⟩ }

/-- A cell slot as the classifier sees it now (R30). -/
def State.cellIn (s : State) (x : Cell) : Cell × Bool :=
  match x.was.filter fun w => w.cyc == s.arrCycle with
  | some w => ({ x with cfg := w.cfg, next := w.next, prev := w.prev }, w.held)
  | none => (x, x.st.held)

/-- Where a cell slot's radio buffers hold symbols, PRACH samples and time-domain samples, from the slot's own place on (log entry 25). -/
def radioParts : List Nat := [0, 2 ^ 44, 2 ^ 45]

/-- The units of 16 KiB of radio buffer that a stream of a cell slot needs: one per quarter, of the configurations that it holds (R304). -/
def Cell.unitsOf (x : Cell) (stream : Nat) : Nat :=
  if x.st.held then maxList ((x.cfg.toList ++ x.next.map (·.1)).map fun f => if stream < f.ulStreams then f.quarters else 0) else 0

/-- The streams' tables of radio-buffer units after a cell slot's streams, one by one, have given up or taken units, lowest free first (R304). -/
def giveUnits (c : Nat) (x : Cell) (t : Tab (List Nat)) (stream : Nat) : Tab (List Nat) :=
  let key := 64 * c + stream
  let have_ := Tab.getD t key []
  let want := x.unitsOf stream
  if want = have_.length then t
  else if want = 0 then Tab.del t key
  else
    let used := t.flatMap (·.2)
    Tab.set t key (have_.take want ++ ((rangeFrom 0 6144).filter fun u => !used.contains u).take (want - have_.length))

/-- A cell slot's radio-buffer units follow its configuration; those given are zero (R303, R304). -/
def State.putUnits (s : State) (c : Nat) (x : Cell) : State :=
  let t := (rangeFrom 0 64).foldl (giveUnits c x) s.rad.units
  let new := (rangeFrom 0 64).filter fun k => (Tab.getD s.rad.units (64 * c + k) []).length < (Tab.getD t (64 * c + k) []).length
  new.foldl (fun s k => radioParts.foldl (fun s p => s.zeroRange .radio (s.cellDom c) (c * 2 ^ 48 + p + k * 2 ^ 32) (2 ^ 32)) s)
    { s with rad := { s.rad with units := t } }

/-- A cell slot changed, and what follows the set of cells: buffer units, sums, commitments, and HELM_HOLD (R103, R203, R304, R306). -/
def State.putCell (s : State) (c : Nat) (x : Cell) : State :=
  let s := ((s.putUnits c x).setCell c (s.noteEntries (s.cell c) x)).refreshRadio
  s.setFld F.TRK_WAKE_CTRL_HELM_HOLD (b2n s.cellRunning)

def State.modCell (s : State) (c : Nat) (f : Cell → Cell) : State := { s with cells := Tab.modify s.cells c f }

/-! ### Groups (R209) -/

/-- The group phases in force: a lead, its configuration and the phase entry. -/
def State.groupPhases (s : State) : List (Nat × List Byte) :=
  s.admitted.flatMap fun x => (x.2.phases.filter fun p => phValid p && phGroup p).map fun p => (x.1, p)

/-- The lead of the group that a cell slot belongs to: the first, where two leads list it (DESIGN CHOICE, log entry 74). -/
def State.groupLead (s : State) (c : Nat) : Option Nat :=
  (s.groupPhases.find? fun g => g.1 == c || (phMembers g.2).contains c).map (·.1)

/-- The cell slots of a lead's group. -/
def State.groupCells (s : State) (lead : Nat) : List Nat :=
  (lead :: (s.groupPhases.filter fun g => g.1 == lead).flatMap fun g => phMembers g.2).eraseDups

/-! ### The rules of a configuration -/

/-- The most PRBs of a numerology (R200). -/
def nprbMax (mu : Nat) : Nat := [270, 273, 135, 264].getD mu 0

/-- R206: the header's own fields. -/
def CellCfg.headOk (c : CellCfg) : Bool :=
  c.b 0 4 == 0x4C4C4543 && decide (c.mu ≤ 3) && decide (c.b 5 1 ≤ 1) && (!c.ext || c.mu == 2) && decide (1 ≤ c.nprb)
    && decide (c.nprb ≤ nprbMax c.mu) && decide (c.split ≤ 2) && decide (1 ≤ c.ulStreams) && decide (c.ulStreams ≤ 64)
    && decide (1 ≤ c.dlStreams) && decide (c.dlStreams ≤ 64) && decide (1 ≤ c.ulLayers) && decide (c.ulLayers ≤ 16)
    && decide (1 ≤ c.dlLayers) && decide (c.dlLayers ≤ 16) && decide (c.nphase ≤ 8) && decide (c.pci ≤ 1007)
    && decide (250 ≤ c.dlLead) && decide (c.dlLead ≤ 4000) && decide (250 ≤ c.ulLead) && decide (c.ulLead ≤ 4000)
    && (c.ulDecode == 0 || (decide (125 ≤ c.ulDecode) && decide (c.ulDecode ≤ 2000))) && decide (c.roots ≤ 512)
    && allZero (slice c.hdr 34 30)

/-- A METHOD and WIDTH byte of R228. -/
def compOk (b : Nat) (meths : List Nat) : Bool :=
  meths.contains (b % 16) && (b / 16 == 0 || (decide (8 ≤ b / 16) && b % 16 != 4))

/-- The points of an FFT: the sample rate over the subcarrier spacing (R229). -/
def CellCfg.nfft (c : CellCfg) : Nat := 2048 * 2 ^ (c.tdRate % 4) / 2 ^ c.mu

/-- R228: reserved bits and ranges of the fronthaul parameters. -/
def CellCfg.fhFieldsOk (c : CellCfg) : Bool :=
  decide (c.subport < 32) && decide (c.b 65 1 < 16) && decide (c.b 66 2 < 32768) && (c.tagged || c.b 66 2 == 0)
    && decide (1 ≤ c.eaxcStep) && compOk (c.b 75 1) [0, 1] && compOk (c.b 76 1) [0, 1, 4] && compOk (c.b 77 1) [0, 1]
    && c.b 95 1 == 0 && allZero (slice c.hdr 104 24)

/-- The rules of R229 on times and on split 8, and R241. -/
def CellCfg.fhRulesOk (c : CellCfg) : Bool :=
  decide (c.ta4Min < c.ta4Max) && decide (c.ta4Max ≤ 500000) && decide (c.t1aUpMin < c.t1aUpMax) && decide (c.t1aUpMax < c.t1aCpDl)
    && decide (c.t1aCpDl + 50000 ≤ 1000 * c.dlLead) && decide (c.t1aCpUl + 50000 ≤ 1000 * c.ulLead) && (!c.weightsExt || c.split == 1)
    && (c.b 76 1 % 16 != 4 || c.split != 0 || c.dlStreams == c.dlLayers)
    && (if c.split = 2 then
          decide (c.tdRate < 3) && [128, 256, 512, 1024, 2048, 4096].contains c.nfft && decide (12 * c.nprb < c.nfft)
            && decide (-640 ≤ c.agcTarget) && decide (c.agcTarget ≤ 0) && decide (c.b 94 1 < 2) && decide (c.agcInit ≤ 288)
            && decide (c.freezeMask < 16384) && decide (c.b 100 4 < 2 ^ 22) && c.eaxcPrach == 0 && decide (c.eaxcUl < 256)
            && decide (c.eaxcDl < 256)
        else allZero (slice c.hdr 90 14))

/-- The key that a configuration's frames carry (R230): sub-port, tag and VLAN. -/
def CellCfg.vlanKey (c : CellCfg) : Nat × Nat := (c.subport, b2n c.tagged * 4096 + c.vid)

/-- The classifier entries of a configuration (R231): the transport and ID, with the stream and its kind. -/
def CellCfg.entries (c : CellCfg) : List (Nat × Nat × Bool) :=
  (rangeFrom 0 c.ulStreams).map (fun i => (c.ulId i, i, false))
    ++ (if c.split = 2 then [] else (rangeFrom 0 c.ulStreams).map fun i => (c.prachId i, i, true))

def noRepeat (l : List Nat) : Bool := l.eraseDups.length == l.length

/-- The stream IDs are distinct in each direction (R229). -/
def CellCfg.idsOk (c : CellCfg) : Bool :=
  noRepeat (c.entries.map (·.1)) && noRepeat ((rangeFrom 0 c.dlStreams).map c.dlId)

/-- Two configurations claim one classifier key (R229, R231). -/
def CellCfg.clash (a b : CellCfg) : Bool :=
  a.vlanKey == b.vlanKey && decide ((a.split = 2) ↔ (b.split = 2)) && a.entries.any fun e => b.entries.any fun x => x.1 == e.1

/-- The configurations whose classifier entries are valid for some slot: those held, and those in force until a later one's activation slot (R229,
R233). -/
def State.entryCfgs (s : State) : List (Nat × CellCfg) :=
  s.cells.flatMap fun e => if e.2.st.held then (e.2.cfg.toList ++ e.2.next.map (·.1)).map fun f => (e.1, f) else []

/-- The grant of a key to a domain (R230). -/
def State.granted (s : State) (k : Nat × Nat) (d : Nat) : Bool :=
  (rangeFrom 0 1024).any fun i =>
    s.flag F.FH_GRANT_VALID i && s.fld F.FH_GRANT_SUBPORT i == k.1
      && s.fld F.FH_GRANT_TAGGED i * 4096 + s.fld F.FH_GRANT_VID i == k.2 && s.fld F.FH_GRANT_DOMAIN i == d

/-- R254: the engine parameters' own fields. -/
def CellCfg.engOk (c : CellCfg) : Bool :=
  decide (1 ≤ c.harqUes) && decide (c.harqUes ≤ 4096) && decide (c.b 146 1 < 8) && decide (1 ≤ c.cePorts) && decide (c.cePorts ≤ 16)
    && decide (1 ≤ c.ndmrs) && decide (c.ndmrs ≤ 4) && decide (c.ceShift ≤ 15) && [1, 2, 3, 4, 6, 12].contains c.eqGroup
    && decide (c.b 151 1 < 2) && decide (-160 ≤ c.sicThr) && decide (c.sicThr ≤ 480) && decide (c.llrShift ≤ 7)
    && decide (1 ≤ c.ldpcMaxIter) && decide (c.ldpcMaxIter ≤ 32) && decide (c.ldpcEt < 4) && decide (c.b 157 1 < 32)
    && (if c.split = 1 ∧ c.weightsExt then decide (1 ≤ c.bfTrx) && decide (c.bfTrx ≤ 64) else c.bfTrx == 0)
    && c.b 159 1 == 0 && decide (c.b 160 2 ≤ 480) && decide (c.decGuard ≤ 500) && allZero (slice c.hdr 164 92)

/-- D_s of R259, and the radio-buffer rule of R255. -/
def CellCfg.ds (c : CellCfg) : Nat := 16384 * c.quarters / (48 * c.nprb)
def CellCfg.reuseOk (c : CellCfg) : Bool :=
  decide ((c.ta4Max - c.ta4Min + 6000) * 3072 * 2 ^ c.mu ≤ c.ds * (if c.ext then 2560 else 2192) * 100000)

/-- The page ranges of a configuration's areas. -/
def CellCfg.areas (c : CellCfg) : List (Nat × Nat) := [(c.xchPage, c.xchPages), (c.harqPage, c.harqPages)]

/-- R255: the areas. -/
def State.areasOk (s : State) (c d : Nat) (f : CellCfg) : Bool :=
  let others := (s.cells.filter fun e => e.1 != c && s.cellDom e.1 == d && e.2.st.code ≥ 2).flatMap fun e =>
    ((e.2.cfg.toList ++ e.2.next.map (·.1)).flatMap CellCfg.areas)
  let meet := fun (a b : Nat × Nat) => rangesMeet a.1 a.2 b.1 b.2
  decide (f.dx * f.areaBytes ≤ f.xchPages * 65536) && f.areas.all (fun a => decide ((a.1 + a.2) * 65536 ≤ s.hbmSize d))
    && !meet (f.xchPage, f.xchPages) (f.harqPage, f.harqPages) && f.areas.all (fun a => others.all fun b => !meet a b)
    && decide (f.harqTable + 1 ≤ f.harqPages) && f.reuseOk && decide (f.ulLayers ≤ f.cePorts)

/-- R207: the reserved fields of a phase entry, VALID or not: those of FLAGS, RUN0 to RUN3 and MEMBERS too. -/
def phRsvOk (p : List Byte) : Bool :=
  fieldAt p 8 1 / 16 == 0 && allZero (slice p 10 6) && allZero (slice p 78 50)
    && (rangeFrom 0 4).all (fun k => fieldAt p (16 + 8 * k) 8 / 2 ^ 58 == 0)
    && (rangeFrom 0 15).all (fun i => decide (fieldAt p (48 + 2 * i) 2 < 512))

/-- R207: the values of a VALID phase entry. -/
def CellCfg.phValuesOk (c : CellCfg) (p : List Byte) : Bool :=
  let r := phRelease p
  let nm := fieldAt p 9 1
  let lead : Nat := match phTrigger p with
    | 1 => c.dlLead
    | 2 => c.ulLead
    | _ => c.maxLead
  decide (phTrigger p < 3) && (if phGroup p then decide (1 ≤ nm) && decide (nm ≤ 15) else nm == 0)
    && decide (-4000000 ≤ r) && decide (r ≤ 4000000) && decide (1000 ≤ phDeadline p - r) && decide (phDeadline p - r ≤ 3000000)
    && decide (-1000 * (lead : Int) ≤ r) && allZero (slice p (48 + 2 * nm) (30 - 2 * nm))

/-- R207: the charts of a phase entry. -/
def State.phChartsOk (s : State) (d : Nat) (p : List Byte) : Bool :=
  (phRuns p).all fun r =>
    match Tab.get? s.charts r.2.1 with
    | some h => h.st == .ready && h.dom == d && bit h.classMask 0 && h.nargs == 0
    | none => false

/-- R209: a group phase of a configuration of cell slot c, whose CELL_CONFIG arrived at t: every member has been configured by then (log
entry 81). -/
def State.phGroupOk (s : State) (c d t : Nat) (f : CellCfg) (p : List Byte) : Bool :=
  !phGroup p || ((s.groupLead c).getD c == c && (phMembers p).all fun m =>
    m != c && s.cellDom m == d && (s.cell m).st.held && decide ((s.cell m).since ≤ t) &&
      (match (s.cell m).latest with
       | some o => o.mu == f.mu && !(o.phases.any fun q => phValid q && phGroup q)
       | none => false))

/-- R209 for a cell slot that is a member of a group in force. -/
def State.memberOk (s : State) (c : Nat) (f : CellCfg) : Bool :=
  match s.groupLead c with
  | none => true
  | some l =>
    l == c || (!(f.phases.any fun q => phValid q && phGroup q) &&
      (match (s.cell l).latest with
       | some o => o.mu == f.mu
       | none => true))

/-- R207 and R209 for every phase entry. -/
def State.phasesOk (s : State) (c d t : Nat) (f : CellCfg) : Bool :=
  s.memberOk c f && f.phases.all fun p => phRsvOk p && (!phValid p || (f.phValuesOk p && s.phChartsOk d p && s.phGroupOk c d t f p))

/-- NOTICE_RING names a Vermilion ring of the instance. -/
def State.noticeOk (s : State) (inst g : Nat) : Bool :=
  match Tab.get? s.rings g with
  | some r => r.inst == inst && r.cls == 1
  | none => false

/-- The rules that CONFIG_INVALID reports, for a command that arrived at t (R201, R206, R207, R209, R229, R241, R255). -/
def State.configOk (s : State) (c d t : Nat) (f : CellCfg) : Bool :=
  f.headOk && f.fhFieldsOk && f.fhRulesOk && f.engOk && f.idsOk && s.noticeOk f.inst f.noticeRing
    && !(s.entryCfgs.any fun x => x.1 != c && x.2.clash f) && s.granted f.vlanKey d && s.areasOk c d f && s.phasesOk c d t f

/-! ### Checks of radio commands (R205, R211, R464) -/

/-- A cell slot is assigned to the domain of a ring. -/
def State.cellMine (s : State) (g c : Nat) : Bool :=
  (s.cell c).st != .unassigned && s.cellDom c == s.ringDom g && !s.ringOper g

/-- The slot that a command names, by its (SFN, slot) and arrival. -/
def State.namedSlot (s : State) (f : CellCfg) (b : List Byte) (arrive : Nat) : Nat :=
  s.resolveSlot f (fieldAt b 18 2 % 1024) (fieldAt b 20 1 % 128) arrive

/-- The slot that a command names on a cell slot, and the configuration in force at it (R211, R213). -/
def State.slotOfCmd (s : State) (x : Cell) (q : Fetched) : Option (CellCfg × Nat) :=
  s.nameSlot x (fieldAt q.body 18 2 % 1024) (fieldAt q.body 20 1 % 128) q.arrive

/-- A command refused as late is counted (R224). -/
def State.notePostLate (s : State) (d : Nat) : State := (s.addFld F.RAD_LATE_COUNT_POST_LATE 1).count 0x063 (some d) 1

/-- TIME_INVALID, a slot beyond the frame, POST_LATE or TOO_EARLY for a command that names a slot (R211, R464). -/
def State.timeCheck (s : State) (f : CellCfg) (b : List Byte) (arrive lead earlyUs : Nat) : Option Nat :=
  if !s.timeValid then some stTimeInvalid
  else if fieldAt b 20 1 % 128 ≥ f.perFrame then some stCellInvalid
  else
    let t0 := s.slotT0 f (s.namedSlot f b arrive)
    if arrive + lead * 1000 * 65536 > t0 then some stPostLate
    else if arrive + earlyUs * 1000 * 65536 < t0 then some stTooEarly
    else none

/-- POST_LATE is counted. -/
def State.noteStatus (s : State) (d st : Nat) : State := if st = stPostLate then s.notePostLate d else s

/-- A shedding decision is not yet carried out (R205). -/
def State.shedPending (s : State) : Bool := s.flag F.HLM_STATUS_SHED_PENDING

/-! ### The HARQ area (R270, R273) -/

/-- The domain offset of a context, and its entry cleared. -/
def CellCfg.ctxAt (f : CellCfg) (k : Nat) : Nat := 65536 * f.harqPage + 16 * k
def ctxClear : List Byte := toLe 4 0 ++ toLe 4 0xFFFFFFFF ++ toLe 8 0

/-- Every context of a cell cleared, where the domain's HBM can be written (R273). -/
def State.clearHarq (s : State) (c : Nat) (f : CellCfg) : State :=
  let d := s.cellDom c
  let s := s.modCell c fun x => { x with harqUsed := [], harqClear := false }
  if (s.hbmFault d (f.ctxAt 0) (f.harqUes * 512) false).isSome then s
  else s.store .hbm d (f.ctxAt 0) ((List.replicate (f.harqUes * 32) ctxClear).flatten)

/-- A cell slot with its areas the engines' own again (R258, R273). -/
def State.unspoil (s : State) (c : Nat) : State := { s with helm := { s.helm with spoilt := s.helm.spoilt.filter (· != c) } }

/-- Two configurations have the same HARQ area. -/
def CellCfg.sameHarq (a b : CellCfg) : Bool := a.harqPage == b.harqPage && a.harqPages == b.harqPages && a.harqUes == b.harqUes

/-! ### CELL_CONFIG (R204, R210) -/

/-- The configuration block as read. -/
def CellCfg.ofBlock (b : List Byte) (inst : Nat) : CellCfg :=
  let b := b ++ List.replicate 1280 0
  ⟨b.take 256, (rangeFrom 0 (min 8 (fieldAt b 13 1))).map fun i => slice b (256 + 128 * i) 128, inst⟩

/-- An orchestrator for a cell slot: which of the enabled ones with room is open (log entry 13). -/
def State.pickOrch (s : State) (c : Nat) : Nat × State :=
  let ok := s.radioCores.filter fun o =>
    decide ((s.cells.countP fun e => e.1 != c && e.2.st.held && e.2.orch == o) < 40)
  let f := s.fresh 32
  (ok.getD (f.1 % max 1 ok.length) 0, f.2)

/-- A configuration would add to a cell slot's demand while the Slate commitments are scaled (R307). -/
def State.addsScaled (s : State) (x : Cell) (f : CellCfg) : Bool :=
  let had := if x.st.held then (x.latest.map CellCfg.demandMbps).getD 0 else 0
  s.flag F.MEM_STATUS_COMMIT_SCALED && decide (had < f.demandMbps)

/-- The radio admission test with a configuration in place of what a slot holds, noted as R183 and R199 say. -/
def State.admitCfg (s : State) (c : Nat) (f : CellCfg) : Bool × State :=
  let x := s.cell c
  let p := (s.setCell c { x with st := if x.st.held then x.st else .configured, cfg := some f, next := [] }).radioTest
  let p := (p.1 && !s.addsScaled x f, p.2)
  (p.1, (if p.2.pass then s else s.raise F.HLM_ERR_STATUS_ADMIT_REFUSED).noteRequest p.1 c)

/-- The loads of an accepted admission. -/
def State.noteAccepted (s : State) : State := s.noteAdmit s.admitNow

/-- A configuration that passed, on a slot that is not ACTIVE. -/
def State.configNow (s : State) (c : Nat) (f : CellCfg) : State :=
  let x := s.cell c
  let p := if x.st.held then (x.orch, s) else s.pickOrch c
  let y := { x with
    st := CellState.configured, cfg := some f, next := [], prev := [], orch := p.1, stop := none, shedAt := none, slots := []
    since := if x.st.held then x.since else s.tai16
    stats := if x.st.held then x.stats else [] }
  let s := p.2.putCell c y
  (if (x.cfg.map f.sameHarq).getD false then s else (s.clearHarq c f).unspoil c).noteAccepted

/-- A configuration that passed, on an ACTIVE slot: it applies from slot n, in place of those that were to apply from it or later (R204). -/
def State.configFrom (s : State) (c : Nat) (f : CellCfg) (n : Nat) : State :=
  let x := s.cell c
  (s.putCell c { x with next := (x.next.filter fun p => decide (p.2 < n)) ++ [(f, n)] }).noteAccepted

/-- CELL_CONFIG with its block read. On an ACTIVE slot the activation slot is one of the new configuration's (log entry 80). -/
def State.configBlock (s : State) (g cid c : Nat) (q : Fetched) (f : CellCfg) : State :=
  let x := s.cell c
  let act := x.st == .active
  let late := if act then s.timeCheck f q.body q.arrive f.maxLead 5000000 else none
  match late with
  | some st => (s.noteStatus (s.ringDom g) st).cellRefused g cid st c
  | none =>
    if !s.configOk c (s.ringDom g) q.arrive f then s.cellRefused g cid stConfigInvalid c
    else
      let p := s.admitCfg c f
      if !p.1 then p.2.cellRefused g cid stAdmitRefused c
      else if act then
        let n := p.2.namedSlot f q.body q.arrive
        (p.2.configFrom c f n).cellDone g cid stOk c evApplied (some f) n
      else (p.2.configNow c f).cellDone g cid stOk c evConfigured none 0

/-- The states that CELL_CONFIG acts on (R204). -/
def CellState.configurable (x : CellState) : Bool := x == .assigned || x == .configured || x == .active || x == .shed

/-- CELL_CONFIG. -/
def State.cellConfig (s : State) (g cid : Nat) (block : HostRead) : State :=
  match s.startable g cid 0x40 with
  | none => s
  | some q =>
    let c := fieldAt q.body 16 2 % 512
    if !(s.cellMine g c && (s.cell c).st.configurable) then s.cellRefused g cid stCellInvalid c
    else if s.shedPending then s.cellRefused g cid stAdmitRefused c
    else
      match block with
      | .data b => s.configBlock g cid c q (CellCfg.ofBlock b (s.ringInst g))
      | .timeout => (s.readTimeout (s.ringDom g)).cellRefused g cid stTransferError c
      | .denied _ => (s.dmaNote causeDmaFault (s.ringDom g)).cellRefused g cid stTransferError c

def execCellConfig (ring cid : Nat) (block : HostRead) (s : State) : Host.Outcome State Fault Refusal := .next (s.cellConfig ring cid block)

/-! ### CELL_START (R204, R245) -/

/-- The gain loops of a cell at its start (R245). -/
def CellCfg.agcStart (f : CellCfg) (n : Nat) : Tab Agc :=
  if f.split = 2 then (rangeFrom 0 f.ulStreams).map fun i => (i, ⟨f.agcInit, n * 16, 0, 0, false⟩) else []

/-- A cell slot ACTIVE from slot n. -/
def State.startCell (s : State) (c : Nat) (f : CellCfg) (n : Nat) : State :=
  let x := s.cell c
  let p := if x.st.held then (x.orch, s) else s.pickOrch c
  let y := { x with
    st := CellState.active, act := n, cur := n - 1, stop := none, stopCmd := none, shedAt := none, cause := 0, orch := p.1
    since := if x.st.held then x.since else s.tai16
    seen := [], handedOff := [], freezes := [], phases := [], agc := f.agcStart n, fills := [] }
  p.2.putCell c y

/-- CELL_START. -/
def State.cellStart (s : State) (g cid : Nat) : State :=
  match s.startable g cid 0x41 with
  | none => s
  | some q =>
    let c := fieldAt q.body 16 2 % 512
    let x := s.cell c
    match x.cfg with
    | none => s.cellRefused g cid stCellInvalid c
    | some f =>
      if !(s.cellMine g c && (x.st == .configured || x.st == .shed)) then s.cellRefused g cid stCellInvalid c
      else if s.shedPending then s.cellRefused g cid stAdmitRefused c
      else
        match s.timeCheck f q.body q.arrive f.maxLead 5000000 with
        | some st => (s.noteStatus (s.ringDom g) st).cellRefused g cid st c
        | none =>
          let n := s.namedSlot f q.body q.arrive
          if x.st = .configured then (s.startCell c f n).cellDone g cid stOk c evStarted (some f) n
          else
            let p := s.admitCfg c f
            if p.1 then ((p.2.startCell c f n).noteAccepted).cellDone g cid stOk c evStarted (some f) n
            else p.2.cellRefused g cid stAdmitRefused c

def execCellStart (ring cid : Nat) (s : State) : Host.Outcome State Fault Refusal := .next (s.cellStart ring cid)

/-! ### Ends of accepted slots -/

/-- A SLOT command completed: SLOT_DONE's place in the counters (R224, R524). -/
def State.slotCmdDone (s : State) (c : Nat) (j : SlotJob) (payload : List Byte) : State :=
  ((s.addFld F.RAD_SLOT_COUNT_SLOTS 1).count 0x060 (some (s.cellDom c)) 1).complete j.ring j.cid payload

/-- The accepted slots at or after a boundary complete at once (R213, R223). -/
def State.cutSlots (s : State) (c b st : Nat) : State :=
  let x := s.cell c
  let s := s.modCell c fun x => { x with slots := x.slots.filter fun j => decide (j.n < b) }
  (x.slots.filter fun j => decide (b ≤ j.n)).foldl (fun s j =>
    s.slotCmdDone c j (cellPayload st 1 c (x.cfgAt j.n) j.n [])) s

/-- The first slot of a cell whose T0 less the larger lead, both of the configuration in force at it, is later than now (R223). -/
def State.boundaryAfter (s : State) (x : Cell) : Nat :=
  (((x.slotsIn s.tick 64).find? fun p => decide (s.tai16 + p.2.maxLead * 1000 * 65536 < s.slotT0 p.2 p.1)).map (·.1)).getD (s.tick + 64)

/-- A cell slot UNASSIGNED with its configuration discarded (R204). -/
def State.unassignCell (s : State) (c : Nat) (n : Option Nat) : State :=
  let s := s.cellNotice c evUnassigned 1 n
  s.putCell c (Cell.blank .unassigned)

/-- No accepted slot before a boundary is left, and the boundary has passed. -/
def State.reached (s : State) (x : Cell) (f : CellCfg) (b : Nat) : Bool :=
  decide (s.slotT0 f b ≤ s.tai16) && x.slots.all fun j => decide (b ≤ j.n)

/-- A stop ends: CONFIGURED, or UNASSIGNED after the operator's clearing (R204). A CELL_STOP that is owed its completion gets it. A configuration
that was to apply at or after the boundary is the one then held (DESIGN CHOICE, log entry 72). -/
def State.stopEnds (s : State) (c : Nat) (x : Cell) (f : CellCfg) (b : Nat) : State :=
  let s := (s.clearHarq c f).unspoil c
  let s := match x.stopCmd with
    | some (g, cid) => s.cellDone g cid stOk c (if x.clear then evUnassigned else evStopped) (some f) b
    | none => if x.clear then s else s.cellNotice c evStopped x.cause (some b)
  if x.clear then (if x.stopCmd.isSome then s.putCell c (Cell.blank .unassigned) else s.unassignCell c (some b))
  else s.putCell c { s.cell c with st := .configured, cfg := x.latest, next := [], prev := [], stop := none, stopCmd := none, stats := [] }

/-- A slot is being processed, or has been: its posting deadline has passed (R211, R221; log entry 82). -/
def State.processed (s : State) (x : Cell) (j : SlotJob) : Bool :=
  match x.cfgAt j.n with
  | none => true
  | some f => decide (s.slotT0 f j.n ≤ s.tai16 + (if j.up then f.ulLead else f.dlLead) * 1000 * 65536)

/-- The slots that are being processed carry CAPACITY_UNCOVERED (R221). -/
def State.markSlots (s : State) : State :=
  { s with cells := s.cells.map fun e =>
      (e.1, { e.2 with slots := e.2.slots.map fun j => if s.processed e.2 j then { j with uncovered := true } else j }) }

/-- From an uncovered loss on, slots are processed uncovered (R184, R221). -/
def State.markUncovered (s : State) : State := { s.markSlots with helm := { s.helm with uncovered := true } }

/-- Admission has passed at the new capacity, or the shed has taken effect: the slots processed until now carry the flag (R184, R221). -/
def State.coveredAgain (s : State) : State :=
  if s.helm.uncovered then { s.markSlots with helm := { s.helm with uncovered := false } } else s

/-- SHED_PENDING and what it stands for: no cell is still SHEDDING (R184, R199, R221, R224). -/
def State.shedOver (s : State) : State :=
  if s.cells.any fun e => e.2.st == .shedding then s
  else
    ((s.setFld F.HLM_STATUS_SHED_PENDING 0).setFld F.RAD_STATUS_SHED_PENDING 0).coveredAgain

/-- A shed ends (R204, R223, R310). -/
def State.shedEnds (s : State) (c : Nat) (x : Cell) (f : CellCfg) (b : Nat) : State :=
  let s := (s.clearHarq c f).unspoil c
  let s := s.putCell c { s.cell c with st := .shed, cfg := x.latest, next := [], prev := [], shedAt := none }
  let s := s.addFld F.RAD_SHED_COUNT_CELLS_SHED 1
  let s := (s.cellNotice c evShedDone x.cause (some b)).applyScale
  (if x.clear then s.unassignCell c (some b) else s).shedOver

/-- STOPPING and SHEDDING slots leave their state once the last slot before the boundary is complete (R204, R223). -/
def State.settleCell (s : State) (c : Nat) : State :=
  let x := s.cell c
  match x.latest with
  | none => s
  | some f =>
    match x.st, x.stop, x.shedAt with
    | .stopping, some b, _ => if s.reached x f b then s.stopEnds c x f b else s
    | .shedding, _, some b => if s.reached x f b then s.shedEnds c x f b else s
    | _, _, _ => s

/-! ### CELL_STOP (R204, R213) -/

/-- A cell slot STOPPING from slot b. -/
def State.stopCell (s : State) (c b cause : Nat) (cmd : Option (Nat × Nat)) : State :=
  let x := s.cell c
  ((s.putCell c { x with st := .stopping, stop := some b, stopCmd := cmd, cause := cause }).cutSlots c b stCellStopped).settleCell c

/-- CELL_STOP. -/
def State.cellStop (s : State) (g cid : Nat) : State :=
  match s.startable g cid 0x42 with
  | none => s
  | some q =>
    let c := fieldAt q.body 16 2 % 512
    let x := s.cell c
    if !(s.cellMine g c && x.st == .active) then s.cellRefused g cid stCellInvalid c
    else
      match s.slotOfCmd x q with
      | none => s.cellRefused g cid (if s.timeValid then stCellInvalid else stTimeInvalid) c
      | some (f, n) =>
        match s.timeCheck f q.body q.arrive f.maxLead 5000000 with
        | some st => (s.noteStatus (s.ringDom g) st).cellRefused g cid st c
        | none => (s.stageCmd g q .started).stopCell c n 0 (some (g, cid))

def execCellStop (ring cid : Nat) (s : State) : Host.Outcome State Fault Refusal := .next (s.cellStop ring cid)

/-! ### CELL_ASSIGN_WRITE (R204, R418) -/

/-- RAD_CELL_ASSIGN of a cell slot, as written. -/
def State.storeAssign (s : State) (c v : Nat) : State := s.setReg 0x3000020 c (BitVec.ofNat 64 (v % 2 ^ 17))

/-- The operator clears ASSIGNED (R204). -/
def State.clearAssigned (s : State) (c : Nat) : State :=
  let x := s.cell c
  match x.st with
  | .unassigned => s
  | .assigned | .configured | .shed => s.unassignCell c none
  | .active => (s.setCell c { x with clear := true }).stopCell c (s.boundaryAfter x) 1 none
  | .stopping | .shedding => s.setCell c { x with clear := true }

/-- A write of RAD_CELL_ASSIGN for the slot in RAD_CELL_SEL. ASSIGNED set again while a slot is STOPPING or SHEDDING withdraws its clearing
(DESIGN CHOICE, log entry 73). -/
def State.cellAssignWrite (s : State) (v : Nat) : State :=
  let c := s.fld F.RAD_CELL_SEL_CELL
  let x := s.cell c
  let d := bits v 6 0
  let a := bit v 7
  let was := s.flag F.RAD_CELL_ASSIGN_ASSIGNED c
  if (was || x.st != .unassigned) && s.cellDom c != d then s.raise F.RAD_ERR_STATUS_ASSIGN_REFUSED
  else if a && s.strictDom d then (s.raise F.RAD_ERR_STATUS_ASSIGN_REFUSED).raise F.ISO_ERR_STATUS_STRICT_REFUSED
  else
    let t := s.storeAssign c v
    let t := if was == a then t else t.configChanged d
    if a then
      if x.st = .unassigned then t.putCell c (Cell.blank .assigned) else t.setCell c { x with clear := false }
    else if was then t.clearAssigned c
    else t

def execCellAssignWrite (value : Nat) (s : State) : Host.Outcome State Fault Refusal := .next (s.cellAssignWrite value)

/-! ### Shedding (R222, R223) -/

/-- The state with ACTIVE cells taken out, as the tests of R222 count them. -/
def State.without (s : State) (l : List Nat) : State :=
  { s with cells := s.cells.map fun e => if l.contains e.1 then (e.1, { e.2 with st := .shed }) else e }

/-- What one step of R222 takes: an ACTIVE cell slot and the ACTIVE slots of its group. -/
def State.shedStep (s : State) (taken : List Nat) : Option (List Nat) :=
  let act := (s.cells.filter fun e => e.2.st == .active && !taken.contains e.1).map (·.1)
  match minBy (fun c => [511 - s.fld F.RAD_CELL_ASSIGN_SHED_RANK c, 511 - c]) act with
  | none => none
  | some c =>
    match s.groupLead c with
    | none => some [c]
    | some l => some ((s.groupCells l).filter act.contains)

/-- The cells that R222 chooses, taking steps until the tests pass. -/
def State.shedChoice (s : State) : Nat → List Nat → List Nat
  | 0, l => l
  | n + 1, l =>
    if (s.without l).lossTest.1 then l
    else match s.shedStep l with
      | none => l
      | some m => s.shedChoice n (l ++ m)

/-- A chosen cell enters SHEDDING with its boundary (R223). -/
def State.beginShed (s : State) (c b cause : Nat) : State :=
  let x := s.cell c
  let s := s.cellNotice c evShedNotice cause (some b)
  ((s.putCell c { x with st := .shedding, shedAt := some b, cause := cause }).cutSlots c b stCellShed).settleCell c

/-- The shed boundary of a chosen cell: one for all members of a group, the latest of theirs (R222). -/
def State.shedBoundary (s : State) (chosen : List Nat) (c : Nat) : Nat :=
  let same := match s.groupLead c with
    | none => [c]
    | some l => (s.groupCells l).filter chosen.contains
  maxList (same.map fun m => s.boundaryAfter (s.cell m))

/-- A shedding decision for a cause: the cells are chosen and each is shed, with the reports of R199, R222 and R548. -/
def State.shedCells (s : State) (chosen : List Nat) (cause : Nat) : State :=
  if chosen.isEmpty then s
  else
    let bs := chosen.map fun c => (c, s.shedBoundary chosen c)
    let s := (s.raise F.RAD_ERR_STATUS_SHED).raise F.HLM_ERR_STATUS_SHED
    let s := (s.setFld F.HLM_STATUS_SHED_PENDING 1).setFld F.RAD_STATUS_SHED_PENDING 1
    bs.foldl (fun s p => s.beginShed p.1 p.2 cause) s

/-- The tests of R222 after a loss: nothing when they pass, otherwise the decision. -/
def State.shedDecision (s : State) (cause : Nat) : State :=
  let t := s.lossTest
  if t.1 then (s.noteAdmit t.2).coveredAgain
  else
    let chosen := s.shedChoice 512 []
    let left := (s.without chosen).lossTest
    let s := if left.1 then s.noteAdmit left.2 else s
    s.shedCells chosen cause

/-- Every ACTIVE cell is shed (R286, R223 with the array OFFLINE). -/
def State.shedAll (s : State) (cause : Nat) : State :=
  s.shedCells ((s.cells.filter fun e => e.2.st == .active).map (·.1)) cause

end Sys2Proof.Machine
end

