-- ==== Sys2Proof/Machine/Slots.lean ====
section
/-! DEFINITION. Slot commands: work items and their rules (R213 to R216, R250, R251, R261 to R264, R268, R270, R273, R283), SLOT (R210,
R211), phases (R207, R208, R220), SLOT_DONE (R217, R218, R221), and slot boundaries (R204, R560). -/

namespace Sys2Proof.Machine

/-! ### Work items (R214 to R216) -/

def Item.f (i : Item) (off n : Nat) : Nat := fieldAt i.b off n
def Item.ty (i : Item) : Nat := i.f 0 1
def Item.id (i : Item) : Nat := i.f 2 2
def Item.sym0 (i : Item) : Nat := i.f 4 1
def Item.nsym (i : Item) : Nat := i.f 5 1
def Item.prb0 (i : Item) : Nat := i.f 6 2
def Item.nprb (i : Item) : Nat := i.f 8 2
def Item.rnti (i : Item) : Nat := i.f 10 2
def Item.nid (i : Item) : Nat := i.f 12 2
def Item.phase (i : Item) : Nat := i.f 14 1
def Item.power (i : Item) : Int := signed (i.f 15 1) 8
def Item.qm (i : Item) : Nat := i.f 16 1
def Item.nl (i : Item) : Nat := i.f 17 1
def Item.tbs (i : Item) : Nat := i.f 20 4
def Item.rv (i : Item) : Nat := i.f 24 1 % 4
def Item.ndi (i : Item) : Bool := bit (i.f 24 1) 2
def Item.bg (i : Item) : Nat := i.f 24 1 / 8 % 2
def Item.tp (i : Item) : Bool := bit (i.f 24 1) 4
def Item.lbrm (i : Item) : Bool := bit (i.f 24 1) 5
def Item.pid (i : Item) : Nat := i.f 25 1
def Item.dmrsSyms (i : Item) : Nat := i.f 26 2
def Item.dmrsPorts (i : Item) : Nat := i.f 28 2
def Item.dmrsType (i : Item) : Nat := i.f 30 1 % 2
def Item.cdm (i : Item) : Nat := i.f 30 1 / 2 % 4
def Item.dataAddr (i : Item) : Nat := i.f 32 8
def Item.ue (i : Item) : Nat := i.f 40 4
def Item.nscid (i : Item) : Nat := i.f 46 1
def Item.ctx (i : Item) : Nat := i.ue * 32 + i.pid

/-- The beam of an item (R215, R216). -/
def Item.beam (i : Item) : Nat :=
  match i.ty with
  | 0x01 | 0x11 => i.f 48 2
  | 0x02 => i.f 50 2
  | 0x03 => i.f 22 2
  | 0x04 => i.f 24 2
  | 0x12 => i.f 40 2
  | 0x13 => i.f 26 2
  | _ => i.f 30 2

/-- An item covers a symbol. -/
def Item.covers (i : Item) (sym : Nat) : Bool := decide (i.sym0 ≤ sym) && decide (sym < i.sym0 + i.nsym)

/-- An item is over. -/
def Item.settled (i : Item) : Bool :=
  match i.st with
  | .done | .failed _ => true
  | _ => false

/-- Bits set in a mask, in increasing order. -/
def bitsSet (m n : Nat) : List Nat := (rangeFrom 0 n).filter (bit m)

/-- The DM-RS symbols of an item in groups: a symbol that follows another directly is of the same group (R256). -/
def dmrsGroups (m : Nat) : List Nat := (bitsSet m 14).filter fun b => b == 0 || !bit m (b - 1)

/-- The DM-RS ports of an item's layers. -/
def Item.ports (i : Item) : List Nat := (bitsSet i.dmrsPorts 12).take i.nl

/-- The estimate layers of an item's layers (R261). -/
def Item.lambdas (i : Item) : List Nat := i.ports.map fun p => p + (if i.dmrsType = 0 then 8 else 12) * i.nscid

/-- R215 for a PDSCH or PUSCH: fields that both have. -/
def Item.sharedOk (i : Item) : Bool :=
  decide (1 ≤ i.f 18 2) && decide (i.f 18 2 ≤ 2047) && decide (24 ≤ i.tbs) && decide (i.tbs ≤ 4194304) && decide (i.f 24 1 < 64)
    && decide (i.pid < 32) && decide (i.dmrsSyms < 16384) && decide (i.dmrsPorts < 4096) && decide (i.f 30 1 < 8) && decide (1 ≤ i.cdm)
    && decide (i.f 31 1 < 16) && i.f 31 1 % 4 != 3 && i.f 31 1 / 4 != 3 && i.dataAddr % 64 == 0 && decide (i.ue < 2 ^ 20)
    && decide (i.nscid < 2) && i.f 47 1 == 0 && i.ports.length == i.nl

/-- A whole number is 2^a × 3^b × 5^c, for a number below 1024 (R268). -/
def smooth5 (n : Nat) : Bool :=
  (rangeFrom 0 10).any fun a => (rangeFrom 0 7).any fun b => (rangeFrom 0 5).any fun c => 2 ^ a * 3 ^ b * 5 ^ c == n

/-- PDSCH (R215, R283). -/
def Item.pdschOk (i : Item) (f : CellCfg) : Bool :=
  i.sharedOk && [2, 4, 6, 8, 10].contains i.qm && decide (1 ≤ i.nl) && decide (i.nl ≤ 8) && !i.tp && allZero (slice i.b 50 14)
    && (i.phase != 0xFF || decide (i.nl ≤ f.dlStreams))

/-- PUSCH (R215, R261, R268, R270). -/
def Item.puschOk (i : Item) (f : CellCfg) : Bool :=
  i.sharedOk && (if i.tp then [1, 2, 4, 6, 8] else [2, 4, 6, 8]).contains i.qm && decide (1 ≤ i.nl) && decide (i.nl ≤ 4)
    && allZero (slice i.b 59 5) && i.lambdas.all (fun l => decide (l < f.cePorts))
    && decide ((dmrsGroups i.dmrsSyms).length ≤ f.ndmrs) && decide (i.ue < f.harqUes) && (!i.tp || smooth5 i.nprb)

/-- PDCCH, SSB and CSI_RS (R216, R283). -/
def Item.pdcchOk (i : Item) : Bool :=
  decide (i.f 16 6 < 2 ^ 45) && i.f 22 1 % 4 != 0 && i.f 22 1 / 8 % 4 != 3 && decide (i.f 22 1 / 32 < 3)
    && [1, 2, 4, 8, 16].contains (i.f 23 1) && decide (i.f 24 2 < 512) && i.f 27 1 == 0 && decide (12 ≤ i.f 28 2)
    && decide (i.f 28 2 ≤ 140) && decide (i.f 32 18 < 2 ^ i.f 28 2) && allZero (slice i.b 52 12)
def Item.ssbOk (i : Item) : Bool :=
  i.nprb == 20 && i.nsym == 4 && decide (i.f 16 1 ≤ 63) && decide (i.f 17 1 ≤ 23) && decide (i.f 24 1 < 2) && allZero (slice i.b 25 39)
def Item.csiOk (i : Item) (f : CellCfg) : Bool :=
  decide (1 ≤ i.f 16 1) && decide (i.f 16 1 ≤ 18) && decide (i.f 17 2 < 4096) && decide (i.f 19 1 < 4) && decide (i.f 20 1 < f.nsym)
    && decide (i.f 21 1 < f.nsym) && decide (i.f 22 1 < 4) && decide (i.f 23 1 < 2) && allZero (slice i.b 26 38)
    && (i.phase != 0xFF || decide (((std stdAllowed [4, i.f 16 1]).headD 0).toNat ≤ f.dlStreams))

/-- PUCCH, PRACH and SRS (R216, R250, R251). -/
def Item.pucchOk (i : Item) : Bool :=
  decide (i.f 16 1 ≤ 4) && decide (i.f 17 1 < 4) && decide (i.f 20 1 < 12) && decide (i.f 21 1 < 64) && decide (i.f 30 1 < 4)
    && i.f 31 1 == 0 && allZero (slice i.b 42 22)

/-- The sequence length of a PRACH item, its N_CS, and the preambles that a root gives: by the restricted sets' tables, or floor(L / N_CS), 1
when N_CS is 0 (R248, R251). -/
def Item.prachLen (i : Item) : Nat := if i.f 16 1 ≤ 3 then 839 else 139
def Item.ncs (i : Item) : Nat := ((std stdNcs [i.prachLen, i.f 23 1, i.f 20 1, i.f 21 1]).headD 0).toNat
def Item.perRoot (i : Item) (root : Nat) : Nat :=
  if i.f 21 1 ≠ 0 then ((std stdRestricted [i.prachLen, root, i.ncs, i.f 21 1]).headD 0).toNat
  else if i.ncs = 0 then 1 else i.prachLen / i.ncs

/-- Roots in increasing logical index, each with the preambles taken of it, until `need` preambles are reached (R251). -/
def Item.takeRoots (i : Item) : Nat → Nat → Nat → List (Nat × Nat)
  | 0, _, _ => []
  | n + 1, root, need =>
    if need = 0 then []
    else
      let c := min need (i.perRoot root)
      (root, c) :: i.takeRoots n ((root + 1) % (i.prachLen - 1)) (need - c)

/-- The roots that a PRACH item needs. -/
def Item.roots (i : Item) : List (Nat × Nat) := i.takeRoots (i.prachLen - 1) (i.f 18 2) (i.f 22 1)
def Item.prachOk (i : Item) (f : CellCfg) : Bool :=
  (decide (i.f 16 1 ≤ 3) || (decide (0x10 ≤ i.f 16 1) && decide (i.f 16 1 ≤ 0x18))) && [1, 2, 4, 8].contains (i.f 17 1)
    && decide (i.f 18 2 ≤ 837) && decide (i.f 20 1 < 16) && decide (i.f 21 1 < 3) && decide (1 ≤ i.f 22 1) && decide (i.f 22 1 ≤ 64)
    && decide (i.f 23 1 ≤ 5) && decide (i.f 24 2 ≤ 480) && allZero (slice i.b 28 36) && decide (i.roots.length ≤ f.roots)
def Item.srsOk (i : Item) : Bool :=
  [1, 2, 4].contains (i.f 16 1) && [2, 4, 8].contains (i.f 17 1) && decide (i.f 18 1 < i.f 17 1) && decide (i.f 20 1 < 64)
    && decide (i.f 21 1 < 4) && decide (i.f 22 1 ≤ 67) && decide (i.f 23 1 < 4) && [1, 2, 4].contains (i.f 24 1) && i.f 25 1 == 0
    && decide (i.f 26 2 ≤ 268) && decide (i.f 28 1 < 3) && i.f 29 1 == 0 && allZero (slice i.b 40 24)

/-- The item's own fields (R214 to R216). An item of no symbol or no PRB is invalid (DESIGN CHOICE, log entry 76). -/
def Item.fieldsOk (i : Item) (f : CellCfg) (up : Bool) : Bool :=
  i.f 1 1 == 0 && decide (1 ≤ i.nsym) && decide (i.sym0 + i.nsym ≤ f.nsym) && decide (1 ≤ i.nprb) && decide (i.prb0 + i.nprb ≤ f.nprb)
    && decide (i.nid ≤ 1023) && (!up || i.f 15 1 == 0) && (i.phase == 0xFF || decide (i.phase < 8))
    && (match i.ty, up with
        | 0x01, false => i.pdschOk f
        | 0x02, false => i.pdcchOk
        | 0x03, false => i.ssbOk
        | 0x04, false => i.csiOk f
        | 0x11, true => i.puschOk f
        | 0x12, true => i.pucchOk
        | 0x13, true => i.prachOk f
        | 0x14, true => i.srsOk
        | _, _ => false)

/-- The phase that an item names: a phase of its cell slot, or a group phase of the lead (R209, R214). -/
def State.itemPhase (s : State) (c n p : Nat) : Option (Nat × List Byte) :=
  let own := ((s.cell c).cfgAt n).bind fun f => (f.phases[p]?).filter phValid
  match own with
  | some e => some (c, e)
  | none =>
    match s.groupLead c with
    | none => none
    | some l =>
      (((s.cell l).cfgAt n).bind fun f => (f.phases[p]?).filter fun e => phValid e && phGroup e && (phMembers e).contains c).map fun e => (l, e)

/-- A phase's trigger includes a direction (R207, R262). -/
def phServes (e : List Byte) (up : Bool) : Bool := phTrigger e == 0 || phTrigger e == (if up then 2 else 1)

/-- The PHASE of an item: an uplink item of a MODE 1 cell names one, and a named phase serves the slot's direction (R262). -/
def State.itemPhaseOk (s : State) (c n : Nat) (f : CellCfg) (up : Bool) (i : Item) : Bool :=
  if i.phase = 0xFF then !(up && f.modelPath)
  else match s.itemPhase c n i.phase with
    | none => false
    | some (_, e) => phServes e up

/-- The layers that the items up to and with one place on one resource element stay within UL_LAYERS_MAX (R264). -/
def layersOk (l : List Item) (f : CellCfg) (i : Item) : Bool :=
  i.ty != 0x11 ||
    (rangeFrom i.sym0 i.nsym).all fun y => (rangeFrom i.prb0 i.nprb).all fun p =>
      decide (sumList ((l.filter fun k => k.ty == 0x11 && k.covers y && decide (k.prb0 ≤ p) && decide (p < k.prb0 + k.nprb)).map Item.nl)
        ≤ f.ulLayers)

/-- The index of the first invalid item (R213). -/
def State.firstInvalid (s : State) (c n : Nat) (f : CellCfg) (up : Bool) (l : List Item) : Option Nat :=
  (rangeFrom 0 l.length).find? fun k =>
    match l[k]? with
    | none => false
    | some i =>
      let before := l.take k
      !(i.fieldsOk f up && s.itemPhaseOk c n f up i && layersOk (l.take (k + 1)) f i
        && !(i.ty == 0x11 && before.any fun j => j.ty == 0x11 && j.ctx == i.ctx))

/-- An item as posted. -/
def Item.fresh (b : List Byte) : Item where
  b := b
  st := .waiting
  cbDone := []
  cbFail := 0
  maxIter := 0
  harq := 0
  queued := false
  syms := []
  soft := []
  data := []
  out := []
  pages := []
  extent := 0
  retried := []
  ready := 0
  sinrs := []
  uci := []
  lost := false

/-! ### SLOT_DONE (R217, R218, R221) -/

/-- SLOT_DONE's flags. -/
def State.slotFlags (s : State) (f : CellCfg) (j : SlotJob) : Nat :=
  b2n j.verLate + 2 * b2n (j.uncovered || s.helm.uncovered) + 4 * b2n (j.items.any fun i => i.st == .failed stModelFault)
    + 8 * b2n (j.items.any fun i => i.st == .failed stAirMissed) + 16 * b2n (j.up && decide (s.decodeDeadline f j.n < s.tai16))

/-- What a completed slot counts (R224, R524). -/
def State.countSlot (s : State) (d fl ok bad : Nat) : State :=
  let s := (s.count 0x061 (some d) ok).count 0x062 (some d) bad
  let s := if bit fl 4 then s.count 0x065 (some d) 1 else s
  if bit fl 1 then (s.addFld F.RAD_SHED_COUNT_UNCOVERED 1).raise F.RAD_ERR_STATUS_UNCOVERED else s

/-- A slot's job. -/
def Cell.job? (x : Cell) (n : Nat) (up : Bool) : Option SlotJob := x.slots.find? fun j => j.n == n && j.up == up

/-- The flush commands that name no context in use any longer (R273, R274). -/
def Cell.usesCtx (x : Cell) (q : Flush) : Bool :=
  x.slots.any fun j => j.up && j.items.any fun i =>
    i.ty == 0x11 && !i.settled && (q.all || i.ue == q.ue) && bit q.mask i.pid

/-- The contexts that a flush names: a handle that is not below HARQ_UES names none (R270, R274). -/
def Flush.ctxs (q : Flush) (f : CellCfg) : List Nat :=
  ((if q.all then rangeFrom 0 f.harqUes else [q.ue]).filter fun u => decide (u < f.harqUes)).flatMap fun u => (bitsSet q.mask 32).map fun p => u * 32 + p

/-- The domain offset of the page-map entry of pool page p: that of the area page after the table's (R270). -/
def CellCfg.mapAt (f : CellCfg) (p : Nat) : Nat := 65536 * f.harqPage + 512 * f.harqUes + 4 * (f.harqTable + p)

/-- A page chain of the pool, from a page on (R270). -/
def State.chain (s : State) (d : Nat) (f : CellCfg) : Nat → Nat → List Nat
  | 0, _ => []
  | n + 1, p =>
    if p = 0xFFFFFFFF then []
    else p :: s.chain d f n (s.le .hbm d (f.mapAt p) 4)

/-- A context's entry (R270). -/
def State.ctxEntry (s : State) (d : Nat) (f : CellCfg) (k : Nat) : List Byte := s.bytes .hbm d (f.ctxAt k) 16

/-- The pages of a held context. -/
def State.ctxPages (s : State) (d : Nat) (f : CellCfg) (k : Nat) : List Nat :=
  let e := s.ctxEntry d f k
  if bit (fieldAt e 12 1) 0 then s.chain d f f.harqPages (fieldAt e 4 4) else []

/-- A context no longer held, its pages freed. -/
def State.freeCtx (s : State) (c d : Nat) (f : CellCfg) (k : Nat) : State :=
  let e := s.ctxEntry d f k
  let pg := s.ctxPages d f k
  let s := s.modCell c fun x => { x with harqUsed := x.harqUsed.filter fun p => !pg.contains p }
  s.store .hbm d (f.ctxAt k + 12) [BitVec.ofNat 8 (fieldAt e 12 1 / 2 * 2)]

/-- The pool pages of a cell (R270). -/
def CellCfg.pool (f : CellCfg) : Nat := f.harqPages - f.harqTable

/-- A cell slot's radio results have no defined value (R258). -/
def State.spoiltCell (s : State) (c : Nat) : Bool := s.helm.spoilt.contains c

/-- The bytes of a result as the device has them, or free ones. -/
def State.resultBytes (s : State) (c : Nat) (b : List Byte) : List Byte × State :=
  if s.spoiltCell c then s.freshBytes b.length else (b, s)

/-- A HARQ_FLUSH applied and completed (R274). -/
def State.doFlush (s : State) (c : Nat) (f : CellCfg) (q : Flush) : State :=
  let d := s.cellDom c
  let held := (q.ctxs f).filter fun k => bit (fieldAt (s.ctxEntry d f k) 12 1) 0
  let s := held.foldl (fun s k => s.freeCtx c d f k) s
  let p := s.resultBytes c (toLe 4 held.length ++ toLe 4 (f.pool - (s.cell c).harqUsed.length))
  p.2.complete q.ring q.cid (cellPayload stOk 8 c none 0 p.1)

/-- The waiting flushes that can now apply. -/
def State.runFlushes (s : State) (c : Nat) : State :=
  let x := s.cell c
  match x.latest with
  | none => s
  | some f =>
    let ready := x.flushes.filter fun q => !x.usesCtx q
    let s := s.modCell c fun x => { x with flushes := x.flushes.filter fun q => x.usesCtx q }
    ready.foldl (fun s q => s.doFlush c f q) s

/-- The contexts are cleared once no slot before the change is left (R273). -/
def State.harqSettle (s : State) (c : Nat) : State :=
  let x := s.cell c
  match x.cfg with
  | none => s
  | some f => if x.harqClear ∧ x.slots.all (fun j => decide (x.cur ≤ j.n)) then s.clearHarq c f else s

/-- SLOT_DONE once every item is over. -/
def State.settleSlot (s : State) (c n : Nat) (up : Bool) : State :=
  let x := s.cell c
  match x.job? n up, x.cfgAt n with
  | some j, some f =>
    if j.items.all Item.settled then
      let bad := j.items.filter fun i => i.st != .done
      let fl := s.slotFlags f j
      let first := ((rangeFrom 0 j.items.length).find? fun k => (j.items[k]?).any fun i => i.st != .done).getD 0
      let s := s.modCell c fun x => { x with slots := x.slots.erase j }
      let s := s.countSlot (s.cellDom c) fl (j.items.length - bad.length) bad.length
      let s := s.slotCmdDone c j (cellPayload stOk 1 c (some f) n
        (toLe 2 (j.items.length - bad.length) ++ toLe 2 bad.length ++ toLe 2 fl ++ toLe 1 j.e ++ toLe 1 j.c ++ toLe 2 first))
      ((s.harqSettle c).runFlushes c).settleCell c
    else s
  | _, _ => s

/-! ### Items' ends -/

/-- A slot's job changed. -/
def State.modSlotJob (s : State) (c n : Nat) (up : Bool) (g : SlotJob → SlotJob) : State :=
  s.modCell c fun x => { x with slots := x.slots.map fun j => if j.n = n ∧ j.up = up then g j else j }

/-- An item of a slot changed. -/
def State.modItem (s : State) (c n : Nat) (up : Bool) (k : Nat) (g : Item → Item) : State :=
  s.modSlotJob c n up fun j => { j with items := j.items.modify k g }

/-- An item set to a state. -/
def Item.to (i : Item) (st : ItemState) : Item := { i with st := st }

/-- A downlink item over, with its status. -/
def State.dlItemEnds (s : State) (c n k st : Nat) : State :=
  let s := s.modItem c n false k fun i => i.to (if st = stOk then .done else .failed st)
  let s := if st = stModelFault then s.raise F.RAD_ERR_STATUS_MODEL_FAULT else s
  let s := if st = stAirMissed then (s.addFld F.RAD_LATE_COUNT_AIR_MISSED 1).count 0x064 (some (s.cellDom c)) 1 else s
  s.settleSlot c n false

/-- The kind of an uplink item's indication and the DECODE_LATE bit of its flags byte (R217). -/
def ulKind (ty : Nat) : Nat × Nat :=
  match ty with
  | 0x11 => (2, 2)
  | 0x12 => (3, 32)
  | 0x14 => (5, 2)
  | _ => (4, 0)

/-- The flags byte and the rest of an indication, with what the engines found in it free where the cell's results have no defined value: the
`keep` first bytes of the rest repeat the item, and DECODE_LATE is `late` (R258). -/
def State.ulResult (s : State) (c st fl late keep : Nat) (rest : List Byte) : Nat × List Byte × State :=
  if st = stOk ∧ s.spoiltCell c = true then
    let a := s.fresh 8
    let b := a.2.freshBytes (rest.length - keep)
    (a.1 / (2 * late) * (2 * late) + a.1 % late, rest.take keep ++ b.1, b.2)
  else (fl, rest, s)

/-- An uplink item's indication: ITEM_ID, its flags with DECODE_LATE, and the rest from byte 27 on (R212, R217, R218). -/
def State.indicate (s : State) (c n k st fl : Nat) (rest : List Byte) : State :=
  let x := s.cell c
  match x.job? n true, x.cfgAt n with
  | some j, some f =>
    match j.items[k]? with
    | none => s
    | some i =>
      let kb := ulKind i.ty
      let late := decide (s.decodeDeadline f n < s.tai16)
      let r := s.ulResult c st fl kb.2 (if i.ty = 0x11 then 5 else 0) rest
      r.2.2.postExtra j.ring j.cid
        (cellPayload st kb.1 c (some f) n (toLe 2 i.id ++ toLe 1 (r.1 + if late then kb.2 else 0) ++ r.2.1))
  | _, _ => s

/-- An uplink item over: its indication is posted and its slot may be done. -/
def State.ulItemEnds (s : State) (c n k st fl : Nat) (rest : List Byte) : State :=
  let s := s.indicate c n k st fl rest
  let s := s.modItem c n true k fun i => i.to (if st = stOk then .done else .failed st)
  let s := if st = stModelFault then s.raise F.RAD_ERR_STATUS_MODEL_FAULT else s
  (s.runFlushes c).settleSlot c n true

/-- What has become of an item's phase instance: not over, over with OK, or failed in one of its runs (R220, R257). An instance that is never
released is never over (DESIGN CHOICE, log entry 75). -/
def State.phaseState (s : State) (c n : Nat) (i : Item) : Option Bool :=
  if i.phase = 0xFF then some true
  else match s.itemPhase c n i.phase with
    | none => some false
    | some (o, _) =>
      match (s.cell o).phases.find? fun q => q.n == n && q.p == i.phase with
      | none => none
      | some q => if q.ok = false then some false else if q.left = 0 then some true else none

/-- An uplink item of an accepted slot that is not over. -/
def State.ulItem (s : State) (c n k : Nat) : Option (Item × CellCfg × SlotJob) :=
  let x := s.cell c
  match x.job? n true, x.cfgAt n with
  | some j, some f =>
    match j.items[k]? with
    | some i => if i.settled then none else some (i, f, j)
    | none => none
  | _, _ => none

/-! ### SLOT (R210, R211, R213) -/

/-- The status that a cell slot's state gives a SLOT of slot n (R205, R219, R223). -/
def Cell.slotState (x : Cell) (n : Nat) : Option Nat :=
  if x.st = .shed then some stCellShed
  else if !x.st.running then some stCellInvalid
  else if x.shedAt.any fun b => decide (b ≤ n) then some stCellShed
  else if x.stop.any fun b => decide (b ≤ n) then some stCellStopped
  else if n < x.act then some stCellInvalid
  else none

/-- A SLOT refused. -/
def State.slotRefused (s : State) (g cid c st : Nat) (b : List Byte) (rest : List Byte) : State :=
  ((s.addFld F.RAD_SLOT_COUNT_SLOTS 1).count 0x060 (some (s.ringDom g)) 1).complete g cid
    (radioPayload st 1 c (fieldAt b 18 2) (fieldAt b 20 1) rest)

/-- A command of a phase instance that serves a slot of a cell slot was granted late (R221). -/
def State.phaseLate (s : State) (c n : Nat) : Bool :=
  let own := (s.cell c).phases.any fun q => q.n == n && q.late
  match s.groupLead c with
  | none => own
  | some l => own || (s.cell l).phases.any fun q => q.n == n && q.late && (s.phaseCells l n q.p).contains c

/-- The symbols that the items of an uplink slot other than PRACH cover, as a mask (R245). -/
def frozenMask (l : List Item) : Nat :=
  sumList ((rangeFrom 0 14).map fun y => if l.any fun i => i.ty != 0x13 && i.covers y then 2 ^ y else 0)

/-- SLOT with its list read. -/
def State.slotItems (s : State) (g cid c n : Nat) (f : CellCfg) (q : Fetched) (data : List Byte) : State :=
  let up := bit (fieldAt q.body 21 1) 0
  let k := fieldAt q.body 22 2
  let l := (rangeFrom 0 k).map fun i => Item.fresh (pad64 (slice data (64 * i) 64))
  match s.firstInvalid c n f up l with
  | some i => s.slotRefused g cid c stItemInvalid q.body (toLe 8 0 ++ toLe 2 i)
  | none =>
    let j : SlotJob := ⟨g, cid, n, up, l, s.phaseLate c n, false, 0, 0, [], [], [], []⟩
    (s.stageCmd g q .started).modCell c fun x => { x with
      slots := x.slots ++ [j], seen := (n, up) :: x.seen, freezes := if up then Tab.set x.freezes n (frozenMask l) else x.freezes }

/-- SLOT once its cell slot is known to be the tenant's. -/
def State.slotCheck (s : State) (g cid c n : Nat) (f : CellCfg) (q : Fetched) (list : HostRead) : State :=
  let up := bit (fieldAt q.body 21 1) 0
  let k := fieldAt q.body 22 2
  match s.timeCheck f q.body q.arrive (if up then f.ulLead else f.dlLead) 10000 with
  | some st => (s.noteStatus (s.ringDom g) st).slotRefused g cid c st q.body []
  | none =>
    match (s.cell c).slotState n with
    | some st => s.slotRefused g cid c st q.body []
    | none =>
      if (s.cell c).seen.contains (n, up) then s.slotRefused g cid c stSlotDuplicate q.body []
      else if k = 0 ∨ k > 256 ∨ fieldAt q.body 24 8 % 64 ≠ 0 then s.slotRefused g cid c stItemInvalid q.body []
      else
        match list with
        | .data b => s.slotItems g cid c n f q b
        | .timeout => (s.readTimeout (s.ringDom g)).slotRefused g cid c stTransferError q.body []
        | .denied _ => (s.dmaNote causeDmaFault (s.ringDom g)).slotRefused g cid c stTransferError q.body []

/-- SLOT. -/
def State.slotCmd (s : State) (g cid : Nat) (list : HostRead) : State :=
  match s.startable g cid 0x48 with
  | none => s
  | some q =>
    let c := fieldAt q.body 16 2 % 512
    if !(s.cellMine g c && (s.cell c).cfg.isSome) then s.slotRefused g cid c stCellInvalid q.body []
    else
      match s.slotOfCmd (s.cell c) q with
      | none => s.slotRefused g cid c (if s.timeValid then stCellInvalid else stTimeInvalid) q.body []
      | some (f, n) => s.slotCheck g cid c n f q list

def execSlot (ring cid : Nat) (list : HostRead) (s : State) : Host.Outcome State Fault Refusal := .next (s.slotCmd ring cid list)

/-! ### PHASE_RELEASE (R208, R209) -/

/-- A phase's trigger holds for slot n: any slot, or one with a slot command of the direction on a cell slot that the phase serves. -/
def State.triggered (s : State) (c n p : Nat) (e : List Byte) : Bool :=
  match phTrigger e with
  | 0 => true
  | t => (s.phaseCells c n p).any fun m => (s.cell m).seen.contains (n, t == 2)

/-- Slot n of a cell slot runs: from its activation to its boundaries (R204, R223). -/
def Cell.runs (x : Cell) (n : Nat) : Bool := (x.slotState n).isNone

/-- A phase instance due: its entry, where it is not released yet. -/
def State.phaseDue (s : State) (c n p : Nat) : Option (CellCfg × List Byte) :=
  let x := s.cell c
  match x.cfgAt n with
  | none => none
  | some f =>
    match f.phases[p]? with
    | none => none
    | some e =>
      if n % f.ticks == 0 && x.runs n && phValid e && s.triggered c n p e && !(x.phases.any fun q => q.n == n && q.p == p) then some (f, e) else none

/-- The Meridian time, in 2^−16 ns, at a signed number of ns from T0. -/
def State.fromT0 (s : State) (f : CellCfg) (n : Nat) (ns : Int) : Nat := ((s.slotT0 f n : Int) + ns * 65536).toNat

/-- A run of a phase released, or a failure of the phase where its chart cannot run. -/
def State.startPhaseRun (s : State) (c n p dl : Nat) (f : CellCfg) (e : List Byte) (k chart : Nat) : State :=
  let d := s.cellDom c
  match Tab.get? s.charts chart with
  | some h =>
    if h.st = .ready ∧ h.dom = d ∧ h.lost = false then
      s.waitContext ⟨.phase c n p k, chart, d, 1, some dl, slice e (16 + 8 * k) 8 ++ List.replicate 40 0, 0⟩
    else s.modCell c fun x => { x with phases := x.phases.map fun q => q.endRun n p false }
  | none => s.modCell c fun x => { x with phases := x.phases.map fun q => q.endRun n p false }

/-- PHASE_RELEASE. -/
def State.phaseRelease (s : State) (c n p : Nat) : State :=
  match s.phaseDue c n p with
  | none => s
  | some (f, e) =>
    let s := s.untilTai (s.fromT0 f n (phRelease e))
    let rs := phRuns e
    let dl := wrapInt ((s.slotT0ns f n : Int) + phDeadline e) 32
    let s := s.modCell c fun x => { x with phases := x.phases ++ [⟨n, p, rs.length, true, false⟩] }
    rs.foldl (fun s r => s.startPhaseRun c n p dl f e r.1 r.2.1) s

def execPhaseRelease (cell n phase : Nat) (s : State) : Host.Outcome State Fault Refusal := .next (s.phaseRelease cell n phase)

/-! ### SLOT_BOUNDARY (R204, R560) -/

/-- Every phase instance due by the boundary of slot n is released (R560). -/
def State.releasedAll (s : State) (c n : Nat) : Bool :=
  let x := s.cell c
  (x.slotsIn (max x.act (n - 35)) (n + 35 - max x.act (n - 35))).all fun m => (rangeFrom 0 m.2.phases.length).all fun p =>
    match s.phaseDue c m.1 p with
    | none => true
    | some (f, e) => decide (s.tai16 < s.fromT0 f m.1 (phRelease e))

/-- SLOT_DONE is posted for every slot whose time has passed (R560). -/
def State.doneAll (s : State) (c : Nat) : Bool :=
  let x := s.cell c
  x.slots.all fun j =>
    match x.cfgAt j.n with
    | none => true
    | some f => decide (s.tai16 ≤ if j.up then s.decodeDeadline f j.n else s.symTime f j.n (f.nsym - 1))

/-- The gain loops of a configuration that applies from slot n: those of new streams start with it (R243). -/
def CellCfg.agcAdd (f : CellCfg) (t : Tab Agc) (n : Nat) : Tab Agc :=
  if f.split = 2 then (rangeFrom 0 f.ulStreams).foldl (fun t i => if Tab.has t i then t else Tab.set t i ⟨f.agcInit, n * 16, 0, 0, false⟩) t
  else t

/-- The configurations at the boundary of slot n. -/
def Cell.atBoundary (x : Cell) (n : Nat) : Cell :=
  let x := { x with
    cur := n
    phases := x.phases.filter fun q => decide (n ≤ q.n + 160)
    seen := x.seen.filter fun q => decide (n ≤ q.1 + 160)
    handedOff := x.handedOff.filter fun q => decide (n ≤ q.1 + 160)
    freezes := x.freezes.filter fun q => decide (n ≤ q.1 + 160)
    fills := x.fills.filter fun q => decide (n ≤ q.n + 56)
    prev := x.prev.filter fun p => decide (n ≤ p.2 + 160) }
  match x.next.filter fun p => decide (p.2 ≤ n), x.cfg with
  | [], _ => x
  | l, o =>
    match l.getLast? with
    | none => x
    | some p =>
      { x with
        cfg := some p.1
        prev := x.prev ++ o.toList.map fun f => (f, p.2)
        next := x.next.filter fun q => decide (n < q.2)
        agc := p.1.agcAdd x.agc n
        harqClear := x.harqClear || !((o.map p.1.sameHarq).getD false) }

/-- SLOT_BOUNDARY: the boundary of the next slot of a running cell. -/
def State.slotBoundary (s : State) (c : Nat) : State :=
  let x := s.cell c
  match x.slotFrom (x.cur + 1) with
  | none => s
  | some (n, f) =>
    if x.st.running then
      let s := s.untilTai (s.slotT0 f n)
      let s := s.modCell c fun x => x.atBoundary n
      let s := if s.releasedAll c n && s.doneAll c then s.addFld F.RAD_CELL_HEARTBEAT_HEARTBEAT 1 c else s
      (s.harqSettle c).settleCell c
    else s

def execSlotBoundary (cell : Nat) (s : State) : Host.Outcome State Fault Refusal := .next (s.slotBoundary cell)

/-! ### HARQ_FLUSH (R274) -/

def State.harqFlush (s : State) (g cid : Nat) : State :=
  match s.startable g cid 0x4D with
  | none => s
  | some q =>
    let c := fieldAt q.body 16 2 % 512
    if !(s.cellMine g c && (s.cell c).st.code ≥ 2) then s.complete g cid (radioPayload stCellInvalid 8 c 0 0 [])
    else
      let fl : Flush := ⟨g, cid, fieldAt q.body 18 2 % 4096, fieldAt q.body 20 4, bit (fieldAt q.body 24 1) 0⟩
      ((s.stageCmd g q .started).modCell c fun x => { x with flushes := x.flushes ++ [fl] }).runFlushes c

def execHarqFlush (ring cid : Nat) (s : State) : Host.Outcome State Fault Refusal := .next (s.harqFlush ring cid)

end Sys2Proof.Machine
end

