-- ==== Sys2Proof/Machine/StackLoss.lean ====
section
/-! DEFINITION. The loss of a stack (R309 to R314) and patrol scrub (R297 to R299). -/

namespace Sys2Proof.Machine

/-- The uncorrectable errors of a stack in the last hour reach UE_LIMIT (R311). -/
def State.ueLimit (s : State) (k : Nat) : Bool :=
  decide (max 1 (s.fld F.MEM_SCRUB_CTRL_UE_LIMIT) ≤ s.scrub.ues.countP fun u => u.1 == k && decide (s.now < u.2 + 3600 * 1000 * msec))

/-- The errors of a stack no longer count toward its loss (R311). -/
def State.forgetUes (s : State) (k : Nat) : State := { s with scrub := { s.scrub with ues := s.scrub.ues.filter fun u => u.1 != k } }

/-! ### The loss of a stack (R309 to R313) -/

/-- The stack of a domain offset, where its extent is not LOST. -/
def State.offStack (s : State) (d off : Nat) : Option Nat := (s.physBlock d off).map fun b => b / stackBlocks

/-- A domain's byte lies in an extent on a stack. -/
def State.keyOnStack (s : State) (k key : Nat) : Bool :=
  decide (key / 2 ^ 64 < 128) && s.offStack (key / 2 ^ 64) (key % 2 ^ 64) == some k

/-- A range of a domain's space meets a stack. -/
def State.rangeOnStack (s : State) (k d off n : Nat) : Bool :=
  (rangeFrom (off / 65536) ((off + n + 65535) / 65536 - off / 65536)).any fun p => s.offStack d (p * 65536) == some k

/-- Step 1: the transfers and pages in flight to the stack fail with MEM_LOST. -/
def State.stackXfers (s : State) (k : Nat) : List (Nat × Nat × Nat) :=
  s.runs.flatMap fun p => p.2.cmds.filterMap fun c =>
    match s.xferOf p.1 c.1 with
    | none => none
    | some (x, t) =>
      match s.xferEnd x t with
      | .hbm off => if c.2.stage = .started ∧ s.rangeOnStack k x.dom off (s.xferLen x t) = true then some (p.1, c.1, off) else none
      | _ => none

def State.stackPages (s : State) (k : Nat) : List (Nat × Nat × Nat) :=
  s.vec.kv.filterMap fun q =>
    match s.attnOf q.run q.idx with
    | none => none
    | some (x, a) =>
      (q.inFlight.find? fun p => let g := s.kvRange x a p; s.rangeOnStack k x.dom g.1 g.2).map fun p => (q.run, q.idx, (s.kvRange x a p).1)

def State.failOnStack (s : State) (k : Nat) : State :=
  let xs := s.stackXfers k
  let ps := s.stackPages k
  let s := xs.foldl (fun s p => s.xferFailed p.1 p.2.1 causeMemLost p.2.2) s
  ps.foldl (fun s p => s.kvFail p.1 p.2.1 causeMemLost p.2.2) s

/-- The loads whose image is copied and touches the stack fail too: their reads of it are in flight (R107, R311). -/
def State.failLoads (s : State) (k : Nat) : State :=
  (s.charts.filter fun c => c.2.st == .loading && s.rangeOnStack k c.2.dom c.2.hbmOff c.2.size
      && s.dma.any fun j => decide (j.2.use = .chart c.1) && j.2.landed).foldl
    (fun s c => s.loadReadFails c.1 causeMemLost c.2.hbmOff) s

/-- Step 2: the bytes of the stack's extents are gone, and the extents LOST. -/
def State.loseExtents (s : State) (k : Nat) : State :=
  { s with
    mem := Memory.drop s.mem (s.keyOnStack k)
    poison := s.poison.filter fun b => b / stackBlocks != k
    latent := s.latent.filter fun e => e.1 / stackBlocks != k
    rewrites := s.rewrites.filter fun b => !s.keyOnStack k (b * 64)
    wrote := s.wrote.filter fun b => !s.keyOnStack k (b * 64)
    extents := s.extents.map fun e => if e.1 / 96 = k then (e.1, { e.2 with lost := true }) else e }

/-- The spare extents of enabled stacks, lowest number first. -/
def State.spares (s : State) : List Nat :=
  (s.extents.filter fun e => e.2.owner == extSpare && !e.2.lost && s.stackOn (e.1 / 96)).map (·.1)

/-- The spare that replaces an extent of an owner: on the stack where the owner holds the fewest, the lowest stack and number first (R312). -/
def State.spareFor (s : State) (owner : Nat) : Option Nat := minBy (fun e => [s.extOn owner (e / 96), e / 96, e]) s.spares

/-- One extent replaced by a spare that is written with zeros, or left LOST with SPARE_EXHAUSTED (R312). -/
def State.replaceExtent (s : State) (p : Nat × Extent) : State :=
  match s.spareFor p.2.owner with
  | none => s.raise F.MEM_ERR_STATUS_SPARE_EXHAUSTED
  | some e =>
    { s with
      extents := Tab.set (Tab.set s.extents p.1 ⟨extFree, 0, true, false⟩) e ⟨p.2.owner, p.2.idx, false, true⟩
      poison := s.poison.filter fun b => b / extBlocks != e
      latent := s.latent.filter fun q => q.1 / extBlocks != e }

/-- The order of replacement: DEVICE first, then by domain and index (R312). -/
def replaceOrder (l : List (Nat × Extent)) : List (Nat × Extent) :=
  let key := fun p : Nat × Extent => [if p.2.owner = extDevice then 0 else p.2.owner + 1, p.2.idx]
  sortBy (fun a b => decide (key a ≤ key b)) l

/-- The stack's extents that a domain or DEVICE owns. -/
def State.ownedOn (s : State) (k : Nat) : List (Nat × Extent) :=
  replaceOrder (s.extents.filter fun e => e.1 / 96 == k && (decide (e.2.owner < 128) || e.2.owner == extDevice))

/-- Records of a domain's lost extent indices, 64 to a record (R313, R545). -/
def State.lostRecords (s : State) (d k : Nat) (idxs : List Nat) : State :=
  match idxs with
  | [] => s
  | i :: _ =>
    ((idxs.map fun j => (j - i) / 64).eraseDups).foldl (fun s g =>
      let base := i + 64 * g
      let mask := sumList (idxs.map fun j => if base ≤ j ∧ j < base + 64 then 2 ^ (j - base) else 0)
      s.faultRecord { FaultRec.of causeMemLost 3 with
        dom := some d, cont := g != 0, index := base, ucls := ucStack, uidx := k, detail := mask }) s

/-- Charts whose image touches a lost extent take no further run (R313). -/
def State.loseCharts (s : State) (was : State) (k : Nat) : State :=
  { s with charts := s.charts.map fun c => if was.rangeOnStack k c.2.dom c.2.hbmOff c.2.size then (c.1, { c.2 with lost := true }) else c }

/-- The areas of a cell slot touch the stack, or an extent left LOST. -/
def State.cellOnStack (s : State) (k c : Nat) (x : Cell) : Bool :=
  match x.latest with
  | none => false
  | some f => f.areas.any fun a => s.rangeOnStack k (s.cellDom c) (a.1 * 65536) (a.2 * 65536)
def State.cellOnLost (s : State) (c : Nat) (x : Cell) : Bool :=
  match x.latest with
  | none => false
  | some f => f.areas.any fun a => (rangeFrom a.1 a.2).any fun p => s.extLost (s.cellDom c) (p % max 1 (s.nExt (s.cellDom c)))

/-- An item of an accepted slot has data of its own yet to read in the cell's areas (R313). -/
def Item.readsOn (i : Item) : Item := if i.settled then i else { i with lost := true }

/-- R313 for the cells: HARQ contexts to be cleared at the next slot boundary and the uplink items that have symbols in the areas marked, or a shed
with cause 3. -/
def State.loseCells (s : State) (was : State) (k : Nat) : State :=
  let items := fun (j : SlotJob) => if j.up && !j.handed.isEmpty then { j with items := j.items.map Item.readsOn } else j
  let mark := fun e : Nat × Cell => if e.2.st.running = true ∧ was.cellOnStack k e.1 e.2 = true then
      (e.1, { e.2 with harqClear := true, slots := e.2.slots.map items }) else e
  let s := { s with cells := s.cells.map mark }
  s.shedCells ((s.cells.filter fun e => e.2.st == .active && s.cellOnLost e.1 e.2).map (·.1)) 3

/-- The records of the domains whose list of extents has changed (R433, R434). -/
def State.extentsChanged (s was : State) : State :=
  let of := fun (t : State) d => (t.extents.filter fun e => e.2.owner == d).map fun e => (e.1, e.2.idx)
  (allDomains.filter fun d => of s d != of was d).foldl State.configChanged s

/-- STACK_LOSS: the steps of R311 on a stack in service. -/
def State.stackLoss (s : State) (k : Nat) : State :=
  if s.stackOn k then
    let owned := s.ownedOn k
    let t := (((s.failOnStack k).failLoads k).loseExtents k).forgetUes k
    let t := (t.mapDisable ⟨ucStack, k⟩ causeMemLost).raise F.MEM_ERR_STATUS_STACK_LOST
    let t := (owned.foldl State.replaceExtent t).extentsChanged s
    let t := allDomains.foldl (fun t d =>
      t.lostRecords d k ((owned.filter fun e => e.2.owner == d).map (·.2.idx))) t
    let t := (t.loseCharts s k).loseCells s k
    t.applyScale.shedDecision 3
  else s

/-- The stacks whose errors have reached their limit are lost (R311). -/
def State.limitStacks (s : State) : State := (rangeFrom 0 8).foldl (fun s k => if s.ueLimit k then s.stackLoss k else s) s

/-- The stacks that the map disables, with what an image gives on them replaced without a record (R292, R314). -/
def State.replaceOff (s : State) : State :=
  let off := (rangeFrom 0 8).filter fun k => !s.stackOn k
  let owned := replaceOrder (s.extents.filter fun e =>
    off.contains (e.1 / 96) && !e.2.lost && (decide (e.2.owner < 128) || e.2.owner == extDevice))
  owned.foldl State.replaceExtent (off.foldl State.loseExtents s)

def execStackLoss (stack : Nat) (s : State) : Host.Outcome State Fault Refusal := .next (s.stackLoss stack)

/-! ### Patrol scrub (R298) -/

/-- The first block at or after a place that scrub reads, and whether a pass ended on the way. -/
def State.scrubFrom (s : State) (b : Nat) : Nat × Bool :=
  if s.stackOn (b / stackBlocks) then (b, false)
  else match s.stacksOn.find? fun k => decide (b ≤ k * stackBlocks) with
    | some k => (k * stackBlocks, false)
    | none => (s.stacksOn.headD 0 * stackBlocks, true)

/-- The scrub pointer moved, and a pass counted. -/
def State.scrubMove (s : State) (b : Nat) : State :=
  let p := s.scrubFrom b
  let s := { s with scrub := { s.scrub with next := p.1 } }
  if p.2 then s.stacksOn.foldl (fun s k => s.count (0xEA0 + 12 * k + 10) none 1) (s.addFld F.MEM_SCRUB_CTRL_PASSES 1) else s

/-- A block found uncorrectable by scrub: logged without a record for its domain. -/
def State.scrubPoison (s : State) (b : Nat) : State :=
  if s.poison.contains b then s
  else
    let k := b / stackBlocks
    let s := (s.blockPoisoned b).faultRecord { FaultRec.of causeMemUe 0 with
      ucls := ucStack, uidx := k, detail := ((s.blockOwner b).map (·.2)).getD 0 }
    if s.ueLimit k then s.stackLoss k else s

/-- What a scrub read of a block finds, with the errors that have come about there: none, corrected (1) or uncorrectable. -/
def State.scrubBlock (s : State) (b result : Nat) : State :=
  let hit := s.latent.filter fun e => e.1 == b
  let s := { s with latent := s.latent.filter fun e => e.1 != b }
  if 2 ≤ result ∨ hit.any (·.2) = true then s.scrubPoison b
  else if result = 1 ∨ hit ≠ [] then s.blockCorrected b
  else s

/-- SCRUB_READ: the next block, whose read is without error, corrected (1) or uncorrectable (2), counted at its pseudo-channel (R289). -/
def State.scrubRead (s : State) (result : Nat) : State :=
  if s.fld F.MEM_SCRUB_CTRL_PERIOD_H = 0 ∨ s.stacksOn = [] then s
  else
    let s := s.scrubMove s.scrub.next
    let b := s.scrub.next
    ((s.count (0x200 + 256 * (b / stackBlocks) + 4 * pseudoChannel b + 3) none 1).scrubMove (b + 1)).scrubBlock b result

def execScrubRead (result : Nat) (s : State) : Host.Outcome State Fault Refusal := .next (s.scrubRead result)

/-- A full pass over a stack: its errors met, with blocks found corrected or uncorrectable by number on the stack (R298, R314). -/
def State.sweep (s : State) (k : Nat) (ce ue : List Nat) : State :=
  let on := fun (b : Nat) => k * stackBlocks + b % stackBlocks
  let l := (s.latent.filter fun e => e.1 / stackBlocks == k).map (·.1)
  let s := (l ++ ce.map on).foldl (fun s b => s.scrubBlock b (b2n ((ce.map on).contains b))) s
  let s := (ue.map on).foldl (fun s b => s.scrubBlock b 2) s
  s.count (0xEA0 + 12 * k + 10) none 1

/-- CORRECTED_REWRITE: the rewrite of a domain's block, unless a write has cancelled it (R299). The corrected data is the data that the block
holds. -/
def State.correctedRewrite (s : State) (d off : Nat) : State := { s with rewrites := s.rewrites.filter (· != domBlock d off) }

def execCorrectedRewrite (dom off : Nat) (s : State) : Host.Outcome State Fault Refusal := .next (s.correctedRewrite dom off)

end Sys2Proof.Machine
end

