-- ==== Sys2Proof/Machine/Fronthaul.lean ====
section
/-! DEFINITION. Fronthaul reception (R225 to R237, R239, R242, R252): classification, receive windows, decompression and placement. -/

namespace Sys2Proof.Machine

/-! ### Counters (R252, R253) -/

/-- The counters of R252 by number: RX_SECTIONS wraps, MISSING_PRB and the others stay at their largest values. -/
def fhAdd (k v n : Nat) : Nat :=
  if k = 0 then wrap (v + n) 32 else if k = 1 then satAdd v n 32 else satAdd v n 16

def State.fhStat (s : State) (c k n : Nat) : State :=
  s.modCell c fun x => { x with stats := Tab.set x.stats k (fhAdd k (Tab.getD x.stats k 0) n) }

def fhSections : Nat := 0
def fhMissing : Nat := 1
def fhEarly : Nat := 2
def fhLate : Nat := 3
def fhNoslot : Nat := 4
def fhDup : Nat := 5
def fhSeqGap : Nat := 6
def fhFormat : Nat := 7
def fhDecomp : Nat := 8
def fhAgc : Nat := 9
def fhPrach : Nat := 10

/-- FH_STATS (R252). -/
def State.fhStats (s : State) (g cid : Nat) : State :=
  match s.startable g cid 0x4C with
  | none => s
  | some q =>
    let c := fieldAt q.body 16 2 % 512
    if !s.cellMine g c then s.complete g cid (radioPayload stCellInvalid 7 c 0 0 [])
    else
      let t := (s.cell c).stats
      let v := fun k => Tab.getD t k 0
      let pay := toLe 4 (v 0) ++ toLe 4 (v 1) ++ (rangeFrom 2 9).flatMap fun k => toLe 2 (v k)
      let s := if bit (fieldAt q.body 18 1) 0 then s.modCell c fun x => { x with stats := [] } else s
      s.complete g cid (radioPayload stOk 7 c 0 0 pay)

def execFhStats (ring cid : Nat) (s : State) : Host.Outcome State Fault Refusal := .next (s.fhStats ring cid)

/-! ### Places in the radio buffers (R234, R242, R259) -/

/-- The symbol number of a cell's symbol ring (R259). -/
def CellCfg.ringSlot (f : CellCfg) (n sym : Nat) : Nat := (n / f.ticks * f.nsym + sym) % max 1 f.ds

/-- The offset of a stream's symbol of resource elements, of PRACH samples and of time-domain samples (log entry 25). -/
def CellCfg.symAt (f : CellCfg) (c n sym stream : Nat) : Nat :=
  c * 2 ^ 48 + stream * 2 ^ 32 + f.ringSlot n sym * (48 * f.nprb)
def prachAt (c n sym stream : Nat) : Nat := c * 2 ^ 48 + 2 ^ 44 + stream * 2 ^ 32 + (n % 128 * 16 + sym) * 2 ^ 20
def tdAt (c n sym stream : Nat) : Nat := c * 2 ^ 48 + 2 ^ 45 + stream * 2 ^ 32 + (n % 128 * 16 + sym) * 2 ^ 20

/-- 16-bit samples as bytes, and bytes as samples. -/
def sampleBytes (l : List Int) : List Byte := l.flatMap fun v => toLe 2 (wrapInt v 16)
def State.samples (s : State) (spc : Space) (dom off n : Nat) : List Int :=
  (rangeFrom 0 n).map fun i => signed (s.le spc dom (off + 2 * i) 2) 16

/-! ### Classification (R231 to R233) -/

/-- The slot of a frame whose header names frame, subframe and slot: the occurrence nearest the arrival, the later of two (R233). -/
def State.headerSlot (s : State) (now : Nat) (f : CellCfg) (fr : FhFrame) : Nat :=
  let cur := (now - s.airOrigin) / (10000000 * 65536)
  let base := cur / 256 * 256 + fr.frame % 256
  let off := fr.subframe * 8 + fr.slot * f.ticks
  let cand := ([base, base + 256] ++ (if base ≥ 256 then [base - 256] else [])).map fun x => x * 80 + off
  let dist := fun n => let a := s.symTime f n fr.sym; if a ≥ now then 2 * (a - now) else 2 * (now - a) + 1
  (minBy (fun n => [dist n]) cand).getD (base * 80 + off)

/-- The time of a RoE frame's first sample: orderingInfo resolved to the occurrence nearest the arrival, in ns (R233, R242). -/
def orderTime (now t : Nat) : Nat :=
  let now := now / 65536
  let base := now / 2 ^ 32 * 2 ^ 32 + t % 2 ^ 32
  let cand := [base, base + 2 ^ 32] ++ (if base ≥ 2 ^ 32 then [base - 2 ^ 32] else [])
  let dist := fun x => if x ≥ now then 2 * (x - now) else 2 * (now - x) + 1
  (minBy (fun x => [dist x]) cand).getD base

/-- The slot and symbol of a frame under a configuration, for an arrival time in 2^−16 ns. -/
def State.framePos (s : State) (now : Nat) (f : CellCfg) (fr : FhFrame) : Nat × Nat :=
  if fr.roe then s.airPosition f (orderTime now fr.orderNs * 65536) else (s.headerSlot now f fr, fr.sym)

/-- A classifier match: cell slot, configuration, slot, symbol, stream and whether it is PRACH. -/
structure FhMatch where
  cell : Nat
  cfg : CellCfg
  n : Nat
  sym : Nat
  stream : Nat
  prach : Bool
deriving DecidableEq, Repr

/-- The entry of a configuration that a frame matches, where the configuration is the one in force at the slot that the frame names under it
(R231, R233). A slot or symbol that the numerology does not have names none. -/
def State.matchCfg (s : State) (now c : Nat) (x : Cell) (key : Nat × Nat) (fr : FhFrame) (f : CellCfg) : Option FhMatch :=
  let pos := s.framePos now f fr
  if f.vlanKey == key && decide (fr.roe = (f.split == 2)) && x.cfgAt pos.1 == some f
      && (fr.roe || (decide (fr.slot < f.perMs) && decide (fr.subframe < 10) && decide (fr.sym < f.nsym))) then
    (f.entries.find? fun e => e.1 == fr.id).map fun e => ⟨c, f, pos.1, pos.2, e.2.1, e.2.2⟩
  else none

/-- The entry that a frame matches among those of one cell slot, as they stood when the array cycle of its arrival began (R30). -/
def State.matchCell (s : State) (now c : Nat) (x : Cell) (key : Nat × Nat) (fr : FhFrame) : Option FhMatch :=
  let y := s.cellIn x
  if y.2 then (y.1.cfgs.eraseDups.filterMap (s.matchCfg now c y.1 key fr)).head? else none

def State.fhMatch (s : State) (now : Nat) (key : Nat × Nat) (fr : FhFrame) : Option FhMatch :=
  (s.cells.filterMap fun e => s.matchCell now e.1 e.2 key fr).head?

/-! ### Decompression and placement (R234, R236, R239, R242) -/

/-- The compression that a match is configured with: method and width. -/
def FhMatch.comp (m : FhMatch) : Nat × Nat :=
  let b := m.cfg.b (if m.prach then 77 else 75) 1
  (b % 16, if b / 16 = 0 then 16 else b / 16)

/-- A section's compression is the cell's: its udCompHdr, or none where the configuration is static (R226, R227). -/
def FhMatch.sectionOk (m : FhMatch) (x : FhSection) : Bool :=
  match x.comp with
  | none => m.cfg.staticComp
  | some (k, w) => !m.cfg.staticComp && (k, if w = 0 then 16 else w) == m.comp

/-- R227 order 7. -/
def FhMatch.formOk (m : FhMatch) (fr : FhFrame) : Bool := fr.roe || (fr.dir == 0 && fr.sections.all m.sectionOk)

/-- `bfp_decompress` of R239 over a section: the samples and how many were clamped. -/
def sectionSamples (x : FhSection) (bfp : Bool) : List Int × Nat :=
  let v := (rangeFrom 0 (24 * x.nprb)).map fun i =>
    let m := x.vals.getD i 0
    if bfp then m * 2 ^ (x.exps.getD (i / 24) 0 % 16) else m
  (v.map fun y => sat y 16, if bfp then v.countP fun y => sat y 16 != y else 0)

/-- The ranges written of a stream and symbol. -/
def Cell.fillOf (x : Cell) (n sym stream : Nat) (prach : Bool) : List (Nat × Nat) :=
  (x.fills.filter fun q => q.n == n && q.sym == sym && q.stream == stream && q.prach == prach).flatMap SymFill.ranges

/-- A range overlaps one already written. -/
def overlapsAny (l : List (Nat × Nat)) (a n : Nat) : Bool := l.any fun r => rangesMeet r.1 r.2 a n

/-- A range marked as written. -/
def Cell.addFill (x : Cell) (n sym stream : Nat) (prach : Bool) (r : Nat × Nat) : Cell :=
  { x with fills := x.fills ++ [⟨n, sym, stream, prach, [r]⟩] }

/-- A section meets elements already written. -/
def State.dupSection (s : State) (m : FhMatch) (x : FhSection) : Bool :=
  overlapsAny ((s.cell m.cell).fillOf m.n m.sym m.stream m.prach) x.prb x.nprb

/-- A section placed, or dropped whole as DUP. -/
def State.placeSection (s : State) (m : FhMatch) (x : FhSection) : State :=
  let c := m.cell
  let d := s.cellDom c
  if s.dupSection m x then
    (s.fhStat c fhDup 1).addFld F.FH_DROP_DUP_DUP 1
  else
    let v := sectionSamples x (m.comp.1 == 1)
    let at_ := (if m.prach then prachAt c m.n m.sym m.stream else m.cfg.symAt c m.n m.sym m.stream) + 48 * x.prb
    let keep := if m.prach then v.1 else v.1.take (24 * (m.cfg.nprb - x.prb))
    let s := (s.store .radio d at_ (sampleBytes keep)).modCell c fun y => y.addFill m.n m.sym m.stream m.prach (x.prb, x.nprb)
    let s := ((s.fhStat c fhSections 1).fhStat c fhDecomp v.2).count 0x1C9 none v.2
    s.count 0x06D (some d) 1

/-- The samples of a symbol with its cyclic prefix, and the prefix (R247). -/
def CellCfg.cpLen (f : CellCfg) (n sym : Nat) : Nat :=
  if f.ext then 512 * f.nfft / 2048
  else 144 * f.nfft / 2048 + (if (f.slotOf n * f.nsym + sym) % (7 * 2 ^ f.mu) = 0 then 16 * 2 ^ f.mu * f.nfft / 2048 else 0)
def CellCfg.symLen (f : CellCfg) (n sym : Nat) : Nat := f.nfft + f.cpLen n sym

/-- The symbol after a symbol. -/
def CellCfg.nextSym (f : CellCfg) (n sym : Nat) : Nat × Nat := if sym + 1 < f.nsym then (n, sym + 1) else (n + f.ticks, 0)

/-- The pieces of a run of samples by symbol: slot, symbol, first index, count and offset in the run. -/
def CellCfg.pieces (f : CellCfg) : Nat → Nat → Nat → Nat → Nat → Nat → List (Nat × Nat × Nat × Nat × Nat)
  | 0, _, _, _, _, _ => []
  | fuel + 1, n, sym, idx, left, done =>
    if left = 0 then []
    else
      let k := min left (f.symLen n sym - idx)
      let nx := f.nextSym n sym
      (n, sym, idx, k, done) :: f.pieces fuel nx.1 nx.2 0 (left - k) (done + k)

/-- A RoE frame's samples placed by their time, or dropped whole as DUP (R236, R242). -/
def State.placeSamples (s : State) (now : Nat) (m : FhMatch) (fr : FhFrame) : State :=
  let c := m.cell
  let d := s.cellDom c
  let t := orderTime now fr.orderNs * 65536 - s.symTime m.cfg m.n m.sym
  let idx := (t * 30720000 * 2 ^ (m.cfg.tdRate % 4) / 65536 + 500000000) / 1000000000
  let cnt := fr.samples.length / 2
  let ps := m.cfg.pieces (cnt + 1) m.n m.sym idx cnt 0
  let x := s.cell c
  if ps.any fun p => overlapsAny (x.fillOf p.1 p.2.1 m.stream false) p.2.2.1 p.2.2.2.1 then
    (s.fhStat c fhDup 1).addFld F.FH_DROP_DUP_DUP 1
  else
    let s := ps.foldl (fun s p =>
      let b := sampleBytes ((fr.samples.drop (2 * p.2.2.2.2)).take (2 * p.2.2.2.1))
      (s.store .radio d (tdAt c p.1 p.2.1 m.stream + 4 * p.2.2.1) b).modCell c fun y =>
        y.addFill p.1 p.2.1 m.stream false (p.2.2.1, p.2.2.2.1)) s
    ((s.addFld F.FH_RX_FRAMES_FRAMES 1).fhStat c fhSections 1).count 0x06D (some d) 1

/-! ### Reception (R227) -/

/-- R227 order 2. -/
def frameFormOk (fr : FhFrame) : Bool :=
  if fr.roe then fr.native else fr.rev == 1 && !fr.concat && fr.msg == 0 && fr.lenOk

/-- A gap in ecpriSeqId counted (R236). -/
def State.seqCheck (s : State) (m : FhMatch) (fr : FhFrame) : State :=
  if fr.roe then s
  else
    let x := s.cell m.cell
    let gap := match Tab.get? x.seqs fr.id with
      | some p => decide (fr.seq % 256 ≠ (p + 1) % 256)
      | none => false
    let s := s.modCell m.cell fun x => { x with seqs := Tab.set x.seqs fr.id (fr.seq % 256) }
    if gap then s.fhStat m.cell fhSeqGap 1 else s

/-- A frame from R227 order 2 on: its receive timestamp in 2^−16 ns (R468), its sub-port as the classifier takes it, its VLAN key and the domain of
the association that protected it. -/
def State.fhReceive (s : State) (now : Nat) (key : Nat × Nat) (sa : Option Nat) (fr : FhFrame) : State :=
  if !frameFormOk fr then s.addFld F.FH_DROP_FORMAT_FORMAT 1
  else
    match s.fhMatch now key fr with
    | none => s.addFld F.FH_DROP_CLASS_NOMATCH 1
    | some m =>
      let d := s.cellDom m.cell
      if !(sa == some d || (sa.isNone && !m.cfg.macsec)) then s.addFld F.FH_DROP_CLASS_SA_MISMATCH 1
      else
        let s := s.seqCheck m fr
        let a := s.symTime m.cfg m.n m.sym
        if !(s.cell m.cell).seen.contains (m.n, true) then
          (s.fhStat m.cell fhNoslot 1).addFld F.FH_DROP_FORMAT_NOSLOT 1
        else if now < a + m.cfg.ta4Min * 65536 then
          ((s.fhStat m.cell fhEarly 1).addFld F.FH_DROP_TIME_EARLY 1).count 0x06E (some d) 1
        else if a + m.cfg.ta4Max * 65536 < now then
          ((s.fhStat m.cell fhLate 1).addFld F.FH_DROP_TIME_LATE 1).count 0x06E (some d) 1
        else if !m.formOk fr then (s.fhStat m.cell fhFormat 1).addFld F.FH_DROP_FORMAT_FORMAT 1
        else
          if fr.roe then s.placeSamples now m fr
          else
            let s := if fr.sections.isEmpty || fr.sections.any (fun x => !s.dupSection m x) then s.addFld F.FH_RX_FRAMES_FRAMES 1 else s
            fr.sections.foldl (fun s x => s.placeSection m x) s

end Sys2Proof.Machine
end

