-- ==== Sys2Proof/Machine/Trig.lean ====
section
/-! DEFINITION. Sines and cosines of fractions of a turn in fixed point, and the discrete Fourier transforms of the radio front end (R247,
R248, R268). -/

namespace Sys2Proof.Machine

/-- The fraction bits of the fixed-point numbers here, and those with guard bits (log entry 83). -/
def trigBits : Nat := 192
def guardBits : Nat := 224

/-- The series of atan(1/k), from the term with odd number i on; p is 1/k^i. -/
def atanTerms (k : Nat) : Nat → Nat → Int → Int
  | 0, _, _ => 0
  | n + 1, i, p => p / i - atanTerms k n (i + 2) (p / (k * k))

/-- π by Machin's formula. -/
def fxPi : Int :=
  4 * (4 * atanTerms 5 60 1 (2 ^ guardBits / 5) - atanTerms 239 60 1 (2 ^ guardBits / 239))

/-- The alternating series of cosine (from i = 0, t = 1) and of sine (from i = 1, t = x), for x² given. -/
def trigTerms (x2 : Int) : Nat → Nat → Int → Int
  | 0, _, _ => 0
  | n + 1, i, t => t - trigTerms x2 n (i + 2) (t * x2 / 2 ^ guardBits / ((i + 1) * (i + 2)))

/-- Cosine and sine of r/d of an eighth of a turn, for r at most d. -/
def eighth (r d : Nat) : Int × Int :=
  let x := fxPi * r / (4 * d)
  let x2 := x * x / 2 ^ guardBits
  let c := trigTerms x2 40 0 (2 ^ guardBits) / 2 ^ (guardBits - trigBits)
  (c, if r = d then c else trigTerms x2 40 1 x / 2 ^ (guardBits - trigBits))

/-- Cosine and sine of num/d of a turn: angles that mirror each other have sines and cosines that do so exactly. -/
def turn (num d : Nat) : Int × Int :=
  let a := 8 * (num % d)
  let o := a / d
  let p := eighth (if o % 2 = 0 then a % d else d - a % d) d
  match o with
  | 0 => (p.1, p.2)
  | 1 => (p.2, p.1)
  | 2 => (-p.2, p.1)
  | 3 => (-p.1, p.2)
  | 4 => (-p.1, -p.2)
  | 5 => (-p.2, -p.1)
  | 6 => (p.2, -p.1)
  | _ => (p.1, -p.2)

/-- The same angle backwards. -/
def turnBack (num d : Nat) : Int × Int := let p := turn num d; (p.1, -p.2)

/-- The exact product of complex whole numbers, and the product with a conjugate. -/
def ciMul (a b : Int × Int) : Int × Int := (a.1 * b.1 - a.2 * b.2, a.1 * b.2 + a.2 * b.1)
def ciConj (a : Int × Int) : Int × Int := (a.1, -a.2)
def ciAbs2 (a : Int × Int) : Nat := a.1.natAbs * a.1.natAbs + a.2.natAbs * a.2.natAbs

/-- Element k of an n-point transform of the elements given with their places, with `trigBits` more fraction bits: forwards with the angle
−2πik/n, or the inverse without its scale. -/
def dftAt (inverse : Bool) (n : Nat) (x : List (Nat × Int × Int)) (k : Nat) : Int × Int :=
  x.foldl (fun (a : Int × Int) p =>
    let w := if inverse then turn (p.1 * k) n else turnBack (p.1 * k) n
    let z := ciMul p.2 w
    (a.1 + z.1, a.2 + z.2)) (0, 0)

/-- Complex numbers with their places, and as a flat list of real and imaginary parts. -/
def placed (x : List (Int × Int)) : List (Nat × Int × Int) := (List.range x.length).zip x
def ciPairs (x : List Int) : List (Int × Int) := (List.range (x.length / 2)).map fun i => (x.getD (2 * i) 0, x.getD (2 * i + 1) 0)

/-- A fixed-point complex number rounded to whole numbers, ties to even, after a division by 2^sh. -/
def ciRound (z : Int × Int) (sh : Nat) : Int × Int := (rneShift z.1 sh, rneShift z.2 sh)

/-- The FP32 value nearest a fixed-point number. -/
def fxToF32 (x : Int) : Nat := fp32.roundInt x (-(trigBits : Int)) false

end Sys2Proof.Machine
end

