-- ==== Sys2Proof/Machine/FrontEnd.lean ====
section
/-! DEFINITION. The radio front end (R237, R243 to R251, R253): the gain loop, cyclic prefix and FFT, hand-off, and preamble detection. -/

namespace Sys2Proof.Machine

/-! ### Time-domain samples (R242, R243) -/

/-- A sample of a stream's symbol has been received. -/
def Cell.hasSample (x : Cell) (n sym stream k : Nat) : Bool :=
  (x.fillOf n sym stream false).any fun r => decide (r.1 ≤ k) && decide (k < r.1 + r.2)

/-- `cnt` time-domain samples of a symbol from one on, I and Q; those not received are zero (R242). -/
def State.tdSamples (s : State) (c n sym stream k cnt : Nat) : List Int :=
  let v := s.samples .radio (s.cellDom c) (tdAt c n sym stream + 4 * k) (2 * cnt)
  (rangeFrom 0 (2 * cnt)).map fun i => if (s.cell c).hasSample n sym stream (k + i / 2) then v.getD i 0 else 0

/-- The sample rate of a split-8 cell in Hz. -/
def CellCfg.rateHz (f : CellCfg) : Nat := 30720000 * 2 ^ (f.tdRate % 4)

/-- gm of R243. -/
def gainMul (g : Nat) : Nat := pow10Round14 (4 * ((g : Int) - 96))

/-- `apply_gain` of R243. -/
def applyGain (x : Int) (g : Nat) : Int × Bool :=
  let y := rneShift (x * gainMul g) 14
  (sat y 16, sat y 16 != y)

/-- `agc_update` of R244, over a block of output samples. -/
def agcUpdate (block : List Int) (clamped : Bool) (target : Int) (g : Nat) : Nat :=
  let p := sumList (block.map fun v => v.natAbs * v.natAbs)
  let d : Int := if clamped then -64
    else if p = 0 then 64
    else max (-64) (min 64 (rneShift (target - log160 p (16 * 1073676289)) 2))
  (max 0 (min 288 ((g : Int) + d))).toNat

/-! ### The correlation statistic of a PRACH item (R248 to R250) -/

/-- N_IDFT, the PRACH spacing in Hz, and the threshold in 1/16 dB (R216, R248, R250). -/
def Item.nIdft (i : Item) : Nat := if i.f 16 1 ≤ 3 then 1024 else 256
def Item.prachHz (i : Item) : Nat := [1250, 5000, 15000, 30000, 60000, 120000].getD (i.f 23 1) 1250
def Item.prachThr (i : Item) : Nat := if i.f 24 2 = 0 then 160 else i.f 24 2

/-- The content of an item as whole numbers. -/
def Item.args (i : Item) : List Int := i.b.map fun b => (b.toNat : Int)

/-- An item with the cell's numerology and slot, as the standards' tables take it. -/
def Item.argsAt (i : Item) (f : CellCfg) (n : Nat) : List Int :=
  i.args ++ [(f.slotOf n : Int), f.sfn n, f.mu, b2n f.ext, f.nprb, f.pci]

/-- The Zadoff-Chu sequence of a physical root, and element k of its transform (TS 38.211 clause 6.3.3.1). -/
def zcSeq (u l : Nat) : List (Int × Int) := (rangeFrom 0 l).map fun i => turnBack (u * (i * (i + 1) / 2)) l
def zcFreq (u l k : Nat) : Int × Int := dftAt false l (placed (zcSeq u l)) k

/-- The power at a lag of samples in the frequency domain correlated with a root, at N_IDFT lags (R248). -/
def corrPower (i : Item) (y : List (Int × Int)) (root lag : Nat) : Nat :=
  let l := i.prachLen
  let u := ((std stdZcRoot [l, root]).headD 1).toNat
  let z := (rangeFrom 0 l).map fun k => (k, ciMul (y.getD k (0, 0)) (ciConj (zcFreq u l k)))
  ciAbs2 (dftAt true i.nIdft z lag)

/-- The frequency-domain samples of a period of N_IDFT samples at the detector's rate, with the PRACH band around 0 Hz. -/
def periodFreq (i : Item) (y : List (Int × Int)) : List (Int × Int) :=
  (rangeFrom 0 i.prachLen).map fun k => dftAt false i.nIdft (placed y) ((k + i.nIdft - i.prachLen / 2) % i.nIdft)

/-- A search window: its preamble, occasion, start lag and the powers of its lags. -/
structure PrachWin where
  pre : Nat
  occ : Nat
  start : Nat
  bins : List Nat
deriving DecidableEq, Repr

/-- The largest bin of a window and its place, the first of equal ones. -/
def PrachWin.peak (w : PrachWin) : Nat × Nat :=
  let m := maxList w.bins
  (m, ((rangeFrom 0 w.bins.length).find? fun k => w.bins.getD k 0 == m).getD 0)

/-- The bins of a window without its largest and the one on each side of it (R250). -/
def PrachWin.rest (w : PrachWin) : List Nat :=
  let p := w.peak.2
  ((rangeFrom 0 w.bins.length).filter fun k => decide (p + 1 < k ∨ k + 1 < p)).map fun k => w.bins.getD k 0

/-- The search windows of an occasion over repetitions of it in the frequency domain, their profiles summed without phase (R248, R250). -/
def occWindows (i : Item) (o : Nat) (reps : List (List (Int × Int))) : List PrachWin :=
  (rangeFrom 0 (i.f 22 1)).map fun v =>
    let w := (Config.standard stdWindow (i.args ++ [Int.ofNat v])).map Int.toNat
    let root := (i.roots.getD (w.getD 0 0) (i.f 18 2, 0)).1
    ⟨v, o, w.getD 1 0, (rangeFrom 0 (w.getD 2 0)).map fun k =>
      sumList (reps.map fun y => corrPower i y root ((w.getD 1 0 + k) % i.nIdft))⟩

/-- The peak is at least the threshold above the noise: peak/noise ≥ 10^(thr/160), with the noise the mean of `cnt` bins of sum `sum`. -/
def aboveThr (peak cnt sum thr : Nat) : Bool := decide (0 < peak) && decide (10 ^ thr * sum ^ 160 ≤ (peak * cnt) ^ 160)

/-- The noise estimate over windows, as the number of bins and their sum (R250). -/
def prachNoise (ws : List PrachWin) : Nat × Nat := let rest := ws.flatMap PrachWin.rest; (rest.length, sumList rest)

/-- A single-period profile bin exceeds the threshold against the noise estimate of that period (R249). -/
def periodFires (i : Item) (o : Nat) (y : List (Int × Int)) : Bool :=
  let ws := occWindows i o [periodFreq i y]
  let nz := prachNoise ws
  ws.any fun w => decide (10 ^ i.prachThr * nz.2 ^ 160 < (w.peak.1 * nz.1) ^ 160)

/-- The first `cnt` samples of a PRACH item's symbols on a stream, at the detector's rate (R248). -/
def State.prachTd (s : State) (c n : Nat) (f : CellCfg) (i : Item) (r o cnt : Nat) : List (Int × Int) :=
  let raw := ((rangeFrom i.sym0 i.nsym).flatMap fun y => s.tdSamples c n y r 0 (f.symLen n y)).take (2 * cnt)
  let v := Config.standard stdDecimate (i.argsAt f n ++ [(o : Int), f.rateHz, f.b 100 4] ++ raw)
  (ciPairs v).take (cnt * i.nIdft * i.prachHz / f.rateHz)

/-- The detector of a PRACH item has fired by the `cnt`-th sample of a stream: it correlates each period of N_IDFT samples as it arrives
(R249). -/
def State.prachFired (s : State) (c n : Nat) (f : CellCfg) (i : Item) (r cnt : Nat) : Bool :=
  (rangeFrom 0 (i.f 17 1)).any fun o =>
    let y := s.prachTd c n f i r o cnt
    (rangeFrom 1 y.length).any fun t =>
      let p := (t - 1) / i.nIdft * i.nIdft
      periodFires i o ((y.drop p).take (t - p))

/-- The uplink items of a slot that are not over. -/
def Cell.ulItems (x : Cell) (n : Nat) : List Item := ((x.job? n true).map (·.items)).getD []

/-- The symbol after the last one of a PRACH item that has fired by sample k of a symbol, and of the PRACH items that overlap it; 0 when none has
(R245, R246). -/
def State.firedUntil (s : State) (c n sym stream k : Nat) (f : CellCfg) : Nat :=
  let l := ((s.cell c).ulItems n).filter fun i => i.ty == 0x13
  let before := fun (i : Item) => sumList ((rangeFrom i.sym0 (sym - i.sym0)).map fun y => f.symLen n y)
  match l.find? fun i => i.covers sym && s.prachFired c n f i stream (before i + k) with
  | none => 0
  | some i =>
    maxList ((l.filter fun j => rangesMeet i.sym0 i.nsym j.sym0 j.nsym).map fun j => n * 16 + j.sym0 + j.nsym)

/-! ### The gain loop (R243 to R246) -/

/-- A symbol's gain is frozen by an uplink work item other than PRACH of an accepted slot, by FREEZE_MASK, or by a detector (R245). -/
def Cell.frozenAt (x : Cell) (f : CellCfg) (a : Agc) (n sym : Nat) : Bool :=
  bit f.freezeMask sym || decide (a.at_ < a.frozen) || bit (Tab.getD x.freezes n 0) sym

/-- A stream's loop after a block: the code, and the next place. -/
def Agc.advance (a : Agc) (f : CellCfg) (n sym blk g : Nat) : Agc :=
  if a.idx + blk < f.symLen n sym then { a with g := g, idx := a.idx + blk, varied := a.varied || g != a.g }
  else
    let nx := f.nextSym n sym
    { a with g := g, at_ := nx.1 * 16 + nx.2, idx := 0, varied := false }

/-- The place of a symbol's gain code. -/
def gainKey (n sym stream : Nat) : Nat := (n % 128 * 16 + sym) * 64 + stream

/-- The next block of a stream at its place in the loop: the gain applied to its samples, the detector over what it gives, and an update from a
full block (R243 to R246, R249). -/
def State.agcRun (s : State) (c stream : Nat) (a : Agc) (f : CellCfg) : State :=
  let n := a.at_ / 16
  let sym := a.at_ % 16
  let d := s.cellDom c
  let blk := min 16 (f.symLen n sym - a.idx)
  let out := (s.tdSamples c n sym stream a.idx blk).map fun v => applyGain v a.g
  let cl := out.countP (·.2)
  let s := s.store .radio d (tdAt c n sym stream + 4 * a.idx) (sampleBytes (out.map (·.1)))
  let s := (s.fhStat c fhAgc cl).count 0x1CA none cl
  let a := { a with frozen := max a.frozen (s.firedUntil c n sym stream (a.idx + blk) f) }
  let upd := blk = 16 ∧ f.agcOn ∧ (s.cell c).frozenAt f a n sym = false
  let g := if upd then agcUpdate (out.map (·.1)) (decide (0 < cl)) f.agcTarget a.g else if f.agcOn then a.g else f.agcInit
  let last := decide (f.symLen n sym ≤ a.idx + blk)
  s.modCell c fun x => { x with
    agc := Tab.set x.agc stream (a.advance f n sym blk g)
    gains := if last then Tab.set x.gains (gainKey n sym stream) (a.g + 512 * b2n a.varied) else x.gains }

/-- A stream's loop with the configuration in force at its place. -/
def State.agcPlace (s : State) (c stream : Nat) : Option (Agc × CellCfg) :=
  (Tab.get? (s.cell c).agc stream).bind fun a => ((s.cell c).cfgAt (a.at_ / 16)).map fun f => (a, f)

/-- The next block of a stream. -/
def State.agcBlock (s : State) (c stream : Nat) : State :=
  match s.agcPlace c stream with
  | some (a, f) => s.agcRun c stream a f
  | none => s

/-- The next `k` samples of a stream from its place in the loop have been received. -/
def Cell.received (x : Cell) (stream : Nat) (a : Agc) (k : Nat) : Bool :=
  (rangeFrom a.idx k).all (x.hasSample (a.at_ / 16) (a.at_ % 16) stream)

/-- A trailing block shorter than 16 samples, once received, gives no update (R244). -/
def State.agcTrailing (s : State) (c stream : Nat) : State :=
  match s.agcPlace c stream with
  | some (a, f) =>
    let left := f.symLen (a.at_ / 16) (a.at_ % 16) - a.idx
    if left < 16 ∧ (s.cell c).received stream a left then s.agcRun c stream a f else s
  | none => s

/-- AGC_BLOCK_END: at the end of a stream's next full block, once its samples are received. -/
def State.agcBlockEnd (s : State) (c stream : Nat) : State :=
  let s := if (s.cell c).st.running then s.agcTrailing c stream else s
  match s.agcPlace c stream with
  | some (a, f) =>
    let n := a.at_ / 16
    let sym := a.at_ % 16
    let x := s.cell c
    if f.split = 2 ∧ x.st.running ∧ a.idx + 16 ≤ f.symLen n sym ∧ x.received stream a 16 then
      (s.untilTai (s.symTime f n sym + (a.idx + 16) * 1000000000 * 65536 / f.rateHz)).agcRun c stream a f
    else s
  | none => s

def execAgcBlockEnd (cell stream : Nat) (s : State) : Host.Outcome State Fault Refusal := .next (s.agcBlockEnd cell stream)

/-- A stream's blocks up to sample k of a symbol. -/
def State.agcThrough (s : State) (c stream upto k : Nat) : Nat → State
  | 0 => s
  | n + 1 =>
    match Tab.get? (s.cell c).agc stream with
    | none => s
    | some a => if upto < a.at_ ∨ (upto = a.at_ ∧ k ≤ a.idx) then s else (s.agcBlock c stream).agcThrough c stream upto k n

/-- The same with enough steps for every block between: none has more than 400 blocks to a symbol. -/
def State.agcUpTo (s : State) (c stream upto k : Nat) : State :=
  s.agcThrough c stream upto k ((upto + 1 - (((Tab.get? (s.cell c).agc stream).map (·.at_)).getD 0)) * 400)

/-! ### Cyclic prefix and FFT (R247) -/

/-- The carrier frequency of an NR-ARFCN in Hz (TS 38.104 clause 5.4.2, log entry 84). -/
def arfcnHz (a : Nat) : Nat :=
  if a < 600000 then 5000 * a
  else if a < 2016667 then 3000000000 + 15000 * (a - 600000)
  else 24250080000 + 60000 * (a - 2016667)

/-- The samples from the start of a symbol's subframe to the end of its cyclic prefix. -/
def CellCfg.usefulStart (f : CellCfg) (n sym : Nat) : Nat :=
  let k := n % 8 / f.ticks * f.nsym + sym
  let at_ := fun q => (n / 8 * 8 + q / f.nsym * f.ticks, q % f.nsym)
  sumList ((rangeFrom 0 k).map fun q => f.symLen (at_ q).1 (at_ q).2) + f.cpLen n sym

/-- The upconversion phase term of TS 38.211 clause 5.4, as a fraction of a turn backwards (log entry 84). -/
def CellCfg.phaseTurn (f : CellCfg) (n sym : Nat) : Nat × Nat := (arfcnHz (f.b 100 4) * f.usefulStart n sym, f.rateHz)

/-- The bin of a subcarrier of the grid: its middle lies at 0 Hz. -/
def CellCfg.bin (f : CellCfg) (k : Nat) : Nat := (k + f.nfft - 6 * f.nprb) % f.nfft

/-- ceil(log2(N_FFT) / 2). -/
def CellCfg.fftShift (f : CellCfg) : Nat := (Nat.log2 f.nfft + 1) / 2

/-- The symbol before a symbol. -/
def CellCfg.prevSym (f : CellCfg) (n sym : Nat) : Nat × Nat := if sym = 0 then (n - f.ticks, f.nsym - 1) else (n, sym - 1)

/-- The samples of the FFT window of a symbol: it starts FFT_BACKOFF samples before the end of the prefix, which may lie in the symbol before
(R247). -/
def State.fftWindow (s : State) (c n sym stream : Nat) (f : CellCfg) : List Int :=
  let cp := f.cpLen n sym
  let early := f.backoff - cp
  let p := f.prevSym n sym
  s.tdSamples c p.1 p.2 stream (f.symLen p.1 p.2 - early) early ++ s.tdSamples c n sym stream (cp - f.backoff) (f.nfft - early)

/-- The grid of a symbol from its window: the FFT, scaled and rounded, and how many parts of it were saturated; then the phase term taken out
(R247). -/
def CellCfg.fft (f : CellCfg) (n sym : Nat) (w : List Int) : List Int × Nat :=
  let x := placed (ciPairs w)
  let y := (rangeFrom 0 (12 * f.nprb)).map fun k => ciRound (dftAt false f.nfft x (f.bin k)) (trigBits + f.fftShift)
  let cl := sumList (y.map fun z => b2n (sat z.1 16 != z.1) + b2n (sat z.2 16 != z.2))
  let ph := f.phaseTurn n sym
  (y.flatMap fun z => let t := ciRound (ciMul (sat z.1 16, sat z.2 16) (turn ph.1 ph.2)) trigBits; [sat t.1 16, sat t.2 16], cl)

/-- The FFT of a stream's symbol. -/
def State.fftOf (s : State) (c n sym stream : Nat) (f : CellCfg) : List Int × Nat := f.fft n sym (s.fftWindow c n sym stream f)

/-- The time-domain samples of a symbol's grid: the phase term, the inverse FFT, saturation, and the prefix (R247). -/
def CellCfg.ifft (f : CellCfg) (n sym : Nat) (grid : List Int) : List Int :=
  let ph := f.phaseTurn n sym
  let w := turnBack ph.1 ph.2
  let x := (placed (ciPairs grid)).map fun p => (f.bin p.1, ciMul p.2 w)
  let v := (rangeFrom 0 f.nfft).flatMap fun i =>
    let t := ciRound (dftAt true f.nfft x i) (2 * trigBits + f.fftShift)
    [sat t.1 16, sat t.2 16]
  v.drop (2 * (f.nfft - f.cpLen n sym)) ++ v

/-! ### Accesses of an uplink item's work to HBM (R259, R287, R291, R295, R313) -/

/-- A cell's slot as the estimator and the equalizer take it: cell slot, configuration and slot number. -/
structure PhyCtx where
  c : Nat
  f : CellCfg
  n : Nat
deriving DecidableEq, Repr

/-- What ends an access of an uplink item's work to its slot area or its HARQ area, with the domain offset: data that it was to read was lost,
or the access itself fails (R287, R291, R313). -/
def State.ulMemFault (s : State) (x : PhyCtx) (i : Item) : Option (Nat × Nat) :=
  let d := s.cellDom x.c
  let area := fun off n => (s.hbmFault d off n true).map fun cause => (cause, off)
  if i.lost then some (causeMemLost, x.f.slotArea x.n)
  else
    let slot := area (x.f.slotArea x.n) x.f.areaBytes
    if i.ty = 0x11 then slot.or (area (65536 * x.f.harqPage) (65536 * x.f.harqPages)) else slot

/-- The rest of UL_TB from byte 27 on (R217, R275). -/
def ulTbRest (i : Item) (sinr toff fail : Nat) : List Byte :=
  toLe 1 i.pid ++ toLe 4 i.tbs ++ toLe 1 i.maxIter ++ toLe 1 i.harq ++ toLe 2 sinr ++ toLe 4 toff ++ toLe 2 fail

/-- A PUSCH item over without a decoded block: CRC_OK 0 (R286, R313). -/
def State.ulTbFails (s : State) (c n k st : Nat) (i : Item) : State :=
  let a := s.fresh 48
  a.2.ulItemEnds c n k st 0 (ulTbRest i (a.1 % 65536) (a.1 / 65536) (if st = stOk then 1 else 0))

/-- An uplink item over without a result: a PUSCH with CRC_OK 0, another item with its flags 0. -/
def State.ulFails (s : State) (c n k : Nat) (i : Item) : State :=
  if i.ty = 0x11 then s.ulTbFails c n k stOk i else s.ulItemEnds c n k stOk 0 []

/-- The notes of an item's access that failed: outside its area the engines flag it, and its record names the domain and the offset. The record of
data that a lost stack held was the domain's own (R287, R291, R297, R313, R547). -/
def State.itemMemNote (s : State) (c : Nat) (i : Item) (flt : Nat × Nat) : State :=
  let s := s.hbmNote flt.1
  let out := flt.1 = causePageBounds
  let s := if out then s.raise F.RAD_ENG_ERR_HARQ_BOUNDS else s
  if i.lost then s
  else
    s.faultRecord { FaultRec.of (if out then 0x0405 else flt.1) 1 with
      dom := some (s.cellDom c), cell := some c, ucls := if out then ucHarq else 0, index := i.id, detail := flt.2 }

/-- An item whose exchange or HARQ access failed ends without a result (R287, R291, R297). -/
def State.ulMemFails (s : State) (x : PhyCtx) (k : Nat) (i : Item) (flt : Nat × Nat) : State :=
  (s.itemMemNote x.c i flt).ulFails x.c x.n k i

/-- The items of a symbol end because their samples cannot be spilled. -/
def State.spillFails (s : State) (x : PhyCtx) (sym : Nat) (flt : Nat × Nat) : State :=
  (rangeFrom 0 ((s.cell x.c).ulItems x.n).length).foldl (fun s k =>
    match s.ulItem x.c x.n k with
    | some (i, _, _) => if i.covers sym ∧ i.ty ≠ 0x13 then s.ulMemFails x k i flt else s
    | none => s) s

/-! ### Hand-off (R237, R259) -/

/-- The domain offset of sample (s, r, k) of SPILL (R256). -/
def CellCfg.spillAt (f : CellCfg) (n sym r k : Nat) : Nat :=
  f.slotArea n + f.sLs + f.sRef + f.sW + 4 * (12 * f.nprb * (sym * f.ulStreams + r) + k)

/-- A stream's samples of a symbol at its hand-off, with those not received at zero; MISSING_PRB counts the PRBs of a split 7.2x stream that were
filled. -/
def State.handStream (s : State) (c n sym r : Nat) (f : CellCfg) : State × List Int :=
  let d := s.cellDom c
  if f.split = 2 then
    let s := s.agcUpTo c r (n * 16 + sym) (f.symLen n sym)
    let v := s.fftOf c n sym r f
    ((((s.fhStat c fhAgc v.2).count 0x1CA none v.2).count 0xD78 none 1).count 0xD7A none 1, v.1)
  else
    let fill := (s.cell c).fillOf n sym r false
    let miss := f.nprb - sumList (fill.map fun p => min p.2 (f.nprb - p.1))
    let raw := s.samples .radio d (f.symAt c n sym r) (24 * f.nprb)
    let v := (rangeFrom 0 (24 * f.nprb)).map fun k =>
      if fill.any fun p => decide (p.1 ≤ k / 24) && decide (k / 24 < p.1 + p.2) then raw.getD k 0 else 0
    let s := (s.fhStat c fhMissing miss).addFld F.FH_DROP_DUP_MISSING_PRB miss
    let s := s.count 0x06F (some d) miss
    (s.zeroRange .radio d (f.symAt c n sym r) (48 * f.nprb), v)

/-- A stream's symbol copied to SPILL (R259); the items of the symbol end where the write fails (R291, R295). -/
def State.spillStream (s : State) (c n sym r : Nat) (f : CellCfg) (v : List Int) : State :=
  let d := s.cellDom c
  let off := f.spillAt n sym r 0
  match s.hbmFault d off (4 * 12 * f.nprb) false with
  | some q => s.spillFails ⟨c, f, n⟩ sym (q, off)
  | none => (s.store .hbm d off (sampleBytes v)).addFld F.RAD_SPILL_BYTES_BYTES (4 * 12 * f.nprb)

/-- SYMBOL_HANDOFF: 2 µs after the receive window of a symbol of an accepted uplink slot closes. The slot's items may all be over. -/
def State.symbolHandoff (s : State) (c n sym : Nat) : State :=
  let x := s.cell c
  match x.cfgAt n with
  | some f =>
    if sym < f.nsym ∧ x.seen.contains (n, true) ∧ x.runs n ∧ x.handedOff.contains (n, sym) = false then
      let s := s.untilTai (s.symTime f n sym + 65536 * (2000 + f.ta4Max))
      let s := (rangeFrom 0 f.ulStreams).foldl (fun s r =>
        let p := s.handStream c n sym r f
        p.1.spillStream c n sym r f p.2) s
      (s.modCell c fun x => { x with handedOff := (n, sym) :: x.handedOff }).modSlotJob c n true fun j => { j with handed := sym :: j.handed }
    else s
  | none => s

def execSymbolHandoff (cell n sym : Nat) (s : State) : Host.Outcome State Fault Refusal := .next (s.symbolHandoff cell n sym)

/-! ### Preamble detection (R248 to R251) -/

/-- The samples of a stream's PRACH symbol, those not received at zero. -/
def State.prachSym (s : State) (c n sym r : Nat) : List (Int × Int) :=
  let l := (s.cell c).fillOf n sym r true
  let v := s.samples .radio (s.cellDom c) (prachAt c n sym r) (24 * maxList (l.map fun q => q.1 + q.2))
  ciPairs ((rangeFrom 0 v.length).map fun k =>
    if l.any fun q => decide (q.1 ≤ k / 24) && decide (k / 24 < q.1 + q.2) then v.getD k 0 else 0)

/-- The repetitions of an occasion on a stream, in the frequency domain (R248). -/
def State.prachReps (s : State) (c n : Nat) (f : CellCfg) (i : Item) (o r : Nat) : List (List (Int × Int)) :=
  let places := ciPairs (Config.standard stdPrachPlaces (i.argsAt f n ++ [(o : Int)]))
  if f.split = 2 then
    let y := s.prachTd c n f i r o (sumList ((rangeFrom i.sym0 i.nsym).map fun y => f.symLen n y))
    places.map fun p => periodFreq i ((y.drop p.1.toNat).take i.nIdft)
  else places.map fun p => ((s.prachSym c n p.1.toNat r).drop p.2.toNat).take i.prachLen

/-- The windows of an item over the summed profile: over the cell's PRACH streams and the repetitions (R248, R250). -/
def State.prachWindows (s : State) (c n : Nat) (f : CellCfg) (i : Item) : List PrachWin :=
  (rangeFrom 0 (i.f 17 1)).flatMap fun o => occWindows i o ((rangeFrom 0 f.ulStreams).flatMap fun r => s.prachReps c n f i o r)

/-- The samples of a PRACH item's symbols up to the end of a period: the whole number of a symbol, and the samples of it. -/
def CellCfg.samplePlace (f : CellCfg) (n : Nat) : Nat → Nat → Nat → Nat × Nat
  | 0, sym, k => (sym, k)
  | m + 1, sym, k => if k ≤ f.symLen n sym then (sym, k) else f.samplePlace n m (sym + 1) (k - f.symLen n sym)

/-- PRACH_PERIOD_END: once a stream's samples have arrived up to the end of a period, the loop and the detector have reached it (R249). -/
def State.prachPeriodEnd (s : State) (c n k stream period : Nat) : State :=
  let x := s.cell c
  match (x.job? n true).bind (fun j => j.items[k]?), x.cfgAt n with
  | some i, some f =>
    let e := f.samplePlace n i.nsym i.sym0 (ceilDiv ((period + 1) * f.rateHz) i.prachHz)
    let have_ := (rangeFrom i.sym0 (e.1 - i.sym0)).all (fun y => (rangeFrom 0 (f.symLen n y)).all (x.hasSample n y stream))
      && (rangeFrom 0 e.2).all (x.hasSample n e.1 stream)
    if i.ty = 0x13 ∧ f.split = 2 ∧ e.1 < i.sym0 + i.nsym ∧ have_ = true then s.agcUpTo c stream (n * 16 + e.1) e.2 else s
  | _, _ => s

def execPrachPeriodEnd (cell n item stream period : Nat) (s : State) : Host.Outcome State Fault Refusal :=
  .next (s.prachPeriodEnd cell n item stream period)

/-- A detection: power in 1/16 dB, preamble, occasion, timing advance in ns. -/
structure PrachDet where
  power : Int
  pre : Nat
  occ : Nat
  ta : Nat
deriving DecidableEq, Repr

/-- The detections of an item, in the order of R250. The power of a profile at full scale is open (log entry 85). -/
def prachDets (i : Item) (streams : Nat) (ws : List PrachWin) : List PrachDet :=
  let nz := prachNoise ws
  let hit := ws.filter fun w => aboveThr w.peak.1 nz.1 nz.2 i.prachThr
  let l := hit.map fun w =>
    (⟨log160 w.peak.1 (max 1 (Config.prachFull i.args streams)), w.pre, w.occ,
      (2 * w.peak.2 * 1000000000 + i.nIdft * i.prachHz) / (2 * i.nIdft * i.prachHz)⟩ : PrachDet)
  sortBy (fun a b => decide (b.power < a.power ∨ (b.power = a.power ∧ (a.pre < b.pre ∨ (a.pre = b.pre ∧ a.occ ≤ b.occ))))) l

/-- A record of R217. -/
def PrachDet.bytes (d : PrachDet) : List Byte :=
  toLe 8 (d.pre % 64 + d.occ % 8 * 2 ^ 6 + d.ta % 2 ^ 20 * 2 ^ 12 + wrapInt d.power 16 * 2 ^ 32)

/-- Detections by four. -/
def fours : Nat → List PrachDet → List (List PrachDet)
  | 0, _ => []
  | n + 1, l => if l.length ≤ 4 then [l] else l.take 4 :: fours n (l.drop 4)

/-- The indications of a PRACH item: the last of them ends it (R218, R250). -/
def State.prachReport (s : State) (c n k : Nat) (l : List PrachDet) : State :=
  let tot := min 64 l.length
  let drop := l.length - tot
  let s := if drop = 0 then s else s.fhStat c fhPrach drop
  let s := (s.count 0x06C (some (s.cellDom c)) tot).count 0x1CB none tot
  let ch := fours 17 (l.take 64)
  let body := fun (q : List PrachDet) => toLe 1 q.length ++ q.flatMap PrachDet.bytes
  let s := ch.dropLast.foldl (fun s q => s.indicate c n k stOk tot (body q)) s
  s.ulItemEnds c n k stOk tot (body (ch.getLast?.getD []))

/-- Every symbol of an item is handed off. -/
def SlotJob.allHanded (j : SlotJob) (i : Item) : Bool := (rangeFrom i.sym0 i.nsym).all j.handed.contains

/-- PRACH_DETECT: the final decision on the summed profile once the occasion is received, or MODEL_FAULT (R220, R250). -/
def State.prachDetect (s : State) (c n k : Nat) : State :=
  match s.ulItem c n k with
  | none => s
  | some (i, f, j) =>
    if i.ty = 0x13 ∧ j.allHanded i = true then
      match s.phaseState c n i with
      | none => s
      | some false => s.ulItemEnds c n k stModelFault 0 [0]
      | some true => s.prachReport c n k (prachDets i f.ulStreams (s.prachWindows c n f i))
    else s

def execPrachDetect (cell n item : Nat) (s : State) : Host.Outcome State Fault Refusal := .next (s.prachDetect cell n item)

/-! ### Parity errors (R253) -/

def causeDecParity : Nat := 0x0401
def causeDecompParity : Nat := 0x0406
def causeFftParity : Nat := 0x0407
def causePrachParity : Nat := 0x0408

/-- The record of a radio unit's parity error: its cell slot and domain, the unit and the detail. -/
def State.radioRecord (s : State) (c cause action cls idx item detail : Nat) : FaultRec :=
  { FaultRec.of cause action with
    dom := some (s.cellDom c), cell := some c, ucls := cls, uidx := idx, index := item, detail := detail }

/-- DECOMP_PARITY: the symbol's PRBs are zero-filled. -/
def State.decompParity (s : State) (c n sym : Nat) : State :=
  match (s.cell c).cfgAt n with
  | none => s
  | some f =>
    let d := s.cellDom c
    let s := (rangeFrom 0 f.ulStreams).foldl (fun s r =>
      (s.zeroRange .radio d (f.symAt c n sym r) (48 * f.nprb)).modCell c fun y => y.addFill n sym r false (0, f.nprb)) s
    (s.raise F.FH_ERR_STATUS_DECOMP_PARITY).faultRecord (s.radioRecord c causeDecompParity 0 ucDecomp 0 0 sym)

def execDecompParity (cell n sym : Nat) (s : State) : Host.Outcome State Fault Refusal := .next (s.decompParity cell n sym)

/-- FFT_PARITY: recorded for the stream's cell slot. -/
def State.fftParity (s : State) (c sym : Nat) : State :=
  ((s.raise F.FH_ERR_STATUS_FFT_PARITY).count 0xD7D none 1).faultRecord (s.radioRecord c causeFftParity 0 ucTdfe 0 0 sym)

def execFftParity (cell _n sym : Nat) (s : State) : Host.Outcome State Fault Refusal := .next (s.fftParity cell sym)

/-- PRACH_PARITY: the item reports no detections. -/
def State.prachParity (s : State) (c n k : Nat) : State :=
  match s.ulItem c n k with
  | none => s
  | some (i, _, _) =>
    if i.ty = 0x13 then
      ((s.raise F.FH_ERR_STATUS_PRACH_PARITY).faultRecord (s.radioRecord c causePrachParity 1 ucPrach 0 i.id i.sym0)).prachReport c n k []
    else s

def execPrachParity (cell n item : Nat) (s : State) : Host.Outcome State Fault Refusal := .next (s.prachParity cell n item)

end Sys2Proof.Machine
end

