-- ==== Sys2Proof/Machine/FhEgress.lean ====
section
/-! DEFINITION. Fronthaul egress (R226, R228, R238 to R242, R247, R284): the C-plane, the downlink sections and the RoE frames. -/

namespace Sys2Proof.Machine

/-! ### Frames (R226, R228, R238) -/

/-- What protects a cell's frames: nothing, or an SA of its domain's transmit channel and a packet number; none where the cell's frames must be
protected and no SA can (R228, R387; log entry 86). -/
def State.fhProtect (s : State) (f : CellCfg) (d : Nat) : Option (State × Option (Nat × Nat × Nat)) :=
  if f.macsec then
    if !s.flag F.ETH_SUB_CTRL_MACSEC_EN f.subport then none
    else
      match s.txChannel f.subport d with
      | none => none
      | some sc =>
        match s.txSa sc with
        | none => none
        | some an => let p := s.takePn sc an d; some (p.1, some (sc, an, p.2))
  else some (s, none)

/-- The bytes of a frame outside its application layer: Ethernet header, FCS and eCPRI or RoE header, the VLAN tag, and MACsec (log entry 26). -/
def CellCfg.fhOverhead (f : CellCfg) : Nat := 26 + 4 * b2n f.tagged + 32 * b2n f.macsec

/-- The bytes that the application layer of a frame may take (R238). -/
def State.fhRoom (s : State) (f : CellCfg) : Nat := s.fld F.ETH_SUB_CTRL_MAX_FRAME f.subport - f.fhOverhead

/-- A frame of a stream sent: tagged, protected and numbered as the cell's configuration and the stream's eAxC say (R228, R238). -/
def State.sendFh (s : State) (c id : Nat) (f : CellCfg) (bytes : Nat) (mk : FhHead → Out) : State :=
  match s.egressPort f.subport c, s.fhProtect f (s.cellDom c) with
  | some sp, some (s, sec) =>
    let seq := Tab.getD (s.cell c).txSeq id 0
    let s := s.modCell c fun x => { x with txSeq := Tab.set x.txSeq id ((seq + 1) % 256) }
    let h : FhHead := ⟨sp, if f.tagged then some (f.pcp, f.vid) else none, sec, id, seq⟩
    ((s.send (mk h)).addFld F.FH_TX_FRAMES_FRAMES 1).frameSent sp 2 (f.fhOverhead + bytes)
  | _, _ => s

/-- filterIndex of an item, and the radio application header of a symbol (R226). -/
def Item.filterIdx (i : Item) : Nat := ((Config.standard stdFilter i.args).headD 0).toNat
def CellCfg.radioHdr (f : CellCfg) (n sym filter : Nat) (up : Bool) : FhRadio :=
  ⟨b2n !up, filter, n / 80 % 256, n % 80 / 8, n % 8 / f.ticks, sym⟩

/-! ### The C-plane (R226, R238, R241, R284) -/

/-- The weight of a layer and antenna on a PRB, from the slot area (R256, R283). -/
def State.weightC (s : State) (c n : Nat) (f : CellCfg) (m l a : Nat) : Int × Int :=
  let d := s.cellDom c
  let base := f.slotArea n + f.sLs + f.sRef + m * f.gW * 64 + (l * f.nAnt + a) * 2
  let res := base + f.nprb * f.gW * 64
  let v := fun (o : Nat) => signed (s.byte .hbm d o).toNat 8
  if f.wgtCp16 then (256 * v base + v res, 256 * v (base + 1) + v (res + 1)) else (v base, v (base + 1))

/-- A downlink item whose layers carry weights in its sections (R226, R284). -/
def State.carriesWeights (s : State) (c n : Nat) (f : CellCfg) (i : Item) : Bool :=
  f.split == 1 && f.weightsExt && decide (i.ty < 0x10) && i.phase != 0xFF && s.phaseState c n i == some true

/-- The weights of layer l on a PRB, 16-bit I and Q for each transceiver (R284). -/
def State.prbWeights (s : State) (c n : Nat) (f : CellCfg) (l m : Nat) : List Int :=
  (rangeFrom 0 f.bfTrx).flatMap fun a =>
    let w := s.weightC c n f m l a
    if f.wgtCp16 then [w.1, w.2] else [256 * w.1, 256 * w.2]

/-- The weights of layer l over a section's PRBs: extension 1 where every PRB has the same, otherwise extension 11 with one bundle per PRB
(R284). -/
def State.weightExts (s : State) (c n : Nat) (f : CellCfg) (l prb nprb : Nat) : List SecExt :=
  let w := (rangeFrom prb nprb).map (s.prbWeights c n f l)
  match w with
  | [] => []
  | a :: t => if t.all (· == a) then [.weights 0 a] else [.flexWeights 1 0 w.flatten]

/-- A downlink item leaves in modulation compression (R241). -/
def CellCfg.modComp (f : CellCfg) (i : Item) : Bool := f.b 76 1 % 16 == 4 && [0x01, 0x02, 0x04].contains i.ty

/-- The constellation shifts and scalers of a stream, which encode POWER and the layer's precoding amplitude (R241). -/
def State.modScales (s : State) (c n : Nat) (f : CellCfg) (i : Item) (a : Nat) : List (Int × Int) :=
  let w := if i.phase = 0xFF ∨ f.split = 1 then []
    else (rangeFrom i.prb0 i.nprb).flatMap fun m => let v := s.weightC c n f m a a; [v.1, v.2]
  ciPairs (Config.standard stdModScale (i.argsAt f n ++ [(a : Int)] ++ w))

/-- The bytes of an extension and of a section (log entry 26). -/
def SecExt.bytes : SecExt → Nat
  | .weights _ w => ceilDiv (3 + 2 * w.length) 4 * 4
  | .modComp l => if l.length ≤ 1 then 4 else ceilDiv (16 + 28 * l.length) 32 * 4
  | .nonContig _ => 8
  | .ports _ => 4
  | .flexWeights _ _ w => ceilDiv (6 + 2 * w.length) 4 * 4
def CSection.bytes (x : CSection) : Nat := (if x.kind = 3 then 12 else 8) + sumList (x.exts.map SecExt.bytes)

/-- The section type of an item (R226). -/
def Item.secKind (i : Item) (f : CellCfg) : Nat :=
  if i.ty = 0x13 then 3 else if f.split = 1 ∧ (i.ty = 0x01 ∨ i.ty = 0x11) then 5 else 1

/-- An item's section over some of its PRBs, with extensions (R226). -/
def CellCfg.cSection (f : CellCfg) (n sym : Nat) (i : Item) (prb nprb : Nat) (exts : List SecExt) : CSection where
  kind := i.secKind f
  item := i.id
  prb := prb
  nprb := nprb
  beam := i.beam
  ue := if i.secKind f = 5 then i.rnti % 32768 else 0
  extra := if i.ty = 0x13 then Config.standard stdSection3 (i.argsAt f n ++ [(sym : Int)]) else []
  exts := (if i.ty = 0x02 then [.nonContig (i.f 16 6)] else []) ++ exts

/-- An item's sections on stream a: one, or where its weights do not fit a frame one for each part of its PRBs that does (R226, R238, R241,
R284). -/
def State.cSections (s : State) (c n sym : Nat) (f : CellCfg) (i : Item) (a : Nat) : List CSection :=
  let scale : List SecExt := if f.modComp i then [.modComp (s.modScales c n f i a)] else []
  if s.carriesWeights c n f i then
    let whole := f.cSection n sym i i.prb0 i.nprb (scale ++ s.weightExts c n f a i.prb0 i.nprb)
    let room := s.fhRoom f - 12
    if whole.bytes ≤ room then [whole]
    else
      let k := max 1 ((room - 32) / (4 * f.bfTrx))
      (rangeFrom 0 (ceilDiv i.nprb k)).map fun q =>
        let p := i.prb0 + q * k
        let m := min k (i.prb0 + i.nprb - p)
        f.cSection n sym i p m (scale ++ s.weightExts c n f a p m)
  else [f.cSection n sym i i.prb0 i.nprb scale]

/-- Sections laid into frames: each frame takes those that fit it (R238). -/
def packSections (room : Nat) (l : List CSection) : List (List CSection) :=
  l.foldl (fun (acc : List (List CSection)) x =>
    match acc.getLast? with
    | some fr => if sumList (fr.map CSection.bytes) + x.bytes ≤ room then acc.dropLast ++ [fr ++ [x]] else acc ++ [[x]]
    | none => [[x]]) []

/-- The C-plane messages of a stream: its sections by type, in frames. -/
def State.cStream (s : State) (c id : Nat) (f : CellCfg) (hdr : Nat → FhRadio) (l : List CSection) : State :=
  [1, 3, 5].foldl (fun s kind =>
    (packSections (s.fhRoom f - 12) (l.filter fun x => x.kind == kind)).foldl (fun s fr =>
      s.sendFh c id f (12 + sumList (fr.map CSection.bytes)) fun h => .cplane h (hdr kind) fr) s) s

/-- Items whose sections differ from stream to stream. -/
def State.perStream (s : State) (c n : Nat) (f : CellCfg) (i : Item) : Bool := f.modComp i || s.carriesWeights c n f i

/-- The C-plane of a symbol's items: on each stream the sections of the items that differ there, and on the first stream of a kind those of the
others, with extension 10 for the ports that share them (log entry 87). -/
def State.cMessages (s : State) (c n sym : Nat) (up : Bool) (f : CellCfg) (l : List Item) : State :=
  let own := l.filter (s.perStream c n f)
  let all := l.filter fun i => !s.perStream c n f i
  let data := all.filter fun i => i.ty != 0x13
  let prach := all.filter fun i => i.ty == 0x13
  let streams := if up then f.ulStreams else f.dlStreams
  let id := if up then f.ulId else f.dlId
  let shared : List SecExt := if streams > 1 then [.ports (streams - 1)] else []
  let hdr := fun (_ : Nat) => f.radioHdr n sym ((l.head?.map Item.filterIdx).getD 0) up
  let s := s.cStream c (id 0) f hdr (data.map fun i => f.cSection n sym i i.prb0 i.nprb shared)
  let s := prach.foldl (fun s i =>
    s.cStream c (f.prachId 0) f (fun _ => f.radioHdr n sym i.filterIdx up) [f.cSection n sym i i.prb0 i.nprb shared]) s
  (rangeFrom 0 streams).foldl (fun s a =>
    s.cStream c (id a) f hdr ((own.filter fun i => i.ty != 0x01 || decide (a < i.nl)).flatMap fun i => s.cSections c n sym f i a)) s

/-- CPLANE_EMIT: the C-plane of a symbol of an accepted slot, once, at its departure time (R238). -/
def State.cplaneEmit (s : State) (c n sym : Nat) (up : Bool) : State :=
  let x := s.cell c
  match x.job? n up, x.cfgAt n with
  | some j, some f =>
    let l := j.items.filter fun i => i.covers sym
    if s.timeValid ∧ f.split ≠ 2 ∧ l ≠ [] ∧ j.csent.contains sym = false then
      let s := s.untilTai (s.symTime f n sym - (if up then f.t1aCpUl else f.t1aCpDl) * 65536)
      (s.modSlotJob c n up fun j => { j with csent := sym :: j.csent }).cMessages c n sym up f l
    else s
  | _, _ => s

def execCplaneEmit (cell n sym : Nat) (up : Bool) (s : State) : Host.Outcome State Fault Refusal := .next (s.cplaneEmit cell n sym up)

/-! ### Compression (R240, R241) -/

/-- `bfp_compress` of R240: the exponent and the mantissas. -/
def bfpCompress (v : List Int) (w : Nat) : Nat × List Int :=
  let fits := fun e => v.all fun x => let q := rneShift x e; decide (q ≤ 2 ^ (w - 1) - 1) && decide (-(2 ^ (w - 1)) ≤ q)
  let e := ((rangeFrom 0 16).find? fits).getD 15
  (e, v.map fun x => rneShift x e)

/-- Numbers of w bits packed into bytes, the most significant bit first. -/
def packBits (l : List Int) (w : Nat) : List Byte :=
  let bs := l.flatMap fun v => (rangeFrom 0 w).map fun i => bit (wrapInt v w) (w - 1 - i)
  let n := ceilDiv bs.length 8
  (rangeFrom 0 n).map fun k => BitVec.ofNat 8 ((rangeFrom 0 8).foldl (fun a i => 2 * a + b2n (bs.getD (8 * k + i) false)) 0)

/-- The method and width in which an item's sections leave (R241). -/
def CellCfg.dlComp (f : CellCfg) (i : Item) : Nat × Nat :=
  let b := f.b 76 1
  if b % 16 = 4 then (if i.ty = 0x03 then (1, 9) else (4, 0)) else (b % 16, if b / 16 = 0 then 16 else b / 16)

/-- A PRB's bytes in a method. The pattern of an element that precoding has moved off its constellation is open (log entry 22). -/
def prbBytes (m w : Nat) (i : Item) (v : List Int) : List Byte :=
  if m = 1 then
    let c := bfpCompress v w
    toLe 1 c.1 ++ packBits c.2 w
  else if m = 4 then (Config.standard stdModComp (i.args ++ v)).map fun x => BitVec.ofInt 8 x
  else packBits v 16

/-! ### The U-plane (R226, R238, R242, R247) -/

/-- The samples of an item on a stream, symbol and PRB of it. -/
def Item.outAt (i : Item) (streams sym a m : Nat) : List Int :=
  let k := (((sym - i.sym0) * streams + a) * i.nprb + (m - i.prb0)) * 24
  (i.out.drop k).take 24

/-- The most PRBs of a section in one frame, with the section header and its udCompHdr (R238, log entry 26). -/
def State.prbsPerFrame (s : State) (f : CellCfg) (m w : Nat) (i : Item) : Nat :=
  let per := if m = 1 then 1 + 3 * w else if m = 4 then ceilDiv (12 * i.qm) 8 else 48
  max 1 ((s.fhRoom f - 10) / per)

/-- The sections of an item on a stream and symbol, one to a frame (R238). -/
def State.sendSections (s : State) (c n sym : Nat) (f : CellCfg) (i : Item) (a : Nat) : State :=
  let mw := f.dlComp i
  let k := s.prbsPerFrame f mw.1 mw.2 i
  (rangeFrom 0 (ceilDiv i.nprb k)).foldl (fun s q =>
    let p0 := i.prb0 + q * k
    let cnt := min k (i.prb0 + i.nprb - p0)
    let b := (rangeFrom p0 cnt).flatMap fun m => prbBytes mw.1 mw.2 i (i.outAt f.dlStreams sym a m)
    let x : USection := ⟨p0, cnt, if f.staticComp then none else some (mw.1, mw.2 % 16), b⟩
    s.sendFh c (f.dlId a) f (8 + 2 * b2n (!f.staticComp) + b.length) fun h => .uplane h (f.radioHdr n sym i.filterIdx false) [x]) s

/-- The grid of a symbol on a stream of a split-8 cell: the items' elements. -/
def CellCfg.gridOf (f : CellCfg) (sym a : Nat) (l : List Item) : List Int :=
  (rangeFrom 0 f.nprb).flatMap fun m =>
    (l.filter fun i => decide (i.prb0 ≤ m) && decide (m < i.prb0 + i.nprb)).foldl (fun v i =>
      List.zipWith (· + ·) v ((i.outAt f.dlStreams sym a m) ++ List.replicate 24 0)) (List.replicate 24 0)

/-- orderingInfo of sample k of a symbol: the ns of its air time (R242). -/
def State.orderingInfo (s : State) (f : CellCfg) (n sym k : Nat) : Nat :=
  (s.symTime f n sym + k * 1000000000 * 65536 / f.rateHz) / 65536 % 2 ^ 32

/-- The symbol of a split-8 stream in RoE frames, none above the largest (R238, R242). -/
def State.sendTd (s : State) (c n sym : Nat) (f : CellCfg) (l : List Item) (a : Nat) : State :=
  let v := f.ifft n sym (f.gridOf sym a l)
  let k := max 1 (s.fhRoom f / 4)
  (rangeFrom 0 (ceilDiv (v.length / 2) k)).foldl (fun s q =>
    let part := (v.drop (2 * k * q)).take (2 * k)
    s.sendFh c (f.dlId a) f (2 * part.length) fun h => .roe h (s.orderingInfo f n sym (k * q)) part) s

/-- The items of a symbol sent on every stream. -/
def State.sendSymbol (s : State) (c n sym : Nat) (f : CellCfg) (l : List Item) : State :=
  (rangeFrom 0 f.dlStreams).foldl (fun s a =>
    if f.split = 2 then s.sendTd c n sym f l a else l.foldl (fun s i => s.sendSections c n sym f i a) s) s

/-- A downlink item that does not leave in time (R221, R238), or whose phase failed (R220). -/
def State.dropUnready (s : State) (c n sym : Nat) (j : SlotJob) : State :=
  (rangeFrom 0 j.items.length).foldl (fun s k =>
    match j.items[k]? with
    | some i =>
      if i.sym0 = sym ∧ i.settled = false ∧ i.st ≠ .prepared then
        s.dlItemEnds c n k (if s.phaseState c n i = some false then stModelFault else stAirMissed)
      else s
    | none => s) s

/-- Items whose last symbol has left are done. -/
def State.dlDone (s : State) (c n sym : Nat) (j : SlotJob) : State :=
  (rangeFrom 0 j.items.length).foldl (fun s k =>
    match j.items[k]? with
    | some i => if i.sym0 + i.nsym = sym + 1 ∧ i.st = .prepared then s.dlItemEnds c n k stOk else s
    | none => s) s

/-- UPLANE_EMIT: the downlink sections of a symbol. They leave as soon as the window opens when every item that starts there is ready, and
otherwise at its end without those that are not (R221, R238). -/
def State.uplaneEmit (s : State) (c n sym : Nat) : State :=
  let x := s.cell c
  match x.job? n false, x.cfgAt n with
  | some j, some f =>
    if s.timeValid ∧ sym < f.nsym ∧ j.sent.contains sym = false then
      let starts := j.items.filter fun i => i.sym0 == sym && !i.settled
      let a := s.symTime f n sym
      let ready := starts.all fun i => i.st == .prepared
      let s := s.untilTai (a - (if ready then f.t1aUpMax else f.t1aUpMin) * 65536)
      let l := j.items.filter fun i => i.covers sym && i.st == .prepared
      let s := if l = [] then s else s.sendSymbol c n sym f l
      let s := s.modSlotJob c n false fun j => { j with sent := sym :: j.sent }
      (s.dropUnready c n sym j).dlDone c n sym j
    else s
  | _, _ => s

def execUplaneEmit (cell n sym : Nat) (s : State) : Host.Outcome State Fault Refusal := .next (s.uplaneEmit cell n sym)

end Sys2Proof.Machine
end

