-- ==== Sys2Proof/Machine/Phy.lean ====
section
/-! DEFINITION. Detection of an uplink slot (R260 to R273, R276 to R281): estimation, equalization, demapping, soft combining, decoding and
control information. -/

namespace Sys2Proof.Machine

/-! ### Complex FP32 (R266) -/

abbrev Cx := Nat × Nat

def cmul (a b : Cx) : Cx := (fsub (fmul a.1 b.1) (fmul a.2 b.2), fadd (fmul a.1 b.2) (fmul a.2 b.1))
def cconj (a : Cx) : Cx := (a.1, fneg a.2)
def csub (a b : Cx) : Cx := (fsub a.1 b.1, fsub a.2 b.2)
def cadd (a b : Cx) : Cx := (fadd a.1 b.1, fadd a.2 b.2)
def cscale (a : Cx) (k : Nat) : Cx := (fmul a.1 k, fmul a.2 k)
def cdivF (a : Cx) (k : Nat) : Cx := (fdiv a.1 k, fdiv a.2 k)
def csum (l : List Cx) : Cx := (treeSum (l.map (·.1)), treeSum (l.map (·.2)))
def cabs2 (a : Cx) : Nat := fadd (fmul a.1 a.1) (fmul a.2 a.2)

/-- The mean of complex numbers, 0 of none. -/
def cmean (l : List Cx) : Cx := if l = [] then (0, 0) else cdivF (csum l) (fcvt l.length)

/-! ### Samples and least-squares estimates (R260, R261) -/

/-- ig of R260 for a stream's symbol. -/
def State.gainInv (s : State) (x : PhyCtx) (sym r : Nat) : Nat :=
  if x.f.split = 2 then pow10F (4 * (96 - ((Tab.getD (s.cell x.c).gains (gainKey x.n sym r) 0 % 512 : Nat) : Int))) else one32

/-- Sample (sym, r, k) of SPILL as FP32 (R256, R260). -/
def State.spill (s : State) (x : PhyCtx) (sym r k : Nat) : Cx :=
  let d := s.cellDom x.c
  let a := x.f.spillAt x.n sym r k
  let g := s.gainInv x sym r
  (fmul (fcvt (signed (s.le .hbm d a 2) 16)) g, fmul (fcvt (signed (s.le .hbm d (a + 2) 2) 16)) g)

/-- Five numbers at a time. -/
def fives : Nat → List Int → List (List Int)
  | 0, _ => []
  | n + 1, l => if l.length < 5 then [] else l.take 5 :: fives n (l.drop 5)

/-- The DM-RS elements that are despread for an item's port at a subcarrier and group (R261). -/
def Item.dmrsSet (i : Item) (x : PhyCtx) (p d k : Nat) : List (List Int) :=
  let l := Config.standard stdDmrs (i.argsAt x.f x.n ++ [(p : Int), d, k])
  fives l.length l

/-- The mean over reference elements of a stream's samples times the conjugate of their values, with their cover signs; none of no element
(R261). -/
def State.despread (s : State) (x : PhyCtx) (r : Nat) (l : List (List Int)) : Option Cx :=
  if l = [] then none
  else
    let t := l.map fun e =>
      let v := cmul (s.spill x (e.getD 0 0).toNat r (e.getD 1 0).toNat) (cconj ((e.getD 2 0).toNat, (e.getD 3 0).toNat))
      if e.getD 4 0 < 0 then (fneg v.1, fneg v.2) else v
    some (cdivF (csum t) (fcvt l.length))

/-- The least-squares estimate of a port, group, stream and subcarrier; none where the subcarrier carries no DM-RS of the port (R261). -/
def State.lsRaw (s : State) (x : PhyCtx) (i : Item) (p d r k : Nat) : Option Cx := s.despread x r (i.dmrsSet x p d k)

/-- The estimate that LS holds before its conversion: with FD_SMOOTH, the mean over its PRB (R261). -/
def State.lsAt (s : State) (x : PhyCtx) (i : Item) (p d r k : Nat) : Option Cx :=
  match s.lsRaw x i p d r k with
  | none => none
  | some v =>
    if x.f.fdSmooth then some (cmean ((rangeFrom (k / 12 * 12) 12).filterMap fun q => s.lsRaw x i p d r q)) else some v

/-- The subcarriers of an item. -/
def Item.carriers (i : Item) : List Nat := rangeFrom (12 * i.prb0) (12 * i.nprb)

/-- The place of an LS or REF element in its region (R256). -/
def CellCfg.lsPlace (f : CellCfg) (k d lam r : Nat) : Nat := k * f.gCe * 64 + ((d * f.cePorts + lam) * f.ulStreams + r) * 2

/-- fint(fmul(h, 2^−CE_SHIFT), 8) of R261, as a byte. -/
def CellCfg.lsByte (f : CellCfg) (h : Nat) : Byte := BitVec.ofInt 8 (fint (fmul h (pow2F (-(f.ceShift : Int)))) 8)

/-- LS written for an item (R256, R261). -/
def State.writeLs (s : State) (x : PhyCtx) (i : Item) : State :=
  let dom := s.cellDom x.c
  (rangeFrom 0 (dmrsGroups i.dmrsSyms).length).foldl (fun s d =>
    (List.zip i.ports i.lambdas).foldl (fun s pl =>
      (rangeFrom 0 x.f.ulStreams).foldl (fun s r =>
        i.carriers.foldl (fun s k =>
          let h := (s.lsAt x i pl.1 d r k).getD (0, 0)
          s.store .hbm dom (x.f.slotArea x.n + x.f.lsPlace k d pl.2 r) [x.f.lsByte h.1, x.f.lsByte h.2]) s) s) s) s

/-- No item of the slot has been estimated: LS still holds another slot's estimates. -/
def SlotJob.lsFresh (j : SlotJob) : Bool := j.items.all fun i => i.ty != 0x11 || i.st == .waiting

/-- The samples of an item's symbols as FP32: symbol, stream and subcarrier in that order, real part before imaginary part. -/
def State.itemSamples (s : State) (x : PhyCtx) (i : Item) : List Nat :=
  (rangeFrom i.sym0 i.nsym).flatMap fun y => (rangeFrom 0 x.f.ulStreams).flatMap fun r =>
    i.carriers.flatMap fun q => let z := s.spill x y r q; [z.1, z.2]

/-- What the engines measure and the manual does not define (log entry 23): the mean SNR of SRS estimates, the SINR of equalized elements or of
a UCI's samples, and the phase slope of LS values over layers, streams and subcarriers, in ns (R217, R263). -/
def measSnr : Nat := 1
def measSinr : Nat := 2
def measSlope : Nat := 3
def measNoise : Nat := 4

/-- The estimates of an SRS port and stream at a subcarrier (R263). -/
def State.srsAt (s : State) (x : PhyCtx) (i : Item) (p r k : Nat) : Cx :=
  let l := Config.standard stdSrs (i.argsAt x.f x.n ++ [(p : Int), k])
  (s.despread x r (fives l.length l)).getD (0, 0)

/-- The ring of an uplink slot command. -/
def State.slotRing (s : State) (x : PhyCtx) : Nat := (((s.cell x.c).job? x.n true).map SlotJob.ring).getD 0

/-- The row of an SRS subcarrier: λ is the port and d is 0; rows lie at a 64-byte stride, or the next multiple that holds a row (R256, R263,
log entry 89). -/
def State.srsRow (s : State) (x : PhyCtx) (i : Item) (k : Nat) : List Byte :=
  let v := (rangeFrom 0 (i.f 16 1)).flatMap fun p => (rangeFrom 0 x.f.ulStreams).flatMap fun r =>
    let h := s.srsAt x i p r k
    [x.f.lsByte h.1, x.f.lsByte h.2]
  v ++ List.replicate (ceilDiv v.length 64 * 64 - v.length) 0

/-- An SRS item: its estimates written to DATA_ADDR and reported (R263). -/
def State.srsDone (s : State) (x : PhyCtx) (k : Nat) (i : Item) : State :=
  let res := (Config.standard stdSrsRes (i.argsAt x.f x.n)).map Int.toNat
  let p := s.resultBytes x.c (res.flatMap (s.srsRow x i))
  let snr := Config.radioMeasure measSnr (s.itemSamples x i)
  let s := p.2.dmaWrite x.f.inst (s.slotRing x) (s.cellDom x.c) i.dataAddr p.1
  s.ulItemEnds x.c x.n k stOk 1 (toLe 1 0 ++ toLe 2 snr)

/-- A PUSCH item estimated: its LS written, where its memory answers and its phase has not failed (R220, R261). -/
def State.estimatePusch (s : State) (x : PhyCtx) (k : Nat) (i : Item) (j : SlotJob) : State :=
  if s.phaseState x.c x.n i = some false then s.ulTbFails x.c x.n k stModelFault i
  else
    match s.ulMemFault x i with
    | some flt => s.ulMemFails x k i flt
    | none =>
      let s := if j.lsFresh then s.zeroRange .hbm (s.cellDom x.c) (x.f.slotArea x.n) x.f.sLs else s
      (s.writeLs x i).modItem x.c x.n true k fun i => i.to .prepared

/-- CHANNEL_ESTIMATE: the estimates of a PUSCH or an SRS item whose reference symbols are handed off (R261, R263). -/
def State.channelEstimate (s : State) (c n k : Nat) : State :=
  match s.ulItem c n k with
  | none => s
  | some (i, f, j) =>
    let x : PhyCtx := ⟨c, f, n⟩
    let s := s.meetErrors (s.cellDom c) (f.slotArea n) f.areaBytes
    if i.ty = 0x11 ∧ i.st = .waiting ∧ (bitsSet i.dmrsSyms 14).all j.handed.contains then s.estimatePusch x k i j
    else if i.ty = 0x14 ∧ j.allHanded i = true then
      match s.phaseState c n i, s.ulMemFault x i with
      | none, _ => s
      | some false, _ => s.ulItemEnds c n k stModelFault 0 []
      | some true, some flt => s.ulMemFails x k i flt
      | some true, none => s.srsDone x k i
    else s

def execChannelEstimate (cell n item : Nat) (s : State) : Host.Outcome State Fault Refusal := .next (s.channelEstimate cell n item).limitStacks

/-! ### The equalizer's estimates (R262) -/

/-- The DM-RS group nearest a symbol in time, the earlier of two (R262). -/
def Item.nearGroup (i : Item) (sym : Nat) : Nat :=
  let g := dmrsGroups i.dmrsSyms
  (minBy (fun d => let y := g.getD d 0; [if y ≥ sym then y - sym else sym - y, d]) (rangeFrom 0 g.length)).getD 0

/-- A REF element as FP32 (R262). -/
def State.refPart (s : State) (x : PhyCtx) (a : Nat) : Nat :=
  let d := s.cellDom x.c
  let v := signed (s.byte .hbm d a).toNat 8
  if x.f.refCp16 then fmul (fcvt (256 * v + signed (s.byte .hbm d (a + x.f.sLs)).toNat 8)) (pow2F ((x.f.ceShift : Int) - 8))
  else fmul (fcvt v) (pow2F x.f.ceShift)

def State.refAt (s : State) (x : PhyCtx) (d lam r k : Nat) : Cx :=
  let a := x.f.slotArea x.n + x.f.sLs + x.f.lsPlace k d lam r
  (s.refPart x a, s.refPart x (a + 1))

/-- The DM-RS subcarriers of a port inside an item, and the interpolated estimate of the fixed path (R262, log entry 27). -/
def State.fixedAt (s : State) (x : PhyCtx) (i : Item) (p d r k : Nat) : Cx :=
  let on := i.carriers.filter fun q => i.dmrsSet x p d q != []
  let h := fun q => (s.lsAt x i p d r q).getD (0, 0)
  match (on.filter fun q => decide (q ≤ k)).getLast?, on.find? fun q => decide (k ≤ q) with
  | some a, some b =>
    if a = b then h a
    else cadd (h a) (cscale (csub (h b) (h a)) (fdiv (fcvt ((k - a : Nat) : Int)) (fcvt ((b - a : Nat) : Int))))
  | some a, none => h a
  | none, some b => h b
  | none, none => (0, 0)

/-- A layer of an item: its port and estimate layer. -/
structure Layer where
  k : Nat
  item : Item
  port : Nat
  lam : Nat
deriving DecidableEq, Repr

def Item.layers (i : Item) (k : Nat) : List Layer := (List.zip i.ports i.lambdas).map fun p => ⟨k, i, p.1, p.2⟩

/-- The estimate of a layer at a data subcarrier of a symbol (R262). -/
def State.estAt (s : State) (x : PhyCtx) (l : Layer) (sym r k : Nat) : Cx :=
  let d := l.item.nearGroup sym
  if x.f.modelPath then s.refAt x d l.lam r k else s.fixedAt x l.item l.port d r k

/-- n0 of a PRB and stream (R262). -/
def State.noiseAt (s : State) (x : PhyCtx) (ls : List Layer) (sym r prb : Nat) : Nat :=
  let v := ls.flatMap fun l => (rangeFrom (12 * prb) 12).filterMap fun k =>
    (s.lsAt x l.item l.port (l.item.nearGroup sym) r k).map fun h => cabs2 (csub h (s.estAt x l sym r k))
  fmax (if v = [] then 0 else fdiv (treeSum v) (fcvt v.length)) one32

/-! ### Equalization (R264 to R268) -/

/-- The constellation of a modulation order: the points in increasing index. -/
def points (qm : Nat) : List Cx :=
  (rangeFrom 0 (2 ^ qm)).map fun p => let v := std stdPoint [qm, p]; ((v.getD 0 0).toNat, (v.getD 1 0).toNat)

/-- The nearest point, the lowest index on ties. -/
def nearest (pts : List Cx) (x : Cx) : Cx :=
  (pts.foldl (fun (a : Option (Cx × Nat)) p =>
    let d := cabs2 (csub x p)
    match a with
    | none => some (p, d)
    | some b => if fgt b.2 d then some (p, d) else a) none).elim (0, 0) (·.1)

/-- What the equalizer emits for a layer. -/
structure EqOut where
  layer : Nat
  x : Cx
  sinr : Nat
deriving DecidableEq, Repr

/-- g of R265 for the active layers, in row order. -/
def gram (h : List (List Cx)) (n0 : List Nat) (act : List Nat) : List Cx :=
  act.flatMap fun i => act.map fun j =>
    let v := csum (List.zipWith (fun (hr : List Cx) n => cscale (cmul (cconj (hr.getD i (0, 0))) (hr.getD j (0, 0))) (frecip n)) h n0)
    if i = j then (fadd v.1 one32, v.2) else v

/-- Element i of column j of the Cholesky factor, given the columns before it and 1/L_jj: L_jj is d × frsqrt(d) for the reduced diagonal d
(R266, log entry 90). -/
def cholElem (m : Nat) (g : List Cx) (cols : List (List Cx)) (i j : Nat) : Cx :=
  csub (g.getD (i * m + j) (0, 0)) (csum (cols.map fun q => cmul (q.getD i (0, 0)) (cconj (q.getD j (0, 0)))))

/-- The Cholesky factor of a matrix of m rows, by columns in increasing index (R266). -/
def cholesky (m : Nat) (g : List Cx) : List (List Cx) :=
  (rangeFrom 0 m).foldl (fun cols j =>
    let d := (cholElem m g cols j j).1
    let r := frsqrt d
    cols ++ [(rangeFrom 0 m).map fun i =>
      if i < j then (0, 0) else if i = j then (fmul d r, 0) else cscale (cholElem m g cols i j) r]) []

/-- Element (i, k) of the factor. -/
def cholAt (cols : List (List Cx)) (i k : Nat) : Cx := (cols.getD k []).getD i (0, 0)

/-- Forward substitution on column e of the identity, then back substitution (R266). -/
def cholSolve (m : Nat) (cols : List (List Cx)) (e : Nat) : List Cx :=
  let y := (rangeFrom 0 m).foldl (fun (y : List Cx) i =>
    let b : Cx := if i = e then (one32, 0) else (0, 0)
    y ++ [cdivF (csub b (csum ((rangeFrom 0 i).map fun k => cmul (cholAt cols i k) (y.getD k (0, 0))))) (cholAt cols i i).1]) []
  (rangeFrom 0 m).foldl (fun (x : List Cx) q =>
    let i := m - 1 - q
    let after := csum ((rangeFrom (i + 1) (m - 1 - i)).map fun k => cmul (cconj (cholAt cols k i)) (x.getD (k - i - 1) (0, 0)))
    cdivF (csub (y.getD i (0, 0)) after) (cholAt cols i i).1 :: x) []

/-- `inverse` of R266, of a matrix of m rows in row order. -/
def cinv (m : Nat) (g : List Cx) : List Cx :=
  let cols := cholesky m g
  let inv := (rangeFrom 0 m).map (cholSolve m cols)
  (rangeFrom 0 m).flatMap fun i => (rangeFrom 0 m).map fun j => (inv.getD j []).getD i (0, 0)

/-- One stage's outputs for the active layers (R265). -/
def eqStage (y : List Cx) (h : List (List Cx)) (n0 : List Nat) (act : List Nat) : List EqOut :=
  let m := act.length
  let c := cinv m (gram h n0 act)
  let mf := act.map fun j =>
    csum (List.zipWith (fun (p : List Cx × Cx) n => cscale (cmul (cconj (p.1.getD j (0, 0))) p.2) (frecip n)) (List.zip h y) n0)
  (rangeFrom 0 m).map fun a =>
    let z := csum ((rangeFrom 0 m).map fun b => cmul (c.getD (a * m + b) (0, 0)) (mf.getD b (0, 0)))
    let mu := fsub one32 (c.getD (a * m + a) (0, 0)).1
    if fgt mu (pow2F (-24)) then ⟨act.getD a 0, cdivF z mu, fdiv mu (fsub one32 mu)⟩ else ⟨act.getD a 0, (0, 0), 0⟩

/-- `equalize` of R265: the outputs, and the stages run. -/
def equalizeLoop (h : List (List Cx)) (n0 : List Nat) (pts : List (List Cx)) (sic : Bool) (thr : Nat) :
    Nat → List Cx → List Nat → List EqOut × Nat
  | 0, _, _ => ([], 0)
  | n + 1, y, act =>
    if act = [] then ([], 0)
    else
      let o := eqStage y h n0 act
      if !sic || act.length == 1 then (o, 1)
      else
        match o.foldl (fun (a : Option EqOut) e => match a with
          | none => some e
          | some b => if fgt e.sinr b.sinr then some e else a) none with
        | none => (o, 1)
        | some k =>
          if fgt thr k.sinr then (o, 1)
          else
            let p := nearest (pts.getD k.layer []) k.x
            let y' := List.zipWith (fun v (hr : List Cx) => csub v (cmul (hr.getD k.layer (0, 0)) p)) y h
            let t := equalizeLoop h n0 pts sic thr n y' (act.filter (· != k.layer))
            (k :: t.1, t.2 + 1)

/-- The layers that occupy a resource element. -/
def layersAt (ls : List (Layer × List Nat)) (k : Nat) : List Layer := (ls.filter fun p => p.2.contains k).map (·.1)

/-- The equalizer's outputs at a resource element, by layer, and its stages (R264, R265). -/
def State.eqAt (s : State) (x : PhyCtx) (ls : List Layer) (sym k : Nat) : List EqOut × Nat :=
  let g0 := k / x.f.eqGroup * x.f.eqGroup
  let nr := rangeFrom 0 x.f.ulStreams
  let y := nr.map fun r => s.spill x sym r k
  let h := nr.map fun r => ls.map fun l => cmean ((rangeFrom g0 x.f.eqGroup).map fun q => s.estAt x l sym r q)
  let n0 := nr.map fun r => s.noiseAt x ls sym r (k / 12)
  equalizeLoop h n0 (ls.map fun l => points l.item.qm) x.f.sicOn (pow10F (2 * x.f.sicThr)) ls.length y (rangeFrom 0 ls.length)

/-- `eq_cycles` of R267 for a symbol of `nre` elements, `ngrp` groups, `nl` layers and `st` stages. -/
def eqCycles (nre ngrp nl st nrx : Nat) : Nat :=
  sumList ((rangeFrom 0 st).map fun i =>
    ceilDiv nre (4096 / max 16 (nrx * (nl - i))) + ceilDiv (ngrp * (nl - i) * (nl - i) * nrx) 1024 + 8)

/-! ### Demapping and descrambling (R268, R269) -/

/-- `demap` of R269. -/
def demap (pts : List Cx) (x : Cx) (sinr qm sh : Nat) : List Int :=
  (rangeFrom 0 qm).map fun b =>
    let d := fun v => ((rangeFrom 0 pts.length).filter fun i => bit i b == v).foldl (fun (a : Option Nat) i =>
      let e := cabs2 (csub x (pts.getD i (0, 0)))
      some (match a with
        | none => e
        | some m => fmin m e)) none
    let l := fmul (fsub ((d true).getD 0) ((d false).getD 0)) sinr
    max (-127) (min 127 (fint (fmul l (pow2F ((sh : Int) - 3))) 32))

/-- Element k of the inverse DFT of FP32 numbers, scaled by the inverse root of their number: the sum of R147 over products with factors nearest
to the exact ones (R260, R268). -/
def idftF (v : List Cx) (k : Nat) : Cx :=
  let m := v.length
  let t := (rangeFrom 0 m).map fun q => let w := turn (q * k) m; cmul (v.getD q (0, 0)) (fxToF32 w.1, fxToF32 w.2)
  cscale (csum t) (frsqrt (fcvt m))

/-- A layer's elements of a symbol after the inverse DFT of transform precoding, each with sinr_eff (R268). -/
def deprecode (i : Item) (l : List EqOut) : List EqOut :=
  if i.tp then
    let v := l.map EqOut.x
    let m := fdiv (treeSum (l.map fun e => frecip (fadd e.sinr one32))) (fcvt l.length)
    let sn := fsub (frecip m) one32
    (rangeFrom 0 l.length).map fun k =>
      let z := idftF v k
      ⟨0, if i.qm = 1 ∧ k % 2 = 1 then (z.2, fneg z.1) else z, sn⟩
  else l

/-- The soft bits of an item's symbol: element by element and layer by layer, descrambled from a bit position on (R269). -/
def softBits (f : CellCfg) (i : Item) (byLayer : List (List EqOut)) (start : Nat) : List Int :=
  let pts := points i.qm
  let ls := byLayer.map (deprecode i)
  let n := maxList (ls.map List.length)
  let v := (rangeFrom 0 n).flatMap fun k => ls.flatMap fun l =>
    match l[k]? with
    | some e => demap pts e.x e.sinr i.qm f.llrShift
    | none => []
  let c := (std stdScramble [i.rnti * 32768 + i.nid, start + v.length]).drop start
  List.zipWith (fun x b => if b = 1 then -x else x) v (c ++ List.replicate v.length 0)

/-! ### Soft combining (R270 to R273) -/

/-- The segmentation of an item. -/
def Item.seg (i : Item) : Seg := segment i.tbs i.bg

/-- The standing of an item's context (R272): the flag bit of R275, and whether its buffer is combined into. -/
def ctxRow (e : List Byte) (i : Item) : Nat × Bool :=
  let fl := fieldAt e 12 1
  let same := fieldAt e 0 4 == i.tbs && bit fl 3 == (i.bg == 1) && fieldAt e 8 2 == i.seg.zc && fieldAt e 10 2 == i.seg.c && bit fl 4 == i.lbrm
  if bit fl 0 then
    if bit fl 1 == i.ndi then (if same then (2, true) else (8, false)) else (1, false)
  else if bit fl 2 && bit fl 1 == i.ndi then (4, false)
  else (1, false)

/-- What N_ref of an item rests on with limited-buffer rate matching, beside its code blocks: the cell's PRBs and layers, and the order
(TS 38.212 clause 5.4.2.1). -/
def Item.lim (i : Item) (f : CellCfg) : Option (List Nat) :=
  if i.lbrm then some [f.nprb, if i.ty = 0x11 then f.ulLayers else f.dlLayers, i.qm, i.nl, i.ty] else none

/-- The pages of a buffer, and the bytes of a code block in it (R270). -/
def Seg.cbBytes (g : Seg) (lim : Option (List Nat)) : Nat := ceilDiv (g.ncb lim) 64 * 64
def Seg.pages (g : Seg) (lim : Option (List Nat)) : Nat := ceilDiv (g.c * g.cbBytes lim) 65536

/-- The domain offset of a byte of a buffer's page chain. -/
def CellCfg.bufAt (f : CellCfg) (pages : List Nat) (off : Nat) : Nat :=
  65536 * (f.harqPage + f.harqTable + pages.getD (off / 65536) 0) + off % 65536

/-- A code block's buffer in HBM. -/
def State.bufOf (s : State) (x : PhyCtx) (pages : List Nat) (g : Seg) (lim : Option (List Nat)) (cb : Nat) : List Int :=
  (rangeFrom 0 (g.ncb lim)).map fun k => signed (s.byte .hbm (s.cellDom x.c) (x.f.bufAt pages (cb * g.cbBytes lim + k))).toNat 8

/-- `combine` of R271: the buffer and the highest position written, plus 1. -/
def combine (g : Seg) (buf : List Int) (llr : List Int) (k0 : Nat) (new : Bool) : List Int × Nat :=
  let ncb := buf.length
  let b0 := if new then (rangeFrom 0 ncb).map fun i => if g.filler i then 127 else 0 else buf
  let nextPos := fun p => ((rangeFrom 0 ncb).find? fun i => !g.filler ((p + i) % ncb)).map fun i => (p + i) % ncb
  let r := llr.foldl (fun (a : List Int × Nat × Nat) v =>
    match nextPos a.2.1 with
    | none => a
    | some p => (a.1.set p (max (-127) (min 127 (a.1.getD p 0 + v))), (p + 1) % ncb, max a.2.2 (p + 1))) (b0, k0 % max 1 ncb, 0)
  (r.1, r.2.2)

/-- The pool pages that an item's new buffer takes: the lowest that no context uses; none when they are too few (R270, R272). -/
def State.newPages (s : State) (x : PhyCtx) (n : Nat) : Option (List Nat) :=
  let free := ((rangeFrom 0 x.f.pool).filter fun p => !(s.cell x.c).harqUsed.contains p).take n
  if free.length < n then none else some free

/-- Decoder cycles of a code block for an iteration count (R278). -/
def Seg.ncol (g : Seg) (extent : Nat) : Nat := min (if g.bg = 0 then 68 else 52) (2 + ceilDiv extent g.zc)
def Seg.rows (g : Seg) (extent : Nat) : Nat :=
  if g.bg = 0 then max 4 (min 46 (g.ncol extent - 22)) else max 4 (min 42 (g.ncol extent - 10))
def cbCycles (g : Seg) (extent iters : Nat) : Nat := 16 + iters * g.rows extent * ceilDiv g.zc 192

/-- A code block waits for a decoder. -/
def SlotJob.waits (j : SlotJob) (b : CodeBlock) : Bool :=
  b.unit.isNone && !((j.items[b.item]?).any fun i => i.cbDone.contains b.cb)

/-- The queued decoder work of a slot, at LDPC_MAX_ITER (R287). -/
def Cell.jobBacklog (x : Cell) (j : SlotJob) : Nat :=
  match x.cfgAt j.n with
  | none => 0
  | some f => sumList ((j.cblocks.filter j.waits).map fun b => match j.items[b.item]? with
    | some i => cbCycles i.seg i.extent f.ldpcMaxIter
    | none => 0)

/-- MAX_BACKLOG raised to the work queued now. -/
def State.noteBacklog (s : State) : State :=
  let w := sumList (s.cells.map fun e => sumList (e.2.slots.map e.2.jobBacklog))
  if s.fld F.RAD_DEC_BACKLOG_MAX_BACKLOG < w then s.setFld F.RAD_DEC_BACKLOG_MAX_BACKLOG (min w (2 ^ 32 - 1)) else s

/-- What an item's flag counts (R287, R524). -/
def State.countHarq (s : State) (d fl : Nat) : State :=
  let s := if bit fl 3 then ((s.addFld F.RAD_HARQ_EVENTS_MISMATCH 1).count 0x06B (some d) 1).count 0x1CF none 1 else s
  if bit fl 4 then ((s.addFld F.RAD_HARQ_EVENTS_NOBUF 1).count 0x06A (some d) 1).count 0x1CE none 1 else s

/-- A pool page outside the pool that a held context's chain names, as the domain offset that an access of it would have (R270, R287). -/
def State.ctxBad (s : State) (x : PhyCtx) (i : Item) : Option Nat :=
  ((s.ctxPages (s.cellDom x.c) x.f i.ctx).find? fun p => decide (x.f.pool ≤ p)).map fun p => x.f.bufAt [p] 0

/-- A PUSCH item takes its context before its first code block is combined: the row of R272 and its flags; a retransmission keeps the pages, and
new data frees the old ones and takes new ones. -/
def State.takeCtx (s : State) (x : PhyCtx) (k : Nat) (i : Item) : State :=
  let d := s.cellDom x.c
  let e := s.ctxEntry d x.f i.ctx
  let row := ctxRow e i
  let old := s.ctxPages d x.f i.ctx
  let s := if row.2 then s else s.freeCtx x.c d x.f i.ctx
  let pages := if row.2 then some old else s.newPages x (i.seg.pages (i.lim x.f))
  let fl := match pages with
    | some _ => row.1
    | none => row.1 + 16
  let s := s.modCell x.c fun y => { y with harqUsed := (y.harqUsed ++ pages.getD []).eraseDups }
  let ext := if row.2 then fieldAt e 14 2 else 0
  (s.modItem x.c x.n true k fun i => { i with harq := fl, queued := true, pages := pages.getD [], extent := ext }).countHarq d fl

/-! ### Soft bits of UCI and of data (R269) -/

/-- The data symbols of an item: those with data elements. -/
def Item.dataRes (i : Item) (x : PhyCtx) (y : Nat) : List Nat :=
  (Config.standard stdDataRes (i.argsAt x.f x.n ++ [(y : Int)])).map Int.toNat
def Item.dataSyms (i : Item) (x : PhyCtx) : List Nat := (rangeFrom i.sym0 i.nsym).filter fun y => i.dataRes x y != []

/-- The soft bits of all of an item's data elements. -/
def Item.totalSoft (i : Item) (x : PhyCtx) : Nat := sumList ((i.dataSyms x).map fun y => (i.dataRes x y).length) * i.qm * i.nl

/-- The bit counts of the parts of a UCI (R215, R216): on PUSCH HARQ-ACK, CSI part 1 and CSI part 2; on PUCCH HARQ-ACK, SR and CSI part 1
together, and CSI part 2 (TS 38.212 clause 6.3). -/
def Item.uciParts (i : Item) : List Nat :=
  match i.ty with
  | 0x11 => [i.f 50 2, i.f 52 2, i.f 54 2]
  | 0x12 => [i.f 22 2 + i.f 24 2 + i.f 26 2, i.f 28 2]
  | _ => []

/-- The places of the data bits among an item's soft bits, none for a bit that UCI replaces, and the places of a part of its UCI (TS 38.212
clause 6.2.7). -/
def Item.dataPlaces (i : Item) (x : PhyCtx) : List (Option Nat) :=
  if sumList i.uciParts = 0 then (rangeFrom 0 (i.totalSoft x)).map some
  else (Config.standard stdDataPlaces (i.argsAt x.f x.n ++ [(i.totalSoft x : Int)])).map fun p => if p < 0 then none else some p.toNat
def Item.uciPlaces (i : Item) (x : PhyCtx) (part : Nat) : List Nat :=
  (Config.standard stdUciPlaces (i.argsAt x.f x.n ++ [(i.totalSoft x : Int), part])).map Int.toNat

/-- The places of code block r's soft bits. -/
def Item.blockPlaces (i : Item) (x : PhyCtx) (r : Nat) : List (Option Nat) :=
  let pl := i.dataPlaces x
  let e := fun q => i.seg.e pl.length i.nl i.qm q
  (pl.drop (sumList ((rangeFrom 0 r).map e))).take (e r)

/-- The code blocks whose last soft bit is among the first n. -/
def Item.blocksBy (i : Item) (x : PhyCtx) (n : Nat) : List Nat :=
  (rangeFrom 0 i.seg.c).filter fun r => (i.blockPlaces x r).all fun p => match p with
    | some q => decide (q < n)
    | none => true

/-- A code block combined and queued for decoding (R271). -/
def State.combineBlock (s : State) (x : PhyCtx) (k r : Nat) (i : Item) : State :=
  let g := i.seg
  let lim := i.lim x.f
  let ncb := g.ncb lim
  let new := !bit i.harq 1
  let llr := (i.blockPlaces x r).map fun p => match p with
    | some q => i.soft.getD q 0
    | none => 0
  let res := combine g (if new then List.replicate ncb 0 else s.bufOf x i.pages g lim r) (deinterleave llr i.qm) (g.k0 ncb i.rv) new
  let s := s.modItem x.c x.n true k fun i => { i with extent := max i.extent res.2 }
  s.modSlotJob x.c x.n true fun j => { j with cblocks := j.cblocks ++ [⟨k, r, res.1, none, [], 0, 0, false, 0, false, 0⟩] }

/-- The code blocks whose last soft bit has come are combined and queued, each as it is complete (R271); a context of a page outside its pool ends
the item (R287). -/
def State.queueBlocks (s : State) (x : PhyCtx) (k : Nat) : State :=
  match s.ulItem x.c x.n k with
  | none => s
  | some (i, _, j) =>
    let due := (i.blocksBy x i.soft.length).filter fun r => !(j.cblocks.any fun b => b.item == k && b.cb == r)
    if due = [] then s
    else
      match if i.queued then none else s.ctxBad x i with
      | some off => s.ulMemFails x k i (causePageBounds, off)
      | none =>
        let s := if i.queued then s else s.takeCtx x k i
        let i := ((s.ulItem x.c x.n k).map (·.1)).getD i
        (due.foldl (fun s r => s.combineBlock x k r i) s).noteBacklog

/-! ### Polar and small-block codes (R280, R281) -/

/-- u times the m-th power of the polar kernel. -/
def polarEnc : Nat → List Bool → List Bool
  | 0, u => u
  | m + 1, u =>
    let b := polarEnc m (u.drop (2 ^ m))
    List.zipWith xor (polarEnc m (u.take (2 ^ m))) b ++ b

/-- The LLR of the next bit of a code of length 2^m, after the bits decided, from those of the code word: the smaller magnitude with the product
of the signs for the first half, and the sum or difference for the second (log entry 88). -/
def polarLlr : Nat → List Int → List Bool → Int
  | 0, l, _ => l.headD 0
  | m + 1, l, u =>
    let a := l.take (2 ^ m)
    let b := l.drop (2 ^ m)
    if u.length < 2 ^ m then
      polarLlr m (List.zipWith (fun x y => (if (x < 0) = (y < 0) then 1 else -1) * min (x.natAbs : Int) y.natAbs) a b) u
    else
      let v := polarEnc m (u.take (2 ^ m))
      polarLlr m (List.zipWith (fun (p : Int × Int) w => p.2 + if w then -p.1 else p.1) (List.zip a b) v) (u.drop (2 ^ m))

/-- A path of the list decoder: its bits and its metric. -/
structure PolarPath where
  u : List Bool
  pm : Int
deriving DecidableEq, Repr

/-- The value of a parity-check bit after the bits decided: a register of five bits that information bits enter (TS 38.212 clause 5.3.1.2). -/
def polarPc (kinds : List Int) (u : List Bool) : Bool :=
  let turnOne := fun (y : List Bool) => y.drop 1 ++ y.take 1
  let y := (List.zip kinds u).foldl (fun (y : List Bool) p =>
    let y := turnOne y
    if p.1 = 1 then y.set 0 (xor (y.getD 0 false) p.2) else y) (List.replicate 5 false)
  (turnOne y).getD 0 false

/-- One bit of every path: kind 0 frozen, 1 information, 2 parity check. A decision against the LLR's sign costs its magnitude; the eight paths of
least metric stay, ties to the lower path (R280). -/
def polarStep (m : Nat) (l : List Int) (kinds : List Int) (paths : List PolarPath) (kind : Int) : List PolarPath :=
  let grow := fun (p : PolarPath) (b : Bool) =>
    let z := polarLlr m l p.u
    (⟨p.u ++ [b], p.pm + if b = decide (z < 0) then 0 else z.natAbs⟩ : PolarPath)
  let all := paths.flatMap fun p =>
    if kind = 1 then [grow p false, grow p true] else [grow p (kind = 2 && polarPc kinds p.u)]
  (sortBy (fun a b => decide (a.pm ≤ b.pm)) all).take 8

/-- The CRC of a UCI of a bits: 6 bits up to 19 and 11 from 20 on (TS 38.212 clause 6.3.1.2). -/
def uciCrc (a : Nat) : Nat × Nat := if a < 20 then (0x21, 6) else (0x621, 11)

/-- List decoding of size 8 of one code block: the information bits of the first path whose CRC passes, else of the best one, and whether it
passes (R280). -/
def polarDecode (a : Nat) (l kinds : List Int) : List Bool × Bool :=
  let m := Nat.log2 kinds.length
  let paths := kinds.foldl (polarStep m l kinds) [⟨[], 0⟩]
  let infos := paths.map fun p => ((List.zip kinds p.u).filter fun q => q.1 == 1).map (·.2)
  let crc := uciCrc a
  let good := infos.find? fun b => crcRem crc.1 crc.2 b == 0
  let b := good.getD (infos.headD [])
  (b.take (b.length - crc.2), good.isSome)

/-- The soft bits of a part of an item's UCI (R269): of a PUSCH those set apart, of a PUCCH what its samples give. -/
def State.uciSoft (s : State) (x : PhyCtx) (i : Item) (part : Nat) : List Int :=
  if i.ty = 0x11 then (i.uciPlaces x part).map fun q => i.soft.getD q 0
  else Config.standard stdUciSoft (i.argsAt x.f x.n ++ [(part : Int)] ++ (s.itemSamples x i).map Int.ofNat)

/-- The code blocks of a part of a bits on e soft bits: the kinds of the mother code's bits for each (TS 38.212 clause 6.3.1). -/
def polarKinds (a e : Nat) : List (List Int) :=
  (rangeFrom 0 ((std stdPolarBlocks [a, e]).headD 1).toNat).map fun b => std stdPolarInfo [a, e, b]

/-- A UCI part of 12 bits or more decoded: its bits, and whether the CRC of every block passes. -/
def polarPart (a : Nat) (soft : List Int) : List Bool × Bool :=
  let e := soft.length
  let ks := polarKinds a e
  let r := (rangeFrom 0 ks.length).map fun (b : Nat) =>
    polarDecode a (Config.standard stdPolarRate ([(a : Int), (e : Int), (b : Int)] ++ soft)) (ks.getD b [])
  let bits := r.flatMap (·.1)
  (bits.drop (bits.length - a), r.all (·.2))

/-- The best of 2^a values by a metric, the lowest of equal ones, and its metric. -/
def bestValue (a : Nat) (metric : Nat → Int) : Nat × Int :=
  (rangeFrom 1 (2 ^ a - 1)).foldl (fun (b : Nat × Int) v => if b.2 < metric v then (v, metric v) else b) (0, metric 0)

/-- The bits of a value, the first of them bit 0. -/
def valueBits (a v : Nat) : List Bool := (rangeFrom 0 a).map (bit v)

/-- A UCI part of up to 11 bits: the value whose code word, repetition, simplex or (32, 11) block code, correlates best, and its metric (R281). -/
def smallPart (i : Item) (a : Nat) (soft : List Int) : List Bool × Int :=
  let metric := fun v =>
    let c := std stdSmallCode [a, soft.length, i.qm, v]
    (List.zipWith (fun x b => if b = 1 then -x else x) soft c).foldl (· + ·) 0
  let b := bestValue a metric
  (valueBits a b.1, b.2)

/-- PUCCH formats 0 and 1: the value whose sequence correlates best with the samples, summed in power over the streams, and that power as FP32
(R281). -/
def State.seqPart (s : State) (x : PhyCtx) (i : Item) (a : Nat) : List Bool × Nat :=
  let power := fun v =>
    let l := Config.standard stdPucchSeq (i.argsAt x.f x.n ++ [Int.ofNat v])
    let e := fives l.length l
    treeSum ((rangeFrom 0 x.f.ulStreams).map fun r => match s.despread x r e with
      | some z => cabs2 z
      | none => 0)
  let b := (rangeFrom 1 (2 ^ a - 1)).foldl (fun (b : Nat × Nat) v => if fgt (power v) b.2 then (v, power v) else b) (0, power 0)
  (valueBits a b.1, b.2)

/-- The best metric lies less than UCI_DTX_THR above the noise estimate (R281). -/
def State.uciDtx (s : State) (x : PhyCtx) (i : Item) (metric : Nat) : Bool :=
  fgt (fmul (Config.radioMeasure measNoise (s.itemSamples x i)) (pow10F (2 * (x.f.dtxThr : Int)))) metric

/-- The parts of an item's UCI that are not decoded, and those of them for a polar unit. -/
def Item.partsLeft (i : Item) : List Nat :=
  (rangeFrom 0 i.uciParts.length).filter fun p => decide (0 < i.uciParts.getD p 0) && !(i.uci.any fun u => u.1 == p)
def Item.polarPart? (i : Item) : Option Nat :=
  if i.ty = 0x12 ∧ i.f 16 1 < 2 then none else i.partsLeft.find? fun p => decide (12 ≤ i.uciParts.getD p 0)
def Item.smallParts (i : Item) : List Nat :=
  i.partsLeft.filter fun p => (i.ty == 0x12 && decide (i.f 16 1 < 2)) || decide (i.uciParts.getD p 0 < 12)

/-- A part of an item's UCI decoded. -/
def State.putUci (s : State) (x : PhyCtx) (k p : Nat) (bits : List Bool) (ok : Bool) : State :=
  s.modItem x.c x.n true k fun i => { i with uci := i.uci ++ [(p, bits, ok)] }

/-- The parts of a PUSCH's UCI of up to 11 bits decoded once its last data symbol is equalized (R269, R281). Its one indication is UL_TB, which
reports no UCI (R218, log entry 91). -/
def State.puschUci (s : State) (x : PhyCtx) (k : Nat) : State :=
  match s.ulItem x.c x.n k with
  | none => s
  | some (i, _, _) =>
    if i.soft.length = i.totalSoft x then
      i.smallParts.foldl (fun s p => s.putUci x k p (smallPart i (i.uciParts.getD p 0) (s.uciSoft x i p)).1 true) s
    else s

/-! ### EQUALIZE -/

/-- An earlier slot's item on the same context is still decoding (R273). -/
def Cell.ctxBusy (x : Cell) (n ctx : Nat) : Bool :=
  x.slots.any fun j => j.up && decide (j.n < n) && j.items.any fun i => i.ty == 0x11 && i.ctx == ctx && !i.settled

/-- The PUSCH items of a symbol that are not over, with their index. -/
def SlotJob.puschAt (j : SlotJob) (sym : Nat) : List (Nat × Item) :=
  (rangeFrom 0 j.items.length).filterMap fun k => match j.items[k]? with
    | some i => if i.ty = 0x11 ∧ i.covers sym ∧ i.settled = false then some (k, i) else none
    | none => none

/-- An item may be equalized on a symbol: estimated, its phase over, its earlier data symbols done, and its context free when a code block is
complete with it (R257, R262, R273). -/
def State.eqReady (s : State) (x : PhyCtx) (sym : Nat) (i : Item) : Bool :=
  let soft := i.soft.length + (i.dataRes x sym).length * i.qm * i.nl
  i.st == .prepared && (s.phaseState x.c x.n i).isSome
    && ((i.dataSyms x).filter fun y => decide (y < sym)).all i.syms.contains && !i.syms.contains sym
    && (i.blocksBy x soft == [] || !(s.cell x.c).ctxBusy x.n i.ctx)

/-- The soft bits of a symbol added to an item, and the code blocks and UCI parts that are complete with it taken on. -/
def State.eqItem (s : State) (x : PhyCtx) (sym : Nat) (out : List (Nat × List Layer × List EqOut)) (k : Nat) (i : Item) : State :=
  let res := i.dataRes x sym
  let mine := out.filter fun o => res.contains o.1
  let by_ := (i.layers k).map fun l => mine.filterMap fun o =>
    match (rangeFrom 0 o.2.1.length).find? fun q => o.2.1[q]? == some l with
    | some q => o.2.2.find? fun e => e.layer == q
    | none => none
  let soft := softBits x.f i by_ i.soft.length
  let sn := (by_.map (deprecode i)).flatten.map EqOut.sinr
  let s := s.modItem x.c x.n true k fun i => { i with syms := sym :: i.syms, soft := i.soft ++ soft, sinrs := i.sinrs ++ sn }
  (s.queueBlocks x k).puschUci x k

/-- The items of a symbol whose phase failed (R220). -/
def State.failModels (s : State) (x : PhyCtx) (l : List (Nat × Item)) : State :=
  l.foldl (fun s p => if s.phaseState x.c x.n p.2 = some false then s.ulTbFails x.c x.n p.1 stModelFault p.2 else s) s

/-- The symbols that can be equalized: cell slot, slot and symbol, each with its place in the order of decode deadline, cell slot, item and
symbol (R267). -/
def State.eqQueue (s : State) : List (List Nat × Nat × Nat × Nat) :=
  s.cells.flatMap fun e => (e.2.slots.filter SlotJob.up).flatMap fun j =>
    match e.2.cfgAt j.n with
    | none => []
    | some f => j.handed.filterMap fun y =>
      let l := j.puschAt y
      if l ≠ [] ∧ (l.all fun p => s.eqReady ⟨e.1, f, j.n⟩ y p.2) = true then
        some ([s.decodeDeadline f j.n, e.1, (l.head?.map (·.1)).getD 0, y], e.1, j.n, y)
      else none

/-- The symbol that the equalizer serves next. -/
def State.eqNext (s : State) : Option (Nat × Nat × Nat) := (minBy (fun q : List Nat × Nat × Nat × Nat => q.1) s.eqQueue).map (·.2)

/-- The layers of a symbol's items detected, for the time that the equalizer takes (R264 to R269). -/
def State.equalizeItems (s : State) (x : PhyCtx) (sym : Nat) (good : List (Nat × Item)) : State :=
  let ls := good.flatMap fun p => (p.2.layers p.1).map fun a => (a, p.2.dataRes x sym)
  let ks := (ls.flatMap (·.2)).eraseDups
  let out := ks.map fun k => let a := layersAt ls k; let r := s.eqAt x a sym k; (k, a, r)
  let st := maxList (out.map fun o => o.2.2.2)
  let nl := maxList (out.map fun o => o.2.1.length)
  let cyc := eqCycles ks.length ((ks.map (· / x.f.eqGroup)).eraseDups.length) nl st x.f.ulStreams
  let s := ((s.wait (5 * cyc)).addFld F.RAD_EQ_RE_RE ks.length).chargeRadio (s.cellDom x.c) cyc
  let s := ((s.count 0xD60 none 1).count 0xD61 none cyc).count 0xD62 none 1
  let s := (s.count 0xD68 none 1).count 0xD6A none 1
  good.foldl (fun s p => s.eqItem x sym (out.map fun o => (o.1, o.2.1, o.2.2.1)) p.1 p.2) s

/-- EQUALIZE: the layers of a handed-off symbol, in its turn (R264 to R269), for the time that the equalizer takes (R267); the items whose phase
failed end first (R220). -/
def State.equalizeSym (s : State) (c n sym : Nat) : State :=
  let y := s.cell c
  match y.job? n true, y.cfgAt n with
  | some j, some f =>
    let x : PhyCtx := ⟨c, f, n⟩
    let l := j.puschAt sym
    if s.unitOff ⟨ucEq, 0⟩ || s.unitOff ⟨ucDemap, 0⟩ || s.eqNext != some (c, n, sym) then s
    else
      let s := (s.meetErrors (s.cellDom c) (f.slotArea n) f.areaBytes).failModels x l
      let l := (((s.cell c).job? n true).map fun j => j.puschAt sym).getD []
      let good := l.filter fun p => (s.ulMemFault x p.2).isNone
      let s := (l.filter fun p => (s.ulMemFault x p.2).isSome).foldl (fun s p => s.ulMemFails x p.1 p.2 ((s.ulMemFault x p.2).getD (0, 0))) s
      if good = [] then s else s.equalizeItems x sym good
  | _, _ => s

def execEqualize (cell n sym : Nat) (s : State) : Host.Outcome State Fault Refusal := .next (s.equalizeSym cell n sym).limitStacks

/-! ### LDPC decoding (R276 to R279) -/

/-- The columns of a lifted check. -/
def checkCols (g : Seg) (row c : Nat) : List Nat := (std stdCheck [g.bg, g.zc, row, c]).map Int.toNat

/-- The key of a message. -/
def msgKey (row c v : Nat) : Nat := (row * 512 + c) * 32768 + v

/-- One lifted check of `decode_iteration`: messages are held to 8 bits and posteriors to 10. -/
def decodeCheck (g : Seg) (row c : Nat) (a : List Int × Tab Int) : List Int × Tab Int :=
  let vs := checkCols g row c
  let t := vs.map fun v => a.1.getD v 0 - Tab.getD a.2 (msgKey row c v) 0
  (rangeFrom 0 vs.length).foldl (fun (b : List Int × Tab Int) q =>
    let v := vs.getD q 0
    let others := ((rangeFrom 0 vs.length).filter (· != q)).map fun u => t.getD u 0
    let mags := others.map Int.natAbs
    let m := mags.foldl min (mags.headD 0)
    let sg : Int := if (others.countP fun z => decide (z < 0)) % 2 = 0 then 1 else -1
    let r := sg * ((min 127 (3 * m / 4) : Nat) : Int)
    (b.1.set v (max (-511) (min 511 (t.getD q 0 + r))), Tab.set b.2 (msgKey row c v) r)) a

/-- `decode_iteration` of R276. -/
def decodeIteration (g : Seg) (rows : Nat) (a : List Int × Tab Int) : List Int × Tab Int :=
  (rangeFrom 0 rows).foldl (fun a row => (rangeFrom 0 g.zc).foldl (fun a c => decodeCheck g row c a) a) a

/-- The syndrome over the active rows is zero (R277). -/
def syndromeZero (g : Seg) (rows : Nat) (p : List Int) : Bool :=
  (rangeFrom 0 rows).all fun row => (rangeFrom 0 g.zc).all fun c =>
    ((checkCols g row c).countP fun v => decide (p.getD v 0 < 0)) % 2 == 0

/-- The information bits of a decision, without filler. -/
def infoBits (g : Seg) (p : List Int) : List Bool := (rangeFrom 0 g.kPrime).map fun v => decide (p.getD v 0 < 0)

/-- The iterations of a code block: the posteriors, how many ran, and why it stopped: 3 the guard, 4 the syndrome, 5 the CRC, 6 the limit
(R277, R524). -/
def decodeLoop (g : Seg) (rows et maxIter cap : Nat) : Nat → Nat → List Int × Tab Int → List Int × Nat × Nat
  | 0, k, a => (a.1, k, 6)
  | n + 1, k, a =>
    let b := decodeIteration g rows a
    let k := k + 1
    if bit et 0 && syndromeZero g rows b.1 then (b.1, k, 4)
    else if bit et 1 && decide (1 < g.c) && crc24B (infoBits g b.1) == 0 then (b.1, k, 5)
    else if maxIter ≤ k then (b.1, k, 6)
    else if cap ≤ k then (b.1, k, 3)
    else decodeLoop g rows et maxIter cap n k b

/-- The iterations that can end by the guard point, at least one (R277). -/
def State.iterCap (s : State) (f : CellCfg) (n : Nat) (g : Seg) (ext : Nat) : Nat :=
  let lim := s.decodeDeadline f n - f.decGuard * 1000 * 65536
  let cyc := (lim - s.tai16) * 6 / (5 * 65536)
  max 1 ((cyc - 16) / (g.rows ext * ceilDiv g.zc 192))

/-- What a decoder finds of a code block (R276, R277). -/
def State.decodeBlock (s : State) (f : CellCfg) (n : Nat) (i : Item) (b : CodeBlock) : CodeBlock :=
  let g := i.seg
  let p := List.replicate (2 * g.zc) 0 ++ b.llr ++ List.replicate (g.n - b.llr.length) 0
  let rows := g.rows i.extent
  let r := decodeLoop g rows f.ldpcEt f.ldpcMaxIter (s.iterCap f n g i.extent) f.ldpcMaxIter 0 (p, [])
  let bits := infoBits g r.1
  { b with
    bits := bits, iters := r.2.1, stop := r.2.2, extent := i.extent
    ok := if g.c > 1 then crc24B bits == 0 else (if g.tbCrc = 24 then crc24A bits == 0 else crc16 bits == 0)
    doneAt := s.now + 5 * cbCycles g i.extent r.2.1 }

/-- A code block in the queue: its deadline, cell slot, slot and place. -/
structure QBlock where
  dl : Nat
  c : Nat
  n : Nat
  f : CellCfg
  i : Item
  b : CodeBlock
deriving DecidableEq, Repr

/-- The blocks that wait. -/
def State.waitingBlocks (s : State) : List QBlock :=
  s.cells.flatMap fun e => e.2.slots.flatMap fun j =>
    match e.2.cfgAt j.n with
    | none => []
    | some f => (j.cblocks.filter j.waits).filterMap fun b => (j.items[b.item]?).map fun i => ⟨s.decodeDeadline f j.n, e.1, j.n, f, i, b⟩

/-- The decoders in use. -/
def State.decBusy (s : State) : List Nat := s.cells.flatMap fun e => e.2.slots.flatMap fun j => j.cblocks.filterMap CodeBlock.unit

/-- A code block of a slot changed. -/
def State.modBlock (s : State) (c n k cb : Nat) (g : CodeBlock → CodeBlock) : State :=
  s.modSlotJob c n true fun j => { j with cblocks := j.cblocks.map fun b => if b.item = k ∧ b.cb = cb then g b else b }

/-- CODE_BLOCK_DECODE: a free decoder takes the block of the earliest decode deadline (R278). -/
def State.codeBlockDecode (s : State) : State :=
  match (s.unitsOn ucDec).find? fun u => !s.decBusy.contains u, minBy (fun q : QBlock => [q.dl, q.c, q.b.item, q.b.cb]) s.waitingBlocks with
  | some u, some q => s.modBlock q.c q.n q.b.item q.b.cb fun b => { s.decodeBlock q.f q.n q.i b with unit := some u }
  | _, _ => s

def execCodeBlockDecode (s : State) : Host.Outcome State Fault Refusal := .next s.codeBlockDecode

/-- The counters of a decoded block (R287, R524). -/
def State.countBlock (s : State) (d u cyc : Nat) (b : CodeBlock) : State :=
  let s := (s.addFld F.RAD_DEC_CBS_CBS 1).addFld F.RAD_DEC_ITERS_ITERS b.iters
  let s := if b.ok then s else (s.addFld F.RAD_DEC_FAIL_CB_FAIL 1).count (0x182 + 8 * u) none 1
  let s := if b.stop = 3 then (s.addFld F.RAD_DEC_FAIL_ITER_CUT 1).count 0x069 (some d) 1 else s
  let s := ((s.count (0x180 + 8 * u) none 1).count (0x181 + 8 * u) none b.iters).count (0x180 + 8 * u + b.stop) none 1
  ((s.count (0x187 + 8 * u) none cyc).count 0x067 (some d) 1).count 0x068 (some d) b.iters

/-- A context entry of 16 bytes (R270). -/
def ctxBytes (i : Item) (first : Nat) (held : Bool) (tx ext : Nat) : List Byte :=
  toLe 4 i.tbs ++ toLe 4 first ++ toLe 2 i.seg.zc ++ toLe 2 i.seg.c
    ++ toLe 1 (b2n held + 2 * b2n i.ndi + 4 + 8 * i.bg + 16 * b2n i.lbrm) ++ toLe 1 (min tx 255) ++ toLe 2 ext

/-- A chain's page-map entries. -/
def State.writeChain (s : State) (x : PhyCtx) : List Nat → State
  | [] => s
  | p :: t =>
    (s.store .hbm (s.cellDom x.c) (x.f.mapAt p) (toLe 4 (t.headD 0xFFFFFFFF))).writeChain x t

/-- A buffer written to its pages. -/
def State.writeBuffer (s : State) (x : PhyCtx) (i : Item) (bl : List CodeBlock) : State :=
  bl.foldl (fun s b =>
    (rangeFrom 0 b.llr.length).foldl (fun s k =>
      s.store .hbm (s.cellDom x.c) (x.f.bufAt i.pages (b.cb * i.seg.cbBytes (i.lim x.f) + k)) [BitVec.ofInt 8 (b.llr.getD k 0)]) s) s

/-- The context of an item after its decoding (R272). -/
def State.closeCtx (s : State) (x : PhyCtx) (i : Item) (bl : List CodeBlock) (ok : Bool) : State :=
  let d := s.cellDom x.c
  let e := s.ctxEntry d x.f i.ctx
  let old := s.ctxPages d x.f i.ctx
  let keep := !ok && !bit i.harq 4
  let gone := if keep then old.filter fun p => !i.pages.contains p else old ++ i.pages
  let s := s.modCell x.c fun y => { y with harqUsed := y.harqUsed.filter fun p => !gone.contains p }
  let tx := if bit i.harq 1 then fieldAt e 13 1 + 1 else 1
  let s := s.count 0xD70 none 1
  if keep then
    ((s.writeBuffer x i bl).writeChain x i.pages).store .hbm d (x.f.ctxAt i.ctx) (ctxBytes i (i.pages.headD 0xFFFFFFFF) true tx i.extent)
  else s.store .hbm d (x.f.ctxAt i.ctx) (ctxBytes i 0xFFFFFFFF false tx i.extent)

/-- The transport block of an item: its bits, and whether its CRC passes (R279). -/
def tbOf (i : Item) (bl : List CodeBlock) : List Bool × Bool :=
  let g := i.seg
  let bits := (rangeFrom 0 g.c).flatMap fun r => match bl.find? fun b => b.cb == r with
    | some b => if g.c > 1 then b.bits.take (g.kPrime - 24) else b.bits
    | none => []
  (bits.take i.tbs, if g.tbCrc = 24 then crc24A bits == 0 else crc16 bits == 0)

/-- The timing offset of a PUSCH: the phase slope of its LS values across subcarriers, over layers and streams, in ns (R263). -/
def State.timingOffset (s : State) (x : PhyCtx) (i : Item) : Nat :=
  Config.radioMeasure measSlope <| x.f.mu :: (rangeFrom 0 (dmrsGroups i.dmrsSyms).length).flatMap fun d =>
    i.ports.flatMap fun p => (rangeFrom 0 x.f.ulStreams).flatMap fun r =>
      i.carriers.flatMap fun k => match s.lsAt x i p d r k with
        | some h => [k, h.1, h.2]
        | none => []

/-- The last code block of an item: the transport block written and reported (R272, R275, R279). -/
def State.finishTb (s : State) (x : PhyCtx) (k : Nat) (i : Item) (bl : List CodeBlock) : State :=
  let d := s.cellDom x.c
  let tb := tbOf i bl
  let p := s.resultBytes x.c (bytesOf (ceilDiv i.tbs 8) tb.1)
  let s := p.2.dmaWrite x.f.inst (s.slotRing x) d i.dataAddr p.1
  let s := s.closeCtx x i bl tb.2
  let s := s.modSlotJob x.c x.n true fun j => { j with cblocks := j.cblocks.filter fun b => b.item != k }
  let s := if tb.2 then s else (s.count 0x066 (some d) 1).count 0x1CC none 1
  let sinr := Config.radioMeasure measSinr i.sinrs
  s.ulItemEnds x.c x.n k stOk (b2n tb.2)
    (ulTbRest i sinr (s.timingOffset x i) (if i.seg.c > 1 then i.cbFail else b2n !tb.2))

/-- CODE_BLOCK_DECODED: a decoder is done with its code block. -/
def State.codeBlockDecoded (s : State) (c n k cb : Nat) : State :=
  match s.ulItem c n k with
  | none => s
  | some (i, f, j) =>
    match j.cblocks.find? fun b => b.item == k && b.cb == cb with
    | none => s
    | some b =>
      match b.unit with
      | none => s
      | some u =>
        let s := s.advanceTo b.doneAt
        let cyc := cbCycles i.seg b.extent b.iters
        let s := (s.countBlock (s.cellDom c) u cyc b).chargeRadio (s.cellDom c) cyc
        let i' := { i with
          cbDone := cb :: i.cbDone, cbFail := i.cbFail + b2n !b.ok, maxIter := max i.maxIter b.iters
          harq := if b.stop = 3 ∧ bit i.harq 5 = false then i.harq + 32 else i.harq }
        let s := (s.modBlock c n k cb fun b => { b with unit := none }).modItem c n true k fun _ => i'
        if i'.cbDone.length = i.seg.c then s.finishTb ⟨c, f, n⟩ k i' (j.cblocks.filter fun b => b.item == k) else s

def execCodeBlockDecoded (cell n item cb : Nat) (s : State) : Host.Outcome State Fault Refusal := .next (s.codeBlockDecoded cell n item cb)

/-! ### Uplink control information (R280, R281) -/

/-- A PUCCH item's UCI reported once every part is decoded: DTX, the flags of the CRCs that it carries, SR, SINR and payload, a long payload at
DATA_ADDR (R217, R280, R281). -/
def State.uciReport (s : State) (x : PhyCtx) (k : Nat) (i : Item) (dtx : Bool) : State :=
  let part := fun p => ((i.uci.find? fun u => u.1 == p).map (·.2)).getD ([], false)
  let ack := i.f 22 2
  let sr := i.f 24 2
  let crc := fun p => decide (2 ≤ i.f 16 1) && decide (12 ≤ i.uciParts.getD p 0) && (part p).2
  let fl := b2n dtx + 2 * b2n (decide (0 < ack) && crc 0) + 4 * b2n (decide (0 < i.f 26 2) && crc 0)
    + 8 * b2n (decide (0 < i.f 28 2) && crc 1)
  let bits := (part 0).1.take ack ++ (part 0).1.drop (ack + sr) ++ (part 1).1
  let long := decide (256 < bits.length)
  let p := s.resultBytes x.c (bytesOf (ceilDiv bits.length 8) bits)
  let s := if long then p.2.dmaWrite x.f.inst (s.slotRing x) (s.cellDom x.c) i.dataAddr p.1 else s
  let s := if dtx then s.count 0x1CD none 1 else s
  s.ulItemEnds x.c x.n k stOk (fl + 16 * b2n long)
    (toLe 1 (byteOf (((part 0).1.drop ack).take sr)).toNat ++ toLe 2 (Config.radioMeasure measSinr (s.itemSamples x i)) ++ toLe 2 0
      ++ (if long then [] else bytesOf 32 bits))

/-- The small parts of a PUCCH's UCI decoded, with the metric of the best value as FP32; then the report, when no part is left (R281). -/
def State.pucchSmall (s : State) (x : PhyCtx) (k : Nat) (i : Item) : State :=
  let seq := decide (i.f 16 1 < 2)
  let r := i.smallParts.map fun p =>
    let a := i.uciParts.getD p 0
    if seq then let v := s.seqPart x i a; (p, v.1, v.2)
    else let v := smallPart i a (s.uciSoft x i p); (p, v.1, fcvt v.2)
  let dtx := r.any fun v => s.uciDtx x i v.2.2
  let i' := { i with uci := i.uci ++ r.map fun v => (v.1, v.2.1, true), harq := if dtx then 1 else i.harq }
  let s := s.modItem x.c x.n true k fun _ => i'
  if i'.partsLeft = [] then s.uciReport x k i' (i'.harq == 1) else s

/-- A PUCCH item ready to be detected: handed off, with its phase over. -/
def State.uciReady (s : State) (c n k : Nat) : Option (Item × CellCfg × Bool) :=
  match s.ulItem c n k with
  | none => none
  | some (i, f, j) => if i.ty = 0x12 ∧ j.allHanded i = true then (s.phaseState c n i).map fun b => (i, f, b) else none

/-- PUCCH_DETECT: formats 0 and 1, and small-block UCI (R281). -/
def State.pucchDetect (s : State) (c n k : Nat) : State :=
  match s.uciReady c n k with
  | none => s
  | some (i, f, ok) =>
    let s := s.meetErrors (s.cellDom c) (f.slotArea n) f.areaBytes
    if i.smallParts = [] ∧ i.partsLeft ≠ [] then s
    else if ok then
      match s.ulMemFault ⟨c, f, n⟩ i with
      | some flt => s.ulMemFails ⟨c, f, n⟩ k i flt
      | none => s.pucchSmall ⟨c, f, n⟩ k i
    else s.ulItemEnds c n k stModelFault 0 []

def execPucchDetect (cell n item : Nat) (s : State) : Host.Outcome State Fault Refusal := .next (s.pucchDetect cell n item).limitStacks

/-- A job of the polar units: its deadline, cell slot, slot, item, the part of its UCI, direction, and the length of its mother codes (R280). -/
structure PolarJob where
  dl : Nat
  c : Nat
  n : Nat
  k : Nat
  part : Nat
  up : Bool
  len : List Nat
deriving DecidableEq, Repr

/-- The cycles of a job on mother codes of given lengths (R280). -/
def polarCycles (l : List Nat) : Nat := sumList (l.map fun n => 64 + n * Nat.log2 n / 8)

/-- The time by which a downlink item's first section must leave (R238). -/
def State.leaveBy (s : State) (f : CellCfg) (n : Nat) (i : Item) : Nat := s.symTime f n i.sym0 - f.t1aUpMin * 65536

/-- The UCI of an item is ready for a polar unit: a PUCCH handed off with its phase over, a PUSCH with all its soft bits. -/
def State.polarReady (s : State) (c n k : Nat) (f : CellCfg) (i : Item) : Bool :=
  if i.ty = 0x11 then decide (0 < i.soft.length) && i.soft.length == i.totalSoft ⟨c, f, n⟩ else (s.uciReady c n k).isSome

/-- The length of the mother code of a DCI or a PBCH (TS 38.212 clauses 7.1 and 7.3). -/
def Item.polarLen (i : Item) : Nat := ((Config.standard stdPolarInfo i.args).length)

/-- The polar job of an item, where it has one that is ready. -/
def State.polarJob (s : State) (c n k : Nat) (f : CellCfg) (j : SlotJob) (i : Item) : Option PolarJob :=
  if j.up then
    match i.polarPart? with
    | some p =>
      if i.settled = false ∧ s.polarReady c n k f i = true then
        let e := (s.uciSoft ⟨c, f, n⟩ i p).length
        some ⟨s.decodeDeadline f n, c, n, k, p, true, (polarKinds (i.uciParts.getD p 0) e).map List.length⟩
      else none
    | none => none
  else if (i.ty = 0x02 ∨ i.ty = 0x03) ∧ i.st = .waiting ∧ i.cbDone = [] then some ⟨s.leaveBy f n i, c, n, k, 0, false, [i.polarLen]⟩
  else none

/-- A unit of a class that is in service and has no job in progress (R280, R282). -/
def State.freeUnit (s : State) (cls : Nat) (t : Tab EngJob) : Option Nat :=
  (s.unitsOn cls).find? fun u => match Tab.get? t u with
    | some e => decide (e.at_ ≤ s.now)
    | none => true

def State.polarJobs (s : State) : List PolarJob :=
  s.cells.flatMap fun e => e.2.slots.flatMap fun j =>
    match e.2.cfgAt j.n with
    | none => []
    | some f => (rangeFrom 0 j.items.length).filterMap fun k => (j.items[k]?).bind fun i => s.polarJob e.1 j.n k f j i

/-- A part of an item's UCI that a polar unit has decoded; a PUCCH is reported when no part is left (R280). -/
def State.polarDecoded (s : State) (u : Nat) (p : PolarJob) (x : PhyCtx) (i : Item) : State :=
  let r := polarPart (i.uciParts.getD p.part 0) (s.uciSoft x i p.part)
  let s := s.count (0x1D2 + 4 * u) none (b2n (decide (12 ≤ i.uciParts.getD p.part 0) && !r.2))
  let i' := { i with uci := i.uci ++ [(p.part, r.1, r.2)] }
  let s := s.modItem p.c p.n true p.k fun _ => i'
  if i.ty = 0x12 ∧ i'.partsLeft = [] then s.uciReport x p.k i' (i'.harq == 1) else s

/-- A UCI job of a polar unit: its result at its end, or what ends the item first (R220, R280, R291). -/
def State.polarUp (s : State) (u : Nat) (p : PolarJob) (i : Item) (f : CellCfg) : State :=
  let x : PhyCtx := ⟨p.c, f, p.n⟩
  let s := s.meetErrors (s.cellDom p.c) (f.slotArea p.n) f.areaBytes
  if s.phaseState p.c p.n i = some false then s.ulItemEnds p.c p.n p.k stModelFault 0 []
  else
    match if i.ty = 0x12 then s.ulMemFault x i else none with
    | some flt => s.ulMemFails x p.k i flt
    | none => s.polarDecoded u p x i

/-- POLAR_JOB: a free polar unit takes the job of the earliest deadline, for as long as it takes: an encode of DCI or PBCH, whose item can then be
precoded, or a decode of UCI, whose result comes at its end (R280; log entry 88). -/
def State.polarNext (s : State) : State :=
  match s.freeUnit ucPolar s.rad.polar, minBy (fun p : PolarJob => [p.dl, p.c, p.k, p.part]) s.polarJobs with
  | some u, some p =>
    let cyc := polarCycles p.len
    let done := s.now + 5 * cyc
    let s := { s with rad := { s.rad with polar := Tab.set s.rad.polar u ⟨p.c, p.n, p.k, p.part, done⟩ } }
    let s := s.chargeRadio (s.cellDom p.c) cyc
    if p.up then
      let s := ((s.addFld F.RAD_POLAR_JOBS_DECODES 1).count (0x1D1 + 4 * u) none 1).advanceTo done
      match s.ulItem p.c p.n p.k with
      | some (i, f, _) => s.polarUp u p i f
      | none => s
    else
      ((s.addFld F.RAD_POLAR_JOBS_ENCODES 1).count (0x1D0 + 4 * u) none 1).modItem p.c p.n false p.k fun i =>
        { i with cbDone := [0], ready := max i.ready done }
  | _, _ => s

def execPolarJob (s : State) : Host.Outcome State Fault Refusal := .next s.polarNext.limitStacks

end Sys2Proof.Machine
end

