-- ==== Sys2Proof/Machine/PhyDown.lean ====
section
/-! DEFINITION. The downlink chain (R282 to R285) and the faults of radio engines (R286). -/

namespace Sys2Proof.Machine

/-! ### Encoding (R282) -/

/-- A downlink item of an accepted slot that still waits. -/
def State.dlItem (s : State) (c n k : Nat) : Option (Item × CellCfg) :=
  let x := s.cell c
  match x.job? n false, x.cfgAt n with
  | some j, some f =>
    match j.items[k]? with
    | some i => if i.st = .waiting then some (i, f) else none
    | none => none
  | _, _ => none

/-- The cycles of an encoder on a code block of `e` bits: n_col as in R276, with E for EXTENT (R282). -/
def encCycles (g : Seg) (e : Nat) : Nat := 8 + ceilDiv (g.ncol e * g.zc) 2048

/-- The positions of the circular buffer that a code block's `e` bits are read from: from k0 on, past filler (TS 38.212 clause 5.4.2.1). -/
def Seg.readPlaces (g : Seg) (ncb : Nat) : Nat → Nat → List Nat
  | 0, _ => []
  | e + 1, p =>
    match ((rangeFrom 0 ncb).find? fun i => !g.filler ((p + i) % ncb)).map fun i => (p + i) % ncb with
    | none => []
    | some q => q :: g.readPlaces ncb e (q + 1)

/-- E of a code block of an item, and the places of its bits. -/
def Item.encE (i : Item) (x : PhyCtx) (cb : Nat) : Nat := i.seg.e (i.totalSoft x) i.nl i.qm cb
def Item.encPlaces (i : Item) (x : PhyCtx) (cb : Nat) : List Nat :=
  let ncb := i.seg.ncb (i.lim x.f)
  i.seg.readPlaces ncb (i.encE x cb) (i.seg.k0 ncb i.rv)

/-- A transport block with its CRC, and the information bits of a code block: its part, its CRC where there are several, and the filler, which
counts as 0 (R282, TS 38.212 clauses 5.1 and 5.2.2). -/
def crcBits (v w : Nat) : List Bool := (rangeFrom 0 w).map fun q => bit v (w - 1 - q)
def Item.tbBits (i : Item) : List Bool :=
  let a := (bitsOf i.data).take i.tbs
  a ++ if i.seg.tbCrc = 24 then crcBits (crc24A a) 24 else crcBits (crc16 a) 16
def Item.blockBits (i : Item) (cb : Nat) : List Bool :=
  let g := i.seg
  let per := if g.c > 1 then g.kPrime - 24 else g.kPrime
  let a := (i.tbBits.drop (cb * per)).take per
  let b := if g.c > 1 then a ++ crcBits (crc24B a) 24 else a
  b ++ List.replicate (g.k - b.length) false

/-- The coded bits of a code block, rate-matched and interleaved (R282, TS 38.212 clauses 5.3.2 and 5.4.2). -/
def Item.codedBits (i : Item) (x : PhyCtx) (cb : Nat) : List Bool :=
  let g := i.seg
  let b := i.blockBits cb
  let d := (b ++ (Config.standard stdParity ([(g.bg : Int), g.zc] ++ b.map fun v => (b2n v : Int))).map (· == 1)).drop (2 * g.zc)
  let e := (i.encPlaces x cb).map fun p => d.getD p false
  let w := e.length / i.qm
  (rangeFrom 0 e.length).map fun q => e.getD (q % i.qm * w + q / i.qm) false

/-- A code block of a PDSCH encoded on a free encoder, from the transport block at DATA_ADDR, for as long as the encoder takes. -/
def State.encodeBlock (s : State) (x : PhyCtx) (k cb u : Nat) (i : Item) (b : List Byte) : State :=
  let cyc := encCycles i.seg (i.encE x cb)
  let done := s.now + 5 * cyc
  let s := s.addFld F.RAD_ENC_CBS_CBS 1
  let s := ((s.count (0xD40 + 8 * u) none 1).count (0xD41 + 8 * u) none cyc).count (0xD42 + 8 * u) none 1
  let s := (if i.data = [] then s.dmaBytes (s.cellDom x.c) b.length else s).chargeRadio (s.cellDom x.c) cyc
  let s := { s with rad := { s.rad with enc := Tab.set s.rad.enc u ⟨x.c, x.n, k, cb, done⟩ } }
  s.modItem x.c x.n false k fun i => { i with
    cbDone := cb :: i.cbDone, data := if i.data = [] then b else i.data, ready := max i.ready done }

/-- ENCODE_CB, on the lowest encoder that is free (R282). -/
def State.encodeCb (s : State) (c n k cb : Nat) (block : HostRead) : State :=
  match s.dlItem c n k, s.freeUnit ucEnc s.rad.enc with
  | some (i, f), some u =>
    if i.ty = 0x01 ∧ cb < i.seg.c ∧ i.cbDone.contains cb = false then
      match block with
      | .data b => s.encodeBlock ⟨c, f, n⟩ k cb u i ((b ++ List.replicate (ceilDiv i.tbs 8) 0).take (ceilDiv i.tbs 8))
      | .timeout => s.readTimeout (s.cellDom c)
      | .denied _ => s.dmaNote causeDmaFault (s.cellDom c)
    else s
  | _, _ => s

def execEncodeCb (cell n item cb : Nat) (block : HostRead) (s : State) : Host.Outcome State Fault Refusal := .next (s.encodeCb cell n item cb block)

/-! ### Modulation and layers (R282, R283) -/

/-- An item has been encoded: PDSCH and control items by their encoder, CSI_RS at once (R282). -/
def Item.encoded (i : Item) : Bool :=
  match i.ty with
  | 0x01 => i.cbDone.length == i.seg.c
  | 0x04 => true
  | _ => i.cbDone != []

/-- The layers or ports of a downlink item. -/
def Item.txLayers (i : Item) : Nat :=
  match i.ty with
  | 0x01 => i.nl
  | 0x04 => max 1 ((std stdAllowed [4, i.f 16 1]).headD 1).toNat
  | _ => 1

/-- The scrambled bits of an item: a PDSCH's code blocks in order, or the coded bits of a PDCCH or SSB (R282). -/
def Item.txBits (i : Item) (x : PhyCtx) : List Bool :=
  if i.ty = 0x01 then
    let b := (rangeFrom 0 i.seg.c).flatMap (i.codedBits x)
    let c := std stdScramble [i.rnti * 32768 + i.nid, b.length]
    List.zipWith (fun v w => v != (w == 1)) b (c ++ List.replicate b.length 0)
  else (Config.standard stdControlBits (i.argsAt x.f x.n)).map (· == 1)

/-- The order of an item's modulation: QM, and QPSK for control items. -/
def Item.txQm (i : Item) : Nat := if i.ty = 0x01 then i.qm else 2

/-- rne(8,192 × v) of an FP32 value, as INT16 (R283). -/
def modInt (v : Nat) : Int := fint (fmul v (pow2F 13)) 16

/-- The modulation symbols: QM bits each, bit b of them bit b of the point's index as R269 takes it (R282, R283). -/
def Item.txPoints (i : Item) (x : PhyCtx) : List (Int × Int) :=
  let b := i.txBits x
  let pts := points i.txQm
  (rangeFrom 0 (b.length / i.txQm)).map fun q =>
    let p := sumList ((rangeFrom 0 i.txQm).map fun j => b2n (b.getD (q * i.txQm + j) false) * 2 ^ j)
    let v := pts.getD p (0, 0)
    (modInt v.1, modInt v.2)

/-- What element e of layer l carries on a symbol: nothing, the layer's next modulation symbol (symbol j × layers + l), or a reference or
synchronization signal (R282; log entry 22). -/
def Item.elemAt (i : Item) (x : PhyCtx) (pts : List (Int × Int)) (y l e : Nat) : Int × Int :=
  let v := Config.standard stdResMap (i.argsAt x.f x.n ++ [(y : Int), l, e])
  match v.headD 0 with
  | 1 => pts.getD ((v.getD 1 0).toNat * i.txLayers + l) (0, 0)
  | 2 => (modInt (v.getD 1 0).toNat, modInt (v.getD 2 0).toNat)
  | _ => (0, 0)

/-! ### Precoding (R283, R285) -/

/-- `precode` of R283 for one element: x by layer, the weights of the PRB, the scaling p and the shift. -/
def precode (x : List (Int × Int)) (w : Option (Nat → Int × Int)) (p : Int) (sh a : Nat) : Int × Int :=
  let z : Int × Int := match w with
    | none => x.getD a (0, 0)
    | some w => (rangeFrom 0 x.length).foldl (fun (s : Int × Int) l =>
        let v := w l
        let y := x.getD l (0, 0)
        (s.1 + v.1 * y.1 - v.2 * y.2, s.2 + v.1 * y.2 + v.2 * y.1)) (0, 0)
  (sat (rneShift (z.1 * p) (sh + 14)) 16, sat (rneShift (z.2 * p) (sh + 14)) 16)

/-- The item's layers go out unprecoded: PHASE 0xFF, or a category B cell, whose streams are its layers (R226, R283, R284). -/
def Item.plain (i : Item) (f : CellCfg) : Bool := i.phase == 0xFF || f.split == 1

/-- The precoded samples of an item: symbol, stream, PRB and element in that order (R283). -/
def State.precodeItem (s : State) (x : PhyCtx) (i : Item) : List Int :=
  let f := x.f
  let pts := i.txPoints x
  let p : Int := pow10Round14 (4 * i.power)
  let sh := if i.plain f then 0 else f.wgtShift + 8 * b2n f.wgtCp16
  (rangeFrom 0 i.nsym).flatMap fun y => (rangeFrom 0 f.dlStreams).flatMap fun a => (rangeFrom 0 i.nprb).flatMap fun m =>
    (rangeFrom 0 12).flatMap fun e =>
      let v := (rangeFrom 0 i.txLayers).map fun l => i.elemAt x pts (i.sym0 + y) l (12 * m + e)
      let z := precode v (if i.plain f then none else some fun l => s.weightC x.c x.n f (i.prb0 + m) l a) p sh a
      [z.1, z.2]

/-- PRECODE: an item whose phase is over, from the end of its encoding; one that is not ready for its departure is dropped (R221, R285), and one
whose weights cannot be read ends with AIR_MISSED (R297). -/
def State.precodeStart (s : State) (c n k : Nat) : State :=
  match s.dlItem c n k with
  | none => s
  | some (i, f) =>
    if i.encoded then
      match s.phaseState c n i with
      | none => s
      | some false => s.dlItemEnds c n k stModelFault
      | some true =>
        let s := (s.advanceTo i.ready).meetErrors (s.cellDom c) (f.slotArea n) f.areaBytes
        let flt := if i.plain f then none else s.hbmFault (s.cellDom c) (f.slotArea n) f.areaBytes true
        if i.lost ∨ flt.isSome ∨ s.leaveBy f n i < s.tai16 then
          ((flt.map fun q => s.itemMemNote c i (q, f.slotArea n)).getD s).dlItemEnds c n k stAirMissed
        else s.modItem c n false k fun i => { i with st := .prepared, out := s.precodeItem ⟨c, f, n⟩ i }
    else s

def execPrecode (cell n item : Nat) (s : State) : Host.Outcome State Fault Refusal := .next (s.precodeStart cell n item).limitStacks

/-! ### Engine faults (R286) -/

/-- A radio unit leaves service: the map, ENGINE_LOST, and R203 again with the shedding that may follow (R222, R286). -/
def State.loseEngine (s : State) (u : DevUnit) (cause : Nat) : State :=
  ((s.mapDisable u cause).raise F.RAD_ERR_STATUS_ENGINE_LOST).shedDecision 4

/-- The index of an item of a slot, 0 where there is none. -/
def State.itemId (s : State) (c n k : Nat) (up : Bool) : Nat :=
  match ((s.cell c).job? n up).bind fun j => j.items[k]? with
  | some i => i.id
  | none => 0

/-- A record that names the unit, the cell slot and the item. -/
def State.engineRecord (s : State) (c n k : Nat) (up : Bool) (cause cls unit : Nat) : State :=
  s.faultRecord (s.radioRecord c cause 3 cls unit (s.itemId c n k up) 0)

/-- A decoder's block runs once more on another unit, and the second time ends its item with CRC_OK 0. -/
def State.decParity (s : State) (u c n k : Nat) : State :=
  let hit := ((s.cell c).job? n true).bind fun j => j.cblocks.find? fun b => b.unit == some u && b.item == k
  let s := match hit, s.ulItem c n k with
    | some b, some (i, f, j) =>
      if b.retried then
        let s := s.modSlotJob c n true fun j => { j with cblocks := j.cblocks.filter fun b => b.item != k }
        (s.closeCtx ⟨c, f, n⟩ i (j.cblocks.filter fun b => b.item == k) false).ulTbFails c n k stOk i
      else s.modBlock c n k b.cb fun b => { b with unit := none, retried := true }
    | _, _ => s
  s.raise F.RAD_ENG_ERR_DEC_PARITY

/-- The job that a unit has in progress. -/
def State.unitJob (s : State) (t : Tab EngJob) (u : Nat) : Option EngJob := (Tab.get? t u).filter fun e => decide (s.now < e.at_)

/-- An encoder's or a polar unit's downlink job runs once more; a second failure drops the item with AIR_MISSED. -/
def State.dlParity (s : State) (q : Option EngJob) : State :=
  match q.bind fun e => (s.dlItem e.c e.n e.k).map fun r => (e, r.1) with
  | some (e, i) =>
    if i.retried.contains e.cb then s.dlItemEnds e.c e.n e.k stAirMissed
    else s.modItem e.c e.n false e.k fun i => { i with retried := e.cb :: i.retried, cbDone := i.cbDone.filter (· != e.cb) }
  | none => s

/-- An encoder's job that will run again on a peer, counted (R286, R524). -/
def State.countRerun (s : State) (q : Option EngJob) (u : Nat) : State :=
  match q.bind fun e => (s.dlItem e.c e.n e.k).map fun r => (e, r.1) with
  | some (e, i) => if i.retried.contains e.cb then s else s.count (0xD46 + 8 * u) none 1
  | none => s

/-- A polar unit's job: that of an uplink item whose UCI it decodes, or its downlink job; UCI that fails a second time ends its item with no CRC
passed. -/
def State.polarParity (s : State) (u c n k : Nat) : State :=
  let s := match (s.ulItem c n k).bind fun r => r.1.polarPart?.map fun p => (r.1, p) with
    | some (i, p) =>
      if i.retried.contains p then s.ulFails c n k i else s.modItem c n true k fun i => { i with retried := p :: i.retried }
    | none => s.dlParity (s.unitJob s.rad.polar u)
  s.raise F.RAD_ENG_ERR_POLAR_PARITY

/-- Every uplink item in progress ends with CRC_OK 0: PUSCH without a block, control items and reference signals without a result (R286). -/
def State.endUplink (s : State) : State :=
  let l := s.cells.flatMap fun e => (e.2.slots.filter SlotJob.up).flatMap fun j => (rangeFrom 0 j.items.length).map fun k => (e.1, j.n, k)
  l.foldl (fun s p =>
    match s.ulItem p.1 p.2.1 p.2.2 with
    | none => s
    | some (i, _, _) => s.ulFails p.1 p.2.1 p.2.2 i) s

/-- RADIO_ENGINE_PARITY: by the unit's class (R286, R546). -/
def State.radioParity (s : State) (cls u c n k : Nat) : State :=
  match cls with
  | 0x30 => ((s.decParity u c n k).engineRecord c n k true 0x0401 cls u).loseEngine ⟨cls, u⟩ 0x0401
  | 0x31 =>
    let s := s.countRerun (s.unitJob s.rad.enc u) u
    let s := ((s.dlParity (s.unitJob s.rad.enc u)).raise F.RAD_ENG_ERR_ENC_PARITY).count (0xD45 + 8 * u) none 1
    (s.engineRecord c n k false 0x0402 cls u).loseEngine ⟨cls, u⟩ 0x0402
  | 0x32 => ((s.polarParity u c n k).engineRecord c n k (s.ulItem c n k).isSome 0x0403 cls u).loseEngine ⟨cls, u⟩ 0x0403
  | 0x33 | 0x34 =>
    let s := (s.raise F.RAD_ENG_ERR_EQ_PARITY).count (if cls = 0x33 then 0xD65 else 0xD6D) none 1
    let s := s.engineRecord c n k true 0x0404 cls u
    let s := (s.mapDisable ⟨cls, u⟩ 0x0404).raise F.RAD_ERR_STATUS_ENGINE_LOST
    s.endUplink.shedAll 4
  | _ => s

def execRadioEngineParity (cls unit cell n item : Nat) (s : State) : Host.Outcome State Fault Refusal :=
  .next (s.radioParity cls unit cell n item)

end Sys2Proof.Machine
end

