-- ==== Sys2Proof/Machine/MemFaults.lean ====
section
/-! DEFINITION. Errors of the array, the lanes and the memories: ARRAY_FAULT (R98, R99, R133, R184), reads of HBM (R297), and SRAM errors (R300). -/

namespace Sys2Proof.Machine

/-! ### Loss of rows and columns (R98, R99, R184) -/

/-- E and C fall from one pair to the other: the loss is covered when the new pair is a margin point that passed last (R184). -/
def HelmUnit.covers (h : HelmUnit) (e c e' c' : Nat) : Bool :=
  (e' + 1 == e && c' == c && h.marginE) || (e' == e && c' + 1 == c && h.marginC)

/-- A tile-row or tile-column leaves service, and admission runs at the new E and C (R184, R221, R222). -/
def State.loseArray (s : State) (u : DevUnit) (cause shed : Nat) : State :=
  let e := s.mapE
  let c := s.mapC
  let t := s.mapDisable u cause
  if t.mapE = e ∧ t.mapC = c ∧ t.offline = s.offline then t
  else
    let t := t.raise F.HLM_ERR_STATUS_CAPACITY_LOSS
    (if s.helm.covers e c t.mapE t.mapC && !t.offline then t else t.markUncovered).shedDecision shed

/-- The tile-row or tile-column that a failed tile takes out (R95, R549). -/
def State.repairUnit (s : State) (row col : Nat) : DevUnit :=
  if s.flag F.GLB_MAP_POLICY_REPAIR_AXIS then ⟨ucRow, row⟩ else ⟨ucCol, col⟩

/-! ### ARRAY_FAULT (R133, R163, R549) -/

def causeWeightParity : Nat := 0x0301
def causeLaneParity : Nat := 0x0302
def causeDrainParity : Nat := 0x0303

/-- A command of a class that the Helm reissues: Vermilion, and not reissued before (R133). -/
def State.mayReissue (s : State) (a : ArrCmd) : Bool :=
  match Tab.get? s.runs a.run with
  | none => false
  | some x => x.cls == 1 && !x.stopped && (match Tab.get? x.cmds a.idx with
    | some p => !p.reissued
    | none => false)

/-- A command that ends with ARRAY_FAULT: its tag FAULTED and its run stopped. -/
def State.arrFaultEnds (s : State) (a : ArrCmd) : State := (s.failRun a.run stArrayFault (some a.idx)).endCmd a.run a.idx false

/-- A fault of an array command that has not faulted already: its record, and its end unless it is to be reissued. -/
def State.faultCmd (s : State) (a : ArrCmd) (cause cls unit : Nat) : State :=
  if a.fault ≠ 0 then s
  else match Tab.get? s.runs a.run with
    | none => s
    | some x =>
      let s := s.faultRecord { s.runRecord x cause 3 a.idx with ucls := cls, uidx := unit }
      if s.mayReissue a then s else s.arrFaultEnds a

/-- The fault mark of an array command: 1 while its reissue is owed, 2 when it is over. -/
def State.faultMark (s : State) (a : ArrCmd) : ArrCmd :=
  if a.fault ≠ 0 then a else { a with fault := if s.mayReissue a then 1 else 2 }

/-- Commands in the array fault. Those of the pass before its boundary are reissued there, those past theirs are ready again at once (R133).
With no command there to fault, the record names the unit alone (R544; log entry 77). -/
def State.faultArr (s : State) (hit : ArrCmd → Bool) (cause cls unit : Nat) : State :=
  let live := (s.arr.cur ++ s.arr.drain).filter fun a => hit a && a.fault == 0 && Tab.has s.runs a.run
  if live = [] then s.faultRecord { FaultRec.of cause 3 with ucls := cls, uidx := unit }
  else
    let mark := fun (a : ArrCmd) => if hit a then s.faultMark a else a
    let cur := s.arr.cur.map mark
    let drain := s.arr.drain.map mark
    let s := live.foldl (fun s a => s.faultCmd a cause cls unit) s
    let s := { s with arr := { s.arr with
      cur := cur, drain := drain.map fun a => if a.fault = 1 then { a with fault := 2 } else a } }
    ((drain.filter fun a => a.fault == 1).foldl State.reissue s).noteReady

/-- The commands whose beats are in the array fault: the pass before its boundary, and those that drain until t_lat (R86, R133). -/
def State.faultPass (s : State) (cause cls unit : Nat) : State :=
  s.faultArr (fun a => s.arr.cur.contains a || decide (s.now < a.front + a.tLat * arrCyc)) cause cls unit

/-- The commands of the pass whose outputs drain fault: the oldest that has not ended, the pass on the array where none drains. -/
def State.faultDrain (s : State) (cause cls unit : Nat) : State :=
  let front := ((s.arr.drain.filter (fun a => decide (s.now < a.endAt + 64 * arrCyc)) ++ s.arr.cur).map (·.front)).headD 0
  s.faultArr (fun a => a.front == front) cause cls unit

/-- A lane fault stops the vector command in service (R163). -/
def State.faultLane (s : State) (unit : Nat) : State :=
  match s.vec.cur with
  | none => s
  | some v =>
    match Tab.get? s.runs v.run with
    | none => s
    | some x =>
      let s := s.faultRecord { s.runRecord x causeLaneParity 3 v.idx with ucls := ucLane, uidx := unit }
      (s.failRun v.run stArrayFault (some v.idx)).vecAbort v.run v.idx

/-- ARRAY_FAULT: kind 0 a weight parity error in tile 64i + j, 1 a drain parity error and 2 a lane parity error of lane group `unit`. -/
def State.arrayFault (s : State) (kind unit : Nat) : State :=
  match kind with
  | 0 =>
    ((s.faultPass causeWeightParity ucTile unit).raise F.TRK_ERR_STATUS_WEIGHT_PARITY).loseArray
      (s.repairUnit (unit / 64 % 32) (unit % 64)) causeWeightParity 2
  | 1 =>
    ((s.faultDrain causeDrainParity ucLane unit).raise F.DVU_ERR_STATUS_DRAIN_PARITY).loseArray ⟨ucCol, unit % 64⟩ causeDrainParity 2
  | _ =>
    ((s.faultLane unit).raise F.DVU_ERR_STATUS_LANE_PARITY).loseArray ⟨ucCol, unit % 64⟩ causeLaneParity 2

def execArrayFault (kind unit : Nat) (s : State) : Host.Outcome State Fault Refusal := .next (s.arrayFault kind unit)

/-! ### Reads of transfers and of KV streams (R297) -/

/-- A read of a domain's range meets the errors of its blocks: those that had come about before, and those that its command brings, by domain
offset. -/
def State.eccRead (s : State) (d off n : Nat) (ce ue : List Nat) : State := (s.errorsIn d ce ue).readHbm d off n

/-- TRANSFER_COMPLETE, with what the controllers find in the blocks that it reads from HBM. -/
def State.xferCompleteEcc (s : State) (r i : Nat) (ce ue : List Nat) : State :=
  match s.xferOf r i with
  | none => s
  | some (x, t) =>
    let s := match s.xferEnd x t with
      | .hbm off => if x.started i && t.op != 0x21 then s.eccRead x.dom off (s.xferLen x t) ce ue else s
      | _ => s
    (s.xferComplete r i).limitStacks

def execTransferComplete (run idx : Nat) (ce ue : List Nat) (s : State) : Host.Outcome State Fault Refusal :=
  .next (s.xferCompleteEcc run idx ce ue)

/-- KV_PAGE_COMPLETE (R162), with what the controllers find in the page's blocks. The page is one that is in flight. -/
def State.kvLandEcc (s : State) (r i p : Nat) (ce ue : List Nat) : State :=
  match s.attnOf r i with
  | none => s
  | some (x, a) =>
    let g := s.kvRange x a p
    let s := if (s.stream r i).inFlight.contains p then s.eccRead x.dom g.1 g.2 ce ue else s
    (s.kvLand r i p).limitStacks

def execKvPageComplete (run idx page : Nat) (ce ue : List Nat) (s : State) : Host.Outcome State Fault Refusal :=
  .next (s.kvLandEcc run idx page ce ue)

/-! ### The other reads of HBM (R297, R311) -/

def execHcopy (ring cid : Nat) (s : State) : Host.Outcome State Fault Refusal := .next (s.hcopy ring cid).limitStacks

def execLoadChartChecks (chart : Nat) (s : State) : Host.Outcome State Fault Refusal := .next (s.loadChecks chart).limitStacks

def execResSwitchComplete (s : State) : Host.Outcome State Fault Refusal := .next s.switchDone.limitStacks

def execFload (ring cid : Nat) (s : State) : Host.Outcome State Fault Refusal := .next (s.fload ring cid).limitStacks

def execFatomic (ring cid : Nat) (s : State) : Host.Outcome State Fault Refusal := .next (s.fatomic ring cid).limitStacks

def execFabricRequestReceive (node engine tag kind op addr len key epoch : Nat) (fill : Bool) (data : List Byte) (s : State) :
    Host.Outcome State Fault Refusal :=
  .next (s.fabricRequest node engine tag kind op addr len key epoch fill data).limitStacks

/-! ### SRAM errors (R300) -/

def causeSramUe : Nat := 0x0108

/-- The last dispatched command that writes a tag. -/
def State.tagWriter (s : State) (x : Run) (t : Nat) : Option (Nat × PKind) :=
  match Tab.get? s.charts x.chart with
  | none => none
  | some c => ((s.chartKinds c).filter fun p => decide (p.1 < x.next) && p.2.writeTags.contains t).getLast?

/-- The rows that a command writes under a tag: those of the products that have it for a PACKED command, and for ATTN the ring, the state or the
outputs (R118, R125, R160). -/
def PKind.tagRows (k : PKind) (wlen t : Nat) : List (Nat × Nat) :=
  match k with
  | .packed _ ps => (ps.filter fun m => m.oTag == t).flatMap fun m => (PKind.mat m).captureRows wlen
  | .attn a =>
    let b2 := fun (p : Bool) (l : List (Nat × Nat)) => if p then l else []
    b2 (t == a.ringTag) [(a.ringBase * 64, a.depth * 131072)] ++ b2 (t == a.sTag) (rowsAt a.sBase a.sStride a.nq (4 * (a.d + 2)))
      ++ b2 (a.final && t == a.oTag) (k.captureRows wlen)
  | k => k.captureRows wlen

/-- An ATTN reads back a byte of its window that it writes itself: of its ring or its state (R160, R162). -/
def PKind.readsOwn (k : PKind) (at_ : Nat) : Bool :=
  match k with
  | .attn a => ([a.ringTag, a.sTag].flatMap (k.tagRows 0)).any fun r => decide (r.1 ≤ at_) && decide (at_ < r.1 + r.2)
  | _ => false

/-- A tag's tensor covers a byte of its domain's scratchpad or staging partition. -/
def State.tagCovers (s : State) (x : Run) (staging : Bool) (off t : Nat) : Bool :=
  match s.tagWriter x t with
  | none => false
  | some (_, k) =>
    let len := match k with
      | .xfer f => s.xferLen x f
      | _ => 0
    let base := 64 * if staging then x.stWin else x.spWin
    k.inStaging == staging && (k.tagRows len t).any fun r => decide (base + r.1 ≤ off) && decide (off < base + r.1 + r.2)

/-- The RESIDENT tags of a run that cover a byte. -/
def State.hitTags (s : State) (x : Run) (staging : Bool) (off : Nat) : List Nat :=
  (x.tags.filter fun t => t.2.st == .resident && s.tagCovers x staging off t.1).map (·.1)

/-- A started command that reads a faulted word ends: a transfer with TRANSFER_ERROR, an array or vector command with ARRAY_FAULT. -/
def State.readerFails (s : State) (r i off : Nat) (k : PKind) : State :=
  match k with
  | .xfer _ => s.xferFailed r i causeSramUe off
  | k =>
    if k.isVector then (s.failRun r stArrayFault (some i)).vecAbort r i
    else
      let end_ := fun a : ArrCmd => if a.run = r ∧ a.idx = i then { a with fault := 2 } else a
      let s := { s with arr := { s.arr with cur := s.arr.cur.map end_, drain := s.arr.drain.map end_ } }
      (s.failRun r stArrayFault (some i)).endCmd r i false

/-- An uncorrectable word in a run's windows: its tags FAULTED, and the commands that read them ended. -/
def State.runWordUe (s : State) (r : Nat) (staging : Bool) (off : Nat) : State :=
  match Tab.get? s.runs r with
  | none => s
  | some x =>
    let hit := s.hitTags x staging off
    let s := s.setRun r (hit.foldl (fun x t => x.setTag t .faulted) x)
    let rd := (x.cmds.filter fun c => c.2.stage == .started).filterMap fun c =>
      match s.runCmd x c.1 with
      | some k => if k.readTags.any hit.contains || (!staging && k.readsOwn (off - x.spWin * 64) && decide (x.spWin * 64 ≤ off)) then
          some (c.1, k) else none
      | none => none
    (rd.foldl (fun s p => s.readerFails r p.1 off p.2) s).tagFaults r

/-- An uncorrectable word of scratchpad or staging. -/
def State.wordUe (s : State) (bank d off : Nat) (staging : Bool) : State :=
  let s := (s.runs.filter fun p => p.2.dom == d).foldl (fun s p => s.runWordUe p.1 staging off) s
  s.faultRecord { FaultRec.of causeSramUe 1 with dom := some d, ucls := ucSram, uidx := bank, detail := off }

/-- An uncorrectable word of the radio buffers: the symbol's PRBs become missing ones, which the hand-off zero-fills (R237). -/
def State.radioUe (s : State) (c n sym stream : Nat) (prach : Bool) (unit : Nat) : State :=
  let s := s.modCell c fun x => { x with fills := x.fills.filter fun f =>
    !(f.n == n && f.sym == sym && f.stream == stream && f.prach == prach) }
  s.faultRecord (s.radioRecord c causeSramUe 1 ucSram 33 0 unit)

/-- An uncorrectable word counted, with its status bit. -/
def State.sramNote (s : State) : State :=
  ((s.satFld F.MEM_SRAM_ECC_UNCORRECTED 1).health 22 1 1).raise F.MEM_ERR_STATUS_SRAM_UE

/-- SRAM_UE: the words corrected since the last one, and an uncorrectable word at a place, if there is one. -/
def State.sramUe (s : State) (p : SramPlace) (corrected : Nat) : State :=
  let s := (s.addFld F.MEM_SRAM_ECC_CORRECTED corrected).health 22 0 corrected
  match p with
  | .scratch bank d off => s.sramNote.wordUe (bank % 32) d off false
  | .staging d off => s.sramNote.wordUe 32 d off true
  | .radio c n sym stream prach unit => s.sramNote.radioUe c n sym stream prach unit
  | .correctedOnly => s

def execSramUe (place : SramPlace) (corrected : Nat) (s : State) : Host.Outcome State Fault Refusal := .next (s.sramUe place corrected)

end Sys2Proof.Machine
end

