-- ==== Sys2Proof/Machine/Host.lean ====
section
/-! DEFINITION. The host interface: instances and the mailbox (R357 to R362), doorbells and rings (R363, R366, R370, R371), context resets
(R375 to R378), link resets (R557) and the faults that start resets (R549, R550). -/

namespace Sys2Proof.Machine

/-! ### Access (R9, R355) -/

/-- BOOT_STATE values of R493. -/
def bootRunning : Nat := 4
def bootRecovery : Nat := 5

/-- The device is RUNNING: PF 0 answers beyond GLB_ and ALM_ (R491). -/
def State.running (s : State) : Bool := s.pow.life == .running && s.fld F.GLB_STATUS_BOOT_STATE == bootRunning

/-- An access refused and counted (R9, R355), on a link. -/
def State.badAccess (s : State) (link : Nat) : State :=
  ((s.addFld F.PCI_ACCESS_ERR_BAD_ACCESS 1).raise F.PCI_ERR_STATUS_BAD_ACCESS).count (0xE8D + 16 * link) none 1

/-- What an access of an instance's page over a link finds: none for a page that is FREE, and otherwise whether the instance is bound to the
link (R354, R355). -/
def State.page (s : State) (inst link : Nat) : Option Bool := (Tab.get? s.insts inst).map fun i => i.link == link

/-- A write to an instance's page: refused when the instance is FREE, without effect over the other link (R354, R355). -/
def State.pageWrite (s : State) (inst link : Nat) (f : State → State) : State :=
  if !s.running then s
  else match s.page inst link with
    | none => s.badAccess link
    | some true => f s
    | some false => s

/-- The global ring of an instance's local ring. -/
def State.localRing (s : State) (inst loc : Nat) : Option (Nat × Ring) :=
  match Tab.get? s.insts inst with
  | none => none
  | some i => (Tab.get? i.locals loc).bind fun g => (Tab.get? s.rings g).map fun r => (g, r)

def State.setRing (s : State) (g : Nat) (r : Ring) : State := { s with rings := Tab.set s.rings g r }

/-! ### Doorbells (R366, R370) -/

/-- A held indication that is posted after its decode deadline carries DECODE_LATE (R212, R370). -/
def State.lateEntry (s : State) (e : List Byte) : List Byte :=
  let k := fieldAt e 17 1
  if fieldAt e 0 1 = 0x48 ∧ (k = 2 ∨ k = 3 ∨ k = 5) then
    match s.nameSlot (s.cell (fieldAt e 18 2)) (fieldAt e 20 2) (fieldAt e 22 1) s.tai16 with
    | none => e
    | some (f, n) =>
      let b := if k = 3 then 5 else 1
      let x := fieldAt e 26 1
      if s.decodeDeadline f n < s.tai16 ∧ bit x b = false then e.take 26 ++ [BitVec.ofNat 8 (x + 2 ^ b)] ++ e.drop 27 else e
  else e

/-- A doorbell that is ignored (R366). -/
def State.dropDoorbell (s : State) (inst : Nat) : State :=
  let s := (s.satFld F.INST_STATUS_DB_DROPPED 1 inst).addFld F.PCI_ACCESS_ERR_DB_DROPPED 1
  match Tab.get? s.insts inst with
  | some i => if i.oper then s else s.count 0x179 (some i.dom) 1
  | none => s

/-- SQ_TAIL of a doorbell: the entries published have the time of the doorbell that published them (R211, R366). -/
def State.publish (s : State) (g tail : Nat) : State :=
  match Tab.get? s.rings g with
  | none => s
  | some r =>
    let n := 2 ^ s.fld F.RING_CFG_SQ_LOG2 r.key
    let m := (tail % n + n - s.fld F.RING_STATUS_SQ_HEAD r.key % n) % n
    s.setRing g { r with sqTail := tail % n, arrivals := (r.arrivals ++ List.replicate m s.tai16).take m }

/-- CQ_HEAD of a doorbell: entries returned, and held completions posted while there is room (R366, R370). -/
def State.returnCq (s : State) (g head : Nat) : State :=
  match Tab.get? s.rings g with
  | none => s
  | some r =>
    let n := 2 ^ s.fld F.RING_CFG_CQ_LOG2 r.key
    (s.setRing g { r with cqHead := head % n, held := r.held.map fun e => (s.lateEntry e.1, e.2) }).drainHeld g (r.held.length + 1) |>.leavePosted

/-- A doorbell that an instance takes, noted with its time for a reset that arrives in the same cycle (R377). -/
def State.noteDoorbell (s : State) (inst : Nat) : State :=
  { s with insts := Tab.modify s.insts inst fun i => { i with dbAt := s.now, dbs := if i.dbAt = s.now then i.dbs + 1 else 1 } }

/-- A doorbell's value applied to a ring that takes it. -/
def State.ringDoorbell (s : State) (g v : Nat) : State :=
  let s := if bit v 16 then s.publish g (v % 65536) else s
  if bit v 48 then s.returnCq g (v / 2 ^ 32 % 65536) else s

/-- DOORBELL: the 64-bit value written to the doorbell of a local ring, over a link. -/
def State.doorbell (s : State) (inst loc v link : Nat) : State :=
  s.pageWrite inst link fun s =>
    match s.localRing inst loc with
    | none => s.dropDoorbell inst
    | some (g, r) =>
      if s.ringState r = ringEnabled ∧ s.instQuiet inst = false then (s.noteDoorbell inst).ringDoorbell g v else s.dropDoorbell inst

def execDoorbell (inst loc value link : Nat) (s : State) : Host.Outcome State Fault Refusal :=
  .next (s.doorbell (inst % 1024) (loc % 64) value (link % 2))

/-! ### RING_CFG (R363) -/

/-- A ring's configuration is valid (R363). -/
def State.ringCfgOk (s : State) (k : Nat) : Bool :=
  let m := s.fld F.RING_CFG_MAX_LOG2 k
  let ok := fun n => decide (4 ≤ n) && decide (n ≤ m)
  ok (s.fld F.RING_CFG_SQ_LOG2 k) && ok (s.fld F.RING_CFG_CQ_LOG2 k)
    && s.fld F.RING_SQ_BASE_ADDR k != 0 && s.fld F.RING_CQ_BASE_ADDR k != 0

/-- A ring with empty queues (R363, R375). -/
def Ring.cleared (r : Ring) : Ring := { r with sqTail := 0, arrivals := [], cqHead := 0, uncounted := 0, firstAt := 0, cancels := [] }

/-- A ring's indices at 0 and PHASE at 1, in a state (R363, R375). -/
def State.clearRing (s : State) (g : Nat) (r : Ring) (st : Nat) : State :=
  let s := s.setFld F.RING_STATUS_STATE st r.key
  let s := s.setFld F.RING_STATUS_SQ_HEAD 0 r.key
  let s := s.setFld F.RING_STATUS_CQ_TAIL 0 r.key
  (s.setFld F.RING_STATUS_PHASE 1 r.key).setRing g r.cleared

/-- ENABLE written 1 (R363). -/
def State.enableRing (s : State) (g : Nat) (r : Ring) : State :=
  if s.ringState r = ringDisabled then
    if s.ringCfgOk r.key then s.clearRing g r ringEnabled else s.setFld F.RING_STATUS_ERR_CAUSE 3 r.key
  else s

/-- ENABLE written 0 (R363). -/
def State.disableRing (s : State) (g : Nat) (r : Ring) : State :=
  if s.ringState r = ringEnabled ∨ s.ringState r = ringError then
    (s.setFld F.RING_STATUS_STATE ringQuiescing r.key).quiesceDone g
  else s

/-- RING_CFG written whole (R363, R379). -/
def State.writeRingCfg (s : State) (g : Nat) (r : Ring) (v : Nat) : State :=
  let k := r.key
  let s := if s.ringState r = ringDisabled then
      (s.setFld F.RING_CFG_SQ_LOG2 (v / 2 ^ 16 % 32) k).setFld F.RING_CFG_CQ_LOG2 (v / 2 ^ 21 % 32) k
    else s
  let s := (s.noteReg F.RING_CFG_SHARE.reg k).setFld F.RING_CFG_SHARE (max 1 (v / 2 ^ 31 % 65536)) k
  let s := s.setFld F.RING_CFG_ENABLE (v / 2 ^ 47 % 2) k
  if bit v 47 then s.enableRing g r else s.disableRing g r

/-- A write of a local ring's RING_CFG over a link; a ring that is not allocated keeps its reset values. -/
def State.ringCfgWrite (s : State) (inst loc v link : Nat) : State :=
  s.pageWrite inst link fun s =>
    match s.localRing inst loc with
    | none => s
    | some (g, r) => s.writeRingCfg g r v

def execRingEnable (inst loc value link : Nat) (s : State) : Host.Outcome State Fault Refusal :=
  .next (s.ringCfgWrite (inst % 1024) (loc % 64) (value ||| 2 ^ 47) (link % 2))

def execRingDisable (inst loc value link : Nat) (s : State) : Host.Outcome State Fault Refusal :=
  .next (s.ringCfgWrite (inst % 1024) (loc % 64) (value - value / 2 ^ 47 % 2 * 2 ^ 47) (link % 2))

/-! ### Interrupts (R371) -/

/-- IRQ_COAL_TIMER: COAL_US after the first uncounted completion. -/
def State.coalTimer (s : State) (g : Nat) : State :=
  match Tab.get? s.rings g with
  | none => s
  | some r =>
    let us := s.fld F.RING_IRQ_COAL_US r.key
    if s.flag F.RING_IRQ_IRQ_EN r.key ∧ us ≠ 0 ∧ r.uncounted ≠ 0 then
      let s := s.advanceTo (r.firstAt + us * usec)
      (s.setRing g { r with uncounted := 0 }).sendMsix (s.route r.inst).1 r.vector
    else s

def execIrqCoalTimer (ring : Nat) (s : State) : Host.Outcome State Fault Refusal := .next (s.coalTimer ring)

/-! ### What belongs to an instance -/

/-- The rings of an instance, by local number. -/
def State.instRings (s : State) (inst : Nat) : List (Nat × Ring) :=
  match Tab.get? s.insts inst with
  | none => []
  | some i => i.locals.filterMap fun p => (Tab.get? s.rings p.2).map fun r => (p.2, r)

/-- A ring number is one of an instance's. -/
def State.ownsRing (s : State) (inst g : Nat) : Bool :=
  match Tab.get? s.rings g with
  | none => false
  | some r => r.inst == inst

/-- An owner of a run is the instance's: its ring, or the cell that it configured. -/
def State.ownsOwner (s : State) (inst : Nat) (o : RunOwner) : Bool :=
  match o with
  | .ring g _ => s.ownsRing inst g
  | .phase c _ _ _ => match (s.cell c).cfg with
    | some f => f.inst == inst
    | none => false

/-- The runs of an instance. -/
def State.instRuns (s : State) (inst : Nat) : List Nat := (s.runs.filter fun p => s.ownsOwner inst p.2.owner).map (·.1)

/-! ### Context resets: the request (R375 step 1) -/

/-- States of INST_STATUS (R360). -/
def instFree : Nat := 0
def instActive : Nat := 1
def instResetting : Nat := 2
def instDestroying : Nat := 3

/-- The doorbells that an instance's rings took in the cycle in which its reset arrives: they count as ignored (R377). -/
def State.dropTied (s : State) (inst : Nat) (i : Inst) : State :=
  if i.dbAt = s.now then (List.replicate i.dbs ()).foldl (fun (s : State) _ => s.dropDoorbell inst) s else s

/-- A context reset begins: the instance is RESETTING. A request during a reset is merged into it (R360, R377). -/
def State.resetStart (s : State) (inst : Nat) : State :=
  match Tab.get? s.insts inst with
  | none => s
  | some i =>
    if s.fld F.INST_STATUS_STATE inst ≠ instActive then s
    else
      let s := s.dropTied inst i
      let s := if i.oper then s else s.count 0x17A (some i.dom) 1
      let s := s.setFld F.INST_STATUS_STATE instResetting inst
      { s with insts := Tab.set s.insts inst { i with resetStep := 1, info := [] } }

/-- The grants of an instance's runs. -/
def State.instGrants (s : State) (inst : Nat) : Nat := sumList ((s.instRuns inst).map s.grantsOf)

/-- A context reset requested: a grant to the instance in the cycle in which it arrives stands (R377). -/
def State.resetAsk (s : State) (inst : Nat) : State :=
  if s.fld F.INST_STATUS_STATE inst = instActive then (s.decisionTie fun t => t.instGrants inst).resetStart inst else s

/-- A context reset that the device starts, with its record (R547, R549). -/
def State.deviceReset (s : State) (cause inst : Nat) : State :=
  match Tab.get? s.insts inst with
  | none => s
  | some i =>
    if s.fld F.INST_STATUS_STATE inst ≠ instActive then s
    else
      (s.faultRecord { FaultRec.of 0x0601 2 with
        dom := if i.oper then none else some i.dom, inst := some inst, detail := cause }).resetAsk inst

def State.deviceResets (s : State) (cause : Nat) (l : List Nat) : State := l.eraseDups.foldl (fun s i => s.deviceReset cause i) s

/-- INST_CTRL_RESET: the value written to INST_CTRL over a link (R375, R379). -/
def State.instCtrl (s : State) (inst v link : Nat) : State :=
  s.pageWrite inst link fun s => if bit v 0 then s.resetAsk inst else s

def execInstCtrlReset (inst link : Nat) (s : State) : Host.Outcome State Fault Refusal :=
  .next (s.instCtrl (inst % 1024) 1 (link % 2))

/-! ### Context resets: steps 2 to 4 (R375, R376) -/

/-- A run squashed (R375 step 2): a granted array or vector command runs to its boundary with its outputs suppressed, and everything else of
the run ends. -/
def State.squashRun (s : State) (r : Nat) : State :=
  let s := s.modRun r fun x => { x with resetting := true }
  let s := s.dropUnstarted r
  let mark := fun a : ArrCmd => if a.run = r then { a with suppressed := true } else a
  let stop := fun v : VecCmd => if v.run = r then { v with suppressed := true } else v
  let onArr := (s.arr.cur ++ s.arr.drain).filter fun a => a.run == r
  let keep := onArr.map (·.idx) ++ (s.vec.cur.toList.filter fun v => v.run == r).map (·.idx)
  let s := { s with
    arr := { s.arr with cur := s.arr.cur.map mark, drain := s.arr.drain.map mark }
    vec := { s.vec with
      cur := s.vec.cur.map stop
      suspended := s.vec.suspended.filter fun v => v.run != r
      kv := s.vec.kv.filter fun k => k.run != r || keep.contains k.idx }
    helm := { s.helm with window := s.helm.window.filter fun e => e.run != r || keep.contains e.idx } }
  (s.modRun r fun x => { x with cmds := x.cmds.filter fun c => keep.contains c.1 }).noteSaved

/-- The descriptors that a squashed read had not issued (R375 step 3). -/
def DmaJob.dropped (j : DmaJob) : Nat := if j.landed || j.failed.isSome then 0 else ceilDiv j.len 65536 - j.desc

/-- The host reads of the jobs of a test squashed, with their tags in quarantine (R374, R375 step 3). -/
def State.squashReads (s : State) (p : DmaJob → Bool) : State :=
  let t := s.fld F.PCI_DMA_CTRL_CPL_TIMEOUT_US * usec
  let hit := s.dma.filter fun j => p j.2
  let q := (hit.filter fun j => s.readsOut j.1 j.2 != 0).map fun j =>
    ({ id := j.1, engine := j.2.engine, link := (s.route j.2.inst).1, tags := s.readsOut j.1 j.2, fabric := false,
       freeAt := s.now + 4 * t } : Quarantine)
  { s with dma := s.dma.filter fun j => !p j.2, quar := s.quar ++ q }

/-- A fabric job is an instance's. -/
def State.ownsJob (s : State) (inst : Nat) (j : FJob) : Bool :=
  match j.use with
  | .ring g _ => s.ownsRing inst g
  | .xfer r _ => (s.instRuns inst).contains r
  | .chart c _ => match Tab.get? s.charts c with
    | some c => s.ownsRing inst c.ring
    | none => false

/-- The fabric operations of the jobs of a test detached, with their tags in quarantine (R345, R375 step 3). -/
def State.detach (s : State) (p : FJob → Bool) : State :=
  let gone := (s.fab.jobs.filter fun j => p j.2).map (·.1)
  let mine := fun o : FOp => match o.owner with
    | .job j _ => gone.contains j
    | _ => false
  let t := s.fld F.FAB_CTRL_TIMEOUT_US * usec
  let q := (s.fab.ops.filter fun o => mine o.2).map fun o =>
    ({ id := o.1, engine := o.2.engine, link := 0, tags := 1, fabric := true, freeAt := s.now + 4 * t } : Quarantine)
  { s with
    fab := { s.fab with jobs := s.fab.jobs.filter (fun j => !p j.2), ops := s.fab.ops.filter fun o => !mine o.2 }
    quar := s.quar ++ q }

/-- A slot's unfinished work dropped (R376): downlink items count as AIR_MISSED, and buffers that a context does not hold return to
the pool. -/
def State.squashSlot (s : State) (c : Nat) (j : SlotJob) : State :=
  let left := j.items.filter fun i => !i.settled
  let d := s.cellDom c
  let s := s.modCell c fun x => { x with slots := x.slots.erase j }
  if j.up then
    match (s.cell c).latest with
    | none => s
    | some f =>
      let gone := left.flatMap fun i => i.pages.filter fun p => !(s.ctxPages d f i.ctx).contains p
      s.modCell c fun x => { x with harqUsed := x.harqUsed.filter fun p => !gone.contains p }
  else (s.addFld F.RAD_LATE_COUNT_AIR_MISSED left.length).count 0x064 (some d) left.length

/-- The work of an instance on a cell slot ends, and the slot's state stays (R376). -/
def State.squashCell (s : State) (inst c : Nat) : State :=
  let s := ((s.cell c).slots.filter fun j => s.ownsRing inst j.ring).foldl (fun s j => s.squashSlot c j) s
  let mine := fun (g : Nat) => s.ownsRing inst g
  s.modCell c fun x => { x with
    flushes := x.flushes.filter fun q => !mine q.ring
    stopCmd := match x.stopCmd with
      | some (g, k) => if mine g then none else some (g, k)
      | none => none }

/-- The charts of an instance that are LOADING become FREE, and its unloads wait no longer (R376). -/
def State.squashCharts (s : State) (inst : Nat) : State :=
  { s with charts := (s.charts.filter fun c => !(c.2.st == .loading && s.ownsRing inst c.2.ring)).map fun c =>
      (c.1, { c.2 with unloads := c.2.unloads.filter fun u => !s.ownsRing inst (u / 65536) }) }

/-- The waits for run contexts of an instance end. -/
def State.squashWaits (s : State) (inst : Nat) : State :=
  let mine := fun w : CtxWaiter => s.ownsOwner inst w.owner
  let gone := s.ctxWait.filter mine
  let s := { s with ctxWait := s.ctxWait.filter fun w => !mine w }
  gone.foldl (fun s w => { s with charts := Tab.modify s.charts w.chart fun c => { c with runs := c.runs - 1 } }.chartReap w.chart) s

/-- An entry is the final completion of a command, and not one of the others that a command posts (R135, R217). -/
def finalEntry (e : List Byte) : Bool :=
  !bit (fieldAt e 1 1) 1 && !(fieldAt e 0 1 == 0x01 && bit (fieldAt e 19 1) 1) && !(fieldAt e 0 1 == 0x48 && fieldAt e 17 1 != 1)

/-- The KIND of a radio command's completion (R217, R252, R274). -/
def radioKind (op : Nat) : Option Nat :=
  match op with
  | 0x40 | 0x41 | 0x42 => some 6
  | 0x48 => some 1
  | 0x4C => some 7
  | 0x4D => some 8
  | _ => none

/-- The payload of a command's completion with RESET and nothing else to say: a radio command's carries the common fields of R217. -/
def plainReset (f : Fetched) : List Byte :=
  match radioKind f.opcode with
  | none => toLe 1 stReset
  | some k =>
    let sl := f.opcode = 0x48
    radioPayload stReset k (fieldAt f.body 16 2) (if sl then fieldAt f.body 18 2 else 0) (if sl then fieldAt f.body 20 1 else 0) []

/-- A RESET completion's payload: a run's carries what the run had reported (R134). -/
def State.resetPayload (s : State) (g : Nat) (f : Fetched) : List Byte :=
  match s.runOf g f.cid with
  | some (_, x) =>
    if f.opcode = 0x01 then runPayload stReset 0 false false x.lastE x.lastC x.varied x.warn x.rsvCount x.trig x.recomp x.engineNs
    else plainReset f
  | none => plainReset f

/-- A fetched command ended with RESET: posted while the completion queue has room, and counted either way (R375 step 4). The answer
is the number left unposted. -/
def State.postReset (s : State) (g : Nat) (f : Fetched) : State × Nat :=
  match Tab.get? s.rings g with
  | none => (s, 1)
  | some r =>
    let s := if f.opcode = 0x01 then
        let s := s.addFld F.TRK_REJECT_COUNT_RUN_FAILURES 1
        s.count (15 + if r.cls = 1 then 16 else 0) (some (s.ringDom g)) 1
      else s
    if s.cqRoom r then (s.writeEntry g (mkCompletion f.opcode 0 f.cid f.user (s.resetPayload g f)) (bit f.flags 1), 0)
    else (s, 1)

/-- A ring's commands ended with RESET: the numbers ended and left unposted (R375 step 4). -/
def State.resetRing (s : State) (p : State × Nat × Nat) (g : Nat) : State × Nat × Nat :=
  match Tab.get? p.1.rings g with
  | none => p
  | some r =>
    let held := r.held.countP fun e => finalEntry e.1
    let s := (p.1.setRing g { r with fetched := [], held := [] }).setFld F.RING_STATUS_CQ_WAIT 0 r.key
    let q := r.fetched.foldl (fun (a : State × Nat) f => let b := a.1.postReset g f; (b.1, a.2 + b.2)) (s, held)
    (q.1, p.2.1 + r.fetched.length + held, p.2.2 + q.2)

/-- The phase instances of a squashed run end without success (R220). -/
def State.squashPhase (s : State) (r : Nat) : State :=
  match Tab.get? s.runs r with
  | none => s
  | some x =>
    match x.owner with
    | .ring _ _ => s
    | .phase c n p _ =>
      { s with cells := Tab.modify s.cells c fun y => { y with phases := y.phases.map fun q => q.endRun n p false } }

/-! ### Bursts that a reset stops (R558) -/

/-- A write burst to a domain's HBM that a reset stops is completed by its master's network port: the beats issued before the reset stand,
and the others carry no byte enable and change nothing. Which beats were issued is open (log entry 99). -/
def State.burstEnds (s : State) (d off : Nat) (b : List Byte) : State :=
  if (s.hbmFault d off b.length false).isSome then s
  else
    let f := s.fresh (ceilDiv b.length 64)
    (rangeFrom 0 (ceilDiv b.length 64)).foldl (fun (s : State) k =>
      let beat := slice b (64 * k) 64
      if bit f.1 k then (s.storeData d (off + 64 * k) beat).spoilPages d (off + 64 * k) beat.length else s) f.2

/-- The burst of a run's command, where it is a STORE to HBM that has started. -/
def State.storeBurst (s : State) (r i : Nat) : State :=
  match s.xferOf r i with
  | none => s
  | some (x, t) =>
    match s.xferEnd x t with
    | .hbm off => if x.started i && t.op == 0x21 && !s.areaFault x t then s.burstEnds x.dom off (s.localBytes x t (s.xferLen x t)) else s
    | _ => s

/-- The bursts of a run. -/
def State.runBursts (s : State) (r : Nat) : State :=
  match Tab.get? s.runs r with
  | none => s
  | some x => (x.cmds.map (·.1)).foldl (fun (s : State) i => s.storeBurst r i) s

/-- The burst of a host read whose bytes go to HBM: those that the host had returned before the reset. -/
def State.readBurst (s : State) (j : DmaJob) : State :=
  if j.landed || j.failed.isSome then s
  else
    match j.use with
    | .hcopy g cid =>
      match s.fetched? g cid with
      | none => s
      | some c => s.burstEnds (s.ringDom g) (fieldAt c.body 24 8) j.data
    | .chart id =>
      match Tab.get? s.charts id with
      | none => s
      | some c => s.burstEnds c.dom c.hbmOff j.data
    | _ => s

/-- The work of an instance squashed, without its completions. Its masters' bursts end first, with every response that they are owed. -/
def State.squashWork (s : State) (inst : Nat) : State :=
  let runs := s.instRuns inst
  let s := runs.foldl (fun (s : State) r => s.runBursts r) s
  let s := ((s.dma.filter fun j => j.2.inst == inst).map (·.2)).foldl State.readBurst s
  let s := runs.foldl (fun s r => (s.squashRun r).squashPhase r) s
  let s := s.squashReads fun j => j.inst == inst
  let s := s.detach (s.ownsJob inst)
  let s := (s.squashCharts inst).squashWaits inst
  ((s.cells.map (·.1)).foldl (fun s c => s.squashCell inst c) s).maintAborts inst

/-- CONTEXT_RESET: steps 2 to 4 of a reset that has been requested. -/
def State.contextReset (s : State) (inst : Nat) : State :=
  match Tab.get? s.insts inst with
  | none => s
  | some i =>
    if i.resetStep ≠ 1 then s
    else
      let runs := s.instRuns inst
      let rings := (s.instRings inst).map (·.1)
      let jobs := s.dma.filter fun j => j.2.inst == inst
      let reads := sumList (jobs.map fun j => s.readsOut j.1 j.2)
      let drops := sumList (jobs.map fun j => j.2.dropped)
      let s := s.squashWork inst
      let p := rings.foldl (fun p g => s.resetRing p g) (s, 0, 0)
      let s := runs.foldl (fun s r => s.reapRun r) p.1
      { s with insts := Tab.modify s.insts inst fun i => { i with resetStep := 4, info := [p.2.1, p.2.2, reads, drops] } }

def execContextReset (inst : Nat) (s : State) : Host.Outcome State Fault Refusal := .next (s.contextReset (inst % 1024))

/-! ### Context resets: steps 5 and 6 (R375) -/

/-- The translations of a PASID leave the cache (R373, R375 step 5). -/
def State.atsDrop (s : State) (link pasid : Nat) : State :=
  { s with ats := s.ats.filter fun e => e.1 != link * 2 ^ 20 + pasid }

/-- INST_RESET_INFO of a reset, its fields saturated. -/
def State.writeInfo (s : State) (inst : Nat) (l : List Nat) : State :=
  let f := fun k => min 65535 (l.getD k 0)
  s.setReg F.INST_RESET_INFO_SQUASHED.reg inst (BitVec.ofNat 64 (f 0 + f 1 * 2 ^ 16 + f 2 * 2 ^ 32 + f 3 * 2 ^ 48))

/-- An address of the instance pages. -/
def pageAddr (a : Nat) : Bool := decide (0x100000000 ≤ a)

/-- A ring freed: its registers read their reset values, and it is no notice ring (R361, R430). -/
def State.freeRing (s : State) (g : Nat) (r : Ring) : State :=
  { s with
    rings := Tab.del s.rings g
    insts := Tab.modify s.insts r.inst fun i => { i with locals := Tab.del i.locals r.loc }
    regs := s.regs.filter fun e => !(decide (0x100002000 ≤ e.1 % 2 ^ 40) && e.1 / 2 ^ 40 == r.key)
    noticeRings := s.noticeRings.filter fun n => n.2 != g }

/-- An instance freed with its rings: its page reads as zeros (R360). -/
def State.freeInst (s : State) (inst : Nat) : State :=
  match Tab.get? s.insts inst with
  | none => s
  | some i =>
    let s := (s.instRings inst).foldl (fun s p => s.freeRing p.1 p.2) s
    let s := if i.oper then s else s.configChanged i.dom
    let s := s.atsDrop i.link i.pasid
    { s with
      insts := Tab.del s.insts inst
      regs := s.regs.filter fun e => !(decide (0x100000000 ≤ e.1 % 2 ^ 40) && decide (e.1 % 2 ^ 40 < 0x100002000) && e.1 / 2 ^ 40 == inst) }

/-! ### The mailbox (R357 to R359) -/

def mbOk : Nat := 0
def mbInvalid : Nat := 0x78
def mbInstState : Nat := 0x79
def mbDomainInvalid : Nat := 0x7A
def mbKeyEmpty : Nat := 0x7B
def mbPasidInUse : Nat := 0x7C
def mbRingExhausted : Nat := 0x7D
def mbClassInvalid : Nat := 0x7E

/-- The mark of a host access without a PASID in the record of outputs (log entry 4). -/
def noPasid : Nat := 2 ^ 20

/-- The mailbox's response and status, and BUSY cleared (R357). -/
def State.mbxAnswer (s : State) (addr st : Nat) (rest : List Byte) : State :=
  let s := s.send (.hostWrite 0 noPasid (addr * 64 + 64) (pad64 (toLe 1 st ++ toLe 7 0 ++ rest)))
  let s := s.setFld F.PCI_MBX_CTRL_LAST_STATUS st
  let s := s.addFld F.PCI_MBX_CTRL_SEQ 1
  (s.setFld F.PCI_MBX_CTRL_BUSY 0)

/-- A command block has the operation and zeros in every byte that R358 does not list: the listed ones are given as first byte and
length. -/
def mbBytesOk (b : List Byte) (op : Nat) (listed : List (Nat × Nat)) : Bool :=
  fieldAt b 0 1 == op && (rangeFrom 1 63).all fun k =>
    listed.any (fun p => decide (p.1 ≤ k) && decide (k < p.1 + p.2)) || fieldAt b k 1 == 0

def mbInst (b : List Byte) : Nat := fieldAt b 8 2
def mbLocal (b : List Byte) : Nat := fieldAt b 10 1

/-- CREATE_INSTANCE's fields lie in their ranges (R358, R359). -/
def State.createOk (s : State) (b : List Byte) : Bool :=
  mbBytesOk b 1 [(8, 3), (12, 8)] && decide (mbInst b < 1024) && decide (fieldAt b 10 1 < 128) && decide (fieldAt b 12 4 < 2 ^ 20)
    && decide (fieldAt b 18 1 < 8) && decide (1 ≤ fieldAt b 19 1) && decide (fieldAt b 19 1 ≤ 64)
    && !(bit (fieldAt b 18 1) 1 && !s.flag F.PCI_CAP_BIFURCATE)

/-- CREATE_INSTANCE's status (R359). -/
def State.createStatus (s : State) (b : List Byte) : Nat :=
  let d := fieldAt b 10 1
  let op := bit (fieldAt b 18 1) 0
  let link := b2n (bit (fieldAt b 18 1) 1)
  if !s.createOk b then mbInvalid
  else if Tab.has s.insts (mbInst b) then mbInstState
  else if op = false ∧ s.nExt d = 0 then mbDomainInvalid
  else if op = false ∧ s.keyActive d = false then mbKeyEmpty
  else if s.insts.any (fun i => i.2.link == link && i.2.pasid == fieldAt b 12 4) then mbPasidInUse
  else mbOk

/-- An instance created (R360, R433). -/
def State.createInst (s : State) (b : List Byte) : State :=
  let n := mbInst b
  let op := bit (fieldAt b 18 1) 0
  let d := if op then 0 else fieldAt b 10 1
  let link := b2n (bit (fieldAt b 18 1) 1)
  let i : Inst := { dom := d, pasid := fieldAt b 12 4, oper := op, link := link, ats := bit (fieldAt b 18 1) 2, maxRings := fieldAt b 19 1,
                    locals := [], resetStep := 0, destroy := false, info := [], dbAt := 0, dbs := 0 }
  let s := { s with insts := Tab.set s.insts n i }
  let s := s.setReg F.INST_ID_INSTANCE.reg n
    (BitVec.ofNat 64 (n + d * 2 ^ 10 + i.pasid * 2 ^ 17 + b2n op * 2 ^ 37 + link * 2 ^ 38 + i.maxRings * 2 ^ 39))
  let s := s.setFld F.INST_STATUS_STATE instActive n
  let s := s.setFld F.HLM_SHARE_SHARE (max 1 (fieldAt b 16 2)) (shareIdx 1 n)
  if op then s else s.configChanged d

/-- ALLOC_RING's status (R359, R361, R362). -/
def State.allocStatus (s : State) (b : List Byte) : Nat :=
  let ok := mbBytesOk b 3 [(8, 8)] && decide (mbInst b < 1024) && decide (mbLocal b < 64) && decide (1 ≤ fieldAt b 11 1)
    && decide (fieldAt b 11 1 ≤ 3) && decide (4 ≤ fieldAt b 12 1) && decide (fieldAt b 12 1 ≤ 16) && decide (fieldAt b 13 1 < 2)
    && decide (fieldAt b 14 2 < 2048)
  if !ok then mbInvalid
  else match Tab.get? s.insts (mbInst b) with
    | none => mbInstState
    | some i =>
      let cls := fieldAt b 11 1
      if s.fld F.INST_STATUS_STATE (mbInst b) = instDestroying then mbInstState
      else if decide (8192 ≤ s.rings.length) || decide (i.maxRings ≤ i.locals.length) || Tab.has i.locals (mbLocal b)
          || (fieldAt b 13 1 == 1 && decide (16 ≤ s.rings.countP fun r => r.2.priv)) then mbRingExhausted
      else if (if i.oper then cls == 3 else cls == 2 || (cls == 1 && s.hasCell i.dom)) then mbOk
      else mbClassInvalid

/-- A ring allocated: the lowest-numbered free one (R361). -/
def State.allocRing (s : State) (b : List Byte) : State × Nat :=
  match Tab.lowestFree s.rings 0 8192 with
  | none => (s, 0)
  | some g =>
    let r : Ring := { inst := mbInst b, loc := mbLocal b, cls := fieldAt b 11 1, priv := fieldAt b 13 1 == 1, vector := fieldAt b 14 2,
                      fetched := [], held := [], sqTail := 0, arrivals := [], cqHead := 0, uncounted := 0, firstAt := 0,
                      seedHalf := none, seed := none, cancels := [] }
    let s := { s with
      rings := Tab.set s.rings g r
      insts := Tab.modify s.insts r.inst fun i => { i with locals := Tab.set i.locals r.loc g } }
    let s := s.setFld F.RING_CFG_CLASS r.cls r.key
    let s := s.setFld F.RING_CFG_RING g r.key
    let s := s.setFld F.RING_CFG_PRIVILEGED (b2n r.priv) r.key
    let s := s.setFld F.RING_CFG_MAX_LOG2 (fieldAt b 12 1) r.key
    (s.setFld F.RING_IRQ_VECTOR r.vector r.key, g)

/-- The end of a mailbox command that names an instance, once no reset of it is in progress (R357, R360). -/
def State.mbxFinish (s : State) (w : MbxWait) : State :=
  match w.op with
  | 4 =>
    match s.localRing w.inst w.loc with
    | none => s.mbxAnswer w.addr mbInvalid []
    | some (g, r) =>
      if s.ringState r = ringDisabled then (s.freeRing g r).mbxAnswer w.addr mbOk [] else s.mbxAnswer w.addr mbInstState []
  | 5 => s.mbxAnswer w.addr mbOk (toLe 8 (s.reg F.INST_RESET_INFO_SQUASHED.reg w.inst).toNat)
  | _ => s.mbxAnswer w.addr mbOk []

/-- A mailbox command that waits for a reset. -/
def State.mbxWait (s : State) (w : MbxWait) : State := { s.setFld F.PCI_MBX_CTRL_BUSY 1 with mbx := some w }

/-- DESTROY_INSTANCE begins: the reset, then the rings freed (R360). -/
def State.destroyStart (s : State) (inst : Nat) : State :=
  let was := s.fld F.INST_STATUS_STATE inst
  let s := s.resetAsk inst
  let s := if was = instActive then s.setFld F.INST_STATUS_STATE instDestroying inst else s
  { s with insts := Tab.modify s.insts inst fun i => { i with destroy := true } }

/-- The status of a command that names an instance and a local ring, or an instance alone (R359, R360). -/
def State.nameStatus (s : State) (b : List Byte) (op : Nat) : Nat :=
  let listed := if op = 4 then [(8, 3)] else [(8, 2)]
  if !(mbBytesOk b op listed && decide (mbInst b < 1024) && decide (mbLocal b < 64)) then mbInvalid
  else match Tab.get? s.insts (mbInst b) with
    | none => mbInstState
    | some i =>
      if op = 4 ∧ Tab.has i.locals (mbLocal b) = false then mbInvalid
      else if s.fld F.INST_STATUS_STATE (mbInst b) = instDestroying then mbInstState
      else mbOk

/-- A mailbox command that was read, on its operation. -/
def State.mbxRun (s : State) (op : Nat) (b : List Byte) : State :=
  let addr := s.fld F.PCI_MBX_ADDR_ADDR
  let w : MbxWait := ⟨op, mbInst b, mbLocal b, addr⟩
  match op with
  | 1 =>
    let st := s.createStatus b
    (if st = mbOk then s.createInst b else s).mbxAnswer addr st []
  | 3 =>
    let st := s.allocStatus b
    if st = mbOk then
      let p := s.allocRing b
      p.1.mbxAnswer addr st (toLe 2 p.2)
    else s.mbxAnswer addr st []
  | 4 =>
    let st := s.nameStatus b 4
    if st ≠ mbOk then s.mbxAnswer addr st []
    else if s.instQuiet w.inst then s.mbxWait w
    else s.mbxFinish w
  | 5 =>
    let st := s.nameStatus b 5
    if st ≠ mbOk then s.mbxAnswer addr st [] else (s.resetAsk w.inst).mbxWait w
  | _ =>
    let st := s.nameStatus b 2
    if st ≠ mbOk then s.mbxAnswer addr st [] else (s.destroyStart w.inst).mbxWait w

/-- GO with what the read of the buffer brings: a command of this operation, or one of a reserved operation; a block of another operation is
another command's. A buffer that cannot be read ends the command with no response and a status that is
open (log entry 29). -/
def State.mbxGo (s : State) (op : Nat) (block : HostRead) : State :=
  if !s.running || s.flag F.PCI_MBX_CTRL_BUSY then s
  else
    match block with
    | .data b =>
      let b := pad64 b
      if fieldAt b 0 1 = op then s.mbxRun op b
      else if 1 ≤ fieldAt b 0 1 ∧ fieldAt b 0 1 ≤ 5 then s
      else s.mbxAnswer (s.fld F.PCI_MBX_ADDR_ADDR) mbInvalid []
    | h =>
      let s := match h with
        | .timeout => (s.addFld F.PCI_LATE_TIMEOUTS 1).raise F.PCI_ERR_STATUS_CPL_TIMEOUT
        | _ => s.raise F.PCI_ERR_STATUS_DMA_FAULT
      let f := s.fresh 8
      f.2.setFld F.PCI_MBX_CTRL_LAST_STATUS f.1

def execCreateInstance (block : HostRead) (s : State) : Host.Outcome State Fault Refusal := .next (s.mbxGo 1 block)
def execDestroyInstance (block : HostRead) (s : State) : Host.Outcome State Fault Refusal := .next (s.mbxGo 2 block)
def execAllocRing (block : HostRead) (s : State) : Host.Outcome State Fault Refusal := .next (s.mbxGo 3 block)
def execFreeRing (block : HostRead) (s : State) : Host.Outcome State Fault Refusal := .next (s.mbxGo 4 block)
def execResetInstance (block : HostRead) (s : State) : Host.Outcome State Fault Refusal := .next (s.mbxGo 5 block)

/-- The mailbox command that waits for an instance ends (R357). -/
def State.mbxSettle (s : State) (inst : Nat) : State :=
  match s.mbx with
  | none => s
  | some w => if w.inst = inst then { s with mbx := none }.mbxFinish w else s

/-- Step 6 of a reset, and the instance freed when it is being destroyed (R360, R375). -/
def State.resetDone (s : State) (inst : Nat) (slow : Bool) : State :=
  match Tab.get? s.insts inst with
  | none => s
  | some i =>
    if i.resetStep ≠ 4 then s
    else
      let s := s.atsDrop i.link i.pasid
      let s := (s.instRings inst).foldl (fun s p => s.clearRing p.1 p.2 ringDisabled) s
      let s := (s.writeInfo inst i.info).addFld F.INST_STATUS_RESET_COUNT 1 inst
      let s := if slow then s.raise F.PCI_ERR_STATUS_RESET_SLOW else s
      let s := s.setFld F.INST_STATUS_STATE instActive inst
      let s := { s with insts := Tab.modify s.insts inst fun i => { i with resetStep := 0 } }
      (if i.destroy then s.freeInst inst else s).mbxSettle inst

/-- CONTEXT_RESET_DONE: issued host writes have left the link, after 35 µs when `slow`. -/
def execContextResetDone (inst : Nat) (slow : Bool) (s : State) : Host.Outcome State Fault Refusal :=
  .next (s.resetDone (inst % 1024) slow)

/-! ### Translations (R373) -/

/-- ATS_INVALIDATION of a range of a PASID on a link: it completes once no read that uses the range is outstanding. -/
def State.atsInvalidate (s : State) (link pasid addr len : Nat) : State :=
  let mine := fun j : DmaJob => s.route j.inst == (link, pasid) && decide (j.addr < addr + len) && decide (addr < j.addr + j.len)
  if s.dma.any fun j => mine j.2 && !j.2.landed && j.2.failed.isNone then s
  else
    let hit := fun e : Nat × Nat => e.1 == link * 2 ^ 20 + pasid && decide (e.2 * 65536 < addr + len) && decide (addr < (e.2 + 1) * 65536)
    { s with ats := s.ats.filter fun e => !hit e }.count (0xE8F + 16 * link) none 1

def execAtsInvalidation (link pasid addr len : Nat) (s : State) : Host.Outcome State Fault Refusal :=
  .next (s.atsInvalidate (link % 2) (pasid % 2 ^ 20) addr len)

/-! ### Function Level Resets and link resets (R378, R557) -/

/-- The mailbox's reset: its command ends with no response, and an instance that it was destroying stays (R378, log entry 30). -/
def State.mbxReset (s : State) : State :=
  let keep := fun (p : Nat × Inst) => (p.1, { p.2 with destroy := false })
  let s := (s.insts.map (·.1)).foldl (fun s i =>
    if s.fld F.INST_STATUS_STATE i = instDestroying then s.setFld F.INST_STATUS_STATE instResetting i else s) s
  ({ s with mbx := none, insts := s.insts.map keep }).setFld F.PCI_MBX_CTRL_BUSY 0

/-- A Function Level Reset: 0 of PF 0, 1 of PF 1, 2 of L1F (R378). What PF 1's resets holds no message between two commands (log
entry 30). -/
def State.flr (s : State) (fn : Nat) : State :=
  match fn with
  | 0 => ((s.insts.map (·.1)).foldl State.resetAsk s).mbxReset
  | 1 => s
  | _ => ((s.insts.filter fun i => i.2.link == 1).map (·.1)).foldl State.resetAsk s

def execFlr (function : Nat) (s : State) : Host.Outcome State Fault Refusal := .next (s.flr function)

/-- The status register of a link. -/
def linkReg (j : Nat) : Nat := 0xB000008 + 8 * j

/-- A link's state after training: speed and width, or down (R353, R380). -/
def State.linkState (s : State) (j : Nat) (up : Bool) (speed width : Nat) : State :=
  let old := (s.reg (linkReg j)).toNat / 2 ^ 10 % 65536
  let st := if up && !s.clockLost 3 j then 1 + speed % 8 * 2 + width % 32 * 2 ^ 4 + b2n (speed == 6) * 2 ^ 9 else 0
  s.setReg (linkReg j) 0 (BitVec.ofNat 64 (st + old * 2 ^ 10))

/-- A retrain of a link counted (R380, R562). -/
def State.linkRetrains (s : State) (j : Nat) : State :=
  let old := (s.reg (linkReg j)).toNat
  let n := old / 2 ^ 10 % 65536
  let s := s.setReg (linkReg j) 0 (BitVec.ofNat 64 (old % 2 ^ 10 + satAdd n 1 16 * 2 ^ 10))
  (s.count (0xE80 + 16 * j) none 1).health (20 + j) 1 1

/-- PCIE_LINK_RESET (R557): the Function Level Resets of the link's functions, and the link retrained to a speed and a width, or down when
the width is 0. -/
def State.pcieLinkReset (s : State) (j speed width : Nat) : State :=
  let s := if j = 0 then (s.flr 0).flr 1 else s.flr 2
  let old := (s.reg (linkReg j)).toNat
  let changed := fun (was new : Nat) => b2n (bit old 0 && width != 0 && was != new)
  let s := (s.count (0xE81 + 16 * j) none (changed (old / 2 % 8) (speed % 8))).count (0xE82 + 16 * j) none (changed (old / 16 % 32) (width % 32))
  (s.linkRetrains j).linkState j (width != 0) speed width

def execPcieLinkReset (link speed width : Nat) (s : State) : Host.Outcome State Fault Refusal :=
  .next (s.pcieLinkReset (link % 2) speed width)

/-- PERST_DEASSERT (R600): the link trains, once the I/O die has power. -/
def State.perst (s : State) (j speed width : Nat) : State :=
  if s.fld F.GLB_STATUS_BOOT_STATE ≥ 3 then s.linkState j (width != 0) speed width else s

def execPerstDeassert (link speed width : Nat) (s : State) : Host.Outcome State Fault Refusal :=
  .next (s.perst (link % 2) speed width)

/-! ### Faults that start resets (R169, R549, R550) -/

/-- QUEUE_STATE_UE: the ring's instance is reset. -/
def State.queueUe (s : State) (g : Nat) : State :=
  match Tab.get? s.rings g with
  | none => s
  | some r => (s.faultRecord { s.ringRecord g 0 0x0506 2 with cmd := none }).deviceReset 0x0506 r.inst

def execQueueStateUe (ring : Nat) (s : State) : Host.Outcome State Fault Refusal := .next (s.queueUe ring)

/-- The core of a group that serves a number (R169). -/
def servedBy (cores : List Nat) (n : Nat) : Nat := cores.getD (n % max 1 cores.length) 0

/-- The instances with a run, a ring or a cell slot on a core (R169). -/
def State.coreInsts (s : State) (core : Nat) : List Nat :=
  if core < 8 then (s.runs.filter fun p => servedBy s.seqCores p.1 == core).map fun p => s.runInst p.2
  else if core < 24 then (s.cells.filter fun p => p.2.st.held && p.2.orch == core).filterMap fun p => p.2.cfg.map (·.inst)
  else (s.rings.filter fun p => servedBy s.queueCores p.1 == core).map fun p => p.2.inst

/-- A disabled core's cell slots move to the remaining cores (R169). -/
def State.moveCells (s : State) (core : Nat) : State :=
  (s.cells.filter fun p => p.2.st.held && p.2.orch == core).foldl (fun s p =>
    let q := s.pickOrch p.1
    q.2.modCell p.1 fun x => { x with orch := q.1 }) s

/-- A Helm core leaves service (R169): its instances reset, its assignments moved and admission run again. -/
def State.loseCore (s : State) (core cause : Nat) : State :=
  let insts := s.coreInsts core
  let s := (s.mapDisable ⟨ucCore, core⟩ cause).raise F.HLM_ERR_STATUS_CORE_DISABLED
  ((s.deviceResets cause insts).moveCells core).shedDecision 5

/-- HELM_CORE: a firmware exception or a local-memory error of a core. -/
def State.helmCore (s : State) (core pc : Nat) : State :=
  if s.unitOff ⟨ucCore, core⟩ then s
  else (s.faultRecord { FaultRec.of 0x0505 3 with ucls := ucCore, uidx := core, detail := pc }).loseCore core 0x0505

def execHelmCore (core pc : Nat) (s : State) : Host.Outcome State Fault Refusal := .next (s.helmCore (core % 32) pc)

/-- The instances with descriptors or tags on an engine (R549). -/
def State.engineInsts (s : State) (cls e : Nat) : List Nat :=
  if cls = ucDma then (s.dma.filter fun j => j.2.engine == e).map fun j => j.2.inst
  else (s.insts.map (·.1)).filter fun i => s.fab.ops.any fun o =>
    o.2.engine == e && (match o.2.owner with
      | .job j _ => match Tab.get? s.fab.jobs j with
        | some x => s.ownsJob i x
        | none => false
      | _ => false)

/-- A DMA or fabric engine leaves service (R549, R550). -/
def State.loseIoEngine (s : State) (cls e cause : Nat) : State :=
  let insts := s.engineInsts cls e
  (s.mapDisable ⟨cls, e⟩ cause).deviceResets cause insts

/-- ENGINE_PARITY of DMA engine or fabric engine `e`. -/
def State.engineParity (s : State) (fabric : Bool) (e : Nat) : State :=
  let cls := if fabric then ucFab else ucDma
  (s.faultRecord { FaultRec.of 0x0507 3 with ucls := cls, uidx := e }).loseIoEngine cls e 0x0507

def execEngineParity (fabric : Bool) (engine : Nat) (s : State) : Host.Outcome State Fault Refusal :=
  .next (s.engineParity fabric (engine % if fabric then 24 else 16))

/-- A compute reset's step 1 for the instances: each is RESETTING (R552). -/
def State.computeStart (s : State) (cause : Nat) : State :=
  let s := (s.insts.map (·.1)).foldl State.resetStart s
  { s with computeCause := some cause }

/-- CONTROL_UE: a compute reset that the device starts. -/
def State.controlUe (s : State) : State :=
  (s.faultRecord (FaultRec.of 0x0508 5)).computeStart 0x0508

def execControlUe (s : State) : Host.Outcome State Fault Refusal := .next s.controlUe

end Sys2Proof.Machine
end

