-- ==== Sys2Proof/Machine/Servo.lean ====
section
/-! DEFINITION. The Meridian's servo: steps and slews of the counter, its states, the loss of its source, and the choice of a master (R459 to R466). -/

namespace Sys2Proof.Machine

/-- Servo states of MER_STATUS (R462). -/
def merFreerun : Nat := 0
def merAcquiring : Nat := 1
def merLocked : Nat := 2
def merHoldover : Nat := 3

/-- Port states of MER_PORT_CFG (R476). -/
def ptpDisabled : Nat := 0
def ptpMaster : Nat := 1
def ptpSlave : Nat := 2
def ptpPassive : Nat := 3

/-- The servo's state. -/
def State.servo (s : State) : Nat := s.fld F.MER_STATUS_STATE

/-- What the Meridian keeps of a sub-port. -/
def State.ptpPort (s : State) (sp : Nat) : PtpPort := (Tab.get? s.mer.ports sp).getD ⟨[], none, none, none, none, 0⟩

/-- The state with what the Meridian keeps of a sub-port set. -/
def State.setPtpPort (s : State) (sp : Nat) (p : PtpPort) : State :=
  { s with mer := { s.mer with ports := Tab.set s.mer.ports sp p } }

/-- An event of the Meridian counted (R524). -/
def State.merCount (s : State) (k : Nat) : State := s.count (0xF00 + k) none 1

/-- The slave port in force. -/
def State.slavePort (s : State) : Option Nat :=
  if s.flag F.MER_STATUS_SLAVE_VALID then some (s.fld F.MER_STATUS_SLAVE_PORT) else none

/-- The clock class that the device sends (R466): the parent's when LOCKED, 135 in holdover and 165 past its limit, else 248. None where a
locked servo has no parent: the manual gives no class for it (log entry 35). -/
def State.clockClassNow (s : State) : Option Nat :=
  if s.servo = merLocked then s.slavePort.bind fun p => (s.ptpPort p).best.head?
  else if s.servo = merHoldover then some (if s.flag F.MER_STATUS_HOLD_EXPIRED then 165 else 135)
  else some 248

/-- CLOCK_CLASS as the servo's state and master give it. -/
def State.setClass (s : State) : State :=
  match s.clockClassNow with
  | some c => s.setFld F.MER_STATUS_CLOCK_CLASS c
  | none => let f := s.fresh 8; f.2.setFld F.MER_STATUS_CLOCK_CLASS f.1

/-! ### Steps (R463) -/

/-- A number of 2^−32 ns as whole nanoseconds, rounded toward zero. -/
def toNs (d : Int) : Int := Int.tdiv d (2 ^ 32)

/-- A sum brought back into the range of SEC, in 2^−32 ns (R459). -/
def taiWrap (x : Int) : Nat := (x % ((2 ^ 48 * taiSec : Nat) : Int)).toNat

/-- The counter stepped to a value, by a source of R511: counted, noted and logged as TIME_STEP. -/
def State.stepTo (s : State) (t source : Nat) : State :=
  let t := t % (2 ^ 48 * taiSec)
  let d := toNs (Int.ofNat t - Int.ofNat s.tai)
  let s := { s with tai := t, mer := { s.mer with before := some s.tai } }
  let s := (s.addFld F.MER_STATUS_STEPS 1).raise F.MER_ERR_STATUS_STEPPED
  (s.merCount 0).logEvent 0x0070 1 (toLe 8 (wrapInt d 64) ++ toLe 1 source)

/-! ### The servo (R462, R463) -/

/-- The units of RATE_ADJ in a slew of SLEW_PPB (R463). -/
def State.slewUnits (s : State) : Int := (s.fld F.MER_SERVO_SLEW_PPB * 2 ^ 32 / 1000000000 : Nat)

/-- A number kept within limits. -/
def clampInt (x lo hi : Int) : Int := if x < lo then lo else if hi < x then hi else x

/-- The largest RATE_ADJ (R460). -/
def rateMax : Int := 858993

/-- RATE_ADJ set. -/
def State.setRate (s : State) (r : Int) : State := s.setFld F.MER_SERVO_RATE_ADJ (wrapInt (clampInt r (-rateMax) rateMax) 32)

/-- A slew (R463): the frequency estimate and the rate about it are open within the limits that the rules give. -/
def State.slew (s : State) : State :=
  let a := s.fresh 32
  let b := a.2.fresh 32
  let est := clampInt (signed a.1 32) (-rateMax) rateMax
  let s := { b.2 with mer := { b.2.mer with freq := est } }
  s.setRate (clampInt (signed b.1 32) (est - s.slewUnits) (est + s.slewUnits))

/-- A magnitude in 2^−16 ns against a limit in ns. -/
def offAbs (off : Int) : Nat := off.natAbs

/-- The servo may step the counter for an offset (R463). -/
def State.mayStep (s : State) (off : Int) : Bool :=
  !s.cellRunning && (!s.timeValid || decide (s.fld F.MER_SRC_CTRL_STEP_NS * 65536 ≤ offAbs off))

/-- The counter corrected by a step or a slew; an offset of 0 leaves it as it is. -/
def State.correct (s : State) (off : Int) : State :=
  if s.mayStep off then if off = 0 then s else s.stepTo (taiWrap ((s.tai : Int) - off * 65536)) 0 else s.slew

/-- The servo leaves holdover. -/
def State.leaveHold (s : State) : State :=
  (s.setFld F.MER_STATUS_HOLD_EXPIRED 0).setFld F.MER_STATUS_HOLD_MS 0

/-- A measurement in ACQUIRING: the sixteenth in succession below LOCK_NS locks (R462). -/
def State.acquire (s : State) (off : Int) : State :=
  let n := if offAbs off < s.fld F.MER_SERVO_LOCK_NS * 65536 then s.mer.good + 1 else 0
  let s := { s with mer := { s.mer with good := n } }
  if 16 ≤ n then (s.setFld F.MER_STATUS_STATE merLocked).setFld F.MER_STATUS_TIME_VALID 1 else s

/-- A phase measurement, as the counter less the source in 2^−16 ns (R462, R463). -/
def State.phaseMeasure (s : State) (off : Int) : State :=
  let s :=
    if s.servo = merFreerun ∨ s.servo = merHoldover then
      { (s.leaveHold.setFld F.MER_STATUS_STATE merAcquiring) with mer := { s.mer with good := 0 } }
    else if s.servo = merAcquiring then s.acquire off
    else s
  (s.correct off).setClass

/-- The phase source is lost (R462, R465): the counter holds over at the filtered estimate, or falls back to FREERUN. -/
def State.sourceLost (s : State) : State :=
  if s.servo = merLocked ∨ (s.servo = merAcquiring ∧ s.timeValid) then
    let s := (s.raise F.MER_ERR_STATUS_SOURCE_LOST).setRate s.mer.freq
    let s := (s.setFld F.MER_STATUS_STATE merHoldover).setFld F.MER_STATUS_HOLD_MS 0
    (({ s with mer := { s.mer with holdAt := s.now } }.merCount 1).merCount 2).setClass
  else if s.servo = merAcquiring then
    ((s.raise F.MER_ERR_STATUS_SOURCE_LOST).setFld F.MER_STATUS_STATE merFreerun).merCount 2
  else s

/-! ### The choice of a master (R466) -/

/-- A sub-port is a PTP port in service. -/
def State.ptpOn (s : State) (sp : Nat) : Bool := s.flag F.MER_PORT_CFG_PTP_EN sp && s.flag F.ETH_SUB_STATUS_UP sp

/-- What the alternate BMCA of the configured profile compares (R466): the profile, its domain, and each PTP port's settings and data set. -/
def State.bmcaInput (s : State) : List Nat :=
  [s.fld F.MER_SRC_CTRL_PROFILE, s.fld F.MER_SRC_CTRL_PTP_DOMAIN] ++
  ((rangeFrom 0 32).filter s.ptpOn).flatMap fun sp =>
    let b := (s.ptpPort sp).best
    [sp, s.fld F.MER_PORT_CFG_MASTER_ONLY sp, s.fld F.MER_PORT_CFG_LOCAL_PRIO sp, b.length] ++ b

/-- The slave port that it selects: a PTP port with an Announce, and not one of masterOnly. -/
def State.bmcaSlave (s : State) (r : List Int) : Option Nat :=
  let p := (r.headD 0).toNat
  if p = 0 ∨ 32 < p then none
  else if s.ptpOn (p - 1) && !s.flag F.MER_PORT_CFG_MASTER_ONLY (p - 1) && !(s.ptpPort (p - 1)).best.isEmpty then some (p - 1)
  else none

/-- The state of a sub-port's PTP port. -/
def State.bmcaPort (s : State) (r : List Int) (slave : Option Nat) (sp : Nat) : Nat :=
  if !s.ptpOn sp then ptpDisabled
  else if slave = some sp then ptpSlave
  else if !s.flag F.MER_PORT_CFG_MASTER_ONLY sp && r.getD (sp + 1) 0 == 1 then ptpPassive else ptpMaster

/-- The master that a slave port follows. -/
def State.masterOf (s : State) (sp : Option Nat) : Option (Nat × Option Nat) := sp.map fun p => (p, (s.ptpPort p).best[2]?)

/-- The BMCA run again, after a change from the master `old` (R462): another master puts a locked servo back to ACQUIRING, and none at all
is the loss of the source. -/
def State.bmca (s : State) (old : Option (Nat × Option Nat)) : State :=
  let r := std stdBmca s.bmcaInput
  let slave := s.bmcaSlave r
  let s := (rangeFrom 0 32).foldl (fun s sp => s.setFld F.MER_PORT_CFG_PORT_STATE (s.bmcaPort r slave sp) sp) s
  let s := (s.setFld F.MER_STATUS_SLAVE_VALID (b2n slave.isSome)).setFld F.MER_STATUS_SLAVE_PORT (slave.getD 0)
  let new := s.masterOf slave
  let s := if new = old then s else s.merCount 7
  if s.fld F.MER_SRC_CTRL_PHASE_SRC ≠ 0 ∨ new = old then s.setClass
  else if new.isNone then s.sourceLost.setClass
  else if s.servo = merLocked then
    { (s.setFld F.MER_STATUS_STATE merAcquiring) with mer := { s.mer with good := 0 } }.setClass
  else s.setClass

/-- A sub-port that was the slave port has gone down: the phase source is lost, and a master is chosen again (R462, R465). -/
def State.slaveDown (s : State) (sp : Nat) : State :=
  if s.slavePort = some sp then
    let s := if s.fld F.MER_SRC_CTRL_PHASE_SRC = 0 then s.sourceLost else s
    s.bmca (s.masterOf (some sp))
  else s

end Sys2Proof.Machine
end

