-- ==== Sys2Proof/Machine/Eth.lean ====
section
/-! DEFINITION. Ethernet ports: lanes and sub-ports (R381 to R383), MACsec (R385 to R387), the receive path (R388 to R396), policing (R397,
R398), steering and grants (R230, R391, R405). -/

namespace Sys2Proof.Machine

/-! ### Ports and sub-ports (R381, R383) -/

/-- The Meridian's time in whole ns. -/
def State.taiNs (s : State) : Nat := s.sec * 1000000000 + s.ns

/-- The form of a port: its MODE, or that of a shed. -/
def State.portForm (s : State) (p : Nat) : Nat := (Tab.get? s.eth.shed p).getD (s.fld F.ETH_PORT_CTRL_MODE p)

/-- The sub-ports of a port in a form, and the lanes of one. -/
def formSubs (form : Nat) : Nat := 2 ^ (form % 3)
def formLanes (form k : Nat) : List Nat := rangeFrom (k * (4 / formSubs form)) (4 / formSubs form)

/-- A lane of a port holds lock. -/
def State.laneLock (s : State) (p l : Nat) : Bool := bit s.eth.locks (4 * p + l)

/-- The rate of a sub-port in Gb/s. -/
def State.subRate (s : State) (sp : Nat) : Nat := 800 / formSubs (s.portForm (sp / 4))

/-- LANE_LOCK of a port's sub-ports (R408). -/
def State.showLocks (s : State) (p : Nat) : State :=
  (rangeFrom (4 * p) 4).foldl (fun s k => s.setFld F.ETH_SUB_STATUS_LANE_LOCK (s.eth.locks / 2 ^ (4 * p)) k) s

/-- A sub-port as frames are keyed (R383). -/
def State.keyed (s : State) (sp : Nat) : Nat :=
  if s.flag F.ETH_SUB_STATUS_SHED_ALIAS sp then s.fld F.ETH_SUB_STATUS_ALIAS_OF sp else sp

/-- The egress queues bound to a sub-port. -/
def State.queuesOf (s : State) (sp : Nat) : List Nat :=
  (s.indices 0x4000068).filter fun q => s.flag F.ETH_Q_CFG_ENABLE q && s.fld F.ETH_Q_CFG_SUBPORT q == sp

def TxQueue.blank : TxQueue :=
  ⟨0, 0, [], 0, false, 0x14, 0, 0, 0, 0, 0, 0, 0, none, 0, 0, none, none, 0⟩
def State.ethSub (s : State) (sp : Nat) : EthSub := Tab.getD s.eth.subs sp ⟨VTime.reset, 0, 0, none⟩
def State.setEthSub (s : State) (sp : Nat) (x : EthSub) : State := { s with eth := { s.eth with subs := Tab.set s.eth.subs sp x } }
def State.txq (s : State) (q : Nat) : TxQueue := Tab.getD s.eth.tx q TxQueue.blank
def State.setTxq (s : State) (q : Nat) (x : TxQueue) : State := { s with eth := { s.eth with tx := Tab.set s.eth.tx q x } }

/-! ### The memory of packet rings (R393) -/

/-- A packet ring's domain, descriptors, control area and state: receive rings are 0 to 4,095, transmit ring q is 4,096 + q. -/
def State.prDom (s : State) (n : Nat) : Nat := s.fld F.ETH_PRING_DOMAIN n
def State.prSize (s : State) (n : Nat) : Nat := 2 ^ s.fld F.ETH_PRING_LOG2 n
def State.prCtrl (s : State) (n : Nat) : Nat := s.fld F.ETH_PRING_CTRL_GRAN n * 64
def State.prOn (s : State) (n : Nat) : Bool := s.flag F.ETH_PRING_ENABLE n
def State.prDesc (s : State) (n i : Nat) : Nat := s.prCtrl n + 128 + i % s.prSize n * 64

/-- A range of a domain's space that the device cannot access, noted with its record (R295). -/
def State.ethFault (s : State) (d off cause : Nat) : State :=
  (s.hbmNote cause).faultRecord { FaultRec.of cause 1 with dom := some d, detail := off }

/-- Bytes of a ring read, or none where the domain's memory refuses. -/
def State.prRead (s : State) (n off len : Nat) : Option (List Byte) :=
  if (s.hbmFault (s.prDom n) off len true).isNone then some (s.bytes .hbm (s.prDom n) off len) else none

/-- A read of a ring's memory: errors there are met and the read is counted, and where the memory refuses it that is noted (R297, R393). -/
def State.prMeets (s : State) (n off len : Nat) : State :=
  let s := s.readHbm (s.prDom n) off len
  match s.hbmFault (s.prDom n) off len true with
  | some c => s.ethFault (s.prDom n) off c
  | none => s

/-- Bytes of a ring written where the domain's memory takes them. -/
def State.prWrite (s : State) (n off : Nat) (b : List Byte) : State :=
  match s.hbmFault (s.prDom n) off b.length false with
  | none => s.storeData (s.prDom n) off b
  | some c => s.ethFault (s.prDom n) off c

/-- PHASE of the entry with a free-running index (R394). -/
def prPhase (size i : Nat) : Nat := 1 - i / size % 2

/-! ### Receive rings (R394, R395) -/

def causeFcs : Nat := 0x88
def causeIcv : Nat := 0x89
def causeOversize : Nat := 0x8A
def causeRingEmpty : Nat := 0x8B
def causeMemWait : Nat := 0x8C
def causeLinkLoss : Nat := 0x8D
def causeBufBounds : Nat := 0x8E

def State.rxr (s : State) (n : Nat) : RxRing := Tab.getD s.eth.rx n ⟨0, 0, [], 0, 0, 0, 0⟩
def State.setRxr (s : State) (n : Nat) (r : RxRing) : State := { s with eth := { s.eth with rx := Tab.set s.eth.rx n r } }

/-- The descriptors of a receive ring that a new AVAIL lets it read, up to 16 held. -/
def RxRing.room (r : RxRing) (b : List Byte) : Nat := min (16 - r.held.length) (wrap (leNat b + 2 ^ 32 - r.next) 32)

/-- What reading AVAIL and those descriptors meets in the ring's memory (R297). -/
def State.rxMeets (s : State) (n : Nat) (r : RxRing) : State :=
  let s := s.prMeets n (s.prCtrl n) 64
  match s.prRead n (s.prCtrl n) 4 with
  | none => s
  | some b => (rangeFrom 0 (r.room b)).foldl (fun s k => s.prMeets n (s.prDesc n (r.next + k)) 64) s

/-- AVAIL read again, and descriptors read up to 16 held (R395). -/
def State.rxRefill (s : State) (n : Nat) (r : RxRing) : RxRing :=
  match s.prRead n (s.prCtrl n) 4 with
  | none => r
  | some b =>
    let m := r.room b
    let new := (rangeFrom 0 m).map fun k => match s.prRead n (s.prDesc n (r.next + k)) 12 with
      | some d => (fieldAt d 0 8, fieldAt d 8 4)
      | none => (0, 0)
    { r with next := wrap (r.next + m) 32, held := r.held ++ new }

/-- A frame's bytes laid into buffers from the ring: the parts as buffer and byte count, and the cause that ended it, 0 for none. `i` is
fuel, one step a buffer. -/
def State.rxFill (s : State) (n : Nat) : Nat → RxRing → List Byte → List (Nat × Nat) → State × RxRing × List (Nat × Nat) × Nat
  | 0, r, _, parts => (s, r, parts, causeRingEmpty)
  | i + 1, r, b, parts =>
    let s := if r.held.isEmpty then s.rxMeets n r else s
    let r := if r.held.isEmpty then s.rxRefill n r else r
    match r.held with
    | [] => (s, r, parts, causeRingEmpty)
    | (buf, len) :: t =>
      let r := { r with held := t }
      let c := b.take len
      match (if c.isEmpty then none else s.hbmFault (s.prDom n) buf c.length false) with
      | some f => (s.ethFault (s.prDom n) buf f, r, parts ++ [(buf, 0)], causeBufBounds)
      | none =>
        let s := s.storeData (s.prDom n) buf c
        let parts := parts ++ [(buf, c.length)]
        if b.length ≤ len then (s, r, parts, 0) else s.rxFill n i r (b.drop len) parts

/-- Granule 1 of a receive ring (R393). -/
def State.rxGranule (s : State) (n : Nat) (r : RxRing) : State :=
  (s.setRxr n r).prWrite n (s.prCtrl n + 64)
    (toLe 4 r.used ++ toLe 4 r.nobuf ++ toLe 4 r.trunc ++ toLe 4 r.policed ++ toLe 4 r.disc)

/-- What a receive descriptor reports of its frame (R394). -/
structure RxInfo where
  flags : Nat
  colour : Nat
  tstamp : Nat
  flen : Nat
  cause : Nat
  hash : Nat
  steer : Nat
  sp : Nat
deriving DecidableEq, Repr

/-- Bytes 12 to 63 of a descriptor of a frame of `m` descriptors, the k-th of them. -/
def rxDesc (x : RxInfo) (size i k m len trunc : Nat) : List Byte :=
  let first := b2n (k == 0)
  let last := b2n (k + 1 == m)
  let tr := if k + 1 = m then trunc else 0
  toLe 4 0 ++ toLe 2 len ++ toLe 1 (prPhase size i + 2 * first + 4 * last + x.flags + 16 * tr) ++ toLe 1 x.colour ++ toLe 4 x.tstamp
    ++ toLe 2 (if k = 0 ∨ k + 1 = m then x.flen else 0) ++ toLe 1 x.cause ++ toLe 1 0 ++ toLe 4 x.hash ++ toLe 2 x.steer
    ++ toLe 1 x.sp ++ toLe 29 0

/-- A frame's descriptors written, USED advanced, and the outcome counted (R395). -/
def State.rxReturn (s : State) (n : Nat) (r : RxRing) (parts : List (Nat × Nat)) (x : RxInfo) (cause : Nat) : State :=
  let x := { x with flags := x.flags + (if cause ≠ 0 then 8 else 0) }
  let m := parts.length
  let last := fun k : Nat => cause == causeRingEmpty && k + 1 == m
  let cz := fun k : Nat => if cause = causeRingEmpty then (if last k then cause else 0) else cause
  let s := parts.zipIdx.foldl (fun s p =>
    s.prWrite n (s.prDesc n (r.used + p.2) + 12) (rxDesc { x with cause := cz p.2 } (s.prSize n) (r.used + p.2) p.2 m p.1.2 (b2n (last p.2)))) s
  let r := { r with used := wrap (r.used + m) 32 }
  let r := if cause = 0 then r else if cause = causeRingEmpty then { r with trunc := wrap (r.trunc + 1) 32 }
    else { r with disc := wrap (r.disc + 1) 32 }
  s.rxGranule n r

/-- A frame taken by a ring: the bytes `b` of it, ended by `cut` when it is not 0 (R395). A frame ended before any byte of it was written
returns no buffer. -/
def State.rxDeliver (s : State) (ring dom sp : Nat) (b : List Byte) (x : RxInfo) (cut : Nat) : State :=
  let r := s.rxr ring
  let s := if r.held.length < 8 then s.rxMeets ring r else s
  let r := if r.held.length < 8 then s.rxRefill ring r else r
  if cut ≠ 0 ∧ b.isEmpty = true then s.rxGranule ring { r with disc := wrap (r.disc + 1) 32 }
  else if r.held.isEmpty then
    (s.rxGranule ring { r with nobuf := wrap (r.nobuf + 1) 32 }).count (0x076 + 8 * sp) (some dom) 1
  else
    let p := s.rxFill ring (b.length + 16) r b []
    let cause := if p.2.2.2 = 0 then cut else p.2.2.2
    let s := if cause = causeRingEmpty then p.1.count (0x076 + 8 * sp) (some dom) 1 else p.1
    s.rxReturn ring p.2.1 p.2.2.1 x cause

/-! ### Frames (R386 to R392) -/

def beAt (b : List Byte) (o n : Nat) : Nat := beNat (slice b o n)

/-- A frame carries a VLAN tag; its TCI; its EtherType; and where its payload starts. -/
def frTagged (b : List Byte) : Bool := beAt b 12 2 == 0x8100
def frTci (b : List Byte) : Nat := if frTagged b then beAt b 14 2 else 0
def frType (b : List Byte) : Nat := if frTagged b then beAt b 16 2 else beAt b 12 2
def frOff (b : List Byte) : Nat := if frTagged b then 18 else 14
def frVid (b : List Byte) : Nat := frTci b % 4096

/-- The length of a frame (R388). -/
def frLen (f : EthFrame) : Nat := f.data.length + 4 + (match f.sec with
  | some x => x.overhead
  | none => 0)

/-- A frame begun to be written before its last byte arrived (R396): `n` bytes of it had come when it failed. -/
def State.begun (s : State) (sp n : Nat) : Bool :=
  s.fld F.ETH_SUB_CTRL_CUT_THRESH sp != 0 && decide (64 * s.fld F.ETH_SUB_CTRL_CUT_THRESH sp < n)

/-- CRC-32C of bytes, reflected, as RFC 3720 defines it. -/
def crc32c (b : List Byte) : Nat :=
  let step := fun (c : Nat) (_ : Nat) => if c % 2 = 1 then (c / 2) ^^^ 0x82F63B78 else c / 2
  (b.foldl (fun c x => (rangeFrom 0 8).foldl step (c ^^^ x.toNat)) (2 ^ 32 - 1)) ^^^ (2 ^ 32 - 1)

/-- h of R392; ports follow the fixed header of IPv6 (log entry 102). -/
def frHash (b : List Byte) : Nat :=
  let o := frOff b
  let ports := fun (proto at_ : Nat) => if proto = 6 ∨ proto = 17 then slice b at_ 4 else []
  if frType b = 0x0800 then
    let pr := beAt b (o + 9) 1
    crc32c (slice b (o + 12) 8 ++ slice b (o + 9) 1 ++ ports pr (o + beAt b o 1 % 16 * 4))
  else if frType b = 0x86DD then
    let pr := beAt b (o + 6) 1
    crc32c (slice b (o + 8) 32 ++ slice b (o + 6) 1 ++ ports pr (o + 40))
  else 0

/-! ### MACsec, receive (R386) -/

/-- The receive channel of a sub-port that an SCI names: the lowest with an SA that has it. -/
def State.rxChannel (s : State) (sp sci : Nat) : Option Nat :=
  (s.sas.find? fun e => e.1 / 4 % 64 == sp && e.2.sci == sci).map fun e => e.1 / 4

/-- A received SecTAG verified: the domain of its channel, and the state with its SA advanced; or the domain if one is known, and whether
the ICV alone failed (R386). -/
def State.secVerify (s : State) (sp : Nat) (x : EthSec) : Except (Option Nat × Bool) (Nat × State) :=
  match s.rxChannel sp x.sci with
  | none => .error (none, false)
  | some sc =>
    match s.scDom sc, Tab.get? s.sas (saKey sc (x.an % 4)) with
    | some d, some a =>
      if !s.flag F.ETH_SUB_CTRL_MACSEC_EN sp || decide (x.pn < a.pn) then .error (some d, false)
      else if !x.icvOk then .error (some d, true)
      else
        let a := { a with pn := max a.pn (x.pn + 1 - a.window) }
        .ok (d, { s with sas := Tab.set s.sas (saKey sc (x.an % 4)) a })
    | d, _ => .error (d, false)

/-! ### What the Meridian claims (R467) -/

/-- The offset of a PTP header in a frame of the configured profile (R466). -/
def State.ptpAt (s : State) (b : List Byte) : Option Nat :=
  let o := frOff b
  if s.fld F.MER_SRC_CTRL_PROFILE = 0 then
    if frType b = 0x88F7 ∧ (beAt b 0 6 = 0x011B19000000 ∨ beAt b 0 6 = 0x0180C200000E) then some o else none
  else if frType b = 0x0800 ∧ beAt b (o + 9) 1 = 17 then
    let u := o + beAt b o 1 % 16 * 4
    if beAt b (u + 2) 2 = 319 ∨ beAt b (u + 2) 2 = 320 then some (u + 8) else none
  else if frType b = 0x86DD ∧ beAt b (o + 6) 1 = 17 then
    if beAt b (o + 42) 2 = 319 ∨ beAt b (o + 42) 2 = 320 then some (o + 48) else none
  else none

/-- The Meridian claims a frame without a SecTAG. -/
def State.claims (s : State) (sp : Nat) (b : List Byte) : Bool :=
  (match s.ptpAt b with
   | some o => s.flag F.MER_PORT_CFG_PTP_EN sp && beAt b (o + 4) 1 == s.fld F.MER_SRC_CTRL_PTP_DOMAIN
   | none => false)
  || (frType b == 0x8809 && beAt b (frOff b) 1 == 0x0A && s.flag F.MER_PORT_CFG_SYNCE_RX sp)

/-! ### Steering (R391, R392) -/

/-- A steering entry's key. -/
def State.steerKey (s : State) (e : Nat) : Nat × Nat :=
  (s.fld F.ETH_STEER_SUBPORT e, s.fld F.ETH_STEER_TAGGED e * 4096 + s.fld F.ETH_STEER_VID e)

/-- The steering entry for a key. -/
def State.steerFind (s : State) (k : Nat × Nat) : Option Nat :=
  (s.indices 0x4000048).find? fun e => s.flag F.ETH_STEER_VALID e && s.steerKey e == k

/-- The receive ring of a frame that an entry sends to a ring; none where a ring of the entry is not its domain's, or the ring is not
enabled (R392, log entry 101). -/
def State.steerRing (s : State) (e h : Nat) : Option Nat :=
  let d := s.fld F.ETH_STEER_DOMAIN e
  let m := 2 ^ min 6 (s.fld F.ETH_STEER_RING_LOG2 e)
  let ring := fun k => (s.fld F.ETH_STEER_RING_BASE e + k) % 4096
  if (rangeFrom 0 m).all (fun k => s.prDom (ring k) == d) && s.prOn (ring (h % m)) then some (ring (h % m)) else none

/-- An entry takes a frame of an EtherType to a packet ring. -/
def State.steersRing (s : State) (e ty : Nat) : Bool := ty != 0xAEFE && ty != 0xFC3D && s.flag F.ETH_STEER_RING_EN e

/-! ### Policing (R397, R398) -/

/-- The marker of R398 on a policer's buckets: colour 0 green, 1 yellow, 2 red. -/
def police (p : Policer) (cir pir cbs pbs len t pre : Nat) : Nat × Policer :=
  let dt : Int := (t : Int) - p.last
  let tc : Int := min (p.tc + dt * cir) (cbs * 8000000 : Nat)
  let tp : Int := min (p.tp + dt * pir) (pbs * 8000000 : Nat)
  let cost : Int := (len * 8000000 : Nat)
  if pre = 2 ∨ tp < cost then (2, ⟨tc, tp, t⟩)
  else if pre = 1 ∨ tc < cost then (1, ⟨tc, tp - cost, t⟩)
  else (0, ⟨tc - cost, tp - cost, t⟩)

/-- The pre-colour of a frame (R397). -/
def preColour (map : Nat) (b : List Byte) : Nat :=
  if frTagged b then
    let c := map / 4 ^ (frTci b / 2 ^ 13) % 4
    min 2 (min 2 c + b2n (bit (frTci b) 12))
  else 0

/-- A policer's buckets: full until a frame meets it. -/
def State.policer (s : State) (n : Nat) : Policer :=
  (Tab.get? s.eth.pols n).getD
    ⟨s.fld F.ETH_POL_BURST_CBS n * 8000000, s.fld F.ETH_POL_BURST_PBS n * 8000000, s.taiNs⟩

/-- A frame marked by the policer of an entry, green without one (R390 order 6). -/
def State.mark (s : State) (e : Nat) (f : EthFrame) : Nat × State :=
  let n := s.fld F.ETH_STEER_POLICER e
  if s.flag F.ETH_STEER_POL_EN e && s.flag F.ETH_POL_RATE_VALID n then
    let pre := if s.flag F.ETH_POL_RATE_COLOUR_AWARE n then preColour (s.fld F.ETH_POL_BURST_PCP_MAP n) f.data else 0
    let r := police (s.policer n) (s.fld F.ETH_POL_RATE_CIR_KBPS n) (s.fld F.ETH_POL_RATE_PIR_KBPS n) (s.fld F.ETH_POL_BURST_CBS n)
      (s.fld F.ETH_POL_BURST_PBS n) (frLen f) s.taiNs pre
    (r.1, { s with eth := { s.eth with pols := Tab.set s.eth.pols n r.2 } })
  else (0, s)

/-- A policer's verdict drops the frame. -/
def State.redDrop (s : State) (e c : Nat) : Bool :=
  c == 2 || (c == 1 && s.flag F.ETH_POL_RATE_DROP_YELLOW (s.fld F.ETH_STEER_POLICER e))

/-! ### The receive path (R390) -/

/-- A frame dropped into a counter of a sub-port (R408, R524). -/
def State.rxDrop (s : State) (sp : Nat) (f : Fld) (k : Nat) : State := (s.satFld f 1 sp).count (0xA00 + 16 * sp + k) none 1

def State.dropRunt (s : State) (sp : Nat) : State := s.rxDrop sp F.ETH_RX_DROP0_RUNT 8
def State.dropOversize (s : State) (sp : Nat) : State := s.rxDrop sp F.ETH_RX_DROP0_OVERSIZE 9
def State.dropFcs (s : State) (sp : Nat) : State := s.rxDrop sp F.ETH_RX_DROP0_FCS 10
def State.dropMacsec (s : State) (sp : Nat) (d : Option Nat) : State :=
  let s := s.rxDrop sp F.ETH_RX_DROP0_MACSEC 11
  match d with
  | some d => s.count (0x077 + 8 * sp) (some d) 1
  | none => s
def State.dropNomatch (s : State) (sp : Nat) : State := s.rxDrop sp F.ETH_RX_DROP1_NOMATCH 12
def State.dropPoliced (s : State) (sp : Nat) : State := s.rxDrop sp F.ETH_RX_DROP1_POLICED 13
def State.dropFull (s : State) (sp : Nat) : State := s.rxDrop sp F.ETH_RX_DROP1_FIFO_FULL 14
def State.dropPause (s : State) (sp : Nat) : State := s.rxDrop sp F.ETH_RX_DROP1_PAUSE 15

/-- What descriptors report of a frame, its colour and steering entry given. -/
def State.rxInfo (s : State) (sp e colour : Nat) (f : EthFrame) : RxInfo where
  flags := 32 * b2n (frTagged f.data) + 64 * b2n f.sec.isSome
  colour := colour
  tstamp := stamp32 (s.rxStamp sp)
  flen := frLen f
  cause := 0
  hash := frHash f.data
  steer := e
  sp := s.keyed sp

/-- The entry that takes a frame whose verified domain is `sd`: an entry of another domain counts as MACSEC (R390, R391). -/
def State.steerOf (s : State) (sp : Nat) (f : EthFrame) (sd : Option Nat) : Except Bool Nat :=
  match s.steerFind (s.keyed sp, b2n (frTagged f.data) * 4096 + frVid f.data) with
  | none => .error false
  | some e =>
    match sd with
    | some d => if s.fld F.ETH_STEER_DOMAIN e = d then .ok e else .error true
    | none => if s.flag F.ETH_STEER_MACSEC_REQ e then .error false else .ok e

/-- A frame that fails after it has begun to be written (R395): the ring that it was bound for returns its buffers with DISCARD. -/
def State.rxCut (s : State) (sp : Nat) (f : EthFrame) (sd : Option Nat) (n cause : Nat) : State :=
  match s.steerOf sp f sd with
  | .error _ => s
  | .ok e =>
    if s.steersRing e (frType f.data) then
      match s.steerRing e (frHash f.data) with
      | none => s
      | some r => s.rxDeliver r (s.fld F.ETH_STEER_DOMAIN e) sp (f.data.take n) (s.rxInfo sp e 0 f) cause
    else s

/-- A frame that has begun to be written ends before its last byte has passed order 1 (R395): one with a SecTAG was bound by its channel's
domain, and one whose SecTAG names no channel had not begun. -/
def State.rxBroken (s : State) (sp : Nat) (f : EthFrame) (n cause : Nat) : State :=
  match f.sec with
  | none => s.rxCut sp f none n cause
  | some x => match (s.rxChannel sp x.sci).bind s.scDom with
    | some d => s.rxCut sp f (some d) n cause
    | none => s

/-- Orders 6 and 7 of R390 for a frame that an entry takes, ended by `cut` where it is not 0. -/
def State.rxSteered (s : State) (sp e : Nat) (f : EthFrame) (sd : Option Nat) (n cut : Nat) : State :=
  let d := s.fld F.ETH_STEER_DOMAIN e
  let s := (s.count (0x070 + 8 * sp) (some d) 1).count (0x071 + 8 * sp) (some d) (ceilDiv (frLen f) 64)
  let ty := frType f.data
  let m := s.mark e f
  let s := m.2
  let s := if m.1 = 2 then s.count (0x074 + 8 * sp) (some d) 1 else if m.1 = 1 then s.count (0x075 + 8 * sp) (some d) 1 else s
  let ring := if s.steersRing e ty then s.steerRing e (frHash f.data) else none
  if s.redDrop e m.1 then
    let s := s.dropPoliced sp
    match ring with
    | some r => let x := s.rxr r; s.rxGranule r { x with policed := wrap (x.policed + 1) 32 }
    | none => s
  else if (ty = 0xAEFE ∨ ty = 0xFC3D) ∧ s.flag F.ETH_STEER_FH_EN e = true then
    match f.fh with
    | some x =>
      if x.roe == (ty == 0xFC3D) then
        s.fhReceive (s.rxStamp sp).toNat (s.keyed sp, b2n (frTagged f.data) * 4096 + frVid f.data) sd x
      else s.addFld F.FH_DROP_FORMAT_FORMAT 1
    | none => s.addFld F.FH_DROP_FORMAT_FORMAT 1
  else match ring with
    | some r => s.rxDeliver r d sp (f.data.take n) (s.rxInfo sp e m.1 f) cut
    | none => s.dropNomatch sp

/-- Orders 2 to 7 of R390 for a frame whose length and FCS are right. -/
def State.rxAccepted (s : State) (sp : Nat) (f : EthFrame) (n cut : Nat) : State :=
  let s := s.addFld F.ETH_SUB_FRAMES_RX_FRAMES 1 sp
  let s := (s.count (0xA00 + 16 * sp) none 1).count (0xA01 + 16 * sp) none (ceilDiv (frLen f) 64)
  match f.sec with
  | none =>
    if frType f.data = 0x8808 then s.dropPause sp
    else if s.claims sp f.data then s
    else match s.steerOf sp f none with
      | .error _ => s.dropNomatch sp
      | .ok e => s.rxSteered sp e f none n cut
  | some x =>
    match s.secVerify sp x with
    | .error (d, icv) =>
      let t := s.dropMacsec sp d
      if icv && s.begun sp (frLen f) then t.rxCut sp f d f.data.length causeIcv else t
    | .ok (d, s) =>
      match s.steerOf sp f (some d) with
      | .error conflict => if conflict then s.dropMacsec sp (some d) else s.dropNomatch sp
      | .ok e => s.rxSteered sp e f (some d) n cut

/-- A received frame: whole, or ended after `n` of its bytes by `cut` (R390, R395). -/
def State.rxFrame (s : State) (sp : Nat) (f : EthFrame) (n cut : Nat) : State :=
  let max := s.fld F.ETH_SUB_CTRL_MAX_FRAME sp
  if !s.flag F.ETH_SUB_STATUS_UP sp then s
  else if f.full then s.dropFull sp
  else if frLen f ≤ 63 then s.dropRunt sp
  else if max < frLen f then
    let t := s.dropOversize sp
    if s.begun sp (max + 1) then t.rxBroken sp f (min n max) causeOversize else t
  else if !f.fcsOk then
    let t := s.dropFcs sp
    if s.begun sp (frLen f) then t.rxBroken sp f n causeFcs else t
  else s.rxAccepted sp f n cut

/-- An entry of a table, or its absence, put there. -/
def Tab.putOpt {α : Type} (l : Tab α) (e : Nat × Option α) : Tab α :=
  match e.2 with
  | some x => Tab.set l e.1 x
  | none => Tab.del l e.1

/-- The registers, policers and receive associations that writes note, as they stood (R391, R398, R426). -/
def State.putTie (s : State) (t : EthTie) : State :=
  let s := t.regs.foldl (fun s e => s.setReg e.1 e.2.1 e.2.2) s
  { s with eth := { s.eth with pols := t.pols.foldl Tab.putOpt s.eth.pols }, sas := t.sas.foldl Tab.putOpt s.sas }

/-- What a frame does in the cycle of the writes noted: it meets what stood before them, and leaves what they wrote (R391, R398, R426). -/
def State.beforeWrites (s : State) (f : State → State) : State :=
  let t := s.eth.tie
  if t.at_ = s.now then
    let new : EthTie := { t with
      regs := t.regs.map fun e => (e.1, e.2.1, s.reg e.1 e.2.1)
      pols := t.pols.map fun e => (e.1, Tab.get? s.eth.pols e.1)
      sas := t.sas.map fun e => (e.1, Tab.get? s.sas e.1) }
    (f (s.putTie t)).putTie new
  else f s

/-- ETH_FRAME_RECEIVE (R390): the Meridian's part of a frame that it claims is PTP_FRAME_RECEIVE. -/
def execEthFrameReceive (subport : Nat) (frame : EthFrame) (s : State) : Host.Outcome State Fault Refusal :=
  .next (s.beforeWrites fun s => s.rxFrame (subport % 32) frame frame.data.length 0)

/-- RX_MEM_WAIT_EXPIRE (R395): the frame ends with MEM_WAIT after `written` of its bytes. -/
def execRxMemWaitExpire (subport : Nat) (frame : EthFrame) (written : Nat) (s : State) : Host.Outcome State Fault Refusal :=
  .next (s.beforeWrites fun s => s.rxFrame (subport % 32) frame written causeMemWait)

/-- FIFO_PARITY (R408): the frame is dropped, and where `written` of its bytes had gone to a ring its buffers return with DISCARD; the
cause in them is open (log entry 31). -/
def State.fifoParity (s : State) (sp : Nat) (f : EthFrame) (written : Nat) : State :=
  let dom := match s.steerOf sp f none with
    | .ok e => some (s.fld F.ETH_STEER_DOMAIN e)
    | .error _ => none
  let s := s.raise F.ETH_ERR_STATUS_FIFO_PARITY
  let s := s.faultRecord { FaultRec.of 0x0501 1 with dom := dom, ucls := ucEth, uidx := sp / 4, detail := sp }
  if written = 0 then s
  else
    let c := s.fresh 8
    c.2.rxBroken sp f written c.1

def execFifoParity (subport : Nat) (frame : EthFrame) (written : Nat) (s : State) : Host.Outcome State Fault Refusal :=
  .next (s.beforeWrites fun s => s.fifoParity (subport % 32) frame written)

/-! ### Lanes (R383) -/

/-- A transmit ring's fetched frames completed and written back in ring order, HEAD advanced (R404). -/
def State.txWriteBack (s : State) (q : Nat) : Nat → State
  | 0 => s
  | k + 1 =>
    let x := s.txq q
    match x.frames with
    | [] => s
    | f :: t =>
      match f.status with
      | none => s
      | some st =>
        let n := 4096 + q
        let s := (rangeFrom 0 f.n).foldl (fun s i =>
          let e := s.prDesc n (f.first + i)
          let s := s.prWrite n (e + 16) [BitVec.ofNat 8 st, BitVec.ofNat 8 (prPhase (s.prSize n) (f.first + i))]
          match f.tstamp with
          | some t => if i = 0 then s.prWrite n (e + 20) (toLe 4 t) else s
          | none => s) s
        let x := { x with frames := t, head := wrap (f.first + f.n) 32 }
        ((s.setTxq q x).prWrite n (s.prCtrl n + 64) (toLe 4 x.head)).txWriteBack q k

def txOk : Nat := 0x00
def txTooLong : Nat := 0x80
def txInvalid : Nat := 0x81
def txNoSa : Nat := 0x82
def txLinkDown : Nat := 0x83

/-- The head frame of a queue completed with a status, and the ring written back. -/
def State.txEnds (s : State) (q st : Nat) (ts : Option Nat) : State :=
  let x := s.txq q
  match x.frames with
  | [] => s
  | f :: t => (s.setTxq q { x with frames := { f with wire := false, status := some st, tstamp := ts } :: t }).txWriteBack q (t.length + 1)

/-- The frame on a sub-port's wire, if there is one, completed with a status (R404). -/
def State.wireEnds (s : State) (sp st : Nat) : State :=
  match (s.ethSub sp).wire with
  | none => s
  | some q => (s.setEthSub sp { s.ethSub sp with wire := none }).txEnds q st ((s.txq q).frames.head?.bind (·.tstamp))

/-- The fetched frames of a sub-port's queues complete with LINK_DOWN. -/
def State.txLinkLost (s : State) (sp : Nat) : State :=
  (s.queuesOf sp).foldl (fun s q =>
    let x := s.txq q
    let fs := x.frames.map fun f => { f with status := some (f.status.getD txLinkDown) }
    (s.setTxq q { x with frames := fs }).txWriteBack q fs.length) s

/-- A sub-port goes down: a frame in reception ends with LINK_LOSS; one on the wire, and fetched frames that no live sub-port of the same keeps,
complete with LINK_DOWN, and the Meridian loses a slave port (R383, R406, R465). -/
def State.subDown (s : State) (sp : Nat) (rx : Option (EthFrame × Nat)) : State :=
  if s.flag F.ETH_SUB_STATUS_UP sp then
    let s := match rx with
      | some (f, n) => if n = 0 then s else s.rxBroken sp f n causeLinkLoss
      | none => s
    let k := s.keyed sp
    let s := s.wireEnds sp (if (s.ethSub sp).busy ≤ s.now then txOk else txLinkDown)
    let s := (s.setFld F.ETH_SUB_STATUS_UP 0 sp).raise F.ETH_ERR_STATUS_LINK_DOWN
    (if (s.egressPort k 0).isNone then s.txLinkLost k else s).slaveDown sp
  else s

/-- The sub-ports of a port all down, and the port in a form: MODE, or a shed's. -/
def State.reformPort (s : State) (p : Nat) (shed : Option Nat) : State :=
  let s := (rangeFrom (4 * p) 4).foldl (fun s k => s.subDown k none) s
  let s := { s with eth := { s.eth with shed := match shed with
    | some m => Tab.set s.eth.shed p m
    | none => Tab.del s.eth.shed p } }
  (rangeFrom (4 * p) 4).foldl (fun s k =>
    let s := s.setFld F.ETH_SUB_STATUS_SHED_ALIAS (b2n shed.isSome) k
    let s := s.setFld F.ETH_SUB_STATUS_ALIAS_OF (if shed.isSome then 4 * p else k) k
    s.setFld F.ETH_SUB_STATUS_CROSSING (b2n (s.portForm p == 0)) k) s

/-- The sub-port of a port's lane. -/
def State.laneSub (s : State) (p l : Nat) : Nat := 4 * p + l * formSubs (s.portForm p) / 4

/-- A port that loses a lane re-forms on fewer lanes (R383). -/
def State.sheds (s : State) (p : Nat) : Bool := s.flag F.ETH_PORT_CTRL_LANE_SHED_EN p && (s.portForm p == 0 || s.portForm p == 1)

/-- The count of a lane's loss of lock (R524, R562). -/
def State.countLoss (s : State) (p l : Nat) : State := (s.count (0xE02 + 16 * p + 4 * l) none 1).health (12 + p) 2 1

/-- The lock of a lane. -/
def State.setLock (s : State) (p l : Nat) (on : Bool) : State :=
  { s with eth := { s.eth with locks := putBit s.eth.locks (4 * p + l) on } }.showLocks p

/-- ETH_LANE_LOSS: the lane loses lock; a frame in reception on its sub-port, with the bytes written of it. -/
def State.ethLaneLoss (s : State) (p l : Nat) (rx : Option (EthFrame × Nat)) : State :=
  let s := ((s.setLock p l false).countLoss p l).subDown (s.laneSub p l) rx
  if s.sheds p then
    (s.reformPort p (some (1 + s.fld F.ETH_PORT_CTRL_SHED_MODE p))).raise F.ETH_ERR_STATUS_LANE_SHED
  else s

def execEthLaneLoss (port lane : Nat) (rx : Option (EthFrame × Nat)) (s : State) : Host.Outcome State Fault Refusal :=
  .next (s.ethLaneLoss (port % 8) (lane % 4) rx)

/-- A port may train: enabled, not in the map, and with its reference clock (R591). -/
def State.portMay (s : State) (p : Nat) : Bool :=
  s.flag F.ETH_PORT_CTRL_ENABLE p && !s.unitOff ⟨ucEth, p⟩ && !s.clockLost 1 (p / 2)

/-- SUBPORT_UP (R383): the sub-port exists in the port's form and all its lanes hold lock. -/
def State.subUp (s : State) (sp : Nat) : State :=
  let p := sp / 4
  let form := s.portForm p
  if s.portMay p && decide (sp % 4 < formSubs form) && (formLanes form (sp % 4)).all (s.laneLock p) then
    let s := s.setFld F.ETH_SUB_STATUS_UP 1 sp
    let s := s.setFld F.ETH_SUB_STATUS_CROSSING (b2n (form == 0)) sp
    if Tab.has s.eth.shed p then s else s.setFld F.ETH_SUB_STATUS_ALIAS_OF sp sp
  else s

def execSubportUp (subport : Nat) (s : State) : Host.Outcome State Fault Refusal := .next (s.subUp (subport % 32))

/-- LANE_LOCK_REGAIN of an Ethernet lane or of a Rhumb lane (R383, R349). -/
def State.laneRegain (s : State) (rhumb : Bool) (p l : Nat) : State :=
  if s.clockLost (if rhumb then 2 else 1) (p / 2) then s
  else if rhumb then s.setFld F.FAB_PORT_STATUS_LANE_LOCK (putBit (s.fld F.FAB_PORT_STATUS_LANE_LOCK (p % 4)) (l % 8) true) (p % 4)
  else s.setLock p l true

def execLaneLockRegain (rhumb : Bool) (port lane : Nat) (s : State) : Host.Outcome State Fault Refusal :=
  .next (s.laneRegain rhumb (port % 8) (lane % if rhumb then 8 else 4))

/-- ETH_PORT_CTRL written (R381, R383, R408): MODE is ignored while ENABLE is 1, REFORM retrains the port in MODE, and a port that is no longer
enabled goes down. -/
def State.portCtrlWrite (s : State) (p v : Nat) : State :=
  let mode := if v % 4 = 3 then 0 else v % 4
  let s := if s.flag F.ETH_PORT_CTRL_ENABLE p then s else (s.setFld F.ETH_PORT_CTRL_MODE mode p)
  let s := s.setFld F.ETH_PORT_CTRL_ENABLE (v / 4 % 2) p
  let s := s.setFld F.ETH_PORT_CTRL_LANE_SHED_EN (v / 8 % 2) p
  let s := s.setFld F.ETH_PORT_CTRL_SHED_MODE (v / 16 % 2) p
  if bit v 5 then s.reformPort p none
  else if bit v 2 then s else s.reformPort p none

/-- REFORM (R383): ETH_PORT_CTRL of a port written with REFORM 1 and its other fields as they are. -/
def execReform (port : Nat) (s : State) : Host.Outcome State Fault Refusal :=
  .next (s.reformPort (port % 8) none)

/-! ### Tables (R230, R391, R397, R405) -/

/-- The domains of the queues and steering entries of a sub-port, and of its grants (R405). -/
def State.subDoms (s : State) (sp : Nat) : List Nat :=
  ((s.queuesOf sp).map fun q => s.fld F.ETH_Q_CFG_DOMAIN q) ++
  ((s.indices 0x4000048).filter fun e => s.flag F.ETH_STEER_VALID e && s.fld F.ETH_STEER_SUBPORT e == sp).map fun e => s.fld F.ETH_STEER_DOMAIN e
def State.grantDoms (s : State) (sp : Nat) : List Nat :=
  ((s.indices 0x3800018).filter fun e => s.flag F.FH_GRANT_VALID e && s.fld F.FH_GRANT_SUBPORT e == sp).map fun e => s.fld F.FH_GRANT_DOMAIN e

/-- A sub-port breaks R405: it carries a strict domain's traffic and another domain's. -/
def State.strictClash (s : State) (sp : Nat) : Bool :=
  let a := s.subDoms sp
  a.any fun d => s.strictDom d && (a ++ s.grantDoms sp).any (· != d)

/-- A write that R405 refuses, else the state that it leaves. -/
def State.unlessStrict (s t : State) (sp : Nat) : State :=
  if t.strictClash sp && !s.strictClash sp then s.raise F.ETH_ERR_STATUS_STRICT_CONFLICT else t

/-- A steering write conflicts: another valid entry has its key, or FH_EN names another domain than the grant's (R391). -/
def State.steerConflict (s : State) (e : Nat) (t : State) : Bool :=
  t.flag F.ETH_STEER_VALID e &&
    ((s.indices 0x4000048).any (fun x => x != e && s.flag F.ETH_STEER_VALID x && s.steerKey x == t.steerKey e)
     || (t.flag F.ETH_STEER_FH_EN e && (s.indices 0x3800018).any fun g =>
          s.flag F.FH_GRANT_VALID g
            && (s.fld F.FH_GRANT_SUBPORT g, s.fld F.FH_GRANT_TAGGED g * 4096 + s.fld F.FH_GRANT_VID g) == t.steerKey e
            && s.fld F.FH_GRANT_DOMAIN g != t.fld F.ETH_STEER_DOMAIN e))

/-- A steering entry put in force, or ignored with STEER_CONFLICT or STRICT_CONFLICT (R391, R405). -/
def State.steerPut (s : State) (e : Nat) (w : Word) : State :=
  let t := s.setReg F.ETH_STEER_VALID.reg e w
  if s.steerConflict e t then s.raise F.ETH_ERR_STATUS_STEER_CONFLICT else s.unlessStrict t (t.fld F.ETH_STEER_SUBPORT e)

/-- The writes of the present cycle noted so far. -/
def State.ethTie (s : State) : EthTie := if s.eth.tie.at_ = s.now then s.eth.tie else ⟨s.now, [], [], []⟩
def State.setTie (s : State) (t : EthTie) : State := { s with eth := { s.eth with tie := t } }

/-- An entry of a register, a policer and a receive association as they stood before the first write of the cycle (R391, R398, R426, R505). -/
def State.tieReg (s : State) (a i : Nat) : State :=
  let t := s.ethTie
  if t.regs.any fun e => e.1 == a && e.2.1 == i then s else s.setTie { t with regs := (a, i, s.reg a i) :: t.regs }
def State.tiePol (s : State) (n : Nat) : State :=
  let t := s.ethTie
  if Tab.has t.pols n then s else s.setTie { t with pols := Tab.set t.pols n (Tab.get? s.eth.pols n) }
def State.tieSa (s : State) (k : Nat) : State :=
  let t := s.ethTie
  if k / 128 % 2 = 1 ∨ Tab.has t.sas k = true then s else s.setTie { t with sas := Tab.set t.sas k (Tab.get? s.sas k) }

/-- STEER_WRITE: ETH_STEER written for the selected entry (R391). -/
def State.steerWrite (s : State) (v : Nat) : State :=
  let e := s.fld F.ETH_SEL_STEER
  let v := v % 2 ^ 57
  let v := if v / 2 ^ 53 % 8 = 7 then v - 2 ^ 53 else v
  let s := s.tieReg F.ETH_STEER_VALID.reg e
  let t := s.setReg F.ETH_STEER_VALID.reg e (BitVec.ofNat 64 v)
  if s.steerConflict e t then s.raise F.ETH_ERR_STATUS_STEER_CONFLICT
  else
    let u := s.unlessStrict t (t.fld F.ETH_STEER_SUBPORT e)
    if u.reg F.ETH_STEER_VALID.reg e = s.reg F.ETH_STEER_VALID.reg e then u else u.measChanged

def execSteerWrite (value : Nat) (s : State) : Host.Outcome State Fault Refusal := .next (s.steerWrite value)

/-- POLICER_WRITE: ETH_POL_RATE written for the selected policer; VALID = 1 fills both buckets (R398). -/
def State.policerWrite (s : State) (v : Nat) : State :=
  let n := s.fld F.ETH_SEL_POLICER
  let s := (s.tieReg F.ETH_POL_RATE_VALID.reg n).tiePol n
  let s := s.setReg F.ETH_POL_RATE_VALID.reg n (BitVec.ofNat 64 (v % 2 ^ 63))
  if bit v 62 then
    let p : Policer := ⟨s.fld F.ETH_POL_BURST_CBS n * 8000000, s.fld F.ETH_POL_BURST_PBS n * 8000000, s.taiNs⟩
    { s with eth := { s.eth with pols := Tab.set s.eth.pols n p } }
  else s

def execPolicerWrite (value : Nat) (s : State) : Host.Outcome State Fault Refusal := .next (s.policerWrite value)

/-- PRING_WRITE: ETH_PRING written for the selected packet ring (R393, R408): its other fields are ignored while it is enabled, and a ring
starts with its indices at 0 (log entry 32). -/
def State.pringWrite (s : State) (v : Nat) : State :=
  let n := s.fld F.ETH_SEL_PRING
  if s.prOn n then s.setFld F.ETH_PRING_ENABLE (v / 2 ^ 56 % 2) n
  else
    let v := v % 2 ^ 57
    let v := if v / 2 ^ 46 % 1024 = 0 then v + 2 ^ 46 else v
    let s := s.setReg F.ETH_PRING_ENABLE.reg n (BitVec.ofNat 64 v)
    if bit v 56 then
      if n < 4096 then s.setRxr n ⟨0, 0, [], 0, 0, 0, 0⟩
      else if (s.txq (n - 4096)).frames.isEmpty then
        s.setTxq (n - 4096) { s.txq (n - 4096) with next := 0, head := 0, lastPoll := s.now, depths := none, delays := none, samples := 0 }
      else s
    else s

def execPringWrite (value : Nat) (s : State) : Host.Outcome State Fault Refusal := .next (s.pringWrite value)

/-- A cell slot in a held state depends on a grant entry (R230). -/
def State.grantHeld (s : State) (g : Nat) : Bool :=
  s.flag F.FH_GRANT_VALID g && s.entryCfgs.any fun x =>
    x.2.vlanKey == (s.fld F.FH_GRANT_SUBPORT g, s.fld F.FH_GRANT_TAGGED g * 4096 + s.fld F.FH_GRANT_VID g)

/-- GRANT_WRITE: FH_GRANT written for the selected entry (R230, R405). -/
def State.grantWrite (s : State) (v : Nat) : State :=
  let g := s.fld F.FH_GRANT_SEL_ENTRY
  let v := v % 2 ^ 26
  let t := s.setReg F.FH_GRANT_VALID.reg g (BitVec.ofNat 64 v)
  let key := fun (u : State) (k : Nat) => (u.fld F.FH_GRANT_SUBPORT k, u.fld F.FH_GRANT_TAGGED k * 4096 + u.fld F.FH_GRANT_VID k)
  let clash := bit v 25 && (s.indices 0x3800018).any fun x => x != g && s.flag F.FH_GRANT_VALID x && key s x == key t g
  let changed := v != (s.reg F.FH_GRANT_VALID.reg g).toNat
  if clash || (s.grantHeld g && changed) then s.raise F.FH_ERR_STATUS_GRANT_CONFLICT
  else
    let u := s.unlessStrict t (t.fld F.FH_GRANT_SUBPORT g)
    if u.reg F.FH_GRANT_VALID.reg g = s.reg F.FH_GRANT_VALID.reg g then u else u.measChanged

def execGrantWrite (value : Nat) (s : State) : Host.Outcome State Fault Refusal := .next (s.grantWrite value)

end Sys2Proof.Machine
end

