-- ==== Sys2Proof/Machine/Egress.lean ====
section
/-! DEFINITION. Egress (R399 to R407): transmit rings, selection by level and start tag, shapers, the calendar wheel and telemetry. -/

namespace Sys2Proof.Machine

/-! ### Transmit rings (R404) -/

/-- A transmit descriptor's RSV bytes and flags are 0 (R404). -/
def txRsvOk (d : List Byte) (first : Bool) : Bool :=
  fieldAt d 12 1 / 16 == 0 && fieldAt d 13 1 == 0 && fieldAt d 18 2 == 0 && allZero (slice d 24 40)
    && (first || (fieldAt d 12 1 / 2 == 0 && fieldAt d 14 2 == 0))

/-- A descriptor's LEN and buffer (R404). -/
def State.txBufOk (s : State) (d : List Byte) (dom : Nat) : Bool :=
  decide (1 ≤ fieldAt d 8 4) && decide (fieldAt d 8 4 ≤ 16384) && (s.hbmFault dom (fieldAt d 0 8) (fieldAt d 8 4) true).isNone

/-- The wire length of a frame (R389). -/
def txWire (flags bytes : Nat) : Nat := bytes + 4 + (if bit flags 3 then 4 else 0) + (if bit flags 1 then 32 else 0)

/-- The descriptors of a frame from its first one on, up to one without MORE. `k` is fuel. -/
def txChain : Nat → List (List Byte) → Option (List (List Byte))
  | 0, _ => none
  | _, [] => none
  | k + 1, d :: t => if bit (fieldAt d 12 1) 0 then (txChain k t).map (d :: ·) else some [d]

/-- A frame fetched from its descriptors: refused at once with DESC_INVALID or FRAME_TOO_LONG, else waiting. -/
def State.txFrameOf (s : State) (q first : Nat) (ds : List (List Byte)) : TxFrame :=
  let dom := s.prDom (4096 + q)
  let h := ds.headD []
  let flags := fieldAt h 12 1
  let ok := decide (ds.length ≤ 16) && ds.zipIdx.all (fun p => txRsvOk p.1 (p.2 == 0) && s.txBufOk p.1 dom)
  let bytes := sumList (ds.map fun d => fieldAt d 8 4)
  let long := decide (s.fld F.ETH_SUB_CTRL_MAX_FRAME (s.fld F.ETH_Q_CFG_SUBPORT q) < txWire flags bytes)
  { first := first, n := ds.length, bufs := ds.map fun d => (fieldAt d 0 8, fieldAt d 8 4), flags := flags, tci := fieldAt h 14 2,
    seen := s.now, wire := false, status := if !ok then some txInvalid else if long then some txTooLong else none, tstamp := none }

/-- A chain of descriptors that no ring can end: refused as too long (R404). -/
def State.txTooLongChain (s : State) (first : Nat) (ds : List (List Byte)) : TxFrame :=
  { first := first, n := ds.length, bufs := [], flags := fieldAt (ds.headD []) 12 1, tci := 0, seen := s.now, wire := false,
    status := some txInvalid, tstamp := none }

/-- Published descriptors taken into frames. `k` is fuel, one step a frame; a frame whose last descriptor is not published waits, but one
that fills the whole ring is a chain too long. -/
def State.txTake (s : State) (q : Nat) : Nat → Nat → List (List Byte) → List TxFrame → Nat × List TxFrame
  | 0, i, _, fs => (i, fs)
  | k + 1, i, ds, fs =>
    match txChain 65536 ds with
    | none => if s.prSize (4096 + q) ≤ ds.length then (wrap (i + ds.length) 32, fs ++ [s.txTooLongChain i ds]) else (i, fs)
    | some f => s.txTake q k (wrap (i + f.length) 32) (ds.drop f.length) (fs ++ [s.txFrameOf q i f])

/-- A fetched frame is neither over nor on the wire. -/
def TxFrame.waiting (f : TxFrame) : Bool := f.status.isNone && !f.wire

/-- The bytes fetched and unsent on a sub-port, for ETH_TX_BACKLOG (R408). -/
def State.backlog (s : State) (sp : Nat) : Nat :=
  sumList ((s.queuesOf sp).map fun q => sumList (((s.txq q).frames.filter TxFrame.waiting).map fun f => sumList (f.bufs.map (·.2))))

def State.noteTxBytes (s : State) (sp : Nat) : State :=
  s.setFld F.ETH_TX_BACKLOG_MAX_BYTES (max (s.fld F.ETH_TX_BACKLOG_MAX_BYTES sp) (min (s.backlog sp) (2 ^ 32 - 1))) sp

/-- The head of a queue's frames waits to be sent. -/
def TxQueue.waits (x : TxQueue) : Bool :=
  match x.frames with
  | f :: _ => f.waiting
  | [] => false

/-- A queue is active: a fetched frame of it waits (R400). -/
def TxQueue.active (x : TxQueue) : Bool := x.frames.any TxFrame.waiting

/-- A queue whose frame waits has a ready head in its sub-port's virtual time (R186, R400). -/
def State.headTag (s : State) (q : Nat) : State :=
  let sp := s.fld F.ETH_Q_CFG_SUBPORT q
  if (s.txq q).active then
    let x := s.ethSub sp
    s.setEthSub sp { x with vt := x.vt.headReady q }
  else s

/-- The frame of a queue that has left the wire since is completed. -/
def State.settleQueue (s : State) (q : Nat) : State :=
  match s.eth.subs.find? fun e => e.2.wire == some q with
  | some e => if e.2.busy ≤ s.now then s.wireEnds e.1 txOk else s
  | none => s

/-- What reading m descriptors of a transmit ring from index i on meets in its memory, and the bytes that they name (R297). -/
def State.txMeets (s : State) (q i m : Nat) : State :=
  let n := 4096 + q
  (rangeFrom 0 m).foldl (fun (s : State) k =>
    let s := s.prMeets n (s.prDesc n (i + k)) 64
    match s.prRead n (s.prDesc n (i + k)) 64 with
    | some d => s.meetErrors (s.prDom n) (fieldAt d 0 8) (fieldAt d 8 4)
    | none => s) s

/-- TX_POLL: TAIL read after POLL, and the published descriptors fetched (R404). -/
def State.txPoll (s : State) (q : Nat) : State :=
  let n := 4096 + q
  if !s.prOn n then s
  else
    let s := s.advanceTo ((s.txq q).lastPoll + s.fld F.ETH_PRING_POLL n * 100 * nsec)
    let s := (s.settleQueue q).prMeets n (s.prCtrl n) 64
    let x := s.txq q
    match s.prRead n (s.prCtrl n) 4 with
    | none => s.setTxq q { x with lastPoll := s.now }
    | some b =>
      let tail := leNat b
      let depth := wrap (tail + 2 ^ 32 - x.head) 32
      let ds := match x.depths with
        | some (lo, hi) => (min lo depth, max hi depth)
        | none => (depth, depth)
      let x := { x with lastPoll := s.now, depths := some ds }
      if (s.egressPort (s.fld F.ETH_Q_CFG_SUBPORT q) q).isNone || !s.flag F.ETH_Q_CFG_ENABLE q
          || s.prDom n != s.fld F.ETH_Q_CFG_DOMAIN q then s.setTxq q x
      else
        let m := min (wrap (tail + 2 ^ 32 - x.next) 32) (s.prSize n - wrap (x.next + 2 ^ 32 - x.head) 32)
        let s := s.txMeets q x.next m
        let descs := (rangeFrom 0 m).map fun k => (s.prRead n (s.prDesc n (x.next + k)) 64).getD []
        let p := s.txTake q m x.next descs x.frames
        let s := s.setTxq q { x with next := p.1, frames := p.2 }
        ((s.txWriteBack q p.2.length).headTag q).noteTxBytes (s.fld F.ETH_Q_CFG_SUBPORT q)

def execTxPoll (queue : Nat) (s : State) : Host.Outcome State Fault Refusal := .next (s.txPoll (queue % 4096))

/-! ### Levels (R399 to R402) -/

/-- A queue's buckets at the present time (R398, R401). -/
def State.refilled (s : State) (x : TxQueue) : TxQueue :=
  let dt : Int := (s.taiNs : Int) - x.last
  { x with
    tc := min (x.tc + dt * x.cir) (x.cbs * 8000000 : Nat)
    tp := min (x.tp + dt * x.pir) (x.pbs * 8000000 : Nat)
    last := s.taiNs }

/-- The level of a queue whose frame waits, none when it is not eligible (R401, R402). A queue that the wheel holds waits for its release. -/
def State.queueLevel (s : State) (q : Nat) : Option Nat :=
  let x := s.refilled (s.txq q)
  if !x.waits || x.release.isSome then none
  else if x.wheel then some 3
  else if x.tc ≥ 0 then some 3
  else if x.tp ≥ 0 then some 4
  else none

/-- A queue's share from its control area (R393, R400). -/
def State.queueShare (s : State) (q : Nat) : Nat :=
  match s.prRead (4096 + q) (s.prCtrl (4096 + q) + 4) 2 with
  | some b => max 1 (leNat b)
  | none => 1

/-- The weight of a queue among the active queues of its sub-port (R400). -/
def State.queueWeight (s : State) (sp q : Nat) : Nat :=
  let act := (s.queuesOf sp).filter fun k => (s.txq k).active
  let dom := fun k => s.fld F.ETH_Q_CFG_DOMAIN k
  let share := fun d => max 1 (s.fld F.ETH_DOM_SHARE_SHARE d)
  let sumD := sumList ((act.map dom).eraseDups.map share)
  let sumQ := sumList ((act.filter fun k => dom k == dom q).map s.queueShare)
  max 1 (2 ^ 32 * share (dom q) * s.queueShare q / max 1 (sumD * sumQ))

/-- The queue to send next on a live sub-port: level 3 before level 4, the smallest start tag first, ties to the lower number. -/
def State.nextQueue (s : State) (sp : Nat) : Option (Nat × Nat) :=
  let vt := (s.ethSub (s.keyed sp)).vt
  let c := (s.queuesOf (s.keyed sp)).filterMap fun q =>
    if s.egressPort (s.keyed sp) q = some sp then (s.queueLevel q).map fun l => (q, l) else none
  firstBy (fun (a b : Nat × Nat) => decide (a.2 < b.2) ||
    (a.2 == b.2 && (vlt (vt.tag a.1).s (vt.tag b.1).s || ((vt.tag a.1).s == (vt.tag b.1).s && decide (a.1 < b.1))))) c

/-! ### MACsec, transmit (R387) -/

/-- What protects a frame: nothing, an SA and packet number, or no SA at all (R387). -/
def State.txProtect (s : State) (q flags : Nat) : Option (State × Option (Nat × Nat × Nat)) :=
  if bit flags 1 then
    let sp := s.fld F.ETH_Q_CFG_SUBPORT q
    let d := s.fld F.ETH_Q_CFG_DOMAIN q
    if !s.flag F.ETH_SUB_CTRL_MACSEC_EN sp then none
    else match s.txChannel sp d with
      | none => none
      | some sc => match s.txSa sc with
        | none => none
        | some an => let p := s.takePn sc an d; some (p.1, some (sc, an, p.2))
  else some (s, none)

/-! ### EGRESS_SELECT (R399, R404) -/

/-- A frame's bytes before protection (R389): its buffers, the VLAN tag inserted after the addresses, and padding to a wire length of 64. -/
def State.txBytes (s : State) (q : Nat) (f : TxFrame) : List Byte :=
  let d := s.prDom (4096 + q)
  let b := f.bufs.flatMap fun p => s.bytes .hbm d p.1 p.2
  let b := if bit f.flags 3 then b.take 12 ++ [0x81, 0x00, BitVec.ofNat 8 (f.tci / 256), BitVec.ofNat 8 f.tci] ++ b.drop 12 else b
  b ++ List.replicate (60 - (if bit f.flags 1 then 32 else 0) - b.length) 0

/-- The reads of a frame's buffers, counted (R524). -/
def State.txReads (s : State) (q : Nat) (f : TxFrame) : State :=
  f.bufs.foldl (fun s p => s.hbmUsed (s.prDom (4096 + q)) p.1 p.2 true) s

/-- The head frame of a queue put on a sub-port's wire, with its transmit timestamp (R404, R406). -/
def State.toWire (s : State) (sp q ends : Nat) (ts : Option Nat) : State :=
  let x := s.txq q
  let s := s.setEthSub sp { s.ethSub sp with busy := ends, lastQ := q, wire := some q }
  match x.frames with
  | [] => s
  | f :: t => s.setTxq q { x with frames := { f with wire := true, tstamp := ts } :: t }

/-- The queue after a frame of occupancy `occ` has started (R401, R402). -/
def State.chargeQueue (s : State) (x : TxQueue) (occ : Nat) : TxQueue :=
  let tick := s.now / (100 * nsec)
  let x := { x with lastTick := tick, lastOcc := occ }
  if x.wheel then { x with release := some (tick + ceilDiv (occ * 80000) (max 1 x.cir)) }
  else { x with tc := x.tc - (occ * 8000000 : Nat), tp := x.tp - (occ * 8000000 : Nat) }

/-- The delays of the telemetry window with one more (R407). -/
def noteDelay (d : Option (Nat × Nat)) (ns : Nat) : Option (Nat × Nat) :=
  match d with
  | some (lo, hi) => some (min lo ns, max hi ns)
  | none => some (ns, ns)

/-- A frame of a queue begun on a live sub-port. -/
def State.txSend (s : State) (sp q level : Nat) (f : TxFrame) (sec : Option (Nat × Nat × Nat)) : State :=
  let k := s.keyed sp
  let b := s.txBytes q f
  let wire := b.length + 4 + if bit f.flags 1 then 32 else 0
  let s := s.txReads q f
  let x := s.refilled (s.txq q)
  let occ := wire + x.overhead
  let w := s.queueWeight k q
  let e := s.ethSub k
  let vt := (e.vt.grant q w).boundary q occ (decide (1 < (x.frames.filter TxFrame.waiting).length))
  let ns := (s.now - f.seen) / nsec
  let ts := if bit f.flags 2 then some (stamp32 (s.txStamp sp)) else none
  let s := (s.send (.frame sp sec (s.wireBytes sec b))).frameSent sp level wire
  let d := s.fld F.ETH_Q_CFG_DOMAIN q
  let s := (s.count (0x072 + 8 * k) (some d) 1).count (0x073 + 8 * k) (some d) (ceilDiv wire 64)
  let s := s.setFld F.ETH_TX_BACKLOG_MAX_DELAY_NS (max (s.fld F.ETH_TX_BACKLOG_MAX_DELAY_NS k) (min ns (2 ^ 32 - 1))) k
  let s := s.setEthSub k { e with vt := vt }
  let y := s.chargeQueue { x with delays := noteDelay x.delays ns } occ
  let s := (s.setTxq q y).setFld F.ETH_Q_CFG_IN_WHEEL (b2n y.release.isSome) q
  s.toWire sp q (s.now + ceilDiv ((wire + 20) * 8 * nsec) (s.subRate sp)) ts

/-- The virtual time of a sub-port with no queue to serve (R186). -/
def State.egressIdle (s : State) (sp : Nat) : State :=
  let e := s.ethSub sp
  if (s.queuesOf sp).any fun q => (s.txq q).active then s else s.setEthSub sp { e with vt := e.vt.idle }

/-- EGRESS_SELECT: at a frame boundary of a live sub-port, the frame on the wire completed and the next tenant frame begun. A frame with no SA
completes with NO_SA, and sends nothing. -/
def State.egressSelect (s : State) (sp : Nat) : State :=
  if !s.flag F.ETH_SUB_STATUS_UP sp then s
  else
    let s := (s.advanceTo (s.ethSub sp).busy).wireEnds sp txOk
    match s.nextQueue sp with
    | none => s.egressIdle (s.keyed sp)
    | some (q, level) =>
      match (s.txq q).frames with
      | [] => s
      | f :: _ =>
        match s.txProtect q f.flags with
        | none => s.txEnds q txNoSa none
        | some (s, sec) => s.txSend sp q level f sec

def execEgressSelect (subport : Nat) (s : State) : Host.Outcome State Fault Refusal := .next (s.egressSelect (subport % 32))

/-! ### The wheel and COMMIT (R402, R403) -/

/-- The staged fields of a queue pass (R401, R402). -/
def State.stagedOk (s : State) (q : Nat) : Bool :=
  let cir := s.fld F.ETH_Q_RATE_CIR_KBPS q
  let pir := s.fld F.ETH_Q_RATE_PIR_KBPS q
  let low := s.fld F.ETH_SUB_CTRL_MAX_FRAME (s.fld F.ETH_Q_CFG_SUBPORT q) + s.fld F.ETH_Q_CFG_OVERHEAD q
  if s.flag F.ETH_Q_CFG_WHEEL q then decide (64 ≤ cir) && decide (cir ≤ 999)
  else decide (1000 ≤ pir) && (cir == 0 || (decide (1000 ≤ cir) && decide (cir ≤ pir)))
    && decide (low ≤ s.fld F.ETH_Q_BURST_CBS q) && decide (low ≤ s.fld F.ETH_Q_BURST_PBS q)

/-- When a move's release is due: at the old rate from the queue's last frame, and at most 4 µs after COMMIT (R403). -/
def State.moveTick (s : State) (x : TxQueue) : Nat :=
  let tick := s.now / (100 * nsec)
  let rate := if x.wheel then x.cir else x.pir
  let due := if rate = 0 then tick else x.lastTick + ceilDiv (x.lastOcc * 80000) rate
  max tick (min due (tick + 40))

/-- COMMIT of a queue's staged fields: the queue enters the wheel (R403). -/
def State.qCommit (s : State) (q : Nat) : State :=
  if s.flag F.ETH_Q_CFG_MOVING q || !s.stagedOk q then s.raise F.ETH_ERR_STATUS_QCFG_INVALID
  else
    let bound := s.fld F.ETH_Q_CFG_SUBPORT q
    let e := s.ethSub ((s.egressPort bound q).getD bound)
    let t := s.moveTick (s.txq q)
    let t := if e.lastQ = q then max t (ceilDiv e.busy (100 * nsec)) else t
    let s := s.setTxq q { s.txq q with release := some t }
    (s.setFld F.ETH_Q_CFG_MOVING 1 q).setFld F.ETH_Q_CFG_IN_WHEEL 1 q

/-- ETH_Q_CFG written for the selected queue (R399, R403, R405): SUBPORT and DOMAIN only while ENABLE is 0. -/
def State.qCfgWrite (s : State) (v : Nat) : State :=
  let q := s.fld F.ETH_SEL_QUEUE
  let t := if s.flag F.ETH_Q_CFG_ENABLE q then s
    else (s.setFld F.ETH_Q_CFG_SUBPORT (v % 32) q).setFld F.ETH_Q_CFG_DOMAIN (v / 32 % 128) q
  let t := t.setFld F.ETH_Q_CFG_WHEEL (v / 2 ^ 12 % 2) q
  let t := t.setFld F.ETH_Q_CFG_OVERHEAD (v / 2 ^ 13 % 32) q
  let t := t.setFld F.ETH_Q_CFG_ENABLE (v / 2 ^ 18 % 2) q
  if t.strictClash (t.fld F.ETH_Q_CFG_SUBPORT q) && !s.strictClash (t.fld F.ETH_Q_CFG_SUBPORT q) then
    s.raise F.ETH_ERR_STATUS_STRICT_CONFLICT
  else if bit v 19 then t.qCommit q else t

/-- Q_COMMIT: ETH_Q_CFG written with COMMIT 1. -/
def execQCommit (value : Nat) (s : State) : Host.Outcome State Fault Refusal := .next (s.qCfgWrite (value ||| 2 ^ 19))

/-- A queue leaves the wheel: for its new mode when it moves (R403). -/
def State.wheelOut (s : State) (q : Nat) (x : TxQueue) : State :=
  let s := s.setFld F.ETH_Q_CFG_IN_WHEEL 0 q
  if s.flag F.ETH_Q_CFG_MOVING q then
    let y := { x with
      release := none, wheel := s.flag F.ETH_Q_CFG_WHEEL q, overhead := s.fld F.ETH_Q_CFG_OVERHEAD q
      cir := s.fld F.ETH_Q_RATE_CIR_KBPS q, pir := s.fld F.ETH_Q_RATE_PIR_KBPS q
      cbs := s.fld F.ETH_Q_BURST_CBS q, pbs := s.fld F.ETH_Q_BURST_PBS q, tc := 0, tp := 0, last := s.taiNs }
    (s.setTxq q y).setFld F.ETH_Q_CFG_MOVING 0 q
  else s.setTxq q { x with release := none }

/-- WHEEL_RELEASE: the tick of a queue that the wheel holds. -/
def State.wheelRelease (s : State) (q : Nat) : State :=
  let x := s.txq q
  match x.release with
  | none => s
  | some t => (s.advanceTo (t * 100 * nsec)).wheelOut q x

def execWheelRelease (queue : Nat) (s : State) : Host.Outcome State Fault Refusal := .next (s.wheelRelease (queue % 4096))

/-! ### Telemetry (R407) -/

/-- A queue's telemetry record written, and its window begun again; the depths of a window without a poll are open (log entry 32). -/
def State.sampleQueue (s : State) (q : Nat) : State :=
  let x := s.txq q
  let n := 4096 + q
  let p := match x.depths with
    | some d => (d, s)
    | none => let a := s.fresh 32; let b := a.2.fresh 32; ((a.1, b.1), b.2)
  let dl := x.delays.getD (2 ^ 32 - 1, 0)
  let m := wrap (x.samples + 1) 32
  let s := p.2.prWrite n (s.prCtrl n + 72)
    (toLe 4 p.1.1 ++ toLe 4 p.1.2 ++ toLe 4 dl.1 ++ toLe 4 dl.2 ++ toLe 4 m ++ toLe 4 p.2.ts32)
  s.setTxq q { x with depths := none, delays := none, samples := m }

/-- TELEMETRY_SAMPLE: every enabled queue sampled, SAMPLE_US after the last time. -/
def State.telemetry (s : State) : State :=
  let s := s.advanceTo (s.eth.sampleAt + max 1 (s.fld F.ETH_TM_CTRL_SAMPLE_US) * usec)
  let s := { s with eth := { s.eth with sampleAt := s.now } }
  ((s.indices 0x4000068).filter fun q => s.flag F.ETH_Q_CFG_ENABLE q && s.prOn (4096 + q)).foldl State.sampleQueue s

def execTelemetrySample (s : State) : Host.Outcome State Fault Refusal := .next s.telemetry

end Sys2Proof.Machine
end

