-- ==== Sys2Proof/Machine/Iso.lean ====
section
/-! DEFINITION. SPDM (R419 to R423, R432 to R434), key operations (R424 to R427), secure channels (R428) and notice rings (R430). -/

namespace Sys2Proof.Machine

/-! ### The Sextant's service (R501, R502) -/

/-- The Sextant's cores serve a request: the device is RUNNING or in RECOVERY, and the cores neither restart nor have FAILED. Serving
one wakes them. -/
def State.sxtServe (s : State) (f : State → State) : State :=
  if decide (s.fld F.GLB_STATUS_BOOT_STATE < bootRunning) || decide (2 ≤ s.fld F.SXT_STATUS_CORE_STATE) then s
  else f (({ s with sxt := { s.sxt with workAt := s.now } }).setFld F.SXT_STATUS_CORE_STATE 1)

/-! ### SPDM responses (R419) -/

/-- The number that stands for no session in an SPDM response. -/
def noSession : Nat := 16

/-- Response codes of DSP0274 (log entry 34). -/
def spdmVersion : Nat := 0x04
def spdmCapabilities : Nat := 0x61
def spdmAlgorithms : Nat := 0x63
def spdmDigests : Nat := 0x01
def spdmCertificate : Nat := 0x02
def spdmChallengeAuth : Nat := 0x03
def spdmMeasurements : Nat := 0x60
def spdmKeyExchangeRsp : Nat := 0x64
def spdmFinishRsp : Nat := 0x65
def spdmHeartbeatAck : Nat := 0x68
def spdmKeyUpdateAck : Nat := 0x69
def spdmEndSessionAck : Nat := 0x6C
def spdmVendorRsp : Nat := 0x7E
def spdmError : Nat := 0x7F

/-- Error codes of DSP0274 (log entry 34). -/
def errInvalidRequest : Nat := 0x01
def errBusy : Nat := 0x03

/-- A response with open bytes after those that the manual states: certificates, signatures and keys (log entry 33). -/
def State.spdmOpen (s : State) (sid code : Nat) (b : List Byte) (n : Nat) : State :=
  let f := s.freshBytes n
  f.2.send (.spdm sid code (b ++ f.1))

/-- The versions that the Sextant supports (R419). -/
def spdmVersions : List Byte := [0x12, 0x13]

def execGetVersion (s : State) : Host.Outcome State Fault Refusal :=
  .next (s.sxtServe fun s => s.send (.spdm noSession spdmVersion spdmVersions))

/-- GET_CAPABILITIES: the CT exponent of R419. -/
def execGetCapabilities (s : State) : Host.Outcome State Fault Refusal :=
  .next (s.sxtServe fun s => s.send (.spdm noSession spdmCapabilities [15]))

/-- NEGOTIATE_ALGORITHMS: selected where the requester offers the one set of R419, and an error otherwise. -/
def execNegotiateAlgorithms (offered : Bool) (s : State) : Host.Outcome State Fault Refusal :=
  .next (s.sxtServe fun s =>
    if offered then s.send (.spdm noSession spdmAlgorithms []) else s.send (.spdm noSession spdmError [BitVec.ofNat 8 errInvalidRequest]))

/-- GET_DIGESTS: the digest of the one chain, in slot 0. -/
def execGetDigests (s : State) : Host.Outcome State Fault Refusal :=
  .next (s.sxtServe fun s => s.spdmOpen noSession spdmDigests [1] 48)

/-- GET_CERTIFICATE: a part of the alias chain (R420) of slot 0; any other slot is an error. -/
def execGetCertificate (slot len : Nat) (s : State) : Host.Outcome State Fault Refusal :=
  .next (s.sxtServe fun s =>
    if slot = 0 then s.spdmOpen noSession spdmCertificate [0] len
    else s.send (.spdm noSession spdmError [BitVec.ofNat 8 errInvalidRequest]))

/-- CHALLENGE: a signature of the alias key (R420). -/
def execChallenge (slot : Nat) (s : State) : Host.Outcome State Fault Refusal :=
  .next (s.sxtServe fun s =>
    if slot = 0 then s.spdmOpen noSession spdmChallengeAuth [0] 96
    else s.send (.spdm noSession spdmError [BitVec.ofNat 8 errInvalidRequest]))

/-! ### Sessions (R419, R421, R422) -/

def State.setSession (s : State) (k : Nat) (x : Session) : State := { s with sessions := Tab.set s.sessions k x }

/-- A session ends; the keys that it installed stay (R423). -/
def State.endSession (s : State) (k : Nat) : State := { s with sessions := Tab.del s.sessions k }

/-- A session ended by a check that failed (R421). -/
def State.authFail (s : State) (k : Nat) : State := (s.endSession k).addFld F.ISO_SESSION_COUNT_AUTH_FAIL 1

/-- A secured message of a session: its AEAD check first (R421). -/
def State.secured (s : State) (k : Nat) (aeadOk : Bool) (f : State → Session → State) : State :=
  s.sxtServe fun s =>
    match Tab.get? s.sessions k with
    | none => s
    | some x =>
      if !aeadOk then ((s.authFail k).raise F.ISO_ERR_STATUS_AEAD_FAIL).count 0xF8B none 1
      else if !x.open_ then s
      else
        let x := { x with lastAt := s.now }
        f (s.setSession k x) x

/-- KEY_EXCHANGE: a session begins, or ERROR Busy when 16 are open (R419). -/
def State.keyExchange (s : State) (ok : Bool) : State :=
  match Tab.lowestFree s.sessions 0 16 with
  | none => (s.raise F.ISO_ERR_STATUS_SESSION_LIMIT).send (.spdm noSession spdmError [BitVec.ofNat 8 errBusy])
  | some k =>
    if ok then (s.setSession k ⟨false, none, s.now⟩).spdmOpen k spdmKeyExchangeRsp [BitVec.ofNat 8 k] 192
    else s.send (.spdm noSession spdmError [BitVec.ofNat 8 errInvalidRequest])

/-- KEY_EXCHANGE of a request that is well formed or not. -/
def execKeyExchange (ok : Bool) (s : State) : Host.Outcome State Fault Refusal := .next (s.sxtServe fun s => s.keyExchange ok)

/-- ISO_DOM_STATUS.STATE values of R414. -/
def domUndefined : Nat := 0
def domDefined : Nat := 1
def domProvisioned : Nat := 2

/-- A domain's owner digest, as its six registers hold it. -/
def State.owner (s : State) (d : Nat) : Nat :=
  (rangeFrom 0 6).foldl (fun a k => a + (s.reg (0x7000020 + 8 * k) d).toNat * 2 ^ (64 * k)) 0

/-- The DEFINED or PROVISIONED domain whose owner digest is that of a requester's key (R422). -/
def State.domainOf (s : State) (digest : Nat) : Option Nat :=
  allDomains.find? fun d => s.fld F.ISO_DOM_STATUS_STATE d != domUndefined && s.owner d == digest && digest != 0

/-- FINISH: mutual authentication completes, and the session is bound to the domain whose owner digest the requester's key has (R422). -/
def State.finish (s : State) (k : Nat) (authOk : Bool) (digest : Nat) : State :=
  match Tab.get? s.sessions k with
  | none => s
  | some x =>
    if x.open_ then s
    else if !authOk then s.authFail k
    else
      let s := s.setSession k ⟨true, s.domainOf digest, s.now⟩
      let s := (s.addFld F.ISO_SESSION_COUNT_ESTABLISHED 1).count 0xF8A none 1
      s.send (.spdm k spdmFinishRsp [])

def execFinish (session : Nat) (authOk : Bool) (keyDigest : Nat) (s : State) : Host.Outcome State Fault Refusal :=
  .next (s.sxtServe fun s => s.finish session authOk keyDigest)

/-- HEARTBEAT of a session. -/
def execHeartbeat (session : Nat) (aeadOk : Bool) (s : State) : Host.Outcome State Fault Refusal :=
  .next (s.secured session aeadOk fun s _ => s.send (.spdm session spdmHeartbeatAck []))

/-- KEY_UPDATE of a session: its keys rotate, which no state that the manual names shows. -/
def execKeyUpdate (session : Nat) (aeadOk : Bool) (s : State) : Host.Outcome State Fault Refusal :=
  .next (s.secured session aeadOk fun s _ => s.send (.spdm session spdmKeyUpdateAck []))

def execEndSession (session : Nat) (aeadOk : Bool) (s : State) : Host.Outcome State Fault Refusal :=
  .next (s.secured session aeadOk fun s _ => (s.send (.spdm session spdmEndSessionAck [])).endSession session)

/-- SESSION_IDLE_TIMEOUT: three HEARTBEAT periods of 30 s after the session's last message (R419). -/
def State.sessionIdle (s : State) (k : Nat) : State :=
  match Tab.get? s.sessions k with
  | none => s
  | some x => (s.advanceTo (x.lastAt + 90000 * msec)).endSession k

def execSessionIdleTimeout (session : Nat) (s : State) : Host.Outcome State Fault Refusal := .next (s.sessionIdle session)

/-! ### Measurements (R432 to R434) -/

/-- A windowed register's values with their indices. -/
def State.tableOf (s : State) (a : Nat) : List Nat := (s.indices a).flatMap fun i => [i, (s.reg a i).toNat]

/-- The content that a measurement's digest covers (R432). -/
def State.measured (s : State) (i : Nat) : List Nat :=
  match i with
  | 5 => (s.reg F.ALM_VERSION_CFG_VERSION.reg).toNat :: s.cfg.flatMap fun e => [e.1, e.2.toNat]
  | 6 => [(s.reg F.ALM_FLOOR_FW_FLOOR.reg).toNat]
  | 7 => [s.mapDigestReg]
  | 8 => s.strictDoms ++ s.helm.cal.flatMap (fun e => [e.start, e.len, e.dom]) ++ s.tableOf 0x4000048 ++ s.tableOf 0x3800018
      ++ (s.indices 0x7000058).flatMap fun i => [i, (s.reg 0x7000058 i).toNat % 256]
  | _ => [(s.reg F.ALM_VERSION_FW_VERSION.reg).toNat]

/-- A measurement block: its index and its digest (log entry 33). -/
def State.measBlock (s : State) (i : Nat) : List Byte := toLe 1 i ++ toLe 48 (Config.digest384 (i :: s.measured i))

/-- The channels assigned to a domain, and the cell slots. -/
def State.domChannels (s : State) (d : Nat) : List Nat := (s.indices 0x7000058).filter fun i => s.scDom i == some d
def State.domCells (s : State) (d : Nat) : List Nat :=
  (rangeFrom 0 512).filter fun c => s.flag F.RAD_CELL_ASSIGN_ASSIGNED c && s.cellDom c == d
def State.domInsts (s : State) (d : Nat) : Nat := s.insts.countP fun i => !i.2.oper && i.2.dom == d

/-- What DOMAIN_CFG_DIGEST covers (R434). -/
def State.domCfg (s : State) (d : Nat) : List Nat :=
  ((s.extents.filter fun e => e.2.owner == d).flatMap fun e => [e.2.idx, e.1]) ++ [s.fld F.MEM_PART_SP_BASE_MIB d, s.fld F.MEM_PART_ST_BASE_MIB d]
    ++ (s.helm.cal.filter fun e => e.dom == d).flatMap (fun e => [e.start, e.len]) ++ s.domCells d
    ++ ((s.indices 0x4000048).filter fun e => s.flag F.ETH_STEER_VALID e && s.fld F.ETH_STEER_DOMAIN e == d).flatMap
      (fun e => [e, (s.reg 0x4000048 e).toNat]) ++ s.domChannels d

/-- The domain record of index 16 (R434). -/
def State.domRecord (s : State) (d : Nat) : List Byte :=
  toLe 1 d ++ toLe 1 (b2n (s.strictDom d)) ++ toLe 2 (s.domInsts d) ++ toLe 4 (s.fld F.ISO_DOM_GEN_CONFIG_GEN d)
    ++ toLe 4 (s.fld F.ISO_DOM_GEN_KEY_GEN d)
    ++ toLe 1 (b2n (s.keyActive d) + 2 * s.fld F.ISO_DOM_STATUS_KEY_PERSISTED d + 4 * b2n (s.swapDom d))
    ++ toLe 1 (s.fld F.MEM_PART_ST_MIB d) ++ toLe 2 (s.fld F.MEM_PART_SP_MIB d) ++ toLe 4 (s.nExt d)
    ++ toLe 4 (s.fld F.MEM_COMMIT_VERM_MBPS d) ++ toLe 4 (s.fld F.MEM_COMMIT_SLATE_MBPS d) ++ toLe 2 (s.domCells d).length
    ++ toLe 2 (min 4095 (s.domChannels d).length) ++ toLe 4 (sumList ((s.helm.cal.filter fun e => e.dom == d).map (·.len))) ++ toLe 4 0
    ++ toLe 48 (Config.digest384 (16 :: s.domCfg d)) ++ toLe 40 0

/-- The blocks that GET_MEASUREMENTS returns for an index, 255 standing for all of them; index 16 only in a bound session (R432). -/
def State.measBlocks (s : State) (dom : Option Nat) (i : Nat) : Option (List Byte) :=
  let rec16 := match dom with
    | some d => [toLe 1 16 ++ s.domRecord d]
    | none => []
  if 1 ≤ i ∧ i ≤ 8 then some (s.measBlock i)
  else if i = 16 then rec16.head?
  else if i = 255 then some (((rangeFrom 1 8).map s.measBlock ++ rec16).flatten)
  else if i = 0 then some [BitVec.ofNat 8 (8 + rec16.length)]
  else none

/-- A measurement response, signed with the alias key (R432). -/
def State.measure (s : State) (sid : Nat) (dom : Option Nat) (i : Nat) : State :=
  match s.measBlocks dom i with
  | some b => s.spdmOpen sid spdmMeasurements b 96
  | none => s.send (.spdm sid spdmError [BitVec.ofNat 8 errInvalidRequest])

/-- GET_MEASUREMENTS, outside a session or in one. -/
def execGetMeasurements (session : Option Nat) (aeadOk : Bool) (index : Nat) (s : State) : Host.Outcome State Fault Refusal :=
  .next (match session with
    | none => s.sxtServe fun s => s.measure noSession none index
    | some k => s.secured k aeadOk fun s x => s.measure k x.dom index)

/-! ### Key operations (R424, R425) -/

def ksOk : Nat := 0x00
def ksNotBound : Nat := 0x01
def ksArgInvalid : Nat := 0x02
def ksKeyWeak : Nat := 0x03
def ksKeyBusy : Nat := 0x04
def ksChannelInvalid : Nat := 0x05
def ksSaInUse : Nat := 0x06
def ksNoSa : Nat := 0x07
def ksRingInvalid : Nat := 0x08

/-- The response of a vendor-defined operation: STATUS, KEY_GEN of the session's domain, byte 2, and what follows byte 8. The KEY_GEN of a session
without a domain is open (log entry 33). -/
def State.keyAnswer (s : State) (sid : Nat) (dom : Option Nat) (st b2 : Nat) (rest : List Byte) : State :=
  let gen := match dom with
    | some d => (s.fld F.ISO_DOM_GEN_KEY_GEN d, s)
    | none => s.fresh 32
  gen.2.send (.spdm sid spdmVendorRsp (toLe 1 st ++ toLe 1 0 ++ toLe 2 b2 ++ toLe 4 gen.1 ++ rest))

/-- A vendor-defined operation in a session: NOT_BOUND when the session is unbound, else the operation on its domain, which answers a state,
a status and the rest of the response. -/
def State.keyOp (s : State) (sid : Nat) (aeadOk : Bool) (f : State → Nat → State × Nat × List Byte) : State :=
  s.secured sid aeadOk fun s x =>
    match x.dom with
    | none => s.keyAnswer sid none ksNotBound 0 []
    | some d => let r := f s d; r.1.keyAnswer sid (some d) r.2.1 0 r.2.2

/-- A request has the OP in bytes 0 and 1 and zeros in every byte that R424 does not list. -/
def reqOk (b : List Byte) (op : Nat) (listed : List (Nat × Nat)) : Bool :=
  fieldAt b 0 2 == op && (rangeFrom 2 (max 80 b.length)).all fun k =>
    listed.any (fun p => decide (p.1 ≤ k) && decide (k < p.1 + p.2)) || fieldAt b k 1 == 0

/-- The ACTIVE bit of a domain's key slot (R295). -/
def State.setActive (s : State) (d : Nat) (on : Bool) : State :=
  let a := if d < 64 then 0x8000070 else 0x8000078
  (s.setReg a 0 (BitVec.ofNat 64 (putBit (s.reg a).toNat (d % 64) on))).setFld F.ISO_DOM_STATUS_KEY_ACTIVE (b2n on) d

/-- The blocks of a domain's HBM that hold something under its key, by number: those written, and those of the extents that a replacement filled
with zeros (R296, R312). -/
def State.keyedBlocks (s : State) (d : Nat) : List Nat :=
  let own := s.wrote.filter fun b => inSpace .hbm d (64 * b)
  let zero := (s.extents.filter fun e => e.2.owner == d && e.2.repl).flatMap fun e =>
    (rangeFrom (e.1 * extBlocks) extBlocks).filterMap fun b => (s.blockOwner b).map fun p => domBlock p.1 p.2
  own ++ zero.filter fun b => !own.contains b

/-- A block read under a key that was written under another: decrypted under the new key from the bytes that the old one wrote (R294, R296). -/
def State.rekeyBlock (s : State) (d old new b : Nat) : State :=
  let o := 64 * b % 2 ^ 64
  let p := (s.bytes .hbm d o 64).map (·.toNat)
  let q := xts true new (xtsTweak d o) (xts false old (xtsTweak d o) p)
  { s with mem := Memory.writeBytes s.mem (64 * b) (q.map (BitVec.ofNat 8)) }

/-- A domain's HBM under a key: what was written under another key reads as its ciphertext decrypts under this one (R296). -/
def State.rekey (s : State) (d new : Nat) : State :=
  let t := match Tab.get? s.hbmUnder d with
    | none => s
    | some old => if old = new then s else (s.keyedBlocks d).foldl (fun t b => t.rekeyBlock d old new b) s
  { t with hbmUnder := Tab.set t.hbmUnder d new }

/-- An accepted change of a key slot: KEY_GEN and CONFIG_GEN advance (R433, R434). -/
def State.keyChanged (s : State) (d : Nat) : State := (s.addFld F.ISO_DOM_GEN_KEY_GEN 1 d).configChanged d

/-- The domain holds an instance, or has a request in flight: a run of its own, or an accepted slot of a cell (R296, R425). -/
def State.keyBusy (s : State) (d : Nat) : Bool :=
  decide (0 < s.domInsts d) || (s.runs.any fun p => p.2.dom == d) || s.cells.any fun e => s.cellDom e.1 == d && !e.2.slots.isEmpty

/-- A key installed in a domain's slot, and its wrapped copy when it is to persist (R414, R424, R427). -/
def State.installKey (s : State) (d key : Nat) (persist : Bool) : State :=
  let s := s.rekey d key
  let s := { s with hbmKeys := Tab.set s.hbmKeys d key }
  let s := (s.setActive d true).setFld F.ISO_DOM_STATUS_STATE domProvisioned d
  let s := { s with alm := { s.alm with wrapped := if persist then Tab.set s.alm.wrapped d (key, s.owner d) else Tab.del s.alm.wrapped d } }
  (s.setFld F.ISO_DOM_STATUS_KEY_PERSISTED (b2n persist) d).keyChanged d

/-- DOM_KEY_SET (R424, R425). -/
def State.domKeySet (s : State) (d : Nat) (b : List Byte) : State × Nat × List Byte :=
  if !reqOk b 0x0001 [(2, 1), (8, 64)] || decide (1 < fieldAt b 2 1) then (s, ksArgInvalid, [])
  else if slice b 8 32 = slice b 40 32 then (s, ksKeyWeak, [])
  else if s.keyBusy d then (s, ksKeyBusy, [])
  else (s.installKey d (fieldAt b 8 64) (bit (fieldAt b 2 1) 0), ksOk, [])

def execDomKeySet (session : Nat) (aeadOk : Bool) (req : List Byte) (s : State) : Host.Outcome State Fault Refusal :=
  .next (s.keyOp session aeadOk fun s d => s.domKeySet d req)

/-- DOM_KEY_GEN: a key of the Sextant's own, whose value is open (R424). -/
def State.domKeyGen (s : State) (d : Nat) (b : List Byte) : State × Nat × List Byte :=
  if !reqOk b 0x0002 [(2, 1)] || decide (1 < fieldAt b 2 1) then (s, ksArgInvalid, [])
  else if s.keyBusy d then (s, ksKeyBusy, [])
  else
    let k := s.fresh 512
    (k.2.installKey d k.1 (bit (fieldAt b 2 1) 0), ksOk, [])

def execDomKeyGen (session : Nat) (aeadOk : Bool) (req : List Byte) (s : State) : Host.Outcome State Fault Refusal :=
  .next (s.keyOp session aeadOk fun s d => s.domKeyGen d req)

/-- AN_INSTALLED of a channel brought up to date. -/
def State.showAns (s : State) (sc : Nat) : State :=
  s.setFld F.ISO_SC_ASSIGN_AN_INSTALLED (sumList ((rangeFrom 0 4).map fun a => if Tab.has s.sas (saKey sc a) then 2 ^ a else 0)) sc

/-- Every SA of a channel cleared, with SA_CLEARED posted to its domain for each (R428, R430). -/
def State.clearChannel (s : State) (sc : Nat) (dom : Option Nat) : State :=
  let mine := s.sas.filter fun e => e.1 / 4 == sc
  let s := { s with sas := s.sas.filter fun e => e.1 / 4 != sc }
  let s := (s.showAns sc).setFld F.ISO_SC_ASSIGN_AN_IN_USE 0 sc
  match dom with
  | none => s
  | some d => mine.foldl (fun s e => s.notice d 4 sc (e.1 % 4)) s

/-- A domain's key slot emptied and its SAs cleared (R414). Its bytes stay in the cells under the key that it had (R296). -/
def State.dropKey (s : State) (d : Nat) : State :=
  let had := s.keyActive d
  let s := s.setActive d false
  let s := { s with hbmKeys := Tab.del s.hbmKeys d, alm := { s.alm with wrapped := Tab.del s.alm.wrapped d } }
  let s := s.setFld F.ISO_DOM_STATUS_KEY_PERSISTED 0 d
  let s := (s.domChannels d).foldl (fun s sc => s.clearChannel sc (some d)) s
  if had then (s.keyChanged d).notice d 2 0 0 else s

/-- DOM_KEY_CLEAR (R414, R424). -/
def State.domKeyClear (s : State) (d : Nat) (b : List Byte) : State × Nat × List Byte :=
  if !reqOk b 0x0003 [] then (s, ksArgInvalid, [])
  else if s.keyBusy d then (s, ksKeyBusy, [])
  else ((s.dropKey d).setFld F.ISO_DOM_STATUS_STATE domDefined d, ksOk, [])

def execDomKeyClear (session : Nat) (aeadOk : Bool) (req : List Byte) (s : State) : Host.Outcome State Fault Refusal :=
  .next (s.keyOp session aeadOk fun s d => s.domKeyClear d req)

/-- The channel that bytes 2 to 5 name, and the AN of byte 6. -/
def reqSc (b : List Byte) : Nat := scIdx (fieldAt b 2 1) (fieldAt b 3 1 % 2) (fieldAt b 4 2)
def reqAn (b : List Byte) : Nat := fieldAt b 6 1

/-- The channel fields of a request lie in their ranges. -/
def reqScOk (b : List Byte) (maxFlags : Nat) : Bool :=
  decide (fieldAt b 2 1 < 32) && decide (fieldAt b 3 1 ≤ maxFlags) && decide (fieldAt b 4 2 < 1024) && decide (fieldAt b 6 1 < 4)

/-- CHANNEL_INVALID of R425. -/
def State.channelOk (s : State) (d : Nat) (b : List Byte) : Bool :=
  s.scDom (reqSc b) == some d && s.flag F.ETH_SUB_CTRL_MACSEC_EN (fieldAt b 2 1)

/-- The transmit SA in use on a channel: the AN in use, when it holds an SA. -/
def State.saInUse (s : State) (b : List Byte) : Bool :=
  bit (fieldAt b 3 1) 0 && s.fld F.ISO_SC_ASSIGN_AN_IN_USE (reqSc b) == reqAn b && Tab.has s.sas (saKey (reqSc b) (reqAn b))

/-- The ranges of SAK_SET's fields: REPLAY_WINDOW, and SSCI and SALT of 0 without XPN (R424). -/
def sakFieldsOk (b : List Byte) : Bool :=
  decide (fieldAt b 72 4 ≤ 2 ^ 30) && (bit (fieldAt b 3 1) 1 || (fieldAt b 48 16 == 0 && decide (fieldAt b 64 8 < 2 ^ 32)))

/-- The first SA of a transmit channel is the one in use. -/
def State.firstUse (s : State) (sc an : Nat) : State :=
  if sc / 32 % 2 = 1 ∧ (rangeFrom 0 4).all (fun a => !Tab.has s.sas (saKey sc a)) then s.setFld F.ISO_SC_ASSIGN_AN_IN_USE an sc else s

/-- SAK_SET (R424, R425). -/
def State.sakSet (s : State) (d : Nat) (b : List Byte) : State × Nat × List Byte :=
  if !reqOk b 0x0010 [(2, 5), (8, 68)] || !reqScOk b 3 || !sakFieldsOk b then (s, ksArgInvalid, [])
  else if fieldAt b 16 32 = 0 then (s, ksKeyWeak, [])
  else if !s.channelOk d b then (s, ksChannelInvalid, [])
  else if s.saInUse b then (s, ksSaInUse, [])
  else
    let a : MacSa := { xpn := bit (fieldAt b 3 1) 1, sci := fieldAt b 8 8, sak := fieldAt b 16 32, ssci := fieldAt b 48 4, salt := fieldAt b 52 12,
                       pn := fieldAt b 64 8, window := fieldAt b 72 4, low := false }
    let s := s.firstUse (reqSc b) (reqAn b)
    let s := s.tieSa (saKey (reqSc b) (reqAn b))
    let s := { s with sas := Tab.set s.sas (saKey (reqSc b) (reqAn b)) a }
    (s.showAns (reqSc b), ksOk, [])

def execSakSet (session : Nat) (aeadOk : Bool) (req : List Byte) (s : State) : Host.Outcome State Fault Refusal :=
  .next (s.keyOp session aeadOk fun s d => s.sakSet d req)

/-- SAK_CLEAR (R424, R425). -/
def State.sakClear (s : State) (d : Nat) (b : List Byte) : State × Nat × List Byte :=
  if !reqOk b 0x0011 [(2, 5)] || !reqScOk b 3 then (s, ksArgInvalid, [])
  else if !s.channelOk d b then (s, ksChannelInvalid, [])
  else if s.saInUse b then (s, ksSaInUse, [])
  else if !Tab.has s.sas (saKey (reqSc b) (reqAn b)) then (s, ksNoSa, [])
  else ({ s with sas := Tab.del s.sas (saKey (reqSc b) (reqAn b)) }.showAns (reqSc b), ksOk, [])

def execSakClear (session : Nat) (aeadOk : Bool) (req : List Byte) (s : State) : Host.Outcome State Fault Refusal :=
  .next (s.keyOp session aeadOk fun s d => s.sakClear d req)

/-- SA_STATUS (R424, R425). -/
def State.saStatus (s : State) (d : Nat) (b : List Byte) : State × Nat × List Byte :=
  if !reqOk b 0x0012 [(2, 5)] || !reqScOk b 3 then (s, ksArgInvalid, [])
  else if !s.channelOk d b then (s, ksChannelInvalid, [])
  else match Tab.get? s.sas (saKey (reqSc b) (reqAn b)) with
    | none => (s, ksNoSa, [])
    | some a => (s, ksOk, toLe 8 a.pn)

def execSaStatus (session : Nat) (aeadOk : Bool) (req : List Byte) (s : State) : Host.Outcome State Fault Refusal :=
  .next (s.keyOp session aeadOk fun s d => s.saStatus d req)

/-- SET_NOTICE_RING (R424, R425, R430). -/
def State.setNoticeRing (s : State) (d : Nat) (b : List Byte) : State × Nat × List Byte :=
  let i := fieldAt b 2 2
  if !reqOk b 0x0020 [(2, 3)] || decide (1024 ≤ i) || decide (64 ≤ fieldAt b 4 1) then (s, ksArgInvalid, [])
  else match Tab.get? s.insts i with
    | none => (s, ksRingInvalid, [])
    | some x =>
      if x.oper || x.dom != d then (s, ksRingInvalid, [])
      else match Tab.get? x.locals (fieldAt b 4 1) with
        | none => (s, ksRingInvalid, [])
        | some g => ({ s with noticeRings := Tab.set s.noticeRings d g }, ksOk, [])

def execSetNoticeRing (session : Nat) (aeadOk : Bool) (req : List Byte) (s : State) : Host.Outcome State Fault Refusal :=
  .next (s.keyOp session aeadOk fun s d => s.setNoticeRing d req)

/-! ### Channel assignment (R428) -/

/-- The strict domain to which R405 reserves a sub-port. -/
def State.reserved (s : State) (sp : Nat) : Option Nat := (s.subDoms sp).find? s.strictDom

/-- SC_ASSIGN_WRITE: ISO_SC_ASSIGN written for the selected channel. -/
def State.scAssign (s : State) (v : Nat) : State :=
  let sc := (s.reg F.ISO_SC_SEL_SUBPORT.reg).toNat % 65536
  let d := v % 128
  let valid := bit v 7
  let taken := match s.reserved (sc % 32) with
    | some x => valid && x != d
    | none => false
  if taken then s.raise F.ISO_ERR_STATUS_SC_CONFLICT
  else
    let old := s.scDom sc
    let new := if valid then some d else none
    let s := if old = new then s else s.clearChannel sc old
    let s := (s.setFld F.ISO_SC_ASSIGN_DOMAIN d sc).setFld F.ISO_SC_ASSIGN_VALID (b2n valid) sc
    if old = new then s else s.measChanged

def execScAssignWrite (value : Nat) (s : State) : Host.Outcome State Fault Refusal := .next (s.scAssign value)

end Sys2Proof.Machine
end

