-- ==== Sys2Proof/Machine/Reckon.lean ====
section
/-! DEFINITION. The reckoning registers of a ring (R451 to R457). -/

namespace Sys2Proof.Machine

/-- A write of one of a ring's reckoning registers is accepted: the ring is a reckoning ring and DISABLED (R451, R453). -/
def State.reckonWrites (s : State) (inst loc link : Nat) (f : State → Nat → Ring → State) : State :=
  s.pageWrite inst link fun s =>
    match s.localRing inst loc with
    | none => s
    | some (g, r) => if r.reckons && s.ringState r == ringDisabled then f s g r else s

/-- RING_RECKON written: STEP and HALT_INDEX are set, and a staged half of a seed is forgotten (R453, R457). -/
def State.reckonWrite (s : State) (inst loc v link : Nat) : State :=
  s.reckonWrites inst loc link fun s g r =>
    let s := s.setFld F.RING_RECKON_STEP (v % 2 ^ 48) r.key
    (s.setFld F.RING_RECKON_HALT_INDEX (v / 2 ^ 48) r.key).setRing g { r with seedHalf := none }

def execReckonWrite (inst loc value link : Nat) (s : State) : Host.Outcome State Fault Refusal :=
  .next (s.reckonWrite (inst % 1024) (loc % 64) (value % 2 ^ 64) (link % 2))

/-- RING_SEED written with 64 bits: the first write stages bits 63:0 and the second applies the seed (R453). -/
def State.seedWrite (s : State) (inst loc v link : Nat) : State :=
  s.reckonWrites inst loc link fun s g r =>
    match r.seedHalf with
    | none => s.setRing g { r with seedHalf := some v }
    | some lo => s.setRing g { r with seedHalf := none, seed := some (v * 2 ^ 64 + lo) }

def execSeedWrite (inst loc value link : Nat) (s : State) : Host.Outcome State Fault Refusal :=
  .next (s.seedWrite (inst % 1024) (loc % 64) (value % 2 ^ 64) (link % 2))

end Sys2Proof.Machine
end

