-- ==== Sys2Proof/Machine/Meridian.lean ====
section
/-! DEFINITION. The Meridian's holdover limit, SyncE, PTP messages, PPS and the writes of MER_TIME_CTRL (R459 to R476). -/

namespace Sys2Proof.Machine

/-- HOLD_EXPIRED: HOLD_MS passes the limit, and ALERT is asserted (R465). -/
def State.holdExpired (s : State) : State :=
  if s.servo = merHoldover ∧ s.flag F.MER_STATUS_HOLD_EXPIRED = false then
    let s := s.advanceTo (s.mer.holdAt + (s.fld F.MER_SRC_CTRL_HOLD_LIMIT_S * 1000 + 1) * msec)
    let s := (s.raise F.MER_STATUS_HOLD_EXPIRED).raise F.MER_ERR_STATUS_HOLD_EXPIRED
    ((s.raise F.SXT_ALERT_HOLD_EXPIRED).merCount 15).setClass
  else s

def execHoldExpired (s : State) : Host.Outcome State Fault Refusal := .next s.holdExpired

/-! ### SyncE (R461, R470) -/

/-- The SSM codes of QL-PRC and QL-DNU. -/
def qlPrc : Nat := 2
def qlDnu : Nat := 15

/-- The frequency source that MER_SRC_CTRL and the received QLs select. -/
def State.freqPick (s : State) : Nat :=
  let other := if s.mer.ref10 then 32 else 33
  if s.flag F.MER_SRC_CTRL_SRC_AUTO then
    match (rangeFrom 0 32).find? fun sp => s.flag F.MER_PORT_CFG_SYNCE_RX sp && s.fld F.MER_PORT_CFG_RX_QL sp == qlPrc with
    | some sp => sp
    | none => other
  else if s.fld F.MER_SRC_CTRL_FREQ_SRC = 0 then s.fld F.MER_SRC_CTRL_SYNCE_PORT
  else if s.fld F.MER_SRC_CTRL_FREQ_SRC = 1 then other else 33

/-- The QL of a frequency source; a source without SyncE has one that the manual does not give (log entry 36). -/
def State.sourceQl (s : State) (src : Nat) : Nat :=
  if src < 32 then s.fld F.MER_PORT_CFG_RX_QL src else ((std stdOwnQl [src]).headD 0).toNat % 16

/-- The device's output SYNCE_CLK_OUT runs: a SyncE source is selected and its QL is not DNU (R470). -/
def State.synceOut (s : State) : Bool := decide (s.mer.freqSrc < 32) && s.sourceQl s.mer.freqSrc != qlDnu

/-- A PTP message or ESMC PDU sent on a sub-port at level 1 (R399, R467). -/
def State.merSend (s : State) (sp kind : Nat) (fields : List Nat) : State :=
  (s.send (.ptp sp kind fields)).frameSent sp 1 ((std stdPtpLen [kind, s.fld F.MER_SRC_CTRL_PROFILE]).headD 0).toNat

/-- The sub-ports that send ESMC. -/
def State.esmcPorts (s : State) : List Nat :=
  (rangeFrom 0 32).filter fun sp => s.flag F.ETH_SUB_STATUS_UP sp && s.flag F.MER_PORT_CFG_SYNCE_TX sp

/-- The selection made again: a changed QL leaves in event PDUs (R470). -/
def State.freqSelect (s : State) : State :=
  let src := s.freqPick
  let ql := s.sourceQl src
  let changed := ql != s.mer.ql
  let s := { s with mer := { s.mer with freqSrc := src, ql := ql } }
  if changed then s.esmcPorts.foldl (fun s sp => s.merSend sp 6 [ql]) (s.merCount 9) else s

/-- A QL received or expired on a sub-port. -/
def State.setQl (s : State) (sp ql : Nat) : State :=
  let s := if ql = qlDnu ∧ s.mer.freqSrc = sp ∧ s.fld F.MER_PORT_CFG_RX_QL sp ≠ qlDnu then s.raise F.MER_ERR_STATUS_QL_DNU else s
  (s.setFld F.MER_PORT_CFG_RX_QL ql sp).freqSelect

/-- ESMC_TX_TIMER: one second after the last information PDUs. -/
def State.esmcTx (s : State) : State :=
  let s := s.advanceTo (s.mer.esmcAt + 1000 * msec)
  let s := { s with mer := { s.mer with esmcAt := s.now } }
  s.esmcPorts.foldl (fun s sp => s.merSend sp 5 [s.mer.ql]) s

def execEsmcTxTimer (s : State) : Host.Outcome State Fault Refusal := .next s.esmcTx

/-- QL_TIMEOUT: a QL not refreshed for 5 s is treated as QL-DNU. -/
def State.qlTimeout (s : State) (sp : Nat) : State :=
  if s.flag F.MER_PORT_CFG_SYNCE_RX sp then (s.advanceTo ((s.ptpPort sp).qlAt + 5000 * msec)).setQl sp qlDnu else s

def execQlTimeout (subport : Nat) (s : State) : Host.Outcome State Fault Refusal := .next (s.qlTimeout (subport % 32))

/-! ### PTP (R466 to R469) -/

/-- A timestamp's SEC, NS and SUBNS (R469). -/
def stampFields (t : Nat) : List Nat := [t / (1000000000 * 65536), t / 65536 % 1000000000, t % 65536]

/-- The mean path delay of a port; before one is measured it is open (log entry 35). -/
def State.pathDelay (s : State) (sp : Nat) : Int × State :=
  match (s.ptpPort sp).delay with
  | some d => (d, s)
  | none => let f := s.fresh 32; (signed f.1 32, f.2)

/-- A Sync's origin and corrections are known, with its receive time: a measurement on the slave port (R462). -/
def State.syncDone (s : State) (sp : Nat) (t1 t2 : Int) : State :=
  let s := s.setPtpPort sp { s.ptpPort sp with sync := none, lastPair := some (t1, t2) }
  if s.fld F.MER_PORT_CFG_PORT_STATE sp = ptpSlave ∧ s.fld F.MER_SRC_CTRL_PHASE_SRC = 0 then
    let d := s.pathDelay sp
    d.2.phaseMeasure (t2 - t1 - d.1)
  else s

/-- A Delay_Resp: the end-to-end mean path delay (R466). -/
def State.delayDone (s : State) (sp : Nat) (t4 : Int) : State :=
  let p := s.ptpPort sp
  match p.lastPair, p.reqAt with
  | some (t1, t2), some t3 => s.setPtpPort sp { p with delay := some ((t2 - t1 + (t4 - t3)) / 2) }
  | _, _ => s

/-- A message received on a PTP port. -/
def State.ptpMessage (s : State) (sp : Nat) (m : PtpMsg) : State :=
  let p := s.ptpPort sp
  match m with
  | .sync origin corr two =>
    let s := s.merCount 3
    if two then s.setPtpPort sp { p with sync := some (corr, s.rxStamp sp) }
    else s.syncDone sp ((origin : Int) + corr) (s.rxStamp sp)
  | .followUp origin corr =>
    match p.sync with
    | none => s
    | some (c, t2) => s.syncDone sp ((origin : Int) + corr + c) t2
  | .delayReq seq corr =>
    let s := s.merCount 5
    if s.fld F.MER_PORT_CFG_PORT_STATE sp = ptpMaster then
      s.merSend sp 2 (stampFields (s.rxStamp sp).toNat ++ [seq, wrapInt corr 64])
    else s
  | .delayResp receive corr => s.delayDone sp ((receive : Int) - corr)
  | .announce ds utc cls =>
    let old := s.masterOf s.slavePort
    let s := (s.merCount 6).setFld F.MER_STATUS_UTC_OFFSET utc
    (s.setPtpPort sp { p with best := cls :: utc :: ds }).bmca old
  | .signaling data =>
    if s.fld F.MER_SRC_CTRL_PROFILE = 1 then s.merSend sp 4 ((std stdSignaling (data.map (·.toNat))).map (·.toNat)) else s
  | .esmc _ => s

/-- PTP_FRAME_RECEIVE: a claimed frame, on an enabled port (R467). -/
def State.ptpReceive (s : State) (sp : Nat) (m : PtpMsg) : State :=
  match m with
  | .esmc ql =>
    if s.flag F.ETH_SUB_STATUS_UP sp && s.flag F.MER_PORT_CFG_SYNCE_RX sp then
      ((s.merCount 8).setPtpPort sp { s.ptpPort sp with qlAt := s.now }).setQl sp (ql % 16)
    else s
  | m => if s.ptpOn sp then (s.merCount (16 + sp / 2)).ptpMessage sp m else s

def execPtpFrameReceive (subport : Nat) (msg : PtpMsg) (s : State) : Host.Outcome State Fault Refusal :=
  .next (s.ptpReceive (subport % 32) msg)

/-- PTP_TX_TIMER: a Sync (0) or Announce (3) of a master port, or the Delay_Req (1) of the slave port; a Sync leaves with its own transmit
time, the fraction in correctionField (R468, R469). -/
def State.ptpTx (s : State) (sp kind : Nat) : State :=
  let st := s.fld F.MER_PORT_CFG_PORT_STATE sp
  if !s.ptpOn sp then s
  else if kind = 0 ∧ st = ptpMaster then
    ((s.merCount 4).merCount 12).merSend sp 0 (stampFields (s.txStamp sp))
  else if kind = 1 ∧ st = ptpSlave then
    (s.setPtpPort sp { s.ptpPort sp with reqAt := some (s.txStamp sp : Int) }).merSend sp 1 []
  else if kind = 3 ∧ st = ptpMaster then
    s.merSend sp 3 ([s.fld F.MER_STATUS_CLOCK_CLASS, s.fld F.MER_STATUS_UTC_OFFSET] ++
      match s.slavePort with
      | some p => (s.ptpPort p).best.drop 2
      | none => [])
  else s

def execPtpTxTimer (subport kind : Nat) (s : State) : Host.Outcome State Fault Refusal := .next (s.ptpTx (subport % 32) kind)

/-- SOURCE_LOST: of a PTP source, whose slave port's data set is dropped when it sends no Announce; of PPS, 1.1 s after its last edge
(R465). -/
def State.lost (s : State) (noAnnounce : Bool) : State :=
  if s.fld F.MER_SRC_CTRL_PHASE_SRC = 0 then
    let old := s.masterOf s.slavePort
    let t := s.sourceLost
    match t.slavePort with
    | none => t
    | some p => if noAnnounce then (t.setPtpPort p { t.ptpPort p with best := [] }).bmca old else t
  else if s.fld F.MER_SRC_CTRL_PHASE_SRC = 1 then
    match s.mer.ppsAt with
    | none => s
    | some t => (s.advanceTo (t + 1100 * msec)).sourceLost
  else s

def execSourceLost (noAnnounce : Bool) (s : State) : Host.Outcome State Fault Refusal := .next (s.lost noAnnounce)

/-! ### PPS (R471, R475) -/

/-- PPS_EDGE: within 0.9 s of the last captured edge a glitch; otherwise the counter is captured, before a step of the same cycle, and
when PPS is the phase source the edge marks the second of MER_TOD (R471, log entry 110). -/
def State.ppsEdge (s : State) (withStep : Bool) : State :=
  let near := match s.mer.ppsAt with
    | some t => decide (s.now < t + 900 * msec)
    | none => false
  if near then (s.raise F.MER_ERR_STATUS_PPS_GLITCH).merCount 11
  else
    let t := (if withStep then s.mer.before else none).getD s.tai
    let s := if withStep ∧ s.mer.before.isSome then s.raise F.MER_ERR_STATUS_PPS_STEPPED else s
    let c := taiWrap ((t : Int) - (s.fld F.MER_PPS_CTRL_PPS_IN_DELAY * 2 ^ 32 : Nat))
    let s := (s.setFld F.MER_PPS_CAPTURE_NS (c % taiSec / 2 ^ 32)).setFld F.MER_PPS_CAPTURE_SUBNS (c % 2 ^ 32 / 65536)
    let s := (s.addFld F.MER_PPS_CAPTURE_EDGES 1).merCount 10
    let s := { s with mer := { s.mer with ppsAt := some s.now } }
    if s.fld F.MER_SRC_CTRL_PHASE_SRC = 1 then
      let mark := s.fld F.MER_TOD_SEC * taiSec
      (s.addFld F.MER_TOD_SEC 1).phaseMeasure (Int.fdiv ((c : Int) - (mark : Int)) 65536)
    else s

def execPpsEdge (withStep : Bool) (s : State) : Host.Outcome State Fault Refusal := .next (s.ppsEdge withStep)

/-- PPS OUT is driven (R471). -/
def State.ppsDrives (s : State) : Bool :=
  (s.timeValid && !s.flag F.MER_STATUS_HOLD_EXPIRED) || s.flag F.MER_PPS_CTRL_PPS_FORCE

/-- The next instant SEC:0 + PPS_OFFSET_NS from the counter on, after the edge of the output that is high, in 2^−16 ns. -/
def State.ppsNext (s : State) : Nat :=
  let sec := 1000000000 * 65536
  let o := signed (s.fld F.MER_PPS_CTRL_PPS_OFFSET_NS) 32 * 65536
  let w := wrapIn sec (o - (s.tai16 : Int))
  s.tai16 + if w = 0 ∧ s.mer.ppsOut then sec else w
where
  /-- The remainder of an integer. -/
  wrapIn (m : Nat) (x : Int) : Nat := (x % (m : Int)).toNat

/-- PPS_OUT_EDGE: the counter reaches the next instant, and the output rises if it is driven. -/
def State.ppsRise (s : State) : State :=
  let s := s.untilTai s.ppsNext
  if s.ppsDrives then { s with mer := { s.mer with ppsOut := true, riseAt := s.now } } else s

def execPpsOutEdge (s : State) : Host.Outcome State Fault Refusal := .next s.ppsRise

/-- PPS_OUT_FALL: PPS_WIDTH_US after the rising edge the output falls. -/
def State.ppsFall (s : State) : State :=
  if s.mer.ppsOut then
    let s := s.advanceTo (s.mer.riseAt + s.fld F.MER_PPS_CTRL_PPS_WIDTH_US * usec)
    { s with mer := { s.mer with ppsOut := false } }
  else s

def execPpsOutFall (s : State) : Host.Outcome State Fault Refusal := .next s.ppsFall

/-! ### MER_TIME_CTRL (R463, R475) -/

/-- LATCH: the counter copied to MER_TIME_SEC and MER_TIME_NS. -/
def State.latch (s : State) : State :=
  let s := s.setFld F.MER_TIME_SEC_SEC s.sec
  (s.setFld F.MER_TIME_NS_NS s.ns).setFld F.MER_TIME_NS_SUBNS s.subns

/-- The value that SET loads. -/
def State.setValue (s : State) : Nat :=
  s.fld F.MER_TIME_SEC_SEC * taiSec + s.fld F.MER_TIME_NS_NS * 2 ^ 32 + s.fld F.MER_TIME_NS_SUBNS * 65536

/-- SET and STEP applied from registers as they stood before the write, as one step; SET in FREERUN makes time valid (R462). -/
def State.setStep (s : State) (loaded : Nat) (set step : Bool) : State :=
  let base := if set then loaded else s.tai
  let t := if step then taiWrap ((base : Int) + signed (s.fld F.MER_TIME_ADJ_ADJ) 64 * 65536) else base
  let s := s.stepTo t (if set && step then 3 else if set then 2 else 1)
  if set && s.servo == merFreerun then s.setFld F.MER_STATUS_TIME_VALID 1 else s

/-- MER_TIME_CTRL written (R463, R475): LATCH always applies; SET and STEP are refused while a cell is running. -/
def State.timeCtrl (s : State) (v : Nat) : State :=
  let loaded := s.setValue
  let set := bit v 1
  let step := bit v 2
  let s := if bit v 0 then s.latch else s
  if set || step then
    if s.cellRunning then ((s.raise F.MER_TIME_CTRL_TIME_REFUSED).raise F.MER_ERR_STATUS_TIME_REFUSED).merCount 14
    else (s.setFld F.MER_TIME_CTRL_TIME_REFUSED 0).setStep loaded set step
  else s

def execLatch (value : Nat) (s : State) : Host.Outcome State Fault Refusal := .next (s.timeCtrl (value ||| 1))
def execSet (value : Nat) (s : State) : Host.Outcome State Fault Refusal := .next (s.timeCtrl (value ||| 2))
def execStep (value : Nat) (s : State) : Host.Outcome State Fault Refusal := .next (s.timeCtrl (value ||| 4))

end Sys2Proof.Machine
end

