-- ==== Sys2Proof/Machine/Almanac.lean ====
section
/-! DEFINITION. Images, their load checks (R480 to R487), boot headers and slot roles (R488 to R490), fuse repair records (R93 to R96), and what
a configuration image gives the device (R483). -/

namespace Sys2Proof.Machine

/-! ### What sections give (R483, log entry 3) -/

/-- Names for what the image gives and no register holds: the save area of a domain, TRY_LIMIT, the soft repair of a tile, the words of a
region or bearing entry, an operator event counter, a card device of bus port 1, and an entry of the strict calendar. -/
def cfgTryLimit : Nat := 0x200000008
def cfgSoft : Nat := 0x200000018
def cfgRegion : Nat := 0x200000020
def cfgBearing : Nat := 0x200000040
def cfgEvc : Nat := 0x200000060
def cfgCard : Nat := 0x200000068
def cfgCal : Nat := 0x200000070

/-- The fields of a register that the image gives (R14). -/
def almanacFields (a : Nat) : List Fld :=
  match (regBlock a).find? fun r => r.addr == a with
  | none => []
  | some r => (r.fields.filter fun f => decide (f.rst = .almanac)).map (·.fld)

/-- A register's value after boot: the image's in the fields that it gives, the table's in the others (R14). -/
def almanacWord (a v : Nat) : Word :=
  if 0x200000000 ≤ a then BitVec.ofNat 64 v
  else (almanacFields a).foldl (fun w f => f.put w (f.get (BitVec.ofNat 64 v))) (BitVec.ofNat 64 (Tab.getD resetTable a 0))

/-- What a list of sections gives, by register. -/
def cfgOf (l : List ImgSection) : Tab Word :=
  l.foldl (fun t x => x.vals.foldl (fun t v => Tab.set t (regKey v.1 v.2.1) (almanacWord v.1 v.2.2)) t) []

/-- The indices at which an image gives a register. -/
def cfgIdx (cfg : Tab Word) (a : Nat) : List Nat := (cfg.filter fun e => e.1 % 2 ^ 40 == a).map fun e => e.1 / 2 ^ 40

/-- What an image gives at a register and index. -/
def cfgAt (cfg : Tab Word) (a idx : Nat) : Nat := (Tab.getD cfg (regKey a idx) 0).toNat

/-- The extent table of an image (R290, R315). -/
def extentsOf (cfg : Tab Word) : Tab Extent :=
  (cfgIdx cfg 0x8000018).filterMap fun e =>
    let v := BitVec.ofNat 64 (cfgAt cfg 0x8000018 e)
    let o := F.MEM_EXT_OWNER.get v
    if o = extFree then none else some (e, ⟨o, F.MEM_EXT_DOM_INDEX.get v, F.MEM_EXT_STATE.get v == 1, false⟩)

/-! ### Fuse repair records (R93 to R96) -/

/-- The four fields of a repair record: index and valid bit. -/
def repairFields (r : Nat) : List (Nat × Bool) := (rangeFrom 0 4).map fun k => (bits r (8 * k + 6) (8 * k), bit r (8 * k + 7))

/-- A record is invalid (R94). -/
def repairBad (r : Nat) : Bool :=
  let f := repairFields r
  let g := fun k => f.getD k (0, false)
  f.any (fun x => x.2 && decide (65 < x.1))
    || ((g 0).2 && (g 1).2 && (g 0).1 == (g 1).1) || ((g 2).2 && (g 3).2 && (g 2).1 == (g 3).1)

/-- A soft repair names a field that the fused record has (R96). -/
def repairClash (fused soft : Nat) : Bool :=
  (rangeFrom 0 4).any fun k => bit fused (8 * k + 7) && bit soft (8 * k + 7)

/-- A field of an effective record: the soft repair fills a field that the fused record leaves not valid (R96). -/
def effByte (fused soft : Nat) : Nat := if bit fused 7 = false ∧ bit soft 7 = true then soft else fused

/-- A tile's fused and soft records, and its effective record (R95). -/
def State.fusedRec (s : State) (t : Nat) : Nat := Tab.getD s.alm.tiles t 0
def State.softRec (s : State) (t : Nat) : Nat := cfgAt s.cfg cfgSoft t
def State.effRec (s : State) (t : Nat) : Nat :=
  sumList ((rangeFrom 0 4).map fun k => 2 ^ (8 * k) * effByte (bits (s.fusedRec t) (8 * k + 7) (8 * k)) (bits (s.softRec t) (8 * k + 7) (8 * k)))

/-- The tiles with a record of their own. -/
def State.repairedTiles (s : State) : List Nat := ((s.alm.tiles.map (·.1)) ++ cfgIdx s.cfg cfgSoft).eraseDups

/-- A tile whose effective record is invalid: FUSE_RECORD_INVALID and its fault record (R95, R549). -/
def State.fuseBad (s : State) (t : Nat) : State :=
  (s.raise F.TRK_ERR_STATUS_FUSE_RECORD_INVALID).faultRecord
    { FaultRec.of 0x0305 3 with ucls := ucTile, uidx := t, detail := s.effRec t }

/-- The bit of the map that a failed tile sets, by the repair policy (R95). -/
def State.tileUnit (s : State) (t : Nat) : DevUnit := s.repairUnit (t / 64 % 32) (t % 64)

/-- TRK_FUSE_SUMMARY (R104). -/
def State.fuseSummary (s : State) : State :=
  let l := s.repairedTiles
  let good := l.filter fun t => !repairBad (s.effRec t)
  let n := fun (k : Nat) => sumList (good.map fun t => ((repairFields (s.effRec t)).drop (2 * k)).take 2 |>.countP (·.2))
  let s' := s.setFld F.TRK_FUSE_SUMMARY_TILES_REPAIRED (l.countP fun t => (repairFields (s.effRec t)).any (·.2))
  let s' := (s'.setFld F.TRK_FUSE_SUMMARY_ROWS_REPLACED (n 0)).setFld F.TRK_FUSE_SUMMARY_COLS_REPLACED (n 1)
  let s' := s'.setFld F.TRK_FUSE_SUMMARY_TILES_FAILED (l.countP fun t => repairBad (s.effRec t))
  s'.setFld F.TRK_FUSE_SUMMARY_SOFT_REPAIR_PRESENT (b2n (l.any fun t => s.softRec t != 0))

/-- The Almanac layer of the map: the image's policy, and the tiles whose effective record is invalid (R95, R578). -/
def State.almLayer (s : State) : Tab Nat :=
  let t : Tab Nat := mapRegs.map fun a => (a, cfgAt s.cfg a 0)
  (s.repairedTiles.filter fun x => repairBad (s.effRec x)).foldl (fun t x =>
    match unitBit (s.tileUnit x) with
    | none => t
    | some (a, b) => Tab.modify t a (· ||| 2 ^ b)) t

/-- The map registers as the union of the layers, at boot (R577). The first image since power-on is no change (R581). -/
def State.mapBoot (s : State) (layer : Tab Nat) : State :=
  let s := { s with mapAlm := layer }
  let first := !Tab.has s.regs (regKey 0x160 0)
  let old := s.mapImage
  let s : State := if s.arrayGone then s.goOffline else s.setFld F.TRK_STATUS_OFFLINE 0
  let s : State := mapRegs.foldl (fun (t : State) a => t.setReg a 0 (BitVec.ofNat 64 (s.mapTarget a))) s
  if first then s.writeDigest
  else if old == s.mapImage then s
  else s.writeDigest.addFld F.GLB_MAP_GEN_CHANGES 1

/-! ### Load checks (R485) -/

/-- Almanac statuses (R496). -/
def almOk : Nat := 0x00
def almBusy : Nat := 0x90
def almNoStaged : Nat := 0x91
def almSigInvalid : Nat := 0x92
def almVersionLow : Nat := 0x93
def almBelowFloor : Nat := 0x94
def almFwMismatch : Nat := 0x95
def almLoadRefused : Nat := 0x96
def almCapacity : Nat := 0x97
def almFloorBlocked : Nat := 0x98
def almNotTrial : Nat := 0x99
def almFlashError : Nat := 0x9A
def almAborted : Nat := 0x9B
def almBusyConflict : Nat := 0x9C
def almNeedsReset : Nat := 0x9D
def almStageRead : Nat := 0x9E
def almKeyRowsFull : Nat := 0x9F

/-- The kinds of image (R480). -/
def kindFw : Nat := 1
def kindCfg : Nat := 2

/-- The section classes of each kind of image (R483). -/
def cfgClasses : List Nat := [0x01, 0x02, 0x10, 0x40, 0x50, 0x58, 0x60, 0x68, 0x70, 0x78]
def fwClasses : List Nat := [0x81, 0x82, 0x83, 0x84, 0x85, 0x86]

/-- The indices that a class has (R483). -/
def classIdxOk (cls idx : Nat) : Bool :=
  if cls = 0x02 then decide (idx < 128) else if cls = 0x10 then decide (idx < 2048) else if cls = 0x50 then decide (idx < 8) else idx == 0xFFFF

/-- Section entries follow one another in order, without overlap, from a first offset to a last (R480, R481). -/
def sectionsOk : List ImgSection → Nat → Nat → Bool
  | [], lo, hi => decide (lo ≤ hi)
  | [x], lo, hi => decide (lo ≤ x.offset) && x.offset % 64 == 0 && decide (x.offset + x.length ≤ hi)
  | x :: y :: t, lo, hi =>
    decide (lo ≤ x.offset) && x.offset % 64 == 0 && decide (x.cls * 65536 + x.idx < y.cls * 65536 + y.idx)
      && sectionsOk (y :: t) (x.offset + x.length) hi

/-- Order 1: the header, the section table and the digests (R480, R481). -/
def imageFormOk (i : Image) : Bool :=
  let fw := i.kind == kindFw
  i.magic == 0x4E414D4C && (fw || i.kind == kindCfg) && i.format == 1 && i.part == 0x7720 && i.stepping == 0xB1 && i.rsvZero
    && decide (1 ≤ i.nsect) && decide (i.nsect ≤ 1024) && i.nsect == i.sections.length && decide (1 ≤ i.version)
    && decide (i.version < 2 ^ 32) && i.size % 64 == 0 && decide (i.size ≤ if fw then 20 * 2 ^ 20 else 8 * 2 ^ 20)
    && i.pkOffset % 64 == 0 && i.size == ceilDiv (i.pkOffset + 7219) 64 * 64
    && (!fw || (i.peerMin == 0 && i.rack == 0))
    && i.sections.all (fun x => x.digestOk && (if fw then fwClasses else cfgClasses).contains x.cls && classIdxOk x.cls x.idx)
    && sectionsOk i.sections (256 + 48 * i.nsect) i.pkOffset

/-- The row of a signer, programmed and unrevoked, that holds a key's digest (R482). -/
def keyRow (rows : List (Nat × Bool)) (digest : Nat) : Option Nat := rows.findIdx? fun r => r.1 == digest && !r.2

/-- A configuration image defines a domain (R414). -/
def definesDomain (cfg : Tab Word) : Bool :=
  allDomains.any fun d => (extentsOf cfg).any (fun e => e.2.owner == d) && (rangeFrom 0 6).any fun k => cfgAt cfg (0x7000020 + 8 * k) d != 0

/-- Order 2: the signature and its key row; a Wenov row signs a configuration image only in the factory slot, and one that defines no domain
(R482). The answer is the row. -/
def State.signedBy (s : State) (slot : Nat) (i : Image) : Option Nat :=
  if !i.sigOk then none
  else if i.kind = kindFw then keyRow s.alm.wenov i.keyDigest
  else match keyRow s.alm.owners i.keyDigest with
    | some r => some r
    | none => if slot = s.alm.hdr.factory ∧ definesDomain (cfgOf i.sections) = false then keyRow s.alm.wenov i.keyDigest else none

/-- A kind's security floor: its largest programmed row (R487). -/
def State.floorOf (s : State) (kind : Nat) : Nat := maxList (if kind = kindFw then s.alm.fwFloors else s.alm.cfgFloors)

/-- Order 3 for one image. -/
def State.floorOk (s : State) (i : Image) : Bool := decide (s.floorOf i.kind ≤ i.version) && decide (i.floorSet ≤ i.version)

/-! ### Order 5: the rules under which a configuration is refused at load -/

/-- A device that holds nothing but a candidate configuration, with the map that it would have. -/
def State.candidate (s : State) (cfg : Tab Word) : State :=
  let c : State := { State.reset with cfg := cfg, extents := extentsOf cfg, mapFuse := s.mapFuse, mapRun := s.mapRun, alm := s.alm }
  let c := { c with mapAlm := c.almLayer }
  mapRegs.foldl (fun t a => t.setReg a 0 (BitVec.ofNat 64 (c.mapUnion a))) c

/-- R292: DEVICE has two extents, and what the image gives on a disabled stack can be replaced. -/
def State.devOk (c : State) : Bool :=
  let off := c.extents.filter fun e => !c.stackOn (e.1 / 96)
  let need := off.countP fun e => decide (e.2.owner < 128) || e.2.owner == extDevice
  let have_ := c.extents.countP fun e => e.2.owner == extSpare && c.stackOn (e.1 / 96)
  decide (2 ≤ c.extents.countP fun e => e.2.owner == extDevice) && decide (need ≤ have_)

/-- R301: the partitions fit the memories, each swappable domain's fit the pool, and the fabric cache has a size in steps of 2 MiB up to 64. -/
def State.partsOk (c : State) : Bool :=
  let st := allDomains.filter fun d => !c.swapDom d
  let sum := fun (f : Fld) => sumList (st.map fun d => c.fld f d)
  decide (sum F.MEM_PART_SP_MIB + c.fld F.MEM_POOL_SWAP_SP_MIB ≤ 256)
    && decide (sum F.MEM_PART_ST_MIB + c.fld F.MEM_POOL_SWAP_ST_MIB + c.fld F.MEM_POOL_FC_MIB ≤ 64)
    && c.fld F.MEM_POOL_FC_MIB % 2 == 0
    && (allDomains.filter c.swapDom).all fun d =>
      decide (c.fld F.MEM_PART_SP_MIB d ≤ c.fld F.MEM_POOL_SWAP_SP_MIB) && decide (c.fld F.MEM_PART_ST_MIB d ≤ c.fld F.MEM_POOL_SWAP_ST_MIB)

/-- R230: no two valid grants have one key. -/
def State.grantsOk (c : State) : Bool :=
  let l := ((c.indices 0x3800018).filter fun g => c.flag F.FH_GRANT_VALID g).map fun g =>
    (c.fld F.FH_GRANT_SUBPORT g, c.fld F.FH_GRANT_TAGGED g, c.fld F.FH_GRANT_VID g)
  l == l.eraseDups

/-- R415: an owner digest is changed, or a domain ended, that holds an instance or an assigned cell slot. -/
def State.ownersOk (s c : State) : Bool :=
  !s.running || allDomains.all fun d =>
    let held := decide (0 < s.domInsts d) || s.hasCell d
    !held || (s.owner d == c.owner d && (decide (0 < c.nExt d) || s.nExt d == 0))

/-- R422: no two domains have one owner digest. -/
def State.digestsOk (c : State) : Bool :=
  let l := (allDomains.map c.owner).filter (· != 0)
  l == l.eraseDups

/-- The rails of R592: nominal in mV, budget in mW, current monitors and sense points. -/
def railTable : List (Nat × Nat × Nat × Nat) :=
  [(750, 350000, 4, 8), (750, 60000, 1, 4), (800, 60000, 1, 4), (750, 230000, 2, 4), (750, 40000, 1, 4), (1050, 110000, 4, 8),
   (400, 80000, 4, 4), (1800, 10000, 1, 2), (750, 50200, 1, 2), (750, 20000, 1, 2), (750, 60000, 1, 2), (1200, 28000, 1, 2),
   (750, 1300, 1, 1), (1800, 500, 1, 1)]

/-- The rail of the n-th place, when each rail has as many places as `f` says. -/
def railOf (f : Nat × Nat × Nat × Nat → Nat) : List (Nat × Nat × Nat × Nat) → Nat → Option (Nat × Nat × Nat × Nat)
  | [], _ => none
  | r :: t, n => if n < f r then some r else railOf f t (n - f r)

/-- Sensor kinds of R503, their counts, and a sensor's number in the registers. -/
def sensThermal : Nat := 0
def sensVoltage : Nat := 1
def sensCurrent : Nat := 2
def sensCount (kind : Nat) : Nat := if kind = 0 then 96 else if kind = 1 then 48 else if kind = 2 then 24 else 0
def sensIdx (kind i : Nat) : Nat := kind * 128 + i
def allSensors : List (Nat × Nat) := [0, 1, 2].flatMap fun k => (rangeFrom 0 (sensCount k)).map fun i => (k, i)

/-- The limit beyond which a FATAL threshold may not lie: of R595 for thermal and current sensors, 85 % of nominal for voltage (R596). -/
def fatalLimit (kind i : Nat) : Nat :=
  if kind = sensThermal then (if i < 80 then 125 else 105) * 16
  else if kind = sensVoltage then
    match railOf (fun r => r.2.2.2) railTable i with
    | some r => ceilDiv (r.1 * 85) 100
    | none => 0
  else
    match railOf (fun r => r.2.2.1) railTable i with
    | some r => r.2.1 * 1000 * 13 / (10 * r.1 * r.2.2.1 * 50)
    | none => 0

/-- A FATAL threshold lies beyond its limit (R505). -/
def beyondLimit (kind i v : Nat) : Bool :=
  if kind = sensVoltage then decide (v < fatalLimit kind i)
  else if kind = sensThermal then decide (signed v 16 > (fatalLimit kind i : Int))
  else decide (fatalLimit kind i < v)

/-- R505 for every sensor to which the image gives thresholds. -/
def State.limitsOk (c : State) : Bool :=
  (cfgIdx c.cfg 0x100030).all fun k =>
    !(decide (k % 128 < sensCount (k / 128)) && beyondLimit (k / 128) (k % 128) (c.fld F.SXT_SENS_THR_FATAL k))

/-- The rules of order 5 by label: what each asks of the device and of the candidate (R485; log entry 36). -/
def State.loadRules (s c : State) : List (Nat × Bool) :=
  [(96, (cfgIdx c.cfg cfgSoft).all fun t => !repairClash (s.fusedRec t) (c.softRec t)),
   (230, c.grantsOk),
   (292, c.devOk),
   (301, c.partsOk),
   (307, c.replaceOff.loadTest fun _ => 0),
   (308, allDomains.all fun d => !(c.strictDom d && c.fld F.MEM_COMMIT_SLATE_MBPS d == 0)),
   (415, s.ownersOk c),
   (418, allDomains.all fun d => !(c.strictDom d && c.hasCell d)),
   (422, c.digestsOk),
   (505, c.limitsOk),
   (538, allDomains.all fun d => decide (c.fld F.PMC_STRICT_SHARE_SHARE_W d + 630 ≤ max 630 (c.fld F.PMC_LIMIT_PKG_LIMIT_W)))]

/-- The label of the first rule that a candidate fails. -/
def State.refusedBy (s : State) (cfg : Tab Word) : Option Nat := ((s.loadRules (s.candidate cfg)).find? fun r => !r.2).map (·.1)

/-- A slot of the flash. -/
def State.flashSlot (s : State) (k : Nat) : FlashSlot := (Tab.get? s.alm.slots k).getD ⟨none, none, false, 0, 0⟩

/-- The load checks of a slot's images: the status, and the label of a failed rule (R485). -/
def State.checkImages (s : State) (slot : Nat) (f : FlashSlot) : Nat × Nat :=
  match f.fw, f.cfg with
  | some fw, some cfg =>
    if !(imageFormOk fw && imageFormOk cfg && fw.kind == kindFw && cfg.kind == kindCfg) then (almSigInvalid, 0)
    else if (s.signedBy slot fw).isNone || (s.signedBy slot cfg).isNone then (almSigInvalid, 0)
    else if !(s.floorOk fw && s.floorOk cfg) then (almBelowFloor, 0)
    else if fw.version < cfg.peerMin then (almFwMismatch, 0)
    else match s.refusedBy (cfgOf cfg.sections) with
      | some r => (almLoadRefused, r)
      | none => (almOk, 0)
  | _, _ => (almSigInvalid, 0)

/-- The load checks of a slot of the flash. -/
def State.slotChecks (s : State) (slot : Nat) : Nat × Nat := s.checkImages slot (s.flashSlot slot)

/-- A slot's checks noted for ALM_SLOT_INFO (R500). -/
def State.noteSlot (s : State) (slot : Nat) (ok : Bool) : State :=
  let f := s.flashSlot slot
  let row := fun (i : Option Image) => match i with
    | some i => (s.signedBy slot i).getD 0
    | none => 0
  { s with alm := { s.alm with slots := Tab.set s.alm.slots slot { f with ok := ok, fwRow := row f.fw, cfgRow := row f.cfg } } }

/-! ### Boot headers (R488, R489) -/

/-- No slot. -/
def noSlot : Nat := 7

/-- A header that names CUR and FACTORY, and every slot once (R488). -/
def hdrOk (h : BootHdr) : Bool :=
  let named := [h.cur, h.prev, h.staged, h.factory].filter (· != noSlot)
  decide (h.cur < 4) && decide (h.factory < 4) && named.all (decide <| · < 4) && named == named.eraseDups

/-- The valid header of an area. -/
def validHdr (h : Option BootHdr) : Option BootHdr := h.bind fun x => if hdrOk x then some x else none

/-- The header in use, and whether it is area B's (R488). -/
def pickHdr (a b : Option BootHdr) : Option (BootHdr × Bool) :=
  match validHdr a, validHdr b with
  | none, none => none
  | some x, none => some (x, false)
  | none, some y => some (y, true)
  | some x, some y =>
    if wrapInt ((y.seq : Int) - x.seq) 32 ≠ 0 ∧ wrapInt ((y.seq : Int) - x.seq) 32 < 2 ^ 31 then some (y, true) else some (x, false)

/-- The fields of ALM_STATUS that show the header in use (R500). -/
def State.showHdr (s : State) : State :=
  let h := s.alm.hdr
  let s := (s.setFld F.ALM_STATUS_TRIAL (b2n h.trial)).setFld F.ALM_STATUS_TRIES h.tries
  let s := (s.setFld F.ALM_STATUS_CUR_SLOT h.cur).setFld F.ALM_STATUS_PREV_SLOT h.prev
  let s := (s.setFld F.ALM_STATUS_STAGED_SLOT h.staged).setFld F.ALM_STATUS_FACTORY_SLOT h.factory
  (s.setFld F.ALM_STATUS_HDR_SEQ h.seq).setFld F.ALM_STATUS_STAGED_VALID (b2n h.stagedValid)

/-- A change of role or state: the other area is written, with SEQ one above (R489). -/
def State.writeHdr (s : State) (h : BootHdr) : State :=
  let h := { h with seq := wrap (s.alm.hdr.seq + 1) 32 }
  let a := if s.alm.useB then { s.alm with hdrA := some h } else { s.alm with hdrB := some h }
  { s with alm := { a with hdr := h, useB := !s.alm.useB } }.showHdr

/-- TRY_LIMIT of a slot's configuration, within the header's range (R490). -/
def State.tryLimitOf (s : State) (slot : Nat) : Nat :=
  match (s.flashSlot slot).cfg with
  | none => 1
  | some c => max 1 (min 7 (cfgAt (cfgOf c.sections) cfgTryLimit 0))

/-- The activation row of R490. -/
def State.activateRow (s : State) : State :=
  let h := s.alm.hdr
  s.writeHdr { h with
    cur := h.staged, prev := h.cur, staged := h.prev
    trial := true, tries := 0, tryLimit := s.tryLimitOf h.staged, stagedValid := false }

/-- The rollback row of R490. -/
def State.rollbackRow (s : State) : State :=
  let h := s.alm.hdr
  s.writeHdr { h with cur := h.prev, prev := h.cur, trial := false }

/-- The trial-exhaustion row of R490. -/
def State.exhaustRow (s : State) : State :=
  let h := s.alm.hdr
  let keep := decide (h.staged < 4) && (s.slotChecks h.staged).1 == almOk
  s.writeHdr { h with
    cur := h.prev, prev := if keep then h.staged else noSlot, staged := h.cur, trial := false, rejected := true }

/-! ### The fuses (R487, R500) -/

/-- The registers that show the fuses' rows. -/
def State.showFuses (s : State) : State :=
  let rows := fun (l : List (Nat × Bool)) => sumList ((l.take 4).zipIdx.map fun p => if p.1.2 then 0 else 2 ^ p.2)
  let s := (s.setFld F.ALM_FLOOR_FW_FLOOR (s.floorOf kindFw)).setFld F.ALM_FLOOR_CFG_FLOOR (s.floorOf kindCfg)
  let s := (s.setFld F.ALM_FUSE_ROWS_FW_ROWS_USED s.alm.fwFloors.length).setFld F.ALM_FUSE_ROWS_CFG_ROWS_USED s.alm.cfgFloors.length
  (s.setFld F.ALM_FUSE_ROWS_WENOV_ROWS (rows s.alm.wenov)).setFld F.ALM_FUSE_ROWS_OWNER_ROWS (rows s.alm.owners)

/-- A floor raised to an image's FLOOR_SET, in the next free row; with none free it stays (R487). -/
def State.raiseFloor (s : State) (i : Image) : State :=
  if i.floorSet ≤ s.floorOf i.kind then s
  else if i.kind = kindFw then
    if s.alm.fwFloors.length < 32 then { s with alm := { s.alm with fwFloors := s.alm.fwFloors ++ [i.floorSet] } }
    else s.raise F.ALM_ERR_STATUS_FLOOR_EXHAUSTED
  else if s.alm.cfgFloors.length < 32 then { s with alm := { s.alm with cfgFloors := s.alm.cfgFloors ++ [i.floorSet] } }
  else s.raise F.ALM_ERR_STATUS_FLOOR_EXHAUSTED

/-- Every row below the one that signed a confirmed image is revoked (R482). -/
def revokeBelow (rows : List (Nat × Bool)) (k : Nat) : List (Nat × Bool) := rows.zipIdx.map fun p => if p.2 < k then (p.1.1, true) else p.1

/-- The key rows that a confirmed image revokes, in the signer that signed it. -/
def State.revokeFor (s : State) (i : Image) : State :=
  match (if i.kind = kindFw then none else keyRow s.alm.owners i.keyDigest), keyRow s.alm.wenov i.keyDigest with
  | some k, _ => { s with alm := { s.alm with owners := revokeBelow s.alm.owners k } }
  | none, some k => { s with alm := { s.alm with wenov := revokeBelow s.alm.wenov k } }
  | none, none => s

/-- The images of a slot. -/
def FlashSlot.images (f : FlashSlot) : List Image := f.fw.toList ++ f.cfg.toList

end Sys2Proof.Machine
end

