-- ==== Sys2Proof/Machine/Boot.lean ====
section
/-! DEFINITION. Power-on and power-down (R597 to R600), clock losses (R591), boot (R491 to R493) and the end of all service (R28, R531,
R504). -/

namespace Sys2Proof.Machine

/-! ### What stays (R7, R14, R551) -/

/-- The registers of the Meridian. -/
def isMer (a : Nat) : Bool := decide (0x6000000 ≤ a) && decide (a < 0x6200000)

/-- The device with its sections without power: the always-on domain, the meters, the memories' contents and the counters stay, and with
`iod` the Meridian too, whose die keeps its power. The registers of every other section read their reset values from then on (DESIGN
CHOICE, log entry 64). -/
def State.bare (s : State) (iod : Bool) : State :=
  let keep := fun e : Nat × Word => isAon (e.1 % 2 ^ 40) || (iod && isMer (e.1 % 2 ^ 40))
  { State.reset with
    pending := s.pending, now := s.now, tai := s.tai, freeCtr := s.freeCtr, regs := s.regs.filter keep, cfg := s.cfg.filter keep
    mem := s.mem, wrote := s.wrote, hbmUnder := s.hbmUnder, outs := s.outs, readData := s.readData, log := s.log, merges := s.merges
    mapFuse := s.mapFuse, mapAlm := s.mapAlm, mapRun := s.mapRun
    helm := { HelmUnit.reset with
      arrCycles := s.helm.arrCycles, vecCycles := s.helm.vecCycles, radioCycles := s.helm.radioCycles }
    evcs := s.evcs, hcounts := s.hcounts, sessions := s.sessions, hbmKeys := s.hbmKeys
    mer := if iod then s.mer else State.reset.mer
    sxt := s.sxt, alm := s.alm, pow := s.pow }

/-- All service ends, and the device waits for a device reset (R28, R506, R531, R598). -/
def State.endService (s : State) (iod : Bool) : State :=
  let t := s.bare iod
  { t with
    pow := { t.pow with life := .ended, sleeps := [], zeroAt := none, limitWas := none }, alm := { t.alm with upd := none }
    sxt := { t.sxt with maint := [], tokens := if t.alm.pldm.isSome then [0] else [] } }

/-- The main rails off, and FATAL# low or not (R598, R599). -/
def State.railsOff (s : State) (fatal : Bool) : State :=
  { s with pow := { s.pow with enables := 0, fatalPin := s.pow.fatalPin || fatal } }

/-- A rail failure, with the enable that it names (R598). -/
def State.railFail (s : State) (k : Nat) : State :=
  let s := ((s.endService false).railsOff true).logEvent 0x0013 3 (toLe 1 k)
  { s.raise F.SXT_ALERT_SENSOR_FATAL with sxt := { s.sxt with fatal := true } }

/-! ### Power-on and loss of power (R597, R599) -/

/-- The registers that only the fuses give (R576). -/
def isFuseReg (a : Nat) : Bool := a == 0x0 || a == 0x8

/-- The Almanac of a part that power first reaches. -/
def partsAlmanac (p : DevParts) : AlmUnit :=
  { AlmUnit.reset with
    fitted := true, flashOk := p.flashOk, fwFloors := p.fwFloors, cfgFloors := p.cfgFloors, wenov := p.wenov, owners := p.owners
    tiles := p.tiles.foldl (fun t e => Tab.set t e.1 e.2) [], hdrA := p.hdrA, hdrB := p.hdrB
    slots := p.slots.zipIdx.map fun e => (e.2, ⟨e.1.1, e.1.2, false, 0, 0⟩)
    wrapped := p.wrapped.foldl (fun t e => Tab.set t e.1 (e.2.1, e.2.2)) [] }

/-- The entries of the flash mirror (R508). -/
def mirrorSize : Nat := 245760

/-- A part fitted: its fuses and its flash (log entry 3). -/
def State.fit (s : State) (p : DevParts) : State :=
  let mapFuse : Tab Nat := (mapRegs.zip p.mapFuse)
  let mirror := p.log.foldl (fun t e => Tab.set t (e.seq % mirrorSize) e) ([] : Tab LogEntry)
  let s := { s with alm := partsAlmanac p, mapFuse := mapFuse, log := { s.log with mirror := mirror } }
  (s.setFld F.GLB_ID_VENDOR p.vendor).setFld F.GLB_SERIAL_SERIAL p.serial

/-- POWER_ON: PWROK_AO rises, and 100 µs later the always-on domain leaves power-on reset at t0 (R597). -/
def State.powerOn (s : State) (p : DevParts) : State :=
  if s.pow.life ≠ .off then s
  else
    let s := if s.alm.fitted then s else s.fit p
    { s with now := 0, pow := { State.reset.pow with life := .boot } }

def execPowerOn (parts : DevParts) (s : State) : Host.Outcome State Fault Refusal := .next (s.powerOn parts)

/-- Every rail gone: the flash, the fuses and what the device has sent stay (R7, R599). -/
def State.powerOff (s : State) : State :=
  if s.pow.life = .off then s
  else
    let a := s.alm
    { State.reset with
      pending := s.pending, freeCtr := s.freeCtr, outs := s.outs, readData := s.readData
      regs := s.regs.filter fun e => isFuseReg (e.1 % 2 ^ 40)
      mapFuse := s.mapFuse
      log := { State.reset.log with mirror := s.log.mirror }
      alm := { AlmUnit.reset with
        fitted := a.fitted, flashOk := a.flashOk, fwFloors := a.fwFloors, cfgFloors := a.cfgFloors, wenov := a.wenov, owners := a.owners
        tiles := a.tiles, hdrA := a.hdrA, hdrB := a.hdrB, slots := a.slots, wrapped := a.wrapped } }

/-- PLANNED_REMOVAL: PWROK_AO falls. -/
def execPlannedRemoval (s : State) : Host.Outcome State Fault Refusal := .next s.powerOff

/-- SUPPLY_LOSS: an always-on rail or the 25 MHz reference is gone without warning. -/
def execSupplyLoss (s : State) : Host.Outcome State Fault Refusal := .next s.powerOff

/-- PWROK_MAIN_FALL: PWROK_MAIN falls while all three enables are high (R598). -/
def execPwrokMainFall (s : State) : Host.Outcome State Fault Refusal := .next (if s.pow.enables = 7 then s.railFail 3 else s)

/-- D2D_FAULT (R28), once both dies are powered and the link's clocks run: the record, whose ACTION is the model's choice (DESIGN CHOICE, log
entry 65), and the end of service with the rails up. -/
def State.d2dFault (s : State) : State :=
  if s.pow.life = .running ∨ s.pow.life = .powered then
    (s.faultRecord { FaultRec.of 0x0502 7 with ucls := ucD2d }).endService true
  else s

def execD2dFault (s : State) : Host.Outcome State Fault Refusal := .next s.d2dFault

/-! ### Clock inputs (R591) -/

/-- The two ports of an Ethernet reference go down, with no lane shed; `rx` are the frames in reception by sub-port. -/
def State.ethClockLost (s : State) (k : Nat) (rx : List (Nat × EthFrame × Nat)) : State :=
  [2 * k, 2 * k + 1].foldl (fun s p =>
    let s := (rangeFrom 0 4).foldl (fun s l => if s.laneLock p l then (s.setLock p l false).countLoss p l else s) s
    (rangeFrom (4 * p) 4).foldl (fun s sp => s.subDown sp ((rx.find? fun r => r.1 == sp).map (·.2))) s) s

/-- The two ports of a Rhumb reference go down (R350). -/
def State.rhbClockLost (s : State) (k : Nat) : State :=
  [2 * k, 2 * k + 1].foldl (fun s p => (s.portDown p).setFld F.FAB_PORT_STATUS_LANE_LOCK 0 p) s

/-- The 10 MHz input lost while it is the frequency source: SOURCE_LOST, and the reference again (R470). -/
def State.ref10Lost (s : State) : State :=
  let was := s.mer.freqSrc == 32
  let s := { s with mer := { s.mer with ref10 := false } }.freqSelect
  if was then (s.raise F.MER_ERR_STATUS_SOURCE_LOST).merCount 2 else s

/-- CLOCK_LOSS: kind 0 the 25 MHz reference, 1 an Ethernet pair's, 2 a Rhumb pair's, 3 a PCIe link's, 4 the 10 MHz input. -/
def State.clockGone (s : State) (kind idx : Nat) (rx : List (Nat × EthFrame × Nat)) : State :=
  if kind = 0 then s.powerOff
  else if s.pow.life = .off ∨ s.clockLost kind idx = true then s
  else
    let s := { s with pow := { s.pow with lost := (kind * 16 + idx) :: s.pow.lost } }
    match kind with
    | 1 => s.ethClockLost idx rx
    | 2 => s.rhbClockLost idx
    | 3 => s.pcieLinkReset idx 0 0
    | _ => s.ref10Lost

def execClockLoss (kind idx : Nat) (rx : List (Nat × EthFrame × Nat)) (s : State) : Host.Outcome State Fault Refusal :=
  let k := min kind 4
  .next (s.clockGone k (idx % ([1, 4, 2, 2, 1].getD k 1)) rx)

/-- CLOCK_RETURN: the ports may train again; a PCIe link trains to a speed and a width. -/
def State.clockBack (s : State) (kind idx speed width : Nat) : State :=
  if s.clockLost kind idx then
    let s := { s with pow := { s.pow with lost := s.pow.lost.erase (kind * 16 + idx) } }
    if kind = 3 then (if s.fld F.GLB_STATUS_BOOT_STATE ≥ 3 then s.linkState idx (width != 0) speed width else s)
    else if kind = 4 then { s with mer := { s.mer with ref10 := true } }.freqSelect
    else s
  else s

def execClockReturn (kind idx speed width : Nat) (s : State) : Host.Outcome State Fault Refusal :=
  let k := min kind 4
  .next (s.clockBack k (idx % ([1, 4, 2, 2, 1].getD k 1)) speed width)

/-! ### The boot ROM (R491, R492) -/

/-- The Sextant's cores have work (R501). -/
def State.wakeCores (s : State) : State :=
  let s := { s with sxt := { s.sxt with workAt := s.now } }
  if 2 ≤ s.fld F.SXT_STATUS_CORE_STATE then s else s.setFld F.SXT_STATUS_CORE_STATE 1

/-- BOOT_STATE, in both registers (R500, R576). -/
def State.setBoot (s : State) (n : Nat) : State := (s.setFld F.GLB_STATUS_BOOT_STATE n).setFld F.ALM_STATUS_BOOT_STATE n

/-- The versions in force (R484, R500, R576). -/
def State.setVersions (s : State) (fw cfg : Nat) : State :=
  let s := (s.setFld F.GLB_VERSION_FW_VERSION fw).setFld F.GLB_VERSION_CFG_VERSION cfg
  (s.setFld F.ALM_VERSION_FW_VERSION fw).setFld F.ALM_VERSION_CFG_VERSION cfg

/-- SEQ resumes above the mirror's largest (R508). -/
def State.logResume (s : State) : State :=
  if s.log.mirror.isEmpty then s
  else
    let top := maxList (s.log.mirror.map fun e => e.2.seq)
    let s := s.setFld F.SXT_LOG_MIRRORED_SEQ top
    s.setFld F.SXT_LOG_HEAD_NEXT_SEQ (max (s.fld F.SXT_LOG_HEAD_NEXT_SEQ) (top + 1))

/-- The records of the tiles that fail, and the summary (R95). -/
def State.fuseRecords (s : State) : State :=
  let bad := s.repairedTiles.filter fun t => repairBad (s.effRec t)
  let s := bad.foldl State.fuseBad s.fuseSummary
  s.logOpen (toLe 8 (s.reg F.TRK_FUSE_SUMMARY_TILES_FAILED.reg).toNat)

/-- A register of the always-on domain that boot leaves to the map (R577). -/
def isMapReg (a : Nat) : Bool := mapRegs.contains a || (decide (0x160 ≤ a) && decide (a ≤ 0x178))

/-- A register with the fields that the image gives at the image's values, and its other fields as they are (R14). -/
def State.loadWord (s : State) (k : Nat) (v : Word) : State :=
  let a := k % 2 ^ 40
  let i := k / 2 ^ 40
  s.setReg a i ((almanacFields a).foldl (fun w f => f.put w (f.get v)) (s.reg a i))

/-- The image's values in the always-on registers, at the first boot of an image since power-on (R14, log entry 63). -/
def State.loadAon (s : State) : State :=
  if s.pow.aonLoaded then s
  else
    let given := s.cfg.filter fun e => isAon (e.1 % 2 ^ 40) && !isMapReg (e.1 % 2 ^ 40)
    let s := given.foldl (fun (s : State) e => s.loadWord e.1 e.2) s
    { s with pow := { s.pow with aonLoaded := true } }

/-- A trial boot counted, or a trial that is exhausted (R490, R492). -/
def State.trialStep (s : State) : State :=
  let h := s.alm.hdr
  if !h.trial then s
  else if h.tryLimit ≤ h.tries then s.exhaustRow.raise F.ALM_ERR_STATUS_TRIAL_EXHAUSTED
  else s.writeHdr { h with tries := h.tries + 1 }

/-- The slots of a header in the order of R492, each with its role. -/
def bootOrder (h : BootHdr) : List (Nat × Nat) := ([(h.cur, 0), (h.prev, 1), (h.factory, 2)]).filter fun p => p.1 != noSlot

/-- The first slot that passes its load checks (R492). -/
def State.selectFrom (s : State) : List (Nat × Nat) → State × Option (Nat × Nat)
  | [] => (s, none)
  | p :: t =>
    if (s.slotChecks p.1).1 = almOk then (s.noteSlot p.1 true, some p)
    else
      let s := (s.noteSlot p.1 false).raise F.ALM_ERR_STATUS_SLOT_FALLBACK
      ({ s with alm := { s.alm with fallback := some (s.alm.fallback.getD p.1) } }).selectFrom t

/-- PLL_RUN's bits (R530, R543). -/
def pllNoc : Nat := 0
def pllIod : Nat := 1
def pllArr : Nat := 2
def pllRad : Nat := 3
def pllSxt : Nat := 4
def pllPort : Nat := 5
def State.setPll (s : State) (p : Nat) (on : Bool) : State := s.setFld F.PMC_STATUS_PLL_RUN (putBit (s.fld F.PMC_STATUS_PLL_RUN) p on)

/-- The device reset in progress is complete (R566). -/
def State.resetFinish (s : State) : State :=
  if s.pow.t0 = 0 then s
  else
    let s := (s.setFld F.SXT_RESET_STATUS_LAST_ACTION 2).setFld F.SXT_RESET_STATUS_LAST_MS (min 4095 ((s.now - s.pow.t0) / msec))
    if s.flag F.SXT_RESET_CTRL_BUSY then (s.setFld F.SXT_RESET_CTRL_BUSY 0).setFld F.SXT_RESET_CTRL_STATUS 0 else s

/-- Recovery mode (R493): the always-on domain, the IOD PLL and the PCIe link. -/
def State.recover (s : State) (speed width : Nat) : State :=
  let s := (s.mapBoot { s with cfg := [] }.almLayer).setVersions 0 0
  let s := ((s.setBoot bootRecovery).setPll pllIod true).setPll pllPort true
  let s := { s with alm := { s.alm with booted := none }, pow := { s.pow with life := .recovery, enables := 1, railAt := s.now } }
  (s.linkState 0 (width != 0) speed width).resetFinish

/-- A slot selected: its image in force in the always-on domain, the map, the versions, and the first enable (R491 step 2, R597 step 4). -/
def State.bootSlot (s : State) (slot role : Nat) : State :=
  match (s.flashSlot slot).fw, (s.flashSlot slot).cfg with
  | some fw, some cfg =>
    let s := { s with cfg := cfgOf cfg.sections, alm := { s.alm with booted := some slot, fallback := s.alm.fallback.filter (· != slot) } }.loadAon
    let s := (s.setFld F.ALM_STATUS_BOOTED_ROLE role).setVersions fw.version cfg.version
    let s := (s.mapBoot s.almLayer).fuseRecords
    { s.setBoot 2 with pow := { s.pow with life := .rail 0, enables := 1, railAt := s.now } }
  | _, _ => s

/-- The boot ROM: the fuses, the headers and the slot (R491 step 2). -/
def State.bootRom (s : State) (speed width : Nat) : State :=
  let s := (s.wakeCores.logResume.setBoot 1).showFuses
  let a := s.alm
  let ok := a.flashOk && (validHdr a.hdrA).isSome && (validHdr a.hdrB).isSome
  let s := if ok then s else s.raise F.ALM_ERR_STATUS_HDR_INVALID
  match (if a.flashOk then pickHdr a.hdrA a.hdrB else none) with
  | none => s.recover speed width
  | some (h, b) =>
    let s := { s with alm := { s.alm with hdr := h, useB := b } }.showHdr.trialStep
    match s.selectFrom (bootOrder s.alm.hdr) with
    | (s, none) => s.recover speed width
    | (s, some (slot, role)) => s.bootSlot slot role

/-! ### Rails (R597) -/

/-- RAIL_SAMPLE: 10 ms after an enable, PWROK_MAIN is sampled. The next enable rises, or after the last one the PLLs start. -/
def State.railSample (s : State) (ok : Bool) : State :=
  match s.pow.life with
  | .rail k =>
    let s := s.advanceTo (s.pow.railAt + 10 * msec)
    if !ok then s.railFail k
    else if k < 2 then
      { s with pow := { s.pow with life := .rail (k + 1), enables := s.pow.enables + 2 ^ (k + 1), railAt := s.now } }
    else
      let s := ((s.setPll pllNoc true).setPll pllIod true).setPll pllPort true
      { s.setBoot 3 with pow := { s.pow with life := .powered } }
  | _ => s

def execRailSample (ok : Bool) (s : State) : Host.Outcome State Fault Refusal := .next (s.railSample ok)

/-! ### Sections, links and stacks (R491 steps 3 to 5) -/

/-- The domains that the image defines (R414). -/
def State.defineDoms (s : State) : State :=
  allDomains.foldl (fun s d =>
    s.setFld F.ISO_DOM_STATUS_STATE (if s.nExt d ≠ 0 ∧ s.owner d ≠ 0 then domDefined else domUndefined) d) s

/-- A wrapped key restored when its domain's owner digest is unchanged, and otherwise erased (R427). -/
def State.restoreKey (s : State) (e : Nat × (Nat × Nat)) : State :=
  if s.fld F.ISO_DOM_STATUS_STATE e.1 = domDefined ∧ s.owner e.1 = e.2.2 then
    let s := { s with hbmKeys := Tab.set s.hbmKeys e.1 e.2.1 }.setActive e.1 true
    (s.setFld F.ISO_DOM_STATUS_STATE domProvisioned e.1).setFld F.ISO_DOM_STATUS_KEY_PERSISTED 1 e.1
  else { s with alm := { s.alm with wrapped := Tab.del s.alm.wrapped e.1 } }.raise F.ISO_ERR_STATUS_PERSIST_DISCARDED

/-- The image's calendar (R191). -/
def State.imageCal (s : State) : List CalEntry :=
  sortCal ((cfgIdx s.cfg cfgCal).filterMap fun k =>
    let v := BitVec.ofNat 64 (cfgAt s.cfg cfgCal k)
    if F.HLM_CAL_ENTRY_VALID.get v = 1 then
      some ⟨F.HLM_CAL_ENTRY_START.get v, F.HLM_CAL_ENTRY_LENGTH.get v, F.HLM_CAL_ENTRY_DOMAIN.get v⟩
    else none)

/-- The image's region and bearing entries (R318, R321). -/
def imageEntries (cfg : Tab Word) (a : Nat) : Tab (List Nat) :=
  (cfgIdx cfg a).map fun k => (k, (rangeFrom 0 4).map fun w => cfgAt cfg (a + 8 * w) k)

/-- The operator counters that the image lists (R523). -/
def imageCounters (cfg : Tab Word) (now : Nat) : Tab Evc :=
  (cfgIdx cfg cfgEvc).filterMap fun k =>
    let v := cfgAt cfg cfgEvc k
    if bit v 12 then some (k, Evc.start (v % 4096) none now) else none

/-- The cell slots that the image assigns (R204). -/
def State.imageCells (s : State) : Tab Cell :=
  ((cfgIdx s.cfg F.RAD_CELL_ASSIGN_ASSIGNED.reg).filter fun c => s.flag F.RAD_CELL_ASSIGN_ASSIGNED c).map fun c => (c, Cell.blank .assigned)

/-- What the image gives the tables that no register holds. -/
def State.loadTables (s : State) : State :=
  let f : FabUnit := { s.fab with regions := imageEntries s.cfg cfgRegion, bearings := imageEntries s.cfg cfgBearing }
  { s with fab := f, evcs := imageCounters s.cfg s.now, cells := s.imageCells }

/-- The strict domains' shares and duties as the image and the limit give them (R537, R538). -/
def State.loadShares (s : State) : State :=
  s.strictDoms.foldl (fun s d => s.setShare d (s.shareAt d)) s

/-- The units that sleep and that the power-up leaves ON: the Helm cores, the DMA engines and the fabric engines (R532). -/
def State.sleepsUp (s : State) : State :=
  let on := (s.coresOn 0 32).map (sleepKey 2) ++ (s.unitsOn ucDma).map (sleepKey 3) ++ (s.unitsOn ucFab).map fun e => sleepKey 3 (16 + e)
  { s with pow := { s.pow with sleeps := on.foldl (fun t k => Tab.set t k ⟨0, s.now, false⟩) [], groups := [] } }

/-- The stacks that did not train are lost (R311). -/
def State.untrained (s : State) (trained : Nat) : State :=
  (rangeFrom 0 8).foldl (fun s k => if bit trained k then s else s.stackLoss k) s

/-- The place of the device key among the keys of HBM: DEVICE extents use it (R294). -/
def deviceKey : Nat := 128

/-- Memory, domains and keys after power-up (R491 step 4): the device key is generated at each boot (R294). -/
def State.bootMemory (s : State) (trained : Nat) : State :=
  let s := { s with extents := extentsOf s.cfg }.replaceOff
  let s := s.defineDoms
  let s := s.alm.wrapped.foldl State.restoreKey s
  let k := s.fresh 512
  { k.2 with hbmKeys := Tab.set k.2.hbmKeys deviceKey k.1 }.untrained trained

/-- The links of a boot: link 1 where the slot is bifurcated (R353). -/
def State.bootLinks (s : State) (speed0 width0 speed1 width1 : Nat) : State :=
  let s := s.linkState 0 (width0 != 0) speed0 width0
  if s.flag F.PCI_CAP_BIFURCATE then s.linkState 1 (width1 != 0) speed1 width1 else s

/-- The rest of the boot, to RUNNING (R491 steps 3 to 5): the stacks of a mask have trained, and the links have speeds and widths. QUANTUM_US is
the image's number as it stands (DESIGN CHOICE, log entry 66). -/
def State.bootRest (s : State) (trained speed0 width0 speed1 width1 : Nat) : State :=
  let s := s.loadTables.loadShares
  let s := (s.useCal s.imageCal).setQuantum (s.fld F.HLM_QUANTUM_QUANTUM_US)
  let s := (s.bootLinks speed0 width0 speed1 width1).bootMemory trained
  let s := s.freqSelect.refreshRadio
  let s := s.sleepsUp.noteAdmit s.admitNow
  let s := if s.fld F.PMC_SLEEP_CTRL_ARR_PLL_OFF_US = 0 then s.setPll pllArr true else s
  { s.setBoot bootRunning with pow := { s.pow with life := .running } }.resetFinish

/-- DEVICE_BOOT: from power-on reset to the first enable, or to recovery; and once every rail is up, to RUNNING (R491). -/
def State.deviceBoot (s : State) (trained speed0 width0 speed1 width1 : Nat) : State :=
  match s.pow.life with
  | .boot => s.bootRom speed0 width0
  | .powered => s.bootRest trained speed0 width0 speed1 width1
  | _ => s

def execDeviceBoot (trained speed0 width0 speed1 width1 : Nat) (s : State) : Host.Outcome State Fault Refusal :=
  .next (s.deviceBoot trained speed0 width0 speed1 width1)

/-! ### Device resets (R506, R551, R554) -/

/-- Every byte of HBM is unspecified, and the other memories are zero (R551, log entry 2). -/
def State.memReset (s : State) : State :=
  { s with
    mem := [], wrote := [], poison := [], latent := [], rewrites := [], hbmUnder := [] }.openBlocks s.wrote

/-- The log after a device reset: a degraded log's SRAM is tested again and serves (R510). -/
def LogUnit.afterReset (l : LogUnit) : LogUnit :=
  if l.degraded then { l with sram := [], waiting := 0, degraded := false, regRing := [], flashDead := false, fetch := none }
  else { l with fetch := none }

/-- The Sextant after a device reset: its cores start again and nothing that they held stays (R502, R513, R519, R526). -/
def State.sxtReset (s : State) : State :=
  let s := { s with
    log := s.log.afterReset, merges := [], sessions := [], hbmKeys := [], evcs := []
    sxt := { s.sxt with disagreeAt := none, tokens := [], fatal := false, heldReset := false, maint := [], snaps := [] }
    alm := { s.alm with upd := none, pldm := none } }
  let s := (s.setFld F.SXT_STATUS_CORE_STATE 0).setFld F.SXT_STATUS_LOG_DEGRADED 0
  let s := (s.setFld F.SXT_STATUS_NVM_LOST 0).setFld F.SXT_STATUS_PLDM_ACTIVE 0
  let s := (s.setFld F.ALM_STATUS_UPDATE_ACTIVE 0).setReg F.ALM_UPDATE_PHASE.reg 0 0
  s.setFld F.SXT_RESET_STATUS_HELD 0

/-- A device reset: the rails fall, and the boot begins again at t0 (R491, R554, R599). -/
def State.devReset (s : State) : State :=
  let s := ((s.bare false).memReset.sxtReset).addFld F.SXT_RESET_STATUS_DEVICE_RESETS 1
  let s := { s with tai := 0, pow := { s.pow with
    life := .boot, t0 := s.now, enables := 0, fatalPin := false, sleeps := [], zeroAt := none } }
  s.setBoot 0

/-- A device reset requested: held while a sensor is at CRIT or above (R506). The answer says whether it is held. -/
def State.devResetAsked (s : State) : State × Bool :=
  if 2 ≤ s.fld F.SXT_STATUS_LEVEL ∨ s.sxt.heldReset = true then
    ({ s with sxt := { s.sxt with heldReset := true } }.setFld F.SXT_RESET_STATUS_HELD 1, true)
  else (s.devReset, false)

/-- HELD_RESET_START: 10 s after every sensor has fallen below CRIT (R506). -/
def State.heldStart (s : State) : State :=
  match s.sxt.heldReset, s.sxt.belowAt with
  | true, some t => (s.advanceTo (t + 10000 * msec)).devReset
  | _, _ => s

def execHeldResetStart (s : State) : Host.Outcome State Fault Refusal := .next s.heldStart

/-- DEVICE_RESET: SXT_RESET_CTRL with ACTION 2 and GO (R554, R566), ignored while a device reset runs; a compute reset gives way to it
(R556). -/
def State.deviceResetGo (s : State) : State :=
  let booting := match s.pow.life with
    | .boot | .rail _ | .powered => true
    | _ => false
  if s.pow.life = .off ∨ (booting && s.flag F.SXT_RESET_CTRL_BUSY) = true then s
  else
    let s := (s.setFld F.SXT_RESET_CTRL_ACTION 2).setFld F.SXT_RESET_CTRL_BUSY 1
    let p := s.devResetAsked
    if p.2 then (p.1.setFld F.SXT_RESET_CTRL_BUSY 0).setFld F.SXT_RESET_CTRL_STATUS 0xB0 else p.1

def execDeviceReset (s : State) : Host.Outcome State Fault Refusal := .next s.deviceResetGo

end Sys2Proof.Machine
end

