-- ==== Sys2Proof/Machine/Update.lean ====
section
/-! DEFINITION. The maintenance lock (R519, R520), the Almanac commands (R495, R496) and live updates (R497 to R499). -/

namespace Sys2Proof.Machine

/-! ### The maintenance lock -/

/-- The tokens in the order of R519. -/
def tokUpdate : Nat := 0
def tokTile : Nat := 1
def tokEngine : Nat := 2
def tokHbm : Nat := 3
def tokSerdes : Nat := 4
def tokScrub : Nat := 5
def tokFuse : Nat := 6

/-- The tokens with which a token conflicts. -/
def tokConflicts (t : Nat) : List Nat :=
  ([[1, 2, 3, 4, 6], [0, 2], [0, 1], [0, 5], [0], [3], [0]] : List (List Nat)).getD t []

/-- A held token that refuses a request, those that the requester itself holds apart. -/
def State.lockedBy (s : State) (t : Nat) (own : List Nat) : Option Nat :=
  s.sxt.tokens.find? fun h => (h == t || (tokConflicts t).contains h) && !own.contains h

/-- A refused request logged (R511, R519). -/
def State.lockRefused (s : State) (t held : Nat) : State := (s.logEvent 0x0040 0 (toLe 1 t ++ toLe 1 held)).count 0xF8F none 1

/-- A token taken and released. -/
def State.takeToken (s : State) (t : Nat) : State := { s with sxt := { s.sxt with tokens := s.sxt.tokens ++ [t] } }
def State.dropToken (s : State) (t : Nat) : State := { s with sxt := { s.sxt with tokens := s.sxt.tokens.erase t } }

/-! ### ALM_CMD (R495, R500) -/

/-- A command's status and rule, and BUSY cleared. -/
def State.almAnswer (s : State) (p : Nat × Nat) : State :=
  ((s.setFld F.ALM_CMD_STATUS p.1).setFld F.ALM_CMD_RULE p.2).setFld F.ALM_CMD_BUSY 0

/-- GO with an operation: served by the Sextant's cores, and BUSY during a live update for any command but ABORT (R499). -/
def State.almGo (s : State) (op : Nat) (f : State → State) : State :=
  if s.flag F.ALM_CMD_BUSY then s
  else s.sxtServe fun s =>
    let s := (s.setFld F.ALM_CMD_OP op).count 0xF9C none 1
    if s.alm.upd.isSome && op != 7 then s.almAnswer (almBusy, 0) else f s

/-- A command that needs the UPDATE token. -/
def State.withUpdate (s : State) (own : List Nat) (f : State → State) : State :=
  match s.lockedBy tokUpdate own with
  | some h => (s.lockRefused tokUpdate h).almAnswer (almBusyConflict, 0)
  | none => f s

/-- A flash sector that does not read back (R479); a degraded log then has lost the flash (R510). -/
def State.flashFails (s : State) : State :=
  let s := s.raise F.ALM_ERR_STATUS_FLASH_ERROR
  if s.log.degraded then { s with log := { s.log with flashDead := true } }.setFld F.SXT_STATUS_NVM_LOST 1 else s

/-! ### STAGE and WRITE_FACTORY -/

/-- The images of a buffer in the forms that R495 lists: one, or a firmware image followed by a configuration image. -/
def stagePair (l : List Image) : Option (Option Image × Option Image) :=
  match l with
  | [i] => if i.kind = kindFw then some (some i, none) else if i.kind = kindCfg then some (none, some i) else none
  | [a, b] => if a.kind = kindFw ∧ b.kind = kindCfg then some (some a, some b) else none
  | _ => none

/-- R486: an image's VERSION is above that of the current slot's image of its kind, or the two are equal. -/
def State.newer (s : State) (i : Image) : Bool :=
  let cur := s.flashSlot s.alm.hdr.cur
  match (if i.kind = kindFw then cur.fw else cur.cfg) with
  | none => true
  | some j => decide (j.version < i.version) || i == j

/-- A slot written with images, the missing kind copied from CUR, and its checks: R485, and R486 but for the factory slot. -/
def State.writeSlot (s : State) (slot : Nat) (p : Option Image × Option Image) (order : Bool) : State × Nat × Nat :=
  let cur := s.flashSlot s.alm.hdr.cur
  let f : FlashSlot := ⟨match p.1 with | some i => some i | none => cur.fw, match p.2 with | some i => some i | none => cur.cfg, false, 0, 0⟩
  let t := { s with alm := { s.alm with slots := Tab.set s.alm.slots slot f } }
  let c := s.checkImages slot f
  let c := if c.1 = almOk ∧ order = true ∧ (p.1.toList ++ p.2.toList).all s.newer = false then (almVersionLow, 0) else c
  (t.noteSlot slot (c.1 == almOk), c)

/-- The slot that STAGE writes: STAGED, else that of a previous fallback, and in recovery, where neither is set, the lowest but FACTORY
(R493, R495). -/
def State.stageSlot (s : State) : Option Nat :=
  let h := s.alm.hdr
  if h.staged < 4 then some h.staged
  else match s.alm.fallback with
    | some k => some k
    | none => if s.pow.life = .recovery then (rangeFrom 0 4).find? (· != h.factory) else none

/-- The header after STAGE: STAGED_VALID, or in recovery mode CUR (R490, R493); a staged slot that fails its checks is not valid. -/
def State.stagedHdr (s : State) (slot : Nat) (ok : Bool) : State :=
  let h := s.alm.hdr
  if ok then
    if s.pow.life = .recovery then
      s.writeHdr { h with
        cur := slot, prev := if h.prev = slot then noSlot else h.prev, staged := if h.staged = slot then noSlot else h.staged
        trial := false, stagedValid := false }
    else s.writeHdr { h with stagedValid := true, rejected := false }
  else if h.staged = slot ∧ h.stagedValid = true then s.writeHdr { h with stagedValid := false }
  else s

/-- A slot whose write failed holds no image. -/
def State.slotTorn (s : State) (slot : Nat) : State :=
  { s with alm := { s.alm with slots := Tab.set s.alm.slots slot ⟨none, none, false, 0, 0⟩ } }

/-- STAGE, with what the read of the buffer brings and whether the flash takes the writes. -/
def State.stage (s : State) (img : ImageRead) (flashOk : Bool) : State :=
  match img, s.stageSlot with
  | .failed, _ => s.almAnswer (almStageRead, 0)
  | _, none => s.almAnswer (almNoStaged, 0)
  | .images l, some slot =>
    match stagePair l with
    | none => s.almAnswer (almSigInvalid, 0)
    | some p =>
      if !flashOk then ((s.slotTorn slot).stagedHdr slot false).flashFails.almAnswer (almFlashError, 0)
      else
        let r := s.writeSlot slot p true
        (r.1.stagedHdr slot (r.2.1 == almOk)).almAnswer r.2

def State.stageGo (s : State) (images : ImageRead) (flashOk : Bool) : State :=
  s.almGo 1 fun s => s.withUpdate [] fun s => s.stage images flashOk

def execStage (images : ImageRead) (flashOk : Bool) (s : State) : Host.Outcome State Fault Refusal := .next (s.stageGo images flashOk)

/-- WRITE_FACTORY: as STAGE, into FACTORY and without R486; refused while booted from FACTORY, with a status that is open (log entry 2). -/
def State.writeFactory (s : State) (img : ImageRead) (flashOk : Bool) : State :=
  let slot := s.alm.hdr.factory
  if s.alm.booted = some slot then
    let f := s.fresh 8
    f.2.almAnswer (f.1, 0)
  else match img with
    | .failed => s.almAnswer (almStageRead, 0)
    | .images l =>
      match stagePair l with
      | none => s.almAnswer (almSigInvalid, 0)
      | some p =>
        if !flashOk then (s.slotTorn slot).flashFails.almAnswer (almFlashError, 0)
        else let r := s.writeSlot slot p false; r.1.almAnswer r.2

def State.factoryGo (s : State) (images : ImageRead) (flashOk : Bool) : State :=
  s.almGo 8 fun s => s.withUpdate [] fun s => s.writeFactory images flashOk

def execWriteFactory (images : ImageRead) (flashOk : Bool) (s : State) : Host.Outcome State Fault Refusal :=
  .next (s.factoryGo images flashOk)

/-! ### Activation, confirmation and rollback by reset -/

/-- ACTIVATE needs a staged slot that passed its load checks. -/
def State.canActivate (s : State) : Bool := s.alm.hdr.stagedValid && decide (s.alm.hdr.staged < 4)

/-- ACTIVATE_RESET. -/
def State.activateReset (s : State) : State :=
  if s.canActivate then (s.activateRow.almAnswer (almOk, 0)).devResetAsked.1 else s.almAnswer (almNoStaged, 0)

def execActivateReset (s : State) : Host.Outcome State Fault Refusal := .next (s.almGo 2 State.activateReset)

/-- ROLLBACK's status: PREV is set and its images pass their checks, none of them below a floor. -/
def State.rollbackStatus (s : State) : Nat :=
  let h := s.alm.hdr
  let f := s.flashSlot h.prev
  if 4 ≤ h.prev then almNoStaged
  else if f.images.length = 2 ∧ f.images.all s.floorOk = false then almFloorBlocked
  else if (s.slotChecks h.prev).1 = almOk then almOk else almNoStaged

/-- ROLLBACK_RESET. -/
def State.rollbackReset (s : State) : State :=
  let st := s.rollbackStatus
  if st = almOk then (s.rollbackRow.almAnswer (almOk, 0)).devResetAsked.1 else s.almAnswer (st, 0)

def execRollbackReset (s : State) : Host.Outcome State Fault Refusal := .next (s.almGo 5 State.rollbackReset)

/-- The previous slot fell below a floor (R487). -/
def State.prevFloor (s : State) : State :=
  if s.alm.hdr.prev < 4 ∧ (s.flashSlot s.alm.hdr.prev).images.all s.floorOk = false then s.raise F.ALM_ERR_STATUS_PREV_BELOW_FLOOR else s

/-- CONFIRM of a trial: the header, the floors, the key rows, and measurement index 6 where a floor rises (R433, R482, R487, R490). -/
def State.confirmTrial (s : State) : State :=
  let l := (s.flashSlot s.alm.hdr.cur).images
  let t := s.writeHdr { s.alm.hdr with trial := false }
  let t := l.foldl State.raiseFloor t
  let t := l.foldl State.revokeFor t
  let up := t.alm.fwFloors != s.alm.fwFloors || t.alm.cfgFloors != s.alm.cfgFloors
  let t := if up then t.prevFloor.addFld F.ISO_MEAS_GEN_DEVICE_GEN 1 else t
  t.showFuses.almAnswer (almOk, 0)

/-- CONFIRM: its floor raises take the FUSE token. -/
def State.confirm (s : State) : State :=
  if s.alm.hdr.trial = false then s.almAnswer (almNotTrial, 0)
  else
    let raises := (s.flashSlot s.alm.hdr.cur).images.any fun i => decide (s.floorOf i.kind < i.floorSet)
    match (if raises then s.lockedBy tokFuse [] else none) with
    | some h => (s.lockRefused tokFuse h).almAnswer (almBusyConflict, 0)
    | none => s.confirmTrial

def execConfirm (s : State) : Host.Outcome State Fault Refusal := .next (s.almGo 4 State.confirm)

/-- OWNER_KEY: the digest of the key that the buffer holds, none when it cannot be read, and whether the signature by the newest row's key
follows it. With every row programmed it programs nothing (R569). -/
def State.ownerKey (s : State) (digest : Option Nat) (sigOk : Bool) : State :=
  if 4 ≤ s.alm.owners.length then s.almAnswer (almKeyRowsFull, 0)
  else match digest with
    | none => s.almAnswer (almStageRead, 0)
    | some d =>
      if !s.alm.owners.isEmpty && !sigOk then s.almAnswer (almSigInvalid, 0)
      else { s with alm := { s.alm with owners := s.alm.owners ++ [(d, false)] } }.showFuses.almAnswer (almOk, 0)

/-- OWNER_KEY takes UPDATE and then FUSE (R519). -/
def State.ownerKeyGo (s : State) (digest : Option Nat) (sigOk : Bool) : State :=
  s.almGo 9 fun s => s.withUpdate [] fun s =>
    match s.lockedBy tokFuse [tokUpdate] with
    | some h => (s.lockRefused tokFuse h).almAnswer (almBusyConflict, 0)
    | none => s.ownerKey digest sigOk

def execOwnerKey (digest : Option Nat) (sigOk : Bool) (s : State) : Host.Outcome State Fault Refusal :=
  .next (s.ownerKeyGo digest sigOk)

/-! ### The difference of two slots (R497, R498) -/

/-- A section of a slot's images. -/
def FlashSlot.section? (f : FlashSlot) (key : Nat) : Option ImgSection :=
  (f.images.flatMap (·.sections)).find? fun x => x.cls * 65536 + x.idx == key

/-- The units of a section that differs: the Helm cores one by one for class 0x83, the decoders, encoders and polar units for 0x86, and
otherwise one. -/
def State.unitsOf (s : State) (cls idx : Nat) : List Nat :=
  if cls = 0x83 then s.coresOn 0 32
  else if cls = 0x86 then s.unitsOn ucDec ++ (s.unitsOn ucEnc).map (8 + ·) ++ (s.unitsOn ucPolar).map (12 + ·)
  else [idx]

/-- The units of a live update between two slots, in increasing class and index. -/
def State.diffUnits (s : State) (cur target : FlashSlot) : List UpdUnit :=
  let keys := ((cur.images ++ target.images).flatMap fun i => i.sections.map fun x => x.cls * 65536 + x.idx).eraseDups
  let keys := sortBy (fun a b => decide (a ≤ b)) keys
  keys.flatMap fun k =>
    let a := cur.section? k
    let b := target.section? k
    if a.map (·.digest) = b.map (·.digest) then []
    else (s.unitsOf (k / 65536) (k % 65536)).map fun n => ⟨k / 65536, k % 65536, n, b, a⟩

/-- The MODE of a port's section. -/
def secMode (x : Option ImgSection) (p : Nat) : Nat :=
  match secVal x F.ETH_PORT_CTRL_MODE.reg p with
  | some v => F.ETH_PORT_CTRL_MODE.get (BitVec.ofNat 64 v)
  | none => 0

/-- A port carries an ACTIVE cell's SUBPORT (R498). -/
def State.portCarries (s : State) (p : Nat) : Bool :=
  s.cells.any fun e => e.2.st == .active && (match e.2.latest with
    | some f => f.subport / 4 == p
    | none => false)

/-- A unit that no live update can change (R497, R498). -/
def State.needsReset (s : State) (u : UpdUnit) : Bool :=
  u.cls == 0x81 || u.cls == 0x84 || u.cls == 0x85 || (u.cls == 0x86 && s.cells.any fun e => e.2.st == .active)
    || (u.cls == 0x50 && secMode u.new u.idx != secMode u.old u.idx && s.portCarries u.idx)

/-! ### Reconfiguring a unit (R498) -/

/-- The configuration with a section in place of another. -/
def State.swapSection (s : State) (u : UpdUnit) (x : Option ImgSection) : State :=
  let gone := u.keys.map fun p => regKey p.1 p.2
  let cfg := s.cfg.filter fun e => !gone.contains e.1
  let cfg := match x with
    | none => cfg
    | some x => x.vals.foldl (fun t v => Tab.set t (regKey v.1 v.2.1) (almanacWord v.1 v.2.2)) cfg
  let s := { s with cfg := cfg }
  gone.foldl (fun (s : State) k =>
    let a := k % 2 ^ 40
    if isMapReg a || !(Tab.has s.regs k || isAon a) then s else s.loadWord k (Tab.getD cfg k (BitVec.ofNat 64 (Tab.getD resetTable a 0)))) s

/-- The sessions bound to a domain end (R414, R415). -/
def State.endSessionsOf (s : State) (d : Nat) : State := { s with sessions := s.sessions.filter fun e => e.2.dom != some d }

/-- A domain's counters freed and its snapshot stopped (R523). -/
def State.freeCounters (s : State) (d : Nat) : State :=
  { s with evcs := s.evcs.filter fun e => e.2.dom != some d, sxt := { s.sxt with snaps := Tab.del s.sxt.snaps d } }

/-- A domain whose owner digest or extents change hands: its key slot, SAs, sessions and counters go, and its SRAM is zero for the next owner
(R303, R414, R415, R523). -/
def State.ownerGone (s : State) (d : Nat) : State :=
  let s := ((s.dropKey d).zeroSpace .scratch d).zeroSpace .staging d
  ((s.endSessionsOf d).freeCounters d).setFld F.ISO_DOM_STATUS_STATE domUndefined d

/-- The domain that a domain's extents and digest make it (R414). -/
def State.redefine (s : State) (d : Nat) : State :=
  if s.nExt d ≠ 0 ∧ s.owner d ≠ 0 then
    if s.fld F.ISO_DOM_STATUS_STATE d = domUndefined then s.setFld F.ISO_DOM_STATUS_STATE domDefined d else s
  else if s.fld F.ISO_DOM_STATUS_STATE d = domUndefined then s else s.ownerGone d

/-- An extent as the configuration image has it. -/
def imgExtent (img t : Tab Extent) (e : Nat) : Tab Extent :=
  match Tab.get? img e with
  | some x => Tab.set t e x
  | none => Tab.del t e

/-- The extents after a section: those whose owner it changes are the image's, and a replacement whose place the image now fills, or no longer has,
is the image's again. -/
def State.extentsAfter (s : State) (u : UpdUnit) : Tab Extent :=
  let img := extentsOf s.cfg
  let named := ((u.keys.filter fun p => p.1 == 0x8000018).map (·.2)).filter fun e => secVal u.old 0x8000018 e != secVal u.new 0x8000018 e
  let t := named.foldl (imgExtent img) s.extents
  let at_ := fun (t : Tab Extent) (x : Extent) => t.countP fun y => y.2.owner == x.owner && y.2.idx == x.idx
  ((t.filter fun e => e.2.repl && (at_ t e.2 != 1 || at_ img e.2 == 0)).map (·.1)).foldl (imgExtent img) t

/-- The extents that a section names take its owners. What a domain whose extents change then reads in a block that was written before is open
(R290). -/
def State.setExtents (s : State) (u : UpdUnit) : State :=
  let ext := s.extentsAfter u
  let of := fun (t : Tab Extent) (d : Nat) => (t.filter fun e => e.2.owner == d).map fun e => (e.1, e.2.idx)
  let moved := allDomains.filter fun d => of ext d != of s.extents d
  let theirs := fun k => moved.any fun d => inSpace .hbm d k
  let phys := s.wrote.filterMap fun b => s.physBlock (64 * b / 2 ^ 64) (64 * b % 2 ^ 64)
  let t := { s with extents := ext, mem := Memory.drop s.mem theirs, wrote := s.wrote.filter fun b => !theirs (64 * b) }
  let now := phys.filterMap fun p => match t.blockOwner p with
    | some (d, o) => if moved.contains d then some (domBlock d o) else none
    | none => none
  { t with wrote := now ++ t.wrote }.openBlocks now

/-- A stack that only the runtime layer disables, and on which a section lists nothing but FREE and SPARE extents, returns (R314). -/
def State.stackReturns (s : State) (u : UpdUnit) (k : Nat) : Bool :=
  let named := (u.keys.filter fun p => p.1 == 0x8000018 && p.2 / 96 == k).map (·.2)
  let k' : DevUnit := ⟨ucStack, k⟩
  Tab.has s.mapRun k'.key && !layerHas s.mapFuse k' && !layerHas s.mapAlm k' && !named.isEmpty
    && named.all fun e => match Tab.get? (extentsOf s.cfg) e with
      | some x => x.owner == extSpare
      | none => true

/-- The stack trained, scrubbed in full and cleared from the map; its extents return as FREE and SPARE ones only (R314). -/
def State.returnStack (s : State) (k : Nat) : State :=
  let back := fun (e : Nat × Extent) => e.1 / 96 == k && (e.2.owner == extSpare || e.2.owner == extFree)
  let s := { s with extents := s.extents.map fun e => if back e then (e.1, { e.2 with lost := false }) else e }
  let s := ((s.satFld F.MEM_STACK_ECC_RETRAINS 1 k).count (0xEA0 + 12 * k) none 1).health k 2 1
  ((s.forgetUes k).sweep k [] []).mapEnable ⟨ucStack, k⟩

/-- The calendar of a section takes effect at the next period boundary (R498). -/
def State.newCal (s : State) : State :=
  if s.imageCal = s.helm.cal then s else { s with helm := { s.helm with calNext := some s.imageCal, calOffNext := false } }

/-- Class 0x01: the device section (R314, R498, R578). -/
def State.updDevice (s : State) (u : UpdUnit) : State :=
  let back := (rangeFrom 0 8).filter fun k => s.stackReturns u k
  let s := s.setExtents u
  let s := { s.noteMap with mapAlm := s.almLayer }
  let s := back.foldl State.returnStack s.mapApply
  let s := (s.replaceOff.setQuantum (s.fld F.HLM_QUANTUM_QUANTUM_US)).newCal
  let s := allDomains.foldl State.redefine s
  if back.isEmpty then s else s.applyScale

/-- A domain's SRAM after its partition has a new base or size: bytes past the new size are gone, and at a new base all of them, since the units
there are given anew (R303, R305; log entry 94). -/
def State.resizeSpace (s old : State) (d : Nat) (spc : Space) (base size : Fld) : State :=
  if s.fld base d = old.fld base d then s.zeroRange spc d (2 ^ 20 * s.fld size d) (2 ^ 40) else s.zeroSpace spc d

/-- Class 0x02: a domain's section, put in force in place of that of `old` (R303, R305, R314, R415). -/
def State.updDomain (s old : State) (u : UpdUnit) : State :=
  let d := u.idx
  let s := if s.owner d ≠ old.owner d ∧ s.fld F.ISO_DOM_STATUS_STATE d ≠ domUndefined then s.ownerGone d else s
  let s := (s.resizeSpace old d .scratch F.MEM_PART_SP_BASE_MIB F.MEM_PART_SP_MIB).resizeSpace old d .staging F.MEM_PART_ST_BASE_MIB
    F.MEM_PART_ST_MIB
  (((s.setExtents u).replaceOff).redefine d).refreshRadio

/-- Class 0x10: a tile's soft repair (R96). A tile whose effective record becomes invalid fails as one that boots so (R95). -/
def State.updTile (s old : State) (t : Nat) : State :=
  let s := { s.noteMap with mapAlm := s.almLayer }.fuseSummary
  (if repairBad (s.effRec t) && !repairBad (old.effRec t) then s.fuseBad t else s).mapApply

/-- Class 0x40: cell slots assigned or cleared (R204); a grant on which a cell slot depends stays as it was (R230). -/
def State.updCells (s old : State) (u : UpdUnit) : State :=
  let s := (u.keys.filter fun p => p.1 == F.FH_GRANT_VALID.reg).foldl (fun s p =>
    if old.grantHeld p.2 && old.reg p.1 p.2 != s.reg p.1 p.2 then
      (s.setReg p.1 p.2 (old.reg p.1 p.2)).raise F.FH_ERR_STATUS_GRANT_CONFLICT else s) s
  (u.keys.filter fun p => p.1 == F.RAD_CELL_ASSIGN_ASSIGNED.reg).foldl (fun s p =>
    let c := p.2
    let a := s.flag F.RAD_CELL_ASSIGN_ASSIGNED c
    let x := s.cell c
    if a then (if x.st = .unassigned then s.putCell c (Cell.blank .assigned) else s.setCell c { x with clear := false })
    else if old.flag F.RAD_CELL_ASSIGN_ASSIGNED c then s.clearAssigned c
    else s) s

/-- Class 0x50: the steering entries of a port's section apply one by one under R391 and R405, its policers with full buckets (R398), and a port whose
MODE or ENABLE changes goes down (R498). -/
def State.updPort (s old : State) (u : UpdUnit) : State :=
  let keep := fun (a : Nat) => u.keys.filter fun p => p.1 == a
  let t := (keep F.ETH_STEER_VALID.reg).foldl (fun t p => t.setReg p.1 p.2 (old.reg p.1 p.2)) s
  let t := (keep F.ETH_STEER_VALID.reg).foldl (fun t p => t.steerPut p.2 (s.reg p.1 p.2)) t
  let pols := (keep F.ETH_POL_RATE_VALID.reg ++ keep F.ETH_POL_BURST_CBS.reg).map (·.2)
  let t := { t with eth := { t.eth with pols := t.eth.pols.filter fun e => !pols.contains e.1 } }
  if t.fld F.ETH_PORT_CTRL_MODE u.idx = old.fld F.ETH_PORT_CTRL_MODE u.idx ∧ t.fld F.ETH_PORT_CTRL_ENABLE u.idx = old.fld F.ETH_PORT_CTRL_ENABLE u.idx
  then t else t.reformPort u.idx none

/-- The entries of a table of four words that a section names, and an entry as the image gives it. -/
def UpdUnit.entries (u : UpdUnit) (a : Nat) : List Nat :=
  ((u.keys.filter fun p => decide (a ≤ p.1) && decide (p.1 < a + 32)).map (·.2)).eraseDups
def imageEntry (cfg : Tab Word) (a k : Nat) : List Nat := (rangeFrom 0 4).map fun w => cfgAt cfg (a + 8 * w) k

/-- FAB_CTRL as a section gives it, unless R335 refuses it. -/
def State.updFabCtrl (s old : State) : State :=
  let r := F.FAB_CTRL_TIMEOUT_US.reg
  if s.fld F.FAB_CTRL_LEASE_US < 3 * s.fld F.FAB_CTRL_PROBE_US then (s.setReg r 0 (old.reg r)).raise F.FAB_ERR_STATUS_LEASE_CONFIG else s

/-- Class 0x58: each register and entry of a section under its block's rules (R318, R320 to R322, R335, R349, R498). -/
def State.updFabric (s old : State) (u : UpdUnit) : State :=
  let s := s.updFabCtrl old
  let s := ((rangeFrom 0 4).filter fun p => !s.flag F.FAB_PORT_CTRL_ENABLE p).foldl State.portDown s
  let s := ((u.keys.filter fun p => p.1 == F.FAB_ROUTE_DOWN.reg).map (·.2)).foldl (fun s n =>
    if s.flag F.FAB_ROUTE_PRIMARY_VALID n || s.flag F.FAB_ROUTE_ALT_VALID n then s.checkRoute n else s) s
  let s := (u.entries cfgRegion).foldl (fun s r =>
    let e := imageEntry s.cfg cfgRegion r
    if imageEntry old.cfg cfgRegion r = e then s else s.regionApply r e none) s
  (u.entries cfgBearing).foldl (fun s b =>
    let e := imageEntry s.cfg cfgBearing b
    if imageEntry old.cfg cfgBearing b = e then s else s.bearingPut b e) s

/-- Class 0x82: the Sextant restarts, and every session ends (R423). -/
def State.updSextant (s : State) : State := { s with sessions := [] }.wakeCores

/-- The channels whose domain a section changes lose their SAs (R428). -/
def State.updChannels (s old : State) (u : UpdUnit) : State :=
  ((u.keys.filter fun p => p.1 == F.ISO_SC_ASSIGN_VALID.reg).map (·.2)).foldl (fun s sc =>
    if s.scDom sc = old.scDom sc then s else s.clearChannel sc (old.scDom sc)) s

/-- A unit's section put in force, and what follows it in the unit's block. -/
def State.reconfigureUnit (s : State) (u : UpdUnit) (x : Option ImgSection) : State :=
  let t := (s.swapSection u x).updChannels s u
  match u.cls with
  | 0x01 => t.updDevice u
  | 0x02 => t.updDomain s u
  | 0x10 => t.updTile s u.idx
  | 0x40 => t.updCells s u
  | 0x50 => t.updPort s u
  | 0x58 => t.updFabric s u
  | 0x68 => t.freqSelect.bmca (s.masterOf s.slavePort)
  | 0x70 => t.setShares t.shareAt
  | 0x82 => t.updSextant
  | _ => t

/-- A unit reconfigured, with the generations advanced where measurement index 8 changes (R433). -/
def State.reconfigure (s : State) (u : UpdUnit) (x : Option ImgSection) : State :=
  let t := s.reconfigureUnit u x
  if t.measured 8 = s.measured 8 then t else t.measChanged

/-! ### The plan (R497) -/

/-- The admission of R203, R183 and R307 for each unit in turn, with that unit removed and those before it updated. -/
def State.planOk (s : State) (mk : List UpdUnit → LiveUpdate) : List UpdUnit → Bool
  | [] => true
  | u :: t =>
    let s := { s with alm := { s.alm with upd := some (mk (u :: t)) } }
    s.radioTest.1 && (s.reconfigure u u.new).planOk mk t

/-- A plan's outcome: a refusal's status. -/
def State.planStatus (s : State) (l : LiveUpdate) : Nat :=
  if l.todo.any s.needsReset then almNeedsReset
  else if s.planOk (fun t => { l with todo := t }) l.todo then almOk else almCapacity

/-! ### A live update in progress (R498, R500) -/

/-- ALM_UPDATE for the units done and the unit in progress. -/
def State.showUpdate (s : State) : State :=
  match s.alm.upd with
  | none => (s.setFld F.ALM_UPDATE_PHASE 0).setFld F.ALM_STATUS_UPDATE_ACTIVE 0
  | some l =>
    let u := l.todo.headD ⟨0, 0, 0, none, none⟩
    let s := (s.setFld F.ALM_UPDATE_UNITS_TOTAL (l.todo.length + l.done.length)).setFld F.ALM_UPDATE_UNITS_DONE l.done.length
    let s := (s.setFld F.ALM_UPDATE_CUR_CLASS u.cls).setFld F.ALM_UPDATE_CUR_INDEX u.sub
    (s.setFld F.ALM_UPDATE_PHASE 1).setFld F.ALM_STATUS_UPDATE_ACTIVE 1

/-- A PLDM update over: its token is released, and what ended it is logged (R511, R513). -/
def State.pldmEnd (s : State) (what status : Nat) : State :=
  let s := { s with alm := { s.alm with pldm := none } }.setFld F.SXT_STATUS_PLDM_ACTIVE 0
  (s.dropToken tokUpdate).logEvent 0x0050 0 (toLe 1 what ++ toLe 1 status)

/-- The end of a live update: its token is released, and the PLDM update that started it ends with it. -/
def State.updateOver (s : State) (l : LiveUpdate) (status : Nat) : State :=
  let s := { s.noteMap with alm := { s.alm with upd := none } }.showUpdate
  if l.pldm then
    let s := if status = almOk then s.count 0xF9B none 1 else s
    s.pldmEnd 2 status
  else s.dropToken tokUpdate

/-- A completed update: the row of R490, the versions in force, and the generations (R433, R498). -/
def State.updateDone (s : State) (l : LiveUpdate) : State :=
  let t := if l.back then s.rollbackRow else s.activateRow
  let f := t.flashSlot l.target
  let v := fun (i : Option Image) => match i with
    | some i => i.version
    | none => 0
  let t := { t with alm := { t.alm with booted := some l.target } }.setVersions (v f.fw) (v f.cfg)
  let t := (touched l.done).foldl (fun s d => s.configChanged d) (t.addFld F.ISO_MEAS_GEN_DEVICE_GEN 1)
  let t := (t.setFld F.ALM_STATUS_BOOTED_ROLE 0).updateOver l almOk
  if l.pldm then t else t.almAnswer (almOk, 0)

/-- Every updated unit back at its current-slot section, in reverse order (R498). -/
def State.revert (s : State) (status : Nat) : State :=
  match s.alm.upd with
  | none => s
  | some l =>
    let s := l.done.foldl (fun s u => s.reconfigure u u.old) s
    let s := (s.updateOver l status).raise F.ALM_ERR_STATUS_UPDATE_ABORTED
    if l.pldm then s else s.almAnswer (status, 0)

/-- A live update begun, or refused with a status. -/
def State.liveStart (s : State) (target : Nat) (back pldm : Bool) : State × Nat :=
  let h := s.alm.hdr
  let todo := s.diffUnits (s.flashSlot h.cur) (s.flashSlot target)
  let l : LiveUpdate := ⟨target, back, pldm, todo, [], s.mapRun.map (·.1)⟩
  let st := s.planStatus l
  let s := if st = almNeedsReset then s else s.noteOutcome (st == almOk)
  if st ≠ almOk then (s, st)
  else
    let s := (if pldm then s else s.takeToken tokUpdate)
    if todo.isEmpty then (s.updateDone l, almOk)
    else ({ s.noteMap with alm := { s.alm with upd := some l } }.showUpdate, almOk)

/-- ACTIVATE_LIVE and ROLLBACK_LIVE, once the slot they need is there. -/
def State.liveGo (s : State) (target : Nat) (back : Bool) : State :=
  if !s.running then s.almAnswer (almNoStaged, 0)
  else s.withUpdate [] fun s =>
    let r := s.liveStart target back false
    r.1.almAnswer (r.2, 0)

/-- ACTIVATE_LIVE. The rules of order 5 are asked again, for the domains that have come to hold something since STAGE (R415, log entry 104). -/
def State.activateLive (s : State) : State :=
  s.almGo 3 fun s =>
    if s.canActivate then
      let c := s.slotChecks s.alm.hdr.staged
      if c.1 = almLoadRefused then s.almAnswer c else s.liveGo s.alm.hdr.staged false
    else s.almAnswer (almNoStaged, 0)

def execActivateLive (s : State) : Host.Outcome State Fault Refusal := .next s.activateLive

def State.rollbackLive (s : State) : State :=
  s.almGo 6 fun s => if s.rollbackStatus = almOk then s.liveGo s.alm.hdr.prev true else s.almAnswer (s.rollbackStatus, 0)

def execRollbackLive (s : State) : Host.Outcome State Fault Refusal := .next s.rollbackLive

/-- ABORT: a live update reverts. -/
def State.abortLive (s : State) : State :=
  s.almGo 7 fun s => if s.alm.upd.isSome then s.revert almAborted else s.almAnswer (almOk, 0)

def execAbort (s : State) : Host.Outcome State Fault Refusal := .next s.abortLive

/-- GO of ALM_CMD with an operation of R495. A reserved one completes with a status that is open (log entry 62). -/
def State.almRun (s : State) (x : WriteBrings) (op : Nat) : State :=
  match op with
  | 1 => s.stageGo x.images x.flashOk
  | 2 => s.almGo 2 State.activateReset
  | 3 => s.activateLive
  | 4 => s.almGo 4 State.confirm
  | 5 => s.almGo 5 State.rollbackReset
  | 6 => s.rollbackLive
  | 7 => s.abortLive
  | 8 => s.factoryGo x.images x.flashOk
  | 9 => s.ownerKeyGo x.owner x.sigOk
  | n => s.almGo n fun s => let f := s.fresh 8; f.2.almAnswer (f.1, 0)

/-- A unit disabled as a runtime fault would disable it, by its class (R99, R169, R222, R286, R311, R349, R383, R550). -/
def State.unitLost (s : State) (u : DevUnit) (cause : Nat) : State :=
  if u.cls = ucRow ∨ u.cls = ucCol then s.loseArray u cause 2
  else if u.cls = ucCore then s.loseCore u.idx cause
  else if u.cls = ucStack then s.stackLoss u.idx
  else if u.cls = ucDma ∨ u.cls = ucFab then s.loseIoEngine u.cls u.idx cause
  else if u.cls = ucEth then (s.mapDisable u cause).reformPort u.idx none
  else if u.cls = ucRhumb then (s.mapDisable u cause).portDown u.idx
  else if u.cls = ucEq ∨ u.cls = ucDemap then (((s.mapDisable u cause).raise F.RAD_ERR_STATUS_ENGINE_LOST).endUplink).shedAll 4
  else s.loseEngine u cause

/-- A unit that fails with both its sections enters the disabled-unit map, with a cause that is open (log entry 2). -/
def State.unitFails (s : State) (u : UpdUnit) : State :=
  match (if u.cls = 0x50 then some (⟨ucEth, u.idx⟩ : DevUnit) else u.unit) with
  | none => s
  | some d => let f := s.fresh 16; f.2.unitLost d f.1

/-- A unit lost since the plan was made, with the plan run again at once (R499). -/
def State.planStands (s : State) (l : LiveUpdate) : Bool :=
  (s.mapRun.map (·.1)).all l.runs.contains || s.planStatus l == almOk

/-- LIVE_UPDATE_UNIT: the unit in progress is reconfigured (0), fails and takes its current-slot section again (1), or fails with both
(2). The memory system's sections wait until no run of a domain that they touch holds a window (R305), and apply at the next boundary of a
500 µs period (R498). -/
def State.updateUnit (s : State) (outcome : Nat) : State :=
  match s.alm.upd with
  | none => s
  | some l =>
    match l.todo with
    | [] => s
    | u :: t =>
      if !s.planStands l then (s.noteOutcome false).revert almCapacity
      else if s.runs.any fun p => s.draining.contains p.2.dom then s
      else if outcome = 0 then
        let s := if u.cls = 0x01 ∨ u.cls = 0x02 then s.toBoundary else s
        let s := (s.noteMap.reconfigure u u.new).count 0xF9D none 1
        let l : LiveUpdate := { l with todo := t, done := u :: l.done, runs := s.mapRun.map (·.1) }
        let s := { s with alm := { s.alm with upd := some l } }.showUpdate
        if t.isEmpty then s.updateDone l else s
      else if outcome = 1 then s.revert almAborted
      else (s.unitFails u).revert almAborted

def execLiveUpdateUnit (outcome : Nat) (s : State) : Host.Outcome State Fault Refusal :=
  .next (s.sxtServe fun s => s.updateUnit outcome)

end Sys2Proof.Machine
end

