-- ==== Sys2Proof/Machine/Sextant.lean ====
section
/-! DEFINITION. The Sextant: its cores (R501, R502), the sensors (R503 to R506, R602), the event log (R507 to R511), PLDM updates (R513), the
card's buses (R515 to R517) and JTAG (R518). -/

namespace Sys2Proof.Machine

/-- The always-on domain has power. -/
def State.awake (s : State) : Bool := s.pow.life != .off

/-! ### The cores (R501, R502) -/

/-- Work for the cores, which wakes them: none is done once they have FAILED. -/
def State.coresServe (s : State) (f : State → State) : State :=
  if s.awake && decide (s.fld F.SXT_STATUS_CORE_STATE < 2) then f s.wakeCores else s

/-- CORE_CLOCK_STOP: 10 ms without work. -/
def State.coreStop (s : State) : State :=
  if s.awake && s.fld F.SXT_STATUS_CORE_STATE == 1 && s.alm.upd.isNone then
    (s.advanceTo (s.sxt.workAt + 10 * msec)).setFld F.SXT_STATUS_CORE_STATE 0
  else s

def execCoreClockStop (s : State) : Host.Outcome State Fault Refusal := .next s.coreStop

/-- ALERT: a cause that no mask bit holds back is set; LOG_DEGRADED cannot be masked (R528). -/
def State.alertPin (s : State) : Bool :=
  (rangeFrom 0 7).any fun k => bit (s.reg F.SXT_ALERT_SENSOR_WARN.reg).toNat k
    && (k == 3 || !bit (s.reg F.SXT_ALERT_MASK_SENSOR_WARN.reg).toNat k)

/-- The staged slot given up (R513). -/
def State.unstage (s : State) : State := if s.alm.hdr.stagedValid then s.writeHdr { s.alm.hdr with stagedValid := false } else s

/-- A PLDM update cancelled; a live update that it started reverts. -/
def State.pldmCancel (s : State) : State :=
  match s.alm.pldm, s.alm.upd with
  | none, _ => s
  | some _, some l => if l.pldm then (s.revert almAborted).unstage else s.unstage.pldmEnd 3 0
  | some _, none => s.unstage.pldmEnd 3 0

/-- LOCKSTEP_DISAGREE: the cores restart, or with a second disagreement within one hour FAIL. -/
def State.disagree (s : State) (pc : Nat) : State :=
  if s.awake && s.fld F.SXT_STATUS_CORE_STATE != 3 then
    let second := match s.sxt.disagreeAt with
      | none => false
      | some t => decide (s.now < t + 3600000 * msec)
    let s := { s with sessions := [] }.pldmCancel
    let s := (s.logEvent 0x0030 2 (toLe 4 pc)).count 0xF8D none 1
    let s := { s with sxt := { s.sxt with disagreeAt := some s.now } }
    if second then (s.setFld F.SXT_STATUS_CORE_STATE 3).raise F.SXT_ALERT_LOCKSTEP
    else { s with sxt := { s.sxt with workAt := s.now } }.setFld F.SXT_STATUS_CORE_STATE 1
  else s

def execLockstepDisagree (pc : Nat) (s : State) : Host.Outcome State Fault Refusal := .next (s.disagree pc)

/-! ### Sensors (R503 to R506) -/

/-- A reading as a number: thermal sensors are signed. -/
def sensVal (kind w : Nat) : Int := if kind = sensThermal then signed w 16 else ((w % 2 ^ 16 : Nat) : Int)

/-- What a write of a sensor's thresholds in this cycle replaced. -/
def State.thrTied (s : State) (i : Nat) : Option Word :=
  (s.ethTie.regs.find? fun e => e.1 == F.SXT_SENS_THR_FATAL.reg && e.2.1 == i).map fun e => e.2.2

/-- A sensor's thresholds and hysteresis that a sample uses: those before a write of the sample's own cycle (R505). -/
def State.thrFld (s : State) (f : Fld) (i : Nat) : Nat :=
  match s.thrTied i with
  | some w => f.get w
  | none => s.fld f i

/-- A sensor's threshold for a level. -/
def State.sensThr (s : State) (i level : Nat) : Nat :=
  s.thrFld (if level = 1 then F.SXT_SENS_THR_WARN else if level = 2 then F.SXT_SENS_THR_CRIT else F.SXT_SENS_THR_FATAL) i

/-- A sample crosses a threshold: below it for a voltage sensor, above it for any other. -/
def crosses (kind : Nat) (v thr : Int) : Bool := if kind = sensVoltage then decide (v < thr) else decide (thr < v)

/-- A sample has returned past a threshold by the hysteresis (R505). -/
def returned (kind : Nat) (v thr hyst : Int) : Bool := if kind = sensVoltage then decide (thr + hyst ≤ v) else decide (v ≤ thr - hyst)

/-- The level of a sensor after a sample: the highest threshold crossed, or a level reached earlier that has not fallen. -/
def State.sensLevel (s : State) (kind i w : Nat) : Nat :=
  let old := s.fld F.SXT_SENS_DATA_LEVEL i
  let v := sensVal kind w
  let h : Int := s.thrFld F.SXT_SENS_THR_HYST i
  let holds := fun (k : Nat) =>
    let t := sensVal kind (s.sensThr i k)
    crosses kind v t || (decide (k ≤ old) && !returned kind v t h)
  (([3, 2, 1] : List Nat).find? holds).getD 0

/-- The counters of threshold crossings (R524). -/
def State.countCross (s : State) (kind idx old new : Nat) : State :=
  let s := if old < 1 ∧ 1 ≤ new then
      s.count (if kind = sensThermal then 0xF20 + idx else if kind = sensVoltage then 0xF80 else 0xF82) none 1 else s
  let s := if old < 2 ∧ 2 ≤ new then
      s.count (if kind = sensThermal then 0xF84 else if kind = sensVoltage then 0xF81 else 0xF83) none 1 else s
  if old < 3 ∧ new = 3 then s.count 0xF86 none 1 else s

/-- The entry and the ALERT cause of a level that a sensor has reached (R504, R511). -/
def State.sensReached (s : State) (kind idx w level : Nat) : State :=
  let i := sensIdx kind idx
  let s := s.logEvent (0x000F + level) level (toLe 1 kind ++ toLe 1 idx ++ toLe 2 w ++ toLe 2 (s.sensThr i level))
  s.raise (if level = 1 then F.SXT_ALERT_SENSOR_WARN else if level = 2 then F.SXT_ALERT_SENSOR_CRIT else F.SXT_ALERT_SENSOR_FATAL)

/-- A reading with its minimum and maximum since they were last read (R528). -/
def State.sensRead (s : State) (kind i w : Nat) : State :=
  let first := !s.sxt.seen.contains i
  let lo := s.fld F.SXT_SENS_DATA_MIN i
  let hi := s.fld F.SXT_SENS_DATA_MAX i
  let s := s.setFld F.SXT_SENS_DATA_READING w i
  let s := if first || decide (sensVal kind w < sensVal kind lo) then s.setFld F.SXT_SENS_DATA_MIN w i else s
  let s := if first || decide (sensVal kind hi < sensVal kind w) then s.setFld F.SXT_SENS_DATA_MAX w i else s
  if first then { s with sxt := { s.sxt with seen := i :: s.sxt.seen } } else s

/-- One sensor's sample; a sensor without thresholds of its own crosses none. -/
def State.sensSample (s : State) (known : List Nat) (kind idx w : Nat) : State :=
  let i := sensIdx kind idx
  let s := s.sensRead kind i w
  if known.contains i && s.thrTied i != some 0 then
    let old := s.fld F.SXT_SENS_DATA_LEVEL i
    let new := s.sensLevel kind i w
    let s := (s.setFld F.SXT_SENS_DATA_LEVEL new i).countCross kind idx old new
    if old < new then s.sensReached kind idx w new else s
  else s

/-- The refresh rate of a stack by its two sensors: doubled above 85 °C, normal again below 83 °C (R602). -/
def State.refreshRate (s : State) (k : Nat) : State :=
  let t := fun j => sensVal sensThermal (s.fld F.SXT_SENS_DATA_READING (sensIdx sensThermal (80 + 2 * k + j)))
  let on := bit s.sxt.fast k
  let want := if on then !(decide (t 0 < 1328) && decide (t 1 < 1328)) else decide (1360 < t 0) || decide (1360 < t 1)
  if want = on then s
  else { s with sxt := { s.sxt with fast := putBit s.sxt.fast k want } }.count (0xEA8 + 12 * k) none 1

/-- crit_active: a thermal or current sensor stands at CRIT (R505, R534). -/
def State.critActive (s : State) : Bool :=
  allSensors.any fun p => p.1 != sensVoltage && decide (2 ≤ s.fld F.SXT_SENS_DATA_LEVEL (sensIdx p.1 p.2))

/-- Since when crit_active has been 1 with D at 0 (R536). -/
def State.holdSince (s : State) : State :=
  { s with pow := { s.pow with
      zeroAt := if s.flag F.PMC_STATUS_CRIT_ACTIVE && s.fld F.PMC_STATUS_DUTY == 0 then some (s.pow.zeroAt.getD s.now) else none } }

/-- The highest level, and since when it has been below CRIT (R506, R528). -/
def State.sensTop (s : State) : State :=
  let top := maxList (allSensors.map fun p => s.fld F.SXT_SENS_DATA_LEVEL (sensIdx p.1 p.2))
  let s := ((s.setFld F.SXT_STATUS_LEVEL top).setFld F.PMC_STATUS_CRIT_ACTIVE (b2n s.critActive)).holdSince
  { s with sxt := { s.sxt with belowAt := if 2 ≤ top then none else some (s.sxt.belowAt.getD s.now) } }

/-- A FATAL trip: the always-on hardware removes power from every other section (R504). -/
def State.fatalTrip (s : State) : State :=
  let s := (s.endService false).railsOff true
  { s with sxt := { s.sxt with fatal := true } }

/-- SENSOR_SAMPLE: the readings of every sensor, in the order thermal, voltage, current. -/
def State.sensors (s : State) (readings : List Nat) : State :=
  if s.awake then
    let s := s.advanceTo (s.sxt.sampleAt + 250 * usec)
    let s := { s with sxt := { s.sxt with sampleAt := s.now } }
    let known := s.indices F.SXT_SENS_THR_WARN.reg
    let was := allSensors.filter fun p => s.fld F.SXT_SENS_DATA_LEVEL (sensIdx p.1 p.2) == 3
    let t := (allSensors.zip readings).foldl (fun (s : State) (p : (Nat × Nat) × Nat) => s.sensSample known p.1.1 p.1.2 (p.2 % 2 ^ 16)) s
    let t := ((rangeFrom 0 8).foldl State.refreshRate t).sensTop
    let now := allSensors.filter fun p => t.fld F.SXT_SENS_DATA_LEVEL (sensIdx p.1 p.2) == 3
    if now.all was.contains then t else t.fatalTrip
  else s

def execSensorSample (readings : List Nat) (s : State) : Host.Outcome State Fault Refusal := .next (s.sensors readings)

/-! ### The log's mirror (R508) -/

/-- The entries of a sector of the mirror, and its sectors. -/
def sectorSize : Nat := 1024
def sectorCount : Nat := 240

/-- The mirror with an entry written at its place: the first entry of a sector erases the next sector. -/
def LogUnit.mirrorPut (l : LogUnit) (e : LogEntry) : LogUnit :=
  let k := e.seq % mirrorSize
  let m := if e.seq % sectorSize = 0 then
      let next := (k / sectorSize + 1) % sectorCount
      l.mirror.filter fun (p : Nat × LogEntry) => p.1 / sectorSize != next
    else l.mirror
  { l with mirror := Tab.set m k e }

/-- The waiting entries, oldest first. -/
def LogUnit.queue (l : LogUnit) : List LogEntry := l.sram.drop (l.sram.length - l.waiting)

/-- The state with the first n waiting entries written to the flash. -/
def State.mirrorWrite (s : State) (n : Nat) (flashOk : Bool) : State :=
  let q := s.log.queue.take n
  match q.getLast? with
  | none => s
  | some last =>
    if !flashOk then s.flashFails
    else
      let sectors := (q.map fun e => e.seq % mirrorSize / sectorSize).eraseDups.length
      let l := q.foldl LogUnit.mirrorPut s.log
      ({ s with log := { l with waiting := s.log.queue.length - q.length } }.setFld F.SXT_LOG_MIRRORED_SEQ last.seq).count 0xF89 none sectors

/-- When an entry is due in the flash. -/
def LogEntry.due (e : LogEntry) : Nat := e.madeAt + (if 2 ≤ e.sev then 10 * msec else 1000 * msec)

/-- A degraded log's next append, in order, at most 2,000 a second (R510). -/
def State.degradedAppend (s : State) (flashOk : Bool) : State :=
  match (if s.log.flashDead then none else s.log.regRing.find? fun (p : LogEntry × Bool) => !p.2) with
  | none => s
  | some p =>
    let s := s.advanceTo (s.sxt.mirrorAt + 500 * usec)
    let s := { s with sxt := { s.sxt with mirrorAt := s.now } }
    if !flashOk then s.flashFails
    else
      let l := s.log.mirrorPut p.1
      let ring := l.regRing.map fun (x : LogEntry × Bool) => if x == p then (p.1, true) else x
      ({ s with log := { l with regRing := ring } }.setFld F.SXT_LOG_MIRRORED_SEQ p.1.seq).count 0xF89 none 1

/-- LOG_MIRROR_WRITE: everything when 256 entries wait, and otherwise every entry up to the one that is due. -/
def State.mirrorDue (s : State) (flashOk : Bool) : State :=
  s.coresServe fun s =>
    if s.log.degraded then s.degradedAppend flashOk
    else
      let q := s.log.queue
      if 256 ≤ q.length then s.mirrorWrite q.length flashOk
      else match minBy (fun (e : LogEntry) => [LogEntry.due e]) q with
        | none => s
        | some e =>
          let s := s.advanceTo (LogEntry.due e)
          let late := (q.reverse.dropWhile fun x => decide (s.now < LogEntry.due x)).length
          s.mirrorWrite late flashOk

def execLogMirrorWrite (flashOk : Bool) (s : State) : Host.Outcome State Fault Refusal := .next (s.mirrorDue flashOk)

/-- MIRROR_NOW: every waiting entry (R528). -/
def State.mirrorNow (s : State) (flashOk : Bool) : State :=
  s.coresServe fun s => if s.log.degraded then s.degradedAppend flashOk else s.mirrorWrite s.log.queue.length flashOk

def execMirrorNow (flashOk : Bool) (s : State) : Host.Outcome State Fault Refusal := .next (s.mirrorNow flashOk)

/-- LOG_FAILED: the log's SRAM is lost, and with it the entries that wait (R510). -/
def State.logFails (s : State) : State :=
  if s.awake && !s.log.degraded then
    let lost := s.log.queue.length
    let top := s.fld F.SXT_LOG_MIRRORED_SEQ
    let s := { s with log := { s.log with sram := [], waiting := 0, degraded := true, regRing := [], flashDead := false } }
    let s := s.logEvent 0x0001 2 (toLe 8 top ++ toLe 4 lost)
    (s.setFld F.SXT_STATUS_LOG_DEGRADED 1).raise F.SXT_ALERT_LOG_DEGRADED
  else s

def execLogFailed (s : State) : Host.Outcome State Fault Refusal := .next s.logFails

/-! ### Reading an entry (R507, R509) -/

/-- The bytes of a log entry. -/
def logBytes (e : LogEntry) : List Byte :=
  let head := toLe 8 e.seq ++ toLe 6 e.sec ++ toLe 4 e.ns ++ toLe 1 (b2n e.timeValid + 2 * b2n e.fault) ++ toLe 1 e.sev ++ toLe 4 e.uptimeMs
  let body := if e.fault then e.body else toLe 2 e.cause ++ e.body
  let b := head ++ (body ++ List.replicate 32 0).take 32 ++ List.replicate 4 0
  b ++ toLe 4 (crc32c b)

/-- The registers SXT_LOG_DATA0 to SXT_LOG_DATA7. -/
def logDataReg (k : Nat) : Nat := F.SXT_LOG_DATA0_DATA.reg + 8 * k

/-- LOG_SEL_WRITE: the fetch of an entry starts. -/
def State.logSel (s : State) (v : Nat) : State :=
  let s := s.setFld F.SXT_LOG_SEL_SEQ v
  let s := { s with log := { s.log with fetch := some (v % 2 ^ 64) } }
  (s.setFld F.SXT_LOG_STAT_BUSY 1).setFld F.SXT_LOG_STAT_PRESENT 0

def execLogSelWrite (value : Nat) (s : State) : Host.Outcome State Fault Refusal :=
  .next (if s.awake then s.logSel value else s)

/-- An entry that the device still has: from its own ring, or from the flash. -/
def State.logFind (s : State) (seq : Nat) : Option (LogEntry × Bool) :=
  let own := if s.log.degraded then (s.log.regRing.map (·.1)) else s.log.sram
  match own.find? fun (e : LogEntry) => e.seq == seq with
  | some e => some (e, false)
  | none =>
    match (if s.alm.flashOk then Tab.get? s.log.mirror (seq % mirrorSize) else none) with
    | none => none
    | some e => if e.seq = seq then some (e, true) else none

/-- LOG_FETCH_DONE: the entry is in the data registers, or PRESENT stays 0. -/
def State.logFetch (s : State) (crcOk : Bool) : State :=
  match s.log.fetch with
  | none => s
  | some v =>
    let s := { s with log := { s.log with fetch := none } }.setFld F.SXT_LOG_STAT_BUSY 0
    match s.logFind v with
    | none => s.setFld F.SXT_LOG_STAT_PRESENT 0
    | some (e, nvm) =>
      if !crcOk then s.setFld F.SXT_LOG_STAT_PRESENT 0
      else
        let b := logBytes e
        let s := (rangeFrom 0 8).foldl (fun (s : State) k => s.setReg (logDataReg k) 0 (BitVec.ofNat 64 (fieldAt b (8 * k) 8))) s
        (s.setFld F.SXT_LOG_STAT_PRESENT 1).setFld F.SXT_LOG_STAT_FROM_NVM (b2n nvm)

def execLogFetchDone (crcOk : Bool) (s : State) : Host.Outcome State Fault Refusal := .next (s.logFetch crcOk)

/-! ### PLDM (R513) -/

/-- Completion codes of DSP0267 (log entry 37). -/
def pldmNotInUpdate : Nat := 0x80
def pldmAlreadyInUpdate : Nat := 0x81
def pldmIncomplete : Nat := 0x85
def pldmRetry : Nat := 0x8E

/-- A request of the update agent, served only while an update runs. -/
def State.pldmReq (s : State) (f : State → PldmUpdate → State) : State :=
  s.sxtServe fun s =>
    match s.alm.pldm with
    | none => s.send (.pldm pldmNotInUpdate [])
    | some p =>
      let p : PldmUpdate := { p with lastAt := s.now }
      f { s with alm := { s.alm with pldm := some p } } p

/-- REQUEST_UPDATE. -/
def State.pldmStart (s : State) : State :=
  let s := s.count 0xF9A none 1
  if s.alm.pldm.isSome then s.send (.pldm pldmAlreadyInUpdate [])
  else match s.lockedBy tokUpdate [] with
    | some h => (s.lockRefused tokUpdate h).send (.pldm pldmRetry [])
    | none =>
      let s := { s with alm := { s.alm with pldm := some ⟨[], s.now⟩ } }.takeToken tokUpdate
      ((s.setFld F.SXT_STATUS_PLDM_ACTIVE 1).logEvent 0x0050 0 (toLe 1 0 ++ toLe 1 0)).send (.pldm 0 [])

def execRequestUpdate (s : State) : Host.Outcome State Fault Refusal := .next (s.sxtServe State.pldmStart)

/-- The kind of image that a component is. -/
def componentKind (c : Nat) : Nat := if c = 1 then kindFw else kindCfg

/-- PLDM_TRANSFER: a part of a component, and with the last part the image; the staged slot takes the writes (R495). -/
def State.pldmTransfer (s : State) (component : Nat) (image : Option Image) (flashOk : Bool) : State :=
  s.pldmReq fun s p =>
    let s := s.count 0xF8C none 1
    let s := match s.stageSlot with
      | none => s
      | some slot => (s.slotTorn slot).stagedHdr slot false
    let others := p.images.filter fun (i : Image) => i.kind != componentKind component
    let images := if flashOk then others ++ (image.filter fun (i : Image) => i.kind == componentKind component).toList else others
    let s := { s with alm := { s.alm with pldm := some { p with images := images } } }
    if flashOk then s.send (.pldm 0 []) else s.flashFails.send (.pldm almFlashError [])

def execPldmTransfer (component : Nat) (image : Option Image) (flashOk : Bool) (s : State) : Host.Outcome State Fault Refusal :=
  .next (s.pldmTransfer component image flashOk)

/-- The status of a verification, and the slot written. -/
def State.pldmCheck (s : State) (p : PldmUpdate) : State × Nat :=
  match s.stageSlot, stagePair (sortBy (fun a b : Image => decide (a.kind ≤ b.kind)) p.images) with
  | none, _ => (s, almNoStaged)
  | _, none => (s, almSigInvalid)
  | some slot, some q =>
    let r := s.writeSlot slot q true
    (r.1.stagedHdr slot (r.2.1 == almOk), r.2.1)

/-- VERIFY_COMPLETE: the load checks, and their status as the result. -/
def State.pldmVerify (s : State) : State :=
  s.pldmReq fun s p =>
    let r := s.pldmCheck p
    (r.1.logEvent 0x0050 0 (toLe 1 1 ++ toLe 1 r.2)).send (.pldm r.2 [])

def execVerifyComplete (s : State) : Host.Outcome State Fault Refusal := .next s.pldmVerify

/-- The staged slot applied; the next device reset boots it in trial. In recovery mode the slot is already CUR (R493). -/
def State.pldmApply (s : State) : State :=
  let s := if s.pow.life = .recovery then s else s.activateRow
  ((s.count 0xF9B none 1).pldmEnd 2 0).send (.pldm 0 [])

/-- ACTIVATE_FIRMWARE: a live update when it is self-contained. -/
def State.pldmActivate (s : State) (selfContained : Bool) : State :=
  s.pldmReq fun s _ =>
    let ready := if s.pow.life = .recovery then (s.flashSlot s.alm.hdr.cur).ok else s.canActivate
    if !ready || s.alm.upd.isSome then s.send (.pldm pldmIncomplete [])
    else if selfContained && s.running then
      let r := s.liveStart s.alm.hdr.staged false true
      r.1.send (.pldm r.2 [])
    else s.pldmApply

def execActivateFirmware (selfContained : Bool) (s : State) : Host.Outcome State Fault Refusal := .next (s.pldmActivate selfContained)

/-- CANCEL_UPDATE; once its live update runs there is nothing left to cancel. -/
def execCancelUpdate (s : State) : Host.Outcome State Fault Refusal :=
  .next (s.pldmReq fun s _ => if s.alm.upd.isSome then s.send (.pldm pldmIncomplete []) else s.pldmCancel.send (.pldm 0 []))

/-- PLDM_TIMEOUT: 120 s without a request. -/
def State.pldmTimeout (s : State) : State :=
  match s.alm.pldm, s.alm.upd with
  | some p, none => s.sxtServe fun s => (s.advanceTo (p.lastAt + 120000 * msec)).pldmCancel
  | _, _ => s

def execPldmTimeout (s : State) : Host.Outcome State Fault Refusal := .next s.pldmTimeout

/-! ### The card's buses (R515 to R517) -/

/-- Bus port 1 is isolated. -/
def State.isolated (s : State) : Bool := s.flag F.SXT_BUS_CTRL_ISOLATED 1

/-- BUS_POLL: the listed devices' fault statuses, in order, 10 ms after the last poll. -/
def State.busPoll (s : State) (statuses : List Nat) : State :=
  if s.awake then
    let s := s.advanceTo (s.sxt.pollAt + 10 * msec)
    let s := { s with sxt := { s.sxt with pollAt := s.now } }
    if s.isolated then s
    else
      let l := ((cfgIdx s.cfg cfgCard).take 16).zip statuses
      (l.filter fun p => p.2 != 0).foldl (fun (s : State) p => s.logOpen (toLe 1 p.1 ++ toLe 4 p.2)) (s.count 0xF91 none l.length)
  else s

def execBusPoll (statuses : List Nat) (s : State) : Host.Outcome State Fault Refusal := .next (s.busPoll statuses)

/-- The recovery of bus port 1: SDA rises after a number of pulses from 1 to 9, or stays low through the ninth, after which a STOP raises
it or not. -/
def State.busRecover (s : State) (pulses : Option Nat) (afterStop : Bool) : State :=
  let s := s.setFld F.SXT_BUS_CTRL_ISOLATED 0 1
  let n := match pulses with
    | some n => max 1 (min 9 n)
    | none => 9
  if pulses.isSome || afterStop then (s.logEvent 0x0021 1 (toLe 1 1 ++ toLe 1 n)).count 0xF93 none 1
  else
    let s := (s.logEvent 0x0020 2 (toLe 1 1 ++ toLe 1 n)).count 0xF8E none 1
    let s := (s.raise F.SXT_ALERT_BUS_STUCK).setFld F.SXT_BUS_CTRL_ISOLATED 1 1
    s.satFld F.SXT_BUS_CTRL_STUCK_COUNT 1 1

/-- BUS_RECOVERY: the port leaves a reset in the middle of a byte, or finds SDA low; an isolated port stays as it is. -/
def execBusRecovery (pulses : Option Nat) (afterStop : Bool) (s : State) : Host.Outcome State Fault Refusal :=
  .next (if s.awake && !s.isolated then s.busRecover pulses afterStop else s)

/-- RECOVER, which an isolated port takes too. -/
def State.busAgain (s : State) (pulses : Option Nat) (afterStop : Bool) : State :=
  if s.awake then s.busRecover pulses afterStop else s

def execRecover (pulses : Option Nat) (afterStop : Bool) (s : State) : Host.Outcome State Fault Refusal :=
  .next (s.busAgain pulses afterStop)

/-- SCL_LOW_TIMEOUT: bus port 0 abandons the transfer (R517). -/
def execSclLowTimeout (s : State) : Host.Outcome State Fault Refusal := .next (if s.awake then s.count 0xF92 none 1 else s)

/-! ### JTAG (R518) -/

/-- The instructions of the TAP. -/
def tapBypass : Nat := 0
def tapIdcode : Nat := 1
def tapSample : Nat := 2
def tapExtest : Nat := 3
def tapClamp : Nat := 4
def tapHighz : Nat := 5

/-- BYPASS: one bit, captured as 0, between TDI and TDO. -/
def State.tapBypassed (s : State) : State := { s with sxt := { s.sxt with tap := tapBypass } }.send (.tdo 1 0)

def execBypass (s : State) : Host.Outcome State Fault Refusal := .next (if s.awake then s.tapBypassed else s)

/-- IDCODE: the manual gives no value for the 32 bits (log entry 2). -/
def execIdcode (s : State) : Host.Outcome State Fault Refusal :=
  .next (if s.awake then
    let f := s.fresh 32
    { f.2 with sxt := { f.2.sxt with tap := tapIdcode } }.send (.tdo 32 f.1)
  else s)

def execSamplePreload (s : State) : Host.Outcome State Fault Refusal :=
  .next (if s.awake then { s with sxt := { s.sxt with tap := tapSample } } else s)

/-- EXTEST, CLAMP and HIGHZ take effect in RECOVERY, and act as BYPASS in every other state. -/
def State.tapOnly (s : State) (code : Nat) : State :=
  if !s.awake then s
  else if s.fld F.GLB_STATUS_BOOT_STATE = bootRecovery then { s with sxt := { s.sxt with tap := code } }
  else s.tapBypassed

def execExtest (s : State) : Host.Outcome State Fault Refusal := .next (s.tapOnly tapExtest)
def execClamp (s : State) : Host.Outcome State Fault Refusal := .next (s.tapOnly tapClamp)
def execHighz (s : State) : Host.Outcome State Fault Refusal := .next (s.tapOnly tapHighz)

end Sys2Proof.Machine
end

