-- ==== Sys2Proof/Machine/Maint.lean ====
section
/-! DEFINITION. Maintenance commands (R521, R522), event counters (R523 to R526) and snapshots (R527). -/

namespace Sys2Proof.Machine

/-! ### Starting a maintenance command (R519 to R522) -/

/-- Statuses of R522. -/
def stBusyConflict : Nat := 0x9C
def stWindowRefused : Nat := 0xA0
def stUnitInvalid : Nat := 0xA1
def stTestFailed : Nat := 0xA2

/-- The links of the PCIe slot (R353). -/
def State.pcieLinks (s : State) : Nat := if s.flag F.PCI_CAP_BIFURCATE then 2 else 1

/-- The unit that a maintenance command names is in range and not disabled. -/
def State.maintUnitOk (s : State) (op kind idx : Nat) : Bool :=
  match op with
  | 0x60 => !s.unitOff ⟨ucCol, idx⟩
  | 0x61 => decide (kind < 3) && decide (idx < if kind = 0 then 8 else 4) && !s.unitOff ⟨ucDec + kind, idx⟩
  | 0x63 =>
    if kind = 0 then decide (idx < 8) && !s.unitOff ⟨ucEth, idx⟩
    else if kind = 1 then decide (idx < 4) && !s.unitOff ⟨ucRhumb, idx⟩
    else kind == 2 && decide (idx < s.pcieLinks)
  | _ => s.stackOn idx

/-- The kind and index of a maintenance command's payload. -/
def maintKind (op : Nat) (b : List Byte) : Nat := if op = 0x61 ∨ op = 0x63 then fieldAt b 16 1 else 0
def maintIdx (op : Nat) (b : List Byte) : Nat :=
  if op = 0x60 then fieldAt b 16 1 % 64 else if op = 0x61 ∨ op = 0x63 then fieldAt b 17 1 else fieldAt b 16 1 % 8

/-- What is left without the unit serves: an Ochre window that admission allows, or R203 without an engine (R190, R521). -/
def State.maintRoom (s : State) (op : Nat) : Bool :=
  if op = 0x60 then decide (0 < s.mapC) && s.admitNow.pass else if op = 0x61 then s.radioSums else true

/-- A maintenance command that starts takes its token, and is refused where its unit, the lock or the capacity does not allow it. -/
def State.maintStart (s : State) (op g cid : Nat) : State :=
  match s.startable g cid op with
  | none => s
  | some f =>
    let kind := maintKind op f.body
    let idx := maintIdx op f.body
    let tok := op - 0x5F
    if !s.maintUnitOk op kind idx then s.complete g cid (maintPayload stUnitInvalid 0 false)
    else match s.lockedBy tok [] with
      | some h => (s.lockRefused tok h).complete g cid (maintPayload stBusyConflict 0 false)
      | none =>
        let m : MaintCmd := ⟨g, cid, op, kind, idx, op == 0x60 || op == 0x61, s.now⟩
        let t := { s.noteMap with sxt := { s.sxt with maint := s.sxt.maint ++ [m] } }.takeToken tok
        let t := if op = 0x60 then t.noteOutcome (t.maintRoom op) else t
        if t.maintRoom op then t.stageCmd g f .started else t.maintEnd m stWindowRefused 0 false

def execTileTest (ring cid : Nat) (s : State) : Host.Outcome State Fault Refusal := .next (s.maintStart 0x60 ring cid)
def execEngineTest (ring cid : Nat) (s : State) : Host.Outcome State Fault Refusal := .next (s.maintStart 0x61 ring cid)
def execHbmCal (ring cid : Nat) (s : State) : Host.Outcome State Fault Refusal := .next (s.maintStart 0x62 ring cid)
def execSerdesCal (ring cid : Nat) (s : State) : Host.Outcome State Fault Refusal := .next (s.maintStart 0x63 ring cid)
def execScrubSweep (ring cid : Nat) (s : State) : Host.Outcome State Fault Refusal := .next (s.maintStart 0x64 ring cid)

/-- MAINT_ABORT: the target on the same ring stops, and its unit is back. -/
def State.maintAbort (s : State) (g cid : Nat) : State :=
  match s.startable g cid 0x6F with
  | none => s
  | some f =>
    match s.sxt.maint.find? fun m => m.ring == g && m.cid == fieldAt f.body 16 2 with
    | none => s.complete g cid (maintPayload stNotFound 0 false)
    | some m => (s.maintEnd m stAborted 0 false).complete g cid (maintPayload stOk 0 false)

def execMaintAbort (ring cid : Nat) (s : State) : Host.Outcome State Fault Refusal := .next (s.maintAbort ring cid)

/-! ### Completing one (R522) -/

/-- The unit of a maintenance command, where the disabled-unit map holds one. -/
def MaintCmd.target (m : MaintCmd) : Option DevUnit :=
  if m.op = 0x60 ∨ m.op = 0x61 then some m.unit
  else if m.op = 0x62 then some ⟨ucStack, m.idx⟩
  else if m.op = 0x63 ∧ m.kind = 0 then some ⟨ucEth, m.idx⟩
  else if m.op = 0x63 ∧ m.kind = 1 then some ⟨ucRhumb, m.idx⟩
  else none

/-- A maintenance command that has run: its unit is restored, or on a failure enters the map and stays out, with a cause that is open (log
entry 2). -/
def State.maintRan (s : State) (m : MaintCmd) (passed : Bool) (errors : Nat) (ce ue : List Nat) : State :=
  if m.op = 0x64 then (s.sweep m.idx ce ue).maintEnd m stOk (ce.length + ue.length) false
  else
    let s := if m.op = 0x62 then s.count (0xEA0 + 12 * m.idx + 9) none 1 else s
    if passed then s.maintEnd m stOk errors false
    else match m.target with
      | none => s.maintEnd m stTestFailed errors false
      | some u =>
        let c := s.fresh 16
        ((c.2.maintOver m).unitLost u c.1).complete m.ring m.cid (maintPayload stTestFailed errors true)

/-- MAINT_COMPLETE. -/
def State.maintComplete (s : State) (g cid : Nat) (passed : Bool) (errors : Nat) (ce ue : List Nat) : State :=
  match s.sxt.maint.find? fun m => m.ring == g && m.cid == cid with
  | none => s
  | some m => s.maintRan m passed errors ce ue

def execMaintComplete (ring cid : Nat) (passed : Bool) (errors : Nat) (ce ue : List Nat) (s : State) : Host.Outcome State Fault Refusal :=
  .next (s.maintComplete ring cid passed errors ce ue)

/-! ### The operator's counters (R523, R525) -/

/-- The sources of class D, and the end of the sources (R524). -/
def classD (src : Nat) : Bool := decide (src < 0x180)
def srcEnd : Nat := 0xFA0
def evcCount : Nat := 512

def evcSourceClass : Nat := 0x09
def evcNoCounter : Nat := 0x0A
def evcLimit : Nat := 0x0B

/-- A counter programmed. -/
def State.setEvc (s : State) (k : Nat) (e : Evc) : State := { s with evcs := Tab.set s.evcs k e }.count 0xF9E none 1

/-- The counters of a domain, by number. -/
def State.domEvcs (s : State) (d : Nat) : Tab Evc := s.evcs.filter fun e => e.2.dom == some d

/-- What a programming request does, and its STATUS; the source is checked where the request selects one. -/
def State.evcApply (s : State) (k src : Nat) (on : Bool) : State × Nat :=
  if on && (classD src || decide (srcEnd ≤ src)) then (s, evcSourceClass)
  else if (match Tab.get? s.evcs k with
    | some e => e.dom.isSome
    | none => false) then (s, evcNoCounter)
  else if on then (s.setEvc k (Evc.start src none s.now), 0)
  else ({ s with evcs := Tab.del s.evcs k }, 0)

/-- EVC_CFG written: SOURCE and ENABLE, and with GO the request, served by the Sextant's cores. -/
def State.evcCfgWrite (s : State) (v : Nat) : State :=
  let k := s.fld F.EVC_SEL_COUNTER
  let w := BitVec.ofNat 64 v
  let s := (s.setFld F.EVC_CFG_SOURCE (F.EVC_CFG_SOURCE.get w) k).setFld F.EVC_CFG_ENABLE (F.EVC_CFG_ENABLE.get w) k
  if F.EVC_CFG_GO.get w = 1 then
    (s.setFld F.EVC_CFG_BUSY 1 k).coresServe fun s =>
      let p := s.evcApply k (F.EVC_CFG_SOURCE.get w) (F.EVC_CFG_ENABLE.get w == 1)
      (p.1.setFld F.EVC_CFG_BUSY 0 k).setFld F.EVC_CFG_STATUS p.2 k
  else s

def execEvcProgram (value : Nat) (s : State) : Host.Outcome State Fault Refusal := .next (s.evcCfgWrite value)

/-- EVC_CTRL written: FREEZE takes effect for every operator counter at once. -/
def State.evcCtrlWrite (s : State) (v : Nat) : State :=
  let w := BitVec.ofNat 64 v
  (s.setFld F.EVC_CTRL_DOMAIN_LIMIT (min evcCount (F.EVC_CTRL_DOMAIN_LIMIT.get w))).setFld F.EVC_CTRL_FREEZE (F.EVC_CTRL_FREEZE.get w)

def execFreeze (value : Nat) (s : State) : Host.Outcome State Fault Refusal := .next (s.evcCtrlWrite value)

/-! ### The domains' counters (R526) -/

/-- EVC_ALLOC. -/
def State.evcAlloc (s : State) (d : Nat) (b : List Byte) : State × Nat × List Byte :=
  let src := fieldAt b 2 2
  if !reqOk b 0x0100 [(2, 2)] || decide (4096 ≤ src) then (s, ksArgInvalid, [])
  else if !classD src then (s, evcSourceClass, [])
  else match Tab.lowestFree s.evcs 0 evcCount with
    | none => (s, evcNoCounter, [])
    | some k =>
      if s.fld F.EVC_CTRL_DOMAIN_LIMIT ≤ (s.domEvcs d).length then (s, evcLimit, [])
      else (s.setEvc k (Evc.start src (some d) s.now), ksOk, toLe 2 k)

def execEvcAlloc (session : Nat) (aeadOk : Bool) (req : List Byte) (s : State) : Host.Outcome State Fault Refusal :=
  .next (s.keyOp session aeadOk fun s d => s.evcAlloc d req)

/-- A counter is the domain's own. -/
def State.ownsEvc (s : State) (d k : Nat) : Bool := Tab.has (s.domEvcs d) k

/-- EVC_FREE. -/
def State.evcFree (s : State) (d : Nat) (b : List Byte) : State × Nat × List Byte :=
  let k := fieldAt b 2 2
  if !reqOk b 0x0101 [(2, 2)] || decide (evcCount ≤ k) then (s, ksArgInvalid, [])
  else if !s.ownsEvc d k then (s, evcNoCounter, [])
  else ({ s with evcs := Tab.del s.evcs k }, ksOk, [])

def execEvcFree (session : Nat) (aeadOk : Bool) (req : List Byte) (s : State) : Host.Outcome State Fault Refusal :=
  .next (s.keyOp session aeadOk fun s d => s.evcFree d req)

/-- A domain's snapshot. -/
def State.snap (s : State) (d : Nat) : Snap := Tab.getD s.sxt.snaps d ⟨0, 0, 0, 0, false⟩
def State.setSnap (s : State) (d : Nat) (x : Snap) : State := { s with sxt := { s.sxt with snaps := Tab.set s.sxt.snaps d x } }

/-- The counters that EVC_READ names. -/
def evcNames (b : List Byte) : List Nat := (rangeFrom 0 (fieldAt b 2 1)).map fun i => fieldAt b (8 + 2 * i) 2

/-- EVC_READ, which reports once that the domain's snapshot has stopped of itself. -/
def State.evcRead (s : State) (sid d : Nat) (b : List Byte) : State :=
  let n := fieldAt b 2 1
  if !reqOk b 0x0102 [(2, 1), (8, 32)] || n == 0 || decide (16 < n) || (evcNames b).any (fun k => decide (evcCount ≤ k)) then
    s.keyAnswer sid (some d) ksArgInvalid 0 []
  else if !(evcNames b).all (s.ownsEvc d) then s.keyAnswer sid (some d) evcNoCounter 0 []
  else
    let x := s.snap d
    let vals := (evcNames b).flatMap fun k => toLe 8 (match Tab.get? s.evcs k with
      | some e => e.read s.now
      | none => 0)
    let t := if x.stopped then s.setSnap d { x with stopped := false } else s
    t.keyAnswer sid (some d) ksOk (b2n x.stopped) vals

def execEvcRead (session : Nat) (aeadOk : Bool) (req : List Byte) (s : State) : Host.Outcome State Fault Refusal :=
  .next (s.secured session aeadOk fun s x => match x.dom with
    | none => s.keyAnswer session none ksNotBound 0 []
    | some d => s.evcRead session d req)

/-- EVC_SNAPSHOT: periodic snapshots begin, or stop with a period of 0. -/
def State.evcSnapshot (s : State) (d : Nat) (b : List Byte) : State × Nat × List Byte :=
  if !reqOk b 0x0103 [(8, 10)] || fieldAt b 8 8 % 64 != 0 then (s, ksArgInvalid, [])
  else (s.setSnap d ⟨fieldAt b 8 8, fieldAt b 16 2, (s.snap d).seq, s.now, false⟩, ksOk, [])

def execEvcSnapshot (session : Nat) (aeadOk : Bool) (req : List Byte) (s : State) : Host.Outcome State Fault Refusal :=
  .next (s.keyOp session aeadOk fun s d => s.evcSnapshot d req)

/-- A snapshot record (R527). -/
def State.snapRecord (s : State) (d seq : Nat) : List Byte :=
  let l := s.domEvcs d
  toLe 8 seq ++ toLe 6 s.sec ++ toLe 4 s.ns ++ toLe 2 l.length ++ List.replicate 44 0
    ++ (l.flatMap fun e => toLe 2 e.1 ++ toLe 2 e.2.src ++ toLe 4 0 ++ toLe 8 (e.2.read s.now)) ++ toLe 8 seq

/-- SNAPSHOT_RECORD, PERIOD_MS after the last: a record beyond the domain's space is not written and stops the snapshot. -/
def State.snapshot (s : State) (d : Nat) : State :=
  let x := s.snap d
  if x.period = 0 then s
  else
    let s := s.advanceTo (x.lastAt + x.period * msec)
    s.coresServe fun s =>
      let b := s.snapRecord d x.seq
      match s.hbmFault d x.off b.length false with
      | none => ((s.storeData d x.off b).setSnap d { x with seq := (x.seq + 1) % 2 ^ 64, lastAt := s.now }).count 0xF9F none 1
      | some c =>
        if c = causePageBounds then s.setSnap d { x with period := 0, stopped := true }
        else (s.hbmNote c).setSnap d { x with lastAt := s.now }

def execSnapshotRecord (dom : Nat) (s : State) : Host.Outcome State Fault Refusal := .next (s.snapshot (dom % 128))

end Sys2Proof.Machine
end

