-- ==== Sys2Proof/Machine/Power.lean ====
section
/-! DEFINITION. PLL losses (R531), budget enforcement (R534 to R538), and sleep and wake (R539 to R542). -/

namespace Sys2Proof.Machine

/-! ### PLLs (R530, R531) -/

/-- A PLL runs. SXT runs while the Sextant's cores do (R501, R543). -/
def State.pllRuns (s : State) (p : Nat) : Bool :=
  if p = pllSxt then decide (s.fld F.SXT_STATUS_CORE_STATE = 1) || decide (s.fld F.SXT_STATUS_CORE_STATE = 2)
  else bit (s.fld F.PMC_STATUS_PLL_RUN) p

/-- The units clocked by a PLL that the disabled-unit map holds. -/
def pllUnits (p : Nat) : List DevUnit :=
  let all := fun (cls : Nat) => match mapPlace cls with
    | none => []
    | some (_, _, n) => (rangeFrom 0 n).map fun i => (⟨cls, i⟩ : DevUnit)
  if p = pllArr then all ucRow
  else if p = pllRad then [ucDec, ucEnc, ucPolar, ucEq, ucDemap, ucHarq, ucTdfe, ucPrach, ucDecomp].flatMap all
  else if p = pllPort then all ucEth ++ all ucRhumb
  else []

/-- Units entered in the runtime layer together: one change of the map, or the array section disabled (R98, R578). -/
def State.mapDisables (s : State) (l : List DevUnit) (cause : Nat) : State :=
  { s.noteMap with
    mapRun := l.foldl (fun (t : Tab Nat) (u : DevUnit) => if Tab.has t u.key then t else Tab.set t u.key cause) s.mapRun }.mapApply

/-- The consequences of a PLL that does not relock (R531). -/
def State.pllGone (s : State) (p : Nat) : State :=
  let s := s.mapDisables (pllUnits p) 0x0503
  if p = pllArr then ((s.raise F.HLM_ERR_STATUS_CAPACITY_LOSS).markUncovered).shedDecision 2
  else if p = pllRad then ((s.raise F.RAD_ERR_STATUS_ENGINE_LOST).endUplink).shedAll 4
  else if p = pllPort then
    let s := (rangeFrom 0 8).foldl (fun (s : State) k => s.reformPort k none) s
    let s := (rangeFrom 0 4).foldl State.portDown s
    (rangeFrom 0 s.pcieLinks).foldl (fun (s : State) j => s.pcieLinkReset j 0 0) s
  else s.setFld F.SXT_STATUS_CORE_STATE 3

/-- PLL_LOCK_LOSS: the Sextant restarts the PLL once, and it relocks or not. -/
def State.pllLoss (s : State) (p : Nat) (relock : Bool) : State :=
  if !s.awake || !s.pllRuns p then s
  else if relock then (s.raise F.PMC_ERR_STATUS_PLL_RELOCK).logOpen (toLe 1 p)
  else
    let ends := p == pllNoc || p == pllIod
    let s := ((s.raise F.PMC_ERR_STATUS_PLL_FAIL).setPll p false).faultRecord
      { FaultRec.of 0x0503 (if ends || p == pllArr then 7 else 3) with ucls := ucPll, uidx := p }
    if ends then s.endService true else s.pllGone p

def execPllLockLoss (pll : Nat) (relock : Bool) (s : State) : Host.Outcome State Fault Refusal := .next (s.pllLoss (pll % 6) relock)

/-! ### Budget enforcement (R534 to R538) -/

/-- D. -/
def State.duty (s : State) : Nat := s.fld F.PMC_STATUS_DUTY

/-- PMC_LIMIT as a sample sees it: before the writes of the sample's own window (R538). -/
def State.limitSeen (s : State) : Word := s.pow.limitWas.getD (s.reg F.PMC_LIMIT_PKG_LIMIT_W.reg 0)

/-- The next D for a package power in milliwatts (R534). -/
def State.nextDuty (s : State) (mw : Nat) : Nat :=
  let lim := F.PMC_LIMIT_PKG_LIMIT_W.get s.limitSeen
  let guard_ := F.PMC_LIMIT_GUARD_W.get s.limitSeen
  if (lim - guard_) * 1000 < mw ∨ s.flag F.PMC_STATUS_CRIT_ACTIVE = true then s.duty * 3 / 4
  else if mw < (lim - 2 * guard_) * 1000 then min 256 (s.duty + 8)
  else s.duty

/-- D set, with the flag and the count of its falls (R524, R543). -/
def State.setDuty (s : State) (d : Nat) : State :=
  let old := s.duty
  let s := s.setFld F.PMC_STATUS_DUTY d
  let s := if d < 256 ∧ old = 256 then s.raise F.PMC_ERR_STATUS_THROTTLED else s
  if d < old then s.count 0xF85 none 1 else s

/-- When step 2 of R536 begins, while crit_active is 1 and D is 0. -/
def State.holdEnds (s : State) : Option Nat := s.pow.zeroAt.map fun t => t + s.fld F.PMC_LIMIT_CRIT_HOLD_MS * msec

/-- Every effective share falls to three quarters (R538). -/
def State.shrinkShares (s : State) : State := s.setShares fun d => s.fld F.PMC_STRICT_SHARE_EFF_W d * 3 / 4

/-- POWER_SAMPLE: the mean package power of the last 250 µs, in milliwatts. -/
def State.powerSample (s : State) (mw : Nat) : State :=
  if !s.running then s
  else
    let s := s.advanceTo (s.pow.sampleAt + 250 * usec)
    let w := min 2047 (mw / 1000)
    let s := s.setFld F.PMC_STATUS_PKG_W w
    let s := s.setFld F.PMC_STATUS_PEAK_W (max w (s.fld F.PMC_STATUS_PEAK_W))
    let s := s.setDuty (s.nextDuty mw)
    let late := match s.holdEnds with
      | some t => decide (t < s.now)
      | none => false
    let crit := s.flag F.PMC_STATUS_CRIT_ACTIVE
    let s := { s with pow := { s.pow with sampleAt := s.now, limitWas := none } }.holdSince
    if late && crit then s.shrinkShares else s

def execPowerSample (mw : Nat) (s : State) : Host.Outcome State Fault Refusal := .next (s.powerSample mw)

/-- CRIT_HOLD_EXPIRE: the strict shares begin to fall (R536). -/
def State.critHold (s : State) : State :=
  match s.holdEnds with
  | none => s
  | some t => if s.running && decide (s.now ≤ t) then (s.advanceTo t).shrinkShares else s

def execCritHoldExpire (s : State) : Host.Outcome State Fault Refusal := .next s.critHold

/-- A Meridian millisecond, at 2^−16 ns. -/
def ms16 : Nat := 1000000 * 65536

/-- ALLOWANCE_REFILL: the next 1,000 µs boundary of Meridian time (R535). -/
def State.refill (s : State) : State :=
  if !s.running then s
  else
    let s := s.untilTai ((s.tai16 / ms16 + 1) * ms16)
    let add : Int := ((s.duty * 1500000 / 256 : Nat) : Int)
    let s := s.setFld F.PMC_ALLOW_ARRAY_ALLOW (wrapInt (min s.allowA 0 + add) 32)
    let s := s.setFld F.PMC_ALLOW_VECTOR_ALLOW (wrapInt (min s.allowV 0 + add) 32)
    { s with pow := { s.pow with refillAt := s.now } }

def execAllowanceRefill (s : State) : Host.Outcome State Fault Refusal := .next s.refill

/-- PMC_LIMIT written: each field stored within its range, and a lower limit scales the strict shares at once; the samples see it from the next
window on (R538, R543; log entry 105). -/
def State.limitWrite (s : State) (v : Nat) : State :=
  let w := BitVec.ofNat 64 v
  let s := { s with pow := { s.pow with limitWas := some s.limitSeen } }
  let s := s.setFld F.PMC_LIMIT_PKG_LIMIT_W (max 630 (min 1100 (F.PMC_LIMIT_PKG_LIMIT_W.get w)))
  let s := s.setFld F.PMC_LIMIT_GUARD_W (max 5 (min 100 (F.PMC_LIMIT_GUARD_W.get w)))
  let s := s.setFld F.PMC_LIMIT_CRIT_HOLD_MS (max 1 (F.PMC_LIMIT_CRIT_HOLD_MS.get w))
  s.setShares fun d => min (s.fld F.PMC_STRICT_SHARE_EFF_W d) (s.shareAt d)

def execPkgLimitWrite (value : Nat) (s : State) : Host.Outcome State Fault Refusal := .next (s.limitWrite value)

/-! ### Units that sleep (R539, R543) -/

def slOn : Nat := 0
def slPrepare : Nat := 1
def slCommit : Nat := 2
def slOff : Nat := 3
def slWaking : Nat := 4

/-- A unit sleeps and wakes: the device is RUNNING, and no map layer disables the unit (R541). -/
def State.maySleep (s : State) (kind idx : Nat) : Bool :=
  s.running && (if kind = 0 then idx == 0 && !s.offline else match sleepDev kind idx with
    | some u => !s.unitOff u
    | none => false)

/-- A unit's state; one that nothing has woken, or that the map disables, is OFF. -/
def State.sleepOf (s : State) (kind idx : Nat) : SleepUnit :=
  if s.maySleep kind idx then Tab.getD s.pow.sleeps (sleepKey kind idx) ⟨slOff, 0, false⟩ else ⟨slOff, 0, false⟩
def State.setSleep (s : State) (kind idx : Nat) (u : SleepUnit) : State :=
  { s with pow := { s.pow with sleeps := Tab.set s.pow.sleeps (sleepKey kind idx) u } }

/-- PREPARE, the minimum dwell and wake to ready, by kind. -/
def prepareTime (kind : Nat) : Nat := (([100, 500, 1000, 200] : List Nat).getD kind 0) * nsec
def dwellTime (kind : Nat) : Nat := (([2, 10, 5, 2] : List Nat).getD kind 0) * usec
def wakeTime (kind : Nat) : Nat := (([120, 2000, 1000, 200] : List Nat).getD kind 0) * nsec

/-- A unit's idle time. -/
def State.idleTime (s : State) (kind : Nat) : Nat :=
  (if kind = 0 then s.fld F.TRK_WAKE_CTRL_IDLE_US else if kind = 1 then s.fld F.PMC_SLEEP_CTRL_RADIO_IDLE_US
   else if kind = 2 then s.fld F.PMC_SLEEP_CTRL_CORE_IDLE_US else s.fld F.PMC_SLEEP_CTRL_ENG_IDLE_US) * usec

/-- A DMA or fabric engine holds a descriptor or a tag. -/
def State.engineHolds (s : State) (idx : Nat) : Bool :=
  if idx < 16 then decide (0 < s.descUsed idx) || s.quar.any fun q => !q.fabric && q.engine == idx
  else s.fab.ops.any (fun o => o.2.engine == idx - 16) || s.quar.any fun q => q.fabric && q.engine == idx - 16

/-- A keep-awake condition of R539 holds. -/
def State.keepAwake (s : State) (kind idx : Nat) : Bool :=
  match kind with
  | 0 => s.flag F.TRK_WAKE_CTRL_HELM_HOLD || s.flag F.TRK_WAKE_CTRL_HOST_HOLD
  | 1 => s.cellRunning
  | 2 =>
    if 8 ≤ idx ∧ idx < 24 then s.cells.any fun p => p.2.st.held && p.2.orch == idx
    else if idx < 8 then s.runs.any fun p => servedBy s.seqCores p.1 == idx
    else s.rings.any fun p => servedBy s.queueCores p.1 == idx
  | _ => s.engineHolds idx

/-- The array has work in it (R102). -/
def State.arrayBusy (s : State) : Bool := !s.arr.cur.isEmpty || !s.arr.drain.isEmpty || s.vec.cur.isSome

/-- The wake groups as the array loses its power, or as it grants again 120 ns after its wake (R101). -/
def State.showGroups (s : State) (on : Bool) : State :=
  { s with pow := { s.pow with groups := if on then groupTimes (s.now - wakeTime 0) s.groupsOn else [] } }

/-! ### Going to sleep (R540) -/

/-- When a unit that is ON has been idle for its idle time, the array counting from the last row that left it (R102). -/
def State.idleEnds (s : State) (kind idx : Nat) : Nat :=
  let u := s.sleepOf kind idx
  (if kind = 0 then max u.since s.arr.lastIdle else u.since) + s.idleTime kind

/-- IDLE_EXPIRE: the unit has been idle for its idle time; an array idle time of 0 never expires (R104). -/
def State.idleExpire (s : State) (kind idx : Nat) : State :=
  let u := s.sleepOf kind idx
  if u.st ≠ slOn ∨ s.maySleep kind idx = false ∨ s.keepAwake kind idx = true
      ∨ (kind = 0 ∧ (s.arrayBusy = true ∨ s.idleTime 0 = 0)) then s
  else
    let s := s.advanceTo (s.idleEnds kind idx)
    s.setSleep kind idx ⟨slPrepare, s.now, false⟩

def execIdleExpire (kind idx : Nat) (s : State) : Host.Outcome State Fault Refusal := .next (s.idleExpire (kind % 4) (idx % 64))

/-- PREPARE_ELAPSED: power is removed, and the unit's contents are lost. -/
def State.prepareElapsed (s : State) (kind idx : Nat) : State :=
  let u := s.sleepOf kind idx
  if u.st ≠ slPrepare then s
  else
    let s := s.advanceTo (u.since + prepareTime kind)
    let s := s.setSleep kind idx ⟨slCommit, s.now, false⟩
    if kind = 0 then s.showGroups false else s

def execPrepareElapsed (kind idx : Nat) (s : State) : Host.Outcome State Fault Refusal := .next (s.prepareElapsed (kind % 4) (idx % 64))

/-- RAD stops when every radio engine is OFF (R542). -/
def State.radStop (s : State) : State :=
  if (rangeFrom 0 19).all fun i => (s.sleepOf 1 i).st == slOff then s.setPll pllRad false else s

/-- DWELL_ELAPSED: WAKING when a wake is latched, and otherwise OFF. -/
def State.dwellElapsed (s : State) (kind idx : Nat) : State :=
  let u := s.sleepOf kind idx
  if u.st ≠ slCommit then s
  else
    let s := s.advanceTo (u.since + dwellTime kind)
    if u.latched then s.setSleep kind idx ⟨slWaking, s.now, false⟩
    else
      let s := s.setSleep kind idx ⟨slOff, s.now, false⟩
      if kind = 1 then s.radStop else s

def execDwellElapsed (kind idx : Nat) (s : State) : Host.Outcome State Fault Refusal := .next (s.dwellElapsed (kind % 4) (idx % 64))

/-- ARR_PLL_OFF: the array has been OFF for ARR_PLL_OFF_US (R542). -/
def State.arrStop (s : State) : State :=
  let u := s.sleepOf 0 0
  let us := s.fld F.PMC_SLEEP_CTRL_ARR_PLL_OFF_US
  if !s.running || u.st != slOff || us == 0 || !s.pllRuns pllArr then s
  else (s.advanceTo (u.since + us * usec)).setPll pllArr false

def execArrPllOff (s : State) : Host.Outcome State Fault Refusal := .next s.arrStop

/-! ### Waking (R540 to R542) -/

/-- What ends in the cycle of a wake and comes before it: PREPARE, and the clock of an array that is OFF (R541). -/
def State.beforeWake (s : State) (kind idx : Nat) : State :=
  let u := s.sleepOf kind idx
  if u.st = slPrepare ∧ u.since + prepareTime kind ≤ s.now then s.prepareElapsed kind idx
  else if kind = 0 ∧ u.st = slOff ∧ u.since + s.fld F.PMC_SLEEP_CTRL_ARR_PLL_OFF_US * usec ≤ s.now then s.arrStop
  else s

/-- A wake of a unit that is ON: it wins over an entry to PREPARE that is due, and the idle time starts anew (R541). -/
def State.wakeOn (s : State) (kind idx : Nat) : State :=
  if s.idleEnds kind idx ≤ s.now then s.setSleep kind idx ⟨slOn, s.now, false⟩ else s

/-- A wake of a unit that is OFF; the clock of the radio engines keeps running where the last of them went OFF in this cycle (R541, R542). -/
def State.wakeOff (s : State) (kind idx : Nat) (since : Nat) : State :=
  let s := if kind = 1 ∧ since = s.now then s.setPll pllRad true else s
  s.setSleep kind idx ⟨slWaking, s.now, false⟩

/-- WAKE_REQUEST: a wake request, a hold or arriving work (log entry 111). -/
def State.wakeRequest (s : State) (kind idx : Nat) : State :=
  if s.maySleep kind idx = false then s
  else
    let s := s.beforeWake kind idx
    let u := s.sleepOf kind idx
    if u.st = slOn then s.wakeOn kind idx
    else if u.st = slPrepare then
      let t := s.setSleep kind idx ⟨slOn, s.now, false⟩
      if u.since = s.now then t else t.satFld F.PMC_COUNT_SLEEP_ABORTS 1
    else if u.st = slCommit then
      if u.latched then s else (s.setSleep kind idx { u with latched := true }).satFld F.PMC_COUNT_LATCHED_WAKES 1
    else if u.st = slOff then s.wakeOff kind idx u.since
    else s

def execWakeRequest (kind idx : Nat) (s : State) : Host.Outcome State Fault Refusal := .next (s.wakeRequest (kind % 4) (idx % 64))

/-- The PLL of a kind of unit, where it stops with the units: ARR or RAD. -/
def kindPll (kind : Nat) : Option Nat := if kind = 0 then some pllArr else if kind = 1 then some pllRad else none

/-- How long a wake of a kind takes: a PLL that has stopped relocks first (R530, R541). -/
def State.wakeWait (s : State) (kind : Nat) : Nat :=
  wakeTime kind + (match kindPll kind with
    | some p => if s.pllRuns p then 0 else s.fld F.PMC_CAP_LOCK_US * usec
    | none => 0)

/-- WAKE_READY: the unit is ON. -/
def State.wakeReady (s : State) (kind idx : Nat) : State :=
  let u := s.sleepOf kind idx
  if u.st ≠ slWaking then s
  else
    let s := s.advanceTo (u.since + s.wakeWait kind)
    let s := match kindPll kind with
      | some p => s.setPll p true
      | none => s
    let s := s.setSleep kind idx ⟨slOn, s.now, false⟩
    if kind = 0 then s.showGroups true else s

def execWakeReady (kind idx : Nat) (s : State) : Host.Outcome State Fault Refusal := .next (s.wakeReady (kind % 4) (idx % 64))

/-- The wake groups with their times: those of an array that has power, and of one that is waking, once its PLL has relocked (R101, R541). -/
def State.groupsNow (s : State) : Tab Nat :=
  let u := s.sleepOf 0 0
  if u.st = slWaking then groupTimes (u.since + s.wakeWait 0 - wakeTime 0) s.groupsOn else s.pow.groups

/-- GROUP_READY: the groups that are ready now (R104). -/
def State.groupsReady (s : State) : List Nat := (s.groupsNow.filter fun e => decide (e.2 ≤ s.now)).map (·.1)

/-- WAKE_LATE: a wake group of the waking array is not ready 1 µs after its start (R104, R542). -/
def State.wakeLate (s : State) (g : Nat) : State :=
  match Tab.get? s.groupsNow g with
  | none => s
  | some t =>
    if (s.sleepOf 0 0).st ≠ slWaking then s
    else ((s.advanceTo (t + 900 * nsec)).raise F.TRK_ERR_STATUS_WAKE_LATE).faultRecord { FaultRec.of 0x0304 0 with detail := g }

def execWakeLate (group : Nat) (s : State) : Host.Outcome State Fault Refusal := .next (s.wakeLate (group % 64))

/-- WAKE_TIMEOUT: any other unit is not ready within 10 times its wake-to-ready time (R542). -/
def State.wakeTimeout (s : State) (kind idx : Nat) : State :=
  let u := s.sleepOf kind idx
  if u.st ≠ slWaking then s
  else match sleepDev kind idx with
    | none => s
    | some d =>
      let s := s.advanceTo (u.since + 10 * wakeTime kind)
      (s.raise F.PMC_ERR_STATUS_WAKE_TIMEOUT).faultRecord { FaultRec.of 0x0504 0 with ucls := d.cls, uidx := d.idx }

def execWakeTimeout (kind idx : Nat) (s : State) : Host.Outcome State Fault Refusal := .next (s.wakeTimeout (kind % 4) (idx % 64))

end Sys2Proof.Machine
end

