-- ==== Sys2Proof/Machine/Resets.lean ====
section
/-! DEFINITION. Compute resets (R551 to R553), unit restarts (R555), changes of the map by the operator (R580, R582), and health scoring (R562,
R563). -/

namespace Sys2Proof.Machine

/-! ### Steps 1 and 2: work stops (R552) -/

/-- The array stops in its current cycle: the pass on it is charged what it has run, and the passes that drain their own shares (R197). -/
def State.arrayStops (s : State) : State :=
  let ran := match s.arr.cur with
    | [] => 0
    | a :: _ => (s.now - a.front) / arrCyc
  let cut := (s.arr.cur.zip (shareOut ran (s.arr.cur.map s.aloneLength))).map fun (p : ArrCmd × Nat) => { p.1 with charge := p.2 }
  let s := (cut ++ s.arr.drain).foldl State.chargeCmd s
  { s with arr := { State.reset.arr with freeAt := s.now, lastIdle := s.now } }

/-- The vector pipe stops in its current cycle. -/
def State.vectorStops (s : State) : State :=
  let s := match s.vec.cur with
    | none => s
    | some v => s.vecCut v
  { s with vec := State.reset.vec }

/-- The Helm's work in hand ends: its windows, its tags and a residency switch. The calendar, the meters and the shares stay. -/
def State.helmStops (s : State) : State :=
  { s with helm := { HelmUnit.reset with
      cal := s.helm.cal, calNext := s.helm.calNext, calOffNext := s.helm.calOffNext, arrCycles := s.helm.arrCycles
      vecCycles := s.helm.vecCycles, radioCycles := s.helm.radioCycles } }

/-- Work ends in every block: maintenance commands, the instances' own work, and the engines'. -/
def State.computeStops (s : State) : State :=
  let s := (s.arrayStops.vectorStops).helmStops
  let s := s.sxt.maint.foldl State.maintOver s
  (s.insts.map (·.1)).foldl State.squashWork s

/-! ### Steps 3 to 5 (R551, R552) -/

/-- The blocks whose counters and status a compute reset takes back. -/
def isComputeReg (a : Nat) : Bool := a >>> 21 == 0x8 || a >>> 21 == 0x10 || a >>> 21 == 0x14 || a >>> 21 == 0x18

/-- Fields there that report what the reset keeps. -/
def keptFields : List Fld :=
  [F.TRK_STATUS_OFFLINE, F.TRK_FUSE_SUMMARY_SOFT_REPAIR_PRESENT, F.HLM_QUANTUM_QUANTUM_CYCLES, F.HLM_CAL_CTRL_ENABLE, F.HLM_STATUS_CAL_ACTIVE]

/-- A register of those blocks after a compute reset: RO, RC and W1C fields that no fuse gives take their reset values. -/
def computeWord (a : Nat) (old rst : Word) : Word :=
  match (regBlock a).find? fun r => r.addr == a with
  | none => old
  | some r =>
    (r.fields.filter fun f => (f.acc == .ro || f.acc == .rc || f.acc == .w1c) && f.rst != .fuse && !keptFields.contains f.fld).foldl
      (fun w f => f.fld.put w (f.fld.get rst)) old

/-- The registers of TRK_, DVU_, HLM_ and RAD_ after a compute reset. -/
def State.computeRegs (s : State) : State :=
  { s with regs := s.regs.map fun e =>
      let a := e.1 % 2 ^ 40
      if isComputeReg a then (e.1, computeWord a e.2 (s.resetWord a (e.1 / 2 ^ 40))) else e }

/-- SRAM zeroed, with it the lines of the fabric cache (R301), and the array and the radio engines asleep, with the Helm's cores ON again (R532, R551,
R552). -/
def State.computePower (s : State) : State :=
  let s := ((s.zeroAll .scratch).zeroAll .staging).zeroAll .radio
  let keep := s.pow.sleeps.filter fun (e : Nat × SleepUnit) => e.1 / 64 == 3
  let cores := (s.coresOn 0 32).foldl (fun (t : Tab SleepUnit) c => Tab.set t (sleepKey 2 c) ⟨slOn, s.now, false⟩) keep
  { s with pow := { s.pow with sleeps := cores, groups := [] }, fab := { s.fab with cache := [] } }

/-- The instances take posts again, and every command that they had fetched ends with RESET (R375 step 4). -/
def State.computePosts (s : State) : State :=
  let s := (s.insts.map (·.1)).foldl (fun (s : State) i => s.setFld F.INST_STATUS_STATE instActive i) s
  ((s.rings.map (·.1)).foldl (fun (p : State × Nat × Nat) g => p.1.resetRing p g) (s, 0, 0)).1

/-! ### Step 6: cells, instances and admission (R551 to R553) -/

/-- The first slot of a cell that is not processed. -/
def Cell.firstLeft (x : Cell) : Nat :=
  let left := (x.slots.filter fun j => j.items.any fun i => !i.settled).map (·.n)
  left.foldl min (((x.slotFrom (x.cur + 1)).map (·.1)).getD (x.cur + 1))

/-- A cell slot after a compute reset. -/
def Cell.afterReset (x : Cell) : Cell :=
  let y := fun (st : CellState) => { Cell.blank st with cfg := x.latest, orch := x.orch, act := x.act, cause := x.cause, since := x.since }
  match x.st with
  | .active => y .configured
  | .stopping => if x.clear then Cell.blank .unassigned else y .configured
  | .shedding => if x.clear then Cell.blank .unassigned else y .shed
  | _ => { x with
      slots := [], seen := [], handedOff := [], freezes := [], phases := [], stats := [], agc := [], gains := [], fills := [], seqs := [],
      txSeq := [], flushes := [] }

/-- A cell slot's part of a compute reset: CELL_EVENT STOPPED where it was running, the HARQ contexts cleared, and its new state. -/
def State.computeCell (s : State) (cause : Nat) (p : Nat × Cell) : State :=
  let x := p.2
  let s := if x.st.running then s.cellNotice p.1 evStopped cause (some x.firstLeft) else s
  let s := match x.latest with
    | none => s
    | some f => s.clearHarq p.1 f
  s.putCell p.1 { x.afterReset with harqUsed := [], harqClear := false }

/-- The records of a compute reset: the operator's, and one to every domain with an instance. -/
def State.computeRecords (s : State) (cause : Nat) : State :=
  let r : FaultRec := { FaultRec.of 0x0602 5 with detail := cause }
  let doms := ((s.insts.filter fun i => !i.2.oper).map fun i => i.2.dom).eraseDups
  doms.foldl (fun (s : State) d => s.faultRecord { r with dom := some d }) (s.faultRecord r)

/-- An instance ACTIVE again with its rings DISABLED. -/
def State.computeInst (s : State) (inst : Nat) : State :=
  match Tab.get? s.insts inst with
  | none => s
  | some i =>
    let s := (s.instRings inst).foldl (fun (s : State) p => s.clearRing p.1 p.2 ringDisabled) s
    let s := s.addFld F.INST_STATUS_RESET_COUNT 1 inst
    let s := { s with insts := Tab.modify s.insts inst fun i => { i with resetStep := 0, info := [] } }
    (if i.destroy then s.freeInst inst else s).mbxSettle inst

/-- Cells and instances after the reset, and admission. -/
def State.computeBack (s : State) (cause : Nat) : State :=
  let cells := s.cells
  let s := (cells.foldl (fun (s : State) p => s.computeCell (if cause = 0 then 1 else 5) p) s).computeRecords cause
  let s := (s.insts.map (·.1)).foldl State.computeInst { s with ats := [] }
  let s := s.computeRegs.refreshRadio
  (s.shedOver.setFld F.TRK_WAKE_CTRL_HELM_HOLD (b2n s.cellRunning)).noteAdmit s.admitNow

/-- COMPUTE_RESET: the one that the device has started, or one that the operator requests; a live update reverts first (R552, R556). -/
def State.computeReset (s : State) : State :=
  if !s.running then s
  else
    let cause := s.computeCause.getD 0
    let s := if s.alm.upd.isSome then s.revert almAborted else s
    let s := if s.computeCause.isNone then s.computeStart 0 else s
    let s := ((s.computeStops.computePower).computePosts).computeBack cause
    let s := { s with computeCause := none }.addFld F.SXT_RESET_STATUS_COMPUTE_RESETS 1
    let s := (s.setFld F.SXT_RESET_STATUS_LAST_ACTION 1).setFld F.SXT_RESET_STATUS_LAST_CAUSE cause
    let s := s.setFld F.SXT_RESET_STATUS_LAST_MS 0
    if cause = 0 then ((s.setFld F.SXT_RESET_CTRL_ACTION 1).setFld F.SXT_RESET_CTRL_BUSY 0).setFld F.SXT_RESET_CTRL_STATUS 0 else s

def execComputeReset (s : State) : Host.Outcome State Fault Refusal := .next s.computeReset

/-! ### Units out of service and back (R555, R580) -/

/-- A unit of a restartable class, within its class (R546). -/
def restartable (u : DevUnit) : Bool := u.cls != ucStack && (unitBit u).isSome

/-- The state with a unit out of the map, for the test of what is left. -/
def State.without1 (s : State) (u : DevUnit) : State :=
  let t := { s with mapRun := if Tab.has s.mapRun u.key then s.mapRun else Tab.set s.mapRun u.key 0 }
  let t := if t.arrayGone then t.setFld F.TRK_STATUS_OFFLINE 1 else t
  mapRegs.foldl (fun (r : State) a => r.setReg a 0 (BitVec.ofNat 64 (t.mapTarget a))) t

/-- What a unit's removal meets: a held token, or too little capacity left (R555 steps 1 and 2); 0 where nothing stands in its way. -/
def State.removalStatus (s : State) (u : DevUnit) (force : Bool) : Nat :=
  if (s.lockedBy tokUpdate []).isSome then almBusyConflict
  else if !force && !(s.without1 u).radioTest.1 then almCapacity
  else 0

/-- A refusal, logged where the lock refused (R519), with ADMIT_REFUSED where the capacity did (R183). -/
def State.noteRefusal (s : State) (status : Nat) : State :=
  match s.lockedBy tokUpdate [] with
  | some h => if status = almBusyConflict then s.lockRefused tokUpdate h else s
  | none => if status = almCapacity then s.noteOutcome false else s

/-- A unit back in service: its runtime entry is cleared, and it is readmitted (R555 step 5). -/
def State.unitBack (s : State) (u : DevUnit) : State :=
  let s := s.mapEnable u
  let s := (rangeFrom 0 40).foldl (fun (s : State) i =>
    let s := if sleepDev 2 i == some u then s.setSleep 2 i ⟨slOn, s.now, false⟩ else s
    let s := if sleepDev 3 i == some u then s.setSleep 3 i ⟨slOn, s.now, false⟩ else s
    if sleepDev 1 i == some u then s.setSleep 1 i ⟨slOff, s.now, false⟩ else s) s
  s.noteAdmit s.admitNow

/-- The end of an action of SXT_RESET_CTRL. -/
def State.restartDone (s : State) (status : Nat) : State :=
  let s := (s.setFld F.SXT_RESET_CTRL_BUSY 0).setFld F.SXT_RESET_CTRL_STATUS status
  (s.setFld F.SXT_RESET_STATUS_LAST_ACTION 3).setFld F.SXT_RESET_STATUS_LAST_MS 0

/-- A unit restart, whose self-test the unit passes or not. -/
def State.restartUnit (s : State) (u : DevUnit) (force passed : Bool) : State :=
  if !restartable u then s.restartDone stUnitInvalid
  else
    let st := s.removalStatus u force
    if st ≠ 0 then (s.noteRefusal st).restartDone st
    else
      let s := s.faultRecord { FaultRec.of 0x0603 4 with ucls := u.cls, uidx := u.idx }
      let s := s.unitLost u 0x0603
      if passed then (s.unitBack u).restartDone 0 else s.restartDone stTestFailed

/-- UNIT_RESTART: SXT_RESET_CTRL written with ACTION 3 and GO. -/
def State.unitRestart (s : State) (v : Nat) (passed : Bool) : State :=
  if !s.running || s.flag F.SXT_RESET_CTRL_BUSY then s
  else
    let w := BitVec.ofNat 64 v
    let s := s.setFld F.SXT_RESET_CTRL_ACTION 3
    let s := s.setFld F.SXT_RESET_CTRL_UNIT_CLASS (F.SXT_RESET_CTRL_UNIT_CLASS.get w)
    let s := s.setFld F.SXT_RESET_CTRL_UNIT_INDEX (F.SXT_RESET_CTRL_UNIT_INDEX.get w)
    let s := s.setFld F.SXT_RESET_CTRL_FORCE (F.SXT_RESET_CTRL_FORCE.get w)
    s.sxtServe fun s =>
      s.restartUnit ⟨F.SXT_RESET_CTRL_UNIT_CLASS.get w, F.SXT_RESET_CTRL_UNIT_INDEX.get w⟩ (F.SXT_RESET_CTRL_FORCE.get w == 1) passed

def execUnitRestart (value : Nat) (passed : Bool) (s : State) : Host.Outcome State Fault Refusal := .next (s.unitRestart value passed)

/-- The unit that GLB_MAP_UNIT selects. -/
def State.selUnit (s : State) : DevUnit := ⟨s.fld F.GLB_MAP_UNIT_UNIT_CLASS, s.fld F.GLB_MAP_UNIT_UNIT_INDEX⟩

/-- GLB_MAP_CTRL after an operation. -/
def State.mapAnswer (s : State) (status : Nat) : State := (s.setFld F.GLB_MAP_CTRL_BUSY 0).setFld F.GLB_MAP_CTRL_STATUS status

/-- The last enabled tile-row, tile-column, array sequencer, queue core, DMA engine or fabric engine (R580). -/
def State.lastOne (s : State) (u : DevUnit) : Bool :=
  let l := if u.cls = ucCore then (if u.idx < 8 then s.seqCores else if u.idx < 24 then [] else s.queueCores)
    else if u.cls = ucRow ∨ u.cls = ucCol ∨ u.cls = ucDma ∨ u.cls = ucFab then s.unitsOn u.cls else []
  l == [u.idx]

/-- DISABLE: steps 1 to 3 of R555. -/
def State.mapDisableOp (s : State) (force : Bool) : State :=
  let u := s.selUnit
  if !restartable u || s.unitOff u || s.lastOne u then s.mapAnswer stUnitInvalid
  else
    let st := s.removalStatus u force
    if st ≠ 0 then (s.noteRefusal st).mapAnswer st else (s.unitLost u 0x0603).mapAnswer 0

/-- ENABLE: a unit that only the runtime layer disables returns once it passes its self-test. -/
def State.mapEnableOp (s : State) (force passed : Bool) : State :=
  let u := s.selUnit
  if !restartable u || layerHas s.mapFuse u || layerHas s.mapAlm u || !Tab.has s.mapRun u.key then s.mapAnswer stUnitInvalid
  else
    let st := s.removalStatus u force
    if st ≠ 0 then (s.noteRefusal st).mapAnswer st
    else if passed then (s.unitBack u).mapAnswer 0
    else s.mapAnswer stTestFailed

/-- GO on GLB_MAP_CTRL with an operation. -/
def State.mapGo (s : State) (op : Nat) (force : Bool) (f : State → State) : State :=
  if !s.running || s.flag F.GLB_MAP_CTRL_BUSY then s
  else
    let s := (s.setFld F.GLB_MAP_CTRL_OP op).setFld F.GLB_MAP_CTRL_FORCE (b2n force)
    s.sxtServe f

def State.disableGo (s : State) (force : Bool) : State := s.mapGo 1 force fun s => s.mapDisableOp force

def execDisable (force : Bool) (s : State) : Host.Outcome State Fault Refusal := .next (s.disableGo force)

def State.enableGo (s : State) (force passed : Bool) : State := s.mapGo 2 force fun s => s.mapEnableOp force passed

def execEnable (force passed : Bool) (s : State) : Host.Outcome State Fault Refusal := .next (s.enableGo force passed)

/-! ### Health scoring (R562, R563) -/

/-- The inputs of a part: each one's weight, and what its increase is divided by first. -/
def healthInputs (q : Nat) : List (Nat × Nat) :=
  if q < 8 then [(1, 1), (4096, 1), (1024, 1)]
  else if q < 12 then [(1, 1024), (16, 1), (1024, 1), (4096, 1)]
  else if q < 20 then [(1, 1024), (64, 1), (1024, 1)]
  else if q < 22 then [(16, 1), (1024, 1), (4, 1)]
  else if q = 22 then [(4, 1), (4096, 1)]
  else [(16, 1)]

/-- d of a part. -/
def State.healthSum (s : State) (q : Nat) : Nat :=
  sumList ((healthInputs q).zipIdx.map fun p => p.1.1 * (Tab.getD s.hcounts (q * 8 + p.2) 0 / p.1.2))

/-- A part's level for a score: a level falls only below 7/8 of its threshold. -/
def State.healthLevel (s : State) (q score : Nat) : Nat :=
  let old := s.fld F.SXT_HEALTH_LEVEL q
  let holds := fun (k thr : Nat) => decide (thr ≤ score) || (decide (k ≤ old) && decide (7 * thr ≤ 8 * score))
  if holds 2 (s.fld F.SXT_HEALTH_THR_FAIL q) then 2 else if holds 1 (s.fld F.SXT_HEALTH_THR_WARN q) then 1 else 0

/-- A part's score and level, with the entry of a rise (R511). -/
def State.setScore (s : State) (q score : Nat) : State :=
  let old := s.fld F.SXT_HEALTH_LEVEL q
  let new := s.healthLevel q score
  let s := (s.setFld F.SXT_HEALTH_SCORE score q).setFld F.SXT_HEALTH_LEVEL new q
  if old < new then s.logEvent (0x005F + new) new (toLe 1 q ++ toLe 4 score) else s

/-- One part at the end of a window. -/
def State.scorePart (s : State) (q : Nat) : State :=
  let x := s.fld F.SXT_HEALTH_SCORE q
  s.setScore q (min (2 ^ 32 - 1) (x - ceilDiv x 8 + s.healthSum q))

/-- HEALTH_WINDOW: the end of a window, with the increases that no command of its own brings, by part × 8 + input. -/
def State.healthWindow (s : State) (extra : List (Nat × Nat)) : State :=
  if !s.awake then s
  else
    let s := s.advanceTo (s.sxt.healthAt + s.fld F.SXT_HEALTH_CTRL_WINDOW_S * 1000 * msec)
    let s := extra.foldl (fun (s : State) p => s.health (p.1 / 8) (p.1 % 8) p.2) { s with sxt := { s.sxt with healthAt := s.now } }
    { (rangeFrom 0 24).foldl State.scorePart s with hcounts := [] }

def execHealthWindow (extra : List (Nat × Nat)) (s : State) : Host.Outcome State Fault Refusal := .next (s.healthWindow extra)

/-- HEALTH_CLEAR: the selected part's score is 0. -/
def State.healthClear (s : State) : State :=
  let q := s.fld F.SXT_HEALTH_SEL_PART
  if s.awake && decide (q < 24) then s.setScore q 0 else s

def execHealthClear (s : State) : Host.Outcome State Fault Refusal := .next s.healthClear

end Sys2Proof.Machine
end

