-- ==== Sys2Proof/Machine/Views.lean ====
section
/-! DEFINITION. What a read of a register returns (R8, R10): the windows that a selection register opens, and the fields that show other state. -/

namespace Sys2Proof.Machine

/-! ### Windows -/

/-- A windowed register with the selection fields that give its entry: the low field, and a high field above it where the entry takes two. -/
structure RegWindow where
  reg : Nat
  high : Option Fld
  low : Fld
deriving DecidableEq, Repr

/-- The whole of ISO_SC_SEL's three fields, and the port of ETH_SEL.SUBPORT. -/
def scSelFld : Fld := ⟨F.ISO_SC_SEL_SUBPORT.reg, 0, 16⟩
def portSelFld : Fld := ⟨F.ETH_SEL_SUBPORT.reg, 2, 3⟩

/-- The windows of the register tables. -/
def regWindows : List RegWindow :=
  [⟨F.TRK_CHART_QUOTA_LIMIT.reg, none, F.TRK_CHART_QUOTA_SEL_DOMAIN⟩,
   ⟨F.HLM_SHARE_SHARE.reg, some F.HLM_SHARE_SEL_KIND, F.HLM_SHARE_SEL_ID⟩, ⟨F.HLM_METER_ARRAY_NS.reg, none, F.HLM_METER_SEL_DOMAIN⟩,
   ⟨F.HLM_METER_VECTOR_NS.reg, none, F.HLM_METER_SEL_DOMAIN⟩, ⟨F.HLM_METER_RADIO_NS.reg, none, F.HLM_METER_SEL_DOMAIN⟩,
   ⟨F.HLM_CAL_ENTRY_START.reg, none, F.HLM_CAL_SEL_ENTRY⟩,
   ⟨F.RAD_CELL_ASSIGN_DOMAIN.reg, none, F.RAD_CELL_SEL_CELL⟩, ⟨F.RAD_CELL_STATUS_STATE.reg, none, F.RAD_CELL_SEL_CELL⟩,
   ⟨F.RAD_CELL_HEARTBEAT_HEARTBEAT.reg, none, F.RAD_CELL_SEL_CELL⟩, ⟨F.FH_GRANT_SUBPORT.reg, none, F.FH_GRANT_SEL_ENTRY⟩] ++
  [⟨F.MEM_EXT_OWNER.reg, none, F.MEM_EXT_SEL_EXTENT⟩, ⟨F.MEM_COMMIT_VERM_MBPS.reg, none, F.MEM_DOM_SEL_DOMAIN⟩,
   ⟨F.MEM_COMMIT_EFF_N_EXT.reg, none, F.MEM_DOM_SEL_DOMAIN⟩, ⟨F.MEM_PART_SP_MIB.reg, none, F.MEM_DOM_SEL_DOMAIN⟩,
   ⟨F.MEM_STACK_LOAD_VLOAD_MBPS.reg, none, F.MEM_STACK_SEL_STACK⟩, ⟨F.MEM_STACK_ECC_CORRECTED.reg, none, F.MEM_STACK_SEL_STACK⟩,
   ⟨F.FAB_PORT_STATUS_UP.reg, none, F.FAB_PORT_SEL_PORT⟩, ⟨F.FAB_PORT_CTRL_ENABLE.reg, none, F.FAB_PORT_SEL_PORT⟩,
   ⟨F.FAB_PORT_ERR_REPLAYS.reg, none, F.FAB_PORT_SEL_PORT⟩, ⟨F.FAB_ROUTE_DOWN.reg, none, F.FAB_ROUTE_SEL_NODE⟩] ++
  [⟨F.ETH_PORT_CTRL_MODE.reg, none, portSelFld⟩, ⟨F.ETH_SUB_CTRL_MAX_FRAME.reg, none, F.ETH_SEL_SUBPORT⟩,
   ⟨F.ETH_SUB_STATUS_UP.reg, none, F.ETH_SEL_SUBPORT⟩, ⟨F.ETH_FIFO_COUNT_RX_COUNT.reg, none, F.ETH_SEL_SUBPORT⟩,
   ⟨F.ETH_SUB_FRAMES_RX_FRAMES.reg, none, F.ETH_SEL_SUBPORT⟩, ⟨F.ETH_RX_DROP0_RUNT.reg, none, F.ETH_SEL_SUBPORT⟩,
   ⟨F.ETH_RX_DROP1_NOMATCH.reg, none, F.ETH_SEL_SUBPORT⟩, ⟨F.ETH_TX_BACKLOG_MAX_BYTES.reg, none, F.ETH_SEL_SUBPORT⟩,
   ⟨F.ETH_STEER_SUBPORT.reg, none, F.ETH_SEL_STEER⟩, ⟨F.ETH_POL_RATE_VALID.reg, none, F.ETH_SEL_POLICER⟩,
   ⟨F.ETH_POL_BURST_CBS.reg, none, F.ETH_SEL_POLICER⟩, ⟨F.ETH_PRING_ENABLE.reg, none, F.ETH_SEL_PRING⟩,
   ⟨F.ETH_Q_CFG_ENABLE.reg, none, F.ETH_SEL_QUEUE⟩, ⟨F.ETH_Q_RATE_CIR_KBPS.reg, none, F.ETH_SEL_QUEUE⟩,
   ⟨F.ETH_Q_BURST_CBS.reg, none, F.ETH_SEL_QUEUE⟩, ⟨F.ETH_DOM_SHARE_SHARE.reg, none, F.ETH_SEL_DOMAIN⟩] ++
  [⟨F.ISO_DOM_STATUS_STATE.reg, none, F.ISO_DOM_SEL_DOMAIN⟩, ⟨F.ISO_DOM_GEN_KEY_GEN.reg, none, F.ISO_DOM_SEL_DOMAIN⟩,
   ⟨F.ISO_OWNER0_DIGEST.reg, none, F.ISO_DOM_SEL_DOMAIN⟩, ⟨F.ISO_OWNER1_DIGEST.reg, none, F.ISO_DOM_SEL_DOMAIN⟩,
   ⟨F.ISO_OWNER2_DIGEST.reg, none, F.ISO_DOM_SEL_DOMAIN⟩, ⟨F.ISO_OWNER3_DIGEST.reg, none, F.ISO_DOM_SEL_DOMAIN⟩,
   ⟨F.ISO_OWNER4_DIGEST.reg, none, F.ISO_DOM_SEL_DOMAIN⟩, ⟨F.ISO_OWNER5_DIGEST.reg, none, F.ISO_DOM_SEL_DOMAIN⟩,
   ⟨F.ISO_SC_ASSIGN_VALID.reg, none, scSelFld⟩, ⟨F.MER_PORT_CFG_PTP_EN.reg, none, F.MER_PORT_SEL_SUBPORT⟩,
   ⟨F.MER_PORT_DELAY_TX_DELAY.reg, none, F.MER_PORT_SEL_SUBPORT⟩] ++
  [⟨F.SXT_SENS_DATA_READING.reg, some F.SXT_SENS_SEL_KIND, F.SXT_SENS_SEL_INDEX⟩,
   ⟨F.SXT_SENS_THR_FATAL.reg, some F.SXT_SENS_SEL_KIND, F.SXT_SENS_SEL_INDEX⟩, ⟨F.SXT_BUS_CTRL_SPEED.reg, none, F.SXT_BUS_SEL_PORT⟩,
   ⟨F.SXT_HEALTH_SCORE.reg, none, F.SXT_HEALTH_SEL_PART⟩, ⟨F.SXT_HEALTH_THR_FAIL.reg, none, F.SXT_HEALTH_SEL_PART⟩,
   ⟨F.EVC_CFG_SOURCE.reg, none, F.EVC_SEL_COUNTER⟩, ⟨F.EVC_VALUE_VALUE.reg, none, F.EVC_SEL_COUNTER⟩,
   ⟨F.PMC_UNIT_STATUS_STATE.reg, some F.PMC_UNIT_SEL_KIND, F.PMC_UNIT_SEL_INDEX⟩,
   ⟨F.PMC_STRICT_SHARE_EFF_W.reg, none, F.PMC_STRICT_SEL_DOMAIN⟩, ⟨F.PCI_INST_INFO_STATE.reg, none, F.PCI_INST_SEL_INSTANCE⟩,
   ⟨F.PCI_RING_INFO_STATE.reg, some F.PCI_INST_SEL_INSTANCE, F.PCI_INST_SEL_LOCAL⟩,
   ⟨F.PCI_RING_HEARTBEAT_HEARTBEAT.reg, some F.PCI_INST_SEL_INSTANCE, F.PCI_INST_SEL_LOCAL⟩]

/-- The entry of a register that its selection register names; 0 for a register without a window. -/
def State.window (s : State) (a : Nat) : Nat :=
  match regWindows.find? fun w => w.reg == a with
  | none => 0
  | some w =>
    (match w.high with
      | none => 0
      | some h => s.fld h * 2 ^ w.low.w) + s.fld w.low

/-! ### Fields that show other state -/

/-- A mask of the numbers in a list. -/
def maskOf (l : List Nat) : Nat := sumList (l.map fun i => 2 ^ i)

/-- The commands in the array now, that of the latest front first (R104). -/
def State.onArray (s : State) : List ArrCmd :=
  (s.arr.cur ++ s.arr.drain.reverse).filter fun a => decide (a.front ≤ s.now) && (s.arr.cur.contains a || decide (s.now < a.endAt))

/-- The array cycles of the busy span that is not over. -/
def State.busySoFar (s : State) : Nat :=
  if s.arr.cur.isEmpty && s.arr.drain.isEmpty then 0
  else ((if s.arr.cur.any fun a => decide (a.front ≤ s.now) then s.now else min s.now (maxList (s.arr.drain.map ArrCmd.endAt)))
    - s.arr.busySince) / arrCyc

/-- The array and the charts (R104, R108). -/
def State.viewTrk (s : State) (a : Nat) : List (Fld × Nat) :=
  if a = F.TRK_ROW_ENABLE_ROW_MASK.reg then [(F.TRK_ROW_ENABLE_ROW_MASK, maskOf (s.unitsOn ucRow))]
  else if a = F.TRK_COL_ENABLE_COL_MASK.reg then [(F.TRK_COL_ENABLE_COL_MASK, maskOf (s.unitsOn ucCol))]
  else if a = F.TRK_FUSE_DATA_FUSED_RECORD.reg then
    let t := s.fld F.TRK_FUSE_INDEX_TILE
    [(F.TRK_FUSE_DATA_FUSED_RECORD, s.fusedRec t), (F.TRK_FUSE_DATA_EFFECTIVE_RECORD, s.effRec t)]
  else if a = F.TRK_STATUS_BUSY.reg then
    let on := s.onArray
    [(F.TRK_STATUS_E_GRANTED, (on.map (·.e)).headD 0), (F.TRK_STATUS_C_GRANTED, (on.map (·.c)).headD 0), (F.TRK_STATUS_BUSY, b2n !on.isEmpty),
     (F.TRK_STATUS_AWAKE, b2n (!s.groupsReady.isEmpty && s.groupsOn.all s.groupsReady.contains))]
  else if a = F.TRK_WAKE_STATUS_GROUP_READY.reg then [(F.TRK_WAKE_STATUS_GROUP_READY, maskOf s.groupsReady)]
  else if a = F.TRK_BUSY_CYCLES_BUSY_CYCLES.reg then
    [(F.TRK_BUSY_CYCLES_BUSY_CYCLES, wrap (s.fld F.TRK_BUSY_CYCLES_BUSY_CYCLES + s.busySoFar) 64)]
  else if a = F.TRK_CHART_USED_CHARTS.reg then
    [(F.TRK_CHART_USED_CHARTS, s.charts.length), (F.TRK_CHART_USED_RUNS, s.runs.length)]
  else []

/-- An item of HLM_SHARE_SEL is active: it, or a ring of it, has a dispatched Slate array command (R186). -/
def State.shareActive (s : State) (kind id : Nat) : Bool :=
  ((s.helm.window.filter fun e => !e.vector && (s.vtKey e).isSome).map s.entryRing).any fun g =>
    if kind = 0 then s.ringDom g == id else if kind = 1 then s.ringInst g == id else if kind = 2 then g == id else false

/-- The meters of a domain, in nanoseconds (R197). -/
def State.meterArr (s : State) (d : Nat) : Nat := Tab.getD s.helm.arrCycles d 0 * 2 / 3
def State.meterVec (s : State) (d : Nat) : Nat := Tab.getD s.helm.vecCycles d 0 * 2 / 3
def State.meterRad (s : State) (d : Nat) : Nat := Tab.getD s.helm.radioCycles d 0 * 5 / 6

/-- An Ochre window is open: a test, or a soft repair, has its unit out of service (R190). -/
def State.ochreWindow (s : State) : Bool :=
  s.sxt.maint.any MaintCmd.removed || (match s.inUpdate with
    | some u => u.cls == ucCol
    | none => false)

/-- The Helm (R199). -/
def State.viewHlm (s : State) (a idx : Nat) : List (Fld × Nat) :=
  if a = F.HLM_STATUS_WINDOW_USED.reg then
    [(F.HLM_STATUS_WINDOW_USED, s.helm.window.length), (F.HLM_STATUS_WINDOW_VERM, s.helm.window.countP fun e => e.cls == 1),
     (F.HLM_STATUS_CORES_ENABLED, (s.coresOn 0 32).length), (F.HLM_STATUS_OCHRE_WINDOW, b2n s.ochreWindow)]
  else if a = F.HLM_SHARE_SHARE.reg then
    let kind := idx / 8192
    let id := idx % 8192
    (if kind = 2 then [(F.HLM_SHARE_SHARE, s.ringShare id)]
      else if kind = 3 then [(F.HLM_SHARE_SHARE, 0)] else []) ++ [(F.HLM_SHARE_ACTIVE, b2n (s.shareActive kind id))]
  else if a = F.HLM_VTIME_VTIME.reg then [(F.HLM_VTIME_VTIME, s.helm.arr.v)]
  else if a = F.HLM_METER_ARRAY_NS.reg then [(F.HLM_METER_ARRAY_NS, s.meterArr idx)]
  else if a = F.HLM_METER_VECTOR_NS.reg then [(F.HLM_METER_VECTOR_NS, s.meterVec idx)]
  else if a = F.HLM_METER_RADIO_NS.reg then [(F.HLM_METER_RADIO_NS, s.meterRad idx)]
  else []

/-- The radio section, the fronthaul and the engines (R224, R253, R287). -/
def State.viewRad (s : State) (a idx : Nat) : List (Fld × Nat) :=
  if a = F.RAD_CELL_STATUS_STATE.reg then
    let x := s.cell idx
    let q := fun (f : CellCfg → Nat) => match x.latest with
      | some c => if x.st.held then f c * c.quarters else 0
      | none => 0
    [(F.RAD_CELL_STATUS_STATE, x.st.code), (F.RAD_CELL_STATUS_ORCH, x.orch), (F.RAD_CELL_STATUS_UL_QUARTERS, q CellCfg.ulStreams),
     (F.RAD_CELL_STATUS_DL_QUARTERS, q CellCfg.dlStreams), (F.RAD_CELL_STATUS_GROUP_MEMBER, b2n (s.groupLead idx).isSome),
     (F.RAD_CELL_STATUS_GROUP_LEAD, (s.groupLead idx).getD 0)]
  else if a = F.FH_STATUS_CLS_USED.reg then
    [(F.FH_STATUS_CLS_USED, sumList (s.entryCfgs.map fun x => x.2.entries.length)),
     (F.FH_STATUS_GRANTS_VALID, (s.indices F.FH_GRANT_VALID.reg).countP fun g => s.flag F.FH_GRANT_VALID g)]
  else if a = F.RAD_ENG_STATUS_DEC_ENABLED.reg then
    [(F.RAD_ENG_STATUS_DEC_ENABLED, maskOf (s.unitsOn ucDec)), (F.RAD_ENG_STATUS_ENC_ENABLED, maskOf (s.unitsOn ucEnc)),
     (F.RAD_ENG_STATUS_POLAR_ENABLED, maskOf (s.unitsOn ucPolar)), (F.RAD_ENG_STATUS_EQ_ENABLED, maskOf (s.unitsOn ucEq)),
     (F.RAD_ENG_STATUS_DEMAP_ENABLED, maskOf (s.unitsOn ucDemap)), (F.RAD_ENG_STATUS_HARQ_ENABLED, maskOf (s.unitsOn ucHarq))]
  else []

/-- The memory system (R315). -/
def State.viewMem (s : State) (a idx : Nat) : List (Fld × Nat) :=
  let keys := fun lo => maskOf ((rangeFrom 0 64).filter fun i => s.keyActive (lo + i))
  if a = F.MEM_STATUS_STACK_ENABLED.reg then
    [(F.MEM_STATUS_STACK_ENABLED, maskOf s.stacksOn), (F.MEM_STATUS_GUAR_GBPS_X10, 17408 * s.stacksOn.length)]
  else if a = F.MEM_EXT_OWNER.reg then
    let e := Tab.getD s.extents idx ⟨extFree, 0, !s.stackOn (idx / 96), false⟩
    [(F.MEM_EXT_OWNER, e.owner), (F.MEM_EXT_DOM_INDEX, e.idx), (F.MEM_EXT_STATE, b2n e.lost), (F.MEM_EXT_REPLACEMENT, b2n e.repl)]
  else if a = F.MEM_COMMIT_EFF_N_EXT.reg then [(F.MEM_COMMIT_EFF_N_EXT, s.nExt idx), (F.MEM_COMMIT_EFF_SLATE_EFF_MBPS, s.slateEff idx)]
  else if a = F.MEM_PART_SWAPPABLE.reg then
    [(F.MEM_PART_SWAPPABLE, b2n (s.swapDom idx)), (F.MEM_PART_RESIDENT, b2n (s.windowsHere idx))]
  else if a = F.MEM_STACK_LOAD_VLOAD_MBPS.reg then
    [(F.MEM_STACK_LOAD_VLOAD_MBPS, s.vload idx (fun _ => 0) / s.loadDen), (F.MEM_STACK_LOAD_SLOAD_MBPS, s.sload idx / s.loadDen)]
  else if a = F.MEM_KEY_STATUS0_ACTIVE.reg then [(F.MEM_KEY_STATUS0_ACTIVE, keys 0)]
  else if a = F.MEM_KEY_STATUS1_ACTIVE.reg then [(F.MEM_KEY_STATUS1_ACTIVE, keys 64)]
  else []

/-- The fabric (R352). -/
def State.viewFab (s : State) (a idx : Nat) : List (Fld × Nat) :=
  if a = F.FAB_STATUS_PORTS_UP.reg then
    [(F.FAB_STATUS_PORTS_UP, maskOf ((rangeFrom 0 4).filter s.portUp)), (F.FAB_STATUS_NODES_DOWN, (rangeFrom 0 1024).countP s.nodeDown),
     (F.FAB_STATUS_TAGS_BUSY, s.fab.ops.length), (F.FAB_STATUS_TAGS_QUARANTINED, s.quar.countP Quarantine.fabric),
     (F.FAB_STATUS_REGIONS_VALID, s.fab.regions.countP fun r => reValid r.2)]
  else if a = F.FAB_ROUTE_LOCAL.reg then [(F.FAB_ROUTE_LOCAL, b2n (idx == s.nodeId))]
  else if a = F.FAB_REGION_DATA_DATA.reg then [(F.FAB_REGION_DATA_DATA, s.fab.stageR.getD (s.fld F.FAB_REGION_SEL_WORD) 0)]
  else if a = F.FAB_BEARING_DATA_DATA.reg then [(F.FAB_BEARING_DATA_DATA, s.fab.stageB.getD (s.fld F.FAB_BEARING_SEL_WORD) 0)]
  else []

/-- The instance pages (R379). -/
def State.viewPage (s : State) (a idx : Nat) : List (Fld × Nat) :=
  match Tab.get? s.insts idx with
  | none => []
  | some i =>
    let own := fun (n : Nat) => if i.oper then 0 else n
    if a = F.INST_ID_INSTANCE.reg then
      [(F.INST_ID_INSTANCE, idx), (F.INST_ID_DOMAIN, own i.dom), (F.INST_ID_PASID, i.pasid), (F.INST_ID_OPERATOR, b2n i.oper),
       (F.INST_ID_LINK, i.link), (F.INST_ID_MAX_RINGS, i.maxRings)]
    else if a = F.INST_METER_ARRAY_NS.reg then [(F.INST_METER_ARRAY_NS, own (s.meterArr i.dom))]
    else if a = F.INST_METER_VECTOR_NS.reg then [(F.INST_METER_VECTOR_NS, own (s.meterVec i.dom))]
    else if a = F.INST_METER_RADIO_NS.reg then [(F.INST_METER_RADIO_NS, own (s.meterRad i.dom))]
    else []

/-- The host interface (R380). -/
def State.viewPci (s : State) (a idx : Nat) : List (Fld × Nat) :=
  if a = F.PCI_DMA_STATUS_DESC_USED.reg then
    [(F.PCI_DMA_STATUS_DESC_USED, sumList (s.dma.map fun j => j.2.desc)),
     (F.PCI_DMA_STATUS_READS_OUT, sumList (s.dma.map fun j => s.readsOut j.1 j.2)),
     (F.PCI_DMA_STATUS_TAGS_QUARANTINED, sumList ((s.quar.filter fun q => !q.fabric).map Quarantine.tags))]
  else if a = F.PCI_INST_INFO_STATE.reg then
    match Tab.get? s.insts idx with
    | none => []
    | some i =>
      [(F.PCI_INST_INFO_STATE, s.fld F.INST_STATUS_STATE idx), (F.PCI_INST_INFO_DOMAIN, i.dom), (F.PCI_INST_INFO_PASID, i.pasid),
       (F.PCI_INST_INFO_OPERATOR, b2n i.oper), (F.PCI_INST_INFO_LINK, i.link), (F.PCI_INST_INFO_RINGS, i.locals.length),
       (F.PCI_INST_INFO_RESET_COUNT, s.fld F.INST_STATUS_RESET_COUNT idx)]
  else if a = F.PCI_RING_INFO_STATE.reg then
    [(F.PCI_RING_INFO_CLASS, s.fld F.RING_CFG_CLASS idx), (F.PCI_RING_INFO_RING, s.fld F.RING_CFG_RING idx),
     (F.PCI_RING_INFO_STATE, s.fld F.RING_STATUS_STATE idx), (F.PCI_RING_INFO_PRIVILEGED, s.fld F.RING_CFG_PRIVILEGED idx),
     (F.PCI_RING_INFO_VECTOR, s.fld F.RING_IRQ_VECTOR idx)]
  else if a = F.PCI_RING_HEARTBEAT_HEARTBEAT.reg then [(F.PCI_RING_HEARTBEAT_HEARTBEAT, s.fld F.RING_HEARTBEAT_HEARTBEAT idx)]
  else []

/-- Isolation (R438) and the Meridian (R475). -/
def State.viewIsoMer (s : State) (a idx : Nat) : List (Fld × Nat) :=
  if a = F.ISO_DOM_STATUS_STATE.reg then
    let sc := (s.indices F.ISO_SC_ASSIGN_VALID.reg).countP fun c => s.scDom c == some idx
    [(F.ISO_DOM_STATUS_SESSIONS, s.sessions.countP fun x => x.2.dom == some idx),
     (F.ISO_DOM_STATUS_INSTANCES, s.insts.countP fun i => !i.2.oper && i.2.dom == idx), (F.ISO_DOM_STATUS_SC_ASSIGNED, min sc 4095)]
  else if a = F.MER_STATUS_STATE.reg then
    if s.servo = merHoldover then [(F.MER_STATUS_HOLD_MS, min ((s.now - s.mer.holdAt) / msec) (2 ^ 22 - 1))] else []
  else if a = F.MER_AIR_SFN.reg then
    let g := (s.tai16 - s.airOrigin) / 65536
    [(F.MER_AIR_SFN, g / 10000000 % 1024), (F.MER_AIR_SLOT_MU1, g % 10000000 / 500000)]
  else if a = F.MER_PORT_CFG_PORT_STATE.reg then (if s.ptpOn idx then [] else [(F.MER_PORT_CFG_PORT_STATE, ptpDisabled)])
  else []

/-- The image that ALM_SLOT_SEL selects, with whether it passed its last load checks and the key row that signed it. -/
def State.slotImage (s : State) : Option (Image × Bool × Nat) :=
  match Tab.get? s.alm.slots (s.fld F.ALM_SLOT_SEL_SLOT) with
  | none => none
  | some x =>
    if s.flag F.ALM_SLOT_SEL_KIND then x.cfg.map fun i => (i, x.ok, x.cfgRow) else x.fw.map fun i => (i, x.ok, x.fwRow)

/-- The Almanac (R500) and the Sextant (R528, R564). -/
def State.viewSxt (s : State) (a idx : Nat) : List (Fld × Nat) :=
  if a = F.ALM_SLOT_INFO_VERSION.reg then
    match s.slotImage with
    | none => []
    | some (i, ok, row) =>
      [(F.ALM_SLOT_INFO_VERSION, i.version), (F.ALM_SLOT_INFO_VALID, b2n ok), (F.ALM_SLOT_INFO_KEY_ROW, row),
       (F.ALM_SLOT_INFO_SIZE_KIB, ceilDiv i.size 1024)]
  else if a = F.SXT_STATUS_CORE_STATE.reg then [(F.SXT_STATUS_LOCK_HELD, maskOf s.sxt.tokens.eraseDups)]
  else if a = F.SXT_SENS_THR_WARN.reg ∧ 384 ≤ idx then
    [(F.SXT_SENS_THR_WARN, 0), (F.SXT_SENS_THR_CRIT, 0), (F.SXT_SENS_THR_FATAL, 0), (F.SXT_SENS_THR_HYST, 0)]
  else if a = F.SXT_HEALTH_THR_WARN.reg ∧ 24 ≤ idx then [(F.SXT_HEALTH_THR_WARN, 0), (F.SXT_HEALTH_THR_FAIL, 0)]
  else []

/-- Event counters (R528). -/
def State.viewEvc (s : State) (a idx : Nat) : List (Fld × Nat) :=
  if a = F.EVC_STATUS_OPERATOR_USED.reg then
    [(F.EVC_STATUS_OPERATOR_USED, s.evcs.countP fun e => e.2.dom.isNone), (F.EVC_STATUS_DOMAIN_USED, s.evcs.countP fun e => e.2.dom.isSome)]
  else if a = F.EVC_CFG_OWNER.reg then
    match Tab.get? s.evcs idx with
    | none => []
    | some e => if e.dom.isNone then [(F.EVC_CFG_OWNER, 1)] else [(F.EVC_CFG_OWNER, 2), (F.EVC_CFG_SOURCE, 0)]
  else if a = F.EVC_VALUE_VALUE.reg then
    match Tab.get? s.evcs idx with
    | none => []
    | some e => if e.dom.isNone then [(F.EVC_VALUE_VALUE, e.read s.now)] else []
  else []

/-- Power (R543) and the disabled-unit map (R583). -/
def State.viewPow (s : State) (a idx : Nat) : List (Fld × Nat) :=
  if a = F.PMC_STATUS_PLL_RUN.reg then [(F.PMC_STATUS_PLL_RUN, maskOf ((rangeFrom 0 6).filter s.pllRuns))]
  else if a = F.PMC_UNIT_STATUS_STATE.reg then
    let u := s.sleepOf (idx / 64) (idx % 64)
    [(F.PMC_UNIT_STATUS_STATE, u.st), (F.PMC_UNIT_STATUS_WAKE_LATCHED, b2n u.latched),
     (F.PMC_UNIT_STATUS_HELD, b2n (s.keepAwake (idx / 64) (idx % 64)))]
  else if a = F.GLB_STATUS_ARRAY_OFFLINE.reg then [(F.GLB_STATUS_ARRAY_OFFLINE, b2n s.offline)]
  else if a = F.GLB_MAP_UNIT_VALID.reg then
    let u := s.selUnit
    [(F.GLB_MAP_UNIT_FUSE, b2n (layerHas s.mapFuse u)), (F.GLB_MAP_UNIT_ALMANAC, b2n (layerHas s.mapAlm u)),
     (F.GLB_MAP_UNIT_RUNTIME, b2n (Tab.has s.mapRun u.key)), (F.GLB_MAP_UNIT_VALID, b2n (unitBit u).isSome),
     (F.GLB_MAP_UNIT_LAST_CAUSE, Tab.getD s.mapRun u.key 0)]
  else []

/-- The fields of an entry of a register that show other state. -/
def State.views (s : State) (a idx : Nat) : List (Fld × Nat) :=
  if a ≥ 0x100000000 then s.viewPage a idx
  else if a >>> 21 = 0x10 then s.viewTrk a
  else if a >>> 21 = 0x8 then s.viewHlm a idx
  else if a >>> 21 = 0x18 ∨ a >>> 21 = 0x1c then s.viewRad a idx
  else if a >>> 21 = 0x40 then s.viewMem a idx
  else if a >>> 21 = 0x28 then s.viewFab a idx
  else if a >>> 21 = 0x58 then s.viewPci a idx
  else if a >>> 21 = 0x38 ∨ a >>> 21 = 0x30 then s.viewIsoMer a idx
  else if a >>> 21 = 0x48 then s.viewEvc a idx
  else if a >>> 21 = 0x50 ∨ a < 0x100000 then s.viewPow a idx
  else s.viewSxt a idx

/-- The description of the register at an address; none where no register sits (R13). -/
def regAt (a : Nat) : Option RegDesc := (regBlock a).find? fun r => r.addr == a

/-- What a read of an entry of a register returns: WO and RSV fields read 0, and an address without a register reads 0 (R10, R13). -/
def State.readWord (s : State) (a idx : Nat) : Word :=
  match regAt a with
  | none => 0
  | some d =>
    let v := (s.views a idx).foldl (fun (w : Word) (x : Fld × Nat) => x.1.put w x.2) (s.reg a idx)
    (d.fields.filter fun f => f.acc != .wo).foldl (fun w f => f.fld.put w (f.fld.get v)) 0

end Sys2Proof.Machine
end

