-- ==== Sys2Proof/Machine/Registers.lean ====
section
/-! DEFINITION. Host accesses to registers: writes by access code (R9 to R14), reads that clear, and accesses that are refused (R355). -/

namespace Sys2Proof.Machine

/-! ### Where an access lands (R9, R355, R572 to R575) -/

/-- The bytes of a window, and the link over which it is reached. -/
def barBytes : Bar → Nat
  | .bar0 => 2 ^ 26
  | .pf1 => 2 ^ 20
  | .pages _ => 2 ^ 26
def barLink : Bar → Nat
  | .pages l => l % 2
  | _ => 0

/-- The host interface answers: the I/O die has power. -/
def State.hostUp (s : State) : Bool :=
  s.pow.life == .powered || s.pow.life == .running || s.pow.life == .recovery || s.pow.life == .ended

/-- An access that R9 refuses: not 4 or 8 bytes, or not naturally aligned. -/
def accessBad (off size : Nat) : Bool := !(size == 4 || size == 8) || off % size != 0

/-- `register_address` of R572, of the register that an offset of BAR 0 lies in. -/
def regAddress (off : Nat) : Nat := off / 2 ^ 21 * 2 ^ 23 + off % 2 ^ 21 / 8 * 8

/-- BAR 0 of PF 0 answers at a register address: anywhere once RUNNING, and at GLB_ and ALM_ before (R491, R493). -/
def State.bar0Answers (s : State) (a : Nat) : Bool := s.running || decide (a < 0x100000) || (decide (0x180000 ≤ a) && decide (a < 0x200000))

/-- The register of an instance page at an offset, with its entry: the instance, or the local ring's number (R356). -/
def pageReg (inst p : Nat) : Option (Nat × Nat) :=
  if p < 0x38 then some (0x100000000 + p / 8 * 8, inst)
  else if 0x1000 ≤ p ∧ p < 0x2000 ∧ p % 64 < 8 then some (F.DOORBELL_SQ_TAIL.reg, inst * 64 + (p - 0x1000) / 64)
  else if 0x2000 ≤ p ∧ p < 0x3000 then some (F.RING_CFG_CLASS.reg + p % 64 / 8 * 8, inst * 64 + (p - 0x2000) / 64)
  else none

/-- The register and entry that an offset of a window reaches; none where nothing answers. -/
def State.place (s : State) (b : Bar) (off : Nat) : Option (Nat × Nat) :=
  match b with
  | .bar0 => let a := regAddress off; if s.bar0Answers a then some (a, s.window a) else none
  | .pf1 => if off < 0x80000 then let a := 0x100000 + off / 8 * 8; some (a, s.window a) else none
  | .pages _ => if s.running then pageReg (off / 65536) (off % 65536) else none

/-- An access refused and counted: by R9, or to the page of a FREE instance (R355). -/
def State.refused (s : State) (b : Bar) (off size : Nat) : Bool :=
  accessBad off size ||
    (match b with
      | .pages _ => s.running && !Tab.has s.insts (off / 65536)
      | _ => false)

/-- A page of an instance that is bound to the other link: it reads zeros and ignores writes (R354). -/
def State.otherLink (s : State) (b : Bar) (off : Nat) : Bool :=
  match b with
  | .pages l => s.page (off / 65536) (l % 2) == some false
  | _ => false

/-! ### Writes by access code (R10) -/

/-- The fields that a write outside their range sets to the nearer limit, with their limits. -/
def storedAs : List (Fld × Nat × Nat) :=
  [(F.TRK_CHART_QUOTA_LIMIT, 0, 65536), (F.HLM_WINDOW_CTRL_VERM_RSV, 0, 128), (F.HLM_SHARE_SHARE, 1, 65535),
   (F.MEM_SCRUB_CTRL_UE_LIMIT, 1, 255), (F.FAB_ROUTE_HOP_LIMIT, 1, 15), (F.ETH_SUB_CTRL_MAX_FRAME, 64, 9216),
   (F.ETH_SUB_CTRL_CUT_THRESH, 0, 144), (F.ETH_SUB_CTRL_RX_HOL_NS, 50, 250), (F.ETH_DOM_SHARE_SHARE, 1, 65535),
   (F.ETH_TM_CTRL_SAMPLE_US, 1, 65535), (F.MER_SERVO_LOCK_NS, 1, 65535), (F.MER_SERVO_SLEW_PPB, 1, 10000)] ++
  [(F.MER_SRC_CTRL_PHASE_SRC, 0, 2), (F.MER_SRC_CTRL_FREQ_SRC, 0, 2), (F.MER_SRC_CTRL_STEP_NS, 1, 65535),
   (F.MER_SRC_CTRL_HOLD_LIMIT_S, 1, 65535), (F.MER_PORT_CFG_LOCAL_PRIO, 1, 255), (F.MER_PPS_CTRL_PPS_WIDTH_US, 1, 500000),
   (F.PCI_DMA_CTRL_CPL_TIMEOUT_US, 50, 50000), (F.SXT_BUS_CTRL_SPEED, 0, 2), (F.PMC_SLEEP_CTRL_RADIO_IDLE_US, 1, 65535),
   (F.PMC_SLEEP_CTRL_CORE_IDLE_US, 1, 65535), (F.PMC_SLEEP_CTRL_ENG_IDLE_US, 1, 65535), (F.SXT_HEALTH_CTRL_WINDOW_S, 1, 3600),
   (F.RING_IRQ_COAL_COUNT, 1, 65535)]

/-- The value that a field stores when `n` is written to it. -/
def storeLimit (f : Fld) (n : Nat) : Nat :=
  match storedAs.find? fun x => x.1 == f with
  | some (_, lo, hi) => clamp lo hi n
  | none => n

/-- A field of a register after a write of `w` (R10). -/
def FieldDesc.write (f : FieldDesc) (old w : Word) : Word :=
  match f.acc with
  | .rw => f.fld.put old (storeLimit f.fld (f.fld.get w))
  | .w1c => f.fld.put old (f.fld.get (old &&& ~~~w))
  | .w1s => f.fld.put old (f.fld.get (old ||| w))
  | _ => old

/-- A register after a write of `w` by its fields' access codes (R10). -/
def RegDesc.write (d : RegDesc) (old w : Word) : Word := d.fields.foldl (fun v f => f.write v w) old

/-- The bits of a register that an access of `size` bytes at an offset reaches (R9). -/
def laneMask (off size : Nat) : Word :=
  if size = 8 then BitVec.allOnes 64 else if off % 8 = 4 then 0xFFFFFFFF00000000#64 else 0xFFFFFFFF#64

/-- What a write presents to a register: the written lanes, and elsewhere the RW fields as they are and 0 for every other. -/
def RegDesc.presented (d : RegDesc) (old : Word) (off value size : Nat) : Word :=
  let m := laneMask off size
  let keep := (d.fields.filter fun f => f.acc == .rw).foldl (fun w f => f.fld.put w (f.fld.get old)) (0 : Word)
  let v := BitVec.ofNat 64 (if size = 8 ∨ off % 8 = 0 then value else value % 2 ^ 32 * 2 ^ 32)
  (v &&& m) ||| (keep &&& ~~~m)

/-- A register's entry written by its access codes. -/
def State.storeWord (s : State) (a idx v : Nat) : State :=
  match regAt a with
  | none => s
  | some d => s.setReg a idx (d.write (s.reg a idx) (BitVec.ofNat 64 v))

/-! ### Registers whose writes do more -/

/-- HLM_CAL_CTRL (R193, R199). -/
def State.calCtrlWrite (s : State) (v : Nat) : State :=
  let s := if bit v 1 then s.calCommit else s
  if bit v 2 then s.calDisable else s

/-- FAB_PORT_CTRL: a port that may no longer train goes down, and WIDEN retrains (R349, R352). -/
def State.fabPortCtrl (s : State) (p v : Nat) : State :=
  let s := s.storeWord F.FAB_PORT_CTRL_ENABLE.reg p v
  let s := if bit v 0 then s else s.portDown p
  if bit v 1 then s.widen p else s

/-- FAB_ROUTE: a destination whose valid ports are all down is DOWN (R320). -/
def State.routeWrite (s : State) (n v : Nat) : State :=
  let s := s.storeWord F.FAB_ROUTE_DOWN.reg n v
  if s.flag F.FAB_ROUTE_PRIMARY_VALID n || s.flag F.FAB_ROUTE_ALT_VALID n then s.checkRoute n else s

/-- A word of a staging buffer (R321, R318). -/
def State.stageWrite (s : State) (bearing : Bool) (v : Nat) : State :=
  { s with fab :=
      if bearing then { s.fab with stageB := s.fab.stageB.set (s.fld F.FAB_BEARING_SEL_WORD) v }
      else { s.fab with stageR := s.fab.stageR.set (s.fld F.FAB_REGION_SEL_WORD) v } }

/-- A register of the Meridian on which the choice of source and of master depends (R461, R466). -/
def State.merSelect (s : State) (a idx v : Nat) : State :=
  let old := s.masterOf s.slavePort
  ((s.storeWord a idx v).freqSelect).bmca old

/-- SXT_SENS_THR: a FATAL threshold beyond the absolute maximum is stored as that maximum (R505, R528). -/
def State.thrWrite (s : State) (i v : Nat) : State :=
  if i % 128 < sensCount (i / 128) then
    let s := (s.tieReg F.SXT_SENS_THR_FATAL.reg i).storeWord F.SXT_SENS_THR_FATAL.reg i v
    if beyondLimit (i / 128) (i % 128) (s.fld F.SXT_SENS_THR_FATAL i) then
      s.setFld F.SXT_SENS_THR_FATAL (fatalLimit (i / 128) (i % 128)) i
    else s
  else s

/-- SXT_HEALTH_THR: a FAIL threshold below WARN is stored as WARN (R566). -/
def State.healthThr (s : State) (q v : Nat) : State :=
  if q < 24 then
    let s := s.storeWord F.SXT_HEALTH_THR_FAIL.reg q v
    s.setFld F.SXT_HEALTH_THR_FAIL (max (s.fld F.SXT_HEALTH_THR_FAIL q) (s.fld F.SXT_HEALTH_THR_WARN q)) q
  else s

/-- SXT_HEALTH_CTRL with its CLEAR bit (R563). -/
def State.healthCtrl (s : State) (v : Nat) : State :=
  let s := s.storeWord F.SXT_HEALTH_CTRL_WINDOW_S.reg 0 v
  if bit v 12 then s.healthClear else s

/-- GLB_MAP_CTRL: GO starts OP, and a reserved operation gives UNIT_INVALID (R580, R583). -/
def State.mapCtrl (s : State) (passed : Bool) (v : Nat) : State :=
  let s := s.storeWord F.GLB_MAP_CTRL_OP.reg 0 v
  let force := s.flag F.GLB_MAP_CTRL_FORCE
  if !bit v 3 then s
  else match s.fld F.GLB_MAP_CTRL_OP with
    | 1 => s.disableGo force
    | 2 => s.enableGo force passed
    | op => s.mapGo op force fun s => s.mapAnswer stUnitInvalid

/-- SXT_RESET_CTRL: GO starts ACTION, and is ignored while BUSY is 1 (R566). A compute reset asked for while the device runs one of its own
answers BUSY (R552); a reserved ACTION starts nothing (log entry 62). -/
def State.resetCtrl (s : State) (passed : Bool) (v : Nat) : State :=
  let s := s.storeWord F.SXT_RESET_CTRL_ACTION.reg 0 v
  if !bit v 28 || s.flag F.SXT_RESET_CTRL_BUSY then s
  else match s.fld F.SXT_RESET_CTRL_ACTION with
    | 1 => if s.computeCause.isSome then s.setFld F.SXT_RESET_CTRL_STATUS 0x90 else s.computeReset
    | 2 => s.deviceResetGo
    | 3 => s.unitRestart v passed
    | _ => s

/-- ALM_CMD: GO starts OP (R495, R500). -/
def State.almCmd (s : State) (x : WriteBrings) (v : Nat) : State :=
  let s := s.storeWord F.ALM_CMD_OP.reg 0 v
  if bit v 8 then s.almRun x (s.fld F.ALM_CMD_OP) else s

/-- PCI_MBX_CTRL: GO runs the command that the buffer holds (R357). -/
def State.mbxCtrl (s : State) (block : HostRead) (v : Nat) : State :=
  let op := match block with
    | .data b => fieldAt b 0 1
    | _ => 0
  if bit v 0 then s.mbxGo (if 1 ≤ op ∧ op ≤ 5 then op else 1) block else s

/-- SXT_LOG_CTRL: MIRROR_NOW mirrors every waiting entry (R528). -/
def State.logCtrl (s : State) (flashOk : Bool) (v : Nat) : State :=
  let s := s.storeWord F.SXT_LOG_CTRL_UART_MIN_SEV.reg 0 v
  if bit v 2 then s.mirrorNow flashOk else s

/-- SXT_BUS_CTRL of a port: RECOVER of port 1 runs R516. -/
def State.busCtrl (s : State) (x : WriteBrings) (port v : Nat) : State :=
  let s := s.storeWord F.SXT_BUS_CTRL_I3C.reg port v
  if bit v 10 && port == 1 then s.busAgain x.pulses x.afterStop else s

/-- The registers whose writes do more than their access codes say, with what a write of a whole word to an entry does. -/
def specialWrites (x : WriteBrings) : List (Nat × (State → Nat → Nat → State)) :=
  [(F.HLM_QUANTUM_QUANTUM_US.reg, fun s _ v => s.quantumWrite v),
   (F.HLM_ADMIT_CTRL_MARGIN.reg, fun s _ v => s.admitCtrlWrite v),
   (F.HLM_CAL_CTRL_COMMIT.reg, fun s _ v => s.calCtrlWrite v),
   (F.HLM_SHARE_SHARE.reg, fun s i v => if i < 16384 then (s.noteReg F.HLM_SHARE_SHARE.reg i).storeWord F.HLM_SHARE_SHARE.reg i v else s),
   (F.RAD_CELL_ASSIGN_DOMAIN.reg, fun s _ v => s.cellAssignWrite v),
   (F.FH_GRANT_VALID.reg, fun s _ v => s.grantWrite v),
   (F.FAB_CTRL_TIMEOUT_US.reg, fun s _ v => s.fabCtrl v),
   (F.FAB_PORT_CTRL_ENABLE.reg, fun s i v => s.fabPortCtrl i v),
   (F.FAB_ROUTE_DOWN.reg, fun s i v => s.routeWrite i v),
   (F.FAB_REGION_SEL_REGION.reg, fun s _ v => s.regionSel v x.peer),
   (F.FAB_REGION_DATA_DATA.reg, fun s _ v => s.stageWrite false v),
   (F.FAB_BEARING_SEL_BEARING.reg, fun s _ v => s.bearingSel v),
   (F.FAB_BEARING_DATA_DATA.reg, fun s _ v => s.stageWrite true v),
   (F.ETH_PORT_CTRL_MODE.reg, fun s i v => s.portCtrlWrite i v),
   (F.ETH_STEER_VALID.reg, fun s _ v => s.steerWrite v),
   (F.ETH_POL_RATE_VALID.reg, fun s _ v => s.policerWrite v),
   (F.ETH_POL_BURST_CBS.reg, fun s i v => (s.tieReg F.ETH_POL_BURST_CBS.reg i).storeWord F.ETH_POL_BURST_CBS.reg i v),
   (F.ETH_PRING_ENABLE.reg, fun s _ v => s.pringWrite v),
   (F.ETH_Q_CFG_ENABLE.reg, fun s _ v => s.qCfgWrite v),
   (F.ISO_SC_ASSIGN_VALID.reg, fun s _ v => s.scAssign v)] ++
  [(F.MER_TIME_CTRL_LATCH.reg, fun s _ v => s.timeCtrl v),
   (F.MER_SRC_CTRL_PHASE_SRC.reg, fun s i v => s.merSelect F.MER_SRC_CTRL_PHASE_SRC.reg i v),
   (F.MER_PORT_CFG_PTP_EN.reg, fun s i v => s.merSelect F.MER_PORT_CFG_PTP_EN.reg i v),
   (F.SXT_SENS_THR_FATAL.reg, fun s i v => s.thrWrite i v),
   (F.SXT_LOG_SEL_SEQ.reg, fun s _ v => s.logSel v),
   (F.SXT_HEALTH_THR_FAIL.reg, fun s i v => s.healthThr i v),
   (F.SXT_HEALTH_CTRL_WINDOW_S.reg, fun s _ v => s.healthCtrl v),
   (F.SXT_RESET_CTRL_ACTION.reg, fun s _ v => s.resetCtrl x.passed v),
   (F.ALM_CMD_OP.reg, fun s _ v => s.almCmd x v),
   (F.PCI_MBX_CTRL_GO.reg, fun s _ v => s.mbxCtrl x.block v),
   (F.SXT_LOG_CTRL_UART_MIN_SEV.reg, fun s _ v => s.logCtrl x.flashOk v),
   (F.SXT_BUS_CTRL_I3C.reg, fun s i v => s.busCtrl x i v),
   (F.EVC_CTRL_FREEZE.reg, fun s _ v => s.evcCtrlWrite v),
   (F.EVC_CFG_SOURCE.reg, fun s _ v => s.evcCfgWrite v),
   (F.PMC_LIMIT_PKG_LIMIT_W.reg, fun s _ v => s.limitWrite v),
   (F.GLB_MAP_UNIT_UNIT_CLASS.reg, fun s i v => if s.flag F.GLB_MAP_CTRL_BUSY then s else s.storeWord F.GLB_MAP_UNIT_UNIT_CLASS.reg i v),
   (F.GLB_MAP_CTRL_OP.reg, fun s _ v => s.mapCtrl x.passed v)]

/-- A whole word written to an entry of a block register. -/
def State.blockWrite (s : State) (x : WriteBrings) (a idx v : Nat) : State :=
  match (specialWrites x).find? fun p => p.1 == a with
  | some p => p.2 s idx v
  | none => s.storeWord a idx v

/-- RING_SQ_BASE, RING_CQ_BASE and RING_IRQ of an allocated ring; the bases only while it is DISABLED (R363). -/
def State.ringRegWrite (s : State) (inst loc link a v : Nat) : State :=
  s.pageWrite inst link fun s =>
    match s.localRing inst loc with
    | none => s
    | some (_, r) => if a = F.RING_IRQ_IRQ_EN.reg ∨ s.ringState r = ringDisabled then s.storeWord a r.key v else s

/-- A word written to a register of an instance page (R379, R457). -/
def State.pageWordWrite (s : State) (link a idx v size : Nat) : State :=
  let inst := idx / 64
  let loc := idx % 64
  if a = F.INST_CTRL_RESET.reg then s.instCtrl idx v link
  else if a = F.DOORBELL_SQ_TAIL.reg then s.doorbell inst loc v link
  else if a = F.RING_CFG_ENABLE.reg then s.ringCfgWrite inst loc v link
  else if a = F.RING_RECKON_STEP.reg then s.reckonWrite inst loc v link
  else if a = F.RING_SEED_SEED_HALF.reg then (if size = 8 then s.seedWrite inst loc v link else s)
  else if a = F.RING_SQ_BASE_ADDR.reg ∨ a = F.RING_CQ_BASE_ADDR.reg ∨ a = F.RING_IRQ_IRQ_EN.reg then s.ringRegWrite inst loc link a v
  else s

/-- The occupancies of a sub-port's FIFOs, as a read of ETH_FIFO_COUNT finds them (R384): open while the sub-port is up (log entry 103). -/
def State.fifoLook (s : State) (a sp : Nat) : State :=
  if a = F.ETH_FIFO_COUNT_RX_COUNT.reg ∧ s.flag F.ETH_SUB_STATUS_UP sp = true then
    let s := s.setFld F.ETH_FIFO_COUNT_RX_COUNT (Config.freeValue s.freeCtr % 513) sp
    let s := s.setFld F.ETH_FIFO_COUNT_TX_COUNT (Config.freeValue (s.freeCtr + 1) % 513) sp
    { s with freeCtr := s.freeCtr + 2 }
  else if a = F.ETH_FIFO_COUNT_RX_COUNT.reg then (s.setFld F.ETH_FIFO_COUNT_RX_COUNT 0 sp).setFld F.ETH_FIFO_COUNT_TX_COUNT 0 sp
  else s

/-! ### The commands -/

/-- A host write over a window. -/
def State.hostWrite (s : State) (b : Bar) (off value size : Nat) (x : WriteBrings) : State :=
  let off := off % barBytes b
  if !s.hostUp then s
  else if s.refused b off size then s.badAccess (barLink b)
  else match s.place b off with
    | none => s
    | some (a, idx) =>
      match regAt a with
      | none => s
      | some d =>
        let v := (d.presented (s.readWord a idx) off value size).toNat
        match b with
        | .pages _ => s.pageWordWrite (barLink b) a idx v size
        | _ => s.blockWrite x a idx v

/-- REGISTER_WRITE: a write of 4 or 8 bytes at an offset of a window (R9, R10). -/
def execRegisterWrite (bar : Bar) (off value size : Nat) (brings : WriteBrings) (s : State) : Host.Outcome State Fault Refusal :=
  .next (s.hostWrite bar off value size brings)

/-- What a 64-bit read of an entry of a register changes: RC fields are cleared (R12), a sensor's MIN and MAX start again, and TRK_FUSE_INDEX
advances with AUTO_INC (R104). -/
def State.readEffects (s : State) (a idx : Nat) : State :=
  match regAt a with
  | none => s
  | some d =>
    let rc := d.fields.filter fun f => f.acc == .rc
    let s := if rc.isEmpty then s else s.setReg a idx (rc.foldl (fun w f => f.fld.put w 0) (s.reg a idx))
    if a = F.SXT_SENS_DATA_MIN.reg then { s with sxt := { s.sxt with seen := s.sxt.seen.filter (· != idx) } }
    else if a = F.TRK_FUSE_DATA_FUSED_RECORD.reg ∧ s.flag F.TRK_FUSE_INDEX_AUTO_INC then s.addFld F.TRK_FUSE_INDEX_TILE 1
    else s

/-- A host read over a window: what it returns is in `readData`; a read of 4 bytes returns the half that it addresses and changes nothing. -/
def State.hostRead (s : State) (b : Bar) (off size : Nat) : State :=
  let off := off % barBytes b
  if !s.hostUp then s
  else if s.refused b off size then { s.badAccess (barLink b) with readData := 0 }
  else if s.otherLink b off then { s with readData := 0 }
  else match s.place b off with
    | none => { s with readData := 0 }
    | some (a, idx) =>
      let s := s.fifoLook a idx
      let v := s.readWord a idx
      if size = 8 then { s.readEffects a idx with readData := v }
      else { s with readData := if off % 8 = 4 then v >>> 32 else v &&& 0xFFFFFFFF#64 }

/-- RC_READ: a read of 4 or 8 bytes at an offset of a window (R12). -/
def execRcRead (bar : Bar) (off size : Nat) (s : State) : Host.Outcome State Fault Refusal := .next (s.hostRead bar off size)

/-- FUSE_DATA_READ: a read of TRK_FUSE_DATA through BAR 0 (R104, R572). -/
def execFuseDataRead (size : Nat) (s : State) : Host.Outcome State Fault Refusal := .next (s.hostRead .bar0 0x800030 size)

/-- BAD_ACCESS: a write is discarded and a read returns zeros, and the access is counted; one that R9 and R355 allow is none (R9, R355). -/
def State.badHostAccess (s : State) (b : Bar) (off size : Nat) (write : Bool) : State :=
  if s.hostUp && s.refused b (off % barBytes b) size then
    let t := s.badAccess (barLink b)
    if write then t else { t with readData := 0 }
  else s

def execBadAccess (bar : Bar) (off size : Nat) (write : Bool) (s : State) : Host.Outcome State Fault Refusal :=
  .next (s.badHostAccess bar off size write)

end Sys2Proof.Machine
end

