-- ==== Sys2Proof/Machine/Dispatch.lean ====
section
/-! DEFINITION. One arm for each command: a direct call of its meaning. -/

namespace Sys2Proof.Machine

/-- The effect of a command on everything but the queue. -/
def exec (i : Instr) (s : State) : Host.Outcome State Fault Refusal :=
  match i with
  | .registerWrite bar off value size brings => Sys2Proof.Machine.execRegisterWrite bar off value size brings s
  | .badAccess bar off size write => Sys2Proof.Machine.execBadAccess bar off size write s
  | .rcRead bar off size => Sys2Proof.Machine.execRcRead bar off size s
  | .powerOn parts => Sys2Proof.Machine.execPowerOn parts s
  | .deviceBoot trained speed0 width0 speed1 width1 => Sys2Proof.Machine.execDeviceBoot trained speed0 width0 speed1 width1 s
  | .railSample ok => Sys2Proof.Machine.execRailSample ok s
  | .plannedRemoval => Sys2Proof.Machine.execPlannedRemoval s
  | .supplyLoss => Sys2Proof.Machine.execSupplyLoss s
  | .clockLoss kind idx rx => Sys2Proof.Machine.execClockLoss kind idx rx s
  | .d2dFault => Sys2Proof.Machine.execD2dFault s
  | .arrayGrant => Sys2Proof.Machine.execArrayGrant s
  | .arrayBoundary => Sys2Proof.Machine.execArrayBoundary s
  | .arrayCmdComplete => Sys2Proof.Machine.execArrayCmdComplete s
  | .arrayFault kind unit => Sys2Proof.Machine.execArrayFault kind unit s
  | .fuseDataRead size => Sys2Proof.Machine.execFuseDataRead size s
  | .vectorGrant => Sys2Proof.Machine.execVectorGrant s
  | .vecopComplete => Sys2Proof.Machine.execVecopComplete s
  | .attnSegmentComplete => Sys2Proof.Machine.execAttnSegmentComplete s
  | .kvPageFetch run idx => Sys2Proof.Machine.execKvPageFetch run idx s
  | .kvPageComplete run idx page ce ue => Sys2Proof.Machine.execKvPageComplete run idx page ce ue s
  | .ringFetch ring entry => Sys2Proof.Machine.execRingFetch ring entry s
  | .ringServicePass ring => Sys2Proof.Machine.execRingServicePass ring s
  | .nop ring cid => Sys2Proof.Machine.execNop ring cid s
  | .hcopy ring cid => Sys2Proof.Machine.execHcopy ring cid s
  | .runChart ring cid => Sys2Proof.Machine.execRunChart ring cid s
  | .runStart => Sys2Proof.Machine.execRunStart s
  | .loadChart ring cid => Sys2Proof.Machine.execLoadChart ring cid s
  | .loadChartChecks chart => Sys2Proof.Machine.execLoadChartChecks chart s
  | .unloadChart ring cid => Sys2Proof.Machine.execUnloadChart ring cid s
  | .cancel ring of_ => Sys2Proof.Machine.execCancel ring of_ s
  | .commandDispatch run => Sys2Proof.Machine.execCommandDispatch run s
  | .transferStart run idx => Sys2Proof.Machine.execTransferStart run idx s
  | .transferComplete run idx ce ue => Sys2Proof.Machine.execTransferComplete run idx ce ue s
  | .runComplete run => Sys2Proof.Machine.execRunComplete run s
  | .waypointPost run => Sys2Proof.Machine.execWaypointPost run s
  | .haltCapture run ok => Sys2Proof.Machine.execHaltCapture run ok s
  | .quantumWrite value => Sys2Proof.Machine.execQuantumWrite value s
  | .admitCtrlWrite value => Sys2Proof.Machine.execAdmitCtrlWrite value s
  | .calCommit => Sys2Proof.Machine.execCalCommit s
  | .calDisable => Sys2Proof.Machine.execCalDisable s
  | .calPeriodBoundary => Sys2Proof.Machine.execCalPeriodBoundary s
  | .strictEntryStart => Sys2Proof.Machine.execStrictEntryStart s
  | .resSwitchStart => Sys2Proof.Machine.execResSwitchStart s
  | .resSwitchComplete => Sys2Proof.Machine.execResSwitchComplete s
  | .cellAssignWrite value => Sys2Proof.Machine.execCellAssignWrite value s
  | .cellConfig ring cid block => Sys2Proof.Machine.execCellConfig ring cid block s
  | .cellStart ring cid => Sys2Proof.Machine.execCellStart ring cid s
  | .cellStop ring cid => Sys2Proof.Machine.execCellStop ring cid s
  | .slot ring cid list => Sys2Proof.Machine.execSlot ring cid list s
  | .fhStats ring cid => Sys2Proof.Machine.execFhStats ring cid s
  | .harqFlush ring cid => Sys2Proof.Machine.execHarqFlush ring cid s
  | .slotBoundary cell => Sys2Proof.Machine.execSlotBoundary cell s
  | .phaseRelease cell n phase => Sys2Proof.Machine.execPhaseRelease cell n phase s
  | .ethFrameReceive subport frame => Sys2Proof.Machine.execEthFrameReceive subport frame s
  | .rxMemWaitExpire subport frame written => Sys2Proof.Machine.execRxMemWaitExpire subport frame written s
  | .symbolHandoff cell n sym => Sys2Proof.Machine.execSymbolHandoff cell n sym s
  | .agcBlockEnd cell stream => Sys2Proof.Machine.execAgcBlockEnd cell stream s
  | .prachPeriodEnd cell n item stream period => Sys2Proof.Machine.execPrachPeriodEnd cell n item stream period s
  | .prachDetect cell n item => Sys2Proof.Machine.execPrachDetect cell n item s
  | .cplaneEmit cell n sym up => Sys2Proof.Machine.execCplaneEmit cell n sym up s
  | .uplaneEmit cell n sym => Sys2Proof.Machine.execUplaneEmit cell n sym s
  | .grantWrite value => Sys2Proof.Machine.execGrantWrite value s
  | .channelEstimate cell n item => Sys2Proof.Machine.execChannelEstimate cell n item s
  | .equalize cell n sym => Sys2Proof.Machine.execEqualize cell n sym s
  | .codeBlockDecode => Sys2Proof.Machine.execCodeBlockDecode s
  | .codeBlockDecoded cell n item cb => Sys2Proof.Machine.execCodeBlockDecoded cell n item cb s
  | .polarJob => Sys2Proof.Machine.execPolarJob s
  | .pucchDetect cell n item => Sys2Proof.Machine.execPucchDetect cell n item s
  | .encodeCb cell n item cb block => Sys2Proof.Machine.execEncodeCb cell n item cb block s
  | .precode cell n item => Sys2Proof.Machine.execPrecode cell n item s
  | .radioEngineParity cls unit cell n item => Sys2Proof.Machine.execRadioEngineParity cls unit cell n item s
  | .decompParity cell n sym => Sys2Proof.Machine.execDecompParity cell n sym s
  | .fftParity cell n sym => Sys2Proof.Machine.execFftParity cell n sym s
  | .prachParity cell n item => Sys2Proof.Machine.execPrachParity cell n item s
  | .scrubRead result => Sys2Proof.Machine.execScrubRead result s
  | .correctedRewrite dom off => Sys2Proof.Machine.execCorrectedRewrite dom off s
  | .sramUe place corrected => Sys2Proof.Machine.execSramUe place corrected s
  | .stackLoss stack => Sys2Proof.Machine.execStackLoss stack s
  | .fload ring cid => Sys2Proof.Machine.execFload ring cid s
  | .fstore ring cid => Sys2Proof.Machine.execFstore ring cid s
  | .fatomic ring cid => Sys2Proof.Machine.execFatomic ring cid s
  | .finval ring cid => Sys2Proof.Machine.execFinval ring cid s
  | .ffence ring cid => Sys2Proof.Machine.execFfence ring cid s
  | .fown ring cid => Sys2Proof.Machine.execFown ring cid s
  | .fkey ring cid => Sys2Proof.Machine.execFkey ring cid s
  | .fabricRequestReceive node engine tag kind op addr len key epoch fill data => Sys2Proof.Machine.execFabricRequestReceive node engine tag kind op addr len key epoch fill data s
  | .mirrorForward node engine tag addr key epoch data => Sys2Proof.Machine.execMirrorForward node engine tag addr key epoch data s
  | .invalidationReceive node engine tag addr len => Sys2Proof.Machine.execInvalidationReceive node engine tag addr len s
  | .fabricResponse op node status flags data peers => Sys2Proof.Machine.execFabricResponse op node status flags data peers s
  | .fabricOpTimeout op => Sys2Proof.Machine.execFabricOpTimeout op s
  | .quarantineExpire fabric id => Sys2Proof.Machine.execQuarantineExpire fabric id s
  | .probeTimer node => Sys2Proof.Machine.execProbeTimer node s
  | .leaseExpire node => Sys2Proof.Machine.execLeaseExpire node s
  | .sharerDrop home node => Sys2Proof.Machine.execSharerDrop home node s
  | .regionFetch value => Sys2Proof.Machine.execRegionFetch value s
  | .regionCommit value fd => Sys2Proof.Machine.execRegionCommit value fd s
  | .bearingFetch value => Sys2Proof.Machine.execBearingFetch value s
  | .bearingCommit value => Sys2Proof.Machine.execBearingCommit value s
  | .fabCtrlWrite value => Sys2Proof.Machine.execFabCtrlWrite value s
  | .widen port => Sys2Proof.Machine.execWiden port s
  | .flitReceive port seq ack kind crcOk tagOk msgs => Sys2Proof.Machine.execFlitReceive port seq ack kind crcOk tagOk msgs s
  | .rhumbLaneLoss port lanes => Sys2Proof.Machine.execRhumbLaneLoss port lanes s
  | .rhumbRetrainDone ends => Sys2Proof.Machine.execRhumbRetrainDone ends s
  | .linkTrain port peer lock auth => Sys2Proof.Machine.execLinkTrain port peer lock auth s
  | .linkKeyUpdate port => Sys2Proof.Machine.execLinkKeyUpdate port s
  | .createInstance block => Sys2Proof.Machine.execCreateInstance block s
  | .destroyInstance block => Sys2Proof.Machine.execDestroyInstance block s
  | .allocRing block => Sys2Proof.Machine.execAllocRing block s
  | .freeRing block => Sys2Proof.Machine.execFreeRing block s
  | .resetInstance block => Sys2Proof.Machine.execResetInstance block s
  | .doorbell inst loc value link => Sys2Proof.Machine.execDoorbell inst loc value link s
  | .ringEnable inst loc value link => Sys2Proof.Machine.execRingEnable inst loc value link s
  | .ringDisable inst loc value link => Sys2Proof.Machine.execRingDisable inst loc value link s
  | .irqCoalTimer ring => Sys2Proof.Machine.execIrqCoalTimer ring s
  | .dmaCompletion job result => Sys2Proof.Machine.execDmaCompletion job result s
  | .dmaTimeout job => Sys2Proof.Machine.execDmaTimeout job s
  | .atsInvalidation link pasid addr len => Sys2Proof.Machine.execAtsInvalidation link pasid addr len s
  | .instCtrlReset inst link => Sys2Proof.Machine.execInstCtrlReset inst link s
  | .contextReset inst => Sys2Proof.Machine.execContextReset inst s
  | .contextResetDone inst slow => Sys2Proof.Machine.execContextResetDone inst slow s
  | .flr function => Sys2Proof.Machine.execFlr function s
  | .pcieLinkReset link speed width => Sys2Proof.Machine.execPcieLinkReset link speed width s
  | .queueStateUe ring => Sys2Proof.Machine.execQueueStateUe ring s
  | .helmCore core pc => Sys2Proof.Machine.execHelmCore core pc s
  | .engineParity fabric engine => Sys2Proof.Machine.execEngineParity fabric engine s
  | .controlUe => Sys2Proof.Machine.execControlUe s
  | .txPoll queue => Sys2Proof.Machine.execTxPoll queue s
  | .egressSelect subport => Sys2Proof.Machine.execEgressSelect subport s
  | .wheelRelease queue => Sys2Proof.Machine.execWheelRelease queue s
  | .qCommit value => Sys2Proof.Machine.execQCommit value s
  | .telemetrySample => Sys2Proof.Machine.execTelemetrySample s
  | .ethLaneLoss port lane rx => Sys2Proof.Machine.execEthLaneLoss port lane rx s
  | .subportUp subport => Sys2Proof.Machine.execSubportUp subport s
  | .reform port => Sys2Proof.Machine.execReform port s
  | .steerWrite value => Sys2Proof.Machine.execSteerWrite value s
  | .policerWrite value => Sys2Proof.Machine.execPolicerWrite value s
  | .pringWrite value => Sys2Proof.Machine.execPringWrite value s
  | .fifoParity subport frame written => Sys2Proof.Machine.execFifoParity subport frame written s
  | .getVersion => Sys2Proof.Machine.execGetVersion s
  | .getCapabilities => Sys2Proof.Machine.execGetCapabilities s
  | .negotiateAlgorithms offered => Sys2Proof.Machine.execNegotiateAlgorithms offered s
  | .getDigests => Sys2Proof.Machine.execGetDigests s
  | .getCertificate slot len => Sys2Proof.Machine.execGetCertificate slot len s
  | .challenge slot => Sys2Proof.Machine.execChallenge slot s
  | .getMeasurements session aeadOk index => Sys2Proof.Machine.execGetMeasurements session aeadOk index s
  | .keyExchange ok => Sys2Proof.Machine.execKeyExchange ok s
  | .finish session authOk keyDigest => Sys2Proof.Machine.execFinish session authOk keyDigest s
  | .heartbeat session aeadOk => Sys2Proof.Machine.execHeartbeat session aeadOk s
  | .keyUpdate session aeadOk => Sys2Proof.Machine.execKeyUpdate session aeadOk s
  | .endSession session aeadOk => Sys2Proof.Machine.execEndSession session aeadOk s
  | .sessionIdleTimeout session => Sys2Proof.Machine.execSessionIdleTimeout session s
  | .domKeySet session aeadOk req => Sys2Proof.Machine.execDomKeySet session aeadOk req s
  | .domKeyGen session aeadOk req => Sys2Proof.Machine.execDomKeyGen session aeadOk req s
  | .domKeyClear session aeadOk req => Sys2Proof.Machine.execDomKeyClear session aeadOk req s
  | .sakSet session aeadOk req => Sys2Proof.Machine.execSakSet session aeadOk req s
  | .sakClear session aeadOk req => Sys2Proof.Machine.execSakClear session aeadOk req s
  | .saStatus session aeadOk req => Sys2Proof.Machine.execSaStatus session aeadOk req s
  | .setNoticeRing session aeadOk req => Sys2Proof.Machine.execSetNoticeRing session aeadOk req s
  | .scAssignWrite value => Sys2Proof.Machine.execScAssignWrite value s
  | .reckonWrite inst loc value link => Sys2Proof.Machine.execReckonWrite inst loc value link s
  | .seedWrite inst loc value link => Sys2Proof.Machine.execSeedWrite inst loc value link s
  | .ptpFrameReceive subport msg => Sys2Proof.Machine.execPtpFrameReceive subport msg s
  | .ptpTxTimer subport kind => Sys2Proof.Machine.execPtpTxTimer subport kind s
  | .esmcTxTimer => Sys2Proof.Machine.execEsmcTxTimer s
  | .qlTimeout subport => Sys2Proof.Machine.execQlTimeout subport s
  | .sourceLost noAnnounce => Sys2Proof.Machine.execSourceLost noAnnounce s
  | .holdExpired => Sys2Proof.Machine.execHoldExpired s
  | .ppsEdge withStep => Sys2Proof.Machine.execPpsEdge withStep s
  | .ppsOutEdge => Sys2Proof.Machine.execPpsOutEdge s
  | .latch value => Sys2Proof.Machine.execLatch value s
  | .set value => Sys2Proof.Machine.execSet value s
  | .step value => Sys2Proof.Machine.execStep value s
  | .stage images flashOk => Sys2Proof.Machine.execStage images flashOk s
  | .activateReset => Sys2Proof.Machine.execActivateReset s
  | .activateLive => Sys2Proof.Machine.execActivateLive s
  | .confirm => Sys2Proof.Machine.execConfirm s
  | .rollbackReset => Sys2Proof.Machine.execRollbackReset s
  | .rollbackLive => Sys2Proof.Machine.execRollbackLive s
  | .abort => Sys2Proof.Machine.execAbort s
  | .writeFactory images flashOk => Sys2Proof.Machine.execWriteFactory images flashOk s
  | .ownerKey digest sigOk => Sys2Proof.Machine.execOwnerKey digest sigOk s
  | .liveUpdateUnit outcome => Sys2Proof.Machine.execLiveUpdateUnit outcome s
  | .lockstepDisagree pc => Sys2Proof.Machine.execLockstepDisagree pc s
  | .sensorSample readings => Sys2Proof.Machine.execSensorSample readings s
  | .heldResetStart => Sys2Proof.Machine.execHeldResetStart s
  | .logMirrorWrite flashOk => Sys2Proof.Machine.execLogMirrorWrite flashOk s
  | .mirrorNow flashOk => Sys2Proof.Machine.execMirrorNow flashOk s
  | .logFailed => Sys2Proof.Machine.execLogFailed s
  | .logSelWrite value => Sys2Proof.Machine.execLogSelWrite value s
  | .logFetchDone crcOk => Sys2Proof.Machine.execLogFetchDone crcOk s
  | .requestUpdate => Sys2Proof.Machine.execRequestUpdate s
  | .pldmTransfer component image flashOk => Sys2Proof.Machine.execPldmTransfer component image flashOk s
  | .verifyComplete => Sys2Proof.Machine.execVerifyComplete s
  | .activateFirmware selfContained => Sys2Proof.Machine.execActivateFirmware selfContained s
  | .cancelUpdate => Sys2Proof.Machine.execCancelUpdate s
  | .pldmTimeout => Sys2Proof.Machine.execPldmTimeout s
  | .busPoll statuses => Sys2Proof.Machine.execBusPoll statuses s
  | .busRecovery pulses afterStop => Sys2Proof.Machine.execBusRecovery pulses afterStop s
  | .recover pulses afterStop => Sys2Proof.Machine.execRecover pulses afterStop s
  | .sclLowTimeout => Sys2Proof.Machine.execSclLowTimeout s
  | .bypass => Sys2Proof.Machine.execBypass s
  | .idcode => Sys2Proof.Machine.execIdcode s
  | .samplePreload => Sys2Proof.Machine.execSamplePreload s
  | .extest => Sys2Proof.Machine.execExtest s
  | .clamp => Sys2Proof.Machine.execClamp s
  | .highz => Sys2Proof.Machine.execHighz s
  | .tileTest ring cid => Sys2Proof.Machine.execTileTest ring cid s
  | .engineTest ring cid => Sys2Proof.Machine.execEngineTest ring cid s
  | .hbmCal ring cid => Sys2Proof.Machine.execHbmCal ring cid s
  | .serdesCal ring cid => Sys2Proof.Machine.execSerdesCal ring cid s
  | .scrubSweep ring cid => Sys2Proof.Machine.execScrubSweep ring cid s
  | .maintAbort ring cid => Sys2Proof.Machine.execMaintAbort ring cid s
  | .maintComplete ring cid passed errors ce ue => Sys2Proof.Machine.execMaintComplete ring cid passed errors ce ue s
  | .evcProgram value => Sys2Proof.Machine.execEvcProgram value s
  | .freeze value => Sys2Proof.Machine.execFreeze value s
  | .evcAlloc session aeadOk req => Sys2Proof.Machine.execEvcAlloc session aeadOk req s
  | .evcFree session aeadOk req => Sys2Proof.Machine.execEvcFree session aeadOk req s
  | .evcRead session aeadOk req => Sys2Proof.Machine.execEvcRead session aeadOk req s
  | .evcSnapshot session aeadOk req => Sys2Proof.Machine.execEvcSnapshot session aeadOk req s
  | .snapshotRecord dom => Sys2Proof.Machine.execSnapshotRecord dom s
  | .pllLockLoss pll relock => Sys2Proof.Machine.execPllLockLoss pll relock s
  | .powerSample mw => Sys2Proof.Machine.execPowerSample mw s
  | .critHoldExpire => Sys2Proof.Machine.execCritHoldExpire s
  | .allowanceRefill => Sys2Proof.Machine.execAllowanceRefill s
  | .pkgLimitWrite value => Sys2Proof.Machine.execPkgLimitWrite value s
  | .idleExpire kind idx => Sys2Proof.Machine.execIdleExpire kind idx s
  | .prepareElapsed kind idx => Sys2Proof.Machine.execPrepareElapsed kind idx s
  | .dwellElapsed kind idx => Sys2Proof.Machine.execDwellElapsed kind idx s
  | .wakeRequest kind idx => Sys2Proof.Machine.execWakeRequest kind idx s
  | .wakeReady kind idx => Sys2Proof.Machine.execWakeReady kind idx s
  | .wakeLate group => Sys2Proof.Machine.execWakeLate group s
  | .wakeTimeout kind idx => Sys2Proof.Machine.execWakeTimeout kind idx s
  | .arrPllOff => Sys2Proof.Machine.execArrPllOff s
  | .computeReset => Sys2Proof.Machine.execComputeReset s
  | .deviceReset => Sys2Proof.Machine.execDeviceReset s
  | .unitRestart value passed => Sys2Proof.Machine.execUnitRestart value passed s
  | .healthWindow extra => Sys2Proof.Machine.execHealthWindow extra s
  | .healthClear => Sys2Proof.Machine.execHealthClear s
  | .disable force => Sys2Proof.Machine.execDisable force s
  | .enable force passed => Sys2Proof.Machine.execEnable force passed s
  | .pwrokMainFall => Sys2Proof.Machine.execPwrokMainFall s
  | .clockReturn kind idx speed width => Sys2Proof.Machine.execClockReturn kind idx speed width s
  | .laneLockRegain rhumb port lane => Sys2Proof.Machine.execLaneLockRegain rhumb port lane s
  | .perstDeassert link speed width => Sys2Proof.Machine.execPerstDeassert link speed width s
  | .coreClockStop => Sys2Proof.Machine.execCoreClockStop s
  | .ppsOutFall => Sys2Proof.Machine.execPpsOutFall s

end Sys2Proof.Machine
end

