-- ==== Sys2Proof/WellFormed.lean ====
section
/-! DEFINITION. Well-formed commands: every number that names a part of the device, a register entry or a field of a message lies in the
range that the manual gives it. -/

namespace Sys2Proof

/-- A number below a bound, an optional one, and the numbers of a list. -/
def below (n b : Nat) : Bool := decide (n < b)
def optBelow (n : Option Nat) (b : Nat) : Bool := n.all fun x => below x b
def allBelow (l : List Nat) (b : Nat) : Bool := l.all fun x => below x b

/-- The link of a window of instance pages is 0 or 1 (R354). -/
def barOk : Bar → Bool
  | .pages l => below l 2
  | _ => true

/-- A command's numbers lie in range: rings (R361), command IDs (R364), cell slots (R204), instances and local rings (R355, R356), sub-ports
(R381), nodes (R317), domains (R409), and register words (R8). -/
def wellFormed (i : Instr) : Bool :=
  match i with
  | .registerWrite bar _ value _ _ => barOk bar && below value (2 ^ 64)
  | .badAccess bar _ _ _ => barOk bar
  | .rcRead bar _ _ => barOk bar
  | .powerOn _ => true
  | .deviceBoot _ speed0 width0 speed1 width1 => below speed0 8 && below width0 32 && below speed1 8 && below width1 32
  | .railSample _ => true
  | .plannedRemoval => true
  | .supplyLoss => true
  | .clockLoss _ _ _ => true
  | .d2dFault => true
  | .arrayGrant => true
  | .arrayBoundary => true
  | .arrayCmdComplete => true
  | .arrayFault _ _ => true
  | .fuseDataRead _ => true
  | .vectorGrant => true
  | .vecopComplete => true
  | .attnSegmentComplete => true
  | .kvPageFetch run _ => below run 1024
  | .kvPageComplete run _ _ ce ue => below run 1024 && allBelow ce (2 ^ 64) && allBelow ue (2 ^ 64)
  | .ringFetch ring _ => below ring 8192
  | .ringServicePass ring => below ring 8192
  | .nop ring cid => below ring 8192 && below cid 65536
  | .hcopy ring cid => below ring 8192 && below cid 65536
  | .runChart ring cid => below ring 8192 && below cid 65536
  | .runStart => true
  | .loadChart ring cid => below ring 8192 && below cid 65536
  | .loadChartChecks chart => below chart 65536
  | .unloadChart ring cid => below ring 8192 && below cid 65536
  | .cancel ring x => below ring 8192 && below x.cid 65536 && x.pos.all (below · 65536)
  | .commandDispatch run => below run 1024
  | .transferStart run _ => below run 1024
  | .transferComplete run _ ce ue => below run 1024 && allBelow ce (2 ^ 64) && allBelow ue (2 ^ 64)
  | .runComplete run => below run 1024
  | .waypointPost run => below run 1024
  | .haltCapture run _ => below run 1024
  | .quantumWrite value => below value (2 ^ 64)
  | .admitCtrlWrite value => below value (2 ^ 64)
  | .calCommit => true
  | .calDisable => true
  | .calPeriodBoundary => true
  | .strictEntryStart => true
  | .resSwitchStart => true
  | .resSwitchComplete => true
  | .cellAssignWrite value => below value (2 ^ 64)
  | .cellConfig ring cid _ => below ring 8192 && below cid 65536
  | .cellStart ring cid => below ring 8192 && below cid 65536
  | .cellStop ring cid => below ring 8192 && below cid 65536
  | .slot ring cid _ => below ring 8192 && below cid 65536
  | .fhStats ring cid => below ring 8192 && below cid 65536
  | .harqFlush ring cid => below ring 8192 && below cid 65536
  | .slotBoundary cell => below cell 512
  | .phaseRelease cell _ _ => below cell 512
  | .ethFrameReceive subport _ => below subport 32
  | .rxMemWaitExpire subport _ _ => below subport 32
  | .symbolHandoff cell _ sym => below cell 512 && below sym 14
  | .agcBlockEnd cell stream => below cell 512 && below stream 64
  | .prachPeriodEnd cell _ _ stream _ => below cell 512 && below stream 64
  | .prachDetect cell _ _ => below cell 512
  | .cplaneEmit cell _ sym _ => below cell 512 && below sym 14
  | .uplaneEmit cell _ sym => below cell 512 && below sym 14
  | .grantWrite value => below value (2 ^ 64)
  | .channelEstimate cell _ _ => below cell 512
  | .equalize cell _ sym => below cell 512 && below sym 14
  | .codeBlockDecode => true
  | .codeBlockDecoded cell _ _ _ => below cell 512
  | .polarJob => true
  | .pucchDetect cell _ _ => below cell 512
  | .encodeCb cell _ _ _ _ => below cell 512
  | .precode cell _ _ => below cell 512
  | .radioEngineParity _ _ cell _ _ => below cell 512
  | .decompParity cell _ sym => below cell 512 && below sym 14
  | .fftParity cell _ sym => below cell 512 && below sym 14
  | .prachParity cell _ _ => below cell 512
  | .scrubRead _ => true
  | .correctedRewrite dom _ => below dom 128
  | .sramUe _ _ => true
  | .stackLoss stack => below stack 8
  | .fload ring cid => below ring 8192 && below cid 65536
  | .fstore ring cid => below ring 8192 && below cid 65536
  | .fatomic ring cid => below ring 8192 && below cid 65536
  | .finval ring cid => below ring 8192 && below cid 65536
  | .ffence ring cid => below ring 8192 && below cid 65536
  | .fown ring cid => below ring 8192 && below cid 65536
  | .fkey ring cid => below ring 8192 && below cid 65536
  | .fabricRequestReceive node engine tag _ _ addr len key epoch _ _ =>
    below node 1024 && below engine 24 && below tag 256 && below addr (2 ^ 64) && below len (2 ^ 32) && below key (2 ^ 64) && below epoch (2 ^ 32)
  | .mirrorForward node engine tag addr key epoch _ =>
    below node 1024 && below engine 24 && below tag 256 && below addr (2 ^ 64) && below key (2 ^ 64) && below epoch (2 ^ 32)
  | .invalidationReceive node engine tag addr len => below node 1024 && below engine 24 && below tag 256 && below addr (2 ^ 64) && below len (2 ^ 32)
  | .fabricResponse _ node _ flags _ _ => below node 1024 && below flags 256
  | .fabricOpTimeout _ => true
  | .quarantineExpire _ _ => true
  | .probeTimer node => below node 1024
  | .leaseExpire node => below node 1024
  | .sharerDrop home node => below home 1024 && below node 1024
  | .regionFetch value => below value (2 ^ 64)
  | .regionCommit value _ => below value (2 ^ 64)
  | .bearingFetch value => below value (2 ^ 64)
  | .bearingCommit value => below value (2 ^ 64)
  | .fabCtrlWrite value => below value (2 ^ 64)
  | .widen port => below port 4
  | .flitReceive port seq ack _ _ _ _ => below port 4 && below seq 4096 && below ack 4096
  | .rhumbLaneLoss port _ => below port 4
  | .rhumbRetrainDone x => below x.port 4 && below x.lanes 256
  | .linkTrain port peer _ _ => below port 4 && below peer 1024
  | .linkKeyUpdate port => below port 4
  | .createInstance _ => true
  | .destroyInstance _ => true
  | .allocRing _ => true
  | .freeRing _ => true
  | .resetInstance _ => true
  | .doorbell inst loc value link => below inst 1024 && below loc 64 && below value (2 ^ 64) && below link 2
  | .ringEnable inst loc value link => below inst 1024 && below loc 64 && below value (2 ^ 64) && below link 2
  | .ringDisable inst loc value link => below inst 1024 && below loc 64 && below value (2 ^ 64) && below link 2
  | .irqCoalTimer ring => below ring 8192
  | .dmaCompletion _ _ => true
  | .dmaTimeout _ => true
  | .atsInvalidation link pasid addr len => below link 2 && below pasid (2 ^ 20) && below addr (2 ^ 64) && below len (2 ^ 32)
  | .instCtrlReset inst link => below inst 1024 && below link 2
  | .contextReset inst => below inst 1024
  | .contextResetDone inst _ => below inst 1024
  | .flr function => below function 3
  | .pcieLinkReset link speed width => below link 2 && below speed 8 && below width 32
  | .queueStateUe ring => below ring 8192
  | .helmCore core _ => below core 32
  | .engineParity _ engine => below engine 24
  | .controlUe => true
  | .txPoll queue => below queue 4096
  | .egressSelect subport => below subport 32
  | .wheelRelease queue => below queue 4096
  | .qCommit value => below value (2 ^ 64)
  | .telemetrySample => true
  | .ethLaneLoss port lane _ => below port 8 && below lane 8
  | .subportUp subport => below subport 32
  | .reform port => below port 8
  | .steerWrite value => below value (2 ^ 64)
  | .policerWrite value => below value (2 ^ 64)
  | .pringWrite value => below value (2 ^ 64)
  | .fifoParity subport _ _ => below subport 32
  | .getVersion => true
  | .getCapabilities => true
  | .negotiateAlgorithms _ => true
  | .getDigests => true
  | .getCertificate slot len => below slot 8 && below len (2 ^ 32)
  | .challenge slot => below slot 8
  | .getMeasurements session _ _ => optBelow session 16
  | .keyExchange _ => true
  | .finish session _ _ => below session 16
  | .heartbeat session _ => below session 16
  | .keyUpdate session _ => below session 16
  | .endSession session _ => below session 16
  | .sessionIdleTimeout session => below session 16
  | .domKeySet session _ _ => below session 16
  | .domKeyGen session _ _ => below session 16
  | .domKeyClear session _ _ => below session 16
  | .sakSet session _ _ => below session 16
  | .sakClear session _ _ => below session 16
  | .saStatus session _ _ => below session 16
  | .setNoticeRing session _ _ => below session 16
  | .scAssignWrite value => below value (2 ^ 64)
  | .reckonWrite inst loc value link => below inst 1024 && below loc 64 && below value (2 ^ 64) && below link 2
  | .seedWrite inst loc value link => below inst 1024 && below loc 64 && below value (2 ^ 64) && below link 2
  | .ptpFrameReceive subport _ => below subport 32
  | .ptpTxTimer subport _ => below subport 32
  | .esmcTxTimer => true
  | .qlTimeout subport => below subport 32
  | .sourceLost _ => true
  | .holdExpired => true
  | .ppsEdge _ => true
  | .ppsOutEdge => true
  | .latch value => below value (2 ^ 64)
  | .set value => below value (2 ^ 64)
  | .step value => below value (2 ^ 64)
  | .stage _ _ => true
  | .activateReset => true
  | .activateLive => true
  | .confirm => true
  | .rollbackReset => true
  | .rollbackLive => true
  | .abort => true
  | .writeFactory _ _ => true
  | .ownerKey _ _ => true
  | .liveUpdateUnit _ => true
  | .lockstepDisagree _ => true
  | .sensorSample _ => true
  | .heldResetStart => true
  | .logMirrorWrite _ => true
  | .mirrorNow _ => true
  | .logFailed => true
  | .logSelWrite value => below value (2 ^ 64)
  | .logFetchDone _ => true
  | .requestUpdate => true
  | .pldmTransfer _ _ _ => true
  | .verifyComplete => true
  | .activateFirmware _ => true
  | .cancelUpdate => true
  | .pldmTimeout => true
  | .busPoll _ => true
  | .busRecovery _ _ => true
  | .recover _ _ => true
  | .sclLowTimeout => true
  | .bypass => true
  | .idcode => true
  | .samplePreload => true
  | .extest => true
  | .clamp => true
  | .highz => true
  | .tileTest ring cid => below ring 8192 && below cid 65536
  | .engineTest ring cid => below ring 8192 && below cid 65536
  | .hbmCal ring cid => below ring 8192 && below cid 65536
  | .serdesCal ring cid => below ring 8192 && below cid 65536
  | .scrubSweep ring cid => below ring 8192 && below cid 65536
  | .maintAbort ring cid => below ring 8192 && below cid 65536
  | .maintComplete ring cid _ _ ce ue => below ring 8192 && below cid 65536 && allBelow ce (2 ^ 64) && allBelow ue (2 ^ 64)
  | .evcProgram value => below value (2 ^ 64)
  | .freeze value => below value (2 ^ 64)
  | .evcAlloc session _ _ => below session 16
  | .evcFree session _ _ => below session 16
  | .evcRead session _ _ => below session 16
  | .evcSnapshot session _ _ => below session 16
  | .snapshotRecord dom => below dom 128
  | .pllLockLoss pll _ => below pll 6
  | .powerSample _ => true
  | .critHoldExpire => true
  | .allowanceRefill => true
  | .pkgLimitWrite value => below value (2 ^ 64)
  | .idleExpire _ _ => true
  | .prepareElapsed _ _ => true
  | .dwellElapsed _ _ => true
  | .wakeRequest _ _ => true
  | .wakeReady _ _ => true
  | .wakeLate group => below group 64
  | .wakeTimeout _ _ => true
  | .arrPllOff => true
  | .computeReset => true
  | .deviceReset => true
  | .unitRestart value _ => below value (2 ^ 64)
  | .healthWindow _ => true
  | .healthClear => true
  | .disable _ => true
  | .enable _ _ => true
  | .pwrokMainFall => true
  | .clockReturn _ _ speed width => below speed 8 && below width 32
  | .laneLockRegain _ port lane => below port 8 && below lane 8
  | .perstDeassert link speed width => below link 2 && below speed 8 && below width 32
  | .coreClockStop => true
  | .ppsOutFall => true

end Sys2Proof
end

