-- ==== Sys2Proof/Safety.lean ====
section
/-! DEFINITION. What counts as a safe state and a safe run, and the names in which statements say what a command leaves as it was. -/

namespace Sys2Proof.Machine

/-- Every waiting command is well formed. -/
def State.queueOk (s : State) : Prop := ∀ c ∈ s.pending, wellFormed c = true

/-- The memory is in canonical form: keys rise, and no entry holds what an unlisted byte reads as. -/
def State.memOk (s : State) : Prop := Memory.wf s.mem = true

/-- A state that every step from a safe state reaches again. -/
def State.safe (s : State) : Prop := s.queueOk ∧ s.memOk

/-- A step that neither faults nor refuses. -/
def goesOn (o : Host.Outcome State Fault Refusal) : Prop := ∃ t, o = .next t

/-- Every command of a list runs, one after the other, without a fault or a refusal. -/
def State.runsSafely (s : State) : List Instr → Prop
  | [] => True
  | c :: l => ∃ t, exec c s = .next t ∧ t.runsSafely l

/-! ### What a command may change -/

/-- The commands that may change a byte of the memory. -/
def mayStore (c : Instr) : Bool :=
  match c with
  | .abort .. | .activateReset .. | .agcBlockEnd .. | .allocRing .. | .arrayCmdComplete .. | .arrayFault .. | .attnSegmentComplete ..
  | .cancel .. | .cancelUpdate .. | .cellAssignWrite .. | .cellConfig .. | .cellStart .. | .cellStop .. | .channelEstimate ..
  | .clockLoss .. | .codeBlockDecoded .. | .computeReset .. | .contextReset .. | .createInstance .. | .decompParity ..
  | .destroyInstance .. | .deviceBoot .. | .deviceReset .. | .disable .. | .dmaCompletion .. | .dmaTimeout .. | .domKeyGen ..
  | .domKeySet .. | .egressSelect .. | .engineParity .. | .equalize .. | .ethFrameReceive .. | .ethLaneLoss .. | .fabricOpTimeout ..
  | .fabricRequestReceive .. | .fabricResponse .. | .fatomic .. | .fifoParity .. | .finval .. | .flitReceive .. | .fload .. | .flr ..
  | .fown .. | .freeRing .. | .harqFlush .. | .hcopy .. | .heldResetStart .. | .helmCore .. | .instCtrlReset .. | .kvPageComplete ..
  | .liveUpdateUnit .. | .loadChartChecks .. | .lockstepDisagree .. | .maintComplete .. | .mirrorForward .. | .pcieLinkReset ..
  | .plannedRemoval .. | .pldmTimeout .. | .pllLockLoss .. | .polarJob .. | .prachDetect .. | .prachParity .. | .prachPeriodEnd ..
  | .precode .. | .pucchDetect .. | .quarantineExpire .. | .queueStateUe .. | .radioEngineParity .. | .reform .. | .registerWrite ..
  | .resSwitchComplete .. | .resSwitchStart .. | .resetInstance .. | .rhumbLaneLoss .. | .rhumbRetrainDone .. | .rollbackReset ..
  | .rxMemWaitExpire .. | .scrubRead .. | .sharerDrop .. | .slotBoundary .. | .snapshotRecord .. | .stackLoss .. | .supplyLoss ..
  | .symbolHandoff .. | .telemetrySample .. | .transferComplete .. | .transferStart .. | .txPoll .. | .unitRestart .. | .uplaneEmit ..
  | .vecopComplete .. | .vectorGrant .. => true
  | _ => false

/-- The commands that may change a cell slot. -/
def mayCells (c : Instr) : Bool :=
  match c with
  | .abort .. | .activateReset .. | .agcBlockEnd .. | .allocRing .. | .arrayFault .. | .arrayGrant .. | .cancel .. | .cancelUpdate ..
  | .cellAssignWrite .. | .cellConfig .. | .cellStart .. | .cellStop .. | .channelEstimate .. | .clockLoss .. | .codeBlockDecode ..
  | .codeBlockDecoded .. | .computeReset .. | .contextReset .. | .cplaneEmit .. | .createInstance .. | .d2dFault .. | .decompParity ..
  | .destroyInstance .. | .deviceBoot .. | .deviceReset .. | .disable .. | .encodeCb .. | .engineParity .. | .equalize ..
  | .ethFrameReceive .. | .fabricRequestReceive .. | .fatomic .. | .fhStats .. | .fload .. | .flr .. | .freeRing .. | .harqFlush ..
  | .hcopy .. | .heldResetStart .. | .helmCore .. | .instCtrlReset .. | .kvPageComplete .. | .liveUpdateUnit .. | .loadChartChecks ..
  | .lockstepDisagree .. | .maintComplete .. | .pcieLinkReset .. | .phaseRelease .. | .plannedRemoval .. | .pldmTimeout ..
  | .pllLockLoss .. | .polarJob .. | .prachDetect .. | .prachParity .. | .prachPeriodEnd .. | .precode .. | .pucchDetect ..
  | .pwrokMainFall .. | .queueStateUe .. | .radioEngineParity .. | .railSample .. | .registerWrite .. | .resSwitchComplete ..
  | .resetInstance .. | .rollbackReset .. | .runComplete .. | .rxMemWaitExpire .. | .scrubRead .. | .sensorSample .. | .slot ..
  | .slotBoundary .. | .sramUe .. | .stackLoss .. | .supplyLoss .. | .symbolHandoff .. | .transferComplete .. | .unitRestart ..
  | .uplaneEmit .. | .vectorGrant .. => true
  | _ => false

/-- The commands that may change the Meridian's own state. -/
def mayClock (c : Instr) : Bool :=
  match c with
  | .abort .. | .activateReset .. | .cancelUpdate .. | .clockLoss .. | .clockReturn .. | .computeReset .. | .d2dFault ..
  | .deviceBoot .. | .deviceReset .. | .disable .. | .esmcTxTimer .. | .ethLaneLoss .. | .heldResetStart .. | .latch ..
  | .liveUpdateUnit .. | .lockstepDisagree .. | .maintComplete .. | .plannedRemoval .. | .pldmTimeout .. | .pllLockLoss .. | .ppsEdge ..
  | .ppsOutEdge .. | .ppsOutFall .. | .ptpFrameReceive .. | .ptpTxTimer .. | .pwrokMainFall .. | .qlTimeout .. | .railSample ..
  | .reform .. | .registerWrite .. | .rollbackReset .. | .sensorSample .. | .set .. | .sourceLost .. | .step .. | .supplyLoss ..
  | .unitRestart .. => true
  | _ => false

/-- The commands that may change a domain's key. -/
def mayKeys (c : Instr) : Bool :=
  match c with
  | .abort .. | .activateReset .. | .cancelUpdate .. | .clockLoss .. | .computeReset .. | .deviceBoot .. | .deviceReset ..
  | .domKeyClear .. | .domKeyGen .. | .domKeySet .. | .heldResetStart .. | .liveUpdateUnit .. | .lockstepDisagree ..
  | .plannedRemoval .. | .pldmTimeout .. | .registerWrite .. | .rollbackReset .. | .supplyLoss .. => true
  | _ => false

/-- The commands that may change a run. -/
def mayRuns (c : Instr) : Bool :=
  match c with
  | .abort .. | .activateReset .. | .allocRing .. | .arrayBoundary .. | .arrayCmdComplete .. | .arrayFault .. | .arrayGrant ..
  | .attnSegmentComplete .. | .cancel .. | .cancelUpdate .. | .channelEstimate .. | .clockLoss .. | .commandDispatch ..
  | .computeReset .. | .contextReset .. | .createInstance .. | .d2dFault .. | .destroyInstance .. | .deviceBoot .. | .deviceReset ..
  | .disable .. | .doorbell .. | .engineParity .. | .equalize .. | .fabricRequestReceive .. | .fatomic .. | .fload .. | .flr ..
  | .freeRing .. | .haltCapture .. | .hcopy .. | .heldResetStart .. | .helmCore .. | .instCtrlReset .. | .kvPageComplete ..
  | .kvPageFetch .. | .liveUpdateUnit .. | .loadChartChecks .. | .lockstepDisagree .. | .maintComplete .. | .pcieLinkReset ..
  | .plannedRemoval .. | .pldmTimeout .. | .pllLockLoss .. | .polarJob .. | .precode .. | .pucchDetect .. | .pwrokMainFall ..
  | .queueStateUe .. | .railSample .. | .registerWrite .. | .resSwitchComplete .. | .resSwitchStart .. | .resetInstance ..
  | .rollbackReset .. | .runComplete .. | .runStart .. | .scrubRead .. | .sensorSample .. | .sramUe .. | .stackLoss .. | .supplyLoss ..
  | .transferComplete .. | .transferStart .. | .unitRestart .. | .vecopComplete .. | .vectorGrant .. | .waypointPost .. => true
  | _ => false

/-- The commands that may change what the fabric engines hold. -/
def mayFab (c : Instr) : Bool :=
  match c with
  | .abort .. | .activateReset .. | .bearingCommit .. | .bearingFetch .. | .cancelUpdate .. | .channelEstimate .. | .clockLoss ..
  | .computeReset .. | .contextReset .. | .d2dFault .. | .deviceBoot .. | .deviceReset .. | .disable .. | .dmaCompletion ..
  | .dmaTimeout .. | .equalize .. | .fabricOpTimeout .. | .fabricRequestReceive .. | .fabricResponse .. | .fatomic .. | .finval ..
  | .fkey .. | .flitReceive .. | .fload .. | .fown .. | .hcopy .. | .heldResetStart .. | .invalidationReceive .. | .kvPageComplete ..
  | .leaseExpire .. | .liveUpdateUnit .. | .loadChartChecks .. | .lockstepDisagree .. | .maintComplete .. | .mirrorForward ..
  | .plannedRemoval .. | .pldmTimeout .. | .pllLockLoss .. | .polarJob .. | .precode .. | .probeTimer .. | .pucchDetect ..
  | .pwrokMainFall .. | .quarantineExpire .. | .railSample .. | .regionCommit .. | .regionFetch .. | .registerWrite ..
  | .resSwitchComplete .. | .rhumbLaneLoss .. | .rhumbRetrainDone .. | .rollbackReset .. | .scrubRead .. | .sensorSample ..
  | .sharerDrop .. | .stackLoss .. | .supplyLoss .. | .transferComplete .. | .transferStart .. | .unitRestart .. => true
  | _ => false

end Sys2Proof.Machine
end

