-- ==== Sys2Proof/Certificates/Slice0/Obligations.lean ====
section
/-! DEFINITION. The statements for the provers. Each names the rules of the manual that it formalises, or the log entry of a choice of the
model's own. -/

open Sys2Proof Sys2Proof.Machine

/-- A step runs the command at the front of the queue. For every command c and state s, a step of s with c put at the front of its queue of waiting
commands is exec of c on s with the queue's rest, whatever the outcome. -/
def Obligations.StepRunsTheFrontCommand : Prop :=
  ∀ (c : Instr) (s : State), step { s with pending := c :: s.pending } = exec c s

/-- A step with an empty queue is one cycle of the timing clock (the model's choice, log entry 38). With no command waiting a step answers a next
state in which only time has passed: device time is six units (one nanosecond) later, and the Meridian counter has advanced by 2^32 + RATE_ADJ of its
units for each timing cycle that the span holds; every register and the queue are as before. That an idle step is a tick is the model's choice (log
entry 38); how the counter advances is R460. -/
def Obligations.EmptyQueueIsATimingCycle : Prop :=
  ∀ s : State, s.pending = [] → ∃ t : State, step s = .next t ∧ t.now = s.now + 6 ∧ t.pending = [] ∧
    t.tai = (s.tai + ((((s.now + 6) / 6 - s.now / 6 : Nat) : Int) * (2 ^ 32 + s.rateAdj)).toNat) % (2 ^ 48 * taiSec) ∧
    (∀ a i, t.reg a i = s.reg a i) ∧ t = { s with now := t.now, tai := t.tai }

/-- After reset every register holds the Reset column's value and nothing is under way. In State.reset every register entry reads the hexadecimal
value of the Reset column (a register that no table entry gives a value reads 0: fuse and Almanac values are loaded later, log entry 3), no command
waits, no ring, instance, chart, run, DMA job, fabric operation, session or key exists, memory lists nothing and is in canonical form, and the device
has no power yet (the model's own place for reset, log entry 3). -/
def Obligations.ResetHoldsTheTablesValues : Prop :=
  (∀ a i, State.reset.reg a i = BitVec.ofNat 64 (Tab.getD resetTable a 0)) ∧ State.reset.pending = [] ∧ State.reset.queueOk ∧
  State.reset.memOk ∧ State.reset.mem = [] ∧ State.reset.rings = [] ∧ State.reset.insts = [] ∧ State.reset.charts = [] ∧
  State.reset.runs = [] ∧ State.reset.dma = [] ∧ State.reset.fab.ops = [] ∧ State.reset.sessions = [] ∧ State.reset.hbmKeys = [] ∧
  State.reset.cells = [] ∧ State.reset.log.sram = [] ∧ State.reset.pow.life = .off

/-- Commands are taken first in, first out, one a step, and none is added, lost or reordered. For every state s and every next state t that a step
answers: the commands that wait in t are those that waited in s less the front one, in their order; and if every command that waits in s is well
formed, so is every one that waits in t. No effect of any command touches the queue: this quantifies over all 246 commands and every operand. -/
def Obligations.EveryStepTakesOneCommand : Prop :=
  ∀ s t : State, step s = .next t → t.pending = s.pending.tail ∧ (s.queueOk → t.queueOk)

/-- Every step keeps the memory in canonical form. If the memory of s is in canonical form (keys strictly rising, no entry equal to what an unlisted
byte reads as) and a step of s answers t, then the memory of t is in canonical form, whichever of the 246 commands ran. The form is the model's own
(log entry 6), so that equal memories are equal data. -/
def Obligations.MemoryStaysCanonical : Prop :=
  ∀ s t : State, s.memOk → step s = .next t → t.memOk

/-- A written word changes each field of a register by its access code, and no other register. For every register of the address map and every field
of it, after a word v is written to an entry of the register by its access codes: an RW field holds the written value (cut to the limits of the rules
that store the nearer limit); RO, WO and RC fields are as before; a W1C field has the bits of v cleared; a W1S field has the bits of v set. Every
other register and every other entry of the same register is unchanged, and so is all of the state beside the register file. -/
def Obligations.RegisterFieldsFollowAccessCodes : Prop :=
  ∀ (s : State) (a i v : Nat) (d : RegDesc), regAt a = some d → let w := BitVec.ofNat 64 v; let t := s.storeWord a i v
    (∀ f ∈ d.fields,
      (f.acc = .rw → t.fld f.fld i = storeLimit f.fld (f.fld.get w) % 2 ^ f.fld.w) ∧
      ((f.acc = .ro ∨ f.acc = .wo ∨ f.acc = .rc) → t.fld f.fld i = s.fld f.fld i) ∧
      (f.acc = .w1c → t.fld f.fld i = f.fld.get (s.reg a i &&& ~~~w)) ∧
      (f.acc = .w1s → t.fld f.fld i = f.fld.get (s.reg a i ||| w))) ∧
    (∀ b j, regKey b j ≠ regKey a i → t.reg b j = s.reg b j) ∧ t = { s with regs := t.regs }

/-- Register writes, reads, fuse reads and refused accesses complete. REGISTER_WRITE: a 64-bit aligned write through BAR 0 that the device answers,
to a register whose write does nothing more than its access codes say, writes the word to the register's entry in window (R9, R10). RC_READ: a 64-bit
read returns the register's value and clears its RC fields; a 32-bit read returns the addressed half and changes nothing else (R10, R12).
FUSE_DATA_READ is the read of TRK_FUSE_DATA. BAD_ACCESS: an unaligned access or one of another size is discarded, a read returns zeros, and the
access is counted and noted in the error status (R9, R355). -/
def Obligations.RegisterAccessesComplete : Prop :=
  (∀ (s : State) (off v : Nat) (x : WriteBrings) (d : RegDesc), s.hostUp = true → off < 2 ^ 26 → accessBad off 8 = false →
    s.bar0Answers (regAddress off) = true → regAt (regAddress off) = some d →
    (∀ p ∈ specialWrites x, p.1 ≠ regAddress off) →
    exec (.registerWrite .bar0 off v 8 x) s = .next (s.storeWord (regAddress off) (s.window (regAddress off)) v)) ∧
  (∀ (s : State) (off v : Nat) (x : WriteBrings) (d : RegDesc) (f : Nat × (State → Nat → Nat → State)), s.hostUp = true → off < 2 ^ 26 →
    accessBad off 8 = false → s.bar0Answers (regAddress off) = true → regAt (regAddress off) = some d →
    (specialWrites x).find? (fun p => p.1 == regAddress off) = some f → ∃ w, (v < 2 ^ 64 → w = v) ∧
    exec (.registerWrite .bar0 off v 8 x) s = .next (f.2 s (s.window (regAddress off)) w)) ∧
  (∀ (s : State) (off : Nat), s.hostUp = true → off < 2 ^ 26 → accessBad off 8 = false → s.bar0Answers (regAddress off) = true →
    regAddress off ≠ F.ETH_FIFO_COUNT_RX_COUNT.reg →
      exec (.rcRead .bar0 off 8) s = .next { s.readEffects (regAddress off) (s.window (regAddress off)) with
      readData := s.readWord (regAddress off) (s.window (regAddress off)) }) ∧
  (∀ (s : State) (off : Nat), s.hostUp = true → off < 2 ^ 26 → accessBad off 4 = false → s.bar0Answers (regAddress off) = true →
    regAddress off ≠ F.ETH_FIFO_COUNT_RX_COUNT.reg → exec (.rcRead .bar0 off 4) s = .next { s with
      readData := if off % 8 = 4 then s.readWord (regAddress off) (s.window (regAddress off)) >>> 32
                  else s.readWord (regAddress off) (s.window (regAddress off)) &&& 0xFFFFFFFF#64 }) ∧
  (∀ s : State, s.hostUp = true → s.bar0Answers F.TRK_FUSE_DATA_FUSED_RECORD.reg = true →
    exec (.fuseDataRead 8) s = .next { s.readEffects F.TRK_FUSE_DATA_FUSED_RECORD.reg (s.window F.TRK_FUSE_DATA_FUSED_RECORD.reg) with
      readData := s.readWord F.TRK_FUSE_DATA_FUSED_RECORD.reg (s.window F.TRK_FUSE_DATA_FUSED_RECORD.reg) }) ∧
  (∀ (s : State) (bar : Bar) (off size : Nat), s.hostUp = true → accessBad (off % barBytes bar) size = true →
    exec (.badAccess bar off size true) s = .next (s.badAccess (barLink bar)) ∧
    exec (.badAccess bar off size false) s = .next { s.badAccess (barLink bar) with readData := 0 } ∧
    (s.badAccess (barLink bar)).fld F.PCI_ERR_STATUS_BAD_ACCESS = 1)

/-- NOP, HCOPY, CANCEL, RUN_CHART, LOAD_CHART and UNLOAD_CHART complete when they may start. For a fetched command that may start (every earlier one
of its ring has started, and a FENCE finds none left): NOP completes with OK (R369). HCOPY to the host reads the domain's HBM, issues the write and
completes with OK; HCOPY from the host starts its DMA read (R369). CANCEL of an ID that no incomplete RUN_CHART has completes with NOT_FOUND; of a
run that waits for its context, ends it and completes with OK; of a published entry that is not fetched, notes it, so that it ends with CANCELLED
when it is fetched, and completes with OK (R136). RUN_CHART of a READY chart of the ring's domain that admits the class waits for
a run context, and its chart counts one run more (R109, R113). LOAD_CHART that passes orders 1 to 4 takes a chart entry, LOADING, and begins the copy
(R108, R603). UNLOAD_CHART of a READY chart without runs frees it and completes with OK (R108). -/
def Obligations.RingCommandsComplete : Prop :=
  (∀ (s : State) (g cid : Nat) (f : Fetched), s.startable g cid 0x00 = some f →
    exec (.nop g cid) s = .next (s.completeStatus g cid 0)) ∧
  (∀ (s : State) (g cid : Nat) (f : Fetched), s.startable g cid 0x08 = some f → hcopyOk f.body = true → fieldAt f.body 36 1 = 1 →
    s.dmaBusy g = false →
    let d := s.ringDom g
    let u := s.readHbm d (fieldAt f.body 24 8) (fieldAt f.body 32 4)
    u.hbmFault d (fieldAt f.body 24 8) (fieldAt f.body 32 4) true = none →
    exec (.hcopy g cid) s = .next (((u.dmaWrite (u.ringInst g) g d (fieldAt f.body 16 8)
      (u.bytes .hbm d (fieldAt f.body 24 8) (fieldAt f.body 32 4))).count 0x176 (some d)
      (fieldAt f.body 32 4 / 64)).completeStatus g cid 0).limitStacks) ∧
  (∀ (s u : State) (g cid : Nat) (f : Fetched), s.startable g cid 0x08 = some f → hcopyOk f.body = true → fieldAt f.body 36 1 = 0 →
    s.hbmFault (s.ringDom g) (fieldAt f.body 24 8) (fieldAt f.body 32 4) false = none →
    s.dmaRead (.hcopy g cid) (s.ringInst g) g (fieldAt f.body 16 8) (fieldAt f.body 32 4) = some u →
    exec (.hcopy g cid) s = .next (u.stageCmd g f .started).limitStacks) ∧
  (∀ (s : State) (g cid : Nat) (pos : Option Nat) (f : Fetched), s.startable g cid 0x04 = some f →
    s.cancelTarget g (fieldAt f.body 16 2) = none →
    (s.cancelAhead g pos = none → exec (.cancel g ⟨cid, pos⟩) s = .next (s.completeStatus g cid stNotFound)) ∧
    (∀ u, s.cancelAhead g pos = some u → exec (.cancel g ⟨cid, pos⟩) s = .next (u.completeStatus g cid 0))) ∧
  (∀ (s : State) (g cid : Nat) (pos : Option Nat) (f x : Fetched), s.startable g cid 0x04 = some f →
    s.cancelTarget g (fieldAt f.body 16 2) = some x → x.stage ≠ .started → s.runOf g x.cid = none →
    exec (.cancel g ⟨cid, pos⟩) s = .next ((s.cancelWaiting g x).completeStatus g cid 0)) ∧
  (∀ (s : State) (g cid : Nat) (f : Fetched) (r : Machine.Ring) (c : Chart), s.startable g cid 0x01 = some f →
    Tab.get? s.rings g = some r → Tab.get? s.charts (fieldAt f.body 16 2) = some c → c.st = .ready → c.dom = s.ringDom g → c.lost = false →
    bit c.classMask (r.cls - 1) = true → ∃ t, exec (.runChart g cid) s = .next t ∧
      t.ctxWait = s.ctxWait ++ [⟨.ring g cid, fieldAt f.body 16 2, s.ringDom g, r.cls, none, slice f.body 16 48, f.step⟩] ∧
      t.charts = Tab.set s.charts (fieldAt f.body 16 2) { c with runs := c.runs + 1 } ∧ t.rings = (s.stageCmd g f .waitCtx).rings ∧
      t = { s with ctxWait := t.ctxWait, charts := t.charts, rings := t.rings }) ∧
  (∀ (s : State) (g cid : Nat) (f : Fetched), s.startable g cid 0x02 = some f → s.loadCheck (s.ringDom g) f.body = none →
    (∃ k, k < 65536 ∧ Tab.has s.charts k = false) → (∃ e, s.engineFor ucDma 16 g = some e ∧ s.descUsed e < 1024) →
    ∃ id t c, exec (.loadChart g cid) s = .next t ∧ id < 65536 ∧ Tab.has s.charts id = false ∧ Tab.get? t.charts id = some c ∧
      c.st = .loading ∧ c.dom = s.ringDom g ∧ c.ring = g ∧ c.cid = cid ∧ c.hbmOff = fieldAt f.body 32 8 ∧ c.size = fieldAt f.body 24 4) ∧
  (∀ (s : State) (g cid : Nat) (f : Fetched) (c : Chart), s.startable g cid 0x03 = some f →
    Tab.get? s.charts (fieldAt f.body 16 2) = some c → c.st = .ready → c.dom = s.ringDom g → c.runs = 0 →
    exec (.unloadChart g cid) s =
      .next ({ s with charts := Tab.del s.charts (fieldAt f.body 16 2) }.completeStatus g cid 0))

/-- RING_FETCH, RING_SERVICE_PASS, DMA_COMPLETION, DMA_TIMEOUT and LOAD_CHART_CHECKS complete. RING_FETCH of a ring that may be fetched takes the
entry: the fetched command is appended with its ID, opcode, flags and user value, and SQ_HEAD advances by one, wrapping at the ring's size (R364,
R367); a host read that times out takes the ring to ERROR with cause 1, one that is denied with cause 2 (R363, R373). RING_SERVICE_PASS of an enabled
or quiescing ring without an overdue command advances HEARTBEAT by one (R559). DMA_COMPLETION of the last bytes of a read with a request on its link
counts its blocks and hands the bytes to its use; for a job that is gone or over it is a late completion, counted in LATE_CPL with its status bit set
(R373, R374). DMA_TIMEOUT puts the tags of the job's requests on its link in quarantine for four times the timeout, counts it and fails its use
(R374). LOAD_CHART_CHECKS of a LOADING chart whose copy has landed runs the checks of R603. -/
def Obligations.FetchAndHostTransfersComplete : Prop :=
  (∀ (s : State) (g : Nat) (r : Machine.Ring) (b : List Byte), Tab.get? s.rings g = some r → s.mayFetch r = true →
    fetchCheck (pad64 b) r.cls = none → r.reckons = false → r.cancels.contains 0 = false → ∃ t q, exec (.ringFetch g (.data b)) s = .next t ∧
      Tab.get? t.rings g = some q ∧
      q.fetched = r.fetched ++ [⟨fieldAt (pad64 b) 2 2, fieldAt (pad64 b) 0 1, fieldAt (pad64 b) 1 1, fieldAt (pad64 b) 8 8, pad64 b,
        .waiting, s.now, 0, r.arrivals.headD s.tai16⟩] ∧
      t.fld F.RING_STATUS_SQ_HEAD r.key =
        (s.fld F.RING_STATUS_SQ_HEAD r.key + 1) % 2 ^ s.fld F.RING_CFG_SQ_LOG2 r.key % 2 ^ F.RING_STATUS_SQ_HEAD.w) ∧
  (∀ (s : State) (g : Nat) (r : Machine.Ring) (why : List Byte), Tab.get? s.rings g = some r → s.mayFetch r = true →
    exec (.ringFetch g .timeout) s = .next (s.ringFails g r 1) ∧ exec (.ringFetch g (.denied why)) s = .next (s.ringFails g r 2)) ∧
  (∀ (s : State) (g : Nat) (r : Machine.Ring), Tab.get? s.rings g = some r →
    (s.ringState r = ringEnabled ∨ s.ringState r = ringQuiescing) → s.overdue g = false →
    ∃ t, exec (.ringServicePass g) s = .next t ∧ t = { s with regs := t.regs } ∧
      t.fld F.RING_HEARTBEAT_HEARTBEAT r.key =
        (s.fld F.RING_HEARTBEAT_HEARTBEAT r.key + 1) % 2 ^ F.RING_HEARTBEAT_HEARTBEAT.w) ∧
  (∀ (s : State) (k : Nat) (j : DmaJob) (b : List Byte), Tab.get? s.dma k = some j → j.landed = false → j.failed = none →
    s.readsOut k j ≠ 0 → b.length + j.data.length = j.len →
    exec (.dmaCompletion k (.data b)) s =
      .next ((s.count (0xC03 + 8 * j.engine) none (j.len / 64 - j.data.length / 64)).dmaDone k j (j.data ++ b))) ∧
  (∀ (s : State) (k : Nat) (h : HostRead), Tab.get? s.dma k = none → ∃ t, exec (.dmaCompletion k h) s = .next t ∧
    t.fld F.PCI_ERR_STATUS_LATE_CPL = 1 ∧ t.fld F.PCI_LATE_LATE_CPL = (s.fld F.PCI_LATE_LATE_CPL + 1) % 2 ^ F.PCI_LATE_LATE_CPL.w) ∧
  (∀ (s : State) (k : Nat) (j : DmaJob), Tab.get? s.dma k = some j → s.readsOut k j ≠ 0 →
    let lim := s.fld F.PCI_DMA_CTRL_CPL_TIMEOUT_US * usec
    let u := s.advanceTo (j.startAt + lim)
    let q : Quarantine := ⟨k, j.engine, (s.route j.inst).1, s.readsOut k j, false, u.now + 4 * lim⟩
    let t := (({ u with quar := u.quar ++ [q] }).addFld F.PCI_LATE_TIMEOUTS 1).count (0xC04 + 8 * j.engine) none 1
    exec (.dmaTimeout k) s = .next ((t.dmaNote causeDmaTimeout (t.jobDom j)).dmaFailed k j causeDmaTimeout)) ∧
  (∀ (s : State) (id : Nat) (c : Chart), Tab.get? s.charts id = some c → c.st = .loading →
    (s.dma.any fun j => decide (j.2.use = .chart id) && j.2.landed) = true →
    exec (.loadChartChecks id) s = .next ((s.readHbm c.dom c.hbmOff c.size).loadWeights id c).limitStacks)

/-- RUN_START, COMMAND_DISPATCH, TRANSFER_START, TRANSFER_COMPLETE, HALT_CAPTURE, WAYPOINT_POST and RUN_COMPLETE complete. RUN_START: the first
waiter takes a free run context, leaves the wait list, and its checks run (R112, R113). COMMAND_DISPATCH: a DONE with nothing in flight passes the
end; a transfer, or an array or vector command with window room, whose written tags are free is dispatched: its written tags are PENDING, and an
engine command enters the window (R115, R128). TRANSFER_START: a dispatched, ready transfer to or from HBM begins at its engine (R129).
TRANSFER_COMPLETE: a started STORE whose range passes the checks goes to the domain's HBM, a LOAD or WLOAD from it, and the command ends (R128,
R295). HALT_CAPTURE writes the capture to argument NARGS (R455). WAYPOINT_POST posts the lowest record owed once it is ready (R445, R448).
RUN_COMPLETE of a run with nothing left in flight posts its end and leaves its context, at once or when the posted completion is no longer held
(R113, R132, R134). -/
def Obligations.RunsComplete : Prop :=
  (∀ (s : State) (w : CtxWaiter) (c : Chart), s.nextWaiter = some w → Tab.get? s.charts w.chart = some c →
    (∃ k, k < 1024 ∧ Tab.has s.runs k = false) → ∃ r, r < 1024 ∧ Tab.has s.runs r = false ∧
      let u := { s with freeCtr := s.freeCtr + 1 }
      exec .runStart s = .next ((((({ u with ctxWait := s.ctxWait.erase w }.ownerStarted w.owner).setRun r (u.newRun w c)).countHelm 13
        1).noteOverlap r (u.newRun w c)).startCheck r (u.newRun w c) c)) ∧
  (∀ (s : State) (r : Nat) (x : Machine.Run) (c : Chart), Tab.get? s.runs r = some x → Tab.get? s.charts x.chart = some c →
    x.mayDispatch c = true →
    (s.chartKind c x.next = some .done → x.cmds = [] →
      exec (.commandDispatch r) s = .next (s.setRun r { x.pass with endPassed := true })) ∧
    (∀ t : Xfer, s.chartKind c x.next = some (.xfer t) → x.meetsFaulted (.xfer t) = false → ((PKind.xfer t).writeTags.all x.writeOk) = true →
      exec (.commandDispatch r) s = .next (((s.setRun r (x.dispatch x.next (.xfer t) s.now)).tagFaults r).noteReady)) ∧
    (∀ k : PKind, s.chartKind c x.next = some k → (k.isArray || k.isVector) = true → x.meetsFaulted k = false →
      (k.writeTags.all x.writeOk) = true → s.windowRoom x = true →
      exec (.commandDispatch r) s = .next (({ s.setRun r (x.dispatch x.next k s.now) with
        helm := { s.helm with window := s.helm.window ++ [(⟨r, x.next, x.cls, k.isVector, none⟩ : WinEntry)] } }.tagFaults r).noteReady))) ∧
  (∀ (s : State) (r i off : Nat) (x : Machine.Run) (t : Xfer), s.xferOf r i = some (x, t) → x.stopped = false →
    x.unstarted.contains i = true → x.tagsReady (.xfer t) = true → s.windowsHere x.dom = true → s.lsHeld x t = false →
    s.xferEnd x t = .hbm off → exec (.transferStart r i) s = .next (s.xferStarted r i)) ∧
  (∀ (s : State) (r i off : Nat) (x : Machine.Run) (t : Xfer), s.xferOf r i = some (x, t) → x.started i = true →
    s.xferEnd x t = .hbm off → s.areaFault x t = false →
    let n := s.xferLen x t
    (t.op = 0x21 → s.hbmFault x.dom off n false = none → exec (.transferComplete r i [] []) s =
      .next ((((s.storeData x.dom off (s.localBytes x t n)).spoilPages x.dom off n).endCmd r i true).limitStacks)) ∧
    (∀ u, t.op ≠ 0x21 → u = s.readHbm x.dom off n → u.hbmFault x.dom off n true = none → exec (.transferComplete r i [] []) s =
      .next ((u.xferLand r i x t (u.bytes .hbm x.dom off n)).limitStacks))) ∧
  (∀ (s : State) (r h : Nat) (x : Machine.Run) (c : Chart) (k : PKind), Tab.get? s.runs r = some x → x.captureOwed = some h →
    Tab.get? s.charts x.chart = some c → s.chartKind c h = some k →
    exec (.haltCapture r true) s = .next ((s.dmaWrite (s.runInst x) r x.dom (x.args.getD c.nargs 0) (s.captureBytes x k
      (match k with
        | .xfer t => s.xferLen x t
        | _ => 0))).setRun r { x with captured := true })) ∧
  (∀ (s : State) (r g cid : Nat) (x : Machine.Run) (w : Waypoint) (c : Chart) (f : Fetched), Tab.get? s.runs r = some x →
    minBy (fun w : Waypoint => [w.idx]) x.waypoints = some w → Tab.get? s.charts x.chart = some c → s.wayState x c w = .ready →
    x.owner = .ring g cid → s.fetched? g cid = some f →
    exec (.waypointPost r) s = .next ((s.setRun r { x with waypoints := x.waypoints.erase w }).postEntry g (s.waypointEntry x c w f)
      (bit f.flags 1))) ∧
  (∀ (s : State) (r : Nat) (x : Machine.Run), Tab.get? s.runs r = some x → x.over = true → s.arrHolds r = false → x.final.1 = 0 →
    exec (.runComplete r) s = .next (((s.countHelm 14 1).postRun x).leaveRun r))

/-- ARRAY_GRANT, ARRAY_BOUNDARY, ARRAY_CMD_COMPLETE and ARRAY_FAULT complete. ARRAY_GRANT: on an idle array, at the decision's time, the winner of
R174 within its quantum, with the array awake and its gate open, starts its pass at the map's E and C (R174, R177, R535). ARRAY_BOUNDARY: the pass
leaves the array for draining at its front plus (t_data + G) array cycles, and the next front is free after its occupancy (R84, R86).
ARRAY_CMD_COMPLETE: a drained command without a fault is charged, writes its outputs and ends max(t_lat, t_data + G) + 64 cycles after its front
(R130). ARRAY_FAULT: a weight parity error faults the pass on the array, sets its status bit and takes the tile's row or column out of service; a
drain parity error faults the pass that drains; a lane parity error the vector command (R98, R133, R163). -/
def Obligations.ArrayCommandsComplete : Prop :=
  (∀ (s v u : State) (w : WinEntry) (row : Nat) (k : PKind), s.arr.cur = [] → v = s.advanceTo (s.decisionTime false) →
    u = v.noSlate false (v.candidates false v.now) →
    u.decide_ u.arrayCandidates = some (w, row) → u.entryCmd w = some k → u.mapIn.offline = false → u.arrayAwake = true →
    u.gateOpen false (gateRow w row) = true → (row = 1 ∨ quantumCycles k u.mapIn.e u.mapIn.c ≤ u.quantumIn) →
    exec .arrayGrant s = .next ((u.startPass w k row u.mapIn.e u.mapIn.c
      (u.formPass w row u.mapIn.e u.mapIn.c u.arrayCandidates)).noteReady)) ∧
  (∀ (s : State) (a : ArrCmd) (l : List ArrCmd), s.arr.cur = a :: l → ∃ t, exec .arrayBoundary s = .next t ∧
    let g := sumList ((s.arr.cur.map s.guardOf).map (·.1))
    t.arr.cur = [] ∧ t.arr.freeAt = a.front + (a.tNext + g) * arrCyc ∧ t.now = max s.now (a.front + (a.tData + g) * arrCyc) ∧
    t.arr.drain.map (fun x => (x.run, x.idx)) = (s.arr.drain ++ s.arr.cur).map fun x => (x.run, x.idx)) ∧
  (∀ (s : State) (a : ArrCmd) (l : List ArrCmd), s.arr.drain = a :: l → a.fault = 0 → a.suppressed = false →
    let e := a.front + max a.tLat (a.tData + a.g) * arrCyc
    let u := s.advanceTo (e + 64 * arrCyc)
    exec .arrayCmdComplete s = .next ((((({ u with arr := { s.arr with drain := l } }.chargeCmd a).finishArray a).arrayIdle
      e).arrayClass).reapRun a.run)) ∧
  (∀ (s : State) (unit : Nat),
    exec (.arrayFault 0 unit) s = .next (((s.faultPass causeWeightParity ucTile unit).raise F.TRK_ERR_STATUS_WEIGHT_PARITY).loseArray
      (s.repairUnit (unit / 64 % 32) (unit % 64)) causeWeightParity 2) ∧
    exec (.arrayFault 1 unit) s = .next (((s.faultDrain causeDrainParity ucLane unit).raise F.DVU_ERR_STATUS_DRAIN_PARITY).loseArray
      ⟨ucCol, unit % 64⟩ causeDrainParity 2) ∧
    exec (.arrayFault 2 unit) s = .next (((s.faultLane unit).raise F.DVU_ERR_STATUS_LANE_PARITY).loseArray
      ⟨ucCol, unit % 64⟩ causeLaneParity 2))

/-- VECTOR_GRANT, VECOP_COMPLETE, ATTN_SEGMENT_COMPLETE, KV_PAGE_FETCH and KV_PAGE_COMPLETE complete. VECTOR_GRANT: on a free pipe, at the decision's
time, the winner within its quantum, with the array awake and the gate open, starts at the map's E and C (R165, R174). VECOP_COMPLETE: a VECOP ends
after exactly its cycles, is charged, writes its outputs, frees the pipe and ends with its tags RESIDENT (R152, R153). ATTN_SEGMENT_COMPLETE: a
segment whose blocks the lanes have finished is charged its cycles and KV wait; the last one finishes the ATTN, any other suspends it with its blocks
counted (R162, R164, R165). KV_PAGE_FETCH: the next page of a ready ATTN with a free ring slot is in flight (R162). KV_PAGE_COMPLETE: a page in
flight lands in its slot, is counted in KV_BYTES, and the lanes take what they can (R162). -/
def Obligations.VectorCommandsComplete : Prop :=
  (∀ (s v u : State) (w : WinEntry) (row : Nat) (k : PKind), s.vec.cur = none → v = s.advanceTo s.vectorTime →
    u = v.noSlate true v.vectorReady →
    u.decide_ u.vectorCandidates = some (w, row) → u.entryCmd w = some k → u.mapIn.offline = false → u.arrayAwake = true →
    u.gateOpen true (gateRow w row) = true → (row = 1 ∨ quantumCycles k u.mapIn.e u.mapIn.c ≤ u.quantumIn) →
    exec .vectorGrant s = .next (u.vecStart w k row u.mapIn.e u.mapIn.c)) ∧
  (∀ (s : State) (v : VecCmd) (x : Machine.Run) (o : Vop), s.vec.cur = some v → v.attn = false → v.suppressed = false →
    let u := (s.advanceTo (v.start + v.cyc * arrCyc)).vecCharge v v.cyc false
    Tab.get? u.runs v.run = some x → u.runCmd x v.idx = some (.vop o) →
    let w := o.result (u.winByte x)
    exec .vecopComplete s = .next ((((((u.runWrites { x with overlap := x.overlap || o.clashes } w.1).countExc w.2).vecReport
      { v with charged := v.cyc } (.vop o)).pipeFree).endCmd v.run v.idx true).reapRun v.run)) ∧
  (∀ (s : State) (v : VecCmd) (x : Machine.Run) (a : Attn), s.vec.cur = some v → v.attn = true → v.seg ≤ v.done →
    s.attnOf v.run v.idx = some (x, a) → v.suppressed = false →
    let u := (s.advanceTo (v.lanesAt + (v.cyc - v.seg * a.blk v.c) * arrCyc)).vecCharge v (v.cyc + v.wait) (!v.last)
    (v.last = true → exec .attnSegmentComplete s = .next (u.attnFinish { v with charged := v.charged + v.cyc + v.wait } x a)) ∧
    (v.last = false → ∃ t, exec .attnSegmentComplete s = .next t ∧ t.vec.cur = none ∧
      t.vec.suspended = u.vec.suspended ++ [{ v with charged := v.charged + v.cyc + v.wait, before := v.before + v.seg, seg := 0, done := 0 }] ∧
      t.fld F.DVU_STATUS_LANES_ENABLED = 0)) ∧
  (∀ (s : State) (r i : Nat) (x : Machine.Run) (a : Attn) (k : KvStream) (g : Nat × Nat), s.attnOf r i = some (x, a) →
    s.attnReady r i = true → k = s.stream r i → g = s.kvRange x a k.nextPage → a.b0 + k.nextPage / 2 ≤ a.b1 →
    k.slotFree a (a.b0 + k.nextPage / 2) s.now = true → s.hbmFault x.dom g.1 g.2 false = none →
    exec (.kvPageFetch r i) s = .next (s.setStream { k with nextPage := k.nextPage + 1, inFlight := k.inFlight ++ [k.nextPage] })) ∧
  (∀ (s : State) (r i p : Nat) (x : Machine.Run) (a : Attn) (k : KvStream) (g : Nat × Nat), s.attnOf r i = some (x, a) →
    k = s.stream r i → g = s.kvRange x a p → k.inFlight.contains p = true →
    ∀ u, u = s.readHbm x.dom g.1 g.2 → u.hbmFault x.dom g.1 g.2 true = none →
    exec (.kvPageComplete r i p [] []) s = .next ((((((u.runStore x (a.slotAt (a.b0 + p / 2) (p % 2)) (u.bytes .hbm x.dom g.1 g.2)).addFld
      F.DVU_KV_BYTES_BYTES g.2).countWork x.dom x.cls 13 (g.2 / 64)).setStream
      { k with inFlight := k.inFlight.erase p, landed := Tab.set k.landed p u.now }).attnAdvance).limitStacks))

/-- QUANTUM_WRITE, ADMIT_CTRL_WRITE, CAL_COMMIT, CAL_DISABLE, CAL_PERIOD_BOUNDARY, STRICT_ENTRY_START, RES_SWITCH_START and RES_SWITCH_COMPLETE
complete. QUANTUM_WRITE: a quantum, cut to 2 to 100 us, that is no raise, or a raise that passes admission, is stored with its cycles (R178, R199).
ADMIT_CTRL_WRITE: fields that do not tighten the test, or that the load passes, are stored (R199). CAL_COMMIT: a calendar in bounds that admission
passes waits for the next period boundary, with result 1 (R193). CAL_DISABLE without a strict instance stops the calendar at the next boundary
(R199). CAL_PERIOD_BOUNDARY: time moves to the boundary, the waiting calendar or its end takes force, another one changing measurement index 8, and
shares rise (R191, R433, R538). STRICT_ENTRY_START: the next entry begins with its two allowances (R192, R537). RES_SWITCH_START in a gap evicts,
places and starts the switch; RES_SWITCH_COMPLETE loads the domain and counts the switch (R195, R196, R302). -/
def Obligations.HelmControlsComplete : Prop :=
  (∀ (s : State) (v q : Nat), q = clamp 2 100 (bits v 6 0) →
    (q ≤ s.fld F.HLM_QUANTUM_QUANTUM_US → exec (.quantumWrite v) s = .next (s.setQuantum q)) ∧
    (∀ r, s.fld F.HLM_QUANTUM_QUANTUM_US < q → r = s.admitFull s.helm.cal (q * 1500) s.mapE s.mapC → r.pass = true →
      exec (.quantumWrite v) s = .next (((s.setQuantum q).noteAdmit r).noteOutcome true)) ∧
    (s.setQuantum q).fld F.HLM_QUANTUM_QUANTUM_US = q ∧ (s.setQuantum q).fld F.HLM_QUANTUM_QUANTUM_CYCLES = 1500 * q) ∧
  (∀ (s t : State) (v : Nat), t = s.setAdmitCtrl v →
    (s.tightens t = false → exec (.admitCtrlWrite v) s = .next t) ∧
    (s.tightens t = true → t.admitNow.pass = true → exec (.admitCtrlWrite v) s = .next ((t.noteAdmit t.admitNow).noteOutcome true))) ∧
  (∀ s : State, calBounds s.stagedCal = true → (s.admitFull s.stagedCal s.quantum s.mapE s.mapC).pass = true →
    exec .calCommit s = .next ((({ s with helm := { s.helm with calNext := some s.stagedCal, calOffNext := false } }.noteAdmit
      (s.admitFull s.stagedCal s.quantum s.mapE s.mapC)).noteOutcome true).setFld F.HLM_CAL_CTRL_COMMIT_RESULT 1)) ∧
  (∀ s : State, s.strictInst = false → exec .calDisable s = .next ({ s with helm := { s.helm with calNext := none, calOffNext := true } }.setFld
      F.HLM_CAL_CTRL_COMMIT_RESULT 1)) ∧
  (∀ s : State,
    (∀ l, s.helm.calNext = some l → exec .calPeriodBoundary s = .next
      (if l = s.helm.cal then s.toBoundary.useCal l else (s.toBoundary.useCal l).measChanged).raiseShares) ∧
    (s.helm.calNext = none → s.helm.calOffNext = true → exec .calPeriodBoundary s = .next
      (if [] = s.helm.cal then s.toBoundary.useCal [] else (s.toBoundary.useCal []).measChanged).raiseShares) ∧
    (s.helm.calNext = none → s.helm.calOffNext = false → exec .calPeriodBoundary s = .next s.toBoundary.raiseShares)) ∧
  (∀ (s u : State) (e : CalEntry) (n a : Nat), s.nextEntry = some (e, n) → u = s.untilTai (s.entryTai e) →
    a = dutyOf (u.fld F.PMC_STRICT_SHARE_EFF_W e.dom) * (e.len - 2048) / 256 →
    exec .strictEntryStart s = .next { u with helm := { u.helm with strictA := a, strictV := a } }) ∧
  (∀ (s : State) (d sp st n : Nat) (out : List Nat), s.helm.switch_ = none → s.loadDomain = some d →
    s.evictFor d [] s.victims = some (out, sp, st) →
    n = s.switchTime (sumList ((out.flatMap s.residentRuns ++ s.savedRuns d).map fun p => s.windowBytes p.2)) →
    s.inGap (ceilDiv n nsec) = true →
    let u := ((out.foldl (fun s v => s.evict v) s).setFld F.MEM_PART_SP_BASE_MIB sp d).setFld F.MEM_PART_ST_BASE_MIB st d
    exec .resSwitchStart s = .next (({ u with helm := { u.helm with switch_ := some ⟨out, d, u.now + n⟩ } }.setFld
      F.HLM_STATUS_RES_SWITCH_ACTIVE 1).noteReady)) ∧
  (∀ (s : State) (w : Switch), s.helm.switch_ = some w → ∃ u : State, exec .resSwitchComplete s = .next u.limitStacks ∧ u.helm.switch_ = none ∧
    u.now = max s.now w.doneAt ∧ u.fld F.HLM_STATUS_RES_SWITCH_ACTIVE = 0)

/-- CELL_ASSIGN_WRITE, CELL_CONFIG, CELL_START, CELL_STOP, SLOT, HARQ_FLUSH, FH_STATS, GRANT_WRITE, SLOT_BOUNDARY and PHASE_RELEASE complete.
Assigning an UNASSIGNED slot to a domain that is not strict stores the assignment, changes the domain's record and makes the slot ASSIGNED (R204). A
fetched CELL_CONFIG for a slot that is the tenant's and not ACTIVE, whose block passes the rules and admission, configures it and completes (R204 to
R206). CELL_START of a CONFIGURED slot in time makes it ACTIVE from the named slot; CELL_STOP in time sets its boundary (R204, R211). SLOT in time,
with valid items, is accepted and remembered (R210, R213). HARQ_FLUSH waits for its contexts and applies; FH_STATS returns the counters (R252, R274).
GRANT_WRITE without a conflict stores the grant, and a change is a measured one (R230, R433). SLOT_BOUNDARY of a running cell moves time to the slot
and applies what holds from it; PHASE_RELEASE releases a due phase's runs (R204, R208, R560). -/
def Obligations.CellCommandsComplete : Prop :=
  (∀ (s : State) (v c d : Nat), c = s.fld F.RAD_CELL_SEL_CELL → d = bits v 6 0 → (s.cell c).st = .unassigned →
    s.flag F.RAD_CELL_ASSIGN_ASSIGNED c = false → bit v 7 = true → s.strictDom d = false → s.cellDom c = d →
    exec (.cellAssignWrite v) s = .next (((s.storeAssign c v).configChanged d).putCell c (Cell.blank .assigned))) ∧
  (∀ (s u : State) (g cid c : Nat) (q : Fetched) (b : List Byte) (f : CellCfg), s.startable g cid 0x40 = some q →
    c = fieldAt q.body 16 2 % 512 → s.cellMine g c = true → (s.cell c).st.configurable = true → (s.cell c).st ≠ .active →
    s.shedPending = false → f = CellCfg.ofBlock b (s.ringInst g) → s.configOk c (s.ringDom g) q.arrive f = true → s.admitCfg c f = (true, u) →
    exec (.cellConfig g cid (.data b)) s = .next ((u.configNow c f).cellDone g cid stOk c evConfigured none 0)) ∧
  (∀ (s : State) (g cid c : Nat) (q : Fetched) (f : CellCfg), s.startable g cid 0x41 = some q → c = fieldAt q.body 16 2 % 512 →
    (s.cell c).cfg = some f → s.cellMine g c = true → (s.cell c).st = .configured → s.shedPending = false →
    s.timeCheck f q.body q.arrive f.maxLead 5000000 = none →
    exec (.cellStart g cid) s = .next ((s.startCell c f (s.namedSlot f q.body q.arrive)).cellDone g cid stOk c evStarted (some f)
      (s.namedSlot f q.body q.arrive))) ∧
  (∀ (s : State) (g cid c n : Nat) (q : Fetched) (f : CellCfg), s.startable g cid 0x42 = some q → c = fieldAt q.body 16 2 % 512 →
    s.cellMine g c = true → (s.cell c).st = .active → s.slotOfCmd (s.cell c) q = some (f, n) →
    s.timeCheck f q.body q.arrive f.maxLead 5000000 = none →
    exec (.cellStop g cid) s = .next ((s.stageCmd g q .started).stopCell c n 0 (some (g, cid)))) ∧
  (∀ (s : State) (g cid c n : Nat) (up : Bool) (q : Fetched) (f : CellCfg) (b : List Byte) (l : List Item),
    s.startable g cid 0x48 = some q → c = fieldAt q.body 16 2 % 512 → up = bit (fieldAt q.body 21 1) 0 → (s.cell c).cfg.isSome = true →
    s.cellMine g c = true → s.slotOfCmd (s.cell c) q = some (f, n) →
    s.timeCheck f q.body q.arrive (if up then f.ulLead else f.dlLead) 10000 = none →
    (s.cell c).slotState n = none → (s.cell c).seen.contains (n, up) = false →
    1 ≤ fieldAt q.body 22 2 → fieldAt q.body 22 2 ≤ 256 → fieldAt q.body 24 8 % 64 = 0 →
    l = ((rangeFrom 0 (fieldAt q.body 22 2)).map fun i => Item.fresh (pad64 (slice b (64 * i) 64))) → s.firstInvalid c n f up l = none →
    exec (.slot g cid (.data b)) s = .next ((s.stageCmd g q .started).modCell c fun x =>
      { x with slots := x.slots ++ [⟨g, cid, n, up, l, s.phaseLate c n, false, 0, 0, [], [], [], []⟩], seen := (n, up) :: x.seen,
               freezes := if up then Tab.set x.freezes n (frozenMask l) else x.freezes })) ∧
  (∀ (s : State) (g cid c : Nat) (q : Fetched), s.startable g cid 0x4D = some q → c = fieldAt q.body 16 2 % 512 →
    s.cellMine g c = true → 2 ≤ (s.cell c).st.code →
    exec (.harqFlush g cid) s = .next (((s.stageCmd g q .started).modCell c fun x => { x with flushes :=
      x.flushes ++ [⟨g, cid, fieldAt q.body 18 2 % 4096, fieldAt q.body 20 4, bit (fieldAt q.body 24 1) 0⟩] }).runFlushes c)) ∧
  (∀ (s : State) (g cid c : Nat) (q : Fetched), s.startable g cid 0x4C = some q → c = fieldAt q.body 16 2 % 512 →
    s.cellMine g c = true →
    let v := fun k => Tab.getD (s.cell c).stats k 0
    let u := if bit (fieldAt q.body 18 1) 0 then s.modCell c fun x => { x with stats := [] } else s
    exec (.fhStats g cid) s = .next (u.complete g cid (radioPayload stOk 7 c 0 0
      (toLe 4 (v 0) ++ toLe 4 (v 1) ++ (rangeFrom 2 9).flatMap fun k => toLe 2 (v k))))) ∧
  (∀ (s t : State) (v g : Nat), g = s.fld F.FH_GRANT_SEL_ENTRY → bit (v % 2 ^ 26) 25 = false → s.grantHeld g = false →
    t = s.setReg F.FH_GRANT_VALID.reg g (BitVec.ofNat 64 (v % 2 ^ 26)) → t.strictClash (t.fld F.FH_GRANT_SUBPORT g) = false →
    exec (.grantWrite v) s = .next (if t.reg F.FH_GRANT_VALID.reg g = s.reg F.FH_GRANT_VALID.reg g then t else t.measChanged)) ∧
  (∀ (s : State) (c n : Nat) (f : CellCfg), (s.cell c).slotFrom ((s.cell c).cur + 1) = some (n, f) → (s.cell c).st.running = true →
    let u := (s.untilTai (s.slotT0 f n)).modCell c fun x => x.atBoundary n
    let w := if u.releasedAll c n && u.doneAll c then u.addFld F.RAD_CELL_HEARTBEAT_HEARTBEAT 1 c else u
    exec (.slotBoundary c) s = .next ((w.harqSettle c).settleCell c)) ∧
  (∀ (s : State) (c n p : Nat) (f : CellCfg) (e : List Byte), s.phaseDue c n p = some (f, e) →
    let u := s.untilTai (s.fromT0 f n (phRelease e))
    exec (.phaseRelease c n p) s = .next ((phRuns e).foldl
      (fun s r => s.startPhaseRun c n p (wrapInt ((u.slotT0ns f n : Int) + phDeadline e) 32) f e r.1 r.2.1)
      (u.modCell c fun x => { x with phases := x.phases ++ [⟨n, p, (phRuns e).length, true, false⟩] })))

/-- AGC_BLOCK_END, SYMBOL_HANDOFF, PRACH_PERIOD_END, PRACH_DETECT, CPLANE_EMIT, UPLANE_EMIT, DECOMP_PARITY, FFT_PARITY and PRACH_PARITY complete.
AGC_BLOCK_END: at the time of a full block of a running split-8 stream its block is scaled and the loop updated (R243 to R246). SYMBOL_HANDOFF: 2 us
after the window of a symbol not yet handed off, every stream is handed and spilled and the symbol is marked (R237, R247, R259). PRACH_PERIOD_END of a
split-8 PRACH item whose samples have come takes the stream's loop, with its detector and its freezes, to the period's end (R245, R249). PRACH_DETECT
of a received item whose phase is over reports its detections (R250). CPLANE_EMIT sends the C-plane messages of a symbol's items once, at its time;
UPLANE_EMIT sends the prepared items of a symbol and ends those that are done or late (R226, R238). DECOMP_PARITY zero-fills the symbol, FFT_PARITY is
recorded, PRACH_PARITY reports no detections (R253). -/
def Obligations.FronthaulCommandsComplete : Prop :=
  (∀ (s u : State) (c stream : Nat) (a : Agc) (f : CellCfg), (s.cell c).st.running = true → u = s.agcTrailing c stream →
    u.agcPlace c stream = some (a, f) → f.split = 2 → (u.cell c).st.running = true → a.idx + 16 ≤ f.symLen (a.at_ / 16) (a.at_ % 16) →
    (u.cell c).received stream a 16 = true →
    exec (.agcBlockEnd c stream) s = .next ((u.untilTai (u.symTime f (a.at_ / 16) (a.at_ % 16) +
      (a.idx + 16) * 1000000000 * 65536 / f.rateHz)).agcRun c stream a f)) ∧
  (∀ (s : State) (c n sym : Nat) (f : CellCfg), (s.cell c).cfgAt n = some f → sym < f.nsym → (s.cell c).seen.contains (n, true) = true →
    (s.cell c).runs n = true → (s.cell c).handedOff.contains (n, sym) = false →
    exec (.symbolHandoff c n sym) s = .next ((((rangeFrom 0 f.ulStreams).foldl (fun s r => (s.handStream c n sym r f).1.spillStream c n sym r f
      (s.handStream c n sym r f).2) (s.untilTai (s.symTime f n sym + 65536 * (2000 + f.ta4Max)))).modCell c fun x =>
        { x with handedOff := (n, sym) :: x.handedOff }).modSlotJob c n true fun j => { j with handed := sym :: j.handed })) ∧
  (∀ (s : State) (c n k stream period y p : Nat) (i : Item) (f : CellCfg), ((s.cell c).job? n true).bind (fun j => j.items[k]?) = some i →
    (s.cell c).cfgAt n = some f → i.ty = 0x13 → f.split = 2 →
    f.samplePlace n i.nsym i.sym0 (ceilDiv ((period + 1) * f.rateHz) i.prachHz) = (y, p) → y < i.sym0 + i.nsym →
    ((rangeFrom i.sym0 (y - i.sym0)).all fun z => (rangeFrom 0 (f.symLen n z)).all ((s.cell c).hasSample n z stream)) = true →
    ((rangeFrom 0 p).all ((s.cell c).hasSample n y stream)) = true →
    exec (.prachPeriodEnd c n k stream period) s = .next (s.agcUpTo c stream (n * 16 + y) p)) ∧
  (∀ (s : State) (c n k : Nat) (i : Item) (f : CellCfg) (j : SlotJob), s.ulItem c n k = some (i, f, j) → i.ty = 0x13 →
    j.allHanded i = true → s.phaseState c n i = some true →
    exec (.prachDetect c n k) s = .next (s.prachReport c n k (prachDets i f.ulStreams (s.prachWindows c n f i)))) ∧
  (∀ (s u : State) (c n sym : Nat) (up : Bool) (j : SlotJob) (f : CellCfg) (l : List Item), (s.cell c).job? n up = some j →
    (s.cell c).cfgAt n = some f → l = j.items.filter (fun i => i.covers sym) → s.timeValid = true → f.split ≠ 2 → l ≠ [] →
    j.csent.contains sym = false → u = s.untilTai (s.symTime f n sym - (if up then f.t1aCpUl else f.t1aCpDl) * 65536) →
    exec (.cplaneEmit c n sym up) s = .next ((u.modSlotJob c n up fun j => { j with csent := sym :: j.csent }).cMessages c n sym up f l)) ∧
  (∀ (s u : State) (c n sym : Nat) (j : SlotJob) (f : CellCfg) (l : List Item), (s.cell c).job? n false = some j →
    (s.cell c).cfgAt n = some f → s.timeValid = true → sym < f.nsym → j.sent.contains sym = false →
    l = j.items.filter (fun i => i.covers sym && i.st == .prepared) → u = s.untilTai (s.symTime f n sym -
      (if (j.items.filter fun i => i.sym0 == sym && !i.settled).all (fun i => i.st == .prepared) then f.t1aUpMax else f.t1aUpMin) * 65536) →
    exec (.uplaneEmit c n sym) s = .next (((((if l = [] then u else u.sendSymbol c n sym f l).modSlotJob c n false fun j =>
      { j with sent := sym :: j.sent }).dropUnready c n sym j)).dlDone c n sym j)) ∧
  (∀ (s : State) (c n sym : Nat) (f : CellCfg), (s.cell c).cfgAt n = some f →
    exec (.decompParity c n sym) s = .next ((((rangeFrom 0 f.ulStreams).foldl (fun t r =>
      (t.zeroRange .radio (s.cellDom c) (f.symAt c n sym r) (48 * f.nprb)).modCell c fun y => y.addFill n sym r false (0, f.nprb)) s).raise
      F.FH_ERR_STATUS_DECOMP_PARITY).faultRecord ({ FaultRec.of causeDecompParity 0 with
        dom := some (s.cellDom c), cell := some c, ucls := ucDecomp, detail := sym }))) ∧
  (∀ (s : State) (c n sym : Nat), exec (.fftParity c n sym) s = .next (((s.raise F.FH_ERR_STATUS_FFT_PARITY).count 0xD7D none 1).faultRecord
    { FaultRec.of causeFftParity 0 with dom := some (s.cellDom c), cell := some c, ucls := ucTdfe, detail := sym })) ∧
  (∀ (s : State) (c n k : Nat) (i : Item) (f : CellCfg) (j : SlotJob), s.ulItem c n k = some (i, f, j) → i.ty = 0x13 →
    exec (.prachParity c n k) s = .next (((s.raise F.FH_ERR_STATUS_PRACH_PARITY).faultRecord
      (s.radioRecord c causePrachParity 1 ucPrach 0 i.id i.sym0)).prachReport c n k []))

/-- CHANNEL_ESTIMATE, EQUALIZE, CODE_BLOCK_DECODE, CODE_BLOCK_DECODED, POLAR_JOB, PUCCH_DETECT, ENCODE_CB, PRECODE and RADIO_ENGINE_PARITY complete.
CHANNEL_ESTIMATE writes LS for a PUSCH item whose reference symbols are handed off, and reports an SRS item (R261, R263). EQUALIZE of the ready
symbol of the earliest decode deadline takes the equalizer's cycles and queues the items at their last data symbol (R264 to R269). CODE_BLOCK_DECODE
gives the waiting block of the earliest deadline to a free decoder; CODE_BLOCK_DECODED counts it and finishes the transport block with its last (R276
to R279). POLAR_JOB runs the job of the earliest deadline; PUCCH_DETECT reports an item without a polar job (R280, R281). ENCODE_CB encodes a block
from the bytes read, PRECODE prepares an encoded item in time (R282, R283). RADIO_ENGINE_PARITY retries or ends the unit's job, records it and takes
the unit out of service (R286). -/
def Obligations.PhyCommandsComplete : Prop :=
  (∀ (s : State) (c n k : Nat) (i : Item) (f : CellCfg) (j : SlotJob), s.ulItem c n k = some (i, f, j) →
    let u := s.meetErrors (s.cellDom c) (f.slotArea n) f.areaBytes
    (i.ty = 0x11 → i.st = .waiting → ((bitsSet i.dmrsSyms 14).all j.handed.contains) = true → u.phaseState c n i ≠ some false →
      u.ulMemFault ⟨c, f, n⟩ i = none →
      exec (.channelEstimate c n k) s = .next (((if j.lsFresh then u.zeroRange .hbm (u.cellDom c) (f.slotArea n) f.sLs else u).writeLs
        ⟨c, f, n⟩ i).modItem c n true k fun i => i.to .prepared).limitStacks) ∧
    (i.ty = 0x14 → j.allHanded i = true → u.phaseState c n i = some true → u.ulMemFault ⟨c, f, n⟩ i = none →
      exec (.channelEstimate c n k) s = .next (u.srsDone ⟨c, f, n⟩ k i).limitStacks)) ∧
  (∀ (s u : State) (c n sym : Nat) (j h : SlotJob) (f : CellCfg), (s.cell c).job? n true = some j → (s.cell c).cfgAt n = some f →
    s.unitOff ⟨ucEq, 0⟩ = false → s.unitOff ⟨ucDemap, 0⟩ = false → s.eqNext = some (c, n, sym) →
    u = (s.meetErrors (s.cellDom c) (f.slotArea n) f.areaBytes).failModels ⟨c, f, n⟩ (j.puschAt sym) →
    (u.cell c).job? n true = some h → h.puschAt sym ≠ [] → (∀ p ∈ h.puschAt sym, u.ulMemFault ⟨c, f, n⟩ p.2 = none) →
    let ls := (h.puschAt sym).flatMap fun p => (p.2.layers p.1).map fun a => (a, p.2.dataRes ⟨c, f, n⟩ sym)
    let ks := (ls.flatMap (·.2)).eraseDups
    let out := ks.map fun k => (k, layersAt ls k, u.eqAt ⟨c, f, n⟩ (layersAt ls k) sym k)
    let cyc := eqCycles ks.length ((ks.map (· / f.eqGroup)).eraseDups.length) (maxList (out.map fun o => o.2.1.length))
      (maxList (out.map fun o => o.2.2.2)) f.ulStreams
    let v := ((u.wait (5 * cyc)).addFld F.RAD_EQ_RE_RE ks.length).chargeRadio (u.cellDom c) cyc
    exec (.equalize c n sym) s = .next ((h.puschAt sym).foldl
      (fun s p => s.eqItem ⟨c, f, n⟩ sym (out.map fun o => (o.1, o.2.1, o.2.2.1)) p.1 p.2)
      (((((v.count 0xD60 none 1).count 0xD61 none cyc).count 0xD62 none 1).count 0xD68 none 1).count 0xD6A none 1)).limitStacks) ∧
  (∀ (s : State) (u : Nat) (q : QBlock), ((s.unitsOn ucDec).find? fun u => !s.decBusy.contains u) = some u →
    minBy (fun q : QBlock => [q.dl, q.c, q.b.item, q.b.cb]) s.waitingBlocks = some q →
    exec .codeBlockDecode s = .next (s.modBlock q.c q.n q.b.item q.b.cb fun b => { s.decodeBlock q.f q.n q.i b with unit := some u })) ∧
  (∀ (s v : State) (c n k cb u : Nat) (i h : Item) (f : CellCfg) (j : SlotJob) (b : CodeBlock), s.ulItem c n k = some (i, f, j) →
    (j.cblocks.find? fun b => b.item == k && b.cb == cb) = some b → b.unit = some u →
    h = { i with
      cbDone := cb :: i.cbDone, cbFail := i.cbFail + b2n !b.ok, maxIter := max i.maxIter b.iters,
      harq := if b.stop = 3 ∧ bit i.harq 5 = false then i.harq + 32 else i.harq } →
    v = (((((s.advanceTo b.doneAt).countBlock ((s.advanceTo b.doneAt).cellDom c) u (cbCycles i.seg b.extent b.iters) b).chargeRadio
      ((s.advanceTo b.doneAt).cellDom c) (cbCycles i.seg b.extent b.iters)).modBlock c n k cb fun b => { b with unit := none }).modItem c n true k
      fun _ => h) →
    exec (.codeBlockDecoded c n k cb) s =
      .next (if h.cbDone.length = i.seg.c then v.finishTb ⟨c, f, n⟩ k h (j.cblocks.filter fun b => b.item == k) else v)) ∧
  (∀ (s v : State) (u cyc : Nat) (p : PolarJob), s.freeUnit ucPolar s.rad.polar = some u →
    minBy (fun p : PolarJob => [p.dl, p.c, p.k, p.part]) s.polarJobs = some p → cyc = polarCycles p.len →
    v = { s with rad := { s.rad with polar := Tab.set s.rad.polar u ⟨p.c, p.n, p.k, p.part, s.now + 5 * cyc⟩ } }.chargeRadio (s.cellDom p.c) cyc →
    (p.up = false → exec .polarJob s = .next (((v.addFld F.RAD_POLAR_JOBS_ENCODES 1).count (0x1D0 + 4 * u) none 1).modItem p.c p.n false p.k
      fun i => { i with cbDone := [0], ready := max i.ready (s.now + 5 * cyc) }).limitStacks) ∧
    (∀ (w : State) (i : Item) (f : CellCfg) (j : SlotJob), p.up = true →
      w = ((v.addFld F.RAD_POLAR_JOBS_DECODES 1).count (0x1D1 + 4 * u) none 1).advanceTo (s.now + 5 * cyc) →
      w.ulItem p.c p.n p.k = some (i, f, j) → exec .polarJob s = .next (w.polarUp u p i f).limitStacks)) ∧
  (∀ (s v : State) (c n k : Nat) (i : Item) (f : CellCfg), s.uciReady c n k = some (i, f, true) →
    v = s.meetErrors (s.cellDom c) (f.slotArea n) f.areaBytes → (i.smallParts ≠ [] ∨ i.partsLeft = []) → v.ulMemFault ⟨c, f, n⟩ i = none →
    exec (.pucchDetect c n k) s = .next (v.pucchSmall ⟨c, f, n⟩ k i).limitStacks) ∧
  (∀ (s w v : State) (c n k cb u cyc : Nat) (i : Item) (f : CellCfg) (b : List Byte), s.dlItem c n k = some (i, f) → i.ty = 0x01 →
    cb < i.seg.c → i.cbDone.contains cb = false → s.freeUnit ucEnc s.rad.enc = some u → b.length = ceilDiv i.tbs 8 →
    cyc = encCycles i.seg (i.seg.e (i.totalSoft ⟨c, f, n⟩) i.nl i.qm cb) →
    w = ((((s.addFld F.RAD_ENC_CBS_CBS 1).count (0xD40 + 8 * u) none 1).count (0xD41 + 8 * u) none cyc).count (0xD42 + 8 * u) none 1) →
    v = (if i.data = [] then w.dmaBytes (w.cellDom c) b.length else w).chargeRadio (w.cellDom c) cyc →
    exec (.encodeCb c n k cb (.data b)) s = .next ({ v with rad := { v.rad with
      enc := Tab.set v.rad.enc u ⟨c, n, k, cb, s.now + 5 * cyc⟩ } }.modItem c n false k fun i => { i with
        cbDone := cb :: i.cbDone, data := if i.data = [] then b else i.data, ready := max i.ready (s.now + 5 * cyc) })) ∧
  (∀ (s u : State) (c n k : Nat) (i : Item) (f : CellCfg), s.dlItem c n k = some (i, f) → i.encoded = true → s.phaseState c n i = some true →
    u = (s.advanceTo i.ready).meetErrors ((s.advanceTo i.ready).cellDom c) (f.slotArea n) f.areaBytes → i.lost = false →
    (i.plain f = true ∨ u.hbmFault (u.cellDom c) (f.slotArea n) f.areaBytes true = none) → u.tai16 ≤ u.leaveBy f n i →
    exec (.precode c n k) s = .next (u.modItem c n false k fun i => { i with
      st := .prepared, out := u.precodeItem ⟨c, f, n⟩ i }).limitStacks) ∧
  (∀ (s : State) (u c n k : Nat),
    exec (.radioEngineParity 0x30 u c n k) s = .next (((s.decParity u c n k).engineRecord c n k true 0x0401 0x30 u).loseEngine ⟨0x30, u⟩
      0x0401) ∧
    (∀ w : State, w = s.countRerun (s.unitJob s.rad.enc u) u → exec (.radioEngineParity 0x31 u c n k) s = .next (((((w.dlParity
      (w.unitJob w.rad.enc u)).raise F.RAD_ENG_ERR_ENC_PARITY).count (0xD45 + 8 * u) none 1).engineRecord c n k false 0x0402 0x31 u).loseEngine
      ⟨0x31, u⟩ 0x0402)) ∧
    exec (.radioEngineParity 0x32 u c n k) s = .next (((s.polarParity u c n k).engineRecord c n k (s.ulItem c n k).isSome 0x0403 0x32
      u).loseEngine ⟨0x32, u⟩ 0x0403) ∧
    ∀ cls, cls = 0x33 ∨ cls = 0x34 → exec (.radioEngineParity cls u c n k) s = .next (((((((s.raise F.RAD_ENG_ERR_EQ_PARITY).count
      (if cls = 0x33 then 0xD65 else 0xD6D) none 1).engineRecord c n k true 0x0404 cls u).mapDisable
        ⟨cls, u⟩ 0x0404).raise F.RAD_ERR_STATUS_ENGINE_LOST).endUplink).shedAll 4))

/-- SCRUB_READ, CORRECTED_REWRITE, SRAM_UE and STACK_LOSS complete. SCRUB_READ with scrub enabled and a stack in service moves to the next block of a
stack in service, counts the read at its pseudo-channel, moves past it, and does what it finds, be that its result or an error that has come about
there: nothing, a correction, or a poisoned block with its record (R289, R297, R298). CORRECTED_REWRITE takes the block out of the owed rewrites and
changes nothing else (R299). SRAM_UE counts the corrected and the uncorrectable words, raises the status bit and acts on the scratchpad, staging or
radio word (R300). STACK_LOSS of a stack in service fails what is in flight to it, empties its extents, disables it in the map, replaces its extents,
writes the domains' records, takes charts and cells with it, and ends in the power scale and a shed decision (R311 to R313). -/
def Obligations.MemoryFaultCommandsComplete : Prop :=
  (∀ (s u v : State) (b k : Nat), s.fld F.MEM_SCRUB_CTRL_PERIOD_H ≠ 0 → s.stacksOn ≠ [] → u = s.scrubMove s.scrub.next → b = u.scrub.next →
    k = b / stackBlocks → v = (u.count (0x200 + 256 * k + 4 * pseudoChannel b + 3) none 1).scrubMove (b + 1) →
    let hit := v.latent.filter fun e => e.1 == b
    let w := { v with latent := v.latent.filter fun e => e.1 != b }
    (hit = [] → exec (.scrubRead 0) s = .next w) ∧
    ((∀ e ∈ hit, e.2 = false) → exec (.scrubRead 1) s = .next (w.blockCorrected b) ∧
      (hit ≠ [] → exec (.scrubRead 0) s = .next (w.blockCorrected b))) ∧
    (∀ r, exec (.scrubRead (r + 2)) s = .next (w.scrubPoison b)) ∧
    ∀ r, (b, true) ∈ hit → exec (.scrubRead r) s = .next (w.scrubPoison b)) ∧
  (∀ (s : State) (d off : Nat),
    exec (.correctedRewrite d off) s = .next { s with rewrites := s.rewrites.filter (· != domBlock d off) }) ∧
  (∀ (s t u : State) (p : SramPlace) (n : Nat), t = (s.addFld F.MEM_SRAM_ECC_CORRECTED n).health 22 0 n →
    u = ((t.satFld F.MEM_SRAM_ECC_UNCORRECTED 1).health 22 1 1).raise F.MEM_ERR_STATUS_SRAM_UE →
    exec (.sramUe p n) s = .next (match p with
      | .scratch bank d off => u.wordUe (bank % 32) d off false
      | .staging d off => u.wordUe 32 d off true
      | .radio c n sym stream prach unit => u.radioUe c n sym stream prach unit
      | .correctedOnly => t)) ∧
  (∀ (s t u : State) (k : Nat), s.stackOn k = true →
    t = (((((s.failOnStack k).failLoads k).loseExtents k).forgetUes k).mapDisable ⟨ucStack, k⟩ causeMemLost).raise F.MEM_ERR_STATUS_STACK_LOST →
    u = allDomains.foldl (fun u d => u.lostRecords d k (((s.ownedOn k).filter fun e => e.2.owner == d).map (·.2.idx)))
      (((s.ownedOn k).foldl State.replaceExtent t).extentsChanged s) →
    exec (.stackLoss k) s = .next ((((u.loseCharts s k).loseCells s k).applyScale).shedDecision 3))

/-- FLOAD, FSTORE, FATOMIC, FINVAL, FFENCE, FOWN and FKEY complete when they may start. For a fetched fabric command that may start, with an aligned
address and an allowed length: FLOAD, FINVAL, FATOMIC of an operation 0 to 4 and FOWN begin the operations of their job (R327, R328, R332); FSTORE
reads its host buffer first (R327); FFENCE completes with OK when no fabric command before it in its ring is left (R331); FKEY on an instance of the
entry's domain sets or clears the region's key and completes with OK (R323). FINVAL of length 0 invalidates nothing and completes with OK (the model's
choice, log entry 96). A bad address or length completes with ALIGN for FLOAD, FSTORE and
FINVAL, and a bad address for FATOMIC, FOWN and FKEY (R327, R330). -/
def Obligations.FabricRingCommandsComplete : Prop :=
  (∀ (s : State) (g cid a n : Nat) (f : Fetched), s.startable g cid 0x50 = some f → a = fieldAt f.body 16 8 → n = fieldAt f.body 32 4 →
    exec (.fload g cid) s = .next (if faOk a 64 = true ∧ fabLenOk n = true then
      s.fabStart g f .load a n (fieldAt f.body 36 4) (bit (fieldAt f.body 40 1) 0) [] else s.fabStatus g cid fsAlign a).limitStacks) ∧
  (∀ (s u : State) (g cid a n : Nat) (f : Fetched), s.startable g cid 0x51 = some f → a = fieldAt f.body 16 8 → n = fieldAt f.body 32 4 →
    (faOk a 64 = true → fabLenOk n = true → s.dmaRead (.fabric g cid) (s.ringInst g) g (fieldAt f.body 24 8) n = some u) →
    exec (.fstore g cid) s = .next (if faOk a 64 = true ∧ fabLenOk n = true then u.stageCmd g f .started
      else s.fabStatus g cid fsAlign a)) ∧
  (∀ (s : State) (g cid a op : Nat) (f : Fetched), s.startable g cid 0x52 = some f → a = fieldAt f.body 16 8 → op = fieldAt f.body 24 1 →
    exec (.fatomic g cid) s = .next (if faOk a 8 = false then s.fabStatus g cid fsAlign a
      else if op > 4 then s.completeStatus g cid stOpcodeInvalid
      else s.fabStart g f (.atomic op (fieldAt f.body 32 8) (fieldAt f.body 40 8)) a 8 (fieldAt f.body 28 4) false []).limitStacks) ∧
  (∀ (s : State) (g cid a n : Nat) (f : Fetched), s.startable g cid 0x53 = some f → a = fieldAt f.body 16 8 → n = fieldAt f.body 24 4 →
    exec (.finval g cid) s = .next (if faOk a 64 = false ∨ n % 64 ≠ 0 then s.fabStatus g cid fsAlign a
      else if n = 0 then s.completeStatus g cid stOk else s.fabStart g f .inval a n (fieldAt f.body 28 4) false [])) ∧
  (∀ (s : State) (g cid : Nat) (f : Fetched) (r : Machine.Ring), s.startable g cid 0x54 = some f → Tab.get? s.rings g = some r →
    (∀ x ∈ r.fetched.takeWhile fun x => decide (x ≠ f), x.isFabric = false) →
    exec (.ffence g cid) s = .next (s.completeStatus g cid 0)) ∧
  (∀ (s : State) (g cid a : Nat) (f : Fetched), s.startable g cid 0x55 = some f → a = fieldAt f.body 16 8 →
    exec (.fown g cid) s = .next (if faOk a 1 = true then
      s.fabStart g f (.own (fieldAt f.body 24 2 % 1024)) a 1 (fieldAt f.body 28 4) false [] else s.fabStatus g cid fsAlign a)) ∧
  (∀ (s : State) (g cid a r : Nat) (f : Fetched) (e : List Nat), s.startable g cid 0x56 = some f → a = fieldAt f.body 16 8 →
    faOk a 1 = true → s.regionOf a = some (r, e) → s.ringOper g = false → s.ringDom g = reDom e →
    exec (.fkey g cid) s =
      .next ((s.setRegionKey r (if bit (fieldAt f.body 28 1) 0 then none else some (fieldAt f.body 24 4))).completeStatus g cid 0)) ∧
  (∀ (s : State) (g cid : Nat) (f : Fetched), s.startable g cid 0x56 = some f → faOk (fieldAt f.body 16 8) 1 = false →
    exec (.fkey g cid) s = .next (s.fabStatus g cid fsAlign (fieldAt f.body 16 8)))

/-- The fabric's messages, table commits and timers complete. FABRIC_REQUEST_RECEIVE renews the lease, answers a probe, and serves or holds any other
request (R324, R331). MIRROR_FORWARD that passes the mirror's checks stores the bytes at the mirror and answers OK (R340). INVALIDATION_RECEIVE
counts, drops the range and answers, at once or when the nodes that filled from this node's replica have dropped theirs (R334, R337). FABRIC_RESPONSE
ends its operation, or is counted late (R328, R345). FABRIC_OP_TIMEOUT advances to the deadline, quarantines the tag for four times the timeout and
ends the operation (R345); QUARANTINE_EXPIRE frees the tag. PROBE_TIMER sends a probe to a DOWN destination, or to a home that has been silent (R320,
R335). LEASE_EXPIRE drops the home's lines and detaches its replicas, SHARER_DROP takes the recipient out (R335). The SEL writes fetch and commit
table entries (R318, R322, R352), and FAB_CTRL stores its clamped fields or raises LEASE_CONFIG (R335). -/
def Obligations.FabricMessagesTablesAndTimersComplete : Prop :=
  (∀ (s : State) (nd en tg op ad n k ep : Nat) (fl : Bool) (b : List Byte),
    exec (.fabricRequestReceive nd en tg 0x15F op ad n k ep fl b) s = .next ((s.heard nd).sendRsp nd en tg 0 0 []).limitStacks ∧
    ∀ kd q, reqKind kd op b = some q → q ≠ .probe → exec (.fabricRequestReceive nd en tg kd op ad n k ep fl b) s =
      .next ((s.heard nd).serveOrWait ⟨.rem nd en tg, nd, q, ad, n, k, ep, fl, b⟩).limitStacks) ∧
  (∀ (s u v : State) (nd en tg ad k ep r : Nat) (e : List Nat) (b : List Byte), u = s.heard nd → u.regionOf ad = some (r, e) →
    u.mirrorCheck r e ad b.length k ep = (v, none) → v.hbmFault (reDom e) (reOffset e ad) b.length false = none →
    exec (.mirrorForward nd en tg ad k ep b) s = .next ((v.storeData (reDom e) (reOffset e ad) b).sendRsp nd en tg 0 0 [])) ∧
  (∀ (s u : State) (nd en tg ad n : Nat), u = (s.heard nd).addFld F.FAB_CACHE_INVALIDATIONS 1 →
    (u.filledFrom ad n = none → exec (.invalidationReceive nd en tg ad n) s = .next ((u.dropRange ad n).sendRsp nd en tg 0 0 [])) ∧
    ∀ r e v, u.filledFrom ad n = some (r, e) →
      ((u.startDrops (.rem nd en tg) r e .inval ad n 0) = (v, false) → exec (.invalidationReceive nd en tg ad n) s = .next v) ∧
      ((u.startDrops (.rem nd en tg) r e .inval ad n 0) = (v, true) →
        exec (.invalidationReceive nd en tg ad n) s = .next (v.sendRsp nd en tg 0 0 []))) ∧
  (∀ (s u : State) (op nd st fl : Nat) (b : List Byte) (ps : List PeerEntry) (o : FOp), u = s.heard nd → Tab.get? u.fab.ops op = some o →
    exec (.fabricResponse op nd st fl b ps) s = .next
      (((({ u with fab := { u.fab with ops := Tab.del u.fab.ops op, timeouts := Tab.del u.fab.timeouts o.node } } : State).opAnswer
        o nd st fl b ps).drainQueue).pumpAll)) ∧
  (∀ (s : State) (op nd st fl : Nat) (b : List Byte) (ps : List PeerEntry), Tab.get? (s.heard nd).fab.ops op = none →
    exec (.fabricResponse op nd st fl b ps) s = .next ((s.heard nd).lateResponse op)) ∧
  (∀ (s u : State) (op t : Nat) (o : FOp), Tab.get? s.fab.ops op = some o → o.node ≠ s.nodeId → s.opHeld op = false →
    t = s.fld F.FAB_CTRL_TIMEOUT_US * usec → u = s.advanceTo (o.sentAt + t) →
    exec (.fabricOpTimeout op) s = .next ((((({ u with fab := { u.fab with ops := Tab.del u.fab.ops op }, quar := u.quar ++
      [{ id := op, engine := o.engine, link := 0, tags := 1, fabric := true, freeAt := u.now + 4 * t }] } : State).noteTimeout o.node).opTimedOut
      o).drainQueue).pumpAll)) ∧
  (∀ (s : State) (fb : Bool) (id : Nat) (q : Quarantine), (s.quar.find? fun q => q.fabric == fb && q.id == id) = some q →
    exec (.quarantineExpire fb id) s =
      .next ({ s.advanceTo q.freeAt with quar := (s.advanceTo q.freeAt).quar.erase q } : State).pumpAll) ∧
  (∀ (s u : State) (n p : Nat) (l : List Nat), n ≠ s.nodeId →
    (s.nodeDown n = true ∨ (s.homesKept.contains n = true ∧ s.silent n = true)) → s.livePorts n = p :: l →
    s.sendOp ⟨.probe, .probe, n, 0, 0, 0, 0, [], 0, 0, 0, false, false, false, []⟩ = some u →
    exec (.probeTimer n) s = .next (u.count (0xD80 + 32 * p + 14) none 1)) ∧
  (∀ (s u : State) (n t : Nat), Tab.get? s.fab.heard n = some t →
    u = (s.advanceTo (t + s.fld F.FAB_CTRL_LEASE_US * usec)).dropLines (fun l => l.home == n) →
    exec (.leaseExpire n) s = .next { u with fab := { u.fab with heard := Tab.del u.fab.heard n, detached := (u.fab.detached ++
      (u.fab.regions.filter fun p => reValid p.2 && reRole p.2 == 2 && u.homeOf p.2 == n).map (·.1)).eraseDups } }) ∧
  (∀ (s u : State) (h n t : Nat) (x : HomeOp), Tab.get? s.fab.homes h = some x → Tab.get? x.failedAt n = some t →
    u = s.advanceTo (t + s.fld F.FAB_CTRL_LEASE_US * usec) →
    exec (.sharerDrop h n) s = .next (((({ u with fab := { u.fab with
      homes := Tab.set u.fab.homes h { x with
        waiting := x.waiting.erase n, failedAt := Tab.del x.failedAt n, dropped := x.dropped + 1 }
      sharers := Tab.modify u.fab.sharers x.region fun l => l.erase n } } : State).homeCheck h).drainQueue).pumpAll)) ∧
  (∀ (s : State) (v : Nat) (fd : Option Nat),
    exec (.regionFetch v) s = .next (s.regionSel (v % 2 ^ 18 + 2 ^ 18) none) ∧
    exec (.regionCommit v fd) s = .next (s.regionSel (v % 2 ^ 18 + 2 ^ 19) fd) ∧
    exec (.bearingFetch v) s = .next (s.bearingSel (v % 2 ^ 16 + 2 ^ 16)) ∧
    exec (.bearingCommit v) s = .next (s.bearingSel (v % 2 ^ 16 + 2 ^ 17))) ∧
  (∀ (s : State) (v : Nat),
    (bits v 36 27 < 3 * bits v 43 37 → exec (.fabCtrlWrite v) s = .next (s.raise F.FAB_ERR_STATUS_LEASE_CONFIG)) ∧
    (¬ bits v 36 27 < 3 * bits v 43 37 → exec (.fabCtrlWrite v) s = .next ((((s.setFld F.FAB_CTRL_TIMEOUT_US (clamp 10 100000 (bits v 26
      10))).setFld F.FAB_CTRL_LEASE_US (bits v 36 27)).setFld F.FAB_CTRL_PROBE_US (bits v 43 37)).setFld F.FAB_CTRL_DOWN_AFTER
      (max 1 (bits v 47 44)))))

/-- WIDEN, FLIT_RECEIVE, RHUMB_LANE_LOSS, RHUMB_RETRAIN_DONE, LINK_TRAIN and LINK_KEY_UPDATE complete. On a port that is up: WIDEN begins a retrain
that may use every lane (R349); FLIT_RECEIVE counts the flit, answers a bad CRC with one NAK, takes the acknowledgement of a good flit, sends what
waited for room, and takes a message flit, replays at a NAK or counts the rest (R348); LINK_KEY_UPDATE starts the message count again under a new key
(R431); RHUMB_RETRAIN_DONE on a retraining port that keeps 4 lanes or more sets the lanes in use and, with a narrower width, counts a lane shed, and
with fewer takes the port down (R349). RHUMB_LANE_LOSS drops the lock of the lost lanes, and a port that loses lanes in use retrains on the rest or,
with fewer than 4, goes down (R349). LINK_TRAIN of an enabled port that is not up, on 4 or more lanes with an authenticated neighbour, brings it UP
with its sequence numbers and replay buffer at 0 (R317, R431). -/
def Obligations.RhumbCommandsComplete : Prop :=
  (∀ (s : State) (p : Nat), s.portUp (p % 4) = true →
    exec (.widen p) s = .next (s.startRetrain (p % 4) 255)) ∧
  (∀ (s u : State) (p seq ack : Nat) (tagOk : Bool) (ms : List FabMsg), s.portUp (p % 4) = true →
    u = s.count (rhbSrc (p % 4) 1) none 1 →
    (∀ k, exec (.flitReceive p seq ack k false tagOk ms) s = .next ((u.count (rhbSrc (p % 4) 4) none 1).sendNak (p % 4))) ∧
    ∀ v : State, v = (u.takeAck (p % 4) ack).pumpPort (p % 4) →
      exec (.flitReceive p seq ack 0 true tagOk ms) s = .next (v.takeFlit (p % 4) seq tagOk ms) ∧
      exec (.flitReceive p seq ack 1 true tagOk ms) s = .next (v.count (rhbSrc (p % 4) 11) none 1) ∧
      exec (.flitReceive p seq ack 2 true tagOk ms) s = .next (v.replay (p % 4)) ∧
      exec (.flitReceive p seq ack 3 true tagOk ms) s = .next (v.count (rhbSrc (p % 4) 12) none 1)) ∧
  (∀ (s u : State) (p mask lock left : Nat), lock = s.fld F.FAB_PORT_STATUS_LANE_LOCK (p % 4) →
    u = (((rangeFrom 0 8).filter fun i => bit mask i && bit lock i).foldl (fun s i => s.count (rhbSrc (p % 4) (16 + i)) none 1) s).setFld
      F.FAB_PORT_STATUS_LANE_LOCK (sumList ((rangeFrom 0 8).map fun i => if bit lock i && !bit mask i then 2 ^ i else 0)) (p % 4) →
    left = sumList ((rangeFrom 0 8).map fun i => if bit (u.rhb (p % 4)).used i && !bit mask i then 2 ^ i else 0) →
    ((u.portUp (p % 4) = false ∨ left = (u.rhb (p % 4)).used) → exec (.rhumbLaneLoss p mask) s = .next u) ∧
    (u.portUp (p % 4) = true → left ≠ (u.rhb (p % 4)).used → popCount 8 left < 4 →
      exec (.rhumbLaneLoss p mask) s = .next ((u.setRhb (p % 4) { u.rhb (p % 4) with used := left }).portDown (p % 4))) ∧
    (u.portUp (p % 4) = true → left ≠ (u.rhb (p % 4)).used → ¬ popCount 8 left < 4 →
      exec (.rhumbLaneLoss p mask) s = .next ((u.setRhb (p % 4) { u.rhb (p % 4) with used := left }).startRetrain (p % 4) left))) ∧
  (∀ (s t : State) (p lock used q : Nat), s.portUp q = true → s.flag F.FAB_PORT_STATUS_RETRAINING q = true → q = p % 4 →
    used = (s.rhb q).lanes &&& lock % 256 → popCount 8 used < 4 → t = s.setFld F.FAB_PORT_STATUS_LANE_LOCK (lock % 256) q →
    exec (.rhumbRetrainDone ⟨p, lock⟩) s = .next ((t.setRhb q { t.rhb q with used := used }).portDown q)) ∧
  (∀ (s t u v : State) (p lock used n q : Nat), s.portUp q = true → s.flag F.FAB_PORT_STATUS_RETRAINING q = true → q = p % 4 →
    used = (s.rhb q).lanes &&& lock % 256 → n = popCount 8 used → 4 ≤ n → t = s.setFld F.FAB_PORT_STATUS_LANE_LOCK (lock % 256) q →
    u = ((((((t.setRhb q { t.rhb q with used := used }).setFld F.FAB_PORT_STATUS_RETRAINING 0 q).setFld
      F.FAB_PORT_STATUS_LANES_ACTIVE n q).satFld F.FAB_PORT_ERR_RETRAINS 1 q).count (rhbSrc q 7) none 1).health (8 + q) 2 1) →
    v = (if n < t.fld F.FAB_PORT_STATUS_LANES_ACTIVE q then (((u.satFld F.FAB_PORT_ERR_LANE_SHEDS 1 q).raise
      F.FAB_ERR_STATUS_LANE_SHED).count (rhbSrc q 8) none 1).health (8 + q) 3 1 else u) →
    exec (.rhumbRetrainDone ⟨p, lock⟩) s =
      .next ((if v.fld F.FAB_PORT_STATUS_REPLAY_USED q = 0 then v else v.replay q).pumpPort q)) ∧
  (∀ (s u : State) (p peer lock q : Nat), q = p % 4 → s.flag F.FAB_PORT_CTRL_ENABLE q = true → s.unitOff ⟨ucRhumb, q⟩ = false →
    s.clockLost 2 (q / 2) = false → s.portUp q = false → 4 ≤ popCount 8 (lock % 256) → peer < 1024 → peer ≠ s.nodeId →
    u = ((s.setFld F.FAB_PORT_STATUS_LANE_LOCK (lock % 256) q).setFld F.FAB_PORT_STATUS_PEER_NODE peer q) → u.nodeId = s.nodeId →
    exec (.linkTrain p peer lock false) s = .next (u.raise F.ISO_ERR_STATUS_LINK_AUTH) ∧
    exec (.linkTrain p peer lock true) s = .next ((((((u.setRhb q ⟨lock % 256, lock % 256, 0, (u.rhb q).keyGen + 1, false, none, []⟩).setFld
      F.FAB_PORT_STATUS_UP 1 q).setFld F.FAB_PORT_STATUS_LANES_ACTIVE (popCount 8 (lock % 256)) q).setFld F.FAB_PORT_STATUS_TX_SEQ 0
      q).setFld F.FAB_PORT_STATUS_RX_EXPECTED 0 q).setFld F.FAB_PORT_STATUS_REPLAY_USED 0 q)) ∧
  (∀ (s : State) (p q : Nat), q = p % 4 → s.portUp q = true →
    exec (.linkKeyUpdate p) s = .next ((s.setRhb q { s.rhb q with msgs := 0, keyGen := (s.rhb q).keyGen + 1 }).count (rhbSrc q 15) none 1))

/-- DOORBELL, RING_ENABLE, RING_DISABLE, IRQ_COAL_TIMER, INST_CTRL_RESET, RECKON_WRITE and SEED_WRITE complete. On a RUNNING device, over the link
that the instance is bound to: DOORBELL of an ENABLED ring of an instance that is not being reset publishes entries and returns completions, and of
any other ring is dropped and counted (R366). RING_ENABLE of a DISABLED ring with a valid configuration clears it and makes it ENABLED, with an
invalid one sets ERR_CAUSE 3; RING_DISABLE of an ENABLED ring begins its quiescing (R363). INST_CTRL_RESET requests a context reset (R375).
RECKON_WRITE and SEED_WRITE of a DISABLED reckoning ring set STEP and HALT_INDEX, stage bits 63:0 of a seed and apply it (R453, R457). IRQ_COAL_TIMER
with interrupts on and completions uncounted sends the interrupt (R371). -/
def Obligations.PageCommandsComplete : Prop :=
  (∀ (s : State) (i l v k g : Nat) (r : Machine.Ring), i < 1024 → l < 64 → k < 2 → s.running = true → s.page i k = some true →
    s.localRing i l = some (g, r) →
    exec (.doorbell i l v k) s = .next (if s.ringState r = 1 ∧ s.instQuiet i = false then (s.noteDoorbell i).ringDoorbell g v else
      s.dropDoorbell i)) ∧
  (∀ (s t u : State) (i l v k g : Nat) (r : Machine.Ring), i < 1024 → l < 64 → k < 2 → s.running = true → s.page i k = some true →
    s.localRing i l = some (g, r) → s.ringState r = 0 → bit (v ||| 2 ^ 47) 47 = true →
    t = ((s.setFld F.RING_CFG_SQ_LOG2 ((v ||| 2 ^ 47) / 2 ^ 16 % 32) r.key).setFld F.RING_CFG_CQ_LOG2 ((v ||| 2 ^ 47) / 2 ^ 21 % 32) r.key) →
    u = ((t.noteReg F.RING_CFG_SHARE.reg r.key).setFld F.RING_CFG_SHARE (max 1 ((v ||| 2 ^ 47) / 2 ^ 31 % 65536)) r.key).setFld
      F.RING_CFG_ENABLE ((v ||| 2 ^ 47) / 2 ^ 47 % 2) r.key → u.ringState r = 0 →
    exec (.ringEnable i l v k) s = .next (if u.ringCfgOk r.key = true then u.clearRing g r ringEnabled
      else u.setFld F.RING_STATUS_ERR_CAUSE 3 r.key)) ∧
  (∀ (s u : State) (i l v w k g : Nat) (r : Machine.Ring), i < 1024 → l < 64 → k < 2 → s.running = true → s.page i k = some true →
    s.localRing i l = some (g, r) → s.ringState r = 1 → w = v - v / 2 ^ 47 % 2 * 2 ^ 47 → bit w 47 = false →
    u = ((s.noteReg F.RING_CFG_SHARE.reg r.key).setFld F.RING_CFG_SHARE (max 1 (w / 2 ^ 31 % 65536)) r.key).setFld F.RING_CFG_ENABLE
      (w / 2 ^ 47 % 2) r.key → u.ringState r = 1 →
    exec (.ringDisable i l v k) s = .next ((u.setFld F.RING_STATUS_STATE ringQuiescing r.key).quiesceDone g)) ∧
  (∀ (s u : State) (g : Nat) (r : Machine.Ring), Tab.get? s.rings g = some r → s.flag F.RING_IRQ_IRQ_EN r.key = true →
    s.fld F.RING_IRQ_COAL_US r.key ≠ 0 → r.uncounted ≠ 0 → u = s.advanceTo (r.firstAt + s.fld F.RING_IRQ_COAL_US r.key * usec) →
    exec (.irqCoalTimer g) s = .next ((u.setRing g { r with uncounted := 0 }).sendMsix (u.route r.inst).1 r.vector)) ∧
  (∀ (s : State) (i k : Nat), i < 1024 → k < 2 → s.running = true → s.page i k = some true →
    exec (.instCtrlReset i k) s = .next (s.resetAsk i)) ∧
  (∀ (s : State) (i l v k g : Nat) (r : Machine.Ring), i < 1024 → l < 64 → k < 2 → v < 2 ^ 64 → s.running = true → s.page i k = some true →
    s.localRing i l = some (g, r) → r.reckons = true → s.ringState r = 0 →
    exec (.reckonWrite i l v k) s = .next (((s.setFld F.RING_RECKON_STEP (v % 2 ^ 48) r.key).setFld F.RING_RECKON_HALT_INDEX (v / 2 ^ 48)
      r.key).setRing g { r with seedHalf := none }) ∧
    (r.seedHalf = none → exec (.seedWrite i l v k) s = .next (s.setRing g { r with seedHalf := some v })) ∧
    ∀ lo, r.seedHalf = some lo → exec (.seedWrite i l v k) s =
      .next (s.setRing g { r with seedHalf := none, seed := some (v * 2 ^ 64 + lo) }))

/-- The five mailbox commands, CONTEXT_RESET, CONTEXT_RESET_DONE, FLR, PCIE_LINK_RESET, PERST_DEASSERT, ATS_INVALIDATION and the faults that start
resets complete. On a RUNNING device whose mailbox is not BUSY, with a command block that passes its checks: CREATE_INSTANCE creates the instance,
ALLOC_RING allocates a ring and answers its number, FREE_RING of an instance that is not being reset ends at once, RESET_INSTANCE and
DESTROY_INSTANCE start a reset and wait for it (R357 to R361). CONTEXT_RESET does steps 2 to 4 of a requested reset, CONTEXT_RESET_DONE its last
steps (R375). FLR and PCIE_LINK_RESET request the resets of their functions and train the link (R378, R557), PERST_DEASSERT trains it (R600).
ATS_INVALIDATION with no read of the range outstanding drops the translations (R373). QUEUE_STATE_UE, HELM_CORE, ENGINE_PARITY and CONTROL_UE record
the fault and start their resets (R169, R549, R550, R552). -/
def Obligations.MailboxAndResetCommandsComplete : Prop :=
  (∀ (s : State) (a : Nat) (b : List Byte), s.running = true → s.flag F.PCI_MBX_CTRL_BUSY = false → a = s.fld F.PCI_MBX_ADDR_ADDR →
    (fieldAt (pad64 b) 0 1 = 1 → s.createStatus (pad64 b) = 0 →
      exec (.createInstance (.data b)) s = .next ((s.createInst (pad64 b)).mbxAnswer a 0 [])) ∧
    (fieldAt (pad64 b) 0 1 = 3 → s.allocStatus (pad64 b) = 0 →
      exec (.allocRing (.data b)) s = .next ((s.allocRing (pad64 b)).1.mbxAnswer a 0 (toLe 2 (s.allocRing (pad64 b)).2))) ∧
    (fieldAt (pad64 b) 0 1 = 4 → s.nameStatus (pad64 b) 4 = 0 → s.instQuiet (mbInst (pad64 b)) = false →
      exec (.freeRing (.data b)) s = .next (s.mbxFinish ⟨4, mbInst (pad64 b), mbLocal (pad64 b), a⟩)) ∧
    (fieldAt (pad64 b) 0 1 = 5 → s.nameStatus (pad64 b) 5 = 0 → exec (.resetInstance (.data b)) s =
      .next ((s.resetAsk (mbInst (pad64 b))).mbxWait ⟨5, mbInst (pad64 b), mbLocal (pad64 b), a⟩)) ∧
    (fieldAt (pad64 b) 0 1 = 2 → s.nameStatus (pad64 b) 2 = 0 → exec (.destroyInstance (.data b)) s =
      .next ((s.destroyStart (mbInst (pad64 b))).mbxWait ⟨2, mbInst (pad64 b), mbLocal (pad64 b), a⟩))) ∧
  (∀ (s u : State) (n : Nat) (i : Inst) (p : State × Nat × Nat) (js : Tab DmaJob), n < 1024 → Tab.get? s.insts n = some i → i.resetStep = 1 →
    js = (s.dma.filter fun j => j.2.inst == n) →
    p = ((s.instRings n).map (·.1)).foldl (fun p g => (s.squashWork n).resetRing p g) (s.squashWork n, 0, 0) →
    u = (s.instRuns n).foldl (fun s r => s.reapRun r) p.1 →
    exec (.contextReset n) s = .next { u with insts := Tab.modify u.insts n fun i => { i with
      resetStep := 4, info := [p.2.1, p.2.2, sumList (js.map fun j => s.readsOut j.1 j.2), sumList (js.map fun j => j.2.dropped)] } }) ∧
  (∀ (s u v w : State) (n : Nat) (slow : Bool) (i : Inst), n < 1024 → Tab.get? s.insts n = some i → i.resetStep = 4 →
    u = (((s.instRings n).foldl (fun s p => s.clearRing p.1 p.2 ringDisabled) (s.atsDrop i.link i.pasid))) →
    (s.atsDrop i.link i.pasid).instRings n = s.instRings n →
    v = (if slow then ((u.writeInfo n i.info).addFld F.INST_STATUS_RESET_COUNT 1 n).raise F.PCI_ERR_STATUS_RESET_SLOW
      else (u.writeInfo n i.info).addFld F.INST_STATUS_RESET_COUNT 1 n).setFld F.INST_STATUS_STATE 1 n →
    w = { v with insts := Tab.modify v.insts n fun i => { i with resetStep := 0 } } →
    exec (.contextResetDone n slow) s = .next ((if i.destroy then w.freeInst n else w).mbxSettle n)) ∧
  (∀ s : State,
    exec (.flr 0) s = .next (((s.insts.map (·.1)).foldl State.resetAsk s).mbxReset) ∧ exec (.flr 1) s = .next s ∧
    exec (.flr 2) s = .next (((s.insts.filter fun i => i.2.link == 1).map (·.1)).foldl State.resetAsk s) ∧
    ∀ sp w, (∀ (j old : Nat) (u : State), j < 2 → u = (if j = 0 then (s.flr 0).flr 1 else s.flr 2) → old = (u.reg (linkReg j)).toNat →
        exec (.pcieLinkReset j sp w) s = .next (((((u.count (0xE81 + 16 * j) none (b2n (bit old 0 && w != 0 && old / 2 % 8 != sp % 8))).count
          (0xE82 + 16 * j) none (b2n (bit old 0 && w != 0 && old / 16 % 32 != w % 32))).linkRetrains j).linkState j (w != 0) sp w))) ∧
      (3 ≤ s.fld F.GLB_STATUS_BOOT_STATE → ∀ j, j < 2 → exec (.perstDeassert j sp w) s = .next (s.linkState j (w != 0) sp w))) ∧
  (∀ (s : State) (k q a n : Nat), k < 2 → q < 2 ^ 20 →
    (∀ j ∈ s.dma, s.route j.2.inst = (k, q) → j.2.addr < a + n → a < j.2.addr + j.2.len → j.2.landed = true ∨ j.2.failed.isSome = true) →
    exec (.atsInvalidation k q a n) s = .next (({ s with ats := s.ats.filter fun e => !(e.1 == k * 2 ^ 20 + q &&
      decide (e.2 * 65536 < a + n) && decide (a < (e.2 + 1) * 65536)) } : State).count (0xE8F + 16 * k) none 1)) ∧
  (∀ (s : State) (g : Nat) (r : Machine.Ring), Tab.get? s.rings g = some r →
    exec (.queueStateUe g) s = .next ((s.faultRecord { s.ringRecord g 0 0x0506 2 with cmd := none }).deviceReset 0x0506 r.inst)) ∧
  (∀ (s : State) (c pc : Nat), c < 32 → s.unitOff ⟨ucCore, c⟩ = false → exec (.helmCore c pc) s =
    .next ((s.faultRecord { FaultRec.of 0x0505 3 with ucls := ucCore, uidx := c, detail := pc }).loseCore c 0x0505)) ∧
  (∀ (s : State) (e : Nat),
    (e < 16 → exec (.engineParity false e) s =
      .next ((s.faultRecord { FaultRec.of 0x0507 3 with ucls := ucDma, uidx := e }).loseIoEngine ucDma e 0x0507)) ∧
    (e < 24 → exec (.engineParity true e) s =
      .next ((s.faultRecord { FaultRec.of 0x0507 3 with ucls := ucFab, uidx := e }).loseIoEngine ucFab e 0x0507)) ∧
    exec .controlUe s = .next ((s.faultRecord (FaultRec.of 0x0508 5)).computeStart 0x0508))

/-- ETH_FRAME_RECEIVE, RX_MEM_WAIT_EXPIRE, FIFO_PARITY, ETH_LANE_LOSS, SUBPORT_UP, REFORM, STEER_WRITE, POLICER_WRITE and PRING_WRITE complete. On a
sub-port that is UP, ETH_FRAME_RECEIVE counts an unprotected frame of good length and FCS that is no PAUSE frame and that the Meridian does not
claim, and sends it to the steering entry that takes it; a short, long or bad frame is dropped into its counter (R390). RX_MEM_WAIT_EXPIRE ends such
a frame with MEM_WAIT (R395). FIFO_PARITY raises its bit and writes its record (R408). ETH_LANE_LOSS takes the lock, counts, takes the sub-port down
and sheds the port where it may; SUBPORT_UP brings up a sub-port whose lanes hold lock; REFORM retrains the port in MODE (R383). STEER_WRITE,
POLICER_WRITE and PRING_WRITE store their entry and do what R391, R398 and R393 say. A frame in the cycle of table writes meets what stood before
them, and leaves what they wrote (R391, R398, R426). -/
def Obligations.EthernetReceiveCommandsComplete : Prop :=
  (∀ (s : State) (p n : Nat) (f : EthFrame) (t new : EthTie), p < 32 → s.eth.tie = t → t.at_ = s.now →
    new = { t with
      regs := t.regs.map fun e => (e.1, e.2.1, s.reg e.1 e.2.1)
      pols := t.pols.map fun e => (e.1, Tab.get? s.eth.pols e.1)
      sas := t.sas.map fun e => (e.1, Tab.get? s.sas e.1) } →
    exec (.ethFrameReceive p f) s = .next (((s.putTie t).rxFrame p f f.data.length 0).putTie new) ∧
    exec (.rxMemWaitExpire p f n) s = .next (((s.putTie t).rxFrame p f n causeMemWait).putTie new) ∧
    exec (.fifoParity p f n) s = .next (((s.putTie t).fifoParity p f n).putTie new)) ∧
  (∀ (s u : State) (p : Nat) (f : EthFrame), p < 32 → (s.eth.tie.at_ = s.now → s.eth.tie.regs = [] ∧ s.eth.tie.pols = [] ∧ s.eth.tie.sas = []) →
    s.flag F.ETH_SUB_STATUS_UP p = true → f.full = false →
    u = ((s.addFld F.ETH_SUB_FRAMES_RX_FRAMES 1 p).count (0xA00 + 16 * p) none 1).count (0xA01 + 16 * p) none (ceilDiv (frLen f) 64) →
    (frLen f ≤ 63 → exec (.ethFrameReceive p f) s = .next (s.dropRunt p)) ∧
    (¬ frLen f ≤ 63 → s.fld F.ETH_SUB_CTRL_MAX_FRAME p < frLen f → s.begun p (s.fld F.ETH_SUB_CTRL_MAX_FRAME p + 1) = false →
      exec (.ethFrameReceive p f) s = .next (s.dropOversize p)) ∧
    (¬ frLen f ≤ 63 → ¬ s.fld F.ETH_SUB_CTRL_MAX_FRAME p < frLen f → f.fcsOk = false → s.begun p (frLen f) = false →
      exec (.ethFrameReceive p f) s = .next (s.dropFcs p)) ∧
    (¬ frLen f ≤ 63 → ¬ s.fld F.ETH_SUB_CTRL_MAX_FRAME p < frLen f → f.fcsOk = true → f.sec = none → frType f.data ≠ 0x8808 →
      u.claims p f.data = false →
      (∀ e, u.steerOf p f none = .ok e → exec (.ethFrameReceive p f) s = .next (u.rxSteered p e f none f.data.length 0) ∧
        ∀ n, exec (.rxMemWaitExpire p f n) s = .next (u.rxSteered p e f none n causeMemWait)) ∧
      ∀ x, u.steerOf p f none = .error x → exec (.ethFrameReceive p f) s = .next (u.dropNomatch p))) ∧
  (∀ (s u : State) (p n : Nat) (f : EthFrame), p < 32 → (s.eth.tie.at_ = s.now → s.eth.tie.regs = [] ∧ s.eth.tie.pols = [] ∧ s.eth.tie.sas = []) →
    u = (s.raise F.ETH_ERR_STATUS_FIFO_PARITY).faultRecord { FaultRec.of 0x0501 1 with
      dom := (match s.steerOf p f none with | .ok e => some (s.fld F.ETH_STEER_DOMAIN e) | .error _ => none)
      ucls := ucEth, uidx := p / 4, detail := p } →
    exec (.fifoParity p f n) s = .next (if n = 0 then u else (u.fresh 8).2.rxBroken p f n (u.fresh 8).1)) ∧
  (∀ (s u : State) (p l : Nat) (rx : Option (EthFrame × Nat)), p < 8 → l < 4 →
    u = ((s.setLock p l false).countLoss p l).subDown (s.laneSub p l) rx →
    exec (.ethLaneLoss p l rx) s = .next (if u.sheds p then
      (u.reformPort p (some (1 + u.fld F.ETH_PORT_CTRL_SHED_MODE p))).raise F.ETH_ERR_STATUS_LANE_SHED else u)) ∧
  (∀ (s u : State) (k p : Nat), k < 32 → p = k / 4 → s.portMay p = true → k % 4 < formSubs (s.portForm p) →
    (∀ l ∈ formLanes (s.portForm p) (k % 4), s.laneLock p l = true) →
    u = (s.setFld F.ETH_SUB_STATUS_UP 1 k).setFld F.ETH_SUB_STATUS_CROSSING (b2n (s.portForm p == 0)) k →
    exec (.subportUp k) s = .next (if Tab.has u.eth.shed p then u else u.setFld F.ETH_SUB_STATUS_ALIAS_OF k k)) ∧
  (∀ (s : State) (p : Nat), p < 8 → exec (.reform p) s = .next (s.reformPort p none)) ∧
  (∀ (s t r z : State) (v w e : Nat), e = s.fld F.ETH_SEL_STEER →
    w = (if v % 2 ^ 57 / 2 ^ 53 % 8 = 7 then v % 2 ^ 57 - 2 ^ 53 else v % 2 ^ 57) → r = s.tieReg F.ETH_STEER_VALID.reg e →
    t = r.setReg F.ETH_STEER_VALID.reg e (BitVec.ofNat 64 w) → z = r.unlessStrict t (t.fld F.ETH_STEER_SUBPORT e) →
    (r.steerConflict e t = true → exec (.steerWrite v) s = .next (r.raise F.ETH_ERR_STATUS_STEER_CONFLICT)) ∧
    (r.steerConflict e t = false → exec (.steerWrite v) s =
      .next (if z.reg F.ETH_STEER_VALID.reg e = r.reg F.ETH_STEER_VALID.reg e then z else z.measChanged))) ∧
  (∀ (s u : State) (v n : Nat), n = s.fld F.ETH_SEL_POLICER →
    u = ((s.tieReg F.ETH_POL_RATE_VALID.reg n).tiePol n).setReg F.ETH_POL_RATE_VALID.reg n (BitVec.ofNat 64 (v % 2 ^ 63)) →
    exec (.policerWrite v) s = .next (if bit v 62 then { u with eth := { u.eth with pols := (Tab.set u.eth.pols n
      ⟨u.fld F.ETH_POL_BURST_CBS n * 8000000, u.fld F.ETH_POL_BURST_PBS n * 8000000, u.taiNs⟩ : Tab Policer) } } else u)) ∧
  (∀ (s u : State) (v w n : Nat), n = s.fld F.ETH_SEL_PRING → w = (if v % 2 ^ 57 / 2 ^ 46 % 1024 = 0 then v % 2 ^ 57 + 2 ^ 46 else v % 2 ^ 57) →
    u = s.setReg F.ETH_PRING_ENABLE.reg n (BitVec.ofNat 64 w) →
    (s.prOn n = true → exec (.pringWrite v) s = .next (s.setFld F.ETH_PRING_ENABLE (v / 2 ^ 56 % 2) n)) ∧
    (s.prOn n = false → bit w 56 = false → exec (.pringWrite v) s = .next u) ∧
    (s.prOn n = false → bit w 56 = true → n < 4096 → exec (.pringWrite v) s = .next (u.setRxr n ⟨0, 0, [], 0, 0, 0, 0⟩)) ∧
    (s.prOn n = false → bit w 56 = true → ¬ n < 4096 → (u.txq (n - 4096)).frames = [] → exec (.pringWrite v) s = .next (u.setTxq (n - 4096)
      { u.txq (n - 4096) with next := 0, head := 0, lastPoll := u.now, depths := none, delays := none, samples := 0 })))

/-- TX_POLL, EGRESS_SELECT, Q_COMMIT, WHEEL_RELEASE, TELEMETRY_SAMPLE and LANE_LOCK_REGAIN complete. TX_POLL of an enabled ring with a live, enabled
queue of the ring's domain advances to the poll, reads TAIL, notes the depth and takes the published descriptors into frames; those refused are
written back (R404), and errors in the memory that it reads are met (R297). EGRESS_SELECT on a sub-port that is UP advances to its boundary, ends the
frame on the wire and begins the selected queue's head frame, or completes it with NO_SA (R399, R387), and with no eligible queue leaves an idle
virtual time (R186). Q_COMMIT of a valid rate starts the move into the wheel (R403), and changes nothing where it would put a strict domain beside
another (R405); WHEEL_RELEASE advances to the tick and takes the queue out (R403). TELEMETRY_SAMPLE samples every enabled queue (R407).
LANE_LOCK_REGAIN sets the lock of an Ethernet or a Rhumb lane whose clock is present (R383, R349). -/
def Obligations.EgressCommandsComplete : Prop :=
  (∀ (s r u w v : State) (q tail m : Nat) (b : List Byte) (x y : TxQueue) (p : Nat × List TxFrame), q < 4096 → s.prOn (4096 + q) = true →
    r = s.advanceTo ((s.txq q).lastPoll + s.fld F.ETH_PRING_POLL (4096 + q) * 100 * nsec) →
    u = (r.settleQueue q).prMeets (4096 + q) (r.prCtrl (4096 + q)) 64 → x = u.txq q →
    u.prRead (4096 + q) (u.prCtrl (4096 + q)) 4 = some b → tail = leNat b →
    y = { x with lastPoll := u.now, depths := some (match x.depths with
      | some (lo, hi) => (min lo (wrap (tail + 2 ^ 32 - x.head) 32), max hi (wrap (tail + 2 ^ 32 - x.head) 32))
      | none => (wrap (tail + 2 ^ 32 - x.head) 32, wrap (tail + 2 ^ 32 - x.head) 32)) } →
    (u.egressPort (u.fld F.ETH_Q_CFG_SUBPORT q) q).isSome = true → u.flag F.ETH_Q_CFG_ENABLE q = true →
    u.prDom (4096 + q) = u.fld F.ETH_Q_CFG_DOMAIN q →
    m = min (wrap (tail + 2 ^ 32 - y.next) 32) (u.prSize (4096 + q) - wrap (y.next + 2 ^ 32 - y.head) 32) →
    w = u.txMeets q y.next m →
    p = w.txTake q m y.next ((rangeFrom 0 m).map fun k => (w.prRead (4096 + q) (w.prDesc (4096 + q) (y.next + k)) 64).getD []) y.frames →
    v = w.setTxq q { y with next := p.1, frames := p.2 } →
    exec (.txPoll q) s = .next (((v.txWriteBack q p.2.length).headTag q).noteTxBytes (v.fld F.ETH_Q_CFG_SUBPORT q))) ∧
  (∀ (s u : State) (k q l : Nat) (f : TxFrame) (t : List TxFrame), k < 32 → s.flag F.ETH_SUB_STATUS_UP k = true →
    u = (s.advanceTo (s.ethSub k).busy).wireEnds k txOk →
    (u.nextQueue k = none → exec (.egressSelect k) s = .next (u.egressIdle (u.keyed k))) ∧
    (u.nextQueue k = some (q, l) → (u.txq q).frames = f :: t → u.txProtect q f.flags = none →
      exec (.egressSelect k) s = .next (u.txEnds q 0x82 none)) ∧
    ∀ v sec, u.nextQueue k = some (q, l) → (u.txq q).frames = f :: t → u.txProtect q f.flags = some (v, sec) →
      exec (.egressSelect k) s = .next (v.txSend k q l f sec)) ∧
  (∀ (s t : State) (v w q : Nat), q = s.fld F.ETH_SEL_QUEUE → w = v ||| 2 ^ 19 → bit w 19 = true →
    s.flag F.ETH_Q_CFG_ENABLE q = true →
    t = ((s.setFld F.ETH_Q_CFG_WHEEL (w / 2 ^ 12 % 2) q).setFld F.ETH_Q_CFG_OVERHEAD (w / 2 ^ 13 % 32) q).setFld F.ETH_Q_CFG_ENABLE
      (w / 2 ^ 18 % 2) q →
    exec (.qCommit v) s = .next (if (t.strictClash (t.fld F.ETH_Q_CFG_SUBPORT q) && !s.strictClash (t.fld F.ETH_Q_CFG_SUBPORT q)) = true
      then s.raise F.ETH_ERR_STATUS_STRICT_CONFLICT else t.qCommit q)) ∧
  (∀ (s : State) (q t : Nat), q < 4096 → (s.txq q).release = some t →
    exec (.wheelRelease q) s = .next ((s.advanceTo (t * 100 * nsec)).wheelOut q (s.txq q))) ∧
  (∀ s u v : State, u = s.advanceTo (s.eth.sampleAt + max 1 (s.fld F.ETH_TM_CTRL_SAMPLE_US) * usec) →
    v = { u with eth := { u.eth with sampleAt := u.now } } →
    exec .telemetrySample s =
      .next (((v.indices 0x4000068).filter fun q => v.flag F.ETH_Q_CFG_ENABLE q && v.prOn (4096 + q)).foldl State.sampleQueue v)) ∧
  (∀ (s : State) (p l : Nat), p < 4 →
    (s.clockLost 1 (p / 2) = false → l < 4 → exec (.laneLockRegain false p l) s = .next (s.setLock p l true)) ∧
    (s.clockLost 2 (p / 2) = false → l < 8 → exec (.laneLockRegain true p l) s =
      .next (s.setFld F.FAB_PORT_STATUS_LANE_LOCK (putBit (s.fld F.FAB_PORT_STATUS_LANE_LOCK p) l true) p)))

/-- The SPDM requests and sessions complete: GET_VERSION to GET_MEASUREMENTS, KEY_EXCHANGE, FINISH, HEARTBEAT, KEY_UPDATE, END_SESSION,
SESSION_IDLE_TIMEOUT. While the Sextant's cores serve requests, each SPDM request is answered: version, capabilities with the CT exponent, algorithms
or an error, digest, certificate and challenge of slot 0 (R419, R420). GET_MEASUREMENTS answers its blocks outside a session and in an open one
(R432). KEY_EXCHANGE takes the lowest free session, or answers Busy with SESSION_LIMIT at 16 (R419). FINISH of an authenticated session opens it,
bound to the domain of the key's digest, and counts it; a failed authentication ends it (R421, R422). HEARTBEAT, KEY_UPDATE and END_SESSION of an
open session are answered, and a failed AEAD check ends the session (R421). SESSION_IDLE_TIMEOUT ends a session three HEARTBEAT periods after its
last message. -/
def Obligations.SpdmCommandsComplete : Prop :=
  ∀ s u : State, 4 ≤ s.fld F.GLB_STATUS_BOOT_STATE → s.fld F.SXT_STATUS_CORE_STATE < 2 →
    u = ({ s with sxt := { s.sxt with workAt := s.now } } : State).setFld F.SXT_STATUS_CORE_STATE 1 →
    exec .getVersion s = .next (u.send (.spdm 16 0x04 [0x12, 0x13])) ∧
    exec .getCapabilities s = .next (u.send (.spdm 16 0x61 [15])) ∧
    exec (.negotiateAlgorithms true) s = .next (u.send (.spdm 16 0x63 [])) ∧
    exec (.negotiateAlgorithms false) s = .next (u.send (.spdm 16 0x7F [1])) ∧
    exec .getDigests s = .next (u.spdmOpen 16 0x01 [1] 48) ∧
    (∀ n, exec (.getCertificate 0 n) s = .next (u.spdmOpen 16 0x02 [0] n)) ∧
    (∀ k n, exec (.getCertificate (k + 1) n) s = .next (u.send (.spdm 16 0x7F [1]))) ∧
    exec (.challenge 0) s = .next (u.spdmOpen 16 0x03 [0] 96) ∧
    (∀ k, exec (.challenge (k + 1)) s = .next (u.send (.spdm 16 0x7F [1]))) ∧
    (∀ ok i, exec (.getMeasurements none ok i) s = .next (u.measure 16 none i)) ∧
    (Tab.lowestFree u.sessions 0 16 = none → ∀ ok, exec (.keyExchange ok) s =
      .next ((u.raise F.ISO_ERR_STATUS_SESSION_LIMIT).send (.spdm 16 0x7F [3]))) ∧
    (∀ k, Tab.lowestFree u.sessions 0 16 = some k →
      exec (.keyExchange true) s = .next ((u.setSession k ⟨false, none, u.now⟩).spdmOpen k 0x64 [BitVec.ofNat 8 k] 192)) ∧
    (∀ k x dg, Tab.get? u.sessions k = some x → x.open_ = false →
      exec (.finish k false dg) s = .next ((u.endSession k).addFld F.ISO_SESSION_COUNT_AUTH_FAIL 1) ∧
      exec (.finish k true dg) s = .next ((((u.setSession k ⟨true, u.domainOf dg, u.now⟩).addFld F.ISO_SESSION_COUNT_ESTABLISHED 1).count
        0xF8A none 1).send (.spdm k 0x65 []))) ∧
    (∀ k x v, Tab.get? u.sessions k = some x →
      exec (.heartbeat k false) s = .next (((u.authFail k).raise F.ISO_ERR_STATUS_AEAD_FAIL).count 0xF8B none 1) ∧
      (x.open_ = true → v = u.setSession k { x with lastAt := u.now } →
        exec (.heartbeat k true) s = .next (v.send (.spdm k 0x68 [])) ∧
        exec (.keyUpdate k true) s = .next (v.send (.spdm k 0x69 [])) ∧
        exec (.endSession k true) s = .next ((v.send (.spdm k 0x6C [])).endSession k) ∧
        ∀ i, exec (.getMeasurements (some k) true i) s = .next (v.measure k x.dom i))) ∧
    ∀ k x, Tab.get? s.sessions k = some x →
      exec (.sessionIdleTimeout k) s = .next ((s.advanceTo (x.lastAt + 90000 * msec)).endSession k)

/-- DOM_KEY_SET, DOM_KEY_GEN, DOM_KEY_CLEAR, SAK_SET, SAK_CLEAR, SA_STATUS, SET_NOTICE_RING and SC_ASSIGN_WRITE complete. In an open session bound to
a domain, a well-formed request is carried out and answered with status 0 (R424, R425): DOM_KEY_SET and DOM_KEY_GEN install a key in the slot of a
domain without instances, DOM_KEY_CLEAR empties it and makes the domain DEFINED (R414); SAK_SET installs an SA on a channel of the domain that is not
in use, SAK_CLEAR removes one, SA_STATUS answers its next packet number; SET_NOTICE_RING names a ring of an instance of the domain (R430). An unbound
session is answered NOT_BOUND. SC_ASSIGN_WRITE of a sub-port that no strict domain reserves assigns the channel, clearing its SAs when the domain
changes, and of a reserved one raises SC_CONFLICT (R428). -/
def Obligations.KeyOperationsComplete : Prop :=
  (∀ (s u v : State) (k d : Nat) (x : Session) (b : List Byte), 4 ≤ s.fld F.GLB_STATUS_BOOT_STATE → s.fld F.SXT_STATUS_CORE_STATE < 2 →
    u = ({ s with sxt := { s.sxt with workAt := s.now } } : State).setFld F.SXT_STATUS_CORE_STATE 1 →
    Tab.get? u.sessions k = some x → x.open_ = true → v = u.setSession k { x with lastAt := u.now } →
    (x.dom = none → exec (.domKeySet k true b) s = .next (v.keyAnswer k none 1 0 [])) ∧
    (x.dom = some d →
      (reqOk b 0x0001 [(2, 1), (8, 64)] = true → fieldAt b 2 1 ≤ 1 → slice b 8 32 ≠ slice b 40 32 → v.keyBusy d = false →
        exec (.domKeySet k true b) s = .next ((v.installKey d (fieldAt b 8 64) (bit (fieldAt b 2 1) 0)).keyAnswer k (some d) 0 0 [])) ∧
      (reqOk b 0x0002 [(2, 1)] = true → fieldAt b 2 1 ≤ 1 → v.keyBusy d = false → exec (.domKeyGen k true b) s =
        .next (((v.fresh 512).2.installKey d (v.fresh 512).1 (bit (fieldAt b 2 1) 0)).keyAnswer k (some d) 0 0 [])) ∧
      (reqOk b 0x0003 [] = true → v.keyBusy d = false →
        exec (.domKeyClear k true b) s = .next (((v.dropKey d).setFld F.ISO_DOM_STATUS_STATE 1 d).keyAnswer k (some d) 0 0 [])) ∧
      (reqOk b 0x0010 [(2, 5), (8, 68)] = true → reqScOk b 3 = true → sakFieldsOk b = true → fieldAt b 16 32 ≠ 0 → v.channelOk d b = true →
        v.saInUse b = false → ∀ w, w = (v.firstUse (reqSc b) (reqAn b)).tieSa (saKey (reqSc b) (reqAn b)) → exec (.sakSet k true b) s =
          .next ((({ w with sas := Tab.set w.sas (saKey (reqSc b) (reqAn b)) ⟨bit (fieldAt b 3 1) 1, fieldAt b 8 8, fieldAt b 16 32,
            fieldAt b 48 4, fieldAt b 52 12, fieldAt b 64 8, fieldAt b 72 4, false⟩ } : State).showAns (reqSc b)).keyAnswer k
            (some d) 0 0 [])) ∧
      (reqOk b 0x0011 [(2, 5)] = true → reqScOk b 3 = true → v.channelOk d b = true → v.saInUse b = false →
        Tab.has v.sas (saKey (reqSc b) (reqAn b)) = true → exec (.sakClear k true b) s =
          .next ((({ v with sas := Tab.del v.sas (saKey (reqSc b) (reqAn b)) } : State).showAns (reqSc b)).keyAnswer k (some d) 0 0 [])) ∧
      (∀ a, reqOk b 0x0012 [(2, 5)] = true → reqScOk b 3 = true → v.channelOk d b = true →
        Tab.get? v.sas (saKey (reqSc b) (reqAn b)) = some a →
        exec (.saStatus k true b) s = .next (v.keyAnswer k (some d) 0 0 (toLe 8 a.pn))) ∧
      ∀ i g, reqOk b 0x0020 [(2, 3)] = true → fieldAt b 2 2 < 1024 → fieldAt b 4 1 < 64 → Tab.get? v.insts (fieldAt b 2 2) = some i →
        i.oper = false → i.dom = d → Tab.get? i.locals (fieldAt b 4 1) = some g →
        exec (.setNoticeRing k true b) s = .next (({ v with noticeRings := Tab.set v.noticeRings d g } : State).keyAnswer k (some d) 0 0 []))) ∧
  (∀ (s t : State) (v sc : Nat) (old new : Option Nat), sc = (s.reg F.ISO_SC_SEL_SUBPORT.reg).toNat % 65536 → old = s.scDom sc →
    new = (if bit v 7 then some (v % 128) else none) →
    t = (((if old = new then s else s.clearChannel sc old).setFld F.ISO_SC_ASSIGN_DOMAIN (v % 128) sc).setFld F.ISO_SC_ASSIGN_VALID
      (b2n (bit v 7)) sc) →
    (s.reserved (sc % 32) = none → exec (.scAssignWrite v) s = .next (if old = new then t else t.measChanged)) ∧
    ∀ d, s.reserved (sc % 32) = some d → bit v 7 = true → d ≠ v % 128 →
      exec (.scAssignWrite v) s = .next (s.raise F.ISO_ERR_STATUS_SC_CONFLICT))

/-- The Meridian's messages, timers, edges and the writes of MER_TIME_CTRL complete. PTP_FRAME_RECEIVE on a PTP port in service counts and handles
its message, and an ESMC PDU sets the sub-port's QL (R466, R470). PTP_TX_TIMER sends a Sync or an Announce of a master port, or the slave port's
Delay_Req, whose transmit time is kept (R468, R469). ESMC_TX_TIMER sends the QL one second after the last, QL_TIMEOUT treats the QL as DNU after 5 s
(R470). SOURCE_LOST of a PPS source comes 1.1 s after its last edge, HOLD_EXPIRED raises its flags and ALERT in holdover (R465). PPS_EDGE near the
last is a glitch, else it captures the counter (R471); PPS_OUT_EDGE and PPS_OUT_FALL drive the output (R471). LATCH copies the counter; SET and STEP
step it, and are refused while a cell runs (R463, R475). -/
def Obligations.MeridianCommandsComplete : Prop :=
  (∀ (s : State) (p : Nat) (m : PtpMsg), p < 32 →
    (s.ptpOn p = true → (∀ q, m ≠ .esmc q) → exec (.ptpFrameReceive p m) s = .next ((s.merCount (16 + p / 2)).ptpMessage p m)) ∧
    ∀ q, s.flag F.ETH_SUB_STATUS_UP p = true → s.flag F.MER_PORT_CFG_SYNCE_RX p = true → 
      exec (.ptpFrameReceive p (.esmc q)) s = .next (((s.merCount 8).setPtpPort p { s.ptpPort p with qlAt := s.now }).setQl p (q % 16))) ∧
  (∀ (s : State) (p : Nat), p < 32 → s.ptpOn p = true →
    (s.fld F.MER_PORT_CFG_PORT_STATE p = ptpMaster →
      exec (.ptpTxTimer p 0) s = .next (((s.merCount 4).merCount 12).merSend p 0 (stampFields (s.txStamp p))) ∧
      exec (.ptpTxTimer p 3) s = .next (s.merSend p 3 ([s.fld F.MER_STATUS_CLOCK_CLASS, s.fld F.MER_STATUS_UTC_OFFSET] ++
        match s.slavePort with
        | some p => (s.ptpPort p).best.drop 2
        | none => []))) ∧
    (s.fld F.MER_PORT_CFG_PORT_STATE p = ptpSlave →
      exec (.ptpTxTimer p 1) s = .next ((s.setPtpPort p { s.ptpPort p with reqAt := some (s.txStamp p : Int) }).merSend p 1 []))) ∧
  (∀ s u : State, u = s.advanceTo (s.mer.esmcAt + 1000 * msec) → exec .esmcTxTimer s =
    .next (({ u with mer := { u.mer with esmcAt := u.now } } : State).esmcPorts.foldl (fun s p => s.merSend p 5 [s.mer.ql])
      { u with mer := { u.mer with esmcAt := u.now } })) ∧
  (∀ (s : State) (p : Nat), p < 32 → s.flag F.MER_PORT_CFG_SYNCE_RX p = true →
    exec (.qlTimeout p) s = .next ((s.advanceTo ((s.ptpPort p).qlAt + 5000 * msec)).setQl p 15)) ∧
  (∀ (s : State) (t : Nat) (b : Bool), s.fld F.MER_SRC_CTRL_PHASE_SRC = 1 → s.mer.ppsAt = some t →
    exec (.sourceLost b) s = .next ((s.advanceTo (t + 1100 * msec)).sourceLost)) ∧
  (∀ s u : State, s.fld F.MER_STATUS_STATE = merHoldover → s.flag F.MER_STATUS_HOLD_EXPIRED = false →
    u = s.advanceTo (s.mer.holdAt + (s.fld F.MER_SRC_CTRL_HOLD_LIMIT_S * 1000 + 1) * msec) → exec .holdExpired s =
      .next (((((u.raise F.MER_STATUS_HOLD_EXPIRED).raise F.MER_ERR_STATUS_HOLD_EXPIRED).raise F.SXT_ALERT_HOLD_EXPIRED).merCount
        15).setClass)) ∧
  (∀ (s : State) (t : Nat) (b : Bool), s.mer.ppsAt = some t → s.now < t + 900 * msec →
    exec (.ppsEdge b) s = .next ((s.raise F.MER_ERR_STATUS_PPS_GLITCH).merCount 11)) ∧
  (∀ (s u v : State) (c : Nat), (∀ t, s.mer.ppsAt = some t → t + 900 * msec ≤ s.now) →
    c = taiWrap ((s.tai : Int) - (s.fld F.MER_PPS_CTRL_PPS_IN_DELAY * 2 ^ 32 : Nat)) →
    u = (((s.setFld F.MER_PPS_CAPTURE_NS (c % taiSec / 2 ^ 32)).setFld F.MER_PPS_CAPTURE_SUBNS (c % 2 ^ 32 / 65536)).addFld
      F.MER_PPS_CAPTURE_EDGES 1).merCount 10 → v = { u with mer := { u.mer with ppsAt := some u.now } } →
    exec (.ppsEdge false) s = .next (if v.fld F.MER_SRC_CTRL_PHASE_SRC = 1 then (v.addFld F.MER_TOD_SEC 1).phaseMeasure (Int.fdiv
      ((c : Int) - ((v.fld F.MER_TOD_SEC * taiSec : Nat) : Int)) 65536) else v)) ∧
  (∀ s u : State, u = s.untilTai s.ppsNext → u.ppsDrives = true →
    exec .ppsOutEdge s = .next { u with mer := { u.mer with ppsOut := true, riseAt := u.now } }) ∧
  (∀ s u : State, s.mer.ppsOut = true → u = s.advanceTo (s.mer.riseAt + s.fld F.MER_PPS_CTRL_PPS_WIDTH_US * usec) →
    exec .ppsOutFall s = .next { u with mer := { u.mer with ppsOut := false } }) ∧
  (∀ s : State, exec (.latch 0) s =
    .next (((s.setFld F.MER_TIME_SEC_SEC s.sec).setFld F.MER_TIME_NS_NS s.ns).setFld F.MER_TIME_NS_SUBNS s.subns)) ∧
  (∀ s : State, s.cellRunning = false →
    exec (.set 0) s = .next ((s.setFld F.MER_TIME_CTRL_TIME_REFUSED 0).setStep s.setValue true false) ∧
    exec (.step 0) s = .next ((s.setFld F.MER_TIME_CTRL_TIME_REFUSED 0).setStep s.setValue false true)) ∧
  (∀ s : State, s.cellRunning = true →
    exec (.set 0) s = .next (((s.raise F.MER_TIME_CTRL_TIME_REFUSED).raise F.MER_ERR_STATUS_TIME_REFUSED).merCount 14) ∧
    exec (.step 0) s = .next (((s.raise F.MER_TIME_CTRL_TIME_REFUSED).raise F.MER_ERR_STATUS_TIME_REFUSED).merCount 14))

/-- STAGE, WRITE_FACTORY, ACTIVATE, CONFIRM, ROLLBACK, ABORT, OWNER_KEY and LIVE_UPDATE_UNIT complete. With the Sextant's cores serving, ALM_CMD not
BUSY and no live update in progress: STAGE writes a well-formed pair into its slot, checks it and answers the checks' status (R485, R495);
WRITE_FACTORY writes FACTORY; ACTIVATE_RESET and ROLLBACK_RESET of a good slot write their row of R490, answer OK and ask for the device reset;
ACTIVATE_LIVE and ROLLBACK_LIVE begin a live update on a RUNNING device (R497); CONFIRM of a trial that raises no floor confirms it (R487, R490);
ABORT answers OK; OWNER_KEY programs a first key (R482). During a live update ABORT reverts it, and LIVE_UPDATE_UNIT waits while a run of a domain
that the unit touches is in flight (R305), and else reconfigures the unit in progress, completing the update at the last (R498, R499). That
ACTIVATE_LIVE asks the rules of order 5 again is the model's reading (log entry 104). -/
def Obligations.AlmanacCommandsComplete : Prop :=
  ∀ s u v : State, 4 ≤ s.fld F.GLB_STATUS_BOOT_STATE → s.fld F.SXT_STATUS_CORE_STATE < 2 → s.flag F.ALM_CMD_BUSY = false →
    u = ({ s with sxt := { s.sxt with workAt := s.now } } : State).setFld F.SXT_STATUS_CORE_STATE 1 →
    (∀ op, v = (u.setFld F.ALM_CMD_OP op).count 0xF9C none 1 →
      (op = 1 → v.alm.upd = none → v.lockedBy tokUpdate [] = none → ∀ l p k, stagePair l = some p → v.stageSlot = some k →
        exec (.stage (.images l) true) s = .next (((v.writeSlot k p true).1.stagedHdr k ((v.writeSlot k p true).2.1 == almOk)).almAnswer
          (v.writeSlot k p true).2)) ∧
      (op = 8 → v.alm.upd = none → v.lockedBy tokUpdate [] = none → v.alm.booted ≠ some v.alm.hdr.factory → ∀ l p, stagePair l = some p →
        exec (.writeFactory (.images l) true) s = .next ((v.writeSlot v.alm.hdr.factory p false).1.almAnswer
          (v.writeSlot v.alm.hdr.factory p false).2)) ∧
      (op = 2 → v.alm.upd = none → v.canActivate = true →
        exec .activateReset s = .next ((v.activateRow.almAnswer (0, 0)).devResetAsked.1)) ∧
      (op = 5 → v.alm.upd = none → v.rollbackStatus = 0 →
        exec .rollbackReset s = .next ((v.rollbackRow.almAnswer (0, 0)).devResetAsked.1)) ∧
      (op = 3 → v.alm.upd = none → v.canActivate = true → (v.slotChecks v.alm.hdr.staged).1 ≠ almLoadRefused → v.running = true →
        v.lockedBy tokUpdate [] = none → exec .activateLive s =
        .next ((v.liveStart v.alm.hdr.staged false false).1.almAnswer ((v.liveStart v.alm.hdr.staged false false).2, 0))) ∧
      (op = 6 → v.alm.upd = none → v.rollbackStatus = 0 → v.running = true → v.lockedBy tokUpdate [] = none → exec .rollbackLive s =
        .next ((v.liveStart v.alm.hdr.prev true false).1.almAnswer ((v.liveStart v.alm.hdr.prev true false).2, 0))) ∧
      (op = 4 → v.alm.upd = none → v.alm.hdr.trial = true →
        (∀ i ∈ (v.flashSlot v.alm.hdr.cur).images, i.floorSet ≤ v.floorOf i.kind) → exec .confirm s = .next v.confirmTrial) ∧
      (op = 9 → v.alm.upd = none → v.lockedBy tokUpdate [] = none → v.lockedBy tokFuse [tokUpdate] = none → v.alm.owners = [] →
        ∀ d ok, exec (.ownerKey (some d) ok) s =
          .next (({ v with alm := { v.alm with owners := [(d, false)] } } : State).showFuses.almAnswer (0, 0))) ∧
      (op = 7 → exec .abort s = .next (if v.alm.upd.isSome = true then v.revert almAborted else v.almAnswer (0, 0)))) ∧
    ∀ l x t w, u.alm.upd = some l → l.todo = x :: t → u.planStands l = true →
      w = ((if x.cls = 0x01 ∨ x.cls = 0x02 then u.toBoundary else u).noteMap.reconfigure x x.new).count 0xF9D none 1 →
      ((u.runs.any fun p => u.draining.contains p.2.dom) = true → ∀ o, exec (.liveUpdateUnit o) s = .next u) ∧
      ((u.runs.any fun p => u.draining.contains p.2.dom) = false →
        (∀ m z, m = ({ l with todo := t, done := x :: l.done, runs := w.mapRun.map (·.1) } : LiveUpdate) →
        z = ({ w with alm := { w.alm with upd := some m } } : State).showUpdate →
        exec (.liveUpdateUnit 0) s = .next (if t.isEmpty = true then z.updateDone m else z)) ∧
      exec (.liveUpdateUnit 1) s = .next (u.revert almAborted) ∧ exec (.liveUpdateUnit 2) s = .next ((u.unitFails x).revert almAborted))

/-- The Sextant's cores, sensors, log, buses and TAP: every command completes. With the always-on domain powered: CORE_CLOCK_STOP stops idle cores 10
ms after their last work (R501); LOCKSTEP_DISAGREE ends the sessions, logs, and restarts the cores or FAILs them at a second one within an hour
(R502); SENSOR_SAMPLE takes every sensor's reading and trips when a sensor newly reaches FATAL (R503, R504). The log's waiting entries go to the
mirror when due, 256 at once or at MIRROR_NOW (R508); LOG_FAILED degrades the log (R510); LOG_SEL_WRITE starts a fetch and LOG_FETCH_DONE shows the
entry or its absence (R509). BUS_POLL, BUS_RECOVERY, RECOVER and SCL_LOW_TIMEOUT act on the buses (R515 to R517). BYPASS, IDCODE and SAMPLE_PRELOAD
select the TAP's register; EXTEST, CLAMP and HIGHZ take effect in RECOVERY only (R518). -/
def Obligations.SextantCommandsComplete : Prop :=
  ∀ s : State, s.pow.life ≠ .off →
    (s.fld F.SXT_STATUS_CORE_STATE = 1 → s.alm.upd = none →
      exec .coreClockStop s = .next ((s.advanceTo (s.sxt.workAt + 10 * msec)).setFld F.SXT_STATUS_CORE_STATE 0)) ∧
    (∀ pc u v, s.fld F.SXT_STATUS_CORE_STATE ≠ 3 →
      u = ((({ s with sessions := [] } : State).pldmCancel).logEvent 0x0030 2 (toLe 4 pc)).count 0xF8D none 1 →
      v = ({ u with sxt := { u.sxt with disagreeAt := some u.now } } : State) →
      (s.sxt.disagreeAt = none → exec (.lockstepDisagree pc) s =
        .next (({ v with sxt := { v.sxt with workAt := v.now } } : State).setFld F.SXT_STATUS_CORE_STATE 1)) ∧
      ∀ t, s.sxt.disagreeAt = some t → s.now < t + 3600000 * msec →
        exec (.lockstepDisagree pc) s = .next ((v.setFld F.SXT_STATUS_CORE_STATE 3).raise F.SXT_ALERT_LOCKSTEP)) ∧
    (∀ l u t, u = ({ s.advanceTo (s.sxt.sampleAt + 250 * usec) with sxt := { (s.advanceTo (s.sxt.sampleAt + 250 * usec)).sxt with
        sampleAt := (s.advanceTo (s.sxt.sampleAt + 250 * usec)).now } } : State) →
      t = (((rangeFrom 0 8).foldl State.refreshRate ((allSensors.zip l).foldl (fun (x : State) (p : (Nat × Nat) × Nat) =>
        x.sensSample (u.indices F.SXT_SENS_THR_WARN.reg) p.1.1 p.1.2 (p.2 % 2 ^ 16)) u)).sensTop) →
      exec (.sensorSample l) s = .next (if (allSensors.filter fun p => t.fld F.SXT_SENS_DATA_LEVEL (sensIdx p.1 p.2) == 3).all
        (allSensors.filter fun p => u.fld F.SXT_SENS_DATA_LEVEL (sensIdx p.1 p.2) == 3).contains then t else t.fatalTrip)) ∧
    (∀ ok, s.fld F.SXT_STATUS_CORE_STATE < 2 → s.wakeCores.log.degraded = false →
      exec (.mirrorNow ok) s = .next (s.wakeCores.mirrorWrite s.wakeCores.log.queue.length ok) ∧
      (256 ≤ s.wakeCores.log.queue.length → exec (.logMirrorWrite ok) s = .next (s.wakeCores.mirrorWrite s.wakeCores.log.queue.length ok)) ∧
      ∀ e u, ¬ 256 ≤ s.wakeCores.log.queue.length → minBy (fun (e : LogEntry) => [LogEntry.due e]) s.wakeCores.log.queue = some e →
        u = s.wakeCores.advanceTo (LogEntry.due e) → exec (.logMirrorWrite ok) s =
          .next (u.mirrorWrite (s.wakeCores.log.queue.reverse.dropWhile fun x => decide (u.now < LogEntry.due x)).length ok)) ∧
    (s.log.degraded = false → exec .logFailed s = .next (((({ s with log := { s.log with
      sram := [], waiting := 0, degraded := true, regRing := [], flashDead := false } } : State).logEvent 0x0001 2
      (toLe 8 (s.fld F.SXT_LOG_MIRRORED_SEQ) ++ toLe 4 s.log.queue.length)).setFld F.SXT_STATUS_LOG_DEGRADED 1).raise
      F.SXT_ALERT_LOG_DEGRADED)) ∧
    (∀ v, exec (.logSelWrite v) s = .next ((({ s.setFld F.SXT_LOG_SEL_SEQ v with log := { (s.setFld F.SXT_LOG_SEL_SEQ v).log with
      fetch := some (v % 2 ^ 64) } } : State).setFld F.SXT_LOG_STAT_BUSY 1).setFld F.SXT_LOG_STAT_PRESENT 0)) ∧
    (∀ q u, s.log.fetch = some q → u = ({ s with log := { s.log with fetch := none } } : State).setFld F.SXT_LOG_STAT_BUSY 0 →
      (u.logFind q = none → ∀ ok, exec (.logFetchDone ok) s = .next (u.setFld F.SXT_LOG_STAT_PRESENT 0)) ∧
      ∀ e n, u.logFind q = some (e, n) → exec (.logFetchDone true) s = .next ((((rangeFrom 0 8).foldl (fun (s : State) k =>
        s.setReg (logDataReg k) 0 (BitVec.ofNat 64 (fieldAt (logBytes e) (8 * k) 8))) u).setFld F.SXT_LOG_STAT_PRESENT 1).setFld
        F.SXT_LOG_STAT_FROM_NVM (b2n n))) ∧
    (∀ l u, u = ({ s.advanceTo (s.sxt.pollAt + 10 * msec) with sxt := { (s.advanceTo (s.sxt.pollAt + 10 * msec)).sxt with
        pollAt := (s.advanceTo (s.sxt.pollAt + 10 * msec)).now } } : State) → u.isolated = false →
      exec (.busPoll l) s = .next (((((cfgIdx u.cfg cfgCard).take 16).zip l).filter fun p => p.2 != 0).foldl (fun (s : State) p =>
        s.logOpen (toLe 1 p.1 ++ toLe 4 p.2)) (u.count 0xF91 none (((cfgIdx u.cfg cfgCard).take 16).zip l).length))) ∧
    (∀ n b, (s.isolated = false → exec (.busRecovery n b) s = .next (s.busRecover n b)) ∧
      exec (.recover n b) s = .next (s.busRecover n b)) ∧
    exec .sclLowTimeout s = .next (s.count 0xF92 none 1) ∧
    exec .bypass s = .next (({ s with sxt := { s.sxt with tap := 0 } } : State).send (.tdo 1 0)) ∧
    exec .idcode s = .next (({ (s.fresh 32).2 with sxt := { (s.fresh 32).2.sxt with tap := 1 } } : State).send (.tdo 32 (s.fresh 32).1)) ∧
    exec .samplePreload s = .next { s with sxt := { s.sxt with tap := 2 } } ∧
    (s.fld F.GLB_STATUS_BOOT_STATE = 5 → exec .extest s = .next { s with sxt := { s.sxt with tap := 3 } } ∧
      exec .clamp s = .next { s with sxt := { s.sxt with tap := 4 } } ∧ exec .highz s = .next { s with sxt := { s.sxt with tap := 5 } }) ∧
    (s.fld F.GLB_STATUS_BOOT_STATE ≠ 5 → exec .extest s = exec .bypass s ∧ exec .clamp s = exec .bypass s ∧ exec .highz s = exec .bypass s)

/-- The PLDM update requests, the maintenance commands and their completion complete. With the Sextant's cores serving: REQUEST_UPDATE with no update
and no conflicting token starts one and answers 0; PLDM_TRANSFER, VERIFY_COMPLETE, ACTIVATE_FIRMWARE and CANCEL_UPDATE of an update take their part
and answer; PLDM_TIMEOUT cancels 120 s after the last request (R513). A fetched maintenance command that may start, whose unit is valid, whose token
is free and for which capacity is left, takes the token and starts; with none left it ends with WINDOW_REFUSED, and with an invalid unit it completes
with UNIT_INVALID (R519 to R522). MAINT_ABORT
of a running command ends it with ABORTED and completes with OK. MAINT_COMPLETE of a passed command restores its unit and completes it with OK; a
scrub sweep reports what it found (R522). -/
def Obligations.PldmAndMaintenanceCommandsComplete : Prop :=
  (∀ s u : State, 4 ≤ s.fld F.GLB_STATUS_BOOT_STATE → s.fld F.SXT_STATUS_CORE_STATE < 2 →
    u = ({ s with sxt := { s.sxt with workAt := s.now } } : State).setFld F.SXT_STATUS_CORE_STATE 1 →
    (∀ v, v = u.count 0xF9A none 1 → v.alm.pldm = none → v.lockedBy tokUpdate [] = none → exec .requestUpdate s =
      .next ((((({ v with alm := { v.alm with pldm := some ⟨[], v.now⟩ } } : State).takeToken tokUpdate).setFld F.SXT_STATUS_PLDM_ACTIVE
        1).logEvent 0x0050 0 (toLe 1 0 ++ toLe 1 0)).send (.pldm 0 []))) ∧
    (∀ p q v, u.alm.pldm = some p → q = { p with lastAt := u.now } → v = ({ u with alm := { u.alm with pldm := some q } } : State) →
      (∀ c i w, w = (match (v.count 0xF8C none 1).stageSlot with
          | none => v.count 0xF8C none 1
          | some k => ((v.count 0xF8C none 1).slotTorn k).stagedHdr k false) →
        exec (.pldmTransfer c i true) s = .next (({ w with alm := { w.alm with pldm := some { q with
          images := (q.images.filter fun (i : Image) => i.kind != componentKind c) ++ (i.filter fun (i : Image) =>
            i.kind == componentKind c).toList } } } : State).send (.pldm 0 []))) ∧
      exec .verifyComplete s = .next (((v.pldmCheck q).1.logEvent 0x0050 0 (toLe 1 1 ++ toLe 1 (v.pldmCheck q).2)).send
        (.pldm (v.pldmCheck q).2 [])) ∧
      (v.pow.life ≠ .recovery → v.canActivate = true → v.alm.upd = none →
        exec (.activateFirmware false) s = .next v.pldmApply ∧
        (v.running = true → exec (.activateFirmware true) s = .next ((v.liveStart v.alm.hdr.staged false true).1.send
          (.pldm (v.liveStart v.alm.hdr.staged false true).2 [])))) ∧
      (v.alm.upd = none → exec .cancelUpdate s = .next (v.pldmCancel.send (.pldm 0 [])))) ∧
    ∀ p, s.alm.pldm = some p → s.alm.upd = none → exec .pldmTimeout s = .next ((u.advanceTo (p.lastAt + 120000 * msec)).pldmCancel)) ∧
  (∀ (s u t : State) (g cid op : Nat) (c : Instr) (f : Fetched) (m : MaintCmd),
    ((op, c) = (0x60, .tileTest g cid) ∨ (op, c) = (0x61, .engineTest g cid) ∨ (op, c) = (0x62, .hbmCal g cid) ∨
      (op, c) = (0x63, .serdesCal g cid) ∨ (op, c) = (0x64, .scrubSweep g cid)) → s.startable g cid op = some f →
    (s.maintUnitOk op (maintKind op f.body) (maintIdx op f.body) = false →
      exec c s = .next (s.complete g cid (maintPayload stUnitInvalid 0 false))) ∧
    (s.maintUnitOk op (maintKind op f.body) (maintIdx op f.body) = true → s.lockedBy (op - 0x5F) [] = none →
      m = ⟨g, cid, op, maintKind op f.body, maintIdx op f.body, op == 0x60 || op == 0x61, s.now⟩ →
      u = ({ s.noteMap with sxt := { s.sxt with maint := s.sxt.maint ++ [m] } } : State).takeToken (op - 0x5F) →
      t = (if op = 0x60 then u.noteOutcome (u.maintRoom op) else u) →
      (t.maintRoom op = true → exec c s = .next (t.stageCmd g f .started)) ∧
      (t.maintRoom op = false → exec c s = .next (t.maintEnd m stWindowRefused 0 false)))) ∧
  (∀ (s : State) (g cid : Nat) (f : Fetched), s.startable g cid 0x6F = some f →
    ((s.sxt.maint.find? fun m => m.ring == g && m.cid == fieldAt f.body 16 2) = none →
      exec (.maintAbort g cid) s = .next (s.complete g cid (maintPayload stNotFound 0 false))) ∧
    ∀ m, (s.sxt.maint.find? fun m => m.ring == g && m.cid == fieldAt f.body 16 2) = some m →
      exec (.maintAbort g cid) s = .next ((s.maintEnd m stAborted 0 false).complete g cid (maintPayload 0 0 false))) ∧
  (∀ (s : State) (g cid n : Nat) (m : MaintCmd) (ce ue : List Nat), (s.sxt.maint.find? fun m => m.ring == g && m.cid == cid) = some m →
    (m.op = 0x64 → ∀ b, exec (.maintComplete g cid b n ce ue) s =
      .next ((s.sweep m.idx ce ue).maintEnd m 0 (ce.length + ue.length) false)) ∧
    (m.op ≠ 0x64 → m.op ≠ 0x62 → exec (.maintComplete g cid true n ce ue) s = .next (s.maintEnd m 0 n false)) ∧
    (m.op = 0x62 → exec (.maintComplete g cid true n ce ue) s = .next ((s.count (0xEA0 + 12 * m.idx + 9) none 1).maintEnd m 0 n false)))

/-- EVC_PROGRAM, FREEZE, EVC_ALLOC, EVC_FREE, EVC_READ, EVC_SNAPSHOT and SNAPSHOT_RECORD complete. EVC_PROGRAM without GO stores SOURCE and ENABLE of
the selected counter, and with GO serves the request and shows its status (R525). FREEZE stores the limit, capped at 512, and the freeze bit (R525).
In an open session bound to a domain, a well-formed request is answered with status 0: EVC_ALLOC programs the lowest free counter while the domain is
below its limit, EVC_FREE frees one of the domain's own, EVC_READ answers their values, EVC_SNAPSHOT sets the domain's snapshot (R526).
SNAPSHOT_RECORD writes its record into the domain's HBM, PERIOD_MS after the last (R527). -/
def Obligations.CounterCommandsComplete : Prop :=
  (∀ (s u t : State) (v k : Nat) (w : Word), k = s.fld F.EVC_SEL_COUNTER → w = BitVec.ofNat 64 v →
    u = (s.setFld F.EVC_CFG_SOURCE (F.EVC_CFG_SOURCE.get w) k).setFld F.EVC_CFG_ENABLE (F.EVC_CFG_ENABLE.get w) k →
    t = (u.setFld F.EVC_CFG_BUSY 1 k).wakeCores →
    (F.EVC_CFG_GO.get w ≠ 1 → exec (.evcProgram v) s = .next u) ∧
    (F.EVC_CFG_GO.get w = 1 → (u.setFld F.EVC_CFG_BUSY 1 k).awake = true → (u.setFld F.EVC_CFG_BUSY 1 k).fld F.SXT_STATUS_CORE_STATE < 2 →
      exec (.evcProgram v) s = .next (((t.evcApply k (F.EVC_CFG_SOURCE.get w) (F.EVC_CFG_ENABLE.get w == 1)).1.setFld F.EVC_CFG_BUSY 0
        k).setFld F.EVC_CFG_STATUS (t.evcApply k (F.EVC_CFG_SOURCE.get w) (F.EVC_CFG_ENABLE.get w == 1)).2 k))) ∧
  (∀ (s : State) (v : Nat), exec (.freeze v) s = .next ((s.setFld F.EVC_CTRL_DOMAIN_LIMIT (min 512 (F.EVC_CTRL_DOMAIN_LIMIT.get
    (BitVec.ofNat 64 v)))).setFld F.EVC_CTRL_FREEZE (F.EVC_CTRL_FREEZE.get (BitVec.ofNat 64 v)))) ∧
  (∀ (s u v : State) (i d : Nat) (x : Session) (b : List Byte), 4 ≤ s.fld F.GLB_STATUS_BOOT_STATE → s.fld F.SXT_STATUS_CORE_STATE < 2 →
    u = ({ s with sxt := { s.sxt with workAt := s.now } } : State).setFld F.SXT_STATUS_CORE_STATE 1 →
    Tab.get? u.sessions i = some x → x.open_ = true → x.dom = some d → v = u.setSession i { x with lastAt := u.now } →
    (∀ k, reqOk b 0x0100 [(2, 2)] = true → classD (fieldAt b 2 2) = true → Tab.lowestFree v.evcs 0 512 = some k →
      (v.domEvcs d).length < v.fld F.EVC_CTRL_DOMAIN_LIMIT →
      exec (.evcAlloc i true b) s = .next ((v.setEvc k (Evc.start (fieldAt b 2 2) (some d) v.now)).keyAnswer i (some d) 0 0 (toLe 2 k))) ∧
    (reqOk b 0x0101 [(2, 2)] = true → fieldAt b 2 2 < 512 → v.ownsEvc d (fieldAt b 2 2) = true →
      exec (.evcFree i true b) s =
        .next (({ v with evcs := Tab.del v.evcs (fieldAt b 2 2) } : State).keyAnswer i (some d) 0 0 [])) ∧
    (reqOk b 0x0102 [(2, 1), (8, 32)] = true → fieldAt b 2 1 ≠ 0 → fieldAt b 2 1 ≤ 16 → (∀ k ∈ evcNames b, k < 512) →
      (∀ k ∈ evcNames b, v.ownsEvc d k = true) → (v.snap d).stopped = false → exec (.evcRead i true b) s =
        .next (v.keyAnswer i (some d) 0 0 ((evcNames b).flatMap fun k => toLe 8 (match Tab.get? v.evcs k with
          | some e => e.read v.now
          | none => 0)))) ∧
    (reqOk b 0x0103 [(8, 10)] = true → fieldAt b 8 8 % 64 = 0 → exec (.evcSnapshot i true b) s =
      .next ((v.setSnap d ⟨fieldAt b 8 8, fieldAt b 16 2, (v.snap d).seq, v.now, false⟩).keyAnswer i (some d) 0 0 []))) ∧
  (∀ (s u t : State) (d : Nat) (x : Snap) (b : List Byte), d < 128 → x = s.snap d → x.period ≠ 0 → u = s.advanceTo (x.lastAt + x.period * msec) →
    u.awake = true → u.fld F.SXT_STATUS_CORE_STATE < 2 → t = u.wakeCores → b = t.snapRecord d x.seq → t.hbmFault d x.off b.length false = none →
    exec (.snapshotRecord d) s = .next (((t.storeData d x.off b).setSnap d { x with
      seq := (x.seq + 1) % 2 ^ 64, lastAt := t.now }).count 0xF9F none 1))

/-- PLL losses, budget enforcement, sleep and wake: every power command completes. PLL_LOCK_LOSS of a running PLL relocks with PLL_RELOCK, or records
PLL_FAIL and takes the consequences (R531). On a RUNNING device POWER_SAMPLE shows the package power and sets D (R534); CRIT_HOLD_EXPIRE lowers the
strict shares when the hold has passed (R536, R538); ALLOWANCE_REFILL adds to both allowances at the next Meridian millisecond (R535); PKG_LIMIT_WRITE
stores the clamped limits, which the samples see from the next window on, and scales the shares (R538). A unit that sleeps goes from ON through
PREPARE and COMMIT to OFF, or to WAKING after a latched wake (R540), ARR_PLL_OFF stops the array's PLL (R542), WAKE_REQUEST aborts, latches or starts
a wake and WAKE_READY ends it (R541); WAKE_LATE and WAKE_TIMEOUT report a wake that is late (R542). -/
def Obligations.PowerCommandsComplete : Prop :=
  (∀ (s u : State) (p : Nat), p < 6 → s.awake = true → s.pllRuns p = true →
    u = ((s.raise F.PMC_ERR_STATUS_PLL_FAIL).setPll p false).faultRecord { FaultRec.of 0x0503 (if (p == pllNoc || p == pllIod) || p == pllArr
      then 7 else 3) with ucls := ucPll, uidx := p } →
    exec (.pllLockLoss p true) s = .next ((s.raise F.PMC_ERR_STATUS_PLL_RELOCK).logOpen (toLe 1 p)) ∧
    exec (.pllLockLoss p false) s = .next (if (p == pllNoc || p == pllIod) = true then u.endService true else u.pllGone p)) ∧
  (∀ (s u v w : State) (mw : Nat), s.running = true → u = s.advanceTo (s.pow.sampleAt + 250 * usec) →
    v = (u.setFld F.PMC_STATUS_PKG_W (min 2047 (mw / 1000))).setFld F.PMC_STATUS_PEAK_W (max (min 2047 (mw / 1000))
      ((u.setFld F.PMC_STATUS_PKG_W (min 2047 (mw / 1000))).fld F.PMC_STATUS_PEAK_W)) →
    w = v.setDuty (v.nextDuty mw) → ∀ z, z = ({ w with pow := { w.pow with sampleAt := w.now, limitWas := none } } : State).holdSince →
    ((w.flag F.PMC_STATUS_CRIT_ACTIVE = false ∨ w.holdEnds = none) → exec (.powerSample mw) s = .next z) ∧
    ∀ t, w.flag F.PMC_STATUS_CRIT_ACTIVE = true → w.holdEnds = some t →
      exec (.powerSample mw) s = .next (if t < w.now then z.shrinkShares else z)) ∧
  (∀ (s : State) (t : Nat), s.holdEnds = some t → s.running = true → s.now ≤ t →
    exec .critHoldExpire s = .next ((s.advanceTo t).shrinkShares)) ∧
  (∀ (s u v w : State) (add : Int), s.running = true → u = s.untilTai ((s.tai16 / ms16 + 1) * ms16) →
    add = ((u.duty * 1500000 / 256 : Nat) : Int) → v = u.setFld F.PMC_ALLOW_ARRAY_ALLOW (wrapInt (min u.allowA 0 + add) 32) →
    w = v.setFld F.PMC_ALLOW_VECTOR_ALLOW (wrapInt (min v.allowV 0 + add) 32) →
    exec .allowanceRefill s = .next { w with pow := { w.pow with refillAt := w.now } }) ∧
  (∀ (s u : State) (v : Nat) (w : Word), w = BitVec.ofNat 64 v →
    u = ((({ s with pow := { s.pow with limitWas := some s.limitSeen } } : State).setFld F.PMC_LIMIT_PKG_LIMIT_W (max 630 (min 1100
      (F.PMC_LIMIT_PKG_LIMIT_W.get w)))).setFld F.PMC_LIMIT_GUARD_W
      (max 5 (min 100 (F.PMC_LIMIT_GUARD_W.get w)))).setFld F.PMC_LIMIT_CRIT_HOLD_MS (max 1 (F.PMC_LIMIT_CRIT_HOLD_MS.get w)) →
    exec (.pkgLimitWrite v) s = .next (u.setShares fun d => min (u.fld F.PMC_STRICT_SHARE_EFF_W d) (u.shareAt d))) ∧
  (∀ (s : State) (k i : Nat) (x : SleepUnit), k < 4 → i < 64 → x = s.sleepOf k i →
    (∀ u, x.st = 0 → s.maySleep k i = true → s.keepAwake k i = false → (k = 0 → s.arrayBusy = false ∧ s.idleTime 0 ≠ 0) →
      u = s.advanceTo (s.idleEnds k i) →
      exec (.idleExpire k i) s = .next (u.setSleep k i ⟨1, u.now, false⟩)) ∧
    (∀ u, x.st = 1 → u = s.advanceTo (x.since + prepareTime k) → exec (.prepareElapsed k i) s =
      .next (if k = 0 then (u.setSleep k i ⟨2, u.now, false⟩).showGroups false else u.setSleep k i ⟨2, u.now, false⟩)) ∧
    (∀ u, x.st = 2 → u = s.advanceTo (x.since + dwellTime k) →
      (x.latched = true → exec (.dwellElapsed k i) s = .next (u.setSleep k i ⟨4, u.now, false⟩)) ∧
      (x.latched = false → exec (.dwellElapsed k i) s =
        .next (if k = 1 then (u.setSleep k i ⟨3, u.now, false⟩).radStop else u.setSleep k i ⟨3, u.now, false⟩))) ∧
    (∀ (v : State) (y : SleepUnit), s.maySleep k i = true → v = s.beforeWake k i → y = v.sleepOf k i →
      (y.st = 0 → exec (.wakeRequest k i) s = .next (v.wakeOn k i)) ∧
      (y.st = 1 → exec (.wakeRequest k i) s = .next (if y.since = v.now then v.setSleep k i ⟨0, v.now, false⟩
        else (v.setSleep k i ⟨0, v.now, false⟩).satFld F.PMC_COUNT_SLEEP_ABORTS 1)) ∧
      (y.st = 2 → y.latched = false → exec (.wakeRequest k i) s =
        .next ((v.setSleep k i { y with latched := true }).satFld F.PMC_COUNT_LATCHED_WAKES 1)) ∧
      (y.st = 3 → exec (.wakeRequest k i) s = .next (v.wakeOff k i y.since))) ∧
    (∀ u v, x.st = 4 → u = s.advanceTo (x.since + s.wakeWait k) →
      v = (match kindPll k with | some p => u.setPll p true | none => u) → exec (.wakeReady k i) s =
        .next (if k = 0 then (v.setSleep k i ⟨0, v.now, false⟩).showGroups true else v.setSleep k i ⟨0, v.now, false⟩)) ∧
    (∀ d, x.st = 4 → sleepDev k i = some d → exec (.wakeTimeout k i) s = .next (((s.advanceTo (x.since + 10 * wakeTime k)).raise
      F.PMC_ERR_STATUS_WAKE_TIMEOUT).faultRecord { FaultRec.of 0x0504 0 with ucls := d.cls, uidx := d.idx }))) ∧
  (∀ s : State, s.running = true → (s.sleepOf 0 0).st = 3 → s.fld F.PMC_SLEEP_CTRL_ARR_PLL_OFF_US ≠ 0 → s.pllRuns pllArr = true →
    exec .arrPllOff s = .next ((s.advanceTo ((s.sleepOf 0 0).since + s.fld F.PMC_SLEEP_CTRL_ARR_PLL_OFF_US * usec)).setPll pllArr false)) ∧
  (∀ (s : State) (g t : Nat), g < 64 → (s.sleepOf 0 0).st = 4 → Tab.get? s.groupsNow g = some t →
    exec (.wakeLate g) s = .next (((s.advanceTo (t + 900 * nsec)).raise F.TRK_ERR_STATUS_WAKE_LATE).faultRecord { FaultRec.of 0x0304 0 with detail := g }))

/-- Power-on, boot, rails, clock losses, resets, map operations and health scoring: every such command completes. POWER_ON starts t0 on a device
without power (R597). DEVICE_BOOT at power-on reads the headers, selects the first slot that passes and raises the first enable, or enters recovery
(R491 to R493); with the rails up it ends RUNNING (R491). RAIL_SAMPLE raises the next enable, starts the PLLs, or is a rail failure (R597, R598).
PLANNED_REMOVAL, SUPPLY_LOSS and a loss of the 25 MHz reference leave what power does not keep at reset (R599); a D2D fault with both dies powered
ends service (R28), and a PWROK_MAIN fall is a rail failure (R598). CLOCK_LOSS and CLOCK_RETURN act on the input's ports (R591). HELD_RESET_START and
DEVICE_RESET start a device reset, or it is held (R506, R554). On a RUNNING device COMPUTE_RESET ends with its count, action and cause (R552),
UNIT_RESTART, DISABLE and ENABLE are handed to the Sextant (R555, R580), HEALTH_WINDOW scores the 24 parts and HEALTH_CLEAR one (R562, R563). -/
def Obligations.BootAndResetCommandsComplete : Prop :=
  (∀ (s : State) (p : DevParts), s.pow.life = .off →
    exec (.powerOn p) s =
      .next { (if s.alm.fitted = true then s else s.fit p) with now := 0, pow := { State.reset.pow with life := .boot } }) ∧
  (∀ (s t u v : State) (n k a b c d : Nat), t = (s.wakeCores.logResume.setBoot 1).showFuses →
    u = (if t.alm.flashOk && (validHdr t.alm.hdrA).isSome && (validHdr t.alm.hdrB).isSome then t
      else t.raise F.ALM_ERR_STATUS_HDR_INVALID) → s.pow.life = .boot →
    ((t.alm.flashOk = false ∨ pickHdr t.alm.hdrA t.alm.hdrB = none) → exec (.deviceBoot n a b c d) s = .next (u.recover a b)) ∧
    (∀ h useB, t.alm.flashOk = true → pickHdr t.alm.hdrA t.alm.hdrB = some (h, useB) →
      v = ({ u with alm := { u.alm with hdr := h, useB := useB } } : State).showHdr.trialStep →
      ((v.selectFrom (bootOrder v.alm.hdr)).2 = none →
        exec (.deviceBoot n a b c d) s = .next ((v.selectFrom (bootOrder v.alm.hdr)).1.recover a b)) ∧
      (∀ role, (v.selectFrom (bootOrder v.alm.hdr)).2 = some (k, role) →
        exec (.deviceBoot n a b c d) s = .next ((v.selectFrom (bootOrder v.alm.hdr)).1.bootSlot k role)))) ∧
  (∀ (s : State) (n a b c d : Nat), s.pow.life = .powered → ∃ t, exec (.deviceBoot n a b c d) s = .next t ∧
    t.pow.life = .running ∧ t.fld F.GLB_STATUS_BOOT_STATE = bootRunning ∧ t.fld F.ALM_STATUS_BOOT_STATE = bootRunning) ∧
  (∀ (s u : State) (k : Nat), s.pow.life = .rail k → u = s.advanceTo (s.pow.railAt + 10 * msec) →
    exec (.railSample false) s = .next (u.railFail k) ∧
    (k < 2 → exec (.railSample true) s =
      .next { u with pow := { u.pow with life := .rail (k + 1), enables := u.pow.enables + 2 ^ (k + 1), railAt := u.now } }) ∧
    (2 ≤ k → ∃ t, exec (.railSample true) s = .next t ∧ t.pow.life = .powered ∧ t.fld F.GLB_STATUS_BOOT_STATE = 3 ∧
      t.fld F.PMC_STATUS_PLL_RUN = putBit (putBit (putBit (u.fld F.PMC_STATUS_PLL_RUN) pllNoc true) pllIod true) pllPort true)) ∧
  (∀ s : State, s.pow.life ≠ .off → ∃ t, exec .plannedRemoval s = .next t ∧ exec .supplyLoss s = .next t ∧
    (∀ i rx, exec (.clockLoss 0 i rx) s = .next t) ∧ t.pow = State.reset.pow ∧ t.mem = State.reset.mem ∧
    t.log.mirror = s.log.mirror ∧ t.alm.slots = s.alm.slots ∧ t.mapFuse = s.mapFuse ∧ t.outs = s.outs) ∧
  (∀ s : State, (s.pow.life = .running ∨ s.pow.life = .powered) →
    exec .d2dFault s = .next ((s.faultRecord { FaultRec.of 0x0502 7 with ucls := ucD2d }).endService true)) ∧
  (∀ s : State, s.pow.enables = 7 → exec .pwrokMainFall s = .next (s.railFail 3)) ∧
  (∀ (s u : State) (k i : Nat) (rx : List (Nat × EthFrame × Nat)), 1 ≤ k → k ≤ 4 → i < [1, 4, 2, 2, 1].getD k 1 → s.pow.life ≠ .off →
    s.clockLost k i = false → u = { s with pow := { s.pow with lost := (k * 16 + i) :: s.pow.lost } } →
    exec (.clockLoss k i rx) s = .next (if k = 1 then u.ethClockLost i rx else if k = 2 then u.rhbClockLost i
      else if k = 3 then u.pcieLinkReset i 0 0 else u.ref10Lost)) ∧
  (∀ (s u : State) (k i sp w : Nat), k ≤ 4 → i < [1, 4, 2, 2, 1].getD k 1 → s.clockLost k i = true →
    u = { s with pow := { s.pow with lost := s.pow.lost.erase (k * 16 + i) } } →
    exec (.clockReturn k i sp w) s = .next (if k = 3 then
        (if u.fld F.GLB_STATUS_BOOT_STATE ≥ 3 then u.linkState i (w != 0) sp w else u)
      else if k = 4 then ({ u with mer := { u.mer with ref10 := true } } : State).freqSelect else u)) ∧
  (∀ (s : State) (t : Nat), s.sxt.heldReset = true → s.sxt.belowAt = some t →
    exec .heldResetStart s = .next (s.advanceTo (t + 10000 * msec)).devReset) ∧
  (∀ s u : State, (s.pow.life = .running ∨ s.pow.life = .recovery ∨ s.pow.life = .ended) →
    u = (s.setFld F.SXT_RESET_CTRL_ACTION 2).setFld F.SXT_RESET_CTRL_BUSY 1 →
    (u.fld F.SXT_STATUS_LEVEL < 2 → s.sxt.heldReset = false → exec .deviceReset s = .next u.devReset ∧
      u.devReset.pow.life = .boot ∧ u.devReset.pow.enables = 0) ∧
    (2 ≤ u.fld F.SXT_STATUS_LEVEL → ∃ t, exec .deviceReset s = .next t ∧ t.sxt.heldReset = true ∧ t.pow = s.pow ∧
      t.fld F.SXT_RESET_CTRL_STATUS = 0xB0 ∧ t.fld F.SXT_RESET_CTRL_BUSY = 0 ∧ t.fld F.SXT_RESET_STATUS_HELD = 1)) ∧
  (∀ s : State, s.running = true → ∃ t, exec .computeReset s = .next t ∧ t.computeCause = none ∧
    t.fld F.SXT_RESET_STATUS_LAST_ACTION = 1 ∧ t.fld F.SXT_RESET_STATUS_LAST_CAUSE = s.computeCause.getD 0 % 2 ^ 16 ∧
    t.fld F.SXT_RESET_STATUS_LAST_MS = 0 ∧ (s.computeCause = none → t.flag F.SXT_RESET_CTRL_BUSY = false)) ∧
  (∀ (s u : State) (v : Nat) (w : Word) (ok : Bool), s.running = true → s.flag F.SXT_RESET_CTRL_BUSY = false → w = BitVec.ofNat 64 v →
    u = (((s.setFld F.SXT_RESET_CTRL_ACTION 3).setFld F.SXT_RESET_CTRL_UNIT_CLASS (F.SXT_RESET_CTRL_UNIT_CLASS.get w)).setFld
      F.SXT_RESET_CTRL_UNIT_INDEX (F.SXT_RESET_CTRL_UNIT_INDEX.get w)).setFld F.SXT_RESET_CTRL_FORCE (F.SXT_RESET_CTRL_FORCE.get w) →
    exec (.unitRestart v ok) s = .next (u.sxtServe fun s => s.restartUnit
      ⟨F.SXT_RESET_CTRL_UNIT_CLASS.get w, F.SXT_RESET_CTRL_UNIT_INDEX.get w⟩ (F.SXT_RESET_CTRL_FORCE.get w == 1) ok)) ∧
  (∀ (s : State) (force ok : Bool), s.running = true → s.flag F.GLB_MAP_CTRL_BUSY = false →
    exec (.disable force) s =
      .next (((s.setFld F.GLB_MAP_CTRL_OP 1).setFld F.GLB_MAP_CTRL_FORCE (b2n force)).sxtServe fun s => s.mapDisableOp force) ∧
    exec (.enable force ok) s =
      .next (((s.setFld F.GLB_MAP_CTRL_OP 2).setFld F.GLB_MAP_CTRL_FORCE (b2n force)).sxtServe fun s => s.mapEnableOp force ok)) ∧
  (∀ (s u : State) (l : List (Nat × Nat)), s.awake = true →
    u = s.advanceTo (s.sxt.healthAt + s.fld F.SXT_HEALTH_CTRL_WINDOW_S * 1000 * msec) →
    exec (.healthWindow l) s = .next { (rangeFrom 0 24).foldl State.scorePart (l.foldl (fun (s : State) p =>
      s.health (p.1 / 8) (p.1 % 8) p.2) { u with sxt := { u.sxt with healthAt := u.now } }) with hcounts := [] }) ∧
  (∀ s : State, s.awake = true → s.fld F.SXT_HEALTH_SEL_PART < 24 →
    exec .healthClear s = .next (s.setScore (s.fld F.SXT_HEALTH_SEL_PART) 0))

/-- Only the commands that may store change a byte of memory. A command outside the list mayStore (Safety.lean) that answers a next state leaves
every byte of every memory (HBM of every domain, scratch, staging, radio buffers) as it was: 158 of the 246 commands. The list is what the rules of
the other commands store, and the commands that reset or power off the device. -/
def Obligations.OnlyTheseCommandsStore : Prop :=
  ∀ (c : Instr) (s t : State), exec c s = .next t → mayStore c = false → ∀ a : Nat, Memory.read t.mem a = Memory.read s.mem a

/-- Only the radio's commands and resets change a cell slot. A command outside the list mayCells (Safety.lean) that answers a next state leaves every
cell slot's configuration, state and slots as they were. -/
def Obligations.OnlyTheseCommandsChangeCells : Prop :=
  ∀ (c : Instr) (s t : State), exec c s = .next t → mayCells c = false → t.cells = s.cells

/-- Only the Meridian's commands, live updates and resets change the Meridian. A command outside the list mayClock (Safety.lean) that answers a next
state leaves the Meridian's state, its sources, its estimate and its captures as they were. -/
def Obligations.OnlyTheseCommandsChangeTheClock : Prop :=
  ∀ (c : Instr) (s t : State), exec c s = .next t → mayClock c = false → t.mer = s.mer

/-- Only key operations, updates and resets change a domain's key. A command outside the list mayKeys (Safety.lean) that answers a next state leaves
the key of every isolation domain as it was: 29 of the 246 commands are in the list. -/
def Obligations.OnlyTheseCommandsChangeTheKeys : Prop :=
  ∀ (c : Instr) (s t : State), exec c s = .next t → mayKeys c = false → t.hbmKeys = s.hbmKeys

/-- Only the run engine's commands, faults and resets change a run. A command outside the list mayRuns (Safety.lean) that answers a next state leaves
every run, with its windows, transfers and counters, as it was. -/
def Obligations.OnlyTheseCommandsChangeRuns : Prop :=
  ∀ (c : Instr) (s t : State), exec c s = .next t → mayRuns c = false → t.runs = s.runs

/-- Only fabric commands, bring-up and resets change the fabric unit. A command outside the list mayFab (Safety.lean) that answers a next state
leaves the region table, the bearings, the mirrors, the open operations and the leases as they were. -/
def Obligations.OnlyTheseCommandsChangeTheFabric : Prop :=
  ∀ (c : Instr) (s t : State), exec c s = .next t → mayFab c = false → t.fab = s.fab

/-- rne_shift gives the nearest integer, and an exact half the even one. For every integer x and every s of 0 or more, y = rne_shift(x, s) is the
integer nearest to x / 2^s: y times 2^s is at most half of 2^s away from x. When it is exactly half of 2^s away, y is even. rne_shift(x, 0) is x. -/
def Obligations.RneShiftRoundsToEven : Prop :=
  ∀ (x : Int) (s : Nat), rneShift x 0 = x ∧
    2 * (rneShift x s * 2 ^ s - x) ≤ 2 ^ s ∧ -(2 ^ s) ≤ 2 * (rneShift x s * 2 ^ s - x) ∧
    (2 * (rneShift x s * 2 ^ s - x) = 2 ^ s ∨ 2 * (rneShift x s * 2 ^ s - x) = -(2 ^ s) → rneShift x s % 2 = 0 ∨ s = 0)

/-- A 64-bit read clears the RC fields, a 32-bit read clears nothing. A 64-bit RC_READ of a register that the device answers leaves every RC field of
that register 0. A 32-bit RC_READ returns the half that the offset addresses and changes no register and nothing else but what the read returned. -/
def Obligations.ReadsClearOnlyWholeRcFields : Prop :=
  (∀ (s : State) (off : Nat) (d : RegDesc), s.hostUp = true → off < 2 ^ 26 → accessBad off 8 = false →
    s.bar0Answers (regAddress off) = true → regAt (regAddress off) = some d →
    ∃ t, exec (.rcRead .bar0 off 8) s = .next t ∧
      ∀ f ∈ d.fields, f.acc = .rc → t.fld f.fld (s.window (regAddress off)) = 0) ∧
  (∀ (s : State) (off : Nat) (d : RegDesc), s.hostUp = true → off < 2 ^ 26 → accessBad off 4 = false →
    s.bar0Answers (regAddress off) = true → regAt (regAddress off) = some d →
    ∃ t, exec (.rcRead .bar0 off 4) s = .next t ∧ t = { s with readData := t.readData } ∧
      t.readData = (if off % 8 = 4 then s.readWord (regAddress off) (s.window (regAddress off)) >>> 32
        else s.readWord (regAddress off) (s.window (regAddress off)) &&& 0xFFFFFFFF#64))

/-- A fault record is one log entry, one count, and one copy to its domain in a millisecond. Every fault record appends one log entry with FAULT = 1,
of severity error for ACTION 5 and warning otherwise, and adds 1 to SXT_FAULT_COUNT.RECORDS modulo 2^32. Nothing is sent to a domain for a record
that names none. A domain's copies of one cause and unit go out at most once in 1 ms: a record inside the millisecond only raises the count that the
next copy carries as REPEAT. A record outside it is delivered, as is the first (R548). FaultRec.bytes is the record of R544. -/
def Obligations.FaultRecordsReachTheLog : Prop :=
  ∀ (s t u : State) (r : FaultRec), t = s.faultRecord r →
    u = (s.logEvent r.cause (if r.action = 5 then 2 else 1) (r.bytes 0) true).addFld F.SXT_FAULT_COUNT_RECORDS 1 →
    t.log = (s.log.append (s.mkEntry r.cause (if r.action = 5 then 2 else 1) true (r.bytes 0))).1 ∧
    t.fld F.SXT_FAULT_COUNT_RECORDS = (s.fld F.SXT_FAULT_COUNT_RECORDS + 1) % 2 ^ 32 ∧
    (r.dom = none → t = u) ∧
    (∀ d, r.dom = some d →
      (∀ m, s.merges.find? (fun m => m.dom == d && m.cause == r.cause && m.ucls == r.ucls && m.uidx == r.uidx) = some m →
        (s.now < m.lastAt + msec → t.outs = u.outs ∧ t.rings = u.rings) ∧
        (m.lastAt + msec ≤ s.now → ∃ v : State, v.outs = u.outs ∧ v.rings = u.rings ∧ v.noticeRings = u.noticeRings ∧
          t = v.deliverFault d r m.repeats)) ∧
      (s.merges.find? (fun m => m.dom == d && m.cause == r.cause && m.ucls == r.ucls && m.uidx == r.uidx) = none →
        ∃ v : State, v.outs = u.outs ∧ v.rings = u.rings ∧ v.noticeRings = u.noticeRings ∧ t = v.deliverFault d r 0))

/-- A session changes only its own domain's key, channels and notice ring. A session bound to domain d: DOM_KEY_SET, DOM_KEY_GEN, DOM_KEY_CLEAR,
SAK_SET, SAK_CLEAR and SET_NOTICE_RING on it leave the key and the notice ring of every other domain as they were, and the security association of
every channel that is not assigned to d. END_SESSION leaves every key and every security association in place (R423). -/
def Obligations.SessionsKeepToTheirDomain : Prop :=
  (∀ (s t : State) (k d : Nat) (x : Session) (ok : Bool) (b : List Byte) (c : Instr),
    c ∈ [Instr.domKeySet k ok b, .domKeyGen k ok b, .domKeyClear k ok b, .sakSet k ok b, .sakClear k ok b, .setNoticeRing k ok b] →
    Tab.get? s.sessions k = some x → x.dom = some d → exec c s = .next t →
    (∀ e, e ≠ d → Tab.get? t.hbmKeys e = Tab.get? s.hbmKeys e ∧ Tab.get? t.noticeRings e = Tab.get? s.noticeRings e) ∧
    ∀ sc an, an < 4 → s.scDom sc ≠ some d → Tab.get? t.sas (saKey sc an) = Tab.get? s.sas (saKey sc an)) ∧
  ∀ (s t : State) (k : Nat) (ok : Bool), exec (.endSession k ok) s = .next t → t.hbmKeys = s.hbmKeys ∧ t.sas = s.sas

/-- An event takes the next SEQ and a place in the log's ring. Logging an event makes the entry of R507 with SEQ = NEXT_SEQ, advances NEXT_SEQ by 1
(a 64-bit number that never wraps in use) and, while the log is not degraded, puts the entry at the end of the SRAM ring, which never holds more than
32,768 entries and loses its oldest one first, and counts the entry as waiting for the mirror. Nothing of the log's flash mirror changes. A new entry
of at least UART_MIN_SEV is sent on the UART (R508, R518). -/
def Obligations.TheLogTakesEveryEvent : Prop :=
  ∀ (s t : State) (cause sev : Nat) (body : List Byte) (fault : Bool), t = s.logEvent cause sev body fault →
    t.fld F.SXT_LOG_HEAD_NEXT_SEQ = (s.fld F.SXT_LOG_HEAD_NEXT_SEQ + 1) % 2 ^ 64 ∧ t.log.mirror = s.log.mirror ∧
    (s.log.degraded = false →
      t.log.sram = (s.log.sram ++ [s.mkEntry cause sev fault body]).drop (s.log.sram.length + 1 - 32768) ∧
      t.log.waiting = s.log.waiting + 1 ∧ (s.log.sram.length ≤ 32768 → t.log.sram.length ≤ 32768) ∧
      (s.fld F.SXT_LOG_CTRL_UART_MIN_SEV ≤ sev → Out.uart (s.fld F.SXT_LOG_HEAD_NEXT_SEQ) ∈ t.outs))

/-- A completion entry is written at CQ_TAIL, or waits in order. While a ring's completion queue has room and nothing is held, an entry is written
with the ring's PHASE and SQ_HEAD at CQ_BASE + 64 x CQ_TAIL of the instance's link and PASID, CQ_TAIL advances by 1 modulo the queue's size, and
PHASE flips when CQ_TAIL returns to 0. Otherwise the entry is held behind those already held, CQ_WAIT reads 1, and nothing is written (R365, R370). -/
def Obligations.EntriesGoToTheTail : Prop :=
  ∀ (s t : State) (g : Nat) (r : Machine.Ring) (e : List Byte) (quiet : Bool), Tab.get? s.rings g = some r → t = s.postEntry g e quiet →
    let n := 2 ^ s.fld F.RING_CFG_CQ_LOG2 r.key
    let tl := s.fld F.RING_STATUS_CQ_TAIL r.key
    let ph := s.fld F.RING_STATUS_PHASE r.key
    (r.held = [] → (tl + 1) % n ≠ r.cqHead % n → n ≤ 65536 →
      Out.hostWrite (s.route r.inst).1 (s.route r.inst).2 (s.fld F.RING_CQ_BASE_ADDR r.key * 4096 + 64 * tl)
        (patchEntry e ph (s.fld F.RING_STATUS_SQ_HEAD r.key)) ∈ t.outs ∧
      t.fld F.RING_STATUS_CQ_TAIL r.key = (tl + 1) % n ∧
      t.fld F.RING_STATUS_PHASE r.key = (if (tl + 1) % n = 0 then 1 - ph else ph)) ∧
    (r.held ≠ [] ∨ (tl + 1) % n = r.cqHead % n →
      t.outs = s.outs ∧ Tab.get? t.rings g = some { r with held := r.held ++ [(e, quiet)] } ∧
      t.fld F.RING_STATUS_CQ_WAIT r.key = 1 ∧ t.fld F.RING_STATUS_CQ_TAIL r.key = tl ∧ t.fld F.RING_STATUS_PHASE r.key = ph)

/-- OWNER_KEY with all four operator key rows programmed answers KEY_ROWS_FULL and programs nothing. With BUSY clear, the Sextant serving, no live
update and no conflicting lock holder, OWNER_KEY with four programmed operator key rows ends with STATUS 0x9F and BUSY 0, whatever key and signature
the buffer holds, and the rows, the flash and the fuse floors stay as they were, so that the newest row stays in force. -/
def Obligations.FullKeyRowsRefuseOwnerKey : Prop :=
  ∀ (s : State) (d : Option Nat) (ok : Bool), 4 ≤ s.fld F.GLB_STATUS_BOOT_STATE → s.fld F.SXT_STATUS_CORE_STATE < 2 →
    s.flag F.ALM_CMD_BUSY = false → s.alm.upd = none → s.lockedBy tokUpdate [] = none → s.lockedBy tokFuse [tokUpdate] = none →
    4 ≤ s.alm.owners.length →
    ∃ t, exec (.ownerKey d ok) s = .next t ∧ t.alm = s.alm ∧ t.fld F.ALM_CMD_STATUS = 0x9F ∧ t.flag F.ALM_CMD_BUSY = false

/-- A write of the quantum is cut to 2 to 100 µs; a raise must pass admission control. For a QUANTUM_WRITE of v, with q its QUANTUM_US cut to 2 to
100 (a value below 2 gives 2, one above 100 gives 100): where q is not above the quantum in force, the quantum that the next decision uses is q µs.
Where it is above and the admission test at q passes, likewise; where the test fails, the quantum stays as it was and QUANTUM_REFUSED is set. A write
never stops. -/
def Obligations.QuantumChangesAreTested : Prop :=
  ∀ (s : State) (v q : Nat), q = clamp 2 100 (bits v 6 0) → ∃ t, exec (.quantumWrite v) s = .next t ∧
    (bits v 6 0 < 2 → q = 2) ∧ (100 < bits v 6 0 → q = 100) ∧ (2 ≤ bits v 6 0 → bits v 6 0 ≤ 100 → q = bits v 6 0) ∧
    (q ≤ s.fld F.HLM_QUANTUM_QUANTUM_US ∨ (s.admitFull s.helm.cal (q * 1500) s.mapE s.mapC).pass = true →
      t.fld F.HLM_QUANTUM_QUANTUM_US = q ∧ t.quantum = q * 1500) ∧
    (s.fld F.HLM_QUANTUM_QUANTUM_US < q → (s.admitFull s.helm.cal (q * 1500) s.mapE s.mapC).pass = false →
      t.fld F.HLM_QUANTUM_QUANTUM_US = s.fld F.HLM_QUANTUM_QUANTUM_US ∧ t.quantum = s.quantum ∧
      t.flag F.HLM_ERR_STATUS_QUANTUM_REFUSED = true)

/-- A write to a block cancels the correcting rewrite that waits for it, and stands. Bytes stored to any block leave no correcting rewrite waiting
for that block. A CORRECTED_REWRITE changes no byte of the memory, so that after the store and any rewrite each stored byte reads as it was written:
a rewrite never overwrites data younger than the data it corrected. -/
def Obligations.WritesOutlastCorrections : Prop :=
  (∀ (s : State) (spc : Space) (d off b : Nat) (l : List Byte), 64 * b < memKey spc d off + l.length → memKey spc d off < 64 * b + 64 →
    b ∉ (s.store spc d off l).rewrites) ∧
  ∀ (s : State) (d e off o i : Nat) (l : List Byte), Memory.wf s.mem = true → off + l.length ≤ 2 ^ 64 → i < l.length →
    ∃ t, exec (.correctedRewrite e o) (s.store .hbm d off l) = .next t ∧ t.byte .hbm d (off + i) = l.getD i 0 ∧
      ∀ k, Memory.read t.mem k = Memory.read (s.store .hbm d off l).mem k

/-- An address with no register reads zeros and ignores writes; written RSV bits change nothing. Through BAR 0 of a device that answers, an aligned
access to an address that no register occupies: a write leaves the whole state as it was, a read returns zeros and changes nothing else. Where a word
is stored to a register by its access codes, a bit that belongs to no field keeps its value, whatever is written there (R13). -/
def Obligations.UnoccupiedAddressesAreEmpty : Prop :=
  (∀ (s : State) (off v n : Nat) (peer : WriteBrings), s.hostUp = true → off < 2 ^ 26 → accessBad off n = false →
    regAt (regAddress off) = none →
    exec (.registerWrite .bar0 off v n peer) s = .next s ∧ exec (.rcRead .bar0 off n) s = .next { s with readData := 0 }) ∧
  ∀ (s : State) (a i v j : Nat) (d : RegDesc), regAt a = some d → j < 64 →
    (∀ f ∈ d.fields, j < f.fld.lo ∨ f.fld.lo + f.fld.w ≤ j) → ((s.storeWord a i v).reg a i).getLsbD j = (s.reg a i).getLsbD j

/-- A chart that is absent, not READY or another domain's gives CHART_INVALID; a class outside CLASS_MASK gives NO_CLASS. A RUN_CHART or an
UNLOAD_CHART that its ring can start, naming a chart that is not loaded, that is not READY, or that is READY and owned by another domain than the
ring's, completes with CHART_INVALID, in the same step whichever of these holds; a RUN_CHART likewise where the loss of a stack took the chart's
copy. A RUN_CHART of a READY chart of the ring's domain, on a ring whose class is not in the chart's CLASS_MASK, completes with NO_CLASS. -/
def Obligations.ChartsOutOfReachAreRefused : Prop :=
  (∀ (s : State) (g cid : Nat) (r : Machine.Ring) (f : Fetched), s.startable g cid 0x01 = some f → Tab.get? s.rings g = some r →
    (∀ c, Tab.get? s.charts (fieldAt f.body 16 2) = some c → c.st ≠ .ready ∨ c.dom ≠ s.ringDom g ∨ c.lost = true) →
    exec (.runChart g cid) s = .next (s.completeNoRun g cid 0x10 0 false)) ∧
  (∀ (s : State) (g cid : Nat) (f : Fetched), s.startable g cid 0x03 = some f →
    (∀ c, Tab.get? s.charts (fieldAt f.body 16 2) = some c → c.st ≠ .ready ∨ c.dom ≠ s.ringDom g) →
    exec (.unloadChart g cid) s = .next (s.completeStatus g cid 0x10)) ∧
  ∀ (s : State) (g cid : Nat) (r : Machine.Ring) (f : Fetched) (c : Chart), s.startable g cid 0x01 = some f → Tab.get? s.rings g = some r →
    Tab.get? s.charts (fieldAt f.body 16 2) = some c → c.st = .ready → c.dom = s.ringDom g → c.lost = false →
    bit c.classMask (r.cls - 1) = false →
    exec (.runChart g cid) s = .next (s.completeNoRun g cid stNoClass 0 false)

/-- A PCIe link reset is the Function Level Resets of its functions and a retrain, and nothing more. PCIE_LINK_RESET of link 0 performs the Function
Level Resets of PF 0 and PF 1, that of link 1 the one of its function, and retrains the link. It starts no compute reset and no device reset: where
no grant to an instance falls in the reset's own cycle, which would come first (R377: both arrays are busy, or no instance is ACTIVE), the arrays,
runs, charts, power state, boot state and memory stay as they were. Fronthaul, fabric traffic and Meridian time go on: the cells, the fabric, the
Rhumb and Ethernet ports, the Meridian and the time are unchanged. -/
def Obligations.PcieResetsStayAtTheInterface : Prop :=
  ∀ (s : State) (j speed width : Nat), j < 2 → ∃ t, exec (.pcieLinkReset j speed width) s = .next t ∧
    (∀ (u : State) (old : Nat), u = (if j = 0 then (s.flr 0).flr 1 else s.flr 2) → old = (u.reg (linkReg j)).toNat →
      t = (((((u.count (0xE81 + 16 * j) none (b2n (bit old 0 && width != 0 && old / 2 % 8 != speed % 8))).count (0xE82 + 16 * j) none
        (b2n (bit old 0 && width != 0 && old / 16 % 32 != width % 32))).linkRetrains j).linkState j (width != 0) speed width))) ∧
    t.fab = s.fab ∧ t.mer = s.mer ∧ t.hbmKeys = s.hbmKeys ∧
    ((s.arr.cur ≠ [] ∧ s.vec.cur ≠ none) ∨ (∀ p ∈ s.insts, s.fld F.INST_STATUS_STATE p.1 ≠ 1) →
      t.arr = s.arr ∧ t.vec = s.vec ∧ t.runs = s.runs ∧ t.charts = s.charts ∧ t.mem = s.mem ∧ t.pow = s.pow ∧
      t.fld F.GLB_STATUS_BOOT_STATE = s.fld F.GLB_STATUS_BOOT_STATE ∧ t.cells = s.cells ∧ t.rhumb = s.rhumb ∧
      t.eth = s.eth ∧ t.now = s.now ∧ t.tai = s.tai)

/-- A float that the vector pipe writes is never a NaN but the canonical one of its format. For each float output format (0 FP32, 1 FP16, 2 BF16) and
every FP32 result x, the pattern that is written is, where it stands for a NaN, 0x7FC0_0000 in FP32, 0x7E00 in FP16 and 0x7FC0 in BF16: no payload
and no signalling bit of an input reaches an output. It is counted as a NaN exactly then, and every pattern fits the format's width (R143, R152). -/
def Obligations.VectorNansAreCanonical : Prop :=
  ∀ x, x < 2 ^ 32 →
    (fp32.decode (outFloat 0 x).1 = .nan → (outFloat 0 x).1 = 0x7FC00000) ∧ (fp16.decode (outFloat 1 x).1 = .nan → (outFloat 1 x).1 = 0x7E00) ∧
    (bf16.decode (outFloat 2 x).1 = .nan → (outFloat 2 x).1 = 0x7FC0) ∧
    ((outFloat 0 x).2.1 = true ↔ fp32.decode x = .nan) ∧ (outFloat 0 x).1 < 2 ^ 32 ∧ (outFloat 1 x).1 < 2 ^ 16 ∧ (outFloat 2 x).1 < 2 ^ 16

/-- The charges of a pass's products add up to its occupancy, each at least its share rounded down. Where a pass of occupancy occ carries products of
standalone lengths that do not all vanish, one charge is made for each product, the charges add up to occ, every product but the first is charged
exactly floor(occ × its length / the sum of lengths), and what the first is charged above that is fewer cycles than there are products (R188). -/
def Obligations.ChargesAddUpToThePass : Prop :=
  ∀ (occ : Nat) (ls : List Nat), 0 < sumList ls → (shareOut occ ls).length = ls.length ∧ sumList (shareOut occ ls) = occ ∧
    (∀ i, 0 < i → i < ls.length → (shareOut occ ls).getD i 0 = occ * ls.getD i 0 / sumList ls) ∧
    occ * ls.getD 0 0 / sumList ls ≤ (shareOut occ ls).getD 0 0 ∧
    (shareOut occ ls).getD 0 0 < occ * ls.getD 0 0 / sumList ls + ls.length

/-- A policer's buckets stay between empty and full, and a frame takes tokens by its colour. A policer whose buckets hold from 0 to CBS and PBS bytes
of tokens keeps them so over a frame that arrives no earlier than the last. A red frame takes nothing from the refilled buckets, a yellow one its
bytes from the peak bucket alone, a green one its bytes from both; a frame that comes in red or yellow never leaves greener (R398). -/
def Obligations.PolicersNeverOverdraw : Prop :=
  ∀ (p : Policer) (cir pir cbs pbs len t pre : Nat), p.last ≤ t → 0 ≤ p.tc → 0 ≤ p.tp → pre ≤ 2 →
    let r := police p cir pir cbs pbs len t pre
    let tc : Int := min (p.tc + ((t : Int) - p.last) * cir) (cbs * 8000000)
    let tp : Int := min (p.tp + ((t : Int) - p.last) * pir) (pbs * 8000000)
    pre ≤ r.1 ∧ r.1 ≤ 2 ∧ r.2.last = t ∧ 0 ≤ r.2.tc ∧ r.2.tc ≤ cbs * 8000000 ∧ 0 ≤ r.2.tp ∧ r.2.tp ≤ pbs * 8000000 ∧
    (r.1 = 2 → r.2.tc = tc ∧ r.2.tp = tp) ∧ (r.1 = 1 → r.2.tc = tc ∧ r.2.tp = tp - len * 8000000) ∧
    (r.1 = 0 → r.2.tc = tc - len * 8000000 ∧ r.2.tp = tp - len * 8000000)

/-- An event of another domain, or of none, never moves a domain's event counter. Where any number of events of any source occur, tagged with a
domain or with none, an event counter owned by a domain that is not the events' own keeps its value, its source and its owner, whatever the freeze
bit says. So a counter of a strict domain counts only that domain's events and never moves with another domain's work. -/
def Obligations.CountersCountTheirOwnDomain : Prop :=
  ∀ (s : State) (src n k d : Nat) (dom : Option Nat) (e : Evc), Tab.get? s.evcs k = some e → e.dom = some d → dom ≠ some d →
    Tab.get? (s.count src dom n).evcs k = some e

/-- Power comes up in order: t0, the enables one by one, the sections, RUNNING. POWER_ON of a device without power answers a state whose boot is due,
at time 0, with no enable high and the part fitted (R597). DEVICE_BOOT then, where a slot passes its load checks, ends with BOOT_STATE 2 and the first
enable high (R491). RAIL_SAMPLE with PWROK_MAIN high, 10 ms after the last enable rose, raises the next one, and after the third answers a device whose
sections have power, with BOOT_STATE 3 (R597). DEVICE_BOOT of such a device ends RUNNING (R491). -/
def Obligations.PowerComesUpInOrder : Prop :=
  (∀ (s : State) (p : DevParts), s.pow.life = .off → ∃ t, exec (.powerOn p) s = .next t ∧ t.pow.life = .boot ∧ t.now = 0 ∧
    t.pow.enables = 0 ∧ t.alm.fitted = true ∧ t.pending = s.pending) ∧
  (∀ (s u v : State) (h : BootHdr) (b : Bool) (n sp w sp' w' k role : Nat), s.pow.life = .boot →
    u = (s.wakeCores.logResume.setBoot 1).showFuses → u.alm.flashOk = true → (validHdr u.alm.hdrA).isSome = true →
    (validHdr u.alm.hdrB).isSome = true → pickHdr u.alm.hdrA u.alm.hdrB = some (h, b) →
    v = ({ u with alm := { u.alm with hdr := h, useB := b } } : State).showHdr.trialStep →
    (v.selectFrom (bootOrder v.alm.hdr)).2 = some (k, role) → ∃ t, exec (.deviceBoot n sp w sp' w') s = .next t ∧ t.pow.life = .rail 0 ∧
      t.pow.enables = 1 ∧ t.pow.railAt = t.now ∧ t.fld F.GLB_STATUS_BOOT_STATE = 2) ∧
  (∀ (s : State) (k : Nat), s.pow.life = .rail k →
    (k < 2 → ∃ t, exec (.railSample true) s = .next t ∧ t.pow.life = .rail (k + 1) ∧ t.pow.enables = s.pow.enables + 2 ^ (k + 1) ∧
      t.pow.railAt = t.now ∧ t.now = max s.now (s.pow.railAt + 10 * msec)) ∧
    (k = 2 → ∃ t, exec (.railSample true) s = .next t ∧ t.pow.life = .powered ∧ t.pow.enables = s.pow.enables ∧
      t.fld F.GLB_STATUS_BOOT_STATE = 3)) ∧
  ∀ (s : State) (n sp w sp' w' : Nat), s.pow.life = .powered → ∃ t, exec (.deviceBoot n sp w sp' w') s = .next t ∧ t.pow.life = .running ∧
    t.fld F.GLB_STATUS_BOOT_STATE = bootRunning

/-- Losses of supplies, clocks and the die-to-die link act at once. On a device with power PLANNED_REMOVAL, SUPPLY_LOSS and the loss of the 25 MHz
reference leave it without power, memory and keys, its flash as it was (R599, R7). A D2D_FAULT with both dies powered ends all service with the rails
up (R28; that no run, cell slot, ring or instance is left then is the model's choice, log entry 64); PWROK_MAIN_FALL with the three enables high ends
it with the rails off and FATAL# low (R598). CLOCK_LOSS of an Ethernet reference takes down the sub-ports of its two ports, of a Rhumb reference its
two ports, of a PCIe reference its link, and of the 10 MHz input ends its use (R591). CLOCK_RETURN takes the input from those lost, and a PCIe link
trains anew (R591). -/
def Obligations.LossesActAtOnce : Prop :=
  (∀ (s : State) (c : Instr) (i : Nat) (rx : List (Nat × EthFrame × Nat)), s.pow.life ≠ .off →
    c ∈ [Instr.plannedRemoval, .supplyLoss, .clockLoss 0 i rx] → ∃ t, exec c s = .next t ∧ t.pow.life = .off ∧ t.mem = [] ∧ t.hbmKeys = [] ∧
      t.alm.slots = s.alm.slots ∧ t.log.mirror = s.log.mirror) ∧
  (∀ s : State, (s.pow.life = .running ∨ s.pow.life = .powered) → ∃ t, exec .d2dFault s = .next t ∧ t.pow.life = .ended ∧
    t.pow.enables = s.pow.enables ∧ t.runs = [] ∧ t.cells = [] ∧ t.rings = [] ∧ t.insts = []) ∧
  (∀ s : State, s.pow.enables = 7 → ∃ t, exec .pwrokMainFall s = .next t ∧ t.pow.life = .ended ∧ t.pow.enables = 0 ∧ t.pow.fatalPin = true ∧
    t.sxt.fatal = true ∧ t.flag F.SXT_ALERT_SENSOR_FATAL = true) ∧
  (∀ (s u : State) (k i : Nat) (rx : List (Nat × EthFrame × Nat)), 1 ≤ k → k ≤ 4 → i < [1, 4, 2, 2, 1].getD k 1 → s.pow.life ≠ .off →
    s.clockLost k i = false → u = { s with pow := { s.pow with lost := (k * 16 + i) :: s.pow.lost } } →
    exec (.clockLoss k i rx) s = .next (if k = 1 then u.ethClockLost i rx else if k = 2 then u.rhbClockLost i
      else if k = 3 then u.pcieLinkReset i 0 0 else u.ref10Lost)) ∧
  ∀ (s : State) (k i sp w : Nat), k ≤ 4 → i < [1, 4, 2, 2, 1].getD k 1 → s.clockLost k i = true → ∃ t, exec (.clockReturn k i sp w) s = .next t ∧
    (k ≠ 3 → t.pow = { s.pow with lost := s.pow.lost.erase (k * 16 + i) }) ∧ (k = 4 → t.mer.ref10 = true) ∧
    (k = 3 → t = (if s.fld F.GLB_STATUS_BOOT_STATE ≥ 3 then
      ({ s with pow := { s.pow with lost := s.pow.lost.erase (k * 16 + i) } } : State).linkState i (w != 0) sp w
      else { s with pow := { s.pow with lost := s.pow.lost.erase (k * 16 + i) } }))

/-- A reset or a unit restart that nothing stands against runs to its end. DEVICE_RESET below CRIT, and HELD_RESET_START 10 s after every sensor has
fallen below it, leave a device whose boot is due, with no enable high, no run, cell slot or ring and one device reset more (R506, R554). COMPUTE_RESET
of a RUNNING device ends with action 1, its cause and nothing on the array or the vector pipe (R552). UNIT_RESTART of a restartable unit that
may be removed, served by the Sextant's cores, takes the unit out and, its self-test passed, back, and answers STATUS 0 with BUSY clear (R555). -/
def Obligations.ResetsRunToTheirEnd : Prop :=
  (∀ s : State, (s.pow.life = .running ∨ s.pow.life = .recovery ∨ s.pow.life = .ended) → s.fld F.SXT_STATUS_LEVEL < 2 →
    s.sxt.heldReset = false → ∃ t, exec .deviceReset s = .next t ∧ t.pow.life = .boot ∧ t.pow.enables = 0 ∧ t.runs = [] ∧ t.cells = [] ∧
      t.rings = [] ∧ t.sessions = [] ∧ t.fld F.GLB_STATUS_BOOT_STATE = 0) ∧
  (∀ (s : State) (a : Nat), s.sxt.heldReset = true → s.sxt.belowAt = some a → ∃ t, exec .heldResetStart s = .next t ∧ t.pow.life = .boot ∧
    t.pow.enables = 0 ∧ t.runs = [] ∧ t.cells = [] ∧ t.rings = [] ∧ t.sxt.heldReset = false ∧ t.pow.t0 = max s.now (a + 10000 * msec)) ∧
  (∀ s : State, s.running = true → ∃ t, exec .computeReset s = .next t ∧ t.computeCause = none ∧
    t.fld F.SXT_RESET_STATUS_LAST_ACTION = 1 ∧ t.fld F.SXT_RESET_STATUS_LAST_CAUSE = s.computeCause.getD 0 % 2 ^ 16) ∧
  ∀ (s u w : State) (v : Nat) (x : DevUnit), s.running = true → s.flag F.SXT_RESET_CTRL_BUSY = false →
    bootRunning ≤ s.fld F.GLB_STATUS_BOOT_STATE → s.fld F.SXT_STATUS_CORE_STATE < 2 →
    x = ⟨F.SXT_RESET_CTRL_UNIT_CLASS.get (BitVec.ofNat 64 v), F.SXT_RESET_CTRL_UNIT_INDEX.get (BitVec.ofNat 64 v)⟩ → restartable x = true →
    u = (((s.setFld F.SXT_RESET_CTRL_ACTION 3).setFld F.SXT_RESET_CTRL_UNIT_CLASS x.cls).setFld F.SXT_RESET_CTRL_UNIT_INDEX x.idx).setFld
      F.SXT_RESET_CTRL_FORCE (F.SXT_RESET_CTRL_FORCE.get (BitVec.ofNat 64 v)) →
    w = ({ u with sxt := { u.sxt with workAt := u.now } } : State).setFld F.SXT_STATUS_CORE_STATE 1 →
    w.removalStatus x (F.SXT_RESET_CTRL_FORCE.get (BitVec.ofNat 64 v) == 1) = 0 → ∃ t, exec (.unitRestart v true) s = .next t ∧
      t = (((w.faultRecord { FaultRec.of 0x0603 4 with ucls := x.cls, uidx := x.idx }).unitLost x 0x0603).unitBack x).restartDone 0 ∧
      t.fld F.SXT_RESET_CTRL_BUSY = 0 ∧ t.fld F.SXT_RESET_CTRL_STATUS = 0 ∧ t.fld F.SXT_RESET_STATUS_LAST_ACTION = 3

/-- A map operation on a unit that may leave or return, and a health window, run to their end. On a RUNNING device whose Sextant serves requests,
DISABLE of a restartable unit in service that is not the last of its kind, and ENABLE of one that only the runtime layer disables and that passes its
self-test, take the unit out and back and answer STATUS 0 with BUSY clear (R580). HEALTH_WINDOW moves time to the window's end, scores the 24 parts and
begins the next window with no counts (R562); HEALTH_CLEAR leaves the selected part's score at 0 (R563). -/
def Obligations.MapOperationsAndHealthRunToTheirEnd : Prop :=
  (∀ (s w : State) (force : Bool) (op : Nat), s.running = true → s.flag F.GLB_MAP_CTRL_BUSY = false →
    bootRunning ≤ s.fld F.GLB_STATUS_BOOT_STATE → s.fld F.SXT_STATUS_CORE_STATE < 2 →
    w = (({ (s.setFld F.GLB_MAP_CTRL_OP op).setFld F.GLB_MAP_CTRL_FORCE (b2n force) with sxt := { s.sxt with workAt := s.now } } : State).setFld
      F.SXT_STATUS_CORE_STATE 1) → restartable w.selUnit = true → w.removalStatus w.selUnit force = 0 →
    (op = 1 → w.unitOff w.selUnit = false → w.lastOne w.selUnit = false → ∃ t, exec (.disable force) s = .next t ∧
      t = (w.unitLost w.selUnit 0x0603).mapAnswer 0 ∧ t.fld F.GLB_MAP_CTRL_STATUS = 0 ∧ t.fld F.GLB_MAP_CTRL_BUSY = 0) ∧
    (op = 2 → layerHas w.mapFuse w.selUnit = false → layerHas w.mapAlm w.selUnit = false → Tab.has w.mapRun w.selUnit.key = true →
      ∃ t, exec (.enable force true) s = .next t ∧ t = (w.unitBack w.selUnit).mapAnswer 0 ∧ t.fld F.GLB_MAP_CTRL_STATUS = 0 ∧
      t.fld F.GLB_MAP_CTRL_BUSY = 0)) ∧
  (∀ (s u : State) (l : List (Nat × Nat)), s.awake = true →
    u = s.advanceTo (s.sxt.healthAt + s.fld F.SXT_HEALTH_CTRL_WINDOW_S * 1000 * msec) → ∃ t, exec (.healthWindow l) s = .next t ∧
      t = { (rangeFrom 0 24).foldl State.scorePart (l.foldl (fun (s : State) p => s.health (p.1 / 8) (p.1 % 8) p.2)
        { u with sxt := { u.sxt with healthAt := u.now } }) with hcounts := [] } ∧ t.hcounts = []) ∧
  ∀ s : State, s.awake = true → s.fld F.SXT_HEALTH_SEL_PART < 24 → ∃ t, exec .healthClear s = .next t ∧
    t.fld F.SXT_HEALTH_SCORE (s.fld F.SXT_HEALTH_SEL_PART) = 0

/-- A request for an event counter is carried out on the counter that it names. EVC_PROGRAM with GO, served by the Sextant's cores, of a counter that no
domain owns starts it at 0 on an operator's source, or frees it, and answers STATUS 0 (R525). FREEZE sets FREEZE and the limit, at most 512 (R525). In
an open session bound to a domain, EVC_ALLOC below the limit starts the lowest free counter on a class D source for the domain, EVC_FREE frees a counter
of the domain's own and leaves every other, EVC_READ answers the values of the domain's counters and changes no counter, and EVC_SNAPSHOT begins the
domain's snapshot (R526). SNAPSHOT_RECORD whose record passes the checks of HBM advances the record's number by one (R527). -/
def Obligations.CounterRequestsAreCarriedOut : Prop :=
  (∀ (s : State) (v k : Nat), k = s.fld F.EVC_SEL_COUNTER → F.EVC_CFG_GO.get (BitVec.ofNat 64 v) = 1 →
    (∀ e, Tab.get? s.evcs k = some e → e.dom = none) → s.awake = true → s.fld F.SXT_STATUS_CORE_STATE < 2 →
    (F.EVC_CFG_ENABLE.get (BitVec.ofNat 64 v) = 1 → classD (F.EVC_CFG_SOURCE.get (BitVec.ofNat 64 v)) = false →
      F.EVC_CFG_SOURCE.get (BitVec.ofNat 64 v) < srcEnd → ∃ t, exec (.evcProgram v) s = .next t ∧ t.fld F.EVC_CFG_STATUS k = 0 ∧
      t.fld F.EVC_CFG_BUSY k = 0 ∧ Tab.get? t.evcs k = some (Evc.start (F.EVC_CFG_SOURCE.get (BitVec.ofNat 64 v)) none s.now)) ∧
    (F.EVC_CFG_ENABLE.get (BitVec.ofNat 64 v) = 0 → ∃ t, exec (.evcProgram v) s = .next t ∧ t.fld F.EVC_CFG_STATUS k = 0 ∧
      t.fld F.EVC_CFG_BUSY k = 0 ∧ t.evcs = Tab.del s.evcs k)) ∧
  (∀ (s : State) (v : Nat), ∃ t, exec (.freeze v) s = .next t ∧ t.fld F.EVC_CTRL_FREEZE = F.EVC_CTRL_FREEZE.get (BitVec.ofNat 64 v) ∧
    t.fld F.EVC_CTRL_DOMAIN_LIMIT = min 512 (F.EVC_CTRL_DOMAIN_LIMIT.get (BitVec.ofNat 64 v)) ∧ t.evcs = s.evcs) ∧
  (∀ (s : State) (i d : Nat) (x : Session) (b : List Byte), 4 ≤ s.fld F.GLB_STATUS_BOOT_STATE → s.fld F.SXT_STATUS_CORE_STATE < 2 →
    Tab.get? s.sessions i = some x → x.open_ = true → x.dom = some d →
    (∀ k, reqOk b 0x0100 [(2, 2)] = true → classD (fieldAt b 2 2) = true → Tab.lowestFree s.evcs 0 512 = some k →
      (s.domEvcs d).length < s.fld F.EVC_CTRL_DOMAIN_LIMIT → ∃ t, exec (.evcAlloc i true b) s = .next t ∧
        Tab.get? t.evcs k = some (Evc.start (fieldAt b 2 2) (some d) s.now)) ∧
    (reqOk b 0x0101 [(2, 2)] = true → fieldAt b 2 2 < 512 → s.ownsEvc d (fieldAt b 2 2) = true → ∃ t, exec (.evcFree i true b) s = .next t ∧
      t.evcs = Tab.del s.evcs (fieldAt b 2 2) ∧ ∀ k, k ≠ fieldAt b 2 2 → Tab.get? t.evcs k = Tab.get? s.evcs k) ∧
    (reqOk b 0x0102 [(2, 1), (8, 32)] = true → fieldAt b 2 1 ≠ 0 → fieldAt b 2 1 ≤ 16 → (∀ k ∈ evcNames b, k < 512) →
      (∀ k ∈ evcNames b, s.ownsEvc d k = true) → ∃ t, exec (.evcRead i true b) s = .next t ∧ t.evcs = s.evcs ∧
        Out.spdm i spdmVendorRsp (toLe 1 0 ++ toLe 1 0 ++ toLe 2 (b2n (s.snap d).stopped) ++ toLe 4 (s.fld F.ISO_DOM_GEN_KEY_GEN d) ++
          (evcNames b).flatMap fun k => toLe 8 (match Tab.get? s.evcs k with
            | some e => e.read s.now
            | none => 0)) ∈ t.outs) ∧
    (reqOk b 0x0103 [(8, 10)] = true → fieldAt b 8 8 % 64 = 0 → ∃ t, exec (.evcSnapshot i true b) s = .next t ∧
      t.snap d = ⟨fieldAt b 8 8, fieldAt b 16 2, (s.snap d).seq, s.now, false⟩)) ∧
  ∀ (s u t : State) (d : Nat) (x : Snap), d < 128 → x = s.snap d → x.period ≠ 0 → u = s.advanceTo (x.lastAt + x.period * msec) →
    u.awake = true → u.fld F.SXT_STATUS_CORE_STATE < 2 → t = u.wakeCores →
    t.hbmFault d x.off (t.snapRecord d x.seq).length false = none → ∃ z, exec (.snapshotRecord d) s = .next z ∧
      z.snap d = { x with seq := (x.seq + 1) % 2 ^ 64, lastAt := t.now }
end

