-- ==== Sys2Proof/Laws/State.lean ====
section
/-! SUPPORT. What the basic updates of the state leave as it is, one lemma for each field, and what they write. -/

namespace Sys2Proof.Machine

/-! ### A register set. -/

@[simp] theorem State.setReg_now (s : State) (a i : Nat) (v : Word) : (s.setReg a i v).now = s.now := rfl
@[simp] theorem State.setReg_tai (s : State) (a i : Nat) (v : Word) : (s.setReg a i v).tai = s.tai := rfl
@[simp] theorem State.setReg_freeCtr (s : State) (a i : Nat) (v : Word) : (s.setReg a i v).freeCtr = s.freeCtr := rfl
@[simp] theorem State.setReg_cfg (s : State) (a i : Nat) (v : Word) : (s.setReg a i v).cfg = s.cfg := rfl
@[simp] theorem State.setReg_mem (s : State) (a i : Nat) (v : Word) : (s.setReg a i v).mem = s.mem := rfl
@[simp] theorem State.setReg_poison (s : State) (a i : Nat) (v : Word) : (s.setReg a i v).poison = s.poison := rfl
@[simp] theorem State.setReg_latent (s : State) (a i : Nat) (v : Word) : (s.setReg a i v).latent = s.latent := rfl
@[simp] theorem State.setReg_rewrites (s : State) (a i : Nat) (v : Word) : (s.setReg a i v).rewrites = s.rewrites := rfl
@[simp] theorem State.setReg_wrote (s : State) (a i : Nat) (v : Word) : (s.setReg a i v).wrote = s.wrote := rfl
@[simp] theorem State.setReg_extents (s : State) (a i : Nat) (v : Word) : (s.setReg a i v).extents = s.extents := rfl
@[simp] theorem State.setReg_outs (s : State) (a i : Nat) (v : Word) : (s.setReg a i v).outs = s.outs := rfl
@[simp] theorem State.setReg_readData (s : State) (a i : Nat) (v : Word) : (s.setReg a i v).readData = s.readData := rfl
@[simp] theorem State.setReg_insts (s : State) (a i : Nat) (v : Word) : (s.setReg a i v).insts = s.insts := rfl
@[simp] theorem State.setReg_rings (s : State) (a i : Nat) (v : Word) : (s.setReg a i v).rings = s.rings := rfl
@[simp] theorem State.setReg_charts (s : State) (a i : Nat) (v : Word) : (s.setReg a i v).charts = s.charts := rfl
@[simp] theorem State.setReg_runs (s : State) (a i : Nat) (v : Word) : (s.setReg a i v).runs = s.runs := rfl
@[simp] theorem State.setReg_ctxWait (s : State) (a i : Nat) (v : Word) : (s.setReg a i v).ctxWait = s.ctxWait := rfl
@[simp] theorem State.setReg_arr (s : State) (a i : Nat) (v : Word) : (s.setReg a i v).arr = s.arr := rfl
@[simp] theorem State.setReg_vec (s : State) (a i : Nat) (v : Word) : (s.setReg a i v).vec = s.vec := rfl
@[simp] theorem State.setReg_log (s : State) (a i : Nat) (v : Word) : (s.setReg a i v).log = s.log := rfl
@[simp] theorem State.setReg_merges (s : State) (a i : Nat) (v : Word) : (s.setReg a i v).merges = s.merges := rfl
@[simp] theorem State.setReg_noticeRings (s : State) (a i : Nat) (v : Word) : (s.setReg a i v).noticeRings = s.noticeRings := rfl
@[simp] theorem State.setReg_mapFuse (s : State) (a i : Nat) (v : Word) : (s.setReg a i v).mapFuse = s.mapFuse := rfl
@[simp] theorem State.setReg_mapAlm (s : State) (a i : Nat) (v : Word) : (s.setReg a i v).mapAlm = s.mapAlm := rfl
@[simp] theorem State.setReg_mapRun (s : State) (a i : Nat) (v : Word) : (s.setReg a i v).mapRun = s.mapRun := rfl
@[simp] theorem State.setReg_helm (s : State) (a i : Nat) (v : Word) : (s.setReg a i v).helm = s.helm := rfl
@[simp] theorem State.setReg_cells (s : State) (a i : Nat) (v : Word) : (s.setReg a i v).cells = s.cells := rfl
@[simp] theorem State.setReg_rad (s : State) (a i : Nat) (v : Word) : (s.setReg a i v).rad = s.rad := rfl
@[simp] theorem State.setReg_dma (s : State) (a i : Nat) (v : Word) : (s.setReg a i v).dma = s.dma := rfl
@[simp] theorem State.setReg_dmaNext (s : State) (a i : Nat) (v : Word) : (s.setReg a i v).dmaNext = s.dmaNext := rfl
@[simp] theorem State.setReg_quar (s : State) (a i : Nat) (v : Word) : (s.setReg a i v).quar = s.quar := rfl
@[simp] theorem State.setReg_ats (s : State) (a i : Nat) (v : Word) : (s.setReg a i v).ats = s.ats := rfl
@[simp] theorem State.setReg_evcs (s : State) (a i : Nat) (v : Word) : (s.setReg a i v).evcs = s.evcs := rfl
@[simp] theorem State.setReg_fab (s : State) (a i : Nat) (v : Word) : (s.setReg a i v).fab = s.fab := rfl
@[simp] theorem State.setReg_rhumb (s : State) (a i : Nat) (v : Word) : (s.setReg a i v).rhumb = s.rhumb := rfl
@[simp] theorem State.setReg_scrub (s : State) (a i : Nat) (v : Word) : (s.setReg a i v).scrub = s.scrub := rfl
@[simp] theorem State.setReg_hcounts (s : State) (a i : Nat) (v : Word) : (s.setReg a i v).hcounts = s.hcounts := rfl
@[simp] theorem State.setReg_mbx (s : State) (a i : Nat) (v : Word) : (s.setReg a i v).mbx = s.mbx := rfl
@[simp] theorem State.setReg_computeCause (s : State) (a i : Nat) (v : Word) : (s.setReg a i v).computeCause = s.computeCause := rfl
@[simp] theorem State.setReg_eth (s : State) (a i : Nat) (v : Word) : (s.setReg a i v).eth = s.eth := rfl
@[simp] theorem State.setReg_sas (s : State) (a i : Nat) (v : Word) : (s.setReg a i v).sas = s.sas := rfl
@[simp] theorem State.setReg_sessions (s : State) (a i : Nat) (v : Word) : (s.setReg a i v).sessions = s.sessions := rfl
@[simp] theorem State.setReg_hbmKeys (s : State) (a i : Nat) (v : Word) : (s.setReg a i v).hbmKeys = s.hbmKeys := rfl
@[simp] theorem State.setReg_hbmUnder (s : State) (a i : Nat) (v : Word) : (s.setReg a i v).hbmUnder = s.hbmUnder := rfl
@[simp] theorem State.setReg_mer (s : State) (a i : Nat) (v : Word) : (s.setReg a i v).mer = s.mer := rfl
@[simp] theorem State.setReg_sxt (s : State) (a i : Nat) (v : Word) : (s.setReg a i v).sxt = s.sxt := rfl
@[simp] theorem State.setReg_alm (s : State) (a i : Nat) (v : Word) : (s.setReg a i v).alm = s.alm := rfl
@[simp] theorem State.setReg_pow (s : State) (a i : Nat) (v : Word) : (s.setReg a i v).pow = s.pow := rfl

/-! ### A register field set. -/

@[simp] theorem State.setFld_now (s : State) (f : Fld) (n i : Nat) : (s.setFld f n i).now = s.now := rfl
@[simp] theorem State.setFld_tai (s : State) (f : Fld) (n i : Nat) : (s.setFld f n i).tai = s.tai := rfl
@[simp] theorem State.setFld_freeCtr (s : State) (f : Fld) (n i : Nat) : (s.setFld f n i).freeCtr = s.freeCtr := rfl
@[simp] theorem State.setFld_cfg (s : State) (f : Fld) (n i : Nat) : (s.setFld f n i).cfg = s.cfg := rfl
@[simp] theorem State.setFld_mem (s : State) (f : Fld) (n i : Nat) : (s.setFld f n i).mem = s.mem := rfl
@[simp] theorem State.setFld_poison (s : State) (f : Fld) (n i : Nat) : (s.setFld f n i).poison = s.poison := rfl
@[simp] theorem State.setFld_latent (s : State) (f : Fld) (n i : Nat) : (s.setFld f n i).latent = s.latent := rfl
@[simp] theorem State.setFld_rewrites (s : State) (f : Fld) (n i : Nat) : (s.setFld f n i).rewrites = s.rewrites := rfl
@[simp] theorem State.setFld_wrote (s : State) (f : Fld) (n i : Nat) : (s.setFld f n i).wrote = s.wrote := rfl
@[simp] theorem State.setFld_extents (s : State) (f : Fld) (n i : Nat) : (s.setFld f n i).extents = s.extents := rfl
@[simp] theorem State.setFld_outs (s : State) (f : Fld) (n i : Nat) : (s.setFld f n i).outs = s.outs := rfl
@[simp] theorem State.setFld_readData (s : State) (f : Fld) (n i : Nat) : (s.setFld f n i).readData = s.readData := rfl
@[simp] theorem State.setFld_insts (s : State) (f : Fld) (n i : Nat) : (s.setFld f n i).insts = s.insts := rfl
@[simp] theorem State.setFld_rings (s : State) (f : Fld) (n i : Nat) : (s.setFld f n i).rings = s.rings := rfl
@[simp] theorem State.setFld_charts (s : State) (f : Fld) (n i : Nat) : (s.setFld f n i).charts = s.charts := rfl
@[simp] theorem State.setFld_runs (s : State) (f : Fld) (n i : Nat) : (s.setFld f n i).runs = s.runs := rfl
@[simp] theorem State.setFld_ctxWait (s : State) (f : Fld) (n i : Nat) : (s.setFld f n i).ctxWait = s.ctxWait := rfl
@[simp] theorem State.setFld_arr (s : State) (f : Fld) (n i : Nat) : (s.setFld f n i).arr = s.arr := rfl
@[simp] theorem State.setFld_vec (s : State) (f : Fld) (n i : Nat) : (s.setFld f n i).vec = s.vec := rfl
@[simp] theorem State.setFld_log (s : State) (f : Fld) (n i : Nat) : (s.setFld f n i).log = s.log := rfl
@[simp] theorem State.setFld_merges (s : State) (f : Fld) (n i : Nat) : (s.setFld f n i).merges = s.merges := rfl
@[simp] theorem State.setFld_noticeRings (s : State) (f : Fld) (n i : Nat) : (s.setFld f n i).noticeRings = s.noticeRings := rfl
@[simp] theorem State.setFld_mapFuse (s : State) (f : Fld) (n i : Nat) : (s.setFld f n i).mapFuse = s.mapFuse := rfl
@[simp] theorem State.setFld_mapAlm (s : State) (f : Fld) (n i : Nat) : (s.setFld f n i).mapAlm = s.mapAlm := rfl
@[simp] theorem State.setFld_mapRun (s : State) (f : Fld) (n i : Nat) : (s.setFld f n i).mapRun = s.mapRun := rfl
@[simp] theorem State.setFld_helm (s : State) (f : Fld) (n i : Nat) : (s.setFld f n i).helm = s.helm := rfl
@[simp] theorem State.setFld_cells (s : State) (f : Fld) (n i : Nat) : (s.setFld f n i).cells = s.cells := rfl
@[simp] theorem State.setFld_rad (s : State) (f : Fld) (n i : Nat) : (s.setFld f n i).rad = s.rad := rfl
@[simp] theorem State.setFld_dma (s : State) (f : Fld) (n i : Nat) : (s.setFld f n i).dma = s.dma := rfl
@[simp] theorem State.setFld_dmaNext (s : State) (f : Fld) (n i : Nat) : (s.setFld f n i).dmaNext = s.dmaNext := rfl
@[simp] theorem State.setFld_quar (s : State) (f : Fld) (n i : Nat) : (s.setFld f n i).quar = s.quar := rfl
@[simp] theorem State.setFld_ats (s : State) (f : Fld) (n i : Nat) : (s.setFld f n i).ats = s.ats := rfl
@[simp] theorem State.setFld_evcs (s : State) (f : Fld) (n i : Nat) : (s.setFld f n i).evcs = s.evcs := rfl
@[simp] theorem State.setFld_fab (s : State) (f : Fld) (n i : Nat) : (s.setFld f n i).fab = s.fab := rfl
@[simp] theorem State.setFld_rhumb (s : State) (f : Fld) (n i : Nat) : (s.setFld f n i).rhumb = s.rhumb := rfl
@[simp] theorem State.setFld_scrub (s : State) (f : Fld) (n i : Nat) : (s.setFld f n i).scrub = s.scrub := rfl
@[simp] theorem State.setFld_hcounts (s : State) (f : Fld) (n i : Nat) : (s.setFld f n i).hcounts = s.hcounts := rfl
@[simp] theorem State.setFld_mbx (s : State) (f : Fld) (n i : Nat) : (s.setFld f n i).mbx = s.mbx := rfl
@[simp] theorem State.setFld_computeCause (s : State) (f : Fld) (n i : Nat) : (s.setFld f n i).computeCause = s.computeCause := rfl
@[simp] theorem State.setFld_eth (s : State) (f : Fld) (n i : Nat) : (s.setFld f n i).eth = s.eth := rfl
@[simp] theorem State.setFld_sas (s : State) (f : Fld) (n i : Nat) : (s.setFld f n i).sas = s.sas := rfl
@[simp] theorem State.setFld_sessions (s : State) (f : Fld) (n i : Nat) : (s.setFld f n i).sessions = s.sessions := rfl
@[simp] theorem State.setFld_hbmKeys (s : State) (f : Fld) (n i : Nat) : (s.setFld f n i).hbmKeys = s.hbmKeys := rfl
@[simp] theorem State.setFld_hbmUnder (s : State) (f : Fld) (n i : Nat) : (s.setFld f n i).hbmUnder = s.hbmUnder := rfl
@[simp] theorem State.setFld_mer (s : State) (f : Fld) (n i : Nat) : (s.setFld f n i).mer = s.mer := rfl
@[simp] theorem State.setFld_sxt (s : State) (f : Fld) (n i : Nat) : (s.setFld f n i).sxt = s.sxt := rfl
@[simp] theorem State.setFld_alm (s : State) (f : Fld) (n i : Nat) : (s.setFld f n i).alm = s.alm := rfl
@[simp] theorem State.setFld_pow (s : State) (f : Fld) (n i : Nat) : (s.setFld f n i).pow = s.pow := rfl

/-! ### A register field advanced. -/

@[simp] theorem State.addFld_now (s : State) (f : Fld) (d i : Nat) : (s.addFld f d i).now = s.now := rfl
@[simp] theorem State.addFld_tai (s : State) (f : Fld) (d i : Nat) : (s.addFld f d i).tai = s.tai := rfl
@[simp] theorem State.addFld_freeCtr (s : State) (f : Fld) (d i : Nat) : (s.addFld f d i).freeCtr = s.freeCtr := rfl
@[simp] theorem State.addFld_cfg (s : State) (f : Fld) (d i : Nat) : (s.addFld f d i).cfg = s.cfg := rfl
@[simp] theorem State.addFld_mem (s : State) (f : Fld) (d i : Nat) : (s.addFld f d i).mem = s.mem := rfl
@[simp] theorem State.addFld_poison (s : State) (f : Fld) (d i : Nat) : (s.addFld f d i).poison = s.poison := rfl
@[simp] theorem State.addFld_latent (s : State) (f : Fld) (d i : Nat) : (s.addFld f d i).latent = s.latent := rfl
@[simp] theorem State.addFld_rewrites (s : State) (f : Fld) (d i : Nat) : (s.addFld f d i).rewrites = s.rewrites := rfl
@[simp] theorem State.addFld_wrote (s : State) (f : Fld) (d i : Nat) : (s.addFld f d i).wrote = s.wrote := rfl
@[simp] theorem State.addFld_extents (s : State) (f : Fld) (d i : Nat) : (s.addFld f d i).extents = s.extents := rfl
@[simp] theorem State.addFld_outs (s : State) (f : Fld) (d i : Nat) : (s.addFld f d i).outs = s.outs := rfl
@[simp] theorem State.addFld_readData (s : State) (f : Fld) (d i : Nat) : (s.addFld f d i).readData = s.readData := rfl
@[simp] theorem State.addFld_insts (s : State) (f : Fld) (d i : Nat) : (s.addFld f d i).insts = s.insts := rfl
@[simp] theorem State.addFld_rings (s : State) (f : Fld) (d i : Nat) : (s.addFld f d i).rings = s.rings := rfl
@[simp] theorem State.addFld_charts (s : State) (f : Fld) (d i : Nat) : (s.addFld f d i).charts = s.charts := rfl
@[simp] theorem State.addFld_runs (s : State) (f : Fld) (d i : Nat) : (s.addFld f d i).runs = s.runs := rfl
@[simp] theorem State.addFld_ctxWait (s : State) (f : Fld) (d i : Nat) : (s.addFld f d i).ctxWait = s.ctxWait := rfl
@[simp] theorem State.addFld_arr (s : State) (f : Fld) (d i : Nat) : (s.addFld f d i).arr = s.arr := rfl
@[simp] theorem State.addFld_vec (s : State) (f : Fld) (d i : Nat) : (s.addFld f d i).vec = s.vec := rfl
@[simp] theorem State.addFld_log (s : State) (f : Fld) (d i : Nat) : (s.addFld f d i).log = s.log := rfl
@[simp] theorem State.addFld_merges (s : State) (f : Fld) (d i : Nat) : (s.addFld f d i).merges = s.merges := rfl
@[simp] theorem State.addFld_noticeRings (s : State) (f : Fld) (d i : Nat) : (s.addFld f d i).noticeRings = s.noticeRings := rfl
@[simp] theorem State.addFld_mapFuse (s : State) (f : Fld) (d i : Nat) : (s.addFld f d i).mapFuse = s.mapFuse := rfl
@[simp] theorem State.addFld_mapAlm (s : State) (f : Fld) (d i : Nat) : (s.addFld f d i).mapAlm = s.mapAlm := rfl
@[simp] theorem State.addFld_mapRun (s : State) (f : Fld) (d i : Nat) : (s.addFld f d i).mapRun = s.mapRun := rfl
@[simp] theorem State.addFld_helm (s : State) (f : Fld) (d i : Nat) : (s.addFld f d i).helm = s.helm := rfl
@[simp] theorem State.addFld_cells (s : State) (f : Fld) (d i : Nat) : (s.addFld f d i).cells = s.cells := rfl
@[simp] theorem State.addFld_rad (s : State) (f : Fld) (d i : Nat) : (s.addFld f d i).rad = s.rad := rfl
@[simp] theorem State.addFld_dma (s : State) (f : Fld) (d i : Nat) : (s.addFld f d i).dma = s.dma := rfl
@[simp] theorem State.addFld_dmaNext (s : State) (f : Fld) (d i : Nat) : (s.addFld f d i).dmaNext = s.dmaNext := rfl
@[simp] theorem State.addFld_quar (s : State) (f : Fld) (d i : Nat) : (s.addFld f d i).quar = s.quar := rfl
@[simp] theorem State.addFld_ats (s : State) (f : Fld) (d i : Nat) : (s.addFld f d i).ats = s.ats := rfl
@[simp] theorem State.addFld_evcs (s : State) (f : Fld) (d i : Nat) : (s.addFld f d i).evcs = s.evcs := rfl
@[simp] theorem State.addFld_fab (s : State) (f : Fld) (d i : Nat) : (s.addFld f d i).fab = s.fab := rfl
@[simp] theorem State.addFld_rhumb (s : State) (f : Fld) (d i : Nat) : (s.addFld f d i).rhumb = s.rhumb := rfl
@[simp] theorem State.addFld_scrub (s : State) (f : Fld) (d i : Nat) : (s.addFld f d i).scrub = s.scrub := rfl
@[simp] theorem State.addFld_hcounts (s : State) (f : Fld) (d i : Nat) : (s.addFld f d i).hcounts = s.hcounts := rfl
@[simp] theorem State.addFld_mbx (s : State) (f : Fld) (d i : Nat) : (s.addFld f d i).mbx = s.mbx := rfl
@[simp] theorem State.addFld_computeCause (s : State) (f : Fld) (d i : Nat) : (s.addFld f d i).computeCause = s.computeCause := rfl
@[simp] theorem State.addFld_eth (s : State) (f : Fld) (d i : Nat) : (s.addFld f d i).eth = s.eth := rfl
@[simp] theorem State.addFld_sas (s : State) (f : Fld) (d i : Nat) : (s.addFld f d i).sas = s.sas := rfl
@[simp] theorem State.addFld_sessions (s : State) (f : Fld) (d i : Nat) : (s.addFld f d i).sessions = s.sessions := rfl
@[simp] theorem State.addFld_hbmKeys (s : State) (f : Fld) (d i : Nat) : (s.addFld f d i).hbmKeys = s.hbmKeys := rfl
@[simp] theorem State.addFld_hbmUnder (s : State) (f : Fld) (d i : Nat) : (s.addFld f d i).hbmUnder = s.hbmUnder := rfl
@[simp] theorem State.addFld_mer (s : State) (f : Fld) (d i : Nat) : (s.addFld f d i).mer = s.mer := rfl
@[simp] theorem State.addFld_sxt (s : State) (f : Fld) (d i : Nat) : (s.addFld f d i).sxt = s.sxt := rfl
@[simp] theorem State.addFld_alm (s : State) (f : Fld) (d i : Nat) : (s.addFld f d i).alm = s.alm := rfl
@[simp] theorem State.addFld_pow (s : State) (f : Fld) (d i : Nat) : (s.addFld f d i).pow = s.pow := rfl

/-! ### A register field advanced up to its largest value. -/

@[simp] theorem State.satFld_now (s : State) (f : Fld) (d i : Nat) : (s.satFld f d i).now = s.now := rfl
@[simp] theorem State.satFld_tai (s : State) (f : Fld) (d i : Nat) : (s.satFld f d i).tai = s.tai := rfl
@[simp] theorem State.satFld_freeCtr (s : State) (f : Fld) (d i : Nat) : (s.satFld f d i).freeCtr = s.freeCtr := rfl
@[simp] theorem State.satFld_cfg (s : State) (f : Fld) (d i : Nat) : (s.satFld f d i).cfg = s.cfg := rfl
@[simp] theorem State.satFld_mem (s : State) (f : Fld) (d i : Nat) : (s.satFld f d i).mem = s.mem := rfl
@[simp] theorem State.satFld_poison (s : State) (f : Fld) (d i : Nat) : (s.satFld f d i).poison = s.poison := rfl
@[simp] theorem State.satFld_latent (s : State) (f : Fld) (d i : Nat) : (s.satFld f d i).latent = s.latent := rfl
@[simp] theorem State.satFld_rewrites (s : State) (f : Fld) (d i : Nat) : (s.satFld f d i).rewrites = s.rewrites := rfl
@[simp] theorem State.satFld_wrote (s : State) (f : Fld) (d i : Nat) : (s.satFld f d i).wrote = s.wrote := rfl
@[simp] theorem State.satFld_extents (s : State) (f : Fld) (d i : Nat) : (s.satFld f d i).extents = s.extents := rfl
@[simp] theorem State.satFld_outs (s : State) (f : Fld) (d i : Nat) : (s.satFld f d i).outs = s.outs := rfl
@[simp] theorem State.satFld_readData (s : State) (f : Fld) (d i : Nat) : (s.satFld f d i).readData = s.readData := rfl
@[simp] theorem State.satFld_insts (s : State) (f : Fld) (d i : Nat) : (s.satFld f d i).insts = s.insts := rfl
@[simp] theorem State.satFld_rings (s : State) (f : Fld) (d i : Nat) : (s.satFld f d i).rings = s.rings := rfl
@[simp] theorem State.satFld_charts (s : State) (f : Fld) (d i : Nat) : (s.satFld f d i).charts = s.charts := rfl
@[simp] theorem State.satFld_runs (s : State) (f : Fld) (d i : Nat) : (s.satFld f d i).runs = s.runs := rfl
@[simp] theorem State.satFld_ctxWait (s : State) (f : Fld) (d i : Nat) : (s.satFld f d i).ctxWait = s.ctxWait := rfl
@[simp] theorem State.satFld_arr (s : State) (f : Fld) (d i : Nat) : (s.satFld f d i).arr = s.arr := rfl
@[simp] theorem State.satFld_vec (s : State) (f : Fld) (d i : Nat) : (s.satFld f d i).vec = s.vec := rfl
@[simp] theorem State.satFld_log (s : State) (f : Fld) (d i : Nat) : (s.satFld f d i).log = s.log := rfl
@[simp] theorem State.satFld_merges (s : State) (f : Fld) (d i : Nat) : (s.satFld f d i).merges = s.merges := rfl
@[simp] theorem State.satFld_noticeRings (s : State) (f : Fld) (d i : Nat) : (s.satFld f d i).noticeRings = s.noticeRings := rfl
@[simp] theorem State.satFld_mapFuse (s : State) (f : Fld) (d i : Nat) : (s.satFld f d i).mapFuse = s.mapFuse := rfl
@[simp] theorem State.satFld_mapAlm (s : State) (f : Fld) (d i : Nat) : (s.satFld f d i).mapAlm = s.mapAlm := rfl
@[simp] theorem State.satFld_mapRun (s : State) (f : Fld) (d i : Nat) : (s.satFld f d i).mapRun = s.mapRun := rfl
@[simp] theorem State.satFld_helm (s : State) (f : Fld) (d i : Nat) : (s.satFld f d i).helm = s.helm := rfl
@[simp] theorem State.satFld_cells (s : State) (f : Fld) (d i : Nat) : (s.satFld f d i).cells = s.cells := rfl
@[simp] theorem State.satFld_rad (s : State) (f : Fld) (d i : Nat) : (s.satFld f d i).rad = s.rad := rfl
@[simp] theorem State.satFld_dma (s : State) (f : Fld) (d i : Nat) : (s.satFld f d i).dma = s.dma := rfl
@[simp] theorem State.satFld_dmaNext (s : State) (f : Fld) (d i : Nat) : (s.satFld f d i).dmaNext = s.dmaNext := rfl
@[simp] theorem State.satFld_quar (s : State) (f : Fld) (d i : Nat) : (s.satFld f d i).quar = s.quar := rfl
@[simp] theorem State.satFld_ats (s : State) (f : Fld) (d i : Nat) : (s.satFld f d i).ats = s.ats := rfl
@[simp] theorem State.satFld_evcs (s : State) (f : Fld) (d i : Nat) : (s.satFld f d i).evcs = s.evcs := rfl
@[simp] theorem State.satFld_fab (s : State) (f : Fld) (d i : Nat) : (s.satFld f d i).fab = s.fab := rfl
@[simp] theorem State.satFld_rhumb (s : State) (f : Fld) (d i : Nat) : (s.satFld f d i).rhumb = s.rhumb := rfl
@[simp] theorem State.satFld_scrub (s : State) (f : Fld) (d i : Nat) : (s.satFld f d i).scrub = s.scrub := rfl
@[simp] theorem State.satFld_hcounts (s : State) (f : Fld) (d i : Nat) : (s.satFld f d i).hcounts = s.hcounts := rfl
@[simp] theorem State.satFld_mbx (s : State) (f : Fld) (d i : Nat) : (s.satFld f d i).mbx = s.mbx := rfl
@[simp] theorem State.satFld_computeCause (s : State) (f : Fld) (d i : Nat) : (s.satFld f d i).computeCause = s.computeCause := rfl
@[simp] theorem State.satFld_eth (s : State) (f : Fld) (d i : Nat) : (s.satFld f d i).eth = s.eth := rfl
@[simp] theorem State.satFld_sas (s : State) (f : Fld) (d i : Nat) : (s.satFld f d i).sas = s.sas := rfl
@[simp] theorem State.satFld_sessions (s : State) (f : Fld) (d i : Nat) : (s.satFld f d i).sessions = s.sessions := rfl
@[simp] theorem State.satFld_hbmKeys (s : State) (f : Fld) (d i : Nat) : (s.satFld f d i).hbmKeys = s.hbmKeys := rfl
@[simp] theorem State.satFld_hbmUnder (s : State) (f : Fld) (d i : Nat) : (s.satFld f d i).hbmUnder = s.hbmUnder := rfl
@[simp] theorem State.satFld_mer (s : State) (f : Fld) (d i : Nat) : (s.satFld f d i).mer = s.mer := rfl
@[simp] theorem State.satFld_sxt (s : State) (f : Fld) (d i : Nat) : (s.satFld f d i).sxt = s.sxt := rfl
@[simp] theorem State.satFld_alm (s : State) (f : Fld) (d i : Nat) : (s.satFld f d i).alm = s.alm := rfl
@[simp] theorem State.satFld_pow (s : State) (f : Fld) (d i : Nat) : (s.satFld f d i).pow = s.pow := rfl

/-! ### A status bit set. -/

@[simp] theorem State.raise_now (s : State) (f : Fld) (i : Nat) : (s.raise f i).now = s.now := rfl
@[simp] theorem State.raise_tai (s : State) (f : Fld) (i : Nat) : (s.raise f i).tai = s.tai := rfl
@[simp] theorem State.raise_freeCtr (s : State) (f : Fld) (i : Nat) : (s.raise f i).freeCtr = s.freeCtr := rfl
@[simp] theorem State.raise_cfg (s : State) (f : Fld) (i : Nat) : (s.raise f i).cfg = s.cfg := rfl
@[simp] theorem State.raise_mem (s : State) (f : Fld) (i : Nat) : (s.raise f i).mem = s.mem := rfl
@[simp] theorem State.raise_poison (s : State) (f : Fld) (i : Nat) : (s.raise f i).poison = s.poison := rfl
@[simp] theorem State.raise_latent (s : State) (f : Fld) (i : Nat) : (s.raise f i).latent = s.latent := rfl
@[simp] theorem State.raise_rewrites (s : State) (f : Fld) (i : Nat) : (s.raise f i).rewrites = s.rewrites := rfl
@[simp] theorem State.raise_wrote (s : State) (f : Fld) (i : Nat) : (s.raise f i).wrote = s.wrote := rfl
@[simp] theorem State.raise_extents (s : State) (f : Fld) (i : Nat) : (s.raise f i).extents = s.extents := rfl
@[simp] theorem State.raise_outs (s : State) (f : Fld) (i : Nat) : (s.raise f i).outs = s.outs := rfl
@[simp] theorem State.raise_readData (s : State) (f : Fld) (i : Nat) : (s.raise f i).readData = s.readData := rfl
@[simp] theorem State.raise_insts (s : State) (f : Fld) (i : Nat) : (s.raise f i).insts = s.insts := rfl
@[simp] theorem State.raise_rings (s : State) (f : Fld) (i : Nat) : (s.raise f i).rings = s.rings := rfl
@[simp] theorem State.raise_charts (s : State) (f : Fld) (i : Nat) : (s.raise f i).charts = s.charts := rfl
@[simp] theorem State.raise_runs (s : State) (f : Fld) (i : Nat) : (s.raise f i).runs = s.runs := rfl
@[simp] theorem State.raise_ctxWait (s : State) (f : Fld) (i : Nat) : (s.raise f i).ctxWait = s.ctxWait := rfl
@[simp] theorem State.raise_arr (s : State) (f : Fld) (i : Nat) : (s.raise f i).arr = s.arr := rfl
@[simp] theorem State.raise_vec (s : State) (f : Fld) (i : Nat) : (s.raise f i).vec = s.vec := rfl
@[simp] theorem State.raise_log (s : State) (f : Fld) (i : Nat) : (s.raise f i).log = s.log := rfl
@[simp] theorem State.raise_merges (s : State) (f : Fld) (i : Nat) : (s.raise f i).merges = s.merges := rfl
@[simp] theorem State.raise_noticeRings (s : State) (f : Fld) (i : Nat) : (s.raise f i).noticeRings = s.noticeRings := rfl
@[simp] theorem State.raise_mapFuse (s : State) (f : Fld) (i : Nat) : (s.raise f i).mapFuse = s.mapFuse := rfl
@[simp] theorem State.raise_mapAlm (s : State) (f : Fld) (i : Nat) : (s.raise f i).mapAlm = s.mapAlm := rfl
@[simp] theorem State.raise_mapRun (s : State) (f : Fld) (i : Nat) : (s.raise f i).mapRun = s.mapRun := rfl
@[simp] theorem State.raise_helm (s : State) (f : Fld) (i : Nat) : (s.raise f i).helm = s.helm := rfl
@[simp] theorem State.raise_cells (s : State) (f : Fld) (i : Nat) : (s.raise f i).cells = s.cells := rfl
@[simp] theorem State.raise_rad (s : State) (f : Fld) (i : Nat) : (s.raise f i).rad = s.rad := rfl
@[simp] theorem State.raise_dma (s : State) (f : Fld) (i : Nat) : (s.raise f i).dma = s.dma := rfl
@[simp] theorem State.raise_dmaNext (s : State) (f : Fld) (i : Nat) : (s.raise f i).dmaNext = s.dmaNext := rfl
@[simp] theorem State.raise_quar (s : State) (f : Fld) (i : Nat) : (s.raise f i).quar = s.quar := rfl
@[simp] theorem State.raise_ats (s : State) (f : Fld) (i : Nat) : (s.raise f i).ats = s.ats := rfl
@[simp] theorem State.raise_evcs (s : State) (f : Fld) (i : Nat) : (s.raise f i).evcs = s.evcs := rfl
@[simp] theorem State.raise_fab (s : State) (f : Fld) (i : Nat) : (s.raise f i).fab = s.fab := rfl
@[simp] theorem State.raise_rhumb (s : State) (f : Fld) (i : Nat) : (s.raise f i).rhumb = s.rhumb := rfl
@[simp] theorem State.raise_scrub (s : State) (f : Fld) (i : Nat) : (s.raise f i).scrub = s.scrub := rfl
@[simp] theorem State.raise_hcounts (s : State) (f : Fld) (i : Nat) : (s.raise f i).hcounts = s.hcounts := rfl
@[simp] theorem State.raise_mbx (s : State) (f : Fld) (i : Nat) : (s.raise f i).mbx = s.mbx := rfl
@[simp] theorem State.raise_computeCause (s : State) (f : Fld) (i : Nat) : (s.raise f i).computeCause = s.computeCause := rfl
@[simp] theorem State.raise_eth (s : State) (f : Fld) (i : Nat) : (s.raise f i).eth = s.eth := rfl
@[simp] theorem State.raise_sas (s : State) (f : Fld) (i : Nat) : (s.raise f i).sas = s.sas := rfl
@[simp] theorem State.raise_sessions (s : State) (f : Fld) (i : Nat) : (s.raise f i).sessions = s.sessions := rfl
@[simp] theorem State.raise_hbmKeys (s : State) (f : Fld) (i : Nat) : (s.raise f i).hbmKeys = s.hbmKeys := rfl
@[simp] theorem State.raise_hbmUnder (s : State) (f : Fld) (i : Nat) : (s.raise f i).hbmUnder = s.hbmUnder := rfl
@[simp] theorem State.raise_mer (s : State) (f : Fld) (i : Nat) : (s.raise f i).mer = s.mer := rfl
@[simp] theorem State.raise_sxt (s : State) (f : Fld) (i : Nat) : (s.raise f i).sxt = s.sxt := rfl
@[simp] theorem State.raise_alm (s : State) (f : Fld) (i : Nat) : (s.raise f i).alm = s.alm := rfl
@[simp] theorem State.raise_pow (s : State) (f : Fld) (i : Nat) : (s.raise f i).pow = s.pow := rfl

/-! ### Registers put back to their reset values. -/

@[simp] theorem State.dropRegs_now (s : State) (p : Nat → Bool) : (s.dropRegs p).now = s.now := rfl
@[simp] theorem State.dropRegs_tai (s : State) (p : Nat → Bool) : (s.dropRegs p).tai = s.tai := rfl
@[simp] theorem State.dropRegs_freeCtr (s : State) (p : Nat → Bool) : (s.dropRegs p).freeCtr = s.freeCtr := rfl
@[simp] theorem State.dropRegs_cfg (s : State) (p : Nat → Bool) : (s.dropRegs p).cfg = s.cfg := rfl
@[simp] theorem State.dropRegs_mem (s : State) (p : Nat → Bool) : (s.dropRegs p).mem = s.mem := rfl
@[simp] theorem State.dropRegs_poison (s : State) (p : Nat → Bool) : (s.dropRegs p).poison = s.poison := rfl
@[simp] theorem State.dropRegs_latent (s : State) (p : Nat → Bool) : (s.dropRegs p).latent = s.latent := rfl
@[simp] theorem State.dropRegs_rewrites (s : State) (p : Nat → Bool) : (s.dropRegs p).rewrites = s.rewrites := rfl
@[simp] theorem State.dropRegs_wrote (s : State) (p : Nat → Bool) : (s.dropRegs p).wrote = s.wrote := rfl
@[simp] theorem State.dropRegs_extents (s : State) (p : Nat → Bool) : (s.dropRegs p).extents = s.extents := rfl
@[simp] theorem State.dropRegs_outs (s : State) (p : Nat → Bool) : (s.dropRegs p).outs = s.outs := rfl
@[simp] theorem State.dropRegs_readData (s : State) (p : Nat → Bool) : (s.dropRegs p).readData = s.readData := rfl
@[simp] theorem State.dropRegs_insts (s : State) (p : Nat → Bool) : (s.dropRegs p).insts = s.insts := rfl
@[simp] theorem State.dropRegs_rings (s : State) (p : Nat → Bool) : (s.dropRegs p).rings = s.rings := rfl
@[simp] theorem State.dropRegs_charts (s : State) (p : Nat → Bool) : (s.dropRegs p).charts = s.charts := rfl
@[simp] theorem State.dropRegs_runs (s : State) (p : Nat → Bool) : (s.dropRegs p).runs = s.runs := rfl
@[simp] theorem State.dropRegs_ctxWait (s : State) (p : Nat → Bool) : (s.dropRegs p).ctxWait = s.ctxWait := rfl
@[simp] theorem State.dropRegs_arr (s : State) (p : Nat → Bool) : (s.dropRegs p).arr = s.arr := rfl
@[simp] theorem State.dropRegs_vec (s : State) (p : Nat → Bool) : (s.dropRegs p).vec = s.vec := rfl
@[simp] theorem State.dropRegs_log (s : State) (p : Nat → Bool) : (s.dropRegs p).log = s.log := rfl
@[simp] theorem State.dropRegs_merges (s : State) (p : Nat → Bool) : (s.dropRegs p).merges = s.merges := rfl
@[simp] theorem State.dropRegs_noticeRings (s : State) (p : Nat → Bool) : (s.dropRegs p).noticeRings = s.noticeRings := rfl
@[simp] theorem State.dropRegs_mapFuse (s : State) (p : Nat → Bool) : (s.dropRegs p).mapFuse = s.mapFuse := rfl
@[simp] theorem State.dropRegs_mapAlm (s : State) (p : Nat → Bool) : (s.dropRegs p).mapAlm = s.mapAlm := rfl
@[simp] theorem State.dropRegs_mapRun (s : State) (p : Nat → Bool) : (s.dropRegs p).mapRun = s.mapRun := rfl
@[simp] theorem State.dropRegs_helm (s : State) (p : Nat → Bool) : (s.dropRegs p).helm = s.helm := rfl
@[simp] theorem State.dropRegs_cells (s : State) (p : Nat → Bool) : (s.dropRegs p).cells = s.cells := rfl
@[simp] theorem State.dropRegs_rad (s : State) (p : Nat → Bool) : (s.dropRegs p).rad = s.rad := rfl
@[simp] theorem State.dropRegs_dma (s : State) (p : Nat → Bool) : (s.dropRegs p).dma = s.dma := rfl
@[simp] theorem State.dropRegs_dmaNext (s : State) (p : Nat → Bool) : (s.dropRegs p).dmaNext = s.dmaNext := rfl
@[simp] theorem State.dropRegs_quar (s : State) (p : Nat → Bool) : (s.dropRegs p).quar = s.quar := rfl
@[simp] theorem State.dropRegs_ats (s : State) (p : Nat → Bool) : (s.dropRegs p).ats = s.ats := rfl
@[simp] theorem State.dropRegs_evcs (s : State) (p : Nat → Bool) : (s.dropRegs p).evcs = s.evcs := rfl
@[simp] theorem State.dropRegs_fab (s : State) (p : Nat → Bool) : (s.dropRegs p).fab = s.fab := rfl
@[simp] theorem State.dropRegs_rhumb (s : State) (p : Nat → Bool) : (s.dropRegs p).rhumb = s.rhumb := rfl
@[simp] theorem State.dropRegs_scrub (s : State) (p : Nat → Bool) : (s.dropRegs p).scrub = s.scrub := rfl
@[simp] theorem State.dropRegs_hcounts (s : State) (p : Nat → Bool) : (s.dropRegs p).hcounts = s.hcounts := rfl
@[simp] theorem State.dropRegs_mbx (s : State) (p : Nat → Bool) : (s.dropRegs p).mbx = s.mbx := rfl
@[simp] theorem State.dropRegs_computeCause (s : State) (p : Nat → Bool) : (s.dropRegs p).computeCause = s.computeCause := rfl
@[simp] theorem State.dropRegs_eth (s : State) (p : Nat → Bool) : (s.dropRegs p).eth = s.eth := rfl
@[simp] theorem State.dropRegs_sas (s : State) (p : Nat → Bool) : (s.dropRegs p).sas = s.sas := rfl
@[simp] theorem State.dropRegs_sessions (s : State) (p : Nat → Bool) : (s.dropRegs p).sessions = s.sessions := rfl
@[simp] theorem State.dropRegs_hbmKeys (s : State) (p : Nat → Bool) : (s.dropRegs p).hbmKeys = s.hbmKeys := rfl
@[simp] theorem State.dropRegs_hbmUnder (s : State) (p : Nat → Bool) : (s.dropRegs p).hbmUnder = s.hbmUnder := rfl
@[simp] theorem State.dropRegs_mer (s : State) (p : Nat → Bool) : (s.dropRegs p).mer = s.mer := rfl
@[simp] theorem State.dropRegs_sxt (s : State) (p : Nat → Bool) : (s.dropRegs p).sxt = s.sxt := rfl
@[simp] theorem State.dropRegs_alm (s : State) (p : Nat → Bool) : (s.dropRegs p).alm = s.alm := rfl
@[simp] theorem State.dropRegs_pow (s : State) (p : Nat → Bool) : (s.dropRegs p).pow = s.pow := rfl

/-! ### Device time advanced. -/

@[simp] theorem State.advanceTo_freeCtr (s : State) (t : Nat) : (s.advanceTo t).freeCtr = s.freeCtr := rfl
@[simp] theorem State.advanceTo_regs (s : State) (t : Nat) : (s.advanceTo t).regs = s.regs := rfl
@[simp] theorem State.advanceTo_cfg (s : State) (t : Nat) : (s.advanceTo t).cfg = s.cfg := rfl
@[simp] theorem State.advanceTo_mem (s : State) (t : Nat) : (s.advanceTo t).mem = s.mem := rfl
@[simp] theorem State.advanceTo_poison (s : State) (t : Nat) : (s.advanceTo t).poison = s.poison := rfl
@[simp] theorem State.advanceTo_latent (s : State) (t : Nat) : (s.advanceTo t).latent = s.latent := rfl
@[simp] theorem State.advanceTo_rewrites (s : State) (t : Nat) : (s.advanceTo t).rewrites = s.rewrites := rfl
@[simp] theorem State.advanceTo_wrote (s : State) (t : Nat) : (s.advanceTo t).wrote = s.wrote := rfl
@[simp] theorem State.advanceTo_extents (s : State) (t : Nat) : (s.advanceTo t).extents = s.extents := rfl
@[simp] theorem State.advanceTo_outs (s : State) (t : Nat) : (s.advanceTo t).outs = s.outs := rfl
@[simp] theorem State.advanceTo_readData (s : State) (t : Nat) : (s.advanceTo t).readData = s.readData := rfl
@[simp] theorem State.advanceTo_insts (s : State) (t : Nat) : (s.advanceTo t).insts = s.insts := rfl
@[simp] theorem State.advanceTo_rings (s : State) (t : Nat) : (s.advanceTo t).rings = s.rings := rfl
@[simp] theorem State.advanceTo_charts (s : State) (t : Nat) : (s.advanceTo t).charts = s.charts := rfl
@[simp] theorem State.advanceTo_runs (s : State) (t : Nat) : (s.advanceTo t).runs = s.runs := rfl
@[simp] theorem State.advanceTo_ctxWait (s : State) (t : Nat) : (s.advanceTo t).ctxWait = s.ctxWait := rfl
@[simp] theorem State.advanceTo_arr (s : State) (t : Nat) : (s.advanceTo t).arr = s.arr := rfl
@[simp] theorem State.advanceTo_vec (s : State) (t : Nat) : (s.advanceTo t).vec = s.vec := rfl
@[simp] theorem State.advanceTo_log (s : State) (t : Nat) : (s.advanceTo t).log = s.log := rfl
@[simp] theorem State.advanceTo_merges (s : State) (t : Nat) : (s.advanceTo t).merges = s.merges := rfl
@[simp] theorem State.advanceTo_noticeRings (s : State) (t : Nat) : (s.advanceTo t).noticeRings = s.noticeRings := rfl
@[simp] theorem State.advanceTo_mapFuse (s : State) (t : Nat) : (s.advanceTo t).mapFuse = s.mapFuse := rfl
@[simp] theorem State.advanceTo_mapAlm (s : State) (t : Nat) : (s.advanceTo t).mapAlm = s.mapAlm := rfl
@[simp] theorem State.advanceTo_mapRun (s : State) (t : Nat) : (s.advanceTo t).mapRun = s.mapRun := rfl
@[simp] theorem State.advanceTo_helm (s : State) (t : Nat) : (s.advanceTo t).helm = s.helm := rfl
@[simp] theorem State.advanceTo_cells (s : State) (t : Nat) : (s.advanceTo t).cells = s.cells := rfl
@[simp] theorem State.advanceTo_rad (s : State) (t : Nat) : (s.advanceTo t).rad = s.rad := rfl
@[simp] theorem State.advanceTo_dma (s : State) (t : Nat) : (s.advanceTo t).dma = s.dma := rfl
@[simp] theorem State.advanceTo_dmaNext (s : State) (t : Nat) : (s.advanceTo t).dmaNext = s.dmaNext := rfl
@[simp] theorem State.advanceTo_quar (s : State) (t : Nat) : (s.advanceTo t).quar = s.quar := rfl
@[simp] theorem State.advanceTo_ats (s : State) (t : Nat) : (s.advanceTo t).ats = s.ats := rfl
@[simp] theorem State.advanceTo_evcs (s : State) (t : Nat) : (s.advanceTo t).evcs = s.evcs := rfl
@[simp] theorem State.advanceTo_fab (s : State) (t : Nat) : (s.advanceTo t).fab = s.fab := rfl
@[simp] theorem State.advanceTo_rhumb (s : State) (t : Nat) : (s.advanceTo t).rhumb = s.rhumb := rfl
@[simp] theorem State.advanceTo_scrub (s : State) (t : Nat) : (s.advanceTo t).scrub = s.scrub := rfl
@[simp] theorem State.advanceTo_hcounts (s : State) (t : Nat) : (s.advanceTo t).hcounts = s.hcounts := rfl
@[simp] theorem State.advanceTo_mbx (s : State) (t : Nat) : (s.advanceTo t).mbx = s.mbx := rfl
@[simp] theorem State.advanceTo_computeCause (s : State) (t : Nat) : (s.advanceTo t).computeCause = s.computeCause := rfl
@[simp] theorem State.advanceTo_eth (s : State) (t : Nat) : (s.advanceTo t).eth = s.eth := rfl
@[simp] theorem State.advanceTo_sas (s : State) (t : Nat) : (s.advanceTo t).sas = s.sas := rfl
@[simp] theorem State.advanceTo_sessions (s : State) (t : Nat) : (s.advanceTo t).sessions = s.sessions := rfl
@[simp] theorem State.advanceTo_hbmKeys (s : State) (t : Nat) : (s.advanceTo t).hbmKeys = s.hbmKeys := rfl
@[simp] theorem State.advanceTo_hbmUnder (s : State) (t : Nat) : (s.advanceTo t).hbmUnder = s.hbmUnder := rfl
@[simp] theorem State.advanceTo_mer (s : State) (t : Nat) : (s.advanceTo t).mer = s.mer := rfl
@[simp] theorem State.advanceTo_sxt (s : State) (t : Nat) : (s.advanceTo t).sxt = s.sxt := rfl
@[simp] theorem State.advanceTo_alm (s : State) (t : Nat) : (s.advanceTo t).alm = s.alm := rfl
@[simp] theorem State.advanceTo_pow (s : State) (t : Nat) : (s.advanceTo t).pow = s.pow := rfl

/-! ### Device time advanced by a span. -/

@[simp] theorem State.wait_freeCtr (s : State) (d : Nat) : (s.wait d).freeCtr = s.freeCtr := rfl
@[simp] theorem State.wait_regs (s : State) (d : Nat) : (s.wait d).regs = s.regs := rfl
@[simp] theorem State.wait_cfg (s : State) (d : Nat) : (s.wait d).cfg = s.cfg := rfl
@[simp] theorem State.wait_mem (s : State) (d : Nat) : (s.wait d).mem = s.mem := rfl
@[simp] theorem State.wait_poison (s : State) (d : Nat) : (s.wait d).poison = s.poison := rfl
@[simp] theorem State.wait_latent (s : State) (d : Nat) : (s.wait d).latent = s.latent := rfl
@[simp] theorem State.wait_rewrites (s : State) (d : Nat) : (s.wait d).rewrites = s.rewrites := rfl
@[simp] theorem State.wait_wrote (s : State) (d : Nat) : (s.wait d).wrote = s.wrote := rfl
@[simp] theorem State.wait_extents (s : State) (d : Nat) : (s.wait d).extents = s.extents := rfl
@[simp] theorem State.wait_outs (s : State) (d : Nat) : (s.wait d).outs = s.outs := rfl
@[simp] theorem State.wait_readData (s : State) (d : Nat) : (s.wait d).readData = s.readData := rfl
@[simp] theorem State.wait_insts (s : State) (d : Nat) : (s.wait d).insts = s.insts := rfl
@[simp] theorem State.wait_rings (s : State) (d : Nat) : (s.wait d).rings = s.rings := rfl
@[simp] theorem State.wait_charts (s : State) (d : Nat) : (s.wait d).charts = s.charts := rfl
@[simp] theorem State.wait_runs (s : State) (d : Nat) : (s.wait d).runs = s.runs := rfl
@[simp] theorem State.wait_ctxWait (s : State) (d : Nat) : (s.wait d).ctxWait = s.ctxWait := rfl
@[simp] theorem State.wait_arr (s : State) (d : Nat) : (s.wait d).arr = s.arr := rfl
@[simp] theorem State.wait_vec (s : State) (d : Nat) : (s.wait d).vec = s.vec := rfl
@[simp] theorem State.wait_log (s : State) (d : Nat) : (s.wait d).log = s.log := rfl
@[simp] theorem State.wait_merges (s : State) (d : Nat) : (s.wait d).merges = s.merges := rfl
@[simp] theorem State.wait_noticeRings (s : State) (d : Nat) : (s.wait d).noticeRings = s.noticeRings := rfl
@[simp] theorem State.wait_mapFuse (s : State) (d : Nat) : (s.wait d).mapFuse = s.mapFuse := rfl
@[simp] theorem State.wait_mapAlm (s : State) (d : Nat) : (s.wait d).mapAlm = s.mapAlm := rfl
@[simp] theorem State.wait_mapRun (s : State) (d : Nat) : (s.wait d).mapRun = s.mapRun := rfl
@[simp] theorem State.wait_helm (s : State) (d : Nat) : (s.wait d).helm = s.helm := rfl
@[simp] theorem State.wait_cells (s : State) (d : Nat) : (s.wait d).cells = s.cells := rfl
@[simp] theorem State.wait_rad (s : State) (d : Nat) : (s.wait d).rad = s.rad := rfl
@[simp] theorem State.wait_dma (s : State) (d : Nat) : (s.wait d).dma = s.dma := rfl
@[simp] theorem State.wait_dmaNext (s : State) (d : Nat) : (s.wait d).dmaNext = s.dmaNext := rfl
@[simp] theorem State.wait_quar (s : State) (d : Nat) : (s.wait d).quar = s.quar := rfl
@[simp] theorem State.wait_ats (s : State) (d : Nat) : (s.wait d).ats = s.ats := rfl
@[simp] theorem State.wait_evcs (s : State) (d : Nat) : (s.wait d).evcs = s.evcs := rfl
@[simp] theorem State.wait_fab (s : State) (d : Nat) : (s.wait d).fab = s.fab := rfl
@[simp] theorem State.wait_rhumb (s : State) (d : Nat) : (s.wait d).rhumb = s.rhumb := rfl
@[simp] theorem State.wait_scrub (s : State) (d : Nat) : (s.wait d).scrub = s.scrub := rfl
@[simp] theorem State.wait_hcounts (s : State) (d : Nat) : (s.wait d).hcounts = s.hcounts := rfl
@[simp] theorem State.wait_mbx (s : State) (d : Nat) : (s.wait d).mbx = s.mbx := rfl
@[simp] theorem State.wait_computeCause (s : State) (d : Nat) : (s.wait d).computeCause = s.computeCause := rfl
@[simp] theorem State.wait_eth (s : State) (d : Nat) : (s.wait d).eth = s.eth := rfl
@[simp] theorem State.wait_sas (s : State) (d : Nat) : (s.wait d).sas = s.sas := rfl
@[simp] theorem State.wait_sessions (s : State) (d : Nat) : (s.wait d).sessions = s.sessions := rfl
@[simp] theorem State.wait_hbmKeys (s : State) (d : Nat) : (s.wait d).hbmKeys = s.hbmKeys := rfl
@[simp] theorem State.wait_hbmUnder (s : State) (d : Nat) : (s.wait d).hbmUnder = s.hbmUnder := rfl
@[simp] theorem State.wait_mer (s : State) (d : Nat) : (s.wait d).mer = s.mer := rfl
@[simp] theorem State.wait_sxt (s : State) (d : Nat) : (s.wait d).sxt = s.sxt := rfl
@[simp] theorem State.wait_alm (s : State) (d : Nat) : (s.wait d).alm = s.alm := rfl
@[simp] theorem State.wait_pow (s : State) (d : Nat) : (s.wait d).pow = s.pow := rfl

/-! ### An open value taken. -/

@[simp] theorem State.fresh_now (s : State) (b : Nat) : ((s.fresh b).2).now = s.now := rfl
@[simp] theorem State.fresh_tai (s : State) (b : Nat) : ((s.fresh b).2).tai = s.tai := rfl
@[simp] theorem State.fresh_regs (s : State) (b : Nat) : ((s.fresh b).2).regs = s.regs := rfl
@[simp] theorem State.fresh_cfg (s : State) (b : Nat) : ((s.fresh b).2).cfg = s.cfg := rfl
@[simp] theorem State.fresh_mem (s : State) (b : Nat) : ((s.fresh b).2).mem = s.mem := rfl
@[simp] theorem State.fresh_poison (s : State) (b : Nat) : ((s.fresh b).2).poison = s.poison := rfl
@[simp] theorem State.fresh_latent (s : State) (b : Nat) : ((s.fresh b).2).latent = s.latent := rfl
@[simp] theorem State.fresh_rewrites (s : State) (b : Nat) : ((s.fresh b).2).rewrites = s.rewrites := rfl
@[simp] theorem State.fresh_wrote (s : State) (b : Nat) : ((s.fresh b).2).wrote = s.wrote := rfl
@[simp] theorem State.fresh_extents (s : State) (b : Nat) : ((s.fresh b).2).extents = s.extents := rfl
@[simp] theorem State.fresh_outs (s : State) (b : Nat) : ((s.fresh b).2).outs = s.outs := rfl
@[simp] theorem State.fresh_readData (s : State) (b : Nat) : ((s.fresh b).2).readData = s.readData := rfl
@[simp] theorem State.fresh_insts (s : State) (b : Nat) : ((s.fresh b).2).insts = s.insts := rfl
@[simp] theorem State.fresh_rings (s : State) (b : Nat) : ((s.fresh b).2).rings = s.rings := rfl
@[simp] theorem State.fresh_charts (s : State) (b : Nat) : ((s.fresh b).2).charts = s.charts := rfl
@[simp] theorem State.fresh_runs (s : State) (b : Nat) : ((s.fresh b).2).runs = s.runs := rfl
@[simp] theorem State.fresh_ctxWait (s : State) (b : Nat) : ((s.fresh b).2).ctxWait = s.ctxWait := rfl
@[simp] theorem State.fresh_arr (s : State) (b : Nat) : ((s.fresh b).2).arr = s.arr := rfl
@[simp] theorem State.fresh_vec (s : State) (b : Nat) : ((s.fresh b).2).vec = s.vec := rfl
@[simp] theorem State.fresh_log (s : State) (b : Nat) : ((s.fresh b).2).log = s.log := rfl
@[simp] theorem State.fresh_merges (s : State) (b : Nat) : ((s.fresh b).2).merges = s.merges := rfl
@[simp] theorem State.fresh_noticeRings (s : State) (b : Nat) : ((s.fresh b).2).noticeRings = s.noticeRings := rfl
@[simp] theorem State.fresh_mapFuse (s : State) (b : Nat) : ((s.fresh b).2).mapFuse = s.mapFuse := rfl
@[simp] theorem State.fresh_mapAlm (s : State) (b : Nat) : ((s.fresh b).2).mapAlm = s.mapAlm := rfl
@[simp] theorem State.fresh_mapRun (s : State) (b : Nat) : ((s.fresh b).2).mapRun = s.mapRun := rfl
@[simp] theorem State.fresh_helm (s : State) (b : Nat) : ((s.fresh b).2).helm = s.helm := rfl
@[simp] theorem State.fresh_cells (s : State) (b : Nat) : ((s.fresh b).2).cells = s.cells := rfl
@[simp] theorem State.fresh_rad (s : State) (b : Nat) : ((s.fresh b).2).rad = s.rad := rfl
@[simp] theorem State.fresh_dma (s : State) (b : Nat) : ((s.fresh b).2).dma = s.dma := rfl
@[simp] theorem State.fresh_dmaNext (s : State) (b : Nat) : ((s.fresh b).2).dmaNext = s.dmaNext := rfl
@[simp] theorem State.fresh_quar (s : State) (b : Nat) : ((s.fresh b).2).quar = s.quar := rfl
@[simp] theorem State.fresh_ats (s : State) (b : Nat) : ((s.fresh b).2).ats = s.ats := rfl
@[simp] theorem State.fresh_evcs (s : State) (b : Nat) : ((s.fresh b).2).evcs = s.evcs := rfl
@[simp] theorem State.fresh_fab (s : State) (b : Nat) : ((s.fresh b).2).fab = s.fab := rfl
@[simp] theorem State.fresh_rhumb (s : State) (b : Nat) : ((s.fresh b).2).rhumb = s.rhumb := rfl
@[simp] theorem State.fresh_scrub (s : State) (b : Nat) : ((s.fresh b).2).scrub = s.scrub := rfl
@[simp] theorem State.fresh_hcounts (s : State) (b : Nat) : ((s.fresh b).2).hcounts = s.hcounts := rfl
@[simp] theorem State.fresh_mbx (s : State) (b : Nat) : ((s.fresh b).2).mbx = s.mbx := rfl
@[simp] theorem State.fresh_computeCause (s : State) (b : Nat) : ((s.fresh b).2).computeCause = s.computeCause := rfl
@[simp] theorem State.fresh_eth (s : State) (b : Nat) : ((s.fresh b).2).eth = s.eth := rfl
@[simp] theorem State.fresh_sas (s : State) (b : Nat) : ((s.fresh b).2).sas = s.sas := rfl
@[simp] theorem State.fresh_sessions (s : State) (b : Nat) : ((s.fresh b).2).sessions = s.sessions := rfl
@[simp] theorem State.fresh_hbmKeys (s : State) (b : Nat) : ((s.fresh b).2).hbmKeys = s.hbmKeys := rfl
@[simp] theorem State.fresh_hbmUnder (s : State) (b : Nat) : ((s.fresh b).2).hbmUnder = s.hbmUnder := rfl
@[simp] theorem State.fresh_mer (s : State) (b : Nat) : ((s.fresh b).2).mer = s.mer := rfl
@[simp] theorem State.fresh_sxt (s : State) (b : Nat) : ((s.fresh b).2).sxt = s.sxt := rfl
@[simp] theorem State.fresh_alm (s : State) (b : Nat) : ((s.fresh b).2).alm = s.alm := rfl
@[simp] theorem State.fresh_pow (s : State) (b : Nat) : ((s.fresh b).2).pow = s.pow := rfl

/-! ### Open bytes taken. -/

@[simp] theorem State.freshBytes_now (s : State) (n : Nat) : ((s.freshBytes n).2).now = s.now := rfl
@[simp] theorem State.freshBytes_tai (s : State) (n : Nat) : ((s.freshBytes n).2).tai = s.tai := rfl
@[simp] theorem State.freshBytes_regs (s : State) (n : Nat) : ((s.freshBytes n).2).regs = s.regs := rfl
@[simp] theorem State.freshBytes_cfg (s : State) (n : Nat) : ((s.freshBytes n).2).cfg = s.cfg := rfl
@[simp] theorem State.freshBytes_mem (s : State) (n : Nat) : ((s.freshBytes n).2).mem = s.mem := rfl
@[simp] theorem State.freshBytes_poison (s : State) (n : Nat) : ((s.freshBytes n).2).poison = s.poison := rfl
@[simp] theorem State.freshBytes_latent (s : State) (n : Nat) : ((s.freshBytes n).2).latent = s.latent := rfl
@[simp] theorem State.freshBytes_rewrites (s : State) (n : Nat) : ((s.freshBytes n).2).rewrites = s.rewrites := rfl
@[simp] theorem State.freshBytes_wrote (s : State) (n : Nat) : ((s.freshBytes n).2).wrote = s.wrote := rfl
@[simp] theorem State.freshBytes_extents (s : State) (n : Nat) : ((s.freshBytes n).2).extents = s.extents := rfl
@[simp] theorem State.freshBytes_outs (s : State) (n : Nat) : ((s.freshBytes n).2).outs = s.outs := rfl
@[simp] theorem State.freshBytes_readData (s : State) (n : Nat) : ((s.freshBytes n).2).readData = s.readData := rfl
@[simp] theorem State.freshBytes_insts (s : State) (n : Nat) : ((s.freshBytes n).2).insts = s.insts := rfl
@[simp] theorem State.freshBytes_rings (s : State) (n : Nat) : ((s.freshBytes n).2).rings = s.rings := rfl
@[simp] theorem State.freshBytes_charts (s : State) (n : Nat) : ((s.freshBytes n).2).charts = s.charts := rfl
@[simp] theorem State.freshBytes_runs (s : State) (n : Nat) : ((s.freshBytes n).2).runs = s.runs := rfl
@[simp] theorem State.freshBytes_ctxWait (s : State) (n : Nat) : ((s.freshBytes n).2).ctxWait = s.ctxWait := rfl
@[simp] theorem State.freshBytes_arr (s : State) (n : Nat) : ((s.freshBytes n).2).arr = s.arr := rfl
@[simp] theorem State.freshBytes_vec (s : State) (n : Nat) : ((s.freshBytes n).2).vec = s.vec := rfl
@[simp] theorem State.freshBytes_log (s : State) (n : Nat) : ((s.freshBytes n).2).log = s.log := rfl
@[simp] theorem State.freshBytes_merges (s : State) (n : Nat) : ((s.freshBytes n).2).merges = s.merges := rfl
@[simp] theorem State.freshBytes_noticeRings (s : State) (n : Nat) : ((s.freshBytes n).2).noticeRings = s.noticeRings := rfl
@[simp] theorem State.freshBytes_mapFuse (s : State) (n : Nat) : ((s.freshBytes n).2).mapFuse = s.mapFuse := rfl
@[simp] theorem State.freshBytes_mapAlm (s : State) (n : Nat) : ((s.freshBytes n).2).mapAlm = s.mapAlm := rfl
@[simp] theorem State.freshBytes_mapRun (s : State) (n : Nat) : ((s.freshBytes n).2).mapRun = s.mapRun := rfl
@[simp] theorem State.freshBytes_helm (s : State) (n : Nat) : ((s.freshBytes n).2).helm = s.helm := rfl
@[simp] theorem State.freshBytes_cells (s : State) (n : Nat) : ((s.freshBytes n).2).cells = s.cells := rfl
@[simp] theorem State.freshBytes_rad (s : State) (n : Nat) : ((s.freshBytes n).2).rad = s.rad := rfl
@[simp] theorem State.freshBytes_dma (s : State) (n : Nat) : ((s.freshBytes n).2).dma = s.dma := rfl
@[simp] theorem State.freshBytes_dmaNext (s : State) (n : Nat) : ((s.freshBytes n).2).dmaNext = s.dmaNext := rfl
@[simp] theorem State.freshBytes_quar (s : State) (n : Nat) : ((s.freshBytes n).2).quar = s.quar := rfl
@[simp] theorem State.freshBytes_ats (s : State) (n : Nat) : ((s.freshBytes n).2).ats = s.ats := rfl
@[simp] theorem State.freshBytes_evcs (s : State) (n : Nat) : ((s.freshBytes n).2).evcs = s.evcs := rfl
@[simp] theorem State.freshBytes_fab (s : State) (n : Nat) : ((s.freshBytes n).2).fab = s.fab := rfl
@[simp] theorem State.freshBytes_rhumb (s : State) (n : Nat) : ((s.freshBytes n).2).rhumb = s.rhumb := rfl
@[simp] theorem State.freshBytes_scrub (s : State) (n : Nat) : ((s.freshBytes n).2).scrub = s.scrub := rfl
@[simp] theorem State.freshBytes_hcounts (s : State) (n : Nat) : ((s.freshBytes n).2).hcounts = s.hcounts := rfl
@[simp] theorem State.freshBytes_mbx (s : State) (n : Nat) : ((s.freshBytes n).2).mbx = s.mbx := rfl
@[simp] theorem State.freshBytes_computeCause (s : State) (n : Nat) : ((s.freshBytes n).2).computeCause = s.computeCause := rfl
@[simp] theorem State.freshBytes_eth (s : State) (n : Nat) : ((s.freshBytes n).2).eth = s.eth := rfl
@[simp] theorem State.freshBytes_sas (s : State) (n : Nat) : ((s.freshBytes n).2).sas = s.sas := rfl
@[simp] theorem State.freshBytes_sessions (s : State) (n : Nat) : ((s.freshBytes n).2).sessions = s.sessions := rfl
@[simp] theorem State.freshBytes_hbmKeys (s : State) (n : Nat) : ((s.freshBytes n).2).hbmKeys = s.hbmKeys := rfl
@[simp] theorem State.freshBytes_hbmUnder (s : State) (n : Nat) : ((s.freshBytes n).2).hbmUnder = s.hbmUnder := rfl
@[simp] theorem State.freshBytes_mer (s : State) (n : Nat) : ((s.freshBytes n).2).mer = s.mer := rfl
@[simp] theorem State.freshBytes_sxt (s : State) (n : Nat) : ((s.freshBytes n).2).sxt = s.sxt := rfl
@[simp] theorem State.freshBytes_alm (s : State) (n : Nat) : ((s.freshBytes n).2).alm = s.alm := rfl
@[simp] theorem State.freshBytes_pow (s : State) (n : Nat) : ((s.freshBytes n).2).pow = s.pow := rfl

/-! ### Bytes written into a space. -/

@[simp] theorem State.store_now (s : State) (c : Space) (d o : Nat) (b : List Byte) : (s.store c d o b).now = s.now := by unfold State.store; split <;> rfl
@[simp] theorem State.store_tai (s : State) (c : Space) (d o : Nat) (b : List Byte) : (s.store c d o b).tai = s.tai := by unfold State.store; split <;> rfl
@[simp] theorem State.store_freeCtr (s : State) (c : Space) (d o : Nat) (b : List Byte) : (s.store c d o b).freeCtr = s.freeCtr := by unfold State.store; split <;> rfl
@[simp] theorem State.store_regs (s : State) (c : Space) (d o : Nat) (b : List Byte) : (s.store c d o b).regs = s.regs := by unfold State.store; split <;> rfl
@[simp] theorem State.store_cfg (s : State) (c : Space) (d o : Nat) (b : List Byte) : (s.store c d o b).cfg = s.cfg := by unfold State.store; split <;> rfl
@[simp] theorem State.store_extents (s : State) (c : Space) (d o : Nat) (b : List Byte) : (s.store c d o b).extents = s.extents := by unfold State.store; split <;> rfl
@[simp] theorem State.store_outs (s : State) (c : Space) (d o : Nat) (b : List Byte) : (s.store c d o b).outs = s.outs := by unfold State.store; split <;> rfl
@[simp] theorem State.store_readData (s : State) (c : Space) (d o : Nat) (b : List Byte) : (s.store c d o b).readData = s.readData := by unfold State.store; split <;> rfl
@[simp] theorem State.store_insts (s : State) (c : Space) (d o : Nat) (b : List Byte) : (s.store c d o b).insts = s.insts := by unfold State.store; split <;> rfl
@[simp] theorem State.store_rings (s : State) (c : Space) (d o : Nat) (b : List Byte) : (s.store c d o b).rings = s.rings := by unfold State.store; split <;> rfl
@[simp] theorem State.store_runs (s : State) (c : Space) (d o : Nat) (b : List Byte) : (s.store c d o b).runs = s.runs := by unfold State.store; split <;> rfl
@[simp] theorem State.store_ctxWait (s : State) (c : Space) (d o : Nat) (b : List Byte) : (s.store c d o b).ctxWait = s.ctxWait := by unfold State.store; split <;> rfl
@[simp] theorem State.store_arr (s : State) (c : Space) (d o : Nat) (b : List Byte) : (s.store c d o b).arr = s.arr := by unfold State.store; split <;> rfl
@[simp] theorem State.store_vec (s : State) (c : Space) (d o : Nat) (b : List Byte) : (s.store c d o b).vec = s.vec := by unfold State.store; split <;> rfl
@[simp] theorem State.store_log (s : State) (c : Space) (d o : Nat) (b : List Byte) : (s.store c d o b).log = s.log := by unfold State.store; split <;> rfl
@[simp] theorem State.store_merges (s : State) (c : Space) (d o : Nat) (b : List Byte) : (s.store c d o b).merges = s.merges := by unfold State.store; split <;> rfl
@[simp] theorem State.store_noticeRings (s : State) (c : Space) (d o : Nat) (b : List Byte) : (s.store c d o b).noticeRings = s.noticeRings := by unfold State.store; split <;> rfl
@[simp] theorem State.store_mapFuse (s : State) (c : Space) (d o : Nat) (b : List Byte) : (s.store c d o b).mapFuse = s.mapFuse := by unfold State.store; split <;> rfl
@[simp] theorem State.store_mapAlm (s : State) (c : Space) (d o : Nat) (b : List Byte) : (s.store c d o b).mapAlm = s.mapAlm := by unfold State.store; split <;> rfl
@[simp] theorem State.store_mapRun (s : State) (c : Space) (d o : Nat) (b : List Byte) : (s.store c d o b).mapRun = s.mapRun := by unfold State.store; split <;> rfl
@[simp] theorem State.store_helm (s : State) (c : Space) (d o : Nat) (b : List Byte) : (s.store c d o b).helm = s.helm := by unfold State.store; split <;> rfl
@[simp] theorem State.store_cells (s : State) (c : Space) (d o : Nat) (b : List Byte) : (s.store c d o b).cells = s.cells := by unfold State.store; split <;> rfl
@[simp] theorem State.store_rad (s : State) (c : Space) (d o : Nat) (b : List Byte) : (s.store c d o b).rad = s.rad := by unfold State.store; split <;> rfl
@[simp] theorem State.store_dma (s : State) (c : Space) (d o : Nat) (b : List Byte) : (s.store c d o b).dma = s.dma := by unfold State.store; split <;> rfl
@[simp] theorem State.store_dmaNext (s : State) (c : Space) (d o : Nat) (b : List Byte) : (s.store c d o b).dmaNext = s.dmaNext := by unfold State.store; split <;> rfl
@[simp] theorem State.store_quar (s : State) (c : Space) (d o : Nat) (b : List Byte) : (s.store c d o b).quar = s.quar := by unfold State.store; split <;> rfl
@[simp] theorem State.store_ats (s : State) (c : Space) (d o : Nat) (b : List Byte) : (s.store c d o b).ats = s.ats := by unfold State.store; split <;> rfl
@[simp] theorem State.store_evcs (s : State) (c : Space) (d o : Nat) (b : List Byte) : (s.store c d o b).evcs = s.evcs := by unfold State.store; split <;> rfl
@[simp] theorem State.store_fab (s : State) (c : Space) (d o : Nat) (b : List Byte) : (s.store c d o b).fab = s.fab := by unfold State.store; split <;> rfl
@[simp] theorem State.store_rhumb (s : State) (c : Space) (d o : Nat) (b : List Byte) : (s.store c d o b).rhumb = s.rhumb := by unfold State.store; split <;> rfl
@[simp] theorem State.store_scrub (s : State) (c : Space) (d o : Nat) (b : List Byte) : (s.store c d o b).scrub = s.scrub := by unfold State.store; split <;> rfl
@[simp] theorem State.store_hcounts (s : State) (c : Space) (d o : Nat) (b : List Byte) : (s.store c d o b).hcounts = s.hcounts := by unfold State.store; split <;> rfl
@[simp] theorem State.store_mbx (s : State) (c : Space) (d o : Nat) (b : List Byte) : (s.store c d o b).mbx = s.mbx := by unfold State.store; split <;> rfl
@[simp] theorem State.store_computeCause (s : State) (c : Space) (d o : Nat) (b : List Byte) : (s.store c d o b).computeCause = s.computeCause := by unfold State.store; split <;> rfl
@[simp] theorem State.store_eth (s : State) (c : Space) (d o : Nat) (b : List Byte) : (s.store c d o b).eth = s.eth := by unfold State.store; split <;> rfl
@[simp] theorem State.store_sas (s : State) (c : Space) (d o : Nat) (b : List Byte) : (s.store c d o b).sas = s.sas := by unfold State.store; split <;> rfl
@[simp] theorem State.store_sessions (s : State) (c : Space) (d o : Nat) (b : List Byte) : (s.store c d o b).sessions = s.sessions := by unfold State.store; split <;> rfl
@[simp] theorem State.store_hbmKeys (s : State) (c : Space) (d o : Nat) (b : List Byte) : (s.store c d o b).hbmKeys = s.hbmKeys := by unfold State.store; split <;> rfl
@[simp] theorem State.store_hbmUnder (s : State) (c : Space) (d o : Nat) (b : List Byte) : (s.store c d o b).hbmUnder = s.hbmUnder := by unfold State.store; split <;> rfl
@[simp] theorem State.store_mer (s : State) (c : Space) (d o : Nat) (b : List Byte) : (s.store c d o b).mer = s.mer := by unfold State.store; split <;> rfl
@[simp] theorem State.store_sxt (s : State) (c : Space) (d o : Nat) (b : List Byte) : (s.store c d o b).sxt = s.sxt := by unfold State.store; split <;> rfl
@[simp] theorem State.store_alm (s : State) (c : Space) (d o : Nat) (b : List Byte) : (s.store c d o b).alm = s.alm := by unfold State.store; split <;> rfl
@[simp] theorem State.store_pow (s : State) (c : Space) (d o : Nat) (b : List Byte) : (s.store c d o b).pow = s.pow := by unfold State.store; split <;> rfl

/-! ### A message sent. -/

@[simp] theorem State.send_now (s : State) (o : Out) : (s.send o).now = s.now := rfl
@[simp] theorem State.send_tai (s : State) (o : Out) : (s.send o).tai = s.tai := rfl
@[simp] theorem State.send_freeCtr (s : State) (o : Out) : (s.send o).freeCtr = s.freeCtr := rfl
@[simp] theorem State.send_regs (s : State) (o : Out) : (s.send o).regs = s.regs := rfl
@[simp] theorem State.send_cfg (s : State) (o : Out) : (s.send o).cfg = s.cfg := rfl
@[simp] theorem State.send_mem (s : State) (o : Out) : (s.send o).mem = s.mem := rfl
@[simp] theorem State.send_poison (s : State) (o : Out) : (s.send o).poison = s.poison := rfl
@[simp] theorem State.send_latent (s : State) (o : Out) : (s.send o).latent = s.latent := rfl
@[simp] theorem State.send_rewrites (s : State) (o : Out) : (s.send o).rewrites = s.rewrites := rfl
@[simp] theorem State.send_wrote (s : State) (o : Out) : (s.send o).wrote = s.wrote := rfl
@[simp] theorem State.send_extents (s : State) (o : Out) : (s.send o).extents = s.extents := rfl
@[simp] theorem State.send_readData (s : State) (o : Out) : (s.send o).readData = s.readData := rfl
@[simp] theorem State.send_insts (s : State) (o : Out) : (s.send o).insts = s.insts := rfl
@[simp] theorem State.send_rings (s : State) (o : Out) : (s.send o).rings = s.rings := rfl
@[simp] theorem State.send_charts (s : State) (o : Out) : (s.send o).charts = s.charts := rfl
@[simp] theorem State.send_runs (s : State) (o : Out) : (s.send o).runs = s.runs := rfl
@[simp] theorem State.send_ctxWait (s : State) (o : Out) : (s.send o).ctxWait = s.ctxWait := rfl
@[simp] theorem State.send_arr (s : State) (o : Out) : (s.send o).arr = s.arr := rfl
@[simp] theorem State.send_vec (s : State) (o : Out) : (s.send o).vec = s.vec := rfl
@[simp] theorem State.send_log (s : State) (o : Out) : (s.send o).log = s.log := rfl
@[simp] theorem State.send_merges (s : State) (o : Out) : (s.send o).merges = s.merges := rfl
@[simp] theorem State.send_noticeRings (s : State) (o : Out) : (s.send o).noticeRings = s.noticeRings := rfl
@[simp] theorem State.send_mapFuse (s : State) (o : Out) : (s.send o).mapFuse = s.mapFuse := rfl
@[simp] theorem State.send_mapAlm (s : State) (o : Out) : (s.send o).mapAlm = s.mapAlm := rfl
@[simp] theorem State.send_mapRun (s : State) (o : Out) : (s.send o).mapRun = s.mapRun := rfl
@[simp] theorem State.send_helm (s : State) (o : Out) : (s.send o).helm = s.helm := rfl
@[simp] theorem State.send_cells (s : State) (o : Out) : (s.send o).cells = s.cells := rfl
@[simp] theorem State.send_rad (s : State) (o : Out) : (s.send o).rad = s.rad := rfl
@[simp] theorem State.send_dma (s : State) (o : Out) : (s.send o).dma = s.dma := rfl
@[simp] theorem State.send_dmaNext (s : State) (o : Out) : (s.send o).dmaNext = s.dmaNext := rfl
@[simp] theorem State.send_quar (s : State) (o : Out) : (s.send o).quar = s.quar := rfl
@[simp] theorem State.send_ats (s : State) (o : Out) : (s.send o).ats = s.ats := rfl
@[simp] theorem State.send_evcs (s : State) (o : Out) : (s.send o).evcs = s.evcs := rfl
@[simp] theorem State.send_fab (s : State) (o : Out) : (s.send o).fab = s.fab := rfl
@[simp] theorem State.send_rhumb (s : State) (o : Out) : (s.send o).rhumb = s.rhumb := rfl
@[simp] theorem State.send_scrub (s : State) (o : Out) : (s.send o).scrub = s.scrub := rfl
@[simp] theorem State.send_hcounts (s : State) (o : Out) : (s.send o).hcounts = s.hcounts := rfl
@[simp] theorem State.send_mbx (s : State) (o : Out) : (s.send o).mbx = s.mbx := rfl
@[simp] theorem State.send_computeCause (s : State) (o : Out) : (s.send o).computeCause = s.computeCause := rfl
@[simp] theorem State.send_eth (s : State) (o : Out) : (s.send o).eth = s.eth := rfl
@[simp] theorem State.send_sas (s : State) (o : Out) : (s.send o).sas = s.sas := rfl
@[simp] theorem State.send_sessions (s : State) (o : Out) : (s.send o).sessions = s.sessions := rfl
@[simp] theorem State.send_hbmKeys (s : State) (o : Out) : (s.send o).hbmKeys = s.hbmKeys := rfl
@[simp] theorem State.send_hbmUnder (s : State) (o : Out) : (s.send o).hbmUnder = s.hbmUnder := rfl
@[simp] theorem State.send_mer (s : State) (o : Out) : (s.send o).mer = s.mer := rfl
@[simp] theorem State.send_sxt (s : State) (o : Out) : (s.send o).sxt = s.sxt := rfl
@[simp] theorem State.send_alm (s : State) (o : Out) : (s.send o).alm = s.alm := rfl
@[simp] theorem State.send_pow (s : State) (o : Out) : (s.send o).pow = s.pow := rfl

/-! ### Events counted. -/

@[simp] theorem State.count_now (s : State) (e : Nat) (d : Option Nat) (n : Nat) : (s.count e d n).now = s.now := rfl
@[simp] theorem State.count_tai (s : State) (e : Nat) (d : Option Nat) (n : Nat) : (s.count e d n).tai = s.tai := rfl
@[simp] theorem State.count_freeCtr (s : State) (e : Nat) (d : Option Nat) (n : Nat) : (s.count e d n).freeCtr = s.freeCtr := rfl
@[simp] theorem State.count_regs (s : State) (e : Nat) (d : Option Nat) (n : Nat) : (s.count e d n).regs = s.regs := rfl
@[simp] theorem State.count_cfg (s : State) (e : Nat) (d : Option Nat) (n : Nat) : (s.count e d n).cfg = s.cfg := rfl
@[simp] theorem State.count_mem (s : State) (e : Nat) (d : Option Nat) (n : Nat) : (s.count e d n).mem = s.mem := rfl
@[simp] theorem State.count_poison (s : State) (e : Nat) (d : Option Nat) (n : Nat) : (s.count e d n).poison = s.poison := rfl
@[simp] theorem State.count_latent (s : State) (e : Nat) (d : Option Nat) (n : Nat) : (s.count e d n).latent = s.latent := rfl
@[simp] theorem State.count_rewrites (s : State) (e : Nat) (d : Option Nat) (n : Nat) : (s.count e d n).rewrites = s.rewrites := rfl
@[simp] theorem State.count_wrote (s : State) (e : Nat) (d : Option Nat) (n : Nat) : (s.count e d n).wrote = s.wrote := rfl
@[simp] theorem State.count_extents (s : State) (e : Nat) (d : Option Nat) (n : Nat) : (s.count e d n).extents = s.extents := rfl
@[simp] theorem State.count_outs (s : State) (e : Nat) (d : Option Nat) (n : Nat) : (s.count e d n).outs = s.outs := rfl
@[simp] theorem State.count_readData (s : State) (e : Nat) (d : Option Nat) (n : Nat) : (s.count e d n).readData = s.readData := rfl
@[simp] theorem State.count_insts (s : State) (e : Nat) (d : Option Nat) (n : Nat) : (s.count e d n).insts = s.insts := rfl
@[simp] theorem State.count_rings (s : State) (e : Nat) (d : Option Nat) (n : Nat) : (s.count e d n).rings = s.rings := rfl
@[simp] theorem State.count_charts (s : State) (e : Nat) (d : Option Nat) (n : Nat) : (s.count e d n).charts = s.charts := rfl
@[simp] theorem State.count_runs (s : State) (e : Nat) (d : Option Nat) (n : Nat) : (s.count e d n).runs = s.runs := rfl
@[simp] theorem State.count_ctxWait (s : State) (e : Nat) (d : Option Nat) (n : Nat) : (s.count e d n).ctxWait = s.ctxWait := rfl
@[simp] theorem State.count_arr (s : State) (e : Nat) (d : Option Nat) (n : Nat) : (s.count e d n).arr = s.arr := rfl
@[simp] theorem State.count_vec (s : State) (e : Nat) (d : Option Nat) (n : Nat) : (s.count e d n).vec = s.vec := rfl
@[simp] theorem State.count_log (s : State) (e : Nat) (d : Option Nat) (n : Nat) : (s.count e d n).log = s.log := rfl
@[simp] theorem State.count_merges (s : State) (e : Nat) (d : Option Nat) (n : Nat) : (s.count e d n).merges = s.merges := rfl
@[simp] theorem State.count_noticeRings (s : State) (e : Nat) (d : Option Nat) (n : Nat) : (s.count e d n).noticeRings = s.noticeRings := rfl
@[simp] theorem State.count_mapFuse (s : State) (e : Nat) (d : Option Nat) (n : Nat) : (s.count e d n).mapFuse = s.mapFuse := rfl
@[simp] theorem State.count_mapAlm (s : State) (e : Nat) (d : Option Nat) (n : Nat) : (s.count e d n).mapAlm = s.mapAlm := rfl
@[simp] theorem State.count_mapRun (s : State) (e : Nat) (d : Option Nat) (n : Nat) : (s.count e d n).mapRun = s.mapRun := rfl
@[simp] theorem State.count_helm (s : State) (e : Nat) (d : Option Nat) (n : Nat) : (s.count e d n).helm = s.helm := rfl
@[simp] theorem State.count_cells (s : State) (e : Nat) (d : Option Nat) (n : Nat) : (s.count e d n).cells = s.cells := rfl
@[simp] theorem State.count_rad (s : State) (e : Nat) (d : Option Nat) (n : Nat) : (s.count e d n).rad = s.rad := rfl
@[simp] theorem State.count_dma (s : State) (e : Nat) (d : Option Nat) (n : Nat) : (s.count e d n).dma = s.dma := rfl
@[simp] theorem State.count_dmaNext (s : State) (e : Nat) (d : Option Nat) (n : Nat) : (s.count e d n).dmaNext = s.dmaNext := rfl
@[simp] theorem State.count_quar (s : State) (e : Nat) (d : Option Nat) (n : Nat) : (s.count e d n).quar = s.quar := rfl
@[simp] theorem State.count_ats (s : State) (e : Nat) (d : Option Nat) (n : Nat) : (s.count e d n).ats = s.ats := rfl
@[simp] theorem State.count_fab (s : State) (e : Nat) (d : Option Nat) (n : Nat) : (s.count e d n).fab = s.fab := rfl
@[simp] theorem State.count_rhumb (s : State) (e : Nat) (d : Option Nat) (n : Nat) : (s.count e d n).rhumb = s.rhumb := rfl
@[simp] theorem State.count_scrub (s : State) (e : Nat) (d : Option Nat) (n : Nat) : (s.count e d n).scrub = s.scrub := rfl
@[simp] theorem State.count_hcounts (s : State) (e : Nat) (d : Option Nat) (n : Nat) : (s.count e d n).hcounts = s.hcounts := rfl
@[simp] theorem State.count_mbx (s : State) (e : Nat) (d : Option Nat) (n : Nat) : (s.count e d n).mbx = s.mbx := rfl
@[simp] theorem State.count_computeCause (s : State) (e : Nat) (d : Option Nat) (n : Nat) : (s.count e d n).computeCause = s.computeCause := rfl
@[simp] theorem State.count_eth (s : State) (e : Nat) (d : Option Nat) (n : Nat) : (s.count e d n).eth = s.eth := rfl
@[simp] theorem State.count_sas (s : State) (e : Nat) (d : Option Nat) (n : Nat) : (s.count e d n).sas = s.sas := rfl
@[simp] theorem State.count_sessions (s : State) (e : Nat) (d : Option Nat) (n : Nat) : (s.count e d n).sessions = s.sessions := rfl
@[simp] theorem State.count_hbmKeys (s : State) (e : Nat) (d : Option Nat) (n : Nat) : (s.count e d n).hbmKeys = s.hbmKeys := rfl
@[simp] theorem State.count_hbmUnder (s : State) (e : Nat) (d : Option Nat) (n : Nat) : (s.count e d n).hbmUnder = s.hbmUnder := rfl
@[simp] theorem State.count_mer (s : State) (e : Nat) (d : Option Nat) (n : Nat) : (s.count e d n).mer = s.mer := rfl
@[simp] theorem State.count_sxt (s : State) (e : Nat) (d : Option Nat) (n : Nat) : (s.count e d n).sxt = s.sxt := rfl
@[simp] theorem State.count_alm (s : State) (e : Nat) (d : Option Nat) (n : Nat) : (s.count e d n).alm = s.alm := rfl
@[simp] theorem State.count_pow (s : State) (e : Nat) (d : Option Nat) (n : Nat) : (s.count e d n).pow = s.pow := rfl

/-! ### Health inputs counted. -/

@[simp] theorem State.health_now (s : State) (p i n : Nat) : (s.health p i n).now = s.now := rfl
@[simp] theorem State.health_tai (s : State) (p i n : Nat) : (s.health p i n).tai = s.tai := rfl
@[simp] theorem State.health_freeCtr (s : State) (p i n : Nat) : (s.health p i n).freeCtr = s.freeCtr := rfl
@[simp] theorem State.health_regs (s : State) (p i n : Nat) : (s.health p i n).regs = s.regs := rfl
@[simp] theorem State.health_cfg (s : State) (p i n : Nat) : (s.health p i n).cfg = s.cfg := rfl
@[simp] theorem State.health_mem (s : State) (p i n : Nat) : (s.health p i n).mem = s.mem := rfl
@[simp] theorem State.health_poison (s : State) (p i n : Nat) : (s.health p i n).poison = s.poison := rfl
@[simp] theorem State.health_latent (s : State) (p i n : Nat) : (s.health p i n).latent = s.latent := rfl
@[simp] theorem State.health_rewrites (s : State) (p i n : Nat) : (s.health p i n).rewrites = s.rewrites := rfl
@[simp] theorem State.health_wrote (s : State) (p i n : Nat) : (s.health p i n).wrote = s.wrote := rfl
@[simp] theorem State.health_extents (s : State) (p i n : Nat) : (s.health p i n).extents = s.extents := rfl
@[simp] theorem State.health_outs (s : State) (p i n : Nat) : (s.health p i n).outs = s.outs := rfl
@[simp] theorem State.health_readData (s : State) (p i n : Nat) : (s.health p i n).readData = s.readData := rfl
@[simp] theorem State.health_insts (s : State) (p i n : Nat) : (s.health p i n).insts = s.insts := rfl
@[simp] theorem State.health_rings (s : State) (p i n : Nat) : (s.health p i n).rings = s.rings := rfl
@[simp] theorem State.health_charts (s : State) (p i n : Nat) : (s.health p i n).charts = s.charts := rfl
@[simp] theorem State.health_runs (s : State) (p i n : Nat) : (s.health p i n).runs = s.runs := rfl
@[simp] theorem State.health_ctxWait (s : State) (p i n : Nat) : (s.health p i n).ctxWait = s.ctxWait := rfl
@[simp] theorem State.health_arr (s : State) (p i n : Nat) : (s.health p i n).arr = s.arr := rfl
@[simp] theorem State.health_vec (s : State) (p i n : Nat) : (s.health p i n).vec = s.vec := rfl
@[simp] theorem State.health_log (s : State) (p i n : Nat) : (s.health p i n).log = s.log := rfl
@[simp] theorem State.health_merges (s : State) (p i n : Nat) : (s.health p i n).merges = s.merges := rfl
@[simp] theorem State.health_noticeRings (s : State) (p i n : Nat) : (s.health p i n).noticeRings = s.noticeRings := rfl
@[simp] theorem State.health_mapFuse (s : State) (p i n : Nat) : (s.health p i n).mapFuse = s.mapFuse := rfl
@[simp] theorem State.health_mapAlm (s : State) (p i n : Nat) : (s.health p i n).mapAlm = s.mapAlm := rfl
@[simp] theorem State.health_mapRun (s : State) (p i n : Nat) : (s.health p i n).mapRun = s.mapRun := rfl
@[simp] theorem State.health_helm (s : State) (p i n : Nat) : (s.health p i n).helm = s.helm := rfl
@[simp] theorem State.health_cells (s : State) (p i n : Nat) : (s.health p i n).cells = s.cells := rfl
@[simp] theorem State.health_rad (s : State) (p i n : Nat) : (s.health p i n).rad = s.rad := rfl
@[simp] theorem State.health_dma (s : State) (p i n : Nat) : (s.health p i n).dma = s.dma := rfl
@[simp] theorem State.health_dmaNext (s : State) (p i n : Nat) : (s.health p i n).dmaNext = s.dmaNext := rfl
@[simp] theorem State.health_quar (s : State) (p i n : Nat) : (s.health p i n).quar = s.quar := rfl
@[simp] theorem State.health_ats (s : State) (p i n : Nat) : (s.health p i n).ats = s.ats := rfl
@[simp] theorem State.health_evcs (s : State) (p i n : Nat) : (s.health p i n).evcs = s.evcs := rfl
@[simp] theorem State.health_fab (s : State) (p i n : Nat) : (s.health p i n).fab = s.fab := rfl
@[simp] theorem State.health_rhumb (s : State) (p i n : Nat) : (s.health p i n).rhumb = s.rhumb := rfl
@[simp] theorem State.health_scrub (s : State) (p i n : Nat) : (s.health p i n).scrub = s.scrub := rfl
@[simp] theorem State.health_mbx (s : State) (p i n : Nat) : (s.health p i n).mbx = s.mbx := rfl
@[simp] theorem State.health_computeCause (s : State) (p i n : Nat) : (s.health p i n).computeCause = s.computeCause := rfl
@[simp] theorem State.health_eth (s : State) (p i n : Nat) : (s.health p i n).eth = s.eth := rfl
@[simp] theorem State.health_sas (s : State) (p i n : Nat) : (s.health p i n).sas = s.sas := rfl
@[simp] theorem State.health_sessions (s : State) (p i n : Nat) : (s.health p i n).sessions = s.sessions := rfl
@[simp] theorem State.health_hbmKeys (s : State) (p i n : Nat) : (s.health p i n).hbmKeys = s.hbmKeys := rfl
@[simp] theorem State.health_hbmUnder (s : State) (p i n : Nat) : (s.health p i n).hbmUnder = s.hbmUnder := rfl
@[simp] theorem State.health_mer (s : State) (p i n : Nat) : (s.health p i n).mer = s.mer := rfl
@[simp] theorem State.health_sxt (s : State) (p i n : Nat) : (s.health p i n).sxt = s.sxt := rfl
@[simp] theorem State.health_alm (s : State) (p i n : Nat) : (s.health p i n).alm = s.alm := rfl
@[simp] theorem State.health_pow (s : State) (p i n : Nat) : (s.health p i n).pow = s.pow := rfl

/-! ### What they write -/

@[simp] theorem State.setReg_regs (s : State) (a i : Nat) (v : Word) : (s.setReg a i v).regs = Tab.set s.regs (regKey a i) v := rfl
@[simp] theorem State.send_outs (s : State) (o : Out) : (s.send o).outs = o :: s.outs := rfl
@[simp] theorem State.advanceTo_now (s : State) (t : Nat) : (s.advanceTo t).now = max s.now t := rfl
@[simp] theorem State.wait_now (s : State) (d : Nat) : (s.wait d).now = max s.now (s.now + d) := rfl
@[simp] theorem State.fresh_freeCtr (s : State) (b : Nat) : (s.fresh b).2.freeCtr = s.freeCtr + 1 := rfl
@[simp] theorem State.freshBytes_freeCtr (s : State) (n : Nat) : (s.freshBytes n).2.freeCtr = s.freeCtr + 1 := rfl
@[simp] theorem State.store_mem (s : State) (c : Space) (d o : Nat) (b : List Byte) :
    (s.store c d o b).mem = Memory.writeBytes s.mem (memKey c d o) b := by unfold State.store; split <;> rfl

end Sys2Proof.Machine
end

