-- ==== Sys2Proof/Laws/Memory.lean ====
section
/-! SUPPORT. Tables, registers and memory: a read after a write gives the value written, a write leaves every other place alone, and
every memory operation keeps the canonical form. -/

namespace Sys2Proof

/-! ### Tables -/

@[simp] theorem Tab.get?_set_self {α : Type} (t : Tab α) (k : Nat) (v : α) : Tab.get? (Tab.set t k v) k = some v := by
  induction t with
  | nil => simp [Tab.set, Tab.get?]
  | cons e t ih =>
    unfold Tab.set
    split
    · simp [Tab.get?]
    · split
      · simp [Tab.get?]
      · rw [Tab.get?, if_neg ‹_›, ih]

theorem Tab.get?_set_ne {α : Type} (t : Tab α) (k j : Nat) (v : α) (h : j ≠ k) : Tab.get? (Tab.set t k v) j = Tab.get? t j := by
  induction t with
  | nil => simp [Tab.set, Tab.get?, Ne.symm h]
  | cons e t ih =>
    unfold Tab.set
    split
    · rename_i hk
      have h1 : ¬ k = j := fun x => h x.symm
      have h2 : ¬ e.1 = j := fun x => h1 (hk.symm.trans x)
      simp only [Tab.get?, if_neg h1, if_neg h2]
    · split
      · rw [Tab.get?, if_neg (Ne.symm h)]
      · simp only [Tab.get?, ih]

theorem Tab.getD_set_self {α : Type} (t : Tab α) (k : Nat) (v d : α) : Tab.getD (Tab.set t k v) k d = v := by
  rw [Tab.getD, Tab.get?_set_self, Option.getD_some]

theorem Tab.getD_set_ne {α : Type} (t : Tab α) (k j : Nat) (v d : α) (h : j ≠ k) :
    Tab.getD (Tab.set t k v) j d = Tab.getD t j d := by
  rw [Tab.getD, Tab.get?_set_ne t k j v h, Tab.getD]

theorem Tab.get?_del_ne {α : Type} (t : Tab α) (k j : Nat) (h : j ≠ k) : Tab.get? (Tab.del t k) j = Tab.get? t j := by
  induction t with
  | nil => rfl
  | cons e t ih =>
    unfold Tab.del
    split
    · rename_i hk
      have h2 : ¬ e.1 = j := fun x => h (x.symm.trans hk)
      simp only [Tab.get?, if_neg h2]
    · simp only [Tab.get?, ih]

namespace Machine

/-! ### Registers -/

theorem regKey_inj {a b i j : Nat} (ha : a < 2 ^ 40) (hb : b < 2 ^ 40) (h : regKey a i = regKey b j) : a = b ∧ i = j := by
  unfold regKey at h
  omega

/-- A register reads what was last written to it. -/
@[simp] theorem State.reg_setReg_self (s : State) (a i : Nat) (v : Word) : (s.setReg a i v).reg a i = v := by
  simp only [State.reg, State.setReg_regs, Tab.get?_set_self]

/-- A write of a register leaves every other register alone. -/
theorem State.reg_setReg_ne (s : State) (a b i j : Nat) (v : Word) (h : regKey b j ≠ regKey a i) :
    (s.setReg a i v).reg b j = s.reg b j := by
  have hr : (s.setReg a i v).resetWord b j = s.resetWord b j := rfl
  simp only [State.reg, State.setReg_regs, Tab.get?_set_ne _ _ _ _ h, hr]

/-- A field holds the number that was last written to it, cut to its width. -/
theorem Fld.get_put (f : Fld) (v : Word) (n : Nat) (hw : 0 < f.w) (h : f.lo + f.w ≤ 64) : f.get (f.put v n) = n % 2 ^ f.w := by
  have hv : v.toNat < 2 ^ 64 := v.isLt
  have hx : n % 2 ^ f.w < 2 ^ f.w := Nat.mod_lt _ (Nat.two_pow_pos _)
  have hg : f.lo + f.w - 1 + 1 - f.lo = f.w := by omega
  unfold Fld.put
  simp only [Fld.get, bits, hg, BitVec.toNat_ofNat, Nat.shiftRight_eq_div_pow]
  generalize hX : v.toNat = X at hv ⊢
  generalize n % 2 ^ f.w = Y at hx ⊢
  have h64 : 2 ^ 64 = 2 ^ f.lo * 2 ^ f.w * 2 ^ (64 - f.lo - f.w) := by
    rw [← pow_add, ← pow_add]; congr 1; omega
  have hdiv : X / 2 ^ f.lo = 2 ^ f.w * (X / 2 ^ f.lo / 2 ^ f.w) + X / 2 ^ f.lo % 2 ^ f.w := (Nat.div_add_mod _ _).symm
  generalize hA : X / 2 ^ f.lo / 2 ^ f.w = A at hdiv
  generalize hB : X / 2 ^ f.lo % 2 ^ f.w = B at hdiv ⊢
  have hX2 : X = 2 ^ f.lo * (2 ^ f.w * A + B) + X % 2 ^ f.lo := by
    rw [← hdiv]; exact (Nat.div_add_mod _ _).symm
  generalize hC : X % 2 ^ f.lo = C at hX2
  have hCl : C < 2 ^ f.lo := hC ▸ Nat.mod_lt _ (Nat.two_pow_pos _)
  have hsub : X - B * 2 ^ f.lo + Y * 2 ^ f.lo = 2 ^ f.lo * (2 ^ f.w * A + Y) + C := by
    have e1 : X = B * 2 ^ f.lo + (2 ^ f.lo * (2 ^ f.w * A) + C) := by rw [hX2]; ring
    rw [e1, Nat.add_sub_cancel_left]; ring
  rw [hsub]
  have hA2 : A < 2 ^ (64 - f.lo - f.w) := by
    rw [← hA, Nat.div_div_eq_div_mul]
    apply Nat.div_lt_of_lt_mul
    rw [← h64]; exact hv
  have hlt : 2 ^ f.lo * (2 ^ f.w * A + Y) + C < 2 ^ 64 := by
    rw [h64]
    have h1 : 2 ^ f.w * A + Y + 1 ≤ 2 ^ f.w * (A + 1) := by rw [Nat.mul_add]; omega
    have h2 : 2 ^ f.w * (A + 1) ≤ 2 ^ f.w * 2 ^ (64 - f.lo - f.w) := Nat.mul_le_mul_left _ hA2
    calc 2 ^ f.lo * (2 ^ f.w * A + Y) + C < 2 ^ f.lo * (2 ^ f.w * A + Y) + 2 ^ f.lo := by omega
      _ = 2 ^ f.lo * (2 ^ f.w * A + Y + 1) := by ring
      _ ≤ 2 ^ f.lo * (2 ^ f.w * 2 ^ (64 - f.lo - f.w)) := Nat.mul_le_mul_left _ (h1.trans h2)
      _ = _ := by ring
  rw [Nat.mod_eq_of_lt hlt, Nat.mul_add_div (Nat.two_pow_pos _), Nat.div_eq_of_lt hCl, Nat.add_zero, Nat.mul_add_mod,
    Nat.mod_eq_of_lt hx]

/-- What a write of a field keeps: what stands above it and below it. -/
theorem Fld.put_parts (f : Fld) (v : Word) (n : Nat) (h : f.lo + f.w ≤ 64) :
    (f.put v n).toNat / 2 ^ (f.lo + f.w) = v.toNat / 2 ^ (f.lo + f.w) ∧ (f.put v n).toNat % 2 ^ f.lo = v.toNat % 2 ^ f.lo ∨ f.w = 0 := by
  rcases Nat.eq_zero_or_pos f.w with hw | hw
  · exact .inr hw
  have hv : v.toNat < 2 ^ 64 := v.isLt
  have hx : n % 2 ^ f.w < 2 ^ f.w := Nat.mod_lt _ (Nat.two_pow_pos _)
  have hg : f.lo + f.w - 1 + 1 - f.lo = f.w := by omega
  unfold Fld.put
  simp only [Fld.get, bits, hg, BitVec.toNat_ofNat, Nat.shiftRight_eq_div_pow]
  generalize hX : v.toNat = X at hv ⊢
  generalize n % 2 ^ f.w = Y at hx ⊢
  have h64 : 2 ^ 64 = 2 ^ f.lo * 2 ^ f.w * 2 ^ (64 - f.lo - f.w) := by
    rw [← pow_add, ← pow_add]; congr 1; omega
  have hdiv : X / 2 ^ f.lo = 2 ^ f.w * (X / 2 ^ f.lo / 2 ^ f.w) + X / 2 ^ f.lo % 2 ^ f.w := (Nat.div_add_mod _ _).symm
  have hBl : X / 2 ^ f.lo % 2 ^ f.w < 2 ^ f.w := Nat.mod_lt _ (Nat.two_pow_pos _)
  generalize hA : X / 2 ^ f.lo / 2 ^ f.w = A at hdiv
  generalize hB : X / 2 ^ f.lo % 2 ^ f.w = B at hdiv hBl ⊢
  have hX2 : X = 2 ^ f.lo * (2 ^ f.w * A + B) + X % 2 ^ f.lo := by
    rw [← hdiv]; exact (Nat.div_add_mod _ _).symm
  generalize hC : X % 2 ^ f.lo = C at hX2
  have hCl : C < 2 ^ f.lo := hC ▸ Nat.mod_lt _ (Nat.two_pow_pos _)
  have hsub : X - B * 2 ^ f.lo + Y * 2 ^ f.lo = 2 ^ f.lo * (2 ^ f.w * A + Y) + C := by
    have e1 : X = B * 2 ^ f.lo + (2 ^ f.lo * (2 ^ f.w * A) + C) := by rw [hX2]; ring
    rw [e1, Nat.add_sub_cancel_left]; ring
  have hA2 : A < 2 ^ (64 - f.lo - f.w) := by
    rw [← hA, Nat.div_div_eq_div_mul]
    apply Nat.div_lt_of_lt_mul
    rw [← h64]; exact hv
  have hlt : 2 ^ f.lo * (2 ^ f.w * A + Y) + C < 2 ^ 64 := by
    rw [h64]
    have h1 : 2 ^ f.w * A + Y + 1 ≤ 2 ^ f.w * (A + 1) := by rw [Nat.mul_add]; omega
    have h2 : 2 ^ f.w * (A + 1) ≤ 2 ^ f.w * 2 ^ (64 - f.lo - f.w) := Nat.mul_le_mul_left _ hA2
    calc 2 ^ f.lo * (2 ^ f.w * A + Y) + C < 2 ^ f.lo * (2 ^ f.w * A + Y) + 2 ^ f.lo := by omega
      _ = 2 ^ f.lo * (2 ^ f.w * A + Y + 1) := by ring
      _ ≤ 2 ^ f.lo * (2 ^ f.w * 2 ^ (64 - f.lo - f.w)) := Nat.mul_le_mul_left _ (h1.trans h2)
      _ = _ := by ring
  have D : ∀ Z, Z < 2 ^ f.w → (2 ^ f.lo * (2 ^ f.w * A + Z) + C) / 2 ^ (f.lo + f.w) = A := by
    intro Z hZ
    rw [pow_add, ← Nat.div_div_eq_div_mul, Nat.mul_add_div (Nat.two_pow_pos _), Nat.div_eq_of_lt hCl, Nat.add_zero,
      Nat.mul_add_div (Nat.two_pow_pos _), Nat.div_eq_of_lt hZ, Nat.add_zero]
  have M : ∀ Z, (2 ^ f.lo * Z + C) % 2 ^ f.lo = C := by
    intro Z; rw [Nat.mul_add_mod, Nat.mod_eq_of_lt hCl]
  refine .inl ?_
  rw [hsub, Nat.mod_eq_of_lt hlt, D Y hx, M]
  refine ⟨?_, rfl⟩
  rw [hX2, D B hBl]

/-- A write of a field leaves a field beside it alone. -/
theorem Fld.get_put_ne (f g : Fld) (v : Word) (n : Nat) (hw : 0 < f.w) (hg : 0 < g.w) (h : f.lo + f.w ≤ 64)
    (d : f.lo + f.w ≤ g.lo ∨ g.lo + g.w ≤ f.lo) : g.get (f.put v n) = g.get v := by
  obtain ⟨h1, h2⟩ := (Fld.put_parts f v n h).resolve_right (by omega)
  have e : g.lo + g.w - 1 + 1 - g.lo = g.w := by omega
  simp only [Fld.get, bits, e, Nat.shiftRight_eq_div_pow]
  rcases d with d | d
  · have : 2 ^ g.lo = 2 ^ (f.lo + f.w) * 2 ^ (g.lo - (f.lo + f.w)) := by rw [← pow_add]; congr 1; omega
    rw [this, ← Nat.div_div_eq_div_mul, ← Nat.div_div_eq_div_mul, h1]
  · have k : ∀ X : Nat, X / 2 ^ g.lo % 2 ^ g.w = X % 2 ^ f.lo / 2 ^ g.lo % 2 ^ g.w := by
      intro X
      have p : 2 ^ f.lo = 2 ^ g.lo * 2 ^ (f.lo - g.lo) := by rw [← pow_add]; congr 1; omega
      have q : 2 ^ g.w ∣ 2 ^ (f.lo - g.lo) := pow_dvd_pow 2 (by omega)
      rw [p, Nat.mod_mul_right_div_self, Nat.mod_mod_of_dvd _ q]
    rw [k, k v.toNat, h2]

theorem State.fld_setFld_self (s : State) (f : Fld) (n i : Nat) (hw : 0 < f.w) (h : f.lo + f.w ≤ 64) :
    (s.setFld f n i).fld f i = n % 2 ^ f.w := by
  unfold State.fld State.setFld
  rw [State.reg_setReg_self, Fld.get_put f _ n hw h]

theorem State.reg_setFld_ne (s : State) (f : Fld) (n i b j : Nat) (h : regKey b j ≠ regKey f.reg i) :
    (s.setFld f n i).reg b j = s.reg b j := State.reg_setReg_ne s _ _ _ _ _ h

/-- A write of a field leaves the fields of other registers alone. -/
theorem State.fld_setFld_ne (s : State) (f g : Fld) (n i j : Nat) (h : regKey g.reg j ≠ regKey f.reg i) :
    (s.setFld f n i).fld g j = s.fld g j := by
  unfold State.fld; rw [State.reg_setFld_ne s f n i g.reg j h]

/-- A write of a field leaves the other fields of its register alone. -/
theorem State.fld_setFld_beside (s : State) (f g : Fld) (n i : Nat) (e : g.reg = f.reg) (hw : 0 < f.w) (hg : 0 < g.w)
    (h : f.lo + f.w ≤ 64) (d : f.lo + f.w ≤ g.lo ∨ g.lo + g.w ≤ f.lo) : (s.setFld f n i).fld g i = s.fld g i := by
  unfold State.fld State.setFld
  rw [e, State.reg_setReg_self, Fld.get_put_ne f g _ n hw hg h d]

/-! ### Memory -/

theorem Memory.wf_cons (c : Host.Cell) (m : List Host.Cell) :
    Memory.wf (c :: m) = true ↔ c.2 ≠ Memory.unlisted ∧ (∀ x ∈ m.head?, c.1 < x.1) ∧ Memory.wf m = true := by
  cases m with
  | nil => simp [Memory.wf]
  | cons d m => simp [Memory.wf, and_assoc]

theorem Memory.wf_tail {c : Host.Cell} {m : List Host.Cell} (h : Memory.wf (c :: m) = true) : Memory.wf m = true :=
  ((Memory.wf_cons c m).1 h).2.2

/-- In canonical form every later key is greater. -/
theorem Memory.wf_lt {c : Host.Cell} {m : List Host.Cell} (h : Memory.wf (c :: m) = true) : ∀ x ∈ m, c.1 < x.1 := by
  induction m generalizing c with
  | nil => intro x hx; cases hx
  | cons d m ih =>
    have h' := (Memory.wf_cons c (d :: m)).1 h
    have hd : c.1 < d.1 := h'.2.1 d rfl
    intro x hx
    rcases List.mem_cons.1 hx with rfl | hx
    · exact hd
    · exact hd.trans (ih h'.2.2 x hx)

theorem Memory.wf_del (m : List Host.Cell) (k : Nat) (h : Memory.wf m = true) : Memory.wf (Tab.del m k) = true := by
  induction m with
  | nil => rfl
  | cons c m ih =>
    have h' := (Memory.wf_cons c m).1 h
    unfold Tab.del
    split
    · exact h'.2.2
    · refine (Memory.wf_cons _ _).2 ⟨h'.1, ?_, ih h'.2.2⟩
      intro x hx
      have hx' : x ∈ Tab.del m k := List.mem_of_mem_head? hx
      have : ∀ (l : List Host.Cell), x ∈ Tab.del l k → x ∈ l := by
        intro l
        induction l with
        | nil => intro y; exact y
        | cons d l ihl =>
          unfold Tab.del
          split
          · exact List.mem_cons_of_mem _
          · intro y
            rcases List.mem_cons.1 y with rfl | y
            · exact List.mem_cons_self
            · exact List.mem_cons_of_mem _ (ihl y)
      exact Memory.wf_lt h x (this m hx')

theorem Memory.head_set (m : List Host.Cell) (k : Nat) (b : Byte) (x : Host.Cell) (hx : x ∈ (Tab.set m k b).head?) :
    x = (k, b) ∨ x ∈ m.head? := by
  cases m with
  | nil =>
    simp only [Tab.set, List.head?_cons, Option.mem_def, Option.some.injEq] at hx
    exact Or.inl hx.symm
  | cons c m =>
    simp only [Tab.set] at hx
    split at hx
    · simp only [List.head?_cons, Option.mem_def, Option.some.injEq] at hx
      exact Or.inl hx.symm
    · split at hx
      · simp only [List.head?_cons, Option.mem_def, Option.some.injEq] at hx
        exact Or.inl hx.symm
      · simp only [List.head?_cons, Option.mem_def, Option.some.injEq] at hx
        exact Or.inr (by simp [← hx])

theorem Memory.wf_set (m : List Host.Cell) (k : Nat) (b : Byte) (hb : b ≠ Memory.unlisted) (h : Memory.wf m = true) :
    Memory.wf (Tab.set m k b) = true := by
  induction m with
  | nil => exact (Memory.wf_cons (k, b) []).2 ⟨hb, by simp, rfl⟩
  | cons c m ih =>
    have h' := (Memory.wf_cons c m).1 h
    unfold Tab.set
    split
    · rename_i hk
      exact (Memory.wf_cons (k, b) m).2 ⟨hb, fun x hx => by rw [← hk]; exact h'.2.1 x hx, h'.2.2⟩
    · split
      · rename_i hlt
        exact (Memory.wf_cons (k, b) _).2 ⟨hb, by simpa using hlt, h⟩
      · rename_i hne hlt
        refine (Memory.wf_cons _ _).2 ⟨h'.1, ?_, ih h'.2.2⟩
        intro x hx
        rcases Memory.head_set m k b x hx with rfl | hx
        · exact Nat.lt_of_le_of_ne (Nat.le_of_not_lt hlt) hne
        · exact h'.2.1 x hx

/-- One byte written keeps the canonical form. -/
theorem Memory.wf_write (m : List Host.Cell) (k : Nat) (b : Byte) (h : Memory.wf m = true) : Memory.wf (Memory.write m k b) = true := by
  unfold Memory.write
  split
  · exact Memory.wf_del m k h
  · exact Memory.wf_set m k b ‹_› h

/-- Bytes written keep the canonical form. -/
theorem Memory.wf_writeBytes (m : List Host.Cell) (k : Nat) (l : List Byte) (h : Memory.wf m = true) :
    Memory.wf (Memory.writeBytes m k l) = true := by
  induction l generalizing m k with
  | nil => exact h
  | cons b l ih => exact ih _ _ (Memory.wf_write m k b h)

/-- Keys taken out keep the canonical form. -/
theorem Memory.wf_filter (m : List Host.Cell) (p : Host.Cell → Bool) (h : Memory.wf m = true) : Memory.wf (m.filter p) = true := by
  induction m with
  | nil => rfl
  | cons c m ih =>
    have h' := (Memory.wf_cons c m).1 h
    rw [List.filter_cons]
    split
    · refine (Memory.wf_cons _ _).2 ⟨h'.1, ?_, ih h'.2.2⟩
      intro x hx
      exact Memory.wf_lt h x (List.mem_of_mem_filter (List.mem_of_mem_head? hx))
    · exact ih h'.2.2

theorem Memory.wf_drop (m : List Host.Cell) (p : Nat → Bool) (h : Memory.wf m = true) : Memory.wf (Memory.drop m p) = true :=
  Memory.wf_filter m _ h

/-- A key that no later entry has is not found. -/
theorem Memory.get?_none (m : List Host.Cell) (k : Nat) (h : ∀ x ∈ m, x.1 ≠ k) : Tab.get? m k = none := by
  induction m with
  | nil => rfl
  | cons c m ih =>
    rw [Tab.get?, if_neg (h c List.mem_cons_self)]
    exact ih fun x hx => h x (List.mem_cons_of_mem _ hx)

theorem Memory.get?_del_self (m : List Host.Cell) (k : Nat) (h : Memory.wf m = true) : Tab.get? (Tab.del m k) k = none := by
  induction m with
  | nil => rfl
  | cons c m ih =>
    unfold Tab.del
    split
    · rename_i hk
      exact Memory.get?_none m k fun x hx => by have := Memory.wf_lt h x hx; omega
    · rename_i hk
      rw [Tab.get?, if_neg hk]
      exact ih (Memory.wf_tail h)

/-- A read after a write to the same key gives the byte written. -/
theorem Memory.read_write_self (m : List Host.Cell) (k : Nat) (b : Byte) (h : Memory.wf m = true) :
    Memory.read (Memory.write m k b) k = b := by
  unfold Memory.write Memory.read
  split
  · rename_i hb
    rw [Tab.getD, Memory.get?_del_self m k h, hb, Option.getD_none]
  · rw [Tab.getD_set_self]

/-- A write leaves every other byte alone. -/
theorem Memory.read_write_ne (m : List Host.Cell) (k j : Nat) (b : Byte) (h : j ≠ k) :
    Memory.read (Memory.write m k b) j = Memory.read m j := by
  unfold Memory.write Memory.read
  split
  · rw [Tab.getD, Tab.get?_del_ne m k j h, Tab.getD]
  · rw [Tab.getD_set_ne _ _ _ _ _ h]

/-- Bytes written leave every byte outside them alone. -/
theorem Memory.read_writeBytes_out (m : List Host.Cell) (k j : Nat) (l : List Byte) (h : j < k ∨ k + l.length ≤ j) :
    Memory.read (Memory.writeBytes m k l) j = Memory.read m j := by
  induction l generalizing m k with
  | nil => rfl
  | cons b l ih =>
    simp only [List.length_cons] at h
    rw [Memory.writeBytes, ih _ _ (by omega), Memory.read_write_ne _ _ _ _ (by omega)]

/-- Bytes written are read back. -/
theorem Memory.read_writeBytes_in (m : List Host.Cell) (k i : Nat) (l : List Byte) (hw : Memory.wf m = true) (h : i < l.length) :
    Memory.read (Memory.writeBytes m k l) (k + i) = l.getD i 0 := by
  induction l generalizing m k i with
  | nil => exact absurd h (Nat.not_lt_zero _)
  | cons b l ih =>
    rw [Memory.writeBytes]
    cases i with
    | zero =>
      show Memory.read (Memory.writeBytes (Memory.write m k b) (k + 1) l) k = b
      rw [Memory.read_writeBytes_out _ (k + 1) k _ (Or.inl (Nat.lt_succ_self k)), Memory.read_write_self _ _ _ hw]
    | succ i =>
      rw [show k + (i + 1) = k + 1 + i by omega, ih _ _ _ (Memory.wf_write _ _ _ hw) (by simpa using h)]
      rfl


end Machine

end Sys2Proof
end

