-- ==== Sys2Proof/Laws/Frames.lean ====
section
/-! SUPPORT. What each operation and each command may change: for each of them the set of the parts of the state that it may write,
  with the waiting commands kept and the memory left in its canonical form. -/

namespace Sys2Proof.Machine

set_option Elab.async false

/-! ### Sets of parts, and a state that differs from another in them alone -/

/-- Parts of the state that an operation may change: the memory, the cells, the Meridian, the domain keys, the runs, the fabric. -/
structure Changes where
  mem : Bool := false
  cells : Bool := false
  mer : Bool := false
  keys : Bool := false
  runs : Bool := false
  fab : Bool := false
deriving DecidableEq, Repr

/-- Every part of one set is in another. -/
def Changes.le (d c : Changes) : Bool :=
  (!d.mem || c.mem) && (!d.cells || c.cells) && (!d.mer || c.mer) && (!d.keys || c.keys) && (!d.runs || c.runs) && (!d.fab || c.fab)

theorem Changes.none_le (c : Changes) : Changes.le {} c = true := by simp [Changes.le]

theorem Changes.le_refl (c : Changes) : c.le c = true := by simp [Changes.le]

/-- A state reached from another by changes within a set: the queue is kept, the memory stays in its form, and no other part of the
six changes. -/
structure Frame (c : Changes) (s t : State) : Prop where
  pending : t.pending = s.pending
  wf : Memory.wf s.mem = true → Memory.wf t.mem = true
  mem : c.mem = false → t.mem = s.mem
  cells : c.cells = false → t.cells = s.cells
  mer : c.mer = false → t.mer = s.mer
  keys : c.keys = false → t.hbmKeys = s.hbmKeys
  runs : c.runs = false → t.runs = s.runs
  fab : c.fab = false → t.fab = s.fab

/-- The same for what an operation answers when it answers a state, a state with a value beside it, or the next state of a command. -/
structure FrameO (c : Changes) (s : State) (o : Option State) : Prop where
  at_ : ∀ t, o = some t → Frame c s t
structure FrameO1 {α : Type} (c : Changes) (s : State) (o : Option (State × α)) : Prop where
  at_ : ∀ t, o = some t → Frame c s t.1
structure FrameN (c : Changes) (s : State) (o : Host.Outcome State Fault Refusal) : Prop where
  at_ : ∀ t, o = .next t → Frame c s t

theorem Frame.refl {c : Changes} (s : State) : Frame c s s :=
  ⟨rfl, id, fun _ => rfl, fun _ => rfl, fun _ => rfl, fun _ => rfl, fun _ => rfl, fun _ => rfl⟩

/-- A further operation whose changes lie within the set. -/
theorem Frame.step {d c : Changes} {s u t : State} (h : Frame d u t) (k : Frame c s u) (hd : d.le c = true := by decide) : Frame c s t := by
  simp only [Changes.le, Bool.and_eq_true, Bool.or_eq_true, Bool.not_eq_true'] at hd
  obtain ⟨⟨⟨⟨⟨h1, h2⟩, h3⟩, h4⟩, h5⟩, h6⟩ := hd
  exact ⟨h.pending.trans k.pending, fun w => h.wf (k.wf w),
    fun e => (h.mem (h1.resolve_right (by rw [e]; decide))).trans (k.mem e),
    fun e => (h.cells (h2.resolve_right (by rw [e]; decide))).trans (k.cells e),
    fun e => (h.mer (h3.resolve_right (by rw [e]; decide))).trans (k.mer e),
    fun e => (h.keys (h4.resolve_right (by rw [e]; decide))).trans (k.keys e),
    fun e => (h.runs (h5.resolve_right (by rw [e]; decide))).trans (k.runs e),
    fun e => (h.fab (h6.resolve_right (by rw [e]; decide))).trans (k.fab e)⟩

/-- What is said of an intermediate state may be used for the last. -/
theorem Frame.withVar {c : Changes} {s t : State} (x : State) (h : Frame c s x) (k : Frame c s x → Frame c s t) : Frame c s t := k h
theorem FrameO.withVar {c : Changes} {s : State} {o : Option State} (x : State) (h : Frame c s x) (k : Frame c s x → FrameO c s o) :
    FrameO c s o := k h
theorem FrameO1.withVar {α : Type} {c : Changes} {s : State} {o : Option (State × α)} (x : State) (h : Frame c s x)
    (k : Frame c s x → FrameO1 c s o) : FrameO1 c s o := k h
theorem FrameN.withVar {c : Changes} {s : State} {o : Host.Outcome State Fault Refusal} (x : State) (h : Frame c s x)
    (k : Frame c s x → FrameN c s o) : FrameN c s o := k h

theorem Frame.ite {c : Changes} {s a b : State} {p : Prop} [Decidable p] (ha : Frame c s a) (hb : Frame c s b) :
    Frame c s (if p then a else b) := by split <;> assumption
theorem Frame.ite1 {α : Type} {c : Changes} {s : State} {a b : State × α} {p : Prop} [Decidable p] (ha : Frame c s a.1)
    (hb : Frame c s b.1) : Frame c s (if p then a else b).1 := by split <;> assumption
theorem Frame.ite2 {α : Type} {c : Changes} {s : State} {a b : α × State} {p : Prop} [Decidable p] (ha : Frame c s a.2)
    (hb : Frame c s b.2) : Frame c s (if p then a else b).2 := by split <;> assumption
theorem Frame.ite22 {α β : Type} {c : Changes} {s : State} {a b : α × β × State} {p : Prop} [Decidable p] (ha : Frame c s a.2.2)
    (hb : Frame c s b.2.2) : Frame c s (if p then a else b).2.2 := by split <;> assumption

theorem Frame.fst {α : Type} {c : Changes} {s a : State} {x : α} (h : Frame c s a) : Frame c s (a, x).1 := h
theorem Frame.snd {α : Type} {c : Changes} {s a : State} {x : α} (h : Frame c s a) : Frame c s (x, a).2 := h

theorem Frame.foldl {α : Type} {c : Changes} {f : State → α → State} {l : List α} {s u : State} (hf : ∀ t x, Frame c t (f t x))
    (h : Frame c s u) : Frame c s (l.foldl f u) := by
  induction l generalizing u with
  | nil => exact h
  | cons x l ih => exact ih (Frame.step (hf u x) h (Changes.le_refl c))
theorem Frame.foldl1 {α β : Type} {c : Changes} {f : State × β → α → State × β} {l : List α} {s : State} {u : State × β}
    (hf : ∀ t x, Frame c t.1 (f t x).1) (h : Frame c s u.1) : Frame c s (l.foldl f u).1 := by
  induction l generalizing u with
  | nil => exact h
  | cons x l ih => exact ih (Frame.step (hf u x) h (Changes.le_refl c))
theorem Frame.foldl2 {α β : Type} {c : Changes} {f : β × State → α → β × State} {l : List α} {s : State} {u : β × State}
    (hf : ∀ t x, Frame c t.2 (f t x).2) (h : Frame c s u.2) : Frame c s (l.foldl f u).2 := by
  induction l generalizing u with
  | nil => exact h
  | cons x l ih => exact ih (Frame.step (hf u x) h (Changes.le_refl c))

theorem Frame.trans {c : Changes} {s u t : State} (h : Frame c u t) (k : Frame c s u) : Frame c s t := Frame.step h k (Changes.le_refl c)
theorem Frame.ofFst {α : Type} {c : Changes} {s t : State} {p : State × α} {x : α} (e : p = (t, x)) (h : Frame c s p.1) :
    Frame c s t := by
  rw [e] at h; exact h
theorem Frame.ofSnd {α : Type} {c : Changes} {s t : State} {p : α × State} {x : α} (e : p = (x, t)) (h : Frame c s p.2) :
    Frame c s t := by
  rw [e] at h; exact h

/-- An operation that changes none of the parts. -/
theorem Frame.step0 {c : Changes} {s u t : State} (h : Frame {} u t) (k : Frame c s u) : Frame c s t := Frame.step h k (Changes.none_le c)

theorem FrameO.get {c : Changes} {s t : State} {o : Option State} (e : o = some t) (h : FrameO c s o) : Frame c s t := h.at_ t e
theorem FrameO1.get {α : Type} {c : Changes} {s : State} {t : State × α} {o : Option (State × α)} (e : o = some t)
    (h : FrameO1 c s o) : Frame c s t.1 := h.at_ t e
theorem FrameO1.get2 {α : Type} {c : Changes} {s t : State} {x : α} {o : Option (State × α)} (e : o = some (t, x))
    (h : FrameO1 c s o) : Frame c s t := h.at_ (t, x) e
theorem Frame.getD {c : Changes} {s d : State} {o : Option State} (h : FrameO c s o) (hd : Frame c s d) : Frame c s (o.getD d) := by
  cases o with
  | none => exact hd
  | some t => exact h.at_ t rfl
theorem FrameO.map {α : Type} {c : Changes} {s : State} {o : Option α} {f : α → State} (h : ∀ x, Frame c s (f x)) :
    FrameO c s (o.map f) := by
  cases o with
  | none => exact ⟨fun t e => by rw [Option.map_none] at e; cases e⟩
  | some x => exact ⟨fun t e => by rw [Option.map_some] at e; cases e; exact h x⟩
theorem FrameO.step {d c : Changes} {s u : State} {o : Option State} (h : FrameO d u o) (k : Frame c s u) (hd : d.le c = true := by decide)
    :
    FrameO c s o := ⟨fun t e => Frame.step (h.at_ t e) k hd⟩
theorem FrameO1.step {α : Type} {d c : Changes} {s u : State} {o : Option (State × α)} (h : FrameO1 d u o) (k : Frame c s u)
    (hd : d.le c = true := by decide) : FrameO1 c s o := ⟨fun t e => Frame.step (h.at_ t e) k hd⟩
theorem FrameN.step {d c : Changes} {s u : State} {o : Host.Outcome State Fault Refusal} (h : FrameN d u o) (k : Frame c s u)
    (hd : d.le c = true := by decide) : FrameN c s o := ⟨fun t e => Frame.step (h.at_ t e) k hd⟩
theorem FrameO.none {c : Changes} {s : State} : FrameO c s none := ⟨fun _ e => nomatch e⟩
theorem FrameO.some {c : Changes} {s t : State} (h : Frame c s t) : FrameO c s (some t) := ⟨fun _ e => Option.some.inj e ▸ h⟩
theorem FrameO.ite {c : Changes} {s : State} {a b : Option State} {p : Prop} [Decidable p] (ha : FrameO c s a) (hb : FrameO c s b) :
    FrameO c s (if p then a else b) := by split <;> assumption
theorem FrameO1.none {α : Type} {c : Changes} {s : State} : FrameO1 (α := α) c s none := ⟨fun _ e => nomatch e⟩
theorem FrameO1.some {α : Type} {c : Changes} {s : State} {t : State × α} (h : Frame c s t.1) : FrameO1 c s (some t) :=
  ⟨fun _ e => Option.some.inj e ▸ h⟩
theorem FrameO1.ite {α : Type} {c : Changes} {s : State} {a b : Option (State × α)} {p : Prop} [Decidable p] (ha : FrameO1 c s a)
    (hb : FrameO1 c s b) : FrameO1 c s (if p then a else b) := by split <;> assumption
theorem FrameN.next {c : Changes} {s t : State} (h : Frame c s t) : FrameN c s (.next t) := ⟨fun _ e => Host.Outcome.next.inj e ▸ h⟩
theorem FrameN.ite {c : Changes} {s : State} {a b : Host.Outcome State Fault Refusal} {p : Prop} [Decidable p] (ha : FrameN c s a)
    (hb : FrameN c s b) : FrameN c s (if p then a else b) := by split <;> assumption

/-- A list of byte ranges written leaves the memory in its form. -/
theorem Memory.wf_writes {α : Type} (k : α → Nat) (b : α → List Byte) (l : List α) (m : List Host.Cell) (h : Memory.wf m = true) :
    Memory.wf (l.foldl (fun m p => Memory.writeBytes m (k p) (b p)) m) = true := by
  induction l generalizing m with
  | nil => exact h
  | cons x l ih => exact ih _ (Memory.wf_writeBytes _ _ _ h)

/-- A record update of a state whose memory stays. -/
theorem Frame.record {c : Changes} {s u : State} {pending : List Sys2Proof.Instr} {now : Nat} {tai : Nat} {freeCtr : Nat} {regs :
    Sys2Proof.Tab Sys2Proof.Word} {cfg : Sys2Proof.Tab Sys2Proof.Word} {mem : List Host.Cell} {poison : List Nat} {latent : List (Nat ×
    Bool)} {rewrites : List Nat} {wrote : List Nat} {extents : Sys2Proof.Tab Sys2Proof.Machine.Extent} {outs : List Sys2Proof.Machine.Out}
    {readData : Sys2Proof.Word} {insts : Sys2Proof.Tab Sys2Proof.Machine.Inst} {rings : Sys2Proof.Tab Sys2Proof.Machine.Ring} {charts :
    Sys2Proof.Tab Sys2Proof.Machine.Chart} {runs : Sys2Proof.Tab Sys2Proof.Machine.Run} {ctxWait : List Sys2Proof.Machine.CtxWaiter} {arr :
    Sys2Proof.Machine.ArrUnit} {vec : Sys2Proof.Machine.VecUnit} {log : Sys2Proof.Machine.LogUnit} {merges : List
    Sys2Proof.Machine.FaultMerge} {noticeRings : Sys2Proof.Tab Nat} {mapFuse : Sys2Proof.Tab Nat} {mapAlm : Sys2Proof.Tab Nat} {mapRun :
    Sys2Proof.Tab Nat} {helm : Sys2Proof.Machine.HelmUnit} {cells : Sys2Proof.Tab Sys2Proof.Machine.Cell} {rad : Sys2Proof.Machine.RadUnit}
    {dma : Sys2Proof.Tab Sys2Proof.Machine.DmaJob} {dmaNext : Nat} {quar : List Sys2Proof.Machine.Quarantine} {ats : List (Nat × Nat)}
    {evcs : Sys2Proof.Tab Sys2Proof.Machine.Evc} {fab : Sys2Proof.Machine.FabUnit} {rhumb : Sys2Proof.Tab Sys2Proof.Machine.RhumbPort}
    {scrub : Sys2Proof.Machine.ScrubUnit} {hcounts : Sys2Proof.Tab Nat} {mbx : Option Sys2Proof.Machine.MbxWait} {computeCause : Option
    Nat} {eth : Sys2Proof.Machine.EthUnit} {sas : Sys2Proof.Tab Sys2Proof.Machine.MacSa} {sessions : Sys2Proof.Tab
    Sys2Proof.Machine.Session} {hbmKeys : Sys2Proof.Tab Nat} {hbmUnder : Sys2Proof.Tab Nat} {mer : Sys2Proof.Machine.MerUnit} {sxt :
    Sys2Proof.Machine.SxtUnit} {alm : Sys2Proof.Machine.AlmUnit} {pow : Sys2Proof.Machine.PowUnit}
    (k : Frame c s u) (hp : pending = u.pending) (hm : mem = u.mem)
    (h0 : c.cells = true ∨ cells = u.cells)
    (h1 : c.mer = true ∨ mer = u.mer)
    (h2 : c.keys = true ∨ hbmKeys = u.hbmKeys)
    (h3 : c.runs = true ∨ runs = u.runs)
    (h4 : c.fab = true ∨ fab = u.fab) :
    Frame c s (State.mk pending now tai freeCtr regs cfg mem poison latent rewrites wrote extents outs readData insts rings charts runs
        ctxWait arr vec log merges noticeRings mapFuse mapAlm mapRun helm cells rad dma dmaNext quar ats evcs fab rhumb scrub hcounts mbx
        computeCause eth sas sessions hbmKeys hbmUnder mer sxt alm pow) :=
  ⟨hp.trans k.pending, fun w => hm ▸ k.wf w, fun e => hm.trans (k.mem e),
    fun e => (h0.resolve_left (by rw [e]; decide)).trans (k.cells e),
    fun e => (h1.resolve_left (by rw [e]; decide)).trans (k.mer e),
    fun e => (h2.resolve_left (by rw [e]; decide)).trans (k.keys e),
    fun e => (h3.resolve_left (by rw [e]; decide)).trans (k.runs e),
    fun e => (h4.resolve_left (by rw [e]; decide)).trans (k.fab e)⟩

/-- A record update of a state that writes the memory. -/
theorem Frame.recordMem {c : Changes} {s u : State} {pending : List Sys2Proof.Instr} {now : Nat} {tai : Nat} {freeCtr : Nat} {regs :
    Sys2Proof.Tab Sys2Proof.Word} {cfg : Sys2Proof.Tab Sys2Proof.Word} {mem : List Host.Cell} {poison : List Nat} {latent : List (Nat ×
    Bool)} {rewrites : List Nat} {wrote : List Nat} {extents : Sys2Proof.Tab Sys2Proof.Machine.Extent} {outs : List Sys2Proof.Machine.Out}
    {readData : Sys2Proof.Word} {insts : Sys2Proof.Tab Sys2Proof.Machine.Inst} {rings : Sys2Proof.Tab Sys2Proof.Machine.Ring} {charts :
    Sys2Proof.Tab Sys2Proof.Machine.Chart} {runs : Sys2Proof.Tab Sys2Proof.Machine.Run} {ctxWait : List Sys2Proof.Machine.CtxWaiter} {arr :
    Sys2Proof.Machine.ArrUnit} {vec : Sys2Proof.Machine.VecUnit} {log : Sys2Proof.Machine.LogUnit} {merges : List
    Sys2Proof.Machine.FaultMerge} {noticeRings : Sys2Proof.Tab Nat} {mapFuse : Sys2Proof.Tab Nat} {mapAlm : Sys2Proof.Tab Nat} {mapRun :
    Sys2Proof.Tab Nat} {helm : Sys2Proof.Machine.HelmUnit} {cells : Sys2Proof.Tab Sys2Proof.Machine.Cell} {rad : Sys2Proof.Machine.RadUnit}
    {dma : Sys2Proof.Tab Sys2Proof.Machine.DmaJob} {dmaNext : Nat} {quar : List Sys2Proof.Machine.Quarantine} {ats : List (Nat × Nat)}
    {evcs : Sys2Proof.Tab Sys2Proof.Machine.Evc} {fab : Sys2Proof.Machine.FabUnit} {rhumb : Sys2Proof.Tab Sys2Proof.Machine.RhumbPort}
    {scrub : Sys2Proof.Machine.ScrubUnit} {hcounts : Sys2Proof.Tab Nat} {mbx : Option Sys2Proof.Machine.MbxWait} {computeCause : Option
    Nat} {eth : Sys2Proof.Machine.EthUnit} {sas : Sys2Proof.Tab Sys2Proof.Machine.MacSa} {sessions : Sys2Proof.Tab
    Sys2Proof.Machine.Session} {hbmKeys : Sys2Proof.Tab Nat} {hbmUnder : Sys2Proof.Tab Nat} {mer : Sys2Proof.Machine.MerUnit} {sxt :
    Sys2Proof.Machine.SxtUnit} {alm : Sys2Proof.Machine.AlmUnit} {pow : Sys2Proof.Machine.PowUnit}
    (k : Frame c s u) (hp : pending = u.pending) (hw : Memory.wf u.mem = true → Memory.wf mem = true) (hm : c.mem = true)
    (h0 : c.cells = true ∨ cells = u.cells)
    (h1 : c.mer = true ∨ mer = u.mer)
    (h2 : c.keys = true ∨ hbmKeys = u.hbmKeys)
    (h3 : c.runs = true ∨ runs = u.runs)
    (h4 : c.fab = true ∨ fab = u.fab) :
    Frame c s (State.mk pending now tai freeCtr regs cfg mem poison latent rewrites wrote extents outs readData insts rings charts runs
        ctxWait arr vec log merges noticeRings mapFuse mapAlm mapRun helm cells rad dma dmaNext quar ats evcs fab rhumb scrub hcounts mbx
        computeCause eth sas sessions hbmKeys hbmUnder mer sxt alm pow) :=
  ⟨hp.trans k.pending, fun w => hw (k.wf w), fun e => absurd (hm.symm.trans e) (by decide),
    fun e => (h0.resolve_left (by rw [e]; decide)).trans (k.cells e),
    fun e => (h1.resolve_left (by rw [e]; decide)).trans (k.mer e),
    fun e => (h2.resolve_left (by rw [e]; decide)).trans (k.keys e),
    fun e => (h3.resolve_left (by rw [e]; decide)).trans (k.runs e),
    fun e => (h4.resolve_left (by rw [e]; decide)).trans (k.fab e)⟩

/-! ### The operations and the commands, each after those it uses -/

theorem State.zeroRange_frame (s : State) (spc : Space) (dom : Nat) (off : Nat) (n : Nat) :
    Frame { mem := true } s (State.zeroRange s spc dom off n) := by
  unfold State.zeroRange
  extract_lets _
  exact (Frame.recordMem (.refl _) rfl (Memory.wf_drop _ _) rfl (.inr rfl) (.inr rfl) (.inr rfl) (.inr rfl) (.inr rfl))

theorem State.putUnits_frame (s : State) (c : Nat) (x : Cell) :
    Frame { mem := true } s (State.putUnits s c x) := by
  unfold State.putUnits
  extract_lets _ _ _
  exact (Frame.foldl (fun _ _ => (Frame.foldl (fun _ _ => (Frame.step (State.zeroRange_frame ..) (.refl _))) (.refl _))) (Frame.record
      (.refl _) rfl rfl (.inr rfl) (.inr rfl) (.inr rfl) (.inr rfl) (.inr rfl)))

theorem State.count_frame (s : State) (src : Nat) (dom : Option Nat) (n : Nat) :
    Frame {} s (State.count s src dom n) := by
  unfold State.count
  exact (Frame.record (.refl _) rfl rfl (.inr rfl) (.inr rfl) (.inr rfl) (.inr rfl) (.inr rfl))

theorem State.setEvc_frame (s : State) (k : Nat) (e : Evc) :
    Frame {} s (State.setEvc s k e) := by
  unfold State.setEvc
  exact (Frame.step (State.count_frame ..) (Frame.record (.refl _) rfl rfl (.inr rfl) (.inr rfl) (.inr rfl) (.inr rfl) (.inr rfl)))

theorem State.setReg_frame (s : State) (a : Nat) (idx : Nat) (v : Word) :
    Frame {} s (State.setReg s a idx v) := by
  unfold State.setReg
  exact (Frame.record (.refl _) rfl rfl (.inr rfl) (.inr rfl) (.inr rfl) (.inr rfl) (.inr rfl))

theorem State.setFld_frame (s : State) (f : Fld) (n : Nat) (idx : Nat) :
    Frame {} s (State.setFld s f n idx) := by
  unfold State.setFld
  exact (Frame.step (State.setReg_frame ..) (.refl _))

theorem State.setShare_frame (s : State) (d : Nat) (eff : Nat) :
    Frame {} s (State.setShare s d eff) := by
  unfold State.setShare
  exact (Frame.step (State.setFld_frame ..) (Frame.step (State.setFld_frame ..) (.refl _)))

theorem State.showHdr_frame (s : State) :
    Frame {} s (State.showHdr s) := by
  unfold State.showHdr
  extract_lets _ x0 x1 x2
  refine Frame.withVar x0 (Frame.step (State.setFld_frame ..) (Frame.step (State.setFld_frame ..) (.refl _))) fun h0 => ?_
  refine Frame.withVar x1 (Frame.step (State.setFld_frame ..) (Frame.step (State.setFld_frame ..) h0)) fun h1 => ?_
  refine Frame.withVar x2 (Frame.step (State.setFld_frame ..) (Frame.step (State.setFld_frame ..) h1)) fun h2 => ?_
  exact (Frame.step (State.setFld_frame ..) (Frame.step (State.setFld_frame ..) h2))

theorem State.writeHdr_frame (s : State) (h : BootHdr) :
    Frame {} s (State.writeHdr s h) := by
  unfold State.writeHdr
  extract_lets _ _ _
  exact (Frame.step (State.showHdr_frame ..) (Frame.record (.refl _) rfl rfl (.inr rfl) (.inr rfl) (.inr rfl) (.inr rfl) (.inr rfl)))

theorem State.activateRow_frame (s : State) :
    Frame {} s (State.activateRow s) := by
  unfold State.activateRow
  extract_lets _
  exact (Frame.step (State.writeHdr_frame ..) (.refl _))

theorem State.send_frame (s : State) (o : Out) :
    Frame {} s (State.send s o) := by
  unfold State.send
  exact (Frame.record (.refl _) rfl rfl (.inr rfl) (.inr rfl) (.inr rfl) (.inr rfl) (.inr rfl))

theorem State.addFld_frame (s : State) (f : Fld) (d : Nat) (idx : Nat) :
    Frame {} s (State.addFld s f d idx) := by
  unfold State.addFld
  exact (Frame.step (State.setFld_frame ..) (.refl _))

theorem State.satFld_frame (s : State) (f : Fld) (d : Nat) (idx : Nat) :
    Frame {} s (State.satFld s f d idx) := by
  unfold State.satFld
  exact (Frame.step (State.setFld_frame ..) (.refl _))

theorem State.logEvent_frame (s : State) (cause : Nat) (sev : Nat) (body : List Byte) (fault : Bool) :
    Frame {} s (State.logEvent s cause sev body fault) := by
  unfold State.logEvent
  extract_lets _ _ x0 x1 x2
  refine Frame.withVar x0 (Frame.step (State.count_frame ..) (Frame.record (.refl _) rfl rfl (.inr rfl) (.inr rfl) (.inr rfl) (.inr rfl)
      (.inr rfl))) fun h0 => ?_
  refine Frame.withVar x1 (Frame.step (State.addFld_frame ..) h0) fun h1 => ?_
  refine Frame.withVar x2 (Frame.ite (Frame.step (State.count_frame ..) (Frame.step (State.satFld_frame ..) h1)) h1) fun h2 => ?_
  exact (Frame.ite (Frame.step (State.count_frame ..) (Frame.step (State.send_frame ..) h2)) h2)

theorem State.dropToken_frame (s : State) (t : Nat) :
    Frame {} s (State.dropToken s t) := by
  unfold State.dropToken
  extract_lets _
  exact (Frame.record (.refl _) rfl rfl (.inr rfl) (.inr rfl) (.inr rfl) (.inr rfl) (.inr rfl))

theorem State.pldmEnd_frame (s : State) (what : Nat) (status : Nat) :
    Frame {} s (State.pldmEnd s what status) := by
  unfold State.pldmEnd
  extract_lets _ x0
  refine Frame.withVar x0 (Frame.step (State.setFld_frame ..) (Frame.record (.refl _) rfl rfl (.inr rfl) (.inr rfl) (.inr rfl) (.inr rfl)
      (.inr rfl))) fun h0 => ?_
  exact (Frame.step (State.logEvent_frame ..) (Frame.step (State.dropToken_frame ..) h0))

theorem State.pldmApply_frame (s : State) :
    Frame {} s (State.pldmApply s) := by
  unfold State.pldmApply
  extract_lets x0
  refine Frame.withVar x0 (Frame.ite (.refl _) (Frame.step (State.activateRow_frame ..) (.refl _))) fun h0 => ?_
  exact (Frame.step (State.send_frame ..) (Frame.step (State.pldmEnd_frame ..) (Frame.step (State.count_frame ..) h0)))

theorem State.raise_frame (s : State) (f : Fld) (idx : Nat) :
    Frame {} s (State.raise s f idx) := by
  unfold State.raise
  exact (Frame.step (State.setFld_frame ..) (.refl _))

theorem State.flashFails_frame (s : State) :
    Frame {} s (State.flashFails s) := by
  unfold State.flashFails
  extract_lets x0 _
  refine Frame.withVar x0 (Frame.step (State.raise_frame ..) (.refl _)) fun h0 => ?_
  exact (Frame.ite (Frame.step (State.setFld_frame ..) (Frame.record h0 rfl rfl (.inr rfl) (.inr rfl) (.inr rfl) (.inr rfl) (.inr rfl))) h0)

theorem State.mirrorWrite_frame (s : State) (n : Nat) (flashOk : Bool) :
    Frame {} s (State.mirrorWrite s n flashOk) := by
  unfold State.mirrorWrite
  extract_lets _ _ _
  split
  · exact (.refl _)
  · exact (Frame.ite (Frame.step (State.flashFails_frame ..) (.refl _)) (Frame.step (State.count_frame ..) (Frame.step (State.setFld_frame
        ..) (Frame.record (.refl _) rfl rfl (.inr rfl) (.inr rfl) (.inr rfl) (.inr rfl) (.inr rfl)))))

theorem State.regionFetch_frame (s : State) (r : Nat) :
    Frame { fab := true } s (State.regionFetch s r) := by
  unfold State.regionFetch
  extract_lets _
  exact (Frame.record (.refl _) rfl rfl (.inr rfl) (.inr rfl) (.inr rfl) (.inr rfl) (.inl rfl))

theorem State.freshBytes_frame (s : State) (n : Nat) :
    Frame {} s (State.freshBytes s n).2 := by
  unfold State.freshBytes
  exact (Frame.snd (Frame.record (.refl _) rfl rfl (.inr rfl) (.inr rfl) (.inr rfl) (.inr rfl) (.inr rfl)))

theorem State.resultBytes_frame (s : State) (c : Nat) (b : List Byte) :
    Frame {} s (State.resultBytes s c b).2 := by
  unfold State.resultBytes
  exact (Frame.ite2 (Frame.step (State.freshBytes_frame ..) (.refl _)) (Frame.snd (.refl _)))

theorem State.dmaBytes_frame (s : State) (dom : Nat) (n : Nat) :
    Frame {} s (State.dmaBytes s dom n) := by
  unfold State.dmaBytes
  exact (Frame.step (State.count_frame ..) (Frame.step (State.addFld_frame ..) (.refl _)))

theorem State.atsTouch_frame (s : State) (e : Nat) (inst : Nat) (addr : Nat) (len : Nat) :
    Frame {} s (State.atsTouch s e inst addr len) := by
  unfold State.atsTouch
  extract_lets _
  split
  · exact (.refl _)
  · extract_lets _ _
    exact (Frame.ite (Frame.step (State.count_frame ..) (Frame.record (.refl _) rfl rfl (.inr rfl) (.inr rfl) (.inr rfl) (.inr rfl) (.inr
        rfl))) (.refl _))

theorem State.dmaWrite_frame (s : State) (inst : Nat) (n : Nat) (dom : Nat) (addr : Nat) (b : List Byte) :
    Frame {} s (State.dmaWrite s inst n dom addr b) := by
  unfold State.dmaWrite
  extract_lets _ x0
  refine Frame.withVar x0 (Frame.step (State.dmaBytes_frame ..) (Frame.step (State.send_frame ..) (.refl _))) fun h0 => ?_
  split
  · exact h0
  · extract_lets x1
    refine Frame.withVar x1 (Frame.step (State.count_frame ..) (Frame.step (State.count_frame ..) h0)) fun h1 => ?_
    exact (Frame.step (State.atsTouch_frame ..) (Frame.step (State.count_frame ..) h1))

theorem State.fresh_frame (s : State) (bits : Nat) :
    Frame {} s (State.fresh s bits).2 := by
  unfold State.fresh
  exact (Frame.snd (Frame.record (.refl _) rfl rfl (.inr rfl) (.inr rfl) (.inr rfl) (.inr rfl) (.inr rfl)))

theorem State.ulResult_frame (s : State) (c : Nat) (st : Nat) (fl : Nat) (late : Nat) (keep : Nat) (rest : List Byte) :
    Frame {} s (State.ulResult s c st fl late keep rest).2.2 := by
  unfold State.ulResult
  extract_lets x0 x1
  refine Frame.withVar x0.2 (Frame.step (State.fresh_frame ..) (.refl _)) fun h0 => ?_
  refine Frame.withVar x1.2 (Frame.step (State.freshBytes_frame ..) h0) fun h1 => ?_
  exact (Frame.ite22 (Frame.snd h1) (Frame.snd (.refl _)))

theorem State.sendMsix_frame (s : State) (link : Nat) (vector : Nat) :
    Frame {} s (State.sendMsix s link vector) := by
  unfold State.sendMsix
  exact (Frame.step (State.count_frame ..) (Frame.step (State.send_frame ..) (.refl _)))

theorem State.writeEntry_frame (s : State) (g : Nat) (e : List Byte) (noIrq : Bool) :
    Frame {} s (State.writeEntry s g e noIrq) := by
  unfold State.writeEntry
  split
  · exact (.refl _)
  · extract_lets _ _ _ _ _ x0 _ x1 _ x2 x3 _ _
    refine Frame.withVar x0 (by
        unfold x0
        split
        · exact (Frame.ite (.refl _) (Frame.step (State.count_frame ..) (.refl _)))
        · exact (.refl _)) fun h0 => ?_
    refine Frame.withVar x1 (Frame.step (State.send_frame ..) h0) fun h1 => ?_
    refine Frame.withVar x2 (Frame.step (State.setFld_frame ..) h1) fun h2 => ?_
    refine Frame.withVar x3 (Frame.ite (Frame.step (State.setFld_frame ..) h2) h2) fun h3 => ?_
    exact (Frame.ite h3 (Frame.ite (Frame.step (State.sendMsix_frame ..) (Frame.record h3 rfl rfl (.inr rfl) (.inr rfl) (.inr rfl) (.inr
        rfl) (.inr rfl))) (Frame.record h3 rfl rfl (.inr rfl) (.inr rfl) (.inr rfl) (.inr rfl) (.inr rfl))))

theorem State.postEntry_frame (s : State) (g : Nat) (e : List Byte) (noIrq : Bool) :
    Frame {} s (State.postEntry s g e noIrq) := by
  unfold State.postEntry
  split
  · exact (.refl _)
  · exact (Frame.ite (Frame.step (State.writeEntry_frame ..) (.refl _)) (Frame.step (State.setFld_frame ..) (Frame.record (.refl _) rfl rfl
        (.inr rfl) (.inr rfl) (.inr rfl) (.inr rfl) (.inr rfl))))

theorem State.postExtra_frame (s : State) (g : Nat) (cid : Nat) (payload : List Byte) :
    Frame {} s (State.postExtra s g cid payload) := by
  unfold State.postExtra
  split
  · exact (.refl _)
  · exact (Frame.step (State.postEntry_frame ..) (.refl _))

theorem State.indicate_frame (s : State) (c : Nat) (n : Nat) (k : Nat) (st : Nat) (fl : Nat) (rest : List Byte) :
    Frame {} s (State.indicate s c n k st fl rest) := by
  unfold State.indicate
  extract_lets _
  split
  · extract_lets _
    split
    · exact (.refl _)
    · extract_lets _ x0
      refine Frame.withVar x0.2.2 (Frame.step (State.ulResult_frame ..) (.refl _)) fun h0 => ?_
      exact (Frame.step (State.postExtra_frame ..) h0)
  · exact (.refl _)

theorem State.modCell_frame (s : State) (c : Nat) (f : Cell → Cell) :
    Frame { cells := true } s (State.modCell s c f) := by
  unfold State.modCell
  exact (Frame.record (.refl _) rfl rfl (.inl rfl) (.inr rfl) (.inr rfl) (.inr rfl) (.inr rfl))

theorem State.modSlotJob_frame (s : State) (c : Nat) (n : Nat) (up : Bool) (g : SlotJob → SlotJob) :
    Frame { cells := true } s (State.modSlotJob s c n up g) := by
  unfold State.modSlotJob
  exact (Frame.step (State.modCell_frame ..) (.refl _))

theorem State.modItem_frame (s : State) (c : Nat) (n : Nat) (up : Bool) (k : Nat) (g : Item → Item) :
    Frame { cells := true } s (State.modItem s c n up k g) := by
  unfold State.modItem
  exact (Frame.step (State.modSlotJob_frame ..) (.refl _))

theorem State.countSlot_frame (s : State) (d : Nat) (fl : Nat) (ok : Nat) (bad : Nat) :
    Frame {} s (State.countSlot s d fl ok bad) := by
  unfold State.countSlot
  extract_lets x0 x1
  refine Frame.withVar x0 (Frame.step (State.count_frame ..) (Frame.step (State.count_frame ..) (.refl _))) fun h0 => ?_
  refine Frame.withVar x1 (Frame.ite (Frame.step (State.count_frame ..) h0) h0) fun h1 => ?_
  exact (Frame.ite (Frame.step (State.raise_frame ..) (Frame.step (State.addFld_frame ..) h1)) h1)

theorem State.quiesceDone_frame (s : State) (g : Nat) :
    Frame {} s (State.quiesceDone s g) := by
  unfold State.quiesceDone
  split
  · exact (.refl _)
  · exact (Frame.ite (Frame.step (State.setFld_frame ..) (.refl _)) (.refl _))

theorem State.complete_frame (s : State) (g : Nat) (cid : Nat) (payload : List Byte) :
    Frame {} s (State.complete s g cid payload) := by
  unfold State.complete
  split
  · exact (.refl _)
  · split
    · exact (.refl _)
    · extract_lets x0 x1
      refine Frame.withVar x0 (Frame.record (.refl _) rfl rfl (.inr rfl) (.inr rfl) (.inr rfl) (.inr rfl) (.inr rfl)) fun h0 => ?_
      refine Frame.withVar x1 (Frame.step (State.postEntry_frame ..) h0) fun h1 => ?_
      exact (Frame.step (State.quiesceDone_frame ..) h1)

theorem State.slotCmdDone_frame (s : State) (c : Nat) (j : SlotJob) (payload : List Byte) :
    Frame {} s (State.slotCmdDone s c j payload) := by
  unfold State.slotCmdDone
  exact (Frame.step (State.complete_frame ..) (Frame.step (State.count_frame ..) (Frame.step (State.addFld_frame ..) (.refl _))))

theorem State.unspoil_frame (s : State) (c : Nat) :
    Frame {} s (State.unspoil s c) := by
  unfold State.unspoil
  extract_lets _
  exact (Frame.record (.refl _) rfl rfl (.inr rfl) (.inr rfl) (.inr rfl) (.inr rfl) (.inr rfl))

theorem State.store_frame (s : State) (spc : Space) (dom : Nat) (off : Nat) (data : List Byte) :
    Frame { mem := true } s (State.store s spc dom off data) := by
  unfold State.store
  extract_lets _ x0
  refine Frame.withVar x0 (Frame.recordMem (.refl _) rfl (Memory.wf_writeBytes _ _ _) rfl (.inr rfl) (.inr rfl) (.inr rfl) (.inr rfl) (.inr
      rfl)) fun h0 => ?_
  exact (Frame.ite (Frame.record h0 rfl rfl (.inr rfl) (.inr rfl) (.inr rfl) (.inr rfl) (.inr rfl)) h0)

theorem State.clearHarq_frame (s : State) (c : Nat) (f : CellCfg) :
    Frame { mem := true, cells := true } s (State.clearHarq s c f) := by
  unfold State.clearHarq
  extract_lets _ x0
  refine Frame.withVar x0 (Frame.step (State.modCell_frame ..) (.refl _)) fun h0 => ?_
  exact (Frame.ite h0 (Frame.step (State.store_frame ..) h0))

theorem State.cellDone_frame (s : State) (g : Nat) (cid : Nat) (st : Nat) (c : Nat) (ev : Nat) (f : Option CellCfg) (n : Nat) :
    Frame {} s (State.cellDone s g cid st c ev f n) := by
  unfold State.cellDone
  exact (Frame.step (State.complete_frame ..) (.refl _))

theorem State.postUnsolicited_frame (s : State) (g : Nat) (opcode : Nat) (payload : List Byte) :
    Frame {} s (State.postUnsolicited s g opcode payload).1 := by
  unfold State.postUnsolicited
  split
  · exact (Frame.fst (.refl _))
  · exact (Frame.ite1 (Frame.fst (Frame.step (State.postEntry_frame ..) (.refl _))) (Frame.fst (Frame.step (State.satFld_frame ..) (.refl
        _))))

theorem State.cellNotice_frame (s : State) (c : Nat) (ev : Nat) (cause : Nat) (n : Option Nat) :
    Frame {} s (State.cellNotice s c ev cause n) := by
  unfold State.cellNotice
  split
  · exact (.refl _)
  · exact (Frame.step (State.postUnsolicited_frame ..) (.refl _))

theorem State.configChanged_frame (s : State) (dom : Nat) :
    Frame {} s (State.configChanged s dom) := by
  unfold State.configChanged
  exact (Frame.step (State.addFld_frame ..) (.refl _))

theorem State.refreshRadio_frame (s : State) :
    Frame {} s (State.refreshRadio s) := by
  unfold State.refreshRadio
  extract_lets x0 x1 x2 x3
  refine Frame.withVar x0 (Frame.foldl (fun _ _ => (by
      extract_lets _
      exact (Frame.ite (.refl _) (Frame.step (State.configChanged_frame ..) (Frame.step (State.setFld_frame ..) (.refl _)))))) (.refl _))
          fun h0 => ?_
  refine Frame.withVar x1 (Frame.step (State.setFld_frame ..) h0) fun h1 => ?_
  refine Frame.withVar x2 (Frame.step (State.setFld_frame ..) h1) fun h2 => ?_
  refine Frame.withVar x3 (Frame.step (State.setFld_frame ..) h2) fun h3 => ?_
  exact (Frame.step (State.setFld_frame ..) h3)

theorem State.setCell_frame (s : State) (c : Nat) (x : Cell) :
    Frame { cells := true } s (State.setCell s c x) := by
  unfold State.setCell
  exact (Frame.record (.refl _) rfl rfl (.inl rfl) (.inr rfl) (.inr rfl) (.inr rfl) (.inr rfl))

theorem State.putCell_frame (s : State) (c : Nat) (x : Cell) :
    Frame { mem := true, cells := true } s (State.putCell s c x) := by
  unfold State.putCell
  extract_lets x0
  refine Frame.withVar x0 (Frame.step (State.refreshRadio_frame ..) (Frame.step (State.setCell_frame ..) (Frame.step (State.putUnits_frame
      ..) (.refl _)))) fun h0 => ?_
  exact (Frame.step (State.setFld_frame ..) h0)

theorem State.unassignCell_frame (s : State) (c : Nat) (n : Option Nat) :
    Frame { mem := true, cells := true } s (State.unassignCell s c n) := by
  unfold State.unassignCell
  extract_lets x0
  refine Frame.withVar x0 (Frame.step (State.cellNotice_frame ..) (.refl _)) fun h0 => ?_
  exact (Frame.step (State.putCell_frame ..) h0)

theorem State.stopEnds_frame (s : State) (c : Nat) (x : Cell) (f : CellCfg) (b : Nat) :
    Frame { mem := true, cells := true } s (State.stopEnds s c x f b) := by
  unfold State.stopEnds
  extract_lets x0 x1 _
  refine Frame.withVar x0 (Frame.step (State.unspoil_frame ..) (Frame.step (State.clearHarq_frame ..) (.refl _))) fun h0 => ?_
  refine Frame.withVar x1 (by
      unfold x1
      split
      · exact (Frame.step (State.cellDone_frame ..) h0)
      · exact (Frame.ite h0 (Frame.step (State.cellNotice_frame ..) h0))) fun h1 => ?_
  exact (Frame.ite (Frame.ite (Frame.step (State.putCell_frame ..) h1) (Frame.step (State.unassignCell_frame ..) h1)) (Frame.step
      (State.putCell_frame ..) h1))

theorem State.deliverFault_frame (s : State) (d : Nat) (r : FaultRec) (rep : Nat) :
    Frame {} s (State.deliverFault s d r rep) := by
  unfold State.deliverFault
  extract_lets _ y0
  clear_value y0
  split
  · exact (Frame.step (State.addFld_frame ..) (.refl _))
  · extract_lets x1
    refine Frame.withVar x1.1 (Frame.step (State.postUnsolicited_frame ..) (.refl _)) fun h1 => ?_
    exact (Frame.ite h1 (Frame.step (State.addFld_frame ..) h1))

theorem State.domainFault_frame (s : State) (d : Nat) (r : FaultRec) :
    Frame {} s (State.domainFault s d r) := by
  unfold State.domainFault
  extract_lets _
  split
  · exact (Frame.step (State.deliverFault_frame ..) (Frame.record (.refl _) rfl rfl (.inr rfl) (.inr rfl) (.inr rfl) (.inr rfl) (.inr rfl)))
  · exact (Frame.ite (Frame.record (.refl _) rfl rfl (.inr rfl) (.inr rfl) (.inr rfl) (.inr rfl) (.inr rfl)) (Frame.step
        (State.deliverFault_frame ..) (Frame.record (.refl _) rfl rfl (.inr rfl) (.inr rfl) (.inr rfl) (.inr rfl) (.inr rfl))))

theorem State.faultRecord_frame (s : State) (r : FaultRec) :
    Frame {} s (State.faultRecord s r) := by
  unfold State.faultRecord
  extract_lets x0 x1
  refine Frame.withVar x0 (Frame.step (State.logEvent_frame ..) (.refl _)) fun h0 => ?_
  refine Frame.withVar x1 (Frame.step (State.addFld_frame ..) h0) fun h1 => ?_
  split
  · exact h1
  · exact (Frame.step (State.domainFault_frame ..) h1)

theorem State.applyScale_frame (s : State) :
    Frame {} s (State.applyScale s) := by
  unfold State.applyScale
  extract_lets _ x0 x1 x2 _ x3
  refine Frame.withVar x0 (Frame.step (State.setFld_frame ..) (.refl _)) fun h0 => ?_
  refine Frame.withVar x1 (Frame.step (State.setFld_frame ..) h0) fun h1 => ?_
  refine Frame.withVar x2 (Frame.step (State.raise_frame ..) h1) fun h2 => ?_
  refine Frame.withVar x3 (Frame.step (State.faultRecord_frame ..) h2) fun h3 => ?_
  exact (Frame.ite (.refl _) (Frame.ite (Frame.foldl (fun _ _ => (Frame.ite (.refl _) (Frame.step (State.faultRecord_frame ..) (.refl _))))
      h3) (Frame.step (State.setFld_frame ..) h0)))

theorem State.markSlots_frame (s : State) :
    Frame { cells := true } s (State.markSlots s) := by
  unfold State.markSlots
  exact (Frame.record (.refl _) rfl rfl (.inl rfl) (.inr rfl) (.inr rfl) (.inr rfl) (.inr rfl))

theorem State.coveredAgain_frame (s : State) :
    Frame { cells := true } s (State.coveredAgain s) := by
  unfold State.coveredAgain
  extract_lets x0 _
  refine Frame.withVar x0 (Frame.step (State.markSlots_frame ..) (.refl _)) fun h0 => ?_
  exact (Frame.ite (Frame.record h0 rfl rfl (.inr rfl) (.inr rfl) (.inr rfl) (.inr rfl) (.inr rfl)) (.refl _))

theorem State.shedOver_frame (s : State) :
    Frame { cells := true } s (State.shedOver s) := by
  unfold State.shedOver
  exact (Frame.ite (.refl _) (Frame.step (State.coveredAgain_frame ..) (Frame.step (State.setFld_frame ..) (Frame.step (State.setFld_frame
      ..) (.refl _)))))

theorem State.shedEnds_frame (s : State) (c : Nat) (x : Cell) (f : CellCfg) (b : Nat) :
    Frame { mem := true, cells := true } s (State.shedEnds s c x f b) := by
  unfold State.shedEnds
  extract_lets x0 _ x1 x2 x3
  refine Frame.withVar x0 (Frame.step (State.unspoil_frame ..) (Frame.step (State.clearHarq_frame ..) (.refl _))) fun h0 => ?_
  refine Frame.withVar x1 (Frame.step (State.putCell_frame ..) h0) fun h1 => ?_
  refine Frame.withVar x2 (Frame.step (State.addFld_frame ..) h1) fun h2 => ?_
  refine Frame.withVar x3 (Frame.step (State.applyScale_frame ..) (Frame.step (State.cellNotice_frame ..) h2)) fun h3 => ?_
  exact (Frame.step (State.shedOver_frame ..) (Frame.ite (Frame.step (State.unassignCell_frame ..) h3) h3))

theorem State.settleCell_frame (s : State) (c : Nat) :
    Frame { mem := true, cells := true } s (State.settleCell s c) := by
  unfold State.settleCell
  extract_lets _
  split
  · exact (.refl _)
  · split
    · exact (Frame.ite (Frame.step (State.stopEnds_frame ..) (.refl _)) (.refl _))
    · exact (Frame.ite (Frame.step (State.shedEnds_frame ..) (.refl _)) (.refl _))
    · exact (.refl _)

theorem State.freeCtx_frame (s : State) (c : Nat) (d : Nat) (f : CellCfg) (k : Nat) :
    Frame { mem := true, cells := true } s (State.freeCtx s c d f k) := by
  unfold State.freeCtx
  extract_lets _ _ x0
  refine Frame.withVar x0 (Frame.step (State.modCell_frame ..) (.refl _)) fun h0 => ?_
  exact (Frame.step (State.store_frame ..) h0)

theorem State.doFlush_frame (s : State) (c : Nat) (f : CellCfg) (q : Flush) :
    Frame { mem := true, cells := true } s (State.doFlush s c f q) := by
  unfold State.doFlush
  extract_lets _ _ x0 x1
  refine Frame.withVar x0 (Frame.foldl (fun _ _ => (Frame.step (State.freeCtx_frame ..) (.refl _))) (.refl _)) fun h0 => ?_
  refine Frame.withVar x1.2 (Frame.step (State.resultBytes_frame ..) h0) fun h1 => ?_
  exact (Frame.step (State.complete_frame ..) h1)

theorem State.runFlushes_frame (s : State) (c : Nat) :
    Frame { mem := true, cells := true } s (State.runFlushes s c) := by
  unfold State.runFlushes
  extract_lets _ _ x0
  refine Frame.withVar x0 (Frame.step (State.modCell_frame ..) (.refl _)) fun h0 => ?_
  split
  · exact (.refl _)
  · exact (Frame.foldl (fun _ _ => (Frame.step (State.doFlush_frame ..) (.refl _))) h0)

theorem State.harqSettle_frame (s : State) (c : Nat) :
    Frame { mem := true, cells := true } s (State.harqSettle s c) := by
  unfold State.harqSettle
  extract_lets _
  split
  · exact (.refl _)
  · exact (Frame.ite (Frame.step (State.clearHarq_frame ..) (.refl _)) (.refl _))

theorem State.settleSlot_frame (s : State) (c : Nat) (n : Nat) (up : Bool) :
    Frame { mem := true, cells := true } s (State.settleSlot s c n up) := by
  unfold State.settleSlot
  extract_lets _
  split
  · extract_lets _ _ _ x0 x1 x2
    refine Frame.withVar x0 (Frame.step (State.modCell_frame ..) (.refl _)) fun h0 => ?_
    refine Frame.withVar x1 (Frame.step (State.countSlot_frame ..) h0) fun h1 => ?_
    refine Frame.withVar x2 (Frame.step (State.slotCmdDone_frame ..) h1) fun h2 => ?_
    exact (Frame.ite (Frame.step (State.settleCell_frame ..) (Frame.step (State.runFlushes_frame ..) (Frame.step (State.harqSettle_frame
        ..) h2))) (.refl _))
  · exact (.refl _)

theorem State.ulItemEnds_frame (s : State) (c : Nat) (n : Nat) (k : Nat) (st : Nat) (fl : Nat) (rest : List Byte) :
    Frame { mem := true, cells := true } s (State.ulItemEnds s c n k st fl rest) := by
  unfold State.ulItemEnds
  extract_lets x0 x1 x2
  refine Frame.withVar x0 (Frame.step (State.indicate_frame ..) (.refl _)) fun h0 => ?_
  refine Frame.withVar x1 (Frame.step (State.modItem_frame ..) h0) fun h1 => ?_
  refine Frame.withVar x2 (Frame.ite (Frame.step (State.raise_frame ..) h1) h1) fun h2 => ?_
  exact (Frame.step (State.settleSlot_frame ..) (Frame.step (State.runFlushes_frame ..) h2))

theorem State.srsDone_frame (s : State) (x : PhyCtx) (k : Nat) (i : Item) :
    Frame { mem := true, cells := true } s (State.srsDone s x k i) := by
  unfold State.srsDone
  extract_lets _ x0 _ x1
  refine Frame.withVar x0.2 (Frame.step (State.resultBytes_frame ..) (.refl _)) fun h0 => ?_
  refine Frame.withVar x1 (Frame.step (State.dmaWrite_frame ..) h0) fun h1 => ?_
  exact (Frame.step (State.ulItemEnds_frame ..) h1)

theorem State.forgetUes_frame (s : State) (k : Nat) :
    Frame {} s (State.forgetUes s k) := by
  unfold State.forgetUes
  extract_lets _
  exact (Frame.record (.refl _) rfl rfl (.inr rfl) (.inr rfl) (.inr rfl) (.inr rfl) (.inr rfl))

theorem State.loseExtents_frame (s : State) (k : Nat) :
    Frame { mem := true } s (State.loseExtents s k) := by
  unfold State.loseExtents
  exact (Frame.recordMem (.refl _) rfl (Memory.wf_drop _ _) rfl (.inr rfl) (.inr rfl) (.inr rfl) (.inr rfl) (.inr rfl))

theorem State.loadRefused_frame (s : State) (g : Nat) (cid : Nat) (st : Nat) (idx : Nat) (valid : Bool) :
    Frame {} s (State.loadRefused s g cid st idx valid) := by
  unfold State.loadRefused
  exact (Frame.step (State.complete_frame ..) (Frame.step (State.addFld_frame ..) (.refl _)))

theorem State.dropLoadJobs_frame (s : State) (id : Nat) :
    Frame { fab := true } s (State.dropLoadJobs s id) := by
  unfold State.dropLoadJobs
  extract_lets _
  exact (Frame.record (.refl _) rfl rfl (.inr rfl) (.inr rfl) (.inr rfl) (.inr rfl) (.inl rfl))

theorem State.loadFails_frame (s : State) (id : Nat) (st : Nat) (idx : Nat) (valid : Bool) :
    Frame { fab := true } s (State.loadFails s id st idx valid) := by
  unfold State.loadFails
  split
  · exact (.refl _)
  · exact (Frame.step (State.loadRefused_frame ..) (Frame.step (State.dropLoadJobs_frame ..) (Frame.record (.refl _) rfl rfl (.inr rfl)
        (.inr rfl) (.inr rfl) (.inr rfl) (.inr rfl))))

theorem State.hbmNote_frame (s : State) (c : Nat) :
    Frame {} s (State.hbmNote s c) := by
  unfold State.hbmNote
  exact (Frame.ite (Frame.step (State.raise_frame ..) (.refl _)) (.refl _))

theorem State.loadReadFails_frame (s : State) (id : Nat) (cause : Nat) (detail : Nat) :
    Frame { fab := true } s (State.loadReadFails s id cause detail) := by
  unfold State.loadReadFails
  split
  · exact (.refl _)
  · extract_lets _
    exact (Frame.step (State.loadFails_frame ..) (Frame.step (State.faultRecord_frame ..) (Frame.step (State.hbmNote_frame ..) (.refl _))))

theorem State.failLoads_frame (s : State) (k : Nat) :
    Frame { fab := true } s (State.failLoads s k) := by
  unfold State.failLoads
  exact (Frame.foldl (fun _ _ => (Frame.step (State.loadReadFails_frame ..) (.refl _))) (.refl _))

theorem State.setRun_frame (s : State) (r : Nat) (x : Run) :
    Frame { runs := true } s (State.setRun s r x) := by
  unfold State.setRun
  exact (Frame.record (.refl _) rfl rfl (.inr rfl) (.inr rfl) (.inr rfl) (.inl rfl) (.inr rfl))

theorem State.clearHeads_frame (s : State) :
    Frame {} s (State.clearHeads s) := by
  unfold State.clearHeads
  extract_lets _ _
  exact (Frame.record (.refl _) rfl rfl (.inr rfl) (.inr rfl) (.inr rfl) (.inr rfl) (.inr rfl))

theorem State.setVt_frame (s : State) (vector : Bool) (v : VTime) :
    Frame {} s (State.setVt s vector v) := by
  unfold State.setVt
  exact (Frame.record (.refl _) rfl rfl (.inr rfl) (.inr rfl) (.inr rfl) (.inr rfl) (.inr rfl))

theorem State.setVtAt_frame (s : State) (vector : Bool) (k : Nat) (v : VTime) :
    Frame {} s (State.setVtAt s vector k v) := by
  unfold State.setVtAt
  extract_lets _
  exact (Frame.ite (Frame.step (State.setVt_frame ..) (.refl _)) (Frame.record (.refl _) rfl rfl (.inr rfl) (.inr rfl) (.inr rfl) (.inr
      rfl) (.inr rfl)))

theorem State.noteEntry_frame (s : State) (e : WinEntry) :
    Frame {} s (State.noteEntry s e).1 := by
  unfold State.noteEntry
  exact (Frame.ite1 (Frame.ite1 (Frame.fst (.refl _)) (Frame.fst (by
      split
      · exact (Frame.step (State.setVtAt_frame ..) (.refl _))
      · exact (Frame.ite (Frame.step (State.setVt_frame ..) (.refl _)) (.refl _))))) (Frame.ite1 (Frame.fst (.refl _)) (Frame.fst (.refl
            _))))

theorem State.noteReady_frame (s : State) :
    Frame {} s (State.noteReady s) := by
  unfold State.noteReady
  extract_lets x0 x1 x3 _
  refine Frame.withVar x0 (Frame.step (State.clearHeads_frame ..) (.refl _)) fun h0 => ?_
  refine Frame.withVar x1.1 (Frame.foldl1 (fun _ _ => (by
      extract_lets x2
      refine Frame.withVar x2.1 (Frame.step (State.noteEntry_frame ..) (.refl _)) fun h2 => ?_
      exact (Frame.fst h2))) (Frame.fst h0)) fun h1 => ?_
  refine Frame.withVar x3 h1 fun h3 => ?_
  exact (Frame.record h3 rfl rfl (.inr rfl) (.inr rfl) (.inr rfl) (.inr rfl) (.inr rfl))

theorem State.dropUnstarted_frame (s : State) (r : Nat) :
    Frame { runs := true } s (State.dropUnstarted s r) := by
  unfold State.dropUnstarted
  extract_lets _
  split
  · exact (.refl _)
  · exact (Frame.record (.refl _) rfl rfl (.inr rfl) (.inr rfl) (.inr rfl) (.inl rfl) (.inr rfl))

theorem State.failRun_frame (s : State) (r : Nat) (st : Nat) (idx : Option Nat) :
    Frame { runs := true } s (State.failRun s r st idx) := by
  unfold State.failRun
  split
  · exact (.refl _)
  · exact (Frame.ite (.refl _) (Frame.step (State.dropUnstarted_frame ..) (Frame.step (State.setRun_frame ..) (.refl _))))

theorem State.tagFaults_frame (s : State) (r : Nat) :
    Frame { runs := true } s (State.tagFaults s r) := by
  unfold State.tagFaults
  split
  · exact (.refl _)
  · split
    · exact (.refl _)
    · exact (Frame.step (State.failRun_frame ..) (.refl _))

theorem State.endCmd_frame (s : State) (r : Nat) (i : Nat) (ok : Bool) :
    Frame { runs := true } s (State.endCmd s r i ok) := by
  unfold State.endCmd
  split
  · exact (.refl _)
  · split
    · exact (.refl _)
    · extract_lets _ _ x0 _ x1
      refine Frame.withVar x0 (Frame.step (State.setRun_frame ..) (.refl _)) fun h0 => ?_
      refine Frame.withVar x1 (Frame.record h0 rfl rfl (.inr rfl) (.inr rfl) (.inr rfl) (.inr rfl) (.inr rfl)) fun h1 => ?_
      exact (Frame.step (State.noteReady_frame ..) (Frame.step (State.tagFaults_frame ..) h1))

theorem State.failTransfer_frame (s : State) (r : Nat) (idx : Nat) (cause : Nat) (detail : Nat) :
    Frame { runs := true } s (State.failTransfer s r idx cause detail) := by
  unfold State.failTransfer
  split
  · exact (.refl _)
  · extract_lets _
    exact (Frame.step (State.failRun_frame ..) (Frame.step (State.faultRecord_frame ..) (.refl _)))

theorem State.xferFailed_frame (s : State) (r : Nat) (i : Nat) (cause : Nat) (detail : Nat) :
    Frame { runs := true } s (State.xferFailed s r i cause detail) := by
  unfold State.xferFailed
  exact (Frame.step (State.endCmd_frame ..) (Frame.step (State.failTransfer_frame ..) (Frame.step (State.hbmNote_frame ..) (.refl _))))

theorem State.pipeFree_frame (s : State) :
    Frame {} s (State.pipeFree s) := by
  unfold State.pipeFree
  extract_lets _ x0 x1 x2 x3
  refine Frame.withVar x0 (Frame.record (.refl _) rfl rfl (.inr rfl) (.inr rfl) (.inr rfl) (.inr rfl) (.inr rfl)) fun h0 => ?_
  refine Frame.withVar x1 (Frame.step (State.setFld_frame ..) h0) fun h1 => ?_
  refine Frame.withVar x2 (Frame.step (State.setFld_frame ..) h1) fun h2 => ?_
  refine Frame.withVar x3 (Frame.step (State.setFld_frame ..) h2) fun h3 => ?_
  exact (Frame.step (State.setFld_frame ..) h3)

theorem State.countHelm_frame (s : State) (kind : Nat) (n : Nat) :
    Frame {} s (State.countHelm s kind n) := by
  unfold State.countHelm
  extract_lets x0
  refine Frame.withVar x0 (Frame.step (State.count_frame ..) (.refl _)) fun h0 => ?_
  exact (Frame.ite (Frame.step (State.count_frame ..) h0) h0)

theorem State.countWork_frame (s : State) (dom : Nat) (cls : Nat) (kind : Nat) (n : Nat) :
    Frame {} s (State.countWork s dom cls kind n) := by
  unfold State.countWork
  exact (Frame.step (State.count_frame ..) (.refl _))

theorem State.countVec_frame (s : State) (dom : Nat) (cls : Nat) (occ : Nat) (wait : Nat) :
    Frame {} s (State.countVec s dom cls occ wait) := by
  unfold State.countVec
  extract_lets x0
  refine Frame.withVar x0 (Frame.step (State.countHelm_frame ..) (Frame.step (State.countWork_frame ..) (Frame.step (State.countWork_frame
      ..) (.refl _)))) fun h0 => ?_
  exact (Frame.step (State.addFld_frame ..) (Frame.step (State.addFld_frame ..) h0))

theorem State.chargeVec_frame (s : State) (d : Nat) (n : Nat) :
    Frame {} s (State.chargeVec s d n) := by
  unfold State.chargeVec
  extract_lets _
  exact (Frame.record (.refl _) rfl rfl (.inr rfl) (.inr rfl) (.inr rfl) (.inr rfl) (.inr rfl))

theorem State.chargeVecRun_frame (s : State) (dom : Nat) (r : Nat) (n : Nat) :
    Frame { runs := true } s (State.chargeVecRun s dom r n) := by
  unfold State.chargeVecRun
  extract_lets x0
  refine Frame.withVar x0 (Frame.step (State.chargeVec_frame ..) (.refl _)) fun h0 => ?_
  split
  · exact h0
  · exact (Frame.ite (Frame.step (State.setRun_frame ..) h0) h0)

theorem State.vecCut_frame (s : State) (v : VecCmd) :
    Frame { runs := true } s (State.vecCut s v) := by
  unfold State.vecCut
  split
  · exact (Frame.step (State.countVec_frame ..) (Frame.step (State.chargeVecRun_frame ..) (.refl _)))
  · exact (.refl _)

theorem State.noteSaved_frame (s : State) :
    Frame {} s (State.noteSaved s) := by
  unfold State.noteSaved
  exact (Frame.step (State.setFld_frame ..) (.refl _))

theorem State.dropStream_frame (s : State) (r : Nat) (i : Nat) :
    Frame {} s (State.dropStream s r i) := by
  unfold State.dropStream
  extract_lets _
  exact (Frame.record (.refl _) rfl rfl (.inr rfl) (.inr rfl) (.inr rfl) (.inr rfl) (.inr rfl))

theorem State.vecAbort_frame (s : State) (r : Nat) (i : Nat) :
    Frame { runs := true } s (State.vecAbort s r i) := by
  unfold State.vecAbort
  extract_lets x0 _ x1
  refine Frame.withVar x0 (by
      unfold x0
      split
      · exact (Frame.ite (Frame.step (State.pipeFree_frame ..) (Frame.step (State.vecCut_frame ..) (.refl _))) (.refl _))
      · exact (.refl _)) fun h0 => ?_
  refine Frame.withVar x1 (Frame.record h0 rfl rfl (.inr rfl) (.inr rfl) (.inr rfl) (.inr rfl) (.inr rfl)) fun h1 => ?_
  exact (Frame.step (State.endCmd_frame ..) (Frame.step (State.noteSaved_frame ..) (Frame.step (State.dropStream_frame ..) h1)))

theorem State.kvFail_frame (s : State) (r : Nat) (i : Nat) (cause : Nat) (off : Nat) :
    Frame { runs := true } s (State.kvFail s r i cause off) := by
  unfold State.kvFail
  extract_lets x0 x1
  refine Frame.withVar x0 (Frame.step (State.hbmNote_frame ..) (.refl _)) fun h0 => ?_
  refine Frame.withVar x1 (Frame.ite (Frame.step (State.raise_frame ..) h0) h0) fun h1 => ?_
  exact (Frame.step (State.vecAbort_frame ..) (Frame.step (State.failTransfer_frame ..) h1))

theorem State.failOnStack_frame (s : State) (k : Nat) :
    Frame { runs := true } s (State.failOnStack s k) := by
  unfold State.failOnStack
  extract_lets _ _ x0
  refine Frame.withVar x0 (Frame.foldl (fun _ _ => (Frame.step (State.xferFailed_frame ..) (.refl _))) (.refl _)) fun h0 => ?_
  exact (Frame.foldl (fun _ _ => (Frame.step (State.kvFail_frame ..) (.refl _))) h0)

theorem State.noteMap_frame (s : State) :
    Frame {} s (State.noteMap s) := by
  unfold State.noteMap
  extract_lets _
  exact (Frame.record (.refl _) rfl rfl (.inr rfl) (.inr rfl) (.inr rfl) (.inr rfl) (.inr rfl))

theorem State.sleepsOff_frame (s : State) :
    Frame {} s (State.sleepsOff s) := by
  unfold State.sleepsOff
  extract_lets _
  exact (Frame.record (.refl _) rfl rfl (.inr rfl) (.inr rfl) (.inr rfl) (.inr rfl) (.inr rfl))

theorem State.regroup_frame (s : State) :
    Frame {} s (State.regroup s) := by
  unfold State.regroup
  extract_lets _ _ _
  exact (Frame.ite (.refl _) (Frame.record (.refl _) rfl rfl (.inr rfl) (.inr rfl) (.inr rfl) (.inr rfl) (.inr rfl)))

theorem State.notice_frame (s : State) (dom : Nat) (cause : Nat) (chan : Nat) (an : Nat) :
    Frame {} s (State.notice s dom cause chan an) := by
  unfold State.notice
  split
  · exact (.refl _)
  · exact (Frame.step (State.postUnsolicited_frame ..) (.refl _))

theorem State.measChanged_frame (s : State) :
    Frame {} s (State.measChanged s) := by
  unfold State.measChanged
  extract_lets x0 x1
  refine Frame.withVar x0 (Frame.step (State.addFld_frame ..) (.refl _)) fun h0 => ?_
  refine Frame.withVar x1 (Frame.foldl (fun _ _ => (Frame.step (State.configChanged_frame ..) (.refl _))) h0) fun h1 => ?_
  exact (Frame.foldl (fun _ _ => (Frame.step (State.notice_frame ..) (.refl _))) h1)

theorem State.writeDigest_frame (s : State) :
    Frame {} s (State.writeDigest s) := by
  unfold State.writeDigest
  extract_lets _
  exact (Frame.foldl (fun _ _ => (Frame.step (State.setReg_frame ..) (.refl _))) (.refl _))

theorem State.mapRefresh_frame (s : State) :
    Frame {} s (State.mapRefresh s) := by
  unfold State.mapRefresh
  extract_lets x0
  refine Frame.withVar x0 (Frame.foldl (fun _ _ => (Frame.step (State.setReg_frame ..) (.refl _))) (.refl _)) fun h0 => ?_
  exact (Frame.ite (.refl _) (Frame.step (State.sleepsOff_frame ..) (Frame.step (State.regroup_frame ..) (Frame.step
      (State.measChanged_frame ..) (Frame.step (State.addFld_frame ..) (Frame.step (State.writeDigest_frame ..) h0))))))

theorem State.goOffline_frame (s : State) :
    Frame {} s (State.goOffline s) := by
  unfold State.goOffline
  extract_lets x0 _
  refine Frame.withVar x0 (Frame.step (State.faultRecord_frame ..) (Frame.step (State.setFld_frame ..) (.refl _))) fun h0 => ?_
  exact (Frame.record h0 rfl rfl (.inr rfl) (.inr rfl) (.inr rfl) (.inr rfl) (.inr rfl))

theorem State.mapApply_frame (s : State) :
    Frame {} s (State.mapApply s) := by
  unfold State.mapApply
  extract_lets x0
  refine Frame.withVar x0 (Frame.step (State.noteMap_frame ..) (.refl _)) fun h0 => ?_
  exact (Frame.step (State.mapRefresh_frame ..) (Frame.ite (Frame.ite h0 (Frame.step (State.goOffline_frame ..) h0)) (Frame.step
      (State.setFld_frame ..) h0)))

theorem State.mapDisable_frame (s : State) (u : DevUnit) (cause : Nat) :
    Frame {} s (State.mapDisable s u cause) := by
  unfold State.mapDisable
  extract_lets x0
  refine Frame.withVar x0 (Frame.step (State.noteMap_frame ..) (.refl _)) fun h0 => ?_
  exact (Frame.ite (.refl _) (Frame.step (State.mapApply_frame ..) (Frame.record h0 rfl rfl (.inr rfl) (.inr rfl) (.inr rfl) (.inr rfl)
      (.inr rfl))))

theorem State.extentsChanged_frame (s : State) (was : State) :
    Frame {} s (State.extentsChanged s was) := by
  unfold State.extentsChanged
  extract_lets _
  exact (Frame.foldl (fun _ _ => Frame.step (State.configChanged_frame ..) (.refl _)) (.refl _))

theorem State.replaceExtent_frame (s : State) (p : Nat × Extent) :
    Frame {} s (State.replaceExtent s p) := by
  unfold State.replaceExtent
  split
  · exact (Frame.step (State.raise_frame ..) (.refl _))
  · exact (Frame.record (.refl _) rfl rfl (.inr rfl) (.inr rfl) (.inr rfl) (.inr rfl) (.inr rfl))

theorem State.lostRecords_frame (s : State) (d : Nat) (k : Nat) (idxs : List Nat) :
    Frame {} s (State.lostRecords s d k idxs) := by
  unfold State.lostRecords
  extract_lets _
  split
  · exact (.refl _)
  · exact (Frame.foldl (fun _ _ => (by
        extract_lets _ _
        exact (Frame.step (State.faultRecord_frame ..) (.refl _)))) (.refl _))

theorem State.cutSlots_frame (s : State) (c : Nat) (b : Nat) (st : Nat) :
    Frame { cells := true } s (State.cutSlots s c b st) := by
  unfold State.cutSlots
  extract_lets _ x0
  refine Frame.withVar x0 (Frame.step (State.modCell_frame ..) (.refl _)) fun h0 => ?_
  exact (Frame.foldl (fun _ _ => (Frame.step (State.slotCmdDone_frame ..) (.refl _))) h0)

theorem State.beginShed_frame (s : State) (c : Nat) (b : Nat) (cause : Nat) :
    Frame { mem := true, cells := true } s (State.beginShed s c b cause) := by
  unfold State.beginShed
  extract_lets _ x0
  refine Frame.withVar x0 (Frame.step (State.cellNotice_frame ..) (.refl _)) fun h0 => ?_
  exact (Frame.step (State.settleCell_frame ..) (Frame.step (State.cutSlots_frame ..) (Frame.step (State.putCell_frame ..) h0)))

theorem State.shedCells_frame (s : State) (chosen : List Nat) (cause : Nat) :
    Frame { mem := true, cells := true } s (State.shedCells s chosen cause) := by
  unfold State.shedCells
  extract_lets _ x0 x1
  refine Frame.withVar x0 (Frame.step (State.raise_frame ..) (Frame.step (State.raise_frame ..) (.refl _))) fun h0 => ?_
  refine Frame.withVar x1 (Frame.step (State.setFld_frame ..) (Frame.step (State.setFld_frame ..) h0)) fun h1 => ?_
  exact (Frame.ite (.refl _) (Frame.foldl (fun _ _ => (Frame.step (State.beginShed_frame ..) (.refl _))) h1))

theorem State.loseCells_frame (s : State) (was : State) (k : Nat) :
    Frame { mem := true, cells := true } s (State.loseCells s was k) := by
  unfold State.loseCells
  extract_lets _ _ x0
  refine Frame.withVar x0 (Frame.record (.refl _) rfl rfl (.inl rfl) (.inr rfl) (.inr rfl) (.inr rfl) (.inr rfl)) fun h0 => ?_
  exact (Frame.step (State.shedCells_frame ..) h0)

theorem State.loseCharts_frame (s : State) (was : State) (k : Nat) :
    Frame {} s (State.loseCharts s was k) := by
  unfold State.loseCharts
  exact (Frame.record (.refl _) rfl rfl (.inr rfl) (.inr rfl) (.inr rfl) (.inr rfl) (.inr rfl))

theorem State.noteAdmit_frame (s : State) (r : AdmitResult) :
    Frame {} s (State.noteAdmit s r) := by
  unfold State.noteAdmit
  extract_lets x0 x1 x2 x3 x4 _
  refine Frame.withVar x0 (Frame.step (State.setFld_frame ..) (.refl _)) fun h0 => ?_
  refine Frame.withVar x1 (Frame.step (State.setFld_frame ..) h0) fun h1 => ?_
  refine Frame.withVar x2 (Frame.step (State.setFld_frame ..) h1) fun h2 => ?_
  refine Frame.withVar x3 (Frame.step (State.setFld_frame ..) h2) fun h3 => ?_
  refine Frame.withVar x4 (Frame.step (State.setFld_frame ..) h3) fun h4 => ?_
  exact (Frame.record h4 rfl rfl (.inr rfl) (.inr rfl) (.inr rfl) (.inr rfl) (.inr rfl))

theorem State.without_frame (s : State) (l : List Nat) :
    Frame { cells := true } s (State.without s l) := by
  unfold State.without
  exact (Frame.record (.refl _) rfl rfl (.inl rfl) (.inr rfl) (.inr rfl) (.inr rfl) (.inr rfl))

theorem State.shedDecision_frame (s : State) (cause : Nat) :
    Frame { mem := true, cells := true } s (State.shedDecision s cause) := by
  unfold State.shedDecision
  extract_lets _ _ _ x0
  refine Frame.withVar x0 (Frame.ite (Frame.step (State.noteAdmit_frame ..) (.refl _)) (.refl _)) fun h0 => ?_
  exact (Frame.ite (Frame.step (State.coveredAgain_frame ..) (Frame.step (State.noteAdmit_frame ..) (.refl _))) (Frame.step
      (State.shedCells_frame ..) h0))

theorem State.stackLoss_frame (s : State) (k : Nat) :
    Frame { mem := true, cells := true, runs := true, fab := true } s (State.stackLoss s k) := by
  unfold State.stackLoss
  extract_lets _ x0 x1 x2 x3 x4
  refine Frame.withVar x0 (Frame.step (State.forgetUes_frame ..) (Frame.step (State.loseExtents_frame ..) (Frame.step
      (State.failLoads_frame ..) (Frame.step (State.failOnStack_frame ..) (.refl _))))) fun h0 => ?_
  refine Frame.withVar x1 (Frame.step (State.raise_frame ..) (Frame.step (State.mapDisable_frame ..) h0)) fun h1 => ?_
  refine Frame.withVar x2 (Frame.step (State.extentsChanged_frame ..) (Frame.foldl (fun _ _ => Frame.step (State.replaceExtent_frame ..)
      (.refl _)) h1)) fun h2 => ?_
  refine Frame.withVar x3 (Frame.foldl (fun _ _ => (Frame.step (State.lostRecords_frame ..) (.refl _))) h2) fun h3 => ?_
  refine Frame.withVar x4 (Frame.step (State.loseCells_frame ..) (Frame.step (State.loseCharts_frame ..) h3)) fun h4 => ?_
  exact (Frame.ite (Frame.step (State.shedDecision_frame ..) (Frame.step (State.applyScale_frame ..) h4)) (.refl _))

theorem State.limitStacks_frame (s : State) :
    Frame { mem := true, cells := true, runs := true, fab := true } s (State.limitStacks s) := by
  unfold State.limitStacks
  exact (Frame.foldl (fun _ _ => (Frame.ite (Frame.step (State.stackLoss_frame ..) (.refl _)) (.refl _))) (.refl _))

theorem State.heard_frame (s : State) (n : Nat) :
    Frame { fab := true } s (State.heard s n) := by
  unfold State.heard
  extract_lets _ _
  exact (Frame.record (.refl _) rfl rfl (.inr rfl) (.inr rfl) (.inr rfl) (.inr rfl) (.inl rfl))

theorem State.setRhb_frame (s : State) (p : Nat) (x : RhumbPort) :
    Frame {} s (State.setRhb s p x) := by
  unfold State.setRhb
  exact (Frame.record (.refl _) rfl rfl (.inr rfl) (.inr rfl) (.inr rfl) (.inr rfl) (.inr rfl))

theorem State.stampOp_frame (s : State) (m : Out) :
    Frame { fab := true } s (State.stampOp s m) := by
  unfold State.stampOp
  extract_lets _
  split
  · exact (Frame.record (.refl _) rfl rfl (.inr rfl) (.inr rfl) (.inr rfl) (.inr rfl) (.inl rfl))
  · exact (.refl _)

theorem State.putFlits_frame (s : State) (p : Nat) (n : Nat) (m : Out) :
    Frame { fab := true } s (State.putFlits s p n m) := by
  unfold State.putFlits
  extract_lets x0 _ x1 x2
  refine Frame.withVar x0 (Frame.step (State.addFld_frame ..) (.refl _)) fun h0 => ?_
  refine Frame.withVar x1 (Frame.step (State.setRhb_frame ..) h0) fun h1 => ?_
  refine Frame.withVar x2 (Frame.step (State.setFld_frame ..) h1) fun h2 => ?_
  exact (Frame.step (State.send_frame ..) (Frame.step (State.stampOp_frame ..) (Frame.step (State.count_frame ..) h2)))

theorem State.sendMsg_frame (s : State) (p : Nat) (n : Nat) (m : Out) :
    Frame { fab := true } s (State.sendMsg s p n m) := by
  unfold State.sendMsg
  extract_lets _
  exact (Frame.ite (Frame.step (State.putFlits_frame ..) (.refl _)) (Frame.step (State.setRhb_frame ..) (.refl _)))

theorem State.sendRsp_frame (s : State) (node : Nat) (engine : Nat) (tag : Nat) (status : Nat) (flags : Nat) (data : List Byte) :
    Frame { fab := true } s (State.sendRsp s node engine tag status flags data) := by
  unfold State.sendRsp
  split
  · exact (.refl _)
  · exact (Frame.step (State.sendMsg_frame ..) (.refl _))

theorem State.fabRecord_frame (s : State) (use : FUse) (status : Nat) (addr : Nat) :
    Frame {} s (State.fabRecord s use status addr) := by
  unfold State.fabRecord
  split
  · extract_lets _
    exact (Frame.step (State.faultRecord_frame ..) (.refl _))
  · split
    · extract_lets _
      exact (Frame.step (State.faultRecord_frame ..) (.refl _))
    · exact (.refl _)
  · split
    · extract_lets _
      exact (Frame.step (State.faultRecord_frame ..) (.refl _))
    · exact (.refl _)

theorem State.ringJobDone_frame (s : State) (g : Nat) (cid : Nat) (x : FJob) :
    Frame {} s (State.ringJobDone s g cid x) := by
  unfold State.ringJobDone
  extract_lets _ _ _ x0 x1
  refine Frame.withVar x0 (Frame.ite (.refl _) (Frame.step (State.fabRecord_frame ..) (.refl _))) fun h0 => ?_
  refine Frame.withVar x1 (by
      unfold x1
      split
      · exact (Frame.foldl (fun _ _ => (Frame.step (State.dmaWrite_frame ..) (.refl _))) h0)
      · exact h0) fun h1 => ?_
  exact (Frame.step (State.complete_frame ..) h1)

theorem State.jobCheck_frame (s : State) (j : Nat) :
    Frame { fab := true } s (State.jobCheck s j) := by
  unfold State.jobCheck
  extract_lets _
  split
  · exact (.refl _)
  · exact (Frame.ite (by
        split
        · exact (Frame.step (State.ringJobDone_frame ..) (Frame.record (.refl _) rfl rfl (.inr rfl) (.inr rfl) (.inr rfl) (.inr rfl) (.inl
              rfl)))
        · exact (.refl _)) (.refl _))

theorem State.countEnd_frame (s : State) (dom : Nat) (engine : Nat) (bytes : Nat) (status : Nat) :
    Frame {} s (State.countEnd s dom engine bytes status) := by
  unfold State.countEnd
  extract_lets x0 x1 x2
  refine Frame.withVar x0 (Frame.step (State.addFld_frame ..) (.refl _)) fun h0 => ?_
  refine Frame.withVar x1 (Frame.step (State.count_frame ..) h0) fun h1 => ?_
  refine Frame.withVar x2 (Frame.step (State.count_frame ..) h1) fun h2 => ?_
  exact (Frame.ite (Frame.step (State.count_frame ..) (Frame.step (State.count_frame ..) h2)) (Frame.ite (Frame.step (State.count_frame ..)
      (Frame.step (State.addFld_frame ..) h2)) (Frame.ite (Frame.step (State.count_frame ..) (Frame.step (State.count_frame ..) (Frame.step
      (State.addFld_frame ..) h2))) (Frame.ite (Frame.step (State.count_frame ..) h2) h2))))

theorem State.modJob_frame (s : State) (j : Nat) (f : FJob → FJob) :
    Frame { fab := true } s (State.modJob s j f) := by
  unfold State.modJob
  extract_lets _
  exact (Frame.record (.refl _) rfl rfl (.inr rfl) (.inr rfl) (.inr rfl) (.inr rfl) (.inl rfl))

theorem State.partDone_frame (s : State) (j : Nat) (off : Nat) (n : Nat) (status : Nat) (data : List Byte) (stale : Bool) (retried : Bool) :
    Frame { fab := true } s (State.partDone s j off n status data stale retried) := by
  unfold State.partDone
  split
  · exact (.refl _)
  · extract_lets x0 x1
    refine Frame.withVar x0 (Frame.step (State.countEnd_frame ..) (.refl _)) fun h0 => ?_
    refine Frame.withVar x1 (Frame.ite (Frame.step (State.count_frame ..) h0) h0) fun h1 => ?_
    exact (Frame.step (State.modJob_frame ..) h1)

theorem State.replyTo_frame (s : State) (src : FSrc) (status : Nat) (flags : Nat) (data : List Byte) :
    Frame { fab := true } s (State.replyTo s src status flags data) := by
  unfold State.replyTo
  extract_lets _
  split
  · exact (Frame.step (State.sendRsp_frame ..) (.refl _))
  · extract_lets x0 _
    refine Frame.withVar x0 (Frame.record (.refl _) rfl rfl (.inr rfl) (.inr rfl) (.inr rfl) (.inr rfl) (.inl rfl)) fun h0 => ?_
    split
    · exact (.refl _)
    · extract_lets _
      split
      · exact (Frame.ite (Frame.record h0 rfl rfl (.inr rfl) (.inr rfl) (.inr rfl) (.inr rfl) (.inl rfl)) (Frame.ite (Frame.step
            (State.jobCheck_frame ..) (Frame.step (State.partDone_frame ..) h0)) (Frame.step (State.jobCheck_frame ..) (Frame.step
            (State.partDone_frame ..) h0))))
      · exact h0

theorem State.logOpen_frame (s : State) (body : List Byte) :
    Frame {} s (State.logOpen s body) := by
  unfold State.logOpen
  extract_lets x0
  refine Frame.withVar x0.2 (Frame.step (State.fresh_frame ..) (.refl _)) fun h0 => ?_
  exact (Frame.step (State.logEvent_frame ..) h0)

theorem State.markStale_frame (s : State) (r : Nat) :
    Frame { fab := true } s (State.markStale s r) := by
  unfold State.markStale
  extract_lets _ x0
  refine Frame.withVar x0 (Frame.record (.refl _) rfl rfl (.inr rfl) (.inr rfl) (.inr rfl) (.inr rfl) (.inl rfl)) fun h0 => ?_
  exact (Frame.step (State.logOpen_frame ..) (Frame.step (State.raise_frame ..) h0))

theorem State.hbmUsed_frame (s : State) (d : Nat) (off : Nat) (n : Nat) (rd : Bool) :
    Frame {} s (State.hbmUsed s d off n rd) := by
  unfold State.hbmUsed
  extract_lets _
  exact (Frame.ite (.refl _) (Frame.foldl (fun _ _ => (by
      split
      · exact (.refl _)
      · extract_lets _ x0
        refine Frame.withVar x0 (Frame.step (State.count_frame ..) (Frame.step (State.count_frame ..) (Frame.step (State.count_frame ..)
            (.refl _)))) fun h0 => ?_
        exact (Frame.ite (Frame.step (State.count_frame ..) h0) h0))) (.refl _)))

theorem State.health_frame (s : State) (part : Nat) (input : Nat) (n : Nat) :
    Frame {} s (State.health s part input n) := by
  unfold State.health
  exact (Frame.record (.refl _) rfl rfl (.inr rfl) (.inr rfl) (.inr rfl) (.inr rfl) (.inr rfl))

theorem State.blockPoisoned_frame (s : State) (b : Nat) :
    Frame {} s (State.blockPoisoned s b) := by
  unfold State.blockPoisoned
  extract_lets _ x0 x1 _ _
  refine Frame.withVar x0 (Frame.step (State.health_frame ..) (Frame.step (State.count_frame ..) (Frame.step (State.satFld_frame ..) (.refl
      _)))) fun h0 => ?_
  refine Frame.withVar x1 (Frame.step (State.raise_frame ..) h0) fun h1 => ?_
  exact (Frame.ite (.refl _) (Frame.record h1 rfl rfl (.inr rfl) (.inr rfl) (.inr rfl) (.inr rfl) (.inr rfl)))

theorem State.blockCorrected_frame (s : State) (b : Nat) :
    Frame {} s (State.blockCorrected s b) := by
  unfold State.blockCorrected
  extract_lets _ _ x0 _ x1
  refine Frame.withVar x0 (Frame.step (State.health_frame ..) (Frame.step (State.count_frame ..) (Frame.step (State.addFld_frame ..) (.refl
      _)))) fun h0 => ?_
  refine Frame.withVar x1 (Frame.record h0 rfl rfl (.inr rfl) (.inr rfl) (.inr rfl) (.inr rfl) (.inr rfl)) fun h1 => ?_
  split
  · exact h1
  · extract_lets x2
    refine Frame.withVar x2 (Frame.step (State.count_frame ..) h1) fun h2 => ?_
    exact (Frame.record h2 rfl rfl (.inr rfl) (.inr rfl) (.inr rfl) (.inr rfl) (.inr rfl))

theorem State.meetBlocks_frame (s : State) (p : Nat → Bool) :
    Frame {} s (State.meetBlocks s p) := by
  unfold State.meetBlocks
  extract_lets _
  exact (Frame.ite (.refl _) (Frame.foldl (fun _ _ => (Frame.ite (Frame.step (State.blockPoisoned_frame ..) (.refl _)) (Frame.step
      (State.blockCorrected_frame ..) (.refl _)))) (Frame.record (.refl _) rfl rfl (.inr rfl) (.inr rfl) (.inr rfl) (.inr rfl) (.inr rfl))))

theorem State.meetErrors_frame (s : State) (d : Nat) (off : Nat) (n : Nat) :
    Frame {} s (State.meetErrors s d off n) := by
  unfold State.meetErrors
  exact (Frame.step (State.meetBlocks_frame ..) (.refl _))

theorem State.readHbm_frame (s : State) (d : Nat) (off : Nat) (n : Nat) :
    Frame {} s (State.readHbm s d off n) := by
  unfold State.readHbm
  exact (Frame.step (State.hbmUsed_frame ..) (Frame.step (State.meetErrors_frame ..) (.refl _)))

theorem State.noteSharer_frame (s : State) (q : HomeReq) (r : Nat) :
    Frame { fab := true } s (State.noteSharer s q r) := by
  unfold State.noteSharer
  extract_lets _ _
  exact (Frame.ite (Frame.record (.refl _) rfl rfl (.inr rfl) (.inr rfl) (.inr rfl) (.inr rfl) (.inl rfl)) (.refl _))

theorem State.serveFault_frame (s : State) (e : List Nat) (a : Nat) (cause : Nat) :
    Frame {} s (State.serveFault s e a cause).1 := by
  unfold State.serveFault
  extract_lets x0 _ x1 x2
  refine Frame.withVar x0 (Frame.step (State.hbmNote_frame ..) (.refl _)) fun h0 => ?_
  refine Frame.withVar x1 (Frame.step (State.faultRecord_frame ..) h0) fun h1 => ?_
  refine Frame.withVar x2.2 (Frame.step (State.fresh_frame ..) h1) fun h2 => ?_
  exact (Frame.fst h2)

theorem State.sendReq_frame (s : State) (id : Nat) (o : FOp) (port : Nat) :
    Frame { fab := true } s (State.sendReq s id o port) := by
  unfold State.sendReq
  extract_lets _
  exact (Frame.step (State.sendMsg_frame ..) (.refl _))

theorem State.sendOp_frame (s : State) (o : FOp) :
    FrameO { fab := true } s (State.sendOp s o) := by
  unfold State.sendOp
  extract_lets _ _
  split
  · exact FrameO.none
  · extract_lets _
    exact (FrameO.some (Frame.step (State.sendReq_frame ..) (Frame.record (.refl _) rfl rfl (.inr rfl) (.inr rfl) (.inr rfl) (.inr rfl)
        (.inl rfl))))

theorem State.dropLines_frame (s : State) (p : CacheLine → Bool) :
    Frame { fab := true } s (State.dropLines s p) := by
  unfold State.dropLines
  extract_lets _
  exact (Frame.step (State.addFld_frame ..) (Frame.record (.refl _) rfl rfl (.inr rfl) (.inr rfl) (.inr rfl) (.inr rfl) (.inl rfl)))

theorem State.markDown_frame (s : State) (n : Nat) :
    Frame { fab := true } s (State.markDown s n) := by
  unfold State.markDown
  extract_lets x0
  refine Frame.withVar x0 (Frame.step (State.setFld_frame ..) (.refl _)) fun h0 => ?_
  exact (Frame.ite (.refl _) (Frame.step (State.dropLines_frame ..) (Frame.step (State.raise_frame ..) h0)))

theorem State.serveLoad_frame (s : State) (q : HomeReq) (r : Nat) (e : List Nat) :
    Frame { fab := true } s (State.serveLoad s q r e) := by
  unfold State.serveLoad
  extract_lets _ x0 x1 _ _
  refine Frame.withVar x0 (Frame.step (State.readHbm_frame ..) (.refl _)) fun h0 => ?_
  refine Frame.withVar x1 (Frame.step (State.noteSharer_frame ..) h0) fun h1 => ?_
  exact (Frame.ite (Frame.ite (by
      split
      · extract_lets x2
        refine Frame.withVar x2.1 (Frame.step (State.serveFault_frame ..) h1) fun h2 => ?_
        exact (Frame.step (State.replyTo_frame ..) h2)
      · exact (Frame.step (State.replyTo_frame ..) h1)) (Frame.ite (by
      split
      · exact (FrameO.get (by assumption) (FrameO.ite FrameO.none (FrameO.step (State.sendOp_frame ..) h1)))
      · exact (Frame.step (State.replyTo_frame ..) (Frame.step (State.markDown_frame ..) h1))) (Frame.step (State.replyTo_frame ..) h1)))
            (by
      split
      · extract_lets x3
        refine Frame.withVar x3.1 (Frame.step (State.serveFault_frame ..) h0) fun h3 => ?_
        exact (Frame.step (State.replyTo_frame ..) h3)
      · exact (Frame.step (State.replyTo_frame ..) h1)))

theorem State.forwardWrite_frame (s : State) (src : FSrc) (r : Nat) (e : List Nat) (kind : FKind) (a : Nat) (n : Nat) (data : List Byte)
    (old : Nat) :
    Frame { fab := true } s (State.forwardWrite s src r e kind a n data old) := by
  unfold State.forwardWrite
  extract_lets _ _ _ x0 _ _
  refine Frame.withVar x0 (Frame.record (.refl _) rfl rfl (.inr rfl) (.inr rfl) (.inr rfl) (.inr rfl) (.inl rfl)) fun h0 => ?_
  exact (Frame.ite (Frame.step (State.replyTo_frame ..) (.refl _)) (by
      split
      · exact (FrameO.get (by assumption) (FrameO.step (State.sendOp_frame ..) h0))
      · exact (Frame.step (State.replyTo_frame ..) (Frame.step (State.markDown_frame ..) (Frame.record h0 rfl rfl (.inr rfl) (.inr rfl)
            (.inr rfl) (.inr rfl) (.inl rfl))))))

theorem State.setStream_frame (s : State) (k : KvStream) :
    Frame {} s (State.setStream s k) := by
  unfold State.setStream
  extract_lets _
  exact (Frame.record (.refl _) rfl rfl (.inr rfl) (.inr rfl) (.inr rfl) (.inr rfl) (.inr rfl))

theorem State.spoilPages_frame (s : State) (d : Nat) (off : Nat) (n : Nat) :
    Frame {} s (State.spoilPages s d off n) := by
  unfold State.spoilPages
  exact (Frame.foldl (fun _ _ => (Frame.step (State.setStream_frame ..) (.refl _))) (.refl _))

theorem State.storeData_frame (s : State) (dom : Nat) (off : Nat) (b : List Byte) :
    Frame { mem := true } s (State.storeData s dom off b) := by
  unfold State.storeData
  extract_lets _ _ x0
  refine Frame.withVar x0 (Frame.record (.refl _) rfl rfl (.inr rfl) (.inr rfl) (.inr rfl) (.inr rfl) (.inr rfl)) fun h0 => ?_
  exact (Frame.step (State.hbmUsed_frame ..) (Frame.step (State.store_frame ..) h0))

theorem State.dropRange_frame (s : State) (a : Nat) (n : Nat) :
    Frame { fab := true } s (State.dropRange s a n) := by
  unfold State.dropRange
  extract_lets _ _
  exact (Frame.record (.refl _) rfl rfl (.inr rfl) (.inr rfl) (.inr rfl) (.inr rfl) (.inl rfl))

theorem State.sendDrop_frame (s : State) (h : Nat) (a : Nat) (n : Nat) (engine : Nat) (node : Nat) :
    Frame { fab := true } s (State.sendDrop s h a n engine node) := by
  unfold State.sendDrop
  extract_lets _ _
  split
  · exact (FrameO.get (by assumption) (FrameO.ite FrameO.none (FrameO.step (State.sendOp_frame ..) (.refl _))))
  · exact (Frame.record (.refl _) rfl rfl (.inr rfl) (.inr rfl) (.inr rfl) (.inr rfl) (.inl rfl))

theorem State.startDrops_frame (s : State) (src : FSrc) (r : Nat) (e : List Nat) (kind : FKind) (a : Nat) (n : Nat) (reply : Nat) :
    Frame { fab := true } s (State.startDrops s src r e kind a n reply).1 := by
  unfold State.startDrops
  extract_lets _ x0 _ _ x1
  refine Frame.withVar x0 (Frame.step (State.dropRange_frame ..) (.refl _)) fun h0 => ?_
  refine Frame.withVar x1 (Frame.record h0 rfl rfl (.inr rfl) (.inr rfl) (.inr rfl) (.inr rfl) (.inl rfl)) fun h1 => ?_
  exact (Frame.ite1 (Frame.fst h0) (Frame.fst (Frame.foldl (fun _ _ => (Frame.step (State.sendDrop_frame ..) (.refl _))) h1)))

theorem State.applyWrite_frame (s : State) (src : FSrc) (r : Nat) (e : List Nat) (kind : FKind) (a : Nat) (data : List Byte) (old : Nat) :
    Frame { mem := true, fab := true } s (State.applyWrite s src r e kind a data old) := by
  unfold State.applyWrite
  extract_lets x0 x1
  refine Frame.withVar x0 (Frame.step (State.spoilPages_frame ..) (Frame.step (State.storeData_frame ..) (.refl _))) fun h0 => ?_
  refine Frame.withVar x1.1 (Frame.step (State.startDrops_frame ..) h0) fun h1 => ?_
  split
  · exact (Frame.ite (Frame.step (State.replyTo_frame ..) h1) h1)
  · exact (Frame.step (State.replyTo_frame ..) h0)

theorem State.serveWrite_frame (s : State) (q : HomeReq) (r : Nat) (e : List Nat) :
    Frame { mem := true, fab := true } s (State.serveWrite s q r e) := by
  unfold State.serveWrite
  extract_lets _ x0 _ _
  refine Frame.withVar x0 (Frame.ite (.refl _) (Frame.step (State.readHbm_frame ..) (.refl _))) fun h0 => ?_
  split
  · extract_lets x1
    refine Frame.withVar x1.1 (Frame.step (State.serveFault_frame ..) h0) fun h1 => ?_
    exact (Frame.step (State.replyTo_frame ..) h1)
  · exact (Frame.ite (Frame.step (State.forwardWrite_frame ..) h0) (Frame.step (State.applyWrite_frame ..) h0))

theorem State.serveOk_frame (s : State) (q : HomeReq) (r : Nat) (e : List Nat) :
    Frame { mem := true, fab := true } s (State.serveOk s q r e) := by
  unfold State.serveOk
  extract_lets x0 _
  refine Frame.withVar x0.1 (Frame.step (State.startDrops_frame ..) (.refl _)) fun h0 => ?_
  split
  · exact (Frame.step (State.serveLoad_frame ..) (.refl _))
  · exact (Frame.step (State.serveWrite_frame ..) (.refl _))
  · exact (Frame.step (State.serveWrite_frame ..) (.refl _))
  · exact (Frame.ite (Frame.step (State.replyTo_frame ..) (.refl _)) (Frame.ite (Frame.step (State.replyTo_frame ..) h0) h0))
  · exact (Frame.ite (Frame.step (State.replyTo_frame ..) (Frame.record (.refl _) rfl rfl (.inr rfl) (.inr rfl) (.inr rfl) (.inr rfl) (.inl
        rfl))) (Frame.step (State.replyTo_frame ..) (.refl _)))
  · exact (Frame.step (State.replyTo_frame ..) (.refl _))

theorem State.serve_frame (s : State) (q : HomeReq) :
    Frame { mem := true, fab := true } s (State.serve s q) := by
  unfold State.serve
  split
  · exact (Frame.step (State.replyTo_frame ..) (.refl _))
  · exact (Frame.ite (Frame.step (State.replyTo_frame ..) (.refl _)) (by
        split
        · exact (Frame.step (State.replyTo_frame ..) (Frame.ite (Frame.step (State.markStale_frame ..) (.refl _)) (.refl _)))
        · exact (Frame.step (State.serveOk_frame ..) (.refl _))))

theorem State.serveOrWait_frame (s : State) (q : HomeReq) :
    Frame { mem := true, fab := true } s (State.serveOrWait s q) := by
  unfold State.serveOrWait
  extract_lets _
  exact (Frame.ite (Frame.record (.refl _) rfl rfl (.inr rfl) (.inr rfl) (.inr rfl) (.inr rfl) (.inl rfl)) (Frame.step (State.serve_frame
      ..) (.refl _)))

theorem State.fabricRequest_frame (s : State) (node : Nat) (engine : Nat) (tag : Nat) (kind : Nat) (op : Nat) (addr : Nat) (len : Nat) (key
    : Nat) (epoch : Nat) (fill : Bool) (data : List Byte) :
    Frame { mem := true, fab := true } s (State.fabricRequest s node engine tag kind op addr len key epoch fill data) := by
  unfold State.fabricRequest
  extract_lets x0
  refine Frame.withVar x0 (Frame.step (State.heard_frame ..) (.refl _)) fun h0 => ?_
  split
  · exact h0
  · exact (Frame.step (State.sendRsp_frame ..) h0)
  · exact (Frame.step (State.serveOrWait_frame ..) h0)

theorem execFabricRequestReceive_frame (node : Nat) (engine : Nat) (tag : Nat) (kind : Nat) (op : Nat) (addr : Nat) (len : Nat) (key : Nat)
    (epoch : Nat) (fill : Bool) (data : List Byte) (s : State) :
    FrameN { mem := true, cells := true, runs := true, fab := true } s (execFabricRequestReceive node engine tag kind op addr len key epoch
        fill data s) := by
  unfold execFabricRequestReceive
  exact (FrameN.next (Frame.step (State.limitStacks_frame ..) (Frame.step (State.fabricRequest_frame ..) (.refl _))))

theorem State.setRing_frame (s : State) (g : Nat) (r : Ring) :
    Frame {} s (State.setRing s g r) := by
  unfold State.setRing
  exact (Frame.record (.refl _) rfl rfl (.inr rfl) (.inr rfl) (.inr rfl) (.inr rfl) (.inr rfl))

theorem State.postReset_frame (s : State) (g : Nat) (f : Fetched) :
    Frame {} s (State.postReset s g f).1 := by
  unfold State.postReset
  extract_lets x0
  refine Frame.withVar x0 (Frame.step (State.addFld_frame ..) (.refl _)) fun h0 => ?_
  split
  · exact (Frame.fst (.refl _))
  · extract_lets x1
    refine Frame.withVar x1 (Frame.ite (Frame.step (State.count_frame ..) h0) (.refl _)) fun h1 => ?_
    exact (Frame.ite1 (Frame.fst (Frame.step (State.writeEntry_frame ..) h1)) (Frame.fst h1))

theorem State.resetRing_frame (s : State) (p : State × Nat × Nat) (g : Nat) :
    Frame {} p.1 (State.resetRing s p g).1 := by
  unfold State.resetRing
  split
  · exact (.refl _)
  · extract_lets _ x0 x1
    refine Frame.withVar x0 (Frame.step (State.setFld_frame ..) (Frame.step (State.setRing_frame ..) (.refl _))) fun h0 => ?_
    refine Frame.withVar x1.1 (Frame.foldl1 (fun _ _ => (by
        extract_lets x2
        refine Frame.withVar x2.1 (Frame.step (State.postReset_frame ..) (.refl _)) fun h2 => ?_
        exact (Frame.fst h2))) (Frame.fst h0)) fun h1 => ?_
    exact (Frame.fst h1)

theorem State.freeCounters_frame (s : State) (d : Nat) :
    Frame {} s (State.freeCounters s d) := by
  unfold State.freeCounters
  extract_lets _
  exact (Frame.record (.refl _) rfl rfl (.inr rfl) (.inr rfl) (.inr rfl) (.inr rfl) (.inr rfl))

theorem State.acquire_frame (s : State) (off : Int) :
    Frame { mer := true } s (State.acquire s off) := by
  unfold State.acquire
  extract_lets _ _ x0
  refine Frame.withVar x0 (Frame.record (.refl _) rfl rfl (.inr rfl) (.inl rfl) (.inr rfl) (.inr rfl) (.inr rfl)) fun h0 => ?_
  exact (Frame.ite (Frame.step (State.setFld_frame ..) (Frame.step (State.setFld_frame ..) h0)) h0)

theorem State.dropDoorbell_frame (s : State) (inst : Nat) :
    Frame {} s (State.dropDoorbell s inst) := by
  unfold State.dropDoorbell
  extract_lets x0
  refine Frame.withVar x0 (Frame.step (State.addFld_frame ..) (Frame.step (State.satFld_frame ..) (.refl _))) fun h0 => ?_
  split
  · exact (Frame.ite h0 (Frame.step (State.count_frame ..) h0))
  · exact h0

theorem State.dropTied_frame (s : State) (inst : Nat) (i : Inst) :
    Frame {} s (State.dropTied s inst i) := by
  unfold State.dropTied
  exact (Frame.ite (Frame.foldl (fun _ _ => (Frame.step (State.dropDoorbell_frame ..) (.refl _))) (.refl _)) (.refl _))

theorem State.resetStart_frame (s : State) (inst : Nat) :
    Frame {} s (State.resetStart s inst) := by
  unfold State.resetStart
  split
  · exact (.refl _)
  · extract_lets x0 x1 x2
    refine Frame.withVar x0 (Frame.step (State.dropTied_frame ..) (.refl _)) fun h0 => ?_
    refine Frame.withVar x1 (Frame.ite h0 (Frame.step (State.count_frame ..) h0)) fun h1 => ?_
    refine Frame.withVar x2 (Frame.step (State.setFld_frame ..) h1) fun h2 => ?_
    exact (Frame.ite (.refl _) (Frame.record h2 rfl rfl (.inr rfl) (.inr rfl) (.inr rfl) (.inr rfl) (.inr rfl)))

theorem State.computeStart_frame (s : State) (cause : Nat) :
    Frame {} s (State.computeStart s cause) := by
  unfold State.computeStart
  extract_lets x0
  refine Frame.withVar x0 (Frame.foldl (fun _ _ => Frame.step (State.resetStart_frame ..) (.refl _)) (.refl _)) fun h0 => ?_
  exact (Frame.record h0 rfl rfl (.inr rfl) (.inr rfl) (.inr rfl) (.inr rfl) (.inr rfl))

theorem State.controlUe_frame (s : State) :
    Frame {} s (State.controlUe s) := by
  unfold State.controlUe
  exact (Frame.step (State.computeStart_frame ..) (Frame.step (State.faultRecord_frame ..) (.refl _)))

theorem execControlUe_frame (s : State) :
    FrameN {} s (execControlUe s) := by
  unfold execControlUe
  exact (FrameN.next (Frame.step (State.controlUe_frame ..) (.refl _)))

theorem State.advanceTo_frame (s : State) (t : Nat) :
    Frame {} s (State.advanceTo s t) := by
  unfold State.advanceTo
  exact (Frame.record (.refl _) rfl rfl (.inr rfl) (.inr rfl) (.inr rfl) (.inr rfl) (.inr rfl))

theorem State.wait_frame (s : State) (d : Nat) :
    Frame {} s (State.wait s d) := by
  unfold State.wait
  exact (Frame.step (State.advanceTo_frame ..) (.refl _))

theorem State.untilTai_frame (s : State) (t : Nat) :
    Frame {} s (State.untilTai s t) := by
  unfold State.untilTai
  exact (Frame.step (State.wait_frame ..) (.refl _))

theorem State.ppsRise_frame (s : State) :
    Frame { mer := true } s (State.ppsRise s) := by
  unfold State.ppsRise
  extract_lets x0 _
  refine Frame.withVar x0 (Frame.step (State.untilTai_frame ..) (.refl _)) fun h0 => ?_
  exact (Frame.ite (Frame.record h0 rfl rfl (.inr rfl) (.inl rfl) (.inr rfl) (.inr rfl) (.inr rfl)) h0)

theorem State.ethFault_frame (s : State) (d : Nat) (off : Nat) (cause : Nat) :
    Frame {} s (State.ethFault s d off cause) := by
  unfold State.ethFault
  extract_lets _
  exact (Frame.step (State.faultRecord_frame ..) (Frame.step (State.hbmNote_frame ..) (.refl _)))

theorem State.prWrite_frame (s : State) (n : Nat) (off : Nat) (b : List Byte) :
    Frame { mem := true } s (State.prWrite s n off b) := by
  unfold State.prWrite
  split
  · exact (Frame.step (State.storeData_frame ..) (.refl _))
  · exact (Frame.step (State.ethFault_frame ..) (.refl _))

theorem State.setTxq_frame (s : State) (q : Nat) (x : TxQueue) :
    Frame {} s (State.setTxq s q x) := by
  unfold State.setTxq
  extract_lets _
  exact (Frame.record (.refl _) rfl rfl (.inr rfl) (.inr rfl) (.inr rfl) (.inr rfl) (.inr rfl))

theorem State.txWriteBack_frame (s : State) (q n : Nat) : Frame { mem := true } s (s.txWriteBack q n) := by
  induction n generalizing s with
  | zero => exact .refl _
  | succ k ih =>
    unfold State.txWriteBack
    dsimp only
    split
    · exact .refl _
    · split
      · exact .refl _
      · refine Frame.trans (ih _) (Frame.step (State.prWrite_frame ..) (Frame.step (State.setTxq_frame ..)
          (Frame.foldl (fun t i => ?_) (.refl _))))
        split
        · exact Frame.ite (Frame.step (State.prWrite_frame ..) (Frame.step (State.prWrite_frame ..) (.refl _)))
            (Frame.step (State.prWrite_frame ..) (.refl _))
        · exact Frame.step (State.prWrite_frame ..) (.refl _)

theorem State.txLinkLost_frame (s : State) (sp : Nat) :
    Frame { mem := true } s (State.txLinkLost s sp) := by
  unfold State.txLinkLost
  exact (Frame.foldl (fun _ _ => (by
      extract_lets _ _
      exact (Frame.step (State.txWriteBack_frame ..) (Frame.step (State.setTxq_frame ..) (.refl _))))) (.refl _))

theorem State.sxtServe_frame {c : Changes} {f : State → State} (hf : ∀ t, Frame c t (f t)) (s : State) : Frame c s (s.sxtServe f) := by
  unfold State.sxtServe
  exact Frame.ite (.refl _) (Frame.trans (hf _) (Frame.step0 (State.setFld_frame ..)
    (Frame.record (.refl _) rfl rfl (.inr rfl) (.inr rfl) (.inr rfl) (.inr rfl) (.inr rfl))))

theorem State.lockRefused_frame (s : State) (t : Nat) (held : Nat) :
    Frame {} s (State.lockRefused s t held) := by
  unfold State.lockRefused
  exact (Frame.step (State.count_frame ..) (Frame.step (State.logEvent_frame ..) (.refl _)))

theorem State.takeToken_frame (s : State) (t : Nat) :
    Frame {} s (State.takeToken s t) := by
  unfold State.takeToken
  extract_lets _
  exact (Frame.record (.refl _) rfl rfl (.inr rfl) (.inr rfl) (.inr rfl) (.inr rfl) (.inr rfl))

theorem State.pldmStart_frame (s : State) :
    Frame {} s (State.pldmStart s) := by
  unfold State.pldmStart
  extract_lets x0 _ x1
  refine Frame.withVar x0 (Frame.step (State.count_frame ..) (.refl _)) fun h0 => ?_
  refine Frame.withVar x1 (Frame.step (State.takeToken_frame ..) (Frame.record h0 rfl rfl (.inr rfl) (.inr rfl) (.inr rfl) (.inr rfl) (.inr
      rfl))) fun h1 => ?_
  exact (Frame.ite (Frame.step (State.send_frame ..) h0) (by
      split
      · exact (Frame.step (State.send_frame ..) (Frame.step (State.lockRefused_frame ..) h0))
      · exact (Frame.step (State.send_frame ..) (Frame.step (State.logEvent_frame ..) (Frame.step (State.setFld_frame ..) h1)))))

theorem execRequestUpdate_frame (s : State) :
    FrameN {} s (execRequestUpdate s) := by
  unfold execRequestUpdate
  exact (FrameN.next (Frame.trans (State.sxtServe_frame (fun _ => Frame.step (State.pldmStart_frame ..) (.refl _)) ..) (.refl _)))

theorem State.badAccess_frame (s : State) (link : Nat) :
    Frame {} s (State.badAccess s link) := by
  unfold State.badAccess
  exact (Frame.step (State.count_frame ..) (Frame.step (State.raise_frame ..) (Frame.step (State.addFld_frame ..) (.refl _))))

theorem State.badHostAccess_frame (s : State) (b : Bar) (off : Nat) (size : Nat) (write : Bool) :
    Frame {} s (State.badHostAccess s b off size write) := by
  unfold State.badHostAccess
  extract_lets x0
  refine Frame.withVar x0 (Frame.step (State.badAccess_frame ..) (.refl _)) fun h0 => ?_
  exact (Frame.ite (Frame.ite h0 (Frame.record h0 rfl rfl (.inr rfl) (.inr rfl) (.inr rfl) (.inr rfl) (.inr rfl))) (.refl _))

theorem execBadAccess_frame (bar : Bar) (off : Nat) (size : Nat) (write : Bool) (s : State) :
    FrameN {} s (execBadAccess bar off size write s) := by
  unfold execBadAccess
  exact (FrameN.next (Frame.step (State.badHostAccess_frame ..) (.refl _)))

theorem State.bearingFetch_frame (s : State) (b : Nat) :
    Frame { fab := true } s (State.bearingFetch s b) := by
  unfold State.bearingFetch
  extract_lets _
  exact (Frame.record (.refl _) rfl rfl (.inr rfl) (.inr rfl) (.inr rfl) (.inr rfl) (.inl rfl))

theorem State.bearingPut_frame (s : State) (b : Nat) (e : List Nat) :
    Frame { fab := true } s (State.bearingPut s b e) := by
  unfold State.bearingPut
  extract_lets _
  exact (Frame.ite (Frame.step (State.raise_frame ..) (.refl _)) (Frame.record (.refl _) rfl rfl (.inr rfl) (.inr rfl) (.inr rfl) (.inr
      rfl) (.inl rfl)))

theorem State.bearingCommit_frame (s : State) (b : Nat) :
    Frame { fab := true } s (State.bearingCommit s b) := by
  unfold State.bearingCommit
  exact (Frame.step (State.bearingPut_frame ..) (.refl _))

theorem State.bearingSel_frame (s : State) (v : Nat) :
    Frame { fab := true } s (State.bearingSel s v) := by
  unfold State.bearingSel
  extract_lets x0 x1
  refine Frame.withVar x0 (Frame.step (State.setFld_frame ..) (Frame.step (State.setFld_frame ..) (.refl _))) fun h0 => ?_
  refine Frame.withVar x1 (Frame.ite (Frame.step (State.bearingFetch_frame ..) h0) h0) fun h1 => ?_
  exact (Frame.ite (Frame.step (State.bearingCommit_frame ..) h1) h1)

theorem execBearingCommit_frame (value : Nat) (s : State) :
    FrameN { fab := true } s (execBearingCommit value s) := by
  unfold execBearingCommit
  exact (FrameN.next (Frame.step (State.bearingSel_frame ..) (.refl _)))

theorem State.coreStop_frame (s : State) :
    Frame {} s (State.coreStop s) := by
  unfold State.coreStop
  exact (Frame.ite (Frame.step (State.setFld_frame ..) (Frame.step (State.advanceTo_frame ..) (.refl _))) (.refl _))

theorem execCoreClockStop_frame (s : State) :
    FrameN {} s (execCoreClockStop s) := by
  unfold execCoreClockStop
  exact (FrameN.next (Frame.step (State.coreStop_frame ..) (.refl _)))

theorem State.fit_frame (s : State) (p : DevParts) :
    Frame {} s (State.fit s p) := by
  unfold State.fit
  extract_lets _ _ _ x0
  refine Frame.withVar x0 (Frame.record (.refl _) rfl rfl (.inr rfl) (.inr rfl) (.inr rfl) (.inr rfl) (.inr rfl)) fun h0 => ?_
  exact (Frame.step (State.setFld_frame ..) (Frame.step (State.setFld_frame ..) h0))

theorem State.powerOn_frame (s : State) (p : DevParts) :
    Frame {} s (State.powerOn s p) := by
  unfold State.powerOn
  extract_lets x0 _
  refine Frame.withVar x0 (Frame.ite (.refl _) (Frame.step (State.fit_frame ..) (.refl _))) fun h0 => ?_
  exact (Frame.ite (.refl _) (Frame.record h0 rfl rfl (.inr rfl) (.inr rfl) (.inr rfl) (.inr rfl) (.inr rfl)))

theorem execPowerOn_frame (parts : DevParts) (s : State) :
    FrameN {} s (execPowerOn parts s) := by
  unfold execPowerOn
  exact (FrameN.next (Frame.step (State.powerOn_frame ..) (.refl _)))

theorem State.setRegionKey_frame (s : State) (r : Nat) (key : Option Nat) :
    Frame { fab := true } s (State.setRegionKey s r key) := by
  unfold State.setRegionKey
  extract_lets _
  exact (Frame.record (.refl _) rfl rfl (.inr rfl) (.inr rfl) (.inr rfl) (.inr rfl) (.inl rfl))

theorem State.modRun_frame (s : State) (r : Nat) (f : Run → Run) :
    Frame { runs := true } s (State.modRun s r f) := by
  unfold State.modRun
  exact (Frame.record (.refl _) rfl rfl (.inr rfl) (.inr rfl) (.inr rfl) (.inl rfl) (.inr rfl))

theorem State.xferStarted_frame (s : State) (r : Nat) (i : Nat) :
    Frame { runs := true } s (State.xferStarted s r i) := by
  unfold State.xferStarted
  exact (Frame.step (State.modRun_frame ..) (.refl _))

theorem State.tapBypassed_frame (s : State) :
    Frame {} s (State.tapBypassed s) := by
  unfold State.tapBypassed
  extract_lets _
  exact (Frame.step (State.send_frame ..) (Frame.record (.refl _) rfl rfl (.inr rfl) (.inr rfl) (.inr rfl) (.inr rfl) (.inr rfl)))

theorem State.tapOnly_frame (s : State) (code : Nat) :
    Frame {} s (State.tapOnly s code) := by
  unfold State.tapOnly
  extract_lets _
  exact (Frame.ite (.refl _) (Frame.ite (Frame.record (.refl _) rfl rfl (.inr rfl) (.inr rfl) (.inr rfl) (.inr rfl) (.inr rfl)) (Frame.step
      (State.tapBypassed_frame ..) (.refl _))))

theorem execClamp_frame (s : State) :
    FrameN {} s (execClamp s) := by
  unfold execClamp
  exact (FrameN.next (Frame.step (State.tapOnly_frame ..) (.refl _)))

theorem State.noSlate_frame (s : State) (vector : Bool) (ready : List WinEntry) :
    Frame {} s (State.noSlate s vector ready) := by
  unfold State.noSlate
  extract_lets _
  exact (Frame.ite (.refl _) (Frame.step (State.setVtAt_frame ..) (.refl _)))

theorem State.quantumExceeded_frame (s : State) (r : Nat) (i : Nat) :
    Frame { runs := true } s (State.quantumExceeded s r i) := by
  unfold State.quantumExceeded
  exact (Frame.step (State.countHelm_frame ..) (Frame.step (State.raise_frame ..) (Frame.step (State.failRun_frame ..) (.refl _))))

theorem State.modSlot_frame (s : State) (c : Nat) (n : Nat) (f : SlotJob → SlotJob) :
    Frame { cells := true } s (State.modSlot s c n f) := by
  unfold State.modSlot
  exact (Frame.record (.refl _) rfl rfl (.inl rfl) (.inr rfl) (.inr rfl) (.inr rfl) (.inr rfl))

theorem State.noteVerm_frame (s : State) (e : WinEntry) (front : Nat) :
    Frame { cells := true } s (State.noteVerm s e front) := by
  unfold State.noteVerm
  extract_lets _
  split
  · exact (.refl _)
  · extract_lets x0 x1
    refine Frame.withVar x0 (Frame.ite (.refl _) (Frame.step (State.setFld_frame ..) (.refl _))) fun h0 => ?_
    refine Frame.withVar x1 (Frame.step (State.satFld_frame ..) h0) fun h1 => ?_
    split
    · exact h0
    · exact (Frame.ite (by
          split
          · extract_lets x2
            refine Frame.withVar x2 (Frame.foldl (fun _ _ => (Frame.step (State.modSlot_frame ..) (.refl _))) h1) fun h2 => ?_
            exact (Frame.record h2 rfl rfl (.inl rfl) (.inr rfl) (.inr rfl) (.inr rfl) (.inr rfl))
          · exact h1) h0)

theorem State.grantVt_frame (s : State) (w : WinEntry) (winner : Bool) :
    Frame {} s (State.grantVt s w winner) := by
  unfold State.grantVt
  extract_lets _ _
  split
  · extract_lets _ _
    exact (Frame.step (State.setVtAt_frame ..) (.refl _))
  · exact (Frame.ite (Frame.ite (.refl _) (Frame.step (State.setVt_frame ..) (.refl _))) (.refl _))

theorem State.postCmdRecord_frame (s : State) (x : Run) (i : Nat) (p : CmdReport) :
    Frame {} s (State.postCmdRecord s x i p) := by
  unfold State.postCmdRecord
  split
  · exact (Frame.step (State.postExtra_frame ..) (.refl _))
  · exact (.refl _)

theorem State.postVaried_frame (s : State) (r : Nat) :
    Frame { runs := true } s (State.postVaried s r) := by
  unfold State.postVaried
  split
  · exact (.refl _)
  · extract_lets _ x0
    refine Frame.withVar x0 (Frame.foldl (fun _ _ => (Frame.step (State.postCmdRecord_frame ..) (.refl _))) (.refl _)) fun h0 => ?_
    exact (Frame.ite (Frame.step (State.setRun_frame ..) h0) (.refl _))

theorem State.grantEntry_frame (s : State) (w : WinEntry) (front : Nat) (e : Nat) (c : Nat) (winner : Bool) :
    Frame { cells := true, runs := true } s (State.grantEntry s w front e c winner) := by
  unfold State.grantEntry
  extract_lets x0 x1 _ x2 x3 x4
  refine Frame.withVar x0 (Frame.step (State.noteVerm_frame ..) (.refl _)) fun h0 => ?_
  refine Frame.withVar x1 (Frame.step (State.grantVt_frame ..) h0) fun h1 => ?_
  refine Frame.withVar x2 (Frame.record h1 rfl rfl (.inr rfl) (.inr rfl) (.inr rfl) (.inr rfl) (.inr rfl)) fun h2 => ?_
  refine Frame.withVar x3 (Frame.step (State.countWork_frame ..) h2) fun h3 => ?_
  refine Frame.withVar x4 (Frame.step (State.countHelm_frame ..) h3) fun h4 => ?_
  exact (Frame.step (State.postVaried_frame ..) (Frame.step (State.modRun_frame ..) h4))

theorem State.countBusy_frame (s : State) (endAt : Nat) :
    Frame {} s (State.countBusy s endAt) := by
  unfold State.countBusy
  extract_lets _
  exact (Frame.step (State.countHelm_frame ..) (Frame.step (State.addFld_frame ..) (.refl _)))

theorem State.busyFrom_frame (s : State) (front : Nat) :
    Frame {} s (State.busyFrom s front) := by
  unfold State.busyFrom
  extract_lets _ _ x0
  refine Frame.withVar x0 (Frame.step (State.countBusy_frame ..) (.refl _)) fun h0 => ?_
  exact (Frame.ite (Frame.record (.refl _) rfl rfl (.inr rfl) (.inr rfl) (.inr rfl) (.inr rfl) (.inr rfl)) (Frame.ite (Frame.record h0 rfl
      rfl (.inr rfl) (.inr rfl) (.inr rfl) (.inr rfl) (.inr rfl)) (.refl _)))

theorem State.startPass_frame (s : State) (w : WinEntry) (k : PKind) (row : Nat) (e : Nat) (c : Nat) (j : Joined) :
    Frame { cells := true, runs := true } s (State.startPass s w k row e c j) := by
  unfold State.startPass
  extract_lets _ _ _ _ _ _ _ x0 x1 _ x2 _ x3 x4 x5
  refine Frame.withVar x0 (Frame.foldl (fun _ _ => (Frame.step (State.grantEntry_frame ..) (.refl _))) (.refl _)) fun h0 => ?_
  refine Frame.withVar x1 (Frame.step (State.busyFrom_frame ..) h0) fun h1 => ?_
  refine Frame.withVar x2 (Frame.ite (Frame.step (State.countHelm_frame ..) h1) h1) fun h2 => ?_
  refine Frame.withVar x3 (Frame.record h2 rfl rfl (.inr rfl) (.inr rfl) (.inr rfl) (.inr rfl) (.inr rfl)) fun h3 => ?_
  refine Frame.withVar x4 (Frame.step (State.setFld_frame ..) h3) fun h4 => ?_
  refine Frame.withVar x5 (Frame.step (State.addFld_frame ..) h4) fun h5 => ?_
  split
  · exact h5
  · extract_lets x6 x7 x8
    refine Frame.withVar x6 (Frame.step (State.addFld_frame ..) (Frame.step (State.addFld_frame ..) h5)) fun h6 => ?_
    refine Frame.withVar x7 (Frame.step (State.countHelm_frame ..) h6) fun h7 => ?_
    refine Frame.withVar x8 (Frame.step (State.countWork_frame ..) h7) fun h8 => ?_
    exact (Frame.ite (Frame.step (State.countWork_frame ..) h8) h8)

theorem State.grantWinner_frame (s : State) (w : WinEntry) (row : Nat) (cand : List WinEntry) :
    Frame { cells := true, runs := true } s (State.grantWinner s w row cand) := by
  unfold State.grantWinner
  extract_lets _ _
  split
  · exact (.refl _)
  · exact (Frame.ite (Frame.step (State.failRun_frame ..) (.refl _)) (Frame.ite (Frame.step (State.quantumExceeded_frame ..) (.refl _))
        (Frame.step (State.noteReady_frame ..) (Frame.step (State.startPass_frame ..) (.refl _)))))

theorem State.arrayDecide_frame (s : State) :
    Frame { cells := true, runs := true } s (State.arrayDecide s) := by
  unfold State.arrayDecide
  extract_lets x0 _
  refine Frame.withVar x0 (Frame.step (State.noSlate_frame ..) (.refl _)) fun h0 => ?_
  split
  · exact h0
  · exact (Frame.ite (Frame.step (State.grantWinner_frame ..) h0) (Frame.ite h0 (Frame.ite (Frame.step (State.addFld_frame ..) h0)
        (Frame.step (State.grantWinner_frame ..) h0))))

theorem State.vecDrop_frame (s : State) (w : WinEntry) :
    Frame { runs := true } s (State.vecDrop s w) := by
  unfold State.vecDrop
  exact (Frame.ite (Frame.step (State.vecAbort_frame ..) (.refl _)) (.refl _))

theorem State.runStore_frame (s : State) (x : Run) (off : Nat) (data : List Byte) :
    Frame { mem := true } s (State.runStore s x off data) := by
  unfold State.runStore
  extract_lets x0
  refine Frame.withVar x0.2 (Frame.step (State.freshBytes_frame ..) (.refl _)) fun h0 => ?_
  exact (Frame.ite (Frame.step (State.store_frame ..) h0) (Frame.step (State.store_frame ..) (.refl _)))

theorem State.runWrites_frame (s : State) (x : Run) (ws : List (Nat × List Byte)) :
    Frame { mem := true } s (State.runWrites s x ws) := by
  unfold State.runWrites
  exact (Frame.foldl (fun _ _ => (Frame.step (State.runStore_frame ..) (.refl _))) (.refl _))

theorem State.saveAttn_frame (s : State) (v : VecCmd) (w : WinEntry) (c : Nat) :
    Frame { mem := true, runs := true } s (State.saveAttn s v w c).1 := by
  unfold State.saveAttn
  split
  · exact (Frame.fst (.refl _))
  · extract_lets _ x0 x1 x2 x3 _
    refine Frame.withVar x0 (Frame.step (State.runWrites_frame ..) (.refl _)) fun h0 => ?_
    refine Frame.withVar x1 (Frame.step (State.chargeVecRun_frame ..) h0) fun h1 => ?_
    refine Frame.withVar x2 (Frame.step (State.addFld_frame ..) (Frame.step (State.addFld_frame ..) h1)) fun h2 => ?_
    refine Frame.withVar x3 (Frame.step (State.countHelm_frame ..) (Frame.step (State.countWork_frame ..) h2)) fun h3 => ?_
    exact (Frame.fst (Frame.record h3 rfl rfl (.inr rfl) (.inr rfl) (.inr rfl) (.inr rfl) (.inr rfl)))

theorem State.restoreAttn_frame (s : State) (w : WinEntry) (c : Nat) :
    Frame { runs := true } s (State.restoreAttn s w c).1 := by
  unfold State.restoreAttn
  split
  · extract_lets _ x0
    refine Frame.withVar x0 (by
        unfold x0
        split
        · exact (Frame.step (State.chargeVecRun_frame ..) (.refl _))
        · exact (.refl _)) fun h0 => ?_
    exact (Frame.ite1 (Frame.fst (Frame.step (State.addFld_frame ..) (Frame.step (State.addFld_frame ..) h0))) (Frame.fst (.refl _)))
  · exact (Frame.fst (.refl _))

theorem State.attnBlock_frame (s : State) (v : VecCmd) (x : Run) (a : Attn) :
    FrameO1 {} s (State.attnBlock s v x a) := by
  unfold State.attnBlock
  extract_lets _ _
  exact (FrameO1.ite FrameO1.none (by
      split
      · exact FrameO1.none
      · extract_lets _ _
        exact (FrameO1.some (Frame.fst (Frame.step (State.setStream_frame ..) (.refl _))))))

theorem State.attnBlocks_frame (s : State) (v : VecCmd) (x : Run) (a : Attn) (n : Nat) : Frame {} s (s.attnBlocks v x a n).1 := by
  induction n generalizing s v with
  | zero => exact .refl _
  | succ k ih =>
    unfold State.attnBlocks
    split
    · exact .refl _
    · exact Frame.trans (ih _ _) (FrameO1.get2 (by assumption) (State.attnBlock_frame ..))

theorem State.attnAdvance_frame (s : State) :
    Frame {} s (State.attnAdvance s) := by
  unfold State.attnAdvance
  split
  · exact (.refl _)
  · split
    · exact (.refl _)
    · extract_lets x0 x1 _
      refine Frame.withVar x0.1 (Frame.step (State.attnBlocks_frame ..) (.refl _)) fun h0 => ?_
      refine Frame.withVar x1 h0 fun h1 => ?_
      exact (Frame.record h1 rfl rfl (.inr rfl) (.inr rfl) (.inr rfl) (.inr rfl) (.inr rfl))

theorem State.vecStart_frame (s : State) (w : WinEntry) (k : PKind) (row : Nat) (e : Nat) (c : Nat) :
    Frame { mem := true, cells := true, runs := true } s (State.vecStart s w k row e c) := by
  unfold State.vecStart
  extract_lets _ _ y0 x1 x2 x3 _ _ _ _ x4 x5 _ x6 x7 _ x8 x9 x10 x11 x12 x13
  refine Frame.withVar x1.1 (by
      unfold x1
      clear_value y0
      split
      · exact (Frame.step (State.saveAttn_frame ..) (.refl _))
      · exact (Frame.fst (.refl _))) fun h1 => ?_
  refine Frame.withVar x2.1 (Frame.step (State.restoreAttn_frame ..) h1) fun h2 => ?_
  refine Frame.withVar x3 h2 fun h3 => ?_
  refine Frame.withVar x4 (Frame.step (State.noteVerm_frame ..) h3) fun h4 => ?_
  refine Frame.withVar x5 (Frame.step (State.grantVt_frame ..) h4) fun h5 => ?_
  refine Frame.withVar x6 (Frame.record h5 rfl rfl (.inr rfl) (.inr rfl) (.inr rfl) (.inr rfl) (.inr rfl)) fun h6 => ?_
  refine Frame.withVar x7 (Frame.step (State.modRun_frame ..) h6) fun h7 => ?_
  refine Frame.withVar x8 (Frame.record h7 rfl rfl (.inr rfl) (.inr rfl) (.inr rfl) (.inr rfl) (.inr rfl)) fun h8 => ?_
  refine Frame.withVar x9 (Frame.step (State.setFld_frame ..) h8) fun h9 => ?_
  refine Frame.withVar x10 (Frame.step (State.setFld_frame ..) h9) fun h10 => ?_
  refine Frame.withVar x11 (Frame.step (State.setFld_frame ..) h10) fun h11 => ?_
  refine Frame.withVar x12 (Frame.step (State.setFld_frame ..) h11) fun h12 => ?_
  refine Frame.withVar x13 (Frame.ite (Frame.step (State.countHelm_frame ..) (Frame.step (State.countWork_frame ..) h12)) h12) fun h13 => ?_
  exact (Frame.step (State.noteReady_frame ..) (Frame.step (State.attnAdvance_frame ..) (Frame.step (State.noteSaved_frame ..) h13)))

theorem State.vectorDecide_frame (s : State) :
    Frame { mem := true, cells := true, runs := true } s (State.vectorDecide s) := by
  unfold State.vectorDecide
  extract_lets x0 _ _ _
  refine Frame.withVar x0 (Frame.step (State.noSlate_frame ..) (.refl _)) fun h0 => ?_
  split
  · exact h0
  · split
    · exact h0
    · exact (Frame.ite (Frame.step (State.vecDrop_frame ..) (Frame.step (State.failRun_frame ..) h0)) (Frame.ite h0 (Frame.ite (Frame.step
          (State.addFld_frame ..) h0) (Frame.ite (Frame.step (State.vecDrop_frame ..) (Frame.step (State.quantumExceeded_frame ..) h0))
          (Frame.step (State.vecStart_frame ..) h0)))))

theorem State.decisionTie_frame (s : State) (grants : State → Nat) :
    Frame { mem := true, cells := true, runs := true } s (State.decisionTie s grants) := by
  unfold State.decisionTie
  extract_lets x0 x1 x2
  refine Frame.withVar x0 (Frame.step (State.arrayDecide_frame ..) (Frame.step (State.advanceTo_frame ..) (.refl _))) fun h0 => ?_
  refine Frame.withVar x1 (Frame.ite h0 (.refl _)) fun h1 => ?_
  refine Frame.withVar x2 (Frame.step (State.vectorDecide_frame ..) (Frame.step (State.advanceTo_frame ..) h1)) fun h2 => ?_
  exact (Frame.ite h2 h1)

theorem State.resetAsk_frame (s : State) (inst : Nat) :
    Frame { mem := true, cells := true, runs := true } s (State.resetAsk s inst) := by
  unfold State.resetAsk
  exact (Frame.ite (Frame.step (State.resetStart_frame ..) (Frame.step (State.decisionTie_frame ..) (.refl _))) (.refl _))

theorem State.destroyStart_frame (s : State) (inst : Nat) :
    Frame { mem := true, cells := true, runs := true } s (State.destroyStart s inst) := by
  unfold State.destroyStart
  extract_lets _ x0 x1
  refine Frame.withVar x0 (Frame.step (State.resetAsk_frame ..) (.refl _)) fun h0 => ?_
  refine Frame.withVar x1 (Frame.ite (Frame.step (State.setFld_frame ..) h0) h0) fun h1 => ?_
  exact (Frame.record h1 rfl rfl (.inr rfl) (.inr rfl) (.inr rfl) (.inr rfl) (.inr rfl))

theorem State.busRecover_frame (s : State) (pulses : Option Nat) (afterStop : Bool) :
    Frame {} s (State.busRecover s pulses afterStop) := by
  unfold State.busRecover
  extract_lets x0 _ x1 x2
  refine Frame.withVar x0 (Frame.step (State.setFld_frame ..) (.refl _)) fun h0 => ?_
  refine Frame.withVar x1 (Frame.step (State.count_frame ..) (Frame.step (State.logEvent_frame ..) h0)) fun h1 => ?_
  refine Frame.withVar x2 (Frame.step (State.setFld_frame ..) (Frame.step (State.raise_frame ..) h1)) fun h2 => ?_
  exact (Frame.ite (Frame.step (State.count_frame ..) (Frame.step (State.logEvent_frame ..) h0)) (Frame.step (State.satFld_frame ..) h2))

theorem State.busAgain_frame (s : State) (pulses : Option Nat) (afterStop : Bool) :
    Frame {} s (State.busAgain s pulses afterStop) := by
  unfold State.busAgain
  exact (Frame.ite (Frame.step (State.busRecover_frame ..) (.refl _)) (.refl _))

theorem execRecover_frame (pulses : Option Nat) (afterStop : Bool) (s : State) :
    FrameN {} s (execRecover pulses afterStop s) := by
  unfold execRecover
  exact (FrameN.next (Frame.step (State.busAgain_frame ..) (.refl _)))

theorem State.arrayClass_frame (s : State) :
    Frame {} s (State.arrayClass s) := by
  unfold State.arrayClass
  exact (Frame.ite (Frame.step (State.setFld_frame ..) (.refl _)) (.refl _))

theorem State.errorsIn_frame (s : State) (d : Nat) (ce : List Nat) (ue : List Nat) :
    Frame {} s (State.errorsIn s d ce ue) := by
  unfold State.errorsIn
  extract_lets _
  exact (Frame.record (.refl _) rfl rfl (.inr rfl) (.inr rfl) (.inr rfl) (.inr rfl) (.inr rfl))

theorem State.eccRead_frame (s : State) (d : Nat) (off : Nat) (n : Nat) (ce : List Nat) (ue : List Nat) :
    Frame {} s (State.eccRead s d off n ce ue) := by
  unfold State.eccRead
  exact (Frame.step (State.readHbm_frame ..) (Frame.step (State.errorsIn_frame ..) (.refl _)))

theorem State.noteRead_frame (s : State) (r : Nat) (i : Nat) (kind : Nat) (b : List Byte) :
    Frame { runs := true } s (State.noteRead s r i kind b) := by
  unfold State.noteRead
  exact (Frame.step (State.modRun_frame ..) (.refl _))

theorem State.localStore_frame (s : State) (x : Run) (t : Xfer) (b : List Byte) :
    Frame { mem := true } s (State.localStore s x t b) := by
  unfold State.localStore
  extract_lets _ x0
  refine Frame.withVar x0.2 (Frame.step (State.freshBytes_frame ..) (.refl _)) fun h0 => ?_
  exact (Frame.ite (Frame.ite (Frame.step (State.store_frame ..) h0) (Frame.step (State.store_frame ..) (.refl _))) (Frame.step
      (State.runStore_frame ..) (.refl _)))

theorem State.xferLand_frame (s : State) (r : Nat) (i : Nat) (x : Run) (t : Xfer) (b : List Byte) :
    Frame { mem := true, runs := true } s (State.xferLand s r i x t b) := by
  unfold State.xferLand
  extract_lets x0
  refine Frame.withVar x0 (Frame.ite (Frame.step (State.noteRead_frame ..) (.refl _)) (.refl _)) fun h0 => ?_
  exact (Frame.step (State.endCmd_frame ..) (Frame.step (State.localStore_frame ..) h0))

theorem State.xferHbm_frame (s : State) (r : Nat) (i : Nat) (x : Run) (t : Xfer) (off : Nat) :
    Frame { mem := true, runs := true } s (State.xferHbm s r i x t off) := by
  unfold State.xferHbm
  extract_lets _ _
  split
  · exact (Frame.step (State.xferFailed_frame ..) (.refl _))
  · exact (Frame.ite (Frame.step (State.endCmd_frame ..) (Frame.step (State.spoilPages_frame ..) (Frame.step (State.storeData_frame ..)
        (.refl _)))) (Frame.step (State.xferLand_frame ..) (.refl _)))

theorem State.dropJob_frame (s : State) (j : Nat) :
    Frame { fab := true } s (State.dropJob s j) := by
  unfold State.dropJob
  extract_lets _
  exact (Frame.record (.refl _) rfl rfl (.inr rfl) (.inr rfl) (.inr rfl) (.inr rfl) (.inl rfl))

theorem State.xferFabric_frame (s : State) (r : Nat) (i : Nat) (x : Run) (t : Xfer) :
    Frame { mem := true, runs := true, fab := true } s (State.xferFabric s r i x t) := by
  unfold State.xferFabric
  split
  · exact (.refl _)
  · extract_lets x0
    refine Frame.withVar x0 (Frame.step (State.dropJob_frame ..) (.refl _)) fun h0 => ?_
    exact (Frame.ite (Frame.ite (Frame.ite (Frame.step (State.endCmd_frame ..) h0) (Frame.step (State.xferLand_frame ..) h0)) (Frame.step
        (State.xferFailed_frame ..) h0)) (.refl _))

theorem State.xferHost_frame (s : State) (r : Nat) (i : Nat) (x : Run) (t : Xfer) (a : Nat) :
    Frame { mem := true, runs := true } s (State.xferHost s r i x t a) := by
  unfold State.xferHost
  exact (Frame.ite (Frame.step (State.endCmd_frame ..) (Frame.step (State.dmaWrite_frame ..) (.refl _))) (by
      split
      · exact (.refl _)
      · extract_lets x0
        refine Frame.withVar x0 (Frame.record (.refl _) rfl rfl (.inr rfl) (.inr rfl) (.inr rfl) (.inr rfl) (.inr rfl)) fun h0 => ?_
        split
        · exact (Frame.step (State.xferFailed_frame ..) h0)
        · exact (Frame.ite (Frame.step (State.xferLand_frame ..) (Frame.step (State.dmaBytes_frame ..) h0)) (.refl _))))

theorem State.xferComplete_frame (s : State) (r : Nat) (i : Nat) :
    Frame { mem := true, runs := true, fab := true } s (State.xferComplete s r i) := by
  unfold State.xferComplete
  split
  · exact (.refl _)
  · exact (Frame.ite (by
        split
        · exact (Frame.step (State.xferHbm_frame ..) (.refl _))
        · exact (Frame.step (State.xferFabric_frame ..) (.refl _))
        · exact (Frame.step (State.xferHost_frame ..) (.refl _))) (.refl _))

theorem State.xferCompleteEcc_frame (s : State) (r : Nat) (i : Nat) (ce : List Nat) (ue : List Nat) :
    Frame { mem := true, cells := true, runs := true, fab := true } s (State.xferCompleteEcc s r i ce ue) := by
  unfold State.xferCompleteEcc
  split
  · exact (.refl _)
  · extract_lets x0
    refine Frame.withVar x0 (by
        unfold x0
        split
        · exact (Frame.ite (Frame.step (State.eccRead_frame ..) (.refl _)) (.refl _))
        · exact (.refl _)) fun h0 => ?_
    exact (Frame.step (State.limitStacks_frame ..) (Frame.step (State.xferComplete_frame ..) h0))

theorem execTransferComplete_frame (run : Nat) (idx : Nat) (ce : List Nat) (ue : List Nat) (s : State) :
    FrameN { mem := true, cells := true, runs := true, fab := true } s (execTransferComplete run idx ce ue s) := by
  unfold execTransferComplete
  exact (FrameN.next (Frame.step (State.xferCompleteEcc_frame ..) (.refl _)))

theorem State.setScore_frame (s : State) (q : Nat) (score : Nat) :
    Frame {} s (State.setScore s q score) := by
  unfold State.setScore
  extract_lets _ _ x0
  refine Frame.withVar x0 (Frame.step (State.setFld_frame ..) (Frame.step (State.setFld_frame ..) (.refl _))) fun h0 => ?_
  exact (Frame.ite (Frame.step (State.logEvent_frame ..) h0) h0)

theorem State.scorePart_frame (s : State) (q : Nat) :
    Frame {} s (State.scorePart s q) := by
  unfold State.scorePart
  extract_lets _
  exact (Frame.step (State.setScore_frame ..) (.refl _))

theorem State.noteOutcome_frame (s : State) (fit : Bool) :
    Frame {} s (State.noteOutcome s fit) := by
  unfold State.noteOutcome
  extract_lets x0
  refine Frame.withVar x0 (Frame.step (State.setFld_frame ..) (.refl _)) fun h0 => ?_
  exact (Frame.ite h0 (Frame.step (State.raise_frame ..) h0))

theorem State.stageCmd_frame (s : State) (g : Nat) (f : Fetched) (st : CmdStage) :
    Frame {} s (State.stageCmd s g f st) := by
  unfold State.stageCmd
  split
  · exact (.refl _)
  · exact (Frame.record (.refl _) rfl rfl (.inr rfl) (.inr rfl) (.inr rfl) (.inr rfl) (.inr rfl))

theorem State.maintOver_frame (s : State) (m : MaintCmd) :
    Frame {} s (State.maintOver s m) := by
  unfold State.maintOver
  extract_lets x0 _
  refine Frame.withVar x0 (Frame.step (State.noteMap_frame ..) (.refl _)) fun h0 => ?_
  exact (Frame.record h0 rfl rfl (.inr rfl) (.inr rfl) (.inr rfl) (.inr rfl) (.inr rfl))

theorem State.maintEnd_frame (s : State) (m : MaintCmd) (status : Nat) (errors : Nat) (disabled : Bool) :
    Frame {} s (State.maintEnd s m status errors disabled) := by
  unfold State.maintEnd
  exact (Frame.step (State.complete_frame ..) (Frame.step (State.maintOver_frame ..) (.refl _)))

theorem State.maintStart_frame (s : State) (op : Nat) (g : Nat) (cid : Nat) :
    Frame {} s (State.maintStart s op g cid) := by
  unfold State.maintStart
  extract_lets _ x0 _
  refine Frame.withVar x0 (Frame.step (State.noteMap_frame ..) (.refl _)) fun h0 => ?_
  split
  · exact (.refl _)
  · extract_lets _ _ _ x1 x2
    refine Frame.withVar x1 (Frame.step (State.takeToken_frame ..) (Frame.record h0 rfl rfl (.inr rfl) (.inr rfl) (.inr rfl) (.inr rfl)
        (.inr rfl))) fun h1 => ?_
    refine Frame.withVar x2 (Frame.ite (Frame.step (State.noteOutcome_frame ..) h1) h1) fun h2 => ?_
    exact (Frame.ite (Frame.step (State.complete_frame ..) (.refl _)) (by
        split
        · exact (Frame.step (State.complete_frame ..) (Frame.step (State.lockRefused_frame ..) (.refl _)))
        · exact (Frame.ite (Frame.step (State.stageCmd_frame ..) h2) (Frame.step (State.maintEnd_frame ..) h2))))

theorem execEngineTest_frame (ring : Nat) (cid : Nat) (s : State) :
    FrameN {} s (execEngineTest ring cid s) := by
  unfold execEngineTest
  exact (FrameN.next (Frame.step (State.maintStart_frame ..) (.refl _)))

theorem State.unstage_frame (s : State) :
    Frame {} s (State.unstage s) := by
  unfold State.unstage
  extract_lets _
  exact (Frame.ite (Frame.step (State.writeHdr_frame ..) (.refl _)) (.refl _))

theorem State.showAns_frame (s : State) (sc : Nat) :
    Frame {} s (State.showAns s sc) := by
  unfold State.showAns
  exact (Frame.step (State.setFld_frame ..) (.refl _))

theorem State.clearChannel_frame (s : State) (sc : Nat) (dom : Option Nat) :
    Frame {} s (State.clearChannel s sc dom) := by
  unfold State.clearChannel
  extract_lets _ x0 x1
  refine Frame.withVar x0 (Frame.record (.refl _) rfl rfl (.inr rfl) (.inr rfl) (.inr rfl) (.inr rfl) (.inr rfl)) fun h0 => ?_
  refine Frame.withVar x1 (Frame.step (State.setFld_frame ..) (Frame.step (State.showAns_frame ..) h0)) fun h1 => ?_
  split
  · exact h1
  · exact (Frame.foldl (fun _ _ => (Frame.step (State.notice_frame ..) (.refl _))) h1)

theorem State.updChannels_frame (s : State) (old : State) (u : UpdUnit) :
    Frame {} s (State.updChannels s old u) := by
  unfold State.updChannels
  exact (Frame.foldl (fun _ _ => (Frame.ite (.refl _) (Frame.step (State.clearChannel_frame ..) (.refl _)))) (.refl _))

theorem State.loadWord_frame (s : State) (k : Nat) (v : Word) :
    Frame {} s (State.loadWord s k v) := by
  unfold State.loadWord
  extract_lets _ _
  exact (Frame.step (State.setReg_frame ..) (.refl _))

theorem State.swapSection_frame (s : State) (u : UpdUnit) (x : Option ImgSection) :
    Frame {} s (State.swapSection s u x) := by
  unfold State.swapSection
  extract_lets _ _ _ x0
  refine Frame.withVar x0 (Frame.record (.refl _) rfl rfl (.inr rfl) (.inr rfl) (.inr rfl) (.inr rfl) (.inr rfl)) fun h0 => ?_
  exact (Frame.foldl (fun _ _ => (by
      extract_lets _
      exact (Frame.ite (.refl _) (Frame.step (State.loadWord_frame ..) (.refl _))))) h0)

theorem State.openBlocks_frame (s : State) (l : List Nat) :
    Frame { mem := true } s (State.openBlocks s l) := by
  unfold State.openBlocks
  exact (Frame.recordMem (.refl _) rfl (fun w => Memory.wf_writes (fun p : Nat × Nat => 64 * p.1) _ _ _ w) rfl (.inr rfl) (.inr rfl) (.inr
      rfl) (.inr rfl) (.inr rfl))

theorem State.setExtents_frame (s : State) (u : UpdUnit) :
    Frame { mem := true } s (State.setExtents s u) := by
  unfold State.setExtents
  extract_lets _ _ _ _ _ x0 _
  refine Frame.withVar x0 (Frame.recordMem (.refl _) rfl (Memory.wf_drop _ _) rfl (.inr rfl) (.inr rfl) (.inr rfl) (.inr rfl) (.inr rfl))
      fun h0 => ?_
  exact (Frame.step (State.openBlocks_frame ..) (Frame.record h0 rfl rfl (.inr rfl) (.inr rfl) (.inr rfl) (.inr rfl) (.inr rfl)))

theorem State.mapEnable_frame (s : State) (u : DevUnit) :
    Frame {} s (State.mapEnable s u) := by
  unfold State.mapEnable
  extract_lets x0
  refine Frame.withVar x0 (Frame.step (State.noteMap_frame ..) (.refl _)) fun h0 => ?_
  exact (Frame.step (State.mapApply_frame ..) (Frame.record h0 rfl rfl (.inr rfl) (.inr rfl) (.inr rfl) (.inr rfl) (.inr rfl)))

theorem State.scrubPoison_frame (s : State) (b : Nat) :
    Frame { mem := true, cells := true, runs := true, fab := true } s (State.scrubPoison s b) := by
  unfold State.scrubPoison
  extract_lets _ _ x0
  refine Frame.withVar x0 (Frame.step (State.faultRecord_frame ..) (Frame.step (State.blockPoisoned_frame ..) (.refl _))) fun h0 => ?_
  exact (Frame.ite (.refl _) (Frame.ite (Frame.step (State.stackLoss_frame ..) h0) h0))

theorem State.scrubBlock_frame (s : State) (b : Nat) (result : Nat) :
    Frame { mem := true, cells := true, runs := true, fab := true } s (State.scrubBlock s b result) := by
  unfold State.scrubBlock
  extract_lets _ x0
  refine Frame.withVar x0 (Frame.record (.refl _) rfl rfl (.inr rfl) (.inr rfl) (.inr rfl) (.inr rfl) (.inr rfl)) fun h0 => ?_
  exact (Frame.ite (Frame.step (State.scrubPoison_frame ..) h0) (Frame.ite (Frame.step (State.blockCorrected_frame ..) h0) h0))

theorem State.sweep_frame (s : State) (k : Nat) (ce : List Nat) (ue : List Nat) :
    Frame { mem := true, cells := true, runs := true, fab := true } s (State.sweep s k ce ue) := by
  unfold State.sweep
  extract_lets _ _ x0 x1
  refine Frame.withVar x0 (Frame.foldl (fun _ _ => (Frame.step (State.scrubBlock_frame ..) (.refl _))) (.refl _)) fun h0 => ?_
  refine Frame.withVar x1 (Frame.foldl (fun _ _ => (Frame.step (State.scrubBlock_frame ..) (.refl _))) h0) fun h1 => ?_
  exact (Frame.step (State.count_frame ..) h1)

theorem State.returnStack_frame (s : State) (k : Nat) :
    Frame { mem := true, cells := true, runs := true, fab := true } s (State.returnStack s k) := by
  unfold State.returnStack
  extract_lets _ x0 x1
  refine Frame.withVar x0 (Frame.record (.refl _) rfl rfl (.inr rfl) (.inr rfl) (.inr rfl) (.inr rfl) (.inr rfl)) fun h0 => ?_
  refine Frame.withVar x1 (Frame.step (State.health_frame ..) (Frame.step (State.count_frame ..) (Frame.step (State.satFld_frame ..) h0)))
      fun h1 => ?_
  exact (Frame.step (State.mapEnable_frame ..) (Frame.step (State.sweep_frame ..) (Frame.step (State.forgetUes_frame ..) h1)))

theorem State.newCal_frame (s : State) :
    Frame {} s (State.newCal s) := by
  unfold State.newCal
  extract_lets _
  exact (Frame.ite (.refl _) (Frame.record (.refl _) rfl rfl (.inr rfl) (.inr rfl) (.inr rfl) (.inr rfl) (.inr rfl)))

theorem State.noteReg_frame (s : State) (a : Nat) (idx : Nat) :
    Frame {} s (State.noteReg s a idx) := by
  unfold State.noteReg
  extract_lets _ _
  exact (Frame.record (.refl _) rfl rfl (.inr rfl) (.inr rfl) (.inr rfl) (.inr rfl) (.inr rfl))

theorem State.setQuantum_frame (s : State) (v : Nat) :
    Frame {} s (State.setQuantum s v) := by
  unfold State.setQuantum
  exact (Frame.step (State.setFld_frame ..) (Frame.step (State.setFld_frame ..) (Frame.step (State.noteReg_frame ..) (.refl _))))

theorem State.replaceOff_frame (s : State) :
    Frame { mem := true } s (State.replaceOff s) := by
  unfold State.replaceOff
  extract_lets _ _
  exact (Frame.foldl (fun _ _ => Frame.step (State.replaceExtent_frame ..) (.refl _)) (Frame.foldl (fun _ _ => Frame.step
      (State.loseExtents_frame ..) (.refl _)) (.refl _)))

theorem State.zeroSpace_frame (s : State) (spc : Space) (dom : Nat) :
    Frame { mem := true } s (State.zeroSpace s spc dom) := by
  unfold State.zeroSpace
  exact (Frame.recordMem (.refl _) rfl (Memory.wf_drop _ _) rfl (.inr rfl) (.inr rfl) (.inr rfl) (.inr rfl) (.inr rfl))

theorem State.setActive_frame (s : State) (d : Nat) (on : Bool) :
    Frame {} s (State.setActive s d on) := by
  unfold State.setActive
  extract_lets _
  exact (Frame.step (State.setFld_frame ..) (Frame.step (State.setReg_frame ..) (.refl _)))

theorem State.keyChanged_frame (s : State) (d : Nat) :
    Frame {} s (State.keyChanged s d) := by
  unfold State.keyChanged
  exact (Frame.step (State.configChanged_frame ..) (Frame.step (State.addFld_frame ..) (.refl _)))

theorem State.dropKey_frame (s : State) (d : Nat) :
    Frame { keys := true } s (State.dropKey s d) := by
  unfold State.dropKey
  extract_lets _ x0 _ x1 x2 x3
  refine Frame.withVar x0 (Frame.step (State.setActive_frame ..) (.refl _)) fun h0 => ?_
  refine Frame.withVar x1 (Frame.record h0 rfl rfl (.inr rfl) (.inr rfl) (.inl rfl) (.inr rfl) (.inr rfl)) fun h1 => ?_
  refine Frame.withVar x2 (Frame.step (State.setFld_frame ..) h1) fun h2 => ?_
  refine Frame.withVar x3 (Frame.foldl (fun _ _ => (Frame.step (State.clearChannel_frame ..) (.refl _))) h2) fun h3 => ?_
  exact (Frame.ite (Frame.step (State.notice_frame ..) (Frame.step (State.keyChanged_frame ..) h3)) h3)

theorem State.endSessionsOf_frame (s : State) (d : Nat) :
    Frame {} s (State.endSessionsOf s d) := by
  unfold State.endSessionsOf
  exact (Frame.record (.refl _) rfl rfl (.inr rfl) (.inr rfl) (.inr rfl) (.inr rfl) (.inr rfl))

theorem State.ownerGone_frame (s : State) (d : Nat) :
    Frame { mem := true, keys := true } s (State.ownerGone s d) := by
  unfold State.ownerGone
  extract_lets x0
  refine Frame.withVar x0 (Frame.step (State.zeroSpace_frame ..) (Frame.step (State.zeroSpace_frame ..) (Frame.step (State.dropKey_frame
      ..) (.refl _)))) fun h0 => ?_
  exact (Frame.step (State.setFld_frame ..) (Frame.step (State.freeCounters_frame ..) (Frame.step (State.endSessionsOf_frame ..) h0)))

theorem State.redefine_frame (s : State) (d : Nat) :
    Frame { mem := true, keys := true } s (State.redefine s d) := by
  unfold State.redefine
  exact (Frame.ite (Frame.ite (Frame.step (State.setFld_frame ..) (.refl _)) (.refl _)) (Frame.ite (.refl _) (Frame.step
      (State.ownerGone_frame ..) (.refl _))))

theorem State.updDevice_frame (s : State) (u : UpdUnit) :
    Frame { mem := true, cells := true, keys := true, runs := true, fab := true } s (State.updDevice s u) := by
  unfold State.updDevice
  extract_lets _ x0 x1 x2 x3 x4 x5
  refine Frame.withVar x0 (Frame.step (State.setExtents_frame ..) (.refl _)) fun h0 => ?_
  refine Frame.withVar x1 (Frame.step (State.noteMap_frame ..) h0) fun h1 => ?_
  refine Frame.withVar x2 (Frame.record h1 rfl rfl (.inr rfl) (.inr rfl) (.inr rfl) (.inr rfl) (.inr rfl)) fun h2 => ?_
  refine Frame.withVar x3 (Frame.foldl (fun _ _ => Frame.step (State.returnStack_frame ..) (.refl _)) (Frame.step (State.mapApply_frame ..)
      h2)) fun h3 => ?_
  refine Frame.withVar x4 (Frame.step (State.newCal_frame ..) (Frame.step (State.setQuantum_frame ..) (Frame.step (State.replaceOff_frame
      ..) h3))) fun h4 => ?_
  refine Frame.withVar x5 (Frame.foldl (fun _ _ => Frame.step (State.redefine_frame ..) (.refl _)) h4) fun h5 => ?_
  exact (Frame.ite h5 (Frame.step (State.applyScale_frame ..) h5))

theorem State.resizeSpace_frame (s : State) (old : State) (d : Nat) (spc : Space) (base : Fld) (size : Fld) :
    Frame { mem := true } s (State.resizeSpace s old d spc base size) := by
  unfold State.resizeSpace
  exact (Frame.ite (Frame.step (State.zeroRange_frame ..) (.refl _)) (Frame.step (State.zeroSpace_frame ..) (.refl _)))

theorem State.updDomain_frame (s : State) (old : State) (u : UpdUnit) :
    Frame { mem := true, keys := true } s (State.updDomain s old u) := by
  unfold State.updDomain
  extract_lets _ x0 x1
  refine Frame.withVar x0 (Frame.ite (Frame.step (State.ownerGone_frame ..) (.refl _)) (.refl _)) fun h0 => ?_
  refine Frame.withVar x1 (Frame.step (State.resizeSpace_frame ..) (Frame.step (State.resizeSpace_frame ..) h0)) fun h1 => ?_
  exact (Frame.step (State.refreshRadio_frame ..) (Frame.step (State.redefine_frame ..) (Frame.step (State.replaceOff_frame ..) (Frame.step
      (State.setExtents_frame ..) h1))))

theorem State.fuseSummary_frame (s : State) :
    Frame {} s (State.fuseSummary s) := by
  unfold State.fuseSummary
  extract_lets _ _ _ x0 x1 x2
  refine Frame.withVar x0 (Frame.step (State.setFld_frame ..) (.refl _)) fun h0 => ?_
  refine Frame.withVar x1 (Frame.step (State.setFld_frame ..) (Frame.step (State.setFld_frame ..) h0)) fun h1 => ?_
  refine Frame.withVar x2 (Frame.step (State.setFld_frame ..) h1) fun h2 => ?_
  exact (Frame.step (State.setFld_frame ..) h2)

theorem State.fuseBad_frame (s : State) (t : Nat) :
    Frame {} s (State.fuseBad s t) := by
  unfold State.fuseBad
  extract_lets _
  exact (Frame.step (State.faultRecord_frame ..) (Frame.step (State.raise_frame ..) (.refl _)))

theorem State.updTile_frame (s : State) (old : State) (t : Nat) :
    Frame {} s (State.updTile s old t) := by
  unfold State.updTile
  extract_lets x0 x1
  refine Frame.withVar x0 (Frame.step (State.noteMap_frame ..) (.refl _)) fun h0 => ?_
  refine Frame.withVar x1 (Frame.step (State.fuseSummary_frame ..) (Frame.record h0 rfl rfl (.inr rfl) (.inr rfl) (.inr rfl) (.inr rfl)
      (.inr rfl))) fun h1 => ?_
  exact (Frame.step (State.mapApply_frame ..) (Frame.ite (Frame.step (State.fuseBad_frame ..) h1) h1))

theorem State.stopCell_frame (s : State) (c : Nat) (b : Nat) (cause : Nat) (cmd : Option (Nat × Nat)) :
    Frame { mem := true, cells := true } s (State.stopCell s c b cause cmd) := by
  unfold State.stopCell
  extract_lets _
  exact (Frame.step (State.settleCell_frame ..) (Frame.step (State.cutSlots_frame ..) (Frame.step (State.putCell_frame ..) (.refl _))))

theorem State.clearAssigned_frame (s : State) (c : Nat) :
    Frame { mem := true, cells := true } s (State.clearAssigned s c) := by
  unfold State.clearAssigned
  extract_lets _
  split
  · exact (.refl _)
  · exact (Frame.step (State.unassignCell_frame ..) (.refl _))
  · exact (Frame.step (State.unassignCell_frame ..) (.refl _))
  · exact (Frame.step (State.unassignCell_frame ..) (.refl _))
  · exact (Frame.step (State.stopCell_frame ..) (Frame.step (State.setCell_frame ..) (.refl _)))
  · exact (Frame.step (State.setCell_frame ..) (.refl _))
  · exact (Frame.step (State.setCell_frame ..) (.refl _))

theorem State.updCells_frame (s : State) (old : State) (u : UpdUnit) :
    Frame { mem := true, cells := true } s (State.updCells s old u) := by
  unfold State.updCells
  extract_lets x0
  refine Frame.withVar x0 (Frame.foldl (fun _ _ => (Frame.ite (Frame.step (State.raise_frame ..) (Frame.step (State.setReg_frame ..) (.refl
      _))) (.refl _))) (.refl _)) fun h0 => ?_
  exact (Frame.foldl (fun _ _ => (by
      extract_lets _ _ _
      exact (Frame.ite (Frame.ite (Frame.step (State.putCell_frame ..) (.refl _)) (Frame.step (State.setCell_frame ..) (.refl _)))
          (Frame.ite (Frame.step (State.clearAssigned_frame ..) (.refl _)) (.refl _))))) h0)

theorem State.unlessStrict_frame {c : Changes} {b s t : State} (h0 : Frame c b s) (h : Frame c b t) (sp : Nat) :
    Frame c b (State.unlessStrict s t sp) := by
  unfold State.unlessStrict
  exact Frame.ite (Frame.step0 (State.raise_frame ..) h0) h

theorem State.steerPut_frame (s : State) (e : Nat) (w : Word) :
    Frame {} s (State.steerPut s e w) := by
  unfold State.steerPut
  extract_lets x0
  refine Frame.withVar x0 (Frame.step (State.setReg_frame ..) (.refl _)) fun h0 => ?_
  exact (Frame.ite (Frame.step (State.raise_frame ..) (.refl _)) (State.unlessStrict_frame (.refl _) h0 ..))

theorem State.setRxr_frame (s : State) (n : Nat) (r : RxRing) :
    Frame {} s (State.setRxr s n r) := by
  unfold State.setRxr
  extract_lets _
  exact (Frame.record (.refl _) rfl rfl (.inr rfl) (.inr rfl) (.inr rfl) (.inr rfl) (.inr rfl))

theorem State.rxGranule_frame (s : State) (n : Nat) (r : RxRing) :
    Frame { mem := true } s (State.rxGranule s n r) := by
  unfold State.rxGranule
  exact (Frame.step (State.prWrite_frame ..) (Frame.step (State.setRxr_frame ..) (.refl _)))

theorem State.prMeets_frame (s : State) (n off len : Nat) : Frame {} s (State.prMeets s n off len) := by
  unfold State.prMeets
  extract_lets x0
  refine Frame.withVar x0 (Frame.step (State.readHbm_frame ..) (.refl _)) fun h0 => ?_
  split
  · exact (Frame.step (State.ethFault_frame ..) h0)
  · exact h0

theorem State.rxMeets_frame (s : State) (n : Nat) (r : RxRing) : Frame {} s (State.rxMeets s n r) := by
  unfold State.rxMeets
  extract_lets x0
  refine Frame.withVar x0 (Frame.step (State.prMeets_frame ..) (.refl _)) fun h0 => ?_
  split
  · exact h0
  · exact Frame.foldl (fun _ _ => (Frame.step (State.prMeets_frame ..) (.refl _))) h0

theorem State.rxFill_frame (s : State) (n i : Nat) (r : RxRing) (b : List Byte) (l : List (Nat × Nat)) :
    Frame { mem := true } s (s.rxFill n i r b l).1 := by
  induction i generalizing s r b l with
  | zero => exact .refl _
  | succ k ih =>
    unfold State.rxFill
    extract_lets x0 _
    refine Frame.withVar x0 (Frame.ite (Frame.step (State.rxMeets_frame ..) (.refl _)) (.refl _)) fun h0 => ?_
    dsimp only
    split
    · exact h0
    · split
      · exact Frame.step (State.ethFault_frame ..) h0
      · exact Frame.ite1 (Frame.step (State.storeData_frame ..) h0)
          (Frame.trans (ih ..) (Frame.step (State.storeData_frame ..) h0))

theorem State.rxReturn_frame (s : State) (n : Nat) (r : RxRing) (parts : List (Nat × Nat)) (x : RxInfo) (cause : Nat) :
    Frame { mem := true } s (State.rxReturn s n r parts x cause) := by
  unfold State.rxReturn
  extract_lets _ _ _ _ x0 _ _
  refine Frame.withVar x0 (Frame.foldl (fun _ _ => (Frame.step (State.prWrite_frame ..) (.refl _))) (.refl _)) fun h0 => ?_
  exact (Frame.step (State.rxGranule_frame ..) h0)

theorem State.rxDeliver_frame (s : State) (ring : Nat) (dom : Nat) (sp : Nat) (b : List Byte) (x : RxInfo) (cut : Nat) :
    Frame { mem := true } s (State.rxDeliver s ring dom sp b x cut) := by
  unfold State.rxDeliver
  extract_lets _ y _ x0 _ x1
  refine Frame.withVar y (Frame.ite (Frame.step (State.rxMeets_frame ..) (.refl _)) (.refl _)) fun hy => ?_
  refine Frame.withVar x0.1 (Frame.step (State.rxFill_frame ..) hy) fun h0 => ?_
  refine Frame.withVar x1 (Frame.ite (Frame.step (State.count_frame ..) h0) h0) fun h1 => ?_
  exact (Frame.ite (Frame.step (State.rxGranule_frame ..) hy) (Frame.ite (Frame.step (State.count_frame ..) (Frame.step
      (State.rxGranule_frame ..) hy)) (Frame.step (State.rxReturn_frame ..) h1)))

theorem State.rxCut_frame (s : State) (sp : Nat) (f : EthFrame) (sd : Option Nat) (n : Nat) (cause : Nat) :
    Frame { mem := true } s (State.rxCut s sp f sd n cause) := by
  unfold State.rxCut
  split
  · exact (.refl _)
  · exact (Frame.ite (by
        split
        · exact (.refl _)
        · exact (Frame.step (State.rxDeliver_frame ..) (.refl _))) (.refl _))

theorem State.rxBroken_frame (s : State) (sp : Nat) (f : EthFrame) (n : Nat) (cause : Nat) :
    Frame { mem := true } s (State.rxBroken s sp f n cause) := by
  unfold State.rxBroken
  split
  · exact (Frame.step (State.rxCut_frame ..) (.refl _))
  · split
    · exact (Frame.step (State.rxCut_frame ..) (.refl _))
    · exact (.refl _)

theorem State.txEnds_frame (s : State) (q : Nat) (st : Nat) (ts : Option Nat) :
    Frame { mem := true } s (State.txEnds s q st ts) := by
  unfold State.txEnds
  extract_lets _
  split
  · exact (.refl _)
  · exact (Frame.step (State.txWriteBack_frame ..) (Frame.step (State.setTxq_frame ..) (.refl _)))

theorem State.setEthSub_frame (s : State) (sp : Nat) (x : EthSub) :
    Frame {} s (State.setEthSub s sp x) := by
  unfold State.setEthSub
  extract_lets _
  exact (Frame.record (.refl _) rfl rfl (.inr rfl) (.inr rfl) (.inr rfl) (.inr rfl) (.inr rfl))

theorem State.wireEnds_frame (s : State) (sp : Nat) (st : Nat) :
    Frame { mem := true } s (State.wireEnds s sp st) := by
  unfold State.wireEnds
  extract_lets _
  split
  · exact (.refl _)
  · exact (Frame.step (State.txEnds_frame ..) (Frame.step (State.setEthSub_frame ..) (.refl _)))

theorem State.setRate_frame (s : State) (r : Int) :
    Frame {} s (State.setRate s r) := by
  unfold State.setRate
  exact (Frame.step (State.setFld_frame ..) (.refl _))

theorem State.setClass_frame (s : State) :
    Frame {} s (State.setClass s) := by
  unfold State.setClass
  extract_lets x0
  refine Frame.withVar x0.2 (Frame.step (State.fresh_frame ..) (.refl _)) fun h0 => ?_
  split
  · exact (Frame.step (State.setFld_frame ..) (.refl _))
  · exact (Frame.step (State.setFld_frame ..) h0)

theorem State.merCount_frame (s : State) (k : Nat) :
    Frame {} s (State.merCount s k) := by
  unfold State.merCount
  exact (Frame.step (State.count_frame ..) (.refl _))

theorem State.sourceLost_frame (s : State) :
    Frame { mer := true } s (State.sourceLost s) := by
  unfold State.sourceLost
  extract_lets x0 x1 _
  refine Frame.withVar x0 (Frame.step (State.setRate_frame ..) (Frame.step (State.raise_frame ..) (.refl _))) fun h0 => ?_
  refine Frame.withVar x1 (Frame.step (State.setFld_frame ..) (Frame.step (State.setFld_frame ..) h0)) fun h1 => ?_
  exact (Frame.ite (Frame.step (State.setClass_frame ..) (Frame.step (State.merCount_frame ..) (Frame.step (State.merCount_frame ..)
      (Frame.record h1 rfl rfl (.inr rfl) (.inl rfl) (.inr rfl) (.inr rfl) (.inr rfl))))) (Frame.ite (Frame.step (State.merCount_frame ..)
      (Frame.step (State.setFld_frame ..) (Frame.step (State.raise_frame ..) (.refl _)))) (.refl _)))

theorem State.bmca_frame (s : State) (old : Option (Nat × Option Nat)) :
    Frame { mer := true } s (State.bmca s old) := by
  unfold State.bmca
  extract_lets _ _ x0 x1 _ x2 x3 _
  refine Frame.withVar x0 (Frame.foldl (fun _ _ => (Frame.step (State.setFld_frame ..) (.refl _))) (.refl _)) fun h0 => ?_
  refine Frame.withVar x1 (Frame.step (State.setFld_frame ..) (Frame.step (State.setFld_frame ..) h0)) fun h1 => ?_
  refine Frame.withVar x2 (Frame.ite h1 (Frame.step (State.merCount_frame ..) h1)) fun h2 => ?_
  refine Frame.withVar x3 (Frame.step (State.setFld_frame ..) h2) fun h3 => ?_
  exact (Frame.ite (Frame.step (State.setClass_frame ..) h2) (Frame.ite (Frame.step (State.setClass_frame ..) (Frame.step
      (State.sourceLost_frame ..) h2)) (Frame.ite (Frame.step (State.setClass_frame ..) (Frame.record h3 rfl rfl (.inr rfl) (.inl rfl)
      (.inr rfl) (.inr rfl) (.inr rfl))) (Frame.step (State.setClass_frame ..) h2))))

theorem State.slaveDown_frame (s : State) (sp : Nat) :
    Frame { mer := true } s (State.slaveDown s sp) := by
  unfold State.slaveDown
  extract_lets x0
  refine Frame.withVar x0 (Frame.ite (Frame.step (State.sourceLost_frame ..) (.refl _)) (.refl _)) fun h0 => ?_
  exact (Frame.ite (Frame.step (State.bmca_frame ..) h0) (.refl _))

theorem State.subDown_frame (s : State) (sp : Nat) (rx : Option (EthFrame × Nat)) :
    Frame { mem := true, mer := true } s (State.subDown s sp rx) := by
  unfold State.subDown
  extract_lets x0 _ x1 x2
  refine Frame.withVar x0 (by
      unfold x0
      split
      · exact (Frame.ite (.refl _) (Frame.step (State.rxBroken_frame ..) (.refl _)))
      · exact (.refl _)) fun h0 => ?_
  refine Frame.withVar x1 (Frame.step (State.wireEnds_frame ..) h0) fun h1 => ?_
  refine Frame.withVar x2 (Frame.step (State.raise_frame ..) (Frame.step (State.setFld_frame ..) h1)) fun h2 => ?_
  exact (Frame.ite (Frame.step (State.slaveDown_frame ..) (Frame.ite (Frame.step (State.txLinkLost_frame ..) h2) h2)) (.refl _))

theorem State.reformPort_frame (s : State) (p : Nat) (shed : Option Nat) :
    Frame { mem := true, mer := true } s (State.reformPort s p shed) := by
  unfold State.reformPort
  extract_lets x0 _ x1
  refine Frame.withVar x0 (Frame.foldl (fun _ _ => (Frame.step (State.subDown_frame ..) (.refl _))) (.refl _)) fun h0 => ?_
  refine Frame.withVar x1 (Frame.record h0 rfl rfl (.inr rfl) (.inr rfl) (.inr rfl) (.inr rfl) (.inr rfl)) fun h1 => ?_
  exact (Frame.foldl (fun _ _ => (by
      extract_lets x2 x3
      refine Frame.withVar x2 (Frame.step (State.setFld_frame ..) (.refl _)) fun h2 => ?_
      refine Frame.withVar x3 (Frame.step (State.setFld_frame ..) h2) fun h3 => ?_
      exact (Frame.step (State.setFld_frame ..) h3))) h1)

theorem State.updPort_frame (s : State) (old : State) (u : UpdUnit) :
    Frame { mem := true, mer := true } s (State.updPort s old u) := by
  unfold State.updPort
  extract_lets _ x0 x1 _ _ x2
  refine Frame.withVar x0 (Frame.foldl (fun _ _ => (Frame.step (State.setReg_frame ..) (.refl _))) (.refl _)) fun h0 => ?_
  refine Frame.withVar x1 (Frame.foldl (fun _ _ => (Frame.step (State.steerPut_frame ..) (.refl _))) h0) fun h1 => ?_
  refine Frame.withVar x2 (Frame.record h1 rfl rfl (.inr rfl) (.inr rfl) (.inr rfl) (.inr rfl) (.inr rfl)) fun h2 => ?_
  exact (Frame.ite h2 (Frame.step (State.reformPort_frame ..) h2))

theorem State.updFabCtrl_frame (s : State) (old : State) :
    Frame {} s (State.updFabCtrl s old) := by
  unfold State.updFabCtrl
  extract_lets _
  exact (Frame.ite (Frame.step (State.raise_frame ..) (Frame.step (State.setReg_frame ..) (.refl _))) (.refl _))

theorem State.checkRoute_frame (s : State) (n : Nat) :
    Frame { fab := true } s (State.checkRoute s n) := by
  unfold State.checkRoute
  exact (Frame.ite (Frame.step (State.markDown_frame ..) (.refl _)) (.refl _))

theorem State.tryNodes_frame (s : State) (o : FOp) (dom : Nat) (l : List Nat) :
    Frame { mem := true, fab := true } s (s.tryNodes o dom l) := by
  induction l generalizing s with
  | nil =>
    unfold State.tryNodes
    split
    · exact Frame.step (State.jobCheck_frame ..) (Frame.step (State.partDone_frame ..) (.refl _))
    · exact .refl _
  | cons n l ih =>
    unfold State.tryNodes
    refine Frame.ite (Frame.step (State.serveOrWait_frame ..)
      (Frame.record (.refl _) rfl rfl (.inr rfl) (.inr rfl) (.inr rfl) (.inr rfl) (.inl rfl))) (Frame.ite (ih _) ?_)
    split
    · exact Frame.step (FrameO.get (by assumption) (State.sendOp_frame ..)) (.refl _)
    · exact Frame.trans (ih _) (Frame.step (State.markDown_frame ..) (.refl _))

theorem State.goOnce_frame (s : State) :
    Frame { mem := true, fab := true } s (State.goOnce s) := by
  unfold State.goOnce
  extract_lets _
  exact (Frame.foldl (fun _ _ => (by
      split
      · split
        · exact (Frame.step (State.tryNodes_frame ..) (.refl _))
        · exact (.refl _)
      · exact (.refl _))) (Frame.record (.refl _) rfl rfl (.inr rfl) (.inr rfl) (.inr rfl) (.inr rfl) (.inl rfl)))

theorem State.goOn_frame (s : State) (n : Nat) : Frame { mem := true, fab := true } s (s.goOn n) := by
  induction n generalizing s with
  | zero => exact .refl _
  | succ k ih => exact Frame.ite (.refl _) (Frame.trans (ih _) (Frame.step (State.goOnce_frame ..) (.refl _)))

theorem State.issueOne_frame (s : State) (j : Nat) (x : FJob) (off : Nat) (n : Nat) :
    Frame { mem := true, fab := true } s (State.issueOne s j x off n) := by
  unfold State.issueOne
  extract_lets _ x0 _
  refine Frame.withVar x0 (Frame.step (State.modJob_frame ..) (.refl _)) fun h0 => ?_
  split
  · exact (Frame.step (State.jobCheck_frame ..) (Frame.step (State.partDone_frame ..) h0))
  · extract_lets _
    split
    · exact (Frame.step (State.jobCheck_frame ..) (Frame.step (State.count_frame ..) (Frame.step (State.partDone_frame ..) h0)))
    · exact (Frame.step (State.tryNodes_frame ..) h0)

theorem State.pump_frame (s : State) (j n : Nat) : Frame { mem := true, fab := true } s (s.pump j n) := by
  induction n generalizing s with
  | zero => exact .refl _
  | succ k ih =>
    unfold State.pump
    split
    · exact .refl _
    · exact Frame.ite (Frame.trans (ih _) (Frame.step (State.goOn_frame ..) (Frame.step (State.issueOne_frame ..) (.refl _))))
        (Frame.ite (Frame.step (State.count_frame ..) (.refl _)) (.refl _))

theorem State.pumpJob_frame (s : State) (j : Nat) :
    Frame { mem := true, fab := true } s (State.pumpJob s j) := by
  unfold State.pumpJob
  split
  · exact (.refl _)
  · exact (Frame.step (State.pump_frame ..) (.refl _))

theorem State.pumpAll_frame (s : State) :
    Frame { mem := true, fab := true } s (State.pumpAll s) := by
  unfold State.pumpAll
  extract_lets x0
  refine Frame.withVar x0 (Frame.step (State.goOn_frame ..) (.refl _)) fun h0 => ?_
  exact (Frame.foldl (fun _ _ => (Frame.step (State.pumpJob_frame ..) (.refl _))) h0)

theorem State.drainQueue_frame (s : State) :
    Frame { mem := true, fab := true } s (State.drainQueue s) := by
  unfold State.drainQueue
  extract_lets _ _
  exact (Frame.foldl (fun _ _ => (Frame.step (State.serveOrWait_frame ..) (.refl _))) (Frame.record (.refl _) rfl rfl (.inr rfl) (.inr rfl)
      (.inr rfl) (.inr rfl) (.inl rfl)))

theorem State.writeAnswer_frame (s : State) (h : Nat) (status : Nat) :
    Frame { mem := true, fab := true } s (State.writeAnswer s h status) := by
  unfold State.writeAnswer
  extract_lets _ x0
  refine Frame.withVar x0 (Frame.record (.refl _) rfl rfl (.inr rfl) (.inr rfl) (.inr rfl) (.inr rfl) (.inl rfl)) fun h0 => ?_
  split
  · exact (.refl _)
  · exact (Frame.ite (Frame.step (State.applyWrite_frame ..) h0) (Frame.ite (Frame.step (State.replyTo_frame ..) (Frame.step
        (State.markStale_frame ..) h0)) (Frame.step (State.replyTo_frame ..) h0)))

theorem State.homeCheck_frame (s : State) (h : Nat) :
    Frame { fab := true } s (State.homeCheck s h) := by
  unfold State.homeCheck
  extract_lets _
  split
  · exact (.refl _)
  · exact (Frame.ite (Frame.step (State.replyTo_frame ..) (Frame.record (.refl _) rfl rfl (.inr rfl) (.inr rfl) (.inr rfl) (.inr rfl) (.inl
        rfl))) (.refl _))

theorem State.invalAnswer_frame (s : State) (o : FOp) (h : Nat) (status : Nat) :
    Frame { fab := true } s (State.invalAnswer s o h status) := by
  unfold State.invalAnswer
  extract_lets _ _
  exact (Frame.ite (Frame.step (State.homeCheck_frame ..) (Frame.record (.refl _) rfl rfl (.inr rfl) (.inr rfl) (.inr rfl) (.inr rfl) (.inl
      rfl))) (Frame.record (.refl _) rfl rfl (.inr rfl) (.inr rfl) (.inr rfl) (.inr rfl) (.inl rfl)))

theorem State.opLost_frame (s : State) (o : FOp) :
    Frame { mem := true, fab := true } s (State.opLost s o) := by
  unfold State.opLost
  split
  · split
    · exact (.refl _)
    · exact (Frame.step (State.tryNodes_frame ..) (Frame.step (State.checkRoute_frame ..) (.refl _)))
  · exact (Frame.step (State.replyTo_frame ..) (Frame.step (State.checkRoute_frame ..) (.refl _)))
  · exact (Frame.step (State.writeAnswer_frame ..) (Frame.step (State.checkRoute_frame ..) (.refl _)))
  · exact (Frame.step (State.invalAnswer_frame ..) (Frame.step (State.checkRoute_frame ..) (.refl _)))
  · exact (Frame.step (State.checkRoute_frame ..) (.refl _))

theorem State.opPortDown_frame (s : State) (id : Nat) (o : FOp) :
    Frame { mem := true, fab := true } s (State.opPortDown s id o) := by
  unfold State.opPortDown
  extract_lets _ x0
  refine Frame.withVar x0 (Frame.record (.refl _) rfl rfl (.inr rfl) (.inr rfl) (.inr rfl) (.inr rfl) (.inl rfl)) fun h0 => ?_
  split
  · exact (Frame.step (State.jobCheck_frame ..) (Frame.step (State.partDone_frame ..) h0))
  · exact (Frame.step (State.opLost_frame ..) h0)
  · split
    · extract_lets _ x1
      refine Frame.withVar x1 (Frame.record (.refl _) rfl rfl (.inr rfl) (.inr rfl) (.inr rfl) (.inr rfl) (.inl rfl)) fun h1 => ?_
      exact (Frame.step (State.sendReq_frame ..) (Frame.step (State.count_frame ..) (Frame.step (State.addFld_frame ..) h1)))
    · exact (Frame.step (State.opLost_frame ..) h0)

theorem State.portDown_frame (s : State) (p : Nat) :
    Frame { mem := true, fab := true } s (State.portDown s p) := by
  unfold State.portDown
  extract_lets x0 x1 x2 _ x3 x4 _
  refine Frame.withVar x0 (Frame.step (State.setFld_frame ..) (.refl _)) fun h0 => ?_
  refine Frame.withVar x1 (Frame.step (State.setFld_frame ..) h0) fun h1 => ?_
  refine Frame.withVar x2 (Frame.step (State.setFld_frame ..) h1) fun h2 => ?_
  refine Frame.withVar x3 (Frame.step (State.raise_frame ..) (Frame.step (State.setRhb_frame ..) h2)) fun h3 => ?_
  refine Frame.withVar x4 (Frame.foldl (fun _ _ => (Frame.ite (Frame.step (State.checkRoute_frame ..) (.refl _)) (.refl _))) h3) fun h4 =>
      ?_
  exact (Frame.ite (Frame.step (State.pumpAll_frame ..) (Frame.step (State.drainQueue_frame ..) (Frame.foldl (fun _ _ => (Frame.step
      (State.opPortDown_frame ..) (.refl _))) h4))) (.refl _))

theorem State.regionApply_frame (s : State) (r : Nat) (st : List Nat) (fd : Option Nat) :
    Frame { fab := true } s (State.regionApply s r st fd) := by
  unfold State.regionApply
  extract_lets _ _ x0 _
  refine Frame.withVar x0 (Frame.ite (.refl _) (Frame.record (.refl _) rfl rfl (.inr rfl) (.inr rfl) (.inr rfl) (.inr rfl) (.inl rfl))) fun
      h0 => ?_
  exact (Frame.ite (Frame.step (State.raise_frame ..) (.refl _)) (Frame.record h0 rfl rfl (.inr rfl) (.inr rfl) (.inr rfl) (.inr rfl) (.inl
      rfl)))

theorem State.updFabric_frame (s : State) (old : State) (u : UpdUnit) :
    Frame { mem := true, fab := true } s (State.updFabric s old u) := by
  unfold State.updFabric
  extract_lets x0 x1 x2 x3
  refine Frame.withVar x0 (Frame.step (State.updFabCtrl_frame ..) (.refl _)) fun h0 => ?_
  refine Frame.withVar x1 (Frame.foldl (fun _ _ => Frame.step (State.portDown_frame ..) (.refl _)) h0) fun h1 => ?_
  refine Frame.withVar x2 (Frame.foldl (fun _ _ => (Frame.ite (Frame.step (State.checkRoute_frame ..) (.refl _)) (.refl _))) h1) fun h2 =>
      ?_
  refine Frame.withVar x3 (Frame.foldl (fun _ _ => (by
      extract_lets _
      exact (Frame.ite (.refl _) (Frame.step (State.regionApply_frame ..) (.refl _))))) h2) fun h3 => ?_
  exact (Frame.foldl (fun _ _ => (by
      extract_lets _
      exact (Frame.ite (.refl _) (Frame.step (State.bearingPut_frame ..) (.refl _))))) h3)

theorem State.frameSent_frame (s : State) (sp : Nat) (level : Nat) (bytes : Nat) :
    Frame {} s (State.frameSent s sp level bytes) := by
  unfold State.frameSent
  extract_lets x0 x1
  refine Frame.withVar x0 (Frame.step (State.addFld_frame ..) (.refl _)) fun h0 => ?_
  refine Frame.withVar x1 (Frame.step (State.count_frame ..) (Frame.step (State.count_frame ..) h0)) fun h1 => ?_
  exact (Frame.step (State.count_frame ..) h1)

theorem State.merSend_frame (s : State) (sp : Nat) (kind : Nat) (fields : List Nat) :
    Frame {} s (State.merSend s sp kind fields) := by
  unfold State.merSend
  exact (Frame.step (State.frameSent_frame ..) (Frame.step (State.send_frame ..) (.refl _)))

theorem State.freqSelect_frame (s : State) :
    Frame { mer := true } s (State.freqSelect s) := by
  unfold State.freqSelect
  extract_lets _ _ _ _ x0
  refine Frame.withVar x0 (Frame.record (.refl _) rfl rfl (.inr rfl) (.inl rfl) (.inr rfl) (.inr rfl) (.inr rfl)) fun h0 => ?_
  exact (Frame.ite (Frame.foldl (fun _ _ => (Frame.step (State.merSend_frame ..) (.refl _))) (Frame.step (State.merCount_frame ..) h0)) h0)

theorem State.setShares_frame (s : State) (f : Nat → Nat) :
    Frame {} s (State.setShares s f) := by
  unfold State.setShares
  extract_lets _ x0 x1 x2 x3
  refine Frame.withVar x0 (Frame.foldl (fun _ _ => (Frame.step (State.setShare_frame ..) (.refl _))) (.refl _)) fun h0 => ?_
  refine Frame.withVar x1 (Frame.step (State.logOpen_frame ..) (Frame.step (State.raise_frame ..) h0)) fun h1 => ?_
  refine Frame.withVar x2 (Frame.foldl (fun _ _ => (Frame.step (State.configChanged_frame ..) (.refl _))) h1) fun h2 => ?_
  refine Frame.withVar x3 (Frame.foldl (fun _ _ => (Frame.step (State.notice_frame ..) (.refl _))) h2) fun h3 => ?_
  exact (Frame.ite (.refl _) (Frame.step (State.setFld_frame ..) h3))

theorem State.wakeCores_frame (s : State) :
    Frame {} s (State.wakeCores s) := by
  unfold State.wakeCores
  extract_lets _ x0
  refine Frame.withVar x0 (Frame.record (.refl _) rfl rfl (.inr rfl) (.inr rfl) (.inr rfl) (.inr rfl) (.inr rfl)) fun h0 => ?_
  exact (Frame.ite h0 (Frame.step (State.setFld_frame ..) h0))

theorem State.updSextant_frame (s : State) :
    Frame {} s (State.updSextant s) := by
  unfold State.updSextant
  exact (Frame.step (State.wakeCores_frame ..) (Frame.record (.refl _) rfl rfl (.inr rfl) (.inr rfl) (.inr rfl) (.inr rfl) (.inr rfl)))

theorem State.reconfigureUnit_frame (s : State) (u : UpdUnit) (x : Option ImgSection) :
    Frame { mem := true, cells := true, mer := true, keys := true, runs := true, fab := true } s (State.reconfigureUnit s u x) := by
  unfold State.reconfigureUnit
  extract_lets x0
  refine Frame.withVar x0 (Frame.step (State.updChannels_frame ..) (Frame.step (State.swapSection_frame ..) (.refl _))) fun h0 => ?_
  split
  · exact (Frame.step (State.updDevice_frame ..) h0)
  · exact (Frame.step (State.updDomain_frame ..) h0)
  · exact (Frame.step (State.updTile_frame ..) h0)
  · exact (Frame.step (State.updCells_frame ..) h0)
  · exact (Frame.step (State.updPort_frame ..) h0)
  · exact (Frame.step (State.updFabric_frame ..) h0)
  · exact (Frame.step (State.bmca_frame ..) (Frame.step (State.freqSelect_frame ..) h0))
  · exact (Frame.step (State.setShares_frame ..) h0)
  · exact (Frame.step (State.updSextant_frame ..) h0)
  · exact h0

theorem State.reconfigure_frame (s : State) (u : UpdUnit) (x : Option ImgSection) :
    Frame { mem := true, cells := true, mer := true, keys := true, runs := true, fab := true } s (State.reconfigure s u x) := by
  unfold State.reconfigure
  extract_lets x0
  refine Frame.withVar x0 (Frame.step (State.reconfigureUnit_frame ..) (.refl _)) fun h0 => ?_
  exact (Frame.ite h0 (Frame.step (State.measChanged_frame ..) h0))

theorem State.showUpdate_frame (s : State) :
    Frame {} s (State.showUpdate s) := by
  unfold State.showUpdate
  split
  · exact (Frame.step (State.setFld_frame ..) (Frame.step (State.setFld_frame ..) (.refl _)))
  · extract_lets _ x0 x1
    refine Frame.withVar x0 (Frame.step (State.setFld_frame ..) (Frame.step (State.setFld_frame ..) (.refl _))) fun h0 => ?_
    refine Frame.withVar x1 (Frame.step (State.setFld_frame ..) (Frame.step (State.setFld_frame ..) h0)) fun h1 => ?_
    exact (Frame.step (State.setFld_frame ..) (Frame.step (State.setFld_frame ..) h1))

theorem State.updateOver_frame (s : State) (l : LiveUpdate) (status : Nat) :
    Frame {} s (State.updateOver s l status) := by
  unfold State.updateOver
  extract_lets x0 _ x1 x2
  refine Frame.withVar x0 (Frame.step (State.noteMap_frame ..) (.refl _)) fun h0 => ?_
  refine Frame.withVar x1 (Frame.step (State.showUpdate_frame ..) (Frame.record h0 rfl rfl (.inr rfl) (.inr rfl) (.inr rfl) (.inr rfl)
      (.inr rfl))) fun h1 => ?_
  refine Frame.withVar x2 (Frame.ite (Frame.step (State.count_frame ..) h1) h1) fun h2 => ?_
  exact (Frame.ite (Frame.step (State.pldmEnd_frame ..) h2) (Frame.step (State.dropToken_frame ..) h1))

theorem State.almAnswer_frame (s : State) (p : Nat × Nat) :
    Frame {} s (State.almAnswer s p) := by
  unfold State.almAnswer
  exact (Frame.step (State.setFld_frame ..) (Frame.step (State.setFld_frame ..) (Frame.step (State.setFld_frame ..) (.refl _))))

theorem State.revert_frame (s : State) (status : Nat) :
    Frame { mem := true, cells := true, mer := true, keys := true, runs := true, fab := true } s (State.revert s status) := by
  unfold State.revert
  split
  · exact (.refl _)
  · extract_lets x0 x1
    refine Frame.withVar x0 (Frame.foldl (fun _ _ => (Frame.step (State.reconfigure_frame ..) (.refl _))) (.refl _)) fun h0 => ?_
    refine Frame.withVar x1 (Frame.step (State.raise_frame ..) (Frame.step (State.updateOver_frame ..) h0)) fun h1 => ?_
    exact (Frame.ite h1 (Frame.step (State.almAnswer_frame ..) h1))

theorem State.pldmCancel_frame (s : State) :
    Frame { mem := true, cells := true, mer := true, keys := true, runs := true, fab := true } s (State.pldmCancel s) := by
  unfold State.pldmCancel
  split
  · exact (.refl _)
  · exact (Frame.ite (Frame.step (State.unstage_frame ..) (Frame.step (State.revert_frame ..) (.refl _))) (Frame.step (State.pldmEnd_frame
        ..) (Frame.step (State.unstage_frame ..) (.refl _))))
  · exact (Frame.step (State.pldmEnd_frame ..) (Frame.step (State.unstage_frame ..) (.refl _)))

theorem State.pldmTimeout_frame (s : State) :
    Frame { mem := true, cells := true, mer := true, keys := true, runs := true, fab := true } s (State.pldmTimeout s) := by
  unfold State.pldmTimeout
  split
  · exact (Frame.trans (State.sxtServe_frame (fun _ => (Frame.step (State.pldmCancel_frame ..) (Frame.step (State.advanceTo_frame ..)
        (.refl _)))) ..) (.refl _))
  · exact (.refl _)

theorem State.chargeArr_frame (s : State) (d : Nat) (n : Nat) :
    Frame {} s (State.chargeArr s d n) := by
  unfold State.chargeArr
  extract_lets _
  exact (Frame.record (.refl _) rfl rfl (.inr rfl) (.inr rfl) (.inr rfl) (.inr rfl) (.inr rfl))

theorem State.chargeCmd_frame (s : State) (a : ArrCmd) :
    Frame { runs := true } s (State.chargeCmd s a) := by
  unfold State.chargeCmd
  split
  · exact (.refl _)
  · exact (Frame.step (State.countWork_frame ..) (Frame.step (State.setRun_frame ..) (Frame.step (State.chargeArr_frame ..) (.refl _))))

theorem State.arrayStops_frame (s : State) :
    Frame { runs := true } s (State.arrayStops s) := by
  unfold State.arrayStops
  extract_lets _ _ x0 _
  refine Frame.withVar x0 (Frame.foldl (fun _ _ => Frame.step (State.chargeCmd_frame ..) (.refl _)) (.refl _)) fun h0 => ?_
  exact (Frame.record h0 rfl rfl (.inr rfl) (.inr rfl) (.inr rfl) (.inr rfl) (.inr rfl))

theorem State.railsOff_frame (s : State) (fatal : Bool) :
    Frame {} s (State.railsOff s fatal) := by
  unfold State.railsOff
  extract_lets _
  exact (Frame.record (.refl _) rfl rfl (.inr rfl) (.inr rfl) (.inr rfl) (.inr rfl) (.inr rfl))

theorem State.bare_frame (s : State) (iod : Bool) :
    Frame { cells := true, mer := true, runs := true, fab := true } s (State.bare s iod) := by
  unfold State.bare
  extract_lets _ _ _
  exact (Frame.record (.refl _) rfl rfl (.inl rfl) (.inl rfl) (.inr rfl) (.inl rfl) (.inl rfl))

theorem State.endService_frame (s : State) (iod : Bool) :
    Frame { cells := true, mer := true, runs := true, fab := true } s (State.endService s iod) := by
  unfold State.endService
  extract_lets x0 _ _ _
  refine Frame.withVar x0 (Frame.step (State.bare_frame ..) (.refl _)) fun h0 => ?_
  exact (Frame.record h0 rfl rfl (.inr rfl) (.inr rfl) (.inr rfl) (.inr rfl) (.inr rfl))

theorem State.railFail_frame (s : State) (k : Nat) :
    Frame { cells := true, mer := true, runs := true, fab := true } s (State.railFail s k) := by
  unfold State.railFail
  extract_lets x0 x1 _
  refine Frame.withVar x0 (Frame.step (State.logEvent_frame ..) (Frame.step (State.railsOff_frame ..) (Frame.step (State.endService_frame
      ..) (.refl _)))) fun h0 => ?_
  refine Frame.withVar x1 (Frame.step (State.raise_frame ..) h0) fun h1 => ?_
  exact (Frame.record h1 rfl rfl (.inr rfl) (.inr rfl) (.inr rfl) (.inr rfl) (.inr rfl))

theorem execPwrokMainFall_frame (s : State) :
    FrameN { cells := true, mer := true, runs := true, fab := true } s (execPwrokMainFall s) := by
  unfold execPwrokMainFall
  exact (FrameN.next (Frame.ite (Frame.step (State.railFail_frame ..) (.refl _)) (.refl _)))

theorem State.writeChain_frame (s : State) (x : PhyCtx) (l : List Nat) : Frame { mem := true } s (s.writeChain x l) := by
  induction l generalizing s with
  | nil => exact .refl _
  | cons p l ih => exact Frame.trans (ih _) (Frame.step (State.store_frame ..) (.refl _))

theorem State.writeBuffer_frame (s : State) (x : PhyCtx) (i : Item) (bl : List CodeBlock) :
    Frame { mem := true } s (State.writeBuffer s x i bl) := by
  unfold State.writeBuffer
  exact (Frame.foldl (fun _ _ => (Frame.foldl (fun _ _ => (Frame.step (State.store_frame ..) (.refl _))) (.refl _))) (.refl _))

theorem State.closeCtx_frame (s : State) (x : PhyCtx) (i : Item) (bl : List CodeBlock) (ok : Bool) :
    Frame { mem := true, cells := true } s (State.closeCtx s x i bl ok) := by
  unfold State.closeCtx
  extract_lets _ _ _ _ _ x0 _ x1
  refine Frame.withVar x0 (Frame.step (State.modCell_frame ..) (.refl _)) fun h0 => ?_
  refine Frame.withVar x1 (Frame.step (State.count_frame ..) h0) fun h1 => ?_
  exact (Frame.ite (Frame.step (State.store_frame ..) (Frame.step (State.writeChain_frame ..) (Frame.step (State.writeBuffer_frame ..)
      h1))) (Frame.step (State.store_frame ..) h1))

theorem State.arrFaultEnds_frame (s : State) (a : ArrCmd) :
    Frame { runs := true } s (State.arrFaultEnds s a) := by
  unfold State.arrFaultEnds
  exact (Frame.step (State.endCmd_frame ..) (Frame.step (State.failRun_frame ..) (.refl _)))

theorem State.faultCmd_frame (s : State) (a : ArrCmd) (cause : Nat) (cls : Nat) (unit : Nat) :
    Frame { runs := true } s (State.faultCmd s a cause cls unit) := by
  unfold State.faultCmd
  exact (Frame.ite (.refl _) (by
      split
      · exact (.refl _)
      · extract_lets _ x0
        refine Frame.withVar x0 (Frame.step (State.faultRecord_frame ..) (.refl _)) fun h0 => ?_
        exact (Frame.ite h0 (Frame.step (State.arrFaultEnds_frame ..) h0))))

theorem State.reissue_frame (s : State) (a : ArrCmd) :
    Frame { runs := true } s (State.reissue s a) := by
  unfold State.reissue
  extract_lets x0 _
  refine Frame.withVar x0 (Frame.step (State.modRun_frame ..) (.refl _)) fun h0 => ?_
  exact (Frame.ite (Frame.record h0 rfl rfl (.inr rfl) (.inr rfl) (.inr rfl) (.inr rfl) (.inr rfl)) (.refl _))

theorem State.faultArr_frame (s : State) (hit : ArrCmd → Bool) (cause : Nat) (cls : Nat) (unit : Nat) :
    Frame { runs := true } s (State.faultArr s hit cause cls unit) := by
  unfold State.faultArr
  extract_lets _ _ _ _ _ x0 _ x1
  refine Frame.withVar x0 (Frame.foldl (fun _ _ => (Frame.step (State.faultCmd_frame ..) (.refl _))) (.refl _)) fun h0 => ?_
  refine Frame.withVar x1 (Frame.record h0 rfl rfl (.inr rfl) (.inr rfl) (.inr rfl) (.inr rfl) (.inr rfl)) fun h1 => ?_
  exact (Frame.ite (Frame.step (State.faultRecord_frame ..) (.refl _)) (Frame.step (State.noteReady_frame ..) (Frame.foldl (fun _ _ =>
      Frame.step (State.reissue_frame ..) (.refl _)) h1)))

theorem State.deviceReset_frame (s : State) (cause : Nat) (inst : Nat) :
    Frame { mem := true, cells := true, runs := true } s (State.deviceReset s cause inst) := by
  unfold State.deviceReset
  extract_lets _
  split
  · exact (.refl _)
  · exact (Frame.ite (.refl _) (Frame.step (State.resetAsk_frame ..) (Frame.step (State.faultRecord_frame ..) (.refl _))))

theorem State.queueUe_frame (s : State) (g : Nat) :
    Frame { mem := true, cells := true, runs := true } s (State.queueUe s g) := by
  unfold State.queueUe
  extract_lets _
  split
  · exact (.refl _)
  · exact (Frame.step (State.deviceReset_frame ..) (Frame.step (State.faultRecord_frame ..) (.refl _)))

theorem State.ulTbFails_frame (s : State) (c : Nat) (n : Nat) (k : Nat) (st : Nat) (i : Item) :
    Frame { mem := true, cells := true } s (State.ulTbFails s c n k st i) := by
  unfold State.ulTbFails
  extract_lets x0
  refine Frame.withVar x0.2 (Frame.step (State.fresh_frame ..) (.refl _)) fun h0 => ?_
  exact (Frame.step (State.ulItemEnds_frame ..) h0)

theorem State.modBlock_frame (s : State) (c : Nat) (n : Nat) (k : Nat) (cb : Nat) (g : CodeBlock → CodeBlock) :
    Frame { cells := true } s (State.modBlock s c n k cb g) := by
  unfold State.modBlock
  exact (Frame.step (State.modSlotJob_frame ..) (.refl _))

theorem State.decParity_frame (s : State) (u : Nat) (c : Nat) (n : Nat) (k : Nat) :
    Frame { mem := true, cells := true } s (State.decParity s u c n k) := by
  unfold State.decParity
  extract_lets y0 x1 x2
  refine Frame.withVar x1 (Frame.step (State.modSlotJob_frame ..) (.refl _)) fun h1 => ?_
  refine Frame.withVar x2 (by
      unfold x2
      clear_value y0
      split
      · exact (Frame.ite (Frame.step (State.ulTbFails_frame ..) (Frame.step (State.closeCtx_frame ..) h1)) (Frame.step
            (State.modBlock_frame ..) (.refl _)))
      · exact (.refl _)) fun h2 => ?_
  exact (Frame.step (State.raise_frame ..) h2)

theorem State.boundaryVt_frame (s : State) (r : Nat) (i : Nat) (charge : Nat) (vector : Bool) (again : Bool) :
    Frame {} s (State.boundaryVt s r i charge vector again) := by
  unfold State.boundaryVt
  split
  · exact (.refl _)
  · extract_lets _
    split
    · exact (Frame.step (State.setVtAt_frame ..) (.refl _))
    · exact (Frame.ite (Frame.step (State.setVt_frame ..) (.refl _)) (.refl _))

theorem State.payGate_frame (s : State) (vector : Bool) (row : Nat) (occ : Nat) :
    Frame {} s (State.payGate s vector row occ) := by
  unfold State.payGate
  extract_lets _
  exact (Frame.ite (.refl _) (Frame.ite (Frame.record (.refl _) rfl rfl (.inr rfl) (.inr rfl) (.inr rfl) (.inr rfl) (.inr rfl)) (Frame.ite
      (Frame.step (State.setFld_frame ..) (.refl _)) (Frame.step (State.setFld_frame ..) (.refl _)))))

theorem State.vecCharge_frame (s : State) (v : VecCmd) (occ : Nat) (again : Bool) :
    Frame { runs := true } s (State.vecCharge s v occ again) := by
  unfold State.vecCharge
  split
  · exact (.refl _)
  · extract_lets x0 x1 x2
    refine Frame.withVar x0 (Frame.step (State.chargeVecRun_frame ..) (.refl _)) fun h0 => ?_
    refine Frame.withVar x1 (Frame.step (State.boundaryVt_frame ..) h0) fun h1 => ?_
    refine Frame.withVar x2 (Frame.step (State.payGate_frame ..) h1) fun h2 => ?_
    exact (Frame.step (State.countVec_frame ..) h2)

theorem State.vecReport_frame (s : State) (v : VecCmd) (k : PKind) :
    Frame { runs := true } s (State.vecReport s v k) := by
  unfold State.vecReport
  split
  · exact (.refl _)
  · extract_lets x0
    refine Frame.withVar x0 (Frame.ite (Frame.step (State.postCmdRecord_frame ..) (.refl _)) (.refl _)) fun h0 => ?_
    exact (Frame.ite (Frame.step (State.modRun_frame ..) h0) h0)

theorem State.countExc_frame (s : State) (x : Exc) :
    Frame {} s (State.countExc s x) := by
  unfold State.countExc
  exact (Frame.step (State.count_frame ..) (Frame.step (State.count_frame ..) (Frame.step (State.count_frame ..) (Frame.step
      (State.count_frame ..) (.refl _)))))

theorem State.completeStatus_frame (s : State) (g : Nat) (cid : Nat) (status : Nat) :
    Frame {} s (State.completeStatus s g cid status) := by
  unfold State.completeStatus
  exact (Frame.step (State.complete_frame ..) (.refl _))

theorem State.chartReap_frame (s : State) (ch : Nat) :
    Frame {} s (State.chartReap s ch) := by
  unfold State.chartReap
  split
  · exact (.refl _)
  · exact (Frame.ite (Frame.foldl (fun _ _ => (Frame.step (State.completeStatus_frame ..) (.refl _))) (Frame.record (.refl _) rfl rfl (.inr
        rfl) (.inr rfl) (.inr rfl) (.inr rfl) (.inr rfl))) (.refl _))

theorem State.releaseRun_frame (s : State) (r : Nat) :
    Frame { runs := true } s (State.releaseRun s r) := by
  unfold State.releaseRun
  extract_lets _ _
  split
  · exact (.refl _)
  · extract_lets x0
    refine Frame.withVar x0 (Frame.record (.refl _) rfl rfl (.inr rfl) (.inr rfl) (.inr rfl) (.inl rfl) (.inr rfl)) fun h0 => ?_
    exact (Frame.step (State.chartReap_frame ..) h0)

theorem State.reapRun_frame (s : State) (r : Nat) :
    Frame { runs := true } s (State.reapRun s r) := by
  unfold State.reapRun
  split
  · exact (.refl _)
  · exact (Frame.ite (Frame.step (State.releaseRun_frame ..) (.refl _)) (.refl _))

theorem State.vecopDone_frame (s : State) :
    Frame { mem := true, runs := true } s (State.vecopDone s) := by
  unfold State.vecopDone
  split
  · exact (.refl _)
  · extract_lets x0 x1 x2
    refine Frame.withVar x0 (Frame.step (State.advanceTo_frame ..) (.refl _)) fun h0 => ?_
    refine Frame.withVar x1 (Frame.step (State.vecCharge_frame ..) h0) fun h1 => ?_
    refine Frame.withVar x2 (by
        unfold x2
        split
        · exact h1
        · split
          · extract_lets _
            exact (Frame.ite h1 (Frame.step (State.vecReport_frame ..) (Frame.step (State.countExc_frame ..) (Frame.step
                (State.runWrites_frame ..) h1))))
          · exact h1) fun h2 => ?_
    exact (Frame.ite (.refl _) (Frame.step (State.reapRun_frame ..) (Frame.step (State.endCmd_frame ..) (Frame.step (State.pipeFree_frame
        ..) h2))))

theorem execVecopComplete_frame (s : State) :
    FrameN { mem := true, runs := true } s (execVecopComplete s) := by
  unfold execVecopComplete
  exact (FrameN.next (Frame.step (State.vecopDone_frame ..) (.refl _)))

theorem State.arrayIdle_frame (s : State) (endAt : Nat) :
    Frame {} s (State.arrayIdle s endAt) := by
  unfold State.arrayIdle
  extract_lets x0 _
  refine Frame.withVar x0 (Frame.step (State.countBusy_frame ..) (.refl _)) fun h0 => ?_
  exact (Frame.ite (Frame.record h0 rfl rfl (.inr rfl) (.inr rfl) (.inr rfl) (.inr rfl) (.inr rfl)) (.refl _))

theorem State.ref10Lost_frame (s : State) :
    Frame { mer := true } s (State.ref10Lost s) := by
  unfold State.ref10Lost
  extract_lets _ _ x0
  refine Frame.withVar x0 (Frame.step (State.freqSelect_frame ..) (Frame.record (.refl _) rfl rfl (.inr rfl) (.inl rfl) (.inr rfl) (.inr
      rfl) (.inr rfl))) fun h0 => ?_
  exact (Frame.ite (Frame.step (State.merCount_frame ..) (Frame.step (State.raise_frame ..) h0)) h0)

theorem State.leaveHold_frame (s : State) :
    Frame {} s (State.leaveHold s) := by
  unfold State.leaveHold
  exact (Frame.step (State.setFld_frame ..) (Frame.step (State.setFld_frame ..) (.refl _)))

theorem State.stepTo_frame (s : State) (t : Nat) (source : Nat) :
    Frame { mer := true } s (State.stepTo s t source) := by
  unfold State.stepTo
  extract_lets _ _ _ x0 x1
  refine Frame.withVar x0 (Frame.record (.refl _) rfl rfl (.inr rfl) (.inl rfl) (.inr rfl) (.inr rfl) (.inr rfl)) fun h0 => ?_
  refine Frame.withVar x1 (Frame.step (State.raise_frame ..) (Frame.step (State.addFld_frame ..) h0)) fun h1 => ?_
  exact (Frame.step (State.logEvent_frame ..) (Frame.step (State.merCount_frame ..) h1))

theorem State.slew_frame (s : State) :
    Frame { mer := true } s (State.slew s) := by
  unfold State.slew
  extract_lets x0 x1 _ x2 _ x3
  refine Frame.withVar x0.2 (Frame.step (State.fresh_frame ..) (.refl _)) fun h0 => ?_
  refine Frame.withVar x1.2 (Frame.step (State.fresh_frame ..) h0) fun h1 => ?_
  refine Frame.withVar x2 h1 fun h2 => ?_
  refine Frame.withVar x3 (Frame.record h2 rfl rfl (.inr rfl) (.inl rfl) (.inr rfl) (.inr rfl) (.inr rfl)) fun h3 => ?_
  exact (Frame.step (State.setRate_frame ..) h3)

theorem State.correct_frame (s : State) (off : Int) :
    Frame { mer := true } s (State.correct s off) := by
  unfold State.correct
  exact (Frame.ite (Frame.ite (.refl _) (Frame.step (State.stepTo_frame ..) (.refl _))) (Frame.step (State.slew_frame ..) (.refl _)))

theorem State.phaseMeasure_frame (s : State) (off : Int) :
    Frame { mer := true } s (State.phaseMeasure s off) := by
  unfold State.phaseMeasure
  extract_lets x0 _ x1
  refine Frame.withVar x0 (Frame.step (State.setFld_frame ..) (Frame.step (State.leaveHold_frame ..) (.refl _))) fun h0 => ?_
  refine Frame.withVar x1 (Frame.ite (Frame.record h0 rfl rfl (.inr rfl) (.inl rfl) (.inr rfl) (.inr rfl) (.inr rfl)) (Frame.ite
      (Frame.step (State.acquire_frame ..) (.refl _)) (.refl _))) fun h1 => ?_
  exact (Frame.step (State.setClass_frame ..) (Frame.step (State.correct_frame ..) h1))

theorem State.ppsEdge_frame (s : State) (withStep : Bool) :
    Frame { mer := true } s (State.ppsEdge s withStep) := by
  unfold State.ppsEdge
  extract_lets _ _ x0 _ x1 x2 _ x3 _
  refine Frame.withVar x0 (Frame.ite (Frame.step (State.raise_frame ..) (.refl _)) (.refl _)) fun h0 => ?_
  refine Frame.withVar x1 (Frame.step (State.setFld_frame ..) (Frame.step (State.setFld_frame ..) h0)) fun h1 => ?_
  refine Frame.withVar x2 (Frame.step (State.merCount_frame ..) (Frame.step (State.addFld_frame ..) h1)) fun h2 => ?_
  refine Frame.withVar x3 (Frame.record h2 rfl rfl (.inr rfl) (.inl rfl) (.inr rfl) (.inr rfl) (.inr rfl)) fun h3 => ?_
  exact (Frame.ite (Frame.step (State.merCount_frame ..) (Frame.step (State.raise_frame ..) (.refl _))) (Frame.ite (Frame.step
      (State.phaseMeasure_frame ..) (Frame.step (State.addFld_frame ..) h3)) h3))

theorem State.qCommit_frame (s : State) (q : Nat) :
    Frame {} s (State.qCommit s q) := by
  unfold State.qCommit
  extract_lets _ _ _ _ _ x0
  refine Frame.withVar x0 (Frame.step (State.setTxq_frame ..) (.refl _)) fun h0 => ?_
  exact (Frame.ite (Frame.step (State.raise_frame ..) (.refl _)) (Frame.step (State.setFld_frame ..) (Frame.step (State.setFld_frame ..)
      h0)))

theorem State.qCfgWrite_frame (s : State) (v : Nat) :
    Frame {} s (State.qCfgWrite s v) := by
  unfold State.qCfgWrite
  extract_lets _ x0 x1 x2 x3
  refine Frame.withVar x0 (Frame.ite (.refl _) (Frame.step (State.setFld_frame ..) (Frame.step (State.setFld_frame ..) (.refl _)))) fun h0
      => ?_
  refine Frame.withVar x1 (Frame.step (State.setFld_frame ..) h0) fun h1 => ?_
  refine Frame.withVar x2 (Frame.step (State.setFld_frame ..) h1) fun h2 => ?_
  refine Frame.withVar x3 (Frame.step (State.setFld_frame ..) h2) fun h3 => ?_
  exact (Frame.ite (Frame.step (State.raise_frame ..) (.refl _)) (Frame.ite (Frame.step (State.qCommit_frame ..) h3) h3))

theorem State.showFuses_frame (s : State) :
    Frame {} s (State.showFuses s) := by
  unfold State.showFuses
  extract_lets _ x0 x1
  refine Frame.withVar x0 (Frame.step (State.setFld_frame ..) (Frame.step (State.setFld_frame ..) (.refl _))) fun h0 => ?_
  refine Frame.withVar x1 (Frame.step (State.setFld_frame ..) (Frame.step (State.setFld_frame ..) h0)) fun h1 => ?_
  exact (Frame.step (State.setFld_frame ..) (Frame.step (State.setFld_frame ..) h1))

theorem State.setBoot_frame (s : State) (n : Nat) :
    Frame {} s (State.setBoot s n) := by
  unfold State.setBoot
  exact (Frame.step (State.setFld_frame ..) (Frame.step (State.setFld_frame ..) (.refl _)))

theorem State.logResume_frame (s : State) :
    Frame {} s (State.logResume s) := by
  unfold State.logResume
  extract_lets _ x0
  refine Frame.withVar x0 (Frame.step (State.setFld_frame ..) (.refl _)) fun h0 => ?_
  exact (Frame.ite (.refl _) (Frame.step (State.setFld_frame ..) h0))

theorem State.setVersions_frame (s : State) (fw : Nat) (cfg : Nat) :
    Frame {} s (State.setVersions s fw cfg) := by
  unfold State.setVersions
  extract_lets x0
  refine Frame.withVar x0 (Frame.step (State.setFld_frame ..) (Frame.step (State.setFld_frame ..) (.refl _))) fun h0 => ?_
  exact (Frame.step (State.setFld_frame ..) (Frame.step (State.setFld_frame ..) h0))

theorem State.mapBoot_frame (s : State) (layer : Tab Nat) :
    Frame {} s (State.mapBoot s layer) := by
  unfold State.mapBoot
  extract_lets x0 _ _ x1 x2
  refine Frame.withVar x0 (Frame.record (.refl _) rfl rfl (.inr rfl) (.inr rfl) (.inr rfl) (.inr rfl) (.inr rfl)) fun h0 => ?_
  refine Frame.withVar x1 (Frame.ite (Frame.step (State.goOffline_frame ..) h0) (Frame.step (State.setFld_frame ..) h0)) fun h1 => ?_
  refine Frame.withVar x2 (Frame.foldl (fun _ _ => (Frame.step (State.setReg_frame ..) (.refl _))) h1) fun h2 => ?_
  exact (Frame.ite (Frame.step (State.writeDigest_frame ..) h2) (Frame.ite h2 (Frame.step (State.addFld_frame ..) (Frame.step
      (State.writeDigest_frame ..) h2))))

theorem State.setPll_frame (s : State) (p : Nat) (on : Bool) :
    Frame {} s (State.setPll s p on) := by
  unfold State.setPll
  exact (Frame.step (State.setFld_frame ..) (.refl _))

theorem State.resetFinish_frame (s : State) :
    Frame {} s (State.resetFinish s) := by
  unfold State.resetFinish
  extract_lets x0
  refine Frame.withVar x0 (Frame.step (State.setFld_frame ..) (Frame.step (State.setFld_frame ..) (.refl _))) fun h0 => ?_
  exact (Frame.ite (.refl _) (Frame.ite (Frame.step (State.setFld_frame ..) (Frame.step (State.setFld_frame ..) h0)) h0))

theorem State.linkState_frame (s : State) (j : Nat) (up : Bool) (speed : Nat) (width : Nat) :
    Frame {} s (State.linkState s j up speed width) := by
  unfold State.linkState
  extract_lets _ _
  exact (Frame.step (State.setReg_frame ..) (.refl _))

theorem State.recover_frame (s : State) (speed : Nat) (width : Nat) :
    Frame {} s (State.recover s speed width) := by
  unfold State.recover
  extract_lets x0 x1 _ _ x2
  refine Frame.withVar x0 (Frame.step (State.setVersions_frame ..) (Frame.step (State.mapBoot_frame ..) (.refl _))) fun h0 => ?_
  refine Frame.withVar x1 (Frame.step (State.setPll_frame ..) (Frame.step (State.setPll_frame ..) (Frame.step (State.setBoot_frame ..)
      h0))) fun h1 => ?_
  refine Frame.withVar x2 (Frame.record h1 rfl rfl (.inr rfl) (.inr rfl) (.inr rfl) (.inr rfl) (.inr rfl)) fun h2 => ?_
  exact (Frame.step (State.resetFinish_frame ..) (Frame.step (State.linkState_frame ..) h2))

theorem State.exhaustRow_frame (s : State) :
    Frame {} s (State.exhaustRow s) := by
  unfold State.exhaustRow
  extract_lets _ _
  exact (Frame.step (State.writeHdr_frame ..) (.refl _))

theorem State.trialStep_frame (s : State) :
    Frame {} s (State.trialStep s) := by
  unfold State.trialStep
  extract_lets _
  exact (Frame.ite (.refl _) (Frame.ite (Frame.step (State.raise_frame ..) (Frame.step (State.exhaustRow_frame ..) (.refl _))) (Frame.step
      (State.writeHdr_frame ..) (.refl _))))

theorem State.noteSlot_frame (s : State) (slot : Nat) (ok : Bool) :
    Frame {} s (State.noteSlot s slot ok) := by
  unfold State.noteSlot
  extract_lets _ _ _
  exact (Frame.record (.refl _) rfl rfl (.inr rfl) (.inr rfl) (.inr rfl) (.inr rfl) (.inr rfl))

theorem State.selectFrom_frame (s : State) (l : List (Nat × Nat)) : Frame {} s (s.selectFrom l).1 := by
  induction l generalizing s with
  | nil => exact .refl _
  | cons p l ih =>
    unfold State.selectFrom
    exact Frame.ite1 (Frame.step (State.noteSlot_frame ..) (.refl _)) (Frame.trans (ih _)
      (Frame.record (Frame.step (State.raise_frame ..) (Frame.step (State.noteSlot_frame ..) (.refl _))) rfl rfl
        (.inr rfl) (.inr rfl) (.inr rfl) (.inr rfl) (.inr rfl)))

theorem State.loadAon_frame (s : State) :
    Frame {} s (State.loadAon s) := by
  unfold State.loadAon
  extract_lets _ x0 _
  refine Frame.withVar x0 (Frame.foldl (fun _ _ => (Frame.step (State.loadWord_frame ..) (.refl _))) (.refl _)) fun h0 => ?_
  exact (Frame.ite (.refl _) (Frame.record h0 rfl rfl (.inr rfl) (.inr rfl) (.inr rfl) (.inr rfl) (.inr rfl)))

theorem State.fuseRecords_frame (s : State) :
    Frame {} s (State.fuseRecords s) := by
  unfold State.fuseRecords
  extract_lets _ x0
  refine Frame.withVar x0 (Frame.foldl (fun _ _ => Frame.step (State.fuseBad_frame ..) (.refl _)) (Frame.step (State.fuseSummary_frame ..)
      (.refl _))) fun h0 => ?_
  exact (Frame.step (State.logOpen_frame ..) h0)

theorem State.bootSlot_frame (s : State) (slot : Nat) (role : Nat) :
    Frame {} s (State.bootSlot s slot role) := by
  unfold State.bootSlot
  extract_lets _
  split
  · extract_lets x0 x1 x2 x3 _
    refine Frame.withVar x0 (Frame.step (State.loadAon_frame ..) (Frame.record (.refl _) rfl rfl (.inr rfl) (.inr rfl) (.inr rfl) (.inr
        rfl) (.inr rfl))) fun h0 => ?_
    refine Frame.withVar x1 (Frame.step (State.setVersions_frame ..) (Frame.step (State.setFld_frame ..) h0)) fun h1 => ?_
    refine Frame.withVar x2 (Frame.step (State.fuseRecords_frame ..) (Frame.step (State.mapBoot_frame ..) h1)) fun h2 => ?_
    refine Frame.withVar x3 (Frame.step (State.setBoot_frame ..) h2) fun h3 => ?_
    exact (Frame.record h3 rfl rfl (.inr rfl) (.inr rfl) (.inr rfl) (.inr rfl) (.inr rfl))
  · exact (.refl _)

theorem State.bootRom_frame (s : State) (speed : Nat) (width : Nat) :
    Frame {} s (State.bootRom s speed width) := by
  unfold State.bootRom
  extract_lets x0 _ _ x1 _
  refine Frame.withVar x0 (Frame.step (State.showFuses_frame ..) (Frame.step (State.setBoot_frame ..) (Frame.step (State.logResume_frame
      ..) (Frame.step (State.wakeCores_frame ..) (.refl _))))) fun h0 => ?_
  refine Frame.withVar x1 (Frame.ite h0 (Frame.step (State.raise_frame ..) h0)) fun h1 => ?_
  split
  · exact (Frame.step (State.recover_frame ..) h1)
  · extract_lets x2
    refine Frame.withVar x2 (Frame.step (State.trialStep_frame ..) (Frame.step (State.showHdr_frame ..) (Frame.record h1 rfl rfl (.inr rfl)
        (.inr rfl) (.inr rfl) (.inr rfl) (.inr rfl)))) fun h2 => ?_
    split
    · exact (Frame.step (State.recover_frame ..) (Frame.ofFst (by assumption) (Frame.step (State.selectFrom_frame ..) h2)))
    · exact (Frame.step (State.bootSlot_frame ..) (Frame.ofFst (by assumption) (Frame.step (State.selectFrom_frame ..) h2)))

theorem State.loadShares_frame (s : State) :
    Frame {} s (State.loadShares s) := by
  unfold State.loadShares
  exact (Frame.foldl (fun _ _ => (Frame.step (State.setShare_frame ..) (.refl _))) (.refl _))

theorem State.loadTables_frame (s : State) :
    Frame { cells := true, fab := true } s (State.loadTables s) := by
  unfold State.loadTables
  extract_lets _ _
  exact (Frame.record (.refl _) rfl rfl (.inl rfl) (.inr rfl) (.inr rfl) (.inr rfl) (.inl rfl))

theorem State.useCal_frame (s : State) (l : List CalEntry) :
    Frame {} s (State.useCal s l) := by
  unfold State.useCal
  extract_lets _ x0
  refine Frame.withVar x0 (Frame.record (.refl _) rfl rfl (.inr rfl) (.inr rfl) (.inr rfl) (.inr rfl) (.inr rfl)) fun h0 => ?_
  exact (Frame.step (State.setFld_frame ..) (Frame.step (State.setFld_frame ..) h0))

theorem State.defineDoms_frame (s : State) :
    Frame {} s (State.defineDoms s) := by
  unfold State.defineDoms
  exact (Frame.foldl (fun _ _ => (Frame.step (State.setFld_frame ..) (.refl _))) (.refl _))

theorem State.restoreKey_frame (s : State) (e : Nat × Nat × Nat) :
    Frame { keys := true } s (State.restoreKey s e) := by
  unfold State.restoreKey
  extract_lets x0 _
  refine Frame.withVar x0 (Frame.step (State.setActive_frame ..) (Frame.record (.refl _) rfl rfl (.inr rfl) (.inr rfl) (.inl rfl) (.inr
      rfl) (.inr rfl))) fun h0 => ?_
  exact (Frame.ite (Frame.step (State.setFld_frame ..) (Frame.step (State.setFld_frame ..) h0)) (Frame.step (State.raise_frame ..)
      (Frame.record (.refl _) rfl rfl (.inr rfl) (.inr rfl) (.inr rfl) (.inr rfl) (.inr rfl))))

theorem State.untrained_frame (s : State) (trained : Nat) :
    Frame { mem := true, cells := true, runs := true, fab := true } s (State.untrained s trained) := by
  unfold State.untrained
  exact (Frame.foldl (fun _ _ => (Frame.ite (.refl _) (Frame.step (State.stackLoss_frame ..) (.refl _)))) (.refl _))

theorem State.bootMemory_frame (s : State) (trained : Nat) :
    Frame { mem := true, cells := true, keys := true, runs := true, fab := true } s (State.bootMemory s trained) := by
  unfold State.bootMemory
  extract_lets x0 x1 x2 x3 x4
  refine Frame.withVar x0 (Frame.step (State.replaceOff_frame ..) (Frame.record (.refl _) rfl rfl (.inr rfl) (.inr rfl) (.inr rfl) (.inr
      rfl) (.inr rfl))) fun h0 => ?_
  refine Frame.withVar x1 (Frame.step (State.defineDoms_frame ..) h0) fun h1 => ?_
  refine Frame.withVar x2 (Frame.foldl (fun _ _ => Frame.step (State.restoreKey_frame ..) (.refl _)) h1) fun h2 => ?_
  refine Frame.withVar x3.2 (Frame.step (State.fresh_frame ..) h2) fun h3 => ?_
  refine Frame.withVar x4 h3 fun h4 => ?_
  exact (Frame.step (State.untrained_frame ..) (Frame.record h4 rfl rfl (.inr rfl) (.inr rfl) (.inl rfl) (.inr rfl) (.inr rfl)))

theorem State.bootLinks_frame (s : State) (speed0 : Nat) (width0 : Nat) (speed1 : Nat) (width1 : Nat) :
    Frame {} s (State.bootLinks s speed0 width0 speed1 width1) := by
  unfold State.bootLinks
  extract_lets x0
  refine Frame.withVar x0 (Frame.step (State.linkState_frame ..) (.refl _)) fun h0 => ?_
  exact (Frame.ite (Frame.step (State.linkState_frame ..) h0) h0)

theorem State.sleepsUp_frame (s : State) :
    Frame {} s (State.sleepsUp s) := by
  unfold State.sleepsUp
  extract_lets _ _
  exact (Frame.record (.refl _) rfl rfl (.inr rfl) (.inr rfl) (.inr rfl) (.inr rfl) (.inr rfl))

theorem State.bootRest_frame (s : State) (trained : Nat) (speed0 : Nat) (width0 : Nat) (speed1 : Nat) (width1 : Nat) :
    Frame { mem := true, cells := true, mer := true, keys := true, runs := true, fab := true } s (State.bootRest s trained speed0 width0
        speed1 width1) := by
  unfold State.bootRest
  extract_lets x0 x1 x2 x3 x4 x5 x6 _
  refine Frame.withVar x0 (Frame.step (State.loadShares_frame ..) (Frame.step (State.loadTables_frame ..) (.refl _))) fun h0 => ?_
  refine Frame.withVar x1 (Frame.step (State.setQuantum_frame ..) (Frame.step (State.useCal_frame ..) h0)) fun h1 => ?_
  refine Frame.withVar x2 (Frame.step (State.bootMemory_frame ..) (Frame.step (State.bootLinks_frame ..) h1)) fun h2 => ?_
  refine Frame.withVar x3 (Frame.step (State.refreshRadio_frame ..) (Frame.step (State.freqSelect_frame ..) h2)) fun h3 => ?_
  refine Frame.withVar x4 (Frame.step (State.noteAdmit_frame ..) (Frame.step (State.sleepsUp_frame ..) h3)) fun h4 => ?_
  refine Frame.withVar x5 (Frame.ite (Frame.step (State.setPll_frame ..) h4) h4) fun h5 => ?_
  refine Frame.withVar x6 (Frame.step (State.setBoot_frame ..) h5) fun h6 => ?_
  exact (Frame.step (State.resetFinish_frame ..) (Frame.record h6 rfl rfl (.inr rfl) (.inr rfl) (.inr rfl) (.inr rfl) (.inr rfl)))

theorem State.deviceBoot_frame (s : State) (trained : Nat) (speed0 : Nat) (width0 : Nat) (speed1 : Nat) (width1 : Nat) :
    Frame { mem := true, cells := true, mer := true, keys := true, runs := true, fab := true } s (State.deviceBoot s trained speed0 width0
        speed1 width1) := by
  unfold State.deviceBoot
  split
  · exact (Frame.step (State.bootRom_frame ..) (.refl _))
  · exact (Frame.step (State.bootRest_frame ..) (.refl _))
  · exact (.refl _)

theorem State.deviceResets_frame (s : State) (cause : Nat) (l : List Nat) :
    Frame { mem := true, cells := true, runs := true } s (State.deviceResets s cause l) := by
  unfold State.deviceResets
  exact (Frame.foldl (fun _ _ => (Frame.step (State.deviceReset_frame ..) (.refl _))) (.refl _))

theorem State.restartDone_frame (s : State) (status : Nat) :
    Frame {} s (State.restartDone s status) := by
  unfold State.restartDone
  extract_lets x0
  refine Frame.withVar x0 (Frame.step (State.setFld_frame ..) (Frame.step (State.setFld_frame ..) (.refl _))) fun h0 => ?_
  exact (Frame.step (State.setFld_frame ..) (Frame.step (State.setFld_frame ..) h0))

theorem State.noteRefusal_frame (s : State) (status : Nat) :
    Frame {} s (State.noteRefusal s status) := by
  unfold State.noteRefusal
  split
  · exact (Frame.ite (Frame.step (State.lockRefused_frame ..) (.refl _)) (.refl _))
  · exact (Frame.ite (Frame.step (State.noteOutcome_frame ..) (.refl _)) (.refl _))

theorem State.markUncovered_frame (s : State) :
    Frame { cells := true } s (State.markUncovered s) := by
  unfold State.markUncovered
  extract_lets x0 _
  refine Frame.withVar x0 (Frame.step (State.markSlots_frame ..) (.refl _)) fun h0 => ?_
  exact (Frame.record h0 rfl rfl (.inr rfl) (.inr rfl) (.inr rfl) (.inr rfl) (.inr rfl))

theorem State.loseArray_frame (s : State) (u : DevUnit) (cause : Nat) (shed : Nat) :
    Frame { mem := true, cells := true } s (State.loseArray s u cause shed) := by
  unfold State.loseArray
  extract_lets _ _ x0 x1
  refine Frame.withVar x0 (Frame.step (State.mapDisable_frame ..) (.refl _)) fun h0 => ?_
  refine Frame.withVar x1 (Frame.step (State.raise_frame ..) h0) fun h1 => ?_
  exact (Frame.ite h0 (Frame.step (State.shedDecision_frame ..) (Frame.ite h1 (Frame.step (State.markUncovered_frame ..) h1))))

theorem State.pickOrch_frame (s : State) (c : Nat) :
    Frame {} s (State.pickOrch s c).2 := by
  unfold State.pickOrch
  extract_lets _ x0
  refine Frame.withVar x0.2 (Frame.step (State.fresh_frame ..) (.refl _)) fun h0 => ?_
  exact (Frame.snd h0)

theorem State.moveCells_frame (s : State) (core : Nat) :
    Frame { cells := true } s (State.moveCells s core) := by
  unfold State.moveCells
  exact (Frame.foldl (fun _ _ => (by
      extract_lets x0
      refine Frame.withVar x0.2 (Frame.step (State.pickOrch_frame ..) (.refl _)) fun h0 => ?_
      exact (Frame.step (State.modCell_frame ..) h0))) (.refl _))

theorem State.loseCore_frame (s : State) (core : Nat) (cause : Nat) :
    Frame { mem := true, cells := true, runs := true } s (State.loseCore s core cause) := by
  unfold State.loseCore
  extract_lets _ x0
  refine Frame.withVar x0 (Frame.step (State.raise_frame ..) (Frame.step (State.mapDisable_frame ..) (.refl _))) fun h0 => ?_
  exact (Frame.step (State.shedDecision_frame ..) (Frame.step (State.moveCells_frame ..) (Frame.step (State.deviceResets_frame ..) h0)))

theorem State.loseIoEngine_frame (s : State) (cls : Nat) (e : Nat) (cause : Nat) :
    Frame { mem := true, cells := true, runs := true } s (State.loseIoEngine s cls e cause) := by
  unfold State.loseIoEngine
  extract_lets _
  exact (Frame.step (State.deviceResets_frame ..) (Frame.step (State.mapDisable_frame ..) (.refl _)))

theorem State.shedAll_frame (s : State) (cause : Nat) :
    Frame { mem := true, cells := true } s (State.shedAll s cause) := by
  unfold State.shedAll
  exact (Frame.step (State.shedCells_frame ..) (.refl _))

theorem State.ulFails_frame (s : State) (c : Nat) (n : Nat) (k : Nat) (i : Item) :
    Frame { mem := true, cells := true } s (State.ulFails s c n k i) := by
  unfold State.ulFails
  exact (Frame.ite (Frame.step (State.ulTbFails_frame ..) (.refl _)) (Frame.step (State.ulItemEnds_frame ..) (.refl _)))

theorem State.endUplink_frame (s : State) :
    Frame { mem := true, cells := true } s (State.endUplink s) := by
  unfold State.endUplink
  extract_lets _
  exact (Frame.foldl (fun _ _ => (by
      split
      · exact (.refl _)
      · exact (Frame.step (State.ulFails_frame ..) (.refl _)))) (.refl _))

theorem State.loseEngine_frame (s : State) (u : DevUnit) (cause : Nat) :
    Frame { mem := true, cells := true } s (State.loseEngine s u cause) := by
  unfold State.loseEngine
  exact (Frame.step (State.shedDecision_frame ..) (Frame.step (State.raise_frame ..) (Frame.step (State.mapDisable_frame ..) (.refl _))))

theorem State.unitLost_frame (s : State) (u : DevUnit) (cause : Nat) :
    Frame { mem := true, cells := true, mer := true, runs := true, fab := true } s (State.unitLost s u cause) := by
  unfold State.unitLost
  exact (Frame.ite (Frame.step (State.loseArray_frame ..) (.refl _)) (Frame.ite (Frame.step (State.loseCore_frame ..) (.refl _)) (Frame.ite
      (Frame.step (State.stackLoss_frame ..) (.refl _)) (Frame.ite (Frame.step (State.loseIoEngine_frame ..) (.refl _)) (Frame.ite
      (Frame.step (State.reformPort_frame ..) (Frame.step (State.mapDisable_frame ..) (.refl _))) (Frame.ite (Frame.step
      (State.portDown_frame ..) (Frame.step (State.mapDisable_frame ..) (.refl _))) (Frame.ite (Frame.step (State.shedAll_frame ..)
      (Frame.step (State.endUplink_frame ..) (Frame.step (State.raise_frame ..) (Frame.step (State.mapDisable_frame ..) (.refl _)))))
      (Frame.step (State.loseEngine_frame ..) (.refl _)))))))))

theorem State.setSleep_frame (s : State) (kind : Nat) (idx : Nat) (u : SleepUnit) :
    Frame {} s (State.setSleep s kind idx u) := by
  unfold State.setSleep
  extract_lets _
  exact (Frame.record (.refl _) rfl rfl (.inr rfl) (.inr rfl) (.inr rfl) (.inr rfl) (.inr rfl))

theorem State.unitBack_frame (s : State) (u : DevUnit) :
    Frame {} s (State.unitBack s u) := by
  unfold State.unitBack
  extract_lets x0 x1
  refine Frame.withVar x0 (Frame.step (State.mapEnable_frame ..) (.refl _)) fun h0 => ?_
  refine Frame.withVar x1 (Frame.foldl (fun _ _ => (by
      extract_lets x2 x3
      refine Frame.withVar x2 (Frame.ite (Frame.step (State.setSleep_frame ..) (.refl _)) (.refl _)) fun h2 => ?_
      refine Frame.withVar x3 (Frame.ite (Frame.step (State.setSleep_frame ..) h2) h2) fun h3 => ?_
      exact (Frame.ite (Frame.step (State.setSleep_frame ..) h3) h3))) h0) fun h1 => ?_
  exact (Frame.step (State.noteAdmit_frame ..) h1)

theorem State.restartUnit_frame (s : State) (u : DevUnit) (force : Bool) (passed : Bool) :
    Frame { mem := true, cells := true, mer := true, runs := true, fab := true } s (State.restartUnit s u force passed) := by
  unfold State.restartUnit
  extract_lets _ _ x0 x1
  refine Frame.withVar x0 (Frame.step (State.faultRecord_frame ..) (.refl _)) fun h0 => ?_
  refine Frame.withVar x1 (Frame.step (State.unitLost_frame ..) h0) fun h1 => ?_
  exact (Frame.ite (Frame.step (State.restartDone_frame ..) (.refl _)) (Frame.ite (Frame.step (State.restartDone_frame ..) (Frame.step
      (State.noteRefusal_frame ..) (.refl _))) (Frame.ite (Frame.step (State.restartDone_frame ..) (Frame.step (State.unitBack_frame ..)
      h1)) (Frame.step (State.restartDone_frame ..) h1))))

theorem State.unitRestart_frame (s : State) (v : Nat) (passed : Bool) :
    Frame { mem := true, cells := true, mer := true, runs := true, fab := true } s (State.unitRestart s v passed) := by
  unfold State.unitRestart
  extract_lets _ x0 x1 x2 x3
  refine Frame.withVar x0 (Frame.step (State.setFld_frame ..) (.refl _)) fun h0 => ?_
  refine Frame.withVar x1 (Frame.step (State.setFld_frame ..) h0) fun h1 => ?_
  refine Frame.withVar x2 (Frame.step (State.setFld_frame ..) h1) fun h2 => ?_
  refine Frame.withVar x3 (Frame.step (State.setFld_frame ..) h2) fun h3 => ?_
  exact (Frame.ite (.refl _) (Frame.trans (State.sxtServe_frame (fun _ => (Frame.step (State.restartUnit_frame ..) (.refl _))) ..) h3))

theorem State.xferFails_frame (s : State) (r : Nat) (i : Nat) (cause : Nat) (detail : Nat) :
    Frame { runs := true } s (State.xferFails s r i cause detail) := by
  unfold State.xferFails
  exact (Frame.step (State.endCmd_frame ..) (Frame.step (State.failTransfer_frame ..) (Frame.step (State.xferStarted_frame ..) (.refl _))))

theorem State.startJob_frame (s : State) (use : FUse) (kind : FKind) (n : Nat) (dom : Nat) (addr : Nat) (len : Nat) (key : Nat) (cache :
    Bool) (data : List Byte) :
    FrameO { mem := true, fab := true } s (State.startJob s use kind n dom addr len key cache data) := by
  unfold State.startJob
  extract_lets _ _
  split
  · exact FrameO.none
  · extract_lets _
    exact (FrameO.some (Frame.step (State.pumpJob_frame ..) (Frame.record (.refl _) rfl rfl (.inr rfl) (.inr rfl) (.inr rfl) (.inr rfl)
        (.inl rfl))))

theorem State.dmaWaits_frame (s : State) (n : Nat) :
    Frame {} s (State.dmaWaits s n) := by
  unfold State.dmaWaits
  split
  · exact (.refl _)
  · exact (Frame.step (State.count_frame ..) (.refl _))

theorem State.dmaRead_frame (s : State) (use : DmaUse) (inst : Nat) (n : Nat) (addr : Nat) (len : Nat) :
    FrameO {} s (State.dmaRead s use inst n addr len) := by
  unfold State.dmaRead
  split
  · exact FrameO.none
  · extract_lets _ x0 x1 x2
    refine FrameO.withVar x0 (Frame.step (State.count_frame ..) (.refl _)) fun h0 => ?_
    refine FrameO.withVar x1 (Frame.step (State.count_frame ..) h0) fun h1 => ?_
    refine FrameO.withVar x2 (Frame.step (State.atsTouch_frame ..) h1) fun h2 => ?_
    exact (FrameO.ite FrameO.none (FrameO.some (Frame.record h2 rfl rfl (.inr rfl) (.inr rfl) (.inr rfl) (.inr rfl) (.inr rfl))))

theorem State.xferBegin_frame (s : State) (r : Nat) (i : Nat) (x : Run) (t : Xfer) :
    Frame { mem := true, runs := true, fab := true } s (State.xferBegin s r i x t) := by
  unfold State.xferBegin
  extract_lets _ _
  split
  · exact (Frame.step (State.xferStarted_frame ..) (.refl _))
  · exact (Frame.ite (Frame.step (State.xferFails_frame ..) (.refl _)) (Frame.getD (FrameO.step (State.startJob_frame ..) (Frame.step
        (State.xferStarted_frame ..) (.refl _))) (.refl _)))
  · exact (Frame.ite (Frame.ite (Frame.step (State.dmaWaits_frame ..) (.refl _)) (Frame.step (State.xferStarted_frame ..) (.refl _))) (by
        split
        · exact (Frame.step (State.xferStarted_frame ..) (FrameO.get (by assumption) (FrameO.step (State.dmaRead_frame ..) (.refl _))))
        · exact (Frame.step (State.dmaWaits_frame ..) (.refl _))))

theorem State.xferStart_frame (s : State) (r : Nat) (i : Nat) :
    Frame { mem := true, runs := true, fab := true } s (State.xferStart s r i) := by
  unfold State.xferStart
  split
  · exact (.refl _)
  · exact (Frame.ite (Frame.step (State.xferBegin_frame ..) (.refl _)) (.refl _))

theorem execTransferStart_frame (run : Nat) (idx : Nat) (s : State) :
    FrameN { mem := true, runs := true, fab := true } s (execTransferStart run idx s) := by
  unfold execTransferStart
  exact (FrameN.next (Frame.step (State.xferStart_frame ..) (.refl _)))

theorem State.spdmOpen_frame (s : State) (sid : Nat) (code : Nat) (b : List Byte) (n : Nat) :
    Frame {} s (State.spdmOpen s sid code b n) := by
  unfold State.spdmOpen
  extract_lets x0
  refine Frame.withVar x0.2 (Frame.step (State.freshBytes_frame ..) (.refl _)) fun h0 => ?_
  exact (Frame.step (State.send_frame ..) h0)

theorem execGetDigests_frame (s : State) :
    FrameN {} s (execGetDigests s) := by
  unfold execGetDigests
  exact (FrameN.next (Frame.trans (State.sxtServe_frame (fun _ => (Frame.step (State.spdmOpen_frame ..) (.refl _))) ..) (.refl _)))

theorem State.servicePass_frame (s : State) (g : Nat) :
    Frame {} s (State.servicePass s g) := by
  unfold State.servicePass
  split
  · exact (.refl _)
  · exact (Frame.ite (Frame.step (State.addFld_frame ..) (.refl _)) (.refl _))

theorem State.computeCell_frame (s : State) (cause : Nat) (p : Nat × Cell) :
    Frame { mem := true, cells := true } s (State.computeCell s cause p) := by
  unfold State.computeCell
  extract_lets _ x0 x1 _
  refine Frame.withVar x0 (Frame.ite (Frame.step (State.cellNotice_frame ..) (.refl _)) (.refl _)) fun h0 => ?_
  refine Frame.withVar x1 (by
      unfold x1
      split
      · exact h0
      · exact (Frame.step (State.clearHarq_frame ..) h0)) fun h1 => ?_
  exact (Frame.step (State.putCell_frame ..) h1)

theorem State.calCommit_frame (s : State) :
    Frame {} s (State.calCommit s) := by
  unfold State.calCommit
  extract_lets _ _ _
  exact (Frame.ite (Frame.step (State.setFld_frame ..) (.refl _)) (Frame.ite (Frame.step (State.setFld_frame ..) (Frame.step
      (State.noteOutcome_frame ..) (Frame.step (State.noteAdmit_frame ..) (Frame.record (.refl _) rfl rfl (.inr rfl) (.inr rfl) (.inr rfl)
      (.inr rfl) (.inr rfl))))) (Frame.step (State.setFld_frame ..) (Frame.step (State.noteOutcome_frame ..) (.refl _)))))

theorem State.calDisable_frame (s : State) :
    Frame {} s (State.calDisable s) := by
  unfold State.calDisable
  extract_lets _
  exact (Frame.ite (Frame.step (State.setFld_frame ..) (.refl _)) (Frame.step (State.setFld_frame ..) (Frame.record (.refl _) rfl rfl (.inr
      rfl) (.inr rfl) (.inr rfl) (.inr rfl) (.inr rfl))))

theorem State.calCtrlWrite_frame (s : State) (v : Nat) :
    Frame {} s (State.calCtrlWrite s v) := by
  unfold State.calCtrlWrite
  extract_lets x0
  refine Frame.withVar x0 (Frame.ite (Frame.step (State.calCommit_frame ..) (.refl _)) (.refl _)) fun h0 => ?_
  exact (Frame.ite (Frame.step (State.calDisable_frame ..) h0) h0)

theorem State.fatalTrip_frame (s : State) :
    Frame { cells := true, mer := true, runs := true, fab := true } s (State.fatalTrip s) := by
  unfold State.fatalTrip
  extract_lets x0 _
  refine Frame.withVar x0 (Frame.step (State.railsOff_frame ..) (Frame.step (State.endService_frame ..) (.refl _))) fun h0 => ?_
  exact (Frame.record h0 rfl rfl (.inr rfl) (.inr rfl) (.inr rfl) (.inr rfl) (.inr rfl))

theorem State.pageWrite_frame {f : State → State} {c : Changes} (hf : ∀ t, Frame c t (f t)) (s : State) (inst link : Nat) :
    Frame c s (s.pageWrite inst link f) := by
  unfold State.pageWrite
  refine Frame.ite (.refl _) ?_
  split
  · exact Frame.step0 (State.badAccess_frame ..) (.refl _)
  · exact hf _
  · exact .refl _

theorem State.publish_frame (s : State) (g : Nat) (tail : Nat) :
    Frame {} s (State.publish s g tail) := by
  unfold State.publish
  split
  · exact (.refl _)
  · extract_lets _ _
    exact (Frame.step (State.setRing_frame ..) (.refl _))

theorem State.leavePosted_frame (s : State) :
    Frame { runs := true } s (State.leavePosted s) := by
  unfold State.leavePosted
  exact (Frame.foldl (fun _ _ => Frame.step (State.releaseRun_frame ..) (.refl _)) (.refl _))

theorem State.drainHeld_frame (s : State) (g n : Nat) : Frame {} s (s.drainHeld g n) := by
  induction n generalizing s with
  | zero => exact .refl _
  | succ k ih =>
    unfold State.drainHeld
    split
    · exact .refl _
    · split
      · exact Frame.step (State.quiesceDone_frame ..) (Frame.step (State.setFld_frame ..) (.refl _))
      · exact Frame.ite (Frame.trans (ih _) (Frame.step (State.writeEntry_frame ..)
          (Frame.record (.refl _) rfl rfl (.inr rfl) (.inr rfl) (.inr rfl) (.inr rfl) (.inr rfl)))) (.refl _)

theorem State.returnCq_frame (s : State) (g : Nat) (head : Nat) :
    Frame { runs := true } s (State.returnCq s g head) := by
  unfold State.returnCq
  split
  · exact (.refl _)
  · extract_lets _
    exact (Frame.step (State.leavePosted_frame ..) (Frame.step (State.drainHeld_frame ..) (Frame.step (State.setRing_frame ..) (.refl _))))

theorem State.ringDoorbell_frame (s : State) (g : Nat) (v : Nat) :
    Frame { runs := true } s (State.ringDoorbell s g v) := by
  unfold State.ringDoorbell
  extract_lets x0
  refine Frame.withVar x0 (Frame.ite (Frame.step (State.publish_frame ..) (.refl _)) (.refl _)) fun h0 => ?_
  exact (Frame.ite (Frame.step (State.returnCq_frame ..) h0) h0)

theorem State.noteDoorbell_frame (s : State) (inst : Nat) :
    Frame {} s (State.noteDoorbell s inst) := by
  unfold State.noteDoorbell
  exact (Frame.record (.refl _) rfl rfl (.inr rfl) (.inr rfl) (.inr rfl) (.inr rfl) (.inr rfl))

theorem State.doorbell_frame (s : State) (inst : Nat) (loc : Nat) (v : Nat) (link : Nat) :
    Frame { runs := true } s (State.doorbell s inst loc v link) := by
  unfold State.doorbell
  exact (Frame.trans (State.pageWrite_frame (fun _ => (by
      split
      · exact (Frame.step (State.dropDoorbell_frame ..) (.refl _))
      · exact (Frame.ite (Frame.step (State.ringDoorbell_frame ..) (Frame.step (State.noteDoorbell_frame ..) (.refl _))) (Frame.step
            (State.dropDoorbell_frame ..) (.refl _))))) ..) (.refl _))

theorem execDoorbell_frame (inst : Nat) (loc : Nat) (value : Nat) (link : Nat) (s : State) :
    FrameN { runs := true } s (execDoorbell inst loc value link s) := by
  unfold execDoorbell
  exact (FrameN.next (Frame.step (State.doorbell_frame ..) (.refl _)))

theorem execNegotiateAlgorithms_frame (offered : Bool) (s : State) :
    FrameN {} s (execNegotiateAlgorithms offered s) := by
  unfold execNegotiateAlgorithms
  exact (FrameN.next (Frame.trans (State.sxtServe_frame (fun _ => (Frame.ite (Frame.step (State.send_frame ..) (.refl _)) (Frame.step
      (State.send_frame ..) (.refl _)))) ..) (.refl _)))

theorem State.decompParity_frame (s : State) (c : Nat) (n : Nat) (sym : Nat) :
    Frame { mem := true, cells := true } s (State.decompParity s c n sym) := by
  unfold State.decompParity
  extract_lets _
  split
  · exact (.refl _)
  · extract_lets x0
    refine Frame.withVar x0 (Frame.foldl (fun _ _ => (Frame.step (State.modCell_frame ..) (Frame.step (State.zeroRange_frame ..) (.refl
        _)))) (.refl _)) fun h0 => ?_
    exact (Frame.step (State.faultRecord_frame ..) (Frame.step (State.raise_frame ..) h0))

theorem State.kvFetch_frame (s : State) (r : Nat) (i : Nat) :
    Frame { runs := true } s (State.kvFetch s r i) := by
  unfold State.kvFetch
  extract_lets _
  split
  · exact (.refl _)
  · extract_lets _ _
    exact (Frame.ite (by
        split
        · exact (Frame.step (State.kvFail_frame ..) (.refl _))
        · exact (Frame.step (State.setStream_frame ..) (.refl _))) (.refl _))

theorem execKvPageFetch_frame (run : Nat) (idx : Nat) (s : State) :
    FrameN { runs := true } s (execKvPageFetch run idx s) := by
  unfold execKvPageFetch
  exact (FrameN.next (Frame.step (State.kvFetch_frame ..) (.refl _)))

theorem State.reckonWrites_frame {c : Changes} {f : State → Nat → Ring → State} (hf : ∀ t g r, Frame c t (f t g r)) (s : State)
    (inst loc link : Nat) : Frame c s (s.reckonWrites inst loc link f) := by
  unfold State.reckonWrites
  refine State.pageWrite_frame (fun t => ?_) ..
  split
  · exact .refl _
  · exact Frame.ite (hf _ _ _) (.refl _)

theorem State.seedWrite_frame (s : State) (inst : Nat) (loc : Nat) (v : Nat) (link : Nat) :
    Frame {} s (State.seedWrite s inst loc v link) := by
  unfold State.seedWrite
  exact (Frame.trans (State.reckonWrites_frame (fun _ _ _ => (by
      split
      · exact (Frame.step (State.setRing_frame ..) (.refl _))
      · exact (Frame.step (State.setRing_frame ..) (.refl _)))) ..) (.refl _))

theorem State.slotRefused_frame (s : State) (g : Nat) (cid : Nat) (c : Nat) (st : Nat) (b : List Byte) (rest : List Byte) :
    Frame {} s (State.slotRefused s g cid c st b rest) := by
  unfold State.slotRefused
  exact (Frame.step (State.complete_frame ..) (Frame.step (State.count_frame ..) (Frame.step (State.addFld_frame ..) (.refl _))))

theorem State.notePostLate_frame (s : State) (d : Nat) :
    Frame {} s (State.notePostLate s d) := by
  unfold State.notePostLate
  exact (Frame.step (State.count_frame ..) (Frame.step (State.addFld_frame ..) (.refl _)))

theorem State.noteStatus_frame (s : State) (d : Nat) (st : Nat) :
    Frame {} s (State.noteStatus s d st) := by
  unfold State.noteStatus
  exact (Frame.ite (Frame.step (State.notePostLate_frame ..) (.refl _)) (.refl _))

theorem State.slotItems_frame (s : State) (g : Nat) (cid : Nat) (c : Nat) (n : Nat) (f : CellCfg) (q : Fetched) (data : List Byte) :
    Frame { cells := true } s (State.slotItems s g cid c n f q data) := by
  unfold State.slotItems
  extract_lets _ _ _ _
  split
  · exact (Frame.step (State.slotRefused_frame ..) (.refl _))
  · exact (Frame.step (State.modCell_frame ..) (Frame.step (State.stageCmd_frame ..) (.refl _)))

theorem State.dmaNote_frame (s : State) (cause : Nat) (dom : Nat) :
    Frame {} s (State.dmaNote s cause dom) := by
  unfold State.dmaNote
  extract_lets x0
  refine Frame.withVar x0 (Frame.step (State.count_frame ..) (.refl _)) fun h0 => ?_
  exact (Frame.ite (Frame.step (State.raise_frame ..) h0) (Frame.step (State.raise_frame ..) h0))

theorem State.readTimeout_frame (s : State) (dom : Nat) :
    Frame {} s (State.readTimeout s dom) := by
  unfold State.readTimeout
  exact (Frame.step (State.dmaNote_frame ..) (Frame.step (State.addFld_frame ..) (.refl _)))

theorem State.slotCheck_frame (s : State) (g : Nat) (cid : Nat) (c : Nat) (n : Nat) (f : CellCfg) (q : Fetched) (list : HostRead) :
    Frame { cells := true } s (State.slotCheck s g cid c n f q list) := by
  unfold State.slotCheck
  extract_lets _ _
  split
  · exact (Frame.step (State.slotRefused_frame ..) (Frame.step (State.noteStatus_frame ..) (.refl _)))
  · split
    · exact (Frame.step (State.slotRefused_frame ..) (.refl _))
    · exact (Frame.ite (Frame.step (State.slotRefused_frame ..) (.refl _)) (Frame.ite (Frame.step (State.slotRefused_frame ..) (.refl _))
          (by
          split
          · exact (Frame.step (State.slotItems_frame ..) (.refl _))
          · exact (Frame.step (State.slotRefused_frame ..) (Frame.step (State.readTimeout_frame ..) (.refl _)))
          · exact (Frame.step (State.slotRefused_frame ..) (Frame.step (State.dmaNote_frame ..) (.refl _))))))

theorem State.slotCmd_frame (s : State) (g : Nat) (cid : Nat) (list : HostRead) :
    Frame { cells := true } s (State.slotCmd s g cid list) := by
  unfold State.slotCmd
  split
  · exact (.refl _)
  · extract_lets _
    exact (Frame.ite (Frame.step (State.slotRefused_frame ..) (.refl _)) (by
        split
        · exact (Frame.step (State.slotRefused_frame ..) (.refl _))
        · exact (Frame.step (State.slotCheck_frame ..) (.refl _))))

theorem execSlot_frame (ring : Nat) (cid : Nat) (list : HostRead) (s : State) :
    FrameN { cells := true } s (execSlot ring cid list s) := by
  unfold execSlot
  exact (FrameN.next (Frame.step (State.slotCmd_frame ..) (.refl _)))

theorem State.fabCtrl_frame (s : State) (v : Nat) :
    Frame {} s (State.fabCtrl s v) := by
  unfold State.fabCtrl
  extract_lets x0 x1 x2
  refine Frame.withVar x0 (Frame.step (State.setFld_frame ..) (.refl _)) fun h0 => ?_
  refine Frame.withVar x1 (Frame.step (State.setFld_frame ..) h0) fun h1 => ?_
  refine Frame.withVar x2 (Frame.step (State.setFld_frame ..) h1) fun h2 => ?_
  exact (Frame.ite (Frame.step (State.raise_frame ..) (.refl _)) (Frame.step (State.setFld_frame ..) h2))

theorem execFabCtrlWrite_frame (value : Nat) (s : State) :
    FrameN {} s (execFabCtrlWrite value s) := by
  unfold execFabCtrlWrite
  exact (FrameN.next (Frame.step (State.fabCtrl_frame ..) (.refl _)))

theorem State.limitWrite_frame (s : State) (v : Nat) :
    Frame {} s (State.limitWrite s v) := by
  unfold State.limitWrite
  extract_lets _ _ x0 x1 x2 x3
  refine Frame.withVar x0 (Frame.record (.refl _) rfl rfl (.inr rfl) (.inr rfl) (.inr rfl) (.inr rfl) (.inr rfl)) fun h0 => ?_
  refine Frame.withVar x1 (Frame.step (State.setFld_frame ..) h0) fun h1 => ?_
  refine Frame.withVar x2 (Frame.step (State.setFld_frame ..) h1) fun h2 => ?_
  refine Frame.withVar x3 (Frame.step (State.setFld_frame ..) h2) fun h3 => ?_
  exact (Frame.step (State.setShares_frame ..) h3)

theorem execPkgLimitWrite_frame (value : Nat) (s : State) :
    FrameN {} s (execPkgLimitWrite value s) := by
  unfold execPkgLimitWrite
  exact (FrameN.next (Frame.step (State.limitWrite_frame ..) (.refl _)))

theorem State.noteAccepted_frame (s : State) :
    Frame {} s (State.noteAccepted s) := by
  unfold State.noteAccepted
  exact (Frame.step (State.noteAdmit_frame ..) (.refl _))

theorem State.configFrom_frame (s : State) (c : Nat) (f : CellCfg) (n : Nat) :
    Frame { mem := true, cells := true } s (State.configFrom s c f n) := by
  unfold State.configFrom
  extract_lets _
  exact (Frame.step (State.noteAccepted_frame ..) (Frame.step (State.putCell_frame ..) (.refl _)))

theorem State.computeRecords_frame (s : State) (cause : Nat) :
    Frame {} s (State.computeRecords s cause) := by
  unfold State.computeRecords
  extract_lets _ _ _
  exact (Frame.foldl (fun _ _ => (Frame.step (State.faultRecord_frame ..) (.refl _))) (Frame.step (State.faultRecord_frame ..) (.refl _)))

theorem State.clearRing_frame (s : State) (g : Nat) (r : Ring) (st : Nat) :
    Frame {} s (State.clearRing s g r st) := by
  unfold State.clearRing
  extract_lets x0 x1 x2
  refine Frame.withVar x0 (Frame.step (State.setFld_frame ..) (.refl _)) fun h0 => ?_
  refine Frame.withVar x1 (Frame.step (State.setFld_frame ..) h0) fun h1 => ?_
  refine Frame.withVar x2 (Frame.step (State.setFld_frame ..) h1) fun h2 => ?_
  exact (Frame.step (State.setRing_frame ..) (Frame.step (State.setFld_frame ..) h2))

theorem State.mbxAnswer_frame (s : State) (addr : Nat) (st : Nat) (rest : List Byte) :
    Frame {} s (State.mbxAnswer s addr st rest) := by
  unfold State.mbxAnswer
  extract_lets x0 x1 x2
  refine Frame.withVar x0 (Frame.step (State.send_frame ..) (.refl _)) fun h0 => ?_
  refine Frame.withVar x1 (Frame.step (State.setFld_frame ..) h0) fun h1 => ?_
  refine Frame.withVar x2 (Frame.step (State.addFld_frame ..) h1) fun h2 => ?_
  exact (Frame.step (State.setFld_frame ..) h2)

theorem State.freeRing_frame (s : State) (g : Nat) (r : Ring) :
    Frame {} s (State.freeRing s g r) := by
  unfold State.freeRing
  exact (Frame.record (.refl _) rfl rfl (.inr rfl) (.inr rfl) (.inr rfl) (.inr rfl) (.inr rfl))

theorem State.mbxFinish_frame (s : State) (w : MbxWait) :
    Frame {} s (State.mbxFinish s w) := by
  unfold State.mbxFinish
  split
  · split
    · exact (Frame.step (State.mbxAnswer_frame ..) (.refl _))
    · exact (Frame.ite (Frame.step (State.mbxAnswer_frame ..) (Frame.step (State.freeRing_frame ..) (.refl _))) (Frame.step
          (State.mbxAnswer_frame ..) (.refl _)))
  · exact (Frame.step (State.mbxAnswer_frame ..) (.refl _))
  · exact (Frame.step (State.mbxAnswer_frame ..) (.refl _))

theorem State.mbxSettle_frame (s : State) (inst : Nat) :
    Frame {} s (State.mbxSettle s inst) := by
  unfold State.mbxSettle
  split
  · exact (.refl _)
  · exact (Frame.ite (Frame.step (State.mbxFinish_frame ..) (Frame.record (.refl _) rfl rfl (.inr rfl) (.inr rfl) (.inr rfl) (.inr rfl)
        (.inr rfl))) (.refl _))

theorem State.atsDrop_frame (s : State) (link : Nat) (pasid : Nat) :
    Frame {} s (State.atsDrop s link pasid) := by
  unfold State.atsDrop
  exact (Frame.record (.refl _) rfl rfl (.inr rfl) (.inr rfl) (.inr rfl) (.inr rfl) (.inr rfl))

theorem State.freeInst_frame (s : State) (inst : Nat) :
    Frame {} s (State.freeInst s inst) := by
  unfold State.freeInst
  extract_lets x0
  refine Frame.withVar x0 (Frame.foldl (fun _ _ => (Frame.step (State.freeRing_frame ..) (.refl _))) (.refl _)) fun h0 => ?_
  split
  · exact (.refl _)
  · extract_lets x1 x2
    refine Frame.withVar x1 (Frame.ite h0 (Frame.step (State.configChanged_frame ..) h0)) fun h1 => ?_
    refine Frame.withVar x2 (Frame.step (State.atsDrop_frame ..) h1) fun h2 => ?_
    exact (Frame.record h2 rfl rfl (.inr rfl) (.inr rfl) (.inr rfl) (.inr rfl) (.inr rfl))

theorem State.computeInst_frame (s : State) (inst : Nat) :
    Frame {} s (State.computeInst s inst) := by
  unfold State.computeInst
  extract_lets x0 x1 x2
  refine Frame.withVar x0 (Frame.foldl (fun _ _ => (Frame.step (State.clearRing_frame ..) (.refl _))) (.refl _)) fun h0 => ?_
  refine Frame.withVar x1 (Frame.step (State.addFld_frame ..) h0) fun h1 => ?_
  refine Frame.withVar x2 (Frame.record h1 rfl rfl (.inr rfl) (.inr rfl) (.inr rfl) (.inr rfl) (.inr rfl)) fun h2 => ?_
  split
  · exact (.refl _)
  · exact (Frame.step (State.mbxSettle_frame ..) (Frame.ite (Frame.step (State.freeInst_frame ..) h2) h2))

theorem State.computeRegs_frame (s : State) :
    Frame {} s (State.computeRegs s) := by
  unfold State.computeRegs
  exact (Frame.record (.refl _) rfl rfl (.inr rfl) (.inr rfl) (.inr rfl) (.inr rfl) (.inr rfl))

theorem State.computeBack_frame (s : State) (cause : Nat) :
    Frame { mem := true, cells := true } s (State.computeBack s cause) := by
  unfold State.computeBack
  extract_lets _ x0 x1 x2
  refine Frame.withVar x0 (Frame.step (State.computeRecords_frame ..) (Frame.foldl (fun _ _ => (Frame.step (State.computeCell_frame ..)
      (.refl _))) (.refl _))) fun h0 => ?_
  refine Frame.withVar x1 (Frame.foldl (fun _ _ => Frame.step (State.computeInst_frame ..) (.refl _)) (Frame.record h0 rfl rfl (.inr rfl)
      (.inr rfl) (.inr rfl) (.inr rfl) (.inr rfl))) fun h1 => ?_
  refine Frame.withVar x2 (Frame.step (State.refreshRadio_frame ..) (Frame.step (State.computeRegs_frame ..) h1)) fun h2 => ?_
  exact (Frame.step (State.noteAdmit_frame ..) (Frame.step (State.setFld_frame ..) (Frame.step (State.shedOver_frame ..) h2)))

theorem State.createInst_frame (s : State) (b : List Byte) :
    Frame {} s (State.createInst s b) := by
  unfold State.createInst
  extract_lets _ _ _ _ _ x0 x1 x2 x3
  refine Frame.withVar x0 (Frame.record (.refl _) rfl rfl (.inr rfl) (.inr rfl) (.inr rfl) (.inr rfl) (.inr rfl)) fun h0 => ?_
  refine Frame.withVar x1 (Frame.step (State.setReg_frame ..) h0) fun h1 => ?_
  refine Frame.withVar x2 (Frame.step (State.setFld_frame ..) h1) fun h2 => ?_
  refine Frame.withVar x3 (Frame.step (State.setFld_frame ..) h2) fun h3 => ?_
  exact (Frame.ite h3 (Frame.step (State.configChanged_frame ..) h3))

theorem State.allocRing_frame (s : State) (b : List Byte) :
    Frame {} s (State.allocRing s b).1 := by
  unfold State.allocRing
  extract_lets _
  split
  · exact (Frame.fst (.refl _))
  · extract_lets x0 x1 x2 x3 x4
    refine Frame.withVar x0 (Frame.record (.refl _) rfl rfl (.inr rfl) (.inr rfl) (.inr rfl) (.inr rfl) (.inr rfl)) fun h0 => ?_
    refine Frame.withVar x1 (Frame.step (State.setFld_frame ..) h0) fun h1 => ?_
    refine Frame.withVar x2 (Frame.step (State.setFld_frame ..) h1) fun h2 => ?_
    refine Frame.withVar x3 (Frame.step (State.setFld_frame ..) h2) fun h3 => ?_
    refine Frame.withVar x4 (Frame.step (State.setFld_frame ..) h3) fun h4 => ?_
    exact (Frame.fst (Frame.step (State.setFld_frame ..) h4))

theorem State.mbxWait_frame (s : State) (w : MbxWait) :
    Frame {} s (State.mbxWait s w) := by
  unfold State.mbxWait
  extract_lets x0
  refine Frame.withVar x0 (Frame.step (State.setFld_frame ..) (.refl _)) fun h0 => ?_
  exact (Frame.record h0 rfl rfl (.inr rfl) (.inr rfl) (.inr rfl) (.inr rfl) (.inr rfl))

theorem State.mbxRun_frame (s : State) (op : Nat) (b : List Byte) :
    Frame { mem := true, cells := true, runs := true } s (State.mbxRun s op b) := by
  unfold State.mbxRun
  extract_lets _ _ _ _ x0 _ _ _
  refine Frame.withVar x0.1 (Frame.step (State.allocRing_frame ..) (.refl _)) fun h0 => ?_
  split
  · exact (Frame.step (State.mbxAnswer_frame ..) (Frame.ite (Frame.step (State.createInst_frame ..) (.refl _)) (.refl _)))
  · exact (Frame.ite (Frame.step (State.mbxAnswer_frame ..) h0) (Frame.step (State.mbxAnswer_frame ..) (.refl _)))
  · exact (Frame.ite (Frame.step (State.mbxAnswer_frame ..) (.refl _)) (Frame.ite (Frame.step (State.mbxWait_frame ..) (.refl _))
        (Frame.step (State.mbxFinish_frame ..) (.refl _))))
  · exact (Frame.ite (Frame.step (State.mbxAnswer_frame ..) (.refl _)) (Frame.step (State.mbxWait_frame ..) (Frame.step
        (State.resetAsk_frame ..) (.refl _))))
  · exact (Frame.ite (Frame.step (State.mbxAnswer_frame ..) (.refl _)) (Frame.step (State.mbxWait_frame ..) (Frame.step
        (State.destroyStart_frame ..) (.refl _))))

theorem State.mbxGo_frame (s : State) (op : Nat) (block : HostRead) :
    Frame { mem := true, cells := true, runs := true } s (State.mbxGo s op block) := by
  unfold State.mbxGo
  exact (Frame.ite (.refl _) (by
      split
      · extract_lets _
        exact (Frame.ite (Frame.step (State.mbxRun_frame ..) (.refl _)) (Frame.ite (.refl _) (Frame.step (State.mbxAnswer_frame ..) (.refl
            _))))
      · extract_lets x0 x1
        refine Frame.withVar x0 (by
            unfold x0
            split
            · exact (Frame.step (State.raise_frame ..) (Frame.step (State.addFld_frame ..) (.refl _)))
            · exact (Frame.step (State.raise_frame ..) (.refl _))) fun h0 => ?_
        refine Frame.withVar x1.2 (Frame.step (State.fresh_frame ..) h0) fun h1 => ?_
        exact (Frame.step (State.setFld_frame ..) h1)))

theorem execCreateInstance_frame (block : HostRead) (s : State) :
    FrameN { mem := true, cells := true, runs := true } s (execCreateInstance block s) := by
  unfold execCreateInstance
  exact (FrameN.next (Frame.step (State.mbxGo_frame ..) (.refl _)))

theorem State.endSession_frame (s : State) (k : Nat) :
    Frame {} s (State.endSession s k) := by
  unfold State.endSession
  exact (Frame.record (.refl _) rfl rfl (.inr rfl) (.inr rfl) (.inr rfl) (.inr rfl) (.inr rfl))

theorem State.authFail_frame (s : State) (k : Nat) :
    Frame {} s (State.authFail s k) := by
  unfold State.authFail
  exact (Frame.step (State.addFld_frame ..) (Frame.step (State.endSession_frame ..) (.refl _)))

theorem execScrubSweep_frame (ring : Nat) (cid : Nat) (s : State) :
    FrameN {} s (execScrubSweep ring cid s) := by
  unfold execScrubSweep
  exact (FrameN.next (Frame.step (State.maintStart_frame ..) (.refl _)))

theorem State.showGroups_frame (s : State) (on : Bool) :
    Frame {} s (State.showGroups s on) := by
  unfold State.showGroups
  extract_lets _
  exact (Frame.record (.refl _) rfl rfl (.inr rfl) (.inr rfl) (.inr rfl) (.inr rfl) (.inr rfl))

theorem State.prepareElapsed_frame (s : State) (kind : Nat) (idx : Nat) :
    Frame {} s (State.prepareElapsed s kind idx) := by
  unfold State.prepareElapsed
  extract_lets _ x0 x1
  refine Frame.withVar x0 (Frame.step (State.advanceTo_frame ..) (.refl _)) fun h0 => ?_
  refine Frame.withVar x1 (Frame.step (State.setSleep_frame ..) h0) fun h1 => ?_
  exact (Frame.ite (.refl _) (Frame.ite (Frame.step (State.showGroups_frame ..) h1) h1))

theorem execPrepareElapsed_frame (kind : Nat) (idx : Nat) (s : State) :
    FrameN {} s (execPrepareElapsed kind idx s) := by
  unfold execPrepareElapsed
  exact (FrameN.next (Frame.step (State.prepareElapsed_frame ..) (.refl _)))

theorem State.dlItemEnds_frame (s : State) (c : Nat) (n : Nat) (k : Nat) (st : Nat) :
    Frame { mem := true, cells := true } s (State.dlItemEnds s c n k st) := by
  unfold State.dlItemEnds
  extract_lets x0 x1 x2
  refine Frame.withVar x0 (Frame.step (State.modItem_frame ..) (.refl _)) fun h0 => ?_
  refine Frame.withVar x1 (Frame.ite (Frame.step (State.raise_frame ..) h0) h0) fun h1 => ?_
  refine Frame.withVar x2 (Frame.ite (Frame.step (State.count_frame ..) (Frame.step (State.addFld_frame ..) h1)) h1) fun h2 => ?_
  exact (Frame.step (State.settleSlot_frame ..) h2)

theorem State.attnFinish_frame (s : State) (v : VecCmd) (x : Run) (a : Attn) :
    Frame { mem := true, runs := true } s (State.attnFinish s v x a) := by
  unfold State.attnFinish
  extract_lets x0 _ x1
  refine Frame.withVar x0 (Frame.step (State.modRun_frame ..) (.refl _)) fun h0 => ?_
  refine Frame.withVar x1 (Frame.ite (.refl _) (Frame.step (State.vecReport_frame ..) (Frame.step (State.countExc_frame ..) (Frame.step
      (State.runWrites_frame ..) h0)))) fun h1 => ?_
  exact (Frame.step (State.reapRun_frame ..) (Frame.step (State.endCmd_frame ..) (Frame.step (State.dropStream_frame ..) (Frame.step
      (State.pipeFree_frame ..) h1))))

theorem State.segmentDone_frame (s : State) :
    Frame { mem := true, runs := true } s (State.segmentDone s) := by
  unfold State.segmentDone
  split
  · exact (.refl _)
  · extract_lets _
    exact (Frame.ite (.refl _) (by
        split
        · exact (Frame.step (State.pipeFree_frame ..) (.refl _))
        · extract_lets _ x0 x1 x2 _
          refine Frame.withVar x0 (Frame.step (State.advanceTo_frame ..) (.refl _)) fun h0 => ?_
          refine Frame.withVar x1 (Frame.step (State.vecCharge_frame ..) h0) fun h1 => ?_
          refine Frame.withVar x2 (Frame.step (State.pipeFree_frame ..) h1) fun h2 => ?_
          exact (Frame.ite (Frame.step (State.attnFinish_frame ..) h1) (Frame.ite (Frame.step (State.reapRun_frame ..) (Frame.step
              (State.endCmd_frame ..) (Frame.step (State.dropStream_frame ..) (Frame.step (State.pipeFree_frame ..) h1)))) (Frame.record h2
              rfl rfl (.inr rfl) (.inr rfl) (.inr rfl) (.inr rfl) (.inr rfl))))))

theorem execAttnSegmentComplete_frame (s : State) :
    FrameN { mem := true, runs := true } s (execAttnSegmentComplete s) := by
  unfold execAttnSegmentComplete
  exact (FrameN.next (Frame.step (State.segmentDone_frame ..) (.refl _)))

theorem State.helmCore_frame (s : State) (core : Nat) (pc : Nat) :
    Frame { mem := true, cells := true, runs := true } s (State.helmCore s core pc) := by
  unfold State.helmCore
  extract_lets _
  exact (Frame.ite (.refl _) (Frame.step (State.loseCore_frame ..) (Frame.step (State.faultRecord_frame ..) (.refl _))))

theorem State.unloadChart_frame (s : State) (g : Nat) (cid : Nat) :
    Frame {} s (State.unloadChart s g cid) := by
  unfold State.unloadChart
  split
  · exact (.refl _)
  · extract_lets _
    split
    · exact (Frame.step (State.completeStatus_frame ..) (.refl _))
    · exact (Frame.ite (Frame.step (State.completeStatus_frame ..) (.refl _)) (Frame.ite (Frame.step (State.completeStatus_frame ..)
          (Frame.record (.refl _) rfl rfl (.inr rfl) (.inr rfl) (.inr rfl) (.inr rfl) (.inr rfl))) (Frame.step (State.stageCmd_frame ..)
          (Frame.record (.refl _) rfl rfl (.inr rfl) (.inr rfl) (.inr rfl) (.inr rfl) (.inr rfl)))))

theorem execUnloadChart_frame (ring : Nat) (cid : Nat) (s : State) :
    FrameN {} s (execUnloadChart ring cid s) := by
  unfold execUnloadChart
  exact (FrameN.next (Frame.step (State.unloadChart_frame ..) (.refl _)))

theorem State.fhStat_frame (s : State) (c : Nat) (k : Nat) (n : Nat) :
    Frame { cells := true } s (State.fhStat s c k n) := by
  unfold State.fhStat
  exact (Frame.step (State.modCell_frame ..) (.refl _))

theorem State.prachReport_frame (s : State) (c : Nat) (n : Nat) (k : Nat) (l : List PrachDet) :
    Frame { mem := true, cells := true } s (State.prachReport s c n k l) := by
  unfold State.prachReport
  extract_lets _ _ x0 x1 _ _ x2
  refine Frame.withVar x0 (Frame.ite (.refl _) (Frame.step (State.fhStat_frame ..) (.refl _))) fun h0 => ?_
  refine Frame.withVar x1 (Frame.step (State.count_frame ..) (Frame.step (State.count_frame ..) h0)) fun h1 => ?_
  refine Frame.withVar x2 (Frame.foldl (fun _ _ => (Frame.step (State.indicate_frame ..) (.refl _))) h1) fun h2 => ?_
  exact (Frame.step (State.ulItemEnds_frame ..) h2)

theorem State.prachDetect_frame (s : State) (c : Nat) (n : Nat) (k : Nat) :
    Frame { mem := true, cells := true } s (State.prachDetect s c n k) := by
  unfold State.prachDetect
  split
  · exact (.refl _)
  · exact (Frame.ite (by
        split
        · exact (.refl _)
        · exact (Frame.step (State.ulItemEnds_frame ..) (.refl _))
        · exact (Frame.step (State.prachReport_frame ..) (.refl _))) (.refl _))

theorem execPrachDetect_frame (cell : Nat) (n : Nat) (item : Nat) (s : State) :
    FrameN { mem := true, cells := true } s (execPrachDetect cell n item s) := by
  unfold execPrachDetect
  exact (FrameN.next (Frame.step (State.prachDetect_frame ..) (.refl _)))

theorem State.itemMemNote_frame (s : State) (c : Nat) (i : Item) (flt : Nat × Nat) :
    Frame {} s (State.itemMemNote s c i flt) := by
  unfold State.itemMemNote
  extract_lets x0 _ x1 _
  refine Frame.withVar x0 (Frame.step (State.hbmNote_frame ..) (.refl _)) fun h0 => ?_
  refine Frame.withVar x1 (Frame.ite (Frame.step (State.raise_frame ..) h0) h0) fun h1 => ?_
  exact (Frame.ite h1 (Frame.step (State.faultRecord_frame ..) h1))

theorem State.ulMemFails_frame (s : State) (x : PhyCtx) (k : Nat) (i : Item) (flt : Nat × Nat) :
    Frame { mem := true, cells := true } s (State.ulMemFails s x k i flt) := by
  unfold State.ulMemFails
  exact (Frame.step (State.ulFails_frame ..) (Frame.step (State.itemMemNote_frame ..) (.refl _)))

theorem State.uciReport_frame (s : State) (x : PhyCtx) (k : Nat) (i : Item) (dtx : Bool) :
    Frame { mem := true, cells := true } s (State.uciReport s x k i dtx) := by
  unfold State.uciReport
  extract_lets _ _ _ _ _ _ _ x0 x1 x2
  refine Frame.withVar x0.2 (Frame.step (State.resultBytes_frame ..) (.refl _)) fun h0 => ?_
  refine Frame.withVar x1 (Frame.ite (Frame.step (State.dmaWrite_frame ..) h0) (.refl _)) fun h1 => ?_
  refine Frame.withVar x2 (Frame.ite (Frame.step (State.count_frame ..) h1) h1) fun h2 => ?_
  exact (Frame.step (State.ulItemEnds_frame ..) h2)

theorem State.polarDecoded_frame (s : State) (u : Nat) (p : PolarJob) (x : PhyCtx) (i : Item) :
    Frame { mem := true, cells := true } s (State.polarDecoded s u p x i) := by
  unfold State.polarDecoded
  extract_lets _ x0 _ x1
  refine Frame.withVar x0 (Frame.step (State.count_frame ..) (.refl _)) fun h0 => ?_
  refine Frame.withVar x1 (Frame.step (State.modItem_frame ..) h0) fun h1 => ?_
  exact (Frame.ite (Frame.step (State.uciReport_frame ..) h1) h1)

theorem State.polarUp_frame (s : State) (u : Nat) (p : PolarJob) (i : Item) (f : CellCfg) :
    Frame { mem := true, cells := true } s (State.polarUp s u p i f) := by
  unfold State.polarUp
  extract_lets _ x0
  refine Frame.withVar x0 (Frame.step (State.meetErrors_frame ..) (.refl _)) fun h0 => ?_
  exact (Frame.ite (Frame.step (State.ulItemEnds_frame ..) h0) (by
      split
      · exact (Frame.step (State.ulMemFails_frame ..) h0)
      · exact (Frame.step (State.polarDecoded_frame ..) h0)))

theorem State.egressIdle_frame (s : State) (sp : Nat) :
    Frame {} s (State.egressIdle s sp) := by
  unfold State.egressIdle
  extract_lets _
  exact (Frame.ite (.refl _) (Frame.step (State.setEthSub_frame ..) (.refl _)))

theorem State.takePn_frame (s : State) (sc : Nat) (an : Nat) (dom : Nat) :
    Frame {} s (State.takePn s sc an dom).1 := by
  unfold State.takePn
  split
  · exact (Frame.fst (.refl _))
  · extract_lets _ _ x0 x1 x2
    refine Frame.withVar x0 (Frame.record (.refl _) rfl rfl (.inr rfl) (.inr rfl) (.inr rfl) (.inr rfl) (.inr rfl)) fun h0 => ?_
    refine Frame.withVar x1 (Frame.step (State.setFld_frame ..) h0) fun h1 => ?_
    refine Frame.withVar x2 (Frame.ite (Frame.step (State.raise_frame ..) h1) h1) fun h2 => ?_
    exact (Frame.fst (Frame.ite (Frame.step (State.notice_frame ..) h2) h2))

theorem State.txProtect_frame (s : State) (q : Nat) (flags : Nat) :
    FrameO1 {} s (State.txProtect s q flags) := by
  unfold State.txProtect
  extract_lets _ _
  exact (FrameO1.ite (FrameO1.ite FrameO1.none (by
      split
      · exact FrameO1.none
      · split
        · exact FrameO1.none
        · extract_lets x0
          refine FrameO1.withVar x0.1 (Frame.step (State.takePn_frame ..) (.refl _)) fun h0 => ?_
          exact (FrameO1.some (Frame.fst h0)))) (FrameO1.some (Frame.fst (.refl _))))

theorem State.txReads_frame (s : State) (q : Nat) (f : TxFrame) :
    Frame {} s (State.txReads s q f) := by
  unfold State.txReads
  exact (Frame.foldl (fun _ _ => (Frame.step (State.hbmUsed_frame ..) (.refl _))) (.refl _))

theorem State.toWire_frame (s : State) (sp : Nat) (q : Nat) (ends : Nat) (ts : Option Nat) :
    Frame {} s (State.toWire s sp q ends ts) := by
  unfold State.toWire
  extract_lets _ _ x0
  refine Frame.withVar x0 (Frame.step (State.setEthSub_frame ..) (.refl _)) fun h0 => ?_
  split
  · exact h0
  · exact (Frame.step (State.setTxq_frame ..) h0)

theorem State.txSend_frame (s : State) (sp : Nat) (q : Nat) (level : Nat) (f : TxFrame) (sec : Option (Nat × Nat × Nat)) :
    Frame {} s (State.txSend s sp q level f sec) := by
  unfold State.txSend
  extract_lets _ _ _ x0 _ _ _ _ _ _ _ x1 _ x2 x3 x4 _ x5
  refine Frame.withVar x0 (Frame.step (State.txReads_frame ..) (.refl _)) fun h0 => ?_
  refine Frame.withVar x1 (Frame.step (State.frameSent_frame ..) (Frame.step (State.send_frame ..) h0)) fun h1 => ?_
  refine Frame.withVar x2 (Frame.step (State.count_frame ..) (Frame.step (State.count_frame ..) h1)) fun h2 => ?_
  refine Frame.withVar x3 (Frame.step (State.setFld_frame ..) h2) fun h3 => ?_
  refine Frame.withVar x4 (Frame.step (State.setEthSub_frame ..) h3) fun h4 => ?_
  refine Frame.withVar x5 (Frame.step (State.setFld_frame ..) (Frame.step (State.setTxq_frame ..) h4)) fun h5 => ?_
  exact (Frame.step (State.toWire_frame ..) h5)

theorem State.egressSelect_frame (s : State) (sp : Nat) :
    Frame { mem := true } s (State.egressSelect s sp) := by
  unfold State.egressSelect
  extract_lets x0
  refine Frame.withVar x0 (Frame.step (State.wireEnds_frame ..) (Frame.step (State.advanceTo_frame ..) (.refl _))) fun h0 => ?_
  exact (Frame.ite (.refl _) (by
      split
      · exact (Frame.step (State.egressIdle_frame ..) h0)
      · split
        · exact h0
        · split
          · exact (Frame.step (State.txEnds_frame ..) h0)
          · exact (Frame.step (State.txSend_frame ..) (FrameO1.get2 (by assumption) (FrameO1.step (State.txProtect_frame ..) h0)))))

theorem State.maintRan_frame (s : State) (m : MaintCmd) (passed : Bool) (errors : Nat) (ce : List Nat) (ue : List Nat) :
    Frame { mem := true, cells := true, mer := true, runs := true, fab := true } s (State.maintRan s m passed errors ce ue) := by
  unfold State.maintRan
  extract_lets x0 x1
  refine Frame.withVar x0 (Frame.ite (Frame.step (State.count_frame ..) (.refl _)) (.refl _)) fun h0 => ?_
  refine Frame.withVar x1.2 (Frame.step (State.fresh_frame ..) h0) fun h1 => ?_
  exact (Frame.ite (Frame.step (State.maintEnd_frame ..) (Frame.step (State.sweep_frame ..) (.refl _))) (Frame.ite (Frame.step
      (State.maintEnd_frame ..) h0) (by
      split
      · exact (Frame.step (State.maintEnd_frame ..) h0)
      · exact (Frame.step (State.complete_frame ..) (Frame.step (State.unitLost_frame ..) (Frame.step (State.maintOver_frame ..) h1))))))

theorem State.maintComplete_frame (s : State) (g : Nat) (cid : Nat) (passed : Bool) (errors : Nat) (ce : List Nat) (ue : List Nat) :
    Frame { mem := true, cells := true, mer := true, runs := true, fab := true } s (State.maintComplete s g cid passed errors ce ue) := by
  unfold State.maintComplete
  split
  · exact (.refl _)
  · exact (Frame.step (State.maintRan_frame ..) (.refl _))

theorem State.dispatchCmd_frame (s : State) (r : Nat) (i : Nat) (x : Run) (k : PKind) :
    Frame { runs := true } s (State.dispatchCmd s r i x k) := by
  unfold State.dispatchCmd
  extract_lets _ x0 _ x1
  refine Frame.withVar x0 (Frame.step (State.setRun_frame ..) (.refl _)) fun h0 => ?_
  refine Frame.withVar x1 (Frame.ite (Frame.record h0 rfl rfl (.inr rfl) (.inr rfl) (.inr rfl) (.inr rfl) (.inr rfl)) h0) fun h1 => ?_
  exact (Frame.ite (Frame.step (State.noteReady_frame ..) (Frame.step (State.tagFaults_frame ..) h1)) (.refl _))

theorem State.dispatchKind_frame (s : State) (r : Nat) (x : Run) (k : PKind) :
    Frame { runs := true } s (State.dispatchKind s r x k) := by
  unfold State.dispatchKind
  extract_lets _
  split
  · exact (Frame.ite (Frame.step (State.setRun_frame ..) (.refl _)) (Frame.ite (Frame.step (State.setRun_frame ..) (.refl _)) (.refl _)))
  · exact (Frame.ite (Frame.step (State.setRun_frame ..) (.refl _)) (.refl _))
  · exact (Frame.ite (Frame.step (State.setRun_frame ..) (.refl _)) (.refl _))
  · exact (Frame.step (State.dispatchCmd_frame ..) (.refl _))

theorem State.dispatchNext_frame (s : State) (r : Nat) :
    Frame { runs := true } s (State.dispatchNext s r) := by
  unfold State.dispatchNext
  split
  · exact (.refl _)
  · split
    · exact (.refl _)
    · exact (Frame.ite (by
          split
          · exact (.refl _)
          · exact (Frame.ite (Frame.step (State.failRun_frame ..) (.refl _)) (Frame.step (State.dispatchKind_frame ..) (.refl _)))) (.refl
                _))

theorem execCommandDispatch_frame (run : Nat) (s : State) :
    FrameN { runs := true } s (execCommandDispatch run s) := by
  unfold execCommandDispatch
  exact (FrameN.next (Frame.step (State.dispatchNext_frame ..) (.refl _)))

theorem State.evcFree_frame (s : State) (d : Nat) (b : List Byte) :
    Frame {} s (State.evcFree s d b).1 := by
  unfold State.evcFree
  extract_lets _
  exact (Frame.ite1 (Frame.fst (.refl _)) (Frame.ite1 (Frame.fst (.refl _)) (Frame.fst (Frame.record (.refl _) rfl rfl (.inr rfl) (.inr
      rfl) (.inr rfl) (.inr rfl) (.inr rfl)))))

theorem State.wakeOff_frame (s : State) (kind : Nat) (idx : Nat) (since : Nat) :
    Frame {} s (State.wakeOff s kind idx since) := by
  unfold State.wakeOff
  extract_lets x0
  refine Frame.withVar x0 (Frame.ite (Frame.step (State.setPll_frame ..) (.refl _)) (.refl _)) fun h0 => ?_
  exact (Frame.step (State.setSleep_frame ..) h0)

theorem State.spillFails_frame (s : State) (x : PhyCtx) (sym : Nat) (flt : Nat × Nat) :
    Frame { mem := true, cells := true } s (State.spillFails s x sym flt) := by
  unfold State.spillFails
  exact (Frame.foldl (fun _ _ => (by
      split
      · exact (Frame.ite (Frame.step (State.ulMemFails_frame ..) (.refl _)) (.refl _))
      · exact (.refl _))) (.refl _))

theorem State.portCtrlWrite_frame (s : State) (p : Nat) (v : Nat) :
    Frame { mem := true, mer := true } s (State.portCtrlWrite s p v) := by
  unfold State.portCtrlWrite
  extract_lets _ x0 x1 x2 x3
  refine Frame.withVar x0 (Frame.ite (.refl _) (Frame.step (State.setFld_frame ..) (.refl _))) fun h0 => ?_
  refine Frame.withVar x1 (Frame.step (State.setFld_frame ..) h0) fun h1 => ?_
  refine Frame.withVar x2 (Frame.step (State.setFld_frame ..) h1) fun h2 => ?_
  refine Frame.withVar x3 (Frame.step (State.setFld_frame ..) h2) fun h3 => ?_
  exact (Frame.ite (Frame.step (State.reformPort_frame ..) h3) (Frame.ite h3 (Frame.step (State.reformPort_frame ..) h3)))

theorem State.countResults_frame (s : State) (x : Run) (res : List (Mat × MatResult)) :
    Frame {} s (State.countResults s x res) := by
  unfold State.countResults
  extract_lets _ _ _ _ _ _ _ x0
  refine Frame.withVar x0 (Frame.foldl (fun _ _ => (Frame.step (State.countWork_frame ..) (.refl _))) (.refl _)) fun h0 => ?_
  exact (Frame.foldl (fun _ _ => (Frame.step (State.count_frame ..) (.refl _))) h0)

theorem State.finishArray_frame (s : State) (a : ArrCmd) :
    Frame { mem := true, runs := true } s (State.finishArray s a) := by
  unfold State.finishArray
  extract_lets _ _ _
  split
  · exact (.refl _)
  · extract_lets x0
    refine Frame.withVar x0 (Frame.step (State.countResults_frame ..) (Frame.foldl (fun _ _ => (Frame.step (State.runWrites_frame ..)
        (.refl _))) (.refl _))) fun h0 => ?_
    split
    · exact (.refl _)
    · extract_lets _ _ x1 x2 x3
      refine Frame.withVar x1 (Frame.step (State.setRun_frame ..) h0) fun h1 => ?_
      refine Frame.withVar x2 (Frame.ite (Frame.step (State.postCmdRecord_frame ..) h1) h1) fun h2 => ?_
      refine Frame.withVar x3 (Frame.ite (Frame.step (State.failRun_frame ..) h2) (Frame.ite (Frame.step (State.modRun_frame ..) h2) h2))
          fun h3 => ?_
      exact (Frame.step (State.endCmd_frame ..) h3)

theorem State.drainDone_frame (s : State) :
    Frame { mem := true, runs := true } s (State.drainDone s) := by
  unfold State.drainDone
  split
  · exact (.refl _)
  · extract_lets _ x0 _ x1 x2 x3
    refine Frame.withVar x0 (Frame.step (State.advanceTo_frame ..) (.refl _)) fun h0 => ?_
    refine Frame.withVar x1 (Frame.record h0 rfl rfl (.inr rfl) (.inr rfl) (.inr rfl) (.inr rfl) (.inr rfl)) fun h1 => ?_
    refine Frame.withVar x2 (Frame.step (State.chargeCmd_frame ..) h1) fun h2 => ?_
    refine Frame.withVar x3 (Frame.ite h2 (Frame.ite (Frame.step (State.endCmd_frame ..) h2) (Frame.step (State.finishArray_frame ..) h2)))
        fun h3 => ?_
    exact (Frame.step (State.reapRun_frame ..) (Frame.step (State.arrayClass_frame ..) (Frame.step (State.arrayIdle_frame ..) h3)))

theorem execArrayCmdComplete_frame (s : State) :
    FrameN { mem := true, runs := true } s (execArrayCmdComplete s) := by
  unfold execArrayCmdComplete
  exact (FrameN.next (Frame.step (State.drainDone_frame ..) (.refl _)))

theorem State.chargeRadio_frame (s : State) (d : Nat) (n : Nat) :
    Frame {} s (State.chargeRadio s d n) := by
  unfold State.chargeRadio
  extract_lets _
  exact (Frame.record (.refl _) rfl rfl (.inr rfl) (.inr rfl) (.inr rfl) (.inr rfl) (.inr rfl))

theorem State.fabStatus_frame (s : State) (g : Nat) (cid : Nat) (status : Nat) (addr : Nat) :
    Frame {} s (State.fabStatus s g cid status addr) := by
  unfold State.fabStatus
  extract_lets _ x0
  refine Frame.withVar x0 (Frame.ite (.refl _) (Frame.step (State.faultRecord_frame ..) (.refl _))) fun h0 => ?_
  exact (Frame.step (State.completeStatus_frame ..) h0)

theorem State.fabStart_frame (s : State) (g : Nat) (f : Fetched) (kind : FKind) (addr : Nat) (len : Nat) (key : Nat) (cache : Bool) (data :
    List Byte) :
    Frame { mem := true, fab := true } s (State.fabStart s g f kind addr len key cache data) := by
  unfold State.fabStart
  extract_lets x0
  refine Frame.withVar x0 (Frame.step (State.stageCmd_frame ..) (.refl _)) fun h0 => ?_
  split
  · exact (FrameO.get (by assumption) (FrameO.step (State.startJob_frame ..) h0))
  · exact h0

theorem State.fload_frame (s : State) (g : Nat) (cid : Nat) :
    Frame { mem := true, fab := true } s (State.fload s g cid) := by
  unfold State.fload
  split
  · exact (.refl _)
  · extract_lets _ _
    exact (Frame.ite (Frame.step (State.fabStatus_frame ..) (.refl _)) (Frame.step (State.fabStart_frame ..) (.refl _)))

theorem execFload_frame (ring : Nat) (cid : Nat) (s : State) :
    FrameN { mem := true, cells := true, runs := true, fab := true } s (execFload ring cid s) := by
  unfold execFload
  exact (FrameN.next (Frame.step (State.limitStacks_frame ..) (Frame.step (State.fload_frame ..) (.refl _))))

theorem State.squashCharts_frame (s : State) (inst : Nat) :
    Frame {} s (State.squashCharts s inst) := by
  unfold State.squashCharts
  exact (Frame.record (.refl _) rfl rfl (.inr rfl) (.inr rfl) (.inr rfl) (.inr rfl) (.inr rfl))

theorem State.takeAck_frame (s : State) (p : Nat) (ack : Nat) :
    Frame {} s (State.takeAck s p ack) := by
  unfold State.takeAck
  extract_lets _
  exact (Frame.ite (Frame.step (State.setFld_frame ..) (.refl _)) (.refl _))

theorem State.almGo_frame {c : Changes} {f : State → State} (hf : ∀ t, Frame c t (f t)) (s : State) (op : Nat) :
    Frame c s (s.almGo op f) := by
  unfold State.almGo
  refine Frame.ite (.refl _) (State.sxtServe_frame (fun t => ?_) _)
  extract_lets x
  refine Frame.withVar x (Frame.step0 (State.count_frame ..) (Frame.step0 (State.setFld_frame ..) (.refl _))) fun h => ?_
  exact Frame.ite (Frame.step0 (State.almAnswer_frame ..) h) (Frame.trans (hf _) h)

theorem State.withUpdate_frame {c : Changes} {f : State → State} (hf : ∀ t, Frame c t (f t)) (s : State) (own : List Nat) :
    Frame c s (s.withUpdate own f) := by
  unfold State.withUpdate
  split
  · exact Frame.step0 (State.almAnswer_frame ..) (Frame.step0 (State.lockRefused_frame ..) (.refl _))
  · exact hf _

theorem State.rollbackRow_frame (s : State) :
    Frame {} s (State.rollbackRow s) := by
  unfold State.rollbackRow
  extract_lets _
  exact (Frame.step (State.writeHdr_frame ..) (.refl _))

theorem State.updateDone_frame (s : State) (l : LiveUpdate) :
    Frame {} s (State.updateDone s l) := by
  unfold State.updateDone
  extract_lets x0 _ _ _ x1 x2 x3
  refine Frame.withVar x0 (Frame.ite (Frame.step (State.rollbackRow_frame ..) (.refl _)) (Frame.step (State.activateRow_frame ..) (.refl
      _))) fun h0 => ?_
  refine Frame.withVar x1 (Frame.step (State.setVersions_frame ..) (Frame.record h0 rfl rfl (.inr rfl) (.inr rfl) (.inr rfl) (.inr rfl)
      (.inr rfl))) fun h1 => ?_
  refine Frame.withVar x2 (Frame.foldl (fun _ _ => (Frame.step (State.configChanged_frame ..) (.refl _))) (Frame.step (State.addFld_frame
      ..) h1)) fun h2 => ?_
  refine Frame.withVar x3 (Frame.step (State.updateOver_frame ..) (Frame.step (State.setFld_frame ..) h2)) fun h3 => ?_
  exact (Frame.ite h3 (Frame.step (State.almAnswer_frame ..) h3))

theorem State.liveStart_frame (s : State) (target : Nat) (back : Bool) (pldm : Bool) :
    Frame {} s (State.liveStart s target back pldm).1 := by
  unfold State.liveStart
  extract_lets _ _ _ _ x0 x1 x2 _
  refine Frame.withVar x0 (Frame.ite (.refl _) (Frame.step (State.noteOutcome_frame ..) (.refl _))) fun h0 => ?_
  refine Frame.withVar x1 (Frame.ite h0 (Frame.step (State.takeToken_frame ..) h0)) fun h1 => ?_
  refine Frame.withVar x2 (Frame.step (State.noteMap_frame ..) h1) fun h2 => ?_
  exact (Frame.ite1 (Frame.fst h0) (Frame.ite1 (Frame.fst (Frame.step (State.updateDone_frame ..) h1)) (Frame.fst (Frame.step
      (State.showUpdate_frame ..) (Frame.record h2 rfl rfl (.inr rfl) (.inr rfl) (.inr rfl) (.inr rfl) (.inr rfl))))))

theorem State.liveGo_frame (s : State) (target : Nat) (back : Bool) :
    Frame {} s (State.liveGo s target back) := by
  unfold State.liveGo
  exact (Frame.ite (Frame.step (State.almAnswer_frame ..) (.refl _)) (Frame.trans (State.withUpdate_frame (fun _ => (by
      extract_lets x0
      refine Frame.withVar x0.1 (Frame.step (State.liveStart_frame ..) (.refl _)) fun h0 => ?_
      exact (Frame.step (State.almAnswer_frame ..) h0))) ..) (.refl _)))

theorem State.rollbackLive_frame (s : State) :
    Frame {} s (State.rollbackLive s) := by
  unfold State.rollbackLive
  exact (Frame.trans (State.almGo_frame (fun _ => (Frame.ite (Frame.step (State.liveGo_frame ..) (.refl _)) (Frame.step
      (State.almAnswer_frame ..) (.refl _)))) ..) (.refl _))

theorem State.setTie_frame (s : State) (t : EthTie) :
    Frame {} s (State.setTie s t) := by
  unfold State.setTie
  extract_lets _
  exact (Frame.record (.refl _) rfl rfl (.inr rfl) (.inr rfl) (.inr rfl) (.inr rfl) (.inr rfl))

theorem State.tiePol_frame (s : State) (n : Nat) :
    Frame {} s (State.tiePol s n) := by
  unfold State.tiePol
  extract_lets _
  exact (Frame.ite (.refl _) (Frame.step (State.setTie_frame ..) (.refl _)))

theorem State.settleQueue_frame (s : State) (q : Nat) :
    Frame { mem := true } s (State.settleQueue s q) := by
  unfold State.settleQueue
  split
  · exact (Frame.ite (Frame.step (State.wireEnds_frame ..) (.refl _)) (.refl _))
  · exact (.refl _)

theorem State.noteTxBytes_frame (s : State) (sp : Nat) :
    Frame {} s (State.noteTxBytes s sp) := by
  unfold State.noteTxBytes
  exact (Frame.step (State.setFld_frame ..) (.refl _))

theorem State.headTag_frame (s : State) (q : Nat) :
    Frame {} s (State.headTag s q) := by
  unfold State.headTag
  extract_lets _ _
  exact (Frame.ite (Frame.step (State.setEthSub_frame ..) (.refl _)) (.refl _))

theorem State.txMeets_frame (s : State) (q i m : Nat) : Frame {} s (State.txMeets s q i m) := by
  unfold State.txMeets
  extract_lets _
  refine Frame.foldl (fun t _ => ?_) (.refl _)
  extract_lets x0
  refine Frame.withVar x0 (Frame.step (State.prMeets_frame ..) (.refl _)) fun h0 => ?_
  split
  · exact (Frame.step (State.meetErrors_frame ..) h0)
  · exact h0

theorem State.txPoll_frame (s : State) (q : Nat) :
    Frame { mem := true } s (State.txPoll s q) := by
  unfold State.txPoll
  extract_lets _ x0 x1 _
  refine Frame.withVar x0 (Frame.step (State.advanceTo_frame ..) (.refl _)) fun h0 => ?_
  refine Frame.withVar x1 (Frame.step (State.prMeets_frame ..) (Frame.step (State.settleQueue_frame ..) h0)) fun h1 => ?_
  exact (Frame.ite (.refl _) (by
      split
      · exact (Frame.step (State.setTxq_frame ..) h1)
      · extract_lets _ _ _ _ _ y _ _ x2
        refine Frame.withVar y (Frame.step (State.txMeets_frame ..) h1) fun hy => ?_
        refine Frame.withVar x2 (Frame.step (State.setTxq_frame ..) hy) fun h2 => ?_
        exact (Frame.ite (Frame.step (State.setTxq_frame ..) h1) (Frame.step (State.noteTxBytes_frame ..) (Frame.step (State.headTag_frame
            ..) (Frame.step (State.txWriteBack_frame ..) h2))))))

theorem State.coalTimer_frame (s : State) (g : Nat) :
    Frame {} s (State.coalTimer s g) := by
  unfold State.coalTimer
  split
  · exact (.refl _)
  · extract_lets _ x0
    refine Frame.withVar x0 (Frame.step (State.advanceTo_frame ..) (.refl _)) fun h0 => ?_
    exact (Frame.ite (Frame.step (State.sendMsix_frame ..) (Frame.step (State.setRing_frame ..) h0)) (.refl _))

theorem State.countLoss_frame (s : State) (p : Nat) (l : Nat) :
    Frame {} s (State.countLoss s p l) := by
  unfold State.countLoss
  exact (Frame.step (State.health_frame ..) (Frame.step (State.count_frame ..) (.refl _)))

theorem State.showLocks_frame (s : State) (p : Nat) :
    Frame {} s (State.showLocks s p) := by
  unfold State.showLocks
  exact (Frame.foldl (fun _ _ => (Frame.step (State.setFld_frame ..) (.refl _))) (.refl _))

theorem State.setLock_frame (s : State) (p : Nat) (l : Nat) (on : Bool) :
    Frame {} s (State.setLock s p l on) := by
  unfold State.setLock
  extract_lets _
  exact (Frame.step (State.showLocks_frame ..) (Frame.record (.refl _) rfl rfl (.inr rfl) (.inr rfl) (.inr rfl) (.inr rfl) (.inr rfl)))

theorem State.ethLaneLoss_frame (s : State) (p : Nat) (l : Nat) (rx : Option (EthFrame × Nat)) :
    Frame { mem := true, mer := true } s (State.ethLaneLoss s p l rx) := by
  unfold State.ethLaneLoss
  extract_lets x0
  refine Frame.withVar x0 (Frame.step (State.subDown_frame ..) (Frame.step (State.countLoss_frame ..) (Frame.step (State.setLock_frame ..)
      (.refl _)))) fun h0 => ?_
  exact (Frame.ite (Frame.step (State.raise_frame ..) (Frame.step (State.reformPort_frame ..) h0)) h0)

theorem execEthLaneLoss_frame (port : Nat) (lane : Nat) (rx : Option (EthFrame × Nat)) (s : State) :
    FrameN { mem := true, mer := true } s (execEthLaneLoss port lane rx s) := by
  unfold execEthLaneLoss
  exact (FrameN.next (Frame.step (State.ethLaneLoss_frame ..) (.refl _)))

theorem State.grantWrite_frame (s : State) (v : Nat) :
    Frame {} s (State.grantWrite s v) := by
  unfold State.grantWrite
  extract_lets _ _ x0 _ _ _ x1
  refine Frame.withVar x0 (Frame.step (State.setReg_frame ..) (.refl _)) fun h0 => ?_
  refine Frame.withVar x1 (State.unlessStrict_frame (.refl _) h0 ..) fun h1 => ?_
  exact (Frame.ite (Frame.step (State.raise_frame ..) (.refl _)) (Frame.ite h1 (Frame.step (State.measChanged_frame ..) h1)))

theorem execGrantWrite_frame (value : Nat) (s : State) :
    FrameN {} s (execGrantWrite value s) := by
  unfold execGrantWrite
  exact (FrameN.next (Frame.step (State.grantWrite_frame ..) (.refl _)))

theorem State.tieReg_frame (s : State) (a : Nat) (i : Nat) :
    Frame {} s (State.tieReg s a i) := by
  unfold State.tieReg
  extract_lets _
  exact (Frame.ite (.refl _) (Frame.step (State.setTie_frame ..) (.refl _)))

theorem State.policerWrite_frame (s : State) (v : Nat) :
    Frame {} s (State.policerWrite s v) := by
  unfold State.policerWrite
  extract_lets _ x0 x1 _ _
  refine Frame.withVar x0 (Frame.step (State.tiePol_frame ..) (Frame.step (State.tieReg_frame ..) (.refl _))) fun h0 => ?_
  refine Frame.withVar x1 (Frame.step (State.setReg_frame ..) h0) fun h1 => ?_
  exact (Frame.ite (Frame.record h1 rfl rfl (.inr rfl) (.inr rfl) (.inr rfl) (.inr rfl) (.inr rfl)) h1)

theorem State.replay_frame (s : State) (p : Nat) :
    Frame {} s (State.replay s p) := by
  unfold State.replay
  exact (Frame.step (State.health_frame ..) (Frame.step (State.count_frame ..) (Frame.step (State.satFld_frame ..) (.refl _))))

theorem State.storeWord_frame (s : State) (a : Nat) (idx : Nat) (v : Nat) :
    Frame {} s (State.storeWord s a idx v) := by
  unfold State.storeWord
  split
  · exact (.refl _)
  · exact (Frame.step (State.setReg_frame ..) (.refl _))

theorem State.routeWrite_frame (s : State) (n : Nat) (v : Nat) :
    Frame { fab := true } s (State.routeWrite s n v) := by
  unfold State.routeWrite
  extract_lets x0
  refine Frame.withVar x0 (Frame.step (State.storeWord_frame ..) (.refl _)) fun h0 => ?_
  exact (Frame.ite (Frame.step (State.checkRoute_frame ..) h0) h0)

theorem State.setPtpPort_frame (s : State) (sp : Nat) (p : PtpPort) :
    Frame { mer := true } s (State.setPtpPort s sp p) := by
  unfold State.setPtpPort
  extract_lets _
  exact (Frame.record (.refl _) rfl rfl (.inr rfl) (.inl rfl) (.inr rfl) (.inr rfl) (.inr rfl))

theorem State.lost_frame (s : State) (noAnnounce : Bool) :
    Frame { mer := true } s (State.lost s noAnnounce) := by
  unfold State.lost
  extract_lets _ x0
  refine Frame.withVar x0 (Frame.step (State.sourceLost_frame ..) (.refl _)) fun h0 => ?_
  exact (Frame.ite (by
      split
      · exact h0
      · extract_lets _
        exact (Frame.ite (Frame.step (State.bmca_frame ..) (Frame.step (State.setPtpPort_frame ..) h0)) h0)) (Frame.ite (by
      split
      · exact (.refl _)
      · exact (Frame.step (State.sourceLost_frame ..) (Frame.step (State.advanceTo_frame ..) (.refl _)))) (.refl _)))

theorem execSourceLost_frame (noAnnounce : Bool) (s : State) :
    FrameN { mer := true } s (execSourceLost noAnnounce s) := by
  unfold execSourceLost
  exact (FrameN.next (Frame.step (State.lost_frame ..) (.refl _)))

theorem State.waitContext_frame (s : State) (w : CtxWaiter) :
    Frame {} s (State.waitContext s w) := by
  unfold State.waitContext
  exact (Frame.record (.refl _) rfl rfl (.inr rfl) (.inr rfl) (.inr rfl) (.inr rfl) (.inr rfl))

theorem State.fstore_frame (s : State) (g : Nat) (cid : Nat) :
    Frame {} s (State.fstore s g cid) := by
  unfold State.fstore
  split
  · exact (.refl _)
  · extract_lets _ _
    exact (Frame.ite (Frame.step (State.fabStatus_frame ..) (.refl _)) (by
        split
        · exact (Frame.step (State.dmaWaits_frame ..) (.refl _))
        · exact (Frame.step (State.stageCmd_frame ..) (FrameO.get (by assumption) (FrameO.step (State.dmaRead_frame ..) (.refl _))))))

theorem execFstore_frame (ring : Nat) (cid : Nat) (s : State) :
    FrameN {} s (execFstore ring cid s) := by
  unfold execFstore
  exact (FrameN.next (Frame.step (State.fstore_frame ..) (.refl _)))

theorem State.combineBlock_frame (s : State) (x : PhyCtx) (k : Nat) (r : Nat) (i : Item) :
    Frame { cells := true } s (State.combineBlock s x k r i) := by
  unfold State.combineBlock
  extract_lets _ _ _ _ _ _ x0
  refine Frame.withVar x0 (Frame.step (State.modItem_frame ..) (.refl _)) fun h0 => ?_
  exact (Frame.step (State.modSlotJob_frame ..) h0)

theorem State.evcCtrlWrite_frame (s : State) (v : Nat) :
    Frame {} s (State.evcCtrlWrite s v) := by
  unfold State.evcCtrlWrite
  extract_lets _
  exact (Frame.step (State.setFld_frame ..) (Frame.step (State.setFld_frame ..) (.refl _)))

theorem execFreeze_frame (value : Nat) (s : State) :
    FrameN {} s (execFreeze value s) := by
  unfold execFreeze
  exact (FrameN.next (Frame.step (State.evcCtrlWrite_frame ..) (.refl _)))

theorem State.pathDelay_frame (s : State) (sp : Nat) :
    Frame {} s (State.pathDelay s sp).2 := by
  unfold State.pathDelay
  extract_lets x0
  refine Frame.withVar x0.2 (Frame.step (State.fresh_frame ..) (.refl _)) fun h0 => ?_
  split
  · exact (Frame.snd (.refl _))
  · exact (Frame.snd h0)

theorem State.syncDone_frame (s : State) (sp : Nat) (t1 : Int) (t2 : Int) :
    Frame { mer := true } s (State.syncDone s sp t1 t2) := by
  unfold State.syncDone
  extract_lets _ x0 x1
  refine Frame.withVar x0 (Frame.step (State.setPtpPort_frame ..) (.refl _)) fun h0 => ?_
  refine Frame.withVar x1.2 (Frame.step (State.pathDelay_frame ..) h0) fun h1 => ?_
  exact (Frame.ite (Frame.step (State.phaseMeasure_frame ..) h1) h0)

theorem State.delayDone_frame (s : State) (sp : Nat) (t4 : Int) :
    Frame { mer := true } s (State.delayDone s sp t4) := by
  unfold State.delayDone
  extract_lets _
  split
  · exact (Frame.step (State.setPtpPort_frame ..) (.refl _))
  · exact (.refl _)

theorem State.ptpMessage_frame (s : State) (sp : Nat) (m : PtpMsg) :
    Frame { mer := true } s (State.ptpMessage s sp m) := by
  unfold State.ptpMessage
  extract_lets _ x0 x1 _
  refine Frame.withVar x0 (Frame.step (State.merCount_frame ..) (.refl _)) fun h0 => ?_
  refine Frame.withVar x1 (Frame.step (State.merCount_frame ..) (.refl _)) fun h1 => ?_
  split
  · exact (Frame.ite (Frame.step (State.setPtpPort_frame ..) h0) (Frame.step (State.syncDone_frame ..) h0))
  · split
    · exact (.refl _)
    · exact (Frame.step (State.syncDone_frame ..) (.refl _))
  · exact (Frame.ite (Frame.step (State.merSend_frame ..) h1) h1)
  · exact (Frame.step (State.delayDone_frame ..) (.refl _))
  · extract_lets x2
    refine Frame.withVar x2 (Frame.step (State.setFld_frame ..) (Frame.step (State.merCount_frame ..) (.refl _))) fun h2 => ?_
    exact (Frame.step (State.bmca_frame ..) (Frame.step (State.setPtpPort_frame ..) h2))
  · exact (Frame.ite (Frame.step (State.merSend_frame ..) (.refl _)) (.refl _))
  · exact (.refl _)

theorem State.fkey_frame (s : State) (g : Nat) (cid : Nat) :
    Frame { fab := true } s (State.fkey s g cid) := by
  unfold State.fkey
  split
  · exact (.refl _)
  · extract_lets _
    exact (Frame.ite (Frame.step (State.fabStatus_frame ..) (.refl _)) (by
        split
        · exact (Frame.step (State.fabStatus_frame ..) (.refl _))
        · exact (Frame.ite (Frame.step (State.fabStatus_frame ..) (.refl _)) (Frame.step (State.completeStatus_frame ..) (Frame.step
              (State.setRegionKey_frame ..) (.refl _))))))

theorem State.rxDrop_frame (s : State) (sp : Nat) (f : Fld) (k : Nat) :
    Frame {} s (State.rxDrop s sp f k) := by
  unfold State.rxDrop
  exact (Frame.step (State.count_frame ..) (Frame.step (State.satFld_frame ..) (.refl _)))

theorem State.dropFull_frame (s : State) (sp : Nat) :
    Frame {} s (State.dropFull s sp) := by
  unfold State.dropFull
  exact (Frame.step (State.rxDrop_frame ..) (.refl _))

theorem State.revokeFor_frame (s : State) (i : Image) :
    Frame {} s (State.revokeFor s i) := by
  unfold State.revokeFor
  extract_lets _
  split
  · exact (Frame.record (.refl _) rfl rfl (.inr rfl) (.inr rfl) (.inr rfl) (.inr rfl) (.inr rfl))
  · exact (Frame.record (.refl _) rfl rfl (.inr rfl) (.inr rfl) (.inr rfl) (.inr rfl) (.inr rfl))
  · exact (.refl _)

theorem State.dropUnready_frame (s : State) (c : Nat) (n : Nat) (sym : Nat) (j : SlotJob) :
    Frame { mem := true, cells := true } s (State.dropUnready s c n sym j) := by
  unfold State.dropUnready
  exact (Frame.foldl (fun _ _ => (by
      split
      · exact (Frame.ite (Frame.step (State.dlItemEnds_frame ..) (.refl _)) (.refl _))
      · exact (.refl _))) (.refl _))

theorem execDeviceBoot_frame (trained : Nat) (speed0 : Nat) (width0 : Nat) (speed1 : Nat) (width1 : Nat) (s : State) :
    FrameN { mem := true, cells := true, mer := true, keys := true, runs := true, fab := true } s (execDeviceBoot trained speed0 width0
        speed1 width1 s) := by
  unfold execDeviceBoot
  exact (FrameN.next (Frame.step (State.deviceBoot_frame ..) (.refl _)))

theorem State.engineParity_frame (s : State) (fabric : Bool) (e : Nat) :
    Frame { mem := true, cells := true, runs := true } s (State.engineParity s fabric e) := by
  unfold State.engineParity
  extract_lets _ _
  exact (Frame.step (State.loseIoEngine_frame ..) (Frame.step (State.faultRecord_frame ..) (.refl _)))

theorem execQCommit_frame (value : Nat) (s : State) :
    FrameN {} s (execQCommit value s) := by
  unfold execQCommit
  exact (FrameN.next (Frame.step (State.qCfgWrite_frame ..) (.refl _)))

theorem execBypass_frame (s : State) :
    FrameN {} s (execBypass s) := by
  unfold execBypass
  exact (FrameN.next (Frame.ite (Frame.step (State.tapBypassed_frame ..) (.refl _)) (.refl _)))

theorem State.countHarq_frame (s : State) (d : Nat) (fl : Nat) :
    Frame {} s (State.countHarq s d fl) := by
  unfold State.countHarq
  extract_lets x0
  refine Frame.withVar x0 (Frame.ite (Frame.step (State.count_frame ..) (Frame.step (State.count_frame ..) (Frame.step (State.addFld_frame
      ..) (.refl _)))) (.refl _)) fun h0 => ?_
  exact (Frame.ite (Frame.step (State.count_frame ..) (Frame.step (State.count_frame ..) (Frame.step (State.addFld_frame ..) h0))) h0)

theorem State.takeCtx_frame (s : State) (x : PhyCtx) (k : Nat) (i : Item) :
    Frame { mem := true, cells := true } s (State.takeCtx s x k i) := by
  unfold State.takeCtx
  extract_lets _ _ _ _ x0 y1 _ x2 _
  refine Frame.withVar x0 (Frame.ite (.refl _) (Frame.step (State.freeCtx_frame ..) (.refl _))) fun h0 => ?_
  refine Frame.withVar x2 (Frame.step (State.modCell_frame ..) h0) fun h2 => ?_
  exact (Frame.step (State.countHarq_frame ..) (Frame.step (State.modItem_frame ..) h2))

theorem State.noteBacklog_frame (s : State) :
    Frame {} s (State.noteBacklog s) := by
  unfold State.noteBacklog
  extract_lets _
  exact (Frame.ite (Frame.step (State.setFld_frame ..) (.refl _)) (.refl _))

theorem State.queueBlocks_frame (s : State) (x : PhyCtx) (k : Nat) :
    Frame { mem := true, cells := true } s (State.queueBlocks s x k) := by
  unfold State.queueBlocks
  split
  · exact (.refl _)
  · extract_lets _ x0 _
    refine Frame.withVar x0 (Frame.ite (.refl _) (Frame.step (State.takeCtx_frame ..) (.refl _))) fun h0 => ?_
    exact (Frame.ite (.refl _) (by
        split
        · exact (Frame.step (State.ulMemFails_frame ..) (.refl _))
        · exact (Frame.step (State.noteBacklog_frame ..) (Frame.foldl (fun _ _ => (Frame.step (State.combineBlock_frame ..) (.refl _)))
              h0))))

theorem State.healthWindow_frame (s : State) (extra : List (Nat × Nat)) :
    Frame {} s (State.healthWindow s extra) := by
  unfold State.healthWindow
  extract_lets x0 _ x1 x2
  refine Frame.withVar x0 (Frame.step (State.advanceTo_frame ..) (.refl _)) fun h0 => ?_
  refine Frame.withVar x1 (Frame.foldl (fun _ _ => (Frame.step (State.health_frame ..) (.refl _))) (Frame.record h0 rfl rfl (.inr rfl)
      (.inr rfl) (.inr rfl) (.inr rfl) (.inr rfl))) fun h1 => ?_
  refine Frame.withVar x2 (Frame.foldl (fun _ _ => Frame.step (State.scorePart_frame ..) (.refl _)) h1) fun h2 => ?_
  exact (Frame.ite (.refl _) (Frame.record h2 rfl rfl (.inr rfl) (.inr rfl) (.inr rfl) (.inr rfl) (.inr rfl)))

theorem execHealthWindow_frame (extra : List (Nat × Nat)) (s : State) :
    FrameN {} s (execHealthWindow extra s) := by
  unfold execHealthWindow
  exact (FrameN.next (Frame.step (State.healthWindow_frame ..) (.refl _)))

theorem State.squashSlot_frame (s : State) (c : Nat) (j : SlotJob) :
    Frame { cells := true } s (State.squashSlot s c j) := by
  unfold State.squashSlot
  extract_lets _ _ x0
  refine Frame.withVar x0 (Frame.step (State.modCell_frame ..) (.refl _)) fun h0 => ?_
  exact (Frame.ite (by
      split
      · exact h0
      · extract_lets _
        exact (Frame.step (State.modCell_frame ..) h0)) (Frame.step (State.count_frame ..) (Frame.step (State.addFld_frame ..) h0)))

theorem State.wakeReady_frame (s : State) (kind : Nat) (idx : Nat) :
    Frame {} s (State.wakeReady s kind idx) := by
  unfold State.wakeReady
  extract_lets _ x0 x1 x2
  refine Frame.withVar x0 (Frame.step (State.advanceTo_frame ..) (.refl _)) fun h0 => ?_
  refine Frame.withVar x1 (by
      unfold x1
      split
      · exact (Frame.step (State.setPll_frame ..) h0)
      · exact h0) fun h1 => ?_
  refine Frame.withVar x2 (Frame.step (State.setSleep_frame ..) h1) fun h2 => ?_
  exact (Frame.ite (.refl _) (Frame.ite (Frame.step (State.showGroups_frame ..) h2) h2))

theorem State.raiseShares_frame (s : State) :
    Frame {} s (State.raiseShares s) := by
  unfold State.raiseShares
  exact (Frame.ite (.refl _) (Frame.step (State.setShares_frame ..) (.refl _)))

theorem State.nextCal_frame (s : State) (l : List CalEntry) :
    Frame {} s (State.nextCal s l) := by
  unfold State.nextCal
  exact (Frame.ite (Frame.step (State.useCal_frame ..) (.refl _)) (Frame.step (State.measChanged_frame ..) (Frame.step (State.useCal_frame
      ..) (.refl _))))

theorem State.boundaryCal_frame (s : State) :
    Frame {} s (State.boundaryCal s) := by
  unfold State.boundaryCal
  split
  · exact (Frame.step (State.nextCal_frame ..) (.refl _))
  · exact (Frame.step (State.nextCal_frame ..) (.refl _))
  · exact (.refl _)

theorem State.toBoundary_frame (s : State) :
    Frame {} s (State.toBoundary s) := by
  unfold State.toBoundary
  exact (Frame.step (State.untilTai_frame ..) (.refl _))

theorem execCalPeriodBoundary_frame (s : State) :
    FrameN {} s (execCalPeriodBoundary s) := by
  unfold execCalPeriodBoundary
  exact (FrameN.next (Frame.step (State.raiseShares_frame ..) (Frame.step (State.boundaryCal_frame ..) (Frame.step (State.toBoundary_frame
      ..) (.refl _)))))

theorem State.startWeights_frame (s : State) (id : Nat) (c : Chart) :
    Frame { mem := true, fab := true } s (State.startWeights s id c) := by
  unfold State.startWeights
  exact (Frame.foldl (fun _ _ => (Frame.ite (.refl _) (Frame.ite (Frame.step (State.loadReadFails_frame ..) (.refl _)) (Frame.getD
      (FrameO.step (State.startJob_frame ..) (.refl _)) (.refl _))))) (.refl _))

theorem State.loadFinish_frame (s : State) (id : Nat) (c : Chart) :
    Frame { fab := true } s (State.loadFinish s id c) := by
  unfold State.loadFinish
  extract_lets _ x0
  refine Frame.withVar x0 (Frame.step (State.countHelm_frame ..) (Frame.step (State.dropLoadJobs_frame ..) (Frame.record (.refl _) rfl rfl
      (.inr rfl) (.inr rfl) (.inr rfl) (.inr rfl) (.inr rfl)))) fun h0 => ?_
  exact (Frame.ite (Frame.step (State.loadFails_frame ..) (.refl _)) (by
      split
      · exact (Frame.step (State.loadFails_frame ..) (.refl _))
      · exact (Frame.ite (Frame.step (State.loadFails_frame ..) (.refl _)) (Frame.step (State.complete_frame ..) h0))))

theorem State.loadWeights_frame (s : State) (id : Nat) (c : Chart) :
    Frame { mem := true, fab := true } s (State.loadWeights s id c) := by
  unfold State.loadWeights
  extract_lets _ _ x0
  refine Frame.withVar x0 (Frame.step (State.startWeights_frame ..) (Frame.record (.refl _) rfl rfl (.inr rfl) (.inr rfl) (.inr rfl) (.inr
      rfl) (.inr rfl))) fun h0 => ?_
  split
  · exact (Frame.step (State.loadReadFails_frame ..) (.refl _))
  · exact (Frame.ite (Frame.step (State.loadFails_frame ..) (.refl _)) (by
        split
        · exact (Frame.step (State.loadFails_frame ..) (.refl _))
        · split
          · exact h0
          · exact (Frame.ite h0 (by
                split
                · exact (Frame.step (State.loadReadFails_frame ..) h0)
                · exact (Frame.step (State.loadFinish_frame ..) h0)))))

theorem State.loadChecks_frame (s : State) (id : Nat) :
    Frame { mem := true, fab := true } s (State.loadChecks s id) := by
  unfold State.loadChecks
  split
  · exact (.refl _)
  · exact (Frame.ite (Frame.step (State.loadWeights_frame ..) (Frame.step (State.readHbm_frame ..) (.refl _))) (.refl _))

theorem State.ptpTx_frame (s : State) (sp : Nat) (kind : Nat) :
    Frame { mer := true } s (State.ptpTx s sp kind) := by
  unfold State.ptpTx
  extract_lets _ _
  exact (Frame.ite (.refl _) (Frame.ite (Frame.step (State.merSend_frame ..) (Frame.step (State.merCount_frame ..) (Frame.step
      (State.merCount_frame ..) (.refl _)))) (Frame.ite (Frame.step (State.merSend_frame ..) (Frame.step (State.setPtpPort_frame ..) (.refl
      _))) (Frame.ite (Frame.step (State.merSend_frame ..) (.refl _)) (.refl _)))))

theorem State.setAdmitCtrl_frame (s : State) (v : Nat) :
    Frame {} s (State.setAdmitCtrl s v) := by
  unfold State.setAdmitCtrl
  extract_lets x0 x1 x2
  refine Frame.withVar x0 (Frame.step (State.setFld_frame ..) (.refl _)) fun h0 => ?_
  refine Frame.withVar x1 (Frame.step (State.setFld_frame ..) h0) fun h1 => ?_
  refine Frame.withVar x2 (Frame.step (State.setFld_frame ..) h1) fun h2 => ?_
  exact (Frame.step (State.setFld_frame ..) h2)

theorem State.admitCtrlWrite_frame (s : State) (v : Nat) :
    Frame {} s (State.admitCtrlWrite s v) := by
  unfold State.admitCtrlWrite
  extract_lets x0 _
  refine Frame.withVar x0 (Frame.step (State.setAdmitCtrl_frame ..) (.refl _)) fun h0 => ?_
  exact (Frame.ite (Frame.ite (Frame.step (State.noteOutcome_frame ..) (Frame.step (State.noteAdmit_frame ..) h0)) (Frame.step
      (State.noteOutcome_frame ..) (.refl _))) h0)

theorem State.fhProtect_frame (s : State) (f : CellCfg) (d : Nat) :
    FrameO1 {} s (State.fhProtect s f d) := by
  unfold State.fhProtect
  exact (FrameO1.ite (FrameO1.ite FrameO1.none (by
      split
      · exact FrameO1.none
      · split
        · exact FrameO1.none
        · extract_lets x0
          refine FrameO1.withVar x0.1 (Frame.step (State.takePn_frame ..) (.refl _)) fun h0 => ?_
          exact (FrameO1.some (Frame.fst h0)))) (FrameO1.some (Frame.fst (.refl _))))

theorem State.holdSince_frame (s : State) :
    Frame {} s (State.holdSince s) := by
  unfold State.holdSince
  extract_lets _
  exact (Frame.record (.refl _) rfl rfl (.inr rfl) (.inr rfl) (.inr rfl) (.inr rfl) (.inr rfl))

theorem State.sensTop_frame (s : State) :
    Frame {} s (State.sensTop s) := by
  unfold State.sensTop
  extract_lets _ x0 _
  refine Frame.withVar x0 (Frame.step (State.holdSince_frame ..) (Frame.step (State.setFld_frame ..) (Frame.step (State.setFld_frame ..)
      (.refl _)))) fun h0 => ?_
  exact (Frame.record h0 rfl rfl (.inr rfl) (.inr rfl) (.inr rfl) (.inr rfl) (.inr rfl))

theorem State.arrStop_frame (s : State) :
    Frame {} s (State.arrStop s) := by
  unfold State.arrStop
  extract_lets _ _
  exact (Frame.ite (.refl _) (Frame.step (State.setPll_frame ..) (Frame.step (State.advanceTo_frame ..) (.refl _))))

theorem State.beforeWake_frame (s : State) (kind : Nat) (idx : Nat) :
    Frame {} s (State.beforeWake s kind idx) := by
  unfold State.beforeWake
  extract_lets _
  exact (Frame.ite (Frame.step (State.prepareElapsed_frame ..) (.refl _)) (Frame.ite (Frame.step (State.arrStop_frame ..) (.refl _)) (.refl
      _)))

theorem State.wakeOn_frame (s : State) (kind : Nat) (idx : Nat) :
    Frame {} s (State.wakeOn s kind idx) := by
  unfold State.wakeOn
  exact (Frame.ite (Frame.step (State.setSleep_frame ..) (.refl _)) (.refl _))

theorem State.wakeRequest_frame (s : State) (kind : Nat) (idx : Nat) :
    Frame {} s (State.wakeRequest s kind idx) := by
  unfold State.wakeRequest
  extract_lets x0 _ x1
  refine Frame.withVar x0 (Frame.step (State.beforeWake_frame ..) (.refl _)) fun h0 => ?_
  refine Frame.withVar x1 (Frame.step (State.setSleep_frame ..) h0) fun h1 => ?_
  exact (Frame.ite (.refl _) (Frame.ite (Frame.step (State.wakeOn_frame ..) h0) (Frame.ite (Frame.ite h1 (Frame.step (State.satFld_frame
      ..) h1)) (Frame.ite (Frame.ite h0 (Frame.step (State.satFld_frame ..) (Frame.step (State.setSleep_frame ..) h0))) (Frame.ite
      (Frame.step (State.wakeOff_frame ..) h0) h0)))))

theorem execWakeRequest_frame (kind : Nat) (idx : Nat) (s : State) :
    FrameN {} s (execWakeRequest kind idx s) := by
  unfold execWakeRequest
  exact (FrameN.next (Frame.step (State.wakeRequest_frame ..) (.refl _)))

theorem State.opTimedOut_frame (s : State) (o : FOp) :
    Frame { mem := true, fab := true } s (State.opTimedOut s o) := by
  unfold State.opTimedOut
  split
  · exact (Frame.step (State.jobCheck_frame ..) (Frame.step (State.partDone_frame ..) (.refl _)))
  · exact (Frame.step (State.replyTo_frame ..) (.refl _))
  · exact (Frame.step (State.writeAnswer_frame ..) (.refl _))
  · exact (Frame.step (State.invalAnswer_frame ..) (.refl _))
  · exact (.refl _)

theorem State.steerWrite_frame (s : State) (v : Nat) :
    Frame {} s (State.steerWrite s v) := by
  unfold State.steerWrite
  extract_lets _ _ _ x0 x1 x2
  refine Frame.withVar x0 (Frame.step (State.tieReg_frame ..) (.refl _)) fun h0 => ?_
  refine Frame.withVar x1 (Frame.step (State.setReg_frame ..) h0) fun h1 => ?_
  refine Frame.withVar x2 (State.unlessStrict_frame h0 h1 ..) fun h2 => ?_
  exact (Frame.ite (Frame.step (State.raise_frame ..) h0) (Frame.ite h2 (Frame.step (State.measChanged_frame ..) h2)))

theorem execSteerWrite_frame (value : Nat) (s : State) :
    FrameN {} s (execSteerWrite value s) := by
  unfold execSteerWrite
  exact (FrameN.next (Frame.step (State.steerWrite_frame ..) (.refl _)))

theorem State.pldmReq_frame {c : Changes} {f : State → PldmUpdate → State} (hf : ∀ t p, Frame c t (f t p)) (s : State) :
    Frame c s (s.pldmReq f) := by
  unfold State.pldmReq
  refine State.sxtServe_frame (fun t => ?_) _
  split
  · exact Frame.step0 (State.send_frame ..) (.refl _)
  · exact Frame.trans (hf _ _) (Frame.record (.refl _) rfl rfl (.inr rfl) (.inr rfl) (.inr rfl) (.inr rfl) (.inr rfl))

theorem State.writeSlot_frame (s : State) (slot : Nat) (p : Option Image × Option Image) (order : Bool) :
    Frame {} s (State.writeSlot s slot p order).1 := by
  unfold State.writeSlot
  extract_lets _ _ _ x0 _ _
  refine Frame.withVar x0 (Frame.record (.refl _) rfl rfl (.inr rfl) (.inr rfl) (.inr rfl) (.inr rfl) (.inr rfl)) fun h0 => ?_
  exact (Frame.fst (Frame.step (State.noteSlot_frame ..) h0))

theorem State.stagedHdr_frame (s : State) (slot : Nat) (ok : Bool) :
    Frame {} s (State.stagedHdr s slot ok) := by
  unfold State.stagedHdr
  extract_lets _
  exact (Frame.ite (Frame.ite (Frame.step (State.writeHdr_frame ..) (.refl _)) (Frame.step (State.writeHdr_frame ..) (.refl _))) (Frame.ite
      (Frame.step (State.writeHdr_frame ..) (.refl _)) (.refl _)))

theorem State.pldmCheck_frame (s : State) (p : PldmUpdate) :
    Frame {} s (State.pldmCheck s p).1 := by
  unfold State.pldmCheck
  split
  · exact (Frame.fst (.refl _))
  · exact (Frame.fst (.refl _))
  · extract_lets x0
    refine Frame.withVar x0.1 (Frame.step (State.writeSlot_frame ..) (.refl _)) fun h0 => ?_
    exact (Frame.fst (Frame.step (State.stagedHdr_frame ..) h0))

theorem State.pldmVerify_frame (s : State) :
    Frame {} s (State.pldmVerify s) := by
  unfold State.pldmVerify
  exact (Frame.trans (State.pldmReq_frame (fun _ _ => (by
      extract_lets x0
      refine Frame.withVar x0.1 (Frame.step (State.pldmCheck_frame ..) (.refl _)) fun h0 => ?_
      exact (Frame.step (State.send_frame ..) (Frame.step (State.logEvent_frame ..) h0)))) ..) (.refl _))

theorem execVerifyComplete_frame (s : State) :
    FrameN {} s (execVerifyComplete s) := by
  unfold execVerifyComplete
  exact (FrameN.next (Frame.step (State.pldmVerify_frame ..) (.refl _)))

theorem State.setSession_frame (s : State) (k : Nat) (x : Session) :
    Frame {} s (State.setSession s k x) := by
  unfold State.setSession
  exact (Frame.record (.refl _) rfl rfl (.inr rfl) (.inr rfl) (.inr rfl) (.inr rfl) (.inr rfl))

theorem State.leaseExpire_frame (s : State) (node : Nat) :
    Frame { fab := true } s (State.leaseExpire s node) := by
  unfold State.leaseExpire
  split
  · exact (.refl _)
  · extract_lets x0 _ _
    refine Frame.withVar x0 (Frame.step (State.dropLines_frame ..) (Frame.step (State.advanceTo_frame ..) (.refl _))) fun h0 => ?_
    exact (Frame.record h0 rfl rfl (.inr rfl) (.inr rfl) (.inr rfl) (.inr rfl) (.inl rfl))

theorem State.setQl_frame (s : State) (sp : Nat) (ql : Nat) :
    Frame { mer := true } s (State.setQl s sp ql) := by
  unfold State.setQl
  extract_lets x0
  refine Frame.withVar x0 (Frame.ite (Frame.step (State.raise_frame ..) (.refl _)) (.refl _)) fun h0 => ?_
  exact (Frame.step (State.freqSelect_frame ..) (Frame.step (State.setFld_frame ..) h0))

theorem State.qlTimeout_frame (s : State) (sp : Nat) :
    Frame { mer := true } s (State.qlTimeout s sp) := by
  unfold State.qlTimeout
  exact (Frame.ite (Frame.step (State.setQl_frame ..) (Frame.step (State.advanceTo_frame ..) (.refl _))) (.refl _))

theorem execCancelUpdate_frame (s : State) :
    FrameN { mem := true, cells := true, mer := true, keys := true, runs := true, fab := true } s (execCancelUpdate s) := by
  unfold execCancelUpdate
  exact (FrameN.next (Frame.trans (State.pldmReq_frame (fun _ _ => (Frame.ite (Frame.step (State.send_frame ..) (.refl _)) (Frame.step
      (State.send_frame ..) (Frame.step (State.pldmCancel_frame ..) (.refl _))))) ..) (.refl _)))

theorem State.finishTb_frame (s : State) (x : PhyCtx) (k : Nat) (i : Item) (bl : List CodeBlock) :
    Frame { mem := true, cells := true } s (State.finishTb s x k i bl) := by
  unfold State.finishTb
  extract_lets _ _ x0 x1 x2 x3 x4 _
  refine Frame.withVar x0.2 (Frame.step (State.resultBytes_frame ..) (.refl _)) fun h0 => ?_
  refine Frame.withVar x1 (Frame.step (State.dmaWrite_frame ..) h0) fun h1 => ?_
  refine Frame.withVar x2 (Frame.step (State.closeCtx_frame ..) h1) fun h2 => ?_
  refine Frame.withVar x3 (Frame.step (State.modSlotJob_frame ..) h2) fun h3 => ?_
  refine Frame.withVar x4 (Frame.ite h3 (Frame.step (State.count_frame ..) (Frame.step (State.count_frame ..) h3))) fun h4 => ?_
  exact (Frame.step (State.ulItemEnds_frame ..) h4)

theorem State.agcRun_frame (s : State) (c : Nat) (stream : Nat) (a : Agc) (f : CellCfg) :
    Frame { mem := true, cells := true } s (State.agcRun s c stream a f) := by
  unfold State.agcRun
  extract_lets _ _ _ _ _ _ x0 x1 _ _ _ _
  refine Frame.withVar x0 (Frame.step (State.store_frame ..) (.refl _)) fun h0 => ?_
  refine Frame.withVar x1 (Frame.step (State.count_frame ..) (Frame.step (State.fhStat_frame ..) h0)) fun h1 => ?_
  exact (Frame.step (State.modCell_frame ..) h1)

theorem State.agcBlock_frame (s : State) (c : Nat) (stream : Nat) :
    Frame { mem := true, cells := true } s (State.agcBlock s c stream) := by
  unfold State.agcBlock
  split
  · exact (Frame.step (State.agcRun_frame ..) (.refl _))
  · exact (.refl _)

theorem State.agcThrough_frame (s : State) (c stream upto k n : Nat) :
    Frame { mem := true, cells := true } s (s.agcThrough c stream upto k n) := by
  induction n generalizing s with
  | zero => exact .refl _
  | succ m ih =>
    unfold State.agcThrough
    split
    · exact .refl _
    · exact Frame.ite (.refl _) (Frame.trans (ih _) (Frame.step (State.agcBlock_frame ..) (.refl _)))

theorem State.agcUpTo_frame (s : State) (c : Nat) (stream : Nat) (upto : Nat) (k : Nat) :
    Frame { mem := true, cells := true } s (State.agcUpTo s c stream upto k) := by
  unfold State.agcUpTo
  exact (Frame.step (State.agcThrough_frame ..) (.refl _))

theorem State.handStream_frame (s : State) (c : Nat) (n : Nat) (sym : Nat) (r : Nat) (f : CellCfg) :
    Frame { mem := true, cells := true } s (State.handStream s c n sym r f).1 := by
  unfold State.handStream
  extract_lets _ x0 _ _ _ _ _ x1 x2
  refine Frame.withVar x0 (Frame.step (State.agcUpTo_frame ..) (.refl _)) fun h0 => ?_
  refine Frame.withVar x1 (Frame.step (State.addFld_frame ..) (Frame.step (State.fhStat_frame ..) (.refl _))) fun h1 => ?_
  refine Frame.withVar x2 (Frame.step (State.count_frame ..) h1) fun h2 => ?_
  exact (Frame.ite1 (Frame.fst (Frame.step (State.count_frame ..) (Frame.step (State.count_frame ..) (Frame.step (State.count_frame ..)
      (Frame.step (State.fhStat_frame ..) h0))))) (Frame.fst (Frame.step (State.zeroRange_frame ..) h2)))

theorem State.spillStream_frame (s : State) (c : Nat) (n : Nat) (sym : Nat) (r : Nat) (f : CellCfg) (v : List Int) :
    Frame { mem := true, cells := true } s (State.spillStream s c n sym r f v) := by
  unfold State.spillStream
  extract_lets _ _
  split
  · exact (Frame.step (State.spillFails_frame ..) (.refl _))
  · exact (Frame.step (State.addFld_frame ..) (Frame.step (State.store_frame ..) (.refl _)))

theorem State.symbolHandoff_frame (s : State) (c : Nat) (n : Nat) (sym : Nat) :
    Frame { mem := true, cells := true } s (State.symbolHandoff s c n sym) := by
  unfold State.symbolHandoff
  extract_lets _
  split
  · extract_lets x0 x1
    refine Frame.withVar x0 (Frame.step (State.untilTai_frame ..) (.refl _)) fun h0 => ?_
    refine Frame.withVar x1 (Frame.foldl (fun _ _ => (by
        extract_lets x2
        refine Frame.withVar x2.1 (Frame.step (State.handStream_frame ..) (.refl _)) fun h2 => ?_
        exact (Frame.step (State.spillStream_frame ..) h2))) h0) fun h1 => ?_
    exact (Frame.ite (Frame.step (State.modSlotJob_frame ..) (Frame.step (State.modCell_frame ..) h1)) (.refl _))
  · exact (.refl _)

theorem execHelmCore_frame (core : Nat) (pc : Nat) (s : State) :
    FrameN { mem := true, cells := true, runs := true } s (execHelmCore core pc s) := by
  unfold execHelmCore
  exact (FrameN.next (Frame.step (State.helmCore_frame ..) (.refl _)))

theorem State.mapAnswer_frame (s : State) (status : Nat) :
    Frame {} s (State.mapAnswer s status) := by
  unfold State.mapAnswer
  exact (Frame.step (State.setFld_frame ..) (Frame.step (State.setFld_frame ..) (.refl _)))

theorem State.mapDisableOp_frame (s : State) (force : Bool) :
    Frame { mem := true, cells := true, mer := true, runs := true, fab := true } s (State.mapDisableOp s force) := by
  unfold State.mapDisableOp
  extract_lets _ _
  exact (Frame.ite (Frame.step (State.mapAnswer_frame ..) (.refl _)) (Frame.ite (Frame.step (State.mapAnswer_frame ..) (Frame.step
      (State.noteRefusal_frame ..) (.refl _))) (Frame.step (State.mapAnswer_frame ..) (Frame.step (State.unitLost_frame ..) (.refl _)))))

theorem State.startPhaseRun_frame (s : State) (c : Nat) (n : Nat) (p : Nat) (dl : Nat) (f : CellCfg) (e : List Byte) (k : Nat) (chart :
    Nat) :
    Frame { cells := true } s (State.startPhaseRun s c n p dl f e k chart) := by
  unfold State.startPhaseRun
  extract_lets _
  split
  · exact (Frame.ite (Frame.step (State.waitContext_frame ..) (.refl _)) (Frame.step (State.modCell_frame ..) (.refl _)))
  · exact (Frame.step (State.modCell_frame ..) (.refl _))

theorem State.agcTrailing_frame (s : State) (c : Nat) (stream : Nat) :
    Frame { mem := true, cells := true } s (State.agcTrailing s c stream) := by
  unfold State.agcTrailing
  split
  · extract_lets _
    exact (Frame.ite (Frame.step (State.agcRun_frame ..) (.refl _)) (.refl _))
  · exact (.refl _)

theorem State.agcBlockEnd_frame (s : State) (c : Nat) (stream : Nat) :
    Frame { mem := true, cells := true } s (State.agcBlockEnd s c stream) := by
  unfold State.agcBlockEnd
  extract_lets x0 _
  refine Frame.withVar x0 (Frame.ite (Frame.step (State.agcTrailing_frame ..) (.refl _)) (.refl _)) fun h0 => ?_
  split
  · extract_lets _ _
    exact (Frame.ite (Frame.step (State.agcRun_frame ..) (Frame.step (State.untilTai_frame ..) h0)) h0)
  · exact h0

theorem execAgcBlockEnd_frame (cell : Nat) (stream : Nat) (s : State) :
    FrameN { mem := true, cells := true } s (execAgcBlockEnd cell stream s) := by
  unfold execAgcBlockEnd
  exact (FrameN.next (Frame.step (State.agcBlockEnd_frame ..) (.refl _)))

theorem execRollbackLive_frame (s : State) :
    FrameN {} s (execRollbackLive s) := by
  unfold execRollbackLive
  exact (FrameN.next (Frame.step (State.rollbackLive_frame ..) (.refl _)))

theorem State.countBlock_frame (s : State) (d : Nat) (u : Nat) (cyc : Nat) (b : CodeBlock) :
    Frame {} s (State.countBlock s d u cyc b) := by
  unfold State.countBlock
  extract_lets x0 x1 x2 x3
  refine Frame.withVar x0 (Frame.step (State.addFld_frame ..) (Frame.step (State.addFld_frame ..) (.refl _))) fun h0 => ?_
  refine Frame.withVar x1 (Frame.ite h0 (Frame.step (State.count_frame ..) (Frame.step (State.addFld_frame ..) h0))) fun h1 => ?_
  refine Frame.withVar x2 (Frame.ite (Frame.step (State.count_frame ..) (Frame.step (State.addFld_frame ..) h1)) h1) fun h2 => ?_
  refine Frame.withVar x3 (Frame.step (State.count_frame ..) (Frame.step (State.count_frame ..) (Frame.step (State.count_frame ..) h2)))
      fun h3 => ?_
  exact (Frame.step (State.count_frame ..) (Frame.step (State.count_frame ..) (Frame.step (State.count_frame ..) h3)))

theorem State.codeBlockDecoded_frame (s : State) (c : Nat) (n : Nat) (k : Nat) (cb : Nat) :
    Frame { mem := true, cells := true } s (State.codeBlockDecoded s c n k cb) := by
  unfold State.codeBlockDecoded
  split
  · exact (.refl _)
  · split
    · exact (.refl _)
    · extract_lets x0 _ _
      refine Frame.withVar x0 (Frame.step (State.advanceTo_frame ..) (.refl _)) fun h0 => ?_
      split
      · exact (.refl _)
      · extract_lets x1 x2
        refine Frame.withVar x1 (Frame.step (State.chargeRadio_frame ..) (Frame.step (State.countBlock_frame ..) h0)) fun h1 => ?_
        refine Frame.withVar x2 (Frame.step (State.modItem_frame ..) (Frame.step (State.modBlock_frame ..) h1)) fun h2 => ?_
        exact (Frame.ite (Frame.step (State.finishTb_frame ..) h2) h2)

theorem execCodeBlockDecoded_frame (cell : Nat) (n : Nat) (item : Nat) (cb : Nat) (s : State) :
    FrameN { mem := true, cells := true } s (execCodeBlockDecoded cell n item cb s) := by
  unfold execCodeBlockDecoded
  exact (FrameN.next (Frame.step (State.codeBlockDecoded_frame ..) (.refl _)))

theorem State.fown_frame (s : State) (g : Nat) (cid : Nat) :
    Frame { mem := true, fab := true } s (State.fown s g cid) := by
  unfold State.fown
  split
  · exact (.refl _)
  · extract_lets _
    exact (Frame.ite (Frame.step (State.fabStatus_frame ..) (.refl _)) (Frame.step (State.fabStart_frame ..) (.refl _)))

theorem execFown_frame (ring : Nat) (cid : Nat) (s : State) :
    FrameN { mem := true, fab := true } s (execFown ring cid s) := by
  unfold execFown
  exact (FrameN.next (Frame.step (State.fown_frame ..) (.refl _)))

theorem State.refill_frame (s : State) :
    Frame {} s (State.refill s) := by
  unfold State.refill
  extract_lets x0 _ x1 x2 _
  refine Frame.withVar x0 (Frame.step (State.untilTai_frame ..) (.refl _)) fun h0 => ?_
  refine Frame.withVar x1 (Frame.step (State.setFld_frame ..) h0) fun h1 => ?_
  refine Frame.withVar x2 (Frame.step (State.setFld_frame ..) h1) fun h2 => ?_
  exact (Frame.ite (.refl _) (Frame.record h2 rfl rfl (.inr rfl) (.inr rfl) (.inr rfl) (.inr rfl) (.inr rfl)))

theorem execAllowanceRefill_frame (s : State) :
    FrameN {} s (execAllowanceRefill s) := by
  unfold execAllowanceRefill
  exact (FrameN.next (Frame.step (State.refill_frame ..) (.refl _)))

theorem State.noteRequest_frame (s : State) (fit : Bool) (slot : Nat) :
    Frame {} s (State.noteRequest s fit slot) := by
  unfold State.noteRequest
  exact (Frame.step (State.noteOutcome_frame ..) (Frame.step (State.setFld_frame ..) (.refl _)))

theorem State.railSample_frame (s : State) (ok : Bool) :
    Frame { cells := true, mer := true, runs := true, fab := true } s (State.railSample s ok) := by
  unfold State.railSample
  extract_lets x0 _ x1 x2 _
  refine Frame.withVar x0 (Frame.step (State.advanceTo_frame ..) (.refl _)) fun h0 => ?_
  refine Frame.withVar x1 (Frame.step (State.setPll_frame ..) (Frame.step (State.setPll_frame ..) (Frame.step (State.setPll_frame ..) h0)))
      fun h1 => ?_
  refine Frame.withVar x2 (Frame.step (State.setBoot_frame ..) h1) fun h2 => ?_
  split
  · exact (Frame.ite (Frame.step (State.railFail_frame ..) h0) (Frame.ite (Frame.record h0 rfl rfl (.inr rfl) (.inr rfl) (.inr rfl) (.inr
        rfl) (.inr rfl)) (Frame.record h2 rfl rfl (.inr rfl) (.inr rfl) (.inr rfl) (.inr rfl) (.inr rfl))))
  · exact (.refl _)

theorem State.sendNak_frame (s : State) (p : Nat) :
    Frame {} s (State.sendNak s p) := by
  unfold State.sendNak
  extract_lets _
  exact (Frame.ite (.refl _) (Frame.step (State.send_frame ..) (Frame.step (State.count_frame ..) (Frame.step (State.setRhb_frame ..)
      (.refl _)))))

theorem State.sendFh_frame (s : State) (c : Nat) (id : Nat) (f : CellCfg) (bytes : Nat) (mk : FhHead → Out) :
    Frame { cells := true } s (State.sendFh s c id f bytes mk) := by
  unfold State.sendFh
  split
  · extract_lets _ x0 _
    refine Frame.withVar x0 (Frame.step (State.modCell_frame ..) (FrameO1.get2 (by assumption) (FrameO1.step (State.fhProtect_frame ..)
        (.refl _)))) fun h0 => ?_
    exact (Frame.step (State.frameSent_frame ..) (Frame.step (State.addFld_frame ..) (Frame.step (State.send_frame ..) h0)))
  · exact (.refl _)

theorem State.sendSections_frame (s : State) (c : Nat) (n : Nat) (sym : Nat) (f : CellCfg) (i : Item) (a : Nat) :
    Frame { cells := true } s (State.sendSections s c n sym f i a) := by
  unfold State.sendSections
  extract_lets _ _
  exact (Frame.foldl (fun _ _ => (by
      extract_lets _ _ _ _
      exact (Frame.step (State.sendFh_frame ..) (.refl _)))) (.refl _))

theorem State.deferSwitch_frame (s : State) (d : Nat) :
    Frame {} s (State.deferSwitch s d) := by
  unfold State.deferSwitch
  exact (Frame.step (State.count_frame ..) (Frame.step (State.countHelm_frame ..) (Frame.step (State.addFld_frame ..) (.refl _))))

theorem State.busCtrl_frame (s : State) (x : WriteBrings) (port : Nat) (v : Nat) :
    Frame {} s (State.busCtrl s x port v) := by
  unfold State.busCtrl
  extract_lets x0
  refine Frame.withVar x0 (Frame.step (State.storeWord_frame ..) (.refl _)) fun h0 => ?_
  exact (Frame.ite (Frame.step (State.busAgain_frame ..) h0) h0)

theorem State.startCell_frame (s : State) (c : Nat) (f : CellCfg) (n : Nat) :
    Frame { mem := true, cells := true } s (State.startCell s c f n) := by
  unfold State.startCell
  extract_lets _ x0 _
  refine Frame.withVar x0.2 (Frame.ite2 (Frame.snd (.refl _)) (Frame.step (State.pickOrch_frame ..) (.refl _))) fun h0 => ?_
  exact (Frame.step (State.putCell_frame ..) h0)

theorem State.readerFails_frame (s : State) (r : Nat) (i : Nat) (off : Nat) (k : PKind) :
    Frame { runs := true } s (State.readerFails s r i off k) := by
  unfold State.readerFails
  extract_lets _ _ x0
  refine Frame.withVar x0 (Frame.record (.refl _) rfl rfl (.inr rfl) (.inr rfl) (.inr rfl) (.inr rfl) (.inr rfl)) fun h0 => ?_
  split
  · exact (Frame.step (State.xferFailed_frame ..) (.refl _))
  · exact (Frame.ite (Frame.step (State.vecAbort_frame ..) (Frame.step (State.failRun_frame ..) (.refl _))) (Frame.step (State.endCmd_frame
        ..) (Frame.step (State.failRun_frame ..) h0)))

theorem State.quantumWrite_frame (s : State) (v : Nat) :
    Frame {} s (State.quantumWrite s v) := by
  unfold State.quantumWrite
  extract_lets _ _
  exact (Frame.ite (Frame.step (State.setQuantum_frame ..) (.refl _)) (Frame.ite (Frame.step (State.noteOutcome_frame ..) (Frame.step
      (State.noteAdmit_frame ..) (Frame.step (State.setQuantum_frame ..) (.refl _)))) (Frame.step (State.noteOutcome_frame ..) (Frame.step
      (State.raise_frame ..) (.refl _)))))

theorem execQuantumWrite_frame (value : Nat) (s : State) :
    FrameN {} s (execQuantumWrite value s) := by
  unfold execQuantumWrite
  exact (FrameN.next (Frame.step (State.quantumWrite_frame ..) (.refl _)))

theorem State.secured_frame {c : Changes} {f : State → Session → State} (hf : ∀ t x, Frame c t (f t x)) (s : State) (k : Nat)
    (aeadOk : Bool) : Frame c s (s.secured k aeadOk f) := by
  unfold State.secured
  refine State.sxtServe_frame (fun t => ?_) _
  split
  · exact .refl _
  · exact Frame.ite (Frame.step0 (State.count_frame ..) (Frame.step0 (State.raise_frame ..) (Frame.step0 (State.authFail_frame ..) (.refl
        _))))
      (Frame.ite (.refl _) (Frame.trans (hf _ _) (Frame.step0 (State.setSession_frame ..) (.refl _))))

theorem State.keyAnswer_frame (s : State) (sid : Nat) (dom : Option Nat) (st : Nat) (b2 : Nat) (rest : List Byte) :
    Frame {} s (State.keyAnswer s sid dom st b2 rest) := by
  unfold State.keyAnswer
  extract_lets x0
  refine Frame.withVar x0.2 (by
      unfold x0
      split
      · exact (Frame.snd (.refl _))
      · exact (Frame.step (State.fresh_frame ..) (.refl _))) fun h0 => ?_
  exact (Frame.step (State.send_frame ..) h0)

theorem State.keyOp_frame {c : Changes} {f : State → Nat → State × Nat × List Byte} (hf : ∀ t d, Frame c t (f t d).1) (s : State)
    (sid : Nat) (aeadOk : Bool) : Frame c s (s.keyOp sid aeadOk f) := by
  unfold State.keyOp
  refine State.secured_frame (fun t x => ?_) _ _ _
  split
  · exact Frame.step0 (State.keyAnswer_frame ..) (.refl _)
  · exact Frame.step0 (State.keyAnswer_frame ..) (hf _ _)

theorem State.evcAlloc_frame (s : State) (d : Nat) (b : List Byte) :
    Frame {} s (State.evcAlloc s d b).1 := by
  unfold State.evcAlloc
  extract_lets _
  exact (Frame.ite1 (Frame.fst (.refl _)) (Frame.ite1 (Frame.fst (.refl _)) (by
      split
      · exact (Frame.fst (.refl _))
      · exact (Frame.ite1 (Frame.fst (.refl _)) (Frame.fst (Frame.step (State.setEvc_frame ..) (.refl _)))))))

theorem execEvcAlloc_frame (session : Nat) (aeadOk : Bool) (req : List Byte) (s : State) :
    FrameN {} s (execEvcAlloc session aeadOk req s) := by
  unfold execEvcAlloc
  exact (FrameN.next (Frame.trans (State.keyOp_frame (fun _ _ => (Frame.step (State.evcAlloc_frame ..) (.refl _))) ..) (.refl _)))

theorem State.dropFcs_frame (s : State) (sp : Nat) :
    Frame {} s (State.dropFcs s sp) := by
  unfold State.dropFcs
  exact (Frame.step (State.rxDrop_frame ..) (.refl _))

theorem State.switchFails_frame (s : State) (r : Nat) (x : Run) (st : TagState) (p : Nat × Nat) :
    Frame { runs := true } s (State.switchFails s r x st p) := by
  unfold State.switchFails
  extract_lets _ x0
  refine Frame.withVar x0 (Frame.step (State.faultRecord_frame ..) (Frame.step (State.hbmNote_frame ..) (.refl _))) fun h0 => ?_
  exact (Frame.step (State.failRun_frame ..) (Frame.step (State.setRun_frame ..) h0))

theorem execSamplePreload_frame (s : State) :
    FrameN {} s (execSamplePreload s) := by
  unfold execSamplePreload
  extract_lets _
  exact (FrameN.next (Frame.ite (Frame.record (.refl _) rfl rfl (.inr rfl) (.inr rfl) (.inr rfl) (.inr rfl) (.inr rfl)) (.refl _)))

theorem State.phaseRelease_frame (s : State) (c : Nat) (n : Nat) (p : Nat) :
    Frame { cells := true } s (State.phaseRelease s c n p) := by
  unfold State.phaseRelease
  split
  · exact (.refl _)
  · extract_lets x0 _ _ x1
    refine Frame.withVar x0 (Frame.step (State.untilTai_frame ..) (.refl _)) fun h0 => ?_
    refine Frame.withVar x1 (Frame.step (State.modCell_frame ..) h0) fun h1 => ?_
    exact (Frame.foldl (fun _ _ => (Frame.step (State.startPhaseRun_frame ..) (.refl _))) h1)

theorem execPhaseRelease_frame (cell : Nat) (n : Nat) (phase : Nat) (s : State) :
    FrameN { cells := true } s (execPhaseRelease cell n phase s) := by
  unfold execPhaseRelease
  exact (FrameN.next (Frame.step (State.phaseRelease_frame ..) (.refl _)))

theorem State.dlParity_frame (s : State) (q : Option EngJob) :
    Frame { mem := true, cells := true } s (State.dlParity s q) := by
  unfold State.dlParity
  split
  · exact (Frame.ite (Frame.step (State.dlItemEnds_frame ..) (.refl _)) (Frame.step (State.modItem_frame ..) (.refl _)))
  · exact (.refl _)

theorem State.polarParity_frame (s : State) (u : Nat) (c : Nat) (n : Nat) (k : Nat) :
    Frame { mem := true, cells := true } s (State.polarParity s u c n k) := by
  unfold State.polarParity
  extract_lets x0
  refine Frame.withVar x0 (by
      unfold x0
      split
      · exact (Frame.ite (Frame.step (State.ulFails_frame ..) (.refl _)) (Frame.step (State.modItem_frame ..) (.refl _)))
      · exact (Frame.step (State.dlParity_frame ..) (.refl _))) fun h0 => ?_
  exact (Frame.step (State.raise_frame ..) h0)

theorem State.noteTimeout_frame (s : State) (n : Nat) :
    Frame { fab := true } s (State.noteTimeout s n) := by
  unfold State.noteTimeout
  extract_lets _ _ x0
  refine Frame.withVar x0 (Frame.record (.refl _) rfl rfl (.inr rfl) (.inr rfl) (.inr rfl) (.inr rfl) (.inl rfl)) fun h0 => ?_
  exact (Frame.ite (Frame.step (State.markDown_frame ..) h0) h0)

theorem State.opTimeout_frame (s : State) (op : Nat) :
    Frame { mem := true, fab := true } s (State.opTimeout s op) := by
  unfold State.opTimeout
  extract_lets _
  split
  · exact (.refl _)
  · extract_lets x0 _ x1
    refine Frame.withVar x0 (Frame.step (State.advanceTo_frame ..) (.refl _)) fun h0 => ?_
    refine Frame.withVar x1 (Frame.record h0 rfl rfl (.inr rfl) (.inr rfl) (.inr rfl) (.inr rfl) (.inl rfl)) fun h1 => ?_
    exact (Frame.ite (.refl _) (Frame.step (State.pumpAll_frame ..) (Frame.step (State.drainQueue_frame ..) (Frame.step
        (State.opTimedOut_frame ..) (Frame.step (State.noteTimeout_frame ..) h1)))))

theorem State.takeStep_frame (s : State) (r : Ring) (b : List Byte) :
    Frame {} s (State.takeStep s r b).2 := by
  unfold State.takeStep
  exact (Frame.ite2 (Frame.snd (Frame.step (State.addFld_frame ..) (.refl _))) (Frame.snd (.refl _)))

theorem State.completeNoRun_frame (s : State) (g : Nat) (cid : Nat) (st : Nat) (idx : Nat) (valid : Bool) :
    Frame {} s (State.completeNoRun s g cid st idx valid) := by
  unfold State.completeNoRun
  extract_lets x0 x1
  refine Frame.withVar x0 (Frame.ite (Frame.step (State.addFld_frame ..) (.refl _)) (.refl _)) fun h0 => ?_
  refine Frame.withVar x1 (Frame.ite h0 (Frame.step (State.count_frame ..) h0)) fun h1 => ?_
  exact (Frame.step (State.complete_frame ..) h1)

theorem State.fetchChecked_frame (s : State) (g : Nat) (r : Ring) (b : List Byte) :
    Frame {} s (State.fetchChecked s g r b) := by
  unfold State.fetchChecked
  split
  · exact (.refl _)
  · exact (Frame.step (State.completeStatus_frame ..) (.refl _))

theorem State.takeEntry_frame (s : State) (g : Nat) (r : Ring) (b : List Byte) :
    Frame {} s (State.takeEntry s g r b) := by
  unfold State.takeEntry
  extract_lets _ x0 x1 x2 x3 _ _ x4
  refine Frame.withVar x0 (Frame.step (State.setFld_frame ..) (.refl _)) fun h0 => ?_
  refine Frame.withVar x1 (Frame.ite h0 (Frame.step (State.count_frame ..) h0)) fun h1 => ?_
  refine Frame.withVar x2.2 (Frame.step (State.takeStep_frame ..) h1) fun h2 => ?_
  refine Frame.withVar x3 h2 fun h3 => ?_
  refine Frame.withVar x4 (Frame.record h3 rfl rfl (.inr rfl) (.inr rfl) (.inr rfl) (.inr rfl) (.inr rfl)) fun h4 => ?_
  exact (Frame.ite (Frame.step (State.completeNoRun_frame ..) h4) (Frame.step (State.fetchChecked_frame ..) h4))

theorem State.ringFails_frame (s : State) (g : Nat) (r : Ring) (code : Nat) :
    Frame {} s (State.ringFails s g r code) := by
  unfold State.ringFails
  extract_lets _ x0 x1 x2 x3 x4 _
  refine Frame.withVar x0 (Frame.step (State.setFld_frame ..) (.refl _)) fun h0 => ?_
  refine Frame.withVar x1 (Frame.step (State.setFld_frame ..) h0) fun h1 => ?_
  refine Frame.withVar x2 (Frame.step (State.raise_frame ..) h1) fun h2 => ?_
  refine Frame.withVar x3 (Frame.ite (Frame.step (State.readTimeout_frame ..) h2) (Frame.step (State.dmaNote_frame ..) h2)) fun h3 => ?_
  refine Frame.withVar x4 (Frame.step (State.count_frame ..) h3) fun h4 => ?_
  exact (Frame.step (State.faultRecord_frame ..) h4)

theorem State.ringFetch_frame (s : State) (g : Nat) (e : HostRead) :
    Frame {} s (State.ringFetch s g e) := by
  unfold State.ringFetch
  split
  · exact (.refl _)
  · exact (Frame.ite (by
        split
        · exact (Frame.step (State.takeEntry_frame ..) (.refl _))
        · exact (Frame.step (State.ringFails_frame ..) (.refl _))
        · exact (Frame.step (State.ringFails_frame ..) (.refl _))) (.refl _))

theorem execRingFetch_frame (ring : Nat) (entry : HostRead) (s : State) :
    FrameN {} s (execRingFetch ring entry s) := by
  unfold execRingFetch
  exact (FrameN.next (Frame.step (State.ringFetch_frame ..) (.refl _)))

theorem State.radStop_frame (s : State) :
    Frame {} s (State.radStop s) := by
  unfold State.radStop
  exact (Frame.ite (Frame.step (State.setPll_frame ..) (.refl _)) (.refl _))

theorem State.dwellElapsed_frame (s : State) (kind : Nat) (idx : Nat) :
    Frame {} s (State.dwellElapsed s kind idx) := by
  unfold State.dwellElapsed
  extract_lets _ x0 x1
  refine Frame.withVar x0 (Frame.step (State.advanceTo_frame ..) (.refl _)) fun h0 => ?_
  refine Frame.withVar x1 (Frame.step (State.setSleep_frame ..) h0) fun h1 => ?_
  exact (Frame.ite (.refl _) (Frame.ite (Frame.step (State.setSleep_frame ..) h0) (Frame.ite (Frame.step (State.radStop_frame ..) h1) h1)))

theorem State.putTie_frame (s : State) (t : EthTie) :
    Frame {} s (State.putTie s t) := by
  unfold State.putTie
  extract_lets x0 _
  refine Frame.withVar x0 (Frame.foldl (fun _ _ => (Frame.step (State.setReg_frame ..) (.refl _))) (.refl _)) fun h0 => ?_
  exact (Frame.record h0 rfl rfl (.inr rfl) (.inr rfl) (.inr rfl) (.inr rfl) (.inr rfl))

theorem State.beforeWrites_frame {c : Changes} {f : State → State} (hf : ∀ t, Frame c t (f t)) (s : State) :
    Frame c s (s.beforeWrites f) := by
  unfold State.beforeWrites
  exact Frame.ite (Frame.step0 (State.putTie_frame ..) (Frame.trans (hf _) (Frame.step0 (State.putTie_frame ..) (.refl _)))) (hf _)

theorem State.instCtrl_frame (s : State) (inst : Nat) (v : Nat) (link : Nat) :
    Frame { mem := true, cells := true, runs := true } s (State.instCtrl s inst v link) := by
  unfold State.instCtrl
  exact (Frame.trans (State.pageWrite_frame (fun _ => (Frame.ite (Frame.step (State.resetAsk_frame ..) (.refl _)) (.refl _))) ..) (.refl _))

theorem execInstCtrlReset_frame (inst : Nat) (link : Nat) (s : State) :
    FrameN { mem := true, cells := true, runs := true } s (execInstCtrlReset inst link s) := by
  unfold execInstCtrlReset
  exact (FrameN.next (Frame.step (State.instCtrl_frame ..) (.refl _)))

theorem State.storeAssign_frame (s : State) (c : Nat) (v : Nat) :
    Frame {} s (State.storeAssign s c v) := by
  unfold State.storeAssign
  exact (Frame.step (State.setReg_frame ..) (.refl _))

theorem State.cellAssignWrite_frame (s : State) (v : Nat) :
    Frame { mem := true, cells := true } s (State.cellAssignWrite s v) := by
  unfold State.cellAssignWrite
  extract_lets _ _ _ _ _ x0 x1
  refine Frame.withVar x0 (Frame.step (State.storeAssign_frame ..) (.refl _)) fun h0 => ?_
  refine Frame.withVar x1 (Frame.ite h0 (Frame.step (State.configChanged_frame ..) h0)) fun h1 => ?_
  exact (Frame.ite (Frame.step (State.raise_frame ..) (.refl _)) (Frame.ite (Frame.step (State.raise_frame ..) (Frame.step
      (State.raise_frame ..) (.refl _))) (Frame.ite (Frame.ite (Frame.step (State.putCell_frame ..) h1) (Frame.step (State.setCell_frame
      ..) h1)) (Frame.ite (Frame.step (State.clearAssigned_frame ..) h1) h1))))

theorem execCellAssignWrite_frame (value : Nat) (s : State) :
    FrameN { mem := true, cells := true } s (execCellAssignWrite value s) := by
  unfold execCellAssignWrite
  exact (FrameN.next (Frame.step (State.cellAssignWrite_frame ..) (.refl _)))

theorem State.fillAnswer_frame (s : State) (o : FOp) (r : Nat) (src : FSrc) (off : Nat) (n : Nat) (status : Nat) (data : List Byte) :
    Frame { mem := true, fab := true } s (State.fillAnswer s o r src off n status data) := by
  unfold State.fillAnswer
  exact (Frame.ite (Frame.step (State.replyTo_frame ..) (.refl _)) (by
      split
      · exact (Frame.step (State.replyTo_frame ..) (.refl _))
      · extract_lets _ x0 _ x1
        refine Frame.withVar x0 (Frame.step (State.storeData_frame ..) (.refl _)) fun h0 => ?_
        refine Frame.withVar x1 (Frame.ite (Frame.record h0 rfl rfl (.inr rfl) (.inr rfl) (.inr rfl) (.inr rfl) (.inl rfl)) (.refl _)) fun
            h1 => ?_
        exact (Frame.step (State.replyTo_frame ..) h1)))

theorem execEndSession_frame (session : Nat) (aeadOk : Bool) (s : State) :
    FrameN {} s (execEndSession session aeadOk s) := by
  unfold execEndSession
  exact (FrameN.next (Frame.trans (State.secured_frame (fun _ _ => (Frame.step (State.endSession_frame ..) (Frame.step (State.send_frame
      ..) (.refl _)))) ..) (.refl _)))

theorem execRailSample_frame (ok : Bool) (s : State) :
    FrameN { cells := true, mer := true, runs := true, fab := true } s (execRailSample ok s) := by
  unfold execRailSample
  exact (FrameN.next (Frame.step (State.railSample_frame ..) (.refl _)))

theorem State.pumpPort_frame (s : State) (p : Nat) :
    Frame { fab := true } s (State.pumpPort s p) := by
  unfold State.pumpPort
  extract_lets _
  exact (Frame.foldl (fun _ _ => (Frame.step (State.sendMsg_frame ..) (.refl _))) (Frame.step (State.setRhb_frame ..) (.refl _)))

theorem State.retrained_frame (s : State) (p : Nat) (used : Nat) :
    Frame { fab := true } s (State.retrained s p used) := by
  unfold State.retrained
  extract_lets _ _ _ x0 x1 x2 x3 x4
  refine Frame.withVar x0 (Frame.step (State.setRhb_frame ..) (.refl _)) fun h0 => ?_
  refine Frame.withVar x1 (Frame.step (State.setFld_frame ..) h0) fun h1 => ?_
  refine Frame.withVar x2 (Frame.step (State.setFld_frame ..) h1) fun h2 => ?_
  refine Frame.withVar x3 (Frame.step (State.health_frame ..) (Frame.step (State.count_frame ..) (Frame.step (State.satFld_frame ..) h2)))
      fun h3 => ?_
  refine Frame.withVar x4 (Frame.ite (Frame.step (State.health_frame ..) (Frame.step (State.count_frame ..) (Frame.step (State.raise_frame
      ..) (Frame.step (State.satFld_frame ..) h3)))) h3) fun h4 => ?_
  exact (Frame.step (State.pumpPort_frame ..) (Frame.ite h4 (Frame.step (State.replay_frame ..) h4)))

theorem State.powerOff_frame (s : State) :
    Frame { mem := true, cells := true, mer := true, keys := true, runs := true, fab := true } s (State.powerOff s) := by
  unfold State.powerOff
  extract_lets _ _ _ _
  exact (Frame.ite (.refl _) (Frame.recordMem (.refl _) rfl (fun _ => rfl) rfl (.inl rfl) (.inl rfl) (.inl rfl) (.inl rfl) (.inl rfl)))

theorem execSupplyLoss_frame (s : State) :
    FrameN { mem := true, cells := true, mer := true, keys := true, runs := true, fab := true } s (execSupplyLoss s) := by
  unfold execSupplyLoss
  exact (FrameN.next (Frame.step (State.powerOff_frame ..) (.refl _)))

theorem execFreeRing_frame (block : HostRead) (s : State) :
    FrameN { mem := true, cells := true, runs := true } s (execFreeRing block s) := by
  unfold execFreeRing
  exact (FrameN.next (Frame.step (State.mbxGo_frame ..) (.refl _)))

theorem State.squashReads_frame (s : State) (p : DmaJob → Bool) :
    Frame {} s (State.squashReads s p) := by
  unfold State.squashReads
  extract_lets _ _ _
  exact (Frame.record (.refl _) rfl rfl (.inr rfl) (.inr rfl) (.inr rfl) (.inr rfl) (.inr rfl))

theorem State.unitFails_frame (s : State) (u : UpdUnit) :
    Frame { mem := true, cells := true, mer := true, runs := true, fab := true } s (State.unitFails s u) := by
  unfold State.unitFails
  extract_lets x0
  refine Frame.withVar x0.2 (Frame.step (State.fresh_frame ..) (.refl _)) fun h0 => ?_
  split
  · exact (.refl _)
  · exact (Frame.step (State.unitLost_frame ..) h0)

theorem State.scAssign_frame (s : State) (v : Nat) :
    Frame {} s (State.scAssign s v) := by
  unfold State.scAssign
  extract_lets _ _ _ _ _ _ x0 x1
  refine Frame.withVar x0 (Frame.ite (.refl _) (Frame.step (State.clearChannel_frame ..) (.refl _))) fun h0 => ?_
  refine Frame.withVar x1 (Frame.step (State.setFld_frame ..) (Frame.step (State.setFld_frame ..) h0)) fun h1 => ?_
  exact (Frame.ite (Frame.step (State.raise_frame ..) (.refl _)) (Frame.ite h1 (Frame.step (State.measChanged_frame ..) h1)))

theorem execScAssignWrite_frame (value : Nat) (s : State) :
    FrameN {} s (execScAssignWrite value s) := by
  unfold execScAssignWrite
  exact (FrameN.next (Frame.step (State.scAssign_frame ..) (.refl _)))

theorem State.sampleQueue_frame (s : State) (q : Nat) :
    Frame { mem := true } s (State.sampleQueue s q) := by
  unfold State.sampleQueue
  extract_lets _ _ x0 x1 x2 _ _ x3
  refine Frame.withVar x0.2 (Frame.step (State.fresh_frame ..) (.refl _)) fun h0 => ?_
  refine Frame.withVar x1.2 (Frame.step (State.fresh_frame ..) h0) fun h1 => ?_
  refine Frame.withVar x2.2 (by
      unfold x2
      split
      · exact (Frame.snd (.refl _))
      · exact (Frame.snd h1)) fun h2 => ?_
  refine Frame.withVar x3 (Frame.step (State.prWrite_frame ..) h2) fun h3 => ?_
  exact (Frame.step (State.setTxq_frame ..) h3)

theorem State.telemetry_frame (s : State) :
    Frame { mem := true } s (State.telemetry s) := by
  unfold State.telemetry
  extract_lets x0 _ x1
  refine Frame.withVar x0 (Frame.step (State.advanceTo_frame ..) (.refl _)) fun h0 => ?_
  refine Frame.withVar x1 (Frame.record h0 rfl rfl (.inr rfl) (.inr rfl) (.inr rfl) (.inr rfl) (.inr rfl)) fun h1 => ?_
  exact (Frame.foldl (fun _ _ => Frame.step (State.sampleQueue_frame ..) (.refl _)) h1)

theorem State.wheelOut_frame (s : State) (q : Nat) (x : TxQueue) :
    Frame {} s (State.wheelOut s q x) := by
  unfold State.wheelOut
  extract_lets x0 _
  refine Frame.withVar x0 (Frame.step (State.setFld_frame ..) (.refl _)) fun h0 => ?_
  exact (Frame.ite (Frame.step (State.setFld_frame ..) (Frame.step (State.setTxq_frame ..) h0)) (Frame.step (State.setTxq_frame ..) h0))

theorem State.wheelRelease_frame (s : State) (q : Nat) :
    Frame {} s (State.wheelRelease s q) := by
  unfold State.wheelRelease
  extract_lets _
  split
  · exact (.refl _)
  · exact (Frame.step (State.wheelOut_frame ..) (Frame.step (State.advanceTo_frame ..) (.refl _)))

theorem execWheelRelease_frame (queue : Nat) (s : State) :
    FrameN {} s (execWheelRelease queue s) := by
  unfold execWheelRelease
  exact (FrameN.next (Frame.step (State.wheelRelease_frame ..) (.refl _)))

theorem State.mapGo_frame {c : Changes} {f : State → State} (hf : ∀ t, Frame c t (f t)) (s : State) (op : Nat) (force : Bool) :
    Frame c s (s.mapGo op force f) := by
  unfold State.mapGo
  exact Frame.ite (.refl _) (Frame.trans (State.sxtServe_frame hf _)
    (Frame.step0 (State.setFld_frame ..) (Frame.step0 (State.setFld_frame ..) (.refl _))))

theorem State.disableGo_frame (s : State) (force : Bool) :
    Frame { mem := true, cells := true, mer := true, runs := true, fab := true } s (State.disableGo s force) := by
  unfold State.disableGo
  exact (Frame.trans (State.mapGo_frame (fun _ => (Frame.step (State.mapDisableOp_frame ..) (.refl _))) ..) (.refl _))

theorem State.mapEnableOp_frame (s : State) (force : Bool) (passed : Bool) :
    Frame {} s (State.mapEnableOp s force passed) := by
  unfold State.mapEnableOp
  extract_lets _ _
  exact (Frame.ite (Frame.step (State.mapAnswer_frame ..) (.refl _)) (Frame.ite (Frame.step (State.mapAnswer_frame ..) (Frame.step
      (State.noteRefusal_frame ..) (.refl _))) (Frame.ite (Frame.step (State.mapAnswer_frame ..) (Frame.step (State.unitBack_frame ..)
      (.refl _))) (Frame.step (State.mapAnswer_frame ..) (.refl _)))))

theorem State.enableGo_frame (s : State) (force : Bool) (passed : Bool) :
    Frame {} s (State.enableGo s force passed) := by
  unfold State.enableGo
  exact (Frame.trans (State.mapGo_frame (fun _ => (Frame.step (State.mapEnableOp_frame ..) (.refl _))) ..) (.refl _))

theorem State.mapCtrl_frame (s : State) (passed : Bool) (v : Nat) :
    Frame { mem := true, cells := true, mer := true, runs := true, fab := true } s (State.mapCtrl s passed v) := by
  unfold State.mapCtrl
  extract_lets x0 _
  refine Frame.withVar x0 (Frame.step (State.storeWord_frame ..) (.refl _)) fun h0 => ?_
  exact (Frame.ite h0 (by
      split
      · exact (Frame.step (State.disableGo_frame ..) h0)
      · exact (Frame.step (State.enableGo_frame ..) h0)
      · exact (Frame.trans (State.mapGo_frame (fun _ => (Frame.step (State.mapAnswer_frame ..) (.refl _))) ..) h0)))

theorem State.burstEnds_frame (s : State) (d : Nat) (off : Nat) (b : List Byte) :
    Frame { mem := true } s (State.burstEnds s d off b) := by
  unfold State.burstEnds
  extract_lets x0
  refine Frame.withVar x0.2 (Frame.step (State.fresh_frame ..) (.refl _)) fun h0 => ?_
  exact (Frame.ite (.refl _) (Frame.foldl (fun _ _ => (by
      extract_lets _
      exact (Frame.ite (Frame.step (State.spoilPages_frame ..) (Frame.step (State.storeData_frame ..) (.refl _))) (.refl _)))) h0))

theorem State.storeBurst_frame (s : State) (r : Nat) (i : Nat) :
    Frame { mem := true } s (State.storeBurst s r i) := by
  unfold State.storeBurst
  split
  · exact (.refl _)
  · split
    · exact (Frame.ite (Frame.step (State.burstEnds_frame ..) (.refl _)) (.refl _))
    · exact (.refl _)

theorem State.ownerKey_frame (s : State) (digest : Option Nat) (sigOk : Bool) :
    Frame {} s (State.ownerKey s digest sigOk) := by
  unfold State.ownerKey
  extract_lets _
  exact (Frame.ite (Frame.step (State.almAnswer_frame ..) (.refl _)) (by
      split
      · exact (Frame.step (State.almAnswer_frame ..) (.refl _))
      · exact (Frame.ite (Frame.step (State.almAnswer_frame ..) (.refl _)) (Frame.step (State.almAnswer_frame ..) (Frame.step
            (State.showFuses_frame ..) (Frame.record (.refl _) rfl rfl (.inr rfl) (.inr rfl) (.inr rfl) (.inr rfl) (.inr rfl)))))))

theorem State.ownerKeyGo_frame (s : State) (digest : Option Nat) (sigOk : Bool) :
    Frame {} s (State.ownerKeyGo s digest sigOk) := by
  unfold State.ownerKeyGo
  exact (Frame.trans (State.almGo_frame (fun _ => (Frame.trans (State.withUpdate_frame (fun _ => (by
      split
      · exact (Frame.step (State.almAnswer_frame ..) (Frame.step (State.lockRefused_frame ..) (.refl _)))
      · exact (Frame.step (State.ownerKey_frame ..) (.refl _)))) ..) (.refl _))) ..) (.refl _))

theorem execOwnerKey_frame (digest : Option Nat) (sigOk : Bool) (s : State) :
    FrameN {} s (execOwnerKey digest sigOk s) := by
  unfold execOwnerKey
  exact (FrameN.next (Frame.step (State.ownerKeyGo_frame ..) (.refl _)))

theorem State.sensRead_frame (s : State) (kind : Nat) (i : Nat) (w : Nat) :
    Frame {} s (State.sensRead s kind i w) := by
  unfold State.sensRead
  extract_lets _ _ _ x0 x1 x2 _
  refine Frame.withVar x0 (Frame.step (State.setFld_frame ..) (.refl _)) fun h0 => ?_
  refine Frame.withVar x1 (Frame.ite (Frame.step (State.setFld_frame ..) h0) h0) fun h1 => ?_
  refine Frame.withVar x2 (Frame.ite (Frame.step (State.setFld_frame ..) h1) h1) fun h2 => ?_
  exact (Frame.ite (Frame.record h2 rfl rfl (.inr rfl) (.inr rfl) (.inr rfl) (.inr rfl) (.inr rfl)) h2)

theorem State.countCross_frame (s : State) (kind : Nat) (idx : Nat) (old : Nat) (new : Nat) :
    Frame {} s (State.countCross s kind idx old new) := by
  unfold State.countCross
  extract_lets x0 x1
  refine Frame.withVar x0 (Frame.ite (Frame.step (State.count_frame ..) (.refl _)) (.refl _)) fun h0 => ?_
  refine Frame.withVar x1 (Frame.ite (Frame.step (State.count_frame ..) h0) h0) fun h1 => ?_
  exact (Frame.ite (Frame.step (State.count_frame ..) h1) h1)

theorem State.sensReached_frame (s : State) (kind : Nat) (idx : Nat) (w : Nat) (level : Nat) :
    Frame {} s (State.sensReached s kind idx w level) := by
  unfold State.sensReached
  extract_lets _ x0
  refine Frame.withVar x0 (Frame.step (State.logEvent_frame ..) (.refl _)) fun h0 => ?_
  exact (Frame.step (State.raise_frame ..) h0)

theorem State.sensSample_frame (s : State) (known : List Nat) (kind : Nat) (idx : Nat) (w : Nat) :
    Frame {} s (State.sensSample s known kind idx w) := by
  unfold State.sensSample
  extract_lets _ x0 _ _ x1
  refine Frame.withVar x0 (Frame.step (State.sensRead_frame ..) (.refl _)) fun h0 => ?_
  refine Frame.withVar x1 (Frame.step (State.countCross_frame ..) (Frame.step (State.setFld_frame ..) h0)) fun h1 => ?_
  exact (Frame.ite (Frame.ite (Frame.step (State.sensReached_frame ..) h1) h1) h0)

theorem State.refreshRate_frame (s : State) (k : Nat) :
    Frame {} s (State.refreshRate s k) := by
  unfold State.refreshRate
  extract_lets _ _ _ _
  exact (Frame.ite (.refl _) (Frame.step (State.count_frame ..) (Frame.record (.refl _) rfl rfl (.inr rfl) (.inr rfl) (.inr rfl) (.inr rfl)
      (.inr rfl))))

theorem State.sensors_frame (s : State) (readings : List Nat) :
    Frame { cells := true, mer := true, runs := true, fab := true } s (State.sensors s readings) := by
  unfold State.sensors
  extract_lets x0 _ x1 _ _ x2 x3 _
  refine Frame.withVar x0 (Frame.step (State.advanceTo_frame ..) (.refl _)) fun h0 => ?_
  refine Frame.withVar x1 (Frame.record h0 rfl rfl (.inr rfl) (.inr rfl) (.inr rfl) (.inr rfl) (.inr rfl)) fun h1 => ?_
  refine Frame.withVar x2 (Frame.foldl (fun _ _ => (Frame.step (State.sensSample_frame ..) (.refl _))) h1) fun h2 => ?_
  refine Frame.withVar x3 (Frame.step (State.sensTop_frame ..) (Frame.foldl (fun _ _ => Frame.step (State.refreshRate_frame ..) (.refl _))
      h2)) fun h3 => ?_
  exact (Frame.ite (Frame.ite h3 (Frame.step (State.fatalTrip_frame ..) h3)) (.refl _))

theorem State.correctedRewrite_frame (s : State) (d : Nat) (off : Nat) :
    Frame {} s (State.correctedRewrite s d off) := by
  unfold State.correctedRewrite
  exact (Frame.record (.refl _) rfl rfl (.inr rfl) (.inr rfl) (.inr rfl) (.inr rfl) (.inr rfl))

theorem execCorrectedRewrite_frame (dom : Nat) (off : Nat) (s : State) :
    FrameN {} s (execCorrectedRewrite dom off s) := by
  unfold execCorrectedRewrite
  exact (FrameN.next (Frame.step (State.correctedRewrite_frame ..) (.refl _)))

theorem State.faultPass_frame (s : State) (cause : Nat) (cls : Nat) (unit : Nat) :
    Frame { runs := true } s (State.faultPass s cause cls unit) := by
  unfold State.faultPass
  exact (Frame.step (State.faultArr_frame ..) (.refl _))

theorem State.scrubMove_frame (s : State) (b : Nat) :
    Frame {} s (State.scrubMove s b) := by
  unfold State.scrubMove
  extract_lets _ _ x0
  refine Frame.withVar x0 (Frame.record (.refl _) rfl rfl (.inr rfl) (.inr rfl) (.inr rfl) (.inr rfl) (.inr rfl)) fun h0 => ?_
  exact (Frame.ite (Frame.foldl (fun _ _ => (Frame.step (State.count_frame ..) (.refl _))) (Frame.step (State.addFld_frame ..) h0)) h0)

theorem State.scrubRead_frame (s : State) (result : Nat) :
    Frame { mem := true, cells := true, runs := true, fab := true } s (State.scrubRead s result) := by
  unfold State.scrubRead
  extract_lets x0 _
  refine Frame.withVar x0 (Frame.step (State.scrubMove_frame ..) (.refl _)) fun h0 => ?_
  exact (Frame.ite (.refl _) (Frame.step (State.scrubBlock_frame ..) (Frame.step (State.scrubMove_frame ..) (Frame.step (State.count_frame
      ..) h0))))

theorem State.regionCommit_frame (s : State) (r : Nat) (fd : Option Nat) :
    Frame { fab := true } s (State.regionCommit s r fd) := by
  unfold State.regionCommit
  extract_lets _ _
  exact (Frame.ite (Frame.record (.refl _) rfl rfl (.inr rfl) (.inr rfl) (.inr rfl) (.inr rfl) (.inl rfl)) (Frame.step
      (State.regionApply_frame ..) (Frame.record (.refl _) rfl rfl (.inr rfl) (.inr rfl) (.inr rfl) (.inr rfl) (.inl rfl))))

theorem State.shrinkShares_frame (s : State) :
    Frame {} s (State.shrinkShares s) := by
  unfold State.shrinkShares
  exact (Frame.step (State.setShares_frame ..) (.refl _))

theorem State.critHold_frame (s : State) :
    Frame {} s (State.critHold s) := by
  unfold State.critHold
  split
  · exact (.refl _)
  · exact (Frame.ite (Frame.step (State.shrinkShares_frame ..) (Frame.step (State.advanceTo_frame ..) (.refl _))) (.refl _))

theorem State.enableRing_frame (s : State) (g : Nat) (r : Ring) :
    Frame {} s (State.enableRing s g r) := by
  unfold State.enableRing
  exact (Frame.ite (Frame.ite (Frame.step (State.clearRing_frame ..) (.refl _)) (Frame.step (State.setFld_frame ..) (.refl _))) (.refl _))

theorem State.postRun_frame (s : State) (x : Run) :
    Frame { cells := true } s (State.postRun s x) := by
  unfold State.postRun
  extract_lets _
  split
  · exact (Frame.step (State.complete_frame ..) (.refl _))
  · extract_lets x0
    refine Frame.withVar x0 (Frame.record (.refl _) rfl rfl (.inl rfl) (.inr rfl) (.inr rfl) (.inr rfl) (.inr rfl)) fun h0 => ?_
    exact (Frame.ite h0 (Frame.foldl (fun _ _ => (Frame.step (State.modSlot_frame ..) (.refl _))) h0))

theorem State.idleExpire_frame (s : State) (kind : Nat) (idx : Nat) :
    Frame {} s (State.idleExpire s kind idx) := by
  unfold State.idleExpire
  extract_lets _ x0
  refine Frame.withVar x0 (Frame.step (State.advanceTo_frame ..) (.refl _)) fun h0 => ?_
  exact (Frame.ite (.refl _) (Frame.step (State.setSleep_frame ..) h0))

theorem State.prachParity_frame (s : State) (c : Nat) (n : Nat) (k : Nat) :
    Frame { mem := true, cells := true } s (State.prachParity s c n k) := by
  unfold State.prachParity
  split
  · exact (.refl _)
  · exact (Frame.ite (Frame.step (State.prachReport_frame ..) (Frame.step (State.faultRecord_frame ..) (Frame.step (State.raise_frame ..)
        (.refl _)))) (.refl _))

theorem execPrachParity_frame (cell : Nat) (n : Nat) (item : Nat) (s : State) :
    FrameN { mem := true, cells := true } s (execPrachParity cell n item s) := by
  unfold execPrachParity
  exact (FrameN.next (Frame.step (State.prachParity_frame ..) (.refl _)))

theorem State.finish_frame (s : State) (k : Nat) (authOk : Bool) (digest : Nat) :
    Frame {} s (State.finish s k authOk digest) := by
  unfold State.finish
  extract_lets x0 x1
  refine Frame.withVar x0 (Frame.step (State.setSession_frame ..) (.refl _)) fun h0 => ?_
  refine Frame.withVar x1 (Frame.step (State.count_frame ..) (Frame.step (State.addFld_frame ..) h0)) fun h1 => ?_
  split
  · exact (.refl _)
  · exact (Frame.ite (.refl _) (Frame.ite (Frame.step (State.authFail_frame ..) (.refl _)) (Frame.step (State.send_frame ..) h1)))

theorem execFinish_frame (session : Nat) (authOk : Bool) (keyDigest : Nat) (s : State) :
    FrameN {} s (execFinish session authOk keyDigest s) := by
  unfold execFinish
  exact (FrameN.next (Frame.trans (State.sxtServe_frame (fun _ => (Frame.step (State.finish_frame ..) (.refl _))) ..) (.refl _)))

theorem State.computePosts_frame (s : State) :
    Frame {} s (State.computePosts s) := by
  unfold State.computePosts
  extract_lets x0
  refine Frame.withVar x0 (Frame.foldl (fun _ _ => (Frame.step (State.setFld_frame ..) (.refl _))) (.refl _)) fun h0 => ?_
  exact (Frame.foldl1 (fun _ _ => (Frame.step (State.resetRing_frame ..) (.refl _))) (Frame.fst h0))

theorem State.zeroAll_frame (s : State) (spc : Space) :
    Frame { mem := true } s (State.zeroAll s spc) := by
  unfold State.zeroAll
  exact (Frame.recordMem (.refl _) rfl (Memory.wf_drop _ _) rfl (.inr rfl) (.inr rfl) (.inr rfl) (.inr rfl) (.inr rfl))

theorem State.computePower_frame (s : State) :
    Frame { mem := true, fab := true } s (State.computePower s) := by
  unfold State.computePower
  extract_lets x0 _ _ _ _
  refine Frame.withVar x0 (Frame.step (State.zeroAll_frame ..) (Frame.step (State.zeroAll_frame ..) (Frame.step (State.zeroAll_frame ..)
      (.refl _)))) fun h0 => ?_
  exact (Frame.record h0 rfl rfl (.inr rfl) (.inr rfl) (.inr rfl) (.inr rfl) (.inl rfl))

theorem State.helmStops_frame (s : State) :
    Frame {} s (State.helmStops s) := by
  unfold State.helmStops
  extract_lets _
  exact (Frame.record (.refl _) rfl rfl (.inr rfl) (.inr rfl) (.inr rfl) (.inr rfl) (.inr rfl))

theorem State.vectorStops_frame (s : State) :
    Frame { runs := true } s (State.vectorStops s) := by
  unfold State.vectorStops
  extract_lets x0
  refine Frame.withVar x0 (by
      unfold x0
      split
      · exact (.refl _)
      · exact (Frame.step (State.vecCut_frame ..) (.refl _))) fun h0 => ?_
  exact (Frame.record h0 rfl rfl (.inr rfl) (.inr rfl) (.inr rfl) (.inr rfl) (.inr rfl))

theorem State.runBursts_frame (s : State) (r : Nat) :
    Frame { mem := true } s (State.runBursts s r) := by
  unfold State.runBursts
  split
  · exact (.refl _)
  · exact (Frame.foldl (fun _ _ => (Frame.step (State.storeBurst_frame ..) (.refl _))) (.refl _))

theorem State.readBurst_frame (s : State) (j : DmaJob) :
    Frame { mem := true } s (State.readBurst s j) := by
  unfold State.readBurst
  exact (Frame.ite (.refl _) (by
      split
      · split
        · exact (.refl _)
        · exact (Frame.step (State.burstEnds_frame ..) (.refl _))
      · split
        · exact (.refl _)
        · exact (Frame.step (State.burstEnds_frame ..) (.refl _))
      · exact (.refl _)))

theorem State.squashPhase_frame (s : State) (r : Nat) :
    Frame { cells := true } s (State.squashPhase s r) := by
  unfold State.squashPhase
  split
  · exact (.refl _)
  · split
    · exact (.refl _)
    · exact (Frame.record (.refl _) rfl rfl (.inl rfl) (.inr rfl) (.inr rfl) (.inr rfl) (.inr rfl))

theorem State.squashRun_frame (s : State) (r : Nat) :
    Frame { runs := true } s (State.squashRun s r) := by
  unfold State.squashRun
  extract_lets x0 x1 _ _ _ _ _ _ _ x2
  refine Frame.withVar x0 (Frame.step (State.modRun_frame ..) (.refl _)) fun h0 => ?_
  refine Frame.withVar x1 (Frame.step (State.dropUnstarted_frame ..) h0) fun h1 => ?_
  refine Frame.withVar x2 (Frame.record h1 rfl rfl (.inr rfl) (.inr rfl) (.inr rfl) (.inr rfl) (.inr rfl)) fun h2 => ?_
  exact (Frame.step (State.noteSaved_frame ..) (Frame.step (State.modRun_frame ..) h2))

theorem State.detach_frame (s : State) (p : FJob → Bool) :
    Frame { fab := true } s (State.detach s p) := by
  unfold State.detach
  extract_lets _ _ _ _ _
  exact (Frame.record (.refl _) rfl rfl (.inr rfl) (.inr rfl) (.inr rfl) (.inr rfl) (.inl rfl))

theorem State.squashWaits_frame (s : State) (inst : Nat) :
    Frame {} s (State.squashWaits s inst) := by
  unfold State.squashWaits
  extract_lets _ _ x0
  refine Frame.withVar x0 (Frame.record (.refl _) rfl rfl (.inr rfl) (.inr rfl) (.inr rfl) (.inr rfl) (.inr rfl)) fun h0 => ?_
  exact (Frame.foldl (fun _ _ => (Frame.step (State.chartReap_frame ..) (Frame.record (.refl _) rfl rfl (.inr rfl) (.inr rfl) (.inr rfl)
      (.inr rfl) (.inr rfl)))) h0)

theorem State.maintAborts_frame (s : State) (inst : Nat) :
    Frame {} s (State.maintAborts s inst) := by
  unfold State.maintAborts
  exact (Frame.foldl (fun _ _ => (Frame.step (State.maintEnd_frame ..) (.refl _))) (.refl _))

theorem State.squashCell_frame (s : State) (inst : Nat) (c : Nat) :
    Frame { cells := true } s (State.squashCell s inst c) := by
  unfold State.squashCell
  extract_lets x0 _
  refine Frame.withVar x0 (Frame.foldl (fun _ _ => (Frame.step (State.squashSlot_frame ..) (.refl _))) (.refl _)) fun h0 => ?_
  exact (Frame.step (State.modCell_frame ..) h0)

theorem State.squashWork_frame (s : State) (inst : Nat) :
    Frame { mem := true, cells := true, runs := true, fab := true } s (State.squashWork s inst) := by
  unfold State.squashWork
  extract_lets _ x0 x1 x2 x3 x4 x5
  refine Frame.withVar x0 (Frame.foldl (fun _ _ => (Frame.step (State.runBursts_frame ..) (.refl _))) (.refl _)) fun h0 => ?_
  refine Frame.withVar x1 (Frame.foldl (fun _ _ => Frame.step (State.readBurst_frame ..) (.refl _)) h0) fun h1 => ?_
  refine Frame.withVar x2 (Frame.foldl (fun _ _ => (Frame.step (State.squashPhase_frame ..) (Frame.step (State.squashRun_frame ..) (.refl
      _)))) h1) fun h2 => ?_
  refine Frame.withVar x3 (Frame.step (State.squashReads_frame ..) h2) fun h3 => ?_
  refine Frame.withVar x4 (Frame.step (State.detach_frame ..) h3) fun h4 => ?_
  refine Frame.withVar x5 (Frame.step (State.squashWaits_frame ..) (Frame.step (State.squashCharts_frame ..) h4)) fun h5 => ?_
  exact (Frame.step (State.maintAborts_frame ..) (Frame.foldl (fun _ _ => (Frame.step (State.squashCell_frame ..) (.refl _))) h5))

theorem State.computeStops_frame (s : State) :
    Frame { mem := true, cells := true, runs := true, fab := true } s (State.computeStops s) := by
  unfold State.computeStops
  extract_lets x0 x1
  refine Frame.withVar x0 (Frame.step (State.helmStops_frame ..) (Frame.step (State.vectorStops_frame ..) (Frame.step
      (State.arrayStops_frame ..) (.refl _)))) fun h0 => ?_
  refine Frame.withVar x1 (Frame.foldl (fun _ _ => Frame.step (State.maintOver_frame ..) (.refl _)) h0) fun h1 => ?_
  exact (Frame.foldl (fun _ _ => Frame.step (State.squashWork_frame ..) (.refl _)) h1)

theorem State.computeReset_frame (s : State) :
    Frame { mem := true, cells := true, mer := true, keys := true, runs := true, fab := true } s (State.computeReset s) := by
  unfold State.computeReset
  extract_lets _ x0 x1 x2 x3 x4 x5
  refine Frame.withVar x0 (Frame.ite (Frame.step (State.revert_frame ..) (.refl _)) (.refl _)) fun h0 => ?_
  refine Frame.withVar x1 (Frame.ite (Frame.step (State.computeStart_frame ..) h0) h0) fun h1 => ?_
  refine Frame.withVar x2 (Frame.step (State.computeBack_frame ..) (Frame.step (State.computePosts_frame ..) (Frame.step
      (State.computePower_frame ..) (Frame.step (State.computeStops_frame ..) h1)))) fun h2 => ?_
  refine Frame.withVar x3 (Frame.step (State.addFld_frame ..) (Frame.record h2 rfl rfl (.inr rfl) (.inr rfl) (.inr rfl) (.inr rfl) (.inr
      rfl))) fun h3 => ?_
  refine Frame.withVar x4 (Frame.step (State.setFld_frame ..) (Frame.step (State.setFld_frame ..) h3)) fun h4 => ?_
  refine Frame.withVar x5 (Frame.step (State.setFld_frame ..) h4) fun h5 => ?_
  exact (Frame.ite (.refl _) (Frame.ite (Frame.step (State.setFld_frame ..) (Frame.step (State.setFld_frame ..) (Frame.step
      (State.setFld_frame ..) h5))) h5))

theorem State.writeLs_frame (s : State) (x : PhyCtx) (i : Item) :
    Frame { mem := true } s (State.writeLs s x i) := by
  unfold State.writeLs
  extract_lets _
  exact (Frame.foldl (fun _ _ => (Frame.foldl (fun _ _ => (Frame.foldl (fun _ _ => (Frame.foldl (fun _ _ => (by
      extract_lets _
      exact (Frame.step (State.store_frame ..) (.refl _)))) (.refl _))) (.refl _))) (.refl _))) (.refl _))

theorem State.estimatePusch_frame (s : State) (x : PhyCtx) (k : Nat) (i : Item) (j : SlotJob) :
    Frame { mem := true, cells := true } s (State.estimatePusch s x k i j) := by
  unfold State.estimatePusch
  extract_lets x0
  refine Frame.withVar x0 (Frame.ite (Frame.step (State.zeroRange_frame ..) (.refl _)) (.refl _)) fun h0 => ?_
  exact (Frame.ite (Frame.step (State.ulTbFails_frame ..) (.refl _)) (by
      split
      · exact (Frame.step (State.ulMemFails_frame ..) (.refl _))
      · exact (Frame.step (State.modItem_frame ..) (Frame.step (State.writeLs_frame ..) h0))))

theorem State.channelEstimate_frame (s : State) (c : Nat) (n : Nat) (k : Nat) :
    Frame { mem := true, cells := true } s (State.channelEstimate s c n k) := by
  unfold State.channelEstimate
  split
  · exact (.refl _)
  · extract_lets _ x0
    refine Frame.withVar x0 (Frame.step (State.meetErrors_frame ..) (.refl _)) fun h0 => ?_
    exact (Frame.ite (Frame.step (State.estimatePusch_frame ..) h0) (Frame.ite (by
        split
        · exact h0
        · exact (Frame.step (State.ulItemEnds_frame ..) h0)
        · exact (Frame.step (State.ulMemFails_frame ..) h0)
        · exact (Frame.step (State.srsDone_frame ..) h0)) h0))

theorem execChannelEstimate_frame (cell : Nat) (n : Nat) (item : Nat) (s : State) :
    FrameN { mem := true, cells := true, runs := true, fab := true } s (execChannelEstimate cell n item s) := by
  unfold execChannelEstimate
  exact (FrameN.next (Frame.step (State.limitStacks_frame ..) (Frame.step (State.channelEstimate_frame ..) (.refl _))))

theorem State.fifoParity_frame (s : State) (sp : Nat) (f : EthFrame) (written : Nat) :
    Frame { mem := true } s (State.fifoParity s sp f written) := by
  unfold State.fifoParity
  extract_lets _ x0 _ x1 x2
  refine Frame.withVar x0 (Frame.step (State.raise_frame ..) (.refl _)) fun h0 => ?_
  refine Frame.withVar x1 (Frame.step (State.faultRecord_frame ..) h0) fun h1 => ?_
  refine Frame.withVar x2.2 (Frame.step (State.fresh_frame ..) h1) fun h2 => ?_
  exact (Frame.ite h1 (Frame.step (State.rxBroken_frame ..) h2))

theorem execFifoParity_frame (subport : Nat) (frame : EthFrame) (written : Nat) (s : State) :
    FrameN { mem := true } s (execFifoParity subport frame written s) := by
  unfold execFifoParity
  exact (FrameN.next (Frame.trans (State.beforeWrites_frame (fun _ => (Frame.step (State.fifoParity_frame ..) (.refl _))) ..) (.refl _)))

theorem State.fftParity_frame (s : State) (c : Nat) (sym : Nat) :
    Frame {} s (State.fftParity s c sym) := by
  unfold State.fftParity
  exact (Frame.step (State.faultRecord_frame ..) (Frame.step (State.count_frame ..) (Frame.step (State.raise_frame ..) (.refl _))))

theorem State.startRetrain_frame (s : State) (p : Nat) (lanes : Nat) :
    Frame {} s (State.startRetrain s p lanes) := by
  unfold State.startRetrain
  extract_lets _
  exact (Frame.step (State.setFld_frame ..) (Frame.step (State.setRhb_frame ..) (.refl _)))

theorem State.rhumbLaneLoss_frame (s : State) (p : Nat) (mask : Nat) :
    Frame { mem := true, fab := true } s (State.rhumbLaneLoss s p mask) := by
  unfold State.rhumbLaneLoss
  extract_lets _ _ x0 x1 _ _
  refine Frame.withVar x0 (Frame.foldl (fun _ _ => (Frame.step (State.count_frame ..) (.refl _))) (.refl _)) fun h0 => ?_
  refine Frame.withVar x1 (Frame.step (State.setFld_frame ..) h0) fun h1 => ?_
  exact (Frame.ite (Frame.ite (Frame.step (State.portDown_frame ..) (Frame.step (State.setRhb_frame ..) h1)) (Frame.step
      (State.startRetrain_frame ..) (Frame.step (State.setRhb_frame ..) h1))) h1)

theorem State.slotTorn_frame (s : State) (slot : Nat) :
    Frame {} s (State.slotTorn s slot) := by
  unfold State.slotTorn
  extract_lets _
  exact (Frame.record (.refl _) rfl rfl (.inr rfl) (.inr rfl) (.inr rfl) (.inr rfl) (.inr rfl))

theorem State.stage_frame (s : State) (img : ImageRead) (flashOk : Bool) :
    Frame {} s (State.stage s img flashOk) := by
  unfold State.stage
  split
  · exact (Frame.step (State.almAnswer_frame ..) (.refl _))
  · exact (Frame.step (State.almAnswer_frame ..) (.refl _))
  · split
    · exact (Frame.step (State.almAnswer_frame ..) (.refl _))
    · extract_lets x0
      refine Frame.withVar x0.1 (Frame.step (State.writeSlot_frame ..) (.refl _)) fun h0 => ?_
      exact (Frame.ite (Frame.step (State.almAnswer_frame ..) (Frame.step (State.flashFails_frame ..) (Frame.step (State.stagedHdr_frame
          ..) (Frame.step (State.slotTorn_frame ..) (.refl _))))) (Frame.step (State.almAnswer_frame ..) (Frame.step (State.stagedHdr_frame
          ..) h0)))

theorem State.measure_frame (s : State) (sid : Nat) (dom : Option Nat) (i : Nat) :
    Frame {} s (State.measure s sid dom i) := by
  unfold State.measure
  split
  · exact (Frame.step (State.spdmOpen_frame ..) (.refl _))
  · exact (Frame.step (State.send_frame ..) (.refl _))

theorem execGetMeasurements_frame (session : Option Nat) (aeadOk : Bool) (index : Nat) (s : State) :
    FrameN {} s (execGetMeasurements session aeadOk index s) := by
  unfold execGetMeasurements
  exact (FrameN.next (by
      split
      · exact (Frame.trans (State.sxtServe_frame (fun _ => (Frame.step (State.measure_frame ..) (.refl _))) ..) (.refl _))
      · exact (Frame.trans (State.secured_frame (fun _ _ => (Frame.step (State.measure_frame ..) (.refl _))) ..) (.refl _))))

theorem State.mbxReset_frame (s : State) :
    Frame {} s (State.mbxReset s) := by
  unfold State.mbxReset
  extract_lets _ x0
  refine Frame.withVar x0 (Frame.foldl (fun _ _ => (Frame.ite (Frame.step (State.setFld_frame ..) (.refl _)) (.refl _))) (.refl _)) fun h0
      => ?_
  exact (Frame.step (State.setFld_frame ..) (Frame.record h0 rfl rfl (.inr rfl) (.inr rfl) (.inr rfl) (.inr rfl) (.inr rfl)))

theorem State.flr_frame (s : State) (fn : Nat) :
    Frame { mem := true, cells := true, runs := true } s (State.flr s fn) := by
  unfold State.flr
  split
  · exact (Frame.step (State.mbxReset_frame ..) (Frame.foldl (fun _ _ => Frame.step (State.resetAsk_frame ..) (.refl _)) (.refl _)))
  · exact (.refl _)
  · exact (Frame.foldl (fun _ _ => Frame.step (State.resetAsk_frame ..) (.refl _)) (.refl _))

theorem State.linkRetrains_frame (s : State) (j : Nat) :
    Frame {} s (State.linkRetrains s j) := by
  unfold State.linkRetrains
  extract_lets _ _ x0
  refine Frame.withVar x0 (Frame.step (State.setReg_frame ..) (.refl _)) fun h0 => ?_
  exact (Frame.step (State.health_frame ..) (Frame.step (State.count_frame ..) h0))

theorem State.pcieLinkReset_frame (s : State) (j : Nat) (speed : Nat) (width : Nat) :
    Frame { mem := true, cells := true, runs := true } s (State.pcieLinkReset s j speed width) := by
  unfold State.pcieLinkReset
  extract_lets x0 _ _ x1
  refine Frame.withVar x0 (Frame.ite (Frame.step (State.flr_frame ..) (Frame.step (State.flr_frame ..) (.refl _))) (Frame.step
      (State.flr_frame ..) (.refl _))) fun h0 => ?_
  refine Frame.withVar x1 (Frame.step (State.count_frame ..) (Frame.step (State.count_frame ..) h0)) fun h1 => ?_
  exact (Frame.step (State.linkState_frame ..) (Frame.step (State.linkRetrains_frame ..) h1))

theorem execPcieLinkReset_frame (link : Nat) (speed : Nat) (width : Nat) (s : State) :
    FrameN { mem := true, cells := true, runs := true } s (execPcieLinkReset link speed width s) := by
  unfold execPcieLinkReset
  exact (FrameN.next (Frame.step (State.pcieLinkReset_frame ..) (.refl _)))

theorem State.cellRefused_frame (s : State) (g : Nat) (cid : Nat) (st : Nat) (c : Nat) :
    Frame {} s (State.cellRefused s g cid st c) := by
  unfold State.cellRefused
  exact (Frame.step (State.cellDone_frame ..) (.refl _))

theorem State.cellStop_frame (s : State) (g : Nat) (cid : Nat) :
    Frame { mem := true, cells := true } s (State.cellStop s g cid) := by
  unfold State.cellStop
  split
  · exact (.refl _)
  · extract_lets _ _
    exact (Frame.ite (Frame.step (State.cellRefused_frame ..) (.refl _)) (by
        split
        · exact (Frame.step (State.cellRefused_frame ..) (.refl _))
        · split
          · exact (Frame.step (State.cellRefused_frame ..) (Frame.step (State.noteStatus_frame ..) (.refl _)))
          · exact (Frame.step (State.stopCell_frame ..) (Frame.step (State.stageCmd_frame ..) (.refl _)))))

theorem execCellStop_frame (ring : Nat) (cid : Nat) (s : State) :
    FrameN { mem := true, cells := true } s (execCellStop ring cid s) := by
  unfold execCellStop
  exact (FrameN.next (Frame.step (State.cellStop_frame ..) (.refl _)))

theorem execQueueStateUe_frame (ring : Nat) (s : State) :
    FrameN { mem := true, cells := true, runs := true } s (execQueueStateUe ring s) := by
  unfold execQueueStateUe
  exact (FrameN.next (Frame.step (State.queueUe_frame ..) (.refl _)))

theorem State.pldmTransfer_frame (s : State) (component : Nat) (image : Option Image) (flashOk : Bool) :
    Frame {} s (State.pldmTransfer s component image flashOk) := by
  unfold State.pldmTransfer
  exact (Frame.trans (State.pldmReq_frame (fun _ _ => (by
      extract_lets x0 x1 _ _ _ x2
      refine Frame.withVar x0 (Frame.step (State.count_frame ..) (.refl _)) fun h0 => ?_
      refine Frame.withVar x1 (by
          unfold x1
          split
          · exact h0
          · exact (Frame.step (State.stagedHdr_frame ..) (Frame.step (State.slotTorn_frame ..) h0))) fun h1 => ?_
      refine Frame.withVar x2 (Frame.record h1 rfl rfl (.inr rfl) (.inr rfl) (.inr rfl) (.inr rfl) (.inr rfl)) fun h2 => ?_
      exact (Frame.ite (Frame.step (State.send_frame ..) h2) (Frame.step (State.send_frame ..) (Frame.step (State.flashFails_frame ..)
          h2))))) ..) (.refl _))

theorem State.runWordUe_frame (s : State) (r : Nat) (staging : Bool) (off : Nat) :
    Frame { runs := true } s (State.runWordUe s r staging off) := by
  unfold State.runWordUe
  split
  · exact (.refl _)
  · extract_lets _ x0 _
    refine Frame.withVar x0 (Frame.step (State.setRun_frame ..) (.refl _)) fun h0 => ?_
    exact (Frame.step (State.tagFaults_frame ..) (Frame.foldl (fun _ _ => (Frame.step (State.readerFails_frame ..) (.refl _))) h0))

theorem State.retrainDone_frame (s : State) (p : Nat) (lock : Nat) :
    Frame { mem := true, fab := true } s (State.retrainDone s p lock) := by
  unfold State.retrainDone
  extract_lets _ x0 _
  refine Frame.withVar x0 (Frame.step (State.setFld_frame ..) (.refl _)) fun h0 => ?_
  exact (Frame.ite (Frame.ite (Frame.step (State.portDown_frame ..) (Frame.step (State.setRhb_frame ..) h0)) (Frame.step
      (State.retrained_frame ..) h0)) (.refl _))

theorem State.sxtReset_frame (s : State) :
    Frame { keys := true } s (State.sxtReset s) := by
  unfold State.sxtReset
  extract_lets _ _ x0 x1 x2 x3
  refine Frame.withVar x0 (Frame.record (.refl _) rfl rfl (.inr rfl) (.inr rfl) (.inl rfl) (.inr rfl) (.inr rfl)) fun h0 => ?_
  refine Frame.withVar x1 (Frame.step (State.setFld_frame ..) (Frame.step (State.setFld_frame ..) h0)) fun h1 => ?_
  refine Frame.withVar x2 (Frame.step (State.setFld_frame ..) (Frame.step (State.setFld_frame ..) h1)) fun h2 => ?_
  refine Frame.withVar x3 (Frame.step (State.setReg_frame ..) (Frame.step (State.setFld_frame ..) h2)) fun h3 => ?_
  exact (Frame.step (State.setFld_frame ..) h3)

theorem State.memReset_frame (s : State) :
    Frame { mem := true } s (State.memReset s) := by
  unfold State.memReset
  exact (Frame.step (State.openBlocks_frame ..) (Frame.recordMem (.refl _) rfl (fun _ => rfl) rfl (.inr rfl) (.inr rfl) (.inr rfl) (.inr
      rfl) (.inr rfl)))

theorem State.devReset_frame (s : State) :
    Frame { mem := true, cells := true, mer := true, keys := true, runs := true, fab := true } s (State.devReset s) := by
  unfold State.devReset
  extract_lets x0 _ x1
  refine Frame.withVar x0 (Frame.step (State.addFld_frame ..) (Frame.step (State.sxtReset_frame ..) (Frame.step (State.memReset_frame ..)
      (Frame.step (State.bare_frame ..) (.refl _))))) fun h0 => ?_
  refine Frame.withVar x1 (Frame.record h0 rfl rfl (.inr rfl) (.inr rfl) (.inr rfl) (.inr rfl) (.inr rfl)) fun h1 => ?_
  exact (Frame.step (State.setBoot_frame ..) h1)

theorem State.devResetAsked_frame (s : State) :
    Frame { mem := true, cells := true, mer := true, keys := true, runs := true, fab := true } s (State.devResetAsked s).1 := by
  unfold State.devResetAsked
  extract_lets _
  exact (Frame.ite1 (Frame.fst (Frame.step (State.setFld_frame ..) (Frame.record (.refl _) rfl rfl (.inr rfl) (.inr rfl) (.inr rfl) (.inr
      rfl) (.inr rfl)))) (Frame.fst (Frame.step (State.devReset_frame ..) (.refl _))))

theorem State.hcopyFail_frame (s : State) (g : Nat) (cid : Nat) (cause : Nat) (detail : Nat) :
    Frame {} s (State.hcopyFail s g cid cause detail) := by
  unfold State.hcopyFail
  extract_lets x0 _ x1
  refine Frame.withVar x0 (Frame.step (State.hbmNote_frame ..) (.refl _)) fun h0 => ?_
  refine Frame.withVar x1 (Frame.step (State.faultRecord_frame ..) h0) fun h1 => ?_
  exact (Frame.step (State.complete_frame ..) h1)

theorem State.dmaFailed_frame (s : State) (k : Nat) (j : DmaJob) (cause : Nat) :
    Frame { mem := true, fab := true } s (State.dmaFailed s k j cause) := by
  unfold State.dmaFailed
  extract_lets x0 x1
  refine Frame.withVar x0 (Frame.record (.refl _) rfl rfl (.inr rfl) (.inr rfl) (.inr rfl) (.inr rfl) (.inr rfl)) fun h0 => ?_
  refine Frame.withVar x1.2 (Frame.step (State.freshBytes_frame ..) h0) fun h1 => ?_
  split
  · exact (Frame.record (.refl _) rfl rfl (.inr rfl) (.inr rfl) (.inr rfl) (.inr rfl) (.inr rfl))
  · extract_lets _
    split
    · exact h0
    · extract_lets x2
      refine Frame.withVar x2 (Frame.ite (Frame.step (State.storeData_frame ..) h1) h0) fun h2 => ?_
      exact (Frame.step (State.hcopyFail_frame ..) h2)
  · split
    · exact h0
    · extract_lets x3
      refine Frame.withVar x3 (Frame.ite (Frame.step (State.storeData_frame ..) h1) h0) fun h3 => ?_
      exact (Frame.step (State.loadReadFails_frame ..) h3)
  · extract_lets _
    exact (Frame.step (State.completeStatus_frame ..) (Frame.step (State.faultRecord_frame ..) h0))

theorem State.dmaTimeout_frame (s : State) (k : Nat) :
    Frame { mem := true, fab := true } s (State.dmaTimeout s k) := by
  unfold State.dmaTimeout
  extract_lets _
  split
  · exact (.refl _)
  · extract_lets _ x0 _ x1 x2
    refine Frame.withVar x0 (Frame.step (State.advanceTo_frame ..) (.refl _)) fun h0 => ?_
    refine Frame.withVar x1 (Frame.record h0 rfl rfl (.inr rfl) (.inr rfl) (.inr rfl) (.inr rfl) (.inr rfl)) fun h1 => ?_
    refine Frame.withVar x2 (Frame.step (State.count_frame ..) (Frame.step (State.addFld_frame ..) h1)) fun h2 => ?_
    exact (Frame.ite (.refl _) (Frame.step (State.dmaFailed_frame ..) (Frame.step (State.dmaNote_frame ..) h2)))

theorem execIdleExpire_frame (kind : Nat) (idx : Nat) (s : State) :
    FrameN {} s (execIdleExpire kind idx s) := by
  unfold execIdleExpire
  exact (FrameN.next (Frame.step (State.idleExpire_frame ..) (.refl _)))

theorem State.laneRegain_frame (s : State) (rhumb : Bool) (p : Nat) (l : Nat) :
    Frame {} s (State.laneRegain s rhumb p l) := by
  unfold State.laneRegain
  exact (Frame.ite (.refl _) (Frame.ite (Frame.step (State.setFld_frame ..) (.refl _)) (Frame.step (State.setLock_frame ..) (.refl _))))

theorem execLaneLockRegain_frame (rhumb : Bool) (port : Nat) (lane : Nat) (s : State) :
    FrameN {} s (execLaneLockRegain rhumb port lane s) := by
  unfold execLaneLockRegain
  exact (FrameN.next (Frame.step (State.laneRegain_frame ..) (.refl _)))

theorem State.esmcTx_frame (s : State) :
    Frame { mer := true } s (State.esmcTx s) := by
  unfold State.esmcTx
  extract_lets x0 _ x1
  refine Frame.withVar x0 (Frame.step (State.advanceTo_frame ..) (.refl _)) fun h0 => ?_
  refine Frame.withVar x1 (Frame.record h0 rfl rfl (.inr rfl) (.inl rfl) (.inr rfl) (.inr rfl) (.inr rfl)) fun h1 => ?_
  exact (Frame.foldl (fun _ _ => (Frame.step (State.merSend_frame ..) (.refl _))) h1)

theorem State.sendTd_frame (s : State) (c : Nat) (n : Nat) (sym : Nat) (f : CellCfg) (l : List Item) (a : Nat) :
    Frame { cells := true } s (State.sendTd s c n sym f l a) := by
  unfold State.sendTd
  extract_lets _ _
  exact (Frame.foldl (fun _ _ => (by
      extract_lets _
      exact (Frame.step (State.sendFh_frame ..) (.refl _)))) (.refl _))

theorem State.cancelAhead_frame (s : State) (g : Nat) (pos : Option Nat) :
    FrameO {} s (State.cancelAhead s g pos) := by
  unfold State.cancelAhead
  split
  · extract_lets _
    exact (FrameO.ite (FrameO.some (Frame.record (.refl _) rfl rfl (.inr rfl) (.inr rfl) (.inr rfl) (.inr rfl) (.inr rfl))) FrameO.none)
  · exact FrameO.none

theorem State.failModels_frame (s : State) (x : PhyCtx) (l : List (Nat × Item)) :
    Frame { mem := true, cells := true } s (State.failModels s x l) := by
  unfold State.failModels
  exact (Frame.foldl (fun _ _ => (Frame.ite (Frame.step (State.ulTbFails_frame ..) (.refl _)) (.refl _))) (.refl _))

theorem State.probe_frame (s : State) (node : Nat) :
    Frame { fab := true } s (State.probe s node) := by
  unfold State.probe
  extract_lets _
  exact (Frame.ite (by
      split
      · exact (.refl _)
      · split
        · exact (Frame.step (State.count_frame ..) (FrameO.get (by assumption) (FrameO.step (State.sendOp_frame ..) (.refl _))))
        · exact (.refl _)) (.refl _))

theorem execProbeTimer_frame (node : Nat) (s : State) :
    FrameN { fab := true } s (execProbeTimer node s) := by
  unfold execProbeTimer
  exact (FrameN.next (Frame.step (State.probe_frame ..) (.refl _)))

theorem State.linkKeyUpdate_frame (s : State) (p : Nat) :
    Frame {} s (State.linkKeyUpdate s p) := by
  unfold State.linkKeyUpdate
  extract_lets _
  exact (Frame.ite (Frame.step (State.count_frame ..) (Frame.step (State.setRhb_frame ..) (.refl _))) (.refl _))

theorem execPldmTransfer_frame (component : Nat) (image : Option Image) (flashOk : Bool) (s : State) :
    FrameN {} s (execPldmTransfer component image flashOk s) := by
  unfold execPldmTransfer
  exact (FrameN.next (Frame.step (State.pldmTransfer_frame ..) (.refl _)))

theorem State.d2dFault_frame (s : State) :
    Frame { cells := true, mer := true, runs := true, fab := true } s (State.d2dFault s) := by
  unfold State.d2dFault
  extract_lets _
  exact (Frame.ite (Frame.step (State.endService_frame ..) (Frame.step (State.faultRecord_frame ..) (.refl _))) (.refl _))

theorem State.exchange_frame (s : State) (node : Nat) (peers : List PeerEntry) :
    Frame { fab := true } s (State.exchange s node peers) := by
  unfold State.exchange
  extract_lets _
  exact (Frame.foldl (fun _ _ => (Frame.step (State.markStale_frame ..) (.refl _))) (.refl _))

theorem State.pickFree_frame {α : Type} (s : State) (t : Tab α) (total : Nat) :
    Frame {} s (State.pickFree s t total).2 := by
  unfold State.pickFree
  extract_lets x0 _
  refine Frame.withVar x0.2 (Frame.step (State.fresh_frame ..) (.refl _)) fun h0 => ?_
  split
  · exact (Frame.snd h0)
  · exact (Frame.snd h0)

theorem State.ownerStarted_frame (s : State) (o : RunOwner) :
    Frame {} s (State.ownerStarted s o) := by
  unfold State.ownerStarted
  split
  · exact (.refl _)
  · split
    · exact (Frame.step (State.stageCmd_frame ..) (.refl _))
    · exact (.refl _)

theorem State.startCheck_frame (s : State) (r : Nat) (x : Run) (c : Chart) :
    Frame { runs := true } s (State.startCheck s r x c) := by
  unfold State.startCheck
  exact (Frame.ite (Frame.step (State.failRun_frame ..) (.refl _)) (by
      split
      · exact (Frame.step (State.failRun_frame ..) (.refl _))
      · split
        · exact (Frame.step (State.failRun_frame ..) (.refl _))
        · split
          · exact (Frame.step (State.quantumExceeded_frame ..) (.refl _))
          · exact (.refl _)))

theorem State.noteOverlap_frame (s : State) (r : Nat) (x : Run) :
    Frame { runs := true } s (State.noteOverlap s r x) := by
  unfold State.noteOverlap
  extract_lets _
  exact (Frame.record (.refl _) rfl rfl (.inr rfl) (.inr rfl) (.inr rfl) (.inl rfl) (.inr rfl))

theorem State.runStart_frame (s : State) :
    Frame { runs := true } s (State.runStart s) := by
  unfold State.runStart
  split
  · exact (.refl _)
  · split
    · extract_lets _ x0 x1
      refine Frame.withVar x0 (Frame.step (State.ownerStarted_frame ..) (Frame.record (Frame.ofSnd (by assumption) (Frame.step
          (State.pickFree_frame ..) (.refl _))) rfl rfl (.inr rfl) (.inr rfl) (.inr rfl) (.inr rfl) (.inr rfl))) fun h0 => ?_
      refine Frame.withVar x1 (Frame.step (State.countHelm_frame ..) (Frame.step (State.setRun_frame ..) h0)) fun h1 => ?_
      exact (Frame.step (State.startCheck_frame ..) (Frame.step (State.noteOverlap_frame ..) h1))
    · exact (.refl _)

theorem State.fifoLook_frame (s : State) (a : Nat) (sp : Nat) :
    Frame {} s (State.fifoLook s a sp) := by
  unfold State.fifoLook
  extract_lets x0 x1
  refine Frame.withVar x0 (Frame.step (State.setFld_frame ..) (.refl _)) fun h0 => ?_
  refine Frame.withVar x1 (Frame.step (State.setFld_frame ..) h0) fun h1 => ?_
  exact (Frame.ite (Frame.record h1 rfl rfl (.inr rfl) (.inr rfl) (.inr rfl) (.inr rfl) (.inr rfl)) (Frame.ite (Frame.step
      (State.setFld_frame ..) (Frame.step (State.setFld_frame ..) (.refl _))) (.refl _)))

theorem State.wakeLate_frame (s : State) (g : Nat) :
    Frame {} s (State.wakeLate s g) := by
  unfold State.wakeLate
  extract_lets _
  split
  · exact (.refl _)
  · exact (Frame.ite (.refl _) (Frame.step (State.faultRecord_frame ..) (Frame.step (State.raise_frame ..) (Frame.step
        (State.advanceTo_frame ..) (.refl _)))))

theorem execWakeLate_frame (group : Nat) (s : State) :
    FrameN {} s (execWakeLate group s) := by
  unfold execWakeLate
  exact (FrameN.next (Frame.step (State.wakeLate_frame ..) (.refl _)))

theorem State.coresServe_frame {c : Changes} {f : State → State} (hf : ∀ t, Frame c t (f t)) (s : State) :
    Frame c s (s.coresServe f) := by
  unfold State.coresServe
  exact Frame.ite (Frame.trans (hf _) (Frame.step0 (State.wakeCores_frame ..) (.refl _))) (.refl _)

theorem State.degradedAppend_frame (s : State) (flashOk : Bool) :
    Frame {} s (State.degradedAppend s flashOk) := by
  unfold State.degradedAppend
  extract_lets x0 _ x1
  refine Frame.withVar x0 (Frame.step (State.advanceTo_frame ..) (.refl _)) fun h0 => ?_
  refine Frame.withVar x1 (Frame.record h0 rfl rfl (.inr rfl) (.inr rfl) (.inr rfl) (.inr rfl) (.inr rfl)) fun h1 => ?_
  split
  · exact (.refl _)
  · extract_lets _ _
    exact (Frame.ite (Frame.step (State.flashFails_frame ..) h1) (Frame.step (State.count_frame ..) (Frame.step (State.setFld_frame ..)
        (Frame.record h1 rfl rfl (.inr rfl) (.inr rfl) (.inr rfl) (.inr rfl) (.inr rfl)))))

theorem State.mirrorNow_frame (s : State) (flashOk : Bool) :
    Frame {} s (State.mirrorNow s flashOk) := by
  unfold State.mirrorNow
  exact (Frame.trans (State.coresServe_frame (fun _ => (Frame.ite (Frame.step (State.degradedAppend_frame ..) (.refl _)) (Frame.step
      (State.mirrorWrite_frame ..) (.refl _)))) ..) (.refl _))

theorem execMirrorNow_frame (flashOk : Bool) (s : State) :
    FrameN {} s (execMirrorNow flashOk s) := by
  unfold execMirrorNow
  exact (FrameN.next (Frame.step (State.mirrorNow_frame ..) (.refl _)))

theorem State.ppsFall_frame (s : State) :
    Frame { mer := true } s (State.ppsFall s) := by
  unfold State.ppsFall
  extract_lets x0 _
  refine Frame.withVar x0 (Frame.step (State.advanceTo_frame ..) (.refl _)) fun h0 => ?_
  exact (Frame.ite (Frame.record h0 rfl rfl (.inr rfl) (.inl rfl) (.inr rfl) (.inr rfl) (.inr rfl)) (.refl _))

theorem execPpsOutFall_frame (s : State) :
    FrameN { mer := true } s (execPpsOutFall s) := by
  unfold execPpsOutFall
  exact (FrameN.next (Frame.step (State.ppsFall_frame ..) (.refl _)))

theorem State.wakeTimeout_frame (s : State) (kind : Nat) (idx : Nat) :
    Frame {} s (State.wakeTimeout s kind idx) := by
  unfold State.wakeTimeout
  extract_lets _ x0 _
  refine Frame.withVar x0 (Frame.step (State.advanceTo_frame ..) (.refl _)) fun h0 => ?_
  exact (Frame.ite (.refl _) (by
      split
      · exact (.refl _)
      · exact (Frame.step (State.faultRecord_frame ..) (Frame.step (State.raise_frame ..) h0))))

theorem State.admitCfg_frame (s : State) (c : Nat) (f : CellCfg) :
    Frame {} s (State.admitCfg s c f).2 := by
  unfold State.admitCfg
  extract_lets _ _ _
  exact (Frame.snd (Frame.step (State.noteRequest_frame ..) (Frame.ite (.refl _) (Frame.step (State.raise_frame ..) (.refl _)))))

theorem State.loadChart_frame (s : State) (g : Nat) (cid : Nat) :
    Frame {} s (State.loadChart s g cid) := by
  unfold State.loadChart
  extract_lets _
  split
  · exact (.refl _)
  · extract_lets _ _
    split
    · exact (Frame.step (State.loadRefused_frame ..) (.refl _))
    · split
      · exact (Frame.ofSnd (by assumption) (Frame.step (State.pickFree_frame ..) (.refl _)))
      · split
        · exact (Frame.step (State.dmaWaits_frame ..) (Frame.ofSnd (by assumption) (Frame.step (State.pickFree_frame ..) (.refl _))))
        · exact (Frame.step (State.stageCmd_frame ..) (Frame.record (FrameO.get (by assumption) (FrameO.step (State.dmaRead_frame ..)
              (Frame.ofSnd (by assumption) (Frame.step (State.pickFree_frame ..) (.refl _))))) rfl rfl (.inr rfl) (.inr rfl) (.inr rfl)
              (.inr rfl) (.inr rfl)))

theorem State.mapDisables_frame (s : State) (l : List DevUnit) (cause : Nat) :
    Frame {} s (State.mapDisables s l cause) := by
  unfold State.mapDisables
  extract_lets x0
  refine Frame.withVar x0 (Frame.step (State.noteMap_frame ..) (.refl _)) fun h0 => ?_
  exact (Frame.step (State.mapApply_frame ..) (Frame.record h0 rfl rfl (.inr rfl) (.inr rfl) (.inr rfl) (.inr rfl) (.inr rfl)))

theorem State.pllGone_frame (s : State) (p : Nat) :
    Frame { mem := true, cells := true, mer := true, runs := true, fab := true } s (State.pllGone s p) := by
  unfold State.pllGone
  extract_lets x0 x1 x2
  refine Frame.withVar x0 (Frame.step (State.mapDisables_frame ..) (.refl _)) fun h0 => ?_
  refine Frame.withVar x1 (Frame.foldl (fun _ _ => (Frame.step (State.reformPort_frame ..) (.refl _))) h0) fun h1 => ?_
  refine Frame.withVar x2 (Frame.foldl (fun _ _ => Frame.step (State.portDown_frame ..) (.refl _)) h1) fun h2 => ?_
  exact (Frame.ite (Frame.step (State.shedDecision_frame ..) (Frame.step (State.markUncovered_frame ..) (Frame.step (State.raise_frame ..)
      h0))) (Frame.ite (Frame.step (State.shedAll_frame ..) (Frame.step (State.endUplink_frame ..) (Frame.step (State.raise_frame ..) h0)))
      (Frame.ite (Frame.foldl (fun _ _ => (Frame.step (State.pcieLinkReset_frame ..) (.refl _))) h2) (Frame.step (State.setFld_frame ..)
      h0))))

theorem State.writeFactory_frame (s : State) (img : ImageRead) (flashOk : Bool) :
    Frame {} s (State.writeFactory s img flashOk) := by
  unfold State.writeFactory
  extract_lets _ x0
  refine Frame.withVar x0.2 (Frame.step (State.fresh_frame ..) (.refl _)) fun h0 => ?_
  exact (Frame.ite (Frame.step (State.almAnswer_frame ..) h0) (by
      split
      · exact (Frame.step (State.almAnswer_frame ..) (.refl _))
      · split
        · exact (Frame.step (State.almAnswer_frame ..) (.refl _))
        · extract_lets x1
          refine Frame.withVar x1.1 (Frame.step (State.writeSlot_frame ..) (.refl _)) fun h1 => ?_
          exact (Frame.ite (Frame.step (State.almAnswer_frame ..) (Frame.step (State.flashFails_frame ..) (Frame.step (State.slotTorn_frame
              ..) (.refl _)))) (Frame.step (State.almAnswer_frame ..) h1))))

theorem State.factoryGo_frame (s : State) (images : ImageRead) (flashOk : Bool) :
    Frame {} s (State.factoryGo s images flashOk) := by
  unfold State.factoryGo
  exact (Frame.trans (State.almGo_frame (fun _ => (Frame.trans (State.withUpdate_frame (fun _ => (Frame.step (State.writeFactory_frame ..)
      (.refl _))) ..) (.refl _))) ..) (.refl _))

theorem State.setStep_frame (s : State) (loaded : Nat) (set : Bool) (step : Bool) :
    Frame { mer := true } s (State.setStep s loaded set step) := by
  unfold State.setStep
  extract_lets _ _ x0
  refine Frame.withVar x0 (Frame.step (State.stepTo_frame ..) (.refl _)) fun h0 => ?_
  exact (Frame.ite (Frame.step (State.setFld_frame ..) h0) h0)

theorem execDecompParity_frame (cell : Nat) (n : Nat) (sym : Nat) (s : State) :
    FrameN { mem := true, cells := true } s (execDecompParity cell n sym s) := by
  unfold execDecompParity
  exact (FrameN.next (Frame.step (State.decompParity_frame ..) (.refl _)))

theorem execLeaseExpire_frame (node : Nat) (s : State) :
    FrameN { fab := true } s (execLeaseExpire node s) := by
  unfold execLeaseExpire
  exact (FrameN.next (Frame.step (State.leaseExpire_frame ..) (.refl _)))

theorem State.invalidation_frame (s : State) (node : Nat) (engine : Nat) (tag : Nat) (addr : Nat) (len : Nat) :
    Frame { fab := true } s (State.invalidation s node engine tag addr len) := by
  unfold State.invalidation
  extract_lets x0
  refine Frame.withVar x0 (Frame.step (State.addFld_frame ..) (Frame.step (State.heard_frame ..) (.refl _))) fun h0 => ?_
  split
  · exact (Frame.step (State.sendRsp_frame ..) (Frame.step (State.dropRange_frame ..) h0))
  · extract_lets x1
    refine Frame.withVar x1.1 (Frame.step (State.startDrops_frame ..) h0) fun h1 => ?_
    exact (Frame.ite (Frame.step (State.sendRsp_frame ..) h1) h1)

theorem State.sendSymbol_frame (s : State) (c : Nat) (n : Nat) (sym : Nat) (f : CellCfg) (l : List Item) :
    Frame { cells := true } s (State.sendSymbol s c n sym f l) := by
  unfold State.sendSymbol
  exact (Frame.foldl (fun _ _ => (Frame.ite (Frame.step (State.sendTd_frame ..) (.refl _)) (Frame.foldl (fun _ _ => (Frame.step
      (State.sendSections_frame ..) (.refl _))) (.refl _)))) (.refl _))

theorem State.dlDone_frame (s : State) (c : Nat) (n : Nat) (sym : Nat) (j : SlotJob) :
    Frame { mem := true, cells := true } s (State.dlDone s c n sym j) := by
  unfold State.dlDone
  exact (Frame.foldl (fun _ _ => (by
      split
      · exact (Frame.ite (Frame.step (State.dlItemEnds_frame ..) (.refl _)) (.refl _))
      · exact (.refl _))) (.refl _))

theorem State.uplaneEmit_frame (s : State) (c : Nat) (n : Nat) (sym : Nat) :
    Frame { mem := true, cells := true } s (State.uplaneEmit s c n sym) := by
  unfold State.uplaneEmit
  extract_lets _
  split
  · extract_lets _ _ _ x0 _ x1 x2
    refine Frame.withVar x0 (Frame.step (State.untilTai_frame ..) (.refl _)) fun h0 => ?_
    refine Frame.withVar x1 (Frame.ite h0 (Frame.step (State.sendSymbol_frame ..) h0)) fun h1 => ?_
    refine Frame.withVar x2 (Frame.step (State.modSlotJob_frame ..) h1) fun h2 => ?_
    exact (Frame.ite (Frame.step (State.dlDone_frame ..) (Frame.step (State.dropUnready_frame ..) h2)) (.refl _))
  · exact (.refl _)

theorem execUplaneEmit_frame (cell : Nat) (n : Nat) (sym : Nat) (s : State) :
    FrameN { mem := true, cells := true } s (execUplaneEmit cell n sym s) := by
  unfold execUplaneEmit
  exact (FrameN.next (Frame.step (State.uplaneEmit_frame ..) (.refl _)))

theorem State.dropRunt_frame (s : State) (sp : Nat) :
    Frame {} s (State.dropRunt s sp) := by
  unfold State.dropRunt
  exact (Frame.step (State.rxDrop_frame ..) (.refl _))

theorem State.dropOversize_frame (s : State) (sp : Nat) :
    Frame {} s (State.dropOversize s sp) := by
  unfold State.dropOversize
  exact (Frame.step (State.rxDrop_frame ..) (.refl _))

theorem State.dropPause_frame (s : State) (sp : Nat) :
    Frame {} s (State.dropPause s sp) := by
  unfold State.dropPause
  exact (Frame.step (State.rxDrop_frame ..) (.refl _))

theorem State.dropNomatch_frame (s : State) (sp : Nat) :
    Frame {} s (State.dropNomatch s sp) := by
  unfold State.dropNomatch
  exact (Frame.step (State.rxDrop_frame ..) (.refl _))

theorem State.mark_frame (s : State) (e : Nat) (f : EthFrame) :
    Frame {} s (State.mark s e f).2 := by
  unfold State.mark
  extract_lets _ _ _ _
  exact (Frame.ite2 (Frame.snd (Frame.record (.refl _) rfl rfl (.inr rfl) (.inr rfl) (.inr rfl) (.inr rfl) (.inr rfl))) (Frame.snd (.refl
      _)))

theorem State.dropPoliced_frame (s : State) (sp : Nat) :
    Frame {} s (State.dropPoliced s sp) := by
  unfold State.dropPoliced
  exact (Frame.step (State.rxDrop_frame ..) (.refl _))

theorem State.seqCheck_frame (s : State) (m : FhMatch) (fr : FhFrame) :
    Frame { cells := true } s (State.seqCheck s m fr) := by
  unfold State.seqCheck
  extract_lets _ _ x0
  refine Frame.withVar x0 (Frame.step (State.modCell_frame ..) (.refl _)) fun h0 => ?_
  exact (Frame.ite (.refl _) (Frame.ite (Frame.step (State.fhStat_frame ..) h0) h0))

theorem State.placeSamples_frame (s : State) (now : Nat) (m : FhMatch) (fr : FhFrame) :
    Frame { mem := true, cells := true } s (State.placeSamples s now m fr) := by
  unfold State.placeSamples
  extract_lets _ _ _ _ _ _ _ x0
  refine Frame.withVar x0 (Frame.foldl (fun _ _ => (by
      extract_lets _
      exact (Frame.step (State.modCell_frame ..) (Frame.step (State.store_frame ..) (.refl _))))) (.refl _)) fun h0 => ?_
  exact (Frame.ite (Frame.step (State.addFld_frame ..) (Frame.step (State.fhStat_frame ..) (.refl _))) (Frame.step (State.count_frame ..)
      (Frame.step (State.fhStat_frame ..) (Frame.step (State.addFld_frame ..) h0))))

theorem State.placeSection_frame (s : State) (m : FhMatch) (x : FhSection) :
    Frame { mem := true, cells := true } s (State.placeSection s m x) := by
  unfold State.placeSection
  extract_lets _ _ _ _ _ x0 x1
  refine Frame.withVar x0 (Frame.step (State.modCell_frame ..) (Frame.step (State.store_frame ..) (.refl _))) fun h0 => ?_
  refine Frame.withVar x1 (Frame.step (State.count_frame ..) (Frame.step (State.fhStat_frame ..) (Frame.step (State.fhStat_frame ..) h0)))
      fun h1 => ?_
  exact (Frame.ite (Frame.step (State.addFld_frame ..) (Frame.step (State.fhStat_frame ..) (.refl _))) (Frame.step (State.count_frame ..)
      h1))

theorem State.fhReceive_frame (s : State) (now : Nat) (key : Nat × Nat) (sa : Option Nat) (fr : FhFrame) :
    Frame { mem := true, cells := true } s (State.fhReceive s now key sa fr) := by
  unfold State.fhReceive
  exact (Frame.ite (Frame.step (State.addFld_frame ..) (.refl _)) (by
      split
      · exact (Frame.step (State.addFld_frame ..) (.refl _))
      · extract_lets _ x0 _ x1
        refine Frame.withVar x0 (Frame.step (State.seqCheck_frame ..) (.refl _)) fun h0 => ?_
        refine Frame.withVar x1 (Frame.ite (Frame.step (State.addFld_frame ..) h0) h0) fun h1 => ?_
        exact (Frame.ite (Frame.step (State.addFld_frame ..) (.refl _)) (Frame.ite (Frame.step (State.addFld_frame ..) (Frame.step
            (State.fhStat_frame ..) h0)) (Frame.ite (Frame.step (State.count_frame ..) (Frame.step (State.addFld_frame ..) (Frame.step
            (State.fhStat_frame ..) h0))) (Frame.ite (Frame.step (State.count_frame ..) (Frame.step (State.addFld_frame ..) (Frame.step
            (State.fhStat_frame ..) h0))) (Frame.ite (Frame.step (State.addFld_frame ..) (Frame.step (State.fhStat_frame ..) h0))
            (Frame.ite (Frame.step (State.placeSamples_frame ..) h0) (Frame.foldl (fun _ _ => (Frame.step (State.placeSection_frame ..)
            (.refl _))) h1)))))))))

theorem State.rxSteered_frame (s : State) (sp : Nat) (e : Nat) (f : EthFrame) (sd : Option Nat) (n : Nat) (cut : Nat) :
    Frame { mem := true, cells := true } s (State.rxSteered s sp e f sd n cut) := by
  unfold State.rxSteered
  extract_lets _ x0 _ x1 x2 x3 y4 x5
  refine Frame.withVar x0 (Frame.step (State.count_frame ..) (Frame.step (State.count_frame ..) (.refl _))) fun h0 => ?_
  refine Frame.withVar x1.2 (Frame.step (State.mark_frame ..) h0) fun h1 => ?_
  refine Frame.withVar x2 h1 fun h2 => ?_
  refine Frame.withVar x3 (Frame.ite (Frame.step (State.count_frame ..) h2) (Frame.ite (Frame.step (State.count_frame ..) h2) h2)) fun h3
      => ?_
  refine Frame.withVar x5 (Frame.step (State.dropPoliced_frame ..) h3) fun h5 => ?_
  exact (Frame.ite (by
      clear_value y4
      split
      · extract_lets _
        exact (Frame.step (State.rxGranule_frame ..) h5)
      · exact h5) (Frame.ite (by
      split
      · exact (Frame.ite (Frame.step (State.fhReceive_frame ..) h3) (Frame.step (State.addFld_frame ..) h3))
      · exact (Frame.step (State.addFld_frame ..) h3)) (by
      clear_value y4
      split
      · exact (Frame.step (State.rxDeliver_frame ..) h3)
      · exact (Frame.step (State.dropNomatch_frame ..) h3))))

theorem State.secVerify_frame (s : State) (sp : Nat) (x : EthSec) (d : Nat) (t : State) (e : s.secVerify sp x = .ok (d, t)) :
    Frame {} s t := by
  unfold State.secVerify at e
  repeat' split at e
  all_goals try dsimp only at e
  all_goals cases e
  exact Frame.record (.refl _) rfl rfl (.inr rfl) (.inr rfl) (.inr rfl) (.inr rfl) (.inr rfl)

theorem State.dropMacsec_frame (s : State) (sp : Nat) (d : Option Nat) :
    Frame {} s (State.dropMacsec s sp d) := by
  unfold State.dropMacsec
  extract_lets x0
  refine Frame.withVar x0 (Frame.step (State.rxDrop_frame ..) (.refl _)) fun h0 => ?_
  split
  · exact (Frame.step (State.count_frame ..) h0)
  · exact h0

theorem State.rxAccepted_frame (s : State) (sp : Nat) (f : EthFrame) (n : Nat) (cut : Nat) :
    Frame { mem := true, cells := true } s (State.rxAccepted s sp f n cut) := by
  unfold State.rxAccepted
  extract_lets x0 x1
  refine Frame.withVar x0 (Frame.step (State.addFld_frame ..) (.refl _)) fun h0 => ?_
  refine Frame.withVar x1 (Frame.step (State.count_frame ..) (Frame.step (State.count_frame ..) h0)) fun h1 => ?_
  split
  · exact (Frame.ite (Frame.step (State.dropPause_frame ..) h1) (Frame.ite h1 (by
        split
        · exact (Frame.step (State.dropNomatch_frame ..) h1)
        · exact (Frame.step (State.rxSteered_frame ..) h1))))
  · split
    · extract_lets x2
      refine Frame.withVar x2 (Frame.step (State.dropMacsec_frame ..) h1) fun h2 => ?_
      exact (Frame.ite (Frame.step (State.rxCut_frame ..) h2) h2)
    · split
      · exact (Frame.ite (Frame.step (State.dropMacsec_frame ..) (Frame.step (State.secVerify_frame _ _ _ _ _ (by assumption)) h1))
            (Frame.step (State.dropNomatch_frame ..) (Frame.step (State.secVerify_frame _ _ _ _ _ (by assumption)) h1)))
      · exact (Frame.step (State.rxSteered_frame ..) (Frame.step (State.secVerify_frame _ _ _ _ _ (by assumption)) h1))

theorem State.rxFrame_frame (s : State) (sp : Nat) (f : EthFrame) (n : Nat) (cut : Nat) :
    Frame { mem := true, cells := true } s (State.rxFrame s sp f n cut) := by
  unfold State.rxFrame
  extract_lets _ x0 x1
  refine Frame.withVar x0 (Frame.step (State.dropOversize_frame ..) (.refl _)) fun h0 => ?_
  refine Frame.withVar x1 (Frame.step (State.dropFcs_frame ..) (.refl _)) fun h1 => ?_
  exact (Frame.ite (.refl _) (Frame.ite (Frame.step (State.dropFull_frame ..) (.refl _)) (Frame.ite (Frame.step (State.dropRunt_frame ..)
      (.refl _)) (Frame.ite (Frame.ite (Frame.step (State.rxBroken_frame ..) h0) h0) (Frame.ite (Frame.ite (Frame.step
      (State.rxBroken_frame ..) h1) h1) (Frame.step (State.rxAccepted_frame ..) (.refl _)))))))

theorem execRxMemWaitExpire_frame (subport : Nat) (frame : EthFrame) (written : Nat) (s : State) :
    FrameN { mem := true, cells := true } s (execRxMemWaitExpire subport frame written s) := by
  unfold execRxMemWaitExpire
  exact (FrameN.next (Frame.trans (State.beforeWrites_frame (fun _ => (Frame.step (State.rxFrame_frame ..) (.refl _))) ..) (.refl _)))

theorem execKeyUpdate_frame (session : Nat) (aeadOk : Bool) (s : State) :
    FrameN {} s (execKeyUpdate session aeadOk s) := by
  unfold execKeyUpdate
  exact (FrameN.next (Frame.trans (State.secured_frame (fun _ _ => (Frame.step (State.send_frame ..) (.refl _))) ..) (.refl _)))

theorem State.putUci_frame (s : State) (x : PhyCtx) (k : Nat) (p : Nat) (bits : List Bool) (ok : Bool) :
    Frame { cells := true } s (State.putUci s x k p bits ok) := by
  unfold State.putUci
  exact (Frame.step (State.modItem_frame ..) (.refl _))

theorem State.puschUci_frame (s : State) (x : PhyCtx) (k : Nat) :
    Frame { cells := true } s (State.puschUci s x k) := by
  unfold State.puschUci
  split
  · exact (.refl _)
  · exact (Frame.ite (Frame.foldl (fun _ _ => (Frame.step (State.putUci_frame ..) (.refl _))) (.refl _)) (.refl _))

theorem State.eqItem_frame (s : State) (x : PhyCtx) (sym : Nat) (out : List (Nat × List Layer × List EqOut)) (k : Nat) (i : Item) :
    Frame { mem := true, cells := true } s (State.eqItem s x sym out k i) := by
  unfold State.eqItem
  extract_lets _ _ _ _ _ x0
  refine Frame.withVar x0 (Frame.step (State.modItem_frame ..) (.refl _)) fun h0 => ?_
  exact (Frame.step (State.puschUci_frame ..) (Frame.step (State.queueBlocks_frame ..) h0))

theorem State.equalizeItems_frame (s : State) (x : PhyCtx) (sym : Nat) (good : List (Nat × Item)) :
    Frame { mem := true, cells := true } s (State.equalizeItems s x sym good) := by
  unfold State.equalizeItems
  extract_lets _ _ _ _ _ _ x0 x1 x2
  refine Frame.withVar x0 (Frame.step (State.chargeRadio_frame ..) (Frame.step (State.addFld_frame ..) (Frame.step (State.wait_frame ..)
      (.refl _)))) fun h0 => ?_
  refine Frame.withVar x1 (Frame.step (State.count_frame ..) (Frame.step (State.count_frame ..) (Frame.step (State.count_frame ..) h0)))
      fun h1 => ?_
  refine Frame.withVar x2 (Frame.step (State.count_frame ..) (Frame.step (State.count_frame ..) h1)) fun h2 => ?_
  exact (Frame.foldl (fun _ _ => (Frame.step (State.eqItem_frame ..) (.refl _))) h2)

theorem State.equalizeSym_frame (s : State) (c : Nat) (n : Nat) (sym : Nat) :
    Frame { mem := true, cells := true } s (State.equalizeSym s c n sym) := by
  unfold State.equalizeSym
  extract_lets _
  split
  · extract_lets _ _ x0 _ _ x1
    refine Frame.withVar x0 (Frame.step (State.failModels_frame ..) (Frame.step (State.meetErrors_frame ..) (.refl _))) fun h0 => ?_
    refine Frame.withVar x1 (Frame.foldl (fun _ _ => (Frame.step (State.ulMemFails_frame ..) (.refl _))) h0) fun h1 => ?_
    exact (Frame.ite (.refl _) (Frame.ite h1 (Frame.step (State.equalizeItems_frame ..) h1)))
  · exact (.refl _)

theorem execQlTimeout_frame (subport : Nat) (s : State) :
    FrameN { mer := true } s (execQlTimeout subport s) := by
  unfold execQlTimeout
  exact (FrameN.next (Frame.step (State.qlTimeout_frame ..) (.refl _)))

theorem State.firstUse_frame (s : State) (sc : Nat) (an : Nat) :
    Frame {} s (State.firstUse s sc an) := by
  unfold State.firstUse
  exact (Frame.ite (Frame.step (State.setFld_frame ..) (.refl _)) (.refl _))

theorem State.tieSa_frame (s : State) (k : Nat) :
    Frame {} s (State.tieSa s k) := by
  unfold State.tieSa
  extract_lets _
  exact (Frame.ite (.refl _) (Frame.step (State.setTie_frame ..) (.refl _)))

theorem State.sakSet_frame (s : State) (d : Nat) (b : List Byte) :
    Frame {} s (State.sakSet s d b).1 := by
  unfold State.sakSet
  extract_lets _ x0 x1 x2
  refine Frame.withVar x0 (Frame.step (State.firstUse_frame ..) (.refl _)) fun h0 => ?_
  refine Frame.withVar x1 (Frame.step (State.tieSa_frame ..) h0) fun h1 => ?_
  refine Frame.withVar x2 (Frame.record h1 rfl rfl (.inr rfl) (.inr rfl) (.inr rfl) (.inr rfl) (.inr rfl)) fun h2 => ?_
  exact (Frame.ite1 (Frame.fst (.refl _)) (Frame.ite1 (Frame.fst (.refl _)) (Frame.ite1 (Frame.fst (.refl _)) (Frame.ite1 (Frame.fst (.refl
      _)) (Frame.fst (Frame.step (State.showAns_frame ..) h2))))))

theorem State.pringWrite_frame (s : State) (v : Nat) :
    Frame {} s (State.pringWrite s v) := by
  unfold State.pringWrite
  extract_lets _ _ _ x0 _
  refine Frame.withVar x0 (Frame.step (State.setReg_frame ..) (.refl _)) fun h0 => ?_
  exact (Frame.ite (Frame.step (State.setFld_frame ..) (.refl _)) (Frame.ite (Frame.ite (Frame.step (State.setRxr_frame ..) h0) (Frame.ite
      (Frame.step (State.setTxq_frame ..) h0) h0)) h0))

theorem execDisable_frame (force : Bool) (s : State) :
    FrameN { mem := true, cells := true, mer := true, runs := true, fab := true } s (execDisable force s) := by
  unfold execDisable
  exact (FrameN.next (Frame.step (State.disableGo_frame ..) (.refl _)))

theorem State.kvLand_frame (s : State) (r : Nat) (i : Nat) (p : Nat) :
    Frame { mem := true, runs := true } s (State.kvLand s r i p) := by
  unfold State.kvLand
  extract_lets _
  split
  · exact (.refl _)
  · extract_lets _ x0 x1 x2
    refine Frame.withVar x0 (Frame.step (State.runStore_frame ..) (.refl _)) fun h0 => ?_
    refine Frame.withVar x1 (Frame.step (State.addFld_frame ..) h0) fun h1 => ?_
    refine Frame.withVar x2 (Frame.step (State.countWork_frame ..) h1) fun h2 => ?_
    exact (Frame.ite (by
        split
        · exact (Frame.step (State.kvFail_frame ..) (.refl _))
        · exact (Frame.step (State.attnAdvance_frame ..) (Frame.step (State.setStream_frame ..) h2))) (.refl _))

theorem State.quarantineEnd_frame (s : State) (fabric : Bool) (id : Nat) :
    Frame { mem := true, fab := true } s (State.quarantineEnd s fabric id) := by
  unfold State.quarantineEnd
  split
  · exact (.refl _)
  · extract_lets x0
    refine Frame.withVar x0 (Frame.step (State.advanceTo_frame ..) (.refl _)) fun h0 => ?_
    exact (Frame.step (State.pumpAll_frame ..) (Frame.record h0 rfl rfl (.inr rfl) (.inr rfl) (.inr rfl) (.inr rfl) (.inr rfl)))

theorem State.rekeyBlock_frame (s : State) (d : Nat) (old : Nat) (new : Nat) (b : Nat) :
    Frame { mem := true } s (State.rekeyBlock s d old new b) := by
  unfold State.rekeyBlock
  extract_lets _ _ _
  exact (Frame.recordMem (.refl _) rfl (Memory.wf_writeBytes _ _ _) rfl (.inr rfl) (.inr rfl) (.inr rfl) (.inr rfl) (.inr rfl))

theorem State.rekey_frame (s : State) (d : Nat) (new : Nat) :
    Frame { mem := true } s (State.rekey s d new) := by
  unfold State.rekey
  extract_lets x0
  refine Frame.withVar x0 (by
      unfold x0
      split
      · exact (.refl _)
      · exact (Frame.ite (.refl _) (Frame.foldl (fun _ _ => (Frame.step (State.rekeyBlock_frame ..) (.refl _))) (.refl _)))) fun h0 => ?_
  exact (Frame.record h0 rfl rfl (.inr rfl) (.inr rfl) (.inr rfl) (.inr rfl) (.inr rfl))

theorem State.installKey_frame (s : State) (d : Nat) (key : Nat) (persist : Bool) :
    Frame { mem := true, keys := true } s (State.installKey s d key persist) := by
  unfold State.installKey
  extract_lets x0 x1 x2 _ x3
  refine Frame.withVar x0 (Frame.step (State.rekey_frame ..) (.refl _)) fun h0 => ?_
  refine Frame.withVar x1 (Frame.record h0 rfl rfl (.inr rfl) (.inr rfl) (.inl rfl) (.inr rfl) (.inr rfl)) fun h1 => ?_
  refine Frame.withVar x2 (Frame.step (State.setFld_frame ..) (Frame.step (State.setActive_frame ..) h1)) fun h2 => ?_
  refine Frame.withVar x3 (Frame.record h2 rfl rfl (.inr rfl) (.inr rfl) (.inr rfl) (.inr rfl) (.inr rfl)) fun h3 => ?_
  exact (Frame.step (State.keyChanged_frame ..) (Frame.step (State.setFld_frame ..) h3))

theorem State.domKeySet_frame (s : State) (d : Nat) (b : List Byte) :
    Frame { mem := true, keys := true } s (State.domKeySet s d b).1 := by
  unfold State.domKeySet
  exact (Frame.ite1 (Frame.fst (.refl _)) (Frame.ite1 (Frame.fst (.refl _)) (Frame.ite1 (Frame.fst (.refl _)) (Frame.fst (Frame.step
      (State.installKey_frame ..) (.refl _))))))

theorem execDomKeySet_frame (session : Nat) (aeadOk : Bool) (req : List Byte) (s : State) :
    FrameN { mem := true, keys := true } s (execDomKeySet session aeadOk req s) := by
  unfold execDomKeySet
  exact (FrameN.next (Frame.trans (State.keyOp_frame (fun _ _ => (Frame.step (State.domKeySet_frame ..) (.refl _))) ..) (.refl _)))

theorem execLoadChart_frame (ring : Nat) (cid : Nat) (s : State) :
    FrameN {} s (execLoadChart ring cid s) := by
  unfold execLoadChart
  exact (FrameN.next (Frame.step (State.loadChart_frame ..) (.refl _)))

theorem State.chartLand_frame (s : State) (id : Nat) (b : List Byte) :
    Frame { mem := true, fab := true } s (State.chartLand s id b) := by
  unfold State.chartLand
  split
  · exact (.refl _)
  · extract_lets x0
    refine Frame.withVar x0 (Frame.step (State.dmaBytes_frame ..) (Frame.step (State.storeData_frame ..) (.refl _))) fun h0 => ?_
    split
    · exact (Frame.step (State.loadReadFails_frame ..) (.refl _))
    · exact (Frame.record h0 rfl rfl (.inr rfl) (.inr rfl) (.inr rfl) (.inr rfl) (.inr rfl))

theorem execHighz_frame (s : State) :
    FrameN {} s (execHighz s) := by
  unfold execHighz
  exact (FrameN.next (Frame.step (State.tapOnly_frame ..) (.refl _)))

theorem execBusRecovery_frame (pulses : Option Nat) (afterStop : Bool) (s : State) :
    FrameN {} s (execBusRecovery pulses afterStop s) := by
  unfold execBusRecovery
  exact (FrameN.next (Frame.ite (Frame.step (State.busRecover_frame ..) (.refl _)) (.refl _)))

theorem execHbmCal_frame (ring : Nat) (cid : Nat) (s : State) :
    FrameN {} s (execHbmCal ring cid s) := by
  unfold execHbmCal
  exact (FrameN.next (Frame.step (State.maintStart_frame ..) (.refl _)))

theorem execRhumbRetrainDone_frame (x : RetrainEnd) (s : State) :
    FrameN { mem := true, fab := true } s (execRhumbRetrainDone x s) := by
  unfold execRhumbRetrainDone
  exact (FrameN.next (Frame.step (State.retrainDone_frame ..) (.refl _)))

theorem State.atsInvalidate_frame (s : State) (link : Nat) (pasid : Nat) (addr : Nat) (len : Nat) :
    Frame {} s (State.atsInvalidate s link pasid addr len) := by
  unfold State.atsInvalidate
  extract_lets _ _
  exact (Frame.ite (.refl _) (Frame.step (State.count_frame ..) (Frame.record (.refl _) rfl rfl (.inr rfl) (.inr rfl) (.inr rfl) (.inr rfl)
      (.inr rfl))))

theorem execAtsInvalidation_frame (link : Nat) (pasid : Nat) (addr : Nat) (len : Nat) (s : State) :
    FrameN {} s (execAtsInvalidation link pasid addr len s) := by
  unfold execAtsInvalidation
  exact (FrameN.next (Frame.step (State.atsInvalidate_frame ..) (.refl _)))

theorem State.stageGo_frame (s : State) (images : ImageRead) (flashOk : Bool) :
    Frame {} s (State.stageGo s images flashOk) := by
  unfold State.stageGo
  exact (Frame.trans (State.almGo_frame (fun _ => (Frame.trans (State.withUpdate_frame (fun _ => (Frame.step (State.stage_frame ..) (.refl
      _))) ..) (.refl _))) ..) (.refl _))

theorem State.activateReset_frame (s : State) :
    Frame { mem := true, cells := true, mer := true, keys := true, runs := true, fab := true } s (State.activateReset s) := by
  unfold State.activateReset
  exact (Frame.ite (Frame.step (State.devResetAsked_frame ..) (Frame.step (State.almAnswer_frame ..) (Frame.step (State.activateRow_frame
      ..) (.refl _)))) (Frame.step (State.almAnswer_frame ..) (.refl _)))

theorem State.activateLive_frame (s : State) :
    Frame {} s (State.activateLive s) := by
  unfold State.activateLive
  exact (Frame.trans (State.almGo_frame (fun _ => (Frame.ite (by
      extract_lets _
      exact (Frame.ite (Frame.step (State.almAnswer_frame ..) (.refl _)) (Frame.step (State.liveGo_frame ..) (.refl _)))) (Frame.step
          (State.almAnswer_frame ..) (.refl _)))) ..) (.refl _))

theorem State.raiseFloor_frame (s : State) (i : Image) :
    Frame {} s (State.raiseFloor s i) := by
  unfold State.raiseFloor
  extract_lets _
  exact (Frame.ite (.refl _) (Frame.ite (Frame.ite (Frame.record (.refl _) rfl rfl (.inr rfl) (.inr rfl) (.inr rfl) (.inr rfl) (.inr rfl))
      (Frame.step (State.raise_frame ..) (.refl _))) (Frame.ite (Frame.record (.refl _) rfl rfl (.inr rfl) (.inr rfl) (.inr rfl) (.inr rfl)
      (.inr rfl)) (Frame.step (State.raise_frame ..) (.refl _)))))

theorem State.prevFloor_frame (s : State) :
    Frame {} s (State.prevFloor s) := by
  unfold State.prevFloor
  exact (Frame.ite (Frame.step (State.raise_frame ..) (.refl _)) (.refl _))

theorem State.confirmTrial_frame (s : State) :
    Frame {} s (State.confirmTrial s) := by
  unfold State.confirmTrial
  extract_lets _ _ x0 x1 x2 _ x3
  refine Frame.withVar x0 (Frame.step (State.writeHdr_frame ..) (.refl _)) fun h0 => ?_
  refine Frame.withVar x1 (Frame.foldl (fun _ _ => Frame.step (State.raiseFloor_frame ..) (.refl _)) h0) fun h1 => ?_
  refine Frame.withVar x2 (Frame.foldl (fun _ _ => Frame.step (State.revokeFor_frame ..) (.refl _)) h1) fun h2 => ?_
  refine Frame.withVar x3 (Frame.ite (Frame.step (State.addFld_frame ..) (Frame.step (State.prevFloor_frame ..) h2)) h2) fun h3 => ?_
  exact (Frame.step (State.almAnswer_frame ..) (Frame.step (State.showFuses_frame ..) h3))

theorem State.confirm_frame (s : State) :
    Frame {} s (State.confirm s) := by
  unfold State.confirm
  extract_lets _
  exact (Frame.ite (Frame.step (State.almAnswer_frame ..) (.refl _)) (by
      split
      · exact (Frame.step (State.almAnswer_frame ..) (Frame.step (State.lockRefused_frame ..) (.refl _)))
      · exact (Frame.step (State.confirmTrial_frame ..) (.refl _))))

theorem State.rollbackReset_frame (s : State) :
    Frame { mem := true, cells := true, mer := true, keys := true, runs := true, fab := true } s (State.rollbackReset s) := by
  unfold State.rollbackReset
  extract_lets _
  exact (Frame.ite (Frame.step (State.devResetAsked_frame ..) (Frame.step (State.almAnswer_frame ..) (Frame.step (State.rollbackRow_frame
      ..) (.refl _)))) (Frame.step (State.almAnswer_frame ..) (.refl _)))

theorem State.abortLive_frame (s : State) :
    Frame { mem := true, cells := true, mer := true, keys := true, runs := true, fab := true } s (State.abortLive s) := by
  unfold State.abortLive
  exact (Frame.trans (State.almGo_frame (fun _ => (Frame.ite (Frame.step (State.revert_frame ..) (.refl _)) (Frame.step
      (State.almAnswer_frame ..) (.refl _)))) ..) (.refl _))

theorem State.almRun_frame (s : State) (x : WriteBrings) (op : Nat) :
    Frame { mem := true, cells := true, mer := true, keys := true, runs := true, fab := true } s (State.almRun s x op) := by
  unfold State.almRun
  split
  · exact (Frame.step (State.stageGo_frame ..) (.refl _))
  · exact (Frame.trans (State.almGo_frame (fun _ => Frame.step (State.activateReset_frame ..) (.refl _)) ..) (.refl _))
  · exact (Frame.step (State.activateLive_frame ..) (.refl _))
  · exact (Frame.trans (State.almGo_frame (fun _ => Frame.step (State.confirm_frame ..) (.refl _)) ..) (.refl _))
  · exact (Frame.trans (State.almGo_frame (fun _ => Frame.step (State.rollbackReset_frame ..) (.refl _)) ..) (.refl _))
  · exact (Frame.step (State.rollbackLive_frame ..) (.refl _))
  · exact (Frame.step (State.abortLive_frame ..) (.refl _))
  · exact (Frame.step (State.factoryGo_frame ..) (.refl _))
  · exact (Frame.step (State.ownerKeyGo_frame ..) (.refl _))
  · exact (Frame.trans (State.almGo_frame (fun _ => (by
        extract_lets x0
        refine Frame.withVar x0.2 (Frame.step (State.fresh_frame ..) (.refl _)) fun h0 => ?_
        exact (Frame.step (State.almAnswer_frame ..) h0))) ..) (.refl _))

theorem State.ffence_frame (s : State) (g : Nat) (cid : Nat) :
    Frame {} s (State.ffence s g cid) := by
  unfold State.ffence
  split
  · exact (Frame.ite (.refl _) (Frame.step (State.completeStatus_frame ..) (.refl _)))
  · exact (.refl _)

theorem execFfence_frame (ring : Nat) (cid : Nat) (s : State) :
    FrameN {} s (execFfence ring cid s) := by
  unfold execFfence
  exact (FrameN.next (Frame.step (State.ffence_frame ..) (.refl _)))

theorem State.sramNote_frame (s : State) :
    Frame {} s (State.sramNote s) := by
  unfold State.sramNote
  exact (Frame.step (State.raise_frame ..) (Frame.step (State.health_frame ..) (Frame.step (State.satFld_frame ..) (.refl _))))

theorem State.disagree_frame (s : State) (pc : Nat) :
    Frame { mem := true, cells := true, mer := true, keys := true, runs := true, fab := true } s (State.disagree s pc) := by
  unfold State.disagree
  extract_lets _ x0 x1 _ x2 _
  refine Frame.withVar x0 (Frame.step (State.pldmCancel_frame ..) (Frame.record (.refl _) rfl rfl (.inr rfl) (.inr rfl) (.inr rfl) (.inr
      rfl) (.inr rfl))) fun h0 => ?_
  refine Frame.withVar x1 (Frame.step (State.count_frame ..) (Frame.step (State.logEvent_frame ..) h0)) fun h1 => ?_
  refine Frame.withVar x2 (Frame.record h1 rfl rfl (.inr rfl) (.inr rfl) (.inr rfl) (.inr rfl) (.inr rfl)) fun h2 => ?_
  exact (Frame.ite (Frame.ite (Frame.step (State.raise_frame ..) (Frame.step (State.setFld_frame ..) h2)) (Frame.step (State.setFld_frame
      ..) (Frame.record h2 rfl rfl (.inr rfl) (.inr rfl) (.inr rfl) (.inr rfl) (.inr rfl)))) (.refl _))

theorem State.cancelWaiting_frame (s : State) (g : Nat) (f : Fetched) :
    Frame {} s (State.cancelWaiting s g f) := by
  unfold State.cancelWaiting
  extract_lets _ x0
  refine Frame.withVar x0 (Frame.foldl (fun _ _ => (Frame.ite (Frame.step (State.chartReap_frame ..) (Frame.record (.refl _) rfl rfl (.inr
      rfl) (.inr rfl) (.inr rfl) (.inr rfl) (.inr rfl))) (.refl _))) (.refl _)) fun h0 => ?_
  exact (Frame.step (State.completeNoRun_frame ..) (Frame.record h0 rfl rfl (.inr rfl) (.inr rfl) (.inr rfl) (.inr rfl) (.inr rfl)))

theorem State.mirrorCheck_frame (s : State) (r : Nat) (e : List Nat) (addr : Nat) (n : Nat) (key : Nat) (epoch : Nat) :
    Frame { fab := true } s (State.mirrorCheck s r e addr n key epoch).1 := by
  unfold State.mirrorCheck
  exact (Frame.ite1 (Frame.fst (.refl _)) (Frame.ite1 (Frame.fst (.refl _)) (Frame.ite1 (Frame.fst (Frame.ite (Frame.step
      (State.markStale_frame ..) (.refl _)) (.refl _))) (Frame.ite1 (Frame.fst (.refl _)) (Frame.fst (.refl _))))))

theorem State.mirrorForward_frame (s : State) (node : Nat) (engine : Nat) (tag : Nat) (addr : Nat) (key : Nat) (epoch : Nat) (data : List
    Byte) :
    Frame { mem := true, fab := true } s (State.mirrorForward s node engine tag addr key epoch data) := by
  unfold State.mirrorForward
  extract_lets x0
  refine Frame.withVar x0 (Frame.step (State.heard_frame ..) (.refl _)) fun h0 => ?_
  split
  · exact (Frame.step (State.sendRsp_frame ..) h0)
  · split
    · exact (Frame.step (State.sendRsp_frame ..) (Frame.ofFst (by assumption) (Frame.step (State.mirrorCheck_frame ..) h0)))
    · split
      · extract_lets x1
        refine Frame.withVar x1.1 (Frame.step (State.serveFault_frame ..) (Frame.ofFst (by assumption) (Frame.step (State.mirrorCheck_frame
            ..) h0))) fun h1 => ?_
        exact (Frame.step (State.sendRsp_frame ..) h1)
      · exact (Frame.step (State.sendRsp_frame ..) (Frame.step (State.storeData_frame ..) (Frame.ofFst (by assumption) (Frame.step
            (State.mirrorCheck_frame ..) h0))))

theorem execMirrorForward_frame (node : Nat) (engine : Nat) (tag : Nat) (addr : Nat) (key : Nat) (epoch : Nat) (data : List Byte) (s :
    State) :
    FrameN { mem := true, fab := true } s (execMirrorForward node engine tag addr key epoch data s) := by
  unfold execMirrorForward
  exact (FrameN.next (Frame.step (State.mirrorForward_frame ..) (.refl _)))

theorem State.ptpReceive_frame (s : State) (sp : Nat) (m : PtpMsg) :
    Frame { mer := true } s (State.ptpReceive s sp m) := by
  unfold State.ptpReceive
  extract_lets _
  split
  · exact (Frame.ite (Frame.step (State.setQl_frame ..) (Frame.step (State.setPtpPort_frame ..) (Frame.step (State.merCount_frame ..)
        (.refl _)))) (.refl _))
  · exact (Frame.ite (Frame.step (State.ptpMessage_frame ..) (Frame.step (State.merCount_frame ..) (.refl _))) (.refl _))

theorem execPtpFrameReceive_frame (subport : Nat) (msg : PtpMsg) (s : State) :
    FrameN { mer := true } s (execPtpFrameReceive subport msg s) := by
  unfold execPtpFrameReceive
  exact (FrameN.next (Frame.step (State.ptpReceive_frame ..) (.refl _)))

theorem State.passBoundary_frame (s : State) :
    Frame { runs := true } s (State.passBoundary s) := by
  unfold State.passBoundary
  extract_lets y0 _ _
  clear_value y0
  split
  · exact (.refl _)
  · extract_lets x1 _ _ x2 x3 x4 _ x5
    refine Frame.withVar x1 (Frame.step (State.advanceTo_frame ..) (.refl _)) fun h1 => ?_
    refine Frame.withVar x2 (Frame.foldl (fun _ _ => (Frame.step (State.boundaryVt_frame ..) (.refl _))) h1) fun h2 => ?_
    refine Frame.withVar x3 (Frame.step (State.payGate_frame ..) h2) fun h3 => ?_
    refine Frame.withVar x4 (Frame.step (State.addFld_frame ..) h3) fun h4 => ?_
    refine Frame.withVar x5 (Frame.record h4 rfl rfl (.inr rfl) (.inr rfl) (.inr rfl) (.inr rfl) (.inr rfl)) fun h5 => ?_
    exact (Frame.step (State.noteReady_frame ..) (Frame.foldl (fun _ _ => Frame.step (State.reissue_frame ..) (.refl _)) h5))

theorem State.hcopyOut_frame (s : State) (g : Nat) (cid : Nat) (addr : Nat) (off : Nat) (len : Nat) :
    Frame {} s (State.hcopyOut s g cid addr off len) := by
  unfold State.hcopyOut
  extract_lets _ x0
  refine Frame.withVar x0 (Frame.step (State.readHbm_frame ..) (.refl _)) fun h0 => ?_
  split
  · exact (Frame.step (State.hcopyFail_frame ..) h0)
  · exact (Frame.step (State.completeStatus_frame ..) (Frame.step (State.count_frame ..) (Frame.step (State.dmaWrite_frame ..) h0)))

theorem State.hcopy_frame (s : State) (g : Nat) (cid : Nat) :
    Frame {} s (State.hcopy s g cid) := by
  unfold State.hcopy
  split
  · exact (.refl _)
  · extract_lets _
    exact (Frame.ite (Frame.step (State.completeStatus_frame ..) (.refl _)) (Frame.ite (Frame.step (State.dmaWaits_frame ..) (.refl _))
        (Frame.ite (Frame.step (State.hcopyOut_frame ..) (.refl _)) (by
        split
        · exact (Frame.step (State.hcopyFail_frame ..) (.refl _))
        · split
          · exact (Frame.step (State.dmaWaits_frame ..) (.refl _))
          · exact (Frame.step (State.stageCmd_frame ..) (FrameO.get (by assumption) (FrameO.step (State.dmaRead_frame ..) (.refl _))))))))

theorem execHcopy_frame (ring : Nat) (cid : Nat) (s : State) :
    FrameN { mem := true, cells := true, runs := true, fab := true } s (execHcopy ring cid s) := by
  unfold execHcopy
  exact (FrameN.next (Frame.step (State.limitStacks_frame ..) (Frame.step (State.hcopy_frame ..) (.refl _))))

theorem State.linkTrain_frame (s : State) (p : Nat) (peer : Nat) (lock : Nat) (auth : Bool) :
    Frame {} s (State.linkTrain s p peer lock auth) := by
  unfold State.linkTrain
  extract_lets _ x0 x1 x2 x3 x4 x5 x6
  refine Frame.withVar x0 (Frame.step (State.setFld_frame ..) (.refl _)) fun h0 => ?_
  refine Frame.withVar x1 (Frame.step (State.setFld_frame ..) h0) fun h1 => ?_
  refine Frame.withVar x2 (Frame.step (State.setRhb_frame ..) h1) fun h2 => ?_
  refine Frame.withVar x3 (Frame.step (State.setFld_frame ..) h2) fun h3 => ?_
  refine Frame.withVar x4 (Frame.step (State.setFld_frame ..) h3) fun h4 => ?_
  refine Frame.withVar x5 (Frame.step (State.setFld_frame ..) h4) fun h5 => ?_
  refine Frame.withVar x6 (Frame.step (State.setFld_frame ..) h5) fun h6 => ?_
  exact (Frame.ite (Frame.ite (Frame.step (State.logOpen_frame ..) (Frame.step (State.raise_frame ..) h1)) (Frame.ite (Frame.step
      (State.raise_frame ..) h1) (Frame.step (State.setFld_frame ..) h6))) (.refl _))

theorem execLinkTrain_frame (port : Nat) (peer : Nat) (lock : Nat) (auth : Bool) (s : State) :
    FrameN {} s (execLinkTrain port peer lock auth s) := by
  unfold execLinkTrain
  exact (FrameN.next (Frame.step (State.linkTrain_frame ..) (.refl _)))

theorem execRingServicePass_frame (ring : Nat) (s : State) :
    FrameN {} s (execRingServicePass ring s) := by
  unfold execRingServicePass
  exact (FrameN.next (Frame.step (State.servicePass_frame ..) (.refl _)))

theorem execIdcode_frame (s : State) :
    FrameN {} s (execIdcode s) := by
  unfold execIdcode
  extract_lets x0 x1 _
  refine FrameN.withVar x0.2 (Frame.step (State.fresh_frame ..) (.refl _)) fun h0 => ?_
  refine FrameN.withVar x1 h0 fun h1 => ?_
  exact (FrameN.next (Frame.ite (Frame.step (State.send_frame ..) (Frame.record h1 rfl rfl (.inr rfl) (.inr rfl) (.inr rfl) (.inr rfl)
      (.inr rfl))) (.refl _)))

theorem execFkey_frame (ring : Nat) (cid : Nat) (s : State) :
    FrameN { fab := true } s (execFkey ring cid s) := by
  unfold execFkey
  exact (FrameN.next (Frame.step (State.fkey_frame ..) (.refl _)))

theorem State.mbxCtrl_frame (s : State) (block : HostRead) (v : Nat) :
    Frame { mem := true, cells := true, runs := true } s (State.mbxCtrl s block v) := by
  unfold State.mbxCtrl
  extract_lets _
  exact (Frame.ite (Frame.step (State.mbxGo_frame ..) (.refl _)) (.refl _))

theorem State.ethClockLost_frame (s : State) (k : Nat) (rx : List (Nat × EthFrame × Nat)) :
    Frame { mem := true, mer := true } s (State.ethClockLost s k rx) := by
  unfold State.ethClockLost
  exact (Frame.foldl (fun _ _ => (by
      extract_lets x0
      refine Frame.withVar x0 (Frame.foldl (fun _ _ => (Frame.ite (Frame.step (State.countLoss_frame ..) (Frame.step (State.setLock_frame
          ..) (.refl _))) (.refl _))) (.refl _)) fun h0 => ?_
      exact (Frame.foldl (fun _ _ => (Frame.step (State.subDown_frame ..) (.refl _))) h0))) (.refl _))

theorem State.rhbClockLost_frame (s : State) (k : Nat) :
    Frame { mem := true, fab := true } s (State.rhbClockLost s k) := by
  unfold State.rhbClockLost
  exact (Frame.foldl (fun _ _ => (Frame.step (State.setFld_frame ..) (Frame.step (State.portDown_frame ..) (.refl _)))) (.refl _))

theorem State.clockGone_frame (s : State) (kind : Nat) (idx : Nat) (rx : List (Nat × EthFrame × Nat)) :
    Frame { mem := true, cells := true, mer := true, keys := true, runs := true, fab := true } s (State.clockGone s kind idx rx) := by
  unfold State.clockGone
  extract_lets _ x0
  refine Frame.withVar x0 (Frame.record (.refl _) rfl rfl (.inr rfl) (.inr rfl) (.inr rfl) (.inr rfl) (.inr rfl)) fun h0 => ?_
  exact (Frame.ite (Frame.step (State.powerOff_frame ..) (.refl _)) (Frame.ite (.refl _) (by
      split
      · exact (Frame.step (State.ethClockLost_frame ..) h0)
      · exact (Frame.step (State.rhbClockLost_frame ..) h0)
      · exact (Frame.step (State.pcieLinkReset_frame ..) h0)
      · exact (Frame.step (State.ref10Lost_frame ..) h0))))

theorem execClockLoss_frame (kind : Nat) (idx : Nat) (rx : List (Nat × EthFrame × Nat)) (s : State) :
    FrameN { mem := true, cells := true, mer := true, keys := true, runs := true, fab := true } s (execClockLoss kind idx rx s) := by
  unfold execClockLoss
  extract_lets _
  exact (FrameN.next (Frame.step (State.clockGone_frame ..) (.refl _)))

theorem State.writeInfo_frame (s : State) (inst : Nat) (l : List Nat) :
    Frame {} s (State.writeInfo s inst l) := by
  unfold State.writeInfo
  extract_lets _
  exact (Frame.step (State.setReg_frame ..) (.refl _))

theorem State.latch_frame (s : State) :
    Frame {} s (State.latch s) := by
  unfold State.latch
  extract_lets x0
  refine Frame.withVar x0 (Frame.step (State.setFld_frame ..) (.refl _)) fun h0 => ?_
  exact (Frame.step (State.setFld_frame ..) (Frame.step (State.setFld_frame ..) h0))

theorem State.pldmActivate_frame (s : State) (selfContained : Bool) :
    Frame {} s (State.pldmActivate s selfContained) := by
  unfold State.pldmActivate
  exact (Frame.trans (State.pldmReq_frame (fun _ _ => (by
      extract_lets _ x0
      refine Frame.withVar x0.1 (Frame.step (State.liveStart_frame ..) (.refl _)) fun h0 => ?_
      exact (Frame.ite (Frame.step (State.send_frame ..) (.refl _)) (Frame.ite (Frame.step (State.send_frame ..) h0) (Frame.step
          (State.pldmApply_frame ..) (.refl _)))))) ..) (.refl _))

theorem State.waypointPost_frame (s : State) (r : Nat) :
    Frame { runs := true } s (State.waypointPost s r) := by
  unfold State.waypointPost
  split
  · exact (.refl _)
  · split
    · extract_lets x0
      refine Frame.withVar x0 (Frame.step (State.setRun_frame ..) (.refl _)) fun h0 => ?_
      split
      · exact (.refl _)
      · exact h0
      · split
        · exact h0
        · split
          · exact h0
          · exact (Frame.step (State.postEntry_frame ..) h0)
    · exact (.refl _)

theorem State.keyExchange_frame (s : State) (ok : Bool) :
    Frame {} s (State.keyExchange s ok) := by
  unfold State.keyExchange
  split
  · exact (Frame.step (State.send_frame ..) (Frame.step (State.raise_frame ..) (.refl _)))
  · exact (Frame.ite (Frame.step (State.spdmOpen_frame ..) (Frame.step (State.setSession_frame ..) (.refl _))) (Frame.step
        (State.send_frame ..) (.refl _)))

theorem State.mirrorDue_frame (s : State) (flashOk : Bool) :
    Frame {} s (State.mirrorDue s flashOk) := by
  unfold State.mirrorDue
  exact (Frame.trans (State.coresServe_frame (fun _ => (Frame.ite (Frame.step (State.degradedAppend_frame ..) (.refl _)) (by
      extract_lets _
      exact (Frame.ite (Frame.step (State.mirrorWrite_frame ..) (.refl _)) (by
          split
          · exact (.refl _)
          · extract_lets x0 _
            refine Frame.withVar x0 (Frame.step (State.advanceTo_frame ..) (.refl _)) fun h0 => ?_
            exact (Frame.step (State.mirrorWrite_frame ..) h0)))))) ..) (.refl _))

theorem State.leaveRun_frame (s : State) (r : Nat) :
    Frame { runs := true } s (State.leaveRun s r) := by
  unfold State.leaveRun
  split
  · exact (.refl _)
  · exact (Frame.ite (Frame.step (State.setRun_frame ..) (.refl _)) (Frame.step (State.releaseRun_frame ..) (.refl _)))

theorem State.runComplete_frame (s : State) (r : Nat) :
    Frame { cells := true, runs := true } s (State.runComplete s r) := by
  unfold State.runComplete
  split
  · exact (.refl _)
  · extract_lets _ x0 x1
    refine Frame.withVar x0 (Frame.ite (Frame.step (State.addFld_frame ..) (.refl _)) (.refl _)) fun h0 => ?_
    refine Frame.withVar x1 (Frame.ite h0 (Frame.step (State.countWork_frame ..) h0)) fun h1 => ?_
    exact (Frame.ite (Frame.step (State.leaveRun_frame ..) (Frame.step (State.postRun_frame ..) (Frame.step (State.countHelm_frame ..)
        h1))) (.refl _))

theorem State.regionSel_frame (s : State) (v : Nat) (fd : Option Nat) :
    Frame { fab := true } s (State.regionSel s v fd) := by
  unfold State.regionSel
  extract_lets x0 x1
  refine Frame.withVar x0 (Frame.step (State.setFld_frame ..) (Frame.step (State.setFld_frame ..) (.refl _))) fun h0 => ?_
  refine Frame.withVar x1 (Frame.ite (Frame.step (State.regionFetch_frame ..) h0) h0) fun h1 => ?_
  exact (Frame.ite (Frame.step (State.regionCommit_frame ..) h1) h1)

theorem execRegionFetch_frame (value : Nat) (s : State) :
    FrameN { fab := true } s (execRegionFetch value s) := by
  unfold execRegionFetch
  exact (FrameN.next (Frame.step (State.regionSel_frame ..) (.refl _)))

theorem State.ringRegWrite_frame (s : State) (inst : Nat) (loc : Nat) (link : Nat) (a : Nat) (v : Nat) :
    Frame {} s (State.ringRegWrite s inst loc link a v) := by
  unfold State.ringRegWrite
  exact (Frame.trans (State.pageWrite_frame (fun _ => (by
      split
      · exact (.refl _)
      · exact (Frame.ite (Frame.step (State.storeWord_frame ..) (.refl _)) (.refl _)))) ..) (.refl _))

theorem State.merSelect_frame (s : State) (a : Nat) (idx : Nat) (v : Nat) :
    Frame { mer := true } s (State.merSelect s a idx v) := by
  unfold State.merSelect
  extract_lets _
  exact (Frame.step (State.bmca_frame ..) (Frame.step (State.freqSelect_frame ..) (Frame.step (State.storeWord_frame ..) (.refl _))))

theorem State.setSnap_frame (s : State) (d : Nat) (x : Snap) :
    Frame {} s (State.setSnap s d x) := by
  unfold State.setSnap
  extract_lets _
  exact (Frame.record (.refl _) rfl rfl (.inr rfl) (.inr rfl) (.inr rfl) (.inr rfl) (.inr rfl))

theorem State.evcSnapshot_frame (s : State) (d : Nat) (b : List Byte) :
    Frame {} s (State.evcSnapshot s d b).1 := by
  unfold State.evcSnapshot
  exact (Frame.ite1 (Frame.fst (.refl _)) (Frame.fst (Frame.step (State.setSnap_frame ..) (.refl _))))

theorem execEvcSnapshot_frame (session : Nat) (aeadOk : Bool) (req : List Byte) (s : State) :
    FrameN {} s (execEvcSnapshot session aeadOk req s) := by
  unfold execEvcSnapshot
  exact (FrameN.next (Frame.trans (State.keyOp_frame (fun _ _ => (Frame.step (State.evcSnapshot_frame ..) (.refl _))) ..) (.refl _)))

theorem State.contextReset_frame (s : State) (inst : Nat) :
    Frame { mem := true, cells := true, runs := true, fab := true } s (State.contextReset s inst) := by
  unfold State.contextReset
  extract_lets _ _ _ _ _ x0 x1 x2
  refine Frame.withVar x0 (Frame.step (State.squashWork_frame ..) (.refl _)) fun h0 => ?_
  refine Frame.withVar x1.1 (Frame.foldl1 (fun _ _ => (Frame.step (State.resetRing_frame ..) (.refl _))) (Frame.fst h0)) fun h1 => ?_
  refine Frame.withVar x2 (Frame.foldl (fun _ _ => (Frame.step (State.reapRun_frame ..) (.refl _))) h1) fun h2 => ?_
  split
  · exact (.refl _)
  · exact (Frame.ite (.refl _) (Frame.record h2 rfl rfl (.inr rfl) (.inr rfl) (.inr rfl) (.inr rfl) (.inr rfl)))

theorem execContextReset_frame (inst : Nat) (s : State) :
    FrameN { mem := true, cells := true, runs := true, fab := true } s (execContextReset inst s) := by
  unfold execContextReset
  exact (FrameN.next (Frame.step (State.contextReset_frame ..) (.refl _)))

theorem execWakeReady_frame (kind : Nat) (idx : Nat) (s : State) :
    FrameN {} s (execWakeReady kind idx s) := by
  unfold execWakeReady
  exact (FrameN.next (Frame.step (State.wakeReady_frame ..) (.refl _)))

theorem execActivateLive_frame (s : State) :
    FrameN {} s (execActivateLive s) := by
  unfold execActivateLive
  exact (FrameN.next (Frame.step (State.activateLive_frame ..) (.refl _)))

theorem execStackLoss_frame (stack : Nat) (s : State) :
    FrameN { mem := true, cells := true, runs := true, fab := true } s (execStackLoss stack s) := by
  unfold execStackLoss
  exact (FrameN.next (Frame.step (State.stackLoss_frame ..) (.refl _)))

theorem execGetVersion_frame (s : State) :
    FrameN {} s (execGetVersion s) := by
  unfold execGetVersion
  exact (FrameN.next (Frame.trans (State.sxtServe_frame (fun _ => (Frame.step (State.send_frame ..) (.refl _))) ..) (.refl _)))

theorem execFabricOpTimeout_frame (op : Nat) (s : State) :
    FrameN { mem := true, fab := true } s (execFabricOpTimeout op s) := by
  unfold execFabricOpTimeout
  exact (FrameN.next (Frame.step (State.opTimeout_frame ..) (.refl _)))

theorem State.sessionIdle_frame (s : State) (k : Nat) :
    Frame {} s (State.sessionIdle s k) := by
  unfold State.sessionIdle
  split
  · exact (.refl _)
  · exact (Frame.step (State.endSession_frame ..) (Frame.step (State.advanceTo_frame ..) (.refl _)))

theorem execSessionIdleTimeout_frame (session : Nat) (s : State) :
    FrameN {} s (execSessionIdleTimeout session s) := by
  unfold execSessionIdleTimeout
  exact (FrameN.next (Frame.step (State.sessionIdle_frame ..) (.refl _)))

theorem State.cStream_frame (s : State) (c : Nat) (id : Nat) (f : CellCfg) (hdr : Nat → FhRadio) (l : List CSection) :
    Frame { cells := true } s (State.cStream s c id f hdr l) := by
  unfold State.cStream
  exact (Frame.foldl (fun _ _ => (Frame.foldl (fun _ _ => (Frame.step (State.sendFh_frame ..) (.refl _))) (.refl _))) (.refl _))

theorem State.cMessages_frame (s : State) (c : Nat) (n : Nat) (sym : Nat) (up : Bool) (f : CellCfg) (l : List Item) :
    Frame { cells := true } s (State.cMessages s c n sym up f l) := by
  unfold State.cMessages
  extract_lets _ _ _ _ _ _ _ _ x0 x1
  refine Frame.withVar x0 (Frame.step (State.cStream_frame ..) (.refl _)) fun h0 => ?_
  refine Frame.withVar x1 (Frame.foldl (fun _ _ => (Frame.step (State.cStream_frame ..) (.refl _))) h0) fun h1 => ?_
  exact (Frame.foldl (fun _ _ => (Frame.step (State.cStream_frame ..) (.refl _))) h1)

theorem State.cplaneEmit_frame (s : State) (c : Nat) (n : Nat) (sym : Nat) (up : Bool) :
    Frame { cells := true } s (State.cplaneEmit s c n sym up) := by
  unfold State.cplaneEmit
  extract_lets _
  split
  · extract_lets _ x0
    refine Frame.withVar x0 (Frame.step (State.untilTai_frame ..) (.refl _)) fun h0 => ?_
    exact (Frame.ite (Frame.step (State.cMessages_frame ..) (Frame.step (State.modSlotJob_frame ..) h0)) (.refl _))
  · exact (.refl _)

theorem execCplaneEmit_frame (cell : Nat) (n : Nat) (sym : Nat) (up : Bool) (s : State) :
    FrameN { cells := true } s (execCplaneEmit cell n sym up s) := by
  unfold execCplaneEmit
  exact (FrameN.next (Frame.step (State.cplaneEmit_frame ..) (.refl _)))

theorem execWakeTimeout_frame (kind : Nat) (idx : Nat) (s : State) :
    FrameN {} s (execWakeTimeout kind idx s) := by
  unfold execWakeTimeout
  exact (FrameN.next (Frame.step (State.wakeTimeout_frame ..) (.refl _)))

theorem execGetCertificate_frame (slot : Nat) (len : Nat) (s : State) :
    FrameN {} s (execGetCertificate slot len s) := by
  unfold execGetCertificate
  exact (FrameN.next (Frame.trans (State.sxtServe_frame (fun _ => (Frame.ite (Frame.step (State.spdmOpen_frame ..) (.refl _)) (Frame.step
      (State.send_frame ..) (.refl _)))) ..) (.refl _)))

theorem execConfirm_frame (s : State) :
    FrameN {} s (execConfirm s) := by
  unfold execConfirm
  exact (FrameN.next (Frame.trans (State.almGo_frame (fun _ => Frame.step (State.confirm_frame ..) (.refl _)) ..) (.refl _)))

theorem State.domKeyClear_frame (s : State) (d : Nat) (b : List Byte) :
    Frame { keys := true } s (State.domKeyClear s d b).1 := by
  unfold State.domKeyClear
  exact (Frame.ite1 (Frame.fst (.refl _)) (Frame.ite1 (Frame.fst (.refl _)) (Frame.fst (Frame.step (State.setFld_frame ..) (Frame.step
      (State.dropKey_frame ..) (.refl _))))))

theorem execDomKeyClear_frame (session : Nat) (aeadOk : Bool) (req : List Byte) (s : State) :
    FrameN { keys := true } s (execDomKeyClear session aeadOk req s) := by
  unfold execDomKeyClear
  exact (FrameN.next (Frame.trans (State.keyOp_frame (fun _ _ => (Frame.step (State.domKeyClear_frame ..) (.refl _))) ..) (.refl _)))

theorem State.pucchSmall_frame (s : State) (x : PhyCtx) (k : Nat) (i : Item) :
    Frame { mem := true, cells := true } s (State.pucchSmall s x k i) := by
  unfold State.pucchSmall
  extract_lets _ _ _ _ x0
  refine Frame.withVar x0 (Frame.step (State.modItem_frame ..) (.refl _)) fun h0 => ?_
  exact (Frame.ite (Frame.step (State.uciReport_frame ..) h0) h0)

theorem execSymbolHandoff_frame (cell : Nat) (n : Nat) (sym : Nat) (s : State) :
    FrameN { mem := true, cells := true } s (execSymbolHandoff cell n sym s) := by
  unfold execSymbolHandoff
  exact (FrameN.next (Frame.step (State.symbolHandoff_frame ..) (.refl _)))

theorem execRegionCommit_frame (value : Nat) (fd : Option Nat) (s : State) :
    FrameN { fab := true } s (execRegionCommit value fd s) := by
  unfold execRegionCommit
  exact (FrameN.next (Frame.step (State.regionSel_frame ..) (.refl _)))

theorem State.configNow_frame (s : State) (c : Nat) (f : CellCfg) :
    Frame { mem := true, cells := true } s (State.configNow s c f) := by
  unfold State.configNow
  extract_lets _ x0 _ x1
  refine Frame.withVar x0.2 (Frame.ite2 (Frame.snd (.refl _)) (Frame.step (State.pickOrch_frame ..) (.refl _))) fun h0 => ?_
  refine Frame.withVar x1 (Frame.step (State.putCell_frame ..) h0) fun h1 => ?_
  exact (Frame.step (State.noteAccepted_frame ..) (Frame.ite h1 (Frame.step (State.unspoil_frame ..) (Frame.step (State.clearHarq_frame ..)
      h1))))

theorem State.configBlock_frame (s : State) (g : Nat) (cid : Nat) (c : Nat) (q : Fetched) (f : CellCfg) :
    Frame { mem := true, cells := true } s (State.configBlock s g cid c q f) := by
  unfold State.configBlock
  extract_lets _ _ y0 x1 _
  refine Frame.withVar x1.2 (Frame.step (State.admitCfg_frame ..) (.refl _)) fun h1 => ?_
  clear_value y0
  split
  · exact (Frame.step (State.cellRefused_frame ..) (Frame.step (State.noteStatus_frame ..) (.refl _)))
  · exact (Frame.ite (Frame.step (State.cellRefused_frame ..) (.refl _)) (Frame.ite (Frame.step (State.cellRefused_frame ..) h1) (Frame.ite
        (Frame.step (State.cellDone_frame ..) (Frame.step (State.configFrom_frame ..) h1)) (Frame.step (State.cellDone_frame ..)
        (Frame.step (State.configNow_frame ..) h1)))))

theorem State.cellConfig_frame (s : State) (g : Nat) (cid : Nat) (block : HostRead) :
    Frame { mem := true, cells := true } s (State.cellConfig s g cid block) := by
  unfold State.cellConfig
  split
  · exact (.refl _)
  · extract_lets _
    exact (Frame.ite (Frame.step (State.cellRefused_frame ..) (.refl _)) (Frame.ite (Frame.step (State.cellRefused_frame ..) (.refl _)) (by
        split
        · exact (Frame.step (State.configBlock_frame ..) (.refl _))
        · exact (Frame.step (State.cellRefused_frame ..) (Frame.step (State.readTimeout_frame ..) (.refl _)))
        · exact (Frame.step (State.cellRefused_frame ..) (Frame.step (State.dmaNote_frame ..) (.refl _))))))

theorem State.heldStart_frame (s : State) :
    Frame { mem := true, cells := true, mer := true, keys := true, runs := true, fab := true } s (State.heldStart s) := by
  unfold State.heldStart
  split
  · exact (Frame.step (State.devReset_frame ..) (Frame.step (State.advanceTo_frame ..) (.refl _)))
  · exact (.refl _)

theorem execCritHoldExpire_frame (s : State) :
    FrameN {} s (execCritHoldExpire s) := by
  unfold execCritHoldExpire
  exact (FrameN.next (Frame.step (State.critHold_frame ..) (.refl _)))

theorem State.encodeBlock_frame (s : State) (x : PhyCtx) (k : Nat) (cb : Nat) (u : Nat) (i : Item) (b : List Byte) :
    Frame { cells := true } s (State.encodeBlock s x k cb u i b) := by
  unfold State.encodeBlock
  extract_lets _ _ x0 x1 x2 _ x3
  refine Frame.withVar x0 (Frame.step (State.addFld_frame ..) (.refl _)) fun h0 => ?_
  refine Frame.withVar x1 (Frame.step (State.count_frame ..) (Frame.step (State.count_frame ..) (Frame.step (State.count_frame ..) h0)))
      fun h1 => ?_
  refine Frame.withVar x2 (Frame.step (State.chargeRadio_frame ..) (Frame.ite (Frame.step (State.dmaBytes_frame ..) h1) h1)) fun h2 => ?_
  refine Frame.withVar x3 (Frame.record h2 rfl rfl (.inr rfl) (.inr rfl) (.inr rfl) (.inr rfl) (.inr rfl)) fun h3 => ?_
  exact (Frame.step (State.modItem_frame ..) h3)

theorem State.disableRing_frame (s : State) (g : Nat) (r : Ring) :
    Frame {} s (State.disableRing s g r) := by
  unfold State.disableRing
  exact (Frame.ite (Frame.step (State.quiesceDone_frame ..) (Frame.step (State.setFld_frame ..) (.refl _))) (.refl _))

theorem State.writeRingCfg_frame (s : State) (g : Nat) (r : Ring) (v : Nat) :
    Frame {} s (State.writeRingCfg s g r v) := by
  unfold State.writeRingCfg
  extract_lets _ x0 x1 x2
  refine Frame.withVar x0 (Frame.ite (Frame.step (State.setFld_frame ..) (Frame.step (State.setFld_frame ..) (.refl _))) (.refl _)) fun h0
      => ?_
  refine Frame.withVar x1 (Frame.step (State.setFld_frame ..) (Frame.step (State.noteReg_frame ..) h0)) fun h1 => ?_
  refine Frame.withVar x2 (Frame.step (State.setFld_frame ..) h1) fun h2 => ?_
  exact (Frame.ite (Frame.step (State.enableRing_frame ..) h2) (Frame.step (State.disableRing_frame ..) h2))

theorem State.haltCapture_frame (s : State) (r : Nat) (ok : Bool) :
    Frame { runs := true } s (State.haltCapture s r ok) := by
  unfold State.haltCapture
  split
  · exact (.refl _)
  · split
    · extract_lets _
      split
      · exact (.refl _)
      · extract_lets _
        exact (Frame.ite (Frame.step (State.setRun_frame ..) (Frame.step (State.dmaWrite_frame ..) (.refl _))) (Frame.step
            (State.failTransfer_frame ..) (.refl _)))
    · exact (.refl _)

theorem execHaltCapture_frame (run : Nat) (ok : Bool) (s : State) :
    FrameN { runs := true } s (execHaltCapture run ok s) := by
  unfold execHaltCapture
  exact (FrameN.next (Frame.step (State.haltCapture_frame ..) (.refl _)))

theorem State.sharerDrop_frame (s : State) (h : Nat) (node : Nat) :
    Frame { mem := true, fab := true } s (State.sharerDrop s h node) := by
  unfold State.sharerDrop
  split
  · exact (.refl _)
  · extract_lets _
    split
    · exact (.refl _)
    · extract_lets x0 _
      refine Frame.withVar x0 (Frame.step (State.advanceTo_frame ..) (.refl _)) fun h0 => ?_
      exact (Frame.step (State.pumpAll_frame ..) (Frame.step (State.drainQueue_frame ..) (Frame.step (State.homeCheck_frame ..)
          (Frame.record h0 rfl rfl (.inr rfl) (.inr rfl) (.inr rfl) (.inr rfl) (.inl rfl)))))

theorem execAllocRing_frame (block : HostRead) (s : State) :
    FrameN { mem := true, cells := true, runs := true } s (execAllocRing block s) := by
  unfold execAllocRing
  exact (FrameN.next (Frame.step (State.mbxGo_frame ..) (.refl _)))

theorem execComputeReset_frame (s : State) :
    FrameN { mem := true, cells := true, mer := true, keys := true, runs := true, fab := true } s (execComputeReset s) := by
  unfold execComputeReset
  exact (FrameN.next (Frame.step (State.computeReset_frame ..) (.refl _)))

theorem execEthFrameReceive_frame (subport : Nat) (frame : EthFrame) (s : State) :
    FrameN { mem := true, cells := true } s (execEthFrameReceive subport frame s) := by
  unfold execEthFrameReceive
  exact (FrameN.next (Frame.trans (State.beforeWrites_frame (fun _ => (Frame.step (State.rxFrame_frame ..) (.refl _))) ..) (.refl _)))

theorem State.without1_frame (s : State) (u : DevUnit) :
    Frame {} s (State.without1 s u) := by
  unfold State.without1
  extract_lets x0 x1
  refine Frame.withVar x0 (Frame.record (.refl _) rfl rfl (.inr rfl) (.inr rfl) (.inr rfl) (.inr rfl) (.inr rfl)) fun h0 => ?_
  refine Frame.withVar x1 (Frame.ite (Frame.step (State.setFld_frame ..) h0) h0) fun h1 => ?_
  exact (Frame.foldl (fun _ _ => (Frame.step (State.setReg_frame ..) (.refl _))) h1)

theorem execRunComplete_frame (run : Nat) (s : State) :
    FrameN { cells := true, runs := true } s (execRunComplete run s) := by
  unfold execRunComplete
  exact (FrameN.next (Frame.step (State.runComplete_frame ..) (.refl _)))

theorem State.readEffects_frame (s : State) (a : Nat) (idx : Nat) :
    Frame {} s (State.readEffects s a idx) := by
  unfold State.readEffects
  split
  · exact (.refl _)
  · extract_lets _ x0 _
    refine Frame.withVar x0 (Frame.ite (.refl _) (Frame.step (State.setReg_frame ..) (.refl _))) fun h0 => ?_
    exact (Frame.ite (Frame.record h0 rfl rfl (.inr rfl) (.inr rfl) (.inr rfl) (.inr rfl) (.inr rfl)) (Frame.ite (Frame.step
        (State.addFld_frame ..) h0) h0))

theorem State.ringCfgWrite_frame (s : State) (inst : Nat) (loc : Nat) (v : Nat) (link : Nat) :
    Frame {} s (State.ringCfgWrite s inst loc v link) := by
  unfold State.ringCfgWrite
  exact (Frame.trans (State.pageWrite_frame (fun _ => (by
      split
      · exact (.refl _)
      · exact (Frame.step (State.writeRingCfg_frame ..) (.refl _)))) ..) (.refl _))

theorem State.reckonWrite_frame (s : State) (inst : Nat) (loc : Nat) (v : Nat) (link : Nat) :
    Frame {} s (State.reckonWrite s inst loc v link) := by
  unfold State.reckonWrite
  exact (Frame.trans (State.reckonWrites_frame (fun _ _ _ => (by
      extract_lets x0
      refine Frame.withVar x0 (Frame.step (State.setFld_frame ..) (.refl _)) fun h0 => ?_
      exact (Frame.step (State.setRing_frame ..) (Frame.step (State.setFld_frame ..) h0)))) ..) (.refl _))

theorem State.pageWordWrite_frame (s : State) (link : Nat) (a : Nat) (idx : Nat) (v : Nat) (size : Nat) :
    Frame { mem := true, cells := true, runs := true } s (State.pageWordWrite s link a idx v size) := by
  unfold State.pageWordWrite
  extract_lets _ _
  exact (Frame.ite (Frame.step (State.instCtrl_frame ..) (.refl _)) (Frame.ite (Frame.step (State.doorbell_frame ..) (.refl _)) (Frame.ite
      (Frame.step (State.ringCfgWrite_frame ..) (.refl _)) (Frame.ite (Frame.step (State.reckonWrite_frame ..) (.refl _)) (Frame.ite
      (Frame.ite (Frame.step (State.seedWrite_frame ..) (.refl _)) (.refl _)) (Frame.ite (Frame.step (State.ringRegWrite_frame ..) (.refl
      _)) (.refl _)))))))

theorem State.widen_frame (s : State) (p : Nat) :
    Frame {} s (State.widen s p) := by
  unfold State.widen
  exact (Frame.ite (Frame.step (State.startRetrain_frame ..) (.refl _)) (.refl _))

theorem State.fabPortCtrl_frame (s : State) (p : Nat) (v : Nat) :
    Frame { mem := true, fab := true } s (State.fabPortCtrl s p v) := by
  unfold State.fabPortCtrl
  extract_lets x0 x1
  refine Frame.withVar x0 (Frame.step (State.storeWord_frame ..) (.refl _)) fun h0 => ?_
  refine Frame.withVar x1 (Frame.ite h0 (Frame.step (State.portDown_frame ..) h0)) fun h1 => ?_
  exact (Frame.ite (Frame.step (State.widen_frame ..) h1) h1)

theorem State.stageWrite_frame (s : State) (bearing : Bool) (v : Nat) :
    Frame { fab := true } s (State.stageWrite s bearing v) := by
  unfold State.stageWrite
  extract_lets _
  exact (Frame.record (.refl _) rfl rfl (.inr rfl) (.inr rfl) (.inr rfl) (.inr rfl) (.inl rfl))

theorem State.timeCtrl_frame (s : State) (v : Nat) :
    Frame { mer := true } s (State.timeCtrl s v) := by
  unfold State.timeCtrl
  extract_lets _ _ _ x0
  refine Frame.withVar x0 (Frame.ite (Frame.step (State.latch_frame ..) (.refl _)) (.refl _)) fun h0 => ?_
  exact (Frame.ite (Frame.ite (Frame.step (State.merCount_frame ..) (Frame.step (State.raise_frame ..) (Frame.step (State.raise_frame ..)
      h0))) (Frame.step (State.setStep_frame ..) (Frame.step (State.setFld_frame ..) h0))) h0)

theorem State.thrWrite_frame (s : State) (i : Nat) (v : Nat) :
    Frame {} s (State.thrWrite s i v) := by
  unfold State.thrWrite
  extract_lets x0
  refine Frame.withVar x0 (Frame.step (State.storeWord_frame ..) (Frame.step (State.tieReg_frame ..) (.refl _))) fun h0 => ?_
  exact (Frame.ite (Frame.ite (Frame.step (State.setFld_frame ..) h0) h0) (.refl _))

theorem State.logSel_frame (s : State) (v : Nat) :
    Frame {} s (State.logSel s v) := by
  unfold State.logSel
  extract_lets x0 _ x1
  refine Frame.withVar x0 (Frame.step (State.setFld_frame ..) (.refl _)) fun h0 => ?_
  refine Frame.withVar x1 (Frame.record h0 rfl rfl (.inr rfl) (.inr rfl) (.inr rfl) (.inr rfl) (.inr rfl)) fun h1 => ?_
  exact (Frame.step (State.setFld_frame ..) (Frame.step (State.setFld_frame ..) h1))

theorem State.healthThr_frame (s : State) (q : Nat) (v : Nat) :
    Frame {} s (State.healthThr s q v) := by
  unfold State.healthThr
  extract_lets x0
  refine Frame.withVar x0 (Frame.step (State.storeWord_frame ..) (.refl _)) fun h0 => ?_
  exact (Frame.ite (Frame.step (State.setFld_frame ..) h0) (.refl _))

theorem State.healthClear_frame (s : State) :
    Frame {} s (State.healthClear s) := by
  unfold State.healthClear
  extract_lets _
  exact (Frame.ite (Frame.step (State.setScore_frame ..) (.refl _)) (.refl _))

theorem State.healthCtrl_frame (s : State) (v : Nat) :
    Frame {} s (State.healthCtrl s v) := by
  unfold State.healthCtrl
  extract_lets x0
  refine Frame.withVar x0 (Frame.step (State.storeWord_frame ..) (.refl _)) fun h0 => ?_
  exact (Frame.ite (Frame.step (State.healthClear_frame ..) h0) h0)

theorem State.deviceResetGo_frame (s : State) :
    Frame { mem := true, cells := true, mer := true, keys := true, runs := true, fab := true } s (State.deviceResetGo s) := by
  unfold State.deviceResetGo
  extract_lets _ x0 x1
  refine Frame.withVar x0 (Frame.step (State.setFld_frame ..) (Frame.step (State.setFld_frame ..) (.refl _))) fun h0 => ?_
  refine Frame.withVar x1.1 (Frame.step (State.devResetAsked_frame ..) h0) fun h1 => ?_
  exact (Frame.ite (.refl _) (Frame.ite (Frame.step (State.setFld_frame ..) (Frame.step (State.setFld_frame ..) h1)) h1))

theorem State.resetCtrl_frame (s : State) (passed : Bool) (v : Nat) :
    Frame { mem := true, cells := true, mer := true, keys := true, runs := true, fab := true } s (State.resetCtrl s passed v) := by
  unfold State.resetCtrl
  extract_lets x0
  refine Frame.withVar x0 (Frame.step (State.storeWord_frame ..) (.refl _)) fun h0 => ?_
  exact (Frame.ite h0 (by
      split
      · exact (Frame.ite (Frame.step (State.setFld_frame ..) h0) (Frame.step (State.computeReset_frame ..) h0))
      · exact (Frame.step (State.deviceResetGo_frame ..) h0)
      · exact (Frame.step (State.unitRestart_frame ..) h0)
      · exact h0))

theorem State.almCmd_frame (s : State) (x : WriteBrings) (v : Nat) :
    Frame { mem := true, cells := true, mer := true, keys := true, runs := true, fab := true } s (State.almCmd s x v) := by
  unfold State.almCmd
  extract_lets x0
  refine Frame.withVar x0 (Frame.step (State.storeWord_frame ..) (.refl _)) fun h0 => ?_
  exact (Frame.ite (Frame.step (State.almRun_frame ..) h0) h0)

theorem State.logCtrl_frame (s : State) (flashOk : Bool) (v : Nat) :
    Frame {} s (State.logCtrl s flashOk v) := by
  unfold State.logCtrl
  extract_lets x0
  refine Frame.withVar x0 (Frame.step (State.storeWord_frame ..) (.refl _)) fun h0 => ?_
  exact (Frame.ite (Frame.step (State.mirrorNow_frame ..) h0) h0)

theorem State.evcApply_frame (s : State) (k : Nat) (src : Nat) (on : Bool) :
    Frame {} s (State.evcApply s k src on).1 := by
  unfold State.evcApply
  exact (Frame.ite1 (Frame.fst (.refl _)) (Frame.ite1 (Frame.fst (.refl _)) (Frame.ite1 (Frame.fst (Frame.step (State.setEvc_frame ..)
      (.refl _))) (Frame.fst (Frame.record (.refl _) rfl rfl (.inr rfl) (.inr rfl) (.inr rfl) (.inr rfl) (.inr rfl))))))

theorem State.evcCfgWrite_frame (s : State) (v : Nat) :
    Frame {} s (State.evcCfgWrite s v) := by
  unfold State.evcCfgWrite
  extract_lets _ _ x0
  refine Frame.withVar x0 (Frame.step (State.setFld_frame ..) (Frame.step (State.setFld_frame ..) (.refl _))) fun h0 => ?_
  exact (Frame.ite (Frame.trans (State.coresServe_frame (fun _ => (by
      extract_lets x1
      refine Frame.withVar x1.1 (Frame.step (State.evcApply_frame ..) (.refl _)) fun h1 => ?_
      exact (Frame.step (State.setFld_frame ..) (Frame.step (State.setFld_frame ..) h1)))) ..) (Frame.step (State.setFld_frame ..) h0)) h0)

theorem specialWrites_frame (x : WriteBrings) : ∀ p ∈ specialWrites x, ∀ s i v,
    Frame { mem := true, cells := true, mer := true, keys := true, runs := true, fab := true } s (p.2 s i v) := by
  simp only [specialWrites, List.cons_append, List.nil_append, List.forall_mem_cons]
  exact ⟨fun _ _ _ => (Frame.step (State.quantumWrite_frame ..) (.refl _)),
    fun _ _ _ => (Frame.step (State.admitCtrlWrite_frame ..) (.refl _)),
    fun _ _ _ => (Frame.step (State.calCtrlWrite_frame ..) (.refl _)),
    fun _ _ _ => (Frame.ite (Frame.step (State.storeWord_frame ..) (Frame.step (State.noteReg_frame ..) (.refl _))) (.refl _)),
    fun _ _ _ => (Frame.step (State.cellAssignWrite_frame ..) (.refl _)),
    fun _ _ _ => (Frame.step (State.grantWrite_frame ..) (.refl _)),
    fun _ _ _ => (Frame.step (State.fabCtrl_frame ..) (.refl _)),
    fun _ _ _ => (Frame.step (State.fabPortCtrl_frame ..) (.refl _)),
    fun _ _ _ => (Frame.step (State.routeWrite_frame ..) (.refl _)),
    fun _ _ _ => (Frame.step (State.regionSel_frame ..) (.refl _)),
    fun _ _ _ => (Frame.step (State.stageWrite_frame ..) (.refl _)),
    fun _ _ _ => (Frame.step (State.bearingSel_frame ..) (.refl _)),
    fun _ _ _ => (Frame.step (State.stageWrite_frame ..) (.refl _)),
    fun _ _ _ => (Frame.step (State.portCtrlWrite_frame ..) (.refl _)),
    fun _ _ _ => (Frame.step (State.steerWrite_frame ..) (.refl _)),
    fun _ _ _ => (Frame.step (State.policerWrite_frame ..) (.refl _)),
    fun _ _ _ => (Frame.step (State.storeWord_frame ..) (Frame.step (State.tieReg_frame ..) (.refl _))),
    fun _ _ _ => (Frame.step (State.pringWrite_frame ..) (.refl _)),
    fun _ _ _ => (Frame.step (State.qCfgWrite_frame ..) (.refl _)),
    fun _ _ _ => (Frame.step (State.scAssign_frame ..) (.refl _)),
    fun _ _ _ => (Frame.step (State.timeCtrl_frame ..) (.refl _)),
    fun _ _ _ => (Frame.step (State.merSelect_frame ..) (.refl _)),
    fun _ _ _ => (Frame.step (State.merSelect_frame ..) (.refl _)),
    fun _ _ _ => (Frame.step (State.thrWrite_frame ..) (.refl _)),
    fun _ _ _ => (Frame.step (State.logSel_frame ..) (.refl _)),
    fun _ _ _ => (Frame.step (State.healthThr_frame ..) (.refl _)),
    fun _ _ _ => (Frame.step (State.healthCtrl_frame ..) (.refl _)),
    fun _ _ _ => (Frame.step (State.resetCtrl_frame ..) (.refl _)),
    fun _ _ _ => (Frame.step (State.almCmd_frame ..) (.refl _)),
    fun _ _ _ => (Frame.step (State.mbxCtrl_frame ..) (.refl _)),
    fun _ _ _ => (Frame.step (State.logCtrl_frame ..) (.refl _)),
    fun _ _ _ => (Frame.step (State.busCtrl_frame ..) (.refl _)),
    fun _ _ _ => (Frame.step (State.evcCtrlWrite_frame ..) (.refl _)),
    fun _ _ _ => (Frame.step (State.evcCfgWrite_frame ..) (.refl _)),
    fun _ _ _ => (Frame.step (State.limitWrite_frame ..) (.refl _)),
    fun _ _ _ => (Frame.ite (.refl _) (Frame.step (State.storeWord_frame ..) (.refl _))),
    fun _ _ _ => (Frame.step (State.mapCtrl_frame ..) (.refl _)),
    nofun⟩

theorem State.blockWrite_frame (s : State) (x : WriteBrings) (a idx v : Nat) :
    Frame { mem := true, cells := true, mer := true, keys := true, runs := true, fab := true } s (s.blockWrite x a idx v) := by
  unfold State.blockWrite
  split
  · exact specialWrites_frame x _ (List.mem_of_find?_eq_some (by assumption)) ..
  · exact Frame.step (State.storeWord_frame ..) (.refl _)

theorem State.hostWrite_frame (s : State) (b : Bar) (off : Nat) (value : Nat) (size : Nat) (x : WriteBrings) :
    Frame { mem := true, cells := true, mer := true, keys := true, runs := true, fab := true } s (State.hostWrite s b off value size x) :=
        by
  unfold State.hostWrite
  extract_lets _
  exact (Frame.ite (.refl _) (Frame.ite (Frame.step (State.badAccess_frame ..) (.refl _)) (by
      split
      · exact (.refl _)
      · split
        · exact (.refl _)
        · extract_lets _
          split
          · exact (Frame.step (State.pageWordWrite_frame ..) (.refl _))
          · exact (Frame.step (State.blockWrite_frame ..) (.refl _)))))

theorem execRegisterWrite_frame (bar : Bar) (off : Nat) (value : Nat) (size : Nat) (brings : WriteBrings) (s : State) :
    FrameN { mem := true, cells := true, mer := true, keys := true, runs := true, fab := true } s (execRegisterWrite bar off value size
        brings s) := by
  unfold execRegisterWrite
  exact (FrameN.next (Frame.step (State.hostWrite_frame ..) (.refl _)))

theorem State.hostRead_frame (s : State) (b : Bar) (off : Nat) (size : Nat) :
    Frame {} s (State.hostRead s b off size) := by
  unfold State.hostRead
  extract_lets _ x0
  refine Frame.withVar x0 (Frame.step (State.badAccess_frame ..) (.refl _)) fun h0 => ?_
  exact (Frame.ite (.refl _) (Frame.ite (Frame.record h0 rfl rfl (.inr rfl) (.inr rfl) (.inr rfl) (.inr rfl) (.inr rfl)) (Frame.ite
      (Frame.record (.refl _) rfl rfl (.inr rfl) (.inr rfl) (.inr rfl) (.inr rfl) (.inr rfl)) (by
      split
      · exact (Frame.record (.refl _) rfl rfl (.inr rfl) (.inr rfl) (.inr rfl) (.inr rfl) (.inr rfl))
      · extract_lets x1 _ x2
        refine Frame.withVar x1 (Frame.step (State.fifoLook_frame ..) (.refl _)) fun h1 => ?_
        refine Frame.withVar x2 (Frame.step (State.readEffects_frame ..) h1) fun h2 => ?_
        exact (Frame.ite (Frame.record h2 rfl rfl (.inr rfl) (.inr rfl) (.inr rfl) (.inr rfl) (.inr rfl)) (Frame.record h1 rfl rfl (.inr
            rfl) (.inr rfl) (.inr rfl) (.inr rfl) (.inr rfl)))))))

theorem execRcRead_frame (bar : Bar) (off : Nat) (size : Nat) (s : State) :
    FrameN {} s (execRcRead bar off size s) := by
  unfold execRcRead
  exact (FrameN.next (Frame.step (State.hostRead_frame ..) (.refl _)))

theorem execPlannedRemoval_frame (s : State) :
    FrameN { mem := true, cells := true, mer := true, keys := true, runs := true, fab := true } s (execPlannedRemoval s) := by
  unfold execPlannedRemoval
  exact (FrameN.next (Frame.step (State.powerOff_frame ..) (.refl _)))

theorem execD2dFault_frame (s : State) :
    FrameN { cells := true, mer := true, runs := true, fab := true } s (execD2dFault s) := by
  unfold execD2dFault
  exact (FrameN.next (Frame.step (State.d2dFault_frame ..) (.refl _)))

theorem State.arrayGrant_frame (s : State) :
    Frame { cells := true, runs := true } s (State.arrayGrant s) := by
  unfold State.arrayGrant
  exact (Frame.ite (.refl _) (Frame.step (State.arrayDecide_frame ..) (Frame.step (State.advanceTo_frame ..) (.refl _))))

theorem execArrayGrant_frame (s : State) :
    FrameN { cells := true, runs := true } s (execArrayGrant s) := by
  unfold execArrayGrant
  exact (FrameN.next (Frame.step (State.arrayGrant_frame ..) (.refl _)))

theorem execArrayBoundary_frame (s : State) :
    FrameN { runs := true } s (execArrayBoundary s) := by
  unfold execArrayBoundary
  exact (FrameN.next (Frame.step (State.passBoundary_frame ..) (.refl _)))

theorem State.faultDrain_frame (s : State) (cause : Nat) (cls : Nat) (unit : Nat) :
    Frame { runs := true } s (State.faultDrain s cause cls unit) := by
  unfold State.faultDrain
  extract_lets _
  exact (Frame.step (State.faultArr_frame ..) (.refl _))

theorem State.faultLane_frame (s : State) (unit : Nat) :
    Frame { runs := true } s (State.faultLane s unit) := by
  unfold State.faultLane
  split
  · exact (.refl _)
  · split
    · exact (.refl _)
    · extract_lets _ x0
      refine Frame.withVar x0 (Frame.step (State.faultRecord_frame ..) (.refl _)) fun h0 => ?_
      exact (Frame.step (State.vecAbort_frame ..) (Frame.step (State.failRun_frame ..) h0))

theorem State.arrayFault_frame (s : State) (kind : Nat) (unit : Nat) :
    Frame { mem := true, cells := true, runs := true } s (State.arrayFault s kind unit) := by
  unfold State.arrayFault
  split
  · exact (Frame.step (State.loseArray_frame ..) (Frame.step (State.raise_frame ..) (Frame.step (State.faultPass_frame ..) (.refl _))))
  · exact (Frame.step (State.loseArray_frame ..) (Frame.step (State.raise_frame ..) (Frame.step (State.faultDrain_frame ..) (.refl _))))
  · exact (Frame.step (State.loseArray_frame ..) (Frame.step (State.raise_frame ..) (Frame.step (State.faultLane_frame ..) (.refl _))))

theorem execArrayFault_frame (kind : Nat) (unit : Nat) (s : State) :
    FrameN { mem := true, cells := true, runs := true } s (execArrayFault kind unit s) := by
  unfold execArrayFault
  exact (FrameN.next (Frame.step (State.arrayFault_frame ..) (.refl _)))

theorem execFuseDataRead_frame (size : Nat) (s : State) :
    FrameN {} s (execFuseDataRead size s) := by
  unfold execFuseDataRead
  exact (FrameN.next (Frame.step (State.hostRead_frame ..) (.refl _)))

theorem State.vectorGrant_frame (s : State) :
    Frame { mem := true, cells := true, runs := true } s (State.vectorGrant s) := by
  unfold State.vectorGrant
  exact (Frame.ite (.refl _) (Frame.step (State.vectorDecide_frame ..) (Frame.step (State.advanceTo_frame ..) (.refl _))))

theorem execVectorGrant_frame (s : State) :
    FrameN { mem := true, cells := true, runs := true } s (execVectorGrant s) := by
  unfold execVectorGrant
  exact (FrameN.next (Frame.step (State.vectorGrant_frame ..) (.refl _)))

theorem State.kvLandEcc_frame (s : State) (r : Nat) (i : Nat) (p : Nat) (ce : List Nat) (ue : List Nat) :
    Frame { mem := true, cells := true, runs := true, fab := true } s (State.kvLandEcc s r i p ce ue) := by
  unfold State.kvLandEcc
  split
  · exact (.refl _)
  · extract_lets _ x0
    refine Frame.withVar x0 (Frame.ite (Frame.step (State.eccRead_frame ..) (.refl _)) (.refl _)) fun h0 => ?_
    exact (Frame.step (State.limitStacks_frame ..) (Frame.step (State.kvLand_frame ..) h0))

theorem execKvPageComplete_frame (run : Nat) (idx : Nat) (page : Nat) (ce : List Nat) (ue : List Nat) (s : State) :
    FrameN { mem := true, cells := true, runs := true, fab := true } s (execKvPageComplete run idx page ce ue s) := by
  unfold execKvPageComplete
  exact (FrameN.next (Frame.step (State.kvLandEcc_frame ..) (.refl _)))

theorem State.nop_frame (s : State) (g : Nat) (cid : Nat) :
    Frame {} s (State.nop s g cid) := by
  unfold State.nop
  split
  · exact (.refl _)
  · exact (Frame.step (State.completeStatus_frame ..) (.refl _))

theorem execNop_frame (ring : Nat) (cid : Nat) (s : State) :
    FrameN {} s (execNop ring cid s) := by
  unfold execNop
  exact (FrameN.next (Frame.step (State.nop_frame ..) (.refl _)))

theorem State.runChart_frame (s : State) (g : Nat) (cid : Nat) :
    Frame {} s (State.runChart s g cid) := by
  unfold State.runChart
  split
  · extract_lets _
    split
    · exact (Frame.step (State.completeNoRun_frame ..) (.refl _))
    · exact (Frame.step (State.waitContext_frame ..) (Frame.step (State.stageCmd_frame ..) (.refl _)))
  · exact (.refl _)

theorem execRunChart_frame (ring : Nat) (cid : Nat) (s : State) :
    FrameN {} s (execRunChart ring cid s) := by
  unfold execRunChart
  exact (FrameN.next (Frame.step (State.runChart_frame ..) (.refl _)))

theorem execRunStart_frame (s : State) :
    FrameN { runs := true } s (execRunStart s) := by
  unfold execRunStart
  exact (FrameN.next (Frame.step (State.runStart_frame ..) (.refl _)))

theorem execLoadChartChecks_frame (chart : Nat) (s : State) :
    FrameN { mem := true, cells := true, runs := true, fab := true } s (execLoadChartChecks chart s) := by
  unfold execLoadChartChecks
  exact (FrameN.next (Frame.step (State.limitStacks_frame ..) (Frame.step (State.loadChecks_frame ..) (.refl _))))

theorem State.cancelRun_frame (s : State) (g : Nat) (f : Fetched) :
    Frame { runs := true } s (State.cancelRun s g f).1 := by
  unfold State.cancelRun
  split
  · split
    · exact (Frame.fst (.refl _))
    · exact (Frame.ite1 (Frame.fst (Frame.step (State.failRun_frame ..) (.refl _))) (Frame.ite1 (Frame.fst (Frame.step (State.failRun_frame
          ..) (.refl _))) (Frame.fst (.refl _))))
  · exact (Frame.fst (Frame.step (State.cancelWaiting_frame ..) (.refl _)))

theorem State.cancelFetched_frame (s : State) (g : Nat) (f : Fetched) :
    Frame { mem := true, cells := true, runs := true } s (State.cancelFetched s g f).1 := by
  unfold State.cancelFetched
  split
  · exact (Frame.step (State.cancelRun_frame ..) (Frame.step (State.decisionTie_frame ..) (.refl _)))
  · exact (Frame.step (State.cancelRun_frame ..) (.refl _))

theorem State.cancel_frame (s : State) (g : Nat) (cid : Nat) (pos : Option Nat) :
    Frame { mem := true, cells := true, runs := true } s (State.cancel s g cid pos) := by
  unfold State.cancel
  split
  · exact (.refl _)
  · split
    · extract_lets x0
      refine Frame.withVar x0.1 (Frame.step (State.cancelFetched_frame ..) (.refl _)) fun h0 => ?_
      exact (Frame.step (State.completeStatus_frame ..) h0)
    · split
      · exact (Frame.step (State.completeStatus_frame ..) (FrameO.get (by assumption) (FrameO.step (State.cancelAhead_frame ..) (.refl _))))
      · exact (Frame.step (State.completeStatus_frame ..) (.refl _))

theorem execCancel_frame (ring : Nat) (x : CancelOf) (s : State) :
    FrameN { mem := true, cells := true, runs := true } s (execCancel ring x s) := by
  unfold execCancel
  exact (FrameN.next (Frame.step (State.cancel_frame ..) (.refl _)))

theorem execWaypointPost_frame (run : Nat) (s : State) :
    FrameN { runs := true } s (execWaypointPost run s) := by
  unfold execWaypointPost
  exact (FrameN.next (Frame.step (State.waypointPost_frame ..) (.refl _)))

theorem execAdmitCtrlWrite_frame (value : Nat) (s : State) :
    FrameN {} s (execAdmitCtrlWrite value s) := by
  unfold execAdmitCtrlWrite
  exact (FrameN.next (Frame.step (State.admitCtrlWrite_frame ..) (.refl _)))

theorem execCalCommit_frame (s : State) :
    FrameN {} s (execCalCommit s) := by
  unfold execCalCommit
  exact (FrameN.next (Frame.step (State.calCommit_frame ..) (.refl _)))

theorem execCalDisable_frame (s : State) :
    FrameN {} s (execCalDisable s) := by
  unfold execCalDisable
  exact (FrameN.next (Frame.step (State.calDisable_frame ..) (.refl _)))

theorem State.strictStart_frame (s : State) :
    Frame {} s (State.strictStart s) := by
  unfold State.strictStart
  split
  · exact (.refl _)
  · extract_lets x0 _ _
    refine Frame.withVar x0 (Frame.step (State.untilTai_frame ..) (.refl _)) fun h0 => ?_
    exact (Frame.record h0 rfl rfl (.inr rfl) (.inr rfl) (.inr rfl) (.inr rfl) (.inr rfl))

theorem execStrictEntryStart_frame (s : State) :
    FrameN {} s (execStrictEntryStart s) := by
  unfold execStrictEntryStart
  exact (FrameN.next (Frame.step (State.strictStart_frame ..) (.refl _)))

theorem State.saveRun_frame (s : State) (r : Nat) (x : Run) :
    Frame { mem := true, runs := true } s (State.saveRun s r x) := by
  unfold State.saveRun
  split
  · exact (.refl _)
  · extract_lets _ x0 x1 x2
    refine Frame.withVar x0 (Frame.step (State.store_frame ..) (.refl _)) fun h0 => ?_
    refine Frame.withVar x1 (Frame.step (State.store_frame ..) h0) fun h1 => ?_
    refine Frame.withVar x2 (Frame.step (State.hbmUsed_frame ..) (Frame.step (State.hbmUsed_frame ..) h1)) fun h2 => ?_
    split
    · exact (Frame.step (State.switchFails_frame ..) (.refl _))
    · exact (Frame.step (State.setRun_frame ..) h2)

theorem State.evict_frame (s : State) (d : Nat) :
    Frame { mem := true, runs := true } s (State.evict s d) := by
  unfold State.evict
  extract_lets x0
  refine Frame.withVar x0 (Frame.foldl (fun _ _ => (Frame.step (State.saveRun_frame ..) (.refl _))) (.refl _)) fun h0 => ?_
  exact (Frame.step (State.setFld_frame ..) (Frame.step (State.zeroSpace_frame ..) (Frame.step (State.zeroSpace_frame ..) h0)))

theorem State.switchStart_frame (s : State) :
    Frame { mem := true, runs := true } s (State.switchStart s) := by
  unfold State.switchStart
  split
  · split
    · exact (.refl _)
    · extract_lets _ _ x0 x1 _
      refine Frame.withVar x0 (Frame.foldl (fun _ _ => (Frame.step (State.evict_frame ..) (.refl _))) (.refl _)) fun h0 => ?_
      refine Frame.withVar x1 (Frame.step (State.setFld_frame ..) (Frame.step (State.setFld_frame ..) h0)) fun h1 => ?_
      exact (Frame.ite (Frame.step (State.noteReady_frame ..) (Frame.step (State.setFld_frame ..) (Frame.record h1 rfl rfl (.inr rfl) (.inr
          rfl) (.inr rfl) (.inr rfl) (.inr rfl)))) (Frame.step (State.deferSwitch_frame ..) (.refl _)))
  · exact (.refl _)

theorem execResSwitchStart_frame (s : State) :
    FrameN { mem := true, runs := true } s (execResSwitchStart s) := by
  unfold execResSwitchStart
  exact (FrameN.next (Frame.step (State.switchStart_frame ..) (.refl _)))

theorem State.loadRun_frame (s : State) (r : Nat) (x : Run) :
    Frame { mem := true, runs := true } s (State.loadRun s r x) := by
  unfold State.loadRun
  split
  · exact (.refl _)
  · extract_lets _ x0 x1 x2
    refine Frame.withVar x0 (Frame.step (State.readHbm_frame ..) (Frame.step (State.readHbm_frame ..) (.refl _))) fun h0 => ?_
    refine Frame.withVar x1 (Frame.step (State.store_frame ..) h0) fun h1 => ?_
    refine Frame.withVar x2 (Frame.step (State.store_frame ..) h1) fun h2 => ?_
    split
    · exact (Frame.step (State.switchFails_frame ..) h0)
    · exact (Frame.step (State.setRun_frame ..) h2)

theorem State.switchDone_frame (s : State) :
    Frame { mem := true, runs := true } s (State.switchDone s) := by
  unfold State.switchDone
  split
  · exact (.refl _)
  · extract_lets x0 x1 _ x2 x3
    refine Frame.withVar x0 (Frame.step (State.advanceTo_frame ..) (.refl _)) fun h0 => ?_
    refine Frame.withVar x1 (Frame.foldl (fun _ _ => (Frame.step (State.loadRun_frame ..) (.refl _))) h0) fun h1 => ?_
    refine Frame.withVar x2 (Frame.record h1 rfl rfl (.inr rfl) (.inr rfl) (.inr rfl) (.inr rfl) (.inr rfl)) fun h2 => ?_
    refine Frame.withVar x3 (Frame.step (State.setFld_frame ..) (Frame.step (State.setFld_frame ..) h2)) fun h3 => ?_
    exact (Frame.step (State.noteReady_frame ..) (Frame.step (State.count_frame ..) (Frame.step (State.countHelm_frame ..) (Frame.step
        (State.addFld_frame ..) h3))))

theorem execResSwitchComplete_frame (s : State) :
    FrameN { mem := true, cells := true, runs := true, fab := true } s (execResSwitchComplete s) := by
  unfold execResSwitchComplete
  exact (FrameN.next (Frame.step (State.limitStacks_frame ..) (Frame.step (State.switchDone_frame ..) (.refl _))))

theorem execCellConfig_frame (ring : Nat) (cid : Nat) (block : HostRead) (s : State) :
    FrameN { mem := true, cells := true } s (execCellConfig ring cid block s) := by
  unfold execCellConfig
  exact (FrameN.next (Frame.step (State.cellConfig_frame ..) (.refl _)))

theorem State.cellStart_frame (s : State) (g : Nat) (cid : Nat) :
    Frame { mem := true, cells := true } s (State.cellStart s g cid) := by
  unfold State.cellStart
  split
  · exact (.refl _)
  · extract_lets _ _
    split
    · exact (Frame.step (State.cellRefused_frame ..) (.refl _))
    · extract_lets _ x0
      refine Frame.withVar x0.2 (Frame.step (State.admitCfg_frame ..) (.refl _)) fun h0 => ?_
      exact (Frame.ite (Frame.step (State.cellRefused_frame ..) (.refl _)) (Frame.ite (Frame.step (State.cellRefused_frame ..) (.refl _))
          (by
          split
          · exact (Frame.step (State.cellRefused_frame ..) (Frame.step (State.noteStatus_frame ..) (.refl _)))
          · exact (Frame.ite (Frame.step (State.cellDone_frame ..) (Frame.step (State.startCell_frame ..) (.refl _))) (Frame.ite
                (Frame.step (State.cellDone_frame ..) (Frame.step (State.noteAccepted_frame ..) (Frame.step (State.startCell_frame ..)
                h0))) (Frame.step (State.cellRefused_frame ..) h0))))))

theorem execCellStart_frame (ring : Nat) (cid : Nat) (s : State) :
    FrameN { mem := true, cells := true } s (execCellStart ring cid s) := by
  unfold execCellStart
  exact (FrameN.next (Frame.step (State.cellStart_frame ..) (.refl _)))

theorem State.fhStats_frame (s : State) (g : Nat) (cid : Nat) :
    Frame { cells := true } s (State.fhStats s g cid) := by
  unfold State.fhStats
  split
  · exact (.refl _)
  · extract_lets _ _ _ _ x0
    refine Frame.withVar x0 (Frame.ite (Frame.step (State.modCell_frame ..) (.refl _)) (.refl _)) fun h0 => ?_
    exact (Frame.ite (Frame.step (State.complete_frame ..) (.refl _)) (Frame.step (State.complete_frame ..) h0))

theorem execFhStats_frame (ring : Nat) (cid : Nat) (s : State) :
    FrameN { cells := true } s (execFhStats ring cid s) := by
  unfold execFhStats
  exact (FrameN.next (Frame.step (State.fhStats_frame ..) (.refl _)))

theorem State.harqFlush_frame (s : State) (g : Nat) (cid : Nat) :
    Frame { mem := true, cells := true } s (State.harqFlush s g cid) := by
  unfold State.harqFlush
  split
  · exact (.refl _)
  · extract_lets _ _
    exact (Frame.ite (Frame.step (State.complete_frame ..) (.refl _)) (Frame.step (State.runFlushes_frame ..) (Frame.step
        (State.modCell_frame ..) (Frame.step (State.stageCmd_frame ..) (.refl _)))))

theorem execHarqFlush_frame (ring : Nat) (cid : Nat) (s : State) :
    FrameN { mem := true, cells := true } s (execHarqFlush ring cid s) := by
  unfold execHarqFlush
  exact (FrameN.next (Frame.step (State.harqFlush_frame ..) (.refl _)))

theorem State.slotBoundary_frame (s : State) (c : Nat) :
    Frame { mem := true, cells := true } s (State.slotBoundary s c) := by
  unfold State.slotBoundary
  extract_lets _
  split
  · exact (.refl _)
  · extract_lets x0 x1 x2
    refine Frame.withVar x0 (Frame.step (State.untilTai_frame ..) (.refl _)) fun h0 => ?_
    refine Frame.withVar x1 (Frame.step (State.modCell_frame ..) h0) fun h1 => ?_
    refine Frame.withVar x2 (Frame.ite (Frame.step (State.addFld_frame ..) h1) h1) fun h2 => ?_
    exact (Frame.ite (Frame.step (State.settleCell_frame ..) (Frame.step (State.harqSettle_frame ..) h2)) (.refl _))

theorem execSlotBoundary_frame (cell : Nat) (s : State) :
    FrameN { mem := true, cells := true } s (execSlotBoundary cell s) := by
  unfold execSlotBoundary
  exact (FrameN.next (Frame.step (State.slotBoundary_frame ..) (.refl _)))

theorem State.prachPeriodEnd_frame (s : State) (c : Nat) (n : Nat) (k : Nat) (stream : Nat) (period : Nat) :
    Frame { mem := true, cells := true } s (State.prachPeriodEnd s c n k stream period) := by
  unfold State.prachPeriodEnd
  extract_lets _
  split
  · extract_lets _ _
    exact (Frame.ite (Frame.step (State.agcUpTo_frame ..) (.refl _)) (.refl _))
  · exact (.refl _)

theorem execPrachPeriodEnd_frame (cell : Nat) (n : Nat) (item : Nat) (stream : Nat) (period : Nat) (s : State) :
    FrameN { mem := true, cells := true } s (execPrachPeriodEnd cell n item stream period s) := by
  unfold execPrachPeriodEnd
  exact (FrameN.next (Frame.step (State.prachPeriodEnd_frame ..) (.refl _)))

theorem execEqualize_frame (cell : Nat) (n : Nat) (sym : Nat) (s : State) :
    FrameN { mem := true, cells := true, runs := true, fab := true } s (execEqualize cell n sym s) := by
  unfold execEqualize
  exact (FrameN.next (Frame.step (State.limitStacks_frame ..) (Frame.step (State.equalizeSym_frame ..) (.refl _))))

theorem State.codeBlockDecode_frame (s : State) :
    Frame { cells := true } s (State.codeBlockDecode s) := by
  unfold State.codeBlockDecode
  split
  · exact (Frame.step (State.modBlock_frame ..) (.refl _))
  · exact (.refl _)

theorem execCodeBlockDecode_frame (s : State) :
    FrameN { cells := true } s (execCodeBlockDecode s) := by
  unfold execCodeBlockDecode
  exact (FrameN.next (Frame.step (State.codeBlockDecode_frame ..) (.refl _)))

theorem State.polarNext_frame (s : State) :
    Frame { mem := true, cells := true } s (State.polarNext s) := by
  unfold State.polarNext
  extract_lets _
  split
  · extract_lets _ _ x0 x1 x2
    refine Frame.withVar x0 (Frame.record (.refl _) rfl rfl (.inr rfl) (.inr rfl) (.inr rfl) (.inr rfl) (.inr rfl)) fun h0 => ?_
    refine Frame.withVar x1 (Frame.step (State.chargeRadio_frame ..) h0) fun h1 => ?_
    refine Frame.withVar x2 (Frame.step (State.advanceTo_frame ..) (Frame.step (State.count_frame ..) (Frame.step (State.addFld_frame ..)
        h1))) fun h2 => ?_
    exact (Frame.ite (by
        split
        · exact (Frame.step (State.polarUp_frame ..) h2)
        · exact h2) (Frame.step (State.modItem_frame ..) (Frame.step (State.count_frame ..) (Frame.step (State.addFld_frame ..) h1))))
  · exact (.refl _)

theorem execPolarJob_frame (s : State) :
    FrameN { mem := true, cells := true, runs := true, fab := true } s (execPolarJob s) := by
  unfold execPolarJob
  exact (FrameN.next (Frame.step (State.limitStacks_frame ..) (Frame.step (State.polarNext_frame ..) (.refl _))))

theorem State.pucchDetect_frame (s : State) (c : Nat) (n : Nat) (k : Nat) :
    Frame { mem := true, cells := true } s (State.pucchDetect s c n k) := by
  unfold State.pucchDetect
  split
  · exact (.refl _)
  · extract_lets x0
    refine Frame.withVar x0 (Frame.step (State.meetErrors_frame ..) (.refl _)) fun h0 => ?_
    exact (Frame.ite h0 (Frame.ite (by
        split
        · exact (Frame.step (State.ulMemFails_frame ..) h0)
        · exact (Frame.step (State.pucchSmall_frame ..) h0)) (Frame.step (State.ulItemEnds_frame ..) h0)))

theorem execPucchDetect_frame (cell : Nat) (n : Nat) (item : Nat) (s : State) :
    FrameN { mem := true, cells := true, runs := true, fab := true } s (execPucchDetect cell n item s) := by
  unfold execPucchDetect
  exact (FrameN.next (Frame.step (State.limitStacks_frame ..) (Frame.step (State.pucchDetect_frame ..) (.refl _))))

theorem State.encodeCb_frame (s : State) (c : Nat) (n : Nat) (k : Nat) (cb : Nat) (block : HostRead) :
    Frame { cells := true } s (State.encodeCb s c n k cb block) := by
  unfold State.encodeCb
  split
  · exact (Frame.ite (by
        split
        · exact (Frame.step (State.encodeBlock_frame ..) (.refl _))
        · exact (Frame.step (State.readTimeout_frame ..) (.refl _))
        · exact (Frame.step (State.dmaNote_frame ..) (.refl _))) (.refl _))
  · exact (.refl _)

theorem execEncodeCb_frame (cell : Nat) (n : Nat) (item : Nat) (cb : Nat) (block : HostRead) (s : State) :
    FrameN { cells := true } s (execEncodeCb cell n item cb block s) := by
  unfold execEncodeCb
  exact (FrameN.next (Frame.step (State.encodeCb_frame ..) (.refl _)))

theorem State.precodeStart_frame (s : State) (c : Nat) (n : Nat) (k : Nat) :
    Frame { mem := true, cells := true } s (State.precodeStart s c n k) := by
  unfold State.precodeStart
  split
  · exact (.refl _)
  · extract_lets x0 _
    refine Frame.withVar x0 (Frame.step (State.meetErrors_frame ..) (Frame.step (State.advanceTo_frame ..) (.refl _))) fun h0 => ?_
    exact (Frame.ite (by
        split
        · exact (.refl _)
        · exact (Frame.step (State.dlItemEnds_frame ..) (.refl _))
        · exact (Frame.ite (Frame.step (State.dlItemEnds_frame ..) (Frame.getD (FrameO.map fun _ => (Frame.step (State.itemMemNote_frame
              ..) h0)) h0)) (Frame.step (State.modItem_frame ..) h0))) (.refl _))

theorem execPrecode_frame (cell : Nat) (n : Nat) (item : Nat) (s : State) :
    FrameN { mem := true, cells := true, runs := true, fab := true } s (execPrecode cell n item s) := by
  unfold execPrecode
  exact (FrameN.next (Frame.step (State.limitStacks_frame ..) (Frame.step (State.precodeStart_frame ..) (.refl _))))

theorem State.engineRecord_frame (s : State) (c : Nat) (n : Nat) (k : Nat) (up : Bool) (cause : Nat) (cls : Nat) (unit : Nat) :
    Frame {} s (State.engineRecord s c n k up cause cls unit) := by
  unfold State.engineRecord
  exact (Frame.step (State.faultRecord_frame ..) (.refl _))

theorem State.countRerun_frame (s : State) (q : Option EngJob) (u : Nat) :
    Frame {} s (State.countRerun s q u) := by
  unfold State.countRerun
  split
  · exact (Frame.ite (.refl _) (Frame.step (State.count_frame ..) (.refl _)))
  · exact (.refl _)

theorem State.radioParity_frame (s : State) (cls : Nat) (u : Nat) (c : Nat) (n : Nat) (k : Nat) :
    Frame { mem := true, cells := true } s (State.radioParity s cls u c n k) := by
  unfold State.radioParity
  extract_lets x0 x1 x2 x3 x4
  refine Frame.withVar x0 (Frame.step (State.countRerun_frame ..) (.refl _)) fun h0 => ?_
  refine Frame.withVar x1 (Frame.step (State.count_frame ..) (Frame.step (State.raise_frame ..) (Frame.step (State.dlParity_frame ..) h0)))
      fun h1 => ?_
  refine Frame.withVar x2 (Frame.step (State.count_frame ..) (Frame.step (State.raise_frame ..) (.refl _))) fun h2 => ?_
  refine Frame.withVar x3 (Frame.step (State.engineRecord_frame ..) h2) fun h3 => ?_
  refine Frame.withVar x4 (Frame.step (State.raise_frame ..) (Frame.step (State.mapDisable_frame ..) h3)) fun h4 => ?_
  split
  · exact (Frame.step (State.loseEngine_frame ..) (Frame.step (State.engineRecord_frame ..) (Frame.step (State.decParity_frame ..) (.refl
        _))))
  · exact (Frame.step (State.loseEngine_frame ..) (Frame.step (State.engineRecord_frame ..) h1))
  · exact (Frame.step (State.loseEngine_frame ..) (Frame.step (State.engineRecord_frame ..) (Frame.step (State.polarParity_frame ..) (.refl
        _))))
  · exact (Frame.step (State.shedAll_frame ..) (Frame.step (State.endUplink_frame ..) h4))
  · exact (Frame.step (State.shedAll_frame ..) (Frame.step (State.endUplink_frame ..) h4))
  · exact (.refl _)

theorem execRadioEngineParity_frame (cls : Nat) (unit : Nat) (cell : Nat) (n : Nat) (item : Nat) (s : State) :
    FrameN { mem := true, cells := true } s (execRadioEngineParity cls unit cell n item s) := by
  unfold execRadioEngineParity
  exact (FrameN.next (Frame.step (State.radioParity_frame ..) (.refl _)))

theorem execFftParity_frame (cell : Nat) (a1 : Nat) (sym : Nat) (s : State) :
    FrameN {} s (execFftParity cell a1 sym s) := by
  unfold execFftParity
  exact (FrameN.next (Frame.step (State.fftParity_frame ..) (.refl _)))

theorem execScrubRead_frame (result : Nat) (s : State) :
    FrameN { mem := true, cells := true, runs := true, fab := true } s (execScrubRead result s) := by
  unfold execScrubRead
  exact (FrameN.next (Frame.step (State.scrubRead_frame ..) (.refl _)))

theorem State.wordUe_frame (s : State) (bank : Nat) (d : Nat) (off : Nat) (staging : Bool) :
    Frame { runs := true } s (State.wordUe s bank d off staging) := by
  unfold State.wordUe
  extract_lets x0 _
  refine Frame.withVar x0 (Frame.foldl (fun _ _ => (Frame.step (State.runWordUe_frame ..) (.refl _))) (.refl _)) fun h0 => ?_
  exact (Frame.step (State.faultRecord_frame ..) h0)

theorem State.radioUe_frame (s : State) (c : Nat) (n : Nat) (sym : Nat) (stream : Nat) (prach : Bool) (unit : Nat) :
    Frame { cells := true } s (State.radioUe s c n sym stream prach unit) := by
  unfold State.radioUe
  extract_lets x0
  refine Frame.withVar x0 (Frame.step (State.modCell_frame ..) (.refl _)) fun h0 => ?_
  exact (Frame.step (State.faultRecord_frame ..) h0)

theorem State.sramUe_frame (s : State) (p : SramPlace) (corrected : Nat) :
    Frame { cells := true, runs := true } s (State.sramUe s p corrected) := by
  unfold State.sramUe
  extract_lets x0
  refine Frame.withVar x0 (Frame.step (State.health_frame ..) (Frame.step (State.addFld_frame ..) (.refl _))) fun h0 => ?_
  split
  · exact (Frame.step (State.wordUe_frame ..) (Frame.step (State.sramNote_frame ..) h0))
  · exact (Frame.step (State.wordUe_frame ..) (Frame.step (State.sramNote_frame ..) h0))
  · exact (Frame.step (State.radioUe_frame ..) (Frame.step (State.sramNote_frame ..) h0))
  · exact h0

theorem execSramUe_frame (place : SramPlace) (corrected : Nat) (s : State) :
    FrameN { cells := true, runs := true } s (execSramUe place corrected s) := by
  unfold execSramUe
  exact (FrameN.next (Frame.step (State.sramUe_frame ..) (.refl _)))

theorem State.fatomic_frame (s : State) (g : Nat) (cid : Nat) :
    Frame { mem := true, fab := true } s (State.fatomic s g cid) := by
  unfold State.fatomic
  split
  · exact (.refl _)
  · extract_lets _ _
    exact (Frame.ite (Frame.step (State.fabStatus_frame ..) (.refl _)) (Frame.ite (Frame.step (State.completeStatus_frame ..) (.refl _))
        (Frame.step (State.fabStart_frame ..) (.refl _))))

theorem execFatomic_frame (ring : Nat) (cid : Nat) (s : State) :
    FrameN { mem := true, cells := true, runs := true, fab := true } s (execFatomic ring cid s) := by
  unfold execFatomic
  exact (FrameN.next (Frame.step (State.limitStacks_frame ..) (Frame.step (State.fatomic_frame ..) (.refl _))))

theorem State.finval_frame (s : State) (g : Nat) (cid : Nat) :
    Frame { mem := true, fab := true } s (State.finval s g cid) := by
  unfold State.finval
  split
  · exact (.refl _)
  · extract_lets _ _
    exact (Frame.ite (Frame.step (State.fabStatus_frame ..) (.refl _)) (Frame.ite (Frame.step (State.completeStatus_frame ..) (.refl _))
        (Frame.step (State.fabStart_frame ..) (.refl _))))

theorem execFinval_frame (ring : Nat) (cid : Nat) (s : State) :
    FrameN { mem := true, fab := true } s (execFinval ring cid s) := by
  unfold execFinval
  exact (FrameN.next (Frame.step (State.finval_frame ..) (.refl _)))

theorem execInvalidationReceive_frame (node : Nat) (engine : Nat) (tag : Nat) (addr : Nat) (len : Nat) (s : State) :
    FrameN { fab := true } s (execInvalidationReceive node engine tag addr len s) := by
  unfold execInvalidationReceive
  exact (FrameN.next (Frame.step (State.invalidation_frame ..) (.refl _)))

theorem State.lateResponse_frame (s : State) (op : Nat) :
    Frame {} s (State.lateResponse s op) := by
  unfold State.lateResponse
  extract_lets y0 x1 x2
  refine Frame.withVar x1 (Frame.record (.refl _) rfl rfl (.inr rfl) (.inr rfl) (.inr rfl) (.inr rfl) (.inr rfl)) fun h1 => ?_
  refine Frame.withVar x2 (by
      unfold x2
      clear_value y0
      split
      · exact (Frame.step (State.count_frame ..) h1)
      · exact h1) fun h2 => ?_
  exact (Frame.step (State.addFld_frame ..) h2)

theorem State.installLine_frame (s : State) (o : FOp) (dom : Nat) (data : List Byte) :
    Frame { fab := true } s (State.installLine s o dom data) := by
  unfold State.installLine
  extract_lets _
  split
  · exact (.refl _)
  · extract_lets _ _
    exact (Frame.ite (Frame.step (State.count_frame ..) (Frame.record (.refl _) rfl rfl (.inr rfl) (.inr rfl) (.inr rfl) (.inr rfl) (.inl
        rfl))) (.refl _))

theorem State.jobAnswer_frame (s : State) (o : FOp) (j : Nat) (off : Nat) (node : Nat) (status : Nat) (flags : Nat) (data : List Byte) :
    Frame { mem := true, fab := true } s (State.jobAnswer s o j off node status flags data) := by
  unfold State.jobAnswer
  split
  · exact (.refl _)
  · extract_lets x0
    refine Frame.withVar x0 (Frame.ite (Frame.step (State.installLine_frame ..) (.refl _)) (.refl _)) fun h0 => ?_
    exact (Frame.ite (Frame.step (State.tryNodes_frame ..) (Frame.ite (Frame.step (State.markDown_frame ..) (.refl _)) (.refl _)))
        (Frame.step (State.jobCheck_frame ..) (Frame.step (State.partDone_frame ..) h0)))

theorem State.releaseCommits_frame (s : State) (node : Nat) (peers : List PeerEntry) :
    Frame { fab := true } s (State.releaseCommits s node peers) := by
  unfold State.releaseCommits
  extract_lets _ _ x0
  refine Frame.withVar x0 (Frame.record (.refl _) rfl rfl (.inr rfl) (.inr rfl) (.inr rfl) (.inr rfl) (.inl rfl)) fun h0 => ?_
  exact (Frame.foldl (fun _ _ => (Frame.step (State.regionApply_frame ..) (.refl _))) h0)

theorem State.probeAnswer_frame (s : State) (node : Nat) (status : Nat) (peers : List PeerEntry) :
    Frame { fab := true } s (State.probeAnswer s node status peers) := by
  unfold State.probeAnswer
  exact (Frame.ite (Frame.step (State.releaseCommits_frame ..) (Frame.step (State.exchange_frame ..) (Frame.step (State.setFld_frame ..)
      (.refl _)))) (.refl _))

theorem State.opAnswer_frame (s : State) (o : FOp) (node : Nat) (status : Nat) (flags : Nat) (data : List Byte) (peers : List PeerEntry) :
    Frame { mem := true, fab := true } s (State.opAnswer s o node status flags data peers) := by
  unfold State.opAnswer
  extract_lets x0
  refine Frame.withVar x0 (Frame.ite (Frame.step (State.markDown_frame ..) (.refl _)) (.refl _)) fun h0 => ?_
  split
  · exact (Frame.step (State.jobAnswer_frame ..) (.refl _))
  · exact (Frame.step (State.fillAnswer_frame ..) h0)
  · exact (Frame.step (State.writeAnswer_frame ..) h0)
  · exact (Frame.step (State.invalAnswer_frame ..) h0)
  · exact (Frame.ite (Frame.step (State.probeAnswer_frame ..) (.refl _)) h0)

theorem State.fabricResponse_frame (s : State) (op : Nat) (node : Nat) (status : Nat) (flags : Nat) (data : List Byte) (peers : List
    PeerEntry) :
    Frame { mem := true, fab := true } s (State.fabricResponse s op node status flags data peers) := by
  unfold State.fabricResponse
  extract_lets x0 _
  refine Frame.withVar x0 (Frame.step (State.heard_frame ..) (.refl _)) fun h0 => ?_
  split
  · exact (Frame.step (State.lateResponse_frame ..) h0)
  · extract_lets x1
    refine Frame.withVar x1 (Frame.record h0 rfl rfl (.inr rfl) (.inr rfl) (.inr rfl) (.inr rfl) (.inl rfl)) fun h1 => ?_
    exact (Frame.step (State.pumpAll_frame ..) (Frame.step (State.drainQueue_frame ..) (Frame.step (State.opAnswer_frame ..) h1)))

theorem execFabricResponse_frame (op : Nat) (node : Nat) (status : Nat) (flags : Nat) (data : List Byte) (peers : List PeerEntry) (s :
    State) :
    FrameN { mem := true, fab := true } s (execFabricResponse op node status flags data peers s) := by
  unfold execFabricResponse
  exact (FrameN.next (Frame.step (State.fabricResponse_frame ..) (.refl _)))

theorem execQuarantineExpire_frame (fabric : Bool) (id : Nat) (s : State) :
    FrameN { mem := true, fab := true } s (execQuarantineExpire fabric id s) := by
  unfold execQuarantineExpire
  exact (FrameN.next (Frame.step (State.quarantineEnd_frame ..) (.refl _)))

theorem execSharerDrop_frame (home : Nat) (node : Nat) (s : State) :
    FrameN { mem := true, fab := true } s (execSharerDrop home node s) := by
  unfold execSharerDrop
  exact (FrameN.next (Frame.step (State.sharerDrop_frame ..) (.refl _)))

theorem execBearingFetch_frame (value : Nat) (s : State) :
    FrameN { fab := true } s (execBearingFetch value s) := by
  unfold execBearingFetch
  exact (FrameN.next (Frame.step (State.bearingSel_frame ..) (.refl _)))

theorem execWiden_frame (port : Nat) (s : State) :
    FrameN {} s (execWiden port s) := by
  unfold execWiden
  exact (FrameN.next (Frame.step (State.widen_frame ..) (.refl _)))

theorem State.tagFailed_frame (s : State) (p : Nat) (seq : Nat) :
    Frame { mem := true, fab := true } s (State.tagFailed s p seq) := by
  unfold State.tagFailed
  extract_lets _ x0
  refine Frame.withVar x0 (Frame.step (State.count_frame ..) (.refl _)) fun h0 => ?_
  exact (Frame.ite (Frame.step (State.portDown_frame ..) (Frame.step (State.raise_frame ..) h0)) (Frame.step (State.sendNak_frame ..)
      (Frame.step (State.setRhb_frame ..) h0)))

theorem State.transitFail_frame (s : State) (m : FabMsg) :
    Frame { fab := true } s (State.transitFail s m) := by
  unfold State.transitFail
  exact (Frame.ite (Frame.step (State.sendRsp_frame ..) (.refl _)) (.refl _))

theorem State.forwardMsg_frame (s : State) (port : Nat) (m : FabMsg) :
    Frame { fab := true } s (State.forwardMsg s port m) := by
  unfold State.forwardMsg
  exact (Frame.ite (.refl _) (Frame.ite (Frame.step (State.count_frame ..) (Frame.step (State.raise_frame ..) (.refl _))) (by
      split
      · exact (Frame.step (State.transitFail_frame ..) (.refl _))
      · exact (Frame.step (State.sendMsg_frame ..) (.refl _)))))

theorem State.takeFlit_frame (s : State) (p : Nat) (seq : Nat) (tagOk : Bool) (msgs : List FabMsg) :
    Frame { mem := true, fab := true } s (State.takeFlit s p seq tagOk msgs) := by
  unfold State.takeFlit
  extract_lets _ x0
  refine Frame.withVar x0 (Frame.step (State.setRhb_frame ..) (.refl _)) fun h0 => ?_
  exact (Frame.ite (.refl _) (Frame.ite (Frame.step (State.tagFailed_frame ..) (.refl _)) (Frame.foldl (fun _ _ => (Frame.step
      (State.forwardMsg_frame ..) (.refl _))) (Frame.step (State.addFld_frame ..) h0))))

theorem State.flitReceive_frame (s : State) (p : Nat) (seq : Nat) (ack : Nat) (kind : Nat) (crcOk : Bool) (tagOk : Bool) (msgs : List
    FabMsg) :
    Frame { mem := true, fab := true } s (State.flitReceive s p seq ack kind crcOk tagOk msgs) := by
  unfold State.flitReceive
  extract_lets x0 x1
  refine Frame.withVar x0 (Frame.step (State.count_frame ..) (.refl _)) fun h0 => ?_
  refine Frame.withVar x1 (Frame.step (State.pumpPort_frame ..) (Frame.step (State.takeAck_frame ..) h0)) fun h1 => ?_
  exact (Frame.ite (Frame.ite (Frame.step (State.sendNak_frame ..) (Frame.step (State.count_frame ..) h0)) (by
      split
      · exact (Frame.step (State.takeFlit_frame ..) h1)
      · exact (Frame.step (State.count_frame ..) h1)
      · exact (Frame.step (State.replay_frame ..) h1)
      · exact (Frame.step (State.count_frame ..) h1))) (.refl _))

theorem execFlitReceive_frame (port : Nat) (seq : Nat) (ack : Nat) (kind : Nat) (crcOk : Bool) (tagOk : Bool) (msgs : List FabMsg) (s :
    State) :
    FrameN { mem := true, fab := true } s (execFlitReceive port seq ack kind crcOk tagOk msgs s) := by
  unfold execFlitReceive
  exact (FrameN.next (Frame.step (State.flitReceive_frame ..) (.refl _)))

theorem execRhumbLaneLoss_frame (port : Nat) (lanes : Nat) (s : State) :
    FrameN { mem := true, fab := true } s (execRhumbLaneLoss port lanes s) := by
  unfold execRhumbLaneLoss
  exact (FrameN.next (Frame.step (State.rhumbLaneLoss_frame ..) (.refl _)))

theorem execLinkKeyUpdate_frame (port : Nat) (s : State) :
    FrameN {} s (execLinkKeyUpdate port s) := by
  unfold execLinkKeyUpdate
  exact (FrameN.next (Frame.step (State.linkKeyUpdate_frame ..) (.refl _)))

theorem execDestroyInstance_frame (block : HostRead) (s : State) :
    FrameN { mem := true, cells := true, runs := true } s (execDestroyInstance block s) := by
  unfold execDestroyInstance
  exact (FrameN.next (Frame.step (State.mbxGo_frame ..) (.refl _)))

theorem execResetInstance_frame (block : HostRead) (s : State) :
    FrameN { mem := true, cells := true, runs := true } s (execResetInstance block s) := by
  unfold execResetInstance
  exact (FrameN.next (Frame.step (State.mbxGo_frame ..) (.refl _)))

theorem execRingEnable_frame (inst : Nat) (loc : Nat) (value : Nat) (link : Nat) (s : State) :
    FrameN {} s (execRingEnable inst loc value link s) := by
  unfold execRingEnable
  exact (FrameN.next (Frame.step (State.ringCfgWrite_frame ..) (.refl _)))

theorem execRingDisable_frame (inst : Nat) (loc : Nat) (value : Nat) (link : Nat) (s : State) :
    FrameN {} s (execRingDisable inst loc value link s) := by
  unfold execRingDisable
  exact (FrameN.next (Frame.step (State.ringCfgWrite_frame ..) (.refl _)))

theorem execIrqCoalTimer_frame (ring : Nat) (s : State) :
    FrameN {} s (execIrqCoalTimer ring s) := by
  unfold execIrqCoalTimer
  exact (FrameN.next (Frame.step (State.coalTimer_frame ..) (.refl _)))

theorem State.lateCpl_frame (s : State) (job : Nat) :
    Frame {} s (State.lateCpl s job) := by
  unfold State.lateCpl
  extract_lets y0 _ x1 x2
  refine Frame.withVar x1 (Frame.record (.refl _) rfl rfl (.inr rfl) (.inr rfl) (.inr rfl) (.inr rfl) (.inr rfl)) fun h1 => ?_
  refine Frame.withVar x2 (by
      unfold x2
      clear_value y0
      split
      · exact (Frame.step (State.count_frame ..) h1)
      · exact h1) fun h2 => ?_
  exact (Frame.step (State.raise_frame ..) (Frame.step (State.addFld_frame ..) h2))

theorem State.hcopyLand_frame (s : State) (g : Nat) (cid : Nat) (off : Nat) (b : List Byte) :
    Frame { mem := true } s (State.hcopyLand s g cid off b) := by
  unfold State.hcopyLand
  extract_lets _
  split
  · exact (Frame.step (State.hcopyFail_frame ..) (.refl _))
  · exact (Frame.step (State.completeStatus_frame ..) (Frame.step (State.count_frame ..) (Frame.step (State.dmaBytes_frame ..) (Frame.step
        (State.storeData_frame ..) (.refl _)))))

theorem State.dmaDone_frame (s : State) (k : Nat) (j : DmaJob) (b : List Byte) :
    Frame { mem := true, fab := true } s (State.dmaDone s k j b) := by
  unfold State.dmaDone
  extract_lets x0
  refine Frame.withVar x0 (Frame.record (.refl _) rfl rfl (.inr rfl) (.inr rfl) (.inr rfl) (.inr rfl) (.inr rfl)) fun h0 => ?_
  split
  · exact (Frame.record (.refl _) rfl rfl (.inr rfl) (.inr rfl) (.inr rfl) (.inr rfl) (.inr rfl))
  · split
    · exact h0
    · exact (Frame.step (State.hcopyLand_frame ..) h0)
  · exact (Frame.step (State.chartLand_frame ..) (.refl _))
  · split
    · exact h0
    · exact (Frame.getD (FrameO.step (State.startJob_frame ..) (Frame.step (State.dmaBytes_frame ..) h0)) (.refl _))

theorem State.dmaCompletion_frame (s : State) (k : Nat) (h : HostRead) :
    Frame { mem := true, fab := true } s (State.dmaCompletion s k h) := by
  unfold State.dmaCompletion
  split
  · exact (Frame.step (State.lateCpl_frame ..) (.refl _))
  · exact (Frame.ite (Frame.step (State.lateCpl_frame ..) (.refl _)) (Frame.ite (.refl _) (by
        split
        · extract_lets _ x0
          refine Frame.withVar x0 (Frame.step (State.count_frame ..) (.refl _)) fun h0 => ?_
          exact (Frame.ite (Frame.step (State.dmaDone_frame ..) h0) (Frame.record h0 rfl rfl (.inr rfl) (.inr rfl) (.inr rfl) (.inr rfl)
              (.inr rfl)))
        · exact (Frame.step (State.dmaTimeout_frame ..) (.refl _))
        · exact (Frame.step (State.dmaFailed_frame ..) (Frame.step (State.dmaNote_frame ..) (.refl _))))))

theorem execDmaCompletion_frame (job : Nat) (result : HostRead) (s : State) :
    FrameN { mem := true, fab := true } s (execDmaCompletion job result s) := by
  unfold execDmaCompletion
  exact (FrameN.next (Frame.step (State.dmaCompletion_frame ..) (.refl _)))

theorem execDmaTimeout_frame (job : Nat) (s : State) :
    FrameN { mem := true, fab := true } s (execDmaTimeout job s) := by
  unfold execDmaTimeout
  exact (FrameN.next (Frame.step (State.dmaTimeout_frame ..) (.refl _)))

theorem State.resetDone_frame (s : State) (inst : Nat) (slow : Bool) :
    Frame {} s (State.resetDone s inst slow) := by
  unfold State.resetDone
  split
  · exact (.refl _)
  · extract_lets x0 x1 x2 x3 x4 x5
    refine Frame.withVar x0 (Frame.step (State.atsDrop_frame ..) (.refl _)) fun h0 => ?_
    refine Frame.withVar x1 (Frame.foldl (fun _ _ => (Frame.step (State.clearRing_frame ..) (.refl _))) h0) fun h1 => ?_
    refine Frame.withVar x2 (Frame.step (State.addFld_frame ..) (Frame.step (State.writeInfo_frame ..) h1)) fun h2 => ?_
    refine Frame.withVar x3 (Frame.ite (Frame.step (State.raise_frame ..) h2) h2) fun h3 => ?_
    refine Frame.withVar x4 (Frame.step (State.setFld_frame ..) h3) fun h4 => ?_
    refine Frame.withVar x5 (Frame.record h4 rfl rfl (.inr rfl) (.inr rfl) (.inr rfl) (.inr rfl) (.inr rfl)) fun h5 => ?_
    exact (Frame.ite (.refl _) (Frame.step (State.mbxSettle_frame ..) (Frame.ite (Frame.step (State.freeInst_frame ..) h5) h5)))

theorem execContextResetDone_frame (inst : Nat) (slow : Bool) (s : State) :
    FrameN {} s (execContextResetDone inst slow s) := by
  unfold execContextResetDone
  exact (FrameN.next (Frame.step (State.resetDone_frame ..) (.refl _)))

theorem execFlr_frame (function : Nat) (s : State) :
    FrameN { mem := true, cells := true, runs := true } s (execFlr function s) := by
  unfold execFlr
  exact (FrameN.next (Frame.step (State.flr_frame ..) (.refl _)))

theorem execEngineParity_frame (fabric : Bool) (engine : Nat) (s : State) :
    FrameN { mem := true, cells := true, runs := true } s (execEngineParity fabric engine s) := by
  unfold execEngineParity
  exact (FrameN.next (Frame.step (State.engineParity_frame ..) (.refl _)))

theorem execTxPoll_frame (queue : Nat) (s : State) :
    FrameN { mem := true } s (execTxPoll queue s) := by
  unfold execTxPoll
  exact (FrameN.next (Frame.step (State.txPoll_frame ..) (.refl _)))

theorem execEgressSelect_frame (subport : Nat) (s : State) :
    FrameN { mem := true } s (execEgressSelect subport s) := by
  unfold execEgressSelect
  exact (FrameN.next (Frame.step (State.egressSelect_frame ..) (.refl _)))

theorem execTelemetrySample_frame (s : State) :
    FrameN { mem := true } s (execTelemetrySample s) := by
  unfold execTelemetrySample
  exact (FrameN.next (Frame.step (State.telemetry_frame ..) (.refl _)))

theorem State.subUp_frame (s : State) (sp : Nat) :
    Frame {} s (State.subUp s sp) := by
  unfold State.subUp
  extract_lets _ _ x0 x1
  refine Frame.withVar x0 (Frame.step (State.setFld_frame ..) (.refl _)) fun h0 => ?_
  refine Frame.withVar x1 (Frame.step (State.setFld_frame ..) h0) fun h1 => ?_
  exact (Frame.ite (Frame.ite h1 (Frame.step (State.setFld_frame ..) h1)) (.refl _))

theorem execSubportUp_frame (subport : Nat) (s : State) :
    FrameN {} s (execSubportUp subport s) := by
  unfold execSubportUp
  exact (FrameN.next (Frame.step (State.subUp_frame ..) (.refl _)))

theorem execReform_frame (port : Nat) (s : State) :
    FrameN { mem := true, mer := true } s (execReform port s) := by
  unfold execReform
  exact (FrameN.next (Frame.step (State.reformPort_frame ..) (.refl _)))

theorem execPolicerWrite_frame (value : Nat) (s : State) :
    FrameN {} s (execPolicerWrite value s) := by
  unfold execPolicerWrite
  exact (FrameN.next (Frame.step (State.policerWrite_frame ..) (.refl _)))

theorem execPringWrite_frame (value : Nat) (s : State) :
    FrameN {} s (execPringWrite value s) := by
  unfold execPringWrite
  exact (FrameN.next (Frame.step (State.pringWrite_frame ..) (.refl _)))

theorem execGetCapabilities_frame (s : State) :
    FrameN {} s (execGetCapabilities s) := by
  unfold execGetCapabilities
  exact (FrameN.next (Frame.trans (State.sxtServe_frame (fun _ => (Frame.step (State.send_frame ..) (.refl _))) ..) (.refl _)))

theorem execChallenge_frame (slot : Nat) (s : State) :
    FrameN {} s (execChallenge slot s) := by
  unfold execChallenge
  exact (FrameN.next (Frame.trans (State.sxtServe_frame (fun _ => (Frame.ite (Frame.step (State.spdmOpen_frame ..) (.refl _)) (Frame.step
      (State.send_frame ..) (.refl _)))) ..) (.refl _)))

theorem execKeyExchange_frame (ok : Bool) (s : State) :
    FrameN {} s (execKeyExchange ok s) := by
  unfold execKeyExchange
  exact (FrameN.next (Frame.trans (State.sxtServe_frame (fun _ => (Frame.step (State.keyExchange_frame ..) (.refl _))) ..) (.refl _)))

theorem execHeartbeat_frame (session : Nat) (aeadOk : Bool) (s : State) :
    FrameN {} s (execHeartbeat session aeadOk s) := by
  unfold execHeartbeat
  exact (FrameN.next (Frame.trans (State.secured_frame (fun _ _ => (Frame.step (State.send_frame ..) (.refl _))) ..) (.refl _)))

theorem State.domKeyGen_frame (s : State) (d : Nat) (b : List Byte) :
    Frame { mem := true, keys := true } s (State.domKeyGen s d b).1 := by
  unfold State.domKeyGen
  extract_lets x0
  refine Frame.withVar x0.2 (Frame.step (State.fresh_frame ..) (.refl _)) fun h0 => ?_
  exact (Frame.ite1 (Frame.fst (.refl _)) (Frame.ite1 (Frame.fst (.refl _)) (Frame.fst (Frame.step (State.installKey_frame ..) h0))))

theorem execDomKeyGen_frame (session : Nat) (aeadOk : Bool) (req : List Byte) (s : State) :
    FrameN { mem := true, keys := true } s (execDomKeyGen session aeadOk req s) := by
  unfold execDomKeyGen
  exact (FrameN.next (Frame.trans (State.keyOp_frame (fun _ _ => (Frame.step (State.domKeyGen_frame ..) (.refl _))) ..) (.refl _)))

theorem execSakSet_frame (session : Nat) (aeadOk : Bool) (req : List Byte) (s : State) :
    FrameN {} s (execSakSet session aeadOk req s) := by
  unfold execSakSet
  exact (FrameN.next (Frame.trans (State.keyOp_frame (fun _ _ => (Frame.step (State.sakSet_frame ..) (.refl _))) ..) (.refl _)))

theorem State.sakClear_frame (s : State) (d : Nat) (b : List Byte) :
    Frame {} s (State.sakClear s d b).1 := by
  unfold State.sakClear
  exact (Frame.ite1 (Frame.fst (.refl _)) (Frame.ite1 (Frame.fst (.refl _)) (Frame.ite1 (Frame.fst (.refl _)) (Frame.ite1 (Frame.fst (.refl
      _)) (Frame.fst (Frame.step (State.showAns_frame ..) (Frame.record (.refl _) rfl rfl (.inr rfl) (.inr rfl) (.inr rfl) (.inr rfl) (.inr
      rfl))))))))

theorem execSakClear_frame (session : Nat) (aeadOk : Bool) (req : List Byte) (s : State) :
    FrameN {} s (execSakClear session aeadOk req s) := by
  unfold execSakClear
  exact (FrameN.next (Frame.trans (State.keyOp_frame (fun _ _ => (Frame.step (State.sakClear_frame ..) (.refl _))) ..) (.refl _)))

theorem State.saStatus_frame (s : State) (d : Nat) (b : List Byte) :
    Frame {} s (State.saStatus s d b).1 := by
  unfold State.saStatus
  exact (Frame.ite1 (Frame.fst (.refl _)) (Frame.ite1 (Frame.fst (.refl _)) (by
      split
      · exact (Frame.fst (.refl _))
      · exact (Frame.fst (.refl _)))))

theorem execSaStatus_frame (session : Nat) (aeadOk : Bool) (req : List Byte) (s : State) :
    FrameN {} s (execSaStatus session aeadOk req s) := by
  unfold execSaStatus
  exact (FrameN.next (Frame.trans (State.keyOp_frame (fun _ _ => (Frame.step (State.saStatus_frame ..) (.refl _))) ..) (.refl _)))

theorem State.setNoticeRing_frame (s : State) (d : Nat) (b : List Byte) :
    Frame {} s (State.setNoticeRing s d b).1 := by
  unfold State.setNoticeRing
  extract_lets _
  exact (Frame.ite1 (Frame.fst (.refl _)) (by
      split
      · exact (Frame.fst (.refl _))
      · exact (Frame.ite1 (Frame.fst (.refl _)) (by
            split
            · exact (Frame.fst (.refl _))
            · exact (Frame.fst (Frame.record (.refl _) rfl rfl (.inr rfl) (.inr rfl) (.inr rfl) (.inr rfl) (.inr rfl)))))))

theorem execSetNoticeRing_frame (session : Nat) (aeadOk : Bool) (req : List Byte) (s : State) :
    FrameN {} s (execSetNoticeRing session aeadOk req s) := by
  unfold execSetNoticeRing
  exact (FrameN.next (Frame.trans (State.keyOp_frame (fun _ _ => (Frame.step (State.setNoticeRing_frame ..) (.refl _))) ..) (.refl _)))

theorem execReckonWrite_frame (inst : Nat) (loc : Nat) (value : Nat) (link : Nat) (s : State) :
    FrameN {} s (execReckonWrite inst loc value link s) := by
  unfold execReckonWrite
  exact (FrameN.next (Frame.step (State.reckonWrite_frame ..) (.refl _)))

theorem execSeedWrite_frame (inst : Nat) (loc : Nat) (value : Nat) (link : Nat) (s : State) :
    FrameN {} s (execSeedWrite inst loc value link s) := by
  unfold execSeedWrite
  exact (FrameN.next (Frame.step (State.seedWrite_frame ..) (.refl _)))

theorem execPtpTxTimer_frame (subport : Nat) (kind : Nat) (s : State) :
    FrameN { mer := true } s (execPtpTxTimer subport kind s) := by
  unfold execPtpTxTimer
  exact (FrameN.next (Frame.step (State.ptpTx_frame ..) (.refl _)))

theorem execEsmcTxTimer_frame (s : State) :
    FrameN { mer := true } s (execEsmcTxTimer s) := by
  unfold execEsmcTxTimer
  exact (FrameN.next (Frame.step (State.esmcTx_frame ..) (.refl _)))

theorem State.holdExpired_frame (s : State) :
    Frame {} s (State.holdExpired s) := by
  unfold State.holdExpired
  extract_lets x0 x1
  refine Frame.withVar x0 (Frame.step (State.advanceTo_frame ..) (.refl _)) fun h0 => ?_
  refine Frame.withVar x1 (Frame.step (State.raise_frame ..) (Frame.step (State.raise_frame ..) h0)) fun h1 => ?_
  exact (Frame.ite (Frame.step (State.setClass_frame ..) (Frame.step (State.merCount_frame ..) (Frame.step (State.raise_frame ..) h1)))
      (.refl _))

theorem execHoldExpired_frame (s : State) :
    FrameN {} s (execHoldExpired s) := by
  unfold execHoldExpired
  exact (FrameN.next (Frame.step (State.holdExpired_frame ..) (.refl _)))

theorem execPpsEdge_frame (withStep : Bool) (s : State) :
    FrameN { mer := true } s (execPpsEdge withStep s) := by
  unfold execPpsEdge
  exact (FrameN.next (Frame.step (State.ppsEdge_frame ..) (.refl _)))

theorem execPpsOutEdge_frame (s : State) :
    FrameN { mer := true } s (execPpsOutEdge s) := by
  unfold execPpsOutEdge
  exact (FrameN.next (Frame.step (State.ppsRise_frame ..) (.refl _)))

theorem execLatch_frame (value : Nat) (s : State) :
    FrameN { mer := true } s (execLatch value s) := by
  unfold execLatch
  exact (FrameN.next (Frame.step (State.timeCtrl_frame ..) (.refl _)))

theorem execSet_frame (value : Nat) (s : State) :
    FrameN { mer := true } s (execSet value s) := by
  unfold execSet
  exact (FrameN.next (Frame.step (State.timeCtrl_frame ..) (.refl _)))

theorem execStep_frame (value : Nat) (s : State) :
    FrameN { mer := true } s (execStep value s) := by
  unfold execStep
  exact (FrameN.next (Frame.step (State.timeCtrl_frame ..) (.refl _)))

theorem execStage_frame (images : ImageRead) (flashOk : Bool) (s : State) :
    FrameN {} s (execStage images flashOk s) := by
  unfold execStage
  exact (FrameN.next (Frame.step (State.stageGo_frame ..) (.refl _)))

theorem execActivateReset_frame (s : State) :
    FrameN { mem := true, cells := true, mer := true, keys := true, runs := true, fab := true } s (execActivateReset s) := by
  unfold execActivateReset
  exact (FrameN.next (Frame.trans (State.almGo_frame (fun _ => Frame.step (State.activateReset_frame ..) (.refl _)) ..) (.refl _)))

theorem execRollbackReset_frame (s : State) :
    FrameN { mem := true, cells := true, mer := true, keys := true, runs := true, fab := true } s (execRollbackReset s) := by
  unfold execRollbackReset
  exact (FrameN.next (Frame.trans (State.almGo_frame (fun _ => Frame.step (State.rollbackReset_frame ..) (.refl _)) ..) (.refl _)))

theorem execAbort_frame (s : State) :
    FrameN { mem := true, cells := true, mer := true, keys := true, runs := true, fab := true } s (execAbort s) := by
  unfold execAbort
  exact (FrameN.next (Frame.step (State.abortLive_frame ..) (.refl _)))

theorem execWriteFactory_frame (images : ImageRead) (flashOk : Bool) (s : State) :
    FrameN {} s (execWriteFactory images flashOk s) := by
  unfold execWriteFactory
  exact (FrameN.next (Frame.step (State.factoryGo_frame ..) (.refl _)))

theorem State.updateUnit_frame (s : State) (outcome : Nat) :
    Frame { mem := true, cells := true, mer := true, keys := true, runs := true, fab := true } s (State.updateUnit s outcome) := by
  unfold State.updateUnit
  split
  · exact (.refl _)
  · split
    · exact (.refl _)
    · extract_lets x0 x1 _ _ x2
      refine Frame.withVar x0 (Frame.ite (Frame.step (State.toBoundary_frame ..) (.refl _)) (.refl _)) fun h0 => ?_
      refine Frame.withVar x1 (Frame.step (State.count_frame ..) (Frame.step (State.reconfigure_frame ..) (Frame.step (State.noteMap_frame
          ..) h0))) fun h1 => ?_
      refine Frame.withVar x2 (Frame.step (State.showUpdate_frame ..) (Frame.record h1 rfl rfl (.inr rfl) (.inr rfl) (.inr rfl) (.inr rfl)
          (.inr rfl))) fun h2 => ?_
      exact (Frame.ite (Frame.step (State.revert_frame ..) (Frame.step (State.noteOutcome_frame ..) (.refl _))) (Frame.ite (.refl _)
          (Frame.ite (Frame.ite (Frame.step (State.updateDone_frame ..) h2) h2) (Frame.ite (Frame.step (State.revert_frame ..) (.refl _))
          (Frame.step (State.revert_frame ..) (Frame.step (State.unitFails_frame ..) (.refl _)))))))

theorem execLiveUpdateUnit_frame (outcome : Nat) (s : State) :
    FrameN { mem := true, cells := true, mer := true, keys := true, runs := true, fab := true } s (execLiveUpdateUnit outcome s) := by
  unfold execLiveUpdateUnit
  exact (FrameN.next (Frame.trans (State.sxtServe_frame (fun _ => (Frame.step (State.updateUnit_frame ..) (.refl _))) ..) (.refl _)))

theorem execLockstepDisagree_frame (pc : Nat) (s : State) :
    FrameN { mem := true, cells := true, mer := true, keys := true, runs := true, fab := true } s (execLockstepDisagree pc s) := by
  unfold execLockstepDisagree
  exact (FrameN.next (Frame.step (State.disagree_frame ..) (.refl _)))

theorem execSensorSample_frame (readings : List Nat) (s : State) :
    FrameN { cells := true, mer := true, runs := true, fab := true } s (execSensorSample readings s) := by
  unfold execSensorSample
  exact (FrameN.next (Frame.step (State.sensors_frame ..) (.refl _)))

theorem execHeldResetStart_frame (s : State) :
    FrameN { mem := true, cells := true, mer := true, keys := true, runs := true, fab := true } s (execHeldResetStart s) := by
  unfold execHeldResetStart
  exact (FrameN.next (Frame.step (State.heldStart_frame ..) (.refl _)))

theorem execLogMirrorWrite_frame (flashOk : Bool) (s : State) :
    FrameN {} s (execLogMirrorWrite flashOk s) := by
  unfold execLogMirrorWrite
  exact (FrameN.next (Frame.step (State.mirrorDue_frame ..) (.refl _)))

theorem State.logFails_frame (s : State) :
    Frame {} s (State.logFails s) := by
  unfold State.logFails
  extract_lets _ _ _ x0 x1
  refine Frame.withVar x0 (Frame.record (.refl _) rfl rfl (.inr rfl) (.inr rfl) (.inr rfl) (.inr rfl) (.inr rfl)) fun h0 => ?_
  refine Frame.withVar x1 (Frame.step (State.logEvent_frame ..) h0) fun h1 => ?_
  exact (Frame.ite (Frame.step (State.raise_frame ..) (Frame.step (State.setFld_frame ..) h1)) (.refl _))

theorem execLogFailed_frame (s : State) :
    FrameN {} s (execLogFailed s) := by
  unfold execLogFailed
  exact (FrameN.next (Frame.step (State.logFails_frame ..) (.refl _)))

theorem execLogSelWrite_frame (value : Nat) (s : State) :
    FrameN {} s (execLogSelWrite value s) := by
  unfold execLogSelWrite
  exact (FrameN.next (Frame.ite (Frame.step (State.logSel_frame ..) (.refl _)) (.refl _)))

theorem State.logFetch_frame (s : State) (crcOk : Bool) :
    Frame {} s (State.logFetch s crcOk) := by
  unfold State.logFetch
  extract_lets _ x0
  refine Frame.withVar x0 (Frame.step (State.setFld_frame ..) (Frame.record (.refl _) rfl rfl (.inr rfl) (.inr rfl) (.inr rfl) (.inr rfl)
      (.inr rfl))) fun h0 => ?_
  split
  · exact (.refl _)
  · split
    · exact (Frame.step (State.setFld_frame ..) h0)
    · extract_lets _ x1
      refine Frame.withVar x1 (Frame.foldl (fun _ _ => (Frame.step (State.setReg_frame ..) (.refl _))) h0) fun h1 => ?_
      exact (Frame.ite (Frame.step (State.setFld_frame ..) h0) (Frame.step (State.setFld_frame ..) (Frame.step (State.setFld_frame ..) h1)))

theorem execLogFetchDone_frame (crcOk : Bool) (s : State) :
    FrameN {} s (execLogFetchDone crcOk s) := by
  unfold execLogFetchDone
  exact (FrameN.next (Frame.step (State.logFetch_frame ..) (.refl _)))

theorem execActivateFirmware_frame (selfContained : Bool) (s : State) :
    FrameN {} s (execActivateFirmware selfContained s) := by
  unfold execActivateFirmware
  exact (FrameN.next (Frame.step (State.pldmActivate_frame ..) (.refl _)))

theorem execPldmTimeout_frame (s : State) :
    FrameN { mem := true, cells := true, mer := true, keys := true, runs := true, fab := true } s (execPldmTimeout s) := by
  unfold execPldmTimeout
  exact (FrameN.next (Frame.step (State.pldmTimeout_frame ..) (.refl _)))

theorem State.busPoll_frame (s : State) (statuses : List Nat) :
    Frame {} s (State.busPoll s statuses) := by
  unfold State.busPoll
  extract_lets x0 _ x1 _
  refine Frame.withVar x0 (Frame.step (State.advanceTo_frame ..) (.refl _)) fun h0 => ?_
  refine Frame.withVar x1 (Frame.record h0 rfl rfl (.inr rfl) (.inr rfl) (.inr rfl) (.inr rfl) (.inr rfl)) fun h1 => ?_
  exact (Frame.ite (Frame.ite h1 (Frame.foldl (fun _ _ => (Frame.step (State.logOpen_frame ..) (.refl _))) (Frame.step (State.count_frame
      ..) h1))) (.refl _))

theorem execBusPoll_frame (statuses : List Nat) (s : State) :
    FrameN {} s (execBusPoll statuses s) := by
  unfold execBusPoll
  exact (FrameN.next (Frame.step (State.busPoll_frame ..) (.refl _)))

theorem execSclLowTimeout_frame (s : State) :
    FrameN {} s (execSclLowTimeout s) := by
  unfold execSclLowTimeout
  exact (FrameN.next (Frame.ite (Frame.step (State.count_frame ..) (.refl _)) (.refl _)))

theorem execExtest_frame (s : State) :
    FrameN {} s (execExtest s) := by
  unfold execExtest
  exact (FrameN.next (Frame.step (State.tapOnly_frame ..) (.refl _)))

theorem execTileTest_frame (ring : Nat) (cid : Nat) (s : State) :
    FrameN {} s (execTileTest ring cid s) := by
  unfold execTileTest
  exact (FrameN.next (Frame.step (State.maintStart_frame ..) (.refl _)))

theorem execSerdesCal_frame (ring : Nat) (cid : Nat) (s : State) :
    FrameN {} s (execSerdesCal ring cid s) := by
  unfold execSerdesCal
  exact (FrameN.next (Frame.step (State.maintStart_frame ..) (.refl _)))

theorem State.maintAbort_frame (s : State) (g : Nat) (cid : Nat) :
    Frame {} s (State.maintAbort s g cid) := by
  unfold State.maintAbort
  split
  · exact (.refl _)
  · split
    · exact (Frame.step (State.complete_frame ..) (.refl _))
    · exact (Frame.step (State.complete_frame ..) (Frame.step (State.maintEnd_frame ..) (.refl _)))

theorem execMaintAbort_frame (ring : Nat) (cid : Nat) (s : State) :
    FrameN {} s (execMaintAbort ring cid s) := by
  unfold execMaintAbort
  exact (FrameN.next (Frame.step (State.maintAbort_frame ..) (.refl _)))

theorem execMaintComplete_frame (ring : Nat) (cid : Nat) (passed : Bool) (errors : Nat) (ce : List Nat) (ue : List Nat) (s : State) :
    FrameN { mem := true, cells := true, mer := true, runs := true, fab := true } s (execMaintComplete ring cid passed errors ce ue s) := by
  unfold execMaintComplete
  exact (FrameN.next (Frame.step (State.maintComplete_frame ..) (.refl _)))

theorem execEvcProgram_frame (value : Nat) (s : State) :
    FrameN {} s (execEvcProgram value s) := by
  unfold execEvcProgram
  exact (FrameN.next (Frame.step (State.evcCfgWrite_frame ..) (.refl _)))

theorem execEvcFree_frame (session : Nat) (aeadOk : Bool) (req : List Byte) (s : State) :
    FrameN {} s (execEvcFree session aeadOk req s) := by
  unfold execEvcFree
  exact (FrameN.next (Frame.trans (State.keyOp_frame (fun _ _ => (Frame.step (State.evcFree_frame ..) (.refl _))) ..) (.refl _)))

theorem State.evcRead_frame (s : State) (sid : Nat) (d : Nat) (b : List Byte) :
    Frame {} s (State.evcRead s sid d b) := by
  unfold State.evcRead
  extract_lets _ _ _ x0
  refine Frame.withVar x0 (Frame.ite (Frame.step (State.setSnap_frame ..) (.refl _)) (.refl _)) fun h0 => ?_
  exact (Frame.ite (Frame.step (State.keyAnswer_frame ..) (.refl _)) (Frame.ite (Frame.step (State.keyAnswer_frame ..) (.refl _))
      (Frame.step (State.keyAnswer_frame ..) h0)))

theorem execEvcRead_frame (session : Nat) (aeadOk : Bool) (req : List Byte) (s : State) :
    FrameN {} s (execEvcRead session aeadOk req s) := by
  unfold execEvcRead
  exact (FrameN.next (Frame.trans (State.secured_frame (fun _ _ => (by
      split
      · exact (Frame.step (State.keyAnswer_frame ..) (.refl _))
      · exact (Frame.step (State.evcRead_frame ..) (.refl _)))) ..) (.refl _)))

theorem State.snapshot_frame (s : State) (d : Nat) :
    Frame { mem := true } s (State.snapshot s d) := by
  unfold State.snapshot
  extract_lets _ x0
  refine Frame.withVar x0 (Frame.step (State.advanceTo_frame ..) (.refl _)) fun h0 => ?_
  exact (Frame.ite (.refl _) (Frame.trans (State.coresServe_frame (fun _ => (by
      extract_lets _
      split
      · exact (Frame.step (State.count_frame ..) (Frame.step (State.setSnap_frame ..) (Frame.step (State.storeData_frame ..) (.refl _))))
      · exact (Frame.ite (Frame.step (State.setSnap_frame ..) (.refl _)) (Frame.step (State.setSnap_frame ..) (Frame.step
            (State.hbmNote_frame ..) (.refl _)))))) ..) h0))

theorem execSnapshotRecord_frame (dom : Nat) (s : State) :
    FrameN { mem := true } s (execSnapshotRecord dom s) := by
  unfold execSnapshotRecord
  exact (FrameN.next (Frame.step (State.snapshot_frame ..) (.refl _)))

theorem State.pllLoss_frame (s : State) (p : Nat) (relock : Bool) :
    Frame { mem := true, cells := true, mer := true, runs := true, fab := true } s (State.pllLoss s p relock) := by
  unfold State.pllLoss
  extract_lets _ _ x0
  refine Frame.withVar x0 (Frame.step (State.faultRecord_frame ..) (Frame.step (State.setPll_frame ..) (Frame.step (State.raise_frame ..)
      (.refl _)))) fun h0 => ?_
  exact (Frame.ite (.refl _) (Frame.ite (Frame.step (State.logOpen_frame ..) (Frame.step (State.raise_frame ..) (.refl _))) (Frame.ite
      (Frame.step (State.endService_frame ..) h0) (Frame.step (State.pllGone_frame ..) h0))))

theorem execPllLockLoss_frame (pll : Nat) (relock : Bool) (s : State) :
    FrameN { mem := true, cells := true, mer := true, runs := true, fab := true } s (execPllLockLoss pll relock s) := by
  unfold execPllLockLoss
  exact (FrameN.next (Frame.step (State.pllLoss_frame ..) (.refl _)))

theorem State.setDuty_frame (s : State) (d : Nat) :
    Frame {} s (State.setDuty s d) := by
  unfold State.setDuty
  extract_lets _ x0 x1
  refine Frame.withVar x0 (Frame.step (State.setFld_frame ..) (.refl _)) fun h0 => ?_
  refine Frame.withVar x1 (Frame.ite (Frame.step (State.raise_frame ..) h0) h0) fun h1 => ?_
  exact (Frame.ite (Frame.step (State.count_frame ..) h1) h1)

theorem State.powerSample_frame (s : State) (mw : Nat) :
    Frame {} s (State.powerSample s mw) := by
  unfold State.powerSample
  extract_lets x0 _ x1 x2 x3 _ _ _ x4
  refine Frame.withVar x0 (Frame.step (State.advanceTo_frame ..) (.refl _)) fun h0 => ?_
  refine Frame.withVar x1 (Frame.step (State.setFld_frame ..) h0) fun h1 => ?_
  refine Frame.withVar x2 (Frame.step (State.setFld_frame ..) h1) fun h2 => ?_
  refine Frame.withVar x3 (Frame.step (State.setDuty_frame ..) h2) fun h3 => ?_
  refine Frame.withVar x4 (Frame.step (State.holdSince_frame ..) (Frame.record h3 rfl rfl (.inr rfl) (.inr rfl) (.inr rfl) (.inr rfl) (.inr
      rfl))) fun h4 => ?_
  exact (Frame.ite (.refl _) (Frame.ite (Frame.step (State.shrinkShares_frame ..) h4) h4))

theorem execPowerSample_frame (mw : Nat) (s : State) :
    FrameN {} s (execPowerSample mw s) := by
  unfold execPowerSample
  exact (FrameN.next (Frame.step (State.powerSample_frame ..) (.refl _)))

theorem execDwellElapsed_frame (kind : Nat) (idx : Nat) (s : State) :
    FrameN {} s (execDwellElapsed kind idx s) := by
  unfold execDwellElapsed
  exact (FrameN.next (Frame.step (State.dwellElapsed_frame ..) (.refl _)))

theorem execArrPllOff_frame (s : State) :
    FrameN {} s (execArrPllOff s) := by
  unfold execArrPllOff
  exact (FrameN.next (Frame.step (State.arrStop_frame ..) (.refl _)))

theorem execDeviceReset_frame (s : State) :
    FrameN { mem := true, cells := true, mer := true, keys := true, runs := true, fab := true } s (execDeviceReset s) := by
  unfold execDeviceReset
  exact (FrameN.next (Frame.step (State.deviceResetGo_frame ..) (.refl _)))

theorem execUnitRestart_frame (value : Nat) (passed : Bool) (s : State) :
    FrameN { mem := true, cells := true, mer := true, runs := true, fab := true } s (execUnitRestart value passed s) := by
  unfold execUnitRestart
  exact (FrameN.next (Frame.step (State.unitRestart_frame ..) (.refl _)))

theorem execHealthClear_frame (s : State) :
    FrameN {} s (execHealthClear s) := by
  unfold execHealthClear
  exact (FrameN.next (Frame.step (State.healthClear_frame ..) (.refl _)))

theorem execEnable_frame (force : Bool) (passed : Bool) (s : State) :
    FrameN {} s (execEnable force passed s) := by
  unfold execEnable
  exact (FrameN.next (Frame.step (State.enableGo_frame ..) (.refl _)))

theorem State.clockBack_frame (s : State) (kind : Nat) (idx : Nat) (speed : Nat) (width : Nat) :
    Frame { mer := true } s (State.clockBack s kind idx speed width) := by
  unfold State.clockBack
  extract_lets _ x0 _
  refine Frame.withVar x0 (Frame.record (.refl _) rfl rfl (.inr rfl) (.inr rfl) (.inr rfl) (.inr rfl) (.inr rfl)) fun h0 => ?_
  exact (Frame.ite (Frame.ite (Frame.ite (Frame.step (State.linkState_frame ..) h0) h0) (Frame.ite (Frame.step (State.freqSelect_frame ..)
      (Frame.record h0 rfl rfl (.inr rfl) (.inl rfl) (.inr rfl) (.inr rfl) (.inr rfl))) h0)) (.refl _))

theorem execClockReturn_frame (kind : Nat) (idx : Nat) (speed : Nat) (width : Nat) (s : State) :
    FrameN { mer := true } s (execClockReturn kind idx speed width s) := by
  unfold execClockReturn
  extract_lets _
  exact (FrameN.next (Frame.step (State.clockBack_frame ..) (.refl _)))

theorem State.perst_frame (s : State) (j : Nat) (speed : Nat) (width : Nat) :
    Frame {} s (State.perst s j speed width) := by
  unfold State.perst
  exact (Frame.ite (Frame.step (State.linkState_frame ..) (.refl _)) (.refl _))

theorem execPerstDeassert_frame (link : Nat) (speed : Nat) (width : Nat) (s : State) :
    FrameN {} s (execPerstDeassert link speed width s) := by
  unfold execPerstDeassert
  exact (FrameN.next (Frame.step (State.perst_frame ..) (.refl _)))

theorem State.dropRegs_frame (s : State) (p : Nat → Bool) :
    Frame {} s (State.dropRegs s p) := by
  unfold State.dropRegs
  exact (Frame.record (.refl _) rfl rfl (.inr rfl) (.inr rfl) (.inr rfl) (.inr rfl) (.inr rfl))

theorem State.idle_frame (s : State) :
    Frame {} s (State.idle s) := by
  unfold State.idle
  exact (Frame.step (State.wait_frame ..) (.refl _))

end Sys2Proof.Machine
end

