-- ==== Sys2Proof/Tests/Slice0.lean ====
section
/-! SUPPORT. Tests: well-formedness refuses ill-formed commands, worked examples of the manual, and for each statement a state and operands
that meet its hypotheses. -/

set_option maxRecDepth 100000

namespace Sys2Proof.Tests

open Sys2Proof.Machine

/-! ### Small states -/

/-- A device with power whose boot is over. -/
def live : State := { State.reset with pow := { State.reset.pow with life := .running } }.setFld F.GLB_STATUS_BOOT_STATE 4

/-- A fetched command, and a ring of a class that holds it: ring 0 of instance 0, of domain 5. -/
def fetched (op : Nat) (body : List Byte) : Fetched := ⟨7, op, 0, 0, body, .waiting, 0, 0, 0⟩
def oneRing (cls : Nat) (l : List Fetched) : Machine.Ring := ⟨0, 0, cls, false, 0, l, [], 1, [], 0, 0, 0, none, none, []⟩
def withRing (cls : Nat) (l : List Fetched) : State :=
  ({ live with insts := [(0, ⟨5, 0, false, 0, false, 4, [(0, 0)], 0, false, [], 0, 0⟩)], rings := [(0, oneRing cls l)] }.setFld
    F.INST_STATUS_STATE 1).setFld F.RING_STATUS_STATE 1

/-- A chart of domain 5, and a run of it. -/
def aChart : Chart := ⟨.ready, 5, 0, 7, 0, 0, 7, 0, 0, 0, 0, 0, 8, 0, 0, 0, 0, 0, 0, 0, [], [], false, false⟩
def aRun (cmds : Tab PCmd) : Run :=
  ⟨.ring 0 7, 3, 5, 1, 0, 0, [], none, 0, none, none, 0, cmds, [], false, 0, 0, false, false, false, 0, 0, 0, 0, 0, 0, false, [], 0, 0, [],
    [], false, false, 0, false, false⟩
def withChart (l : List Fetched) : State := { withRing 1 l with charts := [(3, aChart)] }

/-! ### Ill-formed commands are refused: one for each check of `wellFormed` -/

/-- A frame without content. -/
def noFrame : EthFrame := { data := [], fcsOk := true, sec := none, fh := none, full := false }

/-- Nothing that comes from outside, for a write that starts nothing. -/
def noBrings : WriteBrings :=
  { peer := none, block := .timeout, images := .failed, flashOk := true, owner := none, sigOk := true, passed := true, pulses := none, afterStop := false }

theorem test_illFormed1 : (([
      .registerWrite (.pages 2) 0 0 0 noBrings, .registerWrite .bar0 0 (2 ^ 64) 0 noBrings, .badAccess (.pages 2) 0 0 false, .rcRead (.pages 2) 0 0,
      .deviceBoot 0 8 0 0 0, .deviceBoot 0 0 32 0 0, .deviceBoot 0 0 0 8 0, .deviceBoot 0 0 0 0 32, .kvPageFetch 1024 0,
      .kvPageComplete 1024 0 0 [] [], .kvPageComplete 0 0 0 [2 ^ 64] [], .kvPageComplete 0 0 0 [] [2 ^ 64], .ringFetch 8192 .timeout,
      .ringServicePass 8192, .nop 8192 0, .nop 0 65536, .hcopy 8192 0, .hcopy 0 65536, .runChart 8192 0, .runChart 0 65536, .loadChart 8192 0,
      .loadChart 0 65536, .loadChartChecks 65536, .unloadChart 8192 0, .unloadChart 0 65536, .cancel 8192 ⟨0, none⟩, .cancel 0 ⟨65536, none⟩,
      .commandDispatch 1024, .transferStart 1024 0, .transferComplete 1024 0 [] [], .transferComplete 0 0 [2 ^ 64] [],
      .transferComplete 0 0 [] [2 ^ 64], .runComplete 1024, .waypointPost 1024, .haltCapture 1024 false, .quantumWrite (2 ^ 64),
      .admitCtrlWrite (2 ^ 64), .cellAssignWrite (2 ^ 64), .cellConfig 8192 0 .timeout, .cellConfig 0 65536 .timeout] : List Instr).all fun i =>
    !wellFormed i) = true := by decide
theorem test_illFormed2 : (([
      .cellStart 8192 0, .cellStart 0 65536, .cellStop 8192 0, .cellStop 0 65536, .slot 8192 0 .timeout, .slot 0 65536 .timeout,
      .fhStats 8192 0, .fhStats 0 65536, .harqFlush 8192 0, .harqFlush 0 65536, .slotBoundary 512, .phaseRelease 512 0 0,
      .ethFrameReceive 32 noFrame, .rxMemWaitExpire 32 noFrame 0, .symbolHandoff 512 0 0, .symbolHandoff 0 0 14, .agcBlockEnd 512 0,
      .agcBlockEnd 0 64, .prachPeriodEnd 512 0 0 0 0, .prachPeriodEnd 0 0 0 64 0, .prachDetect 512 0 0, .cplaneEmit 512 0 0 false,
      .cplaneEmit 0 0 14 false, .uplaneEmit 512 0 0, .uplaneEmit 0 0 14, .grantWrite (2 ^ 64), .channelEstimate 512 0 0, .equalize 512 0 0,
      .equalize 0 0 14, .codeBlockDecoded 512 0 0 0, .pucchDetect 512 0 0, .encodeCb 512 0 0 0 .timeout, .precode 512 0 0,
      .radioEngineParity 0 0 512 0 0, .decompParity 512 0 0, .decompParity 0 0 14, .fftParity 512 0 0, .fftParity 0 0 14,
      .prachParity 512 0 0, .correctedRewrite 128 0] : List Instr).all fun i =>
    !wellFormed i) = true := by decide
theorem test_illFormed3 : (([
      .stackLoss 8, .fload 8192 0, .fload 0 65536, .fstore 8192 0, .fstore 0 65536, .fatomic 8192 0, .fatomic 0 65536, .finval 8192 0,
      .finval 0 65536, .ffence 8192 0, .ffence 0 65536, .fown 8192 0, .fown 0 65536, .fkey 8192 0, .fkey 0 65536,
      .fabricRequestReceive 1024 0 0 0 0 0 0 0 0 false [], .fabricRequestReceive 0 24 0 0 0 0 0 0 0 false [],
      .fabricRequestReceive 0 0 256 0 0 0 0 0 0 false [], .fabricRequestReceive 0 0 0 0 0 (2 ^ 64) 0 0 0 false [],
      .fabricRequestReceive 0 0 0 0 0 0 (2 ^ 32) 0 0 false [], .fabricRequestReceive 0 0 0 0 0 0 0 (2 ^ 64) 0 false [],
      .fabricRequestReceive 0 0 0 0 0 0 0 0 (2 ^ 32) false [], .mirrorForward 1024 0 0 0 0 0 [], .mirrorForward 0 24 0 0 0 0 [],
      .mirrorForward 0 0 256 0 0 0 [], .mirrorForward 0 0 0 (2 ^ 64) 0 0 [], .mirrorForward 0 0 0 0 (2 ^ 64) 0 [],
      .mirrorForward 0 0 0 0 0 (2 ^ 32) [], .invalidationReceive 1024 0 0 0 0, .invalidationReceive 0 24 0 0 0,
      .invalidationReceive 0 0 256 0 0, .invalidationReceive 0 0 0 (2 ^ 64) 0, .invalidationReceive 0 0 0 0 (2 ^ 32),
      .fabricResponse 0 1024 0 0 [] [], .fabricResponse 0 0 0 256 [] [], .probeTimer 1024, .leaseExpire 1024, .sharerDrop 1024 0,
      .sharerDrop 0 1024, .regionFetch (2 ^ 64)] : List Instr).all fun i =>
    !wellFormed i) = true := by decide
theorem test_illFormed4 : (([
      .regionCommit (2 ^ 64) none, .bearingFetch (2 ^ 64), .bearingCommit (2 ^ 64), .fabCtrlWrite (2 ^ 64), .widen 4,
      .flitReceive 4 0 0 0 false false [], .flitReceive 0 4096 0 0 false false [], .flitReceive 0 0 4096 0 false false [], .rhumbLaneLoss 4 0,
      .rhumbRetrainDone ⟨4, 0⟩, .rhumbRetrainDone ⟨0, 256⟩, .linkTrain 4 0 0 false, .linkTrain 0 1024 0 false, .linkKeyUpdate 4, .doorbell 1024 0 0 0, .doorbell 0 64 0 0,
      .doorbell 0 0 (2 ^ 64) 0, .doorbell 0 0 0 2, .ringEnable 1024 0 0 0, .ringEnable 0 64 0 0, .ringEnable 0 0 (2 ^ 64) 0,
      .ringEnable 0 0 0 2, .ringDisable 1024 0 0 0, .ringDisable 0 64 0 0, .ringDisable 0 0 (2 ^ 64) 0, .ringDisable 0 0 0 2,
      .irqCoalTimer 8192, .atsInvalidation 2 0 0 0, .atsInvalidation 0 (2 ^ 20) 0 0, .atsInvalidation 0 0 (2 ^ 64) 0,
      .atsInvalidation 0 0 0 (2 ^ 32), .instCtrlReset 1024 0, .instCtrlReset 0 2, .contextReset 1024, .contextResetDone 1024 false, .flr 3,
      .pcieLinkReset 2 0 0, .pcieLinkReset 0 8 0, .pcieLinkReset 0 0 32, .queueStateUe 8192, .helmCore 32 0] : List Instr).all fun i =>
    !wellFormed i) = true := by decide
theorem test_illFormed5 : (([
      .engineParity false 24, .txPoll 4096, .egressSelect 32, .wheelRelease 4096, .qCommit (2 ^ 64), .ethLaneLoss 8 0 none,
      .ethLaneLoss 0 8 none, .subportUp 32, .reform 8, .steerWrite (2 ^ 64), .policerWrite (2 ^ 64), .pringWrite (2 ^ 64),
      .fifoParity 32 noFrame 0, .getCertificate 8 0, .getCertificate 0 (2 ^ 32), .challenge 8, .getMeasurements (some 16) false 0,
      .finish 16 false 0, .heartbeat 16 false, .keyUpdate 16 false, .endSession 16 false, .sessionIdleTimeout 16, .domKeySet 16 false [],
      .domKeyGen 16 false [], .domKeyClear 16 false [], .sakSet 16 false [], .sakClear 16 false [], .saStatus 16 false [],
      .setNoticeRing 16 false [], .scAssignWrite (2 ^ 64), .reckonWrite 1024 0 0 0, .reckonWrite 0 64 0 0, .reckonWrite 0 0 (2 ^ 64) 0,
      .reckonWrite 0 0 0 2, .seedWrite 1024 0 0 0, .seedWrite 0 64 0 0, .seedWrite 0 0 (2 ^ 64) 0, .seedWrite 0 0 0 2,
      .ptpFrameReceive 32 (.esmc 0), .ptpTxTimer 32 0] : List Instr).all fun i =>
    !wellFormed i) = true := by decide
theorem test_illFormed6 : (([
      .qlTimeout 32, .latch (2 ^ 64), .set (2 ^ 64), .step (2 ^ 64), .logSelWrite (2 ^ 64), .tileTest 8192 0, .tileTest 0 65536,
      .engineTest 8192 0, .engineTest 0 65536, .hbmCal 8192 0, .hbmCal 0 65536, .serdesCal 8192 0, .serdesCal 0 65536, .scrubSweep 8192 0,
      .scrubSweep 0 65536, .maintAbort 8192 0, .maintAbort 0 65536, .maintComplete 8192 0 false 0 [] [], .maintComplete 0 65536 false 0 [] [],
      .maintComplete 0 0 false 0 [2 ^ 64] [], .maintComplete 0 0 false 0 [] [2 ^ 64], .evcProgram (2 ^ 64), .freeze (2 ^ 64),
      .evcAlloc 16 false [], .evcFree 16 false [], .evcRead 16 false [], .evcSnapshot 16 false [], .snapshotRecord 128, .pllLockLoss 6 false,
      .pkgLimitWrite (2 ^ 64), .wakeLate 64, .unitRestart (2 ^ 64) false, .clockReturn 0 0 8 0, .clockReturn 0 0 0 32,
      .laneLockRegain false 8 0, .laneLockRegain false 0 8, .perstDeassert 2 0 0, .perstDeassert 0 8 0, .perstDeassert 0 0 32] : List Instr).all fun i =>
    !wellFormed i) = true := by decide
theorem test_wellFormed : wellFormed (.nop 8191 65535) = true ∧ wellFormed (.kvPageFetch 1023 0) = true ∧
    wellFormed (.registerWrite (.pages 1) 0 (2 ^ 64 - 1) 8 noBrings) = true ∧ wellFormed (.sakSet 15 true []) = true := by decide

/-! ### StepRunsTheFrontCommand -/



/-! ### EmptyQueueIsATimingCycle -/

theorem wit_EmptyQueueIsATimingCycle : State.reset.pending = [] := rfl

/-! ### ResetHoldsTheTablesValues -/



/-! ### EveryStepTakesOneCommand -/

theorem wit_EveryStepTakesOneCommand : ∃ t, step { live with pending := [.idcode] } = .next t := ⟨_, rfl⟩

/-! ### MemoryStaysCanonical -/

theorem wit_MemoryStaysCanonical : live.memOk ∧ ∃ t, step { live with pending := [.idcode] } = .next t := ⟨rfl, _, rfl⟩

/-! ### RegisterFieldsFollowAccessCodes -/

theorem wit_RegisterFieldsFollowAccessCodes : (regAt F.HLM_WINDOW_CTRL_VERM_RSV.reg).isSome = true := by decide

/-! ### RegisterAccessesComplete -/

theorem wit_RegisterAccessesComplete_write : live.hostUp = true ∧ accessBad 0x1000008 8 = false ∧
    live.bar0Answers (regAddress 0x1000008) = true := by decide
theorem wit_RegisterAccessesComplete_plain :
    (regAt (regAddress 0x400018)).isSome = true ∧ ∀ x ∈ (specialWrites noBrings).map (·.1), x ≠ regAddress 0x400018 := by decide
theorem wit_RegisterAccessesComplete_special : live.bar0Answers (regAddress 0x400010) = true ∧ (regAt (regAddress 0x400010)).isSome = true ∧
    ((specialWrites noBrings).find? fun p => p.1 == regAddress 0x400010).isSome = true ∧ regAddress 0x400010 ≠ F.ETH_FIFO_COUNT_RX_COUNT.reg := by
  decide
theorem wit_RegisterAccessesComplete_bad : accessBad (3 % barBytes .bar0) 4 = true := by decide
theorem wit_RegisterAccessesComplete_fuse : live.bar0Answers F.TRK_FUSE_DATA_FUSED_RECORD.reg = true := by decide

/-! ### RingCommandsComplete -/

theorem wit_RingCommandsComplete_nop : ((withRing 1 [fetched 0 []]).startable 0 7 0x00).isSome = true := by decide

/-- An HCOPY of 64 bytes, in a direction. -/
def hcopyBody (dir : Byte) : List Byte :=
  List.replicate 16 0 ++ toLe 8 64 ++ toLe 8 0 ++ toLe 4 64 ++ [dir] ++ List.replicate 27 0

/-- A ring state whose domain 5 has one extent and an active key. -/
def withHbm (cls : Nat) (l : List Fetched) : State :=
  { withRing cls l with extents := [(0, ⟨5, 0, false, false⟩)] }.setReg 0x8000070 0 (BitVec.ofNat 64 32)

theorem wit_RingCommandsComplete_hcopy_out : let s := withHbm 1 [fetched 8 (hcopyBody 1)]
    (s.startable 0 7 0x08).isSome = true ∧ hcopyOk (hcopyBody 1) = true ∧ fieldAt (hcopyBody 1) 36 1 = 1 ∧
    s.dmaBusy 0 = false ∧ (s.readHbm (s.ringDom 0) (fieldAt (hcopyBody 1) 24 8) (fieldAt (hcopyBody 1) 32 4)).hbmFault (s.ringDom 0)
      (fieldAt (hcopyBody 1) 24 8) (fieldAt (hcopyBody 1) 32 4) true = none := by decide
theorem wit_RingCommandsComplete_hcopy_in : let s := withHbm 1 [fetched 8 (hcopyBody 0)]
    (s.startable 0 7 0x08).isSome = true ∧ hcopyOk (hcopyBody 0) = true ∧ fieldAt (hcopyBody 0) 36 1 = 0 ∧
    s.hbmFault (s.ringDom 0) (fieldAt (hcopyBody 0) 24 8) (fieldAt (hcopyBody 0) 32 4) false = none ∧
    s.engineFor ucDma 16 0 = some 0 ∧ s.descUsed 0 = 0 := by decide
theorem wit_RingCommandsComplete_cancel_none : let s := withRing 1 [fetched 4 []]
    (s.startable 0 7 0x04).isSome = true ∧ s.cancelTarget 0 0 = none := by decide
theorem wit_RingCommandsComplete_cancel_waiting :
    let x : Fetched := ⟨0, 1, 0, 0, [], .waiting, 0, 0, 0⟩; let s := withRing 1 [fetched 4 [], x]
    (s.startable 0 7 0x04).isSome = true ∧ s.cancelTarget 0 0 = some x ∧ x.stage ≠ .started ∧ s.runOf 0 x.cid = none := by decide
theorem wit_RingCommandsComplete_cancel_ahead :
    let s := { withRing 1 [fetched 4 []] with rings := [(0, { oneRing 1 [fetched 4 []] with sqTail := 1 })] }.setFld F.RING_CFG_SQ_LOG2 6
    (s.startable 0 7 0x04).isSome = true ∧ s.cancelTarget 0 0 = none ∧ (s.cancelAhead 0 (some 0)).isSome = true ∧
    s.cancelAhead 0 (some 1) = none := by decide
theorem wit_RingCommandsComplete_run : let s := withChart [fetched 1 (List.replicate 16 0 ++ [3])]
    (s.startable 0 7 0x01).isSome = true ∧ Tab.get? s.charts 3 = some aChart ∧ aChart.st = .ready ∧ aChart.dom = s.ringDom 0 ∧
    bit aChart.classMask 0 = true := by decide

/-- A LOAD_CHART of 65,536 bytes at offset 0. -/
def loadBody : List Byte := List.replicate 24 0 ++ toLe 4 65536 ++ List.replicate 36 0

theorem wit_RingCommandsComplete_load :
    let s := (withHbm 1 [fetched 2 loadBody]).setFld F.TRK_CHART_QUOTA_LIMIT 1 5
    (s.startable 0 7 0x02).isSome = true ∧ s.loadCheck (s.ringDom 0) loadBody = none ∧ Tab.has s.charts 0 = false ∧
    s.engineFor ucDma 16 0 = some 0 ∧ s.descUsed 0 = 0 := by decide
theorem wit_RingCommandsComplete_unload : let s := withChart [fetched 3 (List.replicate 16 0 ++ [3])]
    (s.startable 0 7 0x03).isSome = true ∧ Tab.get? s.charts 3 = some aChart ∧ aChart.runs = 0 := by decide

/-! ### FetchAndHostTransfersComplete -/

/-- A ring with one published entry, and a boot-time map that has its queue cores. -/
def fetchable : State := (((withRing 1 []).setFld F.RING_CFG_SQ_LOG2 6).setFld F.RING_CFG_CQ_LOG2 6)

theorem wit_FetchAndHostTransfersComplete_fetch :
    (∃ r, Tab.get? fetchable.rings 0 = some r ∧ fetchable.mayFetch r = true ∧ fetchCheck (pad64 []) r.cls = none ∧
    r.reckons = false ∧ r.cancels.contains 0 = false) :=
  ⟨oneRing 1 [], by decide⟩
theorem wit_FetchAndHostTransfersComplete_pass : fetchable.ringState (oneRing 1 []) = ringEnabled ∧ fetchable.overdue 0 = false := by decide

/-- A read of 64 bytes of host memory for an HCOPY of ring 0. -/
def aJob (landed : Bool) (use : DmaUse) : DmaJob := ⟨use, 0, 0, 1, 4096, 64, 1, [], 0, landed, none⟩

theorem readSize_cases : readSize ∈ [128, 256, 512, 1024, 2048, 4096] := by
  have h : ∀ n, n < 6 → 128 * 2 ^ n ∈ [128, 256, 512, 1024, 2048, 4096] := by decide
  exact h _ (Nat.mod_lt _ (by decide))
theorem wit_FetchAndHostTransfersComplete_dma : let s := { withRing 1 [] with dma := [(0, aJob false (.hcopy 0 7))] }
    Tab.get? s.dma 0 = some (aJob false (.hcopy 0 7)) ∧ s.readsOut 0 (aJob false (.hcopy 0 7)) ≠ 0 := by
  refine ⟨by decide, ?_⟩
  have o : (aJob false (.hcopy 0 7)).outstanding = 1 := by
    have h := readSize_cases
    simp only [List.mem_cons, List.not_mem_nil, or_false] at h
    rcases h with h | h | h | h | h | h <;> (unfold DmaJob.outstanding; rw [h]; decide)
  have r : (withRing 1 []).route 0 = (0, 0) := by decide
  have q : (withRing 1 []).quar = [] := by decide
  have h : ∀ j, (withRing 1 []).route j.inst = (0, 0) → j.outstanding = 1 → { withRing 1 [] with dma := [(0, j)] }.readsOut 0 j ≠ 0 := by
    intro (j : DmaJob) r o
    simp only [State.route] at r
    simp [State.readsOut, State.tagShares, State.tagsHeld, linkTags, o, q, r, sumList, Tab.getD, Tab.get?, State.route]
  exact h _ r o

theorem wit_FetchAndHostTransfersComplete_late : Tab.get? (withRing 1 []).dma 5 = none := by decide
theorem wit_FetchAndHostTransfersComplete_load :
    ({ withRing 1 [] with charts := [(3, { aChart with st := .loading })], dma := [(0, aJob true (.chart 3))] }.dma.any fun j =>
      decide (j.2.use = DmaUse.chart 3) && j.2.landed) = true := by decide

/-! ### RunsComplete -/

/-- A run of chart 3 in context 0. -/
def withRun (x : Machine.Run) : State := { withChart [⟨7, 1, 0, 0, [], .started, 0, 0, 0⟩] with runs := [(0, x)] }

/-- A program of commands of 64 bytes, given by their first bytes, that chart 3 holds at the start of domain 5's HBM, and a run of it. -/
def withProg (x : Machine.Run) (cmds : List (List Byte)) : State :=
  let s := withHbm 1 [⟨7, 1, 0, 0, [], .started, 0, 0, 0⟩]
  { s with charts := [(3, { aChart with count := cmds.length })], runs := [(0, x)] }.store .hbm 5 256
    (cmds.flatMap fun c => (c ++ List.replicate 64 0).take 64)

/-- The run at its first command, and with that command dispatched or started. -/
def atStart (cmds : Tab PCmd) : Machine.Run := { aRun cmds with next := cmds.length }
def aLoad : Xfer := Xfer.ofCmd (wordsOf (0x20 :: List.replicate 63 0))

theorem wit_RunsComplete_start : ∃ w, { withChart [] with ctxWait := [⟨.ring 0 7, 3, 5, 1, none, [], 0⟩] }.nextWaiter = some w ∧
    Tab.get? (withChart []).charts w.chart = some aChart ∧ Tab.has (withChart []).runs 0 = false :=
  ⟨⟨.ring 0 7, 3, 5, 1, none, [], 0⟩, by decide⟩
theorem wit_RunsComplete_over : Tab.get? (withRun { aRun [] with endPassed := true }).runs 0 = some { aRun [] with endPassed := true } ∧
    { aRun [] with endPassed := true }.over = true ∧ live.arrHolds 0 = false ∧ { aRun [] with endPassed := true }.final.1 = 0 := by decide
theorem wit_RunsComplete_dispatch_end : (withProg (atStart []) [[0x3F]]).chartKind { aChart with count := 1 } 0 = some .done ∧
    (atStart []).mayDispatch { aChart with count := 1 } = true := by decide
theorem wit_RunsComplete_dispatch_xfer : (withProg (atStart []) [[0x20]]).chartKind { aChart with count := 1 } 0 = some (.xfer aLoad) ∧
    ((PKind.xfer aLoad).writeTags.all (atStart []).writeOk) = true := by decide
theorem wit_RunsComplete_dispatch_engine : (∃ k, (withProg (atStart []) [[0x01]]).chartKind { aChart with count := 1 } 0 = some k ∧
    k.isArray = true ∧ (k.writeTags.all (atStart []).writeOk) = true) ∧ (withProg (atStart []) [[0x01]]).windowRoom (atStart []) = true :=
  ⟨⟨_, rfl, by decide⟩, by decide⟩
theorem wit_RunsComplete_xfer_start : let x := atStart [(0, ⟨.dispatched, 0, false⟩)]; let s := withProg x [[0x20]]
    s.xferOf 0 0 = some (x, aLoad) ∧ x.stopped = false ∧ x.unstarted.contains 0 = true ∧ x.tagsReady (.xfer aLoad) = true ∧
    s.windowsHere 5 = true ∧ s.lsHeld x aLoad = false ∧ s.xferEnd x aLoad = .hbm 0 := by decide
theorem wit_RunsComplete_xfer_done : let x := atStart [(0, ⟨.started, 0, false⟩)]; let s := withProg x [[0x20]]
    s.xferOf 0 0 = some (x, aLoad) ∧ x.started 0 = true ∧ s.areaFault x aLoad = false ∧
    s.xferEnd x aLoad = .hbm 0 ∧ (s.readHbm 5 0 (s.xferLen x aLoad)).hbmFault 5 0 (s.xferLen x aLoad) true = none := by decide
theorem wit_RunsComplete_capture : let x := { atStart [] with halt := some 0, next := 1 }
    x.captureOwed = some 0 ∧ ((withProg x [[0x20]]).chartKind { aChart with count := 1 } 0).isSome = true := by decide
theorem wit_RunsComplete_waypoint : let x := { atStart [] with waypoints := [⟨0, 32, 64, 0⟩], next := 1 }; let s := withProg x [[0x01]]
    minBy (fun w : Waypoint => [w.idx]) x.waypoints = some ⟨0, 32, 64, 0⟩ ∧
    s.wayState x { aChart with count := 1 } ⟨0, 32, 64, 0⟩ = .ready ∧ (s.fetched? 0 7).isSome = true := by decide

/-! ### ArrayCommandsComplete -/

/-- A ready command in the window: command 0 of run 0, which chart 3 holds, on a device whose array is awake. -/
def inWindow (op : Byte) (vector : Bool) (now : Nat) : State :=
  let s := withProg (atStart [(0, ⟨.dispatched, 0, false⟩)]) [[op]]
  ({ s with
    now := now
    helm := { s.helm with window := [⟨0, 0, 1, vector, some 0⟩] }
    runs := [(0, { atStart [(0, ⟨.dispatched, 0, false⟩)] with tags := [(0, ⟨.resident, 0⟩)] })]
    pow := { s.pow with sleeps := [(0, ⟨0, 0, false⟩)] } }.setReg F.PMC_ALLOW_ARRAY_ALLOW.reg 0 0x0000100000001000#64).setFld
    F.HLM_QUANTUM_QUANTUM_US 20

theorem wit_ArrayCommandsComplete_grant :
    let s := inWindow 0x01 false 100
    let v := s.advanceTo (s.decisionTime false)
    let u := v.noSlate false (v.candidates false v.now)
    s.arr.cur = [] ∧ u.decide_ u.arrayCandidates = some (⟨0, 0, 1, false, some 0⟩, 3) ∧ (u.entryCmd ⟨0, 0, 1, false, some 0⟩).any (fun k => decide (quantumCycles k u.mapIn.e u.mapIn.c ≤ u.quantumIn)) = true ∧
    u.mapIn.offline = false ∧ u.arrayAwake = true ∧ u.gateOpen false (gateRow ⟨0, 0, 1, false, some 0⟩ 3) = true := by decide

/-- An array command of run 0 on the array, or draining. -/
def anArr : ArrCmd := ⟨0, 0, 32, 64, 0, 3, 96, 64, 2112, 64, 0, 64, false, false, 0⟩

theorem wit_ArrayCommandsComplete_boundary : { live with arr := ⟨[anArr], [], 0, 0, 0, none⟩ }.arr.cur = [anArr] := rfl
theorem wit_ArrayCommandsComplete_drain : { live with arr := ⟨[], [anArr], 0, 0, 0, none⟩ }.arr.drain = [anArr] ∧ anArr.fault = 0 ∧
    anArr.suppressed = false := by decide

/-! ### VectorCommandsComplete -/

theorem wit_VectorCommandsComplete_grant :
    let s := (inWindow 0x10 true 100).setReg F.PMC_ALLOW_ARRAY_ALLOW.reg 0 0x0000100000001000#64
    let v := s.advanceTo s.vectorTime
    let u := v.noSlate true v.vectorReady
    s.vec.cur = none ∧ u.decide_ u.vectorCandidates = some (⟨0, 0, 1, true, some 0⟩, 3) ∧
    ((u.entryCmd ⟨0, 0, 1, true, some 0⟩).any fun k => decide (quantumCycles k u.mapIn.e u.mapIn.c ≤ u.quantumIn)) = true ∧
    u.mapIn.offline = false ∧ u.arrayAwake = true ∧ u.gateOpen true (gateRow ⟨0, 0, 1, true, some 0⟩ 3) = true := by decide

/-- A command of run 0 on the vector pipe. -/
def aVec (attn last : Bool) : VecCmd := ⟨0, 0, 32, 64, 0, 3, 96, 32, attn, last, 0, 0, 0, 0, 0, 0, [], false, none, false⟩
def onPipe (op : Byte) (last : Bool) : State := { inWindow op true 100 with vec := ⟨some (aVec (op == 0x11) last), [], []⟩ }

theorem wit_VectorCommandsComplete_vecop : let s := onPipe 0x10 true
    let u := (s.advanceTo (96 + 32 * arrCyc)).vecCharge (aVec false true) 32 false
    s.vec.cur = some (aVec false true) ∧ (Tab.get? u.runs 0).isSome = true ∧
    ((Tab.get? u.runs 0).bind fun x => u.runCmd x 0).any (fun k => k == .vop (Vop.ofCmd (wordsOf (0x10 :: List.replicate 63 0)))) = true := by
  decide

/-- The ATTN command of all-zero fields. -/
def anAttn : Attn := Attn.ofCmd (wordsOf (0x11 :: List.replicate 63 0))

theorem wit_VectorCommandsComplete_segment : (((onPipe 0x11 true).attnOf 0 0).map (·.2)) = some anAttn ∧
    (((onPipe 0x11 false).attnOf 0 0).map (·.2)) = some anAttn := by decide
theorem wit_VectorCommandsComplete_fetch : let s := inWindow 0x11 true 100
    ((s.attnOf 0 0).map (·.2)) = some anAttn ∧ s.attnReady 0 0 = true ∧ anAttn.b0 ≤ anAttn.b1 ∧
    (s.stream 0 0).slotFree anAttn 0 s.now = true ∧ s.hbmFault 5 (s.kvRange (atStart []) anAttn 0).1 (s.kvRange (atStart []) anAttn 0).2
      false = none := by decide
theorem wit_VectorCommandsComplete_land : let s := (inWindow 0x11 true 100).setStream ⟨0, 0, 1, [0], [], [], false⟩
    ((s.attnOf 0 0).map (·.2)) = some anAttn ∧ (s.stream 0 0).inFlight.contains 0 = true ∧
    (s.readHbm 5 (s.kvRange (atStart []) anAttn 0).1 (s.kvRange (atStart []) anAttn 0).2).hbmFault 5 (s.kvRange (atStart []) anAttn 0).1
      (s.kvRange (atStart []) anAttn 0).2 true = none := by decide

/-! ### HelmControlsComplete -/

theorem wit_HelmControlsComplete_lower : clamp 2 100 (bits 1 6 0) ≤ (live.setQuantum 20).fld F.HLM_QUANTUM_QUANTUM_US := by decide
theorem wit_HelmControlsComplete_raise : (live.setQuantum 20).fld F.HLM_QUANTUM_QUANTUM_US < clamp 2 100 (bits 40 6 0) ∧
    (live.admitFull live.helm.cal (40 * 1500) live.mapE live.mapC).pass = true := by decide
theorem wit_HelmControlsComplete_admit : live.tightens (live.setAdmitCtrl 100) = false ∧
    (live.setAdmitCtrl 100).tightens ((live.setAdmitCtrl 100).setAdmitCtrl 50) = true ∧
    ((live.setAdmitCtrl 100).setAdmitCtrl 50).admitNow.pass = true := by decide
theorem wit_HelmControlsComplete_commit : calBounds live.stagedCal = true ∧
    (live.admitFull live.stagedCal live.quantum live.mapE live.mapC).pass = true := by decide
theorem wit_HelmControlsComplete_disable : live.strictInst = false := by decide
theorem wit_HelmControlsComplete_boundary : { live with helm := { live.helm with calNext := some [⟨0, 4096, 5⟩] } }.helm.calNext.isSome = true ∧
    live.helm.calOffNext = false := by decide
theorem wit_HelmControlsComplete_entry : { live with helm := { live.helm with cal := [⟨4096, 4096, 5⟩] } }.nextEntry =
    some (⟨4096, 4096, 5⟩, 4096) := by decide

/-- A dispatched transfer of a Slate run of domain 5, which is swappable and out. -/
def swappedOut : State :=
  (withProg { atStart [(0, ⟨.dispatched, 0, false⟩)] with cls := 2 } [[0x20]]).setFld F.MEM_PART_SWAPPABLE 1 5

set_option maxRecDepth 20000 in
theorem wit_HelmControlsComplete_switch : swappedOut.helm.switch_ = none ∧ swappedOut.loadDomain = some 5 ∧
    swappedOut.victims = [] ∧ swappedOut.evictFor 5 [] [] = some ([], 0, 0) ∧ swappedOut.inGap 4000 = true := by decide

/-! ### CellCommandsComplete -/

/-- A configuration block of one PRB and one stream each way that follows the rules, its areas in the domain's first six pages. -/
def cfgBlock : List Byte :=
  [0x43, 0x45, 0x4C, 0x4C, 0, 0, 1, 0, 0, 1, 1, 1, 1, 0, 0, 0, 0xFA, 0, 0xFA, 0] ++ List.replicate 48 0 ++
  [0, 0, 0, 0, 1, 0, 1, 0, 0, 0, 1, 0, 2, 0, 1, 0, 2, 0, 3, 0] ++ List.replicate 44 0 ++ [4, 0, 0, 0, 4, 0, 0, 0, 2, 0, 0, 0, 1, 0, 0, 1, 1, 0, 1] ++
  List.replicate 4 0 ++ [1] ++ List.replicate 100 0
def aCfg : CellCfg := CellCfg.ofBlock cfgBlock 0

/-- A cell command for cell slot 0, SFN 1 and slot 0, that arrived at air time 0. -/
def cellCmd (op : Nat) (tail : List Byte) : Fetched :=
  { fetched op (List.replicate 16 0 ++ [0, 0, 1, 0, 0] ++ tail) with arrive := live.airOrigin }

/-- Ring 0 with a cell command, and cell slot 0 of domain 5 in a state. -/
def withCell (st : CellState) (l : List Fetched) : State :=
  let s := withHbm 1 l
  ((({ s with cells := [(0, { Cell.blank st with cfg := some aCfg })], tai := 65536 * live.airOrigin }.setReg 0x3000020 0 (BitVec.ofNat 64 (5 + 128))).setFld
    F.MER_STATUS_TIME_VALID 1).setFld F.FH_GRANT_VALID 1).setFld F.FH_GRANT_DOMAIN 5

theorem wit_CellCommandsComplete_assign : (live.cell 0).st = .unassigned ∧ live.flag F.RAD_CELL_ASSIGN_ASSIGNED 0 = false ∧
    live.strictDom 0 = false ∧ live.cellDom 0 = bits 128 6 0 := by decide
theorem wit_CellCommandsComplete_mine : let s := withCell .assigned [cellCmd 0x40 []]
    (s.startable 0 7 0x40).isSome = true ∧ s.cellMine 0 0 = true ∧ s.shedPending = false := by decide
theorem wit_CellCommandsComplete_config : (withCell .assigned [cellCmd 0x40 []]).configOk 0 5 live.airOrigin aCfg = true := by decide
theorem wit_CellCommandsComplete_admit : ((withCell .assigned [cellCmd 0x40 []]).admitCfg 0 aCfg).1 = true := by decide
theorem wit_CellCommandsComplete_start : let s := withCell .configured [cellCmd 0x41 []]
    (s.startable 0 7 0x41).isSome = true ∧ (s.cell 0).st = .configured ∧
    s.timeCheck aCfg (cellCmd 0x41 []).body live.airOrigin aCfg.maxLead 5000000 = none := by decide
theorem wit_CellCommandsComplete_stop : let s := withCell .active [cellCmd 0x42 []]
    (s.startable 0 7 0x42).isSome = true ∧ s.slotOfCmd (s.cell 0) (cellCmd 0x42 []) = some (aCfg, 80) ∧ s.cellMine 0 0 = true ∧
    s.timeCheck aCfg (cellCmd 0x42 []).body live.airOrigin aCfg.maxLead 5000000 = none := by decide

/-- A PDCCH item on one PRB and one symbol. -/
def pdcchItem : List Byte :=
  [2, 0, 0, 0, 0, 1, 0, 0, 1, 0, 0, 0, 0, 0, 0xFF, 0, 0, 0, 0, 0, 0, 0, 1, 1, 0, 0, 0, 0, 12] ++ List.replicate 35 0

theorem wit_CellCommandsComplete_slot : let q := cellCmd 0x48 ([0, 1] ++ List.replicate 10 0); let s := withCell .active [q]
    (s.startable 0 7 0x48).isSome = true ∧ s.cellMine 0 0 = true ∧ s.slotOfCmd (s.cell 0) q = some (aCfg, 80) ∧
    s.timeCheck aCfg q.body live.airOrigin aCfg.dlLead 10000 = none ∧ (s.cell 0).slotState 80 = none ∧ fieldAt q.body 22 2 = 1 ∧
    fieldAt q.body 24 8 % 64 = 0 ∧ s.firstInvalid 0 80 aCfg false [Item.fresh pdcchItem] = none := by decide
theorem wit_CellCommandsComplete_flush : (withCell .active [cellCmd 0x4D []]).cellMine 0 0 = true ∧
    2 ≤ ((withCell .active [cellCmd 0x4D []]).cell 0).st.code := by decide
theorem wit_CellCommandsComplete_grant : live.grantHeld 0 = false ∧
    (live.setReg F.FH_GRANT_VALID.reg 0 (BitVec.ofNat 64 5)).strictClash 0 = false := by decide
theorem wit_CellCommandsComplete_boundary : let s := withCell .active []
    (s.cell 0).slotFrom ((s.cell 0).cur + 1) = some (8, aCfg) ∧ (s.cell 0).st.running = true := by decide

/-- Cell slot 0 ACTIVE with one phase, of trigger 0 and one run, not released. -/
def withPhase : State :=
  let f : CellCfg := { aCfg with phases := [List.replicate 8 0 ++ [1] ++ List.replicate 119 0] }
  { withCell .active [] with cells := [(0, { Cell.blank .active with cfg := some f })] }
theorem wit_CellCommandsComplete_phase : (withPhase.phaseDue 0 8 0).isSome = true := by decide

/-! ### FronthaulCommandsComplete -/

/-- Cell slot 0 ACTIVE with an accepted slot 1 of some items, and the split-8 configuration. -/
def withSlot (f : CellCfg) (up : Bool) (l : List Item) : State :=
  let s := withCell .active [⟨7, 0x48, 0, 0, [], .started, 0, 0, 0⟩]
  { s with cells := [(0, { Cell.blank .active with
      cfg := some f, agc := [(0, ⟨0, 16, 0, 0, false⟩)], slots := [⟨0, 7, 1, up, l, false, false, 0, 0, [0], [], [], []⟩], seen := [(1, up)] })] }
def aCfg8 : CellCfg := { aCfg with hdr := aCfg.hdr.set 8 2 }

/-- A PRACH item of one symbol. -/
def prachItem : Item := Item.fresh ([0x13, 0, 0, 0, 0, 1, 0, 0, 1, 0, 0, 0, 0, 0, 0xFF, 0, 0, 1] ++ List.replicate 46 0)

/-- Samples of symbol 0 of slot 1 received on stream 0. -/
def withSamples (n : Nat) (l : List Item) : State :=
  let s := withSlot aCfg8 true l
  { s with cells := s.cells.map fun e => (e.1, { e.2 with fills := [⟨1, 0, 0, false, [(0, n)]⟩] }) }
theorem wit_FronthaulCommandsComplete_agc : let s := withSamples 16 []
    let u := s.agcTrailing 0 0
    (s.cell 0).st.running = true ∧ u.agcPlace 0 0 = some (⟨0, 16, 0, 0, false⟩, aCfg8) ∧ aCfg8.split = 2 ∧
    (u.cell 0).st.running = true ∧ 16 ≤ aCfg8.symLen 1 0 ∧ (u.cell 0).received 0 ⟨0, 16, 0, 0, false⟩ 16 = true := by decide
theorem wit_FronthaulCommandsComplete_handoff : let s := withSlot aCfg true []
    (s.cell 0).cfgAt 1 = some aCfg ∧ 1 < aCfg.nsym ∧ (s.cell 0).seen.contains (1, true) = true ∧ (s.cell 0).runs 1 = true ∧
    (s.cell 0).handedOff.contains (1, 1) = false := by decide

/-- A PRACH item of one symbol at 15 kHz. -/
def prach15 : Item := Item.fresh (prachItem.b.set 23 2)
theorem wit_FronthaulCommandsComplete_period : let s := withSamples 2048 [prach15]
    ((s.cell 0).job? 1 true).bind (fun j => j.items[0]?) = some prach15 ∧ (s.cell 0).cfgAt 1 = some aCfg8 ∧ prach15.ty = 0x13 ∧
    aCfg8.samplePlace 1 prach15.nsym prach15.sym0 (ceilDiv ((0 + 1) * aCfg8.rateHz) prach15.prachHz) = (0, 2048) ∧
    0 < prach15.sym0 + prach15.nsym := by decide
theorem rangeFrom_bounds {k n a : Nat} (h : k ∈ rangeFrom a n) : a ≤ k ∧ k < a + n := by
  induction n generalizing a with
  | zero => cases h
  | succ n ih =>
    rcases List.mem_cons.mp h with rfl | h
    · omega
    · have := ih h
      omega
theorem wit_FronthaulCommandsComplete_samples : (rangeFrom 0 2048).all (((withSamples 2048 [prach15]).cell 0).hasSample 1 0 0) = true := by
  have h : ((withSamples 2048 [prach15]).cell 0).fillOf 1 0 0 false = [(0, 2048)] := by decide
  rw [List.all_eq_true]
  intro k hk
  have hb := rangeFrom_bounds hk
  rw [Cell.hasSample, h]
  simp only [List.any_cons, List.any_nil, Bool.or_false, Bool.and_eq_true, decide_eq_true_eq]
  omega
theorem wit_FronthaulCommandsComplete_prach : let s := withSlot aCfg8 true [prachItem]
    ((s.cell 0).job? 1 true).bind (fun j => j.items[0]?) = some prachItem ∧ prachItem.ty = 0x13 ∧ (s.ulItem 0 1 0).isSome = true ∧
    ((s.cell 0).job? 1 true).any (fun j => j.allHanded prachItem) = true ∧ s.phaseState 0 1 prachItem = some true := by decide
theorem wit_FronthaulCommandsComplete_cplane :
    let s := (withSlot aCfg true [prachItem]).setFld F.ETH_SUB_STATUS_UP 1
    ((s.cell 0).job? 1 true).any (fun j => !(j.items.filter fun i => i.covers 0).isEmpty && !j.csent.contains 0) = true ∧ s.timeValid = true ∧ aCfg.split ≠ 2 ∧
    s.egressPort aCfg.subport 0 = some 0 := by decide
theorem wit_FronthaulCommandsComplete_uplane : let s := withSlot aCfg false []
    ((s.cell 0).job? 1 false).any (fun j => !j.sent.contains 0) = true ∧ (s.cell 0).cfgAt 1 = some aCfg ∧ s.timeValid = true := by decide

/-! ### PhyCommandsComplete -/

/-- Items of one PRB and one symbol, of a type, with no fields set. -/
def anItem (ty : Byte) : Item := Item.fresh ([ty, 0, 0, 0, 0, 1, 0, 0, 1, 0, 0, 0, 0, 0, 0xFF, 0] ++ List.replicate 48 0)

theorem wit_PhyCommandsComplete_estimate : let s := withSlot aCfg true [anItem 0x11]
    ((s.ulItem 0 1 0).map fun p => (p.1, p.2.1)) = some (anItem 0x11, aCfg) ∧ (anItem 0x11).st = .waiting ∧
    (bitsSet (anItem 0x11).dmrsSyms 14) = [] ∧
    (s.meetErrors (s.cellDom 0) (aCfg.slotArea 1) aCfg.areaBytes).phaseState 0 1 (anItem 0x11) = some true ∧
    (s.meetErrors (s.cellDom 0) (aCfg.slotArea 1) aCfg.areaBytes).ulMemFault ⟨0, aCfg, 1⟩ (anItem 0x11) = none := by decide
theorem wit_PhyCommandsComplete_srs : let s := withSlot aCfg true [anItem 0x14]
    ((s.ulItem 0 1 0).map fun p => (p.1, p.2.1, p.2.2.allHanded p.1)) = some (anItem 0x14, aCfg, true) ∧
    (s.meetErrors (s.cellDom 0) (aCfg.slotArea 1) aCfg.areaBytes).phaseState 0 1 (anItem 0x14) = some true ∧
    (s.meetErrors (s.cellDom 0) (aCfg.slotArea 1) aCfg.areaBytes).ulMemFault ⟨0, aCfg, 1⟩ (anItem 0x14) = none := by decide
theorem wit_PhyCommandsComplete_equalize : let s := withSlot aCfg true [(anItem 0x11).to .prepared]
    let u := (s.meetErrors (s.cellDom 0) (aCfg.slotArea 1) aCfg.areaBytes).failModels ⟨0, aCfg, 1⟩ [(0, (anItem 0x11).to .prepared)]
    ((s.cell 0).job? 1 true).any (fun j => decide (j.puschAt 0 = [(0, (anItem 0x11).to .prepared)])) = true ∧ (s.cell 0).cfgAt 1 = some aCfg ∧
    s.unitOff ⟨ucEq, 0⟩ = false ∧ s.unitOff ⟨ucDemap, 0⟩ = false ∧
    ((u.cell 0).job? 1 true).any (fun h => decide (h.puschAt 0 = [(0, (anItem 0x11).to .prepared)])) = true ∧
    u.ulMemFault ⟨0, aCfg, 1⟩ ((anItem 0x11).to .prepared) = none := by decide
theorem next_ready (s : State) (y : Cell) (j : SlotJob) (f : CellCfg) (i : Item) (h1 : s.cells = [(0, y)]) (h2 : y.slots = [j])
    (h3 : j.up = true) (h4 : y.cfgAt j.n = some f) (h5 : j.handed = [0]) (h6 : j.puschAt 0 = [(0, i)])
    (h7 : i.st = .prepared) (h8 : i.syms = []) (h9 : (s.phaseState 0 j.n i).isSome = true) (h10 : (s.cell 0).ctxBusy j.n i.ctx = false) :
    s.eqNext = some (0, j.n, 0) := by
  have r : s.eqReady ⟨0, f, j.n⟩ 0 i = true := by simp [State.eqReady, h7, h8, h9, h10]
  simp [State.eqNext, State.eqQueue, h1, h2, h3, h4, h5, h6, r, minBy]
theorem wit_PhyCommandsComplete_ready : (withSlot aCfg true [(anItem 0x11).to .prepared]).eqNext = some (0, 1, 0) :=
  let s := withSlot aCfg true [(anItem 0x11).to .prepared]
  next_ready s (s.cell 0) ⟨0, 7, 1, true, [(anItem 0x11).to .prepared], false, false, 0, 0, [0], [], [], []⟩ aCfg ((anItem 0x11).to .prepared)
    rfl rfl rfl rfl rfl (by decide) rfl rfl (by decide) (by decide)

/-- A code block of item 0, waiting or on decoder 0. -/
def aBlock (u : Option Nat) : CodeBlock := ⟨0, 0, [], u, [], 1, 4, true, 100, false, 8⟩
def withBlock (u : Option Nat) : State :=
  let s := withSlot aCfg true [anItem 0x11]
  { s with cells := s.cells.map fun e => (e.1, { e.2 with slots := e.2.slots.map fun j => { j with cblocks := [aBlock u] } }) }

theorem wit_PhyCommandsComplete_decoded : ((withBlock (some 0)).ulItem 0 1 0).any (fun p => decide ((p.2.2.cblocks.find? fun b => b.item == 0 && b.cb == 0) = some (aBlock (some 0)))) = true := by
  decide
theorem wit_PhyCommandsComplete_free : ((withBlock none).unitsOn ucDec).find? (fun u => !(withBlock none).decBusy.contains u) = some 0 ∧
    (minBy (fun q : QBlock => [q.dl, q.c, q.b.item, q.b.cb]) (withBlock none).waitingBlocks).isSome = true := by decide
theorem wit_PhyCommandsComplete_polar : let s := withSlot aCfg false [Item.fresh pdcchItem]
    s.polarJobs.map (fun p => (p.c, p.n, p.k, p.up)) = [(0, 1, 0, false)] ∧ s.freeUnit ucPolar s.rad.polar = some 0 := by decide

/-- A PUCCH item of format 2 with 12 bits of UCI. -/
def pucch2 : Item := Item.fresh ([0x12, 0, 0, 0, 0, 1, 0, 0, 1, 0, 0, 0, 0, 0, 0xFF, 0, 2, 0, 0, 0, 0, 0, 12, 0] ++ List.replicate 40 0)
theorem wit_PhyCommandsComplete_polar_up : let s := withSlot aCfg true [pucch2]
    s.polarJobs.map (fun p => (p.c, p.n, p.k, p.up)) = [(0, 1, 0, true)] ∧ (s.ulItem 0 1 0).isSome = true ∧ pucch2.partsLeft = [0] := by decide
theorem wit_PhyCommandsComplete_pucch : let s := withSlot aCfg true [anItem 0x12]
    (s.uciReady 0 1 0).map (·.2.2) = some true ∧ (anItem 0x12).partsLeft = [] ∧
    (s.meetErrors (s.cellDom 0) (aCfg.slotArea 1) aCfg.areaBytes).ulMemFault ⟨0, aCfg, 1⟩ (anItem 0x12) = none := by decide
theorem wit_PhyCommandsComplete_dl : ((withSlot aCfg false [Item.fresh pdcchItem]).dlItem 0 1 0).map (·.1) = some (Item.fresh pdcchItem) := by decide
theorem wit_PhyCommandsComplete_enc : live.freeUnit ucEnc live.rad.enc = some 0 ∧ (anItem 0x01).ty = 1 ∧ 0 < (anItem 0x01).seg.c ∧
    (anItem 0x01).cbDone.contains 0 = false := by decide
theorem wit_PhyCommandsComplete_precode : let i : Item := { Item.fresh (pdcchItem.set 4 4) with cbDone := [0] }; let s := withSlot aCfg false [i]
    let u := (s.advanceTo i.ready).meetErrors ((s.advanceTo i.ready).cellDom 0) (aCfg.slotArea 1) aCfg.areaBytes
    (s.dlItem 0 1 0).map (fun p => (p.1.encoded, p.1.plain p.2, p.1.lost)) = some (true, true, false) ∧ i.ready = 0 ∧
    u.tai16 ≤ u.leaveBy aCfg 1 i ∧ s.phaseState 0 1 i = some true := by decide

/-! ### MemoryFaultCommandsComplete -/

theorem wit_MemoryFaultCommandsComplete_scrub : let s := live.setFld F.MEM_SCRUB_CTRL_PERIOD_H 24
    s.fld F.MEM_SCRUB_CTRL_PERIOD_H ≠ 0 ∧ s.stacksOn ≠ [] ∧ (s.scrubMove s.scrub.next).scrub.next = 0 := by decide
theorem wit_MemoryFaultCommandsComplete_hit : let s := { live.setFld F.MEM_SCRUB_CTRL_PERIOD_H 24 with latent := [(0, false)] }
    let t := { live.setFld F.MEM_SCRUB_CTRL_PERIOD_H 24 with latent := [(0, true)] }
    (s.scrubMove s.scrub.next).scrub.next = 0 ∧ (s.latent.filter fun e => e.1 == 0) = [(0, false)] ∧
    (t.scrubMove t.scrub.next).scrub.next = 0 ∧ (0, true) ∈ t.latent.filter fun e => e.1 == 0 := by decide
theorem wit_MemoryFaultCommandsComplete_stack : live.stackOn 0 = true := by decide

/-! ### FabricRingCommandsComplete -/

/-- A body with an address of node 3 and a length. -/
def fabBody (a : Nat) (n : Nat) : List Byte :=
  List.replicate 16 0 ++ toLe 8 (3 * 2 ^ 40 + a) ++ toLe 4 n ++ toLe 4 0 ++ toLe 4 n ++ List.replicate 28 0

/-- A ring state with one valid HOME region of domain 5 at node 3, granules 0 to 3. -/
def withRegion (l : List Fetched) : State :=
  let s := withRing 1 l
  { s with fab := { s.fab with regions := [(2, [1 + 2 ^ 7 + 5 * 2 ^ 32, 4 * 2 ^ 19, 3, 0])] } }

theorem wit_FabricRingCommandsComplete_fload : let s := withRing 1 [fetched 0x50 (fabBody 0 128)]
    (s.startable 0 7 0x50).isSome = true ∧ faOk (fieldAt (fabBody 0 128) 16 8) 64 = true ∧ fabLenOk (fieldAt (fabBody 0 128) 32 4) = true := by decide
theorem wit_FabricRingCommandsComplete_align : faOk (fieldAt (fabBody 1 128) 16 8) 64 = false ∧ fabLenOk 96 = false := by decide
theorem wit_FabricRingCommandsComplete_finval_zero : let s := withRing 1 [fetched 0x53 (fabBody 0 0)]
    (s.startable 0 7 0x53).isSome = true ∧ faOk (fieldAt (fabBody 0 0) 16 8) 64 = true ∧ fieldAt (fabBody 0 0) 24 4 = 0 := by decide
theorem wit_FabricRingCommandsComplete_fstore : let s := withRing 1 [fetched 0x51 (fabBody 0 128)]
    (s.startable 0 7 0x51).isSome = true ∧ s.engineFor ucDma 16 0 = some 0 ∧ s.descUsed 0 = 0 := by decide
theorem wit_FabricRingCommandsComplete_others :
    ((withRing 1 [fetched 0x52 (fabBody 0 1)]).startable 0 7 0x52).isSome = true ∧
    ((withRing 1 [fetched 0x53 (fabBody 0 64)]).startable 0 7 0x53).isSome = true ∧
    ((withRing 1 [fetched 0x54 []]).startable 0 7 0x54).isSome = true ∧
    ((withRing 1 [fetched 0x55 (fabBody 0 64)]).startable 0 7 0x55).isSome = true := by decide
theorem wit_FabricRingCommandsComplete_fkey : let s := withRegion [fetched 0x56 (fabBody 0 64)]
    (s.startable 0 7 0x56).isSome = true ∧ faOk (fieldAt (fabBody 0 64) 16 8) 1 = true ∧
    (s.regionOf (fieldAt (fabBody 0 64) 16 8)).map (fun p => (p.1, reDom p.2)) = some (2, 5) ∧ s.ringOper 0 = false ∧ s.ringDom 0 = 5 := by
  decide
theorem wit_FabricRingCommandsComplete_fkey_bad : faOk (fieldAt (List.replicate 64 0xFF) 16 8) 1 = false := by decide

/-! ### FabricMessagesTablesAndTimersComplete -/

/-- A fabric operation to node 7, in flight as number 9. -/
def anOp : FOp := ⟨.probe, .probe, 7, 0, 0, 0, 0, [], 0, 0, 0, false, false, false, []⟩
def withFab (f : FabUnit → FabUnit) : State := { withRing 1 [] with fab := f (withRing 1 []).fab }

theorem wit_FabricMessagesTablesAndTimersComplete_request : reqKind 0x50 0 [] = some .load := by decide

/-- A MIRROR entry of domain 5 at node 3 with key 0, and its memory. -/
def withMirror : State :=
  let s := withHbm 1 []
  { s with fab := { s.fab with regions := [(2, [1 + 1 * 2 + 2 ^ 9 + 5 * 2 ^ 32, 4 * 2 ^ 19, 3, 0])] } }
theorem wit_FabricMessagesTablesAndTimersComplete_mirror : let u := withMirror.heard 3
    ((u.regionOf (3 * 2 ^ 40)).map (fun p => (p.1, (u.mirrorCheck p.1 p.2 (3 * 2 ^ 40) 64 0 0).2,
      u.hbmFault (reDom p.2) (reOffset p.2 (3 * 2 ^ 40)) 64 false))) = some (2, none, none) := by decide
theorem wit_FabricMessagesTablesAndTimersComplete_response : let s := withFab fun f => { f with ops := [(9, anOp)] }
    Tab.get? (s.heard 7).fab.ops 9 = some anOp ∧ Tab.get? (s.heard 7).fab.ops 8 = none ∧ anOp.node ≠ s.nodeId ∧ s.opHeld 9 = false := by decide

/-- A REPLICA entry of domain 5, some of whose data other nodes have filled from. -/
def withReplica (l : List Nat) : State :=
  let s := withRing 1 []
  { s with fab := { s.fab with regions := [(2, [1 + 2 * 2 + 2 ^ 7 + 5 * 2 ^ 32, 4 * 2 ^ 19, 3, 0])], sharers := [(2, l)] } }
theorem wit_FabricMessagesTablesAndTimersComplete_inval : let u := fun l => ((withReplica l).heard 5).addFld F.FAB_CACHE_INVALIDATIONS 1
    ((u []).filledFrom (3 * 2 ^ 40) 64).isNone = true ∧
    ((u [7]).filledFrom (3 * 2 ^ 40) 64).map (fun p => ((u [7]).startDrops (.rem 5 0 0) p.1 p.2 .inval (3 * 2 ^ 40) 64 0).2) = some false ∧
    ((u [0]).filledFrom (3 * 2 ^ 40) 64).map (fun p => ((u [0]).startDrops (.rem 5 0 0) p.1 p.2 .inval (3 * 2 ^ 40) 64 0).2) = some true := by
  decide
theorem wit_FabricMessagesTablesAndTimersComplete_quarantine : let q : Quarantine := { id := 9, engine := 0, link := 0, tags := 1, fabric := true, freeAt := 5 }
    let s : State := { live with quar := [q] }
    (s.quar.find? fun q => q.fabric == true && q.id == 9) = some q := by decide

/-- Node 7 is DOWN with port 0 up as its route. -/
def withRoute : State :=
  (((live.setFld F.FAB_PORT_STATUS_UP 1 0).setFld F.FAB_ROUTE_PRIMARY_VALID 1 7).setFld F.FAB_ROUTE_DOWN 1 7)
theorem wit_FabricMessagesTablesAndTimersComplete_probe : 7 ≠ withRoute.nodeId ∧ withRoute.nodeDown 7 = true ∧ withRoute.livePorts 7 = [0] ∧
    (withRoute.sendOp ⟨.probe, .probe, 7, 0, 0, 0, 0, [], 0, 0, 0, false, false, false, []⟩).isSome = true ∧
    (withReplica []).homesKept = [3] ∧ (withReplica []).silent 3 = true := by decide
theorem wit_FabricMessagesTablesAndTimersComplete_lease : Tab.get? (withFab fun f => { f with heard := [(7, 5)] }).fab.heard 7 = some 5 := by decide
theorem wit_FabricMessagesTablesAndTimersComplete_sharer :
    let x : HomeOp := ⟨.loc 1, 2, [], .inval, 0, 64, [], 0, [7], 0, [(7, 5)]⟩
    Tab.get? (withFab fun f => { f with homes := [(4, x)] }).fab.homes 4 = some x ∧ Tab.get? x.failedAt 7 = some 5 := by decide
theorem wit_FabricMessagesTablesAndTimersComplete_ctrl : bits 0 36 27 = 3 * bits 0 43 37 ∧ bits (2 ^ 37) 36 27 < 3 * bits (2 ^ 37) 43 37 := by decide

/-! ### RhumbCommandsComplete -/

/-- Port 1 is up on all eight lanes. -/
def withPort : State :=
  { ((live.setFld F.FAB_PORT_STATUS_UP 1 1).setFld F.FAB_PORT_STATUS_LANE_LOCK 255 1).setFld F.FAB_PORT_STATUS_LANES_ACTIVE 8 1 with
    rhumb := [(1, ⟨255, 15, 0, 0, false, none, []⟩)] }
theorem wit_RhumbCommandsComplete_up : withPort.portUp 1 = true := by decide
theorem wit_RhumbCommandsComplete_lane_kept : (withPort.rhb 1).used = 255 ∧
    sumList ((rangeFrom 0 8).map fun i => if bit 255 i && !bit 0 i then 2 ^ i else 0) = 255 := by decide
theorem wit_RhumbCommandsComplete_lane_shed : popCount 8 240 = 4 ∧
    sumList ((rangeFrom 0 8).map fun i => if bit 255 i && !bit 15 i then 2 ^ i else 0) = 240 := by decide
theorem wit_RhumbCommandsComplete_lane_lost : popCount 8 224 < 4 ∧
    sumList ((rangeFrom 0 8).map fun i => if bit 255 i && !bit 31 i then 2 ^ i else 0) = 224 := by decide
theorem wit_RhumbCommandsComplete_retrain : let s := withPort.setFld F.FAB_PORT_STATUS_RETRAINING 1 1
    s.portUp 1 = true ∧ s.flag F.FAB_PORT_STATUS_RETRAINING 1 = true ∧ 4 ≤ popCount 8 ((s.rhb 1).lanes &&& 255 % 256) ∧
    popCount 8 ((s.rhb 1).lanes &&& 255 % 256) < s.fld F.FAB_PORT_STATUS_LANES_ACTIVE 1 ∧ popCount 8 ((s.rhb 1).lanes &&& 7 % 256) < 4 := by decide
theorem wit_RhumbCommandsComplete_train : let s := live.setFld F.FAB_PORT_CTRL_ENABLE 1 2
    let u := (s.setFld F.FAB_PORT_STATUS_LANE_LOCK (255 % 256) 2).setFld F.FAB_PORT_STATUS_PEER_NODE 3 2
    s.flag F.FAB_PORT_CTRL_ENABLE 2 = true ∧ s.unitOff ⟨ucRhumb, 2⟩ = false ∧ s.clockLost 2 (2 / 2) = false ∧ s.portUp 2 = false ∧
    4 ≤ popCount 8 (255 % 256) ∧ 3 ≠ s.nodeId ∧ u.nodeId = s.nodeId := by decide

/-! ### PageCommandsComplete -/

theorem wit_PageCommandsComplete_page : let s := withRing 1 []
    s.running = true ∧ s.page 0 0 = some true ∧ s.localRing 0 0 = some (0, oneRing 1 []) ∧ s.ringState (oneRing 1 []) = 1 ∧ s.instQuiet 0 = false := by
  decide
theorem wit_PageCommandsComplete_enable : let s := (withRing 1 []).setFld F.RING_STATUS_STATE 0
    let t := (s.setFld F.RING_CFG_SQ_LOG2 0 0).setFld F.RING_CFG_CQ_LOG2 0 0
    s.localRing 0 0 = some (0, oneRing 1 []) ∧ s.ringState (oneRing 1 []) = 0 ∧ bit (0 ||| 2 ^ 47) 47 = true ∧
    (((t.noteReg F.RING_CFG_SHARE.reg 0).setFld F.RING_CFG_SHARE 1 0).setFld F.RING_CFG_ENABLE 1 0).ringState (oneRing 1 []) = 0 := by decide
theorem wit_PageCommandsComplete_disable : let s := withRing 1 []
    (((s.noteReg F.RING_CFG_SHARE.reg 0).setFld F.RING_CFG_SHARE 1 0).setFld F.RING_CFG_ENABLE 0 0).ringState (oneRing 1 []) = 1 ∧ bit (0 - 0 / 2 ^ 47 % 2 * 2 ^ 47) 47 = false := by
  decide
theorem wit_PageCommandsComplete_irq : let r : Machine.Ring := { oneRing 1 [] with uncounted := 1 }
    let s := ({ withRing 1 [] with rings := [(0, r)] }.setFld F.RING_IRQ_IRQ_EN 1).setFld F.RING_IRQ_COAL_US 10
    Tab.get? s.rings 0 = some r ∧ s.flag F.RING_IRQ_IRQ_EN r.key = true ∧ s.fld F.RING_IRQ_COAL_US r.key ≠ 0 ∧ r.uncounted ≠ 0 := by decide
theorem wit_PageCommandsComplete_reckon : (oneRing 2 []).reckons = true ∨ (oneRing 3 []).reckons = true ∨ (oneRing 1 []).reckons = true ∨
    (({ oneRing 2 [] with priv := true } : Machine.Ring).reckons = true) := by decide

/-! ### MailboxAndResetCommandsComplete -/

/-- A mailbox block: an operation, an instance, a local ring or domain, and two bytes more. -/
def mbBlock (op inst loc : Nat) (l : List Byte) : List Byte := toLe 8 op ++ toLe 2 inst ++ toLe 1 loc ++ l

theorem wit_MailboxAndResetCommandsComplete_live : live.running = true ∧ live.flag F.PCI_MBX_CTRL_BUSY = false := by decide
theorem wit_MailboxAndResetCommandsComplete_create : fieldAt (pad64 (mbBlock 1 3 5 [0, 9, 0, 0, 0, 1, 0, 0, 4])) 0 1 = 1 ∧
    (withHbm 1 []).createStatus (pad64 (mbBlock 1 3 5 [0, 9, 0, 0, 0, 1, 0, 0, 4])) = 0 := by decide
theorem wit_MailboxAndResetCommandsComplete_alloc : fieldAt (pad64 (mbBlock 3 0 1 [2, 5])) 0 1 = 3 ∧
    (withRing 1 []).allocStatus (pad64 (mbBlock 3 0 1 [2, 5])) = 0 := by decide
theorem wit_MailboxAndResetCommandsComplete_free : fieldAt (pad64 (mbBlock 4 0 0 [])) 0 1 = 4 ∧
    (withRing 1 []).nameStatus (pad64 (mbBlock 4 0 0 [])) 4 = 0 ∧ (withRing 1 []).instQuiet (mbInst (pad64 (mbBlock 4 0 0 []))) = false := by decide
theorem wit_MailboxAndResetCommandsComplete_reset : (withRing 1 []).nameStatus (pad64 (mbBlock 5 0 0 [])) 5 = 0 ∧
    (withRing 1 []).nameStatus (pad64 (mbBlock 2 0 0 [])) 2 = 0 := by decide

/-- The ring state with the reset of instance 0 at a step. -/
def inReset (k : Nat) : State := { withRing 1 [] with insts := [(0, ⟨5, 0, false, 0, false, 4, [(0, 0)], k, false, [0, 0, 0, 0], 0, 0⟩)] }
theorem wit_MailboxAndResetCommandsComplete_steps : ((Tab.get? (inReset 1).insts 0).map (·.resetStep)) = some 1 ∧
    ((Tab.get? (inReset 4).insts 0).map (·.resetStep)) = some 4 ∧ ((inReset 4).atsDrop 0 0).instRings 0 = (inReset 4).instRings 0 := by decide
theorem wit_MailboxAndResetCommandsComplete_perst : 3 ≤ live.fld F.GLB_STATUS_BOOT_STATE := by decide
theorem wit_MailboxAndResetCommandsComplete_ats : live.dma = [] := by decide
theorem wit_MailboxAndResetCommandsComplete_core : live.unitOff ⟨ucCore, 3⟩ = false := by decide

/-! ### EthernetReceiveCommandsComplete -/

/-- A frame of 70 bytes of an EtherType, and sub-port 1 up. -/
def aFrame (ty : Byte) (n : Nat) : EthFrame := { data := List.replicate 12 0 ++ [ty, 0] ++ List.replicate n 0, fcsOk := true, full := false, sec := none, fh := none }
def withSub : State := (live.setFld F.ETH_SUB_STATUS_UP 1 1).setFld F.ETH_SUB_CTRL_MAX_FRAME 1522 1
theorem wit_EthernetReceiveCommandsComplete_tie : withSub.eth.tie.at_ = withSub.now ∧ withSub.eth.tie.regs = [] ∧ withSub.eth.tie.pols = [] ∧
    withSub.eth.tie.sas = [] := by decide
theorem wit_EthernetReceiveCommandsComplete_drops : withSub.flag F.ETH_SUB_STATUS_UP 1 = true ∧ (aFrame 8 0).full = false ∧
    frLen (aFrame 8 0) ≤ 63 ∧ ¬ frLen (aFrame 8 56) ≤ 63 ∧ ¬ withSub.fld F.ETH_SUB_CTRL_MAX_FRAME 1 < frLen (aFrame 8 56) ∧
    withSub.begun 1 (frLen (aFrame 8 56)) = false ∧ withSub.begun 1 1519 = false := by decide
theorem wit_EthernetReceiveCommandsComplete_accepted :
    let u := ((withSub.addFld F.ETH_SUB_FRAMES_RX_FRAMES 1 1).count (0xA00 + 16) none 1).count (0xA01 + 16) none 2
    frType (aFrame 8 56).data ≠ 0x8808 ∧ u.claims 1 (aFrame 8 56).data = false ∧ u.steerFind (1, 0) = none ∧ u.keyed 1 = 1 := by decide
theorem wit_EthernetReceiveCommandsComplete_steered :
    let s := (withSub.setFld F.ETH_STEER_SUBPORT 1 4).setFld F.ETH_STEER_VALID 1 4
    let u := ((s.addFld F.ETH_SUB_FRAMES_RX_FRAMES 1 1).count (0xA00 + 16) none 1).count (0xA01 + 16) none 2
    (match u.steerOf 1 (aFrame 8 56) none with | .ok e => some e | .error _ => none) = some 4 := by decide
theorem wit_EthernetReceiveCommandsComplete_up :
    let s := { live.setFld F.ETH_PORT_CTRL_ENABLE 1 0 with eth := { live.eth with locks := 15 } }
    s.portMay 0 = true ∧ 0 % 4 < formSubs (s.portForm 0) ∧ ∀ l ∈ formLanes (s.portForm 0) 0, s.laneLock 0 l = true := by decide
theorem wit_EthernetReceiveCommandsComplete_steer : let r := live.tieReg F.ETH_STEER_VALID.reg 0
    r.steerConflict 0 (r.setReg F.ETH_STEER_VALID.reg 0 (BitVec.ofNat 64 0)) = false := by decide
theorem wit_EthernetReceiveCommandsComplete_steer_conflict :
    let r := ((live.setFld F.ETH_STEER_VALID 1 4).setFld F.ETH_STEER_SUBPORT 0 4).tieReg F.ETH_STEER_VALID.reg 0
    r.steerConflict 0 (r.setReg F.ETH_STEER_VALID.reg 0 (BitVec.ofNat 64 (2 ^ F.ETH_STEER_VALID.lo))) = true := by decide
theorem wit_EthernetReceiveCommandsComplete_pring : live.prOn 0 = false ∧ (live.setFld F.ETH_PRING_ENABLE 1 0).prOn 0 = true ∧
    (live.txq 3).frames = [] := by decide

/-! ### EgressCommandsComplete -/

/-- Egress queue 0 of sub-port 1, in domain 5 with ring 4096, and a queue state. -/
def withQueue (x : TxQueue) : State :=
  let s := (({ withHbm 1 [] with eth := { live.eth with tx := [(0, x)] } }.setFld F.ETH_SUB_STATUS_UP 1 1).setFld F.ETH_Q_CFG_SUBPORT 1 0)
  (((s.setFld F.ETH_Q_CFG_DOMAIN 5 0).setFld F.ETH_Q_CFG_ENABLE 1 0).setFld F.ETH_PRING_ENABLE 1 4096).setFld F.ETH_PRING_DOMAIN 5 4096
/-- A frame of one buffer, fetched and waiting. -/
def aTxFrame : TxFrame := { first := 0, n := 1, bufs := [(0, 64)], flags := 0, tci := 0, seen := 0, wire := false, status := none, tstamp := none }

theorem wit_EgressCommandsComplete_poll : let s := withQueue TxQueue.blank
    let r := s.advanceTo ((s.txq 0).lastPoll + s.fld F.ETH_PRING_POLL (4096 + 0) * 100 * nsec)
    let u := (r.settleQueue 0).prMeets (4096 + 0) (r.prCtrl (4096 + 0)) 64
    s.prOn (4096 + 0) = true ∧ u.prRead (4096 + 0) (u.prCtrl (4096 + 0)) 4 = some [0, 0, 0, 0] ∧
    (u.egressPort (u.fld F.ETH_Q_CFG_SUBPORT 0) 0).isSome = true ∧ u.prDom (4096 + 0) = u.fld F.ETH_Q_CFG_DOMAIN 0 ∧
    u.flag F.ETH_Q_CFG_ENABLE 0 = true := by decide
theorem wit_EgressCommandsComplete_none : let s := withQueue TxQueue.blank
    s.flag F.ETH_SUB_STATUS_UP 1 = true ∧ ((s.advanceTo (s.ethSub 1).busy).wireEnds 1 txOk).nextQueue 1 = none := by decide
theorem wit_EgressCommandsComplete_send : let s := withQueue { TxQueue.blank with frames := [aTxFrame] }
    let u := (s.advanceTo (s.ethSub 1).busy).wireEnds 1 txOk
    u.nextQueue 1 = some (0, 3) ∧ (u.txq 0).frames = [aTxFrame] ∧ (u.txProtect 0 aTxFrame.flags).isSome = true := by decide
theorem wit_EgressCommandsComplete_noSa : let s := withQueue { TxQueue.blank with frames := [{ aTxFrame with flags := 2 }] }
    let u := (s.advanceTo (s.ethSub 1).busy).wireEnds 1 txOk
    u.nextQueue 1 = some (0, 3) ∧ (u.txProtect 0 2).isNone = true := by decide
theorem wit_EgressCommandsComplete_commit : bit (0 ||| 2 ^ 19) 19 = true ∧ (withQueue TxQueue.blank).flag F.ETH_Q_CFG_ENABLE 0 = true := by decide
theorem wit_EgressCommandsComplete_release : ((withQueue { TxQueue.blank with release := some 5 }).txq 0).release = some 5 := by decide
theorem wit_EgressCommandsComplete_regain : live.clockLost 1 0 = false ∧ live.clockLost 2 0 = false := by decide

/-! ### SpdmCommandsComplete -/

/-- A live device with session 2, open and bound to domain 5, or not yet open. -/
def withSession (open_ : Bool) : State := { live with sessions := [(2, ⟨open_, if open_ then some 5 else none, 0⟩)] }
theorem wit_SpdmCommandsComplete : 4 ≤ live.fld F.GLB_STATUS_BOOT_STATE ∧ live.fld F.SXT_STATUS_CORE_STATE < 2 ∧
    Tab.lowestFree live.sessions 0 16 = some 0 := by decide
theorem wit_SpdmCommandsComplete_full : Tab.lowestFree ((rangeFrom 0 16).map fun k => (k, (⟨true, none, 0⟩ : Session))) 0 16 = none := by decide
theorem wit_SpdmCommandsComplete_session : ((Tab.get? (withSession true).sessions 2).map (·.open_)) = some true ∧
    ((Tab.get? (withSession false).sessions 2).map (·.open_)) = some false ∧ (withSession true).fld F.SXT_STATUS_CORE_STATE < 2 := by decide

/-! ### KeyOperationsComplete -/

/-- A request of 80 bytes: an operation, its bytes 2 to 7, and bytes from 8 on. -/
def keyReq (op : Nat) (l m : List Byte) : List Byte := toLe 2 op ++ l ++ List.replicate (6 - l.length) 0 ++ m ++ List.replicate (72 - m.length) 0
/-- Domain 5 has channel 0 of sub-port 1 and MACsec on it. -/
def withChannel : State :=
  (((withSession true).setFld F.ETH_SUB_CTRL_MACSEC_EN 1 1).setFld F.ISO_SC_ASSIGN_VALID 1 1).setFld F.ISO_SC_ASSIGN_DOMAIN 5 1
theorem wit_KeyOperationsComplete_set : let b := keyReq 1 [0] (List.replicate 32 1)
    reqOk b 0x0001 [(2, 1), (8, 64)] = true ∧ fieldAt b 2 1 ≤ 1 ∧ slice b 8 32 ≠ slice b 40 32 ∧ (withSession true).keyBusy 5 = false := by decide
theorem wit_KeyOperationsComplete_gen : reqOk (keyReq 2 [1] []) 0x0002 [(2, 1)] = true ∧ reqOk (keyReq 3 [] []) 0x0003 [] = true := by decide
theorem wit_KeyOperationsComplete_sak : let b := keyReq 0x10 [1, 0, 0, 0, 2] (List.replicate 40 1)
    reqOk b 0x0010 [(2, 5), (8, 68)] = true ∧ reqScOk b 3 = true ∧ sakFieldsOk b = true ∧ fieldAt b 16 32 ≠ 0 ∧
    withChannel.channelOk 5 b = true ∧ withChannel.saInUse b = false := by decide
theorem wit_KeyOperationsComplete_clear : let b := keyReq 0x11 [1, 0, 0, 0, 2] []
    let s : State := { withChannel with sas := [(saKey (reqSc b) (reqAn b), ⟨false, 1, 1, 0, 0, 9, 0, false⟩)] }
    reqOk b 0x0011 [(2, 5)] = true ∧ s.channelOk 5 b = true ∧ s.saInUse b = false ∧ Tab.has s.sas (saKey (reqSc b) (reqAn b)) = true ∧
    reqOk (keyReq 0x12 [1, 0, 0, 0, 2] []) 0x0012 [(2, 5)] = true := by decide
theorem wit_KeyOperationsComplete_notice : let b := keyReq 0x20 [0, 0, 0] []
    reqOk b 0x0020 [(2, 3)] = true ∧ fieldAt b 2 2 < 1024 ∧ fieldAt b 4 1 < 64 ∧
    ((Tab.get? (withRing 1 []).insts (fieldAt b 2 2)).map fun i => (i.oper, i.dom, Tab.get? i.locals (fieldAt b 4 1))) = some (false, 5, some 0) := by
  decide
theorem wit_KeyOperationsComplete_assign : live.reserved 0 = none := by decide
theorem wit_KeyOperationsComplete_conflict :
    let s := ((withQueue TxQueue.blank).setFld F.ISO_DOM_STATUS_STRICT 1 5)
    s.reserved 1 = some 5 := by decide

/-! ### MeridianCommandsComplete -/

/-- Sub-port 1 is a PTP port in a state. -/
def withPtp (st : Nat) : State := ((live.setFld F.ETH_SUB_STATUS_UP 1 1).setFld F.MER_PORT_CFG_PTP_EN 1 1).setFld F.MER_PORT_CFG_PORT_STATE st 1
theorem wit_MeridianCommandsComplete_ptp : (withPtp 1).ptpOn 1 = true ∧ (withPtp 1).fld F.MER_PORT_CFG_PORT_STATE 1 = ptpMaster ∧
    (withPtp 2).fld F.MER_PORT_CFG_PORT_STATE 1 = ptpSlave := by decide
theorem wit_MeridianCommandsComplete_esmc : let s := (withPtp 1).setFld F.MER_PORT_CFG_SYNCE_RX 1 1
    s.flag F.ETH_SUB_STATUS_UP 1 = true ∧ s.flag F.MER_PORT_CFG_SYNCE_RX 1 = true := by decide
theorem wit_MeridianCommandsComplete_pps : let s := { live with mer := { live.mer with ppsAt := some 0 } }.setFld F.MER_SRC_CTRL_PHASE_SRC 1
    s.fld F.MER_SRC_CTRL_PHASE_SRC = 1 ∧ s.mer.ppsAt = some 0 ∧ s.now < 0 + 900 * msec := by decide
theorem wit_MeridianCommandsComplete_hold : let s := live.setFld F.MER_STATUS_STATE 3
    s.fld F.MER_STATUS_STATE = merHoldover ∧ s.flag F.MER_STATUS_HOLD_EXPIRED = false := by decide
theorem wit_MeridianCommandsComplete_capture : live.mer.ppsAt = none := by decide
theorem wit_MeridianCommandsComplete_rise : ({ live with mer := { live.mer with ppsOut := true } } : State).mer.ppsOut = true ∧
    (live.setFld F.MER_PPS_CTRL_PPS_FORCE 1).ppsDrives = true := by decide
theorem wit_MeridianCommandsComplete_time : live.cellRunning = false ∧ (withCell .active []).cellRunning = true := by decide

/-! ### AlmanacCommandsComplete -/

theorem wit_AlmanacCommandsComplete : 4 ≤ live.fld F.GLB_STATUS_BOOT_STATE ∧ live.fld F.SXT_STATUS_CORE_STATE < 2 ∧
    live.flag F.ALM_CMD_BUSY = false ∧ live.alm.upd = none ∧ live.lockedBy tokUpdate [] = none ∧ live.lockedBy tokFuse [tokUpdate] = none ∧
    live.alm.owners = [] ∧ live.running = true := by decide

/-- A firmware image, in part, and a device whose slot 0 runs and whose slot 1 is staged. -/
def anImage (kind : Nat) : Image :=
  { magic := 0, kind := kind, format := 1, part := 0, stepping := 0, rsvZero := true, nsect := 0, version := 1, size := 0, floorSet := 0, pkOffset := 0,
    peerMin := 0, rack := 0, sections := [], keyDigest := 0, sigOk := true }
def withSlots (h : BootHdr) : State :=
  { live with alm := { live.alm with hdr := h, slots := [(0, ⟨some (anImage 1), some (anImage 2), true, 0, 0⟩)] } }
def aHdr : BootHdr := { seq := 0, cur := 0, prev := noSlot, staged := 1, factory := 3, trial := true, tries := 0, tryLimit := 3, stagedValid := true, rejected := false }

/-- The state in which the Sextant takes an ALM_CMD. -/
def almAt (op : Nat) (s : State) : State :=
  ((({ s with sxt := { s.sxt with workAt := s.now } } : State).setFld F.SXT_STATUS_CORE_STATE 1).setFld F.ALM_CMD_OP op).count 0xF9C none 1
theorem wit_AlmanacCommandsComplete_stage : let v := fun op => almAt op (withSlots aHdr)
    (v 1).alm.upd = none ∧ (v 1).lockedBy tokUpdate [] = none ∧ (v 1).stageSlot = some 1 ∧
    stagePair [anImage 1] = some (some (anImage 1), none) ∧ (v 8).alm.booted ≠ some (v 8).alm.hdr.factory ∧ (v 2).canActivate = true ∧
    ((v 3).slotChecks 1).1 ≠ almLoadRefused ∧ (v 3).running = true ∧ (v 4).alm.hdr.trial = true := by decide

/-- An image of a kind with one section, whose form is right. -/
def okImage (kind cls : Nat) (vals : List (Nat × Nat × Nat)) : Image :=
  { anImage kind with magic := 0x4E414D4C, part := 0x7720, stepping := 0xB1, nsect := 1, pkOffset := 384, size := 7616,
                      sections := [⟨cls, 0xFFFF, 320, 0, 0, true, vals⟩], keyDigest := 9 }
/-- A device whose slot 2 holds a pair that passes the load checks, with two extents of DEVICE. -/
def withGood : State :=
  let f : FlashSlot := ⟨some (okImage 1 0x81 []), some (okImage 2 1 [(0x8000018, 0, 0x00FE), (0x8000018, 1, 0x01FE)]), true, 0, 0⟩
  { live with alm := { live.alm with hdr := { aHdr with prev := 2 }, slots := [(2, f)], wenov := [(9, false)], owners := [(9, false)] } }
theorem wit_AlmanacCommandsComplete_rollback : (almAt 5 withGood).rollbackStatus = 0 := by decide
theorem wit_AlmanacCommandsComplete_confirm : ∀ i ∈ ((withSlots aHdr).flashSlot 0).images, i.floorSet ≤ (withSlots aHdr).floorOf i.kind := by decide
theorem wit_AlmanacCommandsComplete_unit : let l : LiveUpdate := ⟨1, false, false, [⟨0x70, 0, 0, none, none⟩], [], []⟩
    let s : State := { withRun (aRun []) with alm := { live.alm with upd := some l } }
    l.todo ≠ [] ∧ s.planStands l = true ∧ (s.runs.any fun p => s.draining.contains p.2.dom) = false := by decide
theorem wit_AlmanacCommandsComplete_drain : let l : LiveUpdate := ⟨1, false, false, [⟨0x02, 5, 0, none, none⟩], [], []⟩
    let s : State := { withRun (aRun []) with alm := { live.alm with upd := some l } }
    s.planStands l = true ∧ (s.runs.any fun p => s.draining.contains p.2.dom) = true := by decide

/-! ### SextantCommandsComplete -/

theorem wit_SextantCommandsComplete : live.pow.life ≠ .off ∧ (live.setFld F.SXT_STATUS_CORE_STATE 1).fld F.SXT_STATUS_CORE_STATE = 1 ∧
    live.fld F.SXT_STATUS_CORE_STATE < 2 ∧ live.alm.upd = none ∧ live.sxt.disagreeAt = none ∧ live.wakeCores.log.degraded = false ∧
    live.isolated = false ∧ live.fld F.GLB_STATUS_BOOT_STATE ≠ 5 ∧ (live.setFld F.GLB_STATUS_BOOT_STATE 5).fld F.GLB_STATUS_BOOT_STATE = 5 := by
  decide
theorem wit_SextantCommandsComplete_second : let s : State := { live with sxt := { live.sxt with disagreeAt := some 0 } }
    s.sxt.disagreeAt = some 0 ∧ s.now < 0 + 3600000 * msec := by decide
/-- A log entry, and a live device whose log holds it. -/
def aLog : LogEntry := { seq := 1, sec := 0, ns := 0, timeValid := false, fault := false, sev := 0, uptimeMs := 0, cause := 0, body := [], madeAt := 0 }
def withLog (fetch : Option Nat) : State := { live with log := { live.log with sram := [aLog], waiting := 1, fetch := fetch } }
theorem wit_SextantCommandsComplete_log : ¬ 256 ≤ (withLog none).wakeCores.log.queue.length ∧
    (minBy (fun (e : LogEntry) => [LogEntry.due e]) (withLog none).wakeCores.log.queue).isSome = true := by decide
theorem wit_SextantCommandsComplete_fetch : (withLog (some 1)).log.fetch = some 1 ∧ ((withLog (some 1)).logFind 1) = some (aLog, false) ∧
    (withLog (some 1)).logFind 2 = none := by decide

/-! ### PldmAndMaintenanceCommandsComplete -/

/-- A live device with a PLDM update. -/
def withPldm : State := { withSlots aHdr with alm := { (withSlots aHdr).alm with pldm := some ⟨[], 0⟩ } }
theorem wit_PldmAndMaintenanceCommandsComplete_start : (live.count 0xF9A none 1).alm.pldm = none ∧
    (live.count 0xF9A none 1).lockedBy tokUpdate [] = none ∧ 4 ≤ live.fld F.GLB_STATUS_BOOT_STATE ∧ live.fld F.SXT_STATUS_CORE_STATE < 2 := by decide
theorem wit_PldmAndMaintenanceCommandsComplete_update : withPldm.alm.pldm.isSome = true ∧ withPldm.pow.life ≠ .recovery ∧
    withPldm.canActivate = true ∧ withPldm.alm.upd = none ∧ withPldm.running = true := by decide
theorem wit_PldmAndMaintenanceCommandsComplete_start_maint : let s := withRing 3 [fetched 0x62 []]
    let m : MaintCmd := ⟨0, 7, 0x62, 0, 0, false, 0⟩
    (s.startable 0 7 0x62).isSome = true ∧ s.maintUnitOk 0x62 0 (maintIdx 0x62 []) = true ∧ s.lockedBy 3 [] = none ∧
    (({ s.noteMap with sxt := { s.sxt with maint := s.sxt.maint ++ [m] } } : State).takeToken 3).maintRoom 0x62 = true ∧
    s.maintUnitOk 0x61 3 0 = false := by decide
/-- A device with one tile-column left, and a test of it. -/
def lastCol : State :=
  { withRing 3 [fetched 0x60 []] with mapRun := (rangeFrom 1 63).map fun k => ((⟨ucCol, k⟩ : DevUnit).key, 1) }.mapRefresh
theorem wit_PldmAndMaintenanceCommandsComplete_refused : let s := lastCol; let m : MaintCmd := ⟨0, 7, 0x60, 0, 0, true, 0⟩
    let u := ({ s.noteMap with sxt := { s.sxt with maint := s.sxt.maint ++ [m] } } : State).takeToken (0x60 - 0x5F)
    (s.startable 0 7 0x60).isSome = true ∧ s.maintUnitOk 0x60 0 (maintIdx 0x60 []) = true ∧ s.lockedBy (0x60 - 0x5F) [] = none ∧
    (u.noteOutcome (u.maintRoom 0x60)).maintRoom 0x60 = false := by decide
theorem wit_PldmAndMaintenanceCommandsComplete_abort : let m : MaintCmd := ⟨0, 0, 0x64, 0, 0, false, 0⟩
    let s := withRing 3 [fetched 0x6F []]
    (s.startable 0 7 0x6F).isSome = true ∧ s.sxt.maint = [] ∧ ([m].find? fun m => m.ring == 0 && m.cid == fieldAt [] 16 2) = some m := by decide

/-! ### CounterCommandsComplete -/

theorem wit_CounterCommandsComplete_program : F.EVC_CFG_GO.get (BitVec.ofNat 64 0) ≠ 1 ∧
    (F.EVC_CFG_GO.get (F.EVC_CFG_GO.put (BitVec.ofNat 64 0) 1)) = 1 ∧ live.awake = true ∧ live.fld F.SXT_STATUS_CORE_STATE < 2 := by decide
theorem wit_CounterCommandsComplete_alloc : let b := keyReq 0x100 [1, 0] []
    reqOk b 0x0100 [(2, 2)] = true ∧ classD (fieldAt b 2 2) = true ∧ Tab.lowestFree live.evcs 0 512 = some 0 ∧
    (live.domEvcs 5).length < (live.setFld F.EVC_CTRL_DOMAIN_LIMIT 4).fld F.EVC_CTRL_DOMAIN_LIMIT := by decide
theorem wit_CounterCommandsComplete_free : let s : State := { withSession true with evcs := [(3, ⟨1, some 5, 0, 0, 0, 0⟩)] }
    reqOk (keyReq 0x101 [3, 0] []) 0x0101 [(2, 2)] = true ∧ s.ownsEvc 5 3 = true ∧
    fieldAt (keyReq 0x101 [3, 0] []) 2 2 < 512 ∧ reqOk (keyReq 0x102 [1] [3]) 0x0102 [(2, 1), (8, 32)] = true ∧
    fieldAt (keyReq 0x102 [1] [3]) 2 1 = 1 ∧ evcNames (keyReq 0x102 [1] [3]) = [3] ∧ (s.snap 5).stopped = false ∧
    reqOk (keyReq 0x103 [] [64]) 0x0103 [(8, 10)] = true ∧ fieldAt (keyReq 0x103 [] [64]) 8 8 % 64 = 0 := by decide
theorem wit_CounterCommandsComplete_record : let s : State := { withHbm 1 [] with sxt := { live.sxt with snaps := [(5, ⟨64, 10, 0, 0, false⟩)] } }
    let u := (s.advanceTo ((s.snap 5).lastAt + (s.snap 5).period * msec))
    (s.snap 5).period ≠ 0 ∧ u.awake = true ∧ u.fld F.SXT_STATUS_CORE_STATE < 2 ∧
    u.wakeCores.hbmFault 5 (s.snap 5).off (u.wakeCores.snapRecord 5 0).length false = none := by decide

/-! ### PowerCommandsComplete -/

/-- A live device with one sleeping unit in a state, and every PLL running. -/
def withSleep (kind idx : Nat) (u : SleepUnit) : State :=
  { live with pow := { live.pow with sleeps := [(sleepKey kind idx, u)] } }.setFld F.PMC_STATUS_PLL_RUN 63
theorem wit_PowerCommandsComplete_pll : (withSleep 0 0 ⟨0, 0, false⟩).awake = true ∧ (withSleep 0 0 ⟨0, 0, false⟩).pllRuns 2 = true := by decide
/-- What a sample of a power makes of a state, before the hold is looked at. -/
def sampled (mw : Nat) (s : State) : State :=
  let u := s.advanceTo (s.pow.sampleAt + 250 * usec)
  let v := (u.setFld F.PMC_STATUS_PKG_W (min 2047 (mw / 1000))).setFld F.PMC_STATUS_PEAK_W (max (min 2047 (mw / 1000))
    ((u.setFld F.PMC_STATUS_PKG_W (min 2047 (mw / 1000))).fld F.PMC_STATUS_PEAK_W))
  v.setDuty (v.nextDuty mw)
theorem wit_PowerCommandsComplete_sample : live.running = true ∧ (sampled 2000000 live).flag F.PMC_STATUS_CRIT_ACTIVE = false := by decide
theorem wit_PowerCommandsComplete_crit : let s : State := { live.setFld F.PMC_STATUS_CRIT_ACTIVE 1 with pow := { live.pow with zeroAt := some 0 } }
    s.running = true ∧ (sampled 2000000 s).flag F.PMC_STATUS_CRIT_ACTIVE = true ∧ (sampled 2000000 s).holdEnds = some 0 := by decide
theorem wit_PowerCommandsComplete_hold : ({ live with pow := { live.pow with zeroAt := some 0 } } : State).holdEnds = some 0 ∧ live.now ≤ 0 := by decide
theorem wit_PowerCommandsComplete_sleep : let s := fun k => withSleep 1 2 ⟨k, 0, false⟩
    (∀ k ∈ [0, 1, 2, 3, 4], ((s k).sleepOf 1 2).st = k) ∧ (s 0).maySleep 1 2 = true ∧ (s 0).keepAwake 1 2 = false ∧
    (s 0).arrayBusy = false ∧ (sleepDev 1 2).isSome = true := by decide
theorem wit_PowerCommandsComplete_wake : let s := fun k => withSleep 1 2 ⟨k, 0, false⟩
    (∀ k ∈ [0, 1, 2, 3], (((s k).beforeWake 1 2).sleepOf 1 2).st = k) ∧ (((s 2).beforeWake 1 2).sleepOf 1 2).latched = false ∧
    (∀ k ∈ [0, 1, 2, 3], (s k).maySleep 1 2 = true) ∧ (live.setFld F.TRK_WAKE_CTRL_IDLE_US 5).idleTime 0 ≠ 0 := by decide
theorem wit_PowerCommandsComplete_latched : ((withSleep 1 2 ⟨2, 0, true⟩).sleepOf 1 2).latched = true := by decide
theorem wit_PowerCommandsComplete_arr : let s := (withSleep 0 0 ⟨3, 0, false⟩).setFld F.PMC_SLEEP_CTRL_ARR_PLL_OFF_US 5
    s.running = true ∧ (s.sleepOf 0 0).st = 3 ∧ s.fld F.PMC_SLEEP_CTRL_ARR_PLL_OFF_US ≠ 0 ∧ s.pllRuns pllArr = true := by decide
theorem wit_PowerCommandsComplete_late : ((withSleep 0 0 ⟨4, 0, false⟩).sleepOf 0 0).st = 4 ∧ (Tab.get? (withSleep 0 0 ⟨4, 0, false⟩).groupsNow 3).isSome = true := by
  decide

/-! ### BootAndResetCommandsComplete -/

/-- A live device at a stage of its life. -/
def atLife (l : Life) : State := { live with pow := { live.pow with life := l } }
/-- A device at power-on with a boot header that names slot 0. -/
def withHdr : State :=
  { atLife .boot with alm := { live.alm with
      flashOk := true, hdrA := some { live.alm.hdr with cur := 0, prev := noSlot, factory := noSlot, trial := false }, hdrB := none } }
theorem wit_BootAndReset_life : State.reset.pow.life = .off ∧ (atLife .boot).pow.life = .boot ∧ (atLife .powered).pow.life = .powered ∧
    (atLife (.rail 1)).pow.life = .rail 1 ∧ (atLife (.rail 2)).pow.life = .rail 2 ∧ live.pow.life = .running := by decide
theorem wit_BootAndReset_enables : ({ live with pow := { live.pow with enables := 7 } } : State).pow.enables = 7 := by decide
theorem wit_BootAndReset_lost : live.clockLost 4 0 = false ∧
    ({ live with pow := { live.pow with lost := [64] } } : State).clockLost 4 0 = true := by decide
theorem wit_BootAndReset_held : let s := { live with sxt := { live.sxt with heldReset := true, belowAt := some 5 } }
    s.sxt.heldReset = true ∧ s.sxt.belowAt = some 5 := by decide
theorem wit_BootAndReset_level : live.fld F.SXT_STATUS_LEVEL < 2 ∧ (live.setFld F.SXT_STATUS_LEVEL 2).fld F.SXT_STATUS_LEVEL = 2 := by decide
theorem wit_BootAndReset_restart : live.running = true ∧ live.flag F.SXT_RESET_CTRL_BUSY = false ∧ live.flag F.GLB_MAP_CTRL_BUSY = false ∧
    live.awake = true ∧ live.fld F.SXT_HEALTH_SEL_PART < 24 := by decide

/-! ### OnlyTheseCommandsStore -/

theorem wit_OnlyTheseCommandsStore : (∃ t, exec .idcode live = .next t) ∧ mayStore .idcode = false := ⟨⟨_, rfl⟩, rfl⟩

/-! ### OnlyTheseCommandsChangeCells -/

theorem wit_OnlyTheseCommandsChangeCells : (∃ t, exec .idcode live = .next t) ∧ mayCells .idcode = false := ⟨⟨_, rfl⟩, rfl⟩

/-! ### OnlyTheseCommandsChangeTheClock -/

theorem wit_OnlyTheseCommandsChangeTheClock : (∃ t, exec .idcode live = .next t) ∧ mayClock .idcode = false := ⟨⟨_, rfl⟩, rfl⟩

/-! ### OnlyTheseCommandsChangeTheKeys -/

theorem wit_OnlyTheseCommandsChangeTheKeys : (∃ t, exec .idcode live = .next t) ∧ mayKeys .idcode = false := ⟨⟨_, rfl⟩, rfl⟩

/-! ### OnlyTheseCommandsChangeRuns -/

theorem wit_OnlyTheseCommandsChangeRuns : (∃ t, exec .idcode live = .next t) ∧ mayRuns .idcode = false := ⟨⟨_, rfl⟩, rfl⟩

/-! ### OnlyTheseCommandsChangeTheFabric -/

theorem wit_OnlyTheseCommandsChangeTheFabric : (∃ t, exec .idcode live = .next t) ∧ mayFab .idcode = false := ⟨⟨_, rfl⟩, rfl⟩

/-! ### RneShiftRoundsToEven -/

theorem wit_RneShiftRoundsToEven : rneShift 5 1 = 2 ∧ rneShift 7 1 = 4 ∧ rneShift (-5) 1 = -2 ∧ rneShift (-7) 2 = -2 := by decide

/-! ### ReadsClearOnlyWholeRcFields -/

/-- The offset of HLM_VERM_WAIT in BAR 0: its two fields are RC. -/
def rcOff : Nat := 0x400088
theorem wit_ReadsClearOnlyWholeRcFields : live.hostUp = true ∧ accessBad rcOff 8 = false ∧ accessBad rcOff 4 = false ∧
    live.bar0Answers (regAddress rcOff) = true ∧ (regAt (regAddress rcOff)).map (fun d => d.fields.map (·.acc)) = some [.rc, .rc] := by decide

/-! ### FaultRecordsReachTheLog -/

theorem wit_FaultRecordsReachTheLog : ∃ (s t : State) (m : FaultMerge), s.merges = [m] ∧ s.now < m.lastAt + msec ∧ t.merges = [m] ∧
    m.lastAt + msec ≤ t.now ∧ m.dom = 5 :=
  ⟨{ live with merges := [⟨5, 0x305, 3, 1, 0, 0⟩] }, { live with now := msec, merges := [⟨5, 0x305, 3, 1, 0, 0⟩] }, ⟨5, 0x305, 3, 1, 0, 0⟩,
    rfl, by decide, rfl, by decide, rfl⟩

/-! ### SessionsKeepToTheirDomain -/

theorem wit_SessionsKeepToTheirDomain : ∃ x t, Tab.get? (withSession true).sessions 2 = some x ∧ x.dom = some 5 ∧
    exec (.domKeySet 2 true []) (withSession true) = .next t := ⟨_, _, rfl, rfl, rfl⟩

/-! ### TheLogTakesEveryEvent -/

theorem wit_TheLogTakesEveryEvent : live.log.degraded = false ∧ live.log.sram.length ≤ 32768 ∧ live.fld F.SXT_LOG_CTRL_UART_MIN_SEV ≤ 3 := by
  decide

/-! ### EntriesGoToTheTail -/

theorem wit_EntriesGoToTheTail : let s := (withRing 1 []).setFld F.RING_CFG_CQ_LOG2 4
    Tab.get? s.rings 0 = some (oneRing 1 []) ∧ (s.fld F.RING_STATUS_CQ_TAIL 0 + 1) % 2 ^ 4 ≠ (oneRing 1 []).cqHead % 2 ^ 4 ∧
    (oneRing 1 []).held = [] ∧ (oneRing 1 []).key = 0 := by decide
theorem wit_EntriesGoToTheTail_held : ∃ r : Machine.Ring, r.held ≠ [] := ⟨{ oneRing 1 [] with held := [([], false)] }, by simp⟩

/-! ### FullKeyRowsRefuseOwnerKey -/

theorem wit_FullKeyRowsRefuseOwnerKey : let s := { live with alm := { live.alm with owners := [(1, false), (2, false), (3, false), (4, false)] } }
    4 ≤ s.fld F.GLB_STATUS_BOOT_STATE ∧ s.fld F.SXT_STATUS_CORE_STATE < 2 ∧ s.flag F.ALM_CMD_BUSY = false ∧ s.alm.upd = none ∧
    s.lockedBy tokUpdate [] = none ∧ s.lockedBy tokFuse [tokUpdate] = none ∧ 4 ≤ s.alm.owners.length := by decide

/-! ### QuantumChangesAreTested -/

theorem wit_QuantumChangesAreTested : clamp 2 100 (bits 1 6 0) = 2 ∧ clamp 2 100 (bits 127 6 0) = 100 ∧
    clamp 2 100 (bits 20 6 0) ≤ (live.setQuantum 20).fld F.HLM_QUANTUM_QUANTUM_US ∧
    (live.setQuantum 20).fld F.HLM_QUANTUM_QUANTUM_US < clamp 2 100 (bits 50 6 0) := by decide

/-! ### WritesOutlastCorrections -/

theorem wit_WritesOutlastCorrections : Memory.wf live.mem = true ∧ 64 * (memKey .hbm 5 128 / 64) < memKey .hbm 5 128 + 1 ∧
    domBlock 5 128 ∈ { live with rewrites := [domBlock 5 128] }.rewrites := by decide

/-! ### UnoccupiedAddressesAreEmpty -/

theorem wit_UnoccupiedAddressesAreEmpty : live.hostUp = true ∧ accessBad 0x10 8 = false ∧ (regAt (regAddress 0x3FFF0)).isNone = true ∧
    ((regAt F.HLM_QUANTUM_QUANTUM_US.reg).all fun d => d.fields.all fun f => decide (60 < f.fld.lo) || decide (f.fld.lo + f.fld.w ≤ 60)) = true := by
  decide

/-! ### ChartsOutOfReachAreRefused -/

theorem wit_ChartsOutOfReachAreRefused : let s := withChart [fetched 1 (List.replicate 16 0 ++ [3])]
    (s.startable 0 7 1).isSome = true ∧ (withRing 1 [fetched 1 (List.replicate 16 0 ++ [3])]).charts = [] ∧
    (withRing 1 [fetched 3 (List.replicate 16 0 ++ [3])]).charts = [] ∧ bit { aChart with classMask := 6 }.classMask 0 = false ∧
    aChart.st = .ready ∧ aChart.dom = s.ringDom 0 ∧ aChart.lost = false := by decide

/-! ### PcieResetsStayAtTheInterface -/

theorem wit_PcieResetsStayAtTheInterface : let s := (withRing 1 []).setFld F.INST_STATUS_STATE 2
    let t : State := { withRing 1 [] with arr := ⟨[anArr], [], 0, 0, 0, none⟩, vec := ⟨some (aVec false true), [], []⟩ }
    (1 : Nat) < 2 ∧ s.insts ≠ [] ∧ (∀ p ∈ s.insts, s.fld F.INST_STATUS_STATE p.1 ≠ 1) ∧ t.arr.cur ≠ [] ∧ t.vec.cur ≠ none := by decide

/-! ### VectorNansAreCanonical -/

theorem wit_VectorNansAreCanonical : fp32.decode 0xFF800001 = .nan ∧ (outFloat 0 0xFF800001).1 = 0x7FC00000 ∧
    (outFloat 1 0x7F812345).1 = 0x7E00 ∧ (outFloat 2 0x7FFFFFFF).1 = 0x7FC0 ∧ (outFloat 2 0x3F800000).1 = 0x3F80 := by decide

/-! ### ChargesAddUpToThePass -/

theorem wit_ChargesAddUpToThePass : shareOut 10 [1, 1, 1] = [4, 3, 3] ∧ 0 < sumList [1, 1, 1] := by decide

/-! ### PolicersNeverOverdraw -/

theorem wit_PolicersNeverOverdraw : (police ⟨3000 * 8000000, 6000 * 8000000, 0⟩ 1000000 2000000 3000 6000 1500 0 0).1 = 0 ∧
    (police ⟨500 * 8000000, 1000 * 8000000, 0⟩ 1000000 2000000 3000 6000 1500 0 0).1 = 2 := by decide

/-! ### CountersCountTheirOwnDomain -/

theorem wit_CountersCountTheirOwnDomain : let s : State := { live with now := 6, evcs := [(3, ⟨1, some 5, 7, 7, 0, 0⟩)] }
    Tab.get? s.evcs 3 = some ⟨1, some 5, 7, 7, 0, 0⟩ ∧ Tab.get? (s.count 1 (some 5) 2).evcs 3 = some ⟨1, some 5, 9, 7, 6, 0⟩ := by decide

/-! ### PowerComesUpInOrder -/

/-- A device whose boot is due, with both boot headers in flash and a good image in slot 2. -/
def withBoot : State :=
  let h : BootHdr := { aHdr with cur := 2, staged := noSlot, trial := false, stagedValid := false }
  { atLife .boot with alm := { withGood.alm with flashOk := true, hdrA := some { h with seq := 1 }, hdrB := some h } }
/-- The state in which `withBoot` chooses its slot. -/
def atChoice : State :=
  let u := (withBoot.wakeCores.logResume.setBoot 1).showFuses
  match pickHdr u.alm.hdrA u.alm.hdrB with
  | some (h, b) => ({ u with alm := { u.alm with hdr := h, useB := b } } : State).showHdr.trialStep
  | none => u
theorem wit_PowerComesUpInOrder_headers : let u := (withBoot.wakeCores.logResume.setBoot 1).showFuses
    withBoot.pow.life = .boot ∧ u.alm.flashOk = true ∧ (validHdr u.alm.hdrA).isSome = true ∧ (validHdr u.alm.hdrB).isSome = true ∧
    (pickHdr u.alm.hdrA u.alm.hdrB).isSome = true := by decide
theorem wit_PowerComesUpInOrder_slot : (atChoice.selectFrom (bootOrder atChoice.alm.hdr)).2 = some (2, 0) := by decide
theorem wit_PowerComesUpInOrder_life : State.reset.pow.life = .off ∧ (atLife (.rail 1)).pow.life = .rail 1 ∧ (atLife (.rail 2)).pow.life = .rail 2 ∧
    (atLife .powered).pow.life = .powered := by decide

/-! ### LossesActAtOnce -/

theorem wit_LossesActAtOnce_life : live.pow.life ≠ .off ∧ live.pow.life = .running ∧ (atLife .powered).pow.life = .powered ∧
    ({ live with pow := { live.pow with enables := 7 } } : State).pow.enables = 7 := by decide
theorem wit_LossesActAtOnce_clock : let s := { live with pow := { live.pow with lost := [67, 64, 49] } }
    (∀ p ∈ [(1, 3), (2, 1), (3, 1), (4, 0)], live.clockLost p.1 p.2 = false) ∧ (∀ p ∈ [(3, 1), (4, 0)], s.clockLost p.1 p.2 = true) := by decide

/-! ### ResetsRunToTheirEnd -/

theorem wit_ResetsRunToTheirEnd_reset : let s : State := { live with sxt := { live.sxt with heldReset := true, belowAt := some 5 } }
    live.pow.life = .running ∧ live.fld F.SXT_STATUS_LEVEL < 2 ∧ live.sxt.heldReset = false ∧ s.sxt.heldReset = true ∧ s.sxt.belowAt = some 5 ∧
    live.running = true := by decide
theorem wit_ResetsRunToTheirEnd_restart : let v := ucCol * 2 ^ F.SXT_RESET_CTRL_UNIT_CLASS.lo
    let x : DevUnit := ⟨F.SXT_RESET_CTRL_UNIT_CLASS.get (BitVec.ofNat 64 v), F.SXT_RESET_CTRL_UNIT_INDEX.get (BitVec.ofNat 64 v)⟩
    let u := (((live.setFld F.SXT_RESET_CTRL_ACTION 3).setFld F.SXT_RESET_CTRL_UNIT_CLASS x.cls).setFld F.SXT_RESET_CTRL_UNIT_INDEX x.idx).setFld
      F.SXT_RESET_CTRL_FORCE (F.SXT_RESET_CTRL_FORCE.get (BitVec.ofNat 64 v))
    live.flag F.SXT_RESET_CTRL_BUSY = false ∧ bootRunning ≤ live.fld F.GLB_STATUS_BOOT_STATE ∧ live.fld F.SXT_STATUS_CORE_STATE < 2 ∧
    restartable x = true ∧ (({ u with sxt := { u.sxt with workAt := u.now } } : State).setFld F.SXT_STATUS_CORE_STATE 1).removalStatus x
      (F.SXT_RESET_CTRL_FORCE.get (BitVec.ofNat 64 v) == 1) = 0 := by decide

/-! ### MapOperationsAndHealthRunToTheirEnd -/

/-- A live device with tile-column 3 selected, in the state of a map operation that the Sextant serves. -/
def mapOp (op : Nat) (run : Tab Nat) : State :=
  let s : State := { (live.setFld F.GLB_MAP_UNIT_UNIT_CLASS ucCol).setFld F.GLB_MAP_UNIT_UNIT_INDEX 3 with mapRun := run }
  ({ (s.setFld F.GLB_MAP_CTRL_OP op).setFld F.GLB_MAP_CTRL_FORCE (b2n true) with sxt := { s.sxt with workAt := s.now } } : State).setFld
    F.SXT_STATUS_CORE_STATE 1
theorem wit_MapOperationsAndHealthRunToTheirEnd_disable : let w := mapOp 1 []
    live.flag F.GLB_MAP_CTRL_BUSY = false ∧ restartable w.selUnit = true ∧ w.removalStatus w.selUnit true = 0 ∧ w.unitOff w.selUnit = false ∧
    w.lastOne w.selUnit = false := by decide
theorem wit_MapOperationsAndHealthRunToTheirEnd_enable : let w := mapOp 2 [((⟨ucCol, 3⟩ : DevUnit).key, 1)]
    restartable w.selUnit = true ∧ w.removalStatus w.selUnit true = 0 ∧ layerHas w.mapFuse w.selUnit = false ∧ layerHas w.mapAlm w.selUnit = false ∧
    Tab.has w.mapRun w.selUnit.key = true := by decide
theorem wit_MapOperationsAndHealthRunToTheirEnd_health : live.awake = true ∧ live.fld F.SXT_HEALTH_SEL_PART < 24 := by decide

/-! ### CounterRequestsAreCarriedOut -/

theorem wit_CounterRequestsAreCarriedOut_program : let v := (F.EVC_CFG_SOURCE.put (F.EVC_CFG_ENABLE.put (F.EVC_CFG_GO.put 0 1) 1) 0x180).toNat
    F.EVC_CFG_GO.get (BitVec.ofNat 64 v) = 1 ∧ F.EVC_CFG_ENABLE.get (BitVec.ofNat 64 v) = 1 ∧
    classD (F.EVC_CFG_SOURCE.get (BitVec.ofNat 64 v)) = false ∧ F.EVC_CFG_SOURCE.get (BitVec.ofNat 64 v) < srcEnd ∧
    live.awake = true ∧ live.fld F.SXT_STATUS_CORE_STATE < 2 ∧ Tab.get? live.evcs (live.fld F.EVC_SEL_COUNTER) = none := by decide
theorem wit_CounterRequestsAreCarriedOut_free : let v := (F.EVC_CFG_GO.put 0 1).toNat
    F.EVC_CFG_GO.get (BitVec.ofNat 64 v) = 1 ∧ F.EVC_CFG_ENABLE.get (BitVec.ofNat 64 v) = 0 := by decide
/-- An open session of domain 5, which owns counter 3 and may own four. -/
def withCounter : State := { withSession true with evcs := [(3, ⟨1, some 5, 0, 0, 0, 0⟩)] }.setFld F.EVC_CTRL_DOMAIN_LIMIT 4
theorem wit_CounterRequestsAreCarriedOut_alloc : let b := keyReq 0x100 [1, 0] []
    4 ≤ withCounter.fld F.GLB_STATUS_BOOT_STATE ∧ withCounter.fld F.SXT_STATUS_CORE_STATE < 2 ∧
    Tab.get? withCounter.sessions 2 = some ⟨true, some 5, 0⟩ ∧ reqOk b 0x0100 [(2, 2)] = true ∧ classD (fieldAt b 2 2) = true ∧
    Tab.lowestFree withCounter.evcs 0 512 = some 0 ∧ (withCounter.domEvcs 5).length < withCounter.fld F.EVC_CTRL_DOMAIN_LIMIT := by decide
theorem wit_CounterRequestsAreCarriedOut_own : let f := keyReq 0x101 [3, 0] []
    let r := keyReq 0x102 [1] [3]
    let p := keyReq 0x103 [] [64]
    reqOk f 0x0101 [(2, 2)] = true ∧ fieldAt f 2 2 = 3 ∧ withCounter.ownsEvc 5 3 = true ∧ reqOk r 0x0102 [(2, 1), (8, 32)] = true ∧
    fieldAt r 2 1 = 1 ∧ evcNames r = [3] ∧ reqOk p 0x0103 [(8, 10)] = true ∧ fieldAt p 8 8 % 64 = 0 := by decide
theorem wit_CounterRequestsAreCarriedOut_record : let s : State := { withHbm 1 [] with sxt := { live.sxt with snaps := [(5, ⟨64, 10, 0, 0, false⟩)] } }
    let u := s.advanceTo ((s.snap 5).lastAt + (s.snap 5).period * msec)
    (s.snap 5).period ≠ 0 ∧ u.awake = true ∧ u.fld F.SXT_STATUS_CORE_STATE < 2 ∧
    u.wakeCores.hbmFault 5 (s.snap 5).off (u.wakeCores.snapRecord 5 (s.snap 5).seq).length false = none := by decide

/-! ### Worked examples of the manual -/

/-- R75: the guard recompute of an INT8 × INT8 block with K = 2,048 on 31 tile-rows. -/
theorem test_guardBlockCycles : guardBlockCycles 2048 2 1 31 = 10432 := by decide
/-- R49 and its worked example in Scope, Roles and Conventions. -/
theorem test_requant : requant (-90) 5 2 (-20) 8 none = (-128, true) := by decide
/-- The pairs of the worked example of Number Formats, on 32 and on 31 tile-rows. -/
theorem test_compPair : compPair 2147142144 1 25 0 = (64, -3, false) ∧ compPair 2146451391 1 25 0 = (64, -8, false) := by decide
/-- R86: two loads with 64 tile-columns, three with 63, and the packed pass of the chapter's second example. -/
theorem test_tData : tDataOf (List.replicate 2 ⟨2048, 8192⟩) = 16384 ∧ tDataOf (List.replicate 3 ⟨2048, 8192⟩) = 24576 ∧
    tDataOf [⟨2048, 1638⟩] = 1638 ∧ tDataOf [⟨2048, 1638⟩] + tailOf [⟨2048, 1638⟩] = 2048 := by decide
/-- R186: the increments of the Helm's worked example. -/
theorem test_vinc : vinc 12000 1610612736 = 32000 ∧ vinc 12000 1073741824 = 48000 := by decide
/-- R240: one PRB at 9-bit mantissas. -/
theorem test_bfpCompress : bfpCompress [19837, -20480, -1234] 9 = (7, [155, -160, -10]) := by decide
/-- R270 to R279: the segmentation, soft bits and decoding time of the decode-window example. -/
theorem test_segment : let g := segment 581816 0
    g.c = 70 ∧ g.kPrime = 8336 ∧ g.zc = 384 ∧ g.k = 8448 ∧ g.e 628992 2 8 27 = 8976 ∧ g.e 628992 2 8 28 = 8992 ∧ g.ncol 9104 = 26 ∧
    g.rows 9104 = 4 ∧ cbCycles g 9104 8 = 80 := by decide
/-- R267: a symbol of the same example, of two stages. -/
theorem test_eqCycles : eqCycles 3276 273 2 2 4 = 26 + 23 := by decide
/-- R398: the six frames of the policer example. -/
theorem test_police : let f := fun (p : Policer) (t : Nat) => police p 1000000 2000000 3000 6000 1500 t 0
    let a := f ⟨3000 * 8000000, 6000 * 8000000, 0⟩ 0
    let b := f a.2 1000
    let c := f b.2 2000
    let d := f c.2 3000
    let e := f d.2 4000
    let g := f e.2 10000
    (a.1, b.1, c.1, d.1, e.1, g.1) = (0, 0, 1, 1, 2, 1) ∧ g.2 = ⟨1250 * 8000000, 1000 * 8000000, 10000⟩ := by decide
/-- R474: the symbol in progress at the receive timestamp of the Meridian's example. -/
theorem test_airPosition : State.reset.airPosition { aCfg with hdr := aCfg.hdr.set 4 1 } (1715000000123456789 * 65536) =
    (11192281448984, 12) := by decide

end Sys2Proof.Tests
end

/-! ## PROOFS of the family of scope: the rounding shift (R21), and what a read of a register changes (R12). -/

section
namespace Sys2Proof.Machine

/-! ### The rounding shift (R21) -/

/-- The quotient toward minus infinity and its remainder decide the rounded quotient: up above a half, up at a half when the quotient is odd. -/
theorem rneShift_succ (x : Int) (k : Nat) :
    rneShift x (k + 1) =
      if 2 ^ k < x % 2 ^ (k + 1) ∨ x % 2 ^ (k + 1) = 2 ^ k ∧ x / 2 ^ (k + 1) % 2 = 1 then x / 2 ^ (k + 1) + 1 else x / 2 ^ (k + 1) := by
  have hq : x.shiftRight (k + 1) = x / 2 ^ (k + 1) := Int.shiftRight_eq_div_pow x (k + 1)
  have hr : x - x / 2 ^ (k + 1) * 2 ^ (k + 1) = x % 2 ^ (k + 1) := by
    rw [Int.emod_def, mul_comm]
  simp only [rneShift, Nat.add_one_ne_zero, if_false, Nat.add_sub_cancel, hq, hr, gt_iff_lt]
  split_ifs <;> tauto

/-- A rounded quotient times the divisor is at most half the divisor away, and at exactly half the quotient is even. -/
theorem rneShift_succ_nearest (x : Int) (k : Nat) :
    |rneShift x (k + 1) * 2 ^ (k + 1) - x| ≤ 2 ^ k ∧
      (|rneShift x (k + 1) * 2 ^ (k + 1) - x| = 2 ^ k → rneShift x (k + 1) % 2 = 0) := by
  have hpos : (0 : Int) < 2 ^ k := by positivity
  have hdiv : x / 2 ^ (k + 1) * 2 ^ (k + 1) + x % 2 ^ (k + 1) = x := Int.ediv_mul_add_emod x _
  have hmod : 0 ≤ x % 2 ^ (k + 1) := Int.emod_nonneg x (by positivity)
  have hlt : x % 2 ^ (k + 1) < 2 * 2 ^ k := by
    simpa [pow_succ'] using Int.emod_lt_of_pos x (show (0 : Int) < 2 ^ (k + 1) by positivity)
  rw [rneShift_succ]
  split_ifs with hup
  · have hdist : (x / 2 ^ (k + 1) + 1) * 2 ^ (k + 1) - x = 2 * 2 ^ k - x % 2 ^ (k + 1) := by
      linear_combination hdiv + pow_succ' (2 : Int) k
    rw [hdist, abs_of_nonneg (by omega)]
    omega
  · have hdist : x / 2 ^ (k + 1) * 2 ^ (k + 1) - x = -(x % 2 ^ (k + 1)) := by
      linear_combination hdiv
    rw [hdist, abs_neg, abs_of_nonneg hmod]
    omega

/-- Settles O40: by the remainder's place beside the half, for a shift of 1 or more; a shift of 0 is exact. -/
theorem rneShiftRoundsToEven : Obligations.RneShiftRoundsToEven := by
  unfold Obligations.RneShiftRoundsToEven
  intro x s
  refine ⟨rfl, ?_⟩
  cases s with
  | zero => simp [rneShift]
  | succ k =>
    obtain ⟨hnear, heven⟩ := rneShift_succ_nearest x k
    obtain ⟨hlow, hhigh⟩ := abs_le.mp hnear
    rw [abs_eq (by positivity)] at heven
    have htwice : (2 : Int) ^ (k + 1) = 2 * 2 ^ k := pow_succ' 2 k
    generalize rneShift x (k + 1) * 2 ^ (k + 1) - x = dist at *
    omega

/-! ### What a read of a register changes (R12, R384) -/

/-- A 32-bit read that BAR 0 answers returns the addressed half. It changes what the look at a sub-port's FIFOs changes (log entry 103). -/
theorem exec_rcRead_half (s : State) (off : Nat) (hup : s.hostUp = true) (hoff : off < 2 ^ 26) (hok : accessBad off 4 = false)
    (hans : s.bar0Answers (regAddress off) = true) :
    exec (.rcRead .bar0 off 4) s =
      let u := s.fifoLook (regAddress off) (s.window (regAddress off))
      let w := u.readWord (regAddress off) (s.window (regAddress off))
      .next { u with readData := if off % 8 = 4 then w >>> 32 else w &&& 0xFFFFFFFF#64 } := by
  have hmod : off % barBytes .bar0 = off := Nat.mod_eq_of_lt hoff
  change Host.Outcome.next (s.hostRead .bar0 off 4) = _
  simp [State.hostRead, hmod, hup, State.refused, hok, State.otherLink, State.place, hans]

/-- A look at the FIFOs of a sub-port that is down leaves RX_COUNT 0. -/
theorem fifoLook_down_rxCount (s : State) (sp : Nat) (hdown : s.flag F.ETH_SUB_STATUS_UP sp = false) :
    (s.fifoLook F.ETH_FIFO_COUNT_RX_COUNT.reg sp).fld F.ETH_FIFO_COUNT_RX_COUNT sp = 0 := by
  simp only [State.fifoLook, hdown, Bool.false_eq_true, and_false, if_false, if_true]
  rw [State.fld_setFld_beside _ F.ETH_FIFO_COUNT_TX_COUNT F.ETH_FIFO_COUNT_RX_COUNT _ _ rfl (by decide) (by decide) (by decide)
      (by decide),
    State.fld_setFld_self _ _ _ _ (by decide) (by decide), Nat.zero_mod]

/-- The offset of ETH_FIFO_COUNT in BAR 0. -/
def fifoCountOff : Nat := 0x1000028

/-- A RUNNING device. Sub-port 0 is down, and its ETH_FIFO_COUNT still holds an occupancy of 1 that a read found while it was up. -/
def staleFifoCount : State :=
  ({ State.reset with pow := { State.reset.pow with life := .running } }.setFld F.GLB_STATUS_BOOT_STATE bootRunning).setFld
    F.ETH_FIFO_COUNT_RX_COUNT 1

/-- Refutes O41: a 32-bit read of ETH_FIFO_COUNT is no pure read. On a sub-port that is down, it takes a stale RX_COUNT of 1 to 0. -/
theorem not_readsClearOnlyWholeRcFields : ¬ Obligations.ReadsClearOnlyWholeRcFields := by
  unfold Obligations.ReadsClearOnlyWholeRcFields
  rintro ⟨-, hhalf⟩
  have haddr : regAddress fifoCountOff = F.ETH_FIFO_COUNT_RX_COUNT.reg := by decide
  have hwin : staleFifoCount.window F.ETH_FIFO_COUNT_RX_COUNT.reg = 0 := by decide
  have hup : staleFifoCount.hostUp = true := by decide
  have hans : staleFifoCount.bar0Answers (regAddress fifoCountOff) = true := by decide
  obtain ⟨d, hd⟩ : ∃ d, regAt (regAddress fifoCountOff) = some d := Option.isSome_iff_exists.mp (by decide)
  obtain ⟨t, hread, hframe, -⟩ := hhalf staleFifoCount fifoCountOff d hup (by decide) (by decide) hans hd
  have hone : t.fld F.ETH_FIFO_COUNT_RX_COUNT = 1 := by
    rw [hframe]
    change staleFifoCount.fld F.ETH_FIFO_COUNT_RX_COUNT = 1
    decide
  have hzero : t.fld F.ETH_FIFO_COUNT_RX_COUNT = 0 := by
    rw [exec_rcRead_half _ _ hup (by decide) (by decide) hans, haddr, hwin] at hread
    injection hread with ht
    rw [← ht]
    exact fifoLook_down_rxCount staleFifoCount 0 (by decide)
  omega

end Sys2Proof.Machine
end

/-! ## PROOFS of the family of commands: the charts that a ring command may not name (R109, R313). -/

section
namespace Sys2Proof.Machine

/-! ### RUN_CHART -/

/-- A chart that is absent, not READY, another domain's (R109) or without its copy (R313) refuses a run with CHART_INVALID. -/
theorem State.runRefusal_chartInvalid (s : State) (g : Nat) (r : Ring) (id : Nat)
    (hout : ∀ c, Tab.get? s.charts id = some c → c.st ≠ .ready ∨ c.dom ≠ s.ringDom g ∨ c.lost = true) :
    s.runRefusal g r id = some stChartInvalid := by
  unfold State.runRefusal
  cases hc : Tab.get? s.charts id with
  | none => rfl
  | some c => exact if_pos (hout c hc)

/-- A READY chart of the ring's domain that still has its copy refuses a ring of a class outside its CLASS_MASK with NO_CLASS. -/
theorem State.runRefusal_noClass (s : State) (g : Nat) (r : Ring) (id : Nat) (c : Chart) (hc : Tab.get? s.charts id = some c)
    (hready : c.st = .ready) (hdom : c.dom = s.ringDom g) (hcopy : c.lost = false) (hclass : bit c.classMask (r.cls - 1) = false) :
    s.runRefusal g r id = some stNoClass := by
  simp [State.runRefusal, hc, hready, hdom, hcopy, hclass]

/-- A RUN_CHART that its ring can start, and whose chart refuses the run, completes with the refusal's status and no run. -/
theorem exec_runChart_refused (s : State) (g cid st : Nat) (r : Ring) (f : Fetched) (hstart : s.startable g cid 0x01 = some f)
    (hring : Tab.get? s.rings g = some r) (hrefused : s.runRefusal g r (fieldAt f.body 16 2) = some st) :
    exec (.runChart g cid) s = .next (s.completeNoRun g cid st 0 false) := by
  change Host.Outcome.next (s.runChart g cid) = _
  simp only [State.runChart, hstart, hring, hrefused]

/-! ### UNLOAD_CHART -/

/-- An UNLOAD_CHART that its ring can start completes with CHART_INVALID where its chart is absent, not READY or another domain's. -/
theorem exec_unloadChart_chartInvalid (s : State) (g cid : Nat) (f : Fetched) (hstart : s.startable g cid 0x03 = some f)
    (hout : ∀ c, Tab.get? s.charts (fieldAt f.body 16 2) = some c → c.st ≠ .ready ∨ c.dom ≠ s.ringDom g) :
    exec (.unloadChart g cid) s = .next (s.completeStatus g cid stChartInvalid) := by
  change Host.Outcome.next (s.unloadChart g cid) = _
  simp only [State.unloadChart, hstart]
  cases hc : Tab.get? s.charts (fieldAt f.body 16 2) with
  | none => rfl
  | some c => simp only [if_pos (hout c hc)]

/-! ### Both commands -/

/-- Settles O50: a RUN_CHART by the refusal of its chart, an UNLOAD_CHART by the cases of the chart table. -/
theorem chartsOutOfReachAreRefused : Obligations.ChartsOutOfReachAreRefused := by
  unfold Obligations.ChartsOutOfReachAreRefused
  refine ⟨?run, ?unload, ?noClass⟩
  case run =>
    intro s g cid r f hstart hring hout
    exact exec_runChart_refused s g cid stChartInvalid r f hstart hring (s.runRefusal_chartInvalid g r _ hout)
  case unload => exact exec_unloadChart_chartInvalid
  case noClass =>
    intro s g cid r f c hstart hring hc hready hdom hcopy hclass
    exact exec_runChart_refused s g cid stNoClass r f hstart hring (s.runRefusal_noClass g r _ c hc hready hdom hcopy hclass)

end Sys2Proof.Machine
end

/-! ## PROOFS of the family of the Helm: a write of the quantum and its test (R178). -/

section
namespace Sys2Proof.Machine

/-! ### A cut value -/

/-- A cut value is not above the upper bound. -/
theorem clamp_le {lo hi v : Nat} : clamp lo hi v ≤ hi := by
  unfold clamp
  omega

/-- A value between the bounds is not cut. -/
theorem clamp_of_mem {lo hi v : Nat} (hlo : lo ≤ v) (hhi : v ≤ hi) : clamp lo hi v = v := by
  unfold clamp
  omega

/-- A value below the bounds is cut to the lower one. -/
theorem clamp_of_lt {lo hi v : Nat} (h : lo ≤ hi) (hv : v < lo) : clamp lo hi v = lo := by
  unfold clamp
  omega

/-- A value above the bounds is cut to the upper one. -/
theorem clamp_of_gt {lo hi v : Nat} (hv : hi < v) : clamp lo hi v = hi := by
  unfold clamp
  omega

/-! ### What the notes of an admission test leave -/

/-- The Helm's own state is no part of a register. -/
theorem State.fld_withHelm (s : State) (h : HelmUnit) (g : Fld) (j : Nat) : ({ s with helm := h } : State).fld g j = s.fld g j := rfl

/-- Noting an admission result writes HLM_ADMIT_STATUS and no other register. -/
theorem State.fld_noteAdmit_ne (s : State) (r : AdmitResult) (g : Fld) (j : Nat)
    (h : regKey g.reg j ≠ regKey F.HLM_ADMIT_STATUS_LAST_RESULT.reg 0) : (s.noteAdmit r).fld g j = s.fld g j := by
  have hkeep (t : State) (f : Fld) (n : Nat) (hf : f.reg = F.HLM_ADMIT_STATUS_LAST_RESULT.reg) :
      (t.setFld f n).fld g j = t.fld g j := State.fld_setFld_ne _ _ _ _ _ _ (hf ▸ h)
  refine (State.fld_withHelm _ _ g j).trans ?_
  simp only [hkeep]

/-- Noting a request's outcome writes HLM_ADMIT_STATUS, and for a refused one HLM_ERR_STATUS, and no other register. -/
theorem State.fld_noteOutcome_ne (s : State) (fit : Bool) (g : Fld) (j : Nat)
    (hstatus : regKey g.reg j ≠ regKey F.HLM_ADMIT_STATUS_LAST_RESULT.reg 0)
    (herr : regKey g.reg j ≠ regKey F.HLM_ERR_STATUS_ADMIT_REFUSED.reg 0) : (s.noteOutcome fit).fld g j = s.fld g j := by
  cases fit with
  | true => exact State.fld_setFld_ne _ _ _ _ _ _ hstatus
  | false => exact (State.fld_setFld_ne _ _ _ _ _ _ herr).trans (State.fld_setFld_ne _ _ _ _ _ _ hstatus)

/-- Noting a request's outcome leaves QUANTUM_REFUSED as it was. -/
theorem State.fld_noteOutcome_quantumRefused (s : State) (fit : Bool) :
    (s.noteOutcome fit).fld F.HLM_ERR_STATUS_QUANTUM_REFUSED = s.fld F.HLM_ERR_STATUS_QUANTUM_REFUSED := by
  have hkeep (n : Nat) : (s.setFld F.HLM_ADMIT_STATUS_LAST_RESULT n).fld F.HLM_ERR_STATUS_QUANTUM_REFUSED =
      s.fld F.HLM_ERR_STATUS_QUANTUM_REFUSED := State.fld_setFld_ne _ _ _ _ _ _ (by decide)
  cases fit with
  | true => exact hkeep 1
  | false =>
    refine Eq.trans ?_ (hkeep 2)
    exact State.fld_setFld_beside _ _ _ _ _ rfl (by decide) (by decide) (by decide) (by decide)

/-! ### A write of the quantum -/

/-- A quantum that fits its field is stored as it is. -/
theorem State.fld_setQuantum_us (s : State) (q : Nat) (hq : q < 2 ^ 7) : (s.setQuantum q).fld F.HLM_QUANTUM_QUANTUM_US = q := by
  unfold State.setQuantum
  rw [State.fld_setFld_beside _ F.HLM_QUANTUM_QUANTUM_CYCLES F.HLM_QUANTUM_QUANTUM_US _ _ rfl (by decide) (by decide) (by decide)
      (by decide),
    State.fld_setFld_self _ _ _ _ (by decide) (by decide), Nat.mod_eq_of_lt hq]

/-- A write that does not raise the quantum stores the cut value with no test. -/
theorem State.quantumWrite_of_le (s : State) (v q : Nat) (hq : q = clamp 2 100 (bits v 6 0))
    (hle : q ≤ s.fld F.HLM_QUANTUM_QUANTUM_US) : s.quantumWrite v = s.setQuantum q := by
  subst hq
  unfold State.quantumWrite
  rw [if_pos hle]

/-- A raise that passes the admission test is stored and noted. -/
theorem State.quantumWrite_of_pass (s : State) (v q : Nat) (hq : q = clamp 2 100 (bits v 6 0))
    (hraise : s.fld F.HLM_QUANTUM_QUANTUM_US < q) (hpass : (s.admitFull s.helm.cal (q * 1500) s.mapE s.mapC).pass = true) :
    s.quantumWrite v =
      ((s.setQuantum q).noteAdmit (s.admitFull s.helm.cal (q * 1500) s.mapE s.mapC)).noteOutcome true := by
  subst hq
  unfold State.quantumWrite
  rw [if_neg (Nat.not_le.mpr hraise), if_pos hpass]

/-- A raise that fails the admission test is refused. -/
theorem State.quantumWrite_of_refused (s : State) (v q : Nat) (hq : q = clamp 2 100 (bits v 6 0))
    (hraise : s.fld F.HLM_QUANTUM_QUANTUM_US < q) (hfail : (s.admitFull s.helm.cal (q * 1500) s.mapE s.mapC).pass = false) :
    s.quantumWrite v = (s.raise F.HLM_ERR_STATUS_QUANTUM_REFUSED).noteOutcome false := by
  subst hq
  unfold State.quantumWrite
  rw [if_neg (Nat.not_le.mpr hraise), if_neg (Bool.eq_false_iff.mp hfail)]

/-- A write that does not raise the quantum, or whose raise passes the admission test, stores the cut value (R178). -/
theorem State.fld_quantumWrite_of_accepted (s : State) (v q : Nat) (hq : q = clamp 2 100 (bits v 6 0))
    (haccept : q ≤ s.fld F.HLM_QUANTUM_QUANTUM_US ∨ (s.admitFull s.helm.cal (q * 1500) s.mapE s.mapC).pass = true) :
    (s.quantumWrite v).fld F.HLM_QUANTUM_QUANTUM_US = q := by
  have hmax : q ≤ 100 := hq ▸ clamp_le
  have hstored : (s.setQuantum q).fld F.HLM_QUANTUM_QUANTUM_US = q := s.fld_setQuantum_us q (hmax.trans_lt (by decide))
  rcases Nat.lt_or_ge (s.fld F.HLM_QUANTUM_QUANTUM_US) q with hraise | hle
  · rw [s.quantumWrite_of_pass v q hq hraise (haccept.resolve_left (Nat.not_le.mpr hraise)),
      State.fld_noteOutcome_ne _ _ _ _ (by decide) (by decide), State.fld_noteAdmit_ne _ _ _ _ (by decide), hstored]
  · rw [s.quantumWrite_of_le v q hq hle, hstored]

/-- A refused quantum keeps the quantum in force. -/
theorem State.fld_refusedQuantum_us (s : State) :
    ((s.raise F.HLM_ERR_STATUS_QUANTUM_REFUSED).noteOutcome false).fld F.HLM_QUANTUM_QUANTUM_US = s.fld F.HLM_QUANTUM_QUANTUM_US := by
  rw [State.fld_noteOutcome_ne _ _ _ _ (by decide) (by decide)]
  exact State.fld_setFld_ne _ _ _ _ _ _ (by decide)

/-- A refused quantum leaves QUANTUM_REFUSED set. -/
theorem State.flag_refusedQuantum (s : State) :
    ((s.raise F.HLM_ERR_STATUS_QUANTUM_REFUSED).noteOutcome false).flag F.HLM_ERR_STATUS_QUANTUM_REFUSED = true := by
  have hset : (s.raise F.HLM_ERR_STATUS_QUANTUM_REFUSED).fld F.HLM_ERR_STATUS_QUANTUM_REFUSED = 1 :=
    State.fld_setFld_self _ _ _ _ (by decide) (by decide)
  rw [State.flag, State.fld_noteOutcome_quantumRefused, hset]
  rfl

/-- States with one QUANTUM_US decide by one quantum (R176). -/
theorem State.quantum_of_fld {s : State} {q : Nat} (h : s.fld F.HLM_QUANTUM_QUANTUM_US = q) : s.quantum = q * 1500 := by
  rw [State.quantum, h]

/-- Settles O47: by the two ends of a write, the value stored or the raise refused. -/
theorem quantumChangesAreTested : Obligations.QuantumChangesAreTested := by
  unfold Obligations.QuantumChangesAreTested
  intro s v q hq
  refine ⟨s.quantumWrite v, rfl, ?low, ?high, ?within, ?accepted, ?refused⟩
  case low => exact fun hv => hq.trans (clamp_of_lt (by decide) hv)
  case high => exact fun hv => hq.trans (clamp_of_gt hv)
  case within => exact fun hlo hhi => hq.trans (clamp_of_mem hlo hhi)
  case accepted =>
    intro haccept
    have hus := s.fld_quantumWrite_of_accepted v q hq haccept
    exact ⟨hus, State.quantum_of_fld hus⟩
  case refused =>
    intro hraise hfail
    rw [s.quantumWrite_of_refused v q hq hraise hfail]
    exact ⟨s.fld_refusedQuantum_us, State.quantum_of_fld s.fld_refusedQuantum_us, s.flag_refusedQuantum⟩

end Sys2Proof.Machine
end

/-! ## PROOFS of the family of the memory: a write and the correcting rewrite that waits for its block (R299). -/

section
namespace Sys2Proof.Machine

/-! ### Keys in a domain's space -/

/-- An offset that stays within the space moves the key by as much. -/
theorem memKey_add (spc : Space) (d off i : Nat) (h : off + i < 2 ^ 64) : memKey spc d (off + i) = memKey spc d off + i := by
  unfold memKey
  rw [Nat.mod_eq_of_lt h, Nat.mod_eq_of_lt (Nat.lt_of_le_of_lt (Nat.le_add_right off i) h), Nat.add_assoc]

/-! ### What a store leaves -/

/-- A rewrite still waits after a store where it waited before and its block lies clear of the bytes stored. -/
theorem State.mem_rewrites_store (s : State) (spc : Space) (d off b : Nat) (l : List Byte) :
    b ∈ (s.store spc d off l).rewrites ↔
      b ∈ s.rewrites ∧ (64 * b + 64 ≤ memKey spc d off ∨ memKey spc d off + l.length ≤ 64 * b) := by
  have hkept : (s.store spc d off l).rewrites =
      s.rewrites.filter fun b => decide (64 * b + 64 ≤ memKey spc d off) || decide (memKey spc d off + l.length ≤ 64 * b) := by
    unfold State.store
    split <;> rfl
  simp only [hkept, List.mem_filter, Bool.or_eq_true, decide_eq_true_eq]

/-- Bytes stored within the space are read back. -/
theorem State.byte_store (s : State) (spc : Space) (d off i : Nat) (l : List Byte) (hw : Memory.wf s.mem = true)
    (hspace : off + l.length ≤ 2 ^ 64) (hi : i < l.length) : (s.store spc d off l).byte spc d (off + i) = l.getD i 0 := by
  rw [State.byte, State.store_mem, memKey_add spc d off i (by omega)]
  exact Memory.read_writeBytes_in s.mem _ i l hw hi

/-! ### What a rewrite leaves -/

/-- A CORRECTED_REWRITE leaves the memory as it was: the corrected data is the data that the block holds. -/
@[simp] theorem State.correctedRewrite_mem (s : State) (e o : Nat) : (s.correctedRewrite e o).mem = s.mem := rfl

/-- A CORRECTED_REWRITE leaves every byte of every space as it was. -/
theorem State.byte_correctedRewrite (s : State) (e o : Nat) (spc : Space) (d off : Nat) :
    (s.correctedRewrite e o).byte spc d off = s.byte spc d off := by
  rw [State.byte, State.correctedRewrite_mem, State.byte]

/-- Settles O48: a store keeps only the rewrites of blocks clear of it, and a rewrite keeps the memory that the store left. -/
theorem writesOutlastCorrections : Obligations.WritesOutlastCorrections := by
  unfold Obligations.WritesOutlastCorrections
  refine ⟨?cancelled, ?stands⟩
  case cancelled =>
    intro s spc d off b l hstart hend hwaits
    obtain ⟨-, hbefore | hafter⟩ := (s.mem_rewrites_store spc d off b l).mp hwaits
    · exact absurd hend (Nat.not_lt.mpr hbefore)
    · exact absurd hstart (Nat.not_lt.mpr hafter)
  case stands =>
    intro s d e off o i l hw hspace hi
    refine ⟨(s.store .hbm d off l).correctedRewrite e o, rfl, ?_, ?_⟩
    · rw [State.byte_correctedRewrite]
      exact s.byte_store .hbm d off i l hw hspace hi
    · intro k
      rw [State.correctedRewrite_mem]

end Sys2Proof.Machine
end

/-! ## PROOFS of the family of isolation: what an event leaves of the event counters that are not its own (R436, R437). -/

section
namespace Sys2Proof

/-- An entry of a table whose every entry was changed is the entry that stood there, changed. -/
theorem Tab.get?_mapV {α β : Type} (t : Tab α) (f : Nat → α → β) (k : Nat) : Tab.get? (Tab.mapV t f) k = (Tab.get? t k).map (f k) := by
  induction t with
  | nil => rfl
  | cons p r ih =>
    change (if p.1 = k then some (f p.1 p.2) else Tab.get? (Tab.mapV r f) k) =
      Option.map (f k) (if p.1 = k then some p.2 else Tab.get? r k)
    split
    · next hk => rw [hk, Option.map_some]
    · exact ih

namespace Machine

/-- A counter stays as it is where its owner is not the one that the events are tagged with (R436). -/
theorem Evc.take_of_dom_ne (e : Evc) (now : Nat) (frozen : Bool) (src : Nat) (dom : Option Nat) (n : Nat) (h : e.dom ≠ dom) :
    e.take now frozen src dom n = e :=
  if_neg fun ⟨_, hown, _⟩ => h hown

/-- Events reach every counter in use, each by its own `Evc.take`; none is programmed or freed. -/
theorem State.get?_evcs_count (s : State) (src : Nat) (dom : Option Nat) (n k : Nat) :
    Tab.get? (s.count src dom n).evcs k =
      (Tab.get? s.evcs k).map fun e => e.take s.now (s.flag F.EVC_CTRL_FREEZE) src dom n :=
  Tab.get?_mapV s.evcs (fun _ e => e.take s.now (s.flag F.EVC_CTRL_FREEZE) src dom n) k

/-- Settles O55: the counter takes the events as every counter does, and takes none of them, for they are not its owner's. -/
theorem countersCountTheirOwnDomain : Obligations.CountersCountTheirOwnDomain := by
  unfold Obligations.CountersCountTheirOwnDomain
  intro s src n k d dom e hk hown hother
  have hne : e.dom ≠ dom := fun h => hother (h.symm.trans hown)
  rw [State.get?_evcs_count, hk, Option.map_some, Evc.take_of_dom_ne e _ _ src dom n hne]

end Machine
end Sys2Proof
end

/-! ## PROOFS of the family of faults: a PCIe link reset stays at the host interface (R557). -/

section
namespace Sys2Proof.Machine

/-! ### What lies beyond the host interface -/

/-- The parts of a device that a reset of a PCIe link has no business with: the compute part, the memory, power and boot, the radio,
the ports and the time. -/
structure BeyondPcie where
  arr : ArrUnit
  vec : VecUnit
  runs : Tab Run
  charts : Tab Chart
  mem : List Host.Cell
  pow : PowUnit
  bootState : Nat
  cells : Tab Cell
  rhumb : Tab RhumbPort
  eth : EthUnit
  now : Nat
  tai : Nat

/-- What a state holds beyond the host interface. -/
def State.beyondPcie (s : State) : BeyondPcie :=
  ⟨s.arr, s.vec, s.runs, s.charts, s.mem, s.pow, s.fld F.GLB_STATUS_BOOT_STATE, s.cells, s.rhumb, s.eth, s.now, s.tai⟩

/-- Every register but GLB_STATUS can be written without a change beyond the host interface. -/
theorem State.beyondPcie_setReg (s : State) (a i : Nat) (v : Word) (ha : a < 2 ^ 40) (hne : F.GLB_STATUS_BOOT_STATE.reg ≠ a) :
    (s.setReg a i v).beyondPcie = s.beyondPcie := by
  have hboot : (s.setReg a i v).fld F.GLB_STATUS_BOOT_STATE = s.fld F.GLB_STATUS_BOOT_STATE := by
    unfold State.fld
    rw [State.reg_setReg_ne s _ _ _ _ v fun h => hne (regKey_inj (by decide) ha h).1]
  simp only [State.beyondPcie, hboot, State.setReg_arr, State.setReg_vec, State.setReg_runs, State.setReg_charts, State.setReg_mem,
    State.setReg_pow, State.setReg_cells, State.setReg_rhumb, State.setReg_eth, State.setReg_now, State.setReg_tai]

/-- A field outside GLB_STATUS can be written without a change beyond the host interface. -/
theorem State.beyondPcie_setFld (s : State) (f : Fld) (n i : Nat) (hf : f.reg < 2 ^ 40) (hne : F.GLB_STATUS_BOOT_STATE.reg ≠ f.reg) :
    (s.setFld f n i).beyondPcie = s.beyondPcie := s.beyondPcie_setReg f.reg i _ hf hne

@[simp] theorem State.beyondPcie_count (s : State) (src : Nat) (dom : Option Nat) (n : Nat) :
    (s.count src dom n).beyondPcie = s.beyondPcie := rfl

@[simp] theorem State.beyondPcie_health (s : State) (part input n : Nat) : (s.health part input n).beyondPcie = s.beyondPcie := rfl

@[simp] theorem State.beyondPcie_withInsts (s : State) (t : Tab Inst) : ({ s with insts := t } : State).beyondPcie = s.beyondPcie := rfl

/-- Operations that change nothing beyond the host interface change nothing there in sequence. -/
theorem State.beyondPcie_foldl {α : Type} (f : State → α → State) (hf : ∀ u x, (f u x).beyondPcie = u.beyondPcie) (l : List α)
    (s : State) : (l.foldl f s).beyondPcie = s.beyondPcie := by
  induction l generalizing s with
  | nil => rfl
  | cons x l ih => exact (ih (f s x)).trans (hf s x)

/-! ### The start of a context reset -/

@[simp] theorem State.beyondPcie_dropDoorbell (s : State) (inst : Nat) : (s.dropDoorbell inst).beyondPcie = s.beyondPcie := by
  unfold State.dropDoorbell
  extract_lets u
  have hcounted : u.beyondPcie = s.beyondPcie :=
    (State.beyondPcie_setFld _ _ _ _ (by decide) (by decide)).trans (State.beyondPcie_setFld _ _ _ _ (by decide) (by decide))
  clear_value u
  split
  · split
    · exact hcounted
    · rw [State.beyondPcie_count, hcounted]
  · exact hcounted

@[simp] theorem State.beyondPcie_dropTied (s : State) (inst : Nat) (i : Inst) : (s.dropTied inst i).beyondPcie = s.beyondPcie := by
  unfold State.dropTied
  split
  · exact State.beyondPcie_foldl _ (fun u _ => u.beyondPcie_dropDoorbell inst) _ s
  · rfl

@[simp] theorem State.beyondPcie_resetStart (s : State) (inst : Nat) : (s.resetStart inst).beyondPcie = s.beyondPcie := by
  unfold State.resetStart
  split
  · rfl
  · next i _ =>
    split
    · rfl
    · rw [State.beyondPcie_withInsts, State.beyondPcie_setFld _ _ _ _ (by decide) (by decide)]
      split
      · exact s.beyondPcie_dropTied inst i
      · rw [State.beyondPcie_count, State.beyondPcie_dropTied]

/-! ### The request of a context reset -/

/-- Both arrays are busy, so that no grant can fall in the cycle of a reset (R377). -/
def State.arraysBusy (s : State) : Prop := s.arr.cur ≠ [] ∧ s.vec.cur ≠ none

/-- States that agree beyond the host interface have their arrays busy together. -/
theorem State.arraysBusy_congr {s t : State} (h : t.beyondPcie = s.beyondPcie) : t.arraysBusy ↔ s.arraysBusy := by
  have harr : t.arr = s.arr := congrArg BeyondPcie.arr h
  have hvec : t.vec = s.vec := congrArg BeyondPcie.vec h
  rw [State.arraysBusy, State.arraysBusy, harr, hvec]

/-- With both arrays busy the cycle of a reset holds no grant. -/
theorem State.decisionTie_of_busy (s : State) (grants : State → Nat) (h : s.arraysBusy) : s.decisionTie grants = s := by
  obtain ⟨harr, hvec⟩ := h
  simp only [State.decisionTie, harr, hvec, false_and, if_false]

/-- A reset requested where INST_STATUS is not ACTIVE is not begun. -/
theorem State.resetAsk_of_not_active (s : State) (inst : Nat) (h : s.fld F.INST_STATUS_STATE inst ≠ instActive) :
    s.resetAsk inst = s := if_neg h

/-- With both arrays busy, a requested reset leaves everything beyond the host interface. -/
theorem State.beyondPcie_resetAsk_of_busy (s : State) (inst : Nat) (h : s.arraysBusy) : (s.resetAsk inst).beyondPcie = s.beyondPcie := by
  unfold State.resetAsk
  split
  · rw [s.decisionTie_of_busy _ h, State.beyondPcie_resetStart]
  · rfl

/-- With both arrays busy, resets requested one after the other leave everything beyond the host interface: the arrays stay busy. -/
theorem State.beyondPcie_resetAsks_of_busy (l : List Nat) (s : State) (h : s.arraysBusy) :
    (l.foldl State.resetAsk s).beyondPcie = s.beyondPcie := by
  induction l generalizing s with
  | nil => rfl
  | cons i l ih =>
    have hfirst := s.beyondPcie_resetAsk_of_busy i h
    exact (ih (s.resetAsk i) ((State.arraysBusy_congr hfirst).mpr h)).trans hfirst

/-- Resets requested of instances that are not ACTIVE are not begun. -/
theorem State.resetAsks_of_not_active (l : List Nat) (s : State) (h : ∀ i ∈ l, s.fld F.INST_STATUS_STATE i ≠ instActive) :
    l.foldl State.resetAsk s = s := by
  induction l with
  | nil => rfl
  | cons i l ih =>
    rw [List.foldl_cons, s.resetAsk_of_not_active i (h i List.mem_cons_self)]
    exact ih fun k hk => h k (List.mem_cons_of_mem i hk)

/-- No grant can fall in the cycle of a reset: both arrays are busy, or none of the instances is ACTIVE (R377). -/
def State.noGrantTie (s : State) : Prop := s.arraysBusy ∨ ∀ p ∈ s.insts, s.fld F.INST_STATUS_STATE p.1 ≠ instActive

/-- Where no grant falls in their cycle, resets of a part of the instances leave everything beyond the host interface. -/
theorem State.beyondPcie_resetAsks (s : State) (t : Tab Inst) (hsub : t ⊆ s.insts) (h : s.noGrantTie) :
    ((t.map (·.1)).foldl State.resetAsk s).beyondPcie = s.beyondPcie := by
  rcases h with hbusy | hidle
  · exact State.beyondPcie_resetAsks_of_busy _ s hbusy
  · rw [State.resetAsks_of_not_active _ s]
    intro i hi
    obtain ⟨p, hp, rfl⟩ := List.mem_map.mp hi
    exact hidle p (hsub hp)

/-! ### Function Level Resets and the link -/

@[simp] theorem State.beyondPcie_mbxReset (s : State) : s.mbxReset.beyondPcie = s.beyondPcie := by
  unfold State.mbxReset
  rw [State.beyondPcie_setFld _ _ _ _ (by decide) (by decide)]
  refine State.beyondPcie_foldl _ (fun u i => ?_) _ s
  split
  · exact u.beyondPcie_setFld _ _ i (by decide) (by decide)
  · rfl

/-- Where no grant falls in its cycle, a Function Level Reset leaves everything beyond the host interface. -/
theorem State.beyondPcie_flr (s : State) (fn : Nat) (h : s.noGrantTie) : (s.flr fn).beyondPcie = s.beyondPcie := by
  unfold State.flr
  split
  · exact (State.beyondPcie_mbxReset _).trans (s.beyondPcie_resetAsks s.insts (List.Subset.refl _) h)
  · rfl
  · exact s.beyondPcie_resetAsks _ (List.filter_subset_self _) h

/-- A link's status register can be written without a change beyond the host interface: it is not GLB_STATUS. -/
theorem State.beyondPcie_setLinkReg (s : State) (j : Nat) (v : Word) (hj : j < 2) :
    (s.setReg (linkReg j) 0 v).beyondPcie = s.beyondPcie := by
  have hlow : 0xB000008 ≤ linkReg j := Nat.le_add_right _ _
  have hhigh : linkReg j < 2 ^ 40 := by unfold linkReg; omega
  exact s.beyondPcie_setReg _ _ _ hhigh (Nat.ne_of_lt (Nat.lt_of_lt_of_le (by decide) hlow))

theorem State.beyondPcie_linkState (s : State) (j : Nat) (up : Bool) (speed width : Nat) (hj : j < 2) :
    (s.linkState j up speed width).beyondPcie = s.beyondPcie := s.beyondPcie_setLinkReg j _ hj

theorem State.beyondPcie_linkRetrains (s : State) (j : Nat) (hj : j < 2) : (s.linkRetrains j).beyondPcie = s.beyondPcie := by
  unfold State.linkRetrains
  rw [State.beyondPcie_health, State.beyondPcie_count, s.beyondPcie_setLinkReg j _ hj]

/-- Where no grant falls in its cycle, a PCIe link reset leaves everything beyond the host interface. -/
theorem State.beyondPcie_pcieLinkReset (s : State) (j speed width : Nat) (hj : j < 2) (h : s.noGrantTie) :
    (s.pcieLinkReset j speed width).beyondPcie = s.beyondPcie := by
  unfold State.pcieLinkReset
  rw [State.beyondPcie_linkState _ _ _ _ _ hj, State.beyondPcie_linkRetrains _ _ hj, State.beyondPcie_count, State.beyondPcie_count]
  split
  · exact s.beyondPcie_flr 0 h
  · exact s.beyondPcie_flr 2 h

/-- PCIE_LINK_RESET of one of the two links resets that link. -/
theorem exec_pcieLinkReset (s : State) (j speed width : Nat) (hj : j < 2) :
    exec (.pcieLinkReset j speed width) s = .next (s.pcieLinkReset j speed width) := by
  change Host.Outcome.next (s.pcieLinkReset (j % 2) speed width) = _
  rw [Nat.mod_eq_of_lt hj]

/-- Settles O51: the reset is its Function Level Resets and a retrain by its definition. Its frame keeps the fabric, the Meridian and the
keys, and what lies beyond the host interface stays where no grant falls in its cycle. -/
theorem pcieResetsStayAtTheInterface : Obligations.PcieResetsStayAtTheInterface := by
  unfold Obligations.PcieResetsStayAtTheInterface
  intro s j speed width hj
  have hframe := s.pcieLinkReset_frame j speed width
  refine ⟨s.pcieLinkReset j speed width, exec_pcieLinkReset s j speed width hj, ?parts, hframe.fab rfl, hframe.mer rfl, hframe.keys rfl,
    ?beyond⟩
  case parts =>
    rintro u old rfl rfl
    rfl
  case beyond =>
    intro htie
    simpa only [State.beyondPcie, BeyondPcie.mk.injEq] using s.beyondPcie_pcieLinkReset j speed width hj htie

end Sys2Proof.Machine
end

/-! ## PROOFS of the family of limits: OWNER_KEY with no operator key row left (R569). -/

section
namespace Sys2Proof.Machine

/-! ### The answer of an ALM_CMD operation -/

/-- An answer writes ALM_CMD and nothing of the Almanac. -/
@[simp] theorem State.almAnswer_alm (s : State) (p : Nat × Nat) : (s.almAnswer p).alm = s.alm := rfl

/-- A status that fits its field is read back from the answer. -/
theorem State.fld_almAnswer_status (s : State) (p : Nat × Nat) (h : p.1 < 2 ^ 8) : (s.almAnswer p).fld F.ALM_CMD_STATUS = p.1 := by
  unfold State.almAnswer
  rw [State.fld_setFld_beside _ F.ALM_CMD_BUSY F.ALM_CMD_STATUS _ _ rfl (by decide) (by decide) (by decide) (by decide),
    State.fld_setFld_beside _ F.ALM_CMD_RULE F.ALM_CMD_STATUS _ _ rfl (by decide) (by decide) (by decide) (by decide),
    State.fld_setFld_self _ _ _ _ (by decide) (by decide), Nat.mod_eq_of_lt h]

/-- An answer leaves BUSY clear. -/
theorem State.flag_almAnswer_busy (s : State) (p : Nat × Nat) : (s.almAnswer p).flag F.ALM_CMD_BUSY = false := by
  have hclear : (s.almAnswer p).fld F.ALM_CMD_BUSY = 0 := State.fld_setFld_self _ _ _ _ (by decide) (by decide)
  rw [State.flag, hclear]
  rfl

/-! ### The start of an ALM_CMD operation -/

/-- The state in which an operation taken from ALM_CMD does its work: the Sextant's cores woken, OP noted and the operation counted. -/
def State.almBegun (s : State) (op : Nat) : State :=
  ((({ s with sxt := { s.sxt with workAt := s.now } } : State).setFld F.SXT_STATUS_CORE_STATE 1).setFld F.ALM_CMD_OP op).count 0xF9C none 1

@[simp] theorem State.almBegun_alm (s : State) (op : Nat) : (s.almBegun op).alm = s.alm := rfl

/-- The start of an operation takes no token. -/
@[simp] theorem State.lockedBy_almBegun (s : State) (op t : Nat) (own : List Nat) : (s.almBegun op).lockedBy t own = s.lockedBy t own := rfl

/-- The Sextant's cores serve where the device is at least RUNNING and they neither restart nor have FAILED. -/
theorem State.sxtServe_of_serving (s : State) (f : State → State) (hboot : bootRunning ≤ s.fld F.GLB_STATUS_BOOT_STATE)
    (hcore : s.fld F.SXT_STATUS_CORE_STATE < 2) :
    s.sxtServe f = f (({ s with sxt := { s.sxt with workAt := s.now } } : State).setFld F.SXT_STATUS_CORE_STATE 1) := by
  have hserve : ¬(decide (s.fld F.GLB_STATUS_BOOT_STATE < bootRunning) || decide (2 ≤ s.fld F.SXT_STATUS_CORE_STATE)) = true := by
    rw [Bool.or_eq_true, decide_eq_true_eq, decide_eq_true_eq]
    omega
  exact if_neg hserve

/-- With the Sextant serving, BUSY clear and no live update, ALM_CMD begins its operation (R495, R499). -/
theorem State.almGo_of_idle (s : State) (op : Nat) (f : State → State) (hboot : bootRunning ≤ s.fld F.GLB_STATUS_BOOT_STATE)
    (hcore : s.fld F.SXT_STATUS_CORE_STATE < 2) (hbusy : s.flag F.ALM_CMD_BUSY = false) (hupd : s.alm.upd = none) :
    s.almGo op f = f (s.almBegun op) := by
  have hfree : ¬((s.almBegun op).alm.upd.isSome && op != 7) = true := by
    rw [State.almBegun_alm, hupd]
    exact Bool.false_ne_true
  unfold State.almGo
  rw [if_neg (Bool.eq_false_iff.mp hbusy), s.sxtServe_of_serving _ hboot hcore]
  exact if_neg hfree

/-- An operation that no held token refuses has the UPDATE token. -/
theorem State.withUpdate_of_free (s : State) (own : List Nat) (f : State → State) (h : s.lockedBy tokUpdate own = none) :
    s.withUpdate own f = f s := by
  unfold State.withUpdate
  rw [h]

/-! ### OWNER_KEY -/

/-- OWNER_KEY that gets both its tokens comes to the operator key rows (R519). -/
theorem State.ownerKeyGo_of_free (s : State) (d : Option Nat) (ok : Bool) (hboot : bootRunning ≤ s.fld F.GLB_STATUS_BOOT_STATE)
    (hcore : s.fld F.SXT_STATUS_CORE_STATE < 2) (hbusy : s.flag F.ALM_CMD_BUSY = false) (hupd : s.alm.upd = none)
    (hupdate : s.lockedBy tokUpdate [] = none) (hfuse : s.lockedBy tokFuse [tokUpdate] = none) :
    s.ownerKeyGo d ok = (s.almBegun 9).ownerKey d ok := by
  unfold State.ownerKeyGo
  rw [s.almGo_of_idle 9 _ hboot hcore hbusy hupd,
    State.withUpdate_of_free _ _ _ ((s.lockedBy_almBegun 9 tokUpdate []).trans hupdate), State.lockedBy_almBegun, hfuse]

/-- With four rows programmed, OWNER_KEY looks at neither the key nor its signature (R569). -/
theorem State.ownerKey_of_full (s : State) (d : Option Nat) (ok : Bool) (h : 4 ≤ s.alm.owners.length) :
    s.ownerKey d ok = s.almAnswer (almKeyRowsFull, 0) := if_pos h

/-- Settles O46: the command reaches the operator key rows, finds no free one, and only answers. -/
theorem fullKeyRowsRefuseOwnerKey : Obligations.FullKeyRowsRefuseOwnerKey := by
  unfold Obligations.FullKeyRowsRefuseOwnerKey
  intro s d ok hboot hcore hbusy hupd hupdate hfuse hfull
  have hanswer : s.ownerKeyGo d ok = (s.almBegun 9).almAnswer (almKeyRowsFull, 0) :=
    (s.ownerKeyGo_of_free d ok hboot hcore hbusy hupd hupdate hfuse).trans (State.ownerKey_of_full _ d ok hfull)
  refine ⟨(s.almBegun 9).almAnswer (almKeyRowsFull, 0), congrArg Host.Outcome.next hanswer, ?alm, ?status, ?busy⟩
  case alm => rw [State.almAnswer_alm, State.almBegun_alm]
  case status => exact State.fld_almAnswer_status _ _ (by decide)
  case busy => exact State.flag_almAnswer_busy _ _

end Sys2Proof.Machine
end

/-! ## PROOFS of the family of steps: what every command and every step keeps (log entries 6 and 38). -/

section
namespace Sys2Proof.Machine

/-! ### What each command may change -/

/-- The parts of the state that a command may change, by the lists of Safety.lean. -/
def Instr.mayChange (c : Instr) : Changes :=
  ⟨mayStore c, mayCells c, mayClock c, mayKeys c, mayRuns c, mayFab c⟩

/-- Every command keeps the queue and the memory's canonical form, and changes no part that its lists leave out. -/
theorem exec_frame (c : Instr) (s : State) : FrameN (Instr.mayChange c) s (exec c s) := by
  cases c with
  | registerWrite _ _ _ _ _ => exact (execRegisterWrite_frame ..).step (.refl s) rfl
  | badAccess _ _ _ _ => exact (execBadAccess_frame ..).step (.refl s) rfl
  | rcRead _ _ _ => exact (execRcRead_frame ..).step (.refl s) rfl
  | powerOn _ => exact (execPowerOn_frame ..).step (.refl s) rfl
  | deviceBoot _ _ _ _ _ => exact (execDeviceBoot_frame ..).step (.refl s) rfl
  | railSample _ => exact (execRailSample_frame ..).step (.refl s) rfl
  | plannedRemoval => exact (execPlannedRemoval_frame ..).step (.refl s) rfl
  | supplyLoss => exact (execSupplyLoss_frame ..).step (.refl s) rfl
  | clockLoss _ _ _ => exact (execClockLoss_frame ..).step (.refl s) rfl
  | d2dFault => exact (execD2dFault_frame ..).step (.refl s) rfl
  | arrayGrant => exact (execArrayGrant_frame ..).step (.refl s) rfl
  | arrayBoundary => exact (execArrayBoundary_frame ..).step (.refl s) rfl
  | arrayCmdComplete => exact (execArrayCmdComplete_frame ..).step (.refl s) rfl
  | arrayFault _ _ => exact (execArrayFault_frame ..).step (.refl s) rfl
  | fuseDataRead _ => exact (execFuseDataRead_frame ..).step (.refl s) rfl
  | vectorGrant => exact (execVectorGrant_frame ..).step (.refl s) rfl
  | vecopComplete => exact (execVecopComplete_frame ..).step (.refl s) rfl
  | attnSegmentComplete => exact (execAttnSegmentComplete_frame ..).step (.refl s) rfl
  | kvPageFetch _ _ => exact (execKvPageFetch_frame ..).step (.refl s) rfl
  | kvPageComplete _ _ _ _ _ => exact (execKvPageComplete_frame ..).step (.refl s) rfl
  | ringFetch _ _ => exact (execRingFetch_frame ..).step (.refl s) rfl
  | ringServicePass _ => exact (execRingServicePass_frame ..).step (.refl s) rfl
  | nop _ _ => exact (execNop_frame ..).step (.refl s) rfl
  | hcopy _ _ => exact (execHcopy_frame ..).step (.refl s) rfl
  | runChart _ _ => exact (execRunChart_frame ..).step (.refl s) rfl
  | runStart => exact (execRunStart_frame ..).step (.refl s) rfl
  | loadChart _ _ => exact (execLoadChart_frame ..).step (.refl s) rfl
  | loadChartChecks _ => exact (execLoadChartChecks_frame ..).step (.refl s) rfl
  | unloadChart _ _ => exact (execUnloadChart_frame ..).step (.refl s) rfl
  | cancel _ _ => exact (execCancel_frame ..).step (.refl s) rfl
  | commandDispatch _ => exact (execCommandDispatch_frame ..).step (.refl s) rfl
  | transferStart _ _ => exact (execTransferStart_frame ..).step (.refl s) rfl
  | transferComplete _ _ _ _ => exact (execTransferComplete_frame ..).step (.refl s) rfl
  | runComplete _ => exact (execRunComplete_frame ..).step (.refl s) rfl
  | waypointPost _ => exact (execWaypointPost_frame ..).step (.refl s) rfl
  | haltCapture _ _ => exact (execHaltCapture_frame ..).step (.refl s) rfl
  | quantumWrite _ => exact (execQuantumWrite_frame ..).step (.refl s) rfl
  | admitCtrlWrite _ => exact (execAdmitCtrlWrite_frame ..).step (.refl s) rfl
  | calCommit => exact (execCalCommit_frame ..).step (.refl s) rfl
  | calDisable => exact (execCalDisable_frame ..).step (.refl s) rfl
  | calPeriodBoundary => exact (execCalPeriodBoundary_frame ..).step (.refl s) rfl
  | strictEntryStart => exact (execStrictEntryStart_frame ..).step (.refl s) rfl
  | resSwitchStart => exact (execResSwitchStart_frame ..).step (.refl s) rfl
  | resSwitchComplete => exact (execResSwitchComplete_frame ..).step (.refl s) rfl
  | cellAssignWrite _ => exact (execCellAssignWrite_frame ..).step (.refl s) rfl
  | cellConfig _ _ _ => exact (execCellConfig_frame ..).step (.refl s) rfl
  | cellStart _ _ => exact (execCellStart_frame ..).step (.refl s) rfl
  | cellStop _ _ => exact (execCellStop_frame ..).step (.refl s) rfl
  | slot _ _ _ => exact (execSlot_frame ..).step (.refl s) rfl
  | fhStats _ _ => exact (execFhStats_frame ..).step (.refl s) rfl
  | harqFlush _ _ => exact (execHarqFlush_frame ..).step (.refl s) rfl
  | slotBoundary _ => exact (execSlotBoundary_frame ..).step (.refl s) rfl
  | phaseRelease _ _ _ => exact (execPhaseRelease_frame ..).step (.refl s) rfl
  | ethFrameReceive _ _ => exact (execEthFrameReceive_frame ..).step (.refl s) rfl
  | rxMemWaitExpire _ _ _ => exact (execRxMemWaitExpire_frame ..).step (.refl s) rfl
  | symbolHandoff _ _ _ => exact (execSymbolHandoff_frame ..).step (.refl s) rfl
  | agcBlockEnd _ _ => exact (execAgcBlockEnd_frame ..).step (.refl s) rfl
  | prachPeriodEnd _ _ _ _ _ => exact (execPrachPeriodEnd_frame ..).step (.refl s) rfl
  | prachDetect _ _ _ => exact (execPrachDetect_frame ..).step (.refl s) rfl
  | cplaneEmit _ _ _ _ => exact (execCplaneEmit_frame ..).step (.refl s) rfl
  | uplaneEmit _ _ _ => exact (execUplaneEmit_frame ..).step (.refl s) rfl
  | grantWrite _ => exact (execGrantWrite_frame ..).step (.refl s) rfl
  | channelEstimate _ _ _ => exact (execChannelEstimate_frame ..).step (.refl s) rfl
  | equalize _ _ _ => exact (execEqualize_frame ..).step (.refl s) rfl
  | codeBlockDecode => exact (execCodeBlockDecode_frame ..).step (.refl s) rfl
  | codeBlockDecoded _ _ _ _ => exact (execCodeBlockDecoded_frame ..).step (.refl s) rfl
  | polarJob => exact (execPolarJob_frame ..).step (.refl s) rfl
  | pucchDetect _ _ _ => exact (execPucchDetect_frame ..).step (.refl s) rfl
  | encodeCb _ _ _ _ _ => exact (execEncodeCb_frame ..).step (.refl s) rfl
  | precode _ _ _ => exact (execPrecode_frame ..).step (.refl s) rfl
  | radioEngineParity _ _ _ _ _ => exact (execRadioEngineParity_frame ..).step (.refl s) rfl
  | decompParity _ _ _ => exact (execDecompParity_frame ..).step (.refl s) rfl
  | fftParity _ _ _ => exact (execFftParity_frame _ 0 _ s).step (.refl s) rfl
  | prachParity _ _ _ => exact (execPrachParity_frame ..).step (.refl s) rfl
  | scrubRead _ => exact (execScrubRead_frame ..).step (.refl s) rfl
  | correctedRewrite _ _ => exact (execCorrectedRewrite_frame ..).step (.refl s) rfl
  | sramUe _ _ => exact (execSramUe_frame ..).step (.refl s) rfl
  | stackLoss _ => exact (execStackLoss_frame ..).step (.refl s) rfl
  | fload _ _ => exact (execFload_frame ..).step (.refl s) rfl
  | fstore _ _ => exact (execFstore_frame ..).step (.refl s) rfl
  | fatomic _ _ => exact (execFatomic_frame ..).step (.refl s) rfl
  | finval _ _ => exact (execFinval_frame ..).step (.refl s) rfl
  | ffence _ _ => exact (execFfence_frame ..).step (.refl s) rfl
  | fown _ _ => exact (execFown_frame ..).step (.refl s) rfl
  | fkey _ _ => exact (execFkey_frame ..).step (.refl s) rfl
  | fabricRequestReceive _ _ _ _ _ _ _ _ _ _ _ => exact (execFabricRequestReceive_frame ..).step (.refl s) rfl
  | mirrorForward _ _ _ _ _ _ _ => exact (execMirrorForward_frame ..).step (.refl s) rfl
  | invalidationReceive _ _ _ _ _ => exact (execInvalidationReceive_frame ..).step (.refl s) rfl
  | fabricResponse _ _ _ _ _ _ => exact (execFabricResponse_frame ..).step (.refl s) rfl
  | fabricOpTimeout _ => exact (execFabricOpTimeout_frame ..).step (.refl s) rfl
  | quarantineExpire _ _ => exact (execQuarantineExpire_frame ..).step (.refl s) rfl
  | probeTimer _ => exact (execProbeTimer_frame ..).step (.refl s) rfl
  | leaseExpire _ => exact (execLeaseExpire_frame ..).step (.refl s) rfl
  | sharerDrop _ _ => exact (execSharerDrop_frame ..).step (.refl s) rfl
  | regionFetch _ => exact (execRegionFetch_frame ..).step (.refl s) rfl
  | regionCommit _ _ => exact (execRegionCommit_frame ..).step (.refl s) rfl
  | bearingFetch _ => exact (execBearingFetch_frame ..).step (.refl s) rfl
  | bearingCommit _ => exact (execBearingCommit_frame ..).step (.refl s) rfl
  | fabCtrlWrite _ => exact (execFabCtrlWrite_frame ..).step (.refl s) rfl
  | widen _ => exact (execWiden_frame ..).step (.refl s) rfl
  | flitReceive _ _ _ _ _ _ _ => exact (execFlitReceive_frame ..).step (.refl s) rfl
  | rhumbLaneLoss _ _ => exact (execRhumbLaneLoss_frame ..).step (.refl s) rfl
  | rhumbRetrainDone _ => exact (execRhumbRetrainDone_frame ..).step (.refl s) rfl
  | linkTrain _ _ _ _ => exact (execLinkTrain_frame ..).step (.refl s) rfl
  | linkKeyUpdate _ => exact (execLinkKeyUpdate_frame ..).step (.refl s) rfl
  | createInstance _ => exact (execCreateInstance_frame ..).step (.refl s) rfl
  | destroyInstance _ => exact (execDestroyInstance_frame ..).step (.refl s) rfl
  | allocRing _ => exact (execAllocRing_frame ..).step (.refl s) rfl
  | freeRing _ => exact (execFreeRing_frame ..).step (.refl s) rfl
  | resetInstance _ => exact (execResetInstance_frame ..).step (.refl s) rfl
  | doorbell _ _ _ _ => exact (execDoorbell_frame ..).step (.refl s) rfl
  | ringEnable _ _ _ _ => exact (execRingEnable_frame ..).step (.refl s) rfl
  | ringDisable _ _ _ _ => exact (execRingDisable_frame ..).step (.refl s) rfl
  | irqCoalTimer _ => exact (execIrqCoalTimer_frame ..).step (.refl s) rfl
  | dmaCompletion _ _ => exact (execDmaCompletion_frame ..).step (.refl s) rfl
  | dmaTimeout _ => exact (execDmaTimeout_frame ..).step (.refl s) rfl
  | atsInvalidation _ _ _ _ => exact (execAtsInvalidation_frame ..).step (.refl s) rfl
  | instCtrlReset _ _ => exact (execInstCtrlReset_frame ..).step (.refl s) rfl
  | contextReset _ => exact (execContextReset_frame ..).step (.refl s) rfl
  | contextResetDone _ _ => exact (execContextResetDone_frame ..).step (.refl s) rfl
  | flr _ => exact (execFlr_frame ..).step (.refl s) rfl
  | pcieLinkReset _ _ _ => exact (execPcieLinkReset_frame ..).step (.refl s) rfl
  | queueStateUe _ => exact (execQueueStateUe_frame ..).step (.refl s) rfl
  | helmCore _ _ => exact (execHelmCore_frame ..).step (.refl s) rfl
  | engineParity _ _ => exact (execEngineParity_frame ..).step (.refl s) rfl
  | controlUe => exact (execControlUe_frame ..).step (.refl s) rfl
  | txPoll _ => exact (execTxPoll_frame ..).step (.refl s) rfl
  | egressSelect _ => exact (execEgressSelect_frame ..).step (.refl s) rfl
  | wheelRelease _ => exact (execWheelRelease_frame ..).step (.refl s) rfl
  | qCommit _ => exact (execQCommit_frame ..).step (.refl s) rfl
  | telemetrySample => exact (execTelemetrySample_frame ..).step (.refl s) rfl
  | ethLaneLoss _ _ _ => exact (execEthLaneLoss_frame ..).step (.refl s) rfl
  | subportUp _ => exact (execSubportUp_frame ..).step (.refl s) rfl
  | reform _ => exact (execReform_frame ..).step (.refl s) rfl
  | steerWrite _ => exact (execSteerWrite_frame ..).step (.refl s) rfl
  | policerWrite _ => exact (execPolicerWrite_frame ..).step (.refl s) rfl
  | pringWrite _ => exact (execPringWrite_frame ..).step (.refl s) rfl
  | fifoParity _ _ _ => exact (execFifoParity_frame ..).step (.refl s) rfl
  | getVersion => exact (execGetVersion_frame ..).step (.refl s) rfl
  | getCapabilities => exact (execGetCapabilities_frame ..).step (.refl s) rfl
  | negotiateAlgorithms _ => exact (execNegotiateAlgorithms_frame ..).step (.refl s) rfl
  | getDigests => exact (execGetDigests_frame ..).step (.refl s) rfl
  | getCertificate _ _ => exact (execGetCertificate_frame ..).step (.refl s) rfl
  | challenge _ => exact (execChallenge_frame ..).step (.refl s) rfl
  | getMeasurements _ _ _ => exact (execGetMeasurements_frame ..).step (.refl s) rfl
  | keyExchange _ => exact (execKeyExchange_frame ..).step (.refl s) rfl
  | finish _ _ _ => exact (execFinish_frame ..).step (.refl s) rfl
  | heartbeat _ _ => exact (execHeartbeat_frame ..).step (.refl s) rfl
  | keyUpdate _ _ => exact (execKeyUpdate_frame ..).step (.refl s) rfl
  | endSession _ _ => exact (execEndSession_frame ..).step (.refl s) rfl
  | sessionIdleTimeout _ => exact (execSessionIdleTimeout_frame ..).step (.refl s) rfl
  | domKeySet _ _ _ => exact (execDomKeySet_frame ..).step (.refl s) rfl
  | domKeyGen _ _ _ => exact (execDomKeyGen_frame ..).step (.refl s) rfl
  | domKeyClear _ _ _ => exact (execDomKeyClear_frame ..).step (.refl s) rfl
  | sakSet _ _ _ => exact (execSakSet_frame ..).step (.refl s) rfl
  | sakClear _ _ _ => exact (execSakClear_frame ..).step (.refl s) rfl
  | saStatus _ _ _ => exact (execSaStatus_frame ..).step (.refl s) rfl
  | setNoticeRing _ _ _ => exact (execSetNoticeRing_frame ..).step (.refl s) rfl
  | scAssignWrite _ => exact (execScAssignWrite_frame ..).step (.refl s) rfl
  | reckonWrite _ _ _ _ => exact (execReckonWrite_frame ..).step (.refl s) rfl
  | seedWrite _ _ _ _ => exact (execSeedWrite_frame ..).step (.refl s) rfl
  | ptpFrameReceive _ _ => exact (execPtpFrameReceive_frame ..).step (.refl s) rfl
  | ptpTxTimer _ _ => exact (execPtpTxTimer_frame ..).step (.refl s) rfl
  | esmcTxTimer => exact (execEsmcTxTimer_frame ..).step (.refl s) rfl
  | qlTimeout _ => exact (execQlTimeout_frame ..).step (.refl s) rfl
  | sourceLost _ => exact (execSourceLost_frame ..).step (.refl s) rfl
  | holdExpired => exact (execHoldExpired_frame ..).step (.refl s) rfl
  | ppsEdge _ => exact (execPpsEdge_frame ..).step (.refl s) rfl
  | ppsOutEdge => exact (execPpsOutEdge_frame ..).step (.refl s) rfl
  | latch _ => exact (execLatch_frame ..).step (.refl s) rfl
  | set _ => exact (execSet_frame ..).step (.refl s) rfl
  | step _ => exact (execStep_frame ..).step (.refl s) rfl
  | stage _ _ => exact (execStage_frame ..).step (.refl s) rfl
  | activateReset => exact (execActivateReset_frame ..).step (.refl s) rfl
  | activateLive => exact (execActivateLive_frame ..).step (.refl s) rfl
  | confirm => exact (execConfirm_frame ..).step (.refl s) rfl
  | rollbackReset => exact (execRollbackReset_frame ..).step (.refl s) rfl
  | rollbackLive => exact (execRollbackLive_frame ..).step (.refl s) rfl
  | abort => exact (execAbort_frame ..).step (.refl s) rfl
  | writeFactory _ _ => exact (execWriteFactory_frame ..).step (.refl s) rfl
  | ownerKey _ _ => exact (execOwnerKey_frame ..).step (.refl s) rfl
  | liveUpdateUnit _ => exact (execLiveUpdateUnit_frame ..).step (.refl s) rfl
  | lockstepDisagree _ => exact (execLockstepDisagree_frame ..).step (.refl s) rfl
  | sensorSample _ => exact (execSensorSample_frame ..).step (.refl s) rfl
  | heldResetStart => exact (execHeldResetStart_frame ..).step (.refl s) rfl
  | logMirrorWrite _ => exact (execLogMirrorWrite_frame ..).step (.refl s) rfl
  | mirrorNow _ => exact (execMirrorNow_frame ..).step (.refl s) rfl
  | logFailed => exact (execLogFailed_frame ..).step (.refl s) rfl
  | logSelWrite _ => exact (execLogSelWrite_frame ..).step (.refl s) rfl
  | logFetchDone _ => exact (execLogFetchDone_frame ..).step (.refl s) rfl
  | requestUpdate => exact (execRequestUpdate_frame ..).step (.refl s) rfl
  | pldmTransfer _ _ _ => exact (execPldmTransfer_frame ..).step (.refl s) rfl
  | verifyComplete => exact (execVerifyComplete_frame ..).step (.refl s) rfl
  | activateFirmware _ => exact (execActivateFirmware_frame ..).step (.refl s) rfl
  | cancelUpdate => exact (execCancelUpdate_frame ..).step (.refl s) rfl
  | pldmTimeout => exact (execPldmTimeout_frame ..).step (.refl s) rfl
  | busPoll _ => exact (execBusPoll_frame ..).step (.refl s) rfl
  | busRecovery _ _ => exact (execBusRecovery_frame ..).step (.refl s) rfl
  | recover _ _ => exact (execRecover_frame ..).step (.refl s) rfl
  | sclLowTimeout => exact (execSclLowTimeout_frame ..).step (.refl s) rfl
  | bypass => exact (execBypass_frame ..).step (.refl s) rfl
  | idcode => exact (execIdcode_frame ..).step (.refl s) rfl
  | samplePreload => exact (execSamplePreload_frame ..).step (.refl s) rfl
  | extest => exact (execExtest_frame ..).step (.refl s) rfl
  | clamp => exact (execClamp_frame ..).step (.refl s) rfl
  | highz => exact (execHighz_frame ..).step (.refl s) rfl
  | tileTest _ _ => exact (execTileTest_frame ..).step (.refl s) rfl
  | engineTest _ _ => exact (execEngineTest_frame ..).step (.refl s) rfl
  | hbmCal _ _ => exact (execHbmCal_frame ..).step (.refl s) rfl
  | serdesCal _ _ => exact (execSerdesCal_frame ..).step (.refl s) rfl
  | scrubSweep _ _ => exact (execScrubSweep_frame ..).step (.refl s) rfl
  | maintAbort _ _ => exact (execMaintAbort_frame ..).step (.refl s) rfl
  | maintComplete _ _ _ _ _ _ => exact (execMaintComplete_frame ..).step (.refl s) rfl
  | evcProgram _ => exact (execEvcProgram_frame ..).step (.refl s) rfl
  | freeze _ => exact (execFreeze_frame ..).step (.refl s) rfl
  | evcAlloc _ _ _ => exact (execEvcAlloc_frame ..).step (.refl s) rfl
  | evcFree _ _ _ => exact (execEvcFree_frame ..).step (.refl s) rfl
  | evcRead _ _ _ => exact (execEvcRead_frame ..).step (.refl s) rfl
  | evcSnapshot _ _ _ => exact (execEvcSnapshot_frame ..).step (.refl s) rfl
  | snapshotRecord _ => exact (execSnapshotRecord_frame ..).step (.refl s) rfl
  | pllLockLoss _ _ => exact (execPllLockLoss_frame ..).step (.refl s) rfl
  | powerSample _ => exact (execPowerSample_frame ..).step (.refl s) rfl
  | critHoldExpire => exact (execCritHoldExpire_frame ..).step (.refl s) rfl
  | allowanceRefill => exact (execAllowanceRefill_frame ..).step (.refl s) rfl
  | pkgLimitWrite _ => exact (execPkgLimitWrite_frame ..).step (.refl s) rfl
  | idleExpire _ _ => exact (execIdleExpire_frame ..).step (.refl s) rfl
  | prepareElapsed _ _ => exact (execPrepareElapsed_frame ..).step (.refl s) rfl
  | dwellElapsed _ _ => exact (execDwellElapsed_frame ..).step (.refl s) rfl
  | wakeRequest _ _ => exact (execWakeRequest_frame ..).step (.refl s) rfl
  | wakeReady _ _ => exact (execWakeReady_frame ..).step (.refl s) rfl
  | wakeLate _ => exact (execWakeLate_frame ..).step (.refl s) rfl
  | wakeTimeout _ _ => exact (execWakeTimeout_frame ..).step (.refl s) rfl
  | arrPllOff => exact (execArrPllOff_frame ..).step (.refl s) rfl
  | computeReset => exact (execComputeReset_frame ..).step (.refl s) rfl
  | deviceReset => exact (execDeviceReset_frame ..).step (.refl s) rfl
  | unitRestart _ _ => exact (execUnitRestart_frame ..).step (.refl s) rfl
  | healthWindow _ => exact (execHealthWindow_frame ..).step (.refl s) rfl
  | healthClear => exact (execHealthClear_frame ..).step (.refl s) rfl
  | disable _ => exact (execDisable_frame ..).step (.refl s) rfl
  | enable _ _ => exact (execEnable_frame ..).step (.refl s) rfl
  | pwrokMainFall => exact (execPwrokMainFall_frame ..).step (.refl s) rfl
  | clockReturn _ _ _ _ => exact (execClockReturn_frame ..).step (.refl s) rfl
  | laneLockRegain _ _ _ => exact (execLaneLockRegain_frame ..).step (.refl s) rfl
  | perstDeassert _ _ _ => exact (execPerstDeassert_frame ..).step (.refl s) rfl
  | coreClockStop => exact (execCoreClockStop_frame ..).step (.refl s) rfl
  | ppsOutFall => exact (execPpsOutFall_frame ..).step (.refl s) rfl

/-- A command that answers a next state answers one within its frame. -/
theorem frame_of_exec {c : Instr} {s t : State} (h : exec c s = .next t) : Frame (Instr.mayChange c) s t := (exec_frame c s).at_ t h

/-- Settles O34: a command outside mayStore leaves the memory, and with it every byte, as it was. -/
theorem onlyTheseCommandsStore : Obligations.OnlyTheseCommandsStore := by
  unfold Obligations.OnlyTheseCommandsStore
  intro c s t h hc a
  rw [(frame_of_exec h).mem hc]

/-- Settles O35: by the frame of each command. -/
theorem onlyTheseCommandsChangeCells : Obligations.OnlyTheseCommandsChangeCells := by
  unfold Obligations.OnlyTheseCommandsChangeCells
  exact fun _ _ _ h => (frame_of_exec h).cells

/-- Settles O36: by the frame of each command. -/
theorem onlyTheseCommandsChangeTheClock : Obligations.OnlyTheseCommandsChangeTheClock := by
  unfold Obligations.OnlyTheseCommandsChangeTheClock
  exact fun _ _ _ h => (frame_of_exec h).mer

/-- Settles O37: by the frame of each command. -/
theorem onlyTheseCommandsChangeTheKeys : Obligations.OnlyTheseCommandsChangeTheKeys := by
  unfold Obligations.OnlyTheseCommandsChangeTheKeys
  exact fun _ _ _ h => (frame_of_exec h).keys

/-- Settles O38: by the frame of each command. -/
theorem onlyTheseCommandsChangeRuns : Obligations.OnlyTheseCommandsChangeRuns := by
  unfold Obligations.OnlyTheseCommandsChangeRuns
  exact fun _ _ _ h => (frame_of_exec h).runs

/-- Settles O39: by the frame of each command. -/
theorem onlyTheseCommandsChangeTheFabric : Obligations.OnlyTheseCommandsChangeTheFabric := by
  unfold Obligations.OnlyTheseCommandsChangeTheFabric
  exact fun _ _ _ h => (frame_of_exec h).fab

/-! ### What a step keeps -/

/-- A step takes the front command off the queue and keeps the memory's canonical form. -/
theorem step_pending_wf {s t : State} (h : step s = .next t) :
    t.pending = s.pending.tail ∧ (Memory.wf s.mem = true → Memory.wf t.mem = true) := by
  unfold step at h
  cases hq : s.pending with
  | nil =>
    rw [hq] at h
    cases h
    exact ⟨s.idle_frame.pending.trans hq, s.idle_frame.wf⟩
  | cons c rest =>
    rw [hq] at h
    exact ⟨(frame_of_exec h).pending, (frame_of_exec h).wf⟩

/-- Settles O4: the queue of the next state is the tail of the one before, so its commands are among those that waited. -/
theorem everyStepTakesOneCommand : Obligations.EveryStepTakesOneCommand := by
  unfold Obligations.EveryStepTakesOneCommand
  intro s t h
  have hq := (step_pending_wf h).1
  refine ⟨hq, fun hok c hc => hok c ?_⟩
  exact List.mem_of_mem_tail (hq ▸ hc)

/-- Settles O5: by what a step keeps. -/
theorem memoryStaysCanonical : Obligations.MemoryStaysCanonical := by
  unfold Obligations.MemoryStaysCanonical
  exact fun _ _ hs h => (step_pending_wf h).2 hs

/-- Settles O1: a step is defined by the front of the queue. -/
theorem stepRunsTheFrontCommand : Obligations.StepRunsTheFrontCommand := by
  unfold Obligations.StepRunsTheFrontCommand
  intro c s
  rfl

end Sys2Proof.Machine
end

/-! ## PROOFS of the family of registers: fields, access codes and addresses without a register (R8 to R14, R355). -/

section
namespace Sys2Proof.Machine

/-! ### Time and reset -/

/-- Settles O2: an idle step is six units of time, and time passing changes nothing but the two clocks. -/
theorem emptyQueueIsATimingCycle : Obligations.EmptyQueueIsATimingCycle := by
  unfold Obligations.EmptyQueueIsATimingCycle
  intro s hq
  have hnow : max s.now (s.now + 6) = s.now + 6 := by omega
  refine ⟨s.idle, by rw [step, hq], hnow, hq, ?tai, fun a i => rfl, rfl⟩
  case tai => exact if_neg (Nat.not_le.mpr (Nat.lt_add_of_pos_right (by decide)))

/-- Settles O3: no register of the reset state has a value of its own, so each reads its Reset column. -/
theorem resetHoldsTheTablesValues : Obligations.ResetHoldsTheTablesValues := by
  unfold Obligations.ResetHoldsTheTablesValues
  refine ⟨fun a i => ?reg, rfl, fun c hc => absurd hc List.not_mem_nil, rfl, rfl, rfl, rfl, rfl, rfl, rfl, rfl, rfl, rfl, rfl, rfl, rfl⟩
  case reg =>
    change State.reset.resetWord a i = _
    have himage : (if isAon a && State.reset.pow.aonLoaded then none else Tab.get? State.reset.cfg (regKey a i)) = none := ite_self _
    rw [State.resetWord, himage]

/-! ### The bits of a field -/

/-- The bits of a field's number are its bits of the register. -/
theorem Fld.testBit_get (f : Fld) (v : Word) (hw : 0 < f.w) (k : Nat) :
    (f.get v).testBit k = (decide (k < f.w) && v.getLsbD (f.lo + k)) := by
  have hwidth : f.lo + f.w - 1 + 1 - f.lo = f.w := by omega
  rw [Fld.get, bits, hwidth, Nat.testBit_mod_two_pow, Nat.testBit_shiftRight, BitVec.getLsbD]

/-- Two register values with the same bits in a field have the same number there. -/
theorem Fld.get_congr (f : Fld) (hw : 0 < f.w) {v u : Word} (h : ∀ j, f.lo ≤ j → j < f.lo + f.w → v.getLsbD j = u.getLsbD j) :
    f.get v = f.get u := by
  refine Nat.eq_of_testBit_eq fun k => ?_
  rw [f.testBit_get v hw, f.testBit_get u hw]
  by_cases hk : k < f.w
  · rw [h (f.lo + k) (by omega) (by omega)]
  · simp [hk]

/-- A field's number fits its width. -/
theorem Fld.get_lt (f : Fld) (v : Word) (hw : 0 < f.w) : f.get v < 2 ^ f.w := by
  have hwidth : f.lo + f.w - 1 + 1 - f.lo = f.w := by omega
  rw [Fld.get, bits, hwidth]
  exact Nat.mod_lt _ (Nat.two_pow_pos _)

/-- A field set to a number leaves every bit outside the field. -/
theorem Fld.getLsbD_put_out (f : Fld) (v : Word) (n j : Nat) (hw : 0 < f.w) (h : f.lo + f.w ≤ 64) (hj : j < f.lo ∨ f.lo + f.w ≤ j) :
    (f.put v n).getLsbD j = v.getLsbD j := by
  obtain ⟨habove, hbelow⟩ := (f.put_parts v n h).resolve_right (by omega)
  unfold BitVec.getLsbD
  rcases hj with hj | hj
  · have hbit := congrArg (·.testBit j) hbelow
    simpa [Nat.testBit_mod_two_pow, hj] using hbit
  · have hbit := congrArg (·.testBit (j - (f.lo + f.w))) habove
    simpa [Nat.testBit_div_two_pow, Nat.sub_add_cancel hj, Nat.add_sub_cancel' hj] using hbit

/-! ### Registers written by their access codes -/

/-- Two fields of a register share no bit. -/
def Fld.apart (f g : Fld) : Bool := decide (f.lo + f.w ≤ g.lo) || decide (g.lo + g.w ≤ f.lo)

/-- A field of a register at an address that lies within 64 bits. -/
def FieldDesc.tidy (a : Nat) (f : FieldDesc) : Bool := f.fld.reg == a && decide (0 < f.fld.w) && decide (f.fld.lo + f.fld.w ≤ 64)

/-- A register whose fields are its own, lie within 64 bits and share no bit. -/
def RegDesc.tidy (d : RegDesc) : Bool :=
  d.fields.all (FieldDesc.tidy d.addr) && decide (d.fields.Pairwise fun f g => f.fld.apart g.fld = true)

/-- Every register of a block is tidy. -/
def tidyBlock (l : List RegDesc) : Prop := l.all RegDesc.tidy = true

set_option maxRecDepth 100000 in
/-- Every block of the register tables is tidy. -/
theorem tidyBlocks : tidyBlock regsInst ∧ tidyBlock regsTrk ∧ tidyBlock regsDvu ∧ tidyBlock regsHlm ∧ tidyBlock regsRad ∧ tidyBlock regsFh ∧
    tidyBlock regsRade ∧ tidyBlock regsMem ∧ tidyBlock regsFab ∧ tidyBlock regsPci ∧ tidyBlock regsEth ∧ tidyBlock regsIso ∧
    tidyBlock regsMer ∧ tidyBlock regsEvc ∧ tidyBlock regsPmc ∧ tidyBlock regsGlb ∧ tidyBlock regsSxt ∧ tidyBlock regsAlm := by
  unfold tidyBlock
  decide

/-- A block that is one of two tidy ones. -/
theorem tidyBlock_ite {p : Prop} [Decidable p] {l m : List RegDesc} (hl : tidyBlock l) (hm : tidyBlock m) :
    tidyBlock (if p then l else m) := by
  split
  · exact hl
  · exact hm

/-- An address finds its register in a tidy block. -/
theorem tidyBlock_regBlock (a : Nat) : tidyBlock (regBlock a) := by
  obtain ⟨hInst, hTrk, hDvu, hHlm, hRad, hFh, hRade, hMem, hFab, hPci, hEth, hIso, hMer, hEvc, hPmc, hGlb, hSxt, hAlm⟩ := tidyBlocks
  exact tidyBlock_ite hInst <| tidyBlock_ite hTrk <| tidyBlock_ite hDvu <| tidyBlock_ite hHlm <| tidyBlock_ite hRad <| tidyBlock_ite hFh <|
    tidyBlock_ite hRade <| tidyBlock_ite hMem <| tidyBlock_ite hFab <| tidyBlock_ite hPci <| tidyBlock_ite hEth <| tidyBlock_ite hIso <|
    tidyBlock_ite hMer <| tidyBlock_ite hEvc <| tidyBlock_ite hPmc <| tidyBlock_ite hGlb <| tidyBlock_ite hSxt <| tidyBlock_ite hAlm rfl

/-- The register that an address finds is of the tables, at that address, and tidy. -/
theorem regAt_tidy {a : Nat} {d : RegDesc} (h : regAt a = some d) : d.addr = a ∧ d.tidy = true := by
  have haddr : (d.addr == a) = true := List.find?_some (p := fun r : RegDesc => r.addr == a) h
  exact ⟨beq_iff_eq.mp haddr, List.all_eq_true.mp (tidyBlock_regBlock a) d (List.mem_of_find?_eq_some h)⟩

/-- The fields of a register that an address finds. -/
theorem regAt_field {a : Nat} {d : RegDesc} {f : FieldDesc} (h : regAt a = some d) (hf : f ∈ d.fields) :
    f.fld.reg = a ∧ 0 < f.fld.w ∧ f.fld.lo + f.fld.w ≤ 64 := by
  obtain ⟨rfl, htidy⟩ := regAt_tidy h
  obtain ⟨hall, -⟩ := Bool.and_eq_true_iff.mp htidy
  have hfld := List.all_eq_true.mp hall f hf
  simpa [FieldDesc.tidy, and_assoc] using hfld

/-- The fields of a register that an address finds share no bit. -/
theorem regAt_apart {a : Nat} {d : RegDesc} (h : regAt a = some d) : d.fields.Pairwise fun f g => f.fld.apart g.fld = true := by
  obtain ⟨-, htidy⟩ := regAt_tidy h
  exact of_decide_eq_true (Bool.and_eq_true_iff.mp htidy).2

/-- A field written by its access code leaves every bit outside it. -/
theorem FieldDesc.getLsbD_write_out (f : FieldDesc) (v w : Word) (j : Nat) (hw : 0 < f.fld.w) (h : f.fld.lo + f.fld.w ≤ 64)
    (hj : j < f.fld.lo ∨ f.fld.lo + f.fld.w ≤ j) : (f.write v w).getLsbD j = v.getLsbD j := by
  unfold FieldDesc.write
  split
  · exact f.fld.getLsbD_put_out v _ j hw h hj
  · exact f.fld.getLsbD_put_out v _ j hw h hj
  · exact f.fld.getLsbD_put_out v _ j hw h hj
  · rfl

/-- Fields written one after the other leave every bit outside all of them. -/
theorem getLsbD_writes_out (l : List FieldDesc) (v w : Word) (j : Nat)
    (hl : ∀ f ∈ l, 0 < f.fld.w ∧ f.fld.lo + f.fld.w ≤ 64 ∧ (j < f.fld.lo ∨ f.fld.lo + f.fld.w ≤ j)) :
    (l.foldl (fun v f => f.write v w) v).getLsbD j = v.getLsbD j := by
  induction l generalizing v with
  | nil => rfl
  | cons f l ih =>
    obtain ⟨hw, h64, hj⟩ := hl f List.mem_cons_self
    rw [List.foldl_cons, ih _ fun g hg => hl g (List.mem_cons_of_mem f hg), f.getLsbD_write_out v w j hw h64 hj]

/-- A field keeps its number through the writes of fields apart from it. -/
theorem get_writes_apart (f : FieldDesc) (l : List FieldDesc) (v w : Word) (hf : 0 < f.fld.w)
    (hl : ∀ g ∈ l, 0 < g.fld.w ∧ g.fld.lo + g.fld.w ≤ 64 ∧ (g.fld.apart f.fld = true ∨ f.fld.apart g.fld = true)) :
    f.fld.get (l.foldl (fun v f => f.write v w) v) = f.fld.get v := by
  refine f.fld.get_congr hf fun j hlo hhi => getLsbD_writes_out l v w j fun g hg => ?_
  obtain ⟨hw, h64, hapart⟩ := hl g hg
  simp only [Fld.apart, Bool.or_eq_true, decide_eq_true_eq] at hapart
  exact ⟨hw, h64, by omega⟩

/-- In a written register each field holds what its own write makes of the register as it was. -/
theorem RegDesc.get_write {a : Nat} {d : RegDesc} {f : FieldDesc} (h : regAt a = some d) (hf : f ∈ d.fields) (old w : Word) :
    ∃ v, f.fld.get v = f.fld.get old ∧ (∀ j, f.fld.lo ≤ j → j < f.fld.lo + f.fld.w → v.getLsbD j = old.getLsbD j) ∧
      f.fld.get (d.write old w) = f.fld.get (f.write v w) := by
  obtain ⟨before, after, hsplit⟩ := List.append_of_mem hf
  have hfields := fun g hg => regAt_field (f := g) h hg
  have hapart := regAt_apart h
  rw [hsplit, List.pairwise_append, List.pairwise_cons] at hapart
  obtain ⟨-, ⟨hafter, -⟩, hbefore⟩ := hapart
  obtain ⟨-, hw, -⟩ := hfields f hf
  rw [hsplit] at hfields
  have hkept : ∀ j, f.fld.lo ≤ j → j < f.fld.lo + f.fld.w → (before.foldl (fun v f => f.write v w) old).getLsbD j = old.getLsbD j := by
    refine fun j hlo hhi => getLsbD_writes_out before old w j fun g hg => ?_
    obtain ⟨-, hgw, hg64⟩ := hfields g (by simp [hg])
    have hgf := hbefore g hg f List.mem_cons_self
    simp only [Fld.apart, Bool.or_eq_true, decide_eq_true_eq] at hgf
    exact ⟨hgw, hg64, by omega⟩
  refine ⟨before.foldl (fun v f => f.write v w) old, f.fld.get_congr hw hkept, hkept, ?_⟩
  rw [RegDesc.write, hsplit, List.foldl_append, List.foldl_cons]
  refine get_writes_apart f after _ w hw fun g hg => ?_
  obtain ⟨-, hgw, hg64⟩ := hfields g (by simp [hg])
  exact ⟨hgw, hg64, .inr (hafter g hg)⟩

/-- A word stored to a register that the tables hold. -/
theorem State.storeWord_of_regAt (s : State) {a : Nat} {d : RegDesc} (h : regAt a = some d) (i v : Nat) :
    s.storeWord a i v = s.setReg a i (d.write (s.reg a i) (BitVec.ofNat 64 v)) := by
  simp only [State.storeWord, h]

/-- Settles O6: field by field by its access code, the other fields of the register being apart from it. -/
theorem registerFieldsFollowAccessCodes : Obligations.RegisterFieldsFollowAccessCodes := by
  unfold Obligations.RegisterFieldsFollowAccessCodes
  intro s a i v d hd w t
  have ht : t = s.setReg a i (d.write (s.reg a i) w) := s.storeWord_of_regAt hd i v
  refine ⟨fun f hf => ?fields, fun b j hb => ?others, ?beside⟩
  case others => rw [ht, State.reg_setReg_ne s a b i j _ hb]
  case beside => rw [ht]; rfl
  case fields =>
    obtain ⟨hreg, hw, h64⟩ := regAt_field hd hf
    obtain ⟨u, hget, hbits, hwrite⟩ := RegDesc.get_write hd hf (s.reg a i) w
    have hfld : t.fld f.fld i = f.fld.get (f.write u w) := by
      rw [ht, State.fld, hreg, State.reg_setReg_self, hwrite]
    have hold : s.fld f.fld i = f.fld.get (s.reg a i) := by rw [State.fld, hreg]
    rw [hfld, hold]
    refine ⟨fun hacc => ?rw_, fun hacc => ?kept, fun hacc => ?w1c, fun hacc => ?w1s⟩
    case rw_ => rw [FieldDesc.write, hacc, Fld.get_put _ _ _ hw h64]
    case kept => rcases hacc with hacc | hacc | hacc <;> rw [FieldDesc.write, hacc, hget]
    case w1c =>
      rw [FieldDesc.write, hacc]
      change f.fld.get (f.fld.put u (f.fld.get (u &&& ~~~w))) = _
      rw [Fld.get_put _ _ _ hw h64, Nat.mod_eq_of_lt (f.fld.get_lt _ hw)]
      exact f.fld.get_congr hw fun j hlo hhi => by rw [BitVec.getLsbD_and, BitVec.getLsbD_and, hbits j hlo hhi]
    case w1s =>
      rw [FieldDesc.write, hacc]
      change f.fld.get (f.fld.put u (f.fld.get (u ||| w))) = _
      rw [Fld.get_put _ _ _ hw h64, Nat.mod_eq_of_lt (f.fld.get_lt _ hw)]
      exact f.fld.get_congr hw fun j hlo hhi => by rw [BitVec.getLsbD_or, BitVec.getLsbD_or, hbits j hlo hhi]

/-! ### Accesses through BAR 0 -/

/-- An offset within BAR 0 is its own offset. -/
theorem off_mod_bar0 {off : Nat} (hoff : off < 2 ^ 26) : off % barBytes .bar0 = off := Nat.mod_eq_of_lt hoff

/-- An access through BAR 0 is refused by R9 alone. -/
theorem State.refused_bar0 (s : State) (off n : Nat) : s.refused .bar0 off n = accessBad off n := Bool.or_false _

/-- Where the device answers, an offset of BAR 0 reaches the entry in window of its register. -/
theorem State.place_bar0 (s : State) (off : Nat) (hans : s.bar0Answers (regAddress off) = true) :
    s.place .bar0 off = some (regAddress off, s.window (regAddress off)) := if_pos hans

/-- Where the device does not answer, an offset of BAR 0 reaches nothing. -/
theorem State.place_bar0_none (s : State) (off : Nat) (hans : ¬ s.bar0Answers (regAddress off) = true) : s.place .bar0 off = none :=
  if_neg hans

/-- A write through BAR 0 that lands at an entry of a register. -/
theorem State.hostWrite_bar0 (s : State) (off v n a i : Nat) (x : WriteBrings) (d : RegDesc) (hup : s.hostUp = true) (hoff : off < 2 ^ 26)
    (hok : accessBad off n = false) (hplace : s.place .bar0 off = some (a, i)) (hd : regAt a = some d) :
    s.hostWrite .bar0 off v n x = s.blockWrite x a i (d.presented (s.readWord a i) off v n).toNat := by
  simp only [State.hostWrite, off_mod_bar0 hoff, hup, State.refused_bar0, hok, hplace, hd, Bool.not_true, Bool.false_eq_true, if_false]

/-- A write through BAR 0 that lands at no register is ignored (R13). -/
theorem State.hostWrite_bar0_none (s : State) (off v n : Nat) (x : WriteBrings) (hup : s.hostUp = true) (hoff : off < 2 ^ 26)
    (hok : accessBad off n = false) (hplace : ∀ a i, s.place .bar0 off = some (a, i) → regAt a = none) : s.hostWrite .bar0 off v n x = s := by
  unfold State.hostWrite
  simp only [off_mod_bar0 hoff, hup, State.refused_bar0, hok, Bool.not_true, Bool.false_eq_true, if_false]
  cases h : s.place .bar0 off with
  | none => rfl
  | some p => simp only [hplace p.1 p.2 h]

/-- A look at any register but ETH_FIFO_COUNT changes nothing. -/
theorem State.fifoLook_of_ne (s : State) (a sp : Nat) (h : a ≠ F.ETH_FIFO_COUNT_RX_COUNT.reg) : s.fifoLook a sp = s := by
  simp only [State.fifoLook, h, false_and, if_false]

/-- A read through BAR 0 that lands at an entry of any register but ETH_FIFO_COUNT. -/
theorem State.hostRead_bar0 (s : State) (off n a i : Nat) (hup : s.hostUp = true) (hoff : off < 2 ^ 26) (hok : accessBad off n = false)
    (hplace : s.place .bar0 off = some (a, i)) (hne : a ≠ F.ETH_FIFO_COUNT_RX_COUNT.reg) :
    s.hostRead .bar0 off n =
      if n = 8 then { s.readEffects a i with readData := s.readWord a i }
      else { s with readData := if off % 8 = 4 then s.readWord a i >>> 32 else s.readWord a i &&& 0xFFFFFFFF#64 } := by
  simp [State.hostRead, off_mod_bar0 hoff, hup, State.refused_bar0, hok, State.otherLink, hplace, State.fifoLook_of_ne _ _ _ hne]

/-- A read through BAR 0 that lands at no register returns zeros and changes nothing else (R13). -/
theorem State.hostRead_bar0_none (s : State) (off n : Nat) (hup : s.hostUp = true) (hoff : off < 2 ^ 26) (hok : accessBad off n = false)
    (hplace : ∀ a i, s.place .bar0 off = some (a, i) → regAt a = none) : s.hostRead .bar0 off n = { s with readData := 0 } := by
  cases h : s.place .bar0 off with
  | none => simp [State.hostRead, off_mod_bar0 hoff, hup, State.refused_bar0, hok, State.otherLink, h]
  | some p =>
    have hd : regAt p.1 = none := hplace p.1 p.2 h
    have hne : p.1 ≠ F.ETH_FIFO_COUNT_RX_COUNT.reg := fun he => absurd (he ▸ hd) (by decide)
    have hzero : s.readWord p.1 p.2 = 0 := by simp only [State.readWord, hd]
    have hkeep : s.readEffects p.1 p.2 = s := by simp only [State.readEffects, hd]
    rw [s.hostRead_bar0 off n p.1 p.2 hup hoff hok h hne, hzero, hkeep]
    split_ifs <;> rfl

/-- A whole word presents itself. -/
theorem RegDesc.presented_word (d : RegDesc) (old : Word) (off v : Nat) : d.presented old off v 8 = BitVec.ofNat 64 v := by
  have hmask : laneMask off 8 = BitVec.allOnes 64 := if_pos rfl
  simp only [RegDesc.presented, hmask, true_or, if_true, BitVec.and_allOnes, BitVec.not_allOnes, BitVec.and_zero, BitVec.or_zero]

/-- Where no register sits at the address of an offset, the offset lands at none. -/
theorem State.place_bar0_unoccupied {s : State} {off a i : Nat} (hd : regAt (regAddress off) = none)
    (h : s.place .bar0 off = some (a, i)) : regAt a = none := by
  by_cases hans : s.bar0Answers (regAddress off) = true
  · rw [s.place_bar0 off hans, Option.some.injEq, Prod.mk.injEq] at h
    rw [← h.1, hd]
  · rw [s.place_bar0_none off hans] at h
    cases h

/-- Settles O49: nothing is found at the address, and the bits of no field are outside every write of the register's fields. -/
theorem unoccupiedAddressesAreEmpty : Obligations.UnoccupiedAddressesAreEmpty := by
  unfold Obligations.UnoccupiedAddressesAreEmpty
  refine ⟨fun s off v n x hup hoff hok hd => ⟨?write, ?read⟩, fun s a i v j d hd _ hout => ?bits⟩
  case write => exact congrArg Host.Outcome.next (s.hostWrite_bar0_none off v n x hup hoff hok fun _ _ => State.place_bar0_unoccupied hd)
  case read => exact congrArg Host.Outcome.next (s.hostRead_bar0_none off n hup hoff hok fun _ _ => State.place_bar0_unoccupied hd)
  case bits =>
    rw [s.storeWord_of_regAt hd, State.reg_setReg_self, RegDesc.write]
    refine getLsbD_writes_out d.fields _ _ j fun f hf => ?_
    obtain ⟨-, hw, h64⟩ := regAt_field hd hf
    exact ⟨hw, h64, hout f hf⟩

/-- A number cut to a word stores as the number itself. -/
theorem State.storeWord_toNat (s : State) (a i v : Nat) : s.storeWord a i (BitVec.ofNat 64 v).toNat = s.storeWord a i v := by
  simp only [State.storeWord, BitVec.ofNat_toNat, BitVec.setWidth_eq]

/-- A register that no special write names is written by its access codes. -/
theorem State.blockWrite_plain (s : State) (x : WriteBrings) (a i v : Nat) (h : ∀ p ∈ specialWrites x, p.1 ≠ a) :
    s.blockWrite x a i v = s.storeWord a i v := by
  have hnone : (specialWrites x).find? (fun p => p.1 == a) = none :=
    List.find?_eq_none.mpr fun p hp => by simpa using h p hp
  simp only [State.blockWrite, hnone]

/-- A register that a special write names is written by it. -/
theorem State.blockWrite_special (s : State) (x : WriteBrings) (a i v : Nat) (f : Nat × (State → Nat → Nat → State))
    (h : (specialWrites x).find? (fun p => p.1 == a) = some f) : s.blockWrite x a i v = f.2 s i v := by
  simp only [State.blockWrite, h]

/-- An access that R9 refuses is counted and sets BAD_ACCESS. -/
theorem State.fld_badAccess (s : State) (link : Nat) : (s.badAccess link).fld F.PCI_ERR_STATUS_BAD_ACCESS = 1 :=
  State.fld_setFld_self _ _ _ _ (by decide) (by decide)

/-- Settles O7: each access by what a host access to its window comes to. -/
theorem registerAccessesComplete : Obligations.RegisterAccessesComplete := by
  unfold Obligations.RegisterAccessesComplete
  refine ⟨?plain, ?special, ?read, ?half, ?fuse, ?bad⟩
  case plain =>
    intro s off v x d hup hoff hok hans hd hplain
    change Host.Outcome.next (s.hostWrite .bar0 off v 8 x) = _
    rw [s.hostWrite_bar0 off v 8 _ _ x d hup hoff hok (s.place_bar0 off hans) hd, RegDesc.presented_word, s.blockWrite_plain x _ _ _ hplain, s.storeWord_toNat]
  case special =>
    intro s off v x d f hup hoff hok hans hd hf
    refine ⟨(BitVec.ofNat 64 v).toNat, fun hv => (BitVec.toNat_ofNat v 64).trans (Nat.mod_eq_of_lt hv), ?_⟩
    change Host.Outcome.next (s.hostWrite .bar0 off v 8 x) = _
    rw [s.hostWrite_bar0 off v 8 _ _ x d hup hoff hok (s.place_bar0 off hans) hd, RegDesc.presented_word,
      s.blockWrite_special x _ _ _ f hf]
  case read => exact fun s off hup hoff hok hans hne => congrArg Host.Outcome.next (s.hostRead_bar0 off 8 _ _ hup hoff hok (s.place_bar0 off hans) hne)
  case half => exact fun s off hup hoff hok hans hne => congrArg Host.Outcome.next (s.hostRead_bar0 off 4 _ _ hup hoff hok (s.place_bar0 off hans) hne)
  case fuse =>
    intro s hup hans
    have haddr : regAddress 0x800030 = F.TRK_FUSE_DATA_FUSED_RECORD.reg := by decide
    have hplace := s.place_bar0 0x800030 (haddr ▸ hans)
    rw [haddr] at hplace
    exact congrArg Host.Outcome.next (s.hostRead_bar0 0x800030 8 _ _ hup (by decide) (by decide) hplace (by decide))
  case bad =>
    intro s bar off size hup hbad
    have hrefused : s.refused bar (off % barBytes bar) size = true := by
      unfold State.refused
      rw [hbad, Bool.true_or]
    have haccess (write : Bool) : s.badHostAccess bar off size write =
        if write then s.badAccess (barLink bar) else { s.badAccess (barLink bar) with readData := 0 } := by
      rw [State.badHostAccess, hup, hrefused]
      rfl
    exact ⟨congrArg Host.Outcome.next (haccess true), congrArg Host.Outcome.next (haccess false), s.fld_badAccess _⟩

end Sys2Proof.Machine
end

/-! ## PROOFS of the family of isolation: a session reaches the tables of its own domain alone (R423 to R430). -/

section
namespace Sys2Proof

/-- An entry whose number passes the test of a filter is found in the filtered table as before. -/
theorem Tab.get?_filter_key {α : Type} (t : Tab α) (p : Nat → Bool) (k : Nat) (hk : p k = true) :
    Tab.get? (t.filter fun e => p e.1) k = Tab.get? t k := by
  induction t with
  | nil => rfl
  | cons e t ih =>
    rw [List.filter_cons]
    split
    · rw [Tab.get?, Tab.get?, ih]
    · next he =>
      have hne : e.1 ≠ k := fun h => he (h ▸ hk)
      rw [ih, Tab.get?, if_neg hne]

namespace Machine

/-! ### The tables that key operations write -/

/-- The key slots, the notice rings and the security associations. -/
structure KeyTables where
  keys : Tab Nat
  rings : Tab Nat
  sas : Tab MacSa

/-- The tables of a state that key operations write. -/
def State.keyTables (s : State) : KeyTables := ⟨s.hbmKeys, s.noticeRings, s.sas⟩

@[simp] theorem State.keyTables_setFld (s : State) (f : Fld) (n i : Nat) : (s.setFld f n i).keyTables = s.keyTables := rfl

@[simp] theorem State.keyTables_addFld (s : State) (f : Fld) (n i : Nat) : (s.addFld f n i).keyTables = s.keyTables := rfl

@[simp] theorem State.keyTables_raise (s : State) (f : Fld) (i : Nat) : (s.raise f i).keyTables = s.keyTables := rfl

@[simp] theorem State.keyTables_satFld (s : State) (f : Fld) (n i : Nat) : (s.satFld f n i).keyTables = s.keyTables := rfl

@[simp] theorem State.keyTables_count (s : State) (src : Nat) (dom : Option Nat) (n : Nat) :
    (s.count src dom n).keyTables = s.keyTables := rfl

@[simp] theorem State.keyTables_send (s : State) (o : Out) : (s.send o).keyTables = s.keyTables := rfl

@[simp] theorem State.keyTables_sendMsix (s : State) (link v : Nat) : (s.sendMsix link v).keyTables = s.keyTables := rfl

@[simp] theorem State.keyTables_withRings (s : State) (t : Tab Ring) : ({ s with rings := t } : State).keyTables = s.keyTables := rfl

@[simp] theorem State.keyTables_withAlm (s : State) (a : AlmUnit) : ({ s with alm := a } : State).keyTables = s.keyTables := rfl

@[simp] theorem State.keyTables_setActive (s : State) (d : Nat) (on : Bool) : (s.setActive d on).keyTables = s.keyTables := rfl

@[simp] theorem State.keyTables_keyChanged (s : State) (d : Nat) : (s.keyChanged d).keyTables = s.keyTables := rfl

@[simp] theorem State.keyTables_fresh (s : State) (n : Nat) : (s.fresh n).2.keyTables = s.keyTables := rfl

@[simp] theorem State.keyTables_showAns (s : State) (sc : Nat) : (s.showAns sc).keyTables = s.keyTables := rfl

/-- An entry written to a completion queue leaves the key tables. -/
@[simp] theorem State.keyTables_writeEntry (s : State) (g : Nat) (e : List Byte) (q : Bool) :
    (s.writeEntry g e q).keyTables = s.keyTables := by
  unfold State.writeEntry
  split
  · rfl
  · next r _ =>
    extract_lets k n t ph rt s1 base s2 t' s3 s4 cnt r'
    have hcounted : s1.keyTables = s.keyTables := by
      unfold s1
      split
      · split <;> rfl
      · rfl
    have hqueue : s4.keyTables = s.keyTables := by
      unfold s4
      split
      · rw [State.keyTables_setFld]
        exact hcounted
      · exact hcounted
    split
    · exact hqueue
    · split
      · rw [State.keyTables_sendMsix]
        exact hqueue
      · exact hqueue

/-- An entry posted to a ring leaves the key tables. -/
@[simp] theorem State.keyTables_postEntry (s : State) (g : Nat) (e : List Byte) (q : Bool) :
    (s.postEntry g e q).keyTables = s.keyTables := by
  unfold State.postEntry
  split
  · rfl
  · split
    · exact s.keyTables_writeEntry g e q
    · rfl

/-- A notice leaves the key tables. -/
@[simp] theorem State.keyTables_notice (s : State) (d cause chan an : Nat) : (s.notice d cause chan an).keyTables = s.keyTables := by
  unfold State.notice State.postUnsolicited
  split
  · rfl
  · split
    · rfl
    · split
      · exact s.keyTables_postEntry _ _ _
      · rfl

/-- The response of a key operation leaves the key tables. -/
@[simp] theorem State.keyTables_keyAnswer (s : State) (sid : Nat) (dom : Option Nat) (st b2 : Nat) (rest : List Byte) :
    (s.keyAnswer sid dom st b2 rest).keyTables = s.keyTables := by
  cases dom <;> rfl

/-- Notices one after the other leave the key tables. -/
theorem State.keyTables_foldl {α : Type} (f : State → α → State) (hf : ∀ u x, (f u x).keyTables = u.keyTables) (l : List α) (s : State) :
    (l.foldl f s).keyTables = s.keyTables := by
  induction l generalizing s with
  | nil => rfl
  | cons x l ih => exact (ih (f s x)).trans (hf s x)

/-! ### The domain of a channel -/

/-- A register beside ISO_SC_ASSIGN can be written without a change of any channel's domain. -/
theorem State.scDom_setReg (s : State) (a i : Nat) (v : Word) (ha : a < 2 ^ 40) (hne : F.ISO_SC_ASSIGN_VALID.reg ≠ a) (sc : Nat) :
    (s.setReg a i v).scDom sc = s.scDom sc := by
  have hreg : (s.setReg a i v).reg F.ISO_SC_ASSIGN_VALID.reg sc = s.reg F.ISO_SC_ASSIGN_VALID.reg sc :=
    State.reg_setReg_ne s _ _ _ _ v fun h => hne (regKey_inj (by decide) ha h).1
  change (if (F.ISO_SC_ASSIGN_VALID.get ((s.setReg a i v).reg F.ISO_SC_ASSIGN_VALID.reg sc) == 1) = true then
    some (F.ISO_SC_ASSIGN_DOMAIN.get ((s.setReg a i v).reg F.ISO_SC_ASSIGN_VALID.reg sc)) else none) = s.scDom sc
  rw [hreg]
  rfl

/-- A field outside ISO_SC_ASSIGN can be written without a change of any channel's domain. -/
theorem State.scDom_setFld (s : State) (f : Fld) (n i : Nat) (hf : f.reg < 2 ^ 40) (hne : F.ISO_SC_ASSIGN_VALID.reg ≠ f.reg) (sc : Nat) :
    (s.setFld f n i).scDom sc = s.scDom sc := s.scDom_setReg f.reg i _ hf hne sc

/-- The ACTIVE bits stand beside the channels' domains. -/
theorem State.scDom_setActive (s : State) (d : Nat) (on : Bool) (sc : Nat) : (s.setActive d on).scDom sc = s.scDom sc := by
  unfold State.setActive
  rw [State.scDom_setFld _ _ _ _ (by decide) (by decide)]
  split <;> exact s.scDom_setReg _ _ _ (by decide) (by decide) sc

/-! ### What lies outside a domain -/

/-- Two states with the same keys and notice rings of every domain but one, and the same security associations of every channel that the
first does not assign to it. -/
structure SameOutside (d : Nat) (s t : State) : Prop where
  keys : ∀ e, e ≠ d → Tab.get? t.hbmKeys e = Tab.get? s.hbmKeys e
  rings : ∀ e, e ≠ d → Tab.get? t.noticeRings e = Tab.get? s.noticeRings e
  sas : ∀ sc an, an < 4 → s.scDom sc ≠ some d → Tab.get? t.sas (saKey sc an) = Tab.get? s.sas (saKey sc an)

theorem SameOutside.of_keyTables {d : Nat} {s t : State} (h : t.keyTables = s.keyTables) : SameOutside d s t := by
  have hkeys : t.hbmKeys = s.hbmKeys := congrArg KeyTables.keys h
  have hrings : t.noticeRings = s.noticeRings := congrArg KeyTables.rings h
  have hsas : t.sas = s.sas := congrArg KeyTables.sas h
  exact ⟨fun _ _ => by rw [hkeys], fun _ _ => by rw [hrings], fun _ _ _ _ => by rw [hsas]⟩

/-- What follows without a change of the key tables does not matter, nor what went before without a change of them or of a channel's domain. -/
theorem SameOutside.between {d : Nat} {s u v t : State} (h : SameOutside d u v) (hu : u.keyTables = s.keyTables)
    (hdom : ∀ sc, u.scDom sc = s.scDom sc) (ht : t.keyTables = v.keyTables) : SameOutside d s t := by
  have hfirst : SameOutside d s u := .of_keyTables hu
  have hlast : SameOutside d v t := .of_keyTables ht
  have hsas : t.sas = v.sas := congrArg KeyTables.sas ht
  refine ⟨fun e he => ?_, fun e he => ?_, fun sc an han hsc => ?_⟩
  · rw [hlast.keys e he, h.keys e he, hfirst.keys e he]
  · rw [hlast.rings e he, h.rings e he, hfirst.rings e he]
  · rw [hsas, h.sas sc an han (hdom sc ▸ hsc), hfirst.sas sc an han hsc]

/-! ### The operations on a domain -/

/-- A block read under another key changes bytes of memory alone. -/
theorem State.keyTables_rekeyBlock (s : State) (d old new b : Nat) : (s.rekeyBlock d old new b).keyTables = s.keyTables := by
  unfold State.rekeyBlock
  extract_lets o p q
  clear_value q
  rfl

/-- A domain's HBM read under another key changes bytes of memory, and the note of the key. -/
theorem State.keyTables_rekey (s : State) (d new : Nat) : (s.rekey d new).keyTables = s.keyTables := by
  have hblocks (l : List Nat) (old : Nat) : (l.foldl (fun t b => State.rekeyBlock t d old new b) s).keyTables = s.keyTables :=
    State.keyTables_foldl _ (fun t b => t.keyTables_rekeyBlock d old new b) l s
  unfold State.rekey
  extract_lets t
  have ht : t.keyTables = s.keyTables := by
    unfold t
    split
    · rfl
    · split
      · rfl
      · exact hblocks _ _
  clear_value t
  exact ht

theorem State.keyTables_installKey (s : State) (d key : Nat) (persist : Bool) :
    (s.installKey d key persist).keyTables = ⟨Tab.set s.hbmKeys d key, s.noticeRings, s.sas⟩ := by
  have hrekey := s.keyTables_rekey d key
  unfold State.installKey
  generalize s.rekey d key = u at hrekey
  obtain ⟨hkeys, hrings, hsas⟩ := KeyTables.mk.inj hrekey
  simp only [State.keyTables_keyChanged, State.keyTables_setFld, State.keyTables_withAlm, State.keyTables_setActive]
  rw [← hkeys, ← hrings, ← hsas]
  rfl

/-- A key installed for a domain is its own. -/
theorem State.sameOutside_installKey (s : State) (d key : Nat) (persist : Bool) : SameOutside d s (s.installKey d key persist) := by
  obtain ⟨hkeys, hrings, hsas⟩ := KeyTables.mk.inj (s.keyTables_installKey d key persist)
  exact ⟨fun e he => by rw [hkeys, Tab.get?_set_ne _ _ _ _ he], fun _ _ => by rw [hrings], fun _ _ _ _ => by rw [hsas]⟩

/-- The channel of a security association. -/
theorem saKey_div (sc an : Nat) (h : an < 4) : saKey sc an / 4 = sc := by
  unfold saKey
  omega

/-- Channels cleared keep the keys, the notice rings and the security associations of the others. -/
theorem State.clearChannels_tables (l : List Nat) (dom : Option Nat) (s : State) :
    (l.foldl (fun s sc => s.clearChannel sc dom) s).hbmKeys = s.hbmKeys ∧
    (l.foldl (fun s sc => s.clearChannel sc dom) s).noticeRings = s.noticeRings ∧
    ∀ sc an, an < 4 → sc ∉ l → Tab.get? (l.foldl (fun s sc => s.clearChannel sc dom) s).sas (saKey sc an) = Tab.get? s.sas (saKey sc an) := by
  induction l generalizing s with
  | nil => exact ⟨rfl, rfl, fun _ _ _ _ => rfl⟩
  | cons x l ih =>
    have hone : (s.clearChannel x dom).keyTables = ⟨s.hbmKeys, s.noticeRings, s.sas.filter fun e => e.1 / 4 != x⟩ := by
      unfold State.clearChannel
      split
      · rfl
      · exact State.keyTables_foldl _ (fun u e => u.keyTables_notice _ _ _ _) _ _
    obtain ⟨hkeys, hrings, hsas⟩ := ih (s.clearChannel x dom)
    refine ⟨hkeys.trans (congrArg KeyTables.keys hone), hrings.trans (congrArg KeyTables.rings hone), fun sc an han hsc => ?_⟩
    have hx : sc ≠ x := fun h => hsc (h ▸ List.mem_cons_self)
    have hfilter : (s.clearChannel x dom).sas = s.sas.filter fun e => e.1 / 4 != x := congrArg KeyTables.sas hone
    refine (hsas sc an han fun h => hsc (List.mem_cons_of_mem x h)).trans ?_
    rw [hfilter]
    exact Tab.get?_filter_key s.sas (fun k => k / 4 != x) _ (by rw [saKey_div sc an han]; exact bne_iff_ne.mpr hx)

/-- A domain's key slot emptied: its own key, and the security associations of its own channels. -/
theorem State.sameOutside_dropKey (s : State) (d : Nat) : SameOutside d s (s.dropKey d) := by
  unfold State.dropKey
  extract_lets had s1 alm s2 s3 s4
  have htables : (if had = true then (s4.keyChanged d).notice d 2 0 0 else s4).keyTables = s4.keyTables := by
    split
    · rw [State.keyTables_notice, State.keyTables_keyChanged]
    · rfl
  have hpersisted (sc : Nat) : s3.scDom sc = s1.scDom sc := s2.scDom_setFld F.ISO_DOM_STATUS_KEY_PERSISTED 0 d (by decide) (by decide) sc
  have hdom (sc : Nat) : s3.scDom sc = s.scDom sc := (hpersisted sc).trans (s.scDom_setActive d false sc)
  obtain ⟨hkeys, hrings, hsas⟩ := State.clearChannels_tables (s3.domChannels d) (some d) s3
  have hcleared : SameOutside d s s4 := by
    refine ⟨fun e he => ?_, fun e _ => ?_, fun sc an han hsc => ?_⟩
    · exact (congrArg (Tab.get? · e) hkeys).trans (Tab.get?_del_ne s.hbmKeys d e he)
    · exact congrArg (Tab.get? · e) hrings
    · refine hsas sc an han fun hmem => hsc ?_
      rw [← hdom sc]
      exact beq_iff_eq.mp (List.mem_filter.mp hmem).2
  exact hcleared.between rfl (fun _ => rfl) htables

/-- A request's channel is the domain's own, and its association number is below 4. -/
theorem sa_ne_of_channelOk {s : State} {d sc an : Nat} {b : List Byte} (hok : s.channelOk d b = true) (hrange : reqScOk b 3 = true)
    (han : an < 4) (hsc : s.scDom sc ≠ some d) : saKey sc an ≠ saKey (reqSc b) (reqAn b) := by
  intro h
  have hreqAn : reqAn b < 4 := of_decide_eq_true (Bool.and_eq_true_iff.mp hrange).2
  have hchannel : sc = reqSc b := by rw [← saKey_div sc an han, h, saKey_div _ _ hreqAn]
  refine hsc ?_
  rw [hchannel]
  exact beq_iff_eq.mp (Bool.and_eq_true_iff.mp hok).1

/-- A security association changed on a request's channel leaves those of the channels of the others. -/
theorem SameOutside.of_sas {d : Nat} {s t : State} {b : List Byte} (hok : s.channelOk d b = true) (hrange : reqScOk b 3 = true)
    (hkeys : t.hbmKeys = s.hbmKeys) (hrings : t.noticeRings = s.noticeRings)
    (hsas : ∀ k, k ≠ saKey (reqSc b) (reqAn b) → Tab.get? t.sas k = Tab.get? s.sas k) : SameOutside d s t :=
  ⟨fun _ _ => by rw [hkeys], fun _ _ => by rw [hrings], fun _ _ han hsc => hsas _ (sa_ne_of_channelOk hok hrange han hsc)⟩

/-- DOM_KEY_SET reaches the session's own domain alone. -/
theorem State.sameOutside_domKeySet (s : State) (d : Nat) (b : List Byte) : SameOutside d s (s.domKeySet d b).1 := by
  unfold State.domKeySet
  split_ifs
  · exact .of_keyTables rfl
  · exact .of_keyTables rfl
  · exact .of_keyTables rfl
  · exact s.sameOutside_installKey d _ _

/-- DOM_KEY_GEN reaches the session's own domain alone. -/
theorem State.sameOutside_domKeyGen (s : State) (d : Nat) (b : List Byte) : SameOutside d s (s.domKeyGen d b).1 := by
  unfold State.domKeyGen
  split_ifs
  · exact .of_keyTables rfl
  · exact .of_keyTables rfl
  · exact (State.sameOutside_installKey (s.fresh 512).2 d _ _).between rfl (fun _ => rfl) rfl

/-- DOM_KEY_CLEAR reaches the session's own domain alone. -/
theorem State.sameOutside_domKeyClear (s : State) (d : Nat) (b : List Byte) : SameOutside d s (s.domKeyClear d b).1 := by
  unfold State.domKeyClear
  split_ifs
  · exact .of_keyTables rfl
  · exact .of_keyTables rfl
  · exact (s.sameOutside_dropKey d).between rfl (fun _ => rfl) rfl

/-- The AN in use is no key table. -/
theorem State.keyTables_firstUse (s : State) (sc an : Nat) : (s.firstUse sc an).keyTables = s.keyTables := by
  unfold State.firstUse
  split <;> rfl

/-- The note of an association in its cycle is no key table. -/
theorem State.keyTables_tieSa (s : State) (k : Nat) : (s.tieSa k).keyTables = s.keyTables := by
  unfold State.tieSa
  extract_lets t
  split <;> rfl

/-- SAK_SET reaches the channels of the session's own domain alone. -/
theorem State.sameOutside_sakSet (s : State) (d : Nat) (b : List Byte) : SameOutside d s (s.sakSet d b).1 := by
  have htables : ((s.firstUse (reqSc b) (reqAn b)).tieSa (saKey (reqSc b) (reqAn b))).keyTables = s.keyTables := by
    rw [State.keyTables_tieSa, State.keyTables_firstUse]
  unfold State.sakSet
  extract_lets a s1 s2 s3
  split_ifs with hargs _ hok
  · exact .of_keyTables rfl
  · exact .of_keyTables rfl
  · exact .of_keyTables rfl
  · exact .of_keyTables rfl
  · simp only [Bool.or_eq_true, not_or, Bool.not_eq_true', Bool.not_eq_false] at hargs hok
    have hsas : s2.sas = s.sas := congrArg KeyTables.sas htables
    refine .of_sas hok hargs.1.2 (congrArg KeyTables.keys htables) (congrArg KeyTables.rings htables) fun k hk => ?_
    change Tab.get? (Tab.set s2.sas _ a) k = _
    rw [Tab.get?_set_ne _ _ _ _ hk, hsas]

/-- SAK_CLEAR reaches the channels of the session's own domain alone. -/
theorem State.sameOutside_sakClear (s : State) (d : Nat) (b : List Byte) : SameOutside d s (s.sakClear d b).1 := by
  unfold State.sakClear
  split_ifs with hargs hok
  · exact .of_keyTables rfl
  · exact .of_keyTables rfl
  · exact .of_keyTables rfl
  · exact .of_keyTables rfl
  · simp only [Bool.or_eq_true, not_or, Bool.not_eq_true', Bool.not_eq_false] at hargs hok
    exact .of_sas hok hargs.2 rfl rfl fun k hk => Tab.get?_del_ne s.sas _ k hk

/-- SET_NOTICE_RING names the notice ring of the session's own domain alone. -/
theorem State.sameOutside_setNoticeRing (s : State) (d : Nat) (b : List Byte) : SameOutside d s (s.setNoticeRing d b).1 := by
  unfold State.setNoticeRing
  extract_lets i
  split
  · exact .of_keyTables rfl
  · split
    · exact .of_keyTables rfl
    · split
      · exact .of_keyTables rfl
      · split
        · exact .of_keyTables rfl
        · exact ⟨fun _ _ => rfl, fun e he => Tab.get?_set_ne s.noticeRings d e _ he, fun _ _ _ _ => rfl⟩

/-! ### Operations in a session -/

/-- The Sextant's cores, woken to serve a request. -/
def State.coresServing (s : State) : State := ({ s with sxt := { s.sxt with workAt := s.now } } : State).setFld F.SXT_STATUS_CORE_STATE 1

/-- A request that the cores serve, or that they do not. -/
theorem State.sxtServe_cases (s : State) (f : State → State) : s.sxtServe f = s ∨ s.sxtServe f = f s.coresServing := by
  unfold State.sxtServe
  split
  · exact .inl rfl
  · exact .inr rfl

/-- A secured message of a session: it changes no key table, or it runs on a state with the same tables and the same domains of channels. -/
theorem State.secured_cases (s : State) (k : Nat) (ok : Bool) (f : State → Session → State) :
    (s.secured k ok f).keyTables = s.keyTables ∨ ∃ u x y, Tab.get? s.sessions k = some x ∧ y.dom = x.dom ∧ u.keyTables = s.keyTables ∧
      (∀ sc, u.scDom sc = s.scDom sc) ∧ s.secured k ok f = f u y := by
  unfold State.secured
  rcases s.sxtServe_cases _ with h | h <;> rw [h]
  · exact .inl rfl
  · split
    · exact .inl rfl
    · next x hx =>
      split_ifs
      · exact .inl rfl
      · exact .inl rfl
      · exact .inr ⟨s.coresServing.setSession k { x with lastAt := s.coresServing.now }, x, { x with lastAt := s.coresServing.now }, hx, rfl, rfl,
          State.scDom_setFld _ F.SXT_STATUS_CORE_STATE 1 0 (by decide) (by decide), rfl⟩

/-- An operation of a session bound to a domain that reaches the domain alone. -/
theorem State.sameOutside_keyOp {s : State} {k d : Nat} {x : Session} {f : State → Nat → State × Nat × List Byte}
    (hx : Tab.get? s.sessions k = some x) (hd : x.dom = some d) (ok : Bool) (hf : ∀ u, SameOutside d u (f u d).1) :
    SameOutside d s (s.keyOp k ok f) := by
  unfold State.keyOp
  rcases s.secured_cases k ok _ with hsame | ⟨u, x', y, hx', hy, hu, hdom, hrun⟩
  · exact .of_keyTables hsame
  · have hbound : y.dom = some d := by rw [hy, ← hd, Option.some.inj (hx'.symm.trans hx)]
    rw [hrun, hbound]
    exact (hf u).between hu hdom (State.keyTables_keyAnswer _ _ _ _ _ _)

/-- Settles O43: each operation writes the tables of the domain that it is given, and END_SESSION writes none. -/
theorem sessionsKeepToTheirDomain : Obligations.SessionsKeepToTheirDomain := by
  unfold Obligations.SessionsKeepToTheirDomain
  refine ⟨fun s t k d x ok b c hc hx hd ht => ?ops, fun s t k ok ht => ?ends⟩
  case ops =>
    suffices h : SameOutside d s t from ⟨fun e he => ⟨h.keys e he, h.rings e he⟩, h.sas⟩
    have hop (f : State → Nat → State × Nat × List Byte) (hf : ∀ u, SameOutside d u (f u d).1)
        (hrun : Host.Outcome.next (s.keyOp k ok f) = exec c s) : SameOutside d s t := by
      rw [← Host.Outcome.next.inj (hrun.trans ht)]
      exact State.sameOutside_keyOp hx hd ok hf
    simp only [List.mem_cons, List.not_mem_nil, or_false] at hc
    rcases hc with rfl | rfl | rfl | rfl | rfl | rfl
    · exact hop (fun u d => u.domKeySet d b) (fun u => u.sameOutside_domKeySet d b) rfl
    · exact hop (fun u d => u.domKeyGen d b) (fun u => u.sameOutside_domKeyGen d b) rfl
    · exact hop (fun u d => u.domKeyClear d b) (fun u => u.sameOutside_domKeyClear d b) rfl
    · exact hop (fun u d => u.sakSet d b) (fun u => u.sameOutside_sakSet d b) rfl
    · exact hop (fun u d => u.sakClear d b) (fun u => u.sameOutside_sakClear d b) rfl
    · exact hop (fun u d => u.setNoticeRing d b) (fun u => u.sameOutside_setNoticeRing d b) rfl
  case ends =>
    suffices h : t.keyTables = s.keyTables from ⟨congrArg KeyTables.keys h, congrArg KeyTables.sas h⟩
    cases ht
    rcases s.secured_cases k ok _ with hsame | ⟨u, _, _, _, _, hu, _, hrun⟩
    · exact hsame
    · rw [hrun]
      exact hu

end Machine
end Sys2Proof
end

/-! ## PROOFS of the family of records: the event log's entries and a completion queue's (R365, R370, R507, R508, R518). -/

section
namespace Sys2Proof.Machine

/-! ### The event log -/

@[simp] theorem State.fld_count (s : State) (src : Nat) (dom : Option Nat) (n : Nat) (f : Fld) (i : Nat) :
    (s.count src dom n).fld f i = s.fld f i := rfl

@[simp] theorem State.fld_send (s : State) (o : Out) (f : Fld) (i : Nat) : (s.send o).fld f i = s.fld f i := rfl

/-- An appended entry leaves the log's flash mirror. -/
theorem LogUnit.append_mirror (l : LogUnit) (e : LogEntry) : (l.append e).1.mirror = l.mirror := by
  cases l
  unfold LogUnit.append
  split
  · split
    · rfl
    · split
      · rfl
      · split
        · rfl
        · split
          · rfl
          · split <;> rfl
  · rfl

/-- While the log is not degraded, an entry goes to the end of the SRAM ring, waits for the mirror, and is not dropped (R508). -/
theorem LogUnit.append_of_not_degraded (l : LogUnit) (e : LogEntry) (h : l.degraded = false) :
    l.append e = ({ l with sram := (l.sram ++ [e]).drop (l.sram.length + 1 - 32768), waiting := l.waiting + 1 }, false) := by
  simp only [LogUnit.append, h, Bool.false_eq_true, if_false, logRing]

/-- The state when an entry has been appended and NEXT_SEQ has advanced, before the drop is counted and the UART is served. -/
def State.logged (s : State) (e : LogEntry) : State :=
  (({ s with log := (s.log.append e).1 } : State).count 0xF87 none 1).addFld F.SXT_LOG_HEAD_NEXT_SEQ 1

/-- The same with a dropped entry counted. -/
def State.loggedDrop (s : State) (e : LogEntry) : State :=
  if (s.log.append e).2 then ((s.logged e).satFld F.SXT_STATUS_LOG_DROPPED 1).count 0xF88 none 1 else s.logged e

theorem State.logEvent_eq (s : State) (cause sev : Nat) (body : List Byte) (fault : Bool) :
    s.logEvent cause sev body fault =
      let u := s.loggedDrop (s.mkEntry cause sev fault body)
      if sev ≥ u.fld F.SXT_LOG_CTRL_UART_MIN_SEV then (u.send (.uart (s.fld F.SXT_LOG_HEAD_NEXT_SEQ))).count 0xF98 none 1 else u := rfl

/-- An event advances NEXT_SEQ. -/
theorem State.fld_logged_nextSeq (s : State) (e : LogEntry) :
    (s.logged e).fld F.SXT_LOG_HEAD_NEXT_SEQ = (s.fld F.SXT_LOG_HEAD_NEXT_SEQ + 1) % 2 ^ 64 :=
  State.fld_setFld_self _ _ _ _ (by decide) (by decide)

theorem State.fld_loggedDrop_nextSeq (s : State) (e : LogEntry) :
    (s.loggedDrop e).fld F.SXT_LOG_HEAD_NEXT_SEQ = (s.fld F.SXT_LOG_HEAD_NEXT_SEQ + 1) % 2 ^ 64 := by
  rw [← s.fld_logged_nextSeq e]
  unfold State.loggedDrop
  split
  · exact State.fld_setFld_ne _ _ _ _ _ _ (by decide)
  · rfl

theorem State.loggedDrop_log (s : State) (e : LogEntry) : (s.loggedDrop e).log = (s.log.append e).1 := by
  unfold State.loggedDrop
  split <;> rfl

/-- An entry that is not dropped leaves UART_MIN_SEV. -/
theorem State.fld_loggedDrop_uart (s : State) (e : LogEntry) (h : (s.log.append e).2 = false) :
    (s.loggedDrop e).fld F.SXT_LOG_CTRL_UART_MIN_SEV = s.fld F.SXT_LOG_CTRL_UART_MIN_SEV := by
  unfold State.loggedDrop
  rw [h]
  exact State.fld_setFld_ne _ _ _ _ _ _ (by decide)

/-- A log event answers the log with the entry appended. -/
theorem State.logEvent_log (s : State) (cause sev : Nat) (body : List Byte) (fault : Bool) :
    (s.logEvent cause sev body fault).log = (s.log.append (s.mkEntry cause sev fault body)).1 := by
  rw [State.logEvent_eq, ← State.loggedDrop_log]
  extract_lets u
  split <;> rfl

theorem State.fld_logEvent_nextSeq (s : State) (cause sev : Nat) (body : List Byte) (fault : Bool) :
    (s.logEvent cause sev body fault).fld F.SXT_LOG_HEAD_NEXT_SEQ = (s.fld F.SXT_LOG_HEAD_NEXT_SEQ + 1) % 2 ^ 64 := by
  rw [State.logEvent_eq, ← s.fld_loggedDrop_nextSeq (s.mkEntry cause sev fault body)]
  extract_lets u
  split <;> rfl

/-- Settles O44: by where the entry is appended, and the writes after it beside NEXT_SEQ and UART_MIN_SEV. -/
theorem theLogTakesEveryEvent : Obligations.TheLogTakesEveryEvent := by
  unfold Obligations.TheLogTakesEveryEvent
  rintro s t cause sev body fault rfl
  have hlog := s.logEvent_log cause sev body fault
  refine ⟨s.fld_logEvent_nextSeq cause sev body fault, ?mirror, fun hdeg => ?ring⟩
  case mirror => rw [hlog, LogUnit.append_mirror]
  case ring =>
    have happend := s.log.append_of_not_degraded (s.mkEntry cause sev fault body) hdeg
    rw [happend] at hlog
    refine ⟨by rw [hlog], by rw [hlog], fun hlen => ?len, fun hsev => ?uart⟩
    case len =>
      rw [hlog]
      simp only [List.length_drop, List.length_append, List.length_singleton]
      omega
    case uart =>
      rw [State.logEvent_eq, if_pos (by rw [s.fld_loggedDrop_uart _ (by rw [happend])]; exact hsev)]
      exact List.mem_cons_self

/-! ### A completion queue's entries -/

/-- A table of rings in place of another changes no register. -/
@[simp] theorem State.fld_withRings (s : State) (t : Tab Ring) (f : Fld) (i : Nat) : ({ s with rings := t } : State).fld f i = s.fld f i := rfl

@[simp] theorem State.fld_sendMsix (s : State) (link v : Nat) (f : Fld) (i : Nat) : (s.sendMsix link v).fld f i = s.fld f i := rfl

/-- The state with a class D count of an entry of one of a domain's own instances (R524). -/
def State.countEntry (s : State) (inst : Nat) : State :=
  match Tab.get? s.insts inst with
  | some i => if i.oper then s else s.count 0x17B (some i.dom) 1
  | none => s

/-- Counting an entry changes no register. -/
@[simp] theorem State.fld_countEntry (s : State) (inst : Nat) (f : Fld) (j : Nat) : (s.countEntry inst).fld f j = s.fld f j := by
  unfold State.countEntry
  split
  · split <;> rfl
  · rfl

/-- The write of an entry at CQ_TAIL, CQ_BASE and SQ_HEAD being read of a state that may have counted the entry. -/
def State.entryOut (s u : State) (r : Ring) (e : List Byte) : Out :=
  .hostWrite (s.route r.inst).1 (s.route r.inst).2 (u.fld F.RING_CQ_BASE_ADDR r.key * 4096 + 64 * s.fld F.RING_STATUS_CQ_TAIL r.key)
    (patchEntry e (s.fld F.RING_STATUS_PHASE r.key) (u.fld F.RING_STATUS_SQ_HEAD r.key))

theorem State.entryOut_countEntry (s : State) (r : Ring) (e : List Byte) (inst : Nat) :
    s.entryOut (s.countEntry inst) r e = s.entryOut s r e := by
  simp only [State.entryOut, State.fld_countEntry]

/-- The state with an entry sent to CQ_TAIL, which has advanced, and PHASE as it then stands; the interrupt rules have still to be applied. -/
def State.queued (s : State) (r : Ring) (e : List Byte) : State :=
  let t' := (s.fld F.RING_STATUS_CQ_TAIL r.key + 1) % 2 ^ s.fld F.RING_CFG_CQ_LOG2 r.key
  let v := ((s.countEntry r.inst).send (s.entryOut (s.countEntry r.inst) r e)).setFld F.RING_STATUS_CQ_TAIL t' r.key
  if t' = 0 then v.setFld F.RING_STATUS_PHASE (1 - s.fld F.RING_STATUS_PHASE r.key) r.key else v

/-- An entry written: the state with it queued, but for the interrupt rules (R371). -/
theorem State.writeEntry_queued (s : State) (g : Nat) (r : Ring) (e : List Byte) (quiet : Bool) (hr : Tab.get? s.rings g = some r) :
    (s.writeEntry g e quiet).regs = (s.queued r e).regs ∧ (s.writeEntry g e quiet).cfg = (s.queued r e).cfg ∧
      (s.writeEntry g e quiet).pow = (s.queued r e).pow ∧ (s.queued r e).outs ⊆ (s.writeEntry g e quiet).outs := by
  unfold State.writeEntry
  split
  · next hnone => cases hnone.symm.trans hr
  · next r' hr' =>
    obtain rfl : r' = r := Option.some.inj (hr'.symm.trans hr)
    extract_lets k n t ph rt s1 base s2 t' s3 s4 cnt r''
    have hqueued : s4 = s.queued r' e := rfl
    rw [← hqueued]
    clear_value s4 r'' cnt
    split
    · exact ⟨rfl, rfl, rfl, List.Subset.refl _⟩
    · split
      · exact ⟨rfl, rfl, rfl, List.subset_cons_self _ _⟩
      · exact ⟨rfl, rfl, rfl, List.Subset.refl _⟩

/-- An entry written leaves each field as queueing it does. -/
theorem State.fld_writeEntry (s : State) (g : Nat) (r : Ring) (e : List Byte) (quiet : Bool) (hr : Tab.get? s.rings g = some r)
    (f : Fld) (j : Nat) : (s.writeEntry g e quiet).fld f j = (s.queued r e).fld f j := by
  obtain ⟨hregs, hcfg, hpow, -⟩ := s.writeEntry_queued g r e quiet hr
  simp only [State.fld, State.reg, State.resetWord, hregs, hcfg, hpow]

/-- An entry that is queued is sent to the host. -/
theorem State.sent_queued (s : State) (r : Ring) (e : List Byte) : s.entryOut s r e ∈ (s.queued r e).outs := by
  unfold State.queued
  extract_lets t' v
  have hsent : s.entryOut s r e ∈ v.outs := by
    rw [← s.entryOut_countEntry r e r.inst]
    exact List.mem_cons_self
  split <;> exact hsent

/-- CQ_TAIL and PHASE after an entry is queued (R365). -/
theorem State.fld_queued (s : State) (r : Ring) (e : List Byte) :
    (s.queued r e).fld F.RING_STATUS_CQ_TAIL r.key =
      (s.fld F.RING_STATUS_CQ_TAIL r.key + 1) % 2 ^ s.fld F.RING_CFG_CQ_LOG2 r.key % 2 ^ 16 ∧
    (s.queued r e).fld F.RING_STATUS_PHASE r.key =
      if (s.fld F.RING_STATUS_CQ_TAIL r.key + 1) % 2 ^ s.fld F.RING_CFG_CQ_LOG2 r.key = 0 then 1 - s.fld F.RING_STATUS_PHASE r.key
      else s.fld F.RING_STATUS_PHASE r.key := by
  unfold State.queued
  extract_lets t' v
  have htail : v.fld F.RING_STATUS_CQ_TAIL r.key = t' % 2 ^ 16 := State.fld_setFld_self _ _ _ _ (by decide) (by decide)
  have hphase : v.fld F.RING_STATUS_PHASE r.key = s.fld F.RING_STATUS_PHASE r.key :=
    (State.fld_setFld_beside ((s.countEntry r.inst).send (s.entryOut (s.countEntry r.inst) r e)) F.RING_STATUS_CQ_TAIL F.RING_STATUS_PHASE
      t' r.key rfl (by decide) (by decide) (by decide) (by decide)).trans (s.fld_countEntry r.inst _ _)
  change _ = t' % 2 ^ 16 ∧ _ = if t' = 0 then _ else _
  clear_value v t'
  split
  · refine ⟨?_, ?_⟩
    · rw [← htail]
      exact State.fld_setFld_beside _ _ _ _ _ rfl (by decide) (by decide) (by decide) (by decide)
    · rw [State.fld_setFld_self _ _ _ _ (by decide) (by decide)]
      exact Nat.mod_eq_of_lt (Nat.lt_of_le_of_lt (Nat.sub_le 1 _) (by decide))
  · exact ⟨htail, hphase⟩

/-- Settles O45: a posted entry is written where the queue has room and nothing waits, and is held otherwise. -/
theorem entriesGoToTheTail : Obligations.EntriesGoToTheTail := by
  unfold Obligations.EntriesGoToTheTail
  rintro s t g r e quiet hr rfl n tl ph
  have hpost : s.postEntry g e quiet = if r.held.isEmpty && s.cqRoom r then s.writeEntry g e quiet
      else { s with rings := Tab.set s.rings g { r with held := r.held ++ [(e, quiet)] } }.setFld F.RING_STATUS_CQ_WAIT 1 r.key := by
    simp only [State.postEntry, hr]
  refine ⟨fun hheld hroom hn => ?room, fun hwait => ?waits⟩
  case room =>
    have hcond : (r.held.isEmpty && s.cqRoom r) = true := by
      rw [hheld]
      exact bne_iff_ne.mpr hroom
    obtain ⟨-, -, -, hsub⟩ := s.writeEntry_queued g r e quiet hr
    obtain ⟨htail, hphase⟩ := s.fld_queued r e
    rw [hpost, if_pos hcond, s.fld_writeEntry g r e quiet hr, s.fld_writeEntry g r e quiet hr]
    refine ⟨hsub (s.sent_queued r e), htail.trans (Nat.mod_eq_of_lt ?_), hphase⟩
    exact Nat.lt_of_lt_of_le (Nat.mod_lt _ (Nat.two_pow_pos _)) hn
  case waits =>
    have hcond : ¬(r.held.isEmpty && s.cqRoom r) = true := by
      intro h
      obtain ⟨hempty, hroom⟩ := Bool.and_eq_true_iff.mp h
      exact hwait.elim (fun hne => hne (List.isEmpty_iff.mp hempty)) fun hfull => bne_iff_ne.mp hroom hfull
    rw [hpost, if_neg hcond]
    have hkept (f : Fld) (hf : f.reg = F.RING_STATUS_CQ_WAIT.reg) (hw : 0 < f.w) (hlow : f.lo + f.w ≤ F.RING_STATUS_CQ_WAIT.lo) (u : State) :
        (u.setFld F.RING_STATUS_CQ_WAIT 1 r.key).fld f r.key = u.fld f r.key :=
      State.fld_setFld_beside _ _ _ _ _ hf (by decide) hw (by decide) (.inr hlow)
    refine ⟨rfl, Tab.get?_set_self _ _ _, State.fld_setFld_self _ _ _ _ (by decide) (by decide), ?_, ?_⟩
    · exact hkept F.RING_STATUS_CQ_TAIL rfl (by decide) (by decide) _
    · exact hkept F.RING_STATUS_PHASE rfl (by decide) (by decide) _

end Sys2Proof.Machine
end

/-! ## PROOFS of the family of numbers: policers' buckets, a pass's charges and the vector pipe's float results. -/

section
namespace Sys2Proof.Machine

/-! ### A policer's buckets (R398) -/

/-- Settles O54: the refilled buckets lie between empty and full, and each colour takes what it may. -/
theorem policersNeverOverdraw : Obligations.PolicersNeverOverdraw := by
  unfold Obligations.PolicersNeverOverdraw
  intro p cir pir cbs pbs len t pre ht hc hp hpre r tc tp
  have hdc : 0 ≤ ((t : Int) - p.last) * cir := Int.mul_nonneg (by omega) (by omega)
  have hdp : 0 ≤ ((t : Int) - p.last) * pir := Int.mul_nonneg (by omega) (by omega)
  have htc : 0 ≤ tc ∧ tc ≤ cbs * 8000000 := by omega
  have htp : 0 ≤ tp ∧ tp ≤ pbs * 8000000 := by omega
  have hr : r = if pre = 2 ∨ tp < len * 8000000 then (2, ⟨tc, tp, t⟩)
      else if pre = 1 ∨ tc < len * 8000000 then (1, ⟨tc, tp - len * 8000000, t⟩)
      else (0, ⟨tc - len * 8000000, tp - len * 8000000, t⟩) := by
    simp only [r, tc, tp, police, Nat.cast_mul, Nat.cast_ofNat]
  clear_value r tc tp
  split_ifs at hr with h1 h2 <;> subst hr <;> simp <;> omega

/-! ### The charges of a pass (R188) -/

theorem sumList_eq_sum (l : List Nat) : sumList l = l.sum := (List.sum_eq_foldl).symm

/-- The shares rounded down lie within the whole, which they miss by fewer than there are of them. -/
theorem sum_floor_shares (c m : Nat) (hm : 0 < m) (l : List Nat) :
    m * (l.map fun a => c * a / m).sum ≤ c * l.sum ∧
      c * l.sum + l.length ≤ m * (l.map fun a => c * a / m).sum + m * l.length := by
  induction l with
  | nil => simp
  | cons a l ih =>
    have hd := Nat.div_add_mod (c * a) m
    have hlt := Nat.mod_lt (c * a) hm
    simp only [List.map_cons, List.sum_cons, List.length_cons, Nat.mul_add]
    omega

theorem shareOut_cons (occ a : Nat) (l : List Nat) (h : 0 < (a :: l).sum) :
    shareOut occ (a :: l) = (occ * a / (a :: l).sum + (occ - ((a :: l).map fun x => occ * x / (a :: l).sum).sum)) ::
      l.map fun x => occ * x / (a :: l).sum := by
  simp only [shareOut, sumList_eq_sum, if_neg h.ne', List.map_cons]

/-- Settles O53: the shares rounded down fall short of the occupancy by fewer cycles than there are products. -/
theorem chargesAddUpToThePass : Obligations.ChargesAddUpToThePass := by
  unfold Obligations.ChargesAddUpToThePass
  intro occ ls hpos
  simp only [sumList_eq_sum] at hpos ⊢
  match ls, hpos with
  | a :: l, hpos =>
  obtain ⟨hle, hlt⟩ := sum_floor_shares occ (a :: l).sum hpos (a :: l)
  rw [shareOut_cons occ a l hpos]
  generalize hm : (a :: l).sum = m at hle hlt hpos ⊢
  generalize hp : ((a :: l).map fun x => occ * x / m).sum = p at hle hlt ⊢
  have hpo : p ≤ occ := Nat.le_of_mul_le_mul_left (by rwa [Nat.mul_comm m occ]) hpos
  have hgap : occ < p + (a :: l).length := by
    refine Nat.lt_of_mul_lt_mul_left (a := m) ?_
    rw [Nat.mul_add, Nat.mul_comm m occ]
    simp only [List.length_cons] at hlt ⊢
    omega
  simp only [List.map_cons, List.sum_cons] at hp
  refine ⟨by simp, by simp only [List.sum_cons]; omega, fun i hi hil => ?_, by simp, ?_⟩
  · obtain ⟨j, rfl⟩ := Nat.exists_eq_succ_of_ne_zero hi.ne'
    have hj : j < l.length := by simpa using hil
    simp [List.getD, hj]
  · simp only [List.getD_cons_zero, List.length_cons] at hgap ⊢
    omega

/-! ### Float results (R143, R144, R152) -/

theorem FFmt.decode_nan_iff (f : FFmt) (x : Nat) (he : 0 < f.eb) :
    f.decode x = .nan ↔ x / 2 ^ f.mb % 2 ^ f.eb = 2 ^ f.eb - 1 ∧ x % 2 ^ f.mb ≠ 0 := by
  have hbits : bits x (f.eb + f.mb - 1) f.mb = x / 2 ^ f.mb % 2 ^ f.eb := by
    rw [bits, Nat.shiftRight_eq_div_pow, show f.eb + f.mb - 1 + 1 - f.mb = f.eb by omega]
  simp only [FFmt.decode, hbits]
  split_ifs with h1 h2 h3 <;> simp_all

/-- The sign bit, or 0, over a body that reaches infinity's at most, is not a NaN. -/
theorem FFmt.decode_sign_add_ne_nan (f : FFmt) (neg : Bool) (b : Nat) (he : 0 < f.eb) (hb : b ≤ f.infBits) :
    f.decode ((if neg then f.signBit else 0) + b) ≠ .nan := by
  rw [Ne, f.decode_nan_iff _ he]
  rintro ⟨hexp, hfrac⟩
  have hpos : 0 < 2 ^ f.mb := Nat.two_pow_pos _
  have hsign : (if neg then f.signBit else 0) = 2 ^ f.mb * (2 ^ f.eb * b2n neg) := by
    cases neg <;> simp [b2n, FFmt.signBit, Nat.pow_add, Nat.mul_comm]
  rw [hsign, Nat.mul_add_div hpos, Nat.mul_add_mod] at hexp
  rw [hsign, Nat.mul_add_mod] at hfrac
  have hdiv : b / 2 ^ f.mb ≤ 2 ^ f.eb - 1 := Nat.div_le_of_le_mul (by rwa [Nat.mul_comm])
  have hdm : b / 2 ^ f.mb = 2 ^ f.eb - 1 := by
    rwa [Nat.mod_eq_of_lt (by have := Nat.two_pow_pos f.eb; omega)] at hexp
  have hsplit := Nat.div_add_mod b (2 ^ f.mb)
  rw [hdm, Nat.mul_comm] at hsplit
  unfold FFmt.infBits at hb
  omega

/-- What is rounded is a sign over a body that reaches infinity's at most (R144). -/
theorem FFmt.round_eq (f : FFmt) (neg : Bool) (n d : Nat) :
    ∃ b, b ≤ f.infBits ∧ f.round neg n d = (if neg then f.signBit else 0) + b := by
  unfold FFmt.round
  extract_lets sg k0 below k kmin u q body
  by_cases hn : n = 0
  · exact ⟨0, Nat.zero_le _, if_pos hn⟩
  · by_cases hb : body.toNat ≥ f.infBits
    · exact ⟨f.infBits, le_rfl, by rw [if_neg hn, if_pos hb]⟩
    · exact ⟨body.toNat, by omega, by rw [if_neg hn, if_neg hb]⟩

theorem fconv_eq (src dst : FFmt) (x : Nat) : fconv src dst x = dst.nanBits ∨
    ∃ neg b, b ≤ dst.infBits ∧ fconv src dst x = (if neg = true then dst.signBit else 0) + b := by
  unfold fconv FFmt.roundDyadic
  split
  · exact .inl rfl
  · exact .inr ⟨_, _, le_rfl, rfl⟩
  · next s m e _ => split <;> exact .inr ⟨s, dst.round_eq ..⟩

/-- A conversion's NaN is the canonical one (R143). -/
theorem fconv_nan (src dst : FFmt) (x : Nat) (he : 0 < dst.eb) (h : dst.decode (fconv src dst x) = .nan) :
    fconv src dst x = dst.nanBits := by
  refine (fconv_eq src dst x).resolve_right ?_
  rintro ⟨neg, b, hb, hx⟩
  exact dst.decode_sign_add_ne_nan neg b he hb (hx ▸ h)

theorem fconv_lt (src dst : FFmt) (x w : Nat) (hn : dst.nanBits < w) (hw : dst.signBit + dst.infBits < w) : fconv src dst x < w := by
  rcases fconv_eq src dst x with h | ⟨neg, b, hb, h⟩
  · rwa [h]
  · rw [h]
    split <;> omega

/-- Settles O52: a conversion is a sign over a body below or at infinity's, or the canonical NaN. -/
theorem vectorNansAreCanonical : Obligations.VectorNansAreCanonical := by
  unfold Obligations.VectorNansAreCanonical
  intro x hx
  have h0 : (outFloat 0 x).1 = if fp32.decode x = .nan then nan32 else x := by simp [outFloat, isNan32]
  have h1 : (outFloat 1 x).1 = fconv fp32 fp16 x := rfl
  have h2 : (outFloat 2 x).1 = fconv fp32 bf16 x := rfl
  have hcount : (outFloat 0 x).2.1 = (fp32.decode (outFloat 0 x).1 == .nan) := rfl
  have hcanon : fp32.decode nan32 = .nan := by decide
  rw [hcount, beq_iff_eq, h0, h1, h2]
  refine ⟨?_, fconv_nan fp32 fp16 x (by decide), fconv_nan fp32 bf16 x (by decide), ?_, ?_,
    fconv_lt fp32 fp16 x _ (by decide) (by decide), fconv_lt fp32 bf16 x _ (by decide) (by decide)⟩
  · split <;> simp_all [nan32]
  · split <;> simp_all
  · split <;> simp_all [nan32]

end Sys2Proof.Machine
end

/-! ## PROOFS of the family of completions: the commands of a ring (R108, R109, R113, R136, R369). -/

section
namespace Sys2Proof.Machine

/-! ### Tables -/

/-- A number that no entry has, where one of the numbers asked is free. -/
theorem Tab.lowestFree_spec {α : Type} (t : Tab α) (n k : Nat) :
    (∀ m, Tab.lowestFree t k n = some m → k ≤ m ∧ m < k + n ∧ Tab.has t m = false) ∧
      (Tab.lowestFree t k n = none → ∀ m, k ≤ m → m < k + n → Tab.has t m = true) := by
  induction n generalizing k with
  | zero => simp only [Tab.lowestFree]; exact ⟨by simp, fun _ m _ _ => by omega⟩
  | succ n ih =>
    unfold Tab.lowestFree
    cases hk : Tab.has t k with
    | false =>
      refine ⟨fun m hm => ?_, by simp⟩
      obtain rfl : k = m := by simpa using hm
      exact ⟨le_rfl, by omega, hk⟩
    | true =>
      obtain ⟨hsome, hnone⟩ := ih (k + 1)
      refine ⟨fun m hm => ?_, fun hm m hle hlt => ?_⟩
      · obtain ⟨h1, h2, h3⟩ := hsome m (by simpa using hm)
        exact ⟨by omega, by omega, h3⟩
      · rcases Nat.eq_or_lt_of_le hle with rfl | h
        · exact hk
        · exact hnone (by simpa using hm) m h (by omega)

theorem Tab.modify_of_get? {α : Type} (t : Tab α) (k : Nat) (v : α) (f : α → α) (h : Tab.get? t k = some v) :
    Tab.modify t k f = Tab.set t k (f v) := by simp only [Tab.modify, h]

/-- A pool with a free number gives one, and spends one open choice. -/
theorem State.pickFree_of_free {α : Type} (s : State) (t : Tab α) (total : Nat) (h : ∃ k, k < total ∧ Tab.has t k = false) :
    ∃ k, k < total ∧ Tab.has t k = false ∧ s.pickFree t total = (some k, { s with freeCtr := s.freeCtr + 1 }) := by
  obtain ⟨k, hk, hfree⟩ := h
  have hstart : (s.fresh 32).1 % total < total := Nat.mod_lt _ (by omega)
  unfold State.pickFree
  extract_lets f start
  change start < total at hstart
  split
  · next n hn =>
    obtain ⟨-, hlt, hno⟩ := (Tab.lowestFree_spec t (total - start) start).1 n hn
    exact ⟨n, by omega, hno, rfl⟩
  · next hn =>
    have hup := (Tab.lowestFree_spec t (total - start) start).2 hn
    obtain ⟨hlow, hnone⟩ := Tab.lowestFree_spec t start 0
    cases hl : Tab.lowestFree t 0 start with
    | some n =>
      obtain ⟨-, hlt, hno⟩ := hlow n hl
      exact ⟨n, by omega, hno, rfl⟩
    | none =>
      have hall : Tab.has t k = true := if hks : start ≤ k then hup k hks (by omega) else hnone hl k (Nat.zero_le _) (by omega)
      simp [hall] at hfree

/-! ### The commands of a ring (R108, R109, R113, R136, R369) -/

theorem exec_nop (s : State) (g cid : Nat) (f : Fetched) (h : s.startable g cid 0x00 = some f) :
    exec (.nop g cid) s = .next (s.completeStatus g cid 0) := by
  change Host.Outcome.next (s.nop g cid) = _
  simp only [State.nop, h, stOk]

theorem exec_hcopy_toHost (s u : State) (g cid d : Nat) (f : Fetched) (h : s.startable g cid 0x08 = some f) (hok : hcopyOk f.body = true)
    (hdir : fieldAt f.body 36 1 = 1) (hfree : s.dmaBusy g = false) (hd : d = s.ringDom g)
    (hu : u = s.readHbm d (fieldAt f.body 24 8) (fieldAt f.body 32 4))
    (hread : u.hbmFault d (fieldAt f.body 24 8) (fieldAt f.body 32 4) true = none) :
    exec (.hcopy g cid) s = .next (((u.dmaWrite (u.ringInst g) g d (fieldAt f.body 16 8)
      (u.bytes .hbm d (fieldAt f.body 24 8) (fieldAt f.body 32 4))).count 0x176 (some d)
      (fieldAt f.body 32 4 / 64)).completeStatus g cid 0).limitStacks := by
  change Host.Outcome.next (s.hcopy g cid).limitStacks = _
  subst hu hd
  simp only [State.hcopy, State.hcopyOut, h, hok, hdir, hfree, hread, Bool.not_true, Bool.false_eq_true, if_false, and_false, if_true, stOk]

theorem exec_hcopy_fromHost (s u : State) (g cid : Nat) (f : Fetched) (h : s.startable g cid 0x08 = some f) (hok : hcopyOk f.body = true)
    (hdir : fieldAt f.body 36 1 = 0) (hroom : s.hbmFault (s.ringDom g) (fieldAt f.body 24 8) (fieldAt f.body 32 4) false = none)
    (hread : s.dmaRead (.hcopy g cid) (s.ringInst g) g (fieldAt f.body 16 8) (fieldAt f.body 32 4) = some u) :
    exec (.hcopy g cid) s = .next (u.stageCmd g f .started).limitStacks := by
  change Host.Outcome.next (s.hcopy g cid).limitStacks = _
  simp [State.hcopy, h, hok, hdir, hroom, hread]

theorem exec_cancel_notFound (s : State) (g cid : Nat) (pos : Option Nat) (f : Fetched) (h : s.startable g cid 0x04 = some f)
    (hno : s.cancelTarget g (fieldAt f.body 16 2) = none) (hahead : s.cancelAhead g pos = none) :
    exec (.cancel g ⟨cid, pos⟩) s = .next (s.completeStatus g cid stNotFound) := by
  change Host.Outcome.next (s.cancel g cid pos) = _
  simp only [State.cancel, h, hno, hahead]

theorem exec_cancel_ahead (s u : State) (g cid : Nat) (pos : Option Nat) (f : Fetched) (h : s.startable g cid 0x04 = some f)
    (hno : s.cancelTarget g (fieldAt f.body 16 2) = none) (hahead : s.cancelAhead g pos = some u) :
    exec (.cancel g ⟨cid, pos⟩) s = .next (u.completeStatus g cid 0) := by
  change Host.Outcome.next (s.cancel g cid pos) = _
  simp only [State.cancel, h, hno, hahead, stOk]

/-- A RUN_CHART of the ring that has no run waits for its context, and is cancelled there (R136). -/
theorem exec_cancel_waiting (s : State) (g cid : Nat) (pos : Option Nat) (f x : Fetched) (h : s.startable g cid 0x04 = some f)
    (hx : s.cancelTarget g (fieldAt f.body 16 2) = some x) (hstage : x.stage ≠ .started) (hrun : s.runOf g x.cid = none) :
    exec (.cancel g ⟨cid, pos⟩) s = .next ((s.cancelWaiting g x).completeStatus g cid 0) := by
  have hcancel : s.cancelFetched g x = (s.cancelWaiting g x, stOk) := by
    unfold State.cancelFetched State.cancelRun
    rw [hrun]
    cases hs : x.stage with
    | started => exact absurd hs hstage
    | waiting => rfl
    | waitCtx => rfl
  change Host.Outcome.next (s.cancel g cid pos) = _
  simp only [State.cancel, h, hx, hcancel, stOk]

theorem exec_runChart_ready (s : State) (g cid : Nat) (f : Fetched) (r : Ring) (c : Chart) (h : s.startable g cid 0x01 = some f)
    (hring : Tab.get? s.rings g = some r) (hc : Tab.get? s.charts (fieldAt f.body 16 2) = some c) (hready : c.st = .ready)
    (hdom : c.dom = s.ringDom g) (hcopy : c.lost = false) (hclass : bit c.classMask (r.cls - 1) = true) :
    exec (.runChart g cid) s = .next ((s.stageCmd g f .waitCtx).waitContext
      ⟨.ring g cid, fieldAt f.body 16 2, s.ringDom g, r.cls, none, slice f.body 16 48, f.step⟩) := by
  have hmay : s.runRefusal g r (fieldAt f.body 16 2) = none := by simp [State.runRefusal, hc, hready, hdom, hcopy, hclass]
  change Host.Outcome.next (s.runChart g cid) = _
  simp only [State.runChart, h, hring, hmay]

theorem State.stageCmd_eq (s : State) (g : Nat) (f : Fetched) (st : CmdStage) :
    s.stageCmd g f st = { s with rings := (s.stageCmd g f st).rings } := by
  unfold State.stageCmd
  split <;> rfl

theorem State.charts_stageCmd (s : State) (g : Nat) (f : Fetched) (st : CmdStage) : (s.stageCmd g f st).charts = s.charts := by
  rw [s.stageCmd_eq g f st]

theorem State.charts_count (s : State) (src : Nat) (dom : Option Nat) (n : Nat) : (s.count src dom n).charts = s.charts := rfl

theorem State.charts_atsTouch (s : State) (e inst addr len : Nat) : (s.atsTouch e inst addr len).charts = s.charts := by
  unfold State.atsTouch
  split
  · rfl
  · split
    · exact State.charts_count _ _ _ _
    · rfl

/-- A read of host memory starts on an engine with a free descriptor, and leaves the charts (R372). -/
theorem State.dmaRead_of_free (s : State) (use : DmaUse) (inst n addr len : Nat)
    (h : ∃ e, s.engineFor ucDma 16 n = some e ∧ s.descUsed e < 1024) :
    ∃ u, s.dmaRead use inst n addr len = some u ∧ u.charts = s.charts := by
  obtain ⟨e, he, hfree⟩ := h
  unfold State.dmaRead
  simp only [he, show ¬ 1024 - s.descUsed e = 0 by omega, if_false]
  exact ⟨_, rfl, by simp only [State.charts_atsTouch, State.charts_count]⟩

/-- The entry that a LOAD_CHART takes (R108). -/
def State.loadingEntry (s : State) (g cid : Nat) (f : Fetched) : Chart :=
  { headerOf [] (s.ringDom g) g cid (fieldAt f.body 32 8) with size := fieldAt f.body 24 4 }

theorem exec_loadChart (s : State) (g cid : Nat) (f : Fetched) (h : s.startable g cid 0x02 = some f)
    (hcheck : s.loadCheck (s.ringDom g) f.body = none) (hentry : ∃ k, k < 65536 ∧ Tab.has s.charts k = false)
    (hengine : ∃ e, s.engineFor ucDma 16 g = some e ∧ s.descUsed e < 1024) :
    ∃ (id : Nat) (u : State), id < 65536 ∧ Tab.has s.charts id = false ∧
      exec (.loadChart g cid) s = .next ({ u with charts := Tab.set s.charts id (s.loadingEntry g cid f) }.stageCmd g f .started) := by
  obtain ⟨id, hid, hfree, hpick⟩ := s.pickFree_of_free s.charts 65536 hentry
  obtain ⟨u, hu, hcharts⟩ := ({ s with freeCtr := s.freeCtr + 1 } : State).dmaRead_of_free (.chart id) (s.ringInst g) g (fieldAt f.body 16 8)
    (fieldAt f.body 24 4) hengine
  refine ⟨id, u, hid, hfree, ?_⟩
  change Host.Outcome.next (s.loadChart g cid) = _
  have hring : ({ s with freeCtr := s.freeCtr + 1 } : State).ringInst g = s.ringInst g := rfl
  simp only [State.loadChart, h, hcheck, hpick, hring, hu, hcharts, State.loadingEntry]

theorem exec_unloadChart (s : State) (g cid : Nat) (f : Fetched) (c : Chart) (h : s.startable g cid 0x03 = some f)
    (hc : Tab.get? s.charts (fieldAt f.body 16 2) = some c) (hready : c.st = .ready) (hdom : c.dom = s.ringDom g) (hruns : c.runs = 0) :
    exec (.unloadChart g cid) s =
      .next ({ s with charts := Tab.del s.charts (fieldAt f.body 16 2) }.completeStatus g cid 0) := by
  change Host.Outcome.next (s.unloadChart g cid) = _
  simp [State.unloadChart, h, hc, hready, hdom, hruns, stOk]

/-- Settles O8: each command's operation with its guards met. -/
theorem ringCommandsComplete : Obligations.RingCommandsComplete := by
  unfold Obligations.RingCommandsComplete
  refine ⟨exec_nop, fun s g cid f h hok hdir hfree => exec_hcopy_toHost s _ g cid _ f h hok hdir hfree rfl rfl,
    exec_hcopy_fromHost, fun s g cid pos f h hno => ⟨exec_cancel_notFound s g cid pos f h hno, fun u => exec_cancel_ahead s u g cid pos f h hno⟩,
    exec_cancel_waiting, ?_, ?_, exec_unloadChart⟩
  · intro s g cid f r c h hring hc hready hdom hcopy hclass
    refine ⟨_, exec_runChart_ready s g cid f r c h hring hc hready hdom hcopy hclass, ?_, ?_, rfl, ?_⟩
    · simp only [State.waitContext]
      rw [s.stageCmd_eq g f .waitCtx]
    · simp only [State.waitContext, State.charts_stageCmd]
      rw [Tab.modify_of_get? _ _ _ _ hc]
    · simp only [State.waitContext]
      rw [s.stageCmd_eq g f .waitCtx]
  · intro s g cid f h hcheck hentry hengine
    obtain ⟨id, u, hid, hfree, hexec⟩ := exec_loadChart s g cid f h hcheck hentry hengine
    refine ⟨id, _, s.loadingEntry g cid f, hexec, hid, hfree, ?_, rfl, rfl, rfl, rfl, rfl, rfl⟩
    rw [State.charts_stageCmd, Tab.get?_set_self]

end Sys2Proof.Machine
end

/-! ## PROOFS of the family of completions: fetch and host transfers (R363 to R374, R559, R603). -/

section
namespace Sys2Proof.Machine

theorem State.fld_addFld_self (s : State) (f : Fld) (n i : Nat) (hw : 0 < f.w) (h : f.lo + f.w ≤ 64) :
    (s.addFld f n i).fld f i = (s.fld f i + n) % 2 ^ f.w := State.fld_setFld_self s f _ i hw h

theorem State.fld_raise_self (s : State) (f : Fld) (i : Nat) (hw : 0 < f.w) (h : f.lo + f.w ≤ 64) : (s.raise f i).fld f i = 1 := by
  rw [State.raise, State.fld_setFld_self s f 1 i hw h]
  exact Nat.mod_eq_of_lt (Nat.one_lt_two_pow hw.ne')

/-! ### RING_FETCH (R363, R364, R367) -/

/-- The fetched command of an entry. -/
def State.entryOf (s : State) (r : Ring) (b : List Byte) : Fetched :=
  ⟨fieldAt b 2 2, fieldAt b 0 1, fieldAt b 1 1, fieldAt b 8 8, b, .waiting, s.now, 0, r.arrivals.headD s.tai16⟩

/-- An entry that passes the checks of a ring that neither reckons nor cancels it is appended, and SQ_HEAD moves on. -/
theorem State.takeEntry_passed (s : State) (g : Nat) (r : Ring) (b : List Byte) (hpass : fetchCheck b r.cls = none)
    (hreckon : r.reckons = false) (hcancel : r.cancels.contains 0 = false) :
    ∃ q, Tab.get? (s.takeEntry g r b).rings g = some q ∧ q.fetched = r.fetched ++ [s.entryOf r b] ∧
      (s.takeEntry g r b).fld F.RING_STATUS_SQ_HEAD r.key =
        (s.fld F.RING_STATUS_SQ_HEAD r.key + 1) % 2 ^ s.fld F.RING_CFG_SQ_LOG2 r.key % 2 ^ F.RING_STATUS_SQ_HEAD.w := by
  unfold State.takeEntry
  extract_lets n s1 s2 p s3 f later s4
  have hstep : p = (0, s2) := by simp only [p, State.takeStep, hreckon, Bool.false_and, Bool.false_eq_true, if_false]
  have hsame : s2.now = s.now ∧ s2.tai = s.tai ∧
      s2.fld F.RING_STATUS_SQ_HEAD r.key = s1.fld F.RING_STATUS_SQ_HEAD r.key := by
    simp only [s2]
    split
    · exact ⟨rfl, rfl, rfl⟩
    · exact ⟨rfl, rfl, State.fld_count _ _ _ _ _ _⟩
  obtain ⟨hnow, htai, hhead⟩ := hsame
  have hend : (if (r.cancels.contains 0 && f.opcode == 0x01 && (fetchCheck b r.cls).isNone) = true then s4.completeNoRun g f.cid stCancelled 0 false
      else s4.fetchChecked g r b) = s4 := by
    simp only [hcancel, Bool.false_and, Bool.false_eq_true, if_false, State.fetchChecked, hpass]
  rw [hend]
  refine ⟨_, Tab.get?_set_self _ _ _, ?_, ?_⟩
  · simp only [f, s3, hstep, State.entryOf, State.tai16, hnow, htai]
  · simp only [s4, s3, hstep, State.fld_withRings, hhead, s1, n]
    exact State.fld_setFld_self _ F.RING_STATUS_SQ_HEAD _ _ (by decide) (by decide)

theorem exec_ringFetch_data (s : State) (g : Nat) (r : Ring) (b : List Byte) (hr : Tab.get? s.rings g = some r) (hmay : s.mayFetch r = true) :
    exec (.ringFetch g (.data b)) s = .next (s.takeEntry g r (pad64 b)) := by
  change Host.Outcome.next (s.ringFetch g (.data b)) = _
  simp only [State.ringFetch, hr, hmay, if_true]

theorem exec_ringFetch_timeout (s : State) (g : Nat) (r : Ring) (hr : Tab.get? s.rings g = some r) (hmay : s.mayFetch r = true) :
    exec (.ringFetch g .timeout) s = .next (s.ringFails g r 1) := by
  change Host.Outcome.next (s.ringFetch g .timeout) = _
  simp only [State.ringFetch, hr, hmay, if_true]

theorem exec_ringFetch_denied (s : State) (g : Nat) (r : Ring) (why : List Byte) (hr : Tab.get? s.rings g = some r)
    (hmay : s.mayFetch r = true) : exec (.ringFetch g (.denied why)) s = .next (s.ringFails g r 2) := by
  change Host.Outcome.next (s.ringFetch g (.denied why)) = _
  simp only [State.ringFetch, hr, hmay, if_true]

theorem exec_ringServicePass (s : State) (g : Nat) (r : Ring) (hr : Tab.get? s.rings g = some r)
    (hstate : s.ringState r = ringEnabled ∨ s.ringState r = ringQuiescing) (hdue : s.overdue g = false) :
    exec (.ringServicePass g) s = .next (s.addFld F.RING_HEARTBEAT_HEARTBEAT 1 r.key) := by
  change Host.Outcome.next (s.servicePass g) = _
  simp only [State.servicePass, hr, hstate, hdue, and_self, if_true]

/-! ### Host reads (R373, R374) -/

theorem exec_dmaCompletion_last (s : State) (k : Nat) (j : DmaJob) (b : List Byte) (hj : Tab.get? s.dma k = some j) (hopen : j.landed = false)
    (hwell : j.failed = none) (hout : s.readsOut k j ≠ 0) (hlen : b.length + j.data.length = j.len) : exec (.dmaCompletion k (.data b)) s =
      .next ((s.count (0xC03 + 8 * j.engine) none (j.len / 64 - j.data.length / 64)).dmaDone k j (j.data ++ b)) := by
  have hall : (j.data ++ b).take j.len = j.data ++ b := List.take_of_length_le (by simp; omega)
  have hfull : (j.data ++ b).length = j.len := by simp; omega
  change Host.Outcome.next (s.dmaCompletion k (.data b)) = _
  simp only [State.dmaCompletion, hj, hopen, hwell, Option.isSome_none, Bool.or_self, Bool.false_eq_true, if_false, hout, hall, hfull, if_true]

theorem exec_dmaCompletion_late (s : State) (k : Nat) (h : HostRead) (hj : Tab.get? s.dma k = none) :
    exec (.dmaCompletion k h) s = .next (s.lateCpl k) := by
  change Host.Outcome.next (s.dmaCompletion k h) = _
  simp only [State.dmaCompletion, hj]

theorem State.fld_lateCpl (s : State) (k : Nat) : (s.lateCpl k).fld F.PCI_ERR_STATUS_LATE_CPL = 1 ∧
    (s.lateCpl k).fld F.PCI_LATE_LATE_CPL = (s.fld F.PCI_LATE_LATE_CPL + 1) % 2 ^ F.PCI_LATE_LATE_CPL.w := by
  unfold State.lateCpl
  extract_lets q left s1 s2
  have hsame : s2.fld F.PCI_LATE_LATE_CPL = s.fld F.PCI_LATE_LATE_CPL := by
    clear_value q
    cases q with
    | some q => exact State.fld_count _ _ _ _ _ _
    | none => rfl
  clear_value s2
  refine ⟨State.fld_raise_self _ _ _ (by decide) (by decide), ?_⟩
  rw [State.raise, State.fld_setFld_ne _ F.PCI_ERR_STATUS_LATE_CPL F.PCI_LATE_LATE_CPL 1 0 0 (by decide),
    State.fld_addFld_self _ F.PCI_LATE_LATE_CPL 1 0 (by decide) (by decide), hsame]

theorem exec_dmaTimeout (s u t : State) (k lim : Nat) (j : DmaJob) (q : Quarantine) (hj : Tab.get? s.dma k = some j) (hout : s.readsOut k j ≠ 0)
    (hlim : lim = s.fld F.PCI_DMA_CTRL_CPL_TIMEOUT_US * usec) (hu : u = s.advanceTo (j.startAt + lim))
    (hq : q = ⟨k, j.engine, (u.route j.inst).1, s.readsOut k j, false, u.now + 4 * lim⟩)
    (ht : t = (({ u with quar := u.quar ++ [q] }).addFld F.PCI_LATE_TIMEOUTS 1).count (0xC04 + 8 * j.engine) none 1) :
    exec (.dmaTimeout k) s = .next ((t.dmaNote causeDmaTimeout (t.jobDom j)).dmaFailed k j causeDmaTimeout) := by
  change Host.Outcome.next (s.dmaTimeout k) = _
  subst ht hq hu hlim
  simp only [State.dmaTimeout, hj, hout, if_false]

theorem exec_loadChartChecks (s : State) (id : Nat) (c : Chart) (hc : Tab.get? s.charts id = some c) (hst : c.st = .loading)
    (hlanded : (s.dma.any fun j => decide (j.2.use = .chart id) && j.2.landed) = true) :
    exec (.loadChartChecks id) s = .next ((s.readHbm c.dom c.hbmOff c.size).loadWeights id c).limitStacks := by
  change Host.Outcome.next (s.loadChecks id).limitStacks = _
  simp only [State.loadChecks, hc, hst, hlanded, and_self, if_true]

/-- Settles O9: each operation with its guards met. -/
theorem fetchAndHostTransfersComplete : Obligations.FetchAndHostTransfersComplete := by
  unfold Obligations.FetchAndHostTransfersComplete
  refine ⟨?_, fun s g r why hr hmay => ⟨exec_ringFetch_timeout s g r hr hmay, exec_ringFetch_denied s g r why hr hmay⟩, ?_,
    exec_dmaCompletion_last, fun s k h hj => ⟨_, exec_dmaCompletion_late s k h hj, s.fld_lateCpl k⟩, ?_, exec_loadChartChecks⟩
  · intro s g r b hr hmay hpass hreckon hcancel
    obtain ⟨q, hq, hfetched, hhead⟩ := s.takeEntry_passed g r (pad64 b) hpass hreckon hcancel
    exact ⟨_, q, exec_ringFetch_data s g r b hr hmay, hq, hfetched, hhead⟩
  · intro s g r hr hstate hdue
    exact ⟨_, exec_ringServicePass s g r hr hstate hdue, rfl, State.fld_addFld_self s _ 1 _ (by decide) (by decide)⟩
  · intro s k j hj hout lim u q t
    exact exec_dmaTimeout s u t k lim j q hj hout rfl rfl rfl rfl

end Sys2Proof.Machine
end

/-! ## PROOFS of the family of completions: runs and their transfers (R112 to R134, R295, R445, R455), and what the errors of a read change. -/

section
namespace Sys2Proof.Machine

/-! ### What the errors of a read change (R297) -/

/-- One state is another with errors met and accesses counted: registers, event counters, health and scrub records, and the blocks that
are in error, poisoned or to be rewritten. -/
def OnlyErrors (s t : State) : Prop :=
  t = { s with
    regs := t.regs, evcs := t.evcs, hcounts := t.hcounts, scrub := t.scrub, rewrites := t.rewrites, poison := t.poison, latent := t.latent }

theorem OnlyErrors.refl (s : State) : OnlyErrors s s := rfl

theorem OnlyErrors.trans {s t u : State} (h : OnlyErrors s t) (k : OnlyErrors t u) : OnlyErrors s u := by
  unfold OnlyErrors at h k ⊢
  calc u = _ := k
    _ = _ := by rw [h]

theorem OnlyErrors.charts {s t : State} (h : OnlyErrors s t) : t.charts = s.charts := by
  unfold OnlyErrors at h
  rw [h]

theorem OnlyErrors.runs {s t : State} (h : OnlyErrors s t) : t.runs = s.runs := by
  unfold OnlyErrors at h
  rw [h]

theorem OnlyErrors.mem {s t : State} (h : OnlyErrors s t) : t.mem = s.mem := by
  unfold OnlyErrors at h
  rw [h]

theorem OnlyErrors.cells {s t : State} (h : OnlyErrors s t) : t.cells = s.cells := by
  unfold OnlyErrors at h
  rw [h]

theorem OnlyErrors.count (s : State) (src : Nat) (dom : Option Nat) (n : Nat) : OnlyErrors s (s.count src dom n) := rfl

theorem OnlyErrors.setFld (s : State) (f : Fld) (n i : Nat) : OnlyErrors s (s.setFld f n i) := rfl

theorem OnlyErrors.health (s : State) (part input n : Nat) : OnlyErrors s (s.health part input n) := rfl

theorem OnlyErrors.foldl {α : Type} (f : State → α → State) (hf : ∀ u x, OnlyErrors u (f u x)) (l : List α) (s : State) :
    OnlyErrors s (l.foldl f s) := by
  induction l generalizing s with
  | nil => exact .refl s
  | cons x l ih => exact (hf s x).trans (ih (f s x))

theorem State.onlyErrors_hbmUsed (s : State) (d off n : Nat) (rd : Bool) : OnlyErrors s (s.hbmUsed d off n rd) := by
  unfold State.hbmUsed
  split
  · exact .refl s
  · refine .foldl _ (fun u k => ?_) _ s
    split
    · exact .refl u
    · extract_lets w src v
      have hv : OnlyErrors u v := ((OnlyErrors.count _ _ _ _).trans (.count _ _ _ _)).trans (.count _ _ _ _)
      clear_value v
      split
      · exact hv.trans (.count _ _ _ _)
      · exact hv

theorem State.onlyErrors_blockPoisoned (s : State) (b : Nat) : OnlyErrors s (s.blockPoisoned b) := by
  unfold State.blockPoisoned
  split
  · exact .refl s
  · extract_lets k s1 s2 own
    have h1 : OnlyErrors s s1 := ((OnlyErrors.setFld _ _ _ _).trans (.count _ _ _ _)).trans (.health _ _ _ _)
    have h2 : OnlyErrors s s2 := h1.trans (.setFld _ _ _ _)
    clear_value s2
    exact h2.trans rfl

theorem State.onlyErrors_blockCorrected (s : State) (b : Nat) : OnlyErrors s (s.blockCorrected b) := by
  unfold State.blockCorrected
  extract_lets k pc s1 sc s2
  have h1 : OnlyErrors s s1 := ((OnlyErrors.setFld _ _ _ _).trans (.count _ _ _ _)).trans (.health _ _ _ _)
  clear_value s1
  have h2 : OnlyErrors s s2 := h1.trans rfl
  clear_value s2
  split
  · exact h2
  · extract_lets s4
    have h4 : OnlyErrors s s4 := h2.trans (.count _ _ _ _)
    clear_value s4
    exact h4.trans rfl

theorem State.onlyErrors_meetBlocks (s : State) (p : Nat → Bool) : OnlyErrors s (s.meetBlocks p) := by
  unfold State.meetBlocks
  extract_lets hit
  split
  · exact .refl s
  · have hlatent : OnlyErrors s { s with latent := s.latent.filter fun e => !p e.1 } := rfl
    refine hlatent.trans (.foldl _ (fun u e => ?_) _ _)
    split
    · exact u.onlyErrors_blockPoisoned _
    · exact u.onlyErrors_blockCorrected _

theorem State.onlyErrors_meetErrors (s : State) (d off n : Nat) : OnlyErrors s (s.meetErrors d off n) := s.onlyErrors_meetBlocks _

theorem State.onlyErrors_readHbm (s : State) (d off n : Nat) : OnlyErrors s (s.readHbm d off n) :=
  (s.onlyErrors_meetErrors d off n).trans (State.onlyErrors_hbmUsed _ d off n true)

/-- A read that brings no new error meets those that had come about before. -/
theorem State.eccRead_nil (s : State) (d off n : Nat) : s.eccRead d off n [] [] = s.readHbm d off n := by
  have hnone : s.errorsIn d [] [] = s := by
    simp only [State.errorsIn, List.filterMap_nil, List.map_nil, List.append_nil]
  rw [State.eccRead, hnone]

/-! ### Runs -/

theorem exec_runStart (s : State) (w : CtxWaiter) (c : Chart) (hw : s.nextWaiter = some w) (hc : Tab.get? s.charts w.chart = some c)
    (hfree : ∃ k, k < 1024 ∧ Tab.has s.runs k = false) : ∃ r, r < 1024 ∧ Tab.has s.runs r = false ∧
      let u := { s with freeCtr := s.freeCtr + 1 }
      exec .runStart s = .next ((((({ u with ctxWait := s.ctxWait.erase w }.ownerStarted w.owner).setRun r (u.newRun w c)).countHelm 13
        1).noteOverlap r (u.newRun w c)).startCheck r (u.newRun w c) c) := by
  obtain ⟨r, hr, hno, hpick⟩ := s.pickFree_of_free s.runs 1024 hfree
  refine ⟨r, hr, hno, ?_⟩
  change Host.Outcome.next s.runStart = _
  simp only [State.runStart, hw, hc, hpick]

theorem exec_commandDispatch (s : State) (r : Nat) (x : Run) (c : Chart) (k : PKind) (hx : Tab.get? s.runs r = some x)
    (hc : Tab.get? s.charts x.chart = some c) (hmay : x.mayDispatch c = true) (hk : s.chartKind c x.next = some k)
    (hwell : x.meetsFaulted k = false) : exec (.commandDispatch r) s = .next (s.dispatchKind r x k) := by
  change Host.Outcome.next (s.dispatchNext r) = _
  simp only [State.dispatchNext, hx, hc, hmay, hk, hwell, if_true, Bool.false_eq_true, if_false]

theorem State.dispatchKind_done (s : State) (r : Nat) (x : Run) (h : x.cmds = []) :
    s.dispatchKind r x .done = s.setRun r { x.pass with endPassed := true } := by
  simp only [State.dispatchKind, h, if_true]

theorem State.dispatchKind_xfer (s : State) (r : Nat) (x : Run) (t : Xfer) (hfree : (PKind.xfer t).writeTags.all x.writeOk = true) :
    s.dispatchKind r x (.xfer t) = ((s.setRun r (x.dispatch x.next (.xfer t) s.now)).tagFaults r).noteReady := by
  have heng : ((PKind.xfer t).isArray || (PKind.xfer t).isVector) = false := rfl
  simp only [State.dispatchKind, State.dispatchCmd, heng, hfree, Bool.not_false, Bool.true_or, Bool.and_self, if_true, Bool.false_eq_true, if_false]

/-- A command of the array or the vector pipe goes on to its dispatch. -/
theorem State.dispatchKind_engine (s : State) (r : Nat) (x : Run) (k : PKind) (heng : (k.isArray || k.isVector) = true) :
    s.dispatchKind r x k = s.dispatchCmd r x.next x k := by
  cases k with
  | release t => cases heng
  | barrier => cases heng
  | done => cases heng
  | _ => rfl

theorem State.dispatchCmd_engine (s : State) (r i : Nat) (x : Run) (k : PKind) (heng : (k.isArray || k.isVector) = true)
    (hfree : k.writeTags.all x.writeOk = true) (hroom : s.windowRoom x = true) :
    s.dispatchCmd r i x k = (({ s.setRun r (x.dispatch i k s.now) with
        helm := { s.helm with window := s.helm.window ++ [(⟨r, i, x.cls, k.isVector, none⟩ : WinEntry)] } }.tagFaults r).noteReady) := by
  simp only [State.dispatchCmd, heng, hfree, hroom, Bool.or_true, Bool.and_self, if_true]
  rfl

theorem exec_transferStart_hbm (s : State) (r i off : Nat) (x : Run) (t : Xfer) (h : s.xferOf r i = some (x, t)) (hrun : x.stopped = false)
    (hwait : x.unstarted.contains i = true) (htags : x.tagsReady (.xfer t) = true) (hhere : s.windowsHere x.dom = true)
    (hheld : s.lsHeld x t = false) (hend : s.xferEnd x t = .hbm off) : exec (.transferStart r i) s = .next (s.xferStarted r i) := by
  change Host.Outcome.next (s.xferStart r i) = _
  simp only [State.xferStart, h, hrun, hwait, htags, hhere, hheld, Bool.not_false, Bool.and_self, if_true, State.xferBegin, hend]

theorem Cell.cfgAt_blank (st : CellState) (n : Nat) : (Cell.blank st).cfgAt n = none := rfl

/-- The cells' configurations are those of the cells alone. -/
theorem State.cfgAt_cell (s t : State) (h : t.cells = s.cells) (c n : Nat) : (t.cell c).cfgAt n = (s.cell c).cfgAt n := by
  unfold State.cell
  rw [h]
  split
  · rfl
  · rw [Cell.cfgAt_blank, Cell.cfgAt_blank]

theorem State.byte_of_mem (s t : State) (h : t.mem = s.mem) : t.byte = s.byte := by
  funext spc d off
  simp only [State.byte, h]

/-- What a run's transfer asks of the state: its charts, cells, runs and memory. -/
theorem State.phaseArea_of_eq (s t : State) (h : t.cells = s.cells) (x : Run) : t.phaseArea x = s.phaseArea x := by
  unfold State.phaseArea
  split
  · rfl
  · rw [State.cfgAt_cell s t h]

section
variable (s t : State) (hcharts : t.charts = s.charts) (hmem : t.mem = s.mem)
include hcharts hmem

theorem State.xferWdesc_of_eq (x : Run) (f : Xfer) : t.xferWdesc x f = s.xferWdesc x f := by
  simp only [State.xferWdesc, State.chartWdesc, State.chartBytes, State.bytes, s.byte_of_mem t hmem, hcharts]

theorem State.xferOf_of_eq (hruns : t.runs = s.runs) (r i : Nat) : t.xferOf r i = s.xferOf r i := by
  simp only [State.xferOf, State.runCmd, State.chartKind, State.chartCmd, State.chartBytes, State.bytes, s.byte_of_mem t hmem, hcharts, hruns]

theorem State.xferEnd_of_eq (hcells : t.cells = s.cells) (x : Run) (f : Xfer) : t.xferEnd x f = s.xferEnd x f := by
  simp only [State.xferEnd, State.extBase, State.phaseArea_of_eq s t hcells, State.xferWdesc_of_eq s t hcharts hmem, hcharts]

theorem State.xferLen_of_eq (x : Run) (f : Xfer) : t.xferLen x f = s.xferLen x f := by
  simp only [State.xferLen, State.xferWdesc_of_eq s t hcharts hmem]

end

theorem State.areaFault_of_eq (s t : State) (hcells : t.cells = s.cells) (x : Run) (f : Xfer) : t.areaFault x f = s.areaFault x f := by
  simp only [State.areaFault, State.phaseArea_of_eq s t hcells]

theorem exec_transferComplete_store (s : State) (r i off : Nat) (x : Run) (t : Xfer) (h : s.xferOf r i = some (x, t))
    (hstart : x.started i = true) (hend : s.xferEnd x t = .hbm off) (harea : s.areaFault x t = false) (hop : t.op = 0x21)
    (hfault : s.hbmFault x.dom off (s.xferLen x t) false = none) : exec (.transferComplete r i [] []) s =
      .next ((((s.storeData x.dom off (s.localBytes x t (s.xferLen x t))).spoilPages x.dom off (s.xferLen x t)).endCmd r i true).limitStacks) := by
  have hbegin : s.xferComplete r i = s.xferHbm r i x t off := by simp only [State.xferComplete, h, hstart, hend, if_true]
  have hrun : s.xferHbm r i x t off =
      ((s.storeData x.dom off (s.localBytes x t (s.xferLen x t))).spoilPages x.dom off (s.xferLen x t)).endCmd r i true := by
    simp [State.xferHbm, harea, hop, hfault]
  change Host.Outcome.next (s.xferCompleteEcc r i [] []) = _
  simp only [State.xferCompleteEcc, h, hend, hop, bne_self_eq_false, Bool.and_false, Bool.false_eq_true, if_false, hbegin, hrun]

theorem exec_transferComplete_load (s u : State) (r i off : Nat) (x : Run) (t : Xfer) (h : s.xferOf r i = some (x, t))
    (hstart : x.started i = true) (hend : s.xferEnd x t = .hbm off) (harea : s.areaFault x t = false) (hop : t.op ≠ 0x21)
    (hu : u = s.readHbm x.dom off (s.xferLen x t)) (hfault : u.hbmFault x.dom off (s.xferLen x t) true = none) :
    exec (.transferComplete r i [] []) s = .next ((u.xferLand r i x t (u.bytes .hbm x.dom off (s.xferLen x t))).limitStacks) := by
  have hread : OnlyErrors s u := hu ▸ s.onlyErrors_readHbm _ _ _
  have hcharts : u.charts = s.charts := hread.charts
  have hcells : u.cells = s.cells := hread.cells
  have hmem : u.mem = s.mem := hread.mem
  have hruns : u.runs = s.runs := hread.runs
  have hbegin : u.xferComplete r i = u.xferHbm r i x t off := by
    simp only [State.xferComplete, State.xferOf_of_eq s u hcharts hmem hruns, h, hstart, State.xferEnd_of_eq s u hcharts hmem hcells, hend,
      if_true]
  have hrun : u.xferHbm r i x t off = u.xferLand r i x t (u.bytes .hbm x.dom off (s.xferLen x t)) := by
    simp [State.xferHbm, State.areaFault_of_eq s u hcells, State.xferLen_of_eq s u hcharts hmem, harea, hop, hfault]
  have hecc : s.eccRead x.dom off (s.xferLen x t) [] [] = u := by rw [State.eccRead_nil, hu]
  have hnot : (t.op != 0x21) = true := by simpa using hop
  change Host.Outcome.next (s.xferCompleteEcc r i [] []) = _
  simp only [State.xferCompleteEcc, h, hend, hstart, hnot, Bool.and_self, if_true, hecc, hbegin, hrun]

/-- The bytes that a capture takes for a transfer (R455). -/
def State.captureLen (s : State) (x : Run) (k : PKind) : Nat :=
  match k with
  | .xfer t => s.xferLen x t
  | _ => 0

theorem exec_haltCapture (s : State) (r h : Nat) (x : Run) (c : Chart) (k : PKind) (hx : Tab.get? s.runs r = some x)
    (howed : x.captureOwed = some h) (hc : Tab.get? s.charts x.chart = some c) (hk : s.chartKind c h = some k) :
    exec (.haltCapture r true) s = .next ((s.dmaWrite (s.runInst x) r x.dom (x.args.getD c.nargs 0)
      (s.captureBytes x k (s.captureLen x k))).setRun r { x with captured := true }) := by
  change Host.Outcome.next (s.haltCapture r true) = _
  unfold State.haltCapture
  rw [hx]
  dsimp only
  rw [howed, hc]
  dsimp only
  rw [hk]
  rfl

theorem exec_waypointPost (s : State) (r g cid : Nat) (x : Run) (w : Waypoint) (c : Chart) (f : Fetched) (hx : Tab.get? s.runs r = some x)
    (hw : minBy (fun w : Waypoint => [w.idx]) x.waypoints = some w) (hc : Tab.get? s.charts x.chart = some c)
    (hready : s.wayState x c w = .ready) (howner : x.owner = .ring g cid) (hf : s.fetched? g cid = some f) :
    exec (.waypointPost r) s = .next ((s.setRun r { x with waypoints := x.waypoints.erase w }).postEntry g (s.waypointEntry x c w f)
      (bit f.flags 1)) := by
  change Host.Outcome.next (s.waypointPost r) = _
  simp only [State.waypointPost, hx, hw, hc, hready, howner, hf]

theorem exec_runComplete (s : State) (r : Nat) (x : Run) (hx : Tab.get? s.runs r = some x) (hover : x.over = true)
    (hheld : s.arrHolds r = false) (hok : x.final.1 = 0) : exec (.runComplete r) s = .next (((s.countHelm 14 1).postRun x).leaveRun r) := by
  change Host.Outcome.next (s.runComplete r) = _
  simp only [State.runComplete, hx, hover, hheld, hok, Bool.not_false, Bool.and_self, if_true, stOk, ge_iff_le, Nat.le_zero, OfNat.ofNat_ne_zero,
    if_false]

/-- Settles O10: each operation with its guards met. -/
theorem runsComplete : Obligations.RunsComplete := by
  unfold Obligations.RunsComplete
  refine ⟨exec_runStart, ?_, exec_transferStart_hbm, ?_, ?_, exec_waypointPost, exec_runComplete⟩
  · intro s r x c hx hc hmay
    refine ⟨fun hk hcmds => ?_, fun t hk hwell hfree => ?_, fun k hk heng hwell hfree hroom => ?_⟩
    · rw [exec_commandDispatch s r x c .done hx hc hmay hk rfl, s.dispatchKind_done r x hcmds]
    · rw [exec_commandDispatch s r x c _ hx hc hmay hk hwell, s.dispatchKind_xfer r x t hfree]
    · rw [exec_commandDispatch s r x c k hx hc hmay hk hwell, s.dispatchKind_engine r x k heng, s.dispatchCmd_engine r _ x k heng hfree hroom]
  · intro s r i off x t h hstart hend harea n
    exact ⟨exec_transferComplete_store s r i off x t h hstart hend harea, fun u => exec_transferComplete_load s u r i off x t h hstart hend harea⟩
  · intro s r h x c k hx howed hc hk
    rw [exec_haltCapture s r h x c k hx howed hc hk]
    cases k <;> rfl

end Sys2Proof.Machine
end

/-! ## PROOFS of the family of completions: the array's commands (R84, R86, R98, R130, R133, R174). -/

section
namespace Sys2Proof.Machine

/-! ### What a pass's boundary changes beside the array -/

/-- One state is another with changes in the Helm's unit, the runs and the registers alone. -/
def OnlyHelm (s t : State) : Prop := t = { s with helm := t.helm, runs := t.runs, regs := t.regs }

theorem OnlyHelm.refl (s : State) : OnlyHelm s s := rfl

theorem OnlyHelm.trans {s t u : State} (h : OnlyHelm s t) (k : OnlyHelm t u) : OnlyHelm s u := by
  unfold OnlyHelm at h k ⊢
  calc u = _ := k
    _ = _ := by rw [h]

theorem OnlyHelm.arr {s t : State} (h : OnlyHelm s t) : t.arr = s.arr := by
  unfold OnlyHelm at h
  rw [h]

theorem OnlyHelm.now {s t : State} (h : OnlyHelm s t) : t.now = s.now := by
  unfold OnlyHelm at h
  rw [h]

theorem OnlyHelm.foldl {α : Type} (f : State → α → State) (hf : ∀ u x, OnlyHelm u (f u x)) (l : List α) (s : State) :
    OnlyHelm s (l.foldl f s) := by
  induction l generalizing s with
  | nil => exact .refl s
  | cons x l ih => exact (hf s x).trans (ih (f s x))

theorem OnlyHelm.setFld (s : State) (f : Fld) (n i : Nat) : OnlyHelm s (s.setFld f n i) := rfl

theorem State.onlyHelm_setVt (s : State) (vector : Bool) (v : VTime) : OnlyHelm s (s.setVt vector v) := rfl

theorem State.onlyHelm_setVtAt (s : State) (vector : Bool) (k : Nat) (v : VTime) : OnlyHelm s (s.setVtAt vector k v) := by
  unfold State.setVtAt
  split <;> rfl

theorem State.onlyHelm_boundaryVt (s : State) (r i charge : Nat) (vector again : Bool) :
    OnlyHelm s (s.boundaryVt r i charge vector again) := by
  unfold State.boundaryVt
  split
  · exact .refl s
  · split
    · exact s.onlyHelm_setVtAt _ _ _
    · split
      · exact s.onlyHelm_setVt _ _
      · exact .refl s

theorem State.onlyHelm_payGate (s : State) (vector : Bool) (row occ : Nat) : OnlyHelm s (s.payGate vector row occ) := by
  unfold State.payGate
  split
  · exact .refl s
  · split
    · rfl
    · split
      · exact .setFld _ _ _ _
      · exact .setFld _ _ _ _

theorem State.onlyHelm_reissue (s : State) (a : ArrCmd) : OnlyHelm s (s.reissue a) := by
  unfold State.reissue
  split <;> rfl

theorem State.onlyHelm_noteEntry (s : State) (e : WinEntry) : OnlyHelm s (s.noteEntry e).1 := by
  unfold State.noteEntry
  split
  · split
    · exact .refl s
    · dsimp only
      split
      · exact s.onlyHelm_setVtAt _ _ _
      · split
        · exact s.onlyHelm_setVt _ _
        · exact .refl s
  · split <;> exact .refl s

theorem State.onlyHelm_noteEntries (l : List WinEntry) (p : State × List WinEntry) :
    OnlyHelm p.1 (l.foldl (fun a e => let q := a.1.noteEntry e; (q.1, a.2 ++ [q.2])) p).1 := by
  induction l generalizing p with
  | nil => exact .refl _
  | cons e l ih => exact (p.1.onlyHelm_noteEntry e).trans (ih _)

theorem State.onlyHelm_noteReady (s : State) : OnlyHelm s s.noteReady := by
  have hclear : OnlyHelm s s.clearHeads := rfl
  unfold State.noteReady
  extract_lets u p
  have hnoted : OnlyHelm u p.1 := State.onlyHelm_noteEntries _ (u, [])
  clear_value p
  exact (hclear.trans hnoted).trans rfl

/-! ### The array's pass (R84, R86, R130, R174) -/

theorem exec_arrayGrant (s v u : State) (w : WinEntry) (row : Nat) (k : PKind) (hidle : s.arr.cur = [])
    (hv : v = s.advanceTo (s.decisionTime false)) (hu : u = v.noSlate false (v.candidates false v.now))
    (hwin : u.decide_ u.arrayCandidates = some (w, row)) (hk : u.entryCmd w = some k) (hon : u.mapIn.offline = false)
    (hawake : u.arrayAwake = true) (hgate : u.gateOpen false (gateRow w row) = true)
    (hquantum : row = 1 ∨ quantumCycles k u.mapIn.e u.mapIn.c ≤ u.quantumIn) :
    exec .arrayGrant s = .next ((u.startPass w k row u.mapIn.e u.mapIn.c
      (u.formPass w row u.mapIn.e u.mapIn.c u.arrayCandidates)).noteReady) := by
  have hfits : ¬ (row ≠ 1 ∧ u.quantumIn < quantumCycles k u.mapIn.e u.mapIn.c) := by omega
  have hdecide : v.arrayDecide = u.grantWinner w row u.arrayCandidates := by
    simp only [State.arrayDecide, ← hu, hwin, hon, hawake, hgate, Bool.not_true, Bool.false_eq_true, if_false]
  change Host.Outcome.next s.arrayGrant = _
  simp only [State.arrayGrant, hidle, ne_eq, not_true_eq_false, if_false, ← hv, hdecide, State.grantWinner, hk, hon, hfits,
    Bool.false_eq_true]

theorem shareOut_length (occ : Nat) (ls : List Nat) : (shareOut occ ls).length = ls.length := by
  cases ls with
  | nil => rfl
  | cons a l => simp [shareOut]

theorem State.passBoundary_spec (s t : State) (a : ArrCmd) (l : List ArrCmd) (g : Nat) (h : s.arr.cur = a :: l) (ht : s.passBoundary = t)
    (hg : g = sumList (((a :: l).map s.guardOf).map (·.1))) :
    t.arr.cur = [] ∧ t.arr.freeAt = a.front + (a.tNext + g) * arrCyc ∧ t.now = max s.now (a.front + (a.tData + g) * arrCyc) ∧
    t.arr.drain.map (fun x => (x.run, x.idx)) = (s.arr.drain ++ a :: l).map fun x => (x.run, x.idx) := by
  unfold State.passBoundary at ht
  extract_lets cur gs g' at ht
  have hcur : cur = a :: l := h
  have hgs : g' = g := by rw [hg, ← hcur]
  clear_value g' cur
  subst hgs hcur
  dsimp -zeta only at ht
  extract_lets s1 occ ch s2 s3 s4 ar s5 at ht
  have h1 : s1.arr = s.arr ∧ s1.now = max s.now (a.front + (a.tData + g') * arrCyc) := ⟨rfl, rfl⟩
  have h4 : OnlyHelm s1 s4 := ((OnlyHelm.foldl _ (fun u p => u.onlyHelm_boundaryVt _ _ _ _ _) _ s1).trans
    (State.onlyHelm_payGate _ _ _ _)).trans (.setFld _ _ _ _)
  have h5 : OnlyHelm s5 t := ht ▸ (OnlyHelm.foldl _ (fun u x => u.onlyHelm_reissue x) (a :: l) s5).trans (State.onlyHelm_noteReady _)
  have hnow : s5.now = s4.now := rfl
  have hfree : s5.arr.cur = [] ∧ s5.arr.freeAt = a.front + occ * arrCyc := ⟨rfl, rfl⟩
  have hlen : (a :: l).length ≤ ch.length := by simp [ch, shareOut_length]
  have hzip : ((a :: l).zip ch).map (fun p => (p.1.run, p.1.idx)) = (a :: l).map fun x => (x.run, x.idx) := by
    conv_rhs => rw [← List.map_fst_zip hlen, List.map_map]
    rfl
  have hdrain : s5.arr.drain.map (fun x => (x.run, x.idx)) =
      s4.arr.drain.map (fun x => (x.run, x.idx)) ++ (a :: l).map fun x => (x.run, x.idx) := by
    rw [← hzip]
    simp only [s5, List.map_append, List.map_map, Function.comp_def]
  clear_value s5 s4 s1
  rw [h5.arr, h5.now, hnow, h4.now, h1.2, hdrain, h4.arr, h1.1, List.map_append]
  exact ⟨hfree.1, hfree.2, rfl, rfl⟩

theorem exec_arrayCmdComplete (s u : State) (a : ArrCmd) (l : List ArrCmd) (e : Nat) (h : s.arr.drain = a :: l) (hwell : a.fault = 0)
    (hlive : a.suppressed = false) (he : e = a.front + max a.tLat (a.tData + a.g) * arrCyc) (hu : u = s.advanceTo (e + 64 * arrCyc)) :
    exec .arrayCmdComplete s = .next ((((({ u with arr := { s.arr with drain := l } }.chargeCmd a).finishArray a).arrayIdle
      e).arrayClass).reapRun a.run) := by
  subst hu he
  change Host.Outcome.next s.drainDone = _
  simp only [State.drainDone, h, hwell, hlive, ne_eq, not_true_eq_false, if_false, Bool.false_eq_true, ArrCmd.endAt, State.advanceTo_arr]

/-- Settles O11: the pass's boundary changes the array as its own definition says, and what follows it leaves the array. -/
theorem arrayCommandsComplete : Obligations.ArrayCommandsComplete := by
  unfold Obligations.ArrayCommandsComplete
  refine ⟨exec_arrayGrant, ?_, ?_, fun s unit => ⟨rfl, rfl, rfl⟩⟩
  · intro s a l h
    refine ⟨s.passBoundary, rfl, ?_⟩
    rw [h]
    exact s.passBoundary_spec _ a l _ h rfl rfl
  · intro s a l h hwell hlive e u
    exact exec_arrayCmdComplete s u a l e h hwell hlive rfl rfl

end Sys2Proof.Machine
end

/-! ## PROOFS of the family of completions: the vector pipe's commands (R152, R153, R162 to R165, R174). -/

section
namespace Sys2Proof.Machine

theorem exec_vectorGrant (s v u : State) (w : WinEntry) (row : Nat) (k : PKind) (hidle : s.vec.cur = none) (hv : v = s.advanceTo s.vectorTime)
    (hu : u = v.noSlate true v.vectorReady) (hwin : u.decide_ u.vectorCandidates = some (w, row)) (hk : u.entryCmd w = some k)
    (hon : u.mapIn.offline = false) (hawake : u.arrayAwake = true) (hgate : u.gateOpen true (gateRow w row) = true)
    (hquantum : row = 1 ∨ quantumCycles k u.mapIn.e u.mapIn.c ≤ u.quantumIn) :
    exec .vectorGrant s = .next (u.vecStart w k row u.mapIn.e u.mapIn.c) := by
  have hfits : ¬ (row ≠ 1 ∧ u.quantumIn < quantumCycles k u.mapIn.e u.mapIn.c) := by omega
  change Host.Outcome.next s.vectorGrant = _
  simp only [State.vectorGrant, hidle, Option.isSome_none, Bool.false_eq_true, if_false, ← hv, State.vectorDecide, ← hu, hwin, hk, hon, hawake,
    hgate, hfits, Bool.not_true]

theorem exec_vecopComplete (s u : State) (v : VecCmd) (x : Run) (o : Vop) (w : List (Nat × List Byte) × Exc) (hcur : s.vec.cur = some v)
    (hvop : v.attn = false) (hlive : v.suppressed = false) (hu : u = (s.advanceTo (v.start + v.cyc * arrCyc)).vecCharge v v.cyc false)
    (hx : Tab.get? u.runs v.run = some x) (ho : u.runCmd x v.idx = some (.vop o)) (hw : w = o.result (u.winByte x)) :
    exec .vecopComplete s = .next ((((((u.runWrites { x with overlap := x.overlap || o.clashes } w.1).countExc w.2).vecReport
      { v with charged := v.cyc } (.vop o)).pipeFree).endCmd v.run v.idx true).reapRun v.run) := by
  change Host.Outcome.next s.vecopDone = _
  simp only [State.vecopDone, hcur, hvop, hlive, Bool.false_eq_true, if_false, ← hu, hx, ho, hw]

/-! ### Segments of an ATTN (R162, R164, R165) -/

section
variable (s : State) (v : VecCmd) (x : Run) (a : Attn) (hcur : s.vec.cur = some v) (hattn : v.attn = true) (hdone : v.seg ≤ v.done)
  (ha : s.attnOf v.run v.idx = some (x, a))
include hcur hattn hdone ha

theorem exec_attnSegmentComplete_last (hlast : v.last = true) : exec .attnSegmentComplete s =
    .next (((s.advanceTo (v.lanesAt + (v.cyc - v.seg * a.blk v.c) * arrCyc)).vecCharge v (v.cyc + v.wait) false).attnFinish
      { v with charged := v.charged + v.cyc + v.wait } x a) := by
  change Host.Outcome.next s.segmentDone = _
  simp only [State.segmentDone, hcur, hattn, hlast, ha, show ¬ v.done < v.seg by omega, Bool.not_true, decide_false, Bool.or_self,
    Bool.false_eq_true, if_false, if_true]

theorem exec_attnSegmentComplete_between (hlast : v.last = false) (hlive : v.suppressed = false) (u t : State)
    (hu : u = (s.advanceTo (v.lanesAt + (v.cyc - v.seg * a.blk v.c) * arrCyc)).vecCharge v (v.cyc + v.wait) true) (ht : t = u.pipeFree) :
    exec .attnSegmentComplete s = .next { t with vec := { t.vec with suspended := t.vec.suspended ++
      [{ v with charged := v.charged + v.cyc + v.wait, before := v.before + v.seg, seg := 0, done := 0 }] } } := by
  change Host.Outcome.next s.segmentDone = _
  subst ht hu
  simp only [State.segmentDone, hcur, hattn, hlast, hlive, ha, show ¬ v.done < v.seg by omega, Bool.not_true, Bool.not_false, decide_false,
    Bool.or_self, Bool.false_eq_true, if_false]

end

theorem State.vec_pipeFree (s : State) : s.pipeFree.vec = { s.vec with cur := none } := rfl

theorem State.lanes_pipeFree (s : State) : s.pipeFree.fld F.DVU_STATUS_LANES_ENABLED = 0 := by
  unfold State.pipeFree
  rw [State.fld_setFld_ne _ F.HLM_STATUS_VECTOR_CLASS F.DVU_STATUS_LANES_ENABLED 0 0 0 (by decide),
    State.fld_setFld_beside _ F.DVU_STATUS_ATTN_ACTIVE F.DVU_STATUS_LANES_ENABLED 0 0 rfl (by decide) (by decide) (by decide) (by decide),
    State.fld_setFld_beside _ F.DVU_STATUS_BUSY F.DVU_STATUS_LANES_ENABLED 0 0 rfl (by decide) (by decide) (by decide) (by decide),
    State.fld_setFld_self _ F.DVU_STATUS_LANES_ENABLED 0 0 (by decide) (by decide)]
  rfl

theorem State.fld_withVec (s : State) (v : VecUnit) (f : Fld) (i : Nat) : ({ s with vec := v } : State).fld f i = s.fld f i := rfl

/-! ### The KV stream (R162) -/

theorem exec_kvPageFetch (s : State) (r i : Nat) (x : Run) (a : Attn) (k : KvStream) (g : Nat × Nat) (ha : s.attnOf r i = some (x, a))
    (hready : s.attnReady r i = true) (hk : k = s.stream r i) (hg : g = s.kvRange x a k.nextPage) (hleft : a.b0 + k.nextPage / 2 ≤ a.b1)
    (hslot : k.slotFree a (a.b0 + k.nextPage / 2) s.now = true) (hfault : s.hbmFault x.dom g.1 g.2 false = none) :
    exec (.kvPageFetch r i) s = .next (s.setStream { k with nextPage := k.nextPage + 1, inFlight := k.inFlight ++ [k.nextPage] }) := by
  change Host.Outcome.next (s.kvFetch r i) = _
  simp only [State.kvFetch, ha, hready, ← hk, ← hg, hleft, hslot, hfault, decide_true, Bool.and_self, if_true]

theorem State.now_runStore (s : State) (x : Run) (off : Nat) (b : List Byte) : (s.runStore x off b).now = s.now := by
  unfold State.runStore
  split <;> exact State.store_now _ _ _ _ _

theorem OnlyErrors.vec {s t : State} (h : OnlyErrors s t) : t.vec = s.vec := by
  unfold OnlyErrors at h
  rw [h]

theorem State.attnOf_of_eq (s t : State) (hcharts : t.charts = s.charts) (hmem : t.mem = s.mem) (hruns : t.runs = s.runs) (r i : Nat) :
    t.attnOf r i = s.attnOf r i := by
  simp only [State.attnOf, State.runCmd, State.chartKind, State.chartCmd, State.chartBytes, State.bytes, s.byte_of_mem t hmem, hcharts, hruns]

theorem State.kvRange_of_eq (s t : State) (hmem : t.mem = s.mem) (x : Run) (a : Attn) (p : Nat) : t.kvRange x a p = s.kvRange x a p := by
  have hwin : t.winByte x = s.winByte x := by
    funext o
    simp only [State.winByte, s.byte_of_mem t hmem]
  simp only [State.kvRange, hwin]

theorem State.stream_of_eq (s t : State) (h : t.vec = s.vec) (r i : Nat) : t.stream r i = s.stream r i := by
  simp only [State.stream, h]

/-- A page that may be read lands in its slot, is counted, and the lanes take what they can. -/
theorem State.kvLand_read (u : State) (r i p : Nat) (x : Run) (a : Attn) (k : KvStream) (g : Nat × Nat) (ha : u.attnOf r i = some (x, a))
    (hk : u.stream r i = k) (hg : u.kvRange x a p = g) (hin : k.inFlight.contains p = true) (hfault : u.hbmFault x.dom g.1 g.2 true = none) :
    u.kvLand r i p = ((((u.runStore x (a.slotAt (a.b0 + p / 2) (p % 2)) (u.bytes .hbm x.dom g.1 g.2)).addFld
      F.DVU_KV_BYTES_BYTES g.2).countWork x.dom x.cls 13 (g.2 / 64)).setStream
      { k with inFlight := k.inFlight.erase p, landed := Tab.set k.landed p u.now }).attnAdvance := by
  have hnow (b : List Byte) (o n : Nat) :
      (((u.runStore x o b).addFld F.DVU_KV_BYTES_BYTES n).countWork x.dom x.cls 13 (n / 64)).now = u.now := by
    rw [State.countWork, State.count_now, State.addFld_now, State.now_runStore]
  simp only [State.kvLand, ha, hk, hin, if_true, hg, hfault, hnow]

theorem State.kvLandEcc_nil (s : State) (r i p : Nat) (x : Run) (a : Attn) (ha : s.attnOf r i = some (x, a))
    (hin : (s.stream r i).inFlight.contains p = true) :
    s.kvLandEcc r i p [] [] = ((s.readHbm x.dom (s.kvRange x a p).1 (s.kvRange x a p).2).kvLand r i p).limitStacks := by
  simp only [State.kvLandEcc, ha, hin, if_true, State.eccRead_nil]

theorem exec_kvPageComplete (s u : State) (r i p : Nat) (x : Run) (a : Attn) (k : KvStream) (g : Nat × Nat) (ha : s.attnOf r i = some (x, a))
    (hk : k = s.stream r i) (hg : g = s.kvRange x a p) (hin : k.inFlight.contains p = true) (hu : u = s.readHbm x.dom g.1 g.2)
    (hfault : u.hbmFault x.dom g.1 g.2 true = none) :
    exec (.kvPageComplete r i p [] []) s = .next ((((((u.runStore x (a.slotAt (a.b0 + p / 2) (p % 2)) (u.bytes .hbm x.dom g.1 g.2)).addFld
      F.DVU_KV_BYTES_BYTES g.2).countWork x.dom x.cls 13 (g.2 / 64)).setStream
      { k with inFlight := k.inFlight.erase p, landed := Tab.set k.landed p u.now }).attnAdvance).limitStacks) := by
  have hread : OnlyErrors s u := hu ▸ s.onlyErrors_readHbm _ _ _
  have hattn : u.attnOf r i = some (x, a) := by rw [State.attnOf_of_eq s u hread.charts hread.mem hread.runs, ha]
  have hstream : u.stream r i = k := by rw [State.stream_of_eq s u hread.vec, hk]
  have hrange : u.kvRange x a p = g := by rw [State.kvRange_of_eq s u hread.mem, hg]
  change Host.Outcome.next (s.kvLandEcc r i p [] []) = _
  rw [s.kvLandEcc_nil r i p x a ha (hk ▸ hin), ← hg, ← hu, u.kvLand_read r i p x a k g hattn hstream hrange hin hfault]

/-- Settles O12: each operation with its guards met. -/
theorem vectorCommandsComplete : Obligations.VectorCommandsComplete := by
  unfold Obligations.VectorCommandsComplete
  refine ⟨exec_vectorGrant, ?_, ?_, exec_kvPageFetch, ?_⟩
  · intro s v x o hcur hvop hlive u hx ho w
    exact exec_vecopComplete s u v x o w hcur hvop hlive rfl hx ho rfl
  · intro s v x a hcur hattn hdone ha hlive u
    refine ⟨fun hlast => ?_, fun hlast => ?_⟩
    · rw [exec_attnSegmentComplete_last s v x a hcur hattn hdone ha hlast]
      simp only [u, hlast, Bool.not_true]
    · refine ⟨_, exec_attnSegmentComplete_between s v x a hcur hattn hdone ha hlast hlive u _ ?_ rfl, ?_, ?_, ?_⟩
      · simp only [u, hlast, Bool.not_false]
      · rw [State.vec_pipeFree]
      · rw [State.vec_pipeFree]
      · exact (State.fld_withVec _ _ _ _).trans u.lanes_pipeFree
  · intro s r i p x a k g ha hk hg hin u hu hfault
    exact exec_kvPageComplete s u r i p x a k g ha hk hg hin hu hfault

end Sys2Proof.Machine
end

/-! ## PROOFS of the family of completions: what entries, notices and fault records change (R365, R370, R430, R507, R548). -/

section
namespace Sys2Proof.Machine

/-- One state is another with entries and records posted: open choices spent, registers, outputs, rings, the log, the merges of fault records
and the event counters. -/
def OnlyNotes (s t : State) : Prop :=
  t = { s with
    freeCtr := t.freeCtr, regs := t.regs, outs := t.outs, rings := t.rings, log := t.log, merges := t.merges, evcs := t.evcs }

namespace OnlyNotes

theorem refl (s : State) : OnlyNotes s s := rfl

theorem trans {s t u : State} (h : OnlyNotes s t) (k : OnlyNotes t u) : OnlyNotes s u := by
  unfold OnlyNotes at h k ⊢
  calc u = _ := k
    _ = _ := by rw [h]

theorem now {s t : State} (h : OnlyNotes s t) : t.now = s.now := by
  unfold OnlyNotes at h
  rw [h]

theorem foldl {α : Type} (f : State → α → State) (hf : ∀ u x, OnlyNotes u (f u x)) (l : List α) (s : State) : OnlyNotes s (l.foldl f s) := by
  induction l generalizing s with
  | nil => exact .refl s
  | cons x l ih => exact (hf s x).trans (ih (f s x))

theorem setFld (s : State) (f : Fld) (n i : Nat) : OnlyNotes s (s.setFld f n i) := rfl

theorem addFld (s : State) (f : Fld) (n i : Nat) : OnlyNotes s (s.addFld f n i) := rfl

theorem satFld (s : State) (f : Fld) (n i : Nat) : OnlyNotes s (s.satFld f n i) := rfl

theorem raise (s : State) (f : Fld) (i : Nat) : OnlyNotes s (s.raise f i) := rfl

theorem count (s : State) (src : Nat) (dom : Option Nat) (n : Nat) : OnlyNotes s (s.count src dom n) := rfl

theorem send (s : State) (o : Out) : OnlyNotes s (s.send o) := rfl

theorem fresh (s : State) (n : Nat) : OnlyNotes s (s.fresh n).2 := rfl

theorem sendMsix (s : State) (link v : Nat) : OnlyNotes s (s.sendMsix link v) := (send s _).trans (count _ _ _ _)

theorem withRings (s : State) (t : Tab Ring) : OnlyNotes s { s with rings := t } := rfl

theorem withMerges (s : State) (l : List FaultMerge) : OnlyNotes s { s with merges := l } := rfl

theorem withLog (s : State) (l : LogUnit) : OnlyNotes s { s with log := l } := rfl

theorem writeEntry (s : State) (g : Nat) (e : List Byte) (q : Bool) : OnlyNotes s (s.writeEntry g e q) := by
  unfold State.writeEntry
  split
  · exact refl s
  · next r _ =>
    extract_lets k n t ph rt s1 base s2 t' s3 s4 cnt r'
    have h1 : OnlyNotes s s1 := by
      unfold s1
      split
      · split
        · exact refl s
        · exact count _ _ _ _
      · exact refl s
    have h3 : OnlyNotes s s3 := (h1.trans (send _ _)).trans (setFld _ _ _ _)
    have h4 : OnlyNotes s s4 := by
      unfold s4
      split
      · exact h3.trans (setFld _ _ _ _)
      · exact h3
    clear_value s4
    split
    · exact h4
    · split
      · exact (h4.trans (withRings _ _)).trans (sendMsix _ _ _)
      · exact h4.trans (withRings _ _)

theorem postEntry (s : State) (g : Nat) (e : List Byte) (q : Bool) : OnlyNotes s (s.postEntry g e q) := by
  unfold State.postEntry
  split
  · exact refl s
  · split
    · exact writeEntry s g e q
    · exact (withRings _ _).trans (setFld _ _ _ _)

theorem quiesceDone (s : State) (g : Nat) : OnlyNotes s (s.quiesceDone g) := by
  unfold State.quiesceDone
  split
  · exact refl s
  · split
    · exact setFld _ _ _ _
    · exact refl s

theorem complete (s : State) (g cid : Nat) (p : List Byte) : OnlyNotes s (s.complete g cid p) := by
  unfold State.complete
  split
  · exact refl s
  · split
    · exact refl s
    · exact ((withRings _ _).trans (postEntry _ _ _ _)).trans (quiesceDone _ _)

theorem postUnsolicited (s : State) (g op : Nat) (p : List Byte) : OnlyNotes s (s.postUnsolicited g op p).1 := by
  unfold State.postUnsolicited
  split
  · exact refl s
  · split
    · exact postEntry _ _ _ _
    · exact satFld _ _ _ _

theorem notice (s : State) (d cause chan an : Nat) : OnlyNotes s (s.notice d cause chan an) := by
  unfold State.notice
  split
  · exact refl s
  · exact postUnsolicited _ _ _ _

theorem configChanged (s : State) (d : Nat) : OnlyNotes s (s.configChanged d) := addFld _ _ _ _

theorem measChanged (s : State) : OnlyNotes s s.measChanged := by
  unfold State.measChanged
  exact ((addFld _ _ _ _).trans (foldl _ (fun u d => configChanged u d) _ _)).trans (foldl _ (fun u d => notice u d 3 0 0) _ _)

theorem logEvent (s : State) (cause sev : Nat) (body : List Byte) (fault : Bool) : OnlyNotes s (s.logEvent cause sev body fault) := by
  unfold State.logEvent
  extract_lets e r s1 s2 s3
  have h2 : OnlyNotes s s2 := ((withLog _ _).trans (count _ _ _ _)).trans (addFld _ _ _ _)
  have h3 : OnlyNotes s s3 := by
    unfold s3
    split
    · exact (h2.trans (satFld _ _ _ _)).trans (count _ _ _ _)
    · exact h2
  clear_value s3
  split
  · exact (h3.trans (send _ _)).trans (count _ _ _ _)
  · exact h3

theorem logOpen (s : State) (body : List Byte) : OnlyNotes s (s.logOpen body) := (fresh s 18).trans (logEvent _ _ _ _ _)

theorem deliverFault (s : State) (d : Nat) (r : FaultRec) (rep : Nat) : OnlyNotes s (s.deliverFault d r rep) := by
  unfold State.deliverFault
  extract_lets pay own
  clear_value own
  split
  · exact addFld _ _ _ _
  · extract_lets p
    have hp : OnlyNotes s p.1 := postUnsolicited _ _ _ _
    clear_value p
    split
    · exact hp
    · exact hp.trans (addFld _ _ _ _)

theorem domainFault (s : State) (d : Nat) (r : FaultRec) : OnlyNotes s (s.domainFault d r) := by
  unfold State.domainFault
  extract_lets same
  split
  · exact (withMerges _ _).trans (deliverFault _ _ _ _)
  · split
    · exact withMerges _ _
    · exact (withMerges _ _).trans (deliverFault _ _ _ _)

theorem faultRecord (s : State) (r : FaultRec) : OnlyNotes s (s.faultRecord r) := by
  unfold State.faultRecord
  extract_lets s1 s2
  have h2 : OnlyNotes s s2 := (logEvent _ _ _ _ _).trans (addFld _ _ _ _)
  clear_value s2
  split
  · exact h2
  · exact h2.trans (domainFault _ _ _)

end OnlyNotes
end Sys2Proof.Machine
end

/-! ## PROOFS of the family of completions: the Helm's controls (R178, R191 to R199, R302). -/

section
namespace Sys2Proof.Machine

/-! ### What the upkeep of the window's readiness changes -/

/-- One state is another with other virtual times and another command window. -/
def OnlyTimes (s t : State) : Prop :=
  t = { s with helm := { s.helm with arr := t.helm.arr, vec := t.helm.vec, strictVt := t.helm.strictVt, window := t.helm.window } }

namespace OnlyTimes

theorem refl (s : State) : OnlyTimes s s := rfl

theorem trans {s t u : State} (h : OnlyTimes s t) (k : OnlyTimes t u) : OnlyTimes s u := by
  unfold OnlyTimes at h k ⊢
  calc u = _ := k
    _ = _ := by rw [h]

theorem switch_ {s t : State} (h : OnlyTimes s t) : t.helm.switch_ = s.helm.switch_ := by
  unfold OnlyTimes at h
  rw [h]

theorem now {s t : State} (h : OnlyTimes s t) : t.now = s.now := by
  unfold OnlyTimes at h
  rw [h]

theorem fld {s t : State} (h : OnlyTimes s t) (f : Fld) (i : Nat) : t.fld f i = s.fld f i := by
  unfold OnlyTimes at h
  rw [h]
  exact State.fld_withHelm _ _ _ _

theorem setVt (s : State) (vector : Bool) (v : VTime) : OnlyTimes s (s.setVt vector v) := by
  cases vector <;> rfl

theorem setVtAt (s : State) (vector : Bool) (k : Nat) (v : VTime) : OnlyTimes s (s.setVtAt vector k v) := by
  unfold State.setVtAt
  split
  · exact setVt s vector v
  · rfl

theorem noteEntry (s : State) (e : WinEntry) : OnlyTimes s (s.noteEntry e).1 := by
  unfold State.noteEntry
  split
  · split
    · exact refl s
    · dsimp only
      split
      · exact setVtAt s _ _ _
      · split
        · exact setVt s _ _
        · exact refl s
  · split <;> exact refl s

theorem noteEntries (l : List WinEntry) (p : State × List WinEntry) :
    OnlyTimes p.1 (l.foldl (fun a e => let q := a.1.noteEntry e; (q.1, a.2 ++ [q.2])) p).1 := by
  induction l generalizing p with
  | nil => exact refl _
  | cons e l ih => exact (noteEntry p.1 e).trans (ih _)

theorem noteReady (s : State) : OnlyTimes s s.noteReady := by
  have hclear : OnlyTimes s s.clearHeads := rfl
  unfold State.noteReady
  extract_lets u p
  have hnoted : OnlyTimes u p.1 := noteEntries _ (u, [])
  clear_value p
  exact (hclear.trans hnoted).trans rfl

end OnlyTimes

theorem OnlyNotes.helm {s t : State} (h : OnlyNotes s t) : t.helm = s.helm := by
  unfold OnlyNotes at h
  rw [h]

theorem OnlyNotes.countHelm (s : State) (kind n : Nat) : OnlyNotes s (s.countHelm kind n) := by
  unfold State.countHelm
  extract_lets u
  have hu : OnlyNotes s u := .count _ _ _ _
  clear_value u
  split
  · exact hu.trans (.count _ _ _ _)
  · exact hu

theorem State.fld_countHelm (s : State) (kind n : Nat) (f : Fld) (i : Nat) : (s.countHelm kind n).fld f i = s.fld f i := by
  unfold State.countHelm
  extract_lets u
  have hu : u.fld f i = s.fld f i := s.fld_count _ _ _ f i
  clear_value u
  split
  · rw [State.fld_count, hu]
  · exact hu

/-! ### The quantum, the admission test and the calendar (R178, R191 to R193, R199) -/

theorem exec_admitCtrlWrite_loose (s t : State) (v : Nat) (ht : t = s.setAdmitCtrl v) (hloose : s.tightens t = false) :
    exec (.admitCtrlWrite v) s = .next t := by
  change Host.Outcome.next (s.admitCtrlWrite v) = _
  simp only [State.admitCtrlWrite, ← ht, hloose, Bool.false_eq_true, if_false]

theorem exec_admitCtrlWrite_tight (s t : State) (v : Nat) (ht : t = s.setAdmitCtrl v) (htight : s.tightens t = true)
    (hpass : t.admitNow.pass = true) : exec (.admitCtrlWrite v) s = .next ((t.noteAdmit t.admitNow).noteOutcome true) := by
  change Host.Outcome.next (s.admitCtrlWrite v) = _
  simp only [State.admitCtrlWrite, ← ht, htight, hpass, if_true]

theorem exec_calCommit (s : State) (hbounds : calBounds s.stagedCal = true)
    (hpass : (s.admitFull s.stagedCal s.quantum s.mapE s.mapC).pass = true) :
    exec .calCommit s = .next ((({ s with helm := { s.helm with calNext := some s.stagedCal, calOffNext := false } }.noteAdmit
      (s.admitFull s.stagedCal s.quantum s.mapE s.mapC)).noteOutcome true).setFld F.HLM_CAL_CTRL_COMMIT_RESULT 1) := by
  change Host.Outcome.next s.calCommit = _
  simp only [State.calCommit, hbounds, hpass, Bool.not_true, Bool.false_eq_true, if_false, if_true]

theorem exec_calDisable (s : State) (h : s.strictInst = false) : exec .calDisable s =
    .next ({ s with helm := { s.helm with calNext := none, calOffNext := true } }.setFld F.HLM_CAL_CTRL_COMMIT_RESULT 1) := by
  change Host.Outcome.next s.calDisable = _
  simp only [State.calDisable, h, Bool.false_eq_true, if_false]

theorem State.helm_toBoundary (s : State) : s.toBoundary.helm = s.helm := rfl

theorem State.nextCal_toBoundary (s : State) (l : List CalEntry) :
    s.toBoundary.nextCal l = if l = s.helm.cal then s.toBoundary.useCal l else (s.toBoundary.useCal l).measChanged := by
  rw [State.nextCal, State.helm_toBoundary]

theorem exec_calPeriodBoundary (s : State) : exec .calPeriodBoundary s = .next s.toBoundary.boundaryCal.raiseShares := rfl

theorem State.boundaryCal_toBoundary (s : State) :
    (∀ l, s.helm.calNext = some l → s.toBoundary.boundaryCal = s.toBoundary.nextCal l) ∧
    (s.helm.calNext = none → s.helm.calOffNext = true → s.toBoundary.boundaryCal = s.toBoundary.nextCal []) ∧
    (s.helm.calNext = none → s.helm.calOffNext = false → s.toBoundary.boundaryCal = s.toBoundary) := by
  unfold State.boundaryCal
  rw [State.helm_toBoundary]
  exact ⟨fun l h => by rw [h], fun h k => by rw [h, k], fun h k => by rw [h, k]⟩

theorem exec_strictEntryStart (s u : State) (e : CalEntry) (n a : Nat) (h : s.nextEntry = some (e, n)) (hu : u = s.untilTai (s.entryTai e))
    (ha : a = dutyOf (u.fld F.PMC_STRICT_SHARE_EFF_W e.dom) * (e.len - 2048) / 256) :
    exec .strictEntryStart s = .next { u with helm := { u.helm with strictA := a, strictV := a } } := by
  change Host.Outcome.next s.strictStart = _
  subst ha hu
  simp only [State.strictStart, h]

/-! ### Residency switches (R195, R196, R302) -/

theorem exec_resSwitchStart (s u : State) (d sp st n : Nat) (out : List Nat) (hidle : s.helm.switch_ = none) (hd : s.loadDomain = some d)
    (hplace : s.evictFor d [] s.victims = some (out, sp, st))
    (hn : n = s.switchTime (sumList ((out.flatMap s.residentRuns ++ s.savedRuns d).map fun p => s.windowBytes p.2)))
    (hgap : s.inGap (ceilDiv n nsec) = true)
    (hu : u = ((out.foldl (fun s v => s.evict v) s).setFld F.MEM_PART_SP_BASE_MIB sp d).setFld F.MEM_PART_ST_BASE_MIB st d) :
    exec .resSwitchStart s = .next (({ u with helm := { u.helm with switch_ := some ⟨out, d, u.now + n⟩ } }.setFld
      F.HLM_STATUS_RES_SWITCH_ACTIVE 1).noteReady) := by
  change Host.Outcome.next s.switchStart = _
  subst hu
  simp only [State.switchStart, hidle, hd, hplace, ← hn, hgap, if_true]

theorem OnlyErrors.now {s t : State} (h : OnlyErrors s t) : t.now = s.now := by
  unfold OnlyErrors at h
  rw [h]

theorem State.now_readHbm (s : State) (d off n : Nat) : (s.readHbm d off n).now = s.now := (s.onlyErrors_readHbm d off n).now

theorem State.now_faultRecord (s : State) (r : FaultRec) : (s.faultRecord r).now = s.now := (OnlyNotes.faultRecord s r).now

theorem State.now_failRun (s : State) (r st : Nat) (i : Option Nat) : (s.failRun r st i).now = s.now := by
  unfold State.failRun State.dropUnstarted
  split
  · rfl
  · split
    · rfl
    · split <;> rfl

theorem State.now_hbmNote (s : State) (c : Nat) : (s.hbmNote c).now = s.now := by
  unfold State.hbmNote
  split <;> rfl

theorem State.now_switchFails (s : State) (r : Nat) (x : Run) (st : TagState) (p : Nat × Nat) : (s.switchFails r x st p).now = s.now := by
  have hset (u : State) (y : Run) : (u.setRun r y).now = u.now := rfl
  rw [State.switchFails, State.now_failRun, hset, State.now_faultRecord, State.now_hbmNote]

theorem State.now_loadRun (s : State) (r : Nat) (x : Run) : (s.loadRun r x).now = s.now := by
  have hset (u : State) (y : Run) : (u.setRun r y).now = u.now := rfl
  unfold State.loadRun
  split
  · rfl
  · extract_lets p s1
    have h1 : s1.now = s.now := by rw [State.now_readHbm, State.now_readHbm]
    clear_value s1
    split
    · rw [State.now_switchFails, h1]
    · rw [hset, State.store_now, State.store_now, h1]

theorem State.now_loadRuns (l : List (Nat × Run)) (s : State) : (l.foldl (fun s p => s.loadRun p.1 p.2) s).now = s.now := by
  induction l generalizing s with
  | nil => rfl
  | cons p l ih => rw [List.foldl_cons, ih, State.now_loadRun]

theorem State.switchDone_spec (s : State) (w : Switch) (h : s.helm.switch_ = some w) : s.switchDone.helm.switch_ = none ∧
    s.switchDone.now = max s.now w.doneAt ∧ s.switchDone.fld F.HLM_STATUS_RES_SWITCH_ACTIVE = 0 := by
  unfold State.switchDone
  rw [h]
  dsimp -zeta only
  extract_lets s1 s2 hm s3 s4
  have h2 : s2.now = max s.now w.doneAt := by rw [State.now_loadRuns, State.advanceTo_now]
  have h3 : s3.helm.switch_ = none ∧ s3.now = s2.now := ⟨rfl, rfl⟩
  clear_value s2 s3
  have hends := OnlyTimes.noteReady (((s4.addFld F.HLM_RES_SWITCH_SWITCHES 1).countHelm 8 1).count 0x17E (some w.load) 1)
  have hnotes : OnlyNotes s3 (((s4.addFld F.HLM_RES_SWITCH_SWITCHES 1).countHelm 8 1).count 0x17E (some w.load) 1) :=
    ((((OnlyNotes.setFld s3 _ _ _).trans (.setFld _ _ _ _)).trans (.addFld _ _ _ _)).trans (.countHelm _ _ _)).trans (.count _ _ _ _)
  refine ⟨by rw [hends.switch_, hnotes.helm, h3.1], by rw [hends.now, hnotes.now, h3.2, h2], ?_⟩
  rw [hends.fld, State.fld_count, State.fld_countHelm, State.addFld,
    State.fld_setFld_ne _ F.HLM_RES_SWITCH_SWITCHES F.HLM_STATUS_RES_SWITCH_ACTIVE _ _ _ (by decide)]
  exact State.fld_setFld_self _ F.HLM_STATUS_RES_SWITCH_ACTIVE 0 0 (by decide) (by decide)

/-- Settles O13: each operation with its guards met; a switch's end leaves no switch, at its time. -/
theorem helmControlsComplete : Obligations.HelmControlsComplete := by
  unfold Obligations.HelmControlsComplete
  refine ⟨?_, fun s t v ht => ⟨exec_admitCtrlWrite_loose s t v ht, exec_admitCtrlWrite_tight s t v ht⟩, exec_calCommit, exec_calDisable, ?_, ?_,
    fun s d sp st n out hidle hd hplace hn hgap => exec_resSwitchStart s _ d sp st n out hidle hd hplace hn hgap rfl,
    fun s w h => ⟨s.switchDone, rfl, s.switchDone_spec w h⟩⟩
  · intro s v q hq
    have hmax : q ≤ 100 := hq ▸ clamp_le
    refine ⟨fun hle => congrArg Host.Outcome.next (s.quantumWrite_of_le v q hq hle), fun r hraise hr hpass => ?_,
      s.fld_setQuantum_us q (by omega), ?_⟩
    · subst hr
      exact congrArg Host.Outcome.next (s.quantumWrite_of_pass v q hq hraise hpass)
    · rw [State.setQuantum, State.fld_setFld_self _ F.HLM_QUANTUM_QUANTUM_CYCLES _ _ (by decide) (by decide), Nat.mul_comm]
      exact Nat.mod_eq_of_lt (show 1500 * q < 2 ^ 18 by omega)
  · intro s
    obtain ⟨hnext, hoff, hstay⟩ := s.boundaryCal_toBoundary
    refine ⟨fun l h => ?_, fun h k => ?_, fun h k => ?_⟩
    · rw [exec_calPeriodBoundary, hnext l h, s.nextCal_toBoundary]
    · rw [exec_calPeriodBoundary, hoff h k, s.nextCal_toBoundary]
    · rw [exec_calPeriodBoundary, hstay h k]
  · intro s u e n a h hu ha
    exact exec_strictEntryStart s u e n a h hu ha

end Sys2Proof.Machine
end

/-! ## PROOFS of the family of completions: the cell commands (R204 to R213, R230, R252, R274, R560). -/

section
namespace Sys2Proof.Machine

/-! ### The operator's assignment and grants (R204, R230) -/

theorem exec_cellAssignWrite_new (s : State) (v c d : Nat) (hc : c = s.fld F.RAD_CELL_SEL_CELL) (hd : d = bits v 6 0)
    (hst : (s.cell c).st = .unassigned) (hwas : s.flag F.RAD_CELL_ASSIGN_ASSIGNED c = false) (ha : bit v 7 = true)
    (hstrict : s.strictDom d = false) :
    exec (.cellAssignWrite v) s = .next (((s.storeAssign c v).configChanged d).putCell c (Cell.blank .assigned)) := by
  change Host.Outcome.next (s.cellAssignWrite v) = _
  subst hc hd
  simp only [State.cellAssignWrite, hst, hwas, ha, hstrict, bne_self_eq_false, Bool.or_self, Bool.false_and, Bool.and_false,
    Bool.false_eq_true, beq_true, if_false, if_true]

theorem State.unlessStrict_of_no_clash {s t : State} {sp : Nat} (h : t.strictClash sp = false) : s.unlessStrict t sp = t := by
  simp only [State.unlessStrict, h, Bool.false_and, Bool.false_eq_true, if_false]

theorem exec_grantWrite_invalid (s t : State) (v g : Nat) (hg : g = s.fld F.FH_GRANT_SEL_ENTRY) (hbit : bit (v % 2 ^ 26) 25 = false)
    (hheld : s.grantHeld g = false) (ht : t = s.setReg F.FH_GRANT_VALID.reg g (BitVec.ofNat 64 (v % 2 ^ 26)))
    (hclash : t.strictClash (t.fld F.FH_GRANT_SUBPORT g) = false) : exec (.grantWrite v) s =
      .next (if t.reg F.FH_GRANT_VALID.reg g = s.reg F.FH_GRANT_VALID.reg g then t else t.measChanged) := by
  change Host.Outcome.next (s.grantWrite v) = _
  subst hg
  simp only [State.grantWrite, hbit, hheld, ← ht, Bool.false_and, Bool.or_self, Bool.false_eq_true, if_false,
    State.unlessStrict_of_no_clash hclash]

/-! ### The cell commands (R204 to R206, R210 to R213) -/

theorem exec_cellConfig_now (s u : State) (g cid c : Nat) (q : Fetched) (b : List Byte) (f : CellCfg) (hq : s.startable g cid 0x40 = some q)
    (hc : c = fieldAt q.body 16 2 % 512) (hmine : s.cellMine g c = true) (hst : (s.cell c).st.configurable = true)
    (hidle : (s.cell c).st ≠ .active) (hshed : s.shedPending = false) (hf : f = CellCfg.ofBlock b (s.ringInst g))
    (hok : s.configOk c (s.ringDom g) q.arrive f = true) (hadmit : s.admitCfg c f = (true, u)) :
    exec (.cellConfig g cid (.data b)) s = .next ((u.configNow c f).cellDone g cid stOk c evConfigured none 0) := by
  change Host.Outcome.next (s.cellConfig g cid (.data b)) = _
  have hact : ((s.cell c).st == .active) = false := beq_eq_false_iff_ne.2 hidle
  subst hc hf
  simp only [State.cellConfig, hq, hmine, hst, hshed, State.configBlock, hact, hok, hadmit, Bool.and_self, Bool.not_true, Bool.false_eq_true,
    if_false]

theorem exec_cellStart_now (s : State) (g cid c : Nat) (q : Fetched) (f : CellCfg) (hq : s.startable g cid 0x41 = some q)
    (hc : c = fieldAt q.body 16 2 % 512) (hcfg : (s.cell c).cfg = some f) (hmine : s.cellMine g c = true)
    (hst : (s.cell c).st = .configured) (hshed : s.shedPending = false) (htime : s.timeCheck f q.body q.arrive f.maxLead 5000000 = none) :
    exec (.cellStart g cid) s = .next ((s.startCell c f (s.namedSlot f q.body q.arrive)).cellDone g cid stOk c evStarted (some f)
      (s.namedSlot f q.body q.arrive)) := by
  change Host.Outcome.next (s.cellStart g cid) = _
  subst hc
  simp only [State.cellStart, hq, hcfg, hmine, hst, hshed, htime, beq_self_eq_true, Bool.true_or, Bool.and_self, Bool.not_true,
    Bool.false_eq_true, if_false, if_true]

theorem exec_cellStop_now (s : State) (g cid c n : Nat) (q : Fetched) (f : CellCfg) (hq : s.startable g cid 0x42 = some q)
    (hc : c = fieldAt q.body 16 2 % 512) (hmine : s.cellMine g c = true) (hst : (s.cell c).st = .active)
    (hslot : s.slotOfCmd (s.cell c) q = some (f, n)) (htime : s.timeCheck f q.body q.arrive f.maxLead 5000000 = none) :
    exec (.cellStop g cid) s = .next ((s.stageCmd g q .started).stopCell c n 0 (some (g, cid))) := by
  change Host.Outcome.next (s.cellStop g cid) = _
  subst hc
  simp only [State.cellStop, hq, hmine, hst, hslot, htime, beq_self_eq_true, Bool.and_self, Bool.not_true, Bool.false_eq_true, if_false]

theorem exec_slot_accepted (s : State) (g cid c n : Nat) (up : Bool) (q : Fetched) (f : CellCfg) (b : List Byte) (l : List Item)
    (hq : s.startable g cid 0x48 = some q) (hc : c = fieldAt q.body 16 2 % 512) (hup : up = bit (fieldAt q.body 21 1) 0)
    (hcfg : (s.cell c).cfg.isSome = true) (hmine : s.cellMine g c = true) (hslot : s.slotOfCmd (s.cell c) q = some (f, n))
    (htime : s.timeCheck f q.body q.arrive (if up then f.ulLead else f.dlLead) 10000 = none) (hstate : (s.cell c).slotState n = none)
    (hseen : (s.cell c).seen.contains (n, up) = false) (hlo : 1 ≤ fieldAt q.body 22 2) (hhi : fieldAt q.body 22 2 ≤ 256)
    (halign : fieldAt q.body 24 8 % 64 = 0)
    (hl : l = ((rangeFrom 0 (fieldAt q.body 22 2)).map fun i => Item.fresh (pad64 (slice b (64 * i) 64))))
    (hvalid : s.firstInvalid c n f up l = none) :
    exec (.slot g cid (.data b)) s = .next ((s.stageCmd g q .started).modCell c fun x =>
      { x with slots := x.slots ++ [⟨g, cid, n, up, l, s.phaseLate c n, false, 0, 0, [], [], [], []⟩], seen := (n, up) :: x.seen,
               freezes := if up then Tab.set x.freezes n (frozenMask l) else x.freezes }) := by
  change Host.Outcome.next (s.slotCmd g cid (.data b)) = _
  have hlist : ¬(fieldAt q.body 22 2 = 0 ∨ fieldAt q.body 22 2 > 256 ∨ fieldAt q.body 24 8 % 64 ≠ 0) := by omega
  subst hc hup hl
  simp only [State.slotCmd, hq, hmine, hcfg, hslot, State.slotCheck, htime, hstate, hseen, if_neg hlist, State.slotItems, hvalid,
    Bool.and_self, Bool.not_true, Bool.false_eq_true, if_false]

/-! ### HARQ and statistics (R252, R274) -/

theorem exec_harqFlush_accepted (s : State) (g cid c : Nat) (q : Fetched) (hq : s.startable g cid 0x4D = some q)
    (hc : c = fieldAt q.body 16 2 % 512) (hmine : s.cellMine g c = true) (hst : 2 ≤ (s.cell c).st.code) :
    exec (.harqFlush g cid) s = .next (((s.stageCmd g q .started).modCell c fun x => { x with flushes :=
      x.flushes ++ [⟨g, cid, fieldAt q.body 18 2 % 4096, fieldAt q.body 20 4, bit (fieldAt q.body 24 1) 0⟩] }).runFlushes c) := by
  change Host.Outcome.next (s.harqFlush g cid) = _
  subst hc
  simp only [State.harqFlush, hq, hmine, ge_iff_le, hst, decide_true, Bool.and_self, Bool.not_true, Bool.false_eq_true, if_false]

theorem exec_fhStats_mine (s u : State) (g cid c : Nat) (q : Fetched) (hq : s.startable g cid 0x4C = some q)
    (hc : c = fieldAt q.body 16 2 % 512) (hmine : s.cellMine g c = true)
    (hu : u = if bit (fieldAt q.body 18 1) 0 then s.modCell c fun x => { x with stats := [] } else s) :
    exec (.fhStats g cid) s = .next (u.complete g cid (radioPayload stOk 7 c 0 0 (toLe 4 (Tab.getD (s.cell c).stats 0 0) ++
      toLe 4 (Tab.getD (s.cell c).stats 1 0) ++ (rangeFrom 2 9).flatMap fun k => toLe 2 (Tab.getD (s.cell c).stats k 0)))) := by
  change Host.Outcome.next (s.fhStats g cid) = _
  subst hc hu
  simp only [State.fhStats, hq, hmine, Bool.not_true, Bool.false_eq_true, if_false]

/-! ### Slot boundaries and phases (R204, R208, R560) -/

theorem exec_slotBoundary_running (s u w : State) (c n : Nat) (f : CellCfg) (hslot : (s.cell c).slotFrom ((s.cell c).cur + 1) = some (n, f))
    (hrun : (s.cell c).st.running = true) (hu : u = (s.untilTai (s.slotT0 f n)).modCell c fun x => x.atBoundary n)
    (hw : w = if u.releasedAll c n && u.doneAll c then u.addFld F.RAD_CELL_HEARTBEAT_HEARTBEAT 1 c else u) :
    exec (.slotBoundary c) s = .next ((w.harqSettle c).settleCell c) := by
  change Host.Outcome.next (s.slotBoundary c) = _
  subst hw hu
  simp only [State.slotBoundary, hslot, hrun, if_true]

theorem exec_phaseRelease_due (s u : State) (c n p : Nat) (f : CellCfg) (e : List Byte) (hdue : s.phaseDue c n p = some (f, e))
    (hu : u = s.untilTai (s.fromT0 f n (phRelease e))) : exec (.phaseRelease c n p) s = .next ((phRuns e).foldl
      (fun s r => s.startPhaseRun c n p (wrapInt ((u.slotT0ns f n : Int) + phDeadline e) 32) f e r.1 r.2.1)
      (u.modCell c fun x => { x with phases := x.phases ++ [⟨n, p, (phRuns e).length, true, false⟩] })) := by
  change Host.Outcome.next (s.phaseRelease c n p) = _
  subst hu
  simp only [State.phaseRelease, hdue]

/-- Settles O14: each command's guards hold, so the step is the branch that carries it out. -/
theorem cellCommandsComplete : Obligations.CellCommandsComplete := by
  unfold Obligations.CellCommandsComplete
  refine ⟨fun s v c d hc hd hst hwas ha hstrict _ => exec_cellAssignWrite_new s v c d hc hd hst hwas ha hstrict, exec_cellConfig_now,
    exec_cellStart_now, exec_cellStop_now, exec_slot_accepted, exec_harqFlush_accepted, ?_, exec_grantWrite_invalid, ?_, ?_⟩
  · intro s g cid c q hq hc hmine v u
    exact exec_fhStats_mine s u g cid c q hq hc hmine rfl
  · intro s c n f hslot hrun u w
    exact exec_slotBoundary_running s u w c n f hslot hrun rfl rfl
  · intro s c n p f e hdue u
    exact exec_phaseRelease_due s u c n p f e hdue rfl

end Sys2Proof.Machine
end

/-! ## PROOFS of the family of completions: the fronthaul (R226, R237 to R253). -/

section
namespace Sys2Proof.Machine

/-! ### The gain loop, hand-off and preamble detection (R237, R243 to R250) -/

theorem exec_agcBlockEnd_full (s u : State) (c stream : Nat) (a : Agc) (f : CellCfg) (hrun : (s.cell c).st.running = true)
    (hu : u = s.agcTrailing c stream) (hplace : u.agcPlace c stream = some (a, f)) (hsplit : f.split = 2)
    (hrun' : (u.cell c).st.running = true) (hfull : a.idx + 16 ≤ f.symLen (a.at_ / 16) (a.at_ % 16))
    (hgot : (u.cell c).received stream a 16 = true) : exec (.agcBlockEnd c stream) s =
      .next ((u.untilTai (u.symTime f (a.at_ / 16) (a.at_ % 16) + (a.idx + 16) * 1000000000 * 65536 / f.rateHz)).agcRun c stream a f) := by
  change Host.Outcome.next (s.agcBlockEnd c stream) = _
  simp only [State.agcBlockEnd, hrun, if_true, ← hu, hplace]
  rw [if_pos ⟨hsplit, hrun', hfull, hgot⟩]

theorem exec_symbolHandoff_due (s : State) (c n sym : Nat) (f : CellCfg) (hcfg : (s.cell c).cfgAt n = some f) (hsym : sym < f.nsym)
    (hseen : (s.cell c).seen.contains (n, true) = true) (hruns : (s.cell c).runs n = true)
    (hnew : (s.cell c).handedOff.contains (n, sym) = false) :
    exec (.symbolHandoff c n sym) s = .next ((((rangeFrom 0 f.ulStreams).foldl (fun s r => (s.handStream c n sym r f).1.spillStream c n sym r f
      (s.handStream c n sym r f).2) (s.untilTai (s.symTime f n sym + 65536 * (2000 + f.ta4Max)))).modCell c fun x =>
        { x with handedOff := (n, sym) :: x.handedOff }).modSlotJob c n true fun j => { j with handed := sym :: j.handed }) := by
  change Host.Outcome.next (s.symbolHandoff c n sym) = _
  simp only [State.symbolHandoff, hcfg]
  rw [if_pos ⟨hsym, hseen, hruns, hnew⟩]

theorem exec_prachPeriodEnd_received (s : State) (c n k stream period y p : Nat) (i : Item) (f : CellCfg)
    (hitem : ((s.cell c).job? n true).bind (fun j => j.items[k]?) = some i) (hcfg : (s.cell c).cfgAt n = some f) (hty : i.ty = 0x13)
    (hsplit : f.split = 2) (hplace : f.samplePlace n i.nsym i.sym0 (ceilDiv ((period + 1) * f.rateHz) i.prachHz) = (y, p))
    (hy : y < i.sym0 + i.nsym)
    (hwhole : ((rangeFrom i.sym0 (y - i.sym0)).all fun z => (rangeFrom 0 (f.symLen n z)).all ((s.cell c).hasSample n z stream)) = true)
    (hpart : ((rangeFrom 0 p).all ((s.cell c).hasSample n y stream)) = true) :
    exec (.prachPeriodEnd c n k stream period) s = .next (s.agcUpTo c stream (n * 16 + y) p) := by
  change Host.Outcome.next (s.prachPeriodEnd c n k stream period) = _
  simp only [State.prachPeriodEnd, hitem, hcfg, hplace, hwhole, hpart, Bool.and_self]
  rw [if_pos ⟨hty, hsplit, hy, trivial⟩]

theorem exec_prachDetect_report (s : State) (c n k : Nat) (i : Item) (f : CellCfg) (j : SlotJob) (hitem : s.ulItem c n k = some (i, f, j))
    (hty : i.ty = 0x13) (hhanded : j.allHanded i = true) (hphase : s.phaseState c n i = some true) :
    exec (.prachDetect c n k) s = .next (s.prachReport c n k (prachDets i f.ulStreams (s.prachWindows c n f i))) := by
  change Host.Outcome.next (s.prachDetect c n k) = _
  simp only [State.prachDetect, hitem, hty, hhanded, hphase, and_self, if_true]

/-! ### Fronthaul egress (R226, R238) -/

theorem exec_cplaneEmit_due (s u : State) (c n sym : Nat) (up : Bool) (j : SlotJob) (f : CellCfg) (l : List Item)
    (hjob : (s.cell c).job? n up = some j) (hcfg : (s.cell c).cfgAt n = some f) (hl : l = j.items.filter (fun i => i.covers sym))
    (htime : s.timeValid = true) (hsplit : f.split ≠ 2) (hne : l ≠ []) (hnew : j.csent.contains sym = false)
    (hu : u = s.untilTai (s.symTime f n sym - (if up then f.t1aCpUl else f.t1aCpDl) * 65536)) :
    exec (.cplaneEmit c n sym up) s = .next ((u.modSlotJob c n up fun j => { j with csent := sym :: j.csent }).cMessages c n sym up f l) := by
  change Host.Outcome.next (s.cplaneEmit c n sym up) = _
  simp only [State.cplaneEmit, hjob, hcfg, ← hl, ← hu]
  rw [if_pos ⟨htime, hsplit, hne, hnew⟩]

theorem exec_uplaneEmit_due (s u : State) (c n sym : Nat) (j : SlotJob) (f : CellCfg) (l : List Item)
    (hjob : (s.cell c).job? n false = some j) (hcfg : (s.cell c).cfgAt n = some f) (htime : s.timeValid = true) (hsym : sym < f.nsym)
    (hnew : j.sent.contains sym = false) (hl : l = j.items.filter (fun i => i.covers sym && i.st == .prepared))
    (hu : u = s.untilTai (s.symTime f n sym -
      (if (j.items.filter fun i => i.sym0 == sym && !i.settled).all (fun i => i.st == .prepared) then f.t1aUpMax else f.t1aUpMin) * 65536)) :
    exec (.uplaneEmit c n sym) s = .next (((((if l = [] then u else u.sendSymbol c n sym f l).modSlotJob c n false fun j =>
      { j with sent := sym :: j.sent }).dropUnready c n sym j)).dlDone c n sym j) := by
  change Host.Outcome.next (s.uplaneEmit c n sym) = _
  simp only [State.uplaneEmit, hjob, hcfg, ← hl, ← hu]
  rw [if_pos ⟨htime, hsym, hnew⟩]

/-! ### Parity errors of the front end (R253) -/

/-- The symbol of some streams of a cell slot zero-filled. -/
def State.zeroFill (s : State) (c n sym dom : Nat) (f : CellCfg) (streams : List Nat) : State :=
  streams.foldl (fun t r => (t.zeroRange .radio dom (f.symAt c n sym r) (48 * f.nprb)).modCell c fun y =>
    y.addFill n sym r false (0, f.nprb)) s

theorem State.cellDom_zeroFill (s : State) (c n sym dom : Nat) (f : CellCfg) (streams : List Nat) (x : Nat) :
    (s.zeroFill c n sym dom f streams).cellDom x = s.cellDom x := by
  induction streams generalizing s with
  | nil => rfl
  | cons r l ih => exact ih _

theorem exec_decompParity_configured (s : State) (c n sym : Nat) (f : CellCfg) (hcfg : (s.cell c).cfgAt n = some f) :
    exec (.decompParity c n sym) s = .next (((s.zeroFill c n sym (s.cellDom c) f (rangeFrom 0 f.ulStreams)).raise
      F.FH_ERR_STATUS_DECOMP_PARITY).faultRecord (s.radioRecord c causeDecompParity 0 ucDecomp 0 0 sym)) := by
  change Host.Outcome.next (s.decompParity c n sym) = _
  simp only [State.decompParity, hcfg]
  rw [← State.zeroFill, State.radioRecord, State.cellDom_zeroFill]
  rfl

theorem exec_prachParity_prach (s : State) (c n k : Nat) (i : Item) (f : CellCfg) (j : SlotJob) (hitem : s.ulItem c n k = some (i, f, j))
    (hty : i.ty = 0x13) : exec (.prachParity c n k) s = .next (((s.raise F.FH_ERR_STATUS_PRACH_PARITY).faultRecord
      (s.radioRecord c causePrachParity 1 ucPrach 0 i.id i.sym0)).prachReport c n k []) := by
  change Host.Outcome.next (s.prachParity c n k) = _
  simp only [State.prachParity, hitem, hty, if_true]

/-- Settles O15: each command's guards hold, so the step is the branch that carries it out; zero-filling leaves the cell slots' domains alone. -/
theorem fronthaulCommandsComplete : Obligations.FronthaulCommandsComplete := by
  unfold Obligations.FronthaulCommandsComplete
  refine ⟨exec_agcBlockEnd_full, exec_symbolHandoff_due, exec_prachPeriodEnd_received, exec_prachDetect_report, exec_cplaneEmit_due,
    exec_uplaneEmit_due, exec_decompParity_configured, fun s c n sym => rfl, exec_prachParity_prach⟩

end Sys2Proof.Machine
end

/-! ## PROOFS of the family of completions: the radio engines (R261 to R286). -/

section
namespace Sys2Proof.Machine

/-! ### Estimates and the equalizer (R261 to R269) -/

theorem exec_channelEstimate_pusch (s u : State) (c n k : Nat) (i : Item) (f : CellCfg) (j : SlotJob) (hitem : s.ulItem c n k = some (i, f, j))
    (hu : u = s.meetErrors (s.cellDom c) (f.slotArea n) f.areaBytes) (hty : i.ty = 0x11) (hst : i.st = .waiting)
    (hdmrs : ((bitsSet i.dmrsSyms 14).all j.handed.contains) = true) (hphase : u.phaseState c n i ≠ some false)
    (hmem : u.ulMemFault ⟨c, f, n⟩ i = none) : exec (.channelEstimate c n k) s =
      .next (((if j.lsFresh then u.zeroRange .hbm (u.cellDom c) (f.slotArea n) f.sLs else u).writeLs
        ⟨c, f, n⟩ i).modItem c n true k fun i => i.to .prepared).limitStacks := by
  change Host.Outcome.next (s.channelEstimate c n k).limitStacks = _
  simp only [State.channelEstimate, hitem, ← hu, State.estimatePusch]
  rw [if_pos ⟨hty, hst, hdmrs⟩, if_neg hphase, hmem]

theorem exec_channelEstimate_srs (s u : State) (c n k : Nat) (i : Item) (f : CellCfg) (j : SlotJob) (hitem : s.ulItem c n k = some (i, f, j))
    (hu : u = s.meetErrors (s.cellDom c) (f.slotArea n) f.areaBytes) (hty : i.ty = 0x14) (hhanded : j.allHanded i = true)
    (hphase : u.phaseState c n i = some true) (hmem : u.ulMemFault ⟨c, f, n⟩ i = none) :
    exec (.channelEstimate c n k) s = .next (u.srsDone ⟨c, f, n⟩ k i).limitStacks := by
  change Host.Outcome.next (s.channelEstimate c n k).limitStacks = _
  have hpusch : ¬(i.ty = 0x11 ∧ i.st = .waiting ∧ (bitsSet i.dmrsSyms 14).all j.handed.contains) := by simp [hty]
  simp only [State.channelEstimate, hitem, ← hu]
  rw [if_neg hpusch, if_pos ⟨hty, hhanded⟩]
  simp only [hphase, hmem]

theorem exec_equalize_turn (s u : State) (c n sym : Nat) (j h : SlotJob) (f : CellCfg) (hjob : (s.cell c).job? n true = some j)
    (hcfg : (s.cell c).cfgAt n = some f) (heq : s.unitOff ⟨ucEq, 0⟩ = false) (hdemap : s.unitOff ⟨ucDemap, 0⟩ = false)
    (hnext : s.eqNext = some (c, n, sym))
    (hu : u = (s.meetErrors (s.cellDom c) (f.slotArea n) f.areaBytes).failModels ⟨c, f, n⟩ (j.puschAt sym))
    (hjob' : (u.cell c).job? n true = some h) (hne : h.puschAt sym ≠ [])
    (hmem : ∀ p ∈ h.puschAt sym, u.ulMemFault ⟨c, f, n⟩ p.2 = none) :
    exec (.equalize c n sym) s = .next (u.equalizeItems ⟨c, f, n⟩ sym (h.puschAt sym)).limitStacks := by
  change Host.Outcome.next (s.equalizeSym c n sym).limitStacks = _
  have hgood : (h.puschAt sym).filter (fun p => (u.ulMemFault ⟨c, f, n⟩ p.2).isNone) = h.puschAt sym :=
    List.filter_eq_self.2 fun p hp => by rw [hmem p hp]; rfl
  have hbad : (h.puschAt sym).filter (fun p => (u.ulMemFault ⟨c, f, n⟩ p.2).isSome) = [] :=
    List.filter_eq_nil_iff.2 fun p hp => by rw [hmem p hp]; simp
  simp only [State.equalizeSym, hjob, hcfg, heq, hdemap, hnext, bne_self_eq_false, Bool.or_self, Bool.false_eq_true, if_false, ← hu, hjob',
    Option.map_some, Option.getD_some, hgood, hbad, List.foldl_nil, if_neg hne]

/-! ### Decoders and polar units (R276 to R281) -/

theorem exec_codeBlockDecode_free (s : State) (u : Nat) (q : QBlock) (hunit : ((s.unitsOn ucDec).find? fun u => !s.decBusy.contains u) = some u)
    (hblock : minBy (fun q : QBlock => [q.dl, q.c, q.b.item, q.b.cb]) s.waitingBlocks = some q) :
    exec .codeBlockDecode s = .next (s.modBlock q.c q.n q.b.item q.b.cb fun b => { s.decodeBlock q.f q.n q.i b with unit := some u }) := by
  change Host.Outcome.next s.codeBlockDecode = _
  simp only [State.codeBlockDecode, hunit, hblock]

theorem exec_codeBlockDecoded_done (s v : State) (c n k cb u : Nat) (i h : Item) (f : CellCfg) (j : SlotJob) (b : CodeBlock)
    (hitem : s.ulItem c n k = some (i, f, j)) (hblock : (j.cblocks.find? fun b => b.item == k && b.cb == cb) = some b)
    (hunit : b.unit = some u)
    (hh : h = { i with
      cbDone := cb :: i.cbDone, cbFail := i.cbFail + b2n !b.ok, maxIter := max i.maxIter b.iters,
      harq := if b.stop = 3 ∧ bit i.harq 5 = false then i.harq + 32 else i.harq })
    (hv : v = (((((s.advanceTo b.doneAt).countBlock ((s.advanceTo b.doneAt).cellDom c) u (cbCycles i.seg b.extent b.iters) b).chargeRadio
      ((s.advanceTo b.doneAt).cellDom c) (cbCycles i.seg b.extent b.iters)).modBlock c n k cb fun b => { b with unit := none }).modItem c n true k
      fun _ => h)) :
    exec (.codeBlockDecoded c n k cb) s =
      .next (if h.cbDone.length = i.seg.c then v.finishTb ⟨c, f, n⟩ k h (j.cblocks.filter fun b => b.item == k) else v) := by
  change Host.Outcome.next (s.codeBlockDecoded c n k cb) = _
  subst hv hh
  simp only [State.codeBlockDecoded, hitem, hblock, hunit]

/-- A polar unit taken by a job, and its cycles charged. -/
def State.takePolar (s : State) (u cyc : Nat) (p : PolarJob) : State :=
  { s with rad := { s.rad with polar := Tab.set s.rad.polar u ⟨p.c, p.n, p.k, p.part, s.now + 5 * cyc⟩ } }.chargeRadio (s.cellDom p.c) cyc

theorem exec_polarJob_encode (s v : State) (u cyc : Nat) (p : PolarJob) (hunit : s.freeUnit ucPolar s.rad.polar = some u)
    (hjob : minBy (fun p : PolarJob => [p.dl, p.c, p.k, p.part]) s.polarJobs = some p) (hcyc : cyc = polarCycles p.len)
    (hv : v = s.takePolar u cyc p) (hup : p.up = false) :
    exec .polarJob s = .next (((v.addFld F.RAD_POLAR_JOBS_ENCODES 1).count (0x1D0 + 4 * u) none 1).modItem p.c p.n false p.k
      fun i => { i with cbDone := [0], ready := max i.ready (s.now + 5 * cyc) }).limitStacks := by
  change Host.Outcome.next s.polarNext.limitStacks = _
  subst hv hcyc
  unfold State.polarNext
  rw [hunit, hjob]
  dsimp only
  rw [hup, if_neg Bool.false_ne_true]
  rfl

theorem exec_polarJob_decode (s v w : State) (u cyc : Nat) (p : PolarJob) (i : Item) (f : CellCfg) (j : SlotJob)
    (hunit : s.freeUnit ucPolar s.rad.polar = some u) (hjob : minBy (fun p : PolarJob => [p.dl, p.c, p.k, p.part]) s.polarJobs = some p)
    (hcyc : cyc = polarCycles p.len) (hv : v = s.takePolar u cyc p) (hup : p.up = true)
    (hw : w = ((v.addFld F.RAD_POLAR_JOBS_DECODES 1).count (0x1D1 + 4 * u) none 1).advanceTo (s.now + 5 * cyc))
    (hitem : w.ulItem p.c p.n p.k = some (i, f, j)) : exec .polarJob s = .next (w.polarUp u p i f).limitStacks := by
  change Host.Outcome.next s.polarNext.limitStacks = _
  have hnext : s.polarNext = match w.ulItem p.c p.n p.k with
      | some (i, f, _) => w.polarUp u p i f
      | none => w := by
    subst hw hv hcyc
    unfold State.polarNext
    rw [hunit, hjob]
    dsimp only
    rw [if_pos hup]
    rfl
  rw [hnext, hitem]

theorem exec_pucchDetect_ready (s v : State) (c n k : Nat) (i : Item) (f : CellCfg) (hready : s.uciReady c n k = some (i, f, true))
    (hv : v = s.meetErrors (s.cellDom c) (f.slotArea n) f.areaBytes) (hparts : i.smallParts ≠ [] ∨ i.partsLeft = [])
    (hmem : v.ulMemFault ⟨c, f, n⟩ i = none) : exec (.pucchDetect c n k) s = .next (v.pucchSmall ⟨c, f, n⟩ k i).limitStacks := by
  change Host.Outcome.next (s.pucchDetect c n k).limitStacks = _
  have hleft : ¬(i.smallParts = [] ∧ i.partsLeft ≠ []) := by tauto
  simp only [State.pucchDetect, hready, ← hv, if_neg hleft, if_true, hmem]

/-! ### The downlink (R282, R283) -/

theorem List.take_append_replicate_of_length {α : Type} {b : List α} {n : Nat} (x : α) (h : b.length = n) :
    (b ++ List.replicate n x).take n = b := by
  rw [← h]
  exact List.take_left

theorem exec_encodeCb_free (s w v : State) (c n k cb u cyc : Nat) (i : Item) (f : CellCfg) (b : List Byte) (hitem : s.dlItem c n k = some (i, f))
    (hty : i.ty = 0x01) (hcb : cb < i.seg.c) (hnew : i.cbDone.contains cb = false) (hunit : s.freeUnit ucEnc s.rad.enc = some u)
    (hlen : b.length = ceilDiv i.tbs 8) (hcyc : cyc = encCycles i.seg (i.seg.e (i.totalSoft ⟨c, f, n⟩) i.nl i.qm cb))
    (hw : w = ((((s.addFld F.RAD_ENC_CBS_CBS 1).count (0xD40 + 8 * u) none 1).count (0xD41 + 8 * u) none cyc).count (0xD42 + 8 * u) none 1))
    (hv : v = (if i.data = [] then w.dmaBytes (w.cellDom c) b.length else w).chargeRadio (w.cellDom c) cyc) :
    exec (.encodeCb c n k cb (.data b)) s = .next ({ v with rad := { v.rad with
      enc := Tab.set v.rad.enc u ⟨c, n, k, cb, s.now + 5 * cyc⟩ } }.modItem c n false k fun i => { i with
        cbDone := cb :: i.cbDone, data := if i.data = [] then b else i.data, ready := max i.ready (s.now + 5 * cyc) }) := by
  change Host.Outcome.next (s.encodeCb c n k cb (.data b)) = _
  rw [← Item.encE] at hcyc
  subst hv hw hcyc
  simp only [State.encodeCb, hitem, hunit]
  rw [if_pos ⟨hty, hcb, hnew⟩, List.take_append_replicate_of_length 0 hlen]
  simp only [State.encodeBlock]

theorem exec_precode_intime (s u : State) (c n k : Nat) (i : Item) (f : CellCfg) (hitem : s.dlItem c n k = some (i, f)) (henc : i.encoded = true)
    (hphase : s.phaseState c n i = some true)
    (hu : u = (s.advanceTo i.ready).meetErrors ((s.advanceTo i.ready).cellDom c) (f.slotArea n) f.areaBytes) (hlost : i.lost = false)
    (hmem : i.plain f = true ∨ u.hbmFault (u.cellDom c) (f.slotArea n) f.areaBytes true = none) (htime : u.tai16 ≤ u.leaveBy f n i) :
    exec (.precode c n k) s = .next (u.modItem c n false k fun i => { i with
      st := .prepared, out := u.precodeItem ⟨c, f, n⟩ i }).limitStacks := by
  change Host.Outcome.next (s.precodeStart c n k).limitStacks = _
  rw [show (s.advanceTo i.ready).cellDom c = s.cellDom c from rfl] at hu
  have hflt : (if i.plain f = true then none else u.hbmFault (u.cellDom c) (f.slotArea n) f.areaBytes true) = none := by
    rcases hmem with hplain | hmem
    · rw [if_pos hplain]
    · rw [hmem, ite_self]
  have hok : ¬(i.lost = true ∨ (none : Option Nat).isSome = true ∨ u.leaveBy f n i < u.tai16) := by simp [hlost, htime]
  simp only [State.precodeStart, hitem, henc, if_true, hphase, ← hu, hflt, if_neg hok]

/-! ### Faults of the engines (R286) -/

theorem exec_radioEngineParity_eq (s : State) (cls u c n k : Nat) (hcls : cls = 0x33 ∨ cls = 0x34) :
    exec (.radioEngineParity cls u c n k) s = .next (((((((s.raise F.RAD_ENG_ERR_EQ_PARITY).count
      (if cls = 0x33 then 0xD65 else 0xD6D) none 1).engineRecord c n k true 0x0404 cls u).mapDisable
        ⟨cls, u⟩ 0x0404).raise F.RAD_ERR_STATUS_ENGINE_LOST).endUplink).shedAll 4) := by
  rcases hcls with rfl | rfl <;> rfl

/-- Settles O16: each command's guards hold, so the step is the branch that carries it out. -/
theorem phyCommandsComplete : Obligations.PhyCommandsComplete := by
  unfold Obligations.PhyCommandsComplete
  refine ⟨?_, ?_, exec_codeBlockDecode_free, exec_codeBlockDecoded_done, ?_, exec_pucchDetect_ready, exec_encodeCb_free, exec_precode_intime,
    fun s u c n k => ⟨rfl, ?_, rfl, fun cls hcls => exec_radioEngineParity_eq s cls u c n k hcls⟩⟩
  · intro s c n k i f j hitem u
    exact ⟨exec_channelEstimate_pusch s u c n k i f j hitem rfl, exec_channelEstimate_srs s u c n k i f j hitem rfl⟩
  · intro s u c n sym j h f hjob hcfg heq hdemap hnext hu hjob' hne hmem ls ks out cyc v
    exact exec_equalize_turn s u c n sym j h f hjob hcfg heq hdemap hnext hu hjob' hne hmem
  · intro s v u cyc p hunit hjob hcyc hv
    exact ⟨exec_polarJob_encode s v u cyc p hunit hjob hcyc hv, fun w i f j hup hw hitem =>
      exec_polarJob_decode s v w u cyc p i f j hunit hjob hcyc hv hup hw hitem⟩
  · rintro w rfl
    rfl

end Sys2Proof.Machine
end

/-! ## PROOFS of the family of completions: scrub, SRAM errors and the loss of a stack (R289, R297 to R300, R311 to R313). -/

section
namespace Sys2Proof.Machine

/-! ### Patrol scrub (R289, R297, R298) -/

/-- A block's errors that have come about, met. -/
def State.meetLatent (s : State) (b : Nat) : State := { s with latent := s.latent.filter fun e => e.1 != b }

theorem State.scrubBlock_clean (s : State) (b : Nat) (h : s.latent.filter (fun e => e.1 == b) = []) : s.scrubBlock b 0 = s.meetLatent b := by
  have hgood : ¬(2 ≤ 0 ∨ (s.latent.filter fun e => e.1 == b).any (·.2) = true) := by simp [h]
  have hclean : ¬(0 = 1 ∨ s.latent.filter (fun e => e.1 == b) ≠ []) := by simp [h]
  simp only [State.scrubBlock, if_neg hgood, if_neg hclean]
  rfl

theorem State.scrubBlock_corrected (s : State) (b r : Nat) (hr : r < 2) (h : ∀ e ∈ s.latent.filter (fun e => e.1 == b), e.2 = false)
    (hne : r = 1 ∨ s.latent.filter (fun e => e.1 == b) ≠ []) : s.scrubBlock b r = (s.meetLatent b).blockCorrected b := by
  have hgood : ¬(2 ≤ r ∨ (s.latent.filter fun e => e.1 == b).any (·.2) = true) := by
    rintro (h2 | hany)
    · omega
    · obtain ⟨e, he, hbad⟩ := List.any_eq_true.1 hany
      rw [h e he] at hbad
      exact Bool.false_ne_true hbad
  simp only [State.scrubBlock, if_neg hgood, if_pos hne]
  rfl

theorem State.scrubBlock_poison (s : State) (b r : Nat) (h : 2 ≤ r ∨ (b, true) ∈ s.latent.filter (fun e => e.1 == b)) :
    s.scrubBlock b r = (s.meetLatent b).scrubPoison b := by
  have hbad : 2 ≤ r ∨ (s.latent.filter fun e => e.1 == b).any (·.2) = true :=
    h.imp_right fun he => List.any_eq_true.2 ⟨_, he, rfl⟩
  simp only [State.scrubBlock, if_pos hbad]
  rfl

theorem exec_scrubRead_on (s u v : State) (b r : Nat) (hperiod : s.fld F.MEM_SCRUB_CTRL_PERIOD_H ≠ 0) (hon : s.stacksOn ≠ [])
    (hu : u = s.scrubMove s.scrub.next) (hb : b = u.scrub.next)
    (hv : v = (u.count (0x200 + 256 * (b / stackBlocks) + 4 * pseudoChannel b + 3) none 1).scrubMove (b + 1)) :
    exec (.scrubRead r) s = .next (v.scrubBlock b r) := by
  change Host.Outcome.next (s.scrubRead r) = _
  subst hv hb hu
  simp only [State.scrubRead, hperiod, hon, or_self, if_false]

/-! ### SRAM errors and the loss of a stack (R300, R311 to R313) -/

theorem exec_sramUe (s t u : State) (p : SramPlace) (n : Nat) (ht : t = (s.addFld F.MEM_SRAM_ECC_CORRECTED n).health 22 0 n)
    (hu : u = t.sramNote) : exec (.sramUe p n) s = .next (match p with
      | .scratch bank d off => u.wordUe (bank % 32) d off false
      | .staging d off => u.wordUe 32 d off true
      | .radio c n sym stream prach unit => u.radioUe c n sym stream prach unit
      | .correctedOnly => t) := by
  change Host.Outcome.next (s.sramUe p n) = _
  subst hu ht
  unfold State.sramUe
  cases p <;> rfl

theorem exec_stackLoss_on (s t u : State) (k : Nat) (hon : s.stackOn k = true)
    (ht : t = (((((s.failOnStack k).failLoads k).loseExtents k).forgetUes k).mapDisable ⟨ucStack, k⟩ causeMemLost).raise
      F.MEM_ERR_STATUS_STACK_LOST)
    (hu : u = allDomains.foldl (fun u d => u.lostRecords d k (((s.ownedOn k).filter fun e => e.2.owner == d).map (·.2.idx)))
      (((s.ownedOn k).foldl State.replaceExtent t).extentsChanged s)) :
    exec (.stackLoss k) s = .next ((((u.loseCharts s k).loseCells s k).applyScale).shedDecision 3) := by
  change Host.Outcome.next (s.stackLoss k) = _
  subst hu ht
  simp only [State.stackLoss, hon, if_true]

/-- Settles O17: what a scrub read does follows from the block's errors and the read's result; the other commands are their own branch. -/
theorem memoryFaultCommandsComplete : Obligations.MemoryFaultCommandsComplete := by
  unfold Obligations.MemoryFaultCommandsComplete
  refine ⟨?_, fun s d off => rfl, ?_, exec_stackLoss_on⟩
  · intro s u v b k hperiod hon hu hb hk hv hit w
    subst hk
    have hread := fun r => exec_scrubRead_on s u v b r hperiod hon hu hb hv
    refine ⟨fun hnone => ?_, fun hgood => ⟨?_, fun hsome => ?_⟩, fun r => ?_, fun r hbad => ?_⟩
    · rw [hread, v.scrubBlock_clean b hnone]
      rfl
    · rw [hread, v.scrubBlock_corrected b 1 (by decide) hgood (.inl rfl)]
      rfl
    · rw [hread, v.scrubBlock_corrected b 0 (by decide) hgood (.inr hsome)]
      rfl
    · rw [hread, v.scrubBlock_poison b (r + 2) (.inl (Nat.le_add_left 2 r))]
      rfl
    · rw [hread, v.scrubBlock_poison b r (.inr hbad)]
      rfl
  · intro s t u p n ht hu
    exact (exec_sramUe s t u p n ht hu).trans (by cases p <;> rfl)

end Sys2Proof.Machine
end

/-! ## PROOFS of the family of completions: the memory fabric's commands, messages, timers and tables (R318 to R345). -/

section
namespace Sys2Proof.Machine

/-! ### The fabric's ring commands (R323, R327 to R332) -/

theorem not_and_not_iff_or_not {a b : Bool} : (!a || !b) = true ↔ ¬(a = true ∧ b = true) := by
  cases a <;> cases b <;> decide

theorem exec_fload (s : State) (g cid a n : Nat) (f : Fetched) (hf : s.startable g cid 0x50 = some f) (ha : a = fieldAt f.body 16 8)
    (hn : n = fieldAt f.body 32 4) : exec (.fload g cid) s = .next (if faOk a 64 = true ∧ fabLenOk n = true then
      s.fabStart g f .load a n (fieldAt f.body 36 4) (bit (fieldAt f.body 40 1) 0) [] else s.fabStatus g cid fsAlign a).limitStacks := by
  change Host.Outcome.next (s.fload g cid).limitStacks = _
  subst ha hn
  simp only [State.fload, hf, not_and_not_iff_or_not, ite_not]

theorem exec_fstore (s u : State) (g cid a n : Nat) (f : Fetched) (hf : s.startable g cid 0x51 = some f) (ha : a = fieldAt f.body 16 8)
    (hn : n = fieldAt f.body 32 4)
    (hread : faOk a 64 = true → fabLenOk n = true → s.dmaRead (.fabric g cid) (s.ringInst g) g (fieldAt f.body 24 8) n = some u) :
    exec (.fstore g cid) s = .next (if faOk a 64 = true ∧ fabLenOk n = true then u.stageCmd g f .started else s.fabStatus g cid fsAlign a) := by
  change Host.Outcome.next (s.fstore g cid) = _
  subst ha hn
  simp only [State.fstore, hf, not_and_not_iff_or_not, ite_not]
  split
  next hok => rw [hread hok.1 hok.2]
  next => rfl

theorem exec_fatomic (s : State) (g cid a op : Nat) (f : Fetched) (hf : s.startable g cid 0x52 = some f) (ha : a = fieldAt f.body 16 8)
    (hop : op = fieldAt f.body 24 1) : exec (.fatomic g cid) s = .next (if faOk a 8 = false then s.fabStatus g cid fsAlign a
      else if op > 4 then s.completeStatus g cid stOpcodeInvalid
      else s.fabStart g f (.atomic op (fieldAt f.body 32 8) (fieldAt f.body 40 8)) a 8 (fieldAt f.body 28 4) false []).limitStacks := by
  change Host.Outcome.next (s.fatomic g cid).limitStacks = _
  subst ha hop
  simp only [State.fatomic, hf, Bool.not_eq_true']

theorem exec_finval (s : State) (g cid a n : Nat) (f : Fetched) (hf : s.startable g cid 0x53 = some f) (ha : a = fieldAt f.body 16 8)
    (hn : n = fieldAt f.body 24 4) : exec (.finval g cid) s = .next (if faOk a 64 = false ∨ n % 64 ≠ 0 then s.fabStatus g cid fsAlign a
      else if n = 0 then s.completeStatus g cid stOk else s.fabStart g f .inval a n (fieldAt f.body 28 4) false []) := by
  change Host.Outcome.next (s.finval g cid) = _
  subst ha hn
  simp only [State.finval, hf, Bool.or_eq_true, Bool.not_eq_true', bne_iff_ne]

theorem exec_ffence_alone (s : State) (g cid : Nat) (f : Fetched) (r : Machine.Ring) (hf : s.startable g cid 0x54 = some f)
    (hr : Tab.get? s.rings g = some r) (halone : ∀ x ∈ r.fetched.takeWhile fun x => decide (x ≠ f), x.isFabric = false) :
    exec (.ffence g cid) s = .next (s.completeStatus g cid stOk) := by
  change Host.Outcome.next (s.ffence g cid) = _
  have hnone : (r.fetched.takeWhile fun x => decide (x ≠ f)).any Fetched.isFabric = false :=
    List.any_eq_false.2 fun x hx => by rw [halone x hx]; exact Bool.false_ne_true
  simp only [State.ffence, hf, hr, hnone, Bool.false_eq_true, if_false]

theorem exec_fown (s : State) (g cid a : Nat) (f : Fetched) (hf : s.startable g cid 0x55 = some f) (ha : a = fieldAt f.body 16 8) :
    exec (.fown g cid) s = .next (if faOk a 1 = true then
      s.fabStart g f (.own (fieldAt f.body 24 2 % 1024)) a 1 (fieldAt f.body 28 4) false [] else s.fabStatus g cid fsAlign a) := by
  change Host.Outcome.next (s.fown g cid) = _
  subst ha
  simp only [State.fown, hf, Bool.not_eq_true', Bool.eq_false_iff, ne_eq, ite_not]

theorem exec_fkey_own (s : State) (g cid a r : Nat) (f : Fetched) (e : List Nat) (hf : s.startable g cid 0x56 = some f)
    (ha : a = fieldAt f.body 16 8) (hok : faOk a 1 = true) (hr : s.regionOf a = some (r, e)) (hoper : s.ringOper g = false)
    (hdom : s.ringDom g = reDom e) : exec (.fkey g cid) s =
      .next ((s.setRegionKey r (if bit (fieldAt f.body 28 1) 0 then none else some (fieldAt f.body 24 4))).completeStatus g cid stOk) := by
  change Host.Outcome.next (s.fkey g cid) = _
  subst ha
  simp only [State.fkey, hf, hok, hr, hoper, hdom, bne_self_eq_false, Bool.or_self, Bool.not_true, Bool.false_eq_true, if_false]

theorem exec_fkey_misaligned (s : State) (g cid : Nat) (f : Fetched) (hf : s.startable g cid 0x56 = some f)
    (hbad : faOk (fieldAt f.body 16 8) 1 = false) : exec (.fkey g cid) s = .next (s.fabStatus g cid fsAlign (fieldAt f.body 16 8)) := by
  change Host.Outcome.next (s.fkey g cid) = _
  simp only [State.fkey, hf, hbad, Bool.not_false, if_true]

/-- Settles O18: a command that may start is answered by its address and its length. -/
theorem fabricRingCommandsComplete : Obligations.FabricRingCommandsComplete :=
  ⟨exec_fload, exec_fstore, exec_fatomic, exec_finval, exec_ffence_alone, exec_fown, exec_fkey_own, exec_fkey_misaligned⟩

/-! ### Messages from other nodes (R324, R331, R334, R337, R340) -/

theorem exec_fabricRequestReceive_served (s : State) (nd en tg kd op ad n k ep : Nat) (fl : Bool) (b : List Byte) (q : FKind)
    (hq : reqKind kd op b = some q) (hne : q ≠ .probe) : exec (.fabricRequestReceive nd en tg kd op ad n k ep fl b) s =
      .next ((s.heard nd).serveOrWait ⟨.rem nd en tg, nd, q, ad, n, k, ep, fl, b⟩).limitStacks := by
  change Host.Outcome.next (s.fabricRequest nd en tg kd op ad n k ep fl b).limitStacks = _
  simp only [State.fabricRequest, hq]

theorem exec_mirrorForward_applied (s u v : State) (nd en tg ad k ep r : Nat) (e : List Nat) (b : List Byte) (hu : u = s.heard nd)
    (hr : u.regionOf ad = some (r, e)) (hcheck : u.mirrorCheck r e ad b.length k ep = (v, none))
    (hmem : v.hbmFault (reDom e) (reOffset e ad) b.length false = none) : exec (.mirrorForward nd en tg ad k ep b) s =
      .next ((v.storeData (reDom e) (reOffset e ad) b).sendRsp nd en tg stOk 0 []) := by
  change Host.Outcome.next (s.mirrorForward nd en tg ad k ep b) = _
  subst hu
  simp only [State.mirrorForward, hr, hcheck, hmem]

theorem exec_invalidationReceive_unfilled (s u : State) (nd en tg ad n : Nat) (hu : u = (s.heard nd).addFld F.FAB_CACHE_INVALIDATIONS 1)
    (hfill : u.filledFrom ad n = none) :
    exec (.invalidationReceive nd en tg ad n) s = .next ((u.dropRange ad n).sendRsp nd en tg stOk 0 []) := by
  change Host.Outcome.next (s.invalidation nd en tg ad n) = _
  subst hu
  simp only [State.invalidation, hfill]

theorem exec_invalidationReceive_filled (s u v : State) (nd en tg ad n r : Nat) (e : List Nat) (now : Bool)
    (hu : u = (s.heard nd).addFld F.FAB_CACHE_INVALIDATIONS 1) (hfill : u.filledFrom ad n = some (r, e))
    (hdrop : u.startDrops (.rem nd en tg) r e .inval ad n 0 = (v, now)) :
    exec (.invalidationReceive nd en tg ad n) s = .next (if now then v.sendRsp nd en tg stOk 0 [] else v) := by
  change Host.Outcome.next (s.invalidation nd en tg ad n) = _
  subst hu
  simp only [State.invalidation, hfill, hdrop]

/-! ### Responses and timers (R320, R328, R335, R345) -/

theorem exec_fabricResponse_open (s u : State) (op nd st fl : Nat) (b : List Byte) (ps : List PeerEntry) (o : FOp) (hu : u = s.heard nd)
    (ho : Tab.get? u.fab.ops op = some o) : exec (.fabricResponse op nd st fl b ps) s = .next
      (((({ u with fab := { u.fab with ops := Tab.del u.fab.ops op, timeouts := Tab.del u.fab.timeouts o.node } } : State).opAnswer
        o nd st fl b ps).drainQueue).pumpAll) := by
  change Host.Outcome.next (s.fabricResponse op nd st fl b ps) = _
  subst hu
  simp only [State.fabricResponse, ho]

theorem exec_fabricResponse_late (s : State) (op nd st fl : Nat) (b : List Byte) (ps : List PeerEntry)
    (ho : Tab.get? (s.heard nd).fab.ops op = none) : exec (.fabricResponse op nd st fl b ps) s = .next ((s.heard nd).lateResponse op) := by
  change Host.Outcome.next (s.fabricResponse op nd st fl b ps) = _
  simp only [State.fabricResponse, ho]

theorem exec_fabricOpTimeout_due (s u : State) (op t : Nat) (o : FOp) (ho : Tab.get? s.fab.ops op = some o) (hnode : o.node ≠ s.nodeId)
    (hheld : s.opHeld op = false) (ht : t = s.fld F.FAB_CTRL_TIMEOUT_US * usec) (hu : u = s.advanceTo (o.sentAt + t)) :
    exec (.fabricOpTimeout op) s = .next ((((({ u with fab := { u.fab with ops := Tab.del u.fab.ops op }, quar := u.quar ++
      [{ id := op, engine := o.engine, link := 0, tags := 1, fabric := true, freeAt := u.now + 4 * t }] } : State).noteTimeout o.node).opTimedOut
      o).drainQueue).pumpAll) := by
  change Host.Outcome.next (s.opTimeout op) = _
  subst hu ht
  simp only [State.opTimeout, ho, hnode, hheld, Bool.false_eq_true, or_self, if_false]

theorem exec_quarantineExpire_found (s : State) (fb : Bool) (id : Nat) (q : Quarantine)
    (hq : (s.quar.find? fun q => q.fabric == fb && q.id == id) = some q) : exec (.quarantineExpire fb id) s =
      .next ({ s.advanceTo q.freeAt with quar := (s.advanceTo q.freeAt).quar.erase q } : State).pumpAll := by
  change Host.Outcome.next (s.quarantineEnd fb id) = _
  simp only [State.quarantineEnd, hq]

theorem exec_probeTimer_due (s u : State) (n p : Nat) (l : List Nat) (hn : n ≠ s.nodeId)
    (hdue : s.nodeDown n = true ∨ (s.homesKept.contains n = true ∧ s.silent n = true)) (hports : s.livePorts n = p :: l)
    (hsend : s.sendOp ⟨.probe, .probe, n, 0, 0, 0, 0, [], 0, 0, 0, false, false, false, []⟩ = some u) :
    exec (.probeTimer n) s = .next (u.count (0xD80 + 32 * p + 14) none 1) := by
  change Host.Outcome.next (s.probe n) = _
  unfold State.probe
  rw [if_pos ⟨hn, hdue⟩, hports]
  simp only [hsend]

theorem exec_leaseExpire_due (s u : State) (n t : Nat) (ht : Tab.get? s.fab.heard n = some t)
    (hu : u = (s.advanceTo (t + s.fld F.FAB_CTRL_LEASE_US * usec)).dropLines (fun l => l.home == n)) :
    exec (.leaseExpire n) s = .next { u with fab := { u.fab with heard := Tab.del u.fab.heard n, detached := (u.fab.detached ++
      (u.fab.regions.filter fun p => reValid p.2 && reRole p.2 == 2 && u.homeOf p.2 == n).map (·.1)).eraseDups } } := by
  change Host.Outcome.next (s.leaseExpire n) = _
  subst hu
  simp only [State.leaseExpire, ht]

theorem exec_sharerDrop_due (s u : State) (h n t : Nat) (x : HomeOp) (hx : Tab.get? s.fab.homes h = some x)
    (ht : Tab.get? x.failedAt n = some t) (hu : u = s.advanceTo (t + s.fld F.FAB_CTRL_LEASE_US * usec)) :
    exec (.sharerDrop h n) s = .next (((({ u with fab := { u.fab with
      homes := Tab.set u.fab.homes h { x with
        waiting := x.waiting.erase n, failedAt := Tab.del x.failedAt n, dropped := x.dropped + 1 }
      sharers := Tab.modify u.fab.sharers x.region fun l => l.erase n } } : State).homeCheck h).drainQueue).pumpAll) := by
  change Host.Outcome.next (s.sharerDrop h n) = _
  subst hu
  simp only [State.sharerDrop, hx, ht]

/-! ### The tables and FAB_CTRL (R318, R322, R335, R352) -/

theorem exec_fabCtrlWrite_refused (s : State) (v : Nat) (h : bits v 36 27 < 3 * bits v 43 37) :
    exec (.fabCtrlWrite v) s = .next (s.raise F.FAB_ERR_STATUS_LEASE_CONFIG) := by
  change Host.Outcome.next (s.fabCtrl v) = _
  rw [State.fabCtrl, if_pos h]

theorem exec_fabCtrlWrite_stored (s : State) (v : Nat) (h : ¬bits v 36 27 < 3 * bits v 43 37) :
    exec (.fabCtrlWrite v) s = .next ((((s.setFld F.FAB_CTRL_TIMEOUT_US (clamp 10 100000 (bits v 26
      10))).setFld F.FAB_CTRL_LEASE_US (bits v 36 27)).setFld F.FAB_CTRL_PROBE_US (bits v 43 37)).setFld F.FAB_CTRL_DOWN_AFTER
      (max 1 (bits v 47 44))) := by
  change Host.Outcome.next (s.fabCtrl v) = _
  rw [State.fabCtrl, if_neg h]

/-- Settles O19: each message, timer and write finds what it acts on, so the step is the branch that carries it out. -/
theorem fabricMessagesTablesAndTimersComplete : Obligations.FabricMessagesTablesAndTimersComplete := by
  unfold Obligations.FabricMessagesTablesAndTimersComplete
  refine ⟨fun s nd en tg op ad n k ep fl b => ⟨rfl, fun kd q hq hne =>
      exec_fabricRequestReceive_served s nd en tg kd op ad n k ep fl b q hq hne⟩, exec_mirrorForward_applied, ?_, exec_fabricResponse_open,
    exec_fabricResponse_late, exec_fabricOpTimeout_due, exec_quarantineExpire_found, exec_probeTimer_due, exec_leaseExpire_due,
    exec_sharerDrop_due, fun s v fd => ⟨rfl, rfl, rfl, rfl⟩, fun s v => ⟨exec_fabCtrlWrite_refused s v, exec_fabCtrlWrite_stored s v⟩⟩
  intro s u nd en tg ad n hu
  exact ⟨exec_invalidationReceive_unfilled s u nd en tg ad n hu, fun r e v hfill =>
    ⟨exec_invalidationReceive_filled s u v nd en tg ad n r e false hu hfill, exec_invalidationReceive_filled s u v nd en tg ad n r e true hu hfill⟩⟩

end Sys2Proof.Machine
end

/-! ## PROOFS of the family of completions: the Rhumb ports (R317, R348, R349, R431). -/

section
namespace Sys2Proof.Machine

/-! ### Flits and retraining of a port that is up (R348, R349, R431) -/

theorem exec_widen_up (s : State) (p : Nat) (hup : s.portUp (p % 4) = true) : exec (.widen p) s = .next (s.startRetrain (p % 4) 255) := by
  change Host.Outcome.next (s.widen (p % 4)) = _
  rw [State.widen, if_pos hup]

theorem exec_linkKeyUpdate_up (s : State) (p q : Nat) (hq : q = p % 4) (hup : s.portUp q = true) : exec (.linkKeyUpdate p) s =
    .next ((s.setRhb q { s.rhb q with msgs := 0, keyGen := (s.rhb q).keyGen + 1 }).count (rhbSrc q 15) none 1) := by
  change Host.Outcome.next (s.linkKeyUpdate (p % 4)) = _
  subst hq
  simp only [State.linkKeyUpdate, hup, if_true]

theorem State.flitReceive_badCrc (s u : State) (p seq ack kind : Nat) (tagOk : Bool) (ms : List FabMsg) (hup : s.portUp p = true)
    (hu : u = s.count (rhbSrc p 1) none 1) : s.flitReceive p seq ack kind false tagOk ms = (u.count (rhbSrc p 4) none 1).sendNak p := by
  subst hu
  simp only [State.flitReceive, hup, if_true]

theorem State.flitReceive_goodCrc (s v : State) (p seq ack : Nat) (tagOk : Bool) (ms : List FabMsg) (hup : s.portUp p = true)
    (hv : v = ((s.count (rhbSrc p 1) none 1).takeAck p ack).pumpPort p) :
    s.flitReceive p seq ack 0 true tagOk ms = v.takeFlit p seq tagOk ms ∧
    s.flitReceive p seq ack 1 true tagOk ms = v.count (rhbSrc p 11) none 1 ∧
    s.flitReceive p seq ack 2 true tagOk ms = v.replay p ∧
    s.flitReceive p seq ack 3 true tagOk ms = v.count (rhbSrc p 12) none 1 := by
  subst hv
  simp only [State.flitReceive, hup, if_true, Bool.true_eq_false, if_false, Nat.zero_mod, Nat.one_mod, Nat.reduceMod, and_self]

theorem State.retrainDone_eq (s : State) (p lock : Nat) (hup : s.portUp p = true) (hret : s.flag F.FAB_PORT_STATUS_RETRAINING p = true) :
    s.retrainDone p lock = if popCount 8 ((s.rhb p).lanes &&& lock) < 4 then
      ((s.setFld F.FAB_PORT_STATUS_LANE_LOCK lock p).setRhb p
        { (s.setFld F.FAB_PORT_STATUS_LANE_LOCK lock p).rhb p with used := (s.rhb p).lanes &&& lock }).portDown p
      else (s.setFld F.FAB_PORT_STATUS_LANE_LOCK lock p).retrained p ((s.rhb p).lanes &&& lock) := by
  simp only [State.retrainDone, hup, hret, Bool.and_self, if_true]

theorem exec_rhumbRetrainDone_down (s t : State) (p lock used q : Nat) (hup : s.portUp q = true)
    (hret : s.flag F.FAB_PORT_STATUS_RETRAINING q = true) (hq : q = p % 4) (hused : used = (s.rhb q).lanes &&& lock % 256)
    (hfew : popCount 8 used < 4) (ht : t = s.setFld F.FAB_PORT_STATUS_LANE_LOCK (lock % 256) q) :
    exec (.rhumbRetrainDone ⟨p, lock⟩) s = .next ((t.setRhb q { t.rhb q with used := used }).portDown q) := by
  change Host.Outcome.next (s.retrainDone (p % 4) (lock % 256)) = _
  rw [← hq, State.retrainDone_eq s q (lock % 256) hup hret, ← hused, if_pos hfew, ← ht]

theorem exec_rhumbRetrainDone_up (s t u v : State) (p lock used n q : Nat) (hup : s.portUp q = true)
    (hret : s.flag F.FAB_PORT_STATUS_RETRAINING q = true) (hq : q = p % 4) (hused : used = (s.rhb q).lanes &&& lock % 256)
    (hn : n = popCount 8 used) (hmany : 4 ≤ n) (ht : t = s.setFld F.FAB_PORT_STATUS_LANE_LOCK (lock % 256) q)
    (hu : u = ((((((t.setRhb q { t.rhb q with used := used }).setFld F.FAB_PORT_STATUS_RETRAINING 0 q).setFld
      F.FAB_PORT_STATUS_LANES_ACTIVE n q).satFld F.FAB_PORT_ERR_RETRAINS 1 q).count (rhbSrc q 7) none 1).health (8 + q) 2 1))
    (hv : v = (if n < t.fld F.FAB_PORT_STATUS_LANES_ACTIVE q then (((u.satFld F.FAB_PORT_ERR_LANE_SHEDS 1 q).raise
      F.FAB_ERR_STATUS_LANE_SHED).count (rhbSrc q 8) none 1).health (8 + q) 3 1 else u)) :
    exec (.rhumbRetrainDone ⟨p, lock⟩) s =
      .next ((if v.fld F.FAB_PORT_STATUS_REPLAY_USED q = 0 then v else v.replay q).pumpPort q) := by
  change Host.Outcome.next (s.retrainDone (p % 4) (lock % 256)) = _
  subst hn
  rw [← hq, State.retrainDone_eq s q (lock % 256) hup hret, ← hused, if_neg (Nat.not_lt.2 hmany), ← ht]
  subst hv hu
  simp only [State.retrained, decide_eq_true_eq]

/-! ### The loss of lanes (R349) -/

/-- A port whose lanes of a mask lose lock: each is counted, and LANE_LOCK holds the others. -/
def State.loseLocks (s : State) (p mask : Nat) : State :=
  (((rangeFrom 0 8).filter fun i => bit mask i && bit (s.fld F.FAB_PORT_STATUS_LANE_LOCK p) i).foldl
    (fun s i => s.count (rhbSrc p (16 + i)) none 1) s).setFld F.FAB_PORT_STATUS_LANE_LOCK
    (sumList ((rangeFrom 0 8).map fun i => if bit (s.fld F.FAB_PORT_STATUS_LANE_LOCK p) i && !bit mask i then 2 ^ i else 0)) p

/-- The lanes in use that a mask leaves. -/
def State.lanesLeft (s : State) (p mask : Nat) : Nat :=
  sumList ((rangeFrom 0 8).map fun i => if bit (s.rhb p).used i && !bit mask i then 2 ^ i else 0)

/-- What a port does that has lost the lanes of a mask. -/
def State.afterLoss (s : State) (p left : Nat) : State :=
  if s.portUp p && (left != (s.rhb p).used) then
    if popCount 8 left < 4 then (s.setRhb p { s.rhb p with used := left }).portDown p
    else (s.setRhb p { s.rhb p with used := left }).startRetrain p left
  else s

theorem State.rhumbLaneLoss_eq (s : State) (p mask : Nat) :
    s.rhumbLaneLoss p mask = (s.loseLocks p mask).afterLoss p ((s.loseLocks p mask).lanesLeft p mask) := by
  unfold State.rhumbLaneLoss
  extract_lets lock lost u v x left
  rfl

theorem State.afterLoss_stays {s : State} {p left : Nat} (h : s.portUp p = false ∨ left = (s.rhb p).used) : s.afterLoss p left = s := by
  have hstay : (s.portUp p && (left != (s.rhb p).used)) = false := by
    rcases h with hdown | heq
    · rw [hdown, Bool.false_and]
    · rw [heq, bne_self_eq_false, Bool.and_false]
  rw [State.afterLoss, hstay, if_neg Bool.false_ne_true]

theorem State.afterLoss_down {s : State} {p left : Nat} (hup : s.portUp p = true) (hne : left ≠ (s.rhb p).used) (hfew : popCount 8 left < 4) :
    s.afterLoss p left = (s.setRhb p { s.rhb p with used := left }).portDown p := by
  rw [State.afterLoss, hup, bne_iff_ne.2 hne, Bool.and_self, if_pos rfl, if_pos hfew]

theorem State.afterLoss_retrains {s : State} {p left : Nat} (hup : s.portUp p = true) (hne : left ≠ (s.rhb p).used)
    (hmany : ¬popCount 8 left < 4) : s.afterLoss p left = (s.setRhb p { s.rhb p with used := left }).startRetrain p left := by
  rw [State.afterLoss, hup, bne_iff_ne.2 hne, Bool.and_self, if_pos rfl, if_neg hmany]

theorem exec_rhumbLaneLoss (s u : State) (p mask left : Nat) (hu : u = s.loseLocks (p % 4) mask) (hleft : left = u.lanesLeft (p % 4) mask) :
    exec (.rhumbLaneLoss p mask) s = .next (u.afterLoss (p % 4) left) := by
  change Host.Outcome.next (s.rhumbLaneLoss (p % 4) mask) = _
  rw [State.rhumbLaneLoss_eq, ← hu, ← hleft]

/-! ### Training (R317, R431) -/

theorem exec_linkTrain_locked (s u : State) (p peer lock q : Nat) (auth : Bool) (hq : q = p % 4) (hen : s.flag F.FAB_PORT_CTRL_ENABLE q = true)
    (hunit : s.unitOff ⟨ucRhumb, q⟩ = false) (hclock : s.clockLost 2 (q / 2) = false) (hdown : s.portUp q = false)
    (hlanes : 4 ≤ popCount 8 (lock % 256)) (hpeer : peer < 1024) (hother : peer ≠ s.nodeId)
    (hu : u = ((s.setFld F.FAB_PORT_STATUS_LANE_LOCK (lock % 256) q).setFld F.FAB_PORT_STATUS_PEER_NODE peer q)) (hid : u.nodeId = s.nodeId) :
    exec (.linkTrain p peer lock auth) s = .next (if auth then
      (((((u.setRhb q ⟨lock % 256, lock % 256, 0, (u.rhb q).keyGen + 1, false, none, []⟩).setFld F.FAB_PORT_STATUS_UP 1 q).setFld
        F.FAB_PORT_STATUS_LANES_ACTIVE (popCount 8 (lock % 256)) q).setFld F.FAB_PORT_STATUS_TX_SEQ 0 q).setFld
        F.FAB_PORT_STATUS_RX_EXPECTED 0 q).setFld F.FAB_PORT_STATUS_REPLAY_USED 0 q
      else u.raise F.ISO_ERR_STATUS_LINK_AUTH) := by
  change Host.Outcome.next (s.linkTrain (p % 4) (peer % 1024) lock auth) = _
  rw [← hid] at hother
  rw [← hq, Nat.mod_eq_of_lt hpeer]
  simp only [State.linkTrain, hen, hunit, hclock, hdown, hlanes, decide_true, Bool.not_false, Bool.and_self, if_true, ← hu, if_neg hother]
  cases auth with
  | false => rw [if_pos rfl, if_neg Bool.false_ne_true]
  | true => rw [if_neg Bool.true_eq_false_eq_False, if_pos rfl]

/-- Settles O20: a port that is up, or that may train, takes the branch that its lanes and its flit name. -/
theorem rhumbCommandsComplete : Obligations.RhumbCommandsComplete := by
  unfold Obligations.RhumbCommandsComplete
  refine ⟨exec_widen_up, ?_, ?_, exec_rhumbRetrainDone_down, exec_rhumbRetrainDone_up, ?_, exec_linkKeyUpdate_up⟩
  · rintro s u p seq ack tagOk ms hup hu
    refine ⟨fun k => congrArg _ (s.flitReceive_badCrc u (p % 4) seq ack k tagOk ms hup hu), fun v hv => ?_⟩
    subst hu
    obtain ⟨hmsg, hidle, hnak, hctl⟩ := s.flitReceive_goodCrc v (p % 4) seq ack tagOk ms hup hv
    exact ⟨congrArg _ hmsg, congrArg _ hidle, congrArg _ hnak, congrArg _ hctl⟩
  · intro s u p mask lock left hlock hu hleft
    subst hlock
    rw [exec_rhumbLaneLoss s u p mask left hu hleft]
    exact ⟨fun h => by rw [State.afterLoss_stays h], fun hup hne hfew => by rw [State.afterLoss_down hup hne hfew],
      fun hup hne hmany => by rw [State.afterLoss_retrains hup hne hmany]⟩
  · intro s u p peer lock q hq hen hunit hclock hdown hlanes hpeer hother hu hid
    exact ⟨exec_linkTrain_locked s u p peer lock q false hq hen hunit hclock hdown hlanes hpeer hother hu hid,
      exec_linkTrain_locked s u p peer lock q true hq hen hunit hclock hdown hlanes hpeer hother hu hid⟩

end Sys2Proof.Machine
end

/-! ## PROOFS of the family of completions: the page of instances (R354, R363, R366, R371, R375, R451 to R457). -/

section
namespace Sys2Proof.Machine

/-! ### Writes of the page of instances (R354, R355, R363, R366, R375) -/

theorem State.pageWrite_bound {s : State} {i k : Nat} (f : State → State) (hrun : s.running = true) (hpage : s.page i k = some true) :
    s.pageWrite i k f = f s := by
  simp only [State.pageWrite, hrun, hpage, Bool.not_true, Bool.false_eq_true, if_false]

theorem exec_doorbell_page (s : State) (i l v k g : Nat) (r : Machine.Ring) (hi : i < 1024) (hl : l < 64) (hk : k < 2) (hrun : s.running = true)
    (hpage : s.page i k = some true) (hring : s.localRing i l = some (g, r)) :
    exec (.doorbell i l v k) s = .next (if s.ringState r = ringEnabled ∧ s.instQuiet i = false then (s.noteDoorbell i).ringDoorbell g v else
      s.dropDoorbell i) := by
  change Host.Outcome.next (s.doorbell (i % 1024) (l % 64) v (k % 2)) = _
  rw [Nat.mod_eq_of_lt hi, Nat.mod_eq_of_lt hl, Nat.mod_eq_of_lt hk, State.doorbell, State.pageWrite_bound _ hrun hpage]
  simp only [hring]

theorem State.ringCfgWrite_page {s : State} {i l k g : Nat} {r : Machine.Ring} (v : Nat) (hrun : s.running = true)
    (hpage : s.page i k = some true) (hring : s.localRing i l = some (g, r)) : s.ringCfgWrite i l v k = s.writeRingCfg g r v := by
  rw [State.ringCfgWrite, State.pageWrite_bound _ hrun hpage]
  simp only [hring]

/-- SHARE and ENABLE of a ring's RING_CFG stored from a written word. -/
def State.storeShare (s : State) (r : Machine.Ring) (w : Nat) : State :=
  ((s.noteReg F.RING_CFG_SHARE.reg r.key).setFld F.RING_CFG_SHARE (max 1 (w / 2 ^ 31 % 65536)) r.key).setFld F.RING_CFG_ENABLE
    (w / 2 ^ 47 % 2) r.key

theorem State.writeRingCfg_disabled {s : State} {g w : Nat} {r : Machine.Ring} (h : s.ringState r = ringDisabled) (hbit : bit w 47 = true) :
    s.writeRingCfg g r w = (((s.setFld F.RING_CFG_SQ_LOG2 (w / 2 ^ 16 % 32) r.key).setFld F.RING_CFG_CQ_LOG2
      (w / 2 ^ 21 % 32) r.key).storeShare r w).enableRing g r := by
  simp only [State.writeRingCfg, h, hbit, if_true]
  rfl

theorem State.writeRingCfg_enabled {s : State} {g w : Nat} {r : Machine.Ring} (h : s.ringState r = ringEnabled) (hbit : bit w 47 = false) :
    s.writeRingCfg g r w = (s.storeShare r w).disableRing g r := by
  have hne : ¬s.ringState r = ringDisabled := by rw [h]; decide
  simp only [State.writeRingCfg, if_neg hne, hbit, Bool.false_eq_true, if_false]
  rfl

theorem exec_ringEnable_disabled (s t u : State) (i l v k g : Nat) (r : Machine.Ring) (hi : i < 1024) (hl : l < 64) (hk : k < 2)
    (hrun : s.running = true) (hpage : s.page i k = some true) (hring : s.localRing i l = some (g, r)) (hst : s.ringState r = ringDisabled)
    (hbit : bit (v ||| 2 ^ 47) 47 = true)
    (ht : t = ((s.setFld F.RING_CFG_SQ_LOG2 ((v ||| 2 ^ 47) / 2 ^ 16 % 32) r.key).setFld F.RING_CFG_CQ_LOG2 ((v ||| 2 ^ 47) / 2 ^ 21 % 32) r.key))
    (hu : u = t.storeShare r (v ||| 2 ^ 47)) (hst' : u.ringState r = ringDisabled) :
    exec (.ringEnable i l v k) s = .next (if u.ringCfgOk r.key = true then u.clearRing g r ringEnabled
      else u.setFld F.RING_STATUS_ERR_CAUSE 3 r.key) := by
  change Host.Outcome.next (s.ringCfgWrite (i % 1024) (l % 64) (v ||| 2 ^ 47) (k % 2)) = _
  rw [Nat.mod_eq_of_lt hi, Nat.mod_eq_of_lt hl, Nat.mod_eq_of_lt hk, State.ringCfgWrite_page _ hrun hpage hring,
    State.writeRingCfg_disabled hst hbit, ← ht, ← hu, State.enableRing, if_pos hst']

theorem exec_ringDisable_enabled (s u : State) (i l v w k g : Nat) (r : Machine.Ring) (hi : i < 1024) (hl : l < 64) (hk : k < 2)
    (hrun : s.running = true) (hpage : s.page i k = some true) (hring : s.localRing i l = some (g, r)) (hst : s.ringState r = ringEnabled)
    (hw : w = v - v / 2 ^ 47 % 2 * 2 ^ 47) (hbit : bit w 47 = false) (hu : u = s.storeShare r w) (hst' : u.ringState r = ringEnabled) :
    exec (.ringDisable i l v k) s = .next ((u.setFld F.RING_STATUS_STATE ringQuiescing r.key).quiesceDone g) := by
  change Host.Outcome.next (s.ringCfgWrite (i % 1024) (l % 64) (v - v / 2 ^ 47 % 2 * 2 ^ 47) (k % 2)) = _
  rw [Nat.mod_eq_of_lt hi, Nat.mod_eq_of_lt hl, Nat.mod_eq_of_lt hk, ← hw, State.ringCfgWrite_page _ hrun hpage hring,
    State.writeRingCfg_enabled hst hbit, ← hu, State.disableRing, if_pos (.inl hst')]

theorem exec_instCtrlReset_page (s : State) (i k : Nat) (hi : i < 1024) (hk : k < 2) (hrun : s.running = true) (hpage : s.page i k = some true) :
    exec (.instCtrlReset i k) s = .next (s.resetAsk i) := by
  change Host.Outcome.next (s.instCtrl (i % 1024) 1 (k % 2)) = _
  rw [Nat.mod_eq_of_lt hi, Nat.mod_eq_of_lt hk, State.instCtrl, State.pageWrite_bound _ hrun hpage, if_pos (by decide)]

/-! ### Interrupts (R371) -/

theorem exec_irqCoalTimer_due (s u : State) (g : Nat) (r : Machine.Ring) (hr : Tab.get? s.rings g = some r)
    (hen : s.flag F.RING_IRQ_IRQ_EN r.key = true) (hus : s.fld F.RING_IRQ_COAL_US r.key ≠ 0) (hcnt : r.uncounted ≠ 0)
    (hu : u = s.advanceTo (r.firstAt + s.fld F.RING_IRQ_COAL_US r.key * usec)) :
    exec (.irqCoalTimer g) s = .next ((u.setRing g { r with uncounted := 0 }).sendMsix (u.route r.inst).1 r.vector) := by
  change Host.Outcome.next (s.coalTimer g) = _
  simp only [State.coalTimer, hr]
  rw [if_pos ⟨hen, hus, hcnt⟩, ← hu]

/-! ### The reckoning registers (R451, R453, R457) -/

theorem State.reckonWrites_open {s : State} {i l k g : Nat} {r : Machine.Ring} (f : State → Nat → Machine.Ring → State)
    (hrun : s.running = true) (hpage : s.page i k = some true) (hring : s.localRing i l = some (g, r)) (hrec : r.reckons = true)
    (hst : s.ringState r = ringDisabled) : s.reckonWrites i l k f = f s g r := by
  rw [State.reckonWrites, State.pageWrite_bound _ hrun hpage]
  simp only [hring, hrec, hst, beq_self_eq_true, Bool.and_self, if_true]

theorem exec_reckonWrite_open (s : State) (i l v k g : Nat) (r : Machine.Ring) (hi : i < 1024) (hl : l < 64) (hk : k < 2) (hv : v < 2 ^ 64)
    (hrun : s.running = true) (hpage : s.page i k = some true) (hring : s.localRing i l = some (g, r)) (hrec : r.reckons = true)
    (hst : s.ringState r = ringDisabled) :
    exec (.reckonWrite i l v k) s = .next (((s.setFld F.RING_RECKON_STEP (v % 2 ^ 48) r.key).setFld F.RING_RECKON_HALT_INDEX (v / 2 ^ 48)
      r.key).setRing g { r with seedHalf := none }) := by
  change Host.Outcome.next (s.reckonWrite (i % 1024) (l % 64) (v % 2 ^ 64) (k % 2)) = _
  rw [Nat.mod_eq_of_lt hi, Nat.mod_eq_of_lt hl, Nat.mod_eq_of_lt hk, Nat.mod_eq_of_lt hv, State.reckonWrite,
    State.reckonWrites_open _ hrun hpage hring hrec hst]

theorem exec_seedWrite_open (s : State) (i l v k g : Nat) (r : Machine.Ring) (hi : i < 1024) (hl : l < 64) (hk : k < 2) (hv : v < 2 ^ 64)
    (hrun : s.running = true) (hpage : s.page i k = some true) (hring : s.localRing i l = some (g, r)) (hrec : r.reckons = true)
    (hst : s.ringState r = ringDisabled) :
    (r.seedHalf = none → exec (.seedWrite i l v k) s = .next (s.setRing g { r with seedHalf := some v })) ∧
    ∀ lo, r.seedHalf = some lo → exec (.seedWrite i l v k) s =
      .next (s.setRing g { r with seedHalf := none, seed := some (v * 2 ^ 64 + lo) }) := by
  change (_ → Host.Outcome.next (s.seedWrite (i % 1024) (l % 64) (v % 2 ^ 64) (k % 2)) = _) ∧
    ∀ lo, _ → Host.Outcome.next (s.seedWrite (i % 1024) (l % 64) (v % 2 ^ 64) (k % 2)) = _
  rw [Nat.mod_eq_of_lt hi, Nat.mod_eq_of_lt hl, Nat.mod_eq_of_lt hk, Nat.mod_eq_of_lt hv, State.seedWrite,
    State.reckonWrites_open _ hrun hpage hring hrec hst]
  exact ⟨fun h => by rw [h], fun lo h => by rw [h]⟩

/-- Settles O21: a page write over the own link of its page reaches its ring, whose state names the branch. -/
theorem pageCommandsComplete : Obligations.PageCommandsComplete := by
  unfold Obligations.PageCommandsComplete
  refine ⟨exec_doorbell_page, exec_ringEnable_disabled, exec_ringDisable_enabled, exec_irqCoalTimer_due, exec_instCtrlReset_page, ?_⟩
  intro s i l v k g r hi hl hk hv hrun hpage hring hrec hst
  exact ⟨exec_reckonWrite_open s i l v k g r hi hl hk hv hrun hpage hring hrec hst,
    exec_seedWrite_open s i l v k g r hi hl hk hv hrun hpage hring hrec hst⟩

end Sys2Proof.Machine
end

/-! ## PROOFS of the family of completions: the mailbox, context resets and the faults that start them (R169, R357 to R378, R549 to R557). -/

section
namespace Sys2Proof.Machine

/-! ### The mailbox (R357 to R361) -/

theorem State.mbxGo_run {s : State} {op : Nat} {b : List Byte} (hrun : s.running = true) (hidle : s.flag F.PCI_MBX_CTRL_BUSY = false)
    (hop : fieldAt (pad64 b) 0 1 = op) : s.mbxGo op (.data b) = s.mbxRun op (pad64 b) := by
  simp only [State.mbxGo, hrun, hidle, Bool.not_true, Bool.or_self, Bool.false_eq_true, if_false, hop, if_true]

theorem exec_createInstance_ok (s : State) (a : Nat) (b : List Byte) (hrun : s.running = true) (hidle : s.flag F.PCI_MBX_CTRL_BUSY = false)
    (ha : a = s.fld F.PCI_MBX_ADDR_ADDR) (hop : fieldAt (pad64 b) 0 1 = 1) (hst : s.createStatus (pad64 b) = mbOk) :
    exec (.createInstance (.data b)) s = .next ((s.createInst (pad64 b)).mbxAnswer a mbOk []) := by
  change Host.Outcome.next (s.mbxGo 1 (.data b)) = _
  subst ha
  rw [State.mbxGo_run hrun hidle hop]
  simp only [State.mbxRun, hst, if_true]

theorem exec_allocRing_ok (s : State) (a : Nat) (b : List Byte) (hrun : s.running = true) (hidle : s.flag F.PCI_MBX_CTRL_BUSY = false)
    (ha : a = s.fld F.PCI_MBX_ADDR_ADDR) (hop : fieldAt (pad64 b) 0 1 = 3) (hst : s.allocStatus (pad64 b) = mbOk) :
    exec (.allocRing (.data b)) s = .next ((s.allocRing (pad64 b)).1.mbxAnswer a mbOk (toLe 2 (s.allocRing (pad64 b)).2)) := by
  change Host.Outcome.next (s.mbxGo 3 (.data b)) = _
  subst ha
  rw [State.mbxGo_run hrun hidle hop]
  simp only [State.mbxRun, hst, if_true]

theorem exec_freeRing_ok (s : State) (a : Nat) (b : List Byte) (hrun : s.running = true) (hidle : s.flag F.PCI_MBX_CTRL_BUSY = false)
    (ha : a = s.fld F.PCI_MBX_ADDR_ADDR) (hop : fieldAt (pad64 b) 0 1 = 4) (hst : s.nameStatus (pad64 b) 4 = mbOk)
    (hquiet : s.instQuiet (mbInst (pad64 b)) = false) :
    exec (.freeRing (.data b)) s = .next (s.mbxFinish ⟨4, mbInst (pad64 b), mbLocal (pad64 b), a⟩) := by
  change Host.Outcome.next (s.mbxGo 4 (.data b)) = _
  subst ha
  rw [State.mbxGo_run hrun hidle hop]
  simp only [State.mbxRun, hst, hquiet, ne_eq, not_true_eq_false, Bool.false_eq_true, if_false]

theorem exec_resetInstance_ok (s : State) (a : Nat) (b : List Byte) (hrun : s.running = true) (hidle : s.flag F.PCI_MBX_CTRL_BUSY = false)
    (ha : a = s.fld F.PCI_MBX_ADDR_ADDR) (hop : fieldAt (pad64 b) 0 1 = 5) (hst : s.nameStatus (pad64 b) 5 = mbOk) :
    exec (.resetInstance (.data b)) s =
      .next ((s.resetAsk (mbInst (pad64 b))).mbxWait ⟨5, mbInst (pad64 b), mbLocal (pad64 b), a⟩) := by
  change Host.Outcome.next (s.mbxGo 5 (.data b)) = _
  subst ha
  rw [State.mbxGo_run hrun hidle hop]
  simp only [State.mbxRun, hst, ne_eq, not_true_eq_false, if_false]

theorem exec_destroyInstance_ok (s : State) (a : Nat) (b : List Byte) (hrun : s.running = true) (hidle : s.flag F.PCI_MBX_CTRL_BUSY = false)
    (ha : a = s.fld F.PCI_MBX_ADDR_ADDR) (hop : fieldAt (pad64 b) 0 1 = 2) (hst : s.nameStatus (pad64 b) 2 = mbOk) :
    exec (.destroyInstance (.data b)) s =
      .next ((s.destroyStart (mbInst (pad64 b))).mbxWait ⟨2, mbInst (pad64 b), mbLocal (pad64 b), a⟩) := by
  change Host.Outcome.next (s.mbxGo 2 (.data b)) = _
  subst ha
  rw [State.mbxGo_run hrun hidle hop]
  simp only [State.mbxRun, hst, ne_eq, not_true_eq_false, if_false]

/-! ### Context resets (R375) -/

theorem exec_contextReset_asked (s u : State) (n : Nat) (i : Inst) (p : State × Nat × Nat) (js : Tab DmaJob) (hn : n < 1024)
    (hi : Tab.get? s.insts n = some i) (hstep : i.resetStep = 1) (hjs : js = (s.dma.filter fun j => j.2.inst == n))
    (hp : p = ((s.instRings n).map (·.1)).foldl (fun p g => (s.squashWork n).resetRing p g) (s.squashWork n, 0, 0))
    (hu : u = (s.instRuns n).foldl (fun s r => s.reapRun r) p.1) :
    exec (.contextReset n) s = .next { u with insts := Tab.modify u.insts n fun i => { i with
      resetStep := 4, info := [p.2.1, p.2.2, sumList (js.map fun j => s.readsOut j.1 j.2), sumList (js.map fun j => j.2.dropped)] } } := by
  change Host.Outcome.next (s.contextReset (n % 1024)) = _
  have hasked : ¬i.resetStep ≠ 1 := fun h => h hstep
  rw [Nat.mod_eq_of_lt hn]
  subst hu hp hjs
  simp only [State.contextReset, hi, if_neg hasked]

theorem exec_contextResetDone_ready (s u v w : State) (n : Nat) (slow : Bool) (i : Inst) (hn : n < 1024) (hi : Tab.get? s.insts n = some i)
    (hstep : i.resetStep = 4)
    (hu : u = (((s.instRings n).foldl (fun s p => s.clearRing p.1 p.2 ringDisabled) (s.atsDrop i.link i.pasid))))
    (hrings : (s.atsDrop i.link i.pasid).instRings n = s.instRings n)
    (hv : v = (if slow then ((u.writeInfo n i.info).addFld F.INST_STATUS_RESET_COUNT 1 n).raise F.PCI_ERR_STATUS_RESET_SLOW
      else (u.writeInfo n i.info).addFld F.INST_STATUS_RESET_COUNT 1 n).setFld F.INST_STATUS_STATE instActive n)
    (hw : w = { v with insts := Tab.modify v.insts n fun i => { i with resetStep := 0 } }) :
    exec (.contextResetDone n slow) s = .next ((if i.destroy then w.freeInst n else w).mbxSettle n) := by
  change Host.Outcome.next (s.resetDone (n % 1024) slow) = _
  have hready : ¬i.resetStep ≠ 4 := fun h => h hstep
  rw [Nat.mod_eq_of_lt hn]
  simp only [State.resetDone, hi, if_neg hready, hrings, ← hu, ← hv, ← hw]

/-! ### Function Level Resets, links and translations (R373, R378, R557, R600) -/

theorem exec_pcieLinkReset_trains (s u : State) (j old sp w : Nat) (hj : j < 2) (hu : u = (if j = 0 then (s.flr 0).flr 1 else s.flr 2))
    (hold : old = (u.reg (linkReg j)).toNat) : exec (.pcieLinkReset j sp w) s =
      .next (((((u.count (0xE81 + 16 * j) none (b2n (bit old 0 && w != 0 && old / 2 % 8 != sp % 8))).count
        (0xE82 + 16 * j) none (b2n (bit old 0 && w != 0 && old / 16 % 32 != w % 32))).linkRetrains j).linkState j (w != 0) sp w)) := by
  rw [exec_pcieLinkReset s j sp w hj]
  simp only [State.pcieLinkReset, ← hu, ← hold]

theorem exec_perstDeassert_powered (s : State) (j sp w : Nat) (hboot : 3 ≤ s.fld F.GLB_STATUS_BOOT_STATE) (hj : j < 2) :
    exec (.perstDeassert j sp w) s = .next (s.linkState j (w != 0) sp w) := by
  change Host.Outcome.next (s.perst (j % 2) sp w) = _
  rw [Nat.mod_eq_of_lt hj, State.perst, if_pos hboot]

theorem exec_atsInvalidation_idle (s : State) (k q a n : Nat) (hk : k < 2) (hq : q < 2 ^ 20)
    (hidle : ∀ j ∈ s.dma, s.route j.2.inst = (k, q) → j.2.addr < a + n → a < j.2.addr + j.2.len → j.2.landed = true ∨ j.2.failed.isSome = true) :
    exec (.atsInvalidation k q a n) s = .next (({ s with ats := s.ats.filter fun e => !(e.1 == k * 2 ^ 20 + q &&
      decide (e.2 * 65536 < a + n) && decide (a < (e.2 + 1) * 65536)) } : State).count (0xE8F + 16 * k) none 1) := by
  change Host.Outcome.next (s.atsInvalidate (k % 2) (q % 2 ^ 20) a n) = _
  rw [Nat.mod_eq_of_lt hk, Nat.mod_eq_of_lt hq]
  have hnone : (s.dma.any fun j => (s.route j.2.inst == (k, q) && decide (j.2.addr < a + n) && decide (a < j.2.addr + j.2.len)) &&
      !j.2.landed && j.2.failed.isNone) = false := by
    refine List.any_eq_false.2 fun j hj => ?_
    simp only [Bool.and_eq_true, beq_iff_eq, decide_eq_true_eq, Bool.not_eq_true', Option.isNone_iff_eq_none, not_and]
    intro ⟨hmine, hland⟩ hfail
    obtain ⟨⟨hroute, hlo⟩, hhi⟩ := hmine
    rcases hidle j hj hroute hlo hhi with h | h
    · rw [hland] at h
      exact Bool.false_ne_true h
    · rw [hfail] at h
      exact Bool.false_ne_true h
  simp only [State.atsInvalidate, hnone, Bool.false_eq_true, if_false]

/-! ### Faults that start resets (R169, R549, R550) -/

theorem exec_queueStateUe_ring (s : State) (g : Nat) (r : Machine.Ring) (hr : Tab.get? s.rings g = some r) : exec (.queueStateUe g) s =
    .next ((s.faultRecord { s.ringRecord g 0 0x0506 2 with cmd := none }).deviceReset 0x0506 r.inst) := by
  change Host.Outcome.next (s.queueUe g) = _
  simp only [State.queueUe, hr]

theorem exec_helmCore_on (s : State) (c pc : Nat) (hc : c < 32) (hon : s.unitOff ⟨ucCore, c⟩ = false) : exec (.helmCore c pc) s =
    .next ((s.faultRecord { FaultRec.of 0x0505 3 with ucls := ucCore, uidx := c, detail := pc }).loseCore c 0x0505) := by
  change Host.Outcome.next (s.helmCore (c % 32) pc) = _
  rw [Nat.mod_eq_of_lt hc, State.helmCore, hon, if_neg Bool.false_ne_true]

theorem exec_engineParity_dma (s : State) (e : Nat) (he : e < 16) : exec (.engineParity false e) s =
    .next ((s.faultRecord { FaultRec.of 0x0507 3 with ucls := ucDma, uidx := e }).loseIoEngine ucDma e 0x0507) := by
  change Host.Outcome.next (s.engineParity false (e % 16)) = _
  rw [Nat.mod_eq_of_lt he]
  rfl

theorem exec_engineParity_fabric (s : State) (e : Nat) (he : e < 24) : exec (.engineParity true e) s =
    .next ((s.faultRecord { FaultRec.of 0x0507 3 with ucls := ucFab, uidx := e }).loseIoEngine ucFab e 0x0507) := by
  change Host.Outcome.next (s.engineParity true (e % 24)) = _
  rw [Nat.mod_eq_of_lt he]
  rfl

/-- Settles O22: a mailbox command that passes its checks is carried out, and each reset or fault takes its one branch. -/
theorem mailboxAndResetCommandsComplete : Obligations.MailboxAndResetCommandsComplete := by
  unfold Obligations.MailboxAndResetCommandsComplete
  refine ⟨fun s a b hrun hidle ha => ⟨exec_createInstance_ok s a b hrun hidle ha, exec_allocRing_ok s a b hrun hidle ha,
      exec_freeRing_ok s a b hrun hidle ha, exec_resetInstance_ok s a b hrun hidle ha, exec_destroyInstance_ok s a b hrun hidle ha⟩,
    exec_contextReset_asked, exec_contextResetDone_ready, fun s => ⟨rfl, rfl, rfl, fun sp w => ⟨?_, ?_⟩⟩, exec_atsInvalidation_idle,
    exec_queueStateUe_ring, exec_helmCore_on, fun s e => ⟨exec_engineParity_dma s e, exec_engineParity_fabric s e, rfl⟩⟩
  · exact fun j old u hj hu hold => exec_pcieLinkReset_trains s u j old sp w hj hu hold
  · exact fun hboot j hj => exec_perstDeassert_powered s j sp w hboot hj

end Sys2Proof.Machine
end

/-! ## PROOFS of the family of completions: Ethernet reception, lanes and tables (R383, R390 to R398, R405, R408). -/

section
namespace Sys2Proof.Machine

/-! ### A frame in the cycle of table writes (R391, R398, R426) -/

theorem State.beforeWrites_of_tie {s : State} {t new : EthTie} (f : State → State) (ht : s.eth.tie = t) (hnow : t.at_ = s.now)
    (hnew : new = { t with
      regs := t.regs.map fun e => (e.1, e.2.1, s.reg e.1 e.2.1)
      pols := t.pols.map fun e => (e.1, Tab.get? s.eth.pols e.1)
      sas := t.sas.map fun e => (e.1, Tab.get? s.sas e.1) }) :
    s.beforeWrites f = (f (s.putTie t)).putTie new := by
  subst hnew ht
  simp only [State.beforeWrites, if_pos hnow]

/-- No write of the present cycle is noted. -/
def State.Untied (s : State) : Prop := s.eth.tie.at_ = s.now → s.eth.tie.regs = [] ∧ s.eth.tie.pols = [] ∧ s.eth.tie.sas = []

theorem State.putTie_nil (s : State) {t : EthTie} (hregs : t.regs = []) (hpols : t.pols = []) (hsas : t.sas = []) : s.putTie t = s := by
  rw [State.putTie, hregs, hpols, hsas]
  rfl

theorem State.beforeWrites_untied {s : State} (f : State → State) (h : s.Untied) : s.beforeWrites f = f s := by
  by_cases hnow : s.eth.tie.at_ = s.now
  · obtain ⟨hregs, hpols, hsas⟩ := h hnow
    rw [State.beforeWrites_of_tie f rfl hnow rfl, s.putTie_nil hregs hpols hsas]
    exact (f s).putTie_nil (by rw [hregs]; rfl) (by rw [hpols]; rfl) (by rw [hsas]; rfl)
  · simp only [State.beforeWrites, if_neg hnow]

/-! ### Received frames (R390, R395, R408) -/

theorem exec_ethFrameReceive (s : State) (p : Nat) (f : EthFrame) (hp : p < 32) :
    exec (.ethFrameReceive p f) s = .next (s.beforeWrites fun s => s.rxFrame p f f.data.length 0) := by
  change Host.Outcome.next (s.beforeWrites fun s => s.rxFrame (p % 32) f f.data.length 0) = _
  rw [Nat.mod_eq_of_lt hp]

theorem exec_rxMemWaitExpire (s : State) (p n : Nat) (f : EthFrame) (hp : p < 32) :
    exec (.rxMemWaitExpire p f n) s = .next (s.beforeWrites fun s => s.rxFrame p f n causeMemWait) := by
  change Host.Outcome.next (s.beforeWrites fun s => s.rxFrame (p % 32) f n causeMemWait) = _
  rw [Nat.mod_eq_of_lt hp]

theorem exec_fifoParity (s : State) (p n : Nat) (f : EthFrame) (hp : p < 32) :
    exec (.fifoParity p f n) s = .next (s.beforeWrites fun s => s.fifoParity p f n) := by
  change Host.Outcome.next (s.beforeWrites fun s => s.fifoParity (p % 32) f n) = _
  rw [Nat.mod_eq_of_lt hp]

section Received
variable {s : State} {p n cut : Nat} {f : EthFrame}

theorem State.rxFrame_runt (hup : s.flag F.ETH_SUB_STATUS_UP p = true) (hfull : f.full = false) (hlen : frLen f ≤ 63) :
    s.rxFrame p f n cut = s.dropRunt p := by
  simp only [State.rxFrame, hup, hfull, hlen, Bool.not_true, Bool.false_eq_true, if_false, if_true]

theorem State.rxFrame_oversize (hup : s.flag F.ETH_SUB_STATUS_UP p = true) (hfull : f.full = false) (hlen : ¬frLen f ≤ 63)
    (hmax : s.fld F.ETH_SUB_CTRL_MAX_FRAME p < frLen f) (hbegun : s.begun p (s.fld F.ETH_SUB_CTRL_MAX_FRAME p + 1) = false) :
    s.rxFrame p f n cut = s.dropOversize p := by
  simp only [State.rxFrame, hup, hfull, hlen, hmax, hbegun, Bool.not_true, Bool.false_eq_true, if_false, if_true]

theorem State.rxFrame_badFcs (hup : s.flag F.ETH_SUB_STATUS_UP p = true) (hfull : f.full = false) (hlen : ¬frLen f ≤ 63)
    (hmax : ¬s.fld F.ETH_SUB_CTRL_MAX_FRAME p < frLen f) (hfcs : f.fcsOk = false) (hbegun : s.begun p (frLen f) = false) :
    s.rxFrame p f n cut = s.dropFcs p := by
  simp only [State.rxFrame, hup, hfull, hlen, hmax, hfcs, hbegun, Bool.not_true, Bool.not_false, Bool.false_eq_true, if_false, if_true]

theorem State.rxFrame_accepted (hup : s.flag F.ETH_SUB_STATUS_UP p = true) (hfull : f.full = false) (hlen : ¬frLen f ≤ 63)
    (hmax : ¬s.fld F.ETH_SUB_CTRL_MAX_FRAME p < frLen f) (hfcs : f.fcsOk = true) : s.rxFrame p f n cut = s.rxAccepted p f n cut := by
  simp only [State.rxFrame, hup, hfull, hlen, hmax, hfcs, Bool.not_true, Bool.false_eq_true, if_false]

end Received

section Accepted
variable {s u : State} {p n cut : Nat} {f : EthFrame}
  (hu : u = ((s.addFld F.ETH_SUB_FRAMES_RX_FRAMES 1 p).count (0xA00 + 16 * p) none 1).count (0xA01 + 16 * p) none (ceilDiv (frLen f) 64))
  (hsec : f.sec = none) (hpause : frType f.data ≠ 0x8808) (hclaim : u.claims p f.data = false)
include hu hsec hpause hclaim

theorem State.rxAccepted_steered {e : Nat} (he : u.steerOf p f none = .ok e) : s.rxAccepted p f n cut = u.rxSteered p e f none n cut := by
  simp only [State.rxAccepted, ← hu, hsec, hpause, hclaim, he, Bool.false_eq_true, if_false]

theorem State.rxAccepted_unsteered {x : Bool} (hx : u.steerOf p f none = .error x) : s.rxAccepted p f n cut = u.dropNomatch p := by
  simp only [State.rxAccepted, ← hu, hsec, hpause, hclaim, hx, Bool.false_eq_true, if_false]

end Accepted

/-- The domain of the steering entry that takes an unprotected frame. -/
def State.frameDom (s : State) (p : Nat) (f : EthFrame) : Option Nat :=
  match s.steerOf p f none with
  | .ok e => some (s.fld F.ETH_STEER_DOMAIN e)
  | .error _ => none

theorem State.fifoParity_eq (s u : State) (p n : Nat) (f : EthFrame)
    (hu : u = (s.raise F.ETH_ERR_STATUS_FIFO_PARITY).faultRecord { FaultRec.of 0x0501 1 with
      dom := s.frameDom p f, ucls := ucEth, uidx := p / 4, detail := p }) :
    s.fifoParity p f n = if n = 0 then u else (u.fresh 8).2.rxBroken p f n (u.fresh 8).1 := by
  rw [State.fifoParity]
  subst hu
  rfl

/-! ### Lanes and ports (R383) -/

theorem exec_ethLaneLoss (s u : State) (p l : Nat) (rx : Option (EthFrame × Nat)) (hp : p < 8) (hl : l < 4)
    (hu : u = ((s.setLock p l false).countLoss p l).subDown (s.laneSub p l) rx) :
    exec (.ethLaneLoss p l rx) s = .next (if u.sheds p then
      (u.reformPort p (some (1 + u.fld F.ETH_PORT_CTRL_SHED_MODE p))).raise F.ETH_ERR_STATUS_LANE_SHED else u) := by
  change Host.Outcome.next (s.ethLaneLoss (p % 8) (l % 4) rx) = _
  rw [Nat.mod_eq_of_lt hp, Nat.mod_eq_of_lt hl, hu]
  rfl

theorem exec_subportUp_locked (s u : State) (k p : Nat) (hk : k < 32) (hp : p = k / 4) (hmay : s.portMay p = true)
    (hform : k % 4 < formSubs (s.portForm p)) (hlock : ∀ l ∈ formLanes (s.portForm p) (k % 4), s.laneLock p l = true)
    (hu : u = (s.setFld F.ETH_SUB_STATUS_UP 1 k).setFld F.ETH_SUB_STATUS_CROSSING (b2n (s.portForm p == 0)) k) :
    exec (.subportUp k) s = .next (if Tab.has u.eth.shed p then u else u.setFld F.ETH_SUB_STATUS_ALIAS_OF k k) := by
  change Host.Outcome.next (s.subUp (k % 32)) = _
  have hall : (formLanes (s.portForm p) (k % 4)).all (s.laneLock p) = true := List.all_eq_true.2 hlock
  rw [Nat.mod_eq_of_lt hk]
  subst hu hp
  simp only [State.subUp, hmay, hform, hall, decide_true, Bool.and_self, if_true]

theorem exec_reform (s : State) (p : Nat) (hp : p < 8) : exec (.reform p) s = .next (s.reformPort p none) := by
  change Host.Outcome.next (s.reformPort (p % 8) none) = _
  rw [Nat.mod_eq_of_lt hp]

/-! ### The tables (R391, R393, R398, R405) -/

theorem exec_steerWrite (s t r z : State) (v w e : Nat) (he : e = s.fld F.ETH_SEL_STEER)
    (hw : w = (if v % 2 ^ 57 / 2 ^ 53 % 8 = 7 then v % 2 ^ 57 - 2 ^ 53 else v % 2 ^ 57)) (hr : r = s.tieReg F.ETH_STEER_VALID.reg e)
    (ht : t = r.setReg F.ETH_STEER_VALID.reg e (BitVec.ofNat 64 w)) (hz : z = r.unlessStrict t (t.fld F.ETH_STEER_SUBPORT e)) :
    exec (.steerWrite v) s = .next (if r.steerConflict e t then r.raise F.ETH_ERR_STATUS_STEER_CONFLICT
      else if z.reg F.ETH_STEER_VALID.reg e = r.reg F.ETH_STEER_VALID.reg e then z else z.measChanged) := by
  change Host.Outcome.next (s.steerWrite v) = _
  simp only [State.steerWrite, ← he, ← hw, ← hr, ← ht, ← hz]

theorem exec_policerWrite (s u : State) (v n : Nat) (hn : n = s.fld F.ETH_SEL_POLICER)
    (hu : u = ((s.tieReg F.ETH_POL_RATE_VALID.reg n).tiePol n).setReg F.ETH_POL_RATE_VALID.reg n (BitVec.ofNat 64 (v % 2 ^ 63))) :
    exec (.policerWrite v) s = .next (if bit v 62 then { u with eth := { u.eth with pols := (Tab.set u.eth.pols n
      ⟨u.fld F.ETH_POL_BURST_CBS n * 8000000, u.fld F.ETH_POL_BURST_PBS n * 8000000, u.taiNs⟩ : Tab Policer) } } else u) := by
  change Host.Outcome.next (s.policerWrite v) = _
  simp only [State.policerWrite, ← hn, ← hu]

theorem exec_pringWrite_on (s : State) (v n : Nat) (hn : n = s.fld F.ETH_SEL_PRING) (hon : s.prOn n = true) :
    exec (.pringWrite v) s = .next (s.setFld F.ETH_PRING_ENABLE (v / 2 ^ 56 % 2) n) := by
  change Host.Outcome.next (s.pringWrite v) = _
  simp only [State.pringWrite, ← hn, hon, if_true]

theorem exec_pringWrite_off (s u : State) (v w n : Nat) (hn : n = s.fld F.ETH_SEL_PRING)
    (hw : w = (if v % 2 ^ 57 / 2 ^ 46 % 1024 = 0 then v % 2 ^ 57 + 2 ^ 46 else v % 2 ^ 57))
    (hu : u = s.setReg F.ETH_PRING_ENABLE.reg n (BitVec.ofNat 64 w)) (hoff : s.prOn n = false) :
    exec (.pringWrite v) s = .next (if bit w 56 then
      if n < 4096 then u.setRxr n ⟨0, 0, [], 0, 0, 0, 0⟩
      else if (u.txq (n - 4096)).frames.isEmpty then u.setTxq (n - 4096)
        { u.txq (n - 4096) with next := 0, head := 0, lastPoll := u.now, depths := none, delays := none, samples := 0 }
      else u
      else u) := by
  change Host.Outcome.next (s.pringWrite v) = _
  simp only [State.pringWrite, ← hn, hoff, Bool.false_eq_true, if_false, ← hw, ← hu]

/-- Settles O23: a frame of a cycle without writes meets the state as it stands, and its length, FCS and steering name what becomes of it; the
lanes and the tables take the branch of their own state. -/
theorem ethernetReceiveCommandsComplete : Obligations.EthernetReceiveCommandsComplete := by
  unfold Obligations.EthernetReceiveCommandsComplete
  refine ⟨?_, ?_, ?_, exec_ethLaneLoss, exec_subportUp_locked, exec_reform, ?_, exec_policerWrite, ?_⟩
  · intro s p n f t new hp ht hnow hnew
    rw [exec_ethFrameReceive s p f hp, exec_rxMemWaitExpire s p n f hp, exec_fifoParity s p n f hp]
    simp only [State.beforeWrites_of_tie _ ht hnow hnew, and_self]
  · intro s u p f hp htie hup hfull hu
    have htie : s.Untied := htie
    have hrx := fun n => exec_rxMemWaitExpire s p n f hp
    rw [exec_ethFrameReceive s p f hp]
    simp only [hrx, State.beforeWrites_untied _ htie]
    refine ⟨fun hlen => by rw [State.rxFrame_runt hup hfull hlen],
      fun hlen hmax hbegun => by rw [State.rxFrame_oversize hup hfull hlen hmax hbegun],
      fun hlen hmax hfcs hbegun => by rw [State.rxFrame_badFcs hup hfull hlen hmax hfcs hbegun],
      fun hlen hmax hfcs hsec hpause hclaim => ?_⟩
    simp only [State.rxFrame_accepted hup hfull hlen hmax hfcs]
    exact ⟨fun e he => ⟨by rw [State.rxAccepted_steered hu hsec hpause hclaim he], fun n => by
      rw [State.rxAccepted_steered hu hsec hpause hclaim he]⟩, fun x hx => by rw [State.rxAccepted_unsteered hu hsec hpause hclaim hx]⟩
  · intro s u p n f hp htie hu
    rw [exec_fifoParity s p n f hp, State.beforeWrites_untied _ htie, State.fifoParity_eq s u p n f hu]
  · intro s t r z v w e he hw hr ht hz
    rw [exec_steerWrite s t r z v w e he hw hr ht hz]
    exact ⟨fun h => by rw [h, if_pos rfl], fun h => by rw [h, if_neg Bool.false_ne_true]⟩
  · intro s u v w n hn hw hu
    have hoff := exec_pringWrite_off s u v w n hn hw hu
    refine ⟨exec_pringWrite_on s v n hn, fun h hbit => ?_, fun h hbit hn => ?_, fun h hbit hn hempty => ?_⟩
    · rw [hoff h, hbit, if_neg Bool.false_ne_true]
    · rw [hoff h, hbit, if_pos rfl, if_pos hn]
    · rw [hoff h, hbit, if_pos rfl, if_neg hn, hempty, if_pos List.isEmpty_nil]

end Sys2Proof.Machine
end

/-! ## PROOFS of the family of completions: egress and telemetry (R186, R387, R399 to R407). -/

section
namespace Sys2Proof.Machine

/-! ### Transmit rings (R404) -/

theorem exec_txPoll_live (s r u w v : State) (q tail m : Nat) (b : List Byte) (x y : TxQueue) (p : Nat × List TxFrame) (hq : q < 4096)
    (hon : s.prOn (4096 + q) = true) (hr : r = s.advanceTo ((s.txq q).lastPoll + s.fld F.ETH_PRING_POLL (4096 + q) * 100 * nsec))
    (hu : u = (r.settleQueue q).prMeets (4096 + q) (r.prCtrl (4096 + q)) 64)
    (hx : x = u.txq q)
    (hread : u.prRead (4096 + q) (u.prCtrl (4096 + q)) 4 = some b) (htail : tail = leNat b)
    (hy : y = { x with lastPoll := u.now, depths := noteDelay x.depths (wrap (tail + 2 ^ 32 - x.head) 32) })
    (hport : (u.egressPort (u.fld F.ETH_Q_CFG_SUBPORT q) q).isSome = true) (hen : u.flag F.ETH_Q_CFG_ENABLE q = true)
    (hdom : u.prDom (4096 + q) = u.fld F.ETH_Q_CFG_DOMAIN q)
    (hm : m = min (wrap (tail + 2 ^ 32 - y.next) 32) (u.prSize (4096 + q) - wrap (y.next + 2 ^ 32 - y.head) 32))
    (hw : w = u.txMeets q y.next m)
    (hp : p = w.txTake q m y.next ((rangeFrom 0 m).map fun k => (w.prRead (4096 + q) (w.prDesc (4096 + q) (y.next + k)) 64).getD []) y.frames)
    (hv : v = w.setTxq q { y with next := p.1, frames := p.2 }) :
    exec (.txPoll q) s = .next (((v.txWriteBack q p.2.length).headTag q).noteTxBytes (v.fld F.ETH_Q_CFG_SUBPORT q)) := by
  change Host.Outcome.next (s.txPoll (q % 4096)) = _
  have hlive : ((u.egressPort (u.fld F.ETH_Q_CFG_SUBPORT q) q).isNone || !u.flag F.ETH_Q_CFG_ENABLE q ||
      u.prDom (4096 + q) != u.fld F.ETH_Q_CFG_DOMAIN q) = false := by
    rw [Option.isNone_eq_false_iff.2 hport, hen, hdom, bne_self_eq_false]
    rfl
  rw [Nat.mod_eq_of_lt hq]
  unfold State.txPoll
  simp only [hon, Bool.not_true, Bool.false_eq_true, if_false, ← hr, ← hu, ← hx, hread, ← htail, hlive]
  subst hv hp hw hm hy
  cases x.depths <;> rfl

/-! ### Selection on a live sub-port (R186, R387, R399) -/

section Select
variable {s u : State} {k : Nat} (hk : k < 32) (hup : s.flag F.ETH_SUB_STATUS_UP k = true)
  (hu : u = (s.advanceTo (s.ethSub k).busy).wireEnds k txOk)
include hk hup hu

theorem exec_egressSelect_idle (hnext : u.nextQueue k = none) : exec (.egressSelect k) s = .next (u.egressIdle (u.keyed k)) := by
  change Host.Outcome.next (s.egressSelect (k % 32)) = _
  rw [Nat.mod_eq_of_lt hk]
  simp only [State.egressSelect, hup, Bool.not_true, Bool.false_eq_true, if_false, ← hu, hnext]

theorem exec_egressSelect_noSa {q l : Nat} {f : TxFrame} {t : List TxFrame} (hnext : u.nextQueue k = some (q, l))
    (hhead : (u.txq q).frames = f :: t) (hsa : u.txProtect q f.flags = none) :
    exec (.egressSelect k) s = .next (u.txEnds q txNoSa none) := by
  change Host.Outcome.next (s.egressSelect (k % 32)) = _
  rw [Nat.mod_eq_of_lt hk]
  simp only [State.egressSelect, hup, Bool.not_true, Bool.false_eq_true, if_false, ← hu, hnext, hhead, hsa]

theorem exec_egressSelect_sends {q l : Nat} {f : TxFrame} {t : List TxFrame} {v : State} {sec : Option (Nat × Nat × Nat)}
    (hnext : u.nextQueue k = some (q, l)) (hhead : (u.txq q).frames = f :: t) (hsa : u.txProtect q f.flags = some (v, sec)) :
    exec (.egressSelect k) s = .next (v.txSend k q l f sec) := by
  change Host.Outcome.next (s.egressSelect (k % 32)) = _
  rw [Nat.mod_eq_of_lt hk]
  simp only [State.egressSelect, hup, Bool.not_true, Bool.false_eq_true, if_false, ← hu, hnext, hhead, hsa]

end Select

/-! ### The wheel, telemetry and lanes (R349, R383, R403, R405, R407) -/

theorem exec_qCommit_enabled (s t : State) (v w q : Nat) (hq : q = s.fld F.ETH_SEL_QUEUE) (hw : w = v ||| 2 ^ 19) (hbit : bit w 19 = true)
    (hen : s.flag F.ETH_Q_CFG_ENABLE q = true)
    (ht : t = ((s.setFld F.ETH_Q_CFG_WHEEL (w / 2 ^ 12 % 2) q).setFld F.ETH_Q_CFG_OVERHEAD (w / 2 ^ 13 % 32) q).setFld F.ETH_Q_CFG_ENABLE
      (w / 2 ^ 18 % 2) q) :
    exec (.qCommit v) s = .next (if (t.strictClash (t.fld F.ETH_Q_CFG_SUBPORT q) && !s.strictClash (t.fld F.ETH_Q_CFG_SUBPORT q)) = true
      then s.raise F.ETH_ERR_STATUS_STRICT_CONFLICT else t.qCommit q) := by
  change Host.Outcome.next (s.qCfgWrite (v ||| 2 ^ 19)) = _
  rw [← hw]
  simp only [State.qCfgWrite, ← hq, hen, if_true, ← ht, hbit]

theorem exec_wheelRelease_due (s : State) (q t : Nat) (hq : q < 4096) (ht : (s.txq q).release = some t) :
    exec (.wheelRelease q) s = .next ((s.advanceTo (t * 100 * nsec)).wheelOut q (s.txq q)) := by
  change Host.Outcome.next (s.wheelRelease (q % 4096)) = _
  rw [Nat.mod_eq_of_lt hq]
  simp only [State.wheelRelease, ht]

theorem exec_telemetrySample (s u v : State)
    (hu : u = s.advanceTo (s.eth.sampleAt + max 1 (s.fld F.ETH_TM_CTRL_SAMPLE_US) * usec))
    (hv : v = { u with eth := { u.eth with sampleAt := u.now } }) : exec .telemetrySample s =
      .next (((v.indices 0x4000068).filter fun q => v.flag F.ETH_Q_CFG_ENABLE q && v.prOn (4096 + q)).foldl State.sampleQueue v) := by
  change Host.Outcome.next s.telemetry = _
  simp only [State.telemetry, ← hu, ← hv]

theorem exec_laneLockRegain_eth (s : State) (p l : Nat) (hp : p < 4) (hclock : s.clockLost 1 (p / 2) = false) (hl : l < 4) :
    exec (.laneLockRegain false p l) s = .next (s.setLock p l true) := by
  change Host.Outcome.next (s.laneRegain false (p % 8) (l % 4)) = _
  rw [Nat.mod_eq_of_lt (by omega : p < 8), Nat.mod_eq_of_lt hl]
  simp only [State.laneRegain, Bool.false_eq_true, if_false, hclock]

theorem exec_laneLockRegain_rhumb (s : State) (p l : Nat) (hp : p < 4) (hclock : s.clockLost 2 (p / 2) = false) (hl : l < 8) :
    exec (.laneLockRegain true p l) s =
      .next (s.setFld F.FAB_PORT_STATUS_LANE_LOCK (putBit (s.fld F.FAB_PORT_STATUS_LANE_LOCK p) l true) p) := by
  change Host.Outcome.next (s.laneRegain true (p % 8) (l % 8)) = _
  rw [Nat.mod_eq_of_lt (by omega : p < 8), Nat.mod_eq_of_lt hl]
  simp only [State.laneRegain, if_true, hclock, Bool.false_eq_true, if_false, Nat.mod_eq_of_lt hp, Nat.mod_eq_of_lt hl]

/-- Settles O24: a live ring, sub-port, queue or lane takes the branch that its own state names. -/
theorem egressCommandsComplete : Obligations.EgressCommandsComplete := by
  unfold Obligations.EgressCommandsComplete
  refine ⟨?_, fun s u k q l f t hk hup hu => ⟨exec_egressSelect_idle hk hup hu, exec_egressSelect_noSa hk hup hu,
      fun v sec => exec_egressSelect_sends hk hup hu⟩, exec_qCommit_enabled, exec_wheelRelease_due, exec_telemetrySample,
    fun s p l hp => ⟨exec_laneLockRegain_eth s p l hp, exec_laneLockRegain_rhumb s p l hp⟩⟩
  intro s r u w v q tail m b x y p hq hon hr hu hx hread htail hy
  refine exec_txPoll_live s r u w v q tail m b x y p hq hon hr hu hx hread htail (hy.trans ?_)
  cases x.depths <;> rfl

end Sys2Proof.Machine
end

/-! ## PROOFS of the family of completions: SPDM requests and sessions (R419 to R422, R432). -/

section
namespace Sys2Proof.Machine

/-! ### The Sextant's service and secured messages (R421, R501) -/

/-- Serving cores take every request on a state. -/
def State.ServesOn (s u : State) : Prop := ∀ f, s.sxtServe f = f u

theorem State.servesOn_coresServing {s u : State} (hboot : bootRunning ≤ s.fld F.GLB_STATUS_BOOT_STATE)
    (hcore : s.fld F.SXT_STATUS_CORE_STATE < 2) (hu : u = s.coresServing) : s.ServesOn u := fun f => by
  rw [s.sxtServe_of_serving f hboot hcore, hu, State.coresServing]

theorem State.secured_open {s u : State} {k : Nat} {x : Session} (f : State → Session → State) (hserve : s.ServesOn u)
    (hx : Tab.get? u.sessions k = some x) (hopen : x.open_ = true) :
    s.secured k true f = f (u.setSession k { x with lastAt := u.now }) { x with lastAt := u.now } := by
  rw [State.secured, hserve]
  simp only [hx, hopen, Bool.not_true, Bool.false_eq_true, if_false]

theorem State.secured_badTag {s u : State} {k : Nat} {x : Session} (f : State → Session → State) (hserve : s.ServesOn u)
    (hx : Tab.get? u.sessions k = some x) :
    s.secured k false f = ((u.authFail k).raise F.ISO_ERR_STATUS_AEAD_FAIL).count 0xF8B none 1 := by
  rw [State.secured, hserve]
  simp only [hx, Bool.not_false, if_true]

/-! ### Requests and sessions (R419 to R422, R432) -/

section Requests
variable {s u : State} (hserve : s.ServesOn u)
include hserve

theorem exec_getVersion_served : exec .getVersion s = .next (u.send (.spdm noSession spdmVersion spdmVersions)) :=
  congrArg Host.Outcome.next (hserve _)

theorem exec_getCapabilities_served : exec .getCapabilities s = .next (u.send (.spdm noSession spdmCapabilities [15])) :=
  congrArg Host.Outcome.next (hserve _)

theorem exec_negotiateAlgorithms_served (offered : Bool) : exec (.negotiateAlgorithms offered) s = .next (if offered then
    u.send (.spdm noSession spdmAlgorithms []) else u.send (.spdm noSession spdmError [BitVec.ofNat 8 errInvalidRequest])) :=
  congrArg Host.Outcome.next (hserve _)

theorem exec_getDigests_served : exec .getDigests s = .next (u.spdmOpen noSession spdmDigests [1] 48) :=
  congrArg Host.Outcome.next (hserve _)

theorem exec_getCertificate_served (slot len : Nat) : exec (.getCertificate slot len) s = .next (if slot = 0 then
    u.spdmOpen noSession spdmCertificate [0] len else u.send (.spdm noSession spdmError [BitVec.ofNat 8 errInvalidRequest])) :=
  congrArg Host.Outcome.next (hserve _)

theorem exec_challenge_served (slot : Nat) : exec (.challenge slot) s = .next (if slot = 0 then
    u.spdmOpen noSession spdmChallengeAuth [0] 96 else u.send (.spdm noSession spdmError [BitVec.ofNat 8 errInvalidRequest])) :=
  congrArg Host.Outcome.next (hserve _)

theorem exec_getMeasurements_outside (ok : Bool) (i : Nat) : exec (.getMeasurements none ok i) s = .next (u.measure noSession none i) :=
  congrArg Host.Outcome.next (hserve _)

theorem exec_keyExchange_served (ok : Bool) : exec (.keyExchange ok) s = .next (u.keyExchange ok) :=
  congrArg Host.Outcome.next (hserve _)

theorem exec_finish_served (k : Nat) (authOk : Bool) (digest : Nat) : exec (.finish k authOk digest) s = .next (u.finish k authOk digest) :=
  congrArg Host.Outcome.next (hserve _)

end Requests

theorem State.keyExchange_full {u : State} (hfull : Tab.lowestFree u.sessions 0 16 = none) (ok : Bool) : u.keyExchange ok =
    (u.raise F.ISO_ERR_STATUS_SESSION_LIMIT).send (.spdm noSession spdmError [BitVec.ofNat 8 errBusy]) := by
  simp only [State.keyExchange, hfull]

theorem State.keyExchange_free {u : State} {k : Nat} (hfree : Tab.lowestFree u.sessions 0 16 = some k) : u.keyExchange true =
    (u.setSession k ⟨false, none, u.now⟩).spdmOpen k spdmKeyExchangeRsp [BitVec.ofNat 8 k] 192 := by
  simp only [State.keyExchange, hfree, if_true]

theorem State.finish_refused {u : State} {k : Nat} {x : Session} (hx : Tab.get? u.sessions k = some x) (hnew : x.open_ = false) (digest : Nat) :
    u.finish k false digest = u.authFail k := by
  simp only [State.finish, hx, hnew, Bool.false_eq_true, if_false, Bool.not_false, if_true]

theorem State.finish_opens {u : State} {k : Nat} {x : Session} (hx : Tab.get? u.sessions k = some x) (hnew : x.open_ = false) (digest : Nat) :
    u.finish k true digest = (((u.setSession k ⟨true, u.domainOf digest, u.now⟩).addFld F.ISO_SESSION_COUNT_ESTABLISHED 1).count
      0xF8A none 1).send (.spdm k spdmFinishRsp []) := by
  simp only [State.finish, hx, hnew, Bool.false_eq_true, if_false, Bool.not_true]

theorem exec_sessionIdleTimeout_found (s : State) (k : Nat) (x : Session) (hx : Tab.get? s.sessions k = some x) :
    exec (.sessionIdleTimeout k) s = .next ((s.advanceTo (x.lastAt + 90000 * msec)).endSession k) := by
  change Host.Outcome.next (s.sessionIdle k) = _
  simp only [State.sessionIdle, hx]

/-- Settles O25: while the cores serve, each request runs on the state that they wake in, and its session names the branch. -/
theorem spdmCommandsComplete : Obligations.SpdmCommandsComplete := by
  unfold Obligations.SpdmCommandsComplete
  intro s u hboot hcore hu
  have hserve : s.ServesOn u := State.servesOn_coresServing hboot hcore hu
  refine ⟨exec_getVersion_served hserve, exec_getCapabilities_served hserve, exec_negotiateAlgorithms_served hserve true,
    exec_negotiateAlgorithms_served hserve false, exec_getDigests_served hserve, exec_getCertificate_served hserve 0,
    fun k => exec_getCertificate_served hserve (k + 1), exec_challenge_served hserve 0, fun k => exec_challenge_served hserve (k + 1),
    exec_getMeasurements_outside hserve, fun hfull ok => ?_, fun k hfree => ?_, fun k x dg hx hnew => ⟨?_, ?_⟩,
    fun k x v hx => ⟨?_, fun hopen hv => ⟨?_, ?_, ?_, fun i => ?_⟩⟩, exec_sessionIdleTimeout_found s⟩
  · rw [exec_keyExchange_served hserve, State.keyExchange_full hfull]
    rfl
  · rw [exec_keyExchange_served hserve, State.keyExchange_free hfree]
    rfl
  · rw [exec_finish_served hserve, State.finish_refused hx hnew]
    rfl
  · rw [exec_finish_served hserve, State.finish_opens hx hnew]
    rfl
  · exact congrArg Host.Outcome.next (State.secured_badTag _ hserve hx)
  all_goals
    subst hv
    exact congrArg Host.Outcome.next (State.secured_open _ hserve hx hopen)

end Sys2Proof.Machine
end

/-! ## PROOFS of the family of completions: key operations and channel assignment (R414, R424 to R430). -/

section
namespace Sys2Proof.Machine

/-! ### Key operations of an open session (R424, R425) -/

section Sessions
variable {s u v : State} {k : Nat} {x : Session} (hserve : s.ServesOn u) (hx : Tab.get? u.sessions k = some x) (hopen : x.open_ = true)
  (hv : v = u.setSession k { x with lastAt := u.now })
include hserve hx hopen hv

theorem State.keyOp_unbound (f : State → Nat → State × Nat × List Byte) (hdom : x.dom = none) :
    s.keyOp k true f = v.keyAnswer k none ksNotBound 0 [] := by
  rw [State.keyOp, State.secured_open _ hserve hx hopen, ← hv]
  simp only [hdom]

theorem State.keyOp_bound {d : Nat} (f : State → Nat → State × Nat × List Byte) {w : State} {st : Nat} {rest : List Byte} (hdom : x.dom = some d)
    (hf : f v d = (w, st, rest)) : s.keyOp k true f = w.keyAnswer k (some d) st 0 rest := by
  rw [State.keyOp, State.secured_open _ hserve hx hopen, ← hv]
  simp only [hdom, hf]

end Sessions

section Operations
variable {v : State} {d : Nat} {b : List Byte}

theorem State.domKeySet_ok (hreq : reqOk b 0x0001 [(2, 1), (8, 64)] = true) (hflags : fieldAt b 2 1 ≤ 1) (hweak : slice b 8 32 ≠ slice b 40 32)
    (hbusy : v.keyBusy d = false) : v.domKeySet d b = (v.installKey d (fieldAt b 8 64) (bit (fieldAt b 2 1) 0), ksOk, []) := by
  simp only [State.domKeySet, hreq, Nat.not_lt.2 hflags, hweak, hbusy, decide_false, Bool.not_true, Bool.or_self, Bool.false_eq_true, if_false]

theorem State.domKeyGen_ok (hreq : reqOk b 0x0002 [(2, 1)] = true) (hflags : fieldAt b 2 1 ≤ 1) (hbusy : v.keyBusy d = false) :
    v.domKeyGen d b = ((v.fresh 512).2.installKey d (v.fresh 512).1 (bit (fieldAt b 2 1) 0), ksOk, []) := by
  simp only [State.domKeyGen, hreq, Nat.not_lt.2 hflags, hbusy, decide_false, Bool.not_true, Bool.or_self, Bool.false_eq_true, if_false]

theorem State.domKeyClear_ok (hreq : reqOk b 0x0003 [] = true) (hbusy : v.keyBusy d = false) :
    v.domKeyClear d b = ((v.dropKey d).setFld F.ISO_DOM_STATUS_STATE domDefined d, ksOk, []) := by
  simp only [State.domKeyClear, hreq, hbusy, Bool.not_true, Bool.false_eq_true, if_false]

theorem State.sakSet_ok {w : State} (hreq : reqOk b 0x0010 [(2, 5), (8, 68)] = true) (hsc : reqScOk b 3 = true) (hfields : sakFieldsOk b = true)
    (hkey : fieldAt b 16 32 ≠ 0) (hchannel : v.channelOk d b = true) (huse : v.saInUse b = false)
    (hw : w = (v.firstUse (reqSc b) (reqAn b)).tieSa (saKey (reqSc b) (reqAn b))) :
    v.sakSet d b = (({ w with sas := Tab.set w.sas (saKey (reqSc b) (reqAn b)) ⟨bit (fieldAt b 3 1) 1, fieldAt b 8 8, fieldAt b 16 32,
      fieldAt b 48 4, fieldAt b 52 12, fieldAt b 64 8, fieldAt b 72 4, false⟩ } : State).showAns (reqSc b), ksOk, []) := by
  subst hw
  simp only [State.sakSet, hreq, hsc, hfields, hkey, hchannel, huse, Bool.not_true, Bool.or_self, Bool.false_eq_true, if_false]

theorem State.sakClear_ok (hreq : reqOk b 0x0011 [(2, 5)] = true) (hsc : reqScOk b 3 = true) (hchannel : v.channelOk d b = true)
    (huse : v.saInUse b = false) (hhas : Tab.has v.sas (saKey (reqSc b) (reqAn b)) = true) :
    v.sakClear d b = (({ v with sas := Tab.del v.sas (saKey (reqSc b) (reqAn b)) } : State).showAns (reqSc b), ksOk, []) := by
  simp only [State.sakClear, hreq, hsc, hchannel, huse, hhas, Bool.not_true, Bool.or_self, Bool.false_eq_true, if_false]

theorem State.saStatus_ok {a : MacSa} (hreq : reqOk b 0x0012 [(2, 5)] = true) (hsc : reqScOk b 3 = true) (hchannel : v.channelOk d b = true)
    (hsa : Tab.get? v.sas (saKey (reqSc b) (reqAn b)) = some a) : v.saStatus d b = (v, ksOk, toLe 8 a.pn) := by
  simp only [State.saStatus, hreq, hsc, hchannel, hsa, Bool.not_true, Bool.or_self, Bool.false_eq_true, if_false]

theorem State.setNoticeRing_ok {i : Inst} {g : Nat} (hreq : reqOk b 0x0020 [(2, 3)] = true) (hinst : fieldAt b 2 2 < 1024)
    (hloc : fieldAt b 4 1 < 64) (hi : Tab.get? v.insts (fieldAt b 2 2) = some i) (hoper : i.oper = false) (hdom : i.dom = d)
    (hg : Tab.get? i.locals (fieldAt b 4 1) = some g) :
    v.setNoticeRing d b = ({ v with noticeRings := Tab.set v.noticeRings d g }, ksOk, []) := by
  simp only [State.setNoticeRing, hreq, Nat.not_le.2 hinst, Nat.not_le.2 hloc, hi, hoper, hdom, hg, decide_false, bne_self_eq_false,
    Bool.not_true, Bool.or_self, Bool.false_eq_true, if_false]

end Operations

/-! ### Channel assignment (R428) -/

theorem exec_scAssignWrite_unreserved (s t : State) (v sc : Nat) (old new : Option Nat)
    (hsc : sc = (s.reg F.ISO_SC_SEL_SUBPORT.reg).toNat % 65536) (hold : old = s.scDom sc)
    (hnew : new = (if bit v 7 then some (v % 128) else none))
    (ht : t = (((if old = new then s else s.clearChannel sc old).setFld F.ISO_SC_ASSIGN_DOMAIN (v % 128) sc).setFld F.ISO_SC_ASSIGN_VALID
      (b2n (bit v 7)) sc))
    (hfree : s.reserved (sc % 32) = none) : exec (.scAssignWrite v) s = .next (if old = new then t else t.measChanged) := by
  change Host.Outcome.next (s.scAssign v) = _
  simp only [State.scAssign, ← hsc, hfree, Bool.false_eq_true, if_false, ← hold, ← hnew, ← ht]

theorem exec_scAssignWrite_reserved (s : State) (v sc d : Nat) (hsc : sc = (s.reg F.ISO_SC_SEL_SUBPORT.reg).toNat % 65536)
    (hd : s.reserved (sc % 32) = some d) (hvalid : bit v 7 = true) (hother : d ≠ v % 128) :
    exec (.scAssignWrite v) s = .next (s.raise F.ISO_ERR_STATUS_SC_CONFLICT) := by
  change Host.Outcome.next (s.scAssign v) = _
  simp only [State.scAssign, ← hsc, hd, hvalid, bne_iff_ne.2 hother, Bool.and_self, if_true]

/-- Settles O26: a message of an open session reaches its operation, which the checks of R425 let through. -/
theorem keyOperationsComplete : Obligations.KeyOperationsComplete := by
  unfold Obligations.KeyOperationsComplete
  refine ⟨?_, fun s t v sc old new hsc hold hnew ht => ⟨exec_scAssignWrite_unreserved s t v sc old new hsc hold hnew ht,
    fun d => exec_scAssignWrite_reserved s v sc d hsc⟩⟩
  intro s u v k d x b hboot hcore hu hx hopen hv
  have hserve : s.ServesOn u := State.servesOn_coresServing hboot hcore hu
  have hbound := fun f {w st rest} (hdom : x.dom = some d) (hf : f v d = (w, st, rest)) =>
    congrArg (Host.Outcome.next (φ := Fault) (ρ := Refusal)) (State.keyOp_bound hserve hx hopen hv f hdom hf)
  exact ⟨fun hdom => congrArg Host.Outcome.next (State.keyOp_unbound hserve hx hopen hv _ hdom), fun hdom =>
    ⟨fun hreq hflags hweak hbusy => hbound _ hdom (State.domKeySet_ok hreq hflags hweak hbusy),
     fun hreq hflags hbusy => hbound _ hdom (State.domKeyGen_ok hreq hflags hbusy),
     fun hreq hbusy => hbound _ hdom (State.domKeyClear_ok hreq hbusy),
     fun hreq hsc hfields hkey hchannel huse w hw => hbound _ hdom (State.sakSet_ok hreq hsc hfields hkey hchannel huse hw),
     fun hreq hsc hchannel huse hhas => hbound _ hdom (State.sakClear_ok hreq hsc hchannel huse hhas),
     fun a hreq hsc hchannel hsa => hbound _ hdom (State.saStatus_ok hreq hsc hchannel hsa),
     fun i g hreq hinst hloc hi hoper hid hg => hbound _ hdom (State.setNoticeRing_ok hreq hinst hloc hi hoper hid hg)⟩⟩

end Sys2Proof.Machine
end

/-! ## PROOFS of the family of completions: the Meridian (R459 to R476). -/

section
namespace Sys2Proof.Machine

/-! ### PTP and ESMC messages (R466 to R470) -/

theorem exec_ptpFrameReceive_message (s : State) (p : Nat) (m : PtpMsg) (hp : p < 32) (hon : s.ptpOn p = true) (hm : ∀ q, m ≠ .esmc q) :
    exec (.ptpFrameReceive p m) s = .next ((s.merCount (16 + p / 2)).ptpMessage p m) := by
  change Host.Outcome.next (s.ptpReceive (p % 32) m) = _
  rw [Nat.mod_eq_of_lt hp]
  cases m
  case esmc q => exact absurd rfl (hm q)
  all_goals simp only [State.ptpReceive, hon, if_true]

theorem exec_ptpFrameReceive_esmc (s : State) (p q : Nat) (hp : p < 32) (hup : s.flag F.ETH_SUB_STATUS_UP p = true)
    (hrx : s.flag F.MER_PORT_CFG_SYNCE_RX p = true) : exec (.ptpFrameReceive p (.esmc q)) s =
      .next (((s.merCount 8).setPtpPort p { s.ptpPort p with qlAt := s.now }).setQl p (q % 16)) := by
  change Host.Outcome.next (s.ptpReceive (p % 32) (.esmc q)) = _
  rw [Nat.mod_eq_of_lt hp]
  simp only [State.ptpReceive, hup, hrx, Bool.and_self, if_true]

theorem exec_ptpTxTimer_sync (s : State) (p : Nat) (hp : p < 32) (hon : s.ptpOn p = true)
    (hst : s.fld F.MER_PORT_CFG_PORT_STATE p = ptpMaster) :
    exec (.ptpTxTimer p 0) s = .next (((s.merCount 4).merCount 12).merSend p 0 (stampFields (s.txStamp p))) := by
  change Host.Outcome.next (s.ptpTx (p % 32) 0) = _
  rw [Nat.mod_eq_of_lt hp]
  simp only [State.ptpTx, hon, hst, Bool.not_true, Bool.false_eq_true, if_false, and_self, if_true]

/-- What an Announce carries of the master that the device follows. -/
def State.parentSet (s : State) : List Nat :=
  match s.slavePort with
  | some p => (s.ptpPort p).best.drop 2
  | none => []

theorem exec_ptpTxTimer_announce (s : State) (p : Nat) (hp : p < 32) (hon : s.ptpOn p = true)
    (hst : s.fld F.MER_PORT_CFG_PORT_STATE p = ptpMaster) : exec (.ptpTxTimer p 3) s =
      .next (s.merSend p 3 ([s.fld F.MER_STATUS_CLOCK_CLASS, s.fld F.MER_STATUS_UTC_OFFSET] ++ s.parentSet)) := by
  change Host.Outcome.next (s.ptpTx (p % 32) 3) = _
  have hreq : ¬(3 = 1 ∧ ptpMaster = ptpSlave) := by decide
  rw [Nat.mod_eq_of_lt hp]
  simp only [State.ptpTx, hon, hst, Bool.not_true, Bool.false_eq_true, if_false, if_neg hreq, and_self, if_true]
  rfl

theorem exec_ptpTxTimer_delayReq (s : State) (p : Nat) (hp : p < 32) (hon : s.ptpOn p = true)
    (hst : s.fld F.MER_PORT_CFG_PORT_STATE p = ptpSlave) : exec (.ptpTxTimer p 1) s =
      .next ((s.setPtpPort p { s.ptpPort p with reqAt := some (s.txStamp p : Int) }).merSend p 1 []) := by
  change Host.Outcome.next (s.ptpTx (p % 32) 1) = _
  have hsync : ¬(1 = 0 ∧ ptpSlave = ptpMaster) := by decide
  rw [Nat.mod_eq_of_lt hp]
  simp only [State.ptpTx, hon, hst, Bool.not_true, Bool.false_eq_true, if_false, if_neg hsync, and_self, if_true]

theorem exec_esmcTxTimer (s u : State) (hu : u = s.advanceTo (s.mer.esmcAt + 1000 * msec)) : exec .esmcTxTimer s =
    .next (({ u with mer := { u.mer with esmcAt := u.now } } : State).esmcPorts.foldl (fun s p => s.merSend p 5 [s.mer.ql])
      { u with mer := { u.mer with esmcAt := u.now } }) := by
  subst hu
  rfl

theorem exec_qlTimeout_rx (s : State) (p : Nat) (hp : p < 32) (hrx : s.flag F.MER_PORT_CFG_SYNCE_RX p = true) :
    exec (.qlTimeout p) s = .next ((s.advanceTo ((s.ptpPort p).qlAt + 5000 * msec)).setQl p qlDnu) := by
  change Host.Outcome.next (s.qlTimeout (p % 32)) = _
  rw [Nat.mod_eq_of_lt hp, State.qlTimeout, if_pos hrx]

/-! ### The loss of the source, and holdover (R465) -/

theorem exec_sourceLost_pps (s : State) (t : Nat) (b : Bool) (hsrc : s.fld F.MER_SRC_CTRL_PHASE_SRC = 1) (ht : s.mer.ppsAt = some t) :
    exec (.sourceLost b) s = .next ((s.advanceTo (t + 1100 * msec)).sourceLost) := by
  change Host.Outcome.next (s.lost b) = _
  simp only [State.lost, hsrc, ht, Nat.one_ne_zero, if_false, if_true]

theorem exec_holdExpired_due (s u : State) (hst : s.fld F.MER_STATUS_STATE = merHoldover) (hnew : s.flag F.MER_STATUS_HOLD_EXPIRED = false)
    (hu : u = s.advanceTo (s.mer.holdAt + (s.fld F.MER_SRC_CTRL_HOLD_LIMIT_S * 1000 + 1) * msec)) : exec .holdExpired s =
      .next (((((u.raise F.MER_STATUS_HOLD_EXPIRED).raise F.MER_ERR_STATUS_HOLD_EXPIRED).raise F.SXT_ALERT_HOLD_EXPIRED).merCount
        15).setClass) := by
  change Host.Outcome.next s.holdExpired = _
  rw [State.holdExpired, if_pos ⟨hst, hnew⟩, hu]

/-! ### PPS (R471) -/

theorem exec_ppsEdge_glitch (s : State) (t : Nat) (b : Bool) (ht : s.mer.ppsAt = some t) (hnear : s.now < t + 900 * msec) :
    exec (.ppsEdge b) s = .next ((s.raise F.MER_ERR_STATUS_PPS_GLITCH).merCount 11) := by
  change Host.Outcome.next (s.ppsEdge b) = _
  simp only [State.ppsEdge, ht, hnear, decide_true, if_true]

theorem exec_ppsEdge_captured (s u v : State) (c : Nat) (hfar : ∀ t, s.mer.ppsAt = some t → t + 900 * msec ≤ s.now)
    (hc : c = taiWrap ((s.tai : Int) - (s.fld F.MER_PPS_CTRL_PPS_IN_DELAY * 2 ^ 32 : Nat)))
    (hu : u = (((s.setFld F.MER_PPS_CAPTURE_NS (c % taiSec / 2 ^ 32)).setFld F.MER_PPS_CAPTURE_SUBNS (c % 2 ^ 32 / 65536)).addFld
      F.MER_PPS_CAPTURE_EDGES 1).merCount 10) (hv : v = { u with mer := { u.mer with ppsAt := some u.now } }) :
    exec (.ppsEdge false) s = .next (if v.fld F.MER_SRC_CTRL_PHASE_SRC = 1 then (v.addFld F.MER_TOD_SEC 1).phaseMeasure (Int.fdiv
      ((c : Int) - ((v.fld F.MER_TOD_SEC * taiSec : Nat) : Int)) 65536) else v) := by
  change Host.Outcome.next (s.ppsEdge false) = _
  rcases hpps : s.mer.ppsAt with _ | t
  · simp only [State.ppsEdge, hpps, Bool.false_eq_true, false_and, if_false, Option.getD_none, ← hc, ← hu, ← hv]
  · simp only [State.ppsEdge, hpps, Nat.not_lt.2 (hfar t hpps), decide_false, Bool.false_eq_true, false_and, if_false, Option.getD_none,
      ← hc, ← hu, ← hv]

theorem exec_ppsOutEdge_driven (s u : State) (hu : u = s.untilTai s.ppsNext) (hdrive : u.ppsDrives = true) :
    exec .ppsOutEdge s = .next { u with mer := { u.mer with ppsOut := true, riseAt := u.now } } := by
  change Host.Outcome.next s.ppsRise = _
  simp only [State.ppsRise, ← hu, hdrive, if_true]

theorem exec_ppsOutFall_high (s u : State) (hout : s.mer.ppsOut = true)
    (hu : u = s.advanceTo (s.mer.riseAt + s.fld F.MER_PPS_CTRL_PPS_WIDTH_US * usec)) :
    exec .ppsOutFall s = .next { u with mer := { u.mer with ppsOut := false } } := by
  change Host.Outcome.next s.ppsFall = _
  simp only [State.ppsFall, hout, if_true, ← hu]

/-! ### Writes of MER_TIME_CTRL (R463, R475) -/

theorem State.latch_eq (s : State) :
    s.latch = ((s.setFld F.MER_TIME_SEC_SEC s.sec).setFld F.MER_TIME_NS_NS s.ns).setFld F.MER_TIME_NS_SUBNS s.subns := by
  have hns : ∀ v, (s.setFld F.MER_TIME_SEC_SEC v).ns = s.ns := fun v => rfl
  have hsubns : ∀ v, (s.setFld F.MER_TIME_SEC_SEC v).subns = s.subns := fun v => rfl
  simp only [State.latch, hns, hsubns]

theorem State.timeCtrl_latch (s : State) : s.timeCtrl 1 = s.latch := by
  simp only [State.timeCtrl, show bit 1 0 = true from rfl, show bit 1 1 = false from rfl, show bit 1 2 = false from rfl, if_true,
    Bool.or_self, Bool.false_eq_true, if_false]

section Control
variable {s : State} {v : Nat} (hlatch : bit v 0 = false) (hany : (bit v 1 || bit v 2) = true)
include hlatch hany

theorem State.timeCtrl_sets (hidle : s.cellRunning = false) :
    s.timeCtrl v = (s.setFld F.MER_TIME_CTRL_TIME_REFUSED 0).setStep s.setValue (bit v 1) (bit v 2) := by
  simp only [State.timeCtrl, hlatch, hany, hidle, Bool.false_eq_true, if_false, if_true]

theorem State.timeCtrl_refused (hrun : s.cellRunning = true) :
    s.timeCtrl v = ((s.raise F.MER_TIME_CTRL_TIME_REFUSED).raise F.MER_ERR_STATUS_TIME_REFUSED).merCount 14 := by
  simp only [State.timeCtrl, hlatch, hany, hrun, Bool.false_eq_true, if_false, if_true]

end Control

/-- Settles O27: each message, timer, edge and write finds the Meridian in the state that its branch asks for. -/
theorem meridianCommandsComplete : Obligations.MeridianCommandsComplete := by
  unfold Obligations.MeridianCommandsComplete
  have hset : bit 2 0 = false ∧ (bit 2 1 || bit 2 2) = true := ⟨rfl, rfl⟩
  have hstep : bit 4 0 = false ∧ (bit 4 1 || bit 4 2) = true := ⟨rfl, rfl⟩
  refine ⟨fun s p m hp => ⟨exec_ptpFrameReceive_message s p m hp, fun q => exec_ptpFrameReceive_esmc s p q hp⟩,
    fun s p hp hon => ⟨fun hst => ⟨exec_ptpTxTimer_sync s p hp hon hst, (exec_ptpTxTimer_announce s p hp hon hst).trans rfl⟩,
      exec_ptpTxTimer_delayReq s p hp hon⟩,
    exec_esmcTxTimer, exec_qlTimeout_rx, exec_sourceLost_pps, exec_holdExpired_due, exec_ppsEdge_glitch, exec_ppsEdge_captured,
    exec_ppsOutEdge_driven, exec_ppsOutFall_high, fun s => ?_, fun s hidle => ⟨?_, ?_⟩, fun s hrun => ⟨?_, ?_⟩⟩
  · exact congrArg Host.Outcome.next (s.timeCtrl_latch.trans s.latch_eq)
  · exact congrArg Host.Outcome.next (State.timeCtrl_sets hset.1 hset.2 hidle)
  · exact congrArg Host.Outcome.next (State.timeCtrl_sets hstep.1 hstep.2 hidle)
  · exact congrArg Host.Outcome.next (State.timeCtrl_refused hset.1 hset.2 hrun)
  · exact congrArg Host.Outcome.next (State.timeCtrl_refused hstep.1 hstep.2 hrun)

end Sys2Proof.Machine
end

/-! ## PROOFS of the family of completions: the Almanac's commands and live updates (R482 to R499). -/

section
namespace Sys2Proof.Machine

/-! ### An ALM_CMD that the cores take (R495, R499, R501) -/

section Commands
variable {s u v : State} {op : Nat} (hserve : s.ServesOn u) (hbusy : s.flag F.ALM_CMD_BUSY = false)
  (hv : v = (u.setFld F.ALM_CMD_OP op).count 0xF9C none 1)
include hserve hbusy hv

theorem State.almGo_served (f : State → State) (hfree : (v.alm.upd.isSome && op != 7) = false) : s.almGo op f = f v := by
  rw [State.almGo, if_neg (Bool.eq_false_iff.mp hbusy), hserve]
  simp only [← hv, hfree, Bool.false_eq_true, if_false]

theorem State.almGo_noUpdate (f : State → State) (hupd : v.alm.upd = none) : s.almGo op f = f v :=
  State.almGo_served hserve hbusy hv f (by rw [hupd]; rfl)

theorem State.almGo_locked (f : State → State) (hupd : v.alm.upd = none) (hlock : v.lockedBy tokUpdate [] = none) :
    s.almGo op (fun x => x.withUpdate [] f) = f v := by
  rw [State.almGo_noUpdate hserve hbusy hv _ hupd, v.withUpdate_of_free [] f hlock]

omit hserve hbusy hv in
theorem State.stage_images {l : List Image} {p : Option Image × Option Image} {k : Nat} (hslot : v.stageSlot = some k)
    (hpair : stagePair l = some p) : v.stage (.images l) true =
      ((v.writeSlot k p true).1.stagedHdr k ((v.writeSlot k p true).2.1 == almOk)).almAnswer (v.writeSlot k p true).2 := by
  unfold State.stage
  rw [hslot]
  dsimp only
  rw [hpair]
  exact if_neg Bool.false_ne_true

theorem exec_stage (hop : op = 1) (hupd : v.alm.upd = none) (hlock : v.lockedBy tokUpdate [] = none) (l : List Image)
    (p : Option Image × Option Image) (k : Nat) (hpair : stagePair l = some p) (hslot : v.stageSlot = some k) :
    exec (.stage (.images l) true) s = .next (((v.writeSlot k p true).1.stagedHdr k ((v.writeSlot k p true).2.1 == almOk)).almAnswer
      (v.writeSlot k p true).2) := by
  subst hop
  change Host.Outcome.next (s.stageGo (.images l) true) = _
  rw [State.stageGo, State.almGo_locked hserve hbusy hv _ hupd hlock, v.stage_images hslot hpair]

theorem exec_writeFactory (hop : op = 8) (hupd : v.alm.upd = none) (hlock : v.lockedBy tokUpdate [] = none)
    (hbooted : v.alm.booted ≠ some v.alm.hdr.factory) (l : List Image) (p : Option Image × Option Image) (hpair : stagePair l = some p) :
    exec (.writeFactory (.images l) true) s = .next ((v.writeSlot v.alm.hdr.factory p false).1.almAnswer
      (v.writeSlot v.alm.hdr.factory p false).2) := by
  subst hop
  change Host.Outcome.next (s.factoryGo (.images l) true) = _
  rw [State.factoryGo, State.almGo_locked hserve hbusy hv _ hupd hlock]
  simp only [State.writeFactory, if_neg hbooted, hpair, Bool.not_true, Bool.false_eq_true, if_false]

theorem exec_activateReset (hop : op = 2) (hupd : v.alm.upd = none) (hcan : v.canActivate = true) :
    exec .activateReset s = .next ((v.activateRow.almAnswer (almOk, 0)).devResetAsked.1) := by
  subst hop
  change Host.Outcome.next (s.almGo 2 State.activateReset) = _
  rw [State.almGo_noUpdate hserve hbusy hv _ hupd, State.activateReset, if_pos hcan]

theorem exec_rollbackReset (hop : op = 5) (hupd : v.alm.upd = none) (hback : v.rollbackStatus = almOk) :
    exec .rollbackReset s = .next ((v.rollbackRow.almAnswer (almOk, 0)).devResetAsked.1) := by
  subst hop
  change Host.Outcome.next (s.almGo 5 State.rollbackReset) = _
  rw [State.almGo_noUpdate hserve hbusy hv _ hupd, State.rollbackReset, if_pos hback]

theorem exec_activateLive (hop : op = 3) (hupd : v.alm.upd = none) (hcan : v.canActivate = true)
    (hload : (v.slotChecks v.alm.hdr.staged).1 ≠ almLoadRefused) (hrun : v.running = true) (hlock : v.lockedBy tokUpdate [] = none) :
    exec .activateLive s =
      .next ((v.liveStart v.alm.hdr.staged false false).1.almAnswer ((v.liveStart v.alm.hdr.staged false false).2, 0)) := by
  subst hop
  change Host.Outcome.next s.activateLive = _
  rw [State.activateLive, State.almGo_noUpdate hserve hbusy hv _ hupd, if_pos hcan]
  simp only [if_neg hload, State.liveGo, hrun, Bool.not_true, Bool.false_eq_true, if_false, v.withUpdate_of_free [] _ hlock]

theorem exec_rollbackLive (hop : op = 6) (hupd : v.alm.upd = none) (hback : v.rollbackStatus = almOk) (hrun : v.running = true)
    (hlock : v.lockedBy tokUpdate [] = none) :
    exec .rollbackLive s =
      .next ((v.liveStart v.alm.hdr.prev true false).1.almAnswer ((v.liveStart v.alm.hdr.prev true false).2, 0)) := by
  subst hop
  change Host.Outcome.next s.rollbackLive = _
  rw [State.rollbackLive, State.almGo_noUpdate hserve hbusy hv _ hupd, if_pos hback]
  simp only [State.liveGo, hrun, Bool.not_true, Bool.false_eq_true, if_false, v.withUpdate_of_free [] _ hlock]

/-- A confirmation that raises no floor needs no FUSE token. -/
theorem exec_confirm (hop : op = 4) (hupd : v.alm.upd = none) (htrial : v.alm.hdr.trial = true)
    (hfloor : ∀ i ∈ (v.flashSlot v.alm.hdr.cur).images, i.floorSet ≤ v.floorOf i.kind) :
    exec .confirm s = .next v.confirmTrial := by
  have hraises : ((v.flashSlot v.alm.hdr.cur).images.any fun i => decide (v.floorOf i.kind < i.floorSet)) = false :=
    List.any_eq_false.mpr fun i hi => by
      rw [decide_eq_true_eq]
      exact Nat.not_lt.mpr (hfloor i hi)
  subst hop
  change Host.Outcome.next (s.almGo 4 State.confirm) = _
  rw [State.almGo_noUpdate hserve hbusy hv _ hupd]
  simp only [State.confirm, htrial, hraises, Bool.true_eq_false, Bool.false_eq_true, if_false]

theorem exec_ownerKey_first (hop : op = 9) (hupd : v.alm.upd = none) (hlock : v.lockedBy tokUpdate [] = none)
    (hfuse : v.lockedBy tokFuse [tokUpdate] = none) (hnone : v.alm.owners = []) (d : Nat) (ok : Bool) :
    exec (.ownerKey (some d) ok) s =
      .next (({ v with alm := { v.alm with owners := [(d, false)] } } : State).showFuses.almAnswer (almOk, 0)) := by
  have hrows : ¬4 ≤ 0 := by decide
  subst hop
  change Host.Outcome.next (s.ownerKeyGo (some d) ok) = _
  rw [State.ownerKeyGo, State.almGo_locked hserve hbusy hv _ hupd hlock]
  simp only [hfuse, State.ownerKey, hnone, List.length_nil, List.isEmpty_nil, Bool.not_true, Bool.false_and, Bool.false_eq_true,
    if_false, List.nil_append, if_neg hrows]

theorem exec_abort (hop : op = 7) :
    exec .abort s = .next (if v.alm.upd.isSome = true then v.revert almAborted else v.almAnswer (almOk, 0)) := by
  subst hop
  change Host.Outcome.next s.abortLive = _
  rw [State.abortLive, State.almGo_served hserve hbusy hv _ (Bool.and_false _)]

end Commands

/-! ### A unit of a live update (R305, R498, R499) -/

section Units
variable {s u : State} {l : LiveUpdate} {x : UpdUnit} {t : List UpdUnit} (hserve : s.ServesOn u) (hupd : u.alm.upd = some l)
  (htodo : l.todo = x :: t) (hplan : u.planStands l = true)
include hserve hupd htodo hplan

theorem exec_liveUpdateUnit_waits (hdrain : (u.runs.any fun p => u.draining.contains p.2.dom) = true) (o : Nat) :
    exec (.liveUpdateUnit o) s = .next u := by
  change Host.Outcome.next (s.sxtServe fun s => s.updateUnit o) = _
  rw [hserve]
  simp only [State.updateUnit, hupd, htodo, hplan, hdrain, Bool.not_true, Bool.false_eq_true, if_false, if_true]

variable (hfree : (u.runs.any fun p => u.draining.contains p.2.dom) = false)
include hfree

theorem exec_liveUpdateUnit_done {w z : State} {m : LiveUpdate}
    (hw : w = ((if x.cls = 0x01 ∨ x.cls = 0x02 then u.toBoundary else u).noteMap.reconfigure x x.new).count 0xF9D none 1)
    (hm : m = { l with todo := t, done := x :: l.done, runs := w.mapRun.map (·.1) })
    (hz : z = ({ w with alm := { w.alm with upd := some m } } : State).showUpdate) :
    exec (.liveUpdateUnit 0) s = .next (if t.isEmpty = true then z.updateDone m else z) := by
  change Host.Outcome.next (s.sxtServe fun s => s.updateUnit 0) = _
  rw [hserve]
  simp only [State.updateUnit, hupd, htodo, hplan, hfree, Bool.not_true, Bool.false_eq_true, if_false, if_true, ← hw, ← hm, ← hz]

theorem exec_liveUpdateUnit_fails : exec (.liveUpdateUnit 1) s = .next (u.revert almAborted) := by
  change Host.Outcome.next (s.sxtServe fun s => s.updateUnit 1) = _
  rw [hserve]
  simp only [State.updateUnit, hupd, htodo, hplan, hfree, Bool.not_true, Bool.false_eq_true, if_false, if_true, Nat.one_ne_zero]

theorem exec_liveUpdateUnit_failsBoth : exec (.liveUpdateUnit 2) s = .next ((u.unitFails x).revert almAborted) := by
  change Host.Outcome.next (s.sxtServe fun s => s.updateUnit 2) = _
  rw [hserve]
  simp only [State.updateUnit, hupd, htodo, hplan, hfree, Bool.not_true, Bool.false_eq_true, if_false, OfNat.ofNat_ne_zero,
    OfNat.ofNat_ne_one]

end Units

/-- Settles O28: every Almanac command whose guard holds is carried out on the state that the cores serve, and so is a live update's unit. -/
theorem almanacCommandsComplete : Obligations.AlmanacCommandsComplete := by
  intro s u v hboot hcore hbusy hu
  have hserve : s.ServesOn u := State.servesOn_coresServing hboot hcore hu
  refine ⟨fun op hv => ⟨exec_stage hserve hbusy hv, exec_writeFactory hserve hbusy hv, exec_activateReset hserve hbusy hv,
    exec_rollbackReset hserve hbusy hv, exec_activateLive hserve hbusy hv, exec_rollbackLive hserve hbusy hv,
    exec_confirm hserve hbusy hv, exec_ownerKey_first hserve hbusy hv, exec_abort hserve hbusy hv⟩,
    fun l x t w hupd htodo hplan hw => ⟨exec_liveUpdateUnit_waits hserve hupd htodo hplan, fun hfree => ⟨fun m z hm hz => ?_, ?_, ?_⟩⟩⟩
  · exact exec_liveUpdateUnit_done hserve hupd htodo hplan hfree hw hm hz
  · exact exec_liveUpdateUnit_fails hserve hupd htodo hplan hfree
  · exact exec_liveUpdateUnit_failsBoth hserve hupd htodo hplan hfree

end Sys2Proof.Machine
end

/-! ## PROOFS of the family of completions: the Sextant's cores, log, buses and TAP (R501 to R518). -/

section
namespace Sys2Proof.Machine

/-! ### The always-on domain (R501) -/

section Awake
variable {s : State} (hawake : s.pow.life ≠ .off)
include hawake

theorem State.awake_of_powered : s.awake = true := bne_iff_ne.mpr hawake

theorem State.coresServe_of_serving (f : State → State) (hcore : s.fld F.SXT_STATUS_CORE_STATE < 2) : s.coresServe f = f s.wakeCores := by
  simp only [State.coresServe, State.awake_of_powered hawake, decide_eq_true hcore, Bool.and_self, if_true]

/-! ### Cores and sensors (R501 to R504) -/

theorem exec_coreClockStop (hcore : s.fld F.SXT_STATUS_CORE_STATE = 1) (hupd : s.alm.upd = none) :
    exec .coreClockStop s = .next ((s.advanceTo (s.sxt.workAt + 10 * msec)).setFld F.SXT_STATUS_CORE_STATE 0) := by
  change Host.Outcome.next s.coreStop = _
  simp only [State.coreStop, State.awake_of_powered hawake, hcore, hupd, beq_self_eq_true, Option.isNone_none, Bool.and_self, if_true]

section Disagreement
variable {u v : State} {pc : Nat} (hcore : s.fld F.SXT_STATUS_CORE_STATE ≠ 3)
  (hu : u = ((({ s with sessions := [] } : State).pldmCancel).logEvent 0x0030 2 (toLe 4 pc)).count 0xF8D none 1)
  (hv : v = ({ u with sxt := { u.sxt with disagreeAt := some u.now } } : State))
include hcore hu hv

theorem exec_lockstepDisagree_first (hfirst : s.sxt.disagreeAt = none) :
    exec (.lockstepDisagree pc) s = .next (({ v with sxt := { v.sxt with workAt := v.now } } : State).setFld F.SXT_STATUS_CORE_STATE 1) := by
  subst hv
  change Host.Outcome.next (s.disagree pc) = _
  simp only [State.disagree, State.awake_of_powered hawake, bne_iff_ne.mpr hcore, Bool.and_self, if_true, hfirst, ← hu,
    Bool.false_eq_true, if_false]

theorem exec_lockstepDisagree_second (t : Nat) (hlast : s.sxt.disagreeAt = some t) (hhour : s.now < t + 3600000 * msec) :
    exec (.lockstepDisagree pc) s = .next ((v.setFld F.SXT_STATUS_CORE_STATE 3).raise F.SXT_ALERT_LOCKSTEP) := by
  change Host.Outcome.next (s.disagree pc) = _
  simp only [State.disagree, State.awake_of_powered hawake, bne_iff_ne.mpr hcore, Bool.and_self, if_true, hlast, decide_eq_true hhour,
    ← hu, ← hv]

end Disagreement

theorem exec_sensorSample (l : List Nat) (u t : State)
    (hu : u = ({ s.advanceTo (s.sxt.sampleAt + 250 * usec) with sxt := { (s.advanceTo (s.sxt.sampleAt + 250 * usec)).sxt with
        sampleAt := (s.advanceTo (s.sxt.sampleAt + 250 * usec)).now } } : State))
    (ht : t = (((rangeFrom 0 8).foldl State.refreshRate ((allSensors.zip l).foldl (fun (x : State) (p : (Nat × Nat) × Nat) =>
        x.sensSample (u.indices F.SXT_SENS_THR_WARN.reg) p.1.1 p.1.2 (p.2 % 2 ^ 16)) u)).sensTop)) :
    exec (.sensorSample l) s = .next (if (allSensors.filter fun p => t.fld F.SXT_SENS_DATA_LEVEL (sensIdx p.1 p.2) == 3).all
      (allSensors.filter fun p => u.fld F.SXT_SENS_DATA_LEVEL (sensIdx p.1 p.2) == 3).contains then t else t.fatalTrip) := by
  change Host.Outcome.next (s.sensors l) = _
  simp only [State.sensors, State.awake_of_powered hawake, if_true, ← hu, ← ht]

/-! ### The event log (R508 to R510) -/

section Mirror
variable {u : State} (hu : u = s.wakeCores) (hcore : s.fld F.SXT_STATUS_CORE_STATE < 2) (hlog : u.log.degraded = false) (ok : Bool)
include hu hcore hlog

theorem exec_mirrorNow : exec (.mirrorNow ok) s = .next (u.mirrorWrite u.log.queue.length ok) := by
  change Host.Outcome.next (s.mirrorNow ok) = _
  rw [State.mirrorNow, State.coresServe_of_serving hawake _ hcore, ← hu, hlog, if_neg Bool.false_ne_true]

theorem exec_logMirrorWrite_full (hfull : 256 ≤ u.log.queue.length) :
    exec (.logMirrorWrite ok) s = .next (u.mirrorWrite u.log.queue.length ok) := by
  change Host.Outcome.next (s.mirrorDue ok) = _
  rw [State.mirrorDue, State.coresServe_of_serving hawake _ hcore, ← hu, hlog, if_neg Bool.false_ne_true, if_pos hfull]

theorem exec_logMirrorWrite_due (e : LogEntry) (w : State) (hfew : ¬256 ≤ u.log.queue.length)
    (he : minBy (fun (e : LogEntry) => [LogEntry.due e]) u.log.queue = some e) (hw : w = u.advanceTo (LogEntry.due e)) :
    exec (.logMirrorWrite ok) s =
      .next (w.mirrorWrite (u.log.queue.reverse.dropWhile fun x => decide (w.now < LogEntry.due x)).length ok) := by
  change Host.Outcome.next (s.mirrorDue ok) = _
  rw [State.mirrorDue, State.coresServe_of_serving hawake _ hcore, ← hu, hlog, if_neg Bool.false_ne_true, if_neg hfew]
  simp only [he, ← hw]

end Mirror

theorem exec_logFailed (hlog : s.log.degraded = false) :
    exec .logFailed s = .next (((({ s with log := { s.log with
      sram := [], waiting := 0, degraded := true, regRing := [], flashDead := false } } : State).logEvent 0x0001 2
      (toLe 8 (s.fld F.SXT_LOG_MIRRORED_SEQ) ++ toLe 4 s.log.queue.length)).setFld F.SXT_STATUS_LOG_DEGRADED 1).raise
      F.SXT_ALERT_LOG_DEGRADED) := by
  change Host.Outcome.next s.logFails = _
  simp only [State.logFails, State.awake_of_powered hawake, hlog, Bool.not_false, Bool.and_self, if_true]

theorem exec_logSelWrite (v : Nat) :
    exec (.logSelWrite v) s = .next ((({ s.setFld F.SXT_LOG_SEL_SEQ v with log := { (s.setFld F.SXT_LOG_SEL_SEQ v).log with
      fetch := some (v % 2 ^ 64) } } : State).setFld F.SXT_LOG_STAT_BUSY 1).setFld F.SXT_LOG_STAT_PRESENT 0) :=
  congrArg Host.Outcome.next (if_pos (State.awake_of_powered hawake))

end Awake

/-! ### Reading a log entry (R507, R509) -/

section Fetch
variable {s u : State} {q : Nat} (hfetch : s.log.fetch = some q)
  (hu : u = ({ s with log := { s.log with fetch := none } } : State).setFld F.SXT_LOG_STAT_BUSY 0)
include hfetch hu

theorem exec_logFetchDone_absent (hfind : u.logFind q = none) (ok : Bool) :
    exec (.logFetchDone ok) s = .next (u.setFld F.SXT_LOG_STAT_PRESENT 0) := by
  change Host.Outcome.next (s.logFetch ok) = _
  simp only [State.logFetch, hfetch, ← hu, hfind]

theorem exec_logFetchDone_found (e : LogEntry) (n : Bool) (hfind : u.logFind q = some (e, n)) :
    exec (.logFetchDone true) s = .next ((((rangeFrom 0 8).foldl (fun (s : State) k =>
      s.setReg (logDataReg k) 0 (BitVec.ofNat 64 (fieldAt (logBytes e) (8 * k) 8))) u).setFld F.SXT_LOG_STAT_PRESENT 1).setFld
      F.SXT_LOG_STAT_FROM_NVM (b2n n)) := by
  change Host.Outcome.next (s.logFetch true) = _
  simp only [State.logFetch, hfetch, ← hu, hfind, Bool.not_true, Bool.false_eq_true, if_false]

end Fetch

/-! ### The card's buses and the TAP (R515 to R518) -/

section Buses
variable {s : State} (hawake : s.pow.life ≠ .off)
include hawake

theorem exec_busPoll (l : List Nat) (u : State)
    (hu : u = ({ s.advanceTo (s.sxt.pollAt + 10 * msec) with sxt := { (s.advanceTo (s.sxt.pollAt + 10 * msec)).sxt with
        pollAt := (s.advanceTo (s.sxt.pollAt + 10 * msec)).now } } : State)) (hport : u.isolated = false) :
    exec (.busPoll l) s = .next (((((cfgIdx u.cfg cfgCard).take 16).zip l).filter fun p => p.2 != 0).foldl (fun (s : State) p =>
      s.logOpen (toLe 1 p.1 ++ toLe 4 p.2)) (u.count 0xF91 none (((cfgIdx u.cfg cfgCard).take 16).zip l).length)) := by
  have hcfg : u.cfg = (s.advanceTo (s.sxt.pollAt + 10 * msec)).cfg := by rw [hu]
  change Host.Outcome.next (s.busPoll l) = _
  simp only [State.busPoll, State.awake_of_powered hawake, if_true, ← hu, hport, hcfg, Bool.false_eq_true, if_false]

theorem exec_busRecovery (n : Option Nat) (b : Bool) (hport : s.isolated = false) : exec (.busRecovery n b) s = .next (s.busRecover n b) := by
  change Host.Outcome.next (if s.awake && !s.isolated then s.busRecover n b else s) = _
  simp only [State.awake_of_powered hawake, hport, Bool.not_false, Bool.and_self, if_true]

theorem exec_recover (n : Option Nat) (b : Bool) : exec (.recover n b) s = .next (s.busRecover n b) :=
  congrArg Host.Outcome.next (if_pos (State.awake_of_powered hawake))

theorem exec_sclLowTimeout : exec .sclLowTimeout s = .next (s.count 0xF92 none 1) :=
  congrArg Host.Outcome.next (if_pos (State.awake_of_powered hawake))

theorem exec_bypass : exec .bypass s = .next s.tapBypassed :=
  congrArg Host.Outcome.next (if_pos (State.awake_of_powered hawake))

theorem exec_idcode :
    exec .idcode s = .next (({ (s.fresh 32).2 with sxt := { (s.fresh 32).2.sxt with tap := tapIdcode } } : State).send (.tdo 32 (s.fresh 32).1)) :=
  congrArg Host.Outcome.next (if_pos (State.awake_of_powered hawake))

theorem exec_samplePreload : exec .samplePreload s = .next { s with sxt := { s.sxt with tap := tapSample } } :=
  congrArg Host.Outcome.next (if_pos (State.awake_of_powered hawake))

theorem State.tapOnly_recovery (hboot : s.fld F.GLB_STATUS_BOOT_STATE = bootRecovery) (code : Nat) :
    s.tapOnly code = { s with sxt := { s.sxt with tap := code } } := by
  simp only [State.tapOnly, State.awake_of_powered hawake, Bool.not_true, Bool.false_eq_true, if_false, if_pos hboot]

theorem State.tapOnly_elsewhere (hboot : s.fld F.GLB_STATUS_BOOT_STATE ≠ bootRecovery) (code : Nat) : s.tapOnly code = s.tapBypassed := by
  simp only [State.tapOnly, State.awake_of_powered hawake, Bool.not_true, Bool.false_eq_true, if_false, if_neg hboot]

theorem exec_tapOnly_elsewhere (hboot : s.fld F.GLB_STATUS_BOOT_STATE ≠ bootRecovery) (code : Nat) :
    Host.Outcome.next (φ := Fault) (ρ := Refusal) (s.tapOnly code) = exec .bypass s := by
  rw [State.tapOnly_elsewhere hawake hboot, exec_bypass hawake]

end Buses

/-- Settles O29: the Sextant's commands, each on a device whose always-on domain has power. -/
theorem sextantCommandsComplete : Obligations.SextantCommandsComplete := fun _ hawake =>
  ⟨exec_coreClockStop hawake,
    fun _ _ _ hcore hu hv => ⟨exec_lockstepDisagree_first hawake hcore hu hv, exec_lockstepDisagree_second hawake hcore hu hv⟩,
    exec_sensorSample hawake,
    fun ok hcore hlog => ⟨exec_mirrorNow hawake rfl hcore hlog ok, exec_logMirrorWrite_full hawake rfl hcore hlog ok,
      exec_logMirrorWrite_due hawake rfl hcore hlog ok⟩,
    exec_logFailed hawake, exec_logSelWrite hawake,
    fun _ _ hfetch hu => ⟨exec_logFetchDone_absent hfetch hu, exec_logFetchDone_found hfetch hu⟩,
    exec_busPoll hawake, fun n b => ⟨exec_busRecovery hawake n b, exec_recover hawake n b⟩,
    exec_sclLowTimeout hawake, exec_bypass hawake, exec_idcode hawake, exec_samplePreload hawake,
    fun hboot => ⟨congrArg Host.Outcome.next (State.tapOnly_recovery hawake hboot tapExtest),
      congrArg Host.Outcome.next (State.tapOnly_recovery hawake hboot tapClamp),
      congrArg Host.Outcome.next (State.tapOnly_recovery hawake hboot tapHighz)⟩,
    fun hboot => ⟨exec_tapOnly_elsewhere hawake hboot tapExtest, exec_tapOnly_elsewhere hawake hboot tapClamp,
      exec_tapOnly_elsewhere hawake hboot tapHighz⟩⟩

end Sys2Proof.Machine
end

/-! ## PROOFS of the family of completions: PLDM updates and maintenance commands (R513, R519 to R522). -/

section
namespace Sys2Proof.Machine

/-! ### PLDM updates (R513) -/

section Requests
variable {s u : State} (hserve : s.ServesOn u)
include hserve

theorem exec_requestUpdate (v : State) (hv : v = u.count 0xF9A none 1) (hpldm : v.alm.pldm = none) (hlock : v.lockedBy tokUpdate [] = none) :
    exec .requestUpdate s = .next ((((({ v with alm := { v.alm with pldm := some ⟨[], v.now⟩ } } : State).takeToken tokUpdate).setFld
      F.SXT_STATUS_PLDM_ACTIVE 1).logEvent 0x0050 0 (toLe 1 0 ++ toLe 1 0)).send (.pldm 0 [])) := by
  change Host.Outcome.next (s.sxtServe State.pldmStart) = _
  rw [hserve]
  simp only [State.pldmStart, ← hv, hpldm, Option.isSome_none, Bool.false_eq_true, if_false, hlock]

theorem exec_pldmTimeout (p : PldmUpdate) (hpldm : s.alm.pldm = some p) (hupd : s.alm.upd = none) :
    exec .pldmTimeout s = .next ((u.advanceTo (p.lastAt + 120000 * msec)).pldmCancel) := by
  change Host.Outcome.next s.pldmTimeout = _
  simp only [State.pldmTimeout, hpldm, hupd]
  rw [hserve]

section Update
variable {p q : PldmUpdate} {v : State} (hpldm : u.alm.pldm = some p) (hq : q = { p with lastAt := u.now })
  (hv : v = ({ u with alm := { u.alm with pldm := some q } } : State))
include hpldm hq hv

theorem State.pldmReq_served (f : State → PldmUpdate → State) : s.pldmReq f = f v q := by
  rw [State.pldmReq, hserve]
  simp only [hpldm, ← hq, ← hv]

end Update
end Requests

/-- The slot that STAGE would write, torn, as a transfer to it leaves it. -/
def State.slotTaken (v : State) : State :=
  match v.stageSlot with
  | none => v
  | some k => (v.slotTorn k).stagedHdr k false

section Update
variable {s v : State} {q : PldmUpdate} (hreq : ∀ f, s.pldmReq f = f v q)
include hreq

theorem exec_pldmTransfer (c : Nat) (i : Option Image) (w : State) (hw : w = (v.count 0xF8C none 1).slotTaken) :
    exec (.pldmTransfer c i true) s = .next (({ w with alm := { w.alm with pldm := some { q with
      images := (q.images.filter fun (i : Image) => i.kind != componentKind c) ++ (i.filter fun (i : Image) =>
        i.kind == componentKind c).toList } } } : State).send (.pldm 0 [])) := by
  change Host.Outcome.next (s.pldmTransfer c i true) = _
  rw [State.pldmTransfer, hreq, hw]
  rfl

theorem exec_verifyComplete :
    exec .verifyComplete s = .next (((v.pldmCheck q).1.logEvent 0x0050 0 (toLe 1 1 ++ toLe 1 (v.pldmCheck q).2)).send
      (.pldm (v.pldmCheck q).2 [])) :=
  congrArg Host.Outcome.next (hreq _)

section Ready
variable (hlife : v.pow.life ≠ .recovery) (hcan : v.canActivate = true) (hupd : v.alm.upd = none)
include hlife hcan hupd

theorem exec_activateFirmware_reset : exec (.activateFirmware false) s = .next v.pldmApply := by
  change Host.Outcome.next (s.pldmActivate false) = _
  rw [State.pldmActivate, hreq]
  simp only [if_neg hlife, hcan, hupd, Option.isSome_none, Bool.not_true, Bool.or_self, Bool.false_and, Bool.false_eq_true, if_false]

theorem exec_activateFirmware_live (hrun : v.running = true) :
    exec (.activateFirmware true) s = .next ((v.liveStart v.alm.hdr.staged false true).1.send
      (.pldm (v.liveStart v.alm.hdr.staged false true).2 [])) := by
  change Host.Outcome.next (s.pldmActivate true) = _
  rw [State.pldmActivate, hreq]
  simp only [if_neg hlife, hcan, hupd, hrun, Option.isSome_none, Bool.not_true, Bool.or_self, Bool.and_self, Bool.false_eq_true, if_false,
    if_true]

end Ready

theorem exec_cancelUpdate (hupd : v.alm.upd = none) : exec .cancelUpdate s = .next (v.pldmCancel.send (.pldm 0 [])) := by
  change Host.Outcome.next (s.pldmReq fun s _ => if s.alm.upd.isSome then s.send (.pldm pldmIncomplete []) else s.pldmCancel.send (.pldm 0 [])) = _
  rw [hreq, hupd, Option.isSome_none, if_neg Bool.false_ne_true]

end Update

/-! ### Maintenance commands (R519 to R522) -/

section Start
variable {s u t : State} {op g cid : Nat} {f : Fetched} {m : MaintCmd} (hf : s.startable g cid op = some f)
include hf

theorem State.maintStart_unitInvalid (hunit : s.maintUnitOk op (maintKind op f.body) (maintIdx op f.body) = false) :
    s.maintStart op g cid = s.complete g cid (maintPayload stUnitInvalid 0 false) := by
  simp only [State.maintStart, hf, hunit, Bool.not_false, if_true]

variable (hunit : s.maintUnitOk op (maintKind op f.body) (maintIdx op f.body) = true) (hlock : s.lockedBy (op - 0x5F) [] = none)
  (hm : m = ⟨g, cid, op, maintKind op f.body, maintIdx op f.body, op == 0x60 || op == 0x61, s.now⟩)
  (hu : u = ({ s.noteMap with sxt := { s.sxt with maint := s.sxt.maint ++ [m] } } : State).takeToken (op - 0x5F))
  (ht : t = (if op = 0x60 then u.noteOutcome (u.maintRoom op) else u))
include hunit hlock hm hu ht

theorem State.maintStart_tokenFree :
    s.maintStart op g cid = if t.maintRoom op then t.stageCmd g f .started else t.maintEnd m stWindowRefused 0 false := by
  simp only [State.maintStart, hf, hunit, hlock, Bool.not_true, Bool.false_eq_true, if_false, ← hm, ← hu, ← ht]

end Start

/-- The opcode of each maintenance command that takes a token. -/
theorem exec_maintStart {s : State} {g cid op : Nat} {c : Instr} (hc : (op, c) = (0x60, .tileTest g cid) ∨ (op, c) = (0x61, .engineTest g cid) ∨
    (op, c) = (0x62, .hbmCal g cid) ∨ (op, c) = (0x63, .serdesCal g cid) ∨ (op, c) = (0x64, .scrubSweep g cid)) :
    exec c s = .next (s.maintStart op g cid) := by
  rcases hc with hc | hc | hc | hc | hc <;> (obtain ⟨hop, hcmd⟩ := Prod.mk.inj hc; subst hop hcmd; rfl)

section Abort
variable {s : State} {g cid : Nat} {f : Fetched} (hf : s.startable g cid 0x6F = some f)
include hf

theorem exec_maintAbort_notFound (hm : (s.sxt.maint.find? fun m => m.ring == g && m.cid == fieldAt f.body 16 2) = none) :
    exec (.maintAbort g cid) s = .next (s.complete g cid (maintPayload stNotFound 0 false)) := by
  change Host.Outcome.next (s.maintAbort g cid) = _
  simp only [State.maintAbort, hf, hm]

theorem exec_maintAbort_found (m : MaintCmd) (hm : (s.sxt.maint.find? fun m => m.ring == g && m.cid == fieldAt f.body 16 2) = some m) :
    exec (.maintAbort g cid) s = .next ((s.maintEnd m stAborted 0 false).complete g cid (maintPayload stOk 0 false)) := by
  change Host.Outcome.next (s.maintAbort g cid) = _
  simp only [State.maintAbort, hf, hm]

end Abort

theorem exec_maintComplete {s : State} {g cid : Nat} {m : MaintCmd} (hm : (s.sxt.maint.find? fun m => m.ring == g && m.cid == cid) = some m)
    (passed : Bool) (n : Nat) (ce ue : List Nat) : exec (.maintComplete g cid passed n ce ue) s = .next (s.maintRan m passed n ce ue) := by
  change Host.Outcome.next (s.maintComplete g cid passed n ce ue) = _
  simp only [State.maintComplete, hm]

section Ran
variable (s : State) {m : MaintCmd} (n : Nat) (ce ue : List Nat)

theorem State.maintRan_sweep (hop : m.op = 0x64) (passed : Bool) :
    s.maintRan m passed n ce ue = (s.sweep m.idx ce ue).maintEnd m stOk (ce.length + ue.length) false := if_pos hop

theorem State.maintRan_passed (hop : m.op ≠ 0x64) (hcal : m.op ≠ 0x62) : s.maintRan m true n ce ue = s.maintEnd m stOk n false := by
  simp only [State.maintRan, if_neg hop, if_neg hcal, if_true]

theorem State.maintRan_calibrated (hcal : m.op = 0x62) :
    s.maintRan m true n ce ue = (s.count (0xEA0 + 12 * m.idx + 9) none 1).maintEnd m stOk n false := by
  have hop : m.op ≠ 0x64 := by rw [hcal]; decide
  simp only [State.maintRan, if_neg hop, if_pos hcal, if_true]

end Ran

/-- Settles O30: the requests of the update agent on the state that the cores serve, and the maintenance commands from start to end. -/
theorem pldmAndMaintenanceCommandsComplete : Obligations.PldmAndMaintenanceCommandsComplete := by
  refine ⟨fun s u hboot hcore hu => ?_, fun s u t g cid op c f m hc hf => ?_,
    fun s g cid f hf => ⟨exec_maintAbort_notFound hf, exec_maintAbort_found hf⟩, fun s g cid n m ce ue hm => ⟨fun hop b => ?_, fun hop hcal => ?_, fun hcal => ?_⟩⟩
  · have hserve : s.ServesOn u := State.servesOn_coresServing hboot hcore hu
    refine ⟨exec_requestUpdate hserve, fun p q v hpldm hq hv => ?_, exec_pldmTimeout hserve⟩
    have hreq := State.pldmReq_served hserve hpldm hq hv
    refine ⟨fun c i w hw => exec_pldmTransfer hreq c i w (hw.trans rfl), exec_verifyComplete hreq, fun hlife hcan hupd => ⟨?_, fun hrun => ?_⟩,
      exec_cancelUpdate hreq⟩
    · exact exec_activateFirmware_reset hreq hlife hcan hupd
    · exact exec_activateFirmware_live hreq hlife hcan hupd hrun
  · rw [exec_maintStart hc]
    refine ⟨fun hunit => congrArg _ (State.maintStart_unitInvalid hf hunit), fun hunit hlock hm hu ht => ?_⟩
    rw [State.maintStart_tokenFree hf hunit hlock hm hu ht]
    exact ⟨fun hroom => congrArg _ (if_pos hroom), fun hroom => congrArg _ (if_neg (Bool.eq_false_iff.mp hroom))⟩
  · rw [exec_maintComplete hm, s.maintRan_sweep n ce ue hop]
    rfl
  · rw [exec_maintComplete hm, s.maintRan_passed n ce ue hop hcal]
    rfl
  · rw [exec_maintComplete hm, s.maintRan_calibrated n ce ue hcal]
    rfl

end Sys2Proof.Machine
end

/-! ## PROOFS of the family of completions: event counters and snapshots (R525 to R527). -/

section
namespace Sys2Proof.Machine

/-! ### The operator's counters (R525) -/

section Program
variable {s u t : State} {v k : Nat} {w : Word} (hk : k = s.fld F.EVC_SEL_COUNTER) (hw : w = BitVec.ofNat 64 v)
  (hu : u = (s.setFld F.EVC_CFG_SOURCE (F.EVC_CFG_SOURCE.get w) k).setFld F.EVC_CFG_ENABLE (F.EVC_CFG_ENABLE.get w) k)
include hk hw hu

theorem exec_evcProgram_store (hgo : F.EVC_CFG_GO.get w ≠ 1) : exec (.evcProgram v) s = .next u := by
  change Host.Outcome.next (s.evcCfgWrite v) = _
  simp only [State.evcCfgWrite, ← hk, ← hw, ← hu, if_neg hgo]

theorem exec_evcProgram_go (hgo : F.EVC_CFG_GO.get w = 1) (hawake : (u.setFld F.EVC_CFG_BUSY 1 k).awake = true)
    (hcore : (u.setFld F.EVC_CFG_BUSY 1 k).fld F.SXT_STATUS_CORE_STATE < 2) (ht : t = (u.setFld F.EVC_CFG_BUSY 1 k).wakeCores) :
    exec (.evcProgram v) s = .next (((t.evcApply k (F.EVC_CFG_SOURCE.get w) (F.EVC_CFG_ENABLE.get w == 1)).1.setFld F.EVC_CFG_BUSY 0
      k).setFld F.EVC_CFG_STATUS (t.evcApply k (F.EVC_CFG_SOURCE.get w) (F.EVC_CFG_ENABLE.get w == 1)).2 k) := by
  change Host.Outcome.next (s.evcCfgWrite v) = _
  simp only [State.evcCfgWrite, ← hk, ← hw, ← hu, if_pos hgo]
  rw [State.coresServe_of_serving (bne_iff_ne.mp hawake) _ hcore, ← ht]

end Program

/-! ### The domains' counters (R526) -/

/-- What EVC_READ answers of the counters that it names. -/
def State.evcValues (v : State) (names : List Nat) : List Byte :=
  names.flatMap fun k => toLe 8 (match Tab.get? v.evcs k with
    | some e => e.read v.now
    | none => 0)

section Requests
variable {v : State} {d : Nat} {b : List Byte}

theorem State.evcAlloc_ok (k : Nat) (hreq : reqOk b 0x0100 [(2, 2)] = true) (hclass : classD (fieldAt b 2 2) = true)
    (hfree : Tab.lowestFree v.evcs 0 evcCount = some k) (hlimit : (v.domEvcs d).length < v.fld F.EVC_CTRL_DOMAIN_LIMIT) :
    v.evcAlloc d b = (v.setEvc k (Evc.start (fieldAt b 2 2) (some d) v.now), ksOk, toLe 2 k) := by
  have hsrc : ¬4096 ≤ fieldAt b 2 2 := by
    have := decide_eq_true_eq.mp hclass
    omega
  simp only [State.evcAlloc, hreq, hclass, hfree, decide_eq_false hsrc, Nat.not_le.mpr hlimit, Bool.not_true, Bool.or_self,
    Bool.false_eq_true, if_false]

theorem State.evcFree_ok (hreq : reqOk b 0x0101 [(2, 2)] = true) (hk : fieldAt b 2 2 < evcCount) (hown : v.ownsEvc d (fieldAt b 2 2) = true) :
    v.evcFree d b = ({ v with evcs := Tab.del v.evcs (fieldAt b 2 2) }, ksOk, []) := by
  simp only [State.evcFree, hreq, hown, decide_eq_false (Nat.not_le.mpr hk), Bool.not_true, Bool.or_self, Bool.false_eq_true, if_false]

theorem State.evcSnapshot_ok (hreq : reqOk b 0x0103 [(8, 10)] = true) (halign : fieldAt b 8 8 % 64 = 0) :
    v.evcSnapshot d b = (v.setSnap d ⟨fieldAt b 8 8, fieldAt b 16 2, (v.snap d).seq, v.now, false⟩, ksOk, []) := by
  simp only [State.evcSnapshot, hreq, halign, bne_self_eq_false, Bool.not_true, Bool.or_self, Bool.false_eq_true, if_false]

theorem State.evcRead_ok (i : Nat) (hreq : reqOk b 0x0102 [(2, 1), (8, 32)] = true) (hsome : fieldAt b 2 1 ≠ 0) (hmost : fieldAt b 2 1 ≤ 16)
    (hnames : ∀ k ∈ evcNames b, k < evcCount) (hown : ∀ k ∈ evcNames b, v.ownsEvc d k = true) :
    v.evcRead i d b = (if (v.snap d).stopped then v.setSnap d { v.snap d with stopped := false } else v).keyAnswer i (some d) ksOk
      (b2n (v.snap d).stopped) (v.evcValues (evcNames b)) := by
  have hbeyond : (evcNames b).any (fun k => decide (evcCount ≤ k)) = false := List.any_eq_false.mpr fun k hk => by
    rw [decide_eq_true_eq]
    exact Nat.not_le.mpr (hnames k hk)
  simp only [State.evcRead, hreq, beq_eq_false_iff_ne.mpr hsome, decide_eq_false (Nat.not_lt.mpr hmost), hbeyond, List.all_eq_true.mpr hown,
    Bool.not_true, Bool.or_self, Bool.false_eq_true, if_false]
  rfl

end Requests

theorem exec_evcRead {s u v : State} {i d : Nat} {x : Session} (hserve : s.ServesOn u) (hx : Tab.get? u.sessions i = some x)
    (hopen : x.open_ = true) (hdom : x.dom = some d) (hv : v = u.setSession i { x with lastAt := u.now }) (b : List Byte) :
    exec (.evcRead i true b) s = .next (v.evcRead i d b) := by
  change Host.Outcome.next (s.secured i true fun s x => match x.dom with
    | none => s.keyAnswer i none ksNotBound 0 []
    | some d => s.evcRead i d b) = _
  rw [State.secured_open _ hserve hx hopen, ← hv]
  simp only [hdom]

/-! ### Snapshots (R527) -/

theorem exec_snapshotRecord {s u t : State} {d : Nat} {x : Snap} {b : List Byte} (hd : d < 128) (hx : x = s.snap d) (hperiod : x.period ≠ 0)
    (hu : u = s.advanceTo (x.lastAt + x.period * msec)) (hawake : u.awake = true) (hcore : u.fld F.SXT_STATUS_CORE_STATE < 2)
    (ht : t = u.wakeCores) (hb : b = t.snapRecord d x.seq) (hfault : t.hbmFault d x.off b.length false = none) :
    exec (.snapshotRecord d) s = .next (((t.storeData d x.off b).setSnap d { x with
      seq := (x.seq + 1) % 2 ^ 64, lastAt := t.now }).count 0xF9F none 1) := by
  change Host.Outcome.next (s.snapshot (d % 128)) = _
  rw [Nat.mod_eq_of_lt hd]
  simp only [State.snapshot, ← hx, if_neg hperiod, ← hu]
  rw [State.coresServe_of_serving (bne_iff_ne.mp hawake) _ hcore, ← ht]
  simp only [← hb, hfault]

/-- Settles O31: each request for a counter passes its checks, and a snapshot's record those of HBM. -/
theorem counterCommandsComplete : Obligations.CounterCommandsComplete := by
  refine ⟨fun s u t v k w hk hw hu ht => ⟨exec_evcProgram_store hk hw hu, fun hgo hawake hcore => exec_evcProgram_go hk hw hu hgo hawake hcore ht⟩,
    fun s v => rfl, fun s u v i d x b hboot hcore hu hx hopen hdom hv => ?_,
    fun s u t d x b hd hx hperiod hu hawake hcore ht hb => exec_snapshotRecord hd hx hperiod hu hawake hcore ht hb⟩
  have hserve : s.ServesOn u := State.servesOn_coresServing hboot hcore hu
  have hbound := fun f {w st rest} (hf : f v d = (w, st, rest)) =>
    congrArg (Host.Outcome.next (φ := Fault) (ρ := Refusal)) (State.keyOp_bound hserve hx hopen hv f hdom hf)
  refine ⟨fun k hreq hclass hfree hlimit => hbound _ (State.evcAlloc_ok k hreq hclass hfree hlimit),
    fun hreq hk hown => hbound _ (State.evcFree_ok hreq hk hown), fun hreq hsome hmost hnames hown hrun => ?_,
    fun hreq halign => hbound _ (State.evcSnapshot_ok hreq halign)⟩
  rw [exec_evcRead hserve hx hopen hdom hv, State.evcRead_ok i hreq hsome hmost hnames hown, hrun, if_neg Bool.false_ne_true]
  rfl

end Sys2Proof.Machine
end

/-! ## PROOFS of the family of completions: requests for event counters (R525 to R527). -/

section
namespace Sys2Proof.Machine

/-! ### Counters programmed and freed (R523, R525) -/

theorem Tab.get?_mapSnd {α : Type} (t : Tab α) (f : α → α) (k : Nat) :
    Tab.get? (t.map fun p => (p.1, f p.2)) k = (Tab.get? t k).map f := by
  induction t with
  | nil => rfl
  | cons e t ih =>
    simp only [List.map_cons, Tab.get?]
    split
    · rfl
    · exact ih

/-- A counter takes no event in the cycle in which it was programmed. -/
theorem Evc.take_start (src now : Nat) (dom tag : Option Nat) (frozen : Bool) (ev n : Nat) :
    (Evc.start src dom now).take now frozen ev tag n = Evc.start src dom now :=
  if_neg fun h => Nat.lt_irrefl _ h.2.2.2

theorem State.setEvc_start_self (s : State) (k src : Nat) (dom : Option Nat) :
    Tab.get? (s.setEvc k (Evc.start src dom s.now)).evcs k = some (Evc.start src dom s.now) := by
  have hcounted : (s.setEvc k (Evc.start src dom s.now)).evcs = (Tab.set s.evcs k (Evc.start src dom s.now)).map fun p : Nat × Evc =>
    (p.1, p.2.take s.now (s.flag F.EVC_CTRL_FREEZE) 0xF9E none 1) := rfl
  rw [hcounted, Tab.get?_mapSnd _ fun e : Evc => e.take s.now (s.flag F.EVC_CTRL_FREEZE) 0xF9E none 1, Tab.get?_set_self, Option.map_some, Evc.take_start]

section Apply
variable {s : State} {k : Nat} (hfree : ∀ e, Tab.get? s.evcs k = some e → e.dom = none)
include hfree

/-- A counter that no domain owns takes every request of the operator but one for a source that is not the operator's. -/
theorem State.evcApply_unowned (src : Nat) (on : Bool) : s.evcApply k src on =
    if on && (classD src || decide (srcEnd ≤ src)) then (s, evcSourceClass)
    else if on then (s.setEvc k (Evc.start src none s.now), 0) else ({ s with evcs := Tab.del s.evcs k }, 0) := by
  unfold State.evcApply
  cases he : Tab.get? s.evcs k with
  | none => simp only [Bool.false_eq_true, if_false]
  | some e => simp only [hfree e he, Option.isSome_none, Bool.false_eq_true, if_false]

theorem State.evcApply_start {src : Nat} (hclass : classD src = false) (hsrc : src < srcEnd) :
    s.evcApply k src true = (s.setEvc k (Evc.start src none s.now), 0) := by
  rw [State.evcApply_unowned hfree, hclass, decide_eq_false (Nat.not_le.mpr hsrc)]
  rfl

theorem State.evcApply_free (src : Nat) : s.evcApply k src false = ({ s with evcs := Tab.del s.evcs k }, 0) := by
  rw [State.evcApply_unowned hfree]
  rfl

end Apply

/-! ### EVC_PROGRAM with GO (R525) -/

/-- The device that serves EVC_PROGRAM, with the request in EVC_CFG. -/
def State.evcServing (s : State) (k : Nat) (w : Word) : State :=
  (((s.setFld F.EVC_CFG_SOURCE (F.EVC_CFG_SOURCE.get w) k).setFld F.EVC_CFG_ENABLE (F.EVC_CFG_ENABLE.get w) k).setFld F.EVC_CFG_BUSY 1
    k).wakeCores

theorem State.wakeCores_evcs (s : State) : s.wakeCores.evcs = s.evcs := by
  simp only [State.wakeCores, apply_ite State.evcs, State.setFld_evcs, ite_self]

theorem State.wakeCores_now (s : State) : s.wakeCores.now = s.now := by
  simp only [State.wakeCores, apply_ite State.now, State.setFld_now, ite_self]

theorem State.evcServing_evcs (s : State) (k : Nat) (w : Word) : (s.evcServing k w).evcs = s.evcs := State.wakeCores_evcs _

theorem State.evcServing_now (s : State) (k : Nat) (w : Word) : (s.evcServing k w).now = s.now := State.wakeCores_now _

/-- A write of EVC_CFG leaves the state of the Sextant's cores. -/
theorem State.coreState_setEvcCfg (s : State) (f : Fld) (n k : Nat) (hf : f.reg = F.EVC_CFG_SOURCE.reg) :
    (s.setFld f n k).fld F.SXT_STATUS_CORE_STATE = s.fld F.SXT_STATUS_CORE_STATE :=
  State.fld_setFld_ne s f F.SXT_STATUS_CORE_STATE n k 0 (by
    rw [hf]
    change 2 ^ 40 * 0 + 0x100008 ≠ 2 ^ 40 * k + 0x9000020
    omega)

theorem exec_evcProgram_serving {s : State} {v k : Nat} {w : Word} (hk : k = s.fld F.EVC_SEL_COUNTER) (hw : w = BitVec.ofNat 64 v)
    (hgo : F.EVC_CFG_GO.get w = 1) (hawake : s.awake = true) (hcore : s.fld F.SXT_STATUS_CORE_STATE < 2) {z : State} {st : Nat}
    (hz : (s.evcServing k w).evcApply k (F.EVC_CFG_SOURCE.get w) (F.EVC_CFG_ENABLE.get w == 1) = (z, st)) :
    exec (.evcProgram v) s = .next ((z.setFld F.EVC_CFG_BUSY 0 k).setFld F.EVC_CFG_STATUS st k) := by
  have hcore' : (((s.setFld F.EVC_CFG_SOURCE (F.EVC_CFG_SOURCE.get w) k).setFld F.EVC_CFG_ENABLE (F.EVC_CFG_ENABLE.get w) k).setFld
      F.EVC_CFG_BUSY 1 k).fld F.SXT_STATUS_CORE_STATE < 2 := by
    rw [State.coreState_setEvcCfg _ F.EVC_CFG_BUSY _ _ rfl, State.coreState_setEvcCfg _ F.EVC_CFG_ENABLE _ _ rfl,
      State.coreState_setEvcCfg _ F.EVC_CFG_SOURCE _ _ rfl]
    exact hcore
  rw [exec_evcProgram_go hk hw rfl hgo hawake hcore' rfl, ← State.evcServing, hz]

/-- EVC_CFG after a request that was carried out: STATUS 0, and BUSY cleared. -/
theorem State.evcCfg_done (z : State) (k : Nat) :
    ((z.setFld F.EVC_CFG_BUSY 0 k).setFld F.EVC_CFG_STATUS 0 k).fld F.EVC_CFG_STATUS k = 0 ∧
      ((z.setFld F.EVC_CFG_BUSY 0 k).setFld F.EVC_CFG_STATUS 0 k).fld F.EVC_CFG_BUSY k = 0 := by
  refine ⟨State.fld_setFld_self _ _ _ _ (by decide) (by decide), ?_⟩
  rw [State.fld_setFld_beside _ F.EVC_CFG_STATUS F.EVC_CFG_BUSY 0 k rfl (by decide) (by decide) (by decide) (by decide)]
  exact State.fld_setFld_self _ _ _ _ (by decide) (by decide)

section Program
variable {s : State} {v k : Nat} (hk : k = s.fld F.EVC_SEL_COUNTER) (hgo : F.EVC_CFG_GO.get (BitVec.ofNat 64 v) = 1)
  (hfree : ∀ e, Tab.get? s.evcs k = some e → e.dom = none) (hawake : s.awake = true) (hcore : s.fld F.SXT_STATUS_CORE_STATE < 2)
include hk hgo hfree hawake hcore

theorem evcProgram_starts (henable : F.EVC_CFG_ENABLE.get (BitVec.ofNat 64 v) = 1)
    (hclass : classD (F.EVC_CFG_SOURCE.get (BitVec.ofNat 64 v)) = false) (hsrc : F.EVC_CFG_SOURCE.get (BitVec.ofNat 64 v) < srcEnd) :
    ∃ t, exec (.evcProgram v) s = .next t ∧ t.fld F.EVC_CFG_STATUS k = 0 ∧ t.fld F.EVC_CFG_BUSY k = 0 ∧
      Tab.get? t.evcs k = some (Evc.start (F.EVC_CFG_SOURCE.get (BitVec.ofNat 64 v)) none s.now) := by
  have hfree' : ∀ e, Tab.get? (s.evcServing k (BitVec.ofNat 64 v)).evcs k = some e → e.dom = none := by
    rw [State.evcServing_evcs]
    exact hfree
  have hz := State.evcApply_start hfree' hclass hsrc
  rw [← beq_iff_eq.mpr henable] at hz
  obtain ⟨hstatus, hbusy⟩ := State.evcCfg_done ((s.evcServing k (BitVec.ofNat 64 v)).setEvc k (Evc.start _ none _)) k
  refine ⟨_, exec_evcProgram_serving hk rfl hgo hawake hcore hz, hstatus, hbusy, ?_⟩
  rw [State.setFld_evcs, State.setFld_evcs, State.setEvc_start_self, State.evcServing_now]

theorem evcProgram_frees (henable : F.EVC_CFG_ENABLE.get (BitVec.ofNat 64 v) = 0) :
    ∃ t, exec (.evcProgram v) s = .next t ∧ t.fld F.EVC_CFG_STATUS k = 0 ∧ t.fld F.EVC_CFG_BUSY k = 0 ∧ t.evcs = Tab.del s.evcs k := by
  have hfree' : ∀ e, Tab.get? (s.evcServing k (BitVec.ofNat 64 v)).evcs k = some e → e.dom = none := by
    rw [State.evcServing_evcs]
    exact hfree
  have hoff : (F.EVC_CFG_ENABLE.get (BitVec.ofNat 64 v) == 1) = false := by rw [henable]; rfl
  have hz := State.evcApply_free hfree' (F.EVC_CFG_SOURCE.get (BitVec.ofNat 64 v))
  rw [← hoff] at hz
  obtain ⟨hstatus, hbusy⟩ := State.evcCfg_done { s.evcServing k (BitVec.ofNat 64 v) with
    evcs := Tab.del (s.evcServing k (BitVec.ofNat 64 v)).evcs k } k
  refine ⟨_, exec_evcProgram_serving hk rfl hgo hawake hcore hz, hstatus, hbusy, ?_⟩
  rw [State.setFld_evcs, State.setFld_evcs, State.evcServing_evcs]

end Program

theorem freeze_sets (s : State) (v : Nat) : ∃ t, exec (.freeze v) s = .next t ∧
    t.fld F.EVC_CTRL_FREEZE = F.EVC_CTRL_FREEZE.get (BitVec.ofNat 64 v) ∧
    t.fld F.EVC_CTRL_DOMAIN_LIMIT = min evcCount (F.EVC_CTRL_DOMAIN_LIMIT.get (BitVec.ofNat 64 v)) ∧ t.evcs = s.evcs := by
  have hfreeze : F.EVC_CTRL_FREEZE.get (BitVec.ofNat 64 v) < 2 ^ F.EVC_CTRL_FREEZE.w := Fld.get_lt _ _ (by decide)
  have hlimit : min evcCount (F.EVC_CTRL_DOMAIN_LIMIT.get (BitVec.ofNat 64 v)) < 2 ^ F.EVC_CTRL_DOMAIN_LIMIT.w :=
    Nat.lt_of_le_of_lt (Nat.min_le_left _ _) (by decide)
  refine ⟨_, rfl, ?_, ?_, rfl⟩
  · rw [State.evcCtrlWrite, State.fld_setFld_self _ F.EVC_CTRL_FREEZE _ _ (by decide) (by decide), Nat.mod_eq_of_lt hfreeze]
  · rw [State.evcCtrlWrite, State.fld_setFld_beside _ F.EVC_CTRL_FREEZE F.EVC_CTRL_DOMAIN_LIMIT _ 0 rfl (by decide) (by decide) (by decide) (by decide),
      State.fld_setFld_self _ F.EVC_CTRL_DOMAIN_LIMIT _ _ (by decide) (by decide), Nat.mod_eq_of_lt hlimit]

/-! ### Requests of a session (R526) -/

/-- The device at a message of session i: its cores serve, and the message is the session's last. -/
def State.messaged (s : State) (i : Nat) (x : Session) : State := s.coresServing.setSession i { x with lastAt := s.now }

theorem State.fld_messaged (s : State) (i : Nat) (x : Session) (f : Fld) (j : Nat) (hf : regKey f.reg j ≠ regKey F.SXT_STATUS_CORE_STATE.reg 0) :
    (s.messaged i x).fld f j = s.fld f j :=
  State.fld_setFld_ne ({ s with sxt := { s.sxt with workAt := s.now } } : State) F.SXT_STATUS_CORE_STATE f 1 0 j hf

theorem State.answer_mem_outs (v : State) (i d st b2 : Nat) (rest : List Byte) :
    Out.spdm i spdmVendorRsp (toLe 1 st ++ toLe 1 0 ++ toLe 2 b2 ++ toLe 4 (v.fld F.ISO_DOM_GEN_KEY_GEN d) ++ rest) ∈
      (v.keyAnswer i (some d) st b2 rest).outs := List.mem_cons_self

section Requests
variable {s : State} {i d : Nat} {x : Session} {b : List Byte} (hserve : s.ServesOn s.coresServing) (hx : Tab.get? s.sessions i = some x)
  (hopen : x.open_ = true) (hdom : x.dom = some d)
include hserve hx hopen hdom

theorem exec_messaged (f : State → Nat → State × Nat × List Byte) {w : State} {st : Nat} {rest : List Byte} (hf : f (s.messaged i x) d = (w, st, rest)) :
    Host.Outcome.next (φ := Fault) (ρ := Refusal) (s.keyOp i true f) = .next (w.keyAnswer i (some d) st 0 rest) :=
  congrArg Host.Outcome.next (State.keyOp_bound hserve hx hopen rfl f hdom hf)

theorem evcAlloc_starts (k : Nat) (hreq : reqOk b 0x0100 [(2, 2)] = true) (hclass : classD (fieldAt b 2 2) = true)
    (hfree : Tab.lowestFree s.evcs 0 evcCount = some k) (hlimit : (s.domEvcs d).length < s.fld F.EVC_CTRL_DOMAIN_LIMIT) :
    ∃ t, exec (.evcAlloc i true b) s = .next t ∧ Tab.get? t.evcs k = some (Evc.start (fieldAt b 2 2) (some d) s.now) := by
  have hlimit' : ((s.messaged i x).domEvcs d).length < (s.messaged i x).fld F.EVC_CTRL_DOMAIN_LIMIT := by
    rw [s.fld_messaged i x F.EVC_CTRL_DOMAIN_LIMIT 0 (by decide)]
    exact hlimit
  exact ⟨_, exec_messaged hserve hx hopen hdom _ (State.evcAlloc_ok k hreq hclass hfree hlimit'), (s.messaged i x).setEvc_start_self k _ _⟩

theorem evcFree_frees (hreq : reqOk b 0x0101 [(2, 2)] = true) (hk : fieldAt b 2 2 < evcCount) (hown : s.ownsEvc d (fieldAt b 2 2) = true) :
    ∃ t, exec (.evcFree i true b) s = .next t ∧ t.evcs = Tab.del s.evcs (fieldAt b 2 2) ∧
      ∀ k, k ≠ fieldAt b 2 2 → Tab.get? t.evcs k = Tab.get? s.evcs k :=
  ⟨_, exec_messaged hserve hx hopen hdom _ (State.evcFree_ok (v := s.messaged i x) hreq hk hown), rfl, fun _ hne => Tab.get?_del_ne _ _ _ hne⟩

theorem evcSnapshot_begins (hreq : reqOk b 0x0103 [(8, 10)] = true) (halign : fieldAt b 8 8 % 64 = 0) :
    ∃ t, exec (.evcSnapshot i true b) s = .next t ∧ t.snap d = ⟨fieldAt b 8 8, fieldAt b 16 2, (s.snap d).seq, s.now, false⟩ :=
  ⟨_, exec_messaged hserve hx hopen hdom _ (State.evcSnapshot_ok hreq halign), Tab.getD_set_self _ _ _ _⟩

theorem evcRead_answers (hreq : reqOk b 0x0102 [(2, 1), (8, 32)] = true) (hsome : fieldAt b 2 1 ≠ 0) (hmost : fieldAt b 2 1 ≤ 16)
    (hnames : ∀ k ∈ evcNames b, k < evcCount) (hown : ∀ k ∈ evcNames b, s.ownsEvc d k = true) :
    ∃ t, exec (.evcRead i true b) s = .next t ∧ t.evcs = s.evcs ∧
      Out.spdm i spdmVendorRsp (toLe 1 ksOk ++ toLe 1 0 ++ toLe 2 (b2n (s.snap d).stopped) ++ toLe 4 (s.fld F.ISO_DOM_GEN_KEY_GEN d) ++
        s.evcValues (evcNames b)) ∈ t.outs := by
  have hgen : (s.messaged i x).fld F.ISO_DOM_GEN_KEY_GEN d = s.fld F.ISO_DOM_GEN_KEY_GEN d := s.fld_messaged i x _ _ (by
    change 2 ^ 40 * d + 0x7000018 ≠ 2 ^ 40 * 0 + 0x100008
    omega)
  have hread := (exec_evcRead hserve hx hopen hdom rfl b).trans
    (congrArg Host.Outcome.next (State.evcRead_ok (v := s.messaged i x) i hreq hsome hmost hnames hown))
  refine ⟨_, hread, ?_, ?_⟩
  · split <;> rfl
  · rw [← hgen]
    split <;> exact State.answer_mem_outs _ i d ksOk _ _

end Requests

/-- Settles O60: a request that is served acts on the counter that it names alone. -/
theorem counterRequestsAreCarriedOut : Obligations.CounterRequestsAreCarriedOut := by
  refine ⟨fun s v k hk hgo hfree hawake hcore => ⟨evcProgram_starts hk hgo hfree hawake hcore, evcProgram_frees hk hgo hfree hawake hcore⟩,
    freeze_sets, fun s i d x b hboot hcore hx hopen hdom => ?_, fun s u t d x hd hx hperiod hu hawake hcore ht hfault => ?_⟩
  · have hserve : s.ServesOn s.coresServing := State.servesOn_coresServing hboot hcore rfl
    exact ⟨evcAlloc_starts hserve hx hopen hdom, evcFree_frees hserve hx hopen hdom, evcRead_answers hserve hx hopen hdom,
      evcSnapshot_begins hserve hx hopen hdom⟩
  · exact ⟨_, exec_snapshotRecord hd hx hperiod hu hawake hcore ht rfl hfault, Tab.getD_set_self _ _ _ _⟩

end Sys2Proof.Machine
end

/-! ## PROOFS of the family of completions: PLLs, the power budget, sleep and wake (R531 to R542). -/

section
namespace Sys2Proof.Machine

/-! ### PLL losses (R531) -/

section Pll
variable {s : State} {p : Nat} (hp : p < 6) (hawake : s.awake = true) (hruns : s.pllRuns p = true)
include hp hawake hruns

theorem exec_pllLockLoss_relocks :
    exec (.pllLockLoss p true) s = .next ((s.raise F.PMC_ERR_STATUS_PLL_RELOCK).logOpen (toLe 1 p)) := by
  change Host.Outcome.next (s.pllLoss (p % 6) true) = _
  rw [Nat.mod_eq_of_lt hp]
  simp only [State.pllLoss, hawake, hruns, Bool.not_true, Bool.or_self, Bool.false_eq_true, if_false, if_true]

theorem exec_pllLockLoss_fails (u : State)
    (hu : u = ((s.raise F.PMC_ERR_STATUS_PLL_FAIL).setPll p false).faultRecord
      { FaultRec.of 0x0503 (if (p == pllNoc || p == pllIod) || p == pllArr then 7 else 3) with ucls := ucPll, uidx := p }) :
    exec (.pllLockLoss p false) s = .next (if (p == pllNoc || p == pllIod) = true then u.endService true else u.pllGone p) := by
  change Host.Outcome.next (s.pllLoss (p % 6) false) = _
  rw [Nat.mod_eq_of_lt hp]
  simp only [State.pllLoss, hawake, hruns, Bool.not_true, Bool.or_self, Bool.false_eq_true, if_false, ← hu]

end Pll

/-! ### Budget enforcement (R534 to R538) -/

section Sample
variable {s u v w z : State} {mw : Nat} (hrun : s.running = true) (hu : u = s.advanceTo (s.pow.sampleAt + 250 * usec))
  (hv : v = (u.setFld F.PMC_STATUS_PKG_W (min 2047 (mw / 1000))).setFld F.PMC_STATUS_PEAK_W (max (min 2047 (mw / 1000))
      ((u.setFld F.PMC_STATUS_PKG_W (min 2047 (mw / 1000))).fld F.PMC_STATUS_PEAK_W)))
  (hw : w = v.setDuty (v.nextDuty mw)) (hz : z = ({ w with pow := { w.pow with sampleAt := w.now, limitWas := none } } : State).holdSince)
include hrun hu hv hw hz

theorem exec_powerSample_calm (hcalm : w.flag F.PMC_STATUS_CRIT_ACTIVE = false ∨ w.holdEnds = none) :
    exec (.powerSample mw) s = .next z := by
  change Host.Outcome.next (s.powerSample mw) = _
  simp only [State.powerSample, hrun, Bool.not_true, Bool.false_eq_true, if_false, ← hu, ← hv, ← hw, ← hz]
  rcases hcalm with hcrit | hhold
  · simp only [hcrit, Bool.and_false, Bool.false_eq_true, if_false]
  · simp only [hhold, Bool.false_and, Bool.false_eq_true, if_false]

theorem exec_powerSample_crit (t : Nat) (hcrit : w.flag F.PMC_STATUS_CRIT_ACTIVE = true) (hhold : w.holdEnds = some t) :
    exec (.powerSample mw) s = .next (if t < w.now then z.shrinkShares else z) := by
  change Host.Outcome.next (s.powerSample mw) = _
  simp only [State.powerSample, hrun, Bool.not_true, Bool.false_eq_true, if_false, ← hu, ← hv, ← hw, ← hz, hcrit, hhold, Bool.and_true,
    decide_eq_true_eq]

end Sample

theorem exec_critHoldExpire (s : State) (t : Nat) (hhold : s.holdEnds = some t) (hrun : s.running = true) (hnow : s.now ≤ t) :
    exec .critHoldExpire s = .next ((s.advanceTo t).shrinkShares) := by
  change Host.Outcome.next s.critHold = _
  simp only [State.critHold, hhold, hrun, decide_eq_true hnow, Bool.and_self, if_true]

theorem exec_allowanceRefill (s u v w : State) (add : Int) (hrun : s.running = true) (hu : u = s.untilTai ((s.tai16 / ms16 + 1) * ms16))
    (hadd : add = ((u.duty * 1500000 / 256 : Nat) : Int)) (hv : v = u.setFld F.PMC_ALLOW_ARRAY_ALLOW (wrapInt (min u.allowA 0 + add) 32))
    (hw : w = v.setFld F.PMC_ALLOW_VECTOR_ALLOW (wrapInt (min v.allowV 0 + add) 32)) :
    exec .allowanceRefill s = .next { w with pow := { w.pow with refillAt := w.now } } := by
  change Host.Outcome.next s.refill = _
  simp only [State.refill, hrun, Bool.not_true, Bool.false_eq_true, if_false, ← hu, ← hadd, ← hv, ← hw]

theorem exec_pkgLimitWrite (s u : State) (v : Nat) (w : Word) (hw : w = BitVec.ofNat 64 v)
    (hu : u = ((({ s with pow := { s.pow with limitWas := some s.limitSeen } } : State).setFld F.PMC_LIMIT_PKG_LIMIT_W (max 630 (min 1100
      (F.PMC_LIMIT_PKG_LIMIT_W.get w)))).setFld F.PMC_LIMIT_GUARD_W
      (max 5 (min 100 (F.PMC_LIMIT_GUARD_W.get w)))).setFld F.PMC_LIMIT_CRIT_HOLD_MS (max 1 (F.PMC_LIMIT_CRIT_HOLD_MS.get w))) :
    exec (.pkgLimitWrite v) s = .next (u.setShares fun d => min (u.fld F.PMC_STRICT_SHARE_EFF_W d) (u.shareAt d)) := by
  change Host.Outcome.next (s.limitWrite v) = _
  simp only [State.limitWrite, ← hw, ← hu]

/-! ### A unit that sleeps and wakes (R539 to R542) -/

/-- A wake that has to bring a kind's PLL up finds it up. -/
def State.kindPllUp (u : State) (k : Nat) : State :=
  match kindPll k with
  | some p => u.setPll p true
  | none => u

section Sleep
variable {s : State} {k i : Nat} (hk : k < 4) (hi : i < 64)
include hk hi

theorem exec_idleExpire (u : State) (hon : (s.sleepOf k i).st = slOn) (hmay : s.maySleep k i = true) (hkeep : s.keepAwake k i = false)
    (hidle : k = 0 → s.arrayBusy = false ∧ s.idleTime 0 ≠ 0) (hu : u = s.advanceTo (s.idleEnds k i)) :
    exec (.idleExpire k i) s = .next (u.setSleep k i ⟨slPrepare, u.now, false⟩) := by
  have hmoves : ¬((s.sleepOf k i).st ≠ slOn ∨ s.maySleep k i = false ∨ s.keepAwake k i = true ∨
      (k = 0 ∧ (s.arrayBusy = true ∨ s.idleTime 0 = 0))) := by
    rintro (h | h | h | ⟨hzero, h | h⟩)
    · exact h hon
    · exact Bool.false_ne_true (h.symm.trans hmay)
    · exact Bool.false_ne_true (hkeep.symm.trans h)
    · exact Bool.false_ne_true ((hidle hzero).1.symm.trans h)
    · exact (hidle hzero).2 h
  change Host.Outcome.next (s.idleExpire (k % 4) (i % 64)) = _
  rw [Nat.mod_eq_of_lt hk, Nat.mod_eq_of_lt hi]
  simp only [State.idleExpire, if_neg hmoves, ← hu]

theorem exec_prepareElapsed (u : State) (hst : (s.sleepOf k i).st = slPrepare)
    (hu : u = s.advanceTo ((s.sleepOf k i).since + prepareTime k)) : exec (.prepareElapsed k i) s =
      .next (if k = 0 then (u.setSleep k i ⟨slCommit, u.now, false⟩).showGroups false else u.setSleep k i ⟨slCommit, u.now, false⟩) := by
  change Host.Outcome.next (s.prepareElapsed (k % 4) (i % 64)) = _
  rw [Nat.mod_eq_of_lt hk, Nat.mod_eq_of_lt hi]
  simp only [State.prepareElapsed, hst, ne_eq, not_true_eq_false, if_false, ← hu]

section Dwell
variable {u : State} (hst : (s.sleepOf k i).st = slCommit) (hu : u = s.advanceTo ((s.sleepOf k i).since + dwellTime k))
include hst hu

theorem exec_dwellElapsed_latched (hwake : (s.sleepOf k i).latched = true) :
    exec (.dwellElapsed k i) s = .next (u.setSleep k i ⟨slWaking, u.now, false⟩) := by
  change Host.Outcome.next (s.dwellElapsed (k % 4) (i % 64)) = _
  rw [Nat.mod_eq_of_lt hk, Nat.mod_eq_of_lt hi]
  simp only [State.dwellElapsed, hst, hwake, ne_eq, not_true_eq_false, if_false, if_true, ← hu]

theorem exec_dwellElapsed_off (hwake : (s.sleepOf k i).latched = false) : exec (.dwellElapsed k i) s =
    .next (if k = 1 then (u.setSleep k i ⟨slOff, u.now, false⟩).radStop else u.setSleep k i ⟨slOff, u.now, false⟩) := by
  change Host.Outcome.next (s.dwellElapsed (k % 4) (i % 64)) = _
  rw [Nat.mod_eq_of_lt hk, Nat.mod_eq_of_lt hi]
  simp only [State.dwellElapsed, hst, hwake, ne_eq, not_true_eq_false, Bool.false_eq_true, if_false, ← hu]

end Dwell

section Wake
variable {v : State} {y : SleepUnit} (hmay : s.maySleep k i = true) (hv : v = s.beforeWake k i) (hy : y = v.sleepOf k i)
include hmay hv hy

theorem exec_wakeRequest_on (hst : y.st = slOn) : exec (.wakeRequest k i) s = .next (v.wakeOn k i) := by
  change Host.Outcome.next (s.wakeRequest (k % 4) (i % 64)) = _
  rw [Nat.mod_eq_of_lt hk, Nat.mod_eq_of_lt hi]
  simp only [State.wakeRequest, hmay, Bool.true_eq_false, if_false, ← hv, ← hy, hst, if_true]

theorem exec_wakeRequest_prepare (hst : y.st = slPrepare) : exec (.wakeRequest k i) s = .next (if y.since = v.now
    then v.setSleep k i ⟨slOn, v.now, false⟩ else (v.setSleep k i ⟨slOn, v.now, false⟩).satFld F.PMC_COUNT_SLEEP_ABORTS 1) := by
  have hon : slPrepare ≠ slOn := by decide
  change Host.Outcome.next (s.wakeRequest (k % 4) (i % 64)) = _
  rw [Nat.mod_eq_of_lt hk, Nat.mod_eq_of_lt hi]
  simp only [State.wakeRequest, hmay, Bool.true_eq_false, if_false, ← hv, ← hy, hst, if_neg hon, if_true]

theorem exec_wakeRequest_commit (hst : y.st = slCommit) (hwake : y.latched = false) : exec (.wakeRequest k i) s =
    .next ((v.setSleep k i { y with latched := true }).satFld F.PMC_COUNT_LATCHED_WAKES 1) := by
  have hon : slCommit ≠ slOn := by decide
  have hprepare : slCommit ≠ slPrepare := by decide
  change Host.Outcome.next (s.wakeRequest (k % 4) (i % 64)) = _
  rw [Nat.mod_eq_of_lt hk, Nat.mod_eq_of_lt hi]
  simp only [State.wakeRequest, hmay, Bool.true_eq_false, if_false, ← hv, ← hy, hst, hwake, if_neg hon, if_neg hprepare, Bool.false_eq_true,
    if_true]

theorem exec_wakeRequest_off (hst : y.st = slOff) : exec (.wakeRequest k i) s = .next (v.wakeOff k i y.since) := by
  have hon : slOff ≠ slOn := by decide
  have hprepare : slOff ≠ slPrepare := by decide
  have hcommit : slOff ≠ slCommit := by decide
  change Host.Outcome.next (s.wakeRequest (k % 4) (i % 64)) = _
  rw [Nat.mod_eq_of_lt hk, Nat.mod_eq_of_lt hi]
  simp only [State.wakeRequest, hmay, Bool.true_eq_false, if_false, ← hv, ← hy, hst, if_neg hon, if_neg hprepare, if_neg hcommit, if_true]

end Wake

theorem exec_wakeReady (u v : State) (hst : (s.sleepOf k i).st = slWaking) (hu : u = s.advanceTo ((s.sleepOf k i).since + s.wakeWait k))
    (hv : v = u.kindPllUp k) : exec (.wakeReady k i) s =
      .next (if k = 0 then (v.setSleep k i ⟨slOn, v.now, false⟩).showGroups true else v.setSleep k i ⟨slOn, v.now, false⟩) := by
  change Host.Outcome.next (s.wakeReady (k % 4) (i % 64)) = _
  rw [Nat.mod_eq_of_lt hk, Nat.mod_eq_of_lt hi, State.wakeReady, if_neg (not_not.mpr hst), ← hu, hv]
  rfl

theorem exec_wakeTimeout (d : DevUnit) (hst : (s.sleepOf k i).st = slWaking) (hd : sleepDev k i = some d) :
    exec (.wakeTimeout k i) s = .next (((s.advanceTo ((s.sleepOf k i).since + 10 * wakeTime k)).raise
      F.PMC_ERR_STATUS_WAKE_TIMEOUT).faultRecord { FaultRec.of 0x0504 0 with ucls := d.cls, uidx := d.idx }) := by
  change Host.Outcome.next (s.wakeTimeout (k % 4) (i % 64)) = _
  rw [Nat.mod_eq_of_lt hk, Nat.mod_eq_of_lt hi]
  simp only [State.wakeTimeout, hst, hd, ne_eq, not_true_eq_false, if_false]

end Sleep

/-! ### The array's PLL and wake groups (R542) -/

theorem exec_arrPllOff (s : State) (hrun : s.running = true) (hoff : (s.sleepOf 0 0).st = slOff)
    (htime : s.fld F.PMC_SLEEP_CTRL_ARR_PLL_OFF_US ≠ 0) (hpll : s.pllRuns pllArr = true) : exec .arrPllOff s =
      .next ((s.advanceTo ((s.sleepOf 0 0).since + s.fld F.PMC_SLEEP_CTRL_ARR_PLL_OFF_US * usec)).setPll pllArr false) := by
  change Host.Outcome.next s.arrStop = _
  simp only [State.arrStop, hrun, hoff, hpll, bne_self_eq_false, beq_eq_false_iff_ne.mpr htime, Bool.not_true, Bool.or_self,
    Bool.false_eq_true, if_false]

theorem exec_wakeLate (s : State) (g t : Nat) (hg : g < 64) (hst : (s.sleepOf 0 0).st = slWaking) (ht : Tab.get? s.groupsNow g = some t) :
    exec (.wakeLate g) s = .next (((s.advanceTo (t + 900 * nsec)).raise F.TRK_ERR_STATUS_WAKE_LATE).faultRecord
      { FaultRec.of 0x0304 0 with detail := g }) := by
  change Host.Outcome.next (s.wakeLate (g % 64)) = _
  rw [Nat.mod_eq_of_lt hg]
  simp only [State.wakeLate, ht, hst, ne_eq, not_true_eq_false, if_false]

/-- Settles O32: PLLs, the power budget, and a sleeping unit in each of its states. -/
theorem powerCommandsComplete : Obligations.PowerCommandsComplete := by
  refine ⟨fun s u p hp hawake hruns hu => ⟨exec_pllLockLoss_relocks hp hawake hruns, exec_pllLockLoss_fails hp hawake hruns u hu⟩,
    fun s u v w mw hrun hu hv hw z hz => ⟨exec_powerSample_calm hrun hu hv hw hz, exec_powerSample_crit hrun hu hv hw hz⟩,
    exec_critHoldExpire, exec_allowanceRefill, exec_pkgLimitWrite, fun s k i x hk hi hx => ?_, exec_arrPllOff, exec_wakeLate⟩
  subst hx
  refine ⟨exec_idleExpire hk hi, exec_prepareElapsed hk hi,
    fun u hst hu => ⟨exec_dwellElapsed_latched hk hi hst hu, exec_dwellElapsed_off hk hi hst hu⟩,
    fun v y hmay hv hy => ⟨exec_wakeRequest_on hk hi hmay hv hy, exec_wakeRequest_prepare hk hi hmay hv hy,
      exec_wakeRequest_commit hk hi hmay hv hy, exec_wakeRequest_off hk hi hmay hv hy⟩,
    fun u v hst hu hv => exec_wakeReady hk hi u v hst hu (hv.trans rfl), exec_wakeTimeout hk hi⟩

end Sys2Proof.Machine
end

/-! ## PROOFS of the family of completions: power, boot, losses and resets (R491 to R493, R506, R552 to R563, R580, R591, R597 to R599). -/

section
namespace Sys2Proof.Machine

/-! ### BOOT_STATE, PLL_RUN and the end of a device reset (R491, R530, R566) -/

theorem State.fld_setBoot_glb (s : State) (n : Nat) : (s.setBoot n).fld F.GLB_STATUS_BOOT_STATE = n % 8 :=
  (State.fld_setFld_ne (s.setFld F.GLB_STATUS_BOOT_STATE n) F.ALM_STATUS_BOOT_STATE F.GLB_STATUS_BOOT_STATE n 0 0 (by decide)).trans
    (State.fld_setFld_self s F.GLB_STATUS_BOOT_STATE n 0 (by decide) (by decide))

theorem State.fld_setBoot_alm (s : State) (n : Nat) : (s.setBoot n).fld F.ALM_STATUS_BOOT_STATE = n % 8 :=
  State.fld_setFld_self (s.setFld F.GLB_STATUS_BOOT_STATE n) F.ALM_STATUS_BOOT_STATE n 0 (by decide) (by decide)

theorem State.fld_setBoot_ne (s : State) (n : Nat) (f : Fld) (hglb : regKey f.reg 0 ≠ regKey F.GLB_STATUS_BOOT_STATE.reg 0)
    (halm : regKey f.reg 0 ≠ regKey F.ALM_STATUS_BOOT_STATE.reg 0) : (s.setBoot n).fld f = s.fld f :=
  (State.fld_setFld_ne (s.setFld F.GLB_STATUS_BOOT_STATE n) F.ALM_STATUS_BOOT_STATE f n 0 0 halm).trans
    (State.fld_setFld_ne s F.GLB_STATUS_BOOT_STATE f n 0 0 hglb)

/-- A bit of PLL_RUN set leaves a number of the field's width. -/
theorem putBit_true_lt {x p : Nat} (hx : x < 64) (hp : p < 6) : putBit x p true < 64 := by
  unfold putBit b2n
  interval_cases p <;> simp only [if_true] <;> omega

theorem State.fld_setPll_on (s : State) {p : Nat} (hp : p < 6) :
    (s.setPll p true).fld F.PMC_STATUS_PLL_RUN = putBit (s.fld F.PMC_STATUS_PLL_RUN) p true := by
  have hrun : s.fld F.PMC_STATUS_PLL_RUN < 64 := Fld.get_lt F.PMC_STATUS_PLL_RUN _ (by decide)
  exact (State.fld_setFld_self s F.PMC_STATUS_PLL_RUN _ 0 (by decide) (by decide)).trans (Nat.mod_eq_of_lt (putBit_true_lt hrun hp))

/-- A device reset's duration, noted at its end. -/
def State.resetTimed (s : State) : State :=
  (s.setFld F.SXT_RESET_STATUS_LAST_ACTION 2).setFld F.SXT_RESET_STATUS_LAST_MS (min 4095 ((s.now - s.pow.t0) / msec))

theorem State.resetFinish_eq (s : State) : s.resetFinish =
    if s.pow.t0 = 0 then s
    else if s.resetTimed.flag F.SXT_RESET_CTRL_BUSY then (s.resetTimed.setFld F.SXT_RESET_CTRL_BUSY 0).setFld F.SXT_RESET_CTRL_STATUS 0
    else s.resetTimed := rfl

theorem State.resetFinish_pow (s : State) : s.resetFinish.pow = s.pow := by
  rw [State.resetFinish_eq]
  split_ifs <;> rfl

theorem State.fld_resetTimed (s : State) (f : Fld) (hstatus : regKey f.reg 0 ≠ regKey F.SXT_RESET_STATUS_LAST_MS.reg 0) :
    s.resetTimed.fld f = s.fld f :=
  (State.fld_setFld_ne (s.setFld F.SXT_RESET_STATUS_LAST_ACTION 2) F.SXT_RESET_STATUS_LAST_MS f _ 0 0 hstatus).trans
    (State.fld_setFld_ne s F.SXT_RESET_STATUS_LAST_ACTION f 2 0 0 hstatus)

/-- The end of a device reset writes SXT_RESET_CTRL and SXT_RESET_STATUS alone. -/
theorem State.fld_resetFinish (s : State) (f : Fld) (hctrl : regKey f.reg 0 ≠ regKey F.SXT_RESET_CTRL_BUSY.reg 0)
    (hstatus : regKey f.reg 0 ≠ regKey F.SXT_RESET_STATUS_LAST_MS.reg 0) : s.resetFinish.fld f = s.fld f := by
  rw [State.resetFinish_eq]
  split_ifs
  · rfl
  · rw [State.fld_setFld_ne _ F.SXT_RESET_CTRL_STATUS f _ _ _ hctrl, State.fld_setFld_ne _ F.SXT_RESET_CTRL_BUSY f _ _ _ hctrl,
      s.fld_resetTimed f hstatus]
  · exact s.fld_resetTimed f hstatus

/-! ### Power-on and the boot ROM (R491 to R493, R597) -/

theorem exec_powerOn (s : State) (p : DevParts) (hoff : s.pow.life = .off) : exec (.powerOn p) s =
    .next { (if s.alm.fitted = true then s else s.fit p) with now := 0, pow := { State.reset.pow with life := .boot } } := by
  change Host.Outcome.next (s.powerOn p) = _
  rw [State.powerOn, if_neg (not_not.mpr hoff)]

section Rom
variable {s t u : State} (ht : t = (s.wakeCores.logResume.setBoot 1).showFuses)
  (hu : u = (if t.alm.flashOk && (validHdr t.alm.hdrA).isSome && (validHdr t.alm.hdrB).isSome then t
      else t.raise F.ALM_ERR_STATUS_HDR_INVALID))
include ht hu

theorem State.bootRom_noHeader (sp w : Nat) (hnone : t.alm.flashOk = false ∨ pickHdr t.alm.hdrA t.alm.hdrB = none) :
    s.bootRom sp w = u.recover sp w := by
  have hpick : (if t.alm.flashOk = true then pickHdr t.alm.hdrA t.alm.hdrB else none) = none := by
    rcases hnone with hflash | hpick
    · rw [hflash]
      rfl
    · rw [hpick, ite_self]
  simp only [State.bootRom, ← ht, ← hu, hpick]

section Header
variable {v : State} {h : BootHdr} {useB : Bool} (hflash : t.alm.flashOk = true) (hpick : pickHdr t.alm.hdrA t.alm.hdrB = some (h, useB))
  (hv : v = ({ u with alm := { u.alm with hdr := h, useB := useB } } : State).showHdr.trialStep)
include hflash hpick hv

theorem State.bootRom_noSlot (sp w : Nat) (hsel : (v.selectFrom (bootOrder v.alm.hdr)).2 = none) :
    s.bootRom sp w = (v.selectFrom (bootOrder v.alm.hdr)).1.recover sp w := by
  have hpair : v.selectFrom (bootOrder v.alm.hdr) = ((v.selectFrom (bootOrder v.alm.hdr)).1, none) := Prod.ext rfl hsel
  simp only [State.bootRom, ← ht, ← hu, if_pos hflash, hpick]
  rw [← hv, hpair]

theorem State.bootRom_slot (sp w : Nat) {k role : Nat} (hsel : (v.selectFrom (bootOrder v.alm.hdr)).2 = some (k, role)) :
    s.bootRom sp w = (v.selectFrom (bootOrder v.alm.hdr)).1.bootSlot k role := by
  have hpair : v.selectFrom (bootOrder v.alm.hdr) = ((v.selectFrom (bootOrder v.alm.hdr)).1, some (k, role)) := Prod.ext rfl hsel
  simp only [State.bootRom, ← ht, ← hu, if_pos hflash, hpick]
  rw [← hv, hpair]

end Header
end Rom

theorem exec_deviceBoot_rom (s : State) (n a b c d : Nat) (hlife : s.pow.life = .boot) : exec (.deviceBoot n a b c d) s = .next (s.bootRom a b) := by
  change Host.Outcome.next (s.deviceBoot n a b c d) = _
  rw [State.deviceBoot, hlife]

theorem exec_deviceBoot_rest (s : State) (n a b c d : Nat) (hlife : s.pow.life = .powered) :
    exec (.deviceBoot n a b c d) s = .next (s.bootRest n a b c d) := by
  change Host.Outcome.next (s.deviceBoot n a b c d) = _
  rw [State.deviceBoot, hlife]

/-- The last step of a boot. -/
def State.bootDone (x : State) : State := { x.setBoot bootRunning with pow := { x.pow with life := .running } }

theorem State.bootRest_ends (s : State) (n a b c d : Nat) : ∃ x : State, s.bootRest n a b c d = x.bootDone.resetFinish := ⟨_, rfl⟩

theorem deviceBoot_runs (s : State) (n a b c d : Nat) (hlife : s.pow.life = .powered) : ∃ t, exec (.deviceBoot n a b c d) s = .next t ∧
    t.pow.life = .running ∧ t.fld F.GLB_STATUS_BOOT_STATE = bootRunning ∧ t.fld F.ALM_STATUS_BOOT_STATE = bootRunning := by
  obtain ⟨x, hx⟩ := s.bootRest_ends n a b c d
  refine ⟨_, (exec_deviceBoot_rest s n a b c d hlife).trans (congrArg Host.Outcome.next hx), ?_, ?_, ?_⟩
  · rw [State.resetFinish_pow]
    rfl
  · rw [State.fld_resetFinish _ _ (by decide) (by decide)]
    exact x.fld_setBoot_glb bootRunning
  · rw [State.fld_resetFinish _ _ (by decide) (by decide)]
    exact x.fld_setBoot_alm bootRunning

/-! ### Rails (R597, R598) -/

/-- The sections have power. -/
def State.sectionsUp (x : State) : State := { x.setBoot 3 with pow := { x.pow with life := .powered } }

theorem State.fld_sectionsUp (x : State) (f : Fld) : x.sectionsUp.fld f = (x.setBoot 3).fld f := rfl

section Rail
variable {s u : State} {k : Nat} (hlife : s.pow.life = .rail k) (hu : u = s.advanceTo (s.pow.railAt + 10 * msec))
include hlife hu

theorem exec_railSample_fails : exec (.railSample false) s = .next (u.railFail k) := by
  change Host.Outcome.next (s.railSample false) = _
  simp only [State.railSample, hlife, ← hu, Bool.not_false, if_true]

theorem exec_railSample_next (hk : k < 2) : exec (.railSample true) s =
    .next { u with pow := { u.pow with life := .rail (k + 1), enables := u.pow.enables + 2 ^ (k + 1), railAt := u.now } } := by
  change Host.Outcome.next (s.railSample true) = _
  simp only [State.railSample, hlife, ← hu, Bool.not_true, Bool.false_eq_true, if_false, if_pos hk]

theorem exec_railSample_last (hk : 2 ≤ k) : exec (.railSample true) s =
    .next ((((u.setPll pllNoc true).setPll pllIod true).setPll pllPort true).sectionsUp) := by
  change Host.Outcome.next (s.railSample true) = _
  simp only [State.railSample, hlife, ← hu, Bool.not_true, Bool.false_eq_true, if_false, if_neg (Nat.not_lt.mpr hk)]
  rfl

theorem railSample_powers (hk : 2 ≤ k) : ∃ t, exec (.railSample true) s = .next t ∧ t.pow.life = .powered ∧
    t.fld F.GLB_STATUS_BOOT_STATE = 3 ∧
    t.fld F.PMC_STATUS_PLL_RUN = putBit (putBit (putBit (u.fld F.PMC_STATUS_PLL_RUN) pllNoc true) pllIod true) pllPort true := by
  refine ⟨_, exec_railSample_last hlife hu hk, rfl, ?_, ?_⟩
  · rw [State.fld_sectionsUp, State.fld_setBoot_glb]
  · rw [State.fld_sectionsUp, State.fld_setBoot_ne _ 3 F.PMC_STATUS_PLL_RUN (by decide) (by decide), State.fld_setPll_on _ (by decide),
      State.fld_setPll_on _ (by decide), State.fld_setPll_on _ (by decide)]

end Rail

/-! ### Losses of supplies, dies and clocks (R28, R591, R598, R599) -/

/-- What the loss of every rail leaves. -/
theorem State.powerOff_keeps (s : State) (hpower : s.pow.life ≠ .off) : s.powerOff.pow = State.reset.pow ∧ s.powerOff.mem = State.reset.mem ∧
    s.powerOff.log.mirror = s.log.mirror ∧ s.powerOff.alm.slots = s.alm.slots ∧ s.powerOff.mapFuse = s.mapFuse ∧ s.powerOff.outs = s.outs := by
  rw [State.powerOff, if_neg hpower]
  exact ⟨rfl, rfl, rfl, rfl, rfl, rfl⟩

theorem exec_clockLoss_reference (s : State) (i : Nat) (rx : List (Nat × EthFrame × Nat)) : exec (.clockLoss 0 i rx) s = .next s.powerOff := rfl

theorem exec_d2dFault (s : State) (hdies : s.pow.life = .running ∨ s.pow.life = .powered) :
    exec .d2dFault s = .next ((s.faultRecord { FaultRec.of 0x0502 7 with ucls := ucD2d }).endService true) :=
  congrArg Host.Outcome.next (if_pos hdies)

theorem exec_pwrokMainFall (s : State) (hen : s.pow.enables = 7) : exec .pwrokMainFall s = .next (s.railFail 3) :=
  congrArg Host.Outcome.next (if_pos hen)

theorem exec_clockLoss (s u : State) (k i : Nat) (rx : List (Nat × EthFrame × Nat)) (hlow : 1 ≤ k) (hk : k ≤ 4)
    (hi : i < [1, 4, 2, 2, 1].getD k 1) (hpower : s.pow.life ≠ .off) (hhas : s.clockLost k i = false)
    (hu : u = { s with pow := { s.pow with lost := (k * 16 + i) :: s.pow.lost } }) :
    exec (.clockLoss k i rx) s = .next (if k = 1 then u.ethClockLost i rx else if k = 2 then u.rhbClockLost i
      else if k = 3 then u.pcieLinkReset i 0 0 else u.ref10Lost) := by
  have hgone : ¬(s.pow.life = .off ∨ s.clockLost k i = true) := by
    rw [hhas]
    exact fun h => h.elim hpower Bool.false_ne_true
  change Host.Outcome.next (s.clockGone (min k 4) (i % [1, 4, 2, 2, 1].getD (min k 4) 1) rx) = _
  rw [Nat.min_eq_left hk, Nat.mod_eq_of_lt hi]
  simp only [State.clockGone, if_neg (Nat.one_le_iff_ne_zero.mp hlow), if_neg hgone, ← hu]
  interval_cases k <;> rfl

theorem exec_clockReturn (s u : State) (k i sp w : Nat) (hk : k ≤ 4) (hi : i < [1, 4, 2, 2, 1].getD k 1) (hlost : s.clockLost k i = true)
    (hu : u = { s with pow := { s.pow with lost := s.pow.lost.erase (k * 16 + i) } }) :
    exec (.clockReturn k i sp w) s = .next (if k = 3 then
        (if u.fld F.GLB_STATUS_BOOT_STATE ≥ 3 then u.linkState i (w != 0) sp w else u)
      else if k = 4 then ({ u with mer := { u.mer with ref10 := true } } : State).freqSelect else u) := by
  change Host.Outcome.next (s.clockBack (min k 4) (i % [1, 4, 2, 2, 1].getD (min k 4) 1) sp w) = _
  rw [Nat.min_eq_left hk, Nat.mod_eq_of_lt hi, State.clockBack, if_pos hlost, hu]

/-! ### Device resets (R506, R554) -/

theorem exec_heldResetStart (s : State) (t : Nat) (hheld : s.sxt.heldReset = true) (hbelow : s.sxt.belowAt = some t) :
    exec .heldResetStart s = .next (s.advanceTo (t + 10000 * msec)).devReset := by
  change Host.Outcome.next s.heldStart = _
  rw [State.heldStart, hheld, hbelow]

/-- A device reset that is held. -/
def State.resetHeld (u : State) : State := ({ u with sxt := { u.sxt with heldReset := true } } : State).setFld F.SXT_RESET_STATUS_HELD 1

section Reset
variable {s u : State} (hlife : s.pow.life = .running ∨ s.pow.life = .recovery ∨ s.pow.life = .ended)
  (hu : u = (s.setFld F.SXT_RESET_CTRL_ACTION 2).setFld F.SXT_RESET_CTRL_BUSY 1)
include hlife hu

theorem State.deviceResetGo_asks : s.deviceResetGo =
    if u.devResetAsked.2 then (u.devResetAsked.1.setFld F.SXT_RESET_CTRL_BUSY 0).setFld F.SXT_RESET_CTRL_STATUS 0xB0
    else u.devResetAsked.1 := by
  rcases hlife with h | h | h <;>
    simp only [State.deviceResetGo, h, reduceCtorEq, Bool.false_and, Bool.false_eq_true, or_self, if_false, ← hu]

theorem exec_deviceReset_starts (hlevel : u.fld F.SXT_STATUS_LEVEL < 2) (hheld : s.sxt.heldReset = false) :
    exec .deviceReset s = .next u.devReset := by
  have hstart : ¬(2 ≤ u.fld F.SXT_STATUS_LEVEL ∨ u.sxt.heldReset = true) := by
    have huheld : u.sxt.heldReset = false := by rw [hu]; exact hheld
    rw [huheld]
    exact fun h => h.elim (Nat.not_le.mpr hlevel) Bool.false_ne_true
  change Host.Outcome.next s.deviceResetGo = _
  rw [State.deviceResetGo_asks hlife hu, State.devResetAsked, if_neg hstart]
  rfl

theorem exec_deviceReset_held (hlevel : 2 ≤ u.fld F.SXT_STATUS_LEVEL) :
    exec .deviceReset s = .next ((u.resetHeld.setFld F.SXT_RESET_CTRL_BUSY 0).setFld F.SXT_RESET_CTRL_STATUS 0xB0) := by
  change Host.Outcome.next s.deviceResetGo = _
  rw [State.deviceResetGo_asks hlife hu, State.devResetAsked, if_pos (Or.inl hlevel)]
  rfl

theorem deviceReset_held (hlevel : 2 ≤ u.fld F.SXT_STATUS_LEVEL) : ∃ t, exec .deviceReset s = .next t ∧ t.sxt.heldReset = true ∧ t.pow = s.pow ∧
    t.fld F.SXT_RESET_CTRL_STATUS = 0xB0 ∧ t.fld F.SXT_RESET_CTRL_BUSY = 0 ∧ t.fld F.SXT_RESET_STATUS_HELD = 1 := by
  refine ⟨_, exec_deviceReset_held hlife hu hlevel, rfl, by rw [hu]; rfl, ?_, ?_, ?_⟩
  · exact State.fld_setFld_self _ F.SXT_RESET_CTRL_STATUS _ _ (by decide) (by decide)
  · rw [State.fld_setFld_beside _ F.SXT_RESET_CTRL_STATUS F.SXT_RESET_CTRL_BUSY _ _ rfl (by decide) (by decide) (by decide) (by decide)]
    exact State.fld_setFld_self _ F.SXT_RESET_CTRL_BUSY _ _ (by decide) (by decide)
  · rw [State.fld_setFld_ne _ F.SXT_RESET_CTRL_STATUS F.SXT_RESET_STATUS_HELD _ _ _ (by decide),
      State.fld_setFld_ne _ F.SXT_RESET_CTRL_BUSY F.SXT_RESET_STATUS_HELD _ _ _ (by decide)]
    exact State.fld_setFld_self _ F.SXT_RESET_STATUS_HELD _ _ (by decide) (by decide)

end Reset

/-! ### Compute resets and unit restarts (R552, R555) -/

/-- The registers in which a compute reset reports its end. -/
def State.computeNoted (x : State) (cause : Nat) : State :=
  ((((({ x with computeCause := none } : State).addFld F.SXT_RESET_STATUS_COMPUTE_RESETS 1).setFld F.SXT_RESET_STATUS_LAST_ACTION 1).setFld
    F.SXT_RESET_STATUS_LAST_CAUSE cause).setFld F.SXT_RESET_STATUS_LAST_MS 0)

/-- The end of one, which answers SXT_RESET_CTRL where the operator requested it. -/
def State.computeEnded (x : State) (cause : Nat) : State :=
  if cause = 0 then (((x.computeNoted cause).setFld F.SXT_RESET_CTRL_ACTION 1).setFld F.SXT_RESET_CTRL_BUSY 0).setFld F.SXT_RESET_CTRL_STATUS 0
  else x.computeNoted cause

theorem State.computeReset_ends (s : State) (hrun : s.running = true) : ∃ x : State, s.computeReset = x.computeEnded (s.computeCause.getD 0) := by
  have hgo : ¬(!s.running) = true := by rw [hrun]; exact Bool.false_ne_true
  exact ⟨_, if_neg hgo⟩

theorem State.computeEnded_cause (x : State) (cause : Nat) : (x.computeEnded cause).computeCause = none := by
  unfold State.computeEnded
  split <;> rfl

/-- SXT_RESET_CTRL apart, the end of a compute reset leaves what it reports. -/
theorem State.fld_computeEnded (x : State) (cause : Nat) (f : Fld) (hctrl : regKey f.reg 0 ≠ regKey F.SXT_RESET_CTRL_BUSY.reg 0) :
    (x.computeEnded cause).fld f = (x.computeNoted cause).fld f := by
  unfold State.computeEnded
  split
  · rw [State.fld_setFld_ne _ F.SXT_RESET_CTRL_STATUS f _ _ _ hctrl, State.fld_setFld_ne _ F.SXT_RESET_CTRL_BUSY f _ _ _ hctrl,
      State.fld_setFld_ne _ F.SXT_RESET_CTRL_ACTION f _ _ _ hctrl]
  · rfl

theorem State.fld_computeNoted_action (x : State) (cause : Nat) : (x.computeNoted cause).fld F.SXT_RESET_STATUS_LAST_ACTION = 1 := by
  rw [State.computeNoted, State.fld_setFld_beside _ F.SXT_RESET_STATUS_LAST_MS F.SXT_RESET_STATUS_LAST_ACTION _ _ rfl (by decide) (by decide)
    (by decide) (by decide), State.fld_setFld_beside _ F.SXT_RESET_STATUS_LAST_CAUSE F.SXT_RESET_STATUS_LAST_ACTION _ _ rfl (by decide)
    (by decide) (by decide) (by decide)]
  exact State.fld_setFld_self _ F.SXT_RESET_STATUS_LAST_ACTION _ _ (by decide) (by decide)

theorem State.fld_computeNoted_cause (x : State) (cause : Nat) :
    (x.computeNoted cause).fld F.SXT_RESET_STATUS_LAST_CAUSE = cause % 2 ^ 16 := by
  rw [State.computeNoted, State.fld_setFld_beside _ F.SXT_RESET_STATUS_LAST_MS F.SXT_RESET_STATUS_LAST_CAUSE _ _ rfl (by decide) (by decide)
    (by decide) (by decide)]
  exact State.fld_setFld_self _ F.SXT_RESET_STATUS_LAST_CAUSE _ _ (by decide) (by decide)

theorem State.fld_computeNoted_ms (x : State) (cause : Nat) : (x.computeNoted cause).fld F.SXT_RESET_STATUS_LAST_MS = 0 :=
  State.fld_setFld_self _ F.SXT_RESET_STATUS_LAST_MS _ _ (by decide) (by decide)

theorem State.flag_computeEnded_busy (x : State) : (x.computeEnded 0).flag F.SXT_RESET_CTRL_BUSY = false := by
  have hbusy : (x.computeEnded 0).fld F.SXT_RESET_CTRL_BUSY = 0 := by
    rw [State.computeEnded, if_pos rfl, State.fld_setFld_beside _ F.SXT_RESET_CTRL_STATUS F.SXT_RESET_CTRL_BUSY _ _ rfl (by decide) (by decide)
      (by decide) (by decide)]
    exact State.fld_setFld_self _ F.SXT_RESET_CTRL_BUSY _ _ (by decide) (by decide)
  rw [State.flag, hbusy]
  rfl

theorem computeReset_ends (s : State) (hrun : s.running = true) : ∃ t, exec .computeReset s = .next t ∧ t.computeCause = none ∧
    t.fld F.SXT_RESET_STATUS_LAST_ACTION = 1 ∧ t.fld F.SXT_RESET_STATUS_LAST_CAUSE = s.computeCause.getD 0 % 2 ^ 16 ∧
    t.fld F.SXT_RESET_STATUS_LAST_MS = 0 ∧ (s.computeCause = none → t.flag F.SXT_RESET_CTRL_BUSY = false) := by
  obtain ⟨x, hx⟩ := s.computeReset_ends hrun
  refine ⟨_, congrArg Host.Outcome.next hx, x.computeEnded_cause _, ?_, ?_, ?_, fun hcause => ?_⟩
  · rw [x.fld_computeEnded _ _ (by decide), x.fld_computeNoted_action]
  · rw [x.fld_computeEnded _ _ (by decide), x.fld_computeNoted_cause]
  · rw [x.fld_computeEnded _ _ (by decide), x.fld_computeNoted_ms]
  · rw [hcause]
    exact x.flag_computeEnded_busy

theorem exec_unitRestart (s u : State) (v : Nat) (w : Word) (ok : Bool) (hrun : s.running = true) (hbusy : s.flag F.SXT_RESET_CTRL_BUSY = false)
    (hw : w = BitVec.ofNat 64 v)
    (hu : u = (((s.setFld F.SXT_RESET_CTRL_ACTION 3).setFld F.SXT_RESET_CTRL_UNIT_CLASS (F.SXT_RESET_CTRL_UNIT_CLASS.get w)).setFld
      F.SXT_RESET_CTRL_UNIT_INDEX (F.SXT_RESET_CTRL_UNIT_INDEX.get w)).setFld F.SXT_RESET_CTRL_FORCE (F.SXT_RESET_CTRL_FORCE.get w)) :
    exec (.unitRestart v ok) s = .next (u.sxtServe fun s => s.restartUnit
      ⟨F.SXT_RESET_CTRL_UNIT_CLASS.get w, F.SXT_RESET_CTRL_UNIT_INDEX.get w⟩ (F.SXT_RESET_CTRL_FORCE.get w == 1) ok) := by
  change Host.Outcome.next (s.unitRestart v ok) = _
  simp only [State.unitRestart, hrun, hbusy, Bool.not_true, Bool.or_self, Bool.false_eq_true, if_false, ← hw, ← hu]

/-! ### Map operations and health (R562, R563, R580) -/

theorem State.mapGo_idle (s : State) (op : Nat) (force : Bool) (f : State → State) (hrun : s.running = true)
    (hbusy : s.flag F.GLB_MAP_CTRL_BUSY = false) :
    s.mapGo op force f = ((s.setFld F.GLB_MAP_CTRL_OP op).setFld F.GLB_MAP_CTRL_FORCE (b2n force)).sxtServe f := by
  simp only [State.mapGo, hrun, hbusy, Bool.not_true, Bool.or_self, Bool.false_eq_true, if_false]

theorem exec_healthWindow (s u : State) (l : List (Nat × Nat)) (hawake : s.awake = true)
    (hu : u = s.advanceTo (s.sxt.healthAt + s.fld F.SXT_HEALTH_CTRL_WINDOW_S * 1000 * msec)) :
    exec (.healthWindow l) s = .next { (rangeFrom 0 24).foldl State.scorePart (l.foldl (fun (s : State) p =>
      s.health (p.1 / 8) (p.1 % 8) p.2) { u with sxt := { u.sxt with healthAt := u.now } }) with hcounts := [] } := by
  change Host.Outcome.next (s.healthWindow l) = _
  simp only [State.healthWindow, hawake, Bool.not_true, Bool.false_eq_true, if_false, ← hu]

theorem exec_healthClear (s : State) (hawake : s.awake = true) (hpart : s.fld F.SXT_HEALTH_SEL_PART < 24) :
    exec .healthClear s = .next (s.setScore (s.fld F.SXT_HEALTH_SEL_PART) 0) := by
  change Host.Outcome.next s.healthClear = _
  simp only [State.healthClear, hawake, decide_eq_true hpart, Bool.and_self, if_true]

/-- Settles O33: power, boot, losses, resets, map operations and health scoring, each by the rule of its command. -/
theorem bootAndResetCommandsComplete : Obligations.BootAndResetCommandsComplete := by
  refine ⟨exec_powerOn, fun s t u v n k a b c d ht hu hlife => ⟨fun hnone => ?_, fun h useB hflash hpick hv => ⟨fun hsel => ?_, fun role hsel => ?_⟩⟩,
    deviceBoot_runs, fun s u k hlife hu => ⟨exec_railSample_fails hlife hu, exec_railSample_next hlife hu, railSample_powers hlife hu⟩,
    fun s hpower => ⟨s.powerOff, rfl, rfl, exec_clockLoss_reference s, s.powerOff_keeps hpower⟩, exec_d2dFault, exec_pwrokMainFall,
    exec_clockLoss, exec_clockReturn, exec_heldResetStart, fun s u hlife hu => ⟨fun hlevel hheld => ?_, deviceReset_held hlife hu⟩,
    computeReset_ends, exec_unitRestart, fun s force ok hrun hbusy => ⟨?_, ?_⟩, exec_healthWindow, exec_healthClear⟩
  · rw [exec_deviceBoot_rom s n a b c d hlife, State.bootRom_noHeader ht hu a b hnone]
  · rw [exec_deviceBoot_rom s n a b c d hlife, State.bootRom_noSlot ht hu hflash hpick hv a b hsel]
  · rw [exec_deviceBoot_rom s n a b c d hlife, State.bootRom_slot ht hu hflash hpick hv a b hsel]
  · exact ⟨exec_deviceReset_starts hlife hu hlevel hheld, rfl, rfl⟩
  · exact congrArg Host.Outcome.next (s.mapGo_idle 1 force _ hrun hbusy)
  · exact congrArg Host.Outcome.next (s.mapGo_idle 2 force _ hrun hbusy)

end Sys2Proof.Machine
end

/-! ## PROOFS of the family of completions: power comes up in order (R491, R597). -/

section
namespace Sys2Proof.Machine

/-! ### The slot that the boot ROM selects (R485, R492) -/

/-- Load checks that a slot passes are made on both its images. -/
theorem State.images_of_slotChecks (s : State) (k : Nat) (h : (s.slotChecks k).1 = almOk) :
    ∃ fw cfg, (s.flashSlot k).fw = some fw ∧ (s.flashSlot k).cfg = some cfg := by
  have hinvalid : almSigInvalid ≠ almOk := by decide
  unfold State.slotChecks State.checkImages at h
  cases hfw : (s.flashSlot k).fw with
  | none =>
    rw [hfw] at h
    exact absurd h hinvalid
  | some fw =>
    cases hcfg : (s.flashSlot k).cfg with
    | none =>
      rw [hfw, hcfg] at h
      exact absurd h hinvalid
    | some cfg => exact ⟨fw, cfg, rfl, rfl⟩

/-- A slot whose checks are noted keeps its images. -/
theorem State.flashSlot_noteSlot (s : State) (k : Nat) (ok : Bool) : ((s.noteSlot k ok).flashSlot k).fw = (s.flashSlot k).fw ∧
    ((s.noteSlot k ok).flashSlot k).cfg = (s.flashSlot k).cfg := by
  unfold State.noteSlot
  simp only [State.flashSlot, Tab.get?_set_self, Option.getD_some, and_self]

theorem State.selectFrom_images (l : List (Nat × Nat)) (s : State) (k role : Nat) (h : (s.selectFrom l).2 = some (k, role)) :
    ∃ fw cfg, ((s.selectFrom l).1.flashSlot k).fw = some fw ∧ ((s.selectFrom l).1.flashSlot k).cfg = some cfg := by
  induction l generalizing s with
  | nil => exact absurd h (Option.some_ne_none _).symm
  | cons p l ih =>
    by_cases hok : (s.slotChecks p.1).1 = almOk
    · rw [State.selectFrom, if_pos hok] at h ⊢
      obtain rfl : p = (k, role) := Option.some.inj h
      obtain ⟨fw, cfg, hfw, hcfg⟩ := s.images_of_slotChecks k hok
      obtain ⟨hkeepFw, hkeepCfg⟩ := s.flashSlot_noteSlot k true
      exact ⟨fw, cfg, hkeepFw.trans hfw, hkeepCfg.trans hcfg⟩
    · rw [State.selectFrom, if_neg hok] at h ⊢
      exact ih _ h

/-! ### The first enable (R491, R597) -/

/-- A device whose boot ROM has raised the first enable. -/
def State.firstEnable (x : State) : State := { x.setBoot 2 with pow := { x.pow with life := .rail 0, enables := 1, railAt := x.now } }

theorem State.fld_firstEnable (x : State) (f : Fld) : x.firstEnable.fld f = (x.setBoot 2).fld f := rfl

theorem State.bootSlot_ends (s : State) (k role : Nat) {fw cfg : Image} (hfw : (s.flashSlot k).fw = some fw)
    (hcfg : (s.flashSlot k).cfg = some cfg) : ∃ x : State, s.bootSlot k role = x.firstEnable := by
  unfold State.bootSlot
  rw [hfw, hcfg]
  exact ⟨_, rfl⟩

theorem powerOn_begins (s : State) (p : DevParts) (hoff : s.pow.life = .off) : ∃ t, exec (.powerOn p) s = .next t ∧ t.pow.life = .boot ∧
    t.now = 0 ∧ t.pow.enables = 0 ∧ t.alm.fitted = true ∧ t.pending = s.pending := by
  refine ⟨_, exec_powerOn s p hoff, rfl, rfl, rfl, ?_, ?_⟩
  · change (if s.alm.fitted = true then s else s.fit p).alm.fitted = true
    split
    case isTrue hfitted => exact hfitted
    case isFalse => rfl
  · change (if s.alm.fitted = true then s else s.fit p).pending = s.pending
    split <;> rfl

theorem deviceBoot_raises (s u v : State) (h : BootHdr) (b : Bool) (n sp w sp' w' k role : Nat) (hlife : s.pow.life = .boot)
    (hu : u = (s.wakeCores.logResume.setBoot 1).showFuses) (hflash : u.alm.flashOk = true) (hA : (validHdr u.alm.hdrA).isSome = true)
    (hB : (validHdr u.alm.hdrB).isSome = true) (hpick : pickHdr u.alm.hdrA u.alm.hdrB = some (h, b))
    (hv : v = ({ u with alm := { u.alm with hdr := h, useB := b } } : State).showHdr.trialStep)
    (hsel : (v.selectFrom (bootOrder v.alm.hdr)).2 = some (k, role)) : ∃ t, exec (.deviceBoot n sp w sp' w') s = .next t ∧ t.pow.life = .rail 0 ∧
      t.pow.enables = 1 ∧ t.pow.railAt = t.now ∧ t.fld F.GLB_STATUS_BOOT_STATE = 2 := by
  have hvalid : (u.alm.flashOk && (validHdr u.alm.hdrA).isSome && (validHdr u.alm.hdrB).isSome) = true := by rw [hflash, hA, hB]; rfl
  obtain ⟨fw, cfg, hfw, hcfg⟩ := State.selectFrom_images _ v k role hsel
  obtain ⟨x, hx⟩ := State.bootSlot_ends _ k role hfw hcfg
  have hboot : s.bootRom sp w = x.firstEnable := (State.bootRom_slot hu (if_pos hvalid).symm hflash hpick hv sp w hsel).trans hx
  refine ⟨x.firstEnable, (exec_deviceBoot_rom s n sp w sp' w' hlife).trans (congrArg Host.Outcome.next hboot), rfl, rfl, rfl, ?_⟩
  rw [State.fld_firstEnable, State.fld_setBoot_glb]

/-- Settles O56: the lives of a device in the order in which power comes up. -/
theorem powerComesUpInOrder : Obligations.PowerComesUpInOrder := by
  refine ⟨powerOn_begins, deviceBoot_raises, fun s k hlife => ⟨fun hk => ?_, fun hk => ?_⟩, fun s n sp w sp' w' hlife => ?_⟩
  · exact ⟨_, exec_railSample_next hlife rfl hk, rfl, rfl, rfl, rfl⟩
  · refine ⟨_, exec_railSample_last hlife rfl (Nat.le_of_eq hk.symm), rfl, rfl, ?_⟩
    rw [State.fld_sectionsUp, State.fld_setBoot_glb]
  · obtain ⟨t, hstep, hrunning, hstate, _⟩ := deviceBoot_runs s n sp w sp' w' hlife
    exact ⟨t, hstep, hrunning, hstate⟩

end Sys2Proof.Machine
end

/-! ## PROOFS of the family of completions: losses of supplies, clocks and the die-to-die link (R28, R591, R598, R599). -/

section
namespace Sys2Proof.Machine

/-! ### What posted entries and frames of the Meridian leave (R467, R507, R548) -/

theorem OnlyNotes.pow {s t : State} (h : OnlyNotes s t) : t.pow = s.pow := by
  unfold OnlyNotes at h
  rw [h]

theorem OnlyNotes.mer {s t : State} (h : OnlyNotes s t) : t.mer = s.mer := by
  unfold OnlyNotes at h
  rw [h]

theorem OnlyNotes.frameSent (s : State) (sp level bytes : Nat) : OnlyNotes s (s.frameSent sp level bytes) :=
  (((addFld s _ _ _).trans (count _ _ _ _)).trans (count _ _ _ _)).trans (count _ _ _ _)

theorem OnlyNotes.merSend (s : State) (sp kind : Nat) (fields : List Nat) : OnlyNotes s (s.merSend sp kind fields) :=
  (send s _).trans (frameSent _ _ _ _)

/-- A new choice of the frequency source writes the source and its QL, and sends. -/
theorem State.freqSelect_notes (s : State) : ∃ m : MerUnit, m.ref10 = s.mer.ref10 ∧ OnlyNotes { s with mer := m } s.freqSelect := by
  refine ⟨{ s.mer with freqSrc := s.freqPick, ql := s.sourceQl s.freqPick }, rfl, ?_⟩
  unfold State.freqSelect
  extract_lets old src ql changed u
  split
  · exact (OnlyNotes.count u _ _ _).trans (OnlyNotes.foldl _ (fun x sp => OnlyNotes.merSend x sp 6 [ql]) _ _)
  · exact .refl _

theorem State.freqSelect_pow (s : State) : s.freqSelect.pow = s.pow := by
  obtain ⟨m, _, hnotes⟩ := s.freqSelect_notes
  exact hnotes.pow

theorem State.freqSelect_ref10 (s : State) : s.freqSelect.mer.ref10 = s.mer.ref10 := by
  obtain ⟨m, hm, hnotes⟩ := s.freqSelect_notes
  rw [hnotes.mer]
  exact hm

/-! ### The losses -/

theorem powerLoss_ends (s : State) (c : Instr) (i : Nat) (rx : List (Nat × EthFrame × Nat)) (hpower : s.pow.life ≠ .off)
    (hc : c ∈ [Instr.plannedRemoval, .supplyLoss, .clockLoss 0 i rx]) : ∃ t, exec c s = .next t ∧ t.pow.life = .off ∧ t.mem = [] ∧
      t.hbmKeys = [] ∧ t.alm.slots = s.alm.slots ∧ t.log.mirror = s.log.mirror := by
  have hexec : exec c s = .next s.powerOff := by
    simp only [List.mem_cons, List.not_mem_nil, or_false] at hc
    rcases hc with rfl | rfl | rfl <;> rfl
  obtain ⟨hpow, hmem, hmirror, hslots, _, _⟩ := s.powerOff_keeps hpower
  refine ⟨s.powerOff, hexec, ?_, hmem, ?_, hslots, hmirror⟩
  · rw [hpow]
    rfl
  · rw [State.powerOff, if_neg hpower]
    rfl

theorem d2dFault_ends (s : State) (hdies : s.pow.life = .running ∨ s.pow.life = .powered) : ∃ t, exec .d2dFault s = .next t ∧
    t.pow.life = .ended ∧ t.pow.enables = s.pow.enables ∧ t.runs = [] ∧ t.cells = [] ∧ t.rings = [] ∧ t.insts = [] := by
  have hen : (s.faultRecord { FaultRec.of 0x0502 7 with ucls := ucD2d }).pow.enables = s.pow.enables :=
    congrArg PowUnit.enables (OnlyNotes.faultRecord s _).pow
  exact ⟨_, exec_d2dFault s hdies, rfl, hen, rfl, rfl, rfl, rfl⟩

/-- The end of service at a rail failure, before its log entry. -/
def State.railsDown (s : State) : State := (s.endService false).railsOff true

theorem pwrokMainFall_ends (s : State) (hen : s.pow.enables = 7) : ∃ t, exec .pwrokMainFall s = .next t ∧ t.pow.life = .ended ∧
    t.pow.enables = 0 ∧ t.pow.fatalPin = true ∧ t.sxt.fatal = true ∧ t.flag F.SXT_ALERT_SENSOR_FATAL = true := by
  have hpow : (s.railsDown.logEvent 0x0013 3 (toLe 1 3)).pow = s.railsDown.pow := (OnlyNotes.logEvent _ _ _ _ _).pow
  refine ⟨s.railFail 3, exec_pwrokMainFall s hen, congrArg PowUnit.life hpow, congrArg PowUnit.enables hpow, ?_, rfl, ?_⟩
  · refine (congrArg PowUnit.fatalPin hpow).trans ?_
    exact Bool.or_true _
  · have hraise : ((s.railsDown.logEvent 0x0013 3 (toLe 1 3)).raise F.SXT_ALERT_SENSOR_FATAL).fld F.SXT_ALERT_SENSOR_FATAL = 1 :=
      State.fld_raise_self _ F.SXT_ALERT_SENSOR_FATAL 0 (by decide) (by decide)
    exact beq_iff_eq.mpr hraise

/-! ### The return of a clock -/

theorem clockReturn_trains (s : State) (k i sp w : Nat) (hk : k ≤ 4) (hi : i < [1, 4, 2, 2, 1].getD k 1) (hlost : s.clockLost k i = true) :
    ∃ t, exec (.clockReturn k i sp w) s = .next t ∧
    (k ≠ 3 → t.pow = { s.pow with lost := s.pow.lost.erase (k * 16 + i) }) ∧ (k = 4 → t.mer.ref10 = true) ∧
    (k = 3 → t = (if s.fld F.GLB_STATUS_BOOT_STATE ≥ 3 then
      ({ s with pow := { s.pow with lost := s.pow.lost.erase (k * 16 + i) } } : State).linkState i (w != 0) sp w
      else { s with pow := { s.pow with lost := s.pow.lost.erase (k * 16 + i) } })) := by
  refine ⟨_, exec_clockReturn s _ k i sp w hk hi hlost rfl, fun hne => ?_, fun hfour => ?_, fun hthree => ?_⟩
  · rw [if_neg hne]
    split
    · exact State.freqSelect_pow _
    · rfl
  · rw [if_neg (by omega), if_pos hfour]
    exact State.freqSelect_ref10 _
  · exact if_pos hthree

/-- Settles O57: each loss by the state that its command answers, a returning clock by the input's kind. -/
theorem lossesActAtOnce : Obligations.LossesActAtOnce :=
  ⟨powerLoss_ends, d2dFault_ends, pwrokMainFall_ends, exec_clockLoss, clockReturn_trains⟩

end Sys2Proof.Machine
end

/-! ## PROOFS of the family of completions: map operations and health scores (R562, R563, R580). -/

section
namespace Sys2Proof.Machine

/-! ### Map operations (R580) -/

theorem State.fld_mapAnswer_status (s : State) : (s.mapAnswer 0).fld F.GLB_MAP_CTRL_STATUS = 0 :=
  State.fld_setFld_self _ F.GLB_MAP_CTRL_STATUS _ _ (by decide) (by decide)

theorem State.fld_mapAnswer_busy (s : State) (status : Nat) : (s.mapAnswer status).fld F.GLB_MAP_CTRL_BUSY = 0 := by
  rw [State.mapAnswer, State.fld_setFld_beside _ F.GLB_MAP_CTRL_STATUS F.GLB_MAP_CTRL_BUSY _ _ rfl (by decide) (by decide) (by decide) (by decide)]
  exact State.fld_setFld_self _ F.GLB_MAP_CTRL_BUSY _ _ (by decide) (by decide)

section Operation
variable {w : State} {force : Bool} (hclass : restartable w.selUnit = true) (hfree : w.removalStatus w.selUnit force = 0)
include hclass hfree

theorem State.mapDisableOp_leaves (hon : w.unitOff w.selUnit = false) (hmore : w.lastOne w.selUnit = false) :
    w.mapDisableOp force = (w.unitLost w.selUnit 0x0603).mapAnswer 0 := by
  simp only [State.mapDisableOp, hclass, hon, hmore, hfree, Bool.not_true, Bool.or_self, Bool.false_eq_true, ne_eq, not_true_eq_false,
    if_false]

theorem State.mapEnableOp_returns (hfuse : layerHas w.mapFuse w.selUnit = false) (halm : layerHas w.mapAlm w.selUnit = false)
    (hruntime : Tab.has w.mapRun w.selUnit.key = true) : w.mapEnableOp force true = (w.unitBack w.selUnit).mapAnswer 0 := by
  simp only [State.mapEnableOp, hclass, hfuse, halm, hruntime, hfree, Bool.not_true, Bool.or_self, Bool.false_eq_true, ne_eq,
    not_true_eq_false, if_false, if_true]

end Operation

section Map
variable {s w : State} {force : Bool} {op : Nat} (hrun : s.running = true) (hbusy : s.flag F.GLB_MAP_CTRL_BUSY = false)
  (hboot : bootRunning ≤ s.fld F.GLB_STATUS_BOOT_STATE) (hcore : s.fld F.SXT_STATUS_CORE_STATE < 2)
  (hw : w = (({ (s.setFld F.GLB_MAP_CTRL_OP op).setFld F.GLB_MAP_CTRL_FORCE (b2n force) with sxt := { s.sxt with workAt := s.now } } : State).setFld
      F.SXT_STATUS_CORE_STATE 1))
include hrun hbusy hboot hcore hw

theorem State.mapGo_served (f : State → State) : s.mapGo op force f = f w := by
  have hkeep : ∀ g : Fld, regKey g.reg 0 ≠ regKey F.GLB_MAP_CTRL_OP.reg 0 →
      ((s.setFld F.GLB_MAP_CTRL_OP op).setFld F.GLB_MAP_CTRL_FORCE (b2n force)).fld g = s.fld g := fun g hg =>
    (State.fld_setFld_ne (s.setFld F.GLB_MAP_CTRL_OP op) F.GLB_MAP_CTRL_FORCE g (b2n force) 0 0 hg).trans
      (State.fld_setFld_ne s F.GLB_MAP_CTRL_OP g op 0 0 hg)
  rw [State.mapGo_idle s op force f hrun hbusy, State.sxtServe_of_serving _ f (by rw [hkeep _ (by decide)]; exact hboot)
    (by rw [hkeep _ (by decide)]; exact hcore), hw]
  rfl

variable (hclass : restartable w.selUnit = true) (hfree : w.removalStatus w.selUnit force = 0)
include hclass hfree

theorem disable_leaves (hop : op = 1) (hon : w.unitOff w.selUnit = false) (hmore : w.lastOne w.selUnit = false) :
    ∃ t, exec (.disable force) s = .next t ∧ t = (w.unitLost w.selUnit 0x0603).mapAnswer 0 ∧ t.fld F.GLB_MAP_CTRL_STATUS = 0 ∧
      t.fld F.GLB_MAP_CTRL_BUSY = 0 := by
  subst hop
  have hgo := (State.mapGo_served hrun hbusy hboot hcore hw fun s => s.mapDisableOp force).trans
    (State.mapDisableOp_leaves hclass hfree hon hmore)
  exact ⟨_, congrArg Host.Outcome.next hgo, rfl, State.fld_mapAnswer_status _, State.fld_mapAnswer_busy _ 0⟩

theorem enable_returns (hop : op = 2) (hfuse : layerHas w.mapFuse w.selUnit = false) (halm : layerHas w.mapAlm w.selUnit = false)
    (hruntime : Tab.has w.mapRun w.selUnit.key = true) :
    ∃ t, exec (.enable force true) s = .next t ∧ t = (w.unitBack w.selUnit).mapAnswer 0 ∧ t.fld F.GLB_MAP_CTRL_STATUS = 0 ∧
      t.fld F.GLB_MAP_CTRL_BUSY = 0 := by
  subst hop
  have hgo := (State.mapGo_served hrun hbusy hboot hcore hw fun s => s.mapEnableOp force true).trans
    (State.mapEnableOp_returns hclass hfree hfuse halm hruntime)
  exact ⟨_, congrArg Host.Outcome.next hgo, rfl, State.fld_mapAnswer_status _, State.fld_mapAnswer_busy _ 0⟩

end Map

/-! ### Health scores (R563) -/

/-- A log entry writes SXT_LOG_HEAD and SXT_STATUS alone. -/
theorem State.fld_logEvent_ne (s : State) (cause sev : Nat) (body : List Byte) (fault : Bool) (f : Fld) (i : Nat)
    (hhead : regKey f.reg i ≠ regKey F.SXT_LOG_HEAD_NEXT_SEQ.reg 0) (hstatus : regKey f.reg i ≠ regKey F.SXT_STATUS_LOG_DROPPED.reg 0) :
    (s.logEvent cause sev body fault).fld f i = s.fld f i := by
  have hlogged : ∀ e, (s.logged e).fld f i = s.fld f i := fun e => by
    rw [State.logged, State.addFld, State.fld_setFld_ne _ F.SXT_LOG_HEAD_NEXT_SEQ f _ 0 i hhead, State.fld_count]
    rfl
  have hdrop : ∀ e, (s.loggedDrop e).fld f i = s.fld f i := fun e => by
    unfold State.loggedDrop
    split
    · rw [State.fld_count, State.satFld, State.fld_setFld_ne _ F.SXT_STATUS_LOG_DROPPED f _ 0 i hstatus, hlogged e]
    · exact hlogged e
  rw [State.logEvent_eq, ← hdrop (s.mkEntry cause sev fault body)]
  extract_lets u
  split
  · rw [State.fld_count, State.fld_send]
  · rfl

/-- The score set is the score read. -/
theorem State.fld_setScore (s : State) (q score : Nat) : (s.setScore q score).fld F.SXT_HEALTH_SCORE q = score % 2 ^ 32 := by
  have hset : ((s.setFld F.SXT_HEALTH_SCORE score q).setFld F.SXT_HEALTH_LEVEL (s.healthLevel q score) q).fld F.SXT_HEALTH_SCORE q = score % 2 ^ 32 :=
    (State.fld_setFld_beside _ F.SXT_HEALTH_LEVEL F.SXT_HEALTH_SCORE _ _ rfl (by decide) (by decide) (by decide) (by decide)).trans
      (State.fld_setFld_self _ F.SXT_HEALTH_SCORE _ _ (by decide) (by decide))
  unfold State.setScore
  extract_lets old new u
  split
  · rw [State.fld_logEvent_ne]
    · exact hset
    · change 2 ^ 40 * q + 0x101018 ≠ 2 ^ 40 * 0 + 0x100038
      omega
    · change 2 ^ 40 * q + 0x101018 ≠ 2 ^ 40 * 0 + 0x100008
      omega
  · exact hset

/-- Settles O59: a map operation comes to its unit with nothing against it, and a score set to 0 reads 0. -/
theorem mapOperationsAndHealthRunToTheirEnd : Obligations.MapOperationsAndHealthRunToTheirEnd := by
  refine ⟨fun s w force op hrun hbusy hboot hcore hw hclass hfree => ⟨disable_leaves hrun hbusy hboot hcore hw hclass hfree,
    enable_returns hrun hbusy hboot hcore hw hclass hfree⟩, fun s u l hawake hu => ⟨_, exec_healthWindow s u l hawake hu, rfl, rfl⟩,
    fun s hawake hpart => ⟨_, exec_healthClear s hawake hpart, State.fld_setScore _ _ 0⟩⟩

end Sys2Proof.Machine
end
